-- ==== Sys2Proof/Syntax.lean ====
section
/-! DEFINITION. The words and the machine steps of the W672: one constructor of `Instr` for each row of the
opcode table, with the operands its encoding (or, for a machine step, its description) gives it. -/

namespace Sys2Proof

/-- A thread slot: die index, core and slot number (R4, R25). -/
structure Place where
  die  : Nat
  core : Nat
  slot : Nat
  deriving DecidableEq, Repr, Inhabited

/-- The guard of a word: bit 61 negates, bits 60:58 name a uniform predicate (R34). -/
structure Guard where
  neg : Bool
  q   : BitVec 3
  deriving DecidableEq, Repr, Inhabited

/-- Integer element width, mod bit 3 (R69). -/
inductive Width where
  | w32 | w16
  deriving DecidableEq, Repr, Inhabited

/-- Floating-point element type, mod bits 3:2 (R69). -/
inductive FTyp where
  | f32 | f16 | bf16
  deriving DecidableEq, Repr, Inhabited

/-- Rounding mode, coded 00, 01, 10, 11 (R69, R277). -/
inductive RMode where
  | rne | rz | rup | rdn
  deriving DecidableEq, Repr, Inhabited

/-- Condition of `vfcmp`, mod bits 1:0 (R69). -/
inductive FCond where
  | eq | lt | le | un
  deriving DecidableEq, Repr, Inhabited

/-- Conversion code of `vcvt` with one source (R70). -/
inductive CvtCode where
  | i32f32 | u32f32 | f32i32 | f32i32z | f32u32 | f32u32z | f16l | f16h | bf16l | bf16h
  deriving DecidableEq, Repr, Inhabited

/-- Conversion code of `vcvt` with two sources, 0110 and 0111 (R70). -/
inductive PairCode where
  | toF16 | toBf16
  deriving DecidableEq, Repr, Inhabited

/-- Operation of `vscan` (R70). -/
inductive ScanOp where
  | add | fadd | min | max | fmin | fmax
  deriving DecidableEq, Repr, Inhabited

/-- Operation of `vred` (R72). -/
inductive RedOp where
  | add | fadd | min | max | minu | maxu | fmin | fmax | and | or | xor
  deriving DecidableEq, Repr, Inhabited

/-- Element size of the strided and indexed vector accesses: 4, 2 or 1 bytes (R71). -/
inductive ESize where
  | s4 | s2 | s1
  deriving DecidableEq, Repr, Inhabited

/-- Kind of a fence (R142). -/
inductive FenceKind where
  | acq | rel | full
  deriving DecidableEq, Repr, Inhabited

/-- A Soloskic frame: the addresses and EtherType of its Ethernet frame, its 32-byte header and its body (R335, R336). -/
structure Frame where
  dst  : BitVec 48
  src  : BitVec 48
  etherType : BitVec 16
  w0   : BitVec 64
  w1   : BitVec 64
  w2   : BitVec 64
  w3   : BitVec 64
  body : List (BitVec 8)
  deriving DecidableEq, Repr, Inhabited

/-- What a start finds of the fabric and makes of it (R319, R364): the links that are down, and the routing tables firmware lays
around what is out of service, as die, destination and entry. -/
structure Fabric where
  down   : List (Nat × Nat)
  tables : List (Nat × Nat × Nat) := []
  deriving DecidableEq, Repr, Inhabited

/-- The words of the opcode map (R65 to R74) and the machine steps (spec/95), one constructor each. -/
inductive Instr where
  /-- Writes the 64-bit wrapping sum of two uniform registers (R80). -/
  | add (sd : BitVec 5) (sa : BitVec 5) (sb : BitVec 5)
  /-- Adds a sign-extended imm10 to a uniform register (R81). -/
  | addi (sd : BitVec 5) (sa : BitVec 5) (imm : BitVec 10)
  /-- Writes the 64-bit wrapping difference of two uniform registers (R80). -/
  | sub (sd : BitVec 5) (sa : BitVec 5) (sb : BitVec 5)
  /-- Writes the low 64 bits of the product of two uniform registers (R80). -/
  | mul (sd : BitVec 5) (sa : BitVec 5) (sb : BitVec 5)
  /-- Writes the signed high half of a 128-bit product (R80). -/
  | mulh (sd : BitVec 5) (sa : BitVec 5) (sb : BitVec 5)
  /-- Writes the unsigned high half of a 128-bit product (R80). -/
  | mulhu (sd : BitVec 5) (sa : BitVec 5) (sb : BitVec 5)
  /-- Bitwise and of two uniform registers (R80). -/
  | and (sd : BitVec 5) (sa : BitVec 5) (sb : BitVec 5)
  /-- Bitwise and with a zero-extended imm10 (R81). -/
  | andi (sd : BitVec 5) (sa : BitVec 5) (imm : BitVec 10)
  /-- Bitwise or of two uniform registers (R80). -/
  | or (sd : BitVec 5) (sa : BitVec 5) (sb : BitVec 5)
  /-- Bitwise or with a zero-extended imm10 (R81). -/
  | ori (sd : BitVec 5) (sa : BitVec 5) (imm : BitVec 10)
  /-- Bitwise xor of two uniform registers (R80). -/
  | xor (sd : BitVec 5) (sa : BitVec 5) (sb : BitVec 5)
  /-- Bitwise xor with a zero-extended imm10 (R81). -/
  | xori (sd : BitVec 5) (sa : BitVec 5) (imm : BitVec 10)
  /-- Shifts left by the low six bits of a register (R80). -/
  | shl (sd : BitVec 5) (sa : BitVec 5) (sb : BitVec 5)
  /-- Shifts left by an immediate of 0-63 (R81). -/
  | shli (sd : BitVec 5) (sa : BitVec 5) (imm : BitVec 10)
  /-- Logical right shift by the low six bits of a register (R80). -/
  | shr (sd : BitVec 5) (sa : BitVec 5) (sb : BitVec 5)
  /-- Logical right shift by an immediate (R81). -/
  | shri (sd : BitVec 5) (sa : BitVec 5) (imm : BitVec 10)
  /-- Arithmetic right shift by the low six bits of a register (R80). -/
  | sra (sd : BitVec 5) (sa : BitVec 5) (sb : BitVec 5)
  /-- Arithmetic right shift by an immediate (R81). -/
  | srai (sd : BitVec 5) (sa : BitVec 5) (imm : BitVec 10)
  /-- Signed minimum of two uniform registers (R80). -/
  | min (sd : BitVec 5) (sa : BitVec 5) (sb : BitVec 5)
  /-- Signed maximum of two uniform registers (R80). -/
  | max (sd : BitVec 5) (sa : BitVec 5) (sb : BitVec 5)
  /-- Unsigned minimum of two uniform registers (R80). -/
  | minu (sd : BitVec 5) (sa : BitVec 5) (sb : BitVec 5)
  /-- Unsigned maximum of two uniform registers (R80). -/
  | maxu (sd : BitVec 5) (sa : BitVec 5) (sb : BitVec 5)
  /-- Adds a register shifted left by the shift field to another register (R80). -/
  | addx (sd : BitVec 5) (sa : BitVec 5) (sb : BitVec 5) (sh : BitVec 5)
  /-- Counts leading zero bits (R81). -/
  | clz (sd : BitVec 5) (sa : BitVec 5)
  /-- Counts one bits (R81). -/
  | popc (sd : BitVec 5) (sa : BitVec 5)
  /-- Extracts a bit field whose position and width a register gives (R82). -/
  | bext (sd : BitVec 5) (sa : BitVec 5) (sb : BitVec 5)
  /-- Sign-extends from a bit width of 1-64 (R81). -/
  | sext (sd : BitVec 5) (sa : BitVec 5) (imm : BitVec 10)
  /-- Writes 1 when the first register is signed-less than the second (R80). -/
  | slt (sd : BitVec 5) (sa : BitVec 5) (sb : BitVec 5)
  /-- Writes 1 when the first register is unsigned-less than the second (R80). -/
  | sltu (sd : BitVec 5) (sa : BitVec 5) (sb : BitVec 5)
  /-- Sets a uniform predicate on register equality (R83). -/
  | qeq (qd : BitVec 3) (sa : BitVec 5) (sb : BitVec 5)
  /-- Sets a uniform predicate on register inequality (R83). -/
  | qne (qd : BitVec 3) (sa : BitVec 5) (sb : BitVec 5)
  /-- Sets a uniform predicate on signed less-than (R83). -/
  | qlt (qd : BitVec 3) (sa : BitVec 5) (sb : BitVec 5)
  /-- Sets a uniform predicate on unsigned less-than (R83). -/
  | qltu (qd : BitVec 3) (sa : BitVec 5) (sb : BitVec 5)
  /-- Sets a uniform predicate on signed less-or-equal (R83). -/
  | qle (qd : BitVec 3) (sa : BitVec 5) (sb : BitVec 5)
  /-- Sets a uniform predicate on unsigned less-or-equal (R83). -/
  | qleu (qd : BitVec 3) (sa : BitVec 5) (sb : BitVec 5)
  /-- Sets a uniform predicate on equality with a signed immediate (R83). -/
  | qeqi (qd : BitVec 3) (sa : BitVec 5) (imm : BitVec 10)
  /-- Sets a uniform predicate on signed less-than an immediate (R83). -/
  | qlti (qd : BitVec 3) (sa : BitVec 5) (imm : BitVec 10)
  /-- And of two uniform predicates (R84). -/
  | qand (qd : BitVec 3) (qa : BitVec 3) (qb : BitVec 3)
  /-- Or of two uniform predicates (R84). -/
  | qor (qd : BitVec 3) (qa : BitVec 3) (qb : BitVec 3)
  /-- Xor of two uniform predicates (R84). -/
  | qxor (qd : BitVec 3) (qa : BitVec 3) (qb : BitVec 3)
  /-- Negates a uniform predicate (R84). -/
  | qnot (qd : BitVec 3) (qa : BitVec 3)
  /-- Lane-wise integer add, wrapping or saturating (R104). -/
  | vadd (vd : BitVec 6) (va : BitVec 6) (vb : BitVec 6) (pm : BitVec 3) (w : Width) (uns : Bool) (sat : Bool)
  /-- Lane-wise integer subtract, wrapping or saturating (R104). -/
  | vsub (vd : BitVec 6) (va : BitVec 6) (vb : BitVec 6) (pm : BitVec 3) (w : Width) (uns : Bool) (sat : Bool)
  /-- Lane-wise integer multiply, low half (R104). -/
  | vmul (vd : BitVec 6) (va : BitVec 6) (vb : BitVec 6) (pm : BitVec 3) (w : Width)
  /-- Lane-wise signed multiply, high half (R104). -/
  | vmulh (vd : BitVec 6) (va : BitVec 6) (vb : BitVec 6) (pm : BitVec 3) (w : Width)
  /-- Lane-wise unsigned multiply, high half (R104). -/
  | vmulhu (vd : BitVec 6) (va : BitVec 6) (vb : BitVec 6) (pm : BitVec 3) (w : Width)
  /-- Lane-wise bitwise and (R104). -/
  | vand (vd : BitVec 6) (va : BitVec 6) (vb : BitVec 6) (pm : BitVec 3)
  /-- Lane-wise bitwise or (R104). -/
  | vor (vd : BitVec 6) (va : BitVec 6) (vb : BitVec 6) (pm : BitVec 3)
  /-- Lane-wise bitwise xor (R104). -/
  | vxor (vd : BitVec 6) (va : BitVec 6) (vb : BitVec 6) (pm : BitVec 3)
  /-- Lane-wise left shift (R104). -/
  | vshl (vd : BitVec 6) (va : BitVec 6) (vb : BitVec 6) (pm : BitVec 3) (w : Width)
  /-- Lane-wise logical right shift (R104). -/
  | vshr (vd : BitVec 6) (va : BitVec 6) (vb : BitVec 6) (pm : BitVec 3) (w : Width)
  /-- Lane-wise arithmetic right shift (R104). -/
  | vsra (vd : BitVec 6) (va : BitVec 6) (vb : BitVec 6) (pm : BitVec 3) (w : Width)
  /-- Lane-wise signed minimum (R104). -/
  | vmin (vd : BitVec 6) (va : BitVec 6) (vb : BitVec 6) (pm : BitVec 3) (w : Width)
  /-- Lane-wise signed maximum (R104). -/
  | vmax (vd : BitVec 6) (va : BitVec 6) (vb : BitVec 6) (pm : BitVec 3) (w : Width)
  /-- Lane-wise unsigned minimum (R104). -/
  | vminu (vd : BitVec 6) (va : BitVec 6) (vb : BitVec 6) (pm : BitVec 3) (w : Width)
  /-- Lane-wise unsigned maximum (R104). -/
  | vmaxu (vd : BitVec 6) (va : BitVec 6) (vb : BitVec 6) (pm : BitVec 3) (w : Width)
  /-- Selects each lane from va or vb by the mask predicate (R106). -/
  | vsel (vd : BitVec 6) (va : BitVec 6) (vb : BitVec 6) (pm : BitVec 3)
  /-- Writes each active lane the count of active lanes below it (R106). -/
  | viota (vd : BitVec 6) (pm : BitVec 3)
  /-- Lane-wise floating-point add (R108). -/
  | vfadd (vd : BitVec 6) (va : BitVec 6) (vb : BitVec 6) (pm : BitVec 3) (t : FTyp) (r : RMode)
  /-- Lane-wise floating-point subtract (R108). -/
  | vfsub (vd : BitVec 6) (va : BitVec 6) (vb : BitVec 6) (pm : BitVec 3) (t : FTyp) (r : RMode)
  /-- Lane-wise floating-point multiply (R108). -/
  | vfmul (vd : BitVec 6) (va : BitVec 6) (vb : BitVec 6) (pm : BitVec 3) (t : FTyp) (r : RMode)
  /-- Lane-wise fused multiply-add with vd as addend (R108). -/
  | vfma (vd : BitVec 6) (va : BitVec 6) (vb : BitVec 6) (pm : BitVec 3) (t : FTyp) (r : RMode)
  /-- Lane-wise fused multiply-subtract of vd (R108). -/
  | vfms (vd : BitVec 6) (va : BitVec 6) (vb : BitVec 6) (pm : BitVec 3) (t : FTyp) (r : RMode)
  /-- Lane-wise floating-point minimum (R110). -/
  | vfmin (vd : BitVec 6) (va : BitVec 6) (vb : BitVec 6) (pm : BitVec 3) (t : FTyp) (r : RMode)
  /-- Lane-wise floating-point maximum (R110). -/
  | vfmax (vd : BitVec 6) (va : BitVec 6) (vb : BitVec 6) (pm : BitVec 3) (t : FTyp) (r : RMode)
  /-- Lane-wise correctly rounded division (R108). -/
  | vfdiv (vd : BitVec 6) (va : BitVec 6) (vb : BitVec 6) (pm : BitVec 3) (t : FTyp) (r : RMode)
  /-- Lane-wise square root (R108). -/
  | vfsqrt (vd : BitVec 6) (va : BitVec 6) (pm : BitVec 3) (t : FTyp) (r : RMode)
  /-- Lane-wise reciprocal square root (R108). -/
  | vfrsq (vd : BitVec 6) (va : BitVec 6) (pm : BitVec 3) (t : FTyp) (r : RMode)
  /-- Lane-wise base-2 exponential (R108). -/
  | vfexp2 (vd : BitVec 6) (va : BitVec 6) (pm : BitVec 3) (t : FTyp) (r : RMode)
  /-- Lane-wise base-2 logarithm (R108). -/
  | vflog2 (vd : BitVec 6) (va : BitVec 6) (pm : BitVec 3) (t : FTyp) (r : RMode)
  /-- Clears the sign bit of each element (R111). -/
  | vfabs (vd : BitVec 6) (va : BitVec 6) (pm : BitVec 3) (t : FTyp)
  /-- Inverts the sign bit of each element (R111). -/
  | vfneg (vd : BitVec 6) (va : BitVec 6) (pm : BitVec 3) (t : FTyp)
  /-- Writes a lane predicate of bitwise equality (R112). -/
  | vcmpeq (pd : BitVec 3) (va : BitVec 6) (vb : BitVec 6) (pm : BitVec 3) (w : Width)
  /-- Writes a lane predicate of integer less-than (R112). -/
  | vcmplt (pd : BitVec 3) (va : BitVec 6) (vb : BitVec 6) (pm : BitVec 3) (w : Width) (uns : Bool)
  /-- Writes a lane predicate of integer less-or-equal (R112). -/
  | vcmple (pd : BitVec 3) (va : BitVec 6) (vb : BitVec 6) (pm : BitVec 3) (w : Width) (uns : Bool)
  /-- Writes a lane predicate of a floating-point comparison (R112). -/
  | vfcmp (pd : BitVec 3) (va : BitVec 6) (vb : BitVec 6) (pm : BitVec 3) (t : FTyp) (c : FCond)
  /-- And of two lane predicates (R113). -/
  | pand (pd : BitVec 3) (pa : BitVec 3) (pb : BitVec 3)
  /-- Or of two lane predicates (R113). -/
  | por (pd : BitVec 3) (pa : BitVec 3) (pb : BitVec 3)
  /-- And-not of two lane predicates (R113). -/
  | pandn (pd : BitVec 3) (pa : BitVec 3) (pb : BitVec 3)
  /-- Xor of two lane predicates (R113). -/
  | pxor (pd : BitVec 3) (pa : BitVec 3) (pb : BitVec 3)
  /-- Converts each active lane by a one-source code (R114). -/
  | vcvt (vd : BitVec 6) (va : BitVec 6) (pm : BitVec 3) (c : CvtCode)
  /-- Packs pairs of FP32 lanes into FP16x2 or BF16x2 (R114). -/
  | vcvtPair (vd : BitVec 6) (va : BitVec 6) (vb : BitVec 6) (pm : BitVec 3) (c : PairCode)
  /-- Decodes code8 or code4 elements to FP32 through a decode table (R115). -/
  | vdec (vd : BitVec 6) (va : BitVec 6) (pm : BitVec 3) (c4 : Bool) (t1 : Bool) (grp : BitVec 2)
  /-- Encodes FP32 lanes to code8 or code4 through a table (R116). -/
  | venc (vd : BitVec 6) (va : BitVec 6) (pm : BitVec 3) (c4 : Bool) (t1 : Bool) (inf : Bool)
  /-- Permutes lanes by per-lane indices (R117). -/
  | vshuf (vd : BitVec 6) (va : BitVec 6) (vb : BitVec 6) (pm : BitVec 3)
  /-- Rotates lanes by an immediate count (R117). -/
  | vroti (vd : BitVec 6) (va : BitVec 6) (n : BitVec 6) (pm : BitVec 3)
  /-- Inclusive running combination over active lanes (R118). -/
  | vscan (vd : BitVec 6) (va : BitVec 6) (pm : BitVec 3) (op : ScanOp)
  /-- Packs the active lanes to the low lanes (R119). -/
  | vcmprs (vd : BitVec 6) (va : BitVec 6) (pm : BitVec 3)
  /-- Loads a sign-extended 32-bit immediate (R85). -/
  | li (sd : BitVec 5) (imm : BitVec 32)
  /-- Replaces the high half of a register with imm32 (R85). -/
  | lih (sd : BitVec 5) (imm : BitVec 32)
  /-- Adds a sign-extended imm32 to a register (R85). -/
  | addil (sd : BitVec 5) (sa : BitVec 5) (imm : BitVec 32)
  /-- Loads an 8- or 4-byte value into a uniform register (R133). -/
  | ld (sd : BitVec 5) (sa : BitVec 5) (la : BitVec 4) (w4 : Bool) (imm : BitVec 32)
  /-- Posts an 8- or 4-byte store (R133). -/
  | st (sa : BitVec 5) (sb : BitVec 5) (w4 : Bool) (imm : BitVec 32)
  /-- Atomic add at the home, returning the old value (R137). -/
  | aadd (sd : BitVec 5) (sa : BitVec 5) (sb : BitVec 5) (la : BitVec 4) (w4 : Bool) (imm : BitVec 32)
  /-- Atomic signed minimum at the home (R137). -/
  | amin (sd : BitVec 5) (sa : BitVec 5) (sb : BitVec 5) (la : BitVec 4) (w4 : Bool) (imm : BitVec 32)
  /-- Atomic signed maximum at the home (R137). -/
  | amax (sd : BitVec 5) (sa : BitVec 5) (sb : BitVec 5) (la : BitVec 4) (w4 : Bool) (imm : BitVec 32)
  /-- Atomic and at the home (R137). -/
  | aand (sd : BitVec 5) (sa : BitVec 5) (sb : BitVec 5) (la : BitVec 4) (w4 : Bool) (imm : BitVec 32)
  /-- Atomic or at the home (R137). -/
  | aor (sd : BitVec 5) (sa : BitVec 5) (sb : BitVec 5) (la : BitVec 4) (w4 : Bool) (imm : BitVec 32)
  /-- Atomic exchange at the home (R137). -/
  | axch (sd : BitVec 5) (sa : BitVec 5) (sb : BitVec 5) (la : BitVec 4) (w4 : Bool) (imm : BitVec 32)
  /-- Atomic compare-and-swap at the home (R137). -/
  | acas (sd : BitVec 5) (sa : BitVec 5) (sb : BitVec 5) (la : BitVec 4) (w4 : Bool) (imm : BitVec 32)
  /-- Holds the thread until earlier accesses are performed, by kind and course (R142). -/
  | fence (k : FenceKind) (course : BitVec 5)
  /-- PC-relative branch (R86). -/
  | br (imm : BitVec 32)
  /-- PC-relative branch that writes a link register (R86). -/
  | call (sd : BitVec 5) (imm : BitVec 32)
  /-- Jumps to the address in a register (R86). -/
  | jr (sa : BitVec 5)
  /-- Starts hardware loop 0 or 1 with a count and end (R89). -/
  | loop (n : Bool) (sa : BitVec 5) (imm : BitVec 32)
  /-- Reads a system register into a uniform register (R93). -/
  | mfs (sd : BitVec 5) (idx : BitVec 32)
  /-- Writes a uniform register to a system register (R94). -/
  | mts (sa : BitVec 5) (idx : BitVec 32)
  /-- Replaces a course-table entry on every lamp die (R99). -/
  | crset (sa : BitVec 5) (e : BitVec 32)
  /-- Raises SWTRAP precisely (R95). -/
  | trapi (imm : BitVec 32)
  /-- Loads a masked set of uniform registers from an image (R98). -/
  | regset (sa : BitVec 5) (mask : BitVec 32)
  /-- Loads consecutive 4-byte lanes (R134). -/
  | vld (vd : BitVec 6) (sa : BitVec 5) (pm : BitVec 3) (la : BitVec 4) (off : BitVec 15)
  /-- Posts a store of consecutive 4-byte lanes (R134). -/
  | vst (vd : BitVec 6) (sa : BitVec 5) (pm : BitVec 3) (off : BitVec 15)
  /-- Strided vector load (R134). -/
  | vlds (vd : BitVec 6) (sa : BitVec 5) (sx : BitVec 5) (pm : BitVec 3) (la : BitVec 4) (z : ESize) (off : BitVec 15)
  /-- Strided vector store (R134). -/
  | vsts (vd : BitVec 6) (sa : BitVec 5) (sx : BitVec 5) (pm : BitVec 3) (z : ESize) (off : BitVec 15)
  /-- Gathers lanes at per-lane offsets (R134). -/
  | vgath (vd : BitVec 6) (sa : BitVec 5) (vb : BitVec 6) (pm : BitVec 3) (la : BitVec 4) (z : ESize) (off : BitVec 15)
  /-- Scatters lanes to per-lane offsets (R134). -/
  | vscat (vd : BitVec 6) (sa : BitVec 5) (vb : BitVec 6) (pm : BitVec 3) (z : ESize) (off : BitVec 15)
  /-- Prefetch hint that opens a DRAM row (R136). -/
  | vpf (sa : BitVec 5) (off : BitVec 15)
  /-- Stamped block load with a lag bound, trap or wait mode (R12). -/
  | lda (vd : BitVec 6) (sa : BitVec 5) (sx : BitVec 5) (sy : BitVec 5) (la : BitVec 4) (wait : Bool) (lag : BitVec 8)
  /-- Posted stamped block store, a release (R13). -/
  | sta (vd : BitVec 6) (sa : BitVec 5) (sx : BitVec 5) (off : BitVec 15)
  /-- Stamped store of the active lanes only (R139). -/
  | stad (vd : BitVec 6) (sa : BitVec 5) (sx : BitVec 5) (pm : BitVec 3) (off : BitVec 15)
  /-- Reads a block's stamp and writer without waiting (R140). -/
  | ldas (sa : BitVec 5) (sy : BitVec 5) (la : BitVec 4)
  /-- Reads one lane into a uniform register (R121). -/
  | vtou (sy : BitVec 5) (vd : BitVec 6) (pm : BitVec 3) (low : Bool) (e : BitVec 6)
  /-- Broadcasts a uniform value to active lanes (R122). -/
  | utov (vd : BitVec 6) (sa : BitVec 5) (pm : BitVec 3)
  /-- Reduces active lanes by a fixed pairwise tree (R123). -/
  | vred (sy : BitVec 5) (vd : BitVec 6) (pm : BitVec 3) (op : RedOp)
  /-- Takes the lowest active lane and tests uniformity (R124). -/
  | vuni (sy : BitVec 5) (qd : BitVec 3) (vd : BitVec 6) (pm : BitVec 3)
  /-- Copies a lane predicate to a uniform register (R125). -/
  | ptou (sy : BitVec 5) (pn : BitVec 3)
  /-- Copies a uniform register to a lane predicate (R125). -/
  | utop (pd : BitVec 3) (sa : BitVec 5)
  /-- Sets a uniform predicate if any bit of a lane predicate is set (R125). -/
  | pany (qd : BitVec 3) (pn : BitVec 3)
  /-- Sets a uniform predicate if every bit of a lane predicate is set (R125). -/
  | pall (qd : BitVec 3) (pn : BitVec 3)
  /-- Loads a tile descriptor register from memory (R292). -/
  | tdesc (d : BitVec 4) (s1 : BitVec 5)
  /-- Issues an accumulator clear with a scale pair (R296). -/
  | tzero (a : BitVec 2) (s1 : BitVec 5) (s2 : BitVec 5)
  /-- Issues a tile matrix product into an accumulator (R297). -/
  | tmm (a : BitVec 2) (da : BitVec 4) (db : BitVec 4)
  /-- Issues a product against boarded ring segments (R297). -/
  | tmmr (a : BitVec 2) (dx : BitVec 4) (k : BitVec 3) (s1 : BitVec 5)
  /-- Issues a drain of an accumulator to a tile (R298). -/
  | tdrain (a : BitVec 2) (dc : BitVec 4) (s1 : BitVec 5)
  /-- Issues a bulk copy on a copy channel (R303). -/
  | tcopy (ch : BitVec 2) (s1 : BitVec 5) (s2 : BitVec 5) (s3 : BitVec 5)
  /-- Holds until tile operations complete, merging flags and joining (R306). -/
  | twait (s1 : BitVec 5)
  /-- Replaces a decode table of the core from an image (R302). -/
  | ttab (t : BitVec 2) (s1 : BitVec 5)
  /-- Issues an element-wise tile format conversion (R301). -/
  | tcnv (dd : BitVec 4) (ds : BitVec 4)
  /-- Issues an exact Q32 residual (R198). -/
  | tqms (dr : BitVec 4) (da : BitVec 4) (dx : BitVec 4) (s1 : BitVec 5)
  /-- Issues an in-place Q32 LU factorisation (R199). -/
  | tlu (dn : BitVec 4)
  /-- Issues a Q32 forward and back substitution (R200). -/
  | tsolv (dl : BitVec 4) (dv : BitVec 4)
  /-- Joins a consumed port to a fresh port by the link algorithm (R227). -/
  | link (s1 : BitVec 5) (s2 : BitVec 5)
  /-- Pops 1-4 zeroed nodes from the core's free stack (R228). -/
  | alloc (sd : BitVec 5) (la : BitVec 4) (n : BitVec 21)
  /-- Zeroes a node and pushes it on the free stack (R229). -/
  | free (s1 : BitVec 5)
  /-- Forms an active-pair record of two nodes (R230). -/
  | push (s1 : BitVec 5) (s2 : BitVec 5)
  /-- Reads an 8-byte node word (R232). -/
  | nld (s1 : BitVec 5) (sd : BitVec 5) (la : BitVec 4) (off : BitVec 21)
  /-- Posts an 8-byte node word write (R232). -/
  | nst (s1 : BitVec 5) (s2 : BitVec 5) (off : BitVec 21)
  /-- Writes a rule-table entry and invalidates rule caches (R233). -/
  | rulew (s1 : BitVec 5) (s2 : BitVec 5)
  /-- Reserves a handle to capture a layer's ring segments (R267). -/
  | board (k : BitVec 3) (s1 : BitVec 5) (s2 : BitVec 5) (s3 : BitVec 5)
  /-- Releases a ring handle (R269). -/
  | unboard (k : BitVec 3)
  /-- Queries a ring handle, or parks until it lands (R270). -/
  | ringq (k : BitVec 3) (sd : BitVec 5) (la : BitVec 4) (code : BitVec 21)
  /-- Migrates the thread next to the home of an address (R326). -/
  | mig (s1 : BitVec 5)
  /-- Issues a vector contribution to an in-network reduction round (R331). -/
  | reds (s1 : BitVec 5) (s2 : BitVec 5) (v : BitVec 6)
  /-- Records a service request and raises an MSI-X vector (R344). -/
  | svc (e : BitVec 21)
  /-- A due trap is taken at an instruction boundary and the thread enters TRAPVEC (R338). -/
  | trapEntry (p : Place)
  /-- A yielding thread becomes ready once 16 cycles and the other slots' turns have passed (R97). -/
  | yieldRelease (p : Place)
  /-- A pending launch record takes its slot once free and starts the thread (R27). -/
  | launchFill (p : Place)
  /-- A request moves from a send list into its channel once its send conditions hold (R152). -/
  | send (owner : Nat) (e : Nat)
  /-- The head of a channel is delivered to the destination die's arrival queue (R153). -/
  | deliver (d : Nat) (e : Nat) (engine : Bool)
  /-- A plain load group is performed at its serialisation point and answered (R154). -/
  | loadPerform (e : Nat)
  /-- A plain or remote store group is performed at its serialisation point and acknowledged (R154). -/
  | storePerform (e : Nat)
  /-- An atomic is read, modified and written as one step at its home (R137). -/
  | atomicPerform (e : Nat)
  /-- A stamped load is tested at its home and answered, trapped, retried or given a monitor entry (R12). -/
  | ldaPerform (e : Nat)
  /-- A stamp-and-writer read is performed at its home (R140). -/
  | ldasPerform (e : Nat)
  /-- A stamped store is accepted or dropped at its home and answers met monitor entries (R13). -/
  | staPerform (e : Nat)
  /-- A masked stamped store is accepted or dropped at its home (R139). -/
  | stadPerform (e : Nat)
  /-- The head of a response queue is delivered to its thread or pseudo-thread (R155). -/
  | respond (e : Nat) (d : Nat)
  /-- A retried lda is re-sent 512 cycles after its retry answer (R180). -/
  | monitorRetry (owner : Nat) (e : Nat)
  /-- A dropped-store notice reaches the writer's slot queue (R178). -/
  | stampRegress (e : Nat) (d : Nat)
  /-- A stop notice leaves on the wick tree once the thread's stamped stores are performed (R15). -/
  | stopNoticeSend (uid : Nat)
  /-- A plinth die adds writer ids to its stop set and answers waiters WRITER_STOPPED (R182). -/
  | stopNoticeApply (die : Nat) (n : Nat)
  /-- A clear notice removes a reused writer id from every stop set (R184). -/
  | clearNotice (p : Place)
  /-- The tile unit clears an accumulator and records its scales (R296). -/
  | tzeroExecute (op : Nat)
  /-- The tile unit adds an exact K-sum product into an accumulator (R297). -/
  | tmmExecute (op : Nat)
  /-- Once its group has landed, a ring product reads the group and accumulates or faults (R271). -/
  | tmmrReadStep (op : Nat)
  /-- The tile unit scales, rounds and writes an accumulator to a tile (R298). -/
  | tdrainExecute (op : Nat)
  /-- After a drain's writes are performed, its wake node is read and a pair record or fault thread made (R300). -/
  | drainWake (op : Nat)
  /-- The tile unit converts a tile element by element (R301). -/
  | tcnvExecute (op : Nat)
  /-- A copy channel moves its bytes and advances its write pointer (R303). -/
  | tcopyExecute (op : Nat)
  /-- The tile unit forms a Q32 residual with one rounding per element (R198). -/
  | tqmsExecute (op : Nat)
  /-- The tile unit factorises a Q32 block, regularising small pivots (R199). -/
  | tluExecute (op : Nat)
  /-- The tile unit substitutes through a Q32 factor (R200). -/
  | tsolvExecute (op : Nat)
  /-- The dispatcher takes a pair record for a free slot and acts on its rule entry (R28). -/
  | dispatchTake (p : Place)
  /-- The rewrite unit splices the auxiliary ports of two equal-arity nodes and frees them (R214). -/
  | annihilate (job : Nat)
  /-- The rewrite unit copies each node across the other and links the copies (R214). -/
  | commute (job : Nat)
  /-- The rewrite unit erases a node's auxiliary ports with new ERA nodes (R214). -/
  | erase (job : Nat)
  /-- The rewrite unit applies a numeric operator to a NUM node (R214). -/
  | numop (job : Nat)
  /-- A port word is replaced by a redirect or hold at its home (R218). -/
  | take (issuer : Nat)
  /-- A port word is relinked if it still names the consumed port (R218). -/
  | attach (issuer : Nat)
  /-- Two owners of a doubly consumed wire meet at the lower port (R218). -/
  | meet (issuer : Nat)
  /-- An Attach answered HOLD is sent again after 16 cycles (R219). -/
  | linkHoldRetry (issuer : Nat)
  /-- After 64 holds the splices of a closed loop are found and vanish (R221). -/
  | viciousCircle (issuer : Nat)
  /-- The quarry allocator serves or takes back a batch of up to 8 nodes (R215). -/
  | quarryBatch (die : Nat) (core : Nat) (ctx : Nat)
  /-- A new pair record is ordered and filled from its nodes' classes and rule entry (R235). -/
  | recordClassify (n : Nat)
  /-- A push record is sent once earlier accesses are performed and enters a hod or spills (R230). -/
  | pairRecordSend (n : Nat)
  /-- A record held at a core is written once a hod or partition has room (R241). -/
  | heldRecordWrite (die : Nat) (core : Nat) (ctx : Nat)
  /-- A spilled record is written at its partition's tail (R240). -/
  | spillWrite (die : Nat) (ctx : Nat)
  /-- The spill reader takes a batch of records to a core with a free owned slot (R240). -/
  | spillRead (die : Nat) (core : Nat) (ctx : Nat)
  /-- An idle core steals eligible records from another core of its die (R243). -/
  | hodSteal (die : Nat) (core : Nat) (ctx : Nat)
  /-- A record that has waited 65,536 cycles in a hod rises one priority class (R238). -/
  | agingRise (die : Nat) (core : Nat) (n : Nat)
  /-- Every 4,096 cycles a die advertises its record count and may send a batch (R244). -/
  | balanceAdvertise (die : Nat) (ctx : Nat)
  /-- A balancing batch is placed in the neighbour's partition (R244). -/
  | balanceBatch (n : Nat)
  /-- At each rotation boundary the arbiter may move one free slot between contexts (R30). -/
  | slotArbiter (die : Nat) (core : Nat)
  /-- Once the thread's stores and engines are done, it is packed and sent (R323). -/
  | migrationPack (p : Place)
  /-- A packet arriving at the target is placed, buffered, logged or refused (R323). -/
  | migrationPacket (e : Nat)
  /-- The acceptance reaches the source, which frees the slot (R323). -/
  | migrationAccept (e : Nat) (d : Nat)
  /-- A refused packet is sent again 512 cycles later (R323). -/
  | migrationResend (p : Place)
  /-- A buffered migration packet is placed when a slot of its context frees (R323). -/
  | bufferedPacketPlace (die : Nat) (n : Nat)
  /-- A reduction pseudo-thread checks the round and sends its contribution (R331). -/
  | redsSend (op : Nat)
  /-- A keystone enters an arriving contribution (R314). -/
  | redsContribution (n : Nat)
  /-- A parent keystone combines an arriving child keystone (R314). -/
  | keystoneMessage (n : Nat)
  /-- The root rounds each lane of a complete keystone (R288). -/
  | rootRound (die : Nat) (n : Nat)
  /-- The root issues one member's result stamped store (R314). -/
  | resultWrite (die : Nat) (n : Nat)
  /-- A result acknowledgement reaches the member and completes its reds (R314). -/
  | redsComplete (n : Nat)
  /-- A group slot held too long is reported to firmware (R333). -/
  | reductionWatchdog (die : Nat) (n : Nat)
  /-- An unacknowledged frame is resent after 36,000 cycles (R336). -/
  | frameResend (n : Nat)
  /-- An injector reads a segment at its home and injects it with its header and CRC (R262). -/
  | segmentInject (lane : Nat)
  /-- A lamp tap reads one lane, checks the CRC and deals the segment to handles (R263). -/
  | segmentTap (die : Nat)
  /-- A plinth forwarder checks and passes a segment on (R264). -/
  | segmentForward (die : Nat) (lane : Nat)
  /-- A lap ends and grade, program switch, bypass and pre-emption take effect (R261). -/
  | lapBoundary (watts : Nat)
  /-- At a window's end, dropped tokens are moved and the part re-boarded (R268). -/
  | expertReboard (die : Nat) (core : Nat) (ctx : Nat) (k : Nat)
  /-- An unboard takes effect once earlier tile operations on the handle complete (R269). -/
  | handleRelease (die : Nat) (core : Nat) (ctx : Nat) (k : Nat)
  /-- A lamp die drops a rule-cache entry and answers (R233). -/
  | ruleInvalidate (die : Nat)
  /-- A message for an evicted context is appended to its inbound log (R355). -/
  | logAppend (e : Nat)
  /-- A pre-emption request is taken and the thread saved to its block (R346). -/
  | preemptEntry (p : Place)
  /-- The save block's complete bit is set once all engine operations are recorded (R346). -/
  | saveComplete (uid : Nat)
  /-- Checks and loads a context record (R373). -/
  | loadctx (ctx : Nat)
  /-- Destroys a context and its threads, records and partitions (R373). -/
  | destroy (ctx : Nat)
  /-- Adds a launch record, held or released (R373). -/
  | launch (ctx : Nat)
  /-- Makes a context resident on a core with a partition (R373). -/
  | reside (ctx : Nat)
  /-- Evicts a context from a core to an eviction area (R373). -/
  | evict (ctx : Nat)
  /-- Requests pre-emption of a slot into a save block (R373). -/
  | preempt (ctx : Nat)
  /-- Restores a thread from a complete save block into a free slot (R351). -/
  | restore (ctx : Nat)
  /-- Loads a ring program image into the standby store (R373). -/
  | ringload (ctx : Nat)
  /-- Makes the standby ring program running from a lap (R373). -/
  | ringswitch (ctx : Nat)
  /-- Checks and loads a reduction group image (R373). -/
  | groupload (ctx : Nat)
  /-- A command with an unassigned code answers status 1 (R373). -/
  | unknownCommand (code : BitVec 8) (ctx : Nat)
  /-- Drops TLB entries and waits for accesses that used them (R363). -/
  | shootdown (ctx : Nat) (va : BitVec 48)
  /-- A lamp die that keeps a copy of a context's course table receives and installs the new entry from a crset (R99). -/
  | courseEntryCopy (die : Nat)
  /-- A stop notice reaching the lamp die a thread left clears the held-away marks of its former writer ids and may make a blocked slot available again (R185). -/
  | heldAwayClear (die : Nat) (n : Nat)
  /-- The translation unit walks the page table for a missed address (R362). -/
  | pageWalk (die : Nat) (ctx : Nat) (va : BitVec 64)
  /-- A host 16-byte write to BAR2 becomes a pair record or is rejected and logged (R247). -/
  | intakeWrite (off : Nat) (len : Nat) (relaxed : Bool) (w0 : BitVec 64) (w1 : BitVec 64)
  /-- A host read of the intake window returns zero and is logged (R247). -/
  | bar2Read (off : Nat)
  /-- A host write through BAR4 is performed at its home, or discarded if stamped (R248). -/
  | hostWrite (off : Nat) (bytes : List (BitVec 8))
  /-- A host read through BAR4 is performed at its home (R248). -/
  | hostRead (off : Nat) (len : Nat)
  /-- A host read of the stamp view returns a block's writer and stamp (R248). -/
  | stampViewRead (off : Nat) (len : Nat)
  /-- Firmware rebuilds a group and replays discarded rounds (R334). -/
  | groupRebuild (ctx : Nat) (g : Nat) (addr : Nat)
  /-- A keystone frame from another package root is received (R337). -/
  | soloskicKeystone (port : Nat) (f : Frame)
  /-- A global result frame is received and written to members (R337). -/
  | soloskicResult (port : Nat) (f : Frame)
  /-- An acknowledgement frame is received (R336). -/
  | soloskicAck (port : Nat) (f : Frame)
  /-- An unsupported frame kind is counted and discarded (R335). -/
  | ethernetFrameDiscard (port : Nat) (kind : Nat)
  /-- Every 4,096 cycles a die publishes its headroom (R366). -/
  | powerHeadroomUpdate (die : Nat) (milliwatts : Nat)
  /-- Firmware drains affected channels and loads new routing tables (R320). -/
  | routeChange (tables : List (Nat × Nat × Nat))
  /-- A failed die is taken out of service and its lost accesses completed with MCHECK (R320). -/
  | dieFailure (die : Nat)
  /-- The package runs the full start-up sequence (R364). -/
  | coldStart (image : List (BitVec 8)) (failed : List Nat) (links : Fabric) (temps : List Nat)
  /-- The package starts from saved trained parameters (R364). -/
  | warmStart (image : List (BitVec 8)) (failed : List Nat) (links : Fabric) (temps : List Nat)
  /-- A nonce written to the mailbox yields a signed attestation report (R367). -/
  | attestation (nonce : BitVec 512)
  /-- Writing HALT 1 debug-halts every slot of a die (R357). -/
  | dieHalt (die : Nat)
  /-- Writing HALT 0 releases a die, delivering DEBUG to marked slots (R357). -/
  | dieRelease (die : Nat)
  /-- A write to the release area releases a slot halted by its own halt (R374). -/
  | slotRelease (p : Place)
  /-- A management or configuration register without its own row is written (R368). -/
  | registerWrite (off : Nat) (value : BitVec 64)
  /-- Uniform-slot no-operation (R79). -/
  | unop
  /-- Vector-slot no-operation (R68). -/
  | vnop
  /-- Leaves the handler state and resumes at TRAPPC (R96). -/
  | eret
  /-- Closes windows and gives turns to the core's other slots (R97). -/
  | yield
  /-- Closes windows and the thread leaves its slot (R231). -/
  | endThread
  /-- Debug-halts the issuing thread (R343). -/
  | halt
  /-- Every 8,192 cycles the wick tree combines status words and may declare quiescence (R245). -/
  | quiescenceWave
  /-- The bridge forwards an intake record after earlier host writes are performed (R248). -/
  | intakeForward
  deriving DecidableEq, Repr, Inhabited

/-- Where an instruction stands: in the uniform or the vector slot of a pair word, in a long word, or in no word
(a machine step). -/
inductive Form where
  | uniform | vector | long | event
  deriving DecidableEq, Repr, Inhabited

/-- The form of each constructor (R65, R67, R71, R73, R74; spec/95). -/
def Instr.form : Instr → Form
  | .unop => .uniform
  | .add _ _ _ => .uniform
  | .addi _ _ _ => .uniform
  | .sub _ _ _ => .uniform
  | .mul _ _ _ => .uniform
  | .mulh _ _ _ => .uniform
  | .mulhu _ _ _ => .uniform
  | .and _ _ _ => .uniform
  | .andi _ _ _ => .uniform
  | .or _ _ _ => .uniform
  | .ori _ _ _ => .uniform
  | .xor _ _ _ => .uniform
  | .xori _ _ _ => .uniform
  | .shl _ _ _ => .uniform
  | .shli _ _ _ => .uniform
  | .shr _ _ _ => .uniform
  | .shri _ _ _ => .uniform
  | .sra _ _ _ => .uniform
  | .srai _ _ _ => .uniform
  | .min _ _ _ => .uniform
  | .max _ _ _ => .uniform
  | .minu _ _ _ => .uniform
  | .maxu _ _ _ => .uniform
  | .addx _ _ _ _ => .uniform
  | .clz _ _ => .uniform
  | .popc _ _ => .uniform
  | .bext _ _ _ => .uniform
  | .sext _ _ _ => .uniform
  | .slt _ _ _ => .uniform
  | .sltu _ _ _ => .uniform
  | .qeq _ _ _ => .uniform
  | .qne _ _ _ => .uniform
  | .qlt _ _ _ => .uniform
  | .qltu _ _ _ => .uniform
  | .qle _ _ _ => .uniform
  | .qleu _ _ _ => .uniform
  | .qeqi _ _ _ => .uniform
  | .qlti _ _ _ => .uniform
  | .qand _ _ _ => .uniform
  | .qor _ _ _ => .uniform
  | .qxor _ _ _ => .uniform
  | .qnot _ _ => .uniform
  | .vnop => .vector
  | .vadd _ _ _ _ _ _ _ => .vector
  | .vsub _ _ _ _ _ _ _ => .vector
  | .vmul _ _ _ _ _ => .vector
  | .vmulh _ _ _ _ _ => .vector
  | .vmulhu _ _ _ _ _ => .vector
  | .vand _ _ _ _ => .vector
  | .vor _ _ _ _ => .vector
  | .vxor _ _ _ _ => .vector
  | .vshl _ _ _ _ _ => .vector
  | .vshr _ _ _ _ _ => .vector
  | .vsra _ _ _ _ _ => .vector
  | .vmin _ _ _ _ _ => .vector
  | .vmax _ _ _ _ _ => .vector
  | .vminu _ _ _ _ _ => .vector
  | .vmaxu _ _ _ _ _ => .vector
  | .vsel _ _ _ _ => .vector
  | .viota _ _ => .vector
  | .vfadd _ _ _ _ _ _ => .vector
  | .vfsub _ _ _ _ _ _ => .vector
  | .vfmul _ _ _ _ _ _ => .vector
  | .vfma _ _ _ _ _ _ => .vector
  | .vfms _ _ _ _ _ _ => .vector
  | .vfmin _ _ _ _ _ _ => .vector
  | .vfmax _ _ _ _ _ _ => .vector
  | .vfdiv _ _ _ _ _ _ => .vector
  | .vfsqrt _ _ _ _ _ => .vector
  | .vfrsq _ _ _ _ _ => .vector
  | .vfexp2 _ _ _ _ _ => .vector
  | .vflog2 _ _ _ _ _ => .vector
  | .vfabs _ _ _ _ => .vector
  | .vfneg _ _ _ _ => .vector
  | .vcmpeq _ _ _ _ _ => .vector
  | .vcmplt _ _ _ _ _ _ => .vector
  | .vcmple _ _ _ _ _ _ => .vector
  | .vfcmp _ _ _ _ _ _ => .vector
  | .pand _ _ _ => .vector
  | .por _ _ _ => .vector
  | .pandn _ _ _ => .vector
  | .pxor _ _ _ => .vector
  | .vcvt _ _ _ _ => .vector
  | .vcvtPair _ _ _ _ _ => .vector
  | .vdec _ _ _ _ _ _ => .vector
  | .venc _ _ _ _ _ _ => .vector
  | .vshuf _ _ _ _ => .vector
  | .vroti _ _ _ _ => .vector
  | .vscan _ _ _ _ => .vector
  | .vcmprs _ _ _ => .vector
  | .li _ _ => .long
  | .lih _ _ => .long
  | .addil _ _ _ => .long
  | .ld _ _ _ _ _ => .long
  | .st _ _ _ _ => .long
  | .aadd _ _ _ _ _ _ => .long
  | .amin _ _ _ _ _ _ => .long
  | .amax _ _ _ _ _ _ => .long
  | .aand _ _ _ _ _ _ => .long
  | .aor _ _ _ _ _ _ => .long
  | .axch _ _ _ _ _ _ => .long
  | .acas _ _ _ _ _ _ => .long
  | .fence _ _ => .long
  | .br _ => .long
  | .call _ _ => .long
  | .jr _ => .long
  | .loop _ _ _ => .long
  | .mfs _ _ => .long
  | .mts _ _ => .long
  | .crset _ _ => .long
  | .trapi _ => .long
  | .eret => .long
  | .yield => .long
  | .regset _ _ => .long
  | .vld _ _ _ _ _ => .long
  | .vst _ _ _ _ => .long
  | .vlds _ _ _ _ _ _ _ => .long
  | .vsts _ _ _ _ _ _ => .long
  | .vgath _ _ _ _ _ _ _ => .long
  | .vscat _ _ _ _ _ _ => .long
  | .vpf _ _ => .long
  | .lda _ _ _ _ _ _ _ => .long
  | .sta _ _ _ _ => .long
  | .stad _ _ _ _ _ => .long
  | .ldas _ _ _ => .long
  | .vtou _ _ _ _ _ => .long
  | .utov _ _ _ => .long
  | .vred _ _ _ _ => .long
  | .vuni _ _ _ _ => .long
  | .ptou _ _ => .long
  | .utop _ _ => .long
  | .pany _ _ => .long
  | .pall _ _ => .long
  | .tdesc _ _ => .long
  | .tzero _ _ _ => .long
  | .tmm _ _ _ => .long
  | .tmmr _ _ _ _ => .long
  | .tdrain _ _ _ => .long
  | .tcopy _ _ _ _ => .long
  | .twait _ => .long
  | .ttab _ _ => .long
  | .tcnv _ _ => .long
  | .tqms _ _ _ _ => .long
  | .tlu _ => .long
  | .tsolv _ _ => .long
  | .link _ _ => .long
  | .alloc _ _ _ => .long
  | .free _ => .long
  | .push _ _ => .long
  | .endThread => .long
  | .nld _ _ _ _ => .long
  | .nst _ _ _ => .long
  | .rulew _ _ => .long
  | .board _ _ _ _ => .long
  | .unboard _ => .long
  | .ringq _ _ _ _ => .long
  | .mig _ => .long
  | .reds _ _ _ => .long
  | .halt => .long
  | .svc _ => .long
  | .trapEntry _ => .event
  | .yieldRelease _ => .event
  | .launchFill _ => .event
  | .send _ _ => .event
  | .deliver _ _ _ => .event
  | .loadPerform _ => .event
  | .storePerform _ => .event
  | .atomicPerform _ => .event
  | .ldaPerform _ => .event
  | .ldasPerform _ => .event
  | .staPerform _ => .event
  | .stadPerform _ => .event
  | .respond _ _ => .event
  | .monitorRetry _ _ => .event
  | .stampRegress _ _ => .event
  | .stopNoticeSend _ => .event
  | .stopNoticeApply _ _ => .event
  | .clearNotice _ => .event
  | .tzeroExecute _ => .event
  | .tmmExecute _ => .event
  | .tmmrReadStep _ => .event
  | .tdrainExecute _ => .event
  | .drainWake _ => .event
  | .tcnvExecute _ => .event
  | .tcopyExecute _ => .event
  | .tqmsExecute _ => .event
  | .tluExecute _ => .event
  | .tsolvExecute _ => .event
  | .dispatchTake _ => .event
  | .annihilate _ => .event
  | .commute _ => .event
  | .erase _ => .event
  | .numop _ => .event
  | .take _ => .event
  | .attach _ => .event
  | .meet _ => .event
  | .linkHoldRetry _ => .event
  | .viciousCircle _ => .event
  | .quarryBatch _ _ _ => .event
  | .recordClassify _ => .event
  | .pairRecordSend _ => .event
  | .heldRecordWrite _ _ _ => .event
  | .spillWrite _ _ => .event
  | .spillRead _ _ _ => .event
  | .hodSteal _ _ _ => .event
  | .agingRise _ _ _ => .event
  | .balanceAdvertise _ _ => .event
  | .balanceBatch _ => .event
  | .quiescenceWave => .event
  | .slotArbiter _ _ => .event
  | .intakeWrite _ _ _ _ _ => .event
  | .intakeForward => .event
  | .bar2Read _ => .event
  | .hostWrite _ _ => .event
  | .hostRead _ _ => .event
  | .stampViewRead _ _ => .event
  | .migrationPack _ => .event
  | .migrationPacket _ => .event
  | .migrationAccept _ _ => .event
  | .migrationResend _ => .event
  | .bufferedPacketPlace _ _ => .event
  | .redsSend _ => .event
  | .redsContribution _ => .event
  | .keystoneMessage _ => .event
  | .rootRound _ _ => .event
  | .resultWrite _ _ => .event
  | .redsComplete _ => .event
  | .reductionWatchdog _ _ => .event
  | .groupRebuild _ _ _ => .event
  | .soloskicKeystone _ _ => .event
  | .soloskicResult _ _ => .event
  | .soloskicAck _ _ => .event
  | .frameResend _ => .event
  | .ethernetFrameDiscard _ _ => .event
  | .segmentInject _ => .event
  | .segmentTap _ => .event
  | .segmentForward _ _ => .event
  | .lapBoundary _ => .event
  | .expertReboard _ _ _ _ => .event
  | .handleRelease _ _ _ _ => .event
  | .powerHeadroomUpdate _ _ => .event
  | .pageWalk _ _ _ => .event
  | .ruleInvalidate _ => .event
  | .logAppend _ => .event
  | .preemptEntry _ => .event
  | .saveComplete _ => .event
  | .routeChange _ => .event
  | .dieFailure _ => .event
  | .coldStart _ _ _ _ => .event
  | .warmStart _ _ _ _ => .event
  | .loadctx _ => .event
  | .destroy _ => .event
  | .launch _ => .event
  | .reside _ => .event
  | .evict _ => .event
  | .preempt _ => .event
  | .restore _ => .event
  | .ringload _ => .event
  | .ringswitch _ => .event
  | .groupload _ => .event
  | .unknownCommand _ _ => .event
  | .shootdown _ _ => .event
  | .attestation _ => .event
  | .dieHalt _ => .event
  | .dieRelease _ => .event
  | .slotRelease _ => .event
  | .registerWrite _ _ => .event
  | .courseEntryCopy _ => .event
  | .heldAwayClear _ _ => .event

/-- One instruction word: a pair with its two slots, or a long word, under its guard (R33 to R40). -/
inductive Bundle where
  | pair (g : Guard) (u v : Instr)
  | long (g : Guard) (i : Instr)
  deriving DecidableEq, Repr, Inhabited

end Sys2Proof
end

