-- ==== Sys2Proof/Word.lean ====
section
/-! DEFINITION. The words the machine holds. -/

namespace Sys2Proof

/-- A 64-bit register or memory word. -/
abbrev Word := BitVec 64

/-- One byte of memory. -/
abbrev Byte := BitVec 8

/-- A vector register or a stamped block: lane `j` is bits `32j+31` to `32j` (R100). -/
abbrev VReg := BitVec 2048

end Sys2Proof
end

