-- ==== Sys2Proof/Machine/Bits.lean ====
section
/-! DEFINITION. Bit fields, lanes, serial differences, and lists keyed by a name. -/

namespace Sys2Proof.Machine

/-- Bits `lo + n - 1` to `lo` of a word (R1). -/
def bits (x : Word) (lo n : Nat) : BitVec n := x.extractLsb' lo n

/-- Sign extension of a field to 64 bits (R6). -/
def sx {n : Nat} (x : BitVec n) : Word := x.signExtend 64

/-- Zero extension of a field to 64 bits (R6). -/
def zx {n : Nat} (x : BitVec n) : Word := x.setWidth 64

/-- The low bits of a number as a word. -/
def w64 (n : Nat) : Word := BitVec.ofNat 64 n

/-- A word of a truth value. -/
def boolWord (b : Bool) : Word := if b then 1 else 0

/-- The 32-bit serial difference (R6). -/
def serial (s t : BitVec 32) : Int := (s - t).toInt

/-! ### Lanes (R100) -/

/-- Lane `j` of a vector register. -/
def lane (v : VReg) (j : Nat) : BitVec 32 := v.extractLsb' (32 * j) 32

/-- The value of the first `n` lanes laid side by side. -/
def lanesNat (f : Nat → BitVec 32) : Nat → Nat
  | 0 => 0
  | n + 1 => lanesNat f n + (f n).toNat * 2 ^ (32 * n)

/-- The register whose lane `j` is `f j`. -/
def ofLanes (f : Nat → BitVec 32) : VReg := BitVec.ofNat 2048 (lanesNat f 64)

/-- Active lanes take `f`, the others keep the old value (R101). -/
def maskLanes (m : Word) (old : VReg) (f : Nat → BitVec 32) : VReg :=
  ofLanes fun j => if m.getLsbD j then f j else lane old j

/-- Element 0 of a two-element lane (R100). -/
def lo16 (x : BitVec 32) : BitVec 16 := x.extractLsb' 0 16

/-- Element 1 of a two-element lane (R100). -/
def hi16 (x : BitVec 32) : BitVec 16 := x.extractLsb' 16 16

/-- The lane numbers. -/
def laneIdx : List Nat := List.range 64

/-- The active lanes, ascending. -/
def activeLanes (m : Word) : List Nat := laneIdx.filter fun j => m.getLsbD j

/-- The word of a test on lanes: bit `j` is `f j`. -/
def bitsNat (f : Nat → Bool) : Nat → Nat
  | 0 => 0
  | n + 1 => bitsNat f n + if f n then 2 ^ n else 0

/-- The lane predicate whose bit `j` is `f j`. -/
def ofBits (f : Nat → Bool) : Word := BitVec.ofNat 64 (bitsNat f 64)

/-! ### Lists keyed by a name -/

/-- The value listed under a key, or the default. -/
def lookupD {κ α : Type} [DecidableEq κ] (d : α) (k : κ) : List (κ × α) → α
  | [] => d
  | (k', a) :: r => if k' = k then a else lookupD d k r

/-- The list with a value put under a key. -/
def putKey {κ α : Type} [DecidableEq κ] (k : κ) (a : α) : List (κ × α) → List (κ × α)
  | [] => [(k, a)]
  | (k', a') :: r => if k' = k then (k, a) :: r else (k', a') :: putKey k a r

/-- The list without the entries of a key. -/
def dropKey {κ α : Type} [DecidableEq κ] (k : κ) (l : List (κ × α)) : List (κ × α) := l.filter fun e => e.1 ≠ k

/-- Removes the first entry that passes a test. -/
def dropFirst {α : Type} (p : α → Bool) : List α → List α
  | [] => []
  | a :: r => if p a then r else a :: dropFirst p r

/-- Changes the first entry that passes a test. -/
def modFirst {α : Type} (p : α → Bool) (f : α → α) : List α → List α
  | [] => []
  | a :: r => if p a then f a :: r else a :: modFirst p f r

/-! ### Sparse contents: strictly rising addresses, no entry equal to the value of an unlisted address -/

/-- The value at an address. -/
def sparseRead {α : Type} (z : α) : List (Nat × α) → Nat → α
  | [], _ => z
  | (k, b) :: r, a => if a = k then b else sparseRead z r a

/-- The contents with one address rewritten, in canonical form. -/
def sparseWrite {α : Type} [DecidableEq α] (z : α) : List (Nat × α) → Nat → α → List (Nat × α)
  | [], a, b => if b = z then [] else [(a, b)]
  | (k, c) :: r, a, b =>
    if a < k then (if b = z then (k, c) :: r else (a, b) :: (k, c) :: r)
    else if a = k then (if b = z then r else (a, b) :: r)
    else (k, c) :: sparseWrite z r a b

/-- The canonical form: every address above a bound, rising, and no entry equal to the unlisted value. -/
def sparseAbove {α : Type} [DecidableEq α] (z : α) : Option Nat → List (Nat × α) → Bool
  | _, [] => true
  | none, (k, c) :: r => c ≠ z && sparseAbove z (some k) r
  | some b, (k, c) :: r => b < k && c ≠ z && sparseAbove z (some k) r

/-- The canonical form of sparse contents. -/
def sparseWf {α : Type} [DecidableEq α] (z : α) (l : List (Nat × α)) : Bool := sparseAbove z none l

/-! ### Byte strings -/

/-- The bytes of a value, little-endian. -/
def bytesOf (n x : Nat) : List Byte :=
  match n with
  | 0 => []
  | n + 1 => BitVec.ofNat 8 x :: bytesOf n (x / 256)

/-- The little-endian value of bytes. -/
def ofBytes : List Byte → Nat
  | [] => 0
  | b :: r => b.toNat + 256 * ofBytes r

end Sys2Proof.Machine
end

