-- ==== Sys2Proof/Config.lean ====
section
/-! DEFINITION. What is fixed for the part, and the values the spec leaves open, which have no body. -/

namespace Sys2Proof.Config

/-- Columns of the pavement (R17). -/
def cols : Nat := 24

/-- Rows of the pavement (R17). -/
def rows : Nat := 28

/-- Dies of the pavement (R17). -/
def dies : Nat := 672

/-- Cores of a lamp die, and slots of a core (R18). -/
def cores : Nat := 16

/-- Thread slots of a core (R18). -/
def slots : Nat := 16

/-- Entries of a hod (R236). -/
def hodEntries : Nat := 1024

/-- Bytes of a plinth die's memory: 48 GiB (R19, R22). -/
def plinthBytes : Nat := 48 * 2 ^ 30

/-- Entries of a monitor table, and the entries kept for retried waits (R156). -/
def monitorEntries : Nat := 4096

/-- Monitor entries any wait may take (R156). -/
def monitorOpen : Nat := 3840

/-- The cycles of a request and its answer on links and in routers, queueing included (R321): the spec gives LAT its
meaning and no value. A free value (log 5). -/
opaque latency : Nat → BitVec 32

/-- A byte of an inbound log entry's payload whose layout the spec does not give: an atomic's operands, a packet (R355). A
free value (log 5). -/
opaque logByte : Nat → Byte

/-- Whether a message on a route through a die had left it when the die failed: the spec does not say which messages a failed
die held (R320). A free value (log 79). -/
opaque passed : Nat → Bool

/-- The device's attestation signature of a report: its private key never leaves the part (R367). A free value (log 8). -/
opaque attestSign : List Byte → List Byte

/-- The certificate of the attestation key that the mailbox holds (R367). A free value (log 8). -/
opaque attestCertificate : List Byte

end Sys2Proof.Config
end

