-- ==== Sys2Proof/Machine/State.lean ====
section
/-! DEFINITION. The state of the W672: everything the spec gives the machine, as plain data, and the state right after
reset. Numbers of dies, cores, slots, contexts, cycles and lists' positions are natural numbers; what software sees as
bits is a bit vector. INVENTORY.md lists each piece with its rule. -/

namespace Sys2Proof.Machine

/-! ### Lookahead and requests -/

/-- Where the result of an open operation stands (R43, R45, R46). -/
inductive TagState where
  | waiting                                    -- an answer is still to come
  | ready                                      -- the result is held, to be written before J
  | withdrawn                                  -- a waiting `lda` taken back at its home (R45)
  | trapped (cause : BitVec 8) (info : Word)   -- LAG, WRITER_STOPPED or MCHECK, due before J (R46)
  deriving DecidableEq, Repr, Inhabited

/-- One open lookahead operation (R43, R349). An operation with LA 0 is open with count 0. -/
structure Tag where
  req    : Nat            -- the number its requests carry
  pc     : Word           -- the address of its word I
  la     : Nat            -- N
  count  : Nat            -- window words remaining
  frozen : Bool           -- opened before the present handler (R45)
  hasV   : Bool
  vd     : BitVec 6
  lanes  : Word           -- the lanes the result writes
  v      : VReg           -- the vector result so far
  sds    : List (BitVec 5)
  u      : List Word      -- the uniform results, one for each of `sds`
  parts  : Nat            -- group answers still to come
  isLda  : Bool
  addr   : Word           -- `lda`: block address, iteration, lag and mode, to send it again (R45)
  iter   : BitVec 32
  lag    : BitVec 8
  wait   : Bool
  first  : Bool           -- its word was the first after a trap entry (R341)
  fault  : Option (Nat × BitVec 8 × Word)   -- the lowest lane answered with a trap so far (R146)
  undo   : Option (Word × Word × List Nat)  -- LA 0: LC0, LC1 and the windows that counted its word, as before it (R8, R90)
  now    : Bool           -- its load has migrated its thread: performed before the next word issues (R44)
  image  : Bool           -- words of an image, for the word itself, which then issues again (R99, R292, R302)
  ordered : Bool          -- its groups are performed one after another (R98, R162)
  state  : TagState
  deriving DecidableEq, Repr, Inhabited

/-- The kinds of access that fences and releases tell apart (R142, R159). -/
inductive OutClass where
  | load | store | atomic | lda | ldas | stamped | remoteStore
  deriving DecidableEq, Repr, Inhabited

/-- An access that has been issued and whose answer has not been delivered (R152, R159). -/
structure Out where
  req      : Nat
  owner    : Nat            -- the issuing thread or pseudo-thread
  cls      : OutClass
  dest     : Nat            -- destination die
  core     : Option Nat     -- the owning core, for a scratchpad
  ctx      : Nat
  vaddr    : Word
  accepted : Bool           -- a wait-mode `lda` its home has accepted (R155)
  deriving DecidableEq, Repr, Inhabited

/-- One element of a load: destination lane or register, virtual and physical address, size in bytes. -/
structure Elem where
  lane  : Nat
  vaddr : Word
  paddr : Nat
  size  : Nat
  deriving DecidableEq, Repr, Inhabited

/-- The operation of an atomic (R137). -/
inductive AtomicOp where
  | add | min | max | and | or | xch | cas
  deriving DecidableEq, Repr, Inhabited

/-! ### Links (R218 to R220) -/

/-- Where a link stands (R219). -/
inductive LinkPhase where
  | check                         -- before the check of Q
  | take                          -- before its Take
  | attach                        -- before an Attach at the far end
  | hold (retry : Nat)            -- answered HOLD; the Attach is sent again from that cycle
  | meet (ref dst : Word)          -- answered MET: Meet at the lower reference; the far end's replacement
  | waitFirst (ref dst : Word)     -- answered FIRST, held at the home
  | finish                        -- complete once its writes are made
  deriving DecidableEq, Repr, Inhabited

/-- A link in progress: consumed port P, fresh port Q, far end X (R219). -/
structure LinkTask where
  p     : Word
  q     : Word
  x     : Word
  phase : LinkPhase
  held  : Nat                     -- times the same hold has been met (R221)
  hops  : Nat                     -- the longest step so far (R227)
  writes : List (Word × Word)     -- plain writes due before its next step: address and word (R218)
  deriving DecidableEq, Repr, Inhabited

/-- How an end of a splice stands (R220). -/
inductive EndState where
  | free                          -- Attach still to be made
  | done                          -- fixed by DONE
  | met (old : Word)              -- fixed by MET; the end's old reference
  deriving DecidableEq, Repr, Inhabited

/-- One side of a splice: its consumed port, the word taken from it, the far end, the word the far end holds unless
another party has taken it, and how the end stands (R220). -/
structure SpliceEnd where
  port  : Word
  word  : Word
  far   : Word
  names : Word
  state : EndState
  held  : Nat                     -- times its Attach has met the same hold (R221)
  deriving DecidableEq, Repr, Inhabited

/-- Where a splice stands (R220). -/
inductive SplicePhase where
  | takeFirst | takeSecond | attach | meets
  | hold (retry : Nat)            -- an Attach was answered HOLD; it is sent again from that cycle
  | waitFirst                     -- a Meet was answered FIRST, held at the home
  | finish                        -- complete once its writes are made
  | joined                        -- another splice has taken it over, and it is complete with that one (R221; log 20)
  deriving DecidableEq, Repr, Inhabited

/-- A splice in progress (R220). -/
structure SpliceTask where
  a      : SpliceEnd
  b      : SpliceEnd
  turnB  : Bool                   -- the next Attach, or the one answered HOLD, is the one at `b`
  meets  : List Word              -- references still to meet at
  pushes : Bool                   -- no Meet so far leaves the push to another splice
  phase  : SplicePhase
  writes : List (Word × Word)     -- plain writes due before its next step: address and word (R218)
  partners : List Nat             -- rewrites whose splices it has taken over (log 20)
  deriving DecidableEq, Repr, Inhabited

/-- What a link's issuer is doing. -/
inductive LinkWork where
  | link (t : LinkTask)
  | splice (t : SpliceTask)
  deriving DecidableEq, Repr, Inhabited

/-- A rewrite the rewrite unit has begun (R213). -/
structure Rewrite where
  uid    : Nat
  ctx    : Nat
  die    : Nat
  core   : Nat
  action : BitVec 4
  w0     : Word                   -- its pair record
  w1     : Word
  a      : Word
  b      : Word
  begun  : Bool                   -- its checks are made and its nodes popped
  faulted : Bool                  -- a write or link step was answered fault: a fault thread is due (R212)
  writes : List (Word × Word)     -- words of its pair and new nodes still to write: address and word (R213 steps 3 and 4)
  todo   : List LinkWork          -- links still to perform, in order
  cur    : Option LinkWork
  frees  : List Word              -- nodes still to free (R213 step 6)
  deriving DecidableEq, Repr, Inhabited

/-! ### The thread -/

/-- What holds a thread, or makes its word wait at issue (R29). -/
inductive Hold where
  | none
  | until_ (cycle : Nat)                                            -- trap entry (R338)
  | yielded (cycle : Nat) (slots : List Nat)                        -- R97
  | fence (rel acq : Bool) (course : BitVec 128) (masks : List (BitVec 16)) (upto : Nat)   -- R159
  | drain (die : Nat)                                               -- its earlier accesses to a die are awaited
  | twait (n : Nat)                                                 -- R306
  | stall                                                           -- 32 operations outstanding (R294)
  | table (t : Nat) (mark : Nat)                                    -- `ttab`: operations issued before this number, reading the table (R302)
  | ringq (k : Nat)                                                 -- R270, code 6
  | walk (pages : List (Nat × Nat))                                 -- the walks in progress as its word met one (R362)
  | quarry (served : Bool)                                          -- `alloc` waits for a batch (R216)
  | link                                                            -- R223
  | rulew (idx : Nat) (dies : List Nat)                             -- the entry, and the dies that have not answered (R233)
  | crset (e : Nat) (dies : List Nat)                               -- the entry, and the dies that have not copied (R99)
  | migrate                                                         -- R323
  | saving                                                          -- `eret` in PRIV waits for its block (R346, R350)
  | switch                                                          -- switched out once its block is complete (R350)
  deriving DecidableEq, Repr, Inhabited

/-- Where a migration stands (R323). -/
inductive MigPhase where
  | waiting                       -- stores, windows and operations are awaited
  | sent                          -- the packet is on its way
  | refused (cycle : Nat)         -- refused at that cycle; sent again 512 cycles later
  deriving DecidableEq, Repr, Inhabited

/-- A migration in progress (R323). -/
structure Migration where
  die    : Nat
  core   : Nat
  resume : Word
  lc0    : Word           -- LC0 and LC1 as the loop-back check of a `mig` leaves them (R90)
  lc1    : Word
  phase  : MigPhase
  deriving DecidableEq, Repr, Inhabited

/-- A trap that waits for open operations before it is entered (R45). -/
structure PendingTrap where
  cause : Word                    -- the TRAPCAUSE to write
  pc    : Word
  info  : Word
  deriving DecidableEq, Repr, Inhabited

/-- One accumulator (R293): element `(i,j)` is bits `32(64i+j)+31` to `32(64i+j)`. -/
structure Acc where
  elems : BitVec 131072
  scA   : BitVec 32
  scB   : BitVec 32
  fA    : Option (BitVec 4)
  fB    : Option (BitVec 4)
  vr    : Nat
  vc    : Nat
  isSet : Bool
  deriving DecidableEq, Repr, Inhabited

/-- An accumulator at thread start: unset, elements zero (R293). -/
def Acc.start : Acc := ⟨0, 0, 0, none, none, 0, 0, false⟩

/-- The system registers a thread holds (R76). CTXID, WHERE, HODCAP, LAP, RINGPOS, LAPLEN, FEATMASK, CYCLE and POWERH
are views of other parts of the state. -/
structure SysRegs where
  iter      : Word := 0
  flags     : Word := 0
  lc0       : Word := 0
  ls0       : Word := 0
  le0       : Word := 0
  lc1       : Word := 0
  ls1       : Word := 0
  le1       : Word := 0
  tseq      : Word := 0
  tdone     : Word := 0
  cwp       : Vector Word 4 := Vector.replicate 4 0
  trapvec   : Word := 0
  trapcause : Word := 0
  trappc    : Word := 0
  trapinfo  : Word := 0
  trapsave  : Word := 0
  vlive     : Word := BitVec.allOnes 64
  lat       : Word := 0
  hops      : Word := 0
  rndmode   : Word := 0
  regeps    : Word := 0
  history   : Vector Word 32 := Vector.replicate 32 0
  deriving DecidableEq, Repr, Inhabited

/-- A thread: the registers of R41 and R76, and what it has outstanding. -/
structure Thread where
  uid        : Nat                        -- the model's own: unique to the thread
  ctx        : Nat
  pc         : Word
  s          : Vector Word 32 := Vector.replicate 32 0
  q          : Vector Bool 8 := Vector.replicate 8 false
  v          : Vector VReg 64 := Vector.replicate 64 0
  p          : Vector Word 8 := Vector.replicate 8 0
  d          : Vector (BitVec 128) 16 := Vector.replicate 16 0
  acc        : Vector Acc 4 := Vector.replicate 4 Acc.start
  sys        : SysRegs := {}
  hs         : Bool := false              -- handler state (R339)
  priv       : Bool := false              -- R346
  tags       : List Tag := []
  hold       : Hold := .none
  pending    : Option PendingTrap := none
  firstWord  : Bool := false              -- no word has issued since the last trap entry (R341)
  notices    : List Word := []            -- STAMP_REGRESS, oldest first (R178)
  lateFaults : List (Word × Word × Bool) := []   -- TRAPCAUSE form, TRAPINFO, and whether an operation raised it (R307, R320)
  unmerged   : List (Nat × BitVec 7) := []   -- indications of completed operations, by sequence number (R306)
  former     : List (BitVec 24) := []     -- oldest first (R185)
  nodeA      : Word := 0
  stampedNow : Bool := false              -- a stamped store under the present id
  stampedAny : Bool := false              -- a stamped store under any id (R182)
  halted     : Bool := false              -- debug-halted by its own `halt` (R343)
  debugDue   : Bool := false
  preempt    : Option Word := none        -- the save block of a pre-emption request (R345)
  migration  : Option Migration := none
  link       : Option LinkTask := none
  reissue    : Option Word := none        -- a load that has migrated the thread and is to issue again (R323)
  image      : List Word := []            -- words of an image read for the word at `pc`, which then issues again
  deriving DecidableEq, Repr, Inhabited

/-- A hardware slot (R25, R185, R374). -/
structure Slot where
  owner    : Option Nat := none           -- queue-owner context; none is unowned
  gen      : Nat := 1
  heldAway : List Nat := []               -- generations held away
  noticed  : List Nat := []               -- generations that have had a stop notice
  mark     : Bool := false                -- DEBUG mark
  thread   : Option Thread := none
  deriving DecidableEq, Repr, Inhabited

/-! ### The ordering machine's traffic (R149) -/

/-- What a request asks of its serialisation point (R154). -/
inductive ReqBody where
  | load (elems : List Elem)
  | store (vaddr : Word) (bytes : List (Nat × Byte))
  | merge (vaddr : Word) (bytes : List (Nat × Byte × Byte))   -- nibbles: address, value, mask (R298)
  | atomic (op : AtomicOp) (size : Nat) (vaddr : Word) (paddr : Nat) (b cmp : Word)
  | lda (vaddr : Word) (paddr : Nat) (iter : BitVec 32) (lag : BitVec 8) (wait : Bool)
  | ldas (vaddr : Word) (paddr : Nat)
  | sta (vaddr : Word) (paddr : Nat) (stamp : BitVec 32) (data : VReg)
  | stad (vaddr : Word) (paddr : Nat) (stamp : BitVec 32) (data : VReg) (lanes : Word)
  | packet (core : Nat) (place : Place) (t : Thread)
  | result (ctx g member : Nat) (vaddr : Word) (paddr : Nat) (stamp : BitVec 32) (data : VReg) (ind : BitVec 7)   -- R314
  deriving DecidableEq, Repr, Inhabited

/-- One request (R149). -/
structure Req where
  req     : Nat
  owner   : Nat
  wid     : BitVec 24             -- the issuer's writer id; 0 for an engine
  ctx     : Nat
  src     : Nat                   -- issuing die
  srcCore : Nat
  dest    : Nat                   -- destination die
  core    : Option Nat            -- the owning core, for a scratchpad
  engine  : Bool
  retries : Nat                   -- R180
  notBefore : Option Nat          -- cycle a "retry" answer was delivered (R152)
  ordered : Bool                  -- sent once the earlier groups of its word are performed (R98, R162)
  hops    : Nat                   -- links its route crosses, as it is sent (R321)
  body    : ReqBody
  zeroes  : Bool := false         -- the zeroing of a freed node (R203)
  sentAt  : Nat := 0              -- the cycle it was last sent (R321)
  lat     : Nat := 0              -- cycles it spent on links, once it is delivered (R321)
  deriving DecidableEq, Repr, Inhabited

/-- An answer (R154). -/
inductive RespBody where
  | values (vals : List (Nat × Word))      -- lane and value
  | ack
  | old (value : Word)
  | block (data : VReg) (stamp : BitVec 32)
  | accepted
  | retry (r : Req)                        -- the request goes back to its send list
  | trap (lane : Nat) (cause : BitVec 8) (info : Word)   -- the lane, register or image word it concerns
  | part (vals : List (Nat × Word)) (cause : BitVec 8) (info : Word)   -- an engine's group: what could be read, and the lowest failing address
  | regress (vaddr : Word) (wid : BitVec 24)
  | result (ctx g : Nat) (round : BitVec 32) (ok : Bool) (ind : BitVec 7)   -- a result store's acknowledgement (R314)
  | packetOk
  | packetNo
  deriving DecidableEq, Repr, Inhabited

/-- An answer on its way from the home `src` to the issuer's die `dest` (R149). -/
structure Resp where
  req   : Nat
  owner : Nat
  src   : Nat
  dest  : Nat
  hops  : Nat             -- links its request crossed (R321)
  lat   : Nat             -- cycles its request spent on links (R321)
  since : Nat             -- the cycle it left the home (R321)
  vaddr : Word            -- the address its request named, for an answer that is lost (R320)
  body  : RespBody
  passed : Bool := false  -- it has passed a die of its route that then failed (R320)
  deriving DecidableEq, Repr, Inhabited

/-- A monitor entry (R179). -/
structure MonEntry where
  req   : Nat
  owner : Nat
  wid   : BitVec 24
  ctx   : Nat
  src   : Nat
  vaddr : Word
  paddr : Nat
  iter  : BitVec 32
  lag   : BitVec 8
  hops  : Nat             -- links its request crossed (R321)
  lat   : Nat             -- cycles its request spent on links (R321)
  reserved : Bool         -- one of entries 3,840 to 4,095 (R180)
  deriving DecidableEq, Repr, Inhabited

/-! ### Engine operations (R158, R294) -/

/-- Where an engine operation stands. -/
inductive OpPhase where
  | queued
  | reading                       -- its reads are on their way
  | read                          -- its reads are answered
  | writing                       -- its writes are on their way
  | waking                        -- a drain whose writes are performed (R300)
  | wakeReading                   -- the read of its wake node is on its way
  | wakeRead                      -- the read of its wake node is answered
  | recording                     -- its record is created and not yet written (R300)
  | held                          -- a `reds` whose round is taken and whose contribution is not sent (R331)
  | sent                          -- a `reds` whose contribution is sent (R331)
  deriving DecidableEq, Repr, Inhabited

/-- An engine operation issued and not complete. -/
structure TileOp where
  uid     : Nat                   -- the pseudo-thread
  owner   : Nat                   -- the thread
  place   : Place
  ctx     : Nat
  wid     : BitVec 24
  seq     : Nat
  op      : Nat                   -- T opcode
  fa      : Nat
  fb      : Nat
  fc      : Nat
  descs   : List (BitVec 128)     -- the descriptors it names, as read at issue
  regs    : List Word             -- the uniform registers it names, as read at issue
  vec     : VReg                  -- `reds`: the contribution
  rnd     : BitVec 2
  regeps  : Word
  skip    : Bool                  -- completes without effect (R254)
  phase   : OpPhase
  waitFor : List Nat              -- requests whose answers it awaits
  ind     : BitVec 7              -- its indications, for FLAGS 6:0
  wrote   : Nat                   -- `tcopy`: bytes written (R304)
  piece   : Nat                   -- `tcopy`: bytes of the group being written
  reads   : List (Nat × Word)     -- what its reads have given: element and value
  bad     : Option (BitVec 8 × Word)   -- the failing element with the lowest address (R308)
  deriving DecidableEq, Repr, Inhabited

/-! ### Pair records (R234 to R244) -/

/-- A hod entry (R236). -/
structure HodEntry where
  w0      : Word
  w1      : Word
  entered : Nat
  rose    : Nat
  deriving DecidableEq, Repr, Inhabited

/-- Who created a record (R241). -/
inductive RecSource where
  | push | link | unit | intake | wake
  deriving DecidableEq, Repr, Inhabited

/-- A record created and not yet placed in a hod, a spill partition or a held place (R230, R235). -/
structure FreshRec where
  id    : Nat                     -- the number it was issued under, among its thread's accesses
  owner : Nat                     -- the thread whose earlier accesses it waits for (R230), or the rewrite
  wid   : BitVec 24               -- the writer id of the thread that sends it, or 0 (R355)
  ctx   : Nat
  die   : Nat
  core  : Nat
  a     : Word
  b     : Word
  src   : RecSource
  words : Option (Word × Word)    -- once classified
  deriving DecidableEq, Repr, Inhabited

/-- An entry of an inbound log, in arrival order: a request, or a record for a core (R354, R355). -/
inductive LogItem where
  | req (r : Req)
  | record (die core ctx : Nat) (w0 w1 : Word)
  deriving DecidableEq, Repr, Inhabited

/-- A record on its way to a spill partition (R240), or to a neighbour's (R244). -/
structure SpillRec where
  die : Nat
  ctx : Nat
  w0  : Word
  w1  : Word
  op  : Option Nat        -- the drain that is complete once it is written (R300)
  deriving DecidableEq, Repr, Inhabited

/-! ### Ring (R256 to R273) -/

/-- A part entry of a ring program (R259). -/
structure Part where
  w0 : Word
  w1 : Word
  w2 : Word
  deriving DecidableEq, Repr, Inhabited

/-- A ring program (R259): its header word 0, program number, and part entries. -/
structure RingProgram where
  header : Word
  number : BitVec 16
  parts  : List Part
  deriving DecidableEq, Repr, Inhabited

/-- A segment on the ring (R262). -/
structure Segment where
  w0       : Word
  w1       : Word
  payload  : BitVec 8192
  lane     : Nat
  source   : Nat                  -- die index of its source
  injected : Nat                  -- cycle
  bad      : Bool
  tapped   : List Nat             -- dies whose tap or forwarder has dealt with it
  deriving DecidableEq, Repr, Inhabited

/-- The state of a handle (R265). -/
inductive HandleState where
  | free | waiting | landing | complete | absent
  deriving DecidableEq, Repr, Inhabited

/-- A ring handle of one context on one core (R265). -/
structure Handle where
  ctx      : Nat
  k        : Nat
  state    : HandleState := .free
  part     : Option Part := none
  lap      : BitVec 32 := 0              -- the caught lap
  lapK     : Nat := 0                    -- how many laps it has caught before this one
  w        : Nat := 0                    -- write pointer
  landed   : List (Nat × BitVec 512) := []   -- sequence number and block
  lost     : List Nat := []              -- sequence numbers missed
  failed   : List Nat := []              -- sequence numbers that failed their CRC
  missedWait : Bool := false
  missed   : Bool := false
  crcBad   : Bool := false
  overwritten : Bool := false
  list     : Word := 0                   -- expert token list address (R268)
  count    : Nat := 0                    -- n
  accepted : Nat := 0
  dropped  : Nat := 0
  releasing : Option (List Nat) := none  -- released once these operations have completed (R269)
  resolved : Bool := false               -- `lap` is the lap it catches
  window   : Option (Nat × Nat) := none  -- the caught lap's window, once that lap has begun
  deriving DecidableEq, Repr, Inhabited

/-! ### Cores and dies -/

/-- A context's partition on a core, in units of 64 KiB (R353). -/
structure Partition where
  ctx  : Nat
  base : Nat
  size : Nat
  deriving DecidableEq, Repr, Inhabited

/-- The decode tables of a context on a core, as table images (R280, R302). -/
structure Tables where
  ctx : Nat
  c8  : Vector (BitVec 10368) 2          -- 1,296 bytes each
  c4  : Vector (BitVec 768) 2            -- 96 bytes each
  deriving DecidableEq, Repr, Inhabited

/-- One core (R18). -/
structure Core where
  issuePtr   : Nat := 15                 -- the slot that issued last (R29)
  lastIssue  : Option Nat := none        -- the cycle of the last issue
  hod        : List HodEntry := []       -- in order of entry
  hodcap     : List (Nat × Nat) := []    -- context and mark, for resident contexts (R236)
  held       : List FreshRec := []       -- R241
  nodeStacks : List (Nat × List Word) := []   -- free stacks, top first (R216)
  wants      : List Nat := []            -- contexts whose stack asks for a batch (R216)
  popped     : List (Nat × Nat × List Word) := []   -- a waiting `alloc` or rewrite, its context, and the nodes it has popped (R216)
  giveBack   : List (Nat × List Word) := []   -- batches on their way back to a quarry, oldest node first (R216)
  cache      : List (Nat × Nat × Word) := []  -- rule cache: context, index, entry (R210)
  rewrites   : List Rewrite := []
  tables     : List Tables := []
  handles    : List Handle := []
  partitions : List Partition := []
  evicted    : List (Nat × Word) := []   -- context and its eviction area's address (R354)
  weights    : List (Nat × BitVec 8) := []    -- R371
  handler    : Word := 0                 -- PREEMPT handler (R371)
  takeBusy   : Option (Nat × HodEntry) := none  -- a take that waits for the rewrite unit: slot and record (R238)
  lastTake   : Option Nat := none        -- the cycle of the last take (R238)
  lastArb    : Option Nat := none        -- the cycle of the slot arbiter's last boundary (R30)
  deriving DecidableEq, Repr, Inhabited

/-- One keystone lane (R286). -/
structure KLane where
  value   : BitVec 320
  special : Word
  deriving DecidableEq, Repr, Inhabited

/-- A keystone vector slot in use (R286, R332). -/
structure KeySlot where
  ctx      : Nat
  group    : Nat
  round    : BitVec 32
  lanes    : List KLane                  -- 64
  sig      : Word                        -- lanes with a signalling NaN contributed (R332)
  accepted : Nat                         -- children accepted
  packages : List Nat                    -- packages whose keystones are combined (R337)
  since    : Nat                         -- the cycle it was taken
  reported : Bool                        -- the watchdog has reported it (R333)
  result   : Option (VReg × BitVec 7)    -- rounded
  toWrite  : List (Word × Word)          -- member records whose result is still to be written, in ascending rank
  acks     : List Nat                    -- member dies whose result store is issued and not acknowledged (R314)
  lastWrite : Option Nat                 -- the cycle of its last result store
  deriving DecidableEq, Repr, Inhabited

/-- A stop notice (R182): the ids it names, its context, and the plinth dies that have it. -/
structure StopNotice where
  ids     : List (BitVec 24)
  ctx     : Nat
  applied : List Nat
  cleared : List Nat                     -- lamp dies that have cleared held-away marks (R185)
  deriving DecidableEq, Repr, Inhabited

/-- A thread that has stopped and whose notice has not left (R15, R182). -/
structure Stopped where
  uid : Nat
  ids : List (BitVec 24)
  ctx : Nat
  die : Nat
  deriving DecidableEq, Repr, Inhabited

/-- A cached translation (R362): the page's first virtual address, its size, and its leaf entry. -/
structure TlbEntry where
  ctx  : Nat
  base : Nat
  size : Nat
  leaf : Word
  deriving DecidableEq, Repr, Inhabited

/-- A buffered migration packet (R323). -/
structure Buffered where
  core : Nat
  src  : Nat               -- the die it came from
  hops : Nat               -- links its packet crossed (R321)
  lat  : Nat               -- cycles its packet spent on links (R321)
  t    : Thread
  deriving DecidableEq, Repr, Inhabited

/-- The status counts a lamp die keeps for a context (R245). -/
structure Status where
  created  : BitVec 32 := 0
  consumed : BitVec 32 := 0
  sent     : BitVec 16 := 0
  placed   : BitVec 16 := 0
  deriving DecidableEq, Repr, Inhabited

/-- One die of either kind (R18, R19, R371). -/
structure Die where
  routes     : List (Nat × Nat) := []    -- destination die and port, where not 0 (R317)
  laneErrors : List (Nat × BitVec 32) := []   -- R264, R371
  errors     : BitVec 32 := 0
  threshold  : BitVec 32 := 64
  bypassed   : Bool := false
  bypassFrom : Option (BitVec 32) := none   -- the lap its bypass begins at, while segments of earlier laps may be about (R261)
  outOfService : Bool := false
  cap        : BitVec 16 := 64
  headroom   : BitVec 2 := 3
  power      : BitVec 32 := 0            -- milliwatts over the last span
  solver     : Bool := true              -- FEATMASK bit 0 (R75)
  halt       : Bool := false
  buffer     : List Buffered := []
  lastSpill  : List (Nat × Nat) := []    -- context and the core that last spilled (R240)
  adverts    : List (Nat × Nat × Nat × Nat) := []   -- from die, context, count, room (R244)
  advertised : List (Nat × Nat) := []    -- context and the cycle of the die's last advertisement (R244)
  status     : List (Nat × Status) := []
  tlb        : List TlbEntry := []
  walks      : List (Nat × Nat) := []    -- walks in progress: context, and an address of the page (R362)
  walkQueue    : List (Nat × Nat) := []    -- misses that wait for a walk, in arrival order (R362)
  courses    : List (Nat × Nat × BitVec 128 × List (BitVec 16)) := []   -- context, index, entry, map (R161)
  monitor    : List MonEntry := []
  stopSet    : List (BitVec 24) := []
  deferred   : List StopNotice := []
  keystones  : List KeySlot := []
  expected   : List (Nat × Nat × BitVec 32) := []   -- context, group, expected round (R331)
  missed     : Nat := 0                  -- R263
  deriving DecidableEq, Repr, Inhabited

/-! ### Management, host and package -/

/-- A launch record (R27, R373). -/
structure LaunchRec where
  ctx   : Nat
  place : Place
  pc    : Word
  regs  : List Word                      -- s0 to s31
  held  : Bool
  deriving DecidableEq, Repr, Inhabited

/-- What the dies hold of a loaded context (R210, R215, R247). -/
structure CtxInfo where
  n         : Nat
  tagClass  : BitVec 32768               -- 4,096 bytes
  mark      : Word                       -- lowest node never handed out (R215)
  returned  : List Word                  -- returned nodes, oldest first
  intakePtr : Nat                        -- R247
  lastWave  : Option (BitVec 128)        -- R245
  deriving DecidableEq, Repr, Inhabited

/-- A reduction group in force (R329). -/
structure Group where
  ctx     : Nat
  g       : Nat
  h0      : Word
  h1      : Word
  nodes   : List Word
  members : List (Word × Word)
  deriving DecidableEq, Repr, Inhabited

/-- A message of the reduction class (R316, R331, R332); `passed`: it has passed a die of its route that then failed (R320). -/
inductive RedMsg where
  | contribution (ctx g : Nat) (round : BitVec 32) (rank : Nat) (src dest : Nat) (x : VReg) (passed : Bool)
  | keystone (ctx g : Nat) (round : BitVec 32) (src dest : Nat) (lanes : List KLane) (sig : Word) (passed : Bool)
  deriving DecidableEq, Repr, Inhabited

/-- A frame sent and not acknowledged (R336). -/
structure SentFrame where
  port : Nat
  peer : Nat
  seq  : BitVec 32
  f    : Frame
  sentAt : Nat
  resends : Nat
  deriving DecidableEq, Repr, Inhabited

/-- What management is told or counts, newest last. -/
inductive MgmtEvent where
  | noticeDiscarded (wid : BitVec 24)               -- R178
  | quarryEmpty (ctx : Nat) (a : Word)              -- R213
  | slotBlocked (p : Place)                         -- R186
  | svcRefused (ctx : Nat) (e : Nat)                -- R344
  | lostStore (ctx : Nat) (vaddr : Word)            -- R320
  | homeReadError (paddr : Nat)                     -- R146
  | logFilling (ctx : Nat)                          -- R355
  | watchdog (ctx g : Nat) (round : BitVec 32)      -- R333
  | overPower (watts : Nat)                         -- R366
  | peerFailed (port peer : Nat)                    -- R336
  | frameDiscarded (port kind : Nat)                -- R335
  | slotStuck (p : Place)                           -- R357
  | imageRefused                                    -- R364
  | recordsLost (ctx : Nat) (die : Nat)             -- R320
  deriving DecidableEq, Repr, Inhabited

/-- A fault record (R375). -/
structure FaultRec where
  w0 : Word
  w1 : Word
  w2 : Word
  w3 : Word
  deriving DecidableEq, Repr, Inhabited

/-- A saved thread: its block, and whether every operation of it is recorded there (R346); kept until it is restored. -/
structure Saving where
  uid    : Nat
  ctx    : Nat
  block  : Word
  place  : Place
  complete : Bool                        -- every operation is recorded
  tags   : List Tag                      -- its open operations: what a block's tag has no field for
  first  : Bool                          -- it stood before a handler's first word
  inds   : List (Nat × BitVec 7)         -- the indications its block holds, by sequence number (R306)
  opFault : Bool                         -- the late fault its block holds is one of an operation (R254)
  deriving DecidableEq, Repr, Inhabited

/-- A lap that has ended: its count, origin, grade and program (R257). -/
structure PastLap where
  lap     : BitVec 32
  origin  : Nat
  grade   : BitVec 2
  program : RingProgram
  deriving DecidableEq, Repr, Inhabited

/-- The Lantern ring's clock and programs (R257 to R261). -/
structure Ring where
  running  : Option RingProgram := none
  standby  : Option RingProgram := none
  lap      : BitVec 32 := 0
  origin   : Nat := 0
  grade    : BitVec 2 := 0
  lastLen  : Nat := 0
  past     : List PastLap := []          -- laps whose segments may still be on the ring, newest first
  switchAt : Option (BitVec 32) := none
  stopped  : Bool := false               -- firmware has stopped the ring
  segments : List Segment := []
  deriving DecidableEq, Repr, Inhabited

/-- The management registers of BAR0 (R368, R370, R372, R375). -/
structure Bar0 where
  quiescent : Word := 0
  faulted   : Word := 0
  budget    : Word := 27000
  grade     : Word := 0
  power     : Word := 0
  shootdown : Word := 0
  shooting  : List Nat := []             -- accesses a shootdown waits for
  busy      : Bool := false
  destroying : Bool := false             -- a DESTROY has begun and waits for operations (R373)
  status    : BitVec 8 := 0
  cmdCtx    : Nat := 0
  cmdCode   : BitVec 8 := 0
  args      : Vector Word 4 := Vector.replicate 4 0
  cmdArgs   : Vector Word 4 := Vector.replicate 4 0   -- the arguments the running command started with (R372)
  records   : List (Nat × Nat × Word) := []        -- context, word, value, where not 0 (R369)
  faults    : List (Nat × Nat × List FaultRec) := []   -- context, write count, the last 31 records (R375)
  services  : List (Nat × Word × Word × Word × Word) := []   -- context and its service register (R375)
  msix      : List Nat := []             -- vectors raised, oldest first
  logCount  : BitVec 32 := 0
  log       : List (Nat × Word × Word) := []       -- intake log: entry, words (R249)
  nonce     : BitVec 512 := 0
  report    : List Byte := []
  deriving DecidableEq, Repr, Inhabited

/-- The fuses and saved parameters (R364, R367). -/
structure Fuses where
  keys      : List (BitVec 512 × Bool) := []       -- digest, revoked
  svn       : Nat := 0
  partId    : BitVec 128 := 0
  solverOff : List Nat := []                       -- lamp dies fused off
  saved     : Option (List Nat × List (Nat × Nat) × List Nat) := none   -- saved with the trained parameters: failed dies, links down, temperatures
  deriving DecidableEq, Repr, Inhabited

/-- A scale-out port (R335). -/
structure Port where
  n       : Nat
  mac     : BitVec 48 := 0
  nextSeq : List (Nat × BitVec 32) := []           -- peer package and the next sequence number to send
  seen    : List (Nat × BitVec 32) := []           -- peer package and the highest number received in order
  sent    : List Frame := []                       -- the frames put on its wire, newest last
  deriving DecidableEq, Repr, Inhabited

/-- What management sets by a route the spec gives no address for (log 41). -/
inductive Setting where
  | stamp (pa : Nat) (stamp : BitVec 32)                -- a block placed by `.stamp` (R55, R173)
  | watchdog (cycles : Nat)                             -- R333
  | mac (port : Nat) (mac : BitVec 48)                  -- R335
  | package (pkg port : Nat) (mac : BitVec 48)          -- an entry of the package table (R335)
  | etherType (x : BitVec 16)                           -- R335
  | svn (n : Nat)                                       -- firmware's advance of the fused security version (R367)
  deriving DecidableEq, Repr, Inhabited

/-- One move of the machine (R150): the step taken next. -/
inductive Move where
  | issue (die core : Nat)               -- the core issues one word (R29, R151)
  | event (i : Instr)                    -- a machine step
  | tick                                 -- a cycle passes
  | set (x : Setting)                    -- management sets a figure
  deriving DecidableEq, Repr, Inhabited

/-- The word in its issue cycle: the slot, its address, its bits, and where the flow goes (R29, R86). -/
structure Issue where
  place : Place
  pc    : Word
  word  : Word
  next  : Option Word := none            -- set by a word that changes the flow
  moved : Bool := false                  -- the word has trapped, ended its thread, or waits: no loop-back check, no advance
  deriving DecidableEq, Repr, Inhabited

/-- The whole machine. -/
structure State where
  cycle    : Nat := 0
  cur      : Option Issue := none
  slots    : List (Place × Slot) := []           -- slots not listed are as at reset
  cores    : List ((Nat × Nat) × Core) := []
  dies     : List (Nat × Die) := []
  mem      : List Host.Cell := []                -- physical address and byte, canonical
  side     : List (Nat × BitVec 56) := []        -- block address and sideband, canonical (R172)
  errors   : List Nat := []                      -- locations with an uncorrectable error (R146)
  stepped  : List Nat := []                      -- blocks on which a step has been performed this cycle (R154)
  sends    : List Req := []                      -- send lists, in issue order
  chans    : List Req := []                      -- channels and engine channels, in order of sending
  arrivals : List Req := []                      -- arrival queues, in order of delivery
  resps    : List Resp := []
  logged   : List LogItem := []                  -- the entries of inbound logs, in arrival order (R354, R355)
  outs     : List Out := []
  ops      : List TileOp := []
  accs     : List (Nat × Vector Acc 4) := []     -- accumulators of threads that have ended with operations pending (R300)
  fresh    : List FreshRec := []
  spilling : List SpillRec := []
  batches  : List (Nat × Nat × List (Word × Word)) := []   -- destination die, context, records (R244)
  lastWave : Option Nat := none                  -- the cycle of the last quiescence wave (R245)
  stopped  : List Stopped := []
  notices  : List StopNotice := []
  redMsgs  : List RedMsg := []
  saving   : List Saving := []
  launches : List LaunchRec := []
  ctxs     : List CtxInfo := []                  -- loaded contexts
  groups   : List Group := []
  ring     : Ring := {}
  bar0     : Bar0 := {}
  fuses    : Fuses := {}
  recovery : Bool := false
  linksDown : List (Nat × Nat) := []             -- die and port (R364)
  firmware : BitVec 512 := 0                     -- digest of the running firmware (R367)
  intake   : List (Nat × Nat × Word × Word) := []   -- records on their way to the intake unit: context, BAR2 offset, words
  hostRead : Option (List Byte) := none          -- the answer to the last host read
  ports    : List Port := []
  packages : List (Nat × Nat × BitVec 48) := []  -- package, port, peer address (R335)
  etherType : BitVec 16 := 0x88B5
  frames   : List SentFrame := []
  watchdog : Nat := 2 ^ 26
  mgmt     : List MgmtEvent := []
  nextId   : Nat := 1                            -- the model's own: next number of a request, thread or operation
  freeCtr  : Nat := 0                            -- the model's own: draws of free values (log 5)
  agenda   : List Move := []                     -- the model's own: the steps taken next (log 1)
  deriving DecidableEq, Repr, Inhabited

/-- Why a step stops. -/
inductive Fault where
  /-- A word's meaning was asked for while no word is in its issue cycle. `exec` of a word instruction raises it on a
  state whose `cur` is empty or names a slot without a thread; `step` never calls a word's meaning so. Safe. -/
  | noThread
  deriving DecidableEq, Repr, Inhabited

/-- Why an instruction has no meaning. -/
inductive Refusal where
  /-- No meaning is written for the instruction yet. Safe. -/
  | notModelled (mnemonic : String)
  deriving DecidableEq, Repr, Inhabited

/-- The machine right after start-up (R364 step 9): CYCLE 0, every slot free and unowned in generation 1, no context
loaded, every register at its reset value (R370, R371), memory with nothing listed. -/
def State.reset : State := {}

end Sys2Proof.Machine
end

