-- ==== Sys2Proof/Machine/Geometry.lean ====
section
/-! DEFINITION. The pavement: die kinds, neighbours, ring positions, writer ids and physical addresses (R17 to R26). -/

namespace Sys2Proof.Machine

/-- Column of a die (R17). -/
def dieX (d : Nat) : Nat := d % 24

/-- Row of a die (R17). -/
def dieY (d : Nat) : Nat := d / 24

/-- A lamp die: x + y even (R17). -/
def isLamp (d : Nat) : Bool := d < Config.dies && (dieX d + dieY d) % 2 == 0

/-- A plinth die: x + y odd (R17). -/
def isPlinth (d : Nat) : Bool := d < Config.dies && (dieX d + dieY d) % 2 == 1

/-- The dies of each kind, in ascending index. -/
def lampDies : List Nat := (List.range Config.dies).filter isLamp

/-- The plinth dies, in ascending index. -/
def plinthDies : List Nat := (List.range Config.dies).filter isPlinth

/-- The number of a lamp die among the 336: its index halved (R162, R239). -/
def lampNo (d : Nat) : Nat := d / 2

/-- The lamp die of a pair of indices (R162). -/
def lampOf (j : Nat) : Nat := if isLamp (2 * j) then 2 * j else 2 * j + 1

/-- Grid distance of two dies (R247). -/
def gridDist (a b : Nat) : Nat :=
  ((dieX a : Int) - dieX b).natAbs + ((dieY a : Int) - dieY b).natAbs

/-- The die beyond a port: 1 X+, 2 X−, 3 Y+, 4 Y− (R317). -/
def neighbour (d port : Nat) : Option Nat :=
  match port with
  | 1 => if dieX d + 1 < Config.cols then some (d + 1) else none
  | 2 => if 0 < dieX d then some (d - 1) else none
  | 3 => if dieY d + 1 < Config.rows then some (d + 24) else none
  | 4 => if 0 < dieY d then some (d - 24) else none
  | _ => none

/-- The neighbours of a die (R17). -/
def neighbours (d : Nat) : List Nat := [1, 2, 3, 4].filterMap (neighbour d)

/-- The port of dimension order: along x to the column, then along y (R317). -/
def dimPort (d e : Nat) : Nat :=
  if dieX d < dieX e then 1 else if dieX e < dieX d then 2
  else if dieY d < dieY e then 3 else 4

/-- Ring position of a die (R20). -/
def ringPos (d : Nat) : Nat :=
  if dieY d = 0 then dieX d
  else if dieX d = 0 then 645 + (27 - dieY d)
  else if dieY d % 2 = 1 then 24 + 23 * (dieY d - 1) + (23 - dieX d)
  else 24 + 23 * (dieY d - 1) + (dieX d - 1)

/-- Cycles a segment takes from one ring position to another (R20). -/
def ringDelay (source dest : Nat) : Nat := 3 * ((ringPos dest + 672 - ringPos source) % 672)

/-- The writer id of a slot in a generation (R25). -/
def writerId (p : Place) (gen : Nat) : BitVec 24 :=
  BitVec.ofNat 24 (p.die * 2 ^ 14 + p.core * 2 ^ 10 + p.slot * 2 ^ 6 + gen)

/-- The slot a writer id names (R25). -/
def widPlace (w : BitVec 24) : Place :=
  ⟨w.toNat / 2 ^ 14, w.toNat / 2 ^ 10 % 16, w.toNat / 2 ^ 6 % 16⟩

/-- The generation of a writer id (R25). -/
def widGen (w : BitVec 24) : Nat := w.toNat % 64

/-- The generation after another: 1 to 63 and back to 1 (R25). -/
def nextGen (g : Nat) : Nat := if 63 ≤ g then 1 else g + 1

/-! ### Physical addresses (R22, R23) -/

/-- The space of a physical address: bits 51:48. -/
def paSpace (a : Nat) : Nat := a / 2 ^ 48

/-- A plinth physical address. -/
def plinthAddr (die off : Nat) : Nat := die * 2 ^ 36 + off

/-- A scratchpad physical address (R22). -/
def scratchAddr (die core off : Nat) : Nat := 2 ^ 48 + die * 2 ^ 32 + core * 2 ^ 22 + off

/-- The core of a scratchpad address: bits 25:22. -/
def paCore (a : Nat) : Nat := a / 2 ^ 22 % 16

/-- The byte offset within a core's scratchpad: bits 21:0. -/
def paScratchOff (a : Nat) : Nat := a % 2 ^ 22

/-- Whether a physical address names memory that exists and that a translation may yield (R22, R361). -/
def paValid (a : Nat) : Bool :=
  match paSpace a with
  | 0 => a / 2 ^ 46 == 0 && isPlinth (a / 2 ^ 36) && a % 2 ^ 36 < Config.plinthBytes
  | 1 => a % 2 ^ 48 / 2 ^ 42 == 0 && isLamp (a % 2 ^ 48 / 2 ^ 32) && a % 2 ^ 32 / 2 ^ 26 == 0
  | 2 => true
  | _ => false

/-- The home of a physical address: the die that serialises it (R23). -/
def paHome (a : Nat) : Nat :=
  match paSpace a with
  | 0 => a / 2 ^ 36
  | 1 => a % 2 ^ 48 / 2 ^ 32
  | _ => 24

/-- The owning core, for a scratchpad address. -/
def paOwner (a : Nat) : Option Nat := if paSpace a = 1 then some (paCore a) else none

/-- The 256-byte block of an address (R131). -/
def blockOf (a : Nat) : Nat := a / 256 * 256

end Sys2Proof.Machine
end

