-- ==== Sys2Proof/Machine/Store.lean ====
section
/-! DEFINITION. The named operations over the state: slots, threads, cores, dies, memory and sideband. Every read and
every write of them goes through these. -/

namespace Sys2Proof.Machine

/-! ### Slots and threads -/

/-- The slot at a place; a slot not listed is as at reset. -/
def State.slot (s : State) (p : Place) : Slot := lookupD {} p s.slots

/-- The state with a slot replaced. -/
def State.setSlot (s : State) (p : Place) (x : Slot) : State := { s with slots := putKey p x s.slots }

/-- The thread in a slot. -/
def State.thread? (s : State) (p : Place) : Option Thread := (s.slot p).thread

/-- The state with the thread of a slot replaced. -/
def State.setThread (s : State) (p : Place) (t : Thread) : State :=
  s.setSlot p { s.slot p with thread := some t }

/-- The state with the thread of a slot changed, if there is one. -/
def State.modThread (s : State) (p : Place) (f : Thread → Thread) : State :=
  match s.thread? p with
  | some t => s.setThread p (f t)
  | none => s

/-- The writer id of the thread in a slot (R25). -/
def State.widAt (s : State) (p : Place) : BitVec 24 := writerId p (s.slot p).gen

/-- A thread whose migration packet is on its way: the copy in the packet is the live one (R323). -/
def Thread.away (t : Thread) : Bool :=
  match t.migration with
  | some m => m.phase == .sent
  | none => false

/-- The slot whose thread has a number, with the thread; a copy whose packet is on its way is passed over. -/
def State.findThread (s : State) (uid : Nat) : Option (Place × Thread) :=
  s.slots.findSome? fun e => match e.2.thread with
    | some t => if t.uid = uid && !t.away then some (e.1, t) else none
    | none => none

/-- The threads of a context, with their places. -/
def State.threadsOf (s : State) (ctx : Nat) : List (Place × Thread) :=
  s.slots.filterMap fun e => match e.2.thread with
    | some t => if t.ctx = ctx then some (e.1, t) else none
    | none => none

/-! ### Cores and dies -/

/-- A core; a core not listed is as at reset. -/
def State.core (s : State) (d c : Nat) : Core := lookupD {} (d, c) s.cores

/-- The state with a core replaced. -/
def State.setCore (s : State) (d c : Nat) (x : Core) : State := { s with cores := putKey (d, c) x s.cores }

/-- The state with a core changed. -/
def State.modCore (s : State) (d c : Nat) (f : Core → Core) : State := s.setCore d c (f (s.core d c))

/-- A die as at reset, with its solver fuse (R75). -/
def Die.fresh (f : Fuses) (d : Nat) : Die := { solver := !(f.solverOff.contains d) }

/-- A die; a die not listed is as at reset. -/
def State.die (s : State) (d : Nat) : Die := lookupD (Die.fresh s.fuses d) d s.dies

/-- The state with a die replaced. -/
def State.setDie (s : State) (d : Nat) (x : Die) : State := { s with dies := putKey d x s.dies }

/-- The state with a die changed. -/
def State.modDie (s : State) (d : Nat) (f : Die → Die) : State := s.setDie d (f (s.die d))

/-- The status counts of a context on a die (R245). -/
def Die.statusOf (x : Die) (ctx : Nat) : Status := lookupD {} ctx x.status

/-- The state with a context's status counts changed on a die (R245). -/
def State.modStatus (s : State) (d ctx : Nat) (f : Status → Status) : State :=
  s.modDie d fun x => { x with status := putKey ctx (f (x.statusOf ctx)) x.status }

/-- What the dies hold of a loaded context. -/
def State.ctxInfo? (s : State) (ctx : Nat) : Option CtxInfo := s.ctxs.find? fun c => c.n = ctx

/-- The state with a loaded context's information changed. -/
def State.modCtx (s : State) (ctx : Nat) (f : CtxInfo → CtxInfo) : State :=
  { s with ctxs := modFirst (fun c => c.n = ctx) f s.ctxs }

/-- A word of a context record (R369). -/
def State.record (s : State) (ctx word : Nat) : Word :=
  match s.bar0.records.find? fun e => e.1 = ctx ∧ e.2.1 = word with
  | some e => e.2.2
  | none => 0

/-- Whether a context is resident on a core: it has a partition there (R353). -/
def Core.resident (x : Core) (ctx : Nat) : Bool := x.partitions.any fun p => p.ctx = ctx

/-- The state with an event told to management. -/
def State.tell (s : State) (e : MgmtEvent) : State := { s with mgmt := s.mgmt ++ [e] }

/-! ### Memory: bytes at physical addresses, an unlisted byte reads 0 (log 3) -/

/-- What an unlisted address reads as (log 3). -/
def unlisted : Byte := 0

/-- The canonical form of memory. -/
abbrev Memory.wf (m : List Host.Cell) : Bool := sparseWf unlisted m

/-- One byte of memory. -/
def State.readByte (s : State) (a : Nat) : Byte := sparseRead unlisted s.mem a

/-- The state with one byte of memory written; an uncorrectable error at the byte is rewritten too (R146). -/
def State.writeByte (s : State) (a : Nat) (b : Byte) : State :=
  { s with mem := sparseWrite unlisted s.mem a b, errors := s.errors.filter (· ≠ a) }

/-- The bytes at `a`, `n` of them. -/
def State.readBytes (s : State) (a : Nat) : Nat → List Byte
  | 0 => []
  | n + 1 => s.readByte a :: s.readBytes (a + 1) n

/-- The little-endian value of `n` bytes at `a` (R1). -/
def State.readNat (s : State) (a n : Nat) : Nat := ofBytes (s.readBytes a n)

/-- The 8-byte word at a physical address. -/
def State.read64 (s : State) (a : Nat) : Word := w64 (s.readNat a 8)

/-- Bytes written from `a` upward. -/
def State.writeBytes (s : State) (a : Nat) : List Byte → State
  | [] => s
  | b :: r => (s.writeByte a b).writeBytes (a + 1) r

/-- The low `n` bytes of a value written at `a`, little-endian. -/
def State.writeNat (s : State) (a n x : Nat) : State := s.writeBytes a (bytesOf n x)

/-- An 8-byte word written at a physical address. -/
def State.write64 (s : State) (a : Nat) (x : Word) : State := s.writeNat a 8 x.toNat

/-- Bytes written at the addresses given. -/
def State.writePairs (s : State) : List (Nat × Byte) → State
  | [] => s
  | (a, b) :: r => (s.writeByte a b).writePairs r

/-- Whether a range of bytes holds an uncorrectable error (R146). -/
def State.badRange (s : State) (a n : Nat) : Bool := s.errors.any fun e => a ≤ e && e < a + n

/-- A 256-byte block as a vector register (R100). -/
def State.readBlock (s : State) (a : Nat) : VReg := BitVec.ofNat 2048 (s.readNat a 256)

/-! ### Sideband (R172) -/

/-- The sideband of a block. -/
def State.sideband (s : State) (a : Nat) : BitVec 56 := sparseRead 0 s.side a

/-- The stamp of a block: bits 31:0. -/
def State.stampOf (s : State) (a : Nat) : BitVec 32 := (s.sideband a).extractLsb' 0 32

/-- The writer of a block: bits 55:32. -/
def State.writerOf (s : State) (a : Nat) : BitVec 24 := (s.sideband a).extractLsb' 32 24

/-- The state with a block's stamp and writer set. -/
def State.setSide (s : State) (a : Nat) (stamp : BitVec 32) (w : BitVec 24) : State :=
  { s with side := sparseWrite 0 s.side a (w ++ stamp) }

/-! ### Numbers -/

/-- The next number of a request, thread or operation, and the state that has drawn it. -/
def State.draw (s : State) : Nat × State := (s.nextId, { s with nextId := s.nextId + 1 })

/-- A free value's draw: its number, and the state after it (log 5). -/
def State.drawFree (s : State) : Nat × State := (s.freeCtr, { s with freeCtr := s.freeCtr + 1 })

/-! ### Routes (R317, R321) -/

/-- The port a die's routing table names for a destination (R317). -/
def State.portOf (s : State) (d e : Nat) : Nat :=
  match lookupD 0 e (s.die d).routes with
  | 0 => dimPort d e
  | p => p

/-- The dies a message visits after `d` on its way to `e` (R317); `fuel` bounds the walk. -/
def State.routeFrom (s : State) (d e : Nat) : Nat → List Nat
  | 0 => []
  | fuel + 1 =>
    if d = e then [] else
    match neighbour d (s.portOf d e) with
    | some n => n :: s.routeFrom n e fuel
    | none => []

/-- The links a request from `d` to `e` crosses (R321). -/
def State.hops (s : State) (d e : Nat) : Nat := (s.routeFrom d e Config.dies).length

/-- Whether a die is in service. -/
def State.up (s : State) (d : Nat) : Bool := !(s.die d).outOfService

/-- Whether no die between two on a message's route is out of service; firmware stops sends until routes are rebuilt around
one that is (R320). -/
def State.routeClear (s : State) (d e : Nat) : Bool :=
  (s.dies.all fun x => !x.2.outOfService) || (s.routeFrom d e Config.dies).dropLast.all s.up

/-! ### The word in its issue cycle -/

/-- The thread of the word in its issue cycle, with its place. -/
def State.current (s : State) : Option (Issue × Thread) :=
  match s.cur with
  | none => none
  | some i => match s.thread? i.place with
    | none => none
    | some t => some (i, t)

/-- The state after a word changes its thread's flow (R86). -/
def State.jump (s : State) (target : Word) : State :=
  { s with cur := s.cur.map fun i => { i with next := some target } }

/-- The state after a word has trapped, ended or left its thread, or waits to issue again: the step does not advance
the thread past it. -/
def State.stay (s : State) : State := { s with cur := s.cur.map fun i => { i with moved := true } }

end Sys2Proof.Machine
end

