-- ==== Sys2Proof/Machine/Flags.lean ====
section
/-! DEFINITION. Indications and FLAGS (R103, R289). An indication word has the layout of FLAGS bits 6:0. -/

namespace Sys2Proof.Machine

/-- Indications in the layout of FLAGS[6:0] (R103). -/
abbrev Ind := BitVec 7

/-- No indication. -/
def indNone : Ind := 0
/-- Inexact, bit 0. -/
def indInexact : Ind := 0x01
/-- Underflow, bit 1. -/
def indUnderflow : Ind := 0x02
/-- Overflow, bit 2. -/
def indOverflow : Ind := 0x04
/-- Division by zero, bit 3. -/
def indDivZero : Ind := 0x08
/-- Invalid, bit 4. -/
def indInvalid : Ind := 0x10
/-- PIVOT, bit 5. -/
def indPivot : Ind := 0x20
/-- RANGE, bit 6. -/
def indRange : Ind := 0x40

/-- An indication if a condition holds. -/
def indIf (b : Bool) (i : Ind) : Ind := if b then i else 0

/-- The OR of indications (R289). -/
def indAll : List Ind → Ind
  | [] => 0
  | i :: r => i ||| indAll r

/-- Indications merged into FLAGS: a bit already set stays set (R102, R289). -/
def Thread.mergeFlags (t : Thread) (i : Ind) : Thread :=
  { t with sys := { t.sys with flags := t.sys.flags ||| zx i } }

/-- The indications over the active lanes of a per-lane operation (R102). -/
def laneInds (m : Word) (f : Nat → Ind) : Ind := indAll ((activeLanes m).map f)

end Sys2Proof.Machine
end

