-- ==== Sys2Proof/Machine/Float.lean ====
section
/-! DEFINITION. Floating point to the bit: formats, Round, and the correctly rounded operations (R6, R107 to R111,
R275 to R278). An operation takes and gives bit patterns as natural numbers below two to the format's width, and gives
its indications. -/

namespace Sys2Proof.Machine

/-- An IEEE-style format: exponent bits and fraction bits (R275). -/
structure Fmt where
  w : Nat
  m : Nat
  deriving DecidableEq, Repr, Inhabited

/-- FP32 (R275). -/
def fp32 : Fmt := ⟨8, 23⟩
/-- FP16 (R275). -/
def fp16 : Fmt := ⟨5, 10⟩
/-- BF16 (R275). -/
def bf16 : Fmt := ⟨8, 7⟩
/-- E8M10 (R275). -/
def e8m10 : Fmt := ⟨8, 10⟩

/-- The format of an element type (R69). -/
def fmtOf : FTyp → Fmt
  | .f32 => fp32
  | .f16 => fp16
  | .bf16 => bf16

/-- The bias B (R275). -/
def Fmt.bias (f : Fmt) : Nat := 2 ^ (f.w - 1) - 1

/-- The weight exponent of the least fraction bit of a subnormal: 1 − B − m (R275). -/
def Fmt.emin (f : Fmt) : Int := 1 - (f.bias : Int) - f.m

/-- The sign bit's weight. -/
def Fmt.signBit (f : Fmt) : Nat := 2 ^ (f.w + f.m)

/-- The magnitude bits of infinity. -/
def Fmt.infMag (f : Fmt) : Nat := (2 ^ f.w - 1) * 2 ^ f.m

/-- The default NaN (R107, R275). -/
def Fmt.defaultNaN (f : Fmt) : Nat := f.infMag + 2 ^ (f.m - 1)

/-- The value of a bit pattern (R275): a nonzero finite value is `(−1)^neg · mant · 2^exp`. -/
inductive Num where
  | nan (signalling : Bool)
  | inf (neg : Bool)
  | zero (neg : Bool)
  | fin (neg : Bool) (mant : Nat) (exp : Int)
  deriving DecidableEq, Repr, Inhabited

/-- The magnitude bits of a pattern. -/
def Fmt.mag (f : Fmt) (x : Nat) : Nat := x % f.signBit

/-- The sign of a pattern. -/
def Fmt.neg (f : Fmt) (x : Nat) : Bool := x / f.signBit % 2 == 1

/-- The value of a pattern (R275). -/
def Fmt.num (f : Fmt) (x : Nat) : Num :=
  let e := f.mag x / 2 ^ f.m
  let fr := f.mag x % 2 ^ f.m
  if e = 2 ^ f.w - 1 then
    if fr = 0 then .inf (f.neg x) else .nan (fr < 2 ^ (f.m - 1))
  else if e = 0 then
    if fr = 0 then .zero (f.neg x) else .fin (f.neg x) fr f.emin
  else .fin (f.neg x) (fr + 2 ^ f.m) (f.emin + (e - 1 : Nat))

/-- A pattern with a sign. -/
def Fmt.signed (f : Fmt) (neg : Bool) (mag : Nat) : Nat := if neg then mag + f.signBit else mag

/-- A NaN quietened: the most significant fraction bit set (R107). -/
def Fmt.quiet (f : Fmt) (x : Nat) : Nat :=
  if x / 2 ^ (f.m - 1) % 2 = 1 then x else x + 2 ^ (f.m - 1)

/-- Whether a pattern is a NaN. -/
def Fmt.isNaN (f : Fmt) (x : Nat) : Bool :=
  match f.num x with
  | .nan _ => true
  | _ => false

/-- Whether a pattern is a signalling NaN. -/
def Fmt.isSNaN (f : Fmt) (x : Nat) : Bool :=
  match f.num x with
  | .nan sg => sg
  | _ => false

/-- A NaN carried to another format, quietened, its high fraction bits kept (R114, R276, R278). -/
def nanTo (f g : Fmt) (x : Nat) : Nat :=
  let fr := x % 2 ^ f.m
  let fr' := if g.m < f.m then fr / 2 ^ (f.m - g.m) else fr * 2 ^ (g.m - f.m)
  g.quiet (g.signed (f.neg x) (g.infMag + fr'))

/-! ### Round (R276) -/

/-- The number of bits of a natural number. -/
def bitLen (n : Nat) : Nat := if n = 0 then 0 else Nat.log2 n + 1

/-- Whether a remainder rounds the magnitude up: `rem` out of `2 ^ k` above the truncated value `q`. -/
def roundUp (r : RMode) (neg : Bool) (q rem k : Nat) : Bool :=
  match r with
  | .rne => 2 ^ k < 2 * rem || (2 ^ k == 2 * rem && q % 2 == 1)
  | .rz => false
  | .rup => 0 < rem && !neg
  | .rdn => 0 < rem && neg

/-- `mant · 2^exp` rounded to a multiple of `2^lsb`: the multiple, and whether it is inexact. -/
def roundAt (r : RMode) (neg : Bool) (mant : Nat) (exp lsb : Int) : Nat × Bool :=
  if lsb ≤ exp then (mant * 2 ^ (exp - lsb).toNat, false)
  else
    let k := (lsb - exp).toNat
    let q := mant / 2 ^ k
    let rem := mant % 2 ^ k
    (if roundUp r neg q rem k then q + 1 else q, rem ≠ 0)

/-- The overflowed result by mode and sign (R276). -/
def Fmt.overflowed (f : Fmt) (r : RMode) (neg : Bool) : Nat :=
  match r with
  | .rne => f.infMag
  | .rz => f.infMag - 1
  | .rup => if neg then f.infMag - 1 else f.infMag
  | .rdn => if neg then f.infMag else f.infMag - 1

/-- Round of the nonzero exact value `(−1)^neg · mant · 2^exp` (R276). -/
def Fmt.round (f : Fmt) (r : RMode) (neg : Bool) (mant : Nat) (exp : Int) : Nat × Ind :=
  let eU : Int := exp + bitLen mant - (f.m + 1)
  let u := roundAt r neg mant exp eU
  let top : Int := if u.1 = 2 ^ (f.m + 1) then eU + f.m + 1 else eU + f.m
  if (f.bias : Int) < top then (f.signed neg (f.overflowed r neg), indOverflow ||| indInexact)
  else
    let lsb := max eU f.emin
    let y := roundAt r neg mant exp lsb
    (f.signed neg ((lsb - f.emin).toNat * 2 ^ f.m + y.1),
      indIf y.2 indInexact ||| indIf (y.2 && u.1 ≠ 0 && top < 1 - (f.bias : Int)) indUnderflow)

/-- A value below its last place marked inexact: `mant` plus a part strictly between 0 and 1, by one more bit. The
mantissa must keep at least two bits below the place it is rounded at. -/
def jam (exact : Bool) (mant : Nat) (exp : Int) : Nat × Int :=
  if exact then (mant, exp) else (2 * mant + 1, exp - 1)

/-- Round of an exact sum `x · 2^e`; a zero takes the sign given. -/
def Fmt.roundInt (f : Fmt) (r : RMode) (x : Int) (e : Int) (zeroNeg : Bool) : Nat × Ind :=
  if x = 0 then (f.signed zeroNeg 0, 0) else f.round r (x < 0) x.natAbs e

/-! ### Arithmetic -/

/-- A signed integer of a value at a smaller exponent. -/
def atExp (neg : Bool) (mant : Nat) (exp e : Int) : Int :=
  let a : Int := mant * 2 ^ (exp - e).toNat
  if neg then -a else a

/-- The first NaN of a list, quietened, with its indications: invalid for any signalling NaN of the list (R107). -/
def Fmt.firstNaN (f : Fmt) (xs : List Nat) : Option (Nat × Ind) :=
  match xs.find? f.isNaN with
  | none => none
  | some x => some (f.quiet x, indIf (xs.any f.isSNaN) indInvalid)

/-- The default NaN with invalid. -/
def Fmt.invalid (f : Fmt) : Nat × Ind := (f.defaultNaN, indInvalid)

/-- The sum of two values that are not NaNs, rounded once, with the zero signs of R107. -/
def Fmt.addNum (f : Fmt) (r : RMode) (a b : Num) : Nat × Ind :=
  match a, b with
  | .inf n, .inf k => if n = k then (f.signed n f.infMag, 0) else f.invalid
  | .inf n, _ => (f.signed n f.infMag, 0)
  | _, .inf n => (f.signed n f.infMag, 0)
  | .zero n, .zero k => (f.signed (if n = k then n else r == .rdn) 0, 0)
  | .zero _, .fin n m e => f.round r n m e
  | .fin n m e, .zero _ => f.round r n m e
  | .fin n m e, .fin n' m' e' =>
    let lo := min e e'
    f.roundInt r (atExp n m e lo + atExp n' m' e' lo) lo (r == .rdn)
  | _, _ => f.invalid

/-- The value with its sign inverted. -/
def Num.flip : Num → Num
  | .inf n => .inf (!n)
  | .zero n => .zero (!n)
  | .fin n m e => .fin (!n) m e
  | x => x

/-- The exact product; `none` for 0 × ∞. -/
def Num.mul : Num → Num → Option Num
  | .inf _, .zero _ => none
  | .zero _, .inf _ => none
  | .inf n, .inf k => some (.inf (n != k))
  | .inf n, .fin k _ _ => some (.inf (n != k))
  | .fin n _ _, .inf k => some (.inf (n != k))
  | .zero n, .zero k => some (.zero (n != k))
  | .zero n, .fin k _ _ => some (.zero (n != k))
  | .fin n _ _, .zero k => some (.zero (n != k))
  | .fin n m e, .fin k m' e' => some (.fin (n != k) (m * m') (e + e'))
  | x, _ => some x

/-- Round of a value that is not a NaN. -/
def Fmt.roundNum (f : Fmt) (r : RMode) : Num → Nat × Ind
  | .inf n => (f.signed n f.infMag, 0)
  | .zero n => (f.signed n 0, 0)
  | .fin n m e => f.round r n m e
  | .nan _ => f.invalid

/-- `vfadd` (R108). -/
def Fmt.add (f : Fmt) (r : RMode) (a b : Nat) : Nat × Ind :=
  match f.firstNaN [a, b] with
  | some x => x
  | none => f.addNum r (f.num a) (f.num b)

/-- `vfsub` (R108): the effective sum adds the negated second term. -/
def Fmt.sub (f : Fmt) (r : RMode) (a b : Nat) : Nat × Ind :=
  match f.firstNaN [a, b] with
  | some x => x
  | none => f.addNum r (f.num a) (f.num b).flip

/-- `vfmul` (R108, R109). -/
def Fmt.mul (f : Fmt) (r : RMode) (a b : Nat) : Nat × Ind :=
  match f.firstNaN [a, b] with
  | some x => x
  | none => match (f.num a).mul (f.num b) with
    | none => f.invalid
    | some p => f.roundNum r p

/-- `vfma`, and `vfms` with the addend negated (R108, R109). -/
def Fmt.fma (f : Fmt) (r : RMode) (a b c : Nat) (negC : Bool) : Nat × Ind :=
  let zeroInf := !f.isNaN a && !f.isNaN b && ((f.num a).mul (f.num b)).isNone
  match f.firstNaN [a, b, c] with
  | some x => (x.1, x.2 ||| indIf zeroInf indInvalid)
  | none => match (f.num a).mul (f.num b) with
    | none => f.invalid
    | some p => f.addNum r p (if negC then (f.num c).flip else f.num c)

/-- The quotient of two finite nonzero magnitudes: enough bits, the rest jammed. -/
def divBits (f : Fmt) (m m' : Nat) : Nat × Int :=
  let k := bitLen m' + f.m + 4
  jam (m * 2 ^ k % m' = 0) (m * 2 ^ k / m') (-(k : Int))

/-- `vfdiv` (R108, R109). -/
def Fmt.div (f : Fmt) (r : RMode) (a b : Nat) : Nat × Ind :=
  match f.firstNaN [a, b] with
  | some x => x
  | none => match f.num a, f.num b with
    | .inf _, .inf _ => f.invalid
    | .zero _, .zero _ => f.invalid
    | .inf n, _ => (f.signed (n != f.neg b) f.infMag, 0)
    | .zero n, _ => (f.signed (n != f.neg b) 0, 0)
    | .fin n _ _, .inf k => (f.signed (n != k) 0, 0)
    | .fin n _ _, .zero k => (f.signed (n != k) f.infMag, indDivZero)
    | .fin n m e, .fin k m' e' =>
      let q := divBits f m m'
      f.round r (n != k) q.1 (q.2 + e - e')
    | _, _ => f.invalid

/-- The integer square root, one bit at a time: the greatest `r` built from bits below `2^k` with r² ≤ n. -/
def isqrtFrom (n : Nat) : (k : Nat) → (r : Nat) → Nat
  | 0, r => r
  | k + 1, r => if (r + 2 ^ k) * (r + 2 ^ k) ≤ n then isqrtFrom n k (r + 2 ^ k) else isqrtFrom n k r

/-- The integer square root. -/
def isqrt (n : Nat) : Nat := isqrtFrom n (bitLen n / 2 + 1) 0

/-- A magnitude with an even exponent. -/
def evenExp (m : Nat) (e : Int) : Nat × Int := if e % 2 = 0 then (m, e) else (2 * m, e - 1)

/-- `vfsqrt` (R108, R109). -/
def Fmt.sqrt (f : Fmt) (r : RMode) (a : Nat) : Nat × Ind :=
  match f.firstNaN [a] with
  | some x => x
  | none => match f.num a with
    | .zero n => (f.signed n 0, 0)
    | .inf false => (f.infMag, 0)
    | .fin false m e =>
      let p := evenExp m e
      let k := f.m + 4
      let q := isqrt (p.1 * 2 ^ (2 * k))
      let j := jam (q * q = p.1 * 2 ^ (2 * k)) q (p.2 / 2 - k)
      f.round r false j.1 j.2
    | _ => f.invalid

/-- `vfrsq` (R108, R109). -/
def Fmt.rsq (f : Fmt) (r : RMode) (a : Nat) : Nat × Ind :=
  match f.firstNaN [a] with
  | some x => x
  | none => match f.num a with
    | .zero n => (f.signed n f.infMag, indDivZero)
    | .inf false => (0, 0)
    | .fin false m e =>
      let p := evenExp m e
      let k := bitLen p.1 + f.m + 6
      let q := isqrt (2 ^ (2 * k) / p.1)
      let j := jam (q * q * p.1 = 2 ^ (2 * k)) q (-(p.2 / 2) - k)
      f.round r false j.1 j.2
    | _ => f.invalid

/-! ### 2^a and log2 a (log 9): fixed point with 256 fraction bits -/

/-- floor(ln 2 · 2^256). -/
def ln2Fixed : Nat := 0xb17217f7d1cf79abc9e3b39803f2f6af40f343267298b62d8a0d175b8baafa2b

/-- Terms y^i / i! of the exponential series, from term `i` on, in 256 fraction bits. -/
def expSeries (y : Nat) : (fuel i term : Nat) → Nat
  | 0, _, term => term
  | fuel + 1, i, term => term + expSeries y fuel (i + 1) (term * y / 2 ^ 256 / i)

/-- 2^f in 256 fraction bits, for a fraction `f` of 256 bits. -/
def exp2Fixed (fr : Nat) : Nat := expSeries (fr * ln2Fixed / 2 ^ 256) 70 1 (2 ^ 256)

/-- 2^a for the finite nonzero a = ±mant · 2^exp: an exact or a jammed magnitude. Beyond ±2^11 the result is far
outside every format, and below 2^−60 it is 1 with a part too small to see. -/
def exp2Bits (neg : Bool) (mant : Nat) (exp : Int) : Nat × Int :=
  if 11 < exp + bitLen mant then jam false 1024 (if neg then -4096 else 4096)
  else if exp + bitLen mant < -60 then (if neg then jam false (2 ^ 62 - 1) (-62) else jam false (2 ^ 62) (-62))
  else
    let x := atExp neg mant exp (-256)
    let n := x / 2 ^ 256
    let fr := (x % 2 ^ 256).toNat
    if fr = 0 then (1, n) else jam false (exp2Fixed fr) (n - 256)

/-- `vfexp2` (R108, R109). -/
def Fmt.exp2 (f : Fmt) (r : RMode) (a : Nat) : Nat × Ind :=
  match f.firstNaN [a] with
  | some x => x
  | none => match f.num a with
    | .inf true => (0, 0)
    | .inf false => (f.infMag, 0)
    | .zero _ => f.round r false 1 0
    | .fin n m e =>
      let j := exp2Bits n m e
      f.round r false j.1 j.2
    | .nan _ => f.invalid

/-- Terms z^(2i+1) / (2i+1) of the inverse hyperbolic tangent, in 256 fraction bits. -/
def atanhSeries (z2 : Nat) : (fuel i power : Nat) → Nat
  | 0, _, _ => 0
  | fuel + 1, i, power => power / (2 * i + 1) + atanhSeries z2 fuel (i + 1) (power * z2 / 2 ^ 256)

/-- log2 of x in [1, 2), given with 256 fraction bits, in 256 fraction bits. -/
def log2Fixed (x : Nat) : Nat :=
  let z := (x - 2 ^ 256) * 2 ^ 256 / (x + 2 ^ 256)
  2 * atanhSeries (z * z / 2 ^ 256) 90 0 z * 2 ^ 256 / ln2Fixed

/-- `vflog2` (R108, R109). -/
def Fmt.log2 (f : Fmt) (r : RMode) (a : Nat) : Nat × Ind :=
  match f.firstNaN [a] with
  | some x => x
  | none => match f.num a with
    | .zero _ => (f.signed true f.infMag, indDivZero)
    | .inf false => (f.infMag, 0)
    | .fin false m e =>
      let n : Int := e + bitLen m - 1
      if m = 2 ^ (bitLen m - 1) then f.roundInt r n 0 false
      else
        let v : Int := n * 2 ^ 256 + log2Fixed (m * 2 ^ (257 - bitLen m))
        let j := if 0 ≤ v then jam false v.toNat (-256) else jam false (v.natAbs - 1) (-256)
        f.round r (v < 0) j.1 j.2
    | _ => f.invalid

/-! ### Comparison, minimum and maximum (R110, R112) -/

/-- A key that orders the values that are not NaNs, −0 below +0. -/
def Fmt.key (f : Fmt) (x : Nat) : Int := if f.neg x then -(f.mag x : Int) - 1 else f.mag x

/-- `vfmin` (R110), or `vfmax` when `big`. -/
def Fmt.minMax (f : Fmt) (big : Bool) (a b : Nat) : Nat × Ind :=
  let ind := indIf (f.isSNaN a || f.isSNaN b) indInvalid
  if f.isNaN a && f.isNaN b then (f.quiet a, ind)
  else if f.isNaN a then (b, ind)
  else if f.isNaN b then (a, ind)
  else if (f.key a ≤ f.key b) != big then (a, ind) else (b, ind)

/-- A key that orders values as reals: the zeros are equal. -/
def Fmt.realKey (f : Fmt) (x : Nat) : Int := if f.neg x then -(f.mag x : Int) else f.mag x

/-- `vfcmp` of one element pair (R112). -/
def Fmt.cmp (f : Fmt) (c : FCond) (a b : Nat) : Bool × Ind :=
  let un := f.isNaN a || f.isNaN b
  let sg := indIf (f.isSNaN a || f.isSNaN b) indInvalid
  match c with
  | .eq => (!un && f.realKey a == f.realKey b, sg)
  | .lt => (!un && f.realKey a < f.realKey b, indIf un indInvalid)
  | .le => (!un && f.realKey a ≤ f.realKey b, indIf un indInvalid)
  | .un => (un, sg)

/-! ### Integers (R114, R298) -/

/-- A value rounded to an integer by the mode, saturating to `[lo, hi]`; a NaN gives 0 (R114). -/
def numToInt (r : RMode) (lo hi : Int) : Num → Int × Ind
  | .nan _ => (0, indInvalid)
  | .inf n => (if n then lo else hi, indInvalid)
  | .zero _ => (0, 0)
  | .fin n m e =>
    let q := roundAt r n m e 0
    let v : Int := if n then -(q.1 : Int) else q.1
    if v < lo then (lo, indInvalid) else if hi < v then (hi, indInvalid) else (v, indIf q.2 indInexact)

/-- An integer rounded to a format; 0 is +0 (R114). -/
def Fmt.ofInt (f : Fmt) (r : RMode) (x : Int) : Nat × Ind := f.roundInt r x 0 false

/-- A value of one format rounded to another, its NaN quietened (R114, R276, R278). -/
def convertFmt (f g : Fmt) (r : RMode) (x : Nat) : Nat × Ind :=
  if f.isNaN x then (nanTo f g x, indIf (f.isSNaN x) indInvalid) else g.roundNum r (f.num x)

end Sys2Proof.Machine
end

