-- ==== Sys2Proof/Machine/Codes.lean ====
section
/-! DEFINITION. Code8 and code4: table images, the presets, decoding and encoding (R274, R280 to R284, R302), and
RoundQ32 (R195). -/

namespace Sys2Proof.Machine

/-- A table image as a number, with its kind (R280). -/
structure Image where
  c4  : Bool
  raw : Nat
  deriving DecidableEq, Repr, Inhabited

/-- Bytes of an image of each kind (R280). -/
def imageBytes (c4 : Bool) : Nat := if c4 then 96 else 1296

/-- Codes of each kind. -/
def codeCount (c4 : Bool) : Nat := if c4 then 16 else 256

/-- The byte at an offset of an image. -/
def Image.byte (t : Image) (off : Nat) : Nat := t.raw / 2 ^ (8 * off) % 256

/-- The E8M10 entry of a code: bits 18:0 of its word (R280). -/
def Image.entry (t : Image) (c : Nat) : Nat := t.raw / 2 ^ (8 * (16 + 4 * c)) % 2 ^ 19

/-- The whole 32-bit entry word of a code. -/
def Image.entryWord (t : Image) (c : Nat) : Nat := t.raw / 2 ^ (8 * (16 + 4 * c)) % 2 ^ 32

/-- The length m of the order list: header bits 16:8 (R280). -/
def Image.len (t : Image) : Nat := t.raw / 2 ^ 8 % 512

/-- hasnan: header bit 18. -/
def Image.hasNaN (t : Image) : Bool := t.raw / 2 ^ 18 % 2 == 1

/-- nancode: header bits 7:0. -/
def Image.nanCode (t : Image) : Nat := t.raw % 256

/-- The order list's first m codes (R280). -/
def Image.list (t : Image) : List Nat :=
  (List.range t.len).map fun i => t.byte ((if t.c4 then 80 else 1040) + i)

/-- The value of a code. -/
def Image.value (t : Image) (c : Nat) : Num := e8m10.num (t.entry c)

/-- A value at the common scale 2^−640; infinities beyond every finite value. -/
def Num.scaled : Num → Int
  | .nan _ => 0
  | .inf n => if n then -(2 ^ 2000) else 2 ^ 2000
  | .zero _ => 0
  | .fin n m e => atExp n m e (-640)

/-- The order of R281: −∞, the finite values, +∞, with −0 below +0. -/
def Num.orderKey : Num → Int
  | .zero true => -1
  | x => 2 * x.scaled

/-- Whether a list of integers strictly ascends. -/
def ascends : List Int → Bool
  | a :: b :: r => a < b && ascends (b :: r)
  | _ => true

/-- A well-formed image (R281), with every zero field zero. -/
def Image.ok (t : Image) : Bool :=
  let header := t.raw % 2 ^ 64
  header / 2 ^ 20 == 0 && header / 2 ^ 17 % 2 == 0 &&
  (header / 2 ^ 19 % 2 == 1) == t.c4 &&
  t.raw / 2 ^ 64 % 2 ^ 64 == 0 &&
  1 ≤ t.len && t.len ≤ codeCount t.c4 &&
  (t.hasNaN || t.nanCode == 0) && (!t.c4 || t.nanCode < 16) &&
  ((List.range (codeCount t.c4)).all fun c => t.entryWord c < 2 ^ 19) &&
  (!t.c4 || t.list.all (· < 16)) &&
  (t.list.all fun c => !e8m10.isNaN (t.entry c)) &&
  ascends (t.list.map fun c => (t.value c).orderKey) &&
  (t.list.any fun c => match t.value c with | .inf _ => false | _ => true) &&
  (!t.hasNaN || e8m10.isNaN (t.entry t.nanCode))

/-! ### Presets (R283) -/

/-- An image built from its parts. -/
def buildImage (c4 hasNaN : Bool) (nanCode : Nat) (entries list : List Nat) : Image :=
  ⟨c4, ofBytes (bytesOf 8 ((if c4 then 2 ^ 19 else 0) + (if hasNaN then 2 ^ 18 else 0) + list.length * 256 + nanCode) ++
    bytesOf 8 0 ++ entries.flatMap (bytesOf 4) ++ list.map (BitVec.ofNat 8))⟩

/-- The E8M10 pattern of a value that has one. -/
def toE8M10 (x : Num) : Nat := (e8m10.roundNum .rne x).1

/-- The E8M10 entry of a code of a small format with `w` exponent and `m` fraction bits and bias `b`, where the code
is not a special (R283). -/
def smallEntry (w m b c : Nat) : Nat :=
  let neg := c / 2 ^ (w + m) % 2 == 1
  let e := c / 2 ^ m % 2 ^ w
  let fr := c % 2 ^ m
  let emin : Int := 1 - (b : Int) - m
  toE8M10 (if e = 0 then (if fr = 0 then .zero neg else .fin neg fr emin) else .fin neg (fr + 2 ^ m) (emin + (e - 1 : Nat)))

/-- e4m3: no infinity; the codes 0x7F and 0xFF are NaNs (R283). -/
def e4m3Entry (c : Nat) : Nat :=
  if c % 128 = 127 then e8m10.signed (c / 128 == 1) (e8m10.infMag + 7 * 2 ^ 7) else smallEntry 4 3 7 c

/-- e5m2: IEEE rules (R283). -/
def e5m2Entry (c : Nat) : Nat :=
  if c / 4 % 32 = 31 then e8m10.signed (c / 128 == 1) (e8m10.infMag + c % 4 * 2 ^ 8) else smallEntry 5 2 15 c

/-- int8: two's complement (R283). -/
def int8Entry (c : Nat) : Nat :=
  if c = 0 then 0 else if c < 128 then toE8M10 (.fin false c 0) else toE8M10 (.fin true (256 - c) 0)

/-- The codes from `hi` down to `lo`. -/
def downTo (hi lo : Nat) : List Nat := (List.range (hi + 1 - lo)).map fun i => hi - i

/-- The codes from `lo` up to `hi`. -/
def upTo (lo hi : Nat) : List Nat := (List.range (hi + 1 - lo)).map fun i => lo + i

/-- The e4m3 preset's image (R283). -/
def imageE4m3 : Image :=
  buildImage false true 0x7F ((List.range 256).map e4m3Entry) (downTo 0xFE 0x80 ++ upTo 0 0x7E)

/-- The e5m2 preset's image (R283). -/
def imageE5m2 : Image :=
  buildImage false true 0x7E ((List.range 256).map e5m2Entry) (downTo 0xFC 0x80 ++ upTo 0 0x7C)

/-- The int8 preset's image (R283). -/
def imageInt8 : Image :=
  buildImage false false 0 ((List.range 256).map int8Entry) (upTo 0x80 0xFF ++ upTo 0 0x7F)

/-- The e2m1 preset's image (R283). -/
def imageE2m1 : Image :=
  buildImage true false 0 ((List.range 16).map (smallEntry 2 1 1)) (downTo 0xF 0x8 ++ upTo 0 7)

/-- The tables of a context when it first becomes resident on a core: e4m3 and e2m1 (R302). -/
def Tables.preset (ctx : Nat) : Tables :=
  ⟨ctx, Vector.replicate 2 (BitVec.ofNat _ imageE4m3.raw), Vector.replicate 2 (BitVec.ofNat _ imageE2m1.raw)⟩

/-- The tables of a context on a core (R18). -/
def Core.tablesOf (x : Core) (ctx : Nat) : Tables :=
  match x.tables.find? fun t => t.ctx = ctx with
  | some t => t
  | none => Tables.preset ctx

/-- Table 0 or 1 of a kind. -/
def Tables.image (t : Tables) (c4 t1 : Bool) : Image :=
  if c4 then ⟨true, (if t1 then t.c4[1] else t.c4[0]).toNat⟩ else ⟨false, (if t1 then t.c8[1] else t.c8[0]).toNat⟩

/-- The table a code format 0–7 decodes through (R274). -/
def formatImage (t : Tables) (fmt : Nat) : Image :=
  match fmt with
  | 0 => imageE4m3
  | 1 => imageE5m2
  | 2 => imageInt8
  | 3 => imageE2m1
  | 4 => t.image false false
  | 5 => t.image false true
  | 6 => t.image true false
  | _ => t.image true true

/-! ### Encoding (R284) -/

/-- The position of the last list entry that passes a test. -/
def lastPos (p : Int → Bool) : List Int → Nat → Option Nat
  | [], _ => none
  | a :: r, i => match lastPos p r (i + 1) with
    | some j => some j
    | none => if p a then some i else none

/-- The position of the first list entry that passes a test. -/
def firstPos (p : Int → Bool) : List Int → Nat → Option Nat
  | [], _ => none
  | a :: r, i => if p a then some i else firstPos p r (i + 1)

/-- The code at a list position with its indications: inexact when its value differs from x as a real number. -/
def Image.pick (t : Image) (x : Num) (pos : Nat) (more : Ind) : Nat × Ind :=
  let c := t.list.getD pos 0
  (c, more ||| indIf ((t.value c).scaled ≠ x.scaled) indInexact)

/-- Encode (R284): the code and its indications, or none for NOCODE. -/
def Image.encode (t : Image) (x : Num) (inf : Bool) : Option (Nat × Ind) :=
  match x with
  | .nan sg => if t.hasNaN then some (t.nanCode, indIf sg indInvalid) else none
  | _ =>
    let ks := t.list.map fun c => (t.value c).orderKey
    let xs := x.scaled
    let isFin : Int → Bool := fun k => -(2 ^ 2000) < k && k < 2 ^ 2000
    let top := (lastPos isFin ks 0).getD 0
    let bot := (firstPos isFin ks 0).getD 0
    let vTop := (t.value (t.list.getD top 0)).scaled
    let vBot := (t.value (t.list.getD bot 0)).scaled
    if vTop < xs then
      let ends := inf && top + 1 < ks.length
      some (t.pick x (if ends then top + 1 else top) (indIf (!(ends && x == .inf false)) indOverflow))
    else if xs < vBot then
      let ends := inf && 0 < bot
      some (t.pick x (if ends then bot - 1 else bot) (indIf (!(ends && x == .inf true)) indOverflow))
    else match firstPos (· == x.orderKey) ks 0 with
      | some i => some (t.pick x i 0)
      | none =>
        match lastPos (· < x.orderKey) ks 0, firstPos (x.orderKey < ·) ks 0 with
        | some a, some b =>
          let da := (xs - (t.value (t.list.getD a 0)).scaled).natAbs
          let db := (xs - (t.value (t.list.getD b 0)).scaled).natAbs
          some (t.pick x (if da < db then a else if db < da then b else if a % 2 = 0 then a else b) 0)
        | some a, none => some (t.pick x a 0)
        | none, some b => some (t.pick x b 0)
        | none, none => some (t.pick x 0 0)

/-! ### Q32 (R194, R195) -/

/-- The integer nearest to num ÷ den, a tie going to the even one; den > 0. -/
def nearestEven (num : Int) (den : Nat) : Int :=
  let q := num / (den : Int)
  let rem := num - q * den
  if 2 * rem < den then q else if (den : Int) < 2 * rem then q + 1 else if q % 2 = 0 then q else q + 1

/-- RoundQ32 of num ÷ den in units of the destination's step, saturating with RANGE (R195). -/
def roundQ32 (num : Int) (den : Nat) : BitVec 32 × Ind :=
  let n := nearestEven num den
  if 2 ^ 31 - 1 < n then (0x7FFFFFFF, indRange)
  else if n < -(2 ^ 31) then (0x80000000, indRange)
  else (BitVec.ofInt 32 n, 0)

/-- Whether a format packs two elements to a byte (R274). -/
def isCode4 (fmt : Nat) : Bool := fmt == 3 || fmt == 6 || fmt == 7

end Sys2Proof.Machine
end

