-- ==== Sys2Proof/Machine/Translate.lean ====
section
/-! DEFINITION. Virtual addresses: the four-level walk, the malformed entries, permissions, page kinds and partitions
(R22, R128, R129, R353, R359 to R361). -/

namespace Sys2Proof.Machine

/-- Trap cause codes (R78). -/
def causeIllegal : BitVec 8 := 0x01
/-- PRIV (R78). -/
def causePriv : BitVec 8 := 0x02
/-- FEATURE (R78). -/
def causeFeature : BitVec 8 := 0x03
/-- ALIGN (R78). -/
def causeAlign : BitVec 8 := 0x04
/-- PAGE (R78). -/
def causePage : BitVec 8 := 0x05
/-- PROT (R78). -/
def causeProt : BitVec 8 := 0x06
/-- LAG (R78). -/
def causeLag : BitVec 8 := 0x07
/-- WRITER_STOPPED (R78). -/
def causeStopped : BitVec 8 := 0x08
/-- STAMP_REGRESS (R78). -/
def causeRegress : BitVec 8 := 0x09
/-- TILE (R78). -/
def causeTile : BitVec 8 := 0x0A
/-- HOD_FULL (R78). -/
def causeHodFull : BitVec 8 := 0x0B
/-- QUARRY_EMPTY (R78). -/
def causeQuarry : BitVec 8 := 0x0C
/-- LINK_FAULT (R78). -/
def causeLink : BitVec 8 := 0x0D
/-- SWTRAP (R78). -/
def causeSwtrap : BitVec 8 := 0x0E
/-- PREEMPT (R78). -/
def causePreempt : BitVec 8 := 0x0F
/-- DEBUG (R78). -/
def causeDebug : BitVec 8 := 0x10
/-- MCHECK (R78). -/
def causeMcheck : BitVec 8 := 0x11
/-- REDGROUP (R78). -/
def causeRedgroup : BitVec 8 := 0x12
/-- LOOP (R78). -/
def causeLoop : BitVec 8 := 0x13

/-- The outcome of a walk: a leaf with the page's first address and size, or the trap cause (R361). -/
inductive Walk where
  | leaf (entry : Word) (base size : Nat)
  | fail (cause : BitVec 8)
  deriving DecidableEq, Repr, Inhabited

/-- Attribute and permission bits 60:55 of an entry (R360). -/
def pteAttrs (e : Word) : BitVec 6 := bits e 55 6

/-- Physical address bits 51:12 of an entry, as an address (R360). -/
def pteAddr (e : Word) : Nat := (bits e 12 40).toNat * 4096

/-- A malformed entry at a level whose leaf maps `size` bytes (R361). -/
def pteMalformed (e : Word) (level size : Nat) : Bool :=
  bits e 52 3 != 0 || bits e 0 6 != 0 ||
  (!e.getLsbD 62 && (pteAttrs e != 0 || level == 3)) ||
  ((e.getLsbD 60 && e.getLsbD 59) || (e.getLsbD 60 && e.getLsbD 58) || (e.getLsbD 59 && e.getLsbD 58)) ||
  (e.getLsbD 56 && e.getLsbD 57) ||
  (e.getLsbD 62 && !e.getLsbD 61 && pteAddr e % size != 0) ||
  (e.getLsbD 62 && e.getLsbD 61 && pteAddr e % (size / 16) != 0)

/-- Index and page size of each level (R359). -/
def levelIndex (va level : Nat) : Nat :=
  match level with
  | 0 => va / 2 ^ 34
  | 1 => va / 2 ^ 30 % 16
  | 2 => va / 2 ^ 21 % 512
  | _ => va / 2 ^ 16 % 32

/-- The bytes a leaf maps at each level (R359). -/
def levelSize (level : Nat) : Nat :=
  match level with
  | 0 => 2 ^ 34
  | 1 => 2 ^ 30
  | 2 => 2 ^ 21
  | _ => 2 ^ 16

/-- The walk from a table: level `4 - left`, `left` levels to go (R359, R361). -/
def State.walkFrom (s : State) (va : Nat) : (left : Nat) → (table : Nat) → Walk
  | 0, _ => .fail causeProt
  | left + 1, table =>
    let level := 3 - left
    let at_ := table + 8 * levelIndex va level
    if paSpace at_ != 0 || !paValid at_ then .fail causeProt
    else if s.badRange at_ 8 then .fail causeMcheck
    else
      let e := s.read64 at_
      if !e.getLsbD 63 then .fail causePage
      else if pteMalformed e level (levelSize level) then .fail causeProt
      else if e.getLsbD 62 then .leaf e (va / levelSize level * levelSize level) (levelSize level)
      else s.walkFrom va left (pteAddr e)

/-- The walk of a context's table (R359). -/
def State.walk (s : State) (ctx va : Nat) : Walk := s.walkFrom va 4 (s.record ctx 0).toNat

/-- The leaf that translates an address at a die: a cached one (R362, R363), or the walk's. -/
def State.leafOf (s : State) (die ctx va : Nat) : Walk :=
  match (s.die die).tlb.find? fun e => e.ctx = ctx ∧ e.base ≤ va ∧ va < e.base + e.size with
  | some e => .leaf e.leaf e.base e.size
  | none => s.walk ctx va

/-- Walks that a die's translation unit runs at once (R362). -/
def walkLimit : Nat := 2048

/-- The page of a context in which an address lies, its first address and size, as the tables stand; where they give none, the 64 KiB
that the smallest page would hold (R359, R362; log 13). -/
def State.pageOf (s : State) (ctx va : Nat) : Nat × Nat :=
  match s.walk ctx va with
  | .leaf _ base size => (base, size)
  | .fail _ => (va / 65536 * 65536, 65536)

/-- Whether an address of a context lies in the page of a walk, or of a miss that waits for one (R362). -/
def State.walkCovers (s : State) (ctx va : Nat) (w : Nat × Nat) : Bool :=
  let p := s.pageOf w.1 w.2
  w.1 = ctx && p.1 ≤ va && va < p.1 + p.2

/-- Whether a translation that a TLB holds covers an address of a context. -/
def TlbEntry.covers (e : TlbEntry) (ctx va : Nat) : Bool := e.ctx = ctx && e.base ≤ va && va < e.base + e.size

/-- The pages being walked at a die, or waiting for a walk, as pages that no access may use (R362). -/
def State.walkedPages (s : State) (die : Nat) : List TlbEntry :=
  let d := s.die die
  (d.walks ++ d.walkQueue).map fun w => ⟨w.1, (s.pageOf w.1 w.2).1, (s.pageOf w.1 w.2).2, 0⟩

/-- Whether every walk of a die is busy (R362). -/
def State.walksFull (s : State) (die : Nat) : Bool := walkLimit ≤ (s.die die).walks.length

/-- What the accesses of a die that miss its TLBs must wait for, as pages no access may use: those being walked or waiting for a
walk, and, with every walk busy, every page of the loaded contexts (R362). -/
def State.absentPages (s : State) (die : Nat) : List TlbEntry :=
  s.walkedPages die ++ if s.walksFull die then s.ctxs.map fun c => ⟨c.n, 0, 2 ^ 48, 0⟩ else []

/-- Whether an access to an address misses its die's TLBs and must wait for a walk (R362). -/
def State.walkWaits (s : State) (die ctx va : Nat) : Bool :=
  (s.absentPages die).any (·.covers ctx va) && !(s.die die).tlb.any (·.covers ctx va)

/-- The plinth die that an interleave set of a context gives a 4 KiB unit (R361). -/
def State.interleave (s : State) (ctx set unit : Nat) : Nat :=
  s.readNat ((s.record ctx 1).toNat + 32 * set + 2 * (unit % 16)) 2

/-- The physical address a leaf gives (R361). -/
def State.leafAddr (s : State) (ctx : Nat) (e : Word) (off : Nat) : Nat :=
  if e.getLsbD 61 then
    let unit := off / 4096
    let die := s.interleave ctx (bits e 6 6).toNat unit
    let inDie := pteAddr e + unit / 16 * 4096 + off % 4096
    if isPlinth die && inDie < Config.plinthBytes then plinthAddr die inDie else 15 * 2 ^ 48
  else pteAddr e + off

/-- The entries of a table at each level (R359). -/
def tableEntries (level : Nat) : Nat :=
  match level with
  | 0 => 16384
  | 1 => 16
  | 2 => 512
  | _ => 32

/-- The pages that a table and those below it map, as first addresses and sizes (R359). -/
def State.pagesFrom (s : State) : (left : Nat) → (table base : Nat) → List (Nat × Nat)
  | 0, _, _ => []
  | left + 1, table, base =>
    let level := 3 - left
    (List.range (tableEntries level)).flatMap fun k =>
      let at_ := table + 8 * k
      let va := base + k * levelSize level
      if paSpace at_ != 0 || !paValid at_ then []
      else
        let e := s.read64 at_
        if !e.getLsbD 63 || pteMalformed e level (levelSize level) then []
        else if e.getLsbD 62 then [(va, levelSize level)]
        else s.pagesFrom left (pteAddr e) va

/-- The pages of a context's tables. -/
def State.pages (s : State) (ctx : Nat) : List (Nat × Nat) := s.pagesFrom 4 (s.record ctx 0).toNat 0

/-- The leaves of a context's tables from a level down (R359). -/
def State.leavesFrom (s : State) : (left : Nat) → (table : Nat) → List (Word × Nat)
  | 0, _ => []
  | left + 1, table =>
    let level := 3 - left
    (List.range (tableEntries level)).flatMap fun k =>
      let at_ := table + 8 * k
      if paSpace at_ != 0 || !paValid at_ then []
      else
        let e := s.read64 at_
        if !e.getLsbD 63 || pteMalformed e level (levelSize level) then []
        else if e.getLsbD 62 then [(e, levelSize level)]
        else s.leavesFrom left (pteAddr e)

/-- The leaves of a context's tables. -/
def State.leaves (s : State) (ctx : Nat) : List (Word × Nat) := s.leavesFrom 4 (s.record ctx 0).toNat

/-- Whether a plinth physical address lies in the page of a leaf (R361). -/
def State.leafHolds (s : State) (ctx : Nat) (e : Word × Nat) (pa : Nat) : Bool :=
  if e.1.getLsbD 61 then
    pteAddr e.1 ≤ pa % 2 ^ 36 && pa % 2 ^ 36 < pteAddr e.1 + e.2 / 16 &&
      (List.range 16).any fun u => s.interleave ctx (bits e.1 6 6).toNat u == pa / 2 ^ 36
  else pteAddr e.1 ≤ pa && pa < pteAddr e.1 + e.2

/-- What an access does, for the page checks (R128, R361). -/
inductive Access where
  | load            -- plain loads, images, engine reads
  | store           -- plain stores, engine writes
  | atomic
  | stampedLoad
  | stampedStore
  | nodeLoad        -- `nld`, node reads
  | nodeStore       -- `nst`, `free`, link steps
  | nodeName        -- `push`: only the kind of page is checked
  | fetch
  deriving DecidableEq, Repr, Inhabited

/-- The permission bit an access needs (R361). -/
def accessAllowed (a : Access) (e : Word) : Bool :=
  match a with
  | .load | .stampedLoad | .nodeLoad => e.getLsbD 55
  | .store | .atomic | .stampedStore | .nodeStore => e.getLsbD 56
  | .nodeName => true
  | .fetch => e.getLsbD 57

/-- Whether the kind of page and of memory admits the access (R128). A page both STAMPED and executable admits stamped accesses: the
model's choice between the two rows (log 82). -/
def kindAllowed (a : Access) (e : Word) (space : Nat) : Bool :=
  let stamped := e.getLsbD 60
  let net := e.getLsbD 59
  let ringsrc := e.getLsbD 58
  let exec := e.getLsbD 57
  match a with
  | .load => !(stamped && space != 0)
  | .store => !stamped && !net && !ringsrc && !exec
  | .atomic => !stamped && !net && !ringsrc && !exec && space != 2
  | .stampedLoad | .stampedStore => stamped && space == 0
  | .nodeLoad | .nodeStore => net && space != 2
  | .nodeName => net
  | .fetch => space != 2

/-- Whether a scratchpad offset is within the context's partition of its core, or its core's eviction area of the
context is in force (R353). -/
def State.partitionOk (s : State) (ctx pa : Nat) : Bool :=
  let c := s.core (paHome pa) (paCore pa)
  let off := paScratchOff pa
  (c.partitions.any fun p => p.ctx = ctx && p.base * 65536 ≤ off && off < (p.base + p.size) * 65536) ||
  (c.evicted.any fun e => e.1 = ctx)

/-- The outcome of an access's checks: its physical address and leaf, or the trap cause (R129). -/
inductive Check where
  | ok (pa : Nat) (leaf : Word)
  | fail (cause : BitVec 8)
  deriving DecidableEq, Repr, Inhabited

/-- Translation and the checks of PAGE and PROT (R22, R127, R128, R353, R361). -/
def State.translate (s : State) (die ctx : Nat) (a : Access) (va : Word) : Check :=
  if bits va 48 16 != 0 then .fail causeProt
  else match s.leafOf die ctx va.toNat with
  | .fail c => .fail c
  | .leaf e base _ =>
    let pa := s.leafAddr ctx e (va.toNat - base)
    if !paValid pa || !accessAllowed a e || !kindAllowed a e (paSpace pa) then .fail causeProt
    else if paSpace pa == 1 && !s.partitionOk ctx pa then .fail causeProt
    else .ok pa e

/-- ALIGN, then PAGE, then PROT (R129). -/
def State.check (s : State) (die ctx : Nat) (a : Access) (va : Word) (align : Nat) : Check :=
  if va.toNat % align != 0 then .fail causeAlign else s.translate die ctx a va

end Sys2Proof.Machine
end

