-- ==== Sys2Proof/Machine/Operands.lean ====
section
/-! DEFINITION. Registers as operands (R41), the address forms (R127), and the values the slots compute with. -/

namespace Sys2Proof.Machine

/-! ### Register files (R41) -/

/-- s[r]: s0 reads 0. -/
def Thread.readS (t : Thread) (r : BitVec 5) : Word := if r = 0 then 0 else t.s[r.toNat]

/-- s[r] ← x: a write to s0 is discarded. -/
def Thread.writeS (t : Thread) (r : BitVec 5) (x : Word) : Thread :=
  if r = 0 then t else { t with s := t.s.set r.toNat x }

/-- q[r]: q0 reads 1. -/
def Thread.readQ (t : Thread) (r : BitVec 3) : Bool := if r = 0 then true else t.q[r.toNat]

/-- q[r] ← b: a write to q0 is discarded. -/
def Thread.writeQ (t : Thread) (r : BitVec 3) (b : Bool) : Thread :=
  if r = 0 then t else { t with q := t.q.set r.toNat b }

/-- v[r]. -/
def Thread.readV (t : Thread) (r : BitVec 6) : VReg := t.v[r.toNat]

/-- v[r] ← x. -/
def Thread.writeV (t : Thread) (r : BitVec 6) (x : VReg) : Thread := { t with v := t.v.set r.toNat x }

/-- p[r]: p0 reads all ones. -/
def Thread.readP (t : Thread) (r : BitVec 3) : Word := if r = 0 then BitVec.allOnes 64 else t.p[r.toNat]

/-- p[r] ← x: a write to p0 is discarded. -/
def Thread.writeP (t : Thread) (r : BitVec 3) (x : Word) : Thread :=
  if r = 0 then t else { t with p := t.p.set r.toNat x }

/-- d[r]. -/
def Thread.readD (t : Thread) (r : BitVec 4) : BitVec 128 := t.d[r.toNat]

/-- d[r] ← x. -/
def Thread.writeD (t : Thread) (r : BitVec 4) (x : BitVec 128) : Thread := { t with d := t.d.set r.toNat x }

/-- The guard is true when q[g] xor bit 61 is 1 (R34). -/
def Thread.guardTrue (t : Thread) (g : Guard) : Bool := t.readQ g.q != g.neg

/-- The uniform results of an operation written to their registers, in order. -/
def Thread.writeAll (t : Thread) : List (BitVec 5) → List Word → Thread
  | r :: rs, x :: xs => (t.writeS r x).writeAll rs xs
  | _, _ => t

/-! ### Immediates and addresses (R127) -/

/-- Access size of a U word: 4 bytes with X = 1, else 8 (R127). -/
def uSize (w4 : Bool) : Nat := if w4 then 4 else 8

/-- base + SignExt(imm32, 32), wrapping (R127). -/
def Thread.uAddr (t : Thread) (sa : BitVec 5) (imm : BitVec 32) : Word := t.readS sa + sx imm

/-- base + SignExt(imm15, 15), wrapping (R127). -/
def Thread.vAddr (t : Thread) (sa : BitVec 5) (off : BitVec 15) : Word := t.readS sa + sx off

/-- base + SignExt(imm21, 21), wrapping (R232). -/
def Thread.nAddr (t : Thread) (s1 : BitVec 5) (off : BitVec 21) : Word := t.readS s1 + sx off

/-- The bytes of an element size (R71). -/
def esizeBytes : ESize → Nat
  | .s4 => 4
  | .s2 => 2
  | .s1 => 1

/-- Element addresses of `vld` and `vst`: base + 4j (R127). -/
def unitAddr (base : Word) (j : Nat) : Word := base + w64 (4 * j)

/-- Element addresses of `vlds` and `vsts`: base + j × stride (R127). -/
def strideAddr (base stride : Word) (j : Nat) : Word := base + w64 j * stride

/-- Element addresses of `vgath` and `vscat`: base + SignExt(vb[j], 32) (R127). -/
def indexAddr (base : Word) (vb : VReg) (j : Nat) : Word := base + sx (lane vb j)

/-- The stamp a stamped store uses: ITER when sx = 0, else s[sx] (R13). -/
def Thread.stampArg (t : Thread) (r : BitVec 5) : BitVec 32 :=
  if r = 0 then t.sys.iter.extractLsb' 0 32 else (t.readS r).extractLsb' 0 32

/-! ### Uniform arithmetic (R80 to R84) -/

/-- The signed high half of a product. -/
def mulHigh (a b : Word) : Word := BitVec.ofInt 64 (a.toInt * b.toInt / 2 ^ 64)

/-- The unsigned high half of a product. -/
def mulHighU (a b : Word) : Word := w64 (a.toNat * b.toNat / 2 ^ 64)

/-- A shift amount: bits 5:0 (R80). -/
def shAmt (b : Word) : Nat := (bits b 0 6).toNat

/-- `bext` (R82). -/
def bitExtract (a b : Word) : Word :=
  let w := min (bits b 8 7).toNat 64
  w64 ((a >>> shAmt b).toNat % 2 ^ w)

/-- SignExt(a, n) for n from 1 to 64 (R81). -/
def signFrom (a : Word) (n : Nat) : Word := (a <<< (64 - n)).sshiftRight (64 - n)

/-- The number of leading zero bits (R81). -/
def leadingZeros (a : Word) : Nat := 64 - bitLen a.toNat

/-- The number of one bits among the low `n` (R81). -/
def onesBelow (a : Word) : Nat → Nat
  | 0 => 0
  | n + 1 => onesBelow a n + if a.getLsbD n then 1 else 0

/-! ### Integer lanes (R104, R105) -/

/-- A lane operation on elements of the width: one 32-bit element, or two 16-bit ones (R100, R104). -/
def perWidth (w : Width) (f : (n : Nat) → BitVec n → BitVec n → BitVec n) (x y : BitVec 32) : BitVec 32 :=
  match w with
  | .w32 => f 32 x y
  | .w16 => f 16 (hi16 x) (hi16 y) ++ f 16 (lo16 x) (lo16 y)

/-- An exact integer clamped to `[lo, hi]`. -/
def clamp (lo hi x : Int) : Int := if x < lo then lo else if hi < x then hi else x

/-- The exact result of `vadd` or `vsub` stored by its mod: wrapping, or saturated to the signed or unsigned range
(R105). -/
def satStore (uns sat : Bool) (n : Nat) (sExact uExact : Int) : BitVec n :=
  if !sat then BitVec.ofInt n sExact
  else if uns then BitVec.ofInt n (clamp 0 (2 ^ n - 1) uExact)
  else BitVec.ofInt n (clamp (-(2 ^ (n - 1))) (2 ^ (n - 1) - 1) sExact)

/-- `vadd` of one element (R104, R105). -/
def elemAdd (uns sat : Bool) (n : Nat) (x y : BitVec n) : BitVec n :=
  satStore uns sat n (x.toInt + y.toInt) ((x.toNat : Int) + y.toNat)

/-- `vsub` of one element (R104, R105). -/
def elemSub (uns sat : Bool) (n : Nat) (x y : BitVec n) : BitVec n :=
  satStore uns sat n (x.toInt - y.toInt) ((x.toNat : Int) - y.toNat)

/-- `vmulh` of one element (R104). -/
def elemMulH (n : Nat) (x y : BitVec n) : BitVec n := BitVec.ofInt n (x.toInt * y.toInt / 2 ^ n)

/-- `vmulhu` of one element (R104). -/
def elemMulHU (n : Nat) (x y : BitVec n) : BitVec n := BitVec.ofNat n (x.toNat * y.toNat / 2 ^ n)

/-- The shift amount of an element: y[4:0] for 32 bits, y[3:0] for 16 (R104). -/
def elemShift {n : Nat} (y : BitVec n) : Nat := y.toNat % n

/-- The smaller, or the larger, as signed values. -/
def sMinMax (big : Bool) (n : Nat) (x y : BitVec n) : BitVec n := if (x.toInt ≤ y.toInt) != big then x else y

/-- The smaller, or the larger, as unsigned values. -/
def uMinMax (big : Bool) (n : Nat) (x y : BitVec n) : BitVec n := if (x.toNat ≤ y.toNat) != big then x else y

/-- A test on elements of the width: both elements of a two-element lane must pass (R112). -/
def testWidth (w : Width) (f : (n : Nat) → BitVec n → BitVec n → Bool) (x y : BitVec 32) : Bool :=
  match w with
  | .w32 => f 32 x y
  | .w16 => f 16 (hi16 x) (hi16 y) && f 16 (lo16 x) (lo16 y)

/-- The test of `vcmplt` (R112). -/
def elemLt (uns : Bool) (n : Nat) (x y : BitVec n) : Bool := if uns then x.toNat < y.toNat else x.toInt < y.toInt

/-- The test of `vcmple` (R112). -/
def elemLe (uns : Bool) (n : Nat) (x y : BitVec n) : Bool := if uns then x.toNat ≤ y.toNat else x.toInt ≤ y.toInt

/-! ### Floating-point lanes (R107, R108) -/

/-- A lane result with its indications. -/
abbrev LaneRes := BitVec 32 × Ind

/-- An operation of one element's patterns on a lane of the type: one FP32 element, or two 16-bit ones. -/
def perType (t : FTyp) (f : Fmt → Nat → Nat → Nat → Nat × Ind) (x y z : BitVec 32) : LaneRes :=
  match t with
  | .f32 => let r := f fp32 x.toNat y.toNat z.toNat; (BitVec.ofNat 32 r.1, r.2)
  | _ =>
    let h := f (fmtOf t) (hi16 x).toNat (hi16 y).toNat (hi16 z).toNat
    let l := f (fmtOf t) (lo16 x).toNat (lo16 y).toNat (lo16 z).toNat
    (BitVec.ofNat 16 h.1 ++ BitVec.ofNat 16 l.1, h.2 ||| l.2)

/-- A register of lane results under a mask, with the OR of their indications (R101, R102). -/
def maskRes (m : Word) (old : VReg) (f : Nat → LaneRes) : VReg × Ind :=
  (maskLanes m old fun j => (f j).1, laneInds m fun j => (f j).2)

/-- Sign bits of a lane's elements of a type (R111). -/
def signBits (t : FTyp) : BitVec 32 :=
  match t with
  | .f32 => 0x80000000
  | _ => 0x80008000

/-- A conversion of one lane (R114). -/
def convertLane (c : CvtCode) (x : BitVec 32) : LaneRes :=
  let out (r : Nat × Ind) : LaneRes := (BitVec.ofNat 32 r.1, r.2)
  let int (r : Int × Ind) : LaneRes := (BitVec.ofInt 32 r.1, r.2)
  match c with
  | .i32f32 => out (fp32.ofInt .rne x.toInt)
  | .u32f32 => out (fp32.ofInt .rne x.toNat)
  | .f32i32 => int (numToInt .rne (-(2 ^ 31)) (2 ^ 31 - 1) (fp32.num x.toNat))
  | .f32i32z => int (numToInt .rz (-(2 ^ 31)) (2 ^ 31 - 1) (fp32.num x.toNat))
  | .f32u32 => int (numToInt .rne 0 (2 ^ 32 - 1) (fp32.num x.toNat))
  | .f32u32z => int (numToInt .rz 0 (2 ^ 32 - 1) (fp32.num x.toNat))
  | .f16l => out (convertFmt fp16 fp32 .rne (lo16 x).toNat)
  | .f16h => out (convertFmt fp16 fp32 .rne (hi16 x).toNat)
  | .bf16l => out (convertFmt bf16 fp32 .rne (lo16 x).toNat)
  | .bf16h => out (convertFmt bf16 fp32 .rne (hi16 x).toNat)

/-- A pair conversion of one lane: bits 15:0 from va, bits 31:16 from vb (R114). -/
def convertPair (c : PairCode) (x y : BitVec 32) : LaneRes :=
  let g := match c with | .toF16 => fp16 | .toBf16 => bf16
  let l := convertFmt fp32 g .rne x.toNat
  let h := convertFmt fp32 g .rne y.toNat
  (BitVec.ofNat 16 h.1 ++ BitVec.ofNat 16 l.1, l.2 ||| h.2)

/-- The combination of `vscan` (R118). -/
def scanApply (op : ScanOp) (x y : BitVec 32) : LaneRes :=
  match op with
  | .add => (x + y, 0)
  | .fadd => let r := fp32.add .rne x.toNat y.toNat; (BitVec.ofNat 32 r.1, r.2)
  | .min => (sMinMax false 32 x y, 0)
  | .max => (sMinMax true 32 x y, 0)
  | .fmin => let r := fp32.minMax false x.toNat y.toNat; (BitVec.ofNat 32 r.1, r.2)
  | .fmax => let r := fp32.minMax true x.toNat y.toNat; (BitVec.ofNat 32 r.1, r.2)

/-- The running combination over the active lanes: the results in lane order and the indications (R118). -/
def scanLanes (op : ScanOp) (va : VReg) : List Nat → Option (BitVec 32) → List (Nat × BitVec 32) × Ind
  | [], _ => ([], 0)
  | j :: r, none =>
    let rest := scanLanes op va r (some (lane va j))
    ((j, lane va j) :: rest.1, rest.2)
  | j :: r, some acc =>
    let x := scanApply op acc (lane va j)
    let rest := scanLanes op va r (some x.1)
    ((j, x.1) :: rest.1, x.2 ||| rest.2)

/-- The combination of `vred` (R123). -/
def redApply (op : RedOp) (x y : BitVec 32) : LaneRes :=
  match op with
  | .add => (x + y, 0)
  | .fadd => let r := fp32.add .rne x.toNat y.toNat; (BitVec.ofNat 32 r.1, r.2)
  | .min => (sMinMax false 32 x y, 0)
  | .max => (sMinMax true 32 x y, 0)
  | .minu => (uMinMax false 32 x y, 0)
  | .maxu => (uMinMax true 32 x y, 0)
  | .fmin => let r := fp32.minMax false x.toNat y.toNat; (BitVec.ofNat 32 r.1, r.2)
  | .fmax => let r := fp32.minMax true x.toNat y.toNat; (BitVec.ofNat 32 r.1, r.2)
  | .and => (x &&& y, 0)
  | .or => (x ||| y, 0)
  | .xor => (x ^^^ y, 0)

/-- The identity of `vred` (R123). -/
def redIdentity : RedOp → BitVec 32
  | .add => 0
  | .fadd => 0x80000000
  | .min => 0x7FFFFFFF
  | .max => 0x80000000
  | .minu => 0xFFFFFFFF
  | .maxu => 0
  | .fmin => 0x7F800000
  | .fmax => 0xFF800000
  | .and => 0xFFFFFFFF
  | .or => 0
  | .xor => 0

/-- Whether `vred` sign-extends its result (R123). -/
def redSigned : RedOp → Bool
  | .add | .min | .max => true
  | _ => false

/-- One level of the tree of `vred`: neighbours combined, an absent one passing the other through (R123). -/
def redLevel (op : RedOp) : List (Option (BitVec 32)) → List (Option (BitVec 32)) × Ind
  | some a :: some b :: r =>
    let x := redApply op a b
    let rest := redLevel op r
    (some x.1 :: rest.1, x.2 ||| rest.2)
  | none :: b :: r => let rest := redLevel op r; (b :: rest.1, rest.2)
  | some a :: none :: r => let rest := redLevel op r; (some a :: rest.1, rest.2)
  | l => (l, 0)

/-- The tree of `vred`: `n` levels (R123). -/
def redTree (op : RedOp) : Nat → List (Option (BitVec 32)) → List (Option (BitVec 32)) × Ind
  | 0, l => (l, 0)
  | n + 1, l =>
    let x := redLevel op l
    let y := redTree op n x.1
    (y.1, x.2 ||| y.2)

/-- The reduction of the active lanes and its indications (R123). -/
def reduceLanes (op : RedOp) (m : Word) (v : VReg) : BitVec 32 × Ind :=
  let r := redTree op 6 (laneIdx.map fun j => if m.getLsbD j then some (lane v j) else none)
  match r.1 with
  | some x :: _ => (x, r.2)
  | _ => (redIdentity op, r.2)

/-- The lowest active lane's value, if a lane is active. -/
def lowestLane (m : Word) (v : VReg) : Option (BitVec 32) := (activeLanes m).head?.map (lane v)

/-- The FP32 word of a decoded table entry (R115, R278). -/
def entryFp32 (e : Nat) : BitVec 32 := BitVec.ofNat 32 (e * 2 ^ 13)

/-- The code that `vdec` reads for a lane: byte or nibble 64g + j (R115). -/
def decCode (c4 : Bool) (g : BitVec 2) (va : VReg) (j : Nat) : Nat :=
  let n := 64 * g.toNat + j
  if c4 then va.toNat / 2 ^ (4 * n) % 16 else va.toNat / 2 ^ (8 * n) % 256

/-- The register with the codes of the lanes in place: byte or nibble j for lane j (R116). -/
def placeCodes (c4 : Bool) (old : VReg) : List (Nat × Nat) → VReg
  | [] => old
  | (j, c) :: r =>
    let w := if c4 then 4 else 8
    placeCodes c4 ((old &&& ~~~(BitVec.ofNat 2048 ((2 ^ w - 1) * 2 ^ (w * j)))) ||| BitVec.ofNat 2048 (c % 2 ^ w * 2 ^ (w * j))) r

end Sys2Proof.Machine
end

