-- ==== Sys2Proof/Machine/Ops.lean ====
section
/-! DEFINITION. The operations the words share: taking a trap and returning from it, leaving a slot, requests and
lookahead windows (R42 to R46, R129 to R131, R151, R182 to R186, R338 to R341, R350, R375). -/

namespace Sys2Proof.Machine

/-! ### Words -/

/-- A word's meaning from its effect on the state with its thread. -/
def State.word (s : State) (f : Issue → Thread → State) : Host.Outcome State Fault Refusal :=
  match s.current with
  | none => .fault .noThread
  | some (i, t) => .next (f i t)

/-- The meaning of a word that only changes its thread's registers. -/
def State.wordRegs (s : State) (f : Thread → Thread) : Host.Outcome State Fault Refusal :=
  s.word fun i t => s.setThread i.place (f t)

/-! ### Fault records (R375) -/

/-- A word of a fault record (R375). -/
def faultWord (cause : BitVec 8) (ctx kind : Nat) (writer : BitVec 24) : Word :=
  w64 (cause.toNat * 2 ^ 56 + ctx * 2 ^ 50 + kind * 2 ^ 40 + writer.toNat)

/-- The state with a fault record written to a context's log; the log keeps the last 31 (R375). -/
def State.faultRecord (s : State) (ctx kind : Nat) (cause : BitVec 8) (writer : BitVec 24) (pc info : Word) : State :=
  let old := match s.bar0.faults.find? fun e => e.1 = ctx with
    | some e => e.2
    | none => (0, [])
  let r : FaultRec := ⟨faultWord cause ctx kind writer, pc, info, w64 s.cycle⟩
  let kept := old.2 ++ [r]
  let new := (old.1 + 1, kept.drop (kept.length - 31))
  { s with bar0 := { s.bar0 with faults := putKey ctx new s.bar0.faults } }

/-- The state with a context's bit in FAULTED set (R341, R370). -/
def State.setFaulted (s : State) (ctx : Nat) : State :=
  { s with bar0 := { s.bar0 with faulted := s.bar0.faulted ||| w64 (2 ^ ctx) } }

/-! ### Leaving a slot (R25, R182 to R186, R231) -/

/-- The first generation after another that is not held away, within `fuel` steps (R186). -/
def genAfter (away : List Nat) (g : Nat) : (fuel : Nat) → Option Nat
  | 0 => none
  | fuel + 1 => if away.contains (nextGen g) then genAfter away (nextGen g) fuel else some (nextGen g)

/-- Whether a slot may take a thread: its generation is not held away (R186). -/
def Slot.usable (x : Slot) : Bool := !x.heldAway.contains x.gen

/-- The state after a slot is freed and its generation advances; with every generation held away the slot is reported
(R25, R186). -/
def State.freeSlot (s : State) (p : Place) : State :=
  let x := s.slot p
  match genAfter x.heldAway x.gen 63 with
  | some g => s.setSlot p { x with thread := none, gen := g }
  | none => (s.setSlot p { x with thread := none }).tell (.slotBlocked p)

/-- The command that runs ends with a status, if its code is the one given (R372). -/
def State.finishCmd (s : State) (code : BitVec 8) (status : BitVec 8) : State :=
  if s.bar0.busy && s.bar0.cmdCode = code then { s with bar0 := { s.bar0 with busy := false, status := status } } else s

/-- The state after a thread stops: its stop notice is due if it has made a stamped store, its queued notices are
counted, its late faults are logged, its accumulators are kept while operations of it are pending, a request to pre-empt it
is answered, and its slot is freed (R182, R231, R300, R345). -/
def State.stopThread (s : State) (p : Place) (t : Thread) : State :=
  let wid := s.widAt p
  let s := t.lateFaults.foldl (fun (s : State) f => s.faultRecord t.ctx 2 (bits f.1 0 8) wid 0 f.2.1) s
  let s := t.notices.foldl (fun (s : State) _ => s.tell (.noticeDiscarded wid)) s
  let s : State := if t.stampedNow || t.stampedAny then
      { s with stopped := s.stopped ++ [Stopped.mk t.uid (t.former ++ [wid]) t.ctx p.die] }
    else s
  let s : State := if s.ops.any fun o => o.owner = t.uid then { s with accs := s.accs ++ [(t.uid, t.acc)] } else s
  let s : State := if t.preempt.isSome then s.finishCmd 6 4 else s
  s.freeSlot p

/-- The former ids of a thread that leaves its slot alive, and the id a ninth entry drops (R185). -/
def Thread.formerAfter (t : Thread) (wid : BitVec 24) : List (BitVec 24) × Option (BitVec 24) :=
  if !t.stampedNow then (t.former, none)
  else if t.former.length < 8 then (t.former ++ [wid], none)
  else (t.former.drop 1 ++ [wid], t.former.head?)

/-- The state after a live thread has left its slot: its id is held away if it stored under it, and the slot is freed; a
request to pre-empt it there is answered (R185, R345). -/
def State.leaveAlive (s : State) (p : Place) (t : Thread) : State :=
  let x := s.slot p
  let s : State := if t.stampedNow then s.setSlot p { x with heldAway := x.heldAway ++ [x.gen] } else s
  let s : State := if t.preempt.isSome then s.finishCmd 6 4 else s
  s.freeSlot p

/-- The state after a former id is dropped: a stop notice for it alone is due (R185). -/
def State.dropId (s : State) (uid ctx die : Nat) : Option (BitVec 24) → State
  | some old => { s with stopped := s.stopped ++ [Stopped.mk uid [old] ctx die] }
  | none => s

/-- Whether every operation of a saved thread is recorded in its block (R346). -/
def State.saved (s : State) (uid : Nat) : Bool := s.saving.all fun v => v.uid ≠ uid || v.complete

/-- The state after a thread in a PREEMPT handler is switched out: at once if its block is complete, else when it is
(R350). -/
def State.switchOut (s : State) (p : Place) (t : Thread) : State :=
  if s.saved t.uid then s.leaveAlive p t else s.setThread p { t with hold := .switch }

/-! ### Fetch (R33, R87) -/

/-- The word at an address, with the checks of execution, or the trap cause (R87). -/
def State.fetch (s : State) (die ctx : Nat) (pc : Word) : Except (BitVec 8) Word :=
  match s.check die ctx .fetch pc 8 with
  | .fail c => .error c
  | .ok pa _ => if s.badRange pa 8 then .error causeMcheck else .ok (s.read64 pa)

/-! ### Taking a trap (R338 to R341) -/

/-- TRAPCAUSE from its fields (R77). -/
def trapCause (cause : BitVec 8) (sub : BitVec 4) (window : Bool) (resume : Word) : Word :=
  zx cause ||| (zx sub <<< 12) ||| (if window then 0x100 ||| ((resume &&& 0x0000FFFFFFFFFFF8) <<< 13) else 0)

/-- Whether TRAPVEC names a handler (R341). -/
def vecUsable (v : Word) : Bool := bits v 3 45 != 0 && bits v 48 16 == 0 && bits v 0 3 == 0

/-- The state after a fatal fault: a fault record, the context's bit in FAULTED, and the thread gone as by `end`
(R341). -/
def State.fatal (s : State) (p : Place) (t : Thread) (cause : BitVec 8) (pc info : Word) : State :=
  ((s.faultRecord t.ctx 1 cause (s.widAt p) pc info).setFaulted t.ctx).stopThread p t

/-- The thread as it enters its handler: TRAPCAUSE, TRAPPC and TRAPINFO written, HS 1, PC at TRAPVEC, held for two
cycles after this one, results pending with their counts stopped (R45, R338). -/
def Thread.enter (t : Thread) (cycle : Nat) (cause pc info : Word) : Thread :=
  { t with
    pc := t.sys.trapvec &&& 0x0000FFFFFFFFFFFF
    sys := { t.sys with trapcause := cause, trappc := pc, trapinfo := info }
    hs := true
    firstWord := true
    pending := none
    migration := none
    hold := .until_ (cycle + 3)
    image := []
    tags := (t.tags.filter fun g => !g.image).map fun g => { g with frozen := true } }

/-- Whether a thread's TRAPVEC names a handler whose first word it can fetch (R341). -/
def State.handlerOk (s : State) (p : Place) (t : Thread) : Bool :=
  vecUsable t.sys.trapvec && match s.fetch p.die t.ctx t.sys.trapvec with
    | .error _ => false
    | .ok _ => true

/-- Trap entry, R45 being complete: the handler's first word must be fetchable, or the fault is fatal; DEBUG never is, and
leaves the slot halted and management told (R338, R341, R357). -/
def State.enterTrap (s : State) (p : Place) (t : Thread) (cause pc info : Word) : State :=
  let c := bits cause 0 8
  if !vecUsable t.sys.trapvec then
    if c = causeDebug then
      (s.setThread p { t with halted := true, debugDue := false, pending := none }).tell (.slotStuck p)
    else s.fatal p t c pc info
  else
    match s.fetch p.die t.ctx t.sys.trapvec with
    | .error e =>
      if c = causeDebug then
        (s.setThread p { t with halted := true, debugDue := false, pending := none }).tell (.slotStuck p)
      else s.fatal p t e t.sys.trapvec t.sys.trapvec
    | .ok _ => s.setThread p (t.enter s.cycle cause pc info)

/-- Whether an operation's answers have all been delivered. -/
def Tag.done (g : Tag) : Bool := g.state != .waiting

/-- Whether every open operation has completed or been withdrawn (R45). -/
def Thread.settled (t : Thread) : Bool := t.tags.all Tag.done

/-- A precise trap of a word, or one delivered at a boundary: fatal at a handler's first word, the end of a PREEMPT
handler, entered at once, or entered once R45 is complete (R45, R341, R350). -/
def State.raise (s : State) (p : Place) (t : Thread) (cause pc info : Word) : State :=
  let c := bits cause 0 8
  if t.priv then (s.faultRecord t.ctx 4 c (s.widAt p) pc info).switchOut p t
  else if t.firstWord then s.fatal p t c pc info
  else if t.settled then s.enterTrap p t cause pc info
  else s.setThread p { t with pending := some ⟨cause, pc, info⟩ }

/-- The word in its issue cycle traps precisely: nothing but the trap registers changes (R8). -/
def State.precise (s : State) (i : Issue) (t : Thread) (cause : BitVec 8) (info : Word) : State :=
  (s.raise i.place t (zx cause) i.pc info).stay

/-! ### Waiting stamped loads (R45, R181) -/

/-- Whether an open operation is a stamped wait: one accepted and waiting at its home, or answered "retry" and not sent again
(R29, R180, R181). -/
def State.waitsAtHome (s : State) (t : Thread) (g : Tag) : Bool :=
  g.isLda && g.wait && g.state == .waiting &&
    ((s.dies.any fun e => e.2.monitor.any fun m => m.owner = t.uid ∧ m.req = g.req) &&
       (s.outs.any fun o => o.owner = t.uid ∧ o.req = g.req ∧ o.accepted) ||
     (s.sends.any fun r => r.owner = t.uid ∧ r.req = g.req ∧ r.notBefore.isSome))

/-- Whether a request of a thread that was issued after one of its operations stands in the send list of the same home (R132). -/
def State.queuedBehind (s : State) (t : Thread) (n : Nat) : Bool :=
  s.outs.any fun o => o.owner = t.uid && o.req = n &&
    s.sends.any fun r => r.owner = t.uid && r.dest = o.dest && n < r.req

/-- The numbers of a thread's stamped waits that can be withdrawn (R45, R181, R352). One keeps its place ahead of the requests
queued behind it to its home, and is withdrawn once they have been sent (R132, R188; log 71). -/
def State.withdrawable (s : State) (t : Thread) : List Nat :=
  (t.tags.filter fun g => s.waitsAtHome t g && !s.queuedBehind t g.req).map (·.req)

/-- The state after a thread's waiting stamped loads are withdrawn, leaving no trace at their homes (R181). -/
def State.withdraw (s : State) (p : Place) (t : Thread) : State :=
  let ns := s.withdrawable t
  let mine : Nat → Nat → Bool := fun o n => o = t.uid && ns.contains n
  let s1 : State := { s with
    dies := s.dies.map fun e => (e.1, { e.2 with monitor := e.2.monitor.filter fun m => !mine m.owner m.req })
    sends := s.sends.filter fun r => !mine r.owner r.req
    outs := s.outs.filter fun o => !mine o.owner o.req }
  s1.setThread p { t with tags := t.tags.map fun g => if ns.contains g.req then { g with state := .withdrawn } else g }

/-! ### Requests (R131, R151) -/

/-- A request of a thread for the home of a physical address. -/
def State.request (s : State) (p : Place) (t : Thread) (n pa : Nat) (body : ReqBody) : Req :=
  { req := n, owner := t.uid, wid := s.widAt p, ctx := t.ctx, src := p.die, srcCore := p.core, dest := paHome pa,
    core := paOwner pa, engine := false, retries := 0, notBefore := none, ordered := false, hops := 0, body }

/-- What is kept of a request until its answer is delivered. -/
def Req.out (r : Req) (cls : OutClass) (vaddr : Word) : Out :=
  ⟨r.req, r.owner, cls, r.dest, r.core, r.ctx, vaddr, false⟩

/-- The state with a request at the tail of its send list (R151). -/
def State.addReq (s : State) (r : Req) (cls : OutClass) (vaddr : Word) : State :=
  { s with sends := s.sends ++ [r], outs := s.outs ++ [r.out cls vaddr] }

/-- Elements put to the group of their block, groups in order of their lowest element (R131). -/
def addGroup (e : Elem) : List (List Elem) → List (List Elem)
  | [] => [[e]]
  | g :: r => if (g.head?.map fun x => blockOf x.paddr) = some (blockOf e.paddr) then (g ++ [e]) :: r else g :: addGroup e r

/-- The groups of an access (R131). -/
def groupsOf (es : List Elem) : List (List Elem) := es.foldl (fun gs e => addGroup e gs) []

/-- The checks of an access's elements in order: their physical addresses, or the first failure (R129). -/
def State.checkElems (s : State) (die ctx : Nat) (a : Access) (size : Nat) :
    List (Nat × Word) → Except (BitVec 8 × Word) (List Elem)
  | [] => .ok []
  | (l, va) :: r =>
    match s.check die ctx a va size with
    | .fail c => .error (c, va)
    | .ok pa _ =>
      match s.checkElems die ctx a size r with
      | .error x => .error x
      | .ok es => .ok (⟨l, va, pa, size⟩ :: es)

/-- An operation's tag as it opens: LA words to come, nothing delivered (R43). -/
def openTag (i : Issue) (n la : Nat) : Tag :=
  { req := n, pc := i.pc, la := la, count := la, frozen := false, hasV := false, vd := 0, lanes := 0, v := 0, sds := [],
    u := [], parts := 0, isLda := false, addr := 0, iter := 0, lag := 0, wait := false, first := false,
    fault := none, undo := none, now := false, image := false, ordered := false, state := .waiting }

/-- The thread with an operation opened. -/
def Thread.addTag (t : Thread) (g : Tag) : Thread := { t with tags := t.tags ++ [{ g with first := t.firstWord }] }

/-- The first virtual address of a group. -/
def groupAddr (g : List Elem) : Word := (g.head?.map (·.vaddr)).getD 0

/-- The physical address of a group's first element. -/
def groupPa (g : List Elem) : Nat := (g.head?.map (·.paddr)).getD 0

/-- The state after a load opens its operation and sends one request for each group (R43, R151). -/
def State.openLoad (s : State) (i : Issue) (t : Thread) (g : Nat → Tag) (es : List Elem) : State :=
  let n := s.nextId
  let gs := groupsOf es
  let s1 := { s with nextId := n + 1 }.setThread i.place
    (t.addTag { g n with parts := gs.length, now := t.reissue == some i.pc })
  gs.foldl (fun s' e => s'.addReq { s.request i.place t n (groupPa e) (.load e) with ordered := (g n).ordered } .load
    (groupAddr e)) s1

/-- The state after a thread is told to migrate: it is held, and resumes at an address with the loop counts given (R90,
R323). -/
def State.startMigration (s : State) (i : Issue) (t : Thread) (die core : Nat) (resume lc0 lc1 : Word) : State :=
  (s.setThread i.place { t with hold := .migrate, migration := some ⟨die, core, resume, lc0, lc1, .waiting⟩ }).stay

/-- A plain load: checked, then migrating its thread if its lowest element lies in another lamp die's scratchpad, else
opened (R129, R130). -/
def State.plainLoad (s : State) (i : Issue) (t : Thread) (a : Access) (size : Nat) (las : List (Nat × Word)) (g : Nat → Tag) : State :=
  match s.checkElems i.place.die t.ctx a size las with
  | .error (c, va) => s.precise i t c va
  | .ok [] => s
  | .ok (e :: es) =>
    if paSpace e.paddr = 1 && paHome e.paddr ≠ i.place.die then
      s.startMigration i t (paHome e.paddr) (paCore e.paddr) i.pc t.sys.lc0 t.sys.lc1
    else s.openLoad i t g (e :: es)

/-- The bytes a group of elements stores: later lanes overwrite earlier ones as the home writes them in order (R135). -/
def groupBytes (f : Nat → Nat) (g : List Elem) : List (Nat × Byte) :=
  g.flatMap fun e => (bytesOf e.size (f e.lane)).mapIdx fun k b => (e.paddr + k, b)

/-- The class of a posted store by its home: a remote store message goes to a scratchpad of another core (R322). -/
def storeClass (p : Place) (pa : Nat) : OutClass :=
  if paSpace pa = 1 && !(paHome pa = p.die && paCore pa = p.core) then .remoteStore else .store

/-- A plain store: checked, then one posted request for each group; `f` gives each element's value (R129, R131). -/
def State.plainStore (s : State) (i : Issue) (t : Thread) (a : Access) (size : Nat) (las : List (Nat × Word))
    (f : Nat → Nat) : State :=
  match s.checkElems i.place.die t.ctx a size las with
  | .error (c, va) => s.precise i t c va
  | .ok es =>
    let n := s.nextId
    (groupsOf es).foldl (fun s' g =>
      s'.addReq (s.request i.place t n (groupPa g) (.store (groupAddr g) (groupBytes f g)))
        (storeClass i.place (groupPa g)) (groupAddr g)) { s with nextId := n + 1 }

/-! ### Return from a trap (R45, R96) -/

/-- The state after a withdrawn `lda` is sent again, at the head of its send list (R45, R156, R188). One whose address no longer
translates ends in that PAGE or PROT, delivered before J as a trap of its home would be (log 64). -/
def State.resend (s : State) (p : Place) (t : Thread) (g : Tag) : State :=
  match s.translate p.die t.ctx .stampedLoad g.addr with
  | .fail c =>
    s.modThread p fun u => { u with tags := modFirst (fun h => h.req = g.req) (fun h => { h with state := .trapped c g.addr }) u.tags }
  | .ok pa _ =>
    let r := s.request p t g.req pa (.lda g.addr pa g.iter g.lag g.wait)
    { s with sends := r :: s.sends, outs := s.outs ++ [r.out .lda g.addr] }

/-- The state after a thread leaves the handler state: counts resume and withdrawn loads are sent again (R45, R96). -/
def State.resumeTags (s : State) (p : Place) (t : Thread) : State :=
  let t' := { t with tags := t.tags.map fun g =>
    { g with frozen := false, state := if g.state == .withdrawn then .waiting else g.state } }
  (t.tags.filter fun g => g.state == .withdrawn).reverse.foldl (fun s' g => s'.resend p t g) (s.setThread p t')

/-- `eret` outside PRIV: HS 0 and PC at TRAPPC (R96, R339). -/
def State.returnTrap (s : State) (i : Issue) (t : Thread) : State :=
  (s.resumeTags i.place { t with hs := false }).jump t.sys.trappc

end Sys2Proof.Machine
end

