-- ==== Sys2Proof/Machine/Uniform.lean ====
section
/-! DEFINITION. The uniform slot of a pair word and the constants of the U class (R79 to R85). -/

namespace Sys2Proof.Machine

/-- A uniform result: s[sd] from the registers as they stand (R79). -/
def State.toS (s : State) (sd : BitVec 5) (f : Thread → Word) : Host.Outcome State Fault Refusal :=
  s.wordRegs fun t => t.writeS sd (f t)

/-- A result of two uniform sources (R80). -/
def State.opS (s : State) (sd sa sb : BitVec 5) (f : Word → Word → Word) : Host.Outcome State Fault Refusal :=
  s.toS sd fun t => f (t.readS sa) (t.readS sb)

/-- A uniform predicate from the registers as they stand (R83, R84). -/
def State.toQ (s : State) (qd : BitVec 3) (f : Thread → Bool) : Host.Outcome State Fault Refusal :=
  s.wordRegs fun t => t.writeQ qd (f t)

/-- A comparison of two uniform sources (R83). -/
def State.cmpQ (s : State) (qd : BitVec 3) (sa sb : BitVec 5) (f : Word → Word → Bool) : Host.Outcome State Fault Refusal :=
  s.toQ qd fun t => f (t.readS sa) (t.readS sb)

/-- `unop` (R79). -/
def execUnop (s : State) : Host.Outcome State Fault Refusal := s.wordRegs fun t => t
/-- `add` (R80). -/
def execAdd (sd sa sb : BitVec 5) (s : State) : Host.Outcome State Fault Refusal := s.opS sd sa sb fun a b => a + b
/-- `addi` (R81). -/
def execAddi (sd sa : BitVec 5) (imm : BitVec 10) (s : State) : Host.Outcome State Fault Refusal :=
  s.toS sd fun t => t.readS sa + sx imm
/-- `sub` (R80). -/
def execSub (sd sa sb : BitVec 5) (s : State) : Host.Outcome State Fault Refusal := s.opS sd sa sb fun a b => a - b
/-- `mul` (R80). -/
def execMul (sd sa sb : BitVec 5) (s : State) : Host.Outcome State Fault Refusal := s.opS sd sa sb fun a b => a * b
/-- `mulh` (R80). -/
def execMulh (sd sa sb : BitVec 5) (s : State) : Host.Outcome State Fault Refusal := s.opS sd sa sb mulHigh
/-- `mulhu` (R80). -/
def execMulhu (sd sa sb : BitVec 5) (s : State) : Host.Outcome State Fault Refusal := s.opS sd sa sb mulHighU
/-- `and` (R80). -/
def execAnd (sd sa sb : BitVec 5) (s : State) : Host.Outcome State Fault Refusal := s.opS sd sa sb fun a b => a &&& b
/-- `andi` (R81). -/
def execAndi (sd sa : BitVec 5) (imm : BitVec 10) (s : State) : Host.Outcome State Fault Refusal :=
  s.toS sd fun t => t.readS sa &&& zx imm
/-- `or` (R80). -/
def execOr (sd sa sb : BitVec 5) (s : State) : Host.Outcome State Fault Refusal := s.opS sd sa sb fun a b => a ||| b
/-- `ori` (R81). -/
def execOri (sd sa : BitVec 5) (imm : BitVec 10) (s : State) : Host.Outcome State Fault Refusal :=
  s.toS sd fun t => t.readS sa ||| zx imm
/-- `xor` (R80). -/
def execXor (sd sa sb : BitVec 5) (s : State) : Host.Outcome State Fault Refusal := s.opS sd sa sb fun a b => a ^^^ b
/-- `xori` (R81). -/
def execXori (sd sa : BitVec 5) (imm : BitVec 10) (s : State) : Host.Outcome State Fault Refusal :=
  s.toS sd fun t => t.readS sa ^^^ zx imm
/-- `shl` (R80). -/
def execShl (sd sa sb : BitVec 5) (s : State) : Host.Outcome State Fault Refusal := s.opS sd sa sb fun a b => a <<< shAmt b
/-- `shli` (R81). -/
def execShli (sd sa : BitVec 5) (imm : BitVec 10) (s : State) : Host.Outcome State Fault Refusal :=
  s.toS sd fun t => t.readS sa <<< shAmt (zx imm)
/-- `shr` (R80). -/
def execShr (sd sa sb : BitVec 5) (s : State) : Host.Outcome State Fault Refusal := s.opS sd sa sb fun a b => a >>> shAmt b
/-- `shri` (R81). -/
def execShri (sd sa : BitVec 5) (imm : BitVec 10) (s : State) : Host.Outcome State Fault Refusal :=
  s.toS sd fun t => t.readS sa >>> shAmt (zx imm)
/-- `sra` (R80). -/
def execSra (sd sa sb : BitVec 5) (s : State) : Host.Outcome State Fault Refusal :=
  s.opS sd sa sb fun a b => a.sshiftRight (shAmt b)
/-- `srai` (R81). -/
def execSrai (sd sa : BitVec 5) (imm : BitVec 10) (s : State) : Host.Outcome State Fault Refusal :=
  s.toS sd fun t => (t.readS sa).sshiftRight (shAmt (zx imm))
/-- `min` (R80). -/
def execMin (sd sa sb : BitVec 5) (s : State) : Host.Outcome State Fault Refusal := s.opS sd sa sb (sMinMax false 64)
/-- `max` (R80). -/
def execMax (sd sa sb : BitVec 5) (s : State) : Host.Outcome State Fault Refusal := s.opS sd sa sb (sMinMax true 64)
/-- `minu` (R80). -/
def execMinu (sd sa sb : BitVec 5) (s : State) : Host.Outcome State Fault Refusal := s.opS sd sa sb (uMinMax false 64)
/-- `maxu` (R80). -/
def execMaxu (sd sa sb : BitVec 5) (s : State) : Host.Outcome State Fault Refusal := s.opS sd sa sb (uMinMax true 64)
/-- `addx` (R80). -/
def execAddx (sd sa sb sh : BitVec 5) (s : State) : Host.Outcome State Fault Refusal :=
  s.opS sd sa sb fun a b => a + (b <<< sh.toNat)
/-- `clz` (R81). -/
def execClz (sd sa : BitVec 5) (s : State) : Host.Outcome State Fault Refusal :=
  s.toS sd fun t => w64 (leadingZeros (t.readS sa))
/-- `popc` (R81). -/
def execPopc (sd sa : BitVec 5) (s : State) : Host.Outcome State Fault Refusal := s.toS sd fun t => w64 (onesBelow (t.readS sa) 64)
/-- `bext` (R82). -/
def execBext (sd sa sb : BitVec 5) (s : State) : Host.Outcome State Fault Refusal := s.opS sd sa sb bitExtract
/-- `sext` (R81). -/
def execSext (sd sa : BitVec 5) (imm : BitVec 10) (s : State) : Host.Outcome State Fault Refusal :=
  s.toS sd fun t => signFrom (t.readS sa) imm.toNat
/-- `slt` (R80). -/
def execSlt (sd sa sb : BitVec 5) (s : State) : Host.Outcome State Fault Refusal := s.opS sd sa sb fun a b => boolWord (a.slt b)
/-- `sltu` (R80). -/
def execSltu (sd sa sb : BitVec 5) (s : State) : Host.Outcome State Fault Refusal := s.opS sd sa sb fun a b => boolWord (a.ult b)
/-- `qeq` (R83). -/
def execQeq (qd : BitVec 3) (sa sb : BitVec 5) (s : State) : Host.Outcome State Fault Refusal := s.cmpQ qd sa sb fun a b => a == b
/-- `qne` (R83). -/
def execQne (qd : BitVec 3) (sa sb : BitVec 5) (s : State) : Host.Outcome State Fault Refusal := s.cmpQ qd sa sb fun a b => a != b
/-- `qlt` (R83). -/
def execQlt (qd : BitVec 3) (sa sb : BitVec 5) (s : State) : Host.Outcome State Fault Refusal := s.cmpQ qd sa sb fun a b => a.slt b
/-- `qltu` (R83). -/
def execQltu (qd : BitVec 3) (sa sb : BitVec 5) (s : State) : Host.Outcome State Fault Refusal := s.cmpQ qd sa sb fun a b => a.ult b
/-- `qle` (R83). -/
def execQle (qd : BitVec 3) (sa sb : BitVec 5) (s : State) : Host.Outcome State Fault Refusal := s.cmpQ qd sa sb fun a b => a.sle b
/-- `qleu` (R83). -/
def execQleu (qd : BitVec 3) (sa sb : BitVec 5) (s : State) : Host.Outcome State Fault Refusal := s.cmpQ qd sa sb fun a b => a.ule b
/-- `qeqi` (R83). -/
def execQeqi (qd : BitVec 3) (sa : BitVec 5) (imm : BitVec 10) (s : State) : Host.Outcome State Fault Refusal :=
  s.toQ qd fun t => t.readS sa == sx imm
/-- `qlti` (R83). -/
def execQlti (qd : BitVec 3) (sa : BitVec 5) (imm : BitVec 10) (s : State) : Host.Outcome State Fault Refusal :=
  s.toQ qd fun t => (t.readS sa).slt (sx imm)
/-- `qand` (R84). -/
def execQand (qd qa qb : BitVec 3) (s : State) : Host.Outcome State Fault Refusal := s.toQ qd fun t => t.readQ qa && t.readQ qb
/-- `qor` (R84). -/
def execQor (qd qa qb : BitVec 3) (s : State) : Host.Outcome State Fault Refusal := s.toQ qd fun t => t.readQ qa || t.readQ qb
/-- `qxor` (R84). -/
def execQxor (qd qa qb : BitVec 3) (s : State) : Host.Outcome State Fault Refusal := s.toQ qd fun t => t.readQ qa != t.readQ qb
/-- `qnot` (R84). -/
def execQnot (qd qa : BitVec 3) (s : State) : Host.Outcome State Fault Refusal := s.toQ qd fun t => !t.readQ qa
/-- `li` (R85). -/
def execLi (sd : BitVec 5) (imm : BitVec 32) (s : State) : Host.Outcome State Fault Refusal := s.toS sd fun _ => sx imm
/-- `lih`: the high half replaced, the low half kept (R85). -/
def execLih (sd : BitVec 5) (imm : BitVec 32) (s : State) : Host.Outcome State Fault Refusal :=
  s.toS sd fun t => imm ++ bits (t.readS sd) 0 32
/-- `addil` (R85). -/
def execAddil (sd sa : BitVec 5) (imm : BitVec 32) (s : State) : Host.Outcome State Fault Refusal :=
  s.toS sd fun t => t.readS sa + sx imm

end Sys2Proof.Machine
end

