-- ==== Sys2Proof/Machine/VectorInt.lean ====
section
/-! DEFINITION. The integer lanes and the lane predicates of the vector slot (R101 to R106, R112, R113). -/

namespace Sys2Proof.Machine

/-- A vector result: v[vd] from the registers as they stand. -/
def State.toV (s : State) (vd : BitVec 6) (f : Thread → VReg) : Host.Outcome State Fault Refusal :=
  s.wordRegs fun t => t.writeV vd (f t)

/-- A lane operation of two sources under a mask (R101, R104). -/
def State.opV (s : State) (vd va vb : BitVec 6) (pm : BitVec 3) (f : BitVec 32 → BitVec 32 → BitVec 32) : Host.Outcome State Fault Refusal :=
  s.toV vd fun t => maskLanes (t.readP pm) (t.readV vd) fun j => f (lane (t.readV va) j) (lane (t.readV vb) j)

/-- A lane predicate from the registers as they stand. -/
def State.toP (s : State) (pd : BitVec 3) (f : Thread → Word) : Host.Outcome State Fault Refusal :=
  s.wordRegs fun t => t.writeP pd (f t)

/-- A compare: 0 for inactive lanes (R112). -/
def State.cmpV (s : State) (pd : BitVec 3) (va vb : BitVec 6) (pm : BitVec 3) (f : BitVec 32 → BitVec 32 → Bool) : Host.Outcome State Fault Refusal :=
  s.toP pd fun t => ofBits fun j => (t.readP pm).getLsbD j && f (lane (t.readV va) j) (lane (t.readV vb) j)

/-- `vnop` (R68). -/
def execVnop (s : State) : Host.Outcome State Fault Refusal := s.wordRegs fun t => t
/-- `vadd` (R104, R105). -/
def execVadd (vd va vb : BitVec 6) (pm : BitVec 3) (w : Width) (uns sat : Bool) (s : State) : Host.Outcome State Fault Refusal :=
  s.opV vd va vb pm (perWidth w (elemAdd uns sat))
/-- `vsub` (R104, R105). -/
def execVsub (vd va vb : BitVec 6) (pm : BitVec 3) (w : Width) (uns sat : Bool) (s : State) : Host.Outcome State Fault Refusal :=
  s.opV vd va vb pm (perWidth w (elemSub uns sat))
/-- `vmul` (R104). -/
def execVmul (vd va vb : BitVec 6) (pm : BitVec 3) (w : Width) (s : State) : Host.Outcome State Fault Refusal :=
  s.opV vd va vb pm (perWidth w (fun _ x y => x * y))
/-- `vmulh` (R104). -/
def execVmulh (vd va vb : BitVec 6) (pm : BitVec 3) (w : Width) (s : State) : Host.Outcome State Fault Refusal :=
  s.opV vd va vb pm (perWidth w (elemMulH))
/-- `vmulhu` (R104). -/
def execVmulhu (vd va vb : BitVec 6) (pm : BitVec 3) (w : Width) (s : State) : Host.Outcome State Fault Refusal :=
  s.opV vd va vb pm (perWidth w (elemMulHU))
/-- `vshl` (R104). -/
def execVshl (vd va vb : BitVec 6) (pm : BitVec 3) (w : Width) (s : State) : Host.Outcome State Fault Refusal :=
  s.opV vd va vb pm (perWidth w (fun _ x y => x <<< elemShift y))
/-- `vshr` (R104). -/
def execVshr (vd va vb : BitVec 6) (pm : BitVec 3) (w : Width) (s : State) : Host.Outcome State Fault Refusal :=
  s.opV vd va vb pm (perWidth w (fun _ x y => x >>> elemShift y))
/-- `vsra` (R104). -/
def execVsra (vd va vb : BitVec 6) (pm : BitVec 3) (w : Width) (s : State) : Host.Outcome State Fault Refusal :=
  s.opV vd va vb pm (perWidth w (fun _ x y => x.sshiftRight (elemShift y)))
/-- `vmin` (R104). -/
def execVmin (vd va vb : BitVec 6) (pm : BitVec 3) (w : Width) (s : State) : Host.Outcome State Fault Refusal :=
  s.opV vd va vb pm (perWidth w (sMinMax false))
/-- `vmax` (R104). -/
def execVmax (vd va vb : BitVec 6) (pm : BitVec 3) (w : Width) (s : State) : Host.Outcome State Fault Refusal :=
  s.opV vd va vb pm (perWidth w (sMinMax true))
/-- `vminu` (R104). -/
def execVminu (vd va vb : BitVec 6) (pm : BitVec 3) (w : Width) (s : State) : Host.Outcome State Fault Refusal :=
  s.opV vd va vb pm (perWidth w (uMinMax false))
/-- `vmaxu` (R104). -/
def execVmaxu (vd va vb : BitVec 6) (pm : BitVec 3) (w : Width) (s : State) : Host.Outcome State Fault Refusal :=
  s.opV vd va vb pm (perWidth w (uMinMax true))
/-- `vand` (R104). -/
def execVand (vd va vb : BitVec 6) (pm : BitVec 3) (s : State) : Host.Outcome State Fault Refusal :=
  s.opV vd va vb pm fun x y => x &&& y
/-- `vor` (R104). -/
def execVor (vd va vb : BitVec 6) (pm : BitVec 3) (s : State) : Host.Outcome State Fault Refusal :=
  s.opV vd va vb pm fun x y => x ||| y
/-- `vxor` (R104). -/
def execVxor (vd va vb : BitVec 6) (pm : BitVec 3) (s : State) : Host.Outcome State Fault Refusal :=
  s.opV vd va vb pm fun x y => x ^^^ y
/-- `vsel`: every lane is written (R106). -/
def execVsel (vd va vb : BitVec 6) (pm : BitVec 3) (s : State) : Host.Outcome State Fault Refusal :=
  s.toV vd fun t => ofLanes fun j => if (t.readP pm).getLsbD j then lane (t.readV va) j else lane (t.readV vb) j
/-- `viota` (R106). -/
def execViota (vd : BitVec 6) (pm : BitVec 3) (s : State) : Host.Outcome State Fault Refusal :=
  s.toV vd fun t => maskLanes (t.readP pm) (t.readV vd) fun j => BitVec.ofNat 32 (onesBelow (t.readP pm) j)
/-- `vcmpeq` (R112). -/
def execVcmpeq (pd : BitVec 3) (va vb : BitVec 6) (pm : BitVec 3) (w : Width) (s : State) : Host.Outcome State Fault Refusal :=
  s.cmpV pd va vb pm (testWidth w fun _ x y => x == y)
/-- `vcmplt` (R112). -/
def execVcmplt (pd : BitVec 3) (va vb : BitVec 6) (pm : BitVec 3) (w : Width) (uns : Bool) (s : State) : Host.Outcome State Fault Refusal :=
  s.cmpV pd va vb pm (testWidth w (elemLt uns))
/-- `vcmple` (R112). -/
def execVcmple (pd : BitVec 3) (va vb : BitVec 6) (pm : BitVec 3) (w : Width) (uns : Bool) (s : State) : Host.Outcome State Fault Refusal :=
  s.cmpV pd va vb pm (testWidth w (elemLe uns))
/-- `pand` (R113). -/
def execPand (pd pa pb : BitVec 3) (s : State) : Host.Outcome State Fault Refusal :=
  s.toP pd fun t => t.readP pa &&& t.readP pb
/-- `por` (R113). -/
def execPor (pd pa pb : BitVec 3) (s : State) : Host.Outcome State Fault Refusal :=
  s.toP pd fun t => t.readP pa ||| t.readP pb
/-- `pandn` (R113). -/
def execPandn (pd pa pb : BitVec 3) (s : State) : Host.Outcome State Fault Refusal :=
  s.toP pd fun t => t.readP pa &&& ~~~(t.readP pb)
/-- `pxor` (R113). -/
def execPxor (pd pa pb : BitVec 3) (s : State) : Host.Outcome State Fault Refusal :=
  s.toP pd fun t => t.readP pa ^^^ t.readP pb

end Sys2Proof.Machine
end

