-- ==== Sys2Proof/Machine/VectorFloat.lean ====
section
/-! DEFINITION. The floating-point lanes, conversions and codes of the vector slot (R107 to R112, R114 to R116). -/

namespace Sys2Proof.Machine

/-- A word that writes v[vd] and merges indications into FLAGS (R102). -/
def State.toVF (s : State) (vd : BitVec 6) (f : Thread → VReg × Ind) : Host.Outcome State Fault Refusal :=
  s.wordRegs fun t => (t.writeV vd (f t).1).mergeFlags (f t).2

/-- A floating-point operation of two sources and the old destination, lane by lane (R107, R108). -/
def State.opF (s : State) (vd va vb : BitVec 6) (pm : BitVec 3) (ty : FTyp) (f : Fmt → Nat → Nat → Nat → Nat × Ind) : Host.Outcome State Fault Refusal :=
  s.toVF vd fun t => maskRes (t.readP pm) (t.readV vd) fun j =>
    perType ty f (lane (t.readV va) j) (lane (t.readV vb) j) (lane (t.readV vd) j)

/-- A floating-point operation of one source (R108). -/
def State.opF1 (s : State) (vd va : BitVec 6) (pm : BitVec 3) (ty : FTyp) (f : Fmt → Nat → Nat × Ind) : Host.Outcome State Fault Refusal :=
  s.opF vd va va pm ty fun g x _ _ => f g x

/-- The test of `vfcmp` on one lane: it must hold for both elements (R112). -/
def fcmpLane (ty : FTyp) (c : FCond) (x y : BitVec 32) : Bool × Ind :=
  match ty with
  | .f32 => fp32.cmp c x.toNat y.toNat
  | _ =>
    let h := (fmtOf ty).cmp c (hi16 x).toNat (hi16 y).toNat
    let l := (fmtOf ty).cmp c (lo16 x).toNat (lo16 y).toNat
    (h.1 && l.1, h.2 ||| l.2)

/-- `vfadd` (R108). -/
def execVfadd (vd va vb : BitVec 6) (pm : BitVec 3) (ty : FTyp) (r : RMode) (s : State) : Host.Outcome State Fault Refusal :=
  s.opF vd va vb pm ty fun g x y _ => g.add r x y
/-- `vfsub` (R108). -/
def execVfsub (vd va vb : BitVec 6) (pm : BitVec 3) (ty : FTyp) (r : RMode) (s : State) : Host.Outcome State Fault Refusal :=
  s.opF vd va vb pm ty fun g x y _ => g.sub r x y
/-- `vfmul` (R108). -/
def execVfmul (vd va vb : BitVec 6) (pm : BitVec 3) (ty : FTyp) (r : RMode) (s : State) : Host.Outcome State Fault Refusal :=
  s.opF vd va vb pm ty fun g x y _ => g.mul r x y
/-- `vfdiv` (R108). -/
def execVfdiv (vd va vb : BitVec 6) (pm : BitVec 3) (ty : FTyp) (r : RMode) (s : State) : Host.Outcome State Fault Refusal :=
  s.opF vd va vb pm ty fun g x y _ => g.div r x y
/-- `vfma` (R108). -/
def execVfma (vd va vb : BitVec 6) (pm : BitVec 3) (ty : FTyp) (r : RMode) (s : State) : Host.Outcome State Fault Refusal :=
  s.opF vd va vb pm ty fun g x y z => g.fma r x y z false
/-- `vfms` (R108). -/
def execVfms (vd va vb : BitVec 6) (pm : BitVec 3) (ty : FTyp) (r : RMode) (s : State) : Host.Outcome State Fault Refusal :=
  s.opF vd va vb pm ty fun g x y z => g.fma r x y z true
/-- `vfmin`; its rounding has no effect (R110). -/
def execVfmin (vd va vb : BitVec 6) (pm : BitVec 3) (ty : FTyp) (_r : RMode) (s : State) : Host.Outcome State Fault Refusal :=
  s.opF vd va vb pm ty fun g x y _ => g.minMax false x y
/-- `vfmax`; its rounding has no effect (R110). -/
def execVfmax (vd va vb : BitVec 6) (pm : BitVec 3) (ty : FTyp) (_r : RMode) (s : State) : Host.Outcome State Fault Refusal :=
  s.opF vd va vb pm ty fun g x y _ => g.minMax true x y
/-- `vfsqrt` (R108, R109). -/
def execVfsqrt (vd va : BitVec 6) (pm : BitVec 3) (ty : FTyp) (r : RMode) (s : State) : Host.Outcome State Fault Refusal :=
  s.opF1 vd va pm ty fun g x => g.sqrt r x
/-- `vfrsq` (R108, R109). -/
def execVfrsq (vd va : BitVec 6) (pm : BitVec 3) (ty : FTyp) (r : RMode) (s : State) : Host.Outcome State Fault Refusal :=
  s.opF1 vd va pm ty fun g x => g.rsq r x
/-- `vfexp2` (R108, R109). -/
def execVfexp2 (vd va : BitVec 6) (pm : BitVec 3) (ty : FTyp) (r : RMode) (s : State) : Host.Outcome State Fault Refusal :=
  s.opF1 vd va pm ty fun g x => g.exp2 r x
/-- `vflog2` (R108, R109). -/
def execVflog2 (vd va : BitVec 6) (pm : BitVec 3) (ty : FTyp) (r : RMode) (s : State) : Host.Outcome State Fault Refusal :=
  s.opF1 vd va pm ty fun g x => g.log2 r x
/-- `vfabs` (R111). -/
def execVfabs (vd va : BitVec 6) (pm : BitVec 3) (ty : FTyp) (s : State) : Host.Outcome State Fault Refusal :=
  s.toV vd fun t => maskLanes (t.readP pm) (t.readV vd) fun j => lane (t.readV va) j &&& ~~~(signBits ty)
/-- `vfneg` (R111). -/
def execVfneg (vd va : BitVec 6) (pm : BitVec 3) (ty : FTyp) (s : State) : Host.Outcome State Fault Refusal :=
  s.toV vd fun t => maskLanes (t.readP pm) (t.readV vd) fun j => lane (t.readV va) j ^^^ signBits ty
/-- `vfcmp` (R112). -/
def execVfcmp (pd : BitVec 3) (va vb : BitVec 6) (pm : BitVec 3) (ty : FTyp) (c : FCond) (s : State) : Host.Outcome State Fault Refusal :=
  s.wordRegs fun t =>
    let test := fun j => fcmpLane ty c (lane (t.readV va) j) (lane (t.readV vb) j)
    (t.writeP pd (ofBits fun j => (t.readP pm).getLsbD j && (test j).1)).mergeFlags
      (laneInds (t.readP pm) fun j => (test j).2)
/-- `vcvt` of one source (R114). -/
def execVcvt (vd va : BitVec 6) (pm : BitVec 3) (c : CvtCode) (s : State) : Host.Outcome State Fault Refusal :=
  s.toVF vd fun t => maskRes (t.readP pm) (t.readV vd) fun j => convertLane c (lane (t.readV va) j)
/-- `vcvt` of two sources (R114). -/
def execVcvtPair (vd va vb : BitVec 6) (pm : BitVec 3) (c : PairCode) (s : State) : Host.Outcome State Fault Refusal :=
  s.toVF vd fun t => maskRes (t.readP pm) (t.readV vd) fun j => convertPair c (lane (t.readV va) j) (lane (t.readV vb) j)

/-- The decode table that a slot's words name (R115). -/
def State.tableOf (s : State) (p : Place) (t : Thread) (c4 t1 : Bool) : Image :=
  ((s.core p.die p.core).tablesOf t.ctx).image c4 t1

/-- `vdec` (R115). -/
def execVdec (vd va : BitVec 6) (pm : BitVec 3) (c4 t1 : Bool) (grp : BitVec 2) (s : State) : Host.Outcome State Fault Refusal :=
  s.word fun i t =>
    let img := s.tableOf i.place t c4 t1
    s.setThread i.place (t.writeV vd (maskLanes (t.readP pm) (t.readV vd) fun j =>
      entryFp32 (img.entry (decCode c4 grp (t.readV va) j))))

/-- The codes of the active lanes with their indications, in lane order (R116). -/
def encodeLanes (img : Image) (inf : Bool) (va : VReg) : List Nat → List (Nat × Nat) × Ind
  | [] => ([], 0)
  | j :: r =>
    let rest := encodeLanes img inf va r
    match img.encode (fp32.num (lane va j).toNat) inf with
    | some (c, ind) => ((j, c) :: rest.1, ind ||| rest.2)
    | none => rest

/-- The active lanes whose value has no code (R116). -/
def noCodes (img : Image) (m : Word) (va : VReg) : Word :=
  ofBits fun j => m.getLsbD j && !img.hasNaN && fp32.isNaN (lane va j).toNat

/-- `venc`; a NaN without a NaN code traps TILE, sub-cause NOCODE, precisely (R116). -/
def execVenc (vd va : BitVec 6) (pm : BitVec 3) (c4 t1 inf : Bool) (s : State) : Host.Outcome State Fault Refusal :=
  s.word fun i t =>
    let img := s.tableOf i.place t c4 t1
    let bad := noCodes img (t.readP pm) (t.readV va)
    if bad ≠ 0 then (s.raise i.place t (trapCause causeTile 5 false 0) i.pc bad).stay
    else
      let r := encodeLanes img inf (t.readV va) (activeLanes (t.readP pm))
      s.setThread i.place ((t.writeV vd (placeCodes c4 (t.readV vd) r.1)).mergeFlags r.2)

end Sys2Proof.Machine
end

