-- ==== Sys2Proof/Machine/Lanes.lean ====
section
/-! DEFINITION. Moving lanes about, and between the lanes and the uniform path (R117 to R126). -/

namespace Sys2Proof.Machine

/-- `vshuf` (R117). -/
def execVshuf (vd va vb : BitVec 6) (pm : BitVec 3) (s : State) : Host.Outcome State Fault Refusal :=
  s.toV vd fun t => maskLanes (t.readP pm) (t.readV vd) fun j => lane (t.readV va) ((lane (t.readV vb) j).toNat % 64)
/-- `vroti` (R117). -/
def execVroti (vd va : BitVec 6) (n : BitVec 6) (pm : BitVec 3) (s : State) : Host.Outcome State Fault Refusal :=
  s.toV vd fun t => maskLanes (t.readP pm) (t.readV vd) fun j => lane (t.readV va) ((j + n.toNat) % 64)
/-- `vscan` (R118). -/
def execVscan (vd va : BitVec 6) (pm : BitVec 3) (op : ScanOp) (s : State) : Host.Outcome State Fault Refusal :=
  s.toVF vd fun t =>
    let r := scanLanes op (t.readV va) (activeLanes (t.readP pm)) none
    (maskLanes (t.readP pm) (t.readV vd) fun j => lookupD 0 j r.1, r.2)
/-- `vcmprs` (R119). -/
def execVcmprs (vd va : BitVec 6) (pm : BitVec 3) (s : State) : Host.Outcome State Fault Refusal :=
  s.toV vd fun t =>
    let act := activeLanes (t.readP pm)
    ofLanes fun j => match act[j]? with
      | some k => lane (t.readV va) k
      | none => lane (t.readV vd) j
/-- `vtou` (R121). -/
def execVtou (sy : BitVec 5) (vd : BitVec 6) (pm : BitVec 3) (low : Bool) (e : BitVec 6) (s : State) : Host.Outcome State Fault Refusal :=
  s.toS sy fun t =>
    if low then zx ((lowestLane (t.readP pm) (t.readV vd)).getD 0)
    else if (t.readP pm).getLsbD e.toNat then zx (lane (t.readV vd) e.toNat) else 0
/-- `utov` (R122). -/
def execUtov (vd : BitVec 6) (sa : BitVec 5) (pm : BitVec 3) (s : State) : Host.Outcome State Fault Refusal :=
  s.toV vd fun t => maskLanes (t.readP pm) (t.readV vd) fun _ => bits (t.readS sa) 0 32
/-- `vred` (R123). -/
def execVred (sy : BitVec 5) (vd : BitVec 6) (pm : BitVec 3) (op : RedOp) (s : State) : Host.Outcome State Fault Refusal :=
  s.wordRegs fun t =>
    let r := reduceLanes op (t.readP pm) (t.readV vd)
    (t.writeS sy (if redSigned op then sx r.1 else zx r.1)).mergeFlags r.2
/-- `vuni` (R124). -/
def execVuni (sy : BitVec 5) (qd : BitVec 3) (vd : BitVec 6) (pm : BitVec 3) (s : State) : Host.Outcome State Fault Refusal :=
  s.wordRegs fun t =>
    let x := (lowestLane (t.readP pm) (t.readV vd)).getD 0
    (t.writeS sy (zx x)).writeQ qd ((activeLanes (t.readP pm)).all fun j => lane (t.readV vd) j == x)
/-- `ptou` (R125). -/
def execPtou (sy : BitVec 5) (pn : BitVec 3) (s : State) : Host.Outcome State Fault Refusal := s.toS sy fun t => t.readP pn
/-- `utop` (R125). -/
def execUtop (pd : BitVec 3) (sa : BitVec 5) (s : State) : Host.Outcome State Fault Refusal := s.toP pd fun t => t.readS sa
/-- `pany` (R125). -/
def execPany (qd pn : BitVec 3) (s : State) : Host.Outcome State Fault Refusal := s.toQ qd fun t => t.readP pn != 0
/-- `pall` (R125). -/
def execPall (qd pn : BitVec 3) (s : State) : Host.Outcome State Fault Refusal := s.toQ qd fun t => t.readP pn == BitVec.allOnes 64

end Sys2Proof.Machine
end

