-- ==== Sys2Proof/WellFormed.lean ====
section
/-! DEFINITION. Which instructions and words the encoding admits (R34, R36, R63 to R76): the limits that the
constructors' types do not hold already. -/

namespace Sys2Proof

/-- The system register indices of R76. -/
def sysListed (idx : BitVec 32) : Bool :=
  idx.toNat ≤ 0x1E || idx.toNat == 0x20 || idx.toNat == 0x21 || (0x40 ≤ idx.toNat && idx.toNat ≤ 0x5F)

/-- The read-only indices of R76. -/
def sysReadOnly (idx : BitVec 32) : Bool :=
  idx.toNat == 0x01 || idx.toNat == 0x02 || (0x0A ≤ idx.toNat && idx.toNat ≤ 0x0F) ||
  (0x17 ≤ idx.toNat && idx.toNat ≤ 0x1C) || idx.toNat == 0x20 || idx.toNat == 0x21 || 0x40 ≤ idx.toNat

/-- The encodable operand values of each instruction. A machine step has no encoding and no limit. -/
def Instr.wf : Instr → Bool
  | .shli _ _ imm | .shri _ _ imm | .srai _ _ imm => imm.toNat < 64          -- form IH (R66)
  | .sext _ _ imm => 1 ≤ imm.toNat && imm.toNat ≤ 64                          -- form IW (R66)
  | .br imm | .call _ imm => imm.toNat % 8 == 0                               -- R86
  | .loop _ _ imm => imm.toNat % 8 == 0 && 0 < imm.toNat && imm.toNat < 2 ^ 31   -- R89
  | .mfs _ idx => sysListed idx                                               -- R76
  | .mts _ idx => sysListed idx && !sysReadOnly idx                           -- R76
  | .crset _ e => e.toNat ≤ 31                                                -- R99
  | .regset _ mask => mask.toNat % 2 == 0                                     -- R98
  | .alloc sd _ n => sd != 0 && 1 ≤ n.toNat && n.toNat ≤ 4 && sd.toNat + n.toNat ≤ 32   -- R228
  | .ringq _ _ la code => code.toNat ≤ 5 || (code.toNat == 6 && la == 0)   -- R270
  | .svc e => e.toNat ≤ 2047                                                  -- R344
  | .vtou _ _ _ low e => !low || e == 0                                       -- R71
  | _ => true

/-- Guard 1000 ("never") is reserved (R34). -/
def Guard.wf (g : Guard) : Bool := !(g.neg && g.q == 0)

/-- A word's slots hold instructions of their form, within their limits, under a guard that is not reserved. -/
def Bundle.wf : Bundle → Bool
  | .pair g u v => g.wf && u.form == .uniform && v.form == .vector && u.wf && v.wf
  | .long g i => g.wf && i.form == .long && i.wf

end Sys2Proof
end

