-- ==== Sys2Proof/Decode.lean ====
section
/-! DEFINITION. Decoding: from the 64 bits of a word, or from bytes in memory, to the word's slots, or to a named
reason to reject it (R33 to R40, R63 to R76). After it the encoder, from the same tables. -/

namespace Sys2Proof

/-- Why a word is not an instruction (R63). A slot or a long word is rejected for its opcode, an unused field, a limit or mod. -/
inductive Reject where
  | short        -- fewer than 8 bytes
  | guardNever   -- guard 1000
  | uniformSlot
  | vectorSlot
  | longWord
  deriving DecidableEq, Repr, Inhabited

/-- The instruction, if a condition on the fields it does not use holds. -/
def whenOk (b : Bool) (i : Instr) : Option Instr := if b then some i else none

/-- Bits 2:0 of a 5-bit register field: a predicate index. -/
def qIdx (r : BitVec 5) : BitVec 3 := r.extractLsb' 0 3

/-- Bits 4:3 of a register field that names a predicate are zero (R36). -/
def qOk (r : BitVec 5) : Bool := r.extractLsb' 3 2 == 0

/-- Bits 2:0 of a 6-bit vector field: a lane predicate index. -/
def pIdx (r : BitVec 6) : BitVec 3 := r.extractLsb' 0 3

/-- Bits 5:3 of a vector field that names a lane predicate are zero (R36). -/
def pOk (r : BitVec 6) : Bool := r.extractLsb' 3 3 == 0

/-- The width of mod bit 3 (R69). -/
def widthOf (b : Bool) : Width := if b then .w16 else .w32

/-- The element type of mod bits 3:2 (R69); 11 is reserved. -/
def ftypOf (t : BitVec 2) : Option FTyp :=
  if t == 0 then some .f32 else if t == 1 then some .f16 else if t == 2 then some .bf16 else none

/-- The rounding mode of a 2-bit code (R69, R277). -/
def rmodeOf (r : BitVec 2) : RMode :=
  if r == 0 then .rne else if r == 1 then .rz else if r == 2 then .rup else .rdn

/-- The condition of mod bits 1:0 (R69). -/
def fcondOf (r : BitVec 2) : FCond :=
  if r == 0 then .eq else if r == 1 then .lt else if r == 2 then .le else .un

/-- The element size of bits 21:20 (R71); 11 is reserved. -/
def esizeOf (z : BitVec 2) : Option ESize :=
  if z == 0 then some .s4 else if z == 1 then some .s2 else if z == 2 then some .s1 else none

/-- The reduction of imm15[3:0] (R72). -/
def redOf (c : BitVec 4) : Option RedOp :=
  match c.toNat with
  | 0 => some .add | 1 => some .fadd | 2 => some .min | 3 => some .max | 4 => some .minu | 5 => some .maxu
  | 6 => some .fmin | 7 => some .fmax | 8 => some .and | 9 => some .or | 10 => some .xor
  | _ => none

/-- The uniform slot of a pair word, bits 57:32 of the word (R35, R65, R66). -/
def decodeUniform (u : BitVec 26) : Option Instr :=
  let sd := u.extractLsb' 15 5
  let sa := u.extractLsb' 10 5
  let sh := u.extractLsb' 5 5
  let sb := u.extractLsb' 0 5
  let imm := u.extractLsb' 0 10
  match (u.extractLsb' 20 6).toNat with
  | 0 => whenOk (u.extractLsb' 0 20 == 0) .unop
  | 1 => whenOk (sh == 0) (.add sd sa sb)
  | 2 => some (.addi sd sa imm)
  | 3 => whenOk (sh == 0) (.sub sd sa sb)
  | 4 => whenOk (sh == 0) (.mul sd sa sb)
  | 5 => whenOk (sh == 0) (.mulh sd sa sb)
  | 6 => whenOk (sh == 0) (.mulhu sd sa sb)
  | 7 => whenOk (sh == 0) (.and sd sa sb)
  | 8 => some (.andi sd sa imm)
  | 9 => whenOk (sh == 0) (.or sd sa sb)
  | 10 => some (.ori sd sa imm)
  | 11 => whenOk (sh == 0) (.xor sd sa sb)
  | 12 => some (.xori sd sa imm)
  | 13 => whenOk (sh == 0) (.shl sd sa sb)
  | 14 => whenOk (imm.toNat < 64) (.shli sd sa imm)
  | 15 => whenOk (sh == 0) (.shr sd sa sb)
  | 16 => whenOk (imm.toNat < 64) (.shri sd sa imm)
  | 17 => whenOk (sh == 0) (.sra sd sa sb)
  | 18 => whenOk (imm.toNat < 64) (.srai sd sa imm)
  | 19 => whenOk (sh == 0) (.min sd sa sb)
  | 20 => whenOk (sh == 0) (.max sd sa sb)
  | 21 => whenOk (sh == 0) (.minu sd sa sb)
  | 22 => whenOk (sh == 0) (.maxu sd sa sb)
  | 23 => some (.addx sd sa sb sh)
  | 24 => whenOk (imm == 0) (.clz sd sa)
  | 25 => whenOk (imm == 0) (.popc sd sa)
  | 26 => whenOk (sh == 0) (.bext sd sa sb)
  | 27 => whenOk (1 ≤ imm.toNat && imm.toNat ≤ 64) (.sext sd sa imm)
  | 28 => whenOk (sh == 0) (.slt sd sa sb)
  | 29 => whenOk (sh == 0) (.sltu sd sa sb)
  | 30 => whenOk (qOk sd && sh == 0) (.qeq (qIdx sd) sa sb)
  | 31 => whenOk (qOk sd && sh == 0) (.qne (qIdx sd) sa sb)
  | 32 => whenOk (qOk sd && sh == 0) (.qlt (qIdx sd) sa sb)
  | 33 => whenOk (qOk sd && sh == 0) (.qltu (qIdx sd) sa sb)
  | 34 => whenOk (qOk sd && sh == 0) (.qle (qIdx sd) sa sb)
  | 35 => whenOk (qOk sd && sh == 0) (.qleu (qIdx sd) sa sb)
  | 36 => whenOk (qOk sd) (.qeqi (qIdx sd) sa imm)
  | 37 => whenOk (qOk sd) (.qlti (qIdx sd) sa imm)
  | 38 => whenOk (qOk sd && qOk sa && qOk sb && sh == 0) (.qand (qIdx sd) (qIdx sa) (qIdx sb))
  | 39 => whenOk (qOk sd && qOk sa && qOk sb && sh == 0) (.qor (qIdx sd) (qIdx sa) (qIdx sb))
  | 40 => whenOk (qOk sd && qOk sa && qOk sb && sh == 0) (.qxor (qIdx sd) (qIdx sa) (qIdx sb))
  | 41 => whenOk (qOk sd && qOk sa && imm == 0) (.qnot (qIdx sd) (qIdx sa))
  | _ => none

/-- `vcvt` by its code (R70): 0110 and 0111 read vb, the others need it zero. -/
def decodeConvert (vd va vb : BitVec 6) (pm : BitVec 3) (mod : BitVec 4) : Option Instr :=
  match mod.toNat with
  | 0 => whenOk (vb == 0) (.vcvt vd va pm .i32f32)
  | 1 => whenOk (vb == 0) (.vcvt vd va pm .u32f32)
  | 2 => whenOk (vb == 0) (.vcvt vd va pm .f32i32)
  | 3 => whenOk (vb == 0) (.vcvt vd va pm .f32i32z)
  | 4 => whenOk (vb == 0) (.vcvt vd va pm .f32u32)
  | 5 => whenOk (vb == 0) (.vcvt vd va pm .f32u32z)
  | 6 => some (.vcvtPair vd va vb pm .toF16)
  | 7 => some (.vcvtPair vd va vb pm .toBf16)
  | 8 => whenOk (vb == 0) (.vcvt vd va pm .f16l)
  | 9 => whenOk (vb == 0) (.vcvt vd va pm .f16h)
  | 10 => whenOk (vb == 0) (.vcvt vd va pm .bf16l)
  | 11 => whenOk (vb == 0) (.vcvt vd va pm .bf16h)
  | _ => none

/-- `vscan` by its code (R70). -/
def decodeScan (vd va vb : BitVec 6) (pm : BitVec 3) (mod : BitVec 4) : Option Instr :=
  match mod.toNat with
  | 0 => whenOk (vb == 0) (.vscan vd va pm .add)
  | 1 => whenOk (vb == 0) (.vscan vd va pm .fadd)
  | 2 => whenOk (vb == 0) (.vscan vd va pm .min)
  | 3 => whenOk (vb == 0) (.vscan vd va pm .max)
  | 4 => whenOk (vb == 0) (.vscan vd va pm .fmin)
  | 5 => whenOk (vb == 0) (.vscan vd va pm .fmax)
  | _ => none

/-- The vector slot of a pair word, bits 31:0 (R35, R67 to R70). -/
def decodeVector (x : BitVec 32) : Option Instr :=
  let vd := x.extractLsb' 19 6
  let va := x.extractLsb' 13 6
  let vb := x.extractLsb' 7 6
  let pm := x.extractLsb' 4 3
  let mod := x.extractLsb' 0 4
  let m3 := mod.getLsbD 3
  let m2 := mod.getLsbD 2
  let m1 := mod.getLsbD 1
  let m0 := mod.getLsbD 0
  let wd := widthOf m3
  let ty := ftypOf (mod.extractLsb' 2 2)
  let rm := rmodeOf (mod.extractLsb' 0 2)
  match (x.extractLsb' 25 7).toNat with
  | 0 => whenOk (x.extractLsb' 0 25 == 0) .vnop
  | 1 => whenOk (!m1) (.vadd vd va vb pm wd m2 m0)
  | 2 => whenOk (!m1) (.vsub vd va vb pm wd m2 m0)
  | 3 => whenOk (!m2 && !m1 && !m0) (.vmul vd va vb pm wd)
  | 4 => whenOk (!m2 && !m1 && !m0) (.vmulh vd va vb pm wd)
  | 5 => whenOk (!m2 && !m1 && !m0) (.vmulhu vd va vb pm wd)
  | 6 => whenOk (mod == 0) (.vand vd va vb pm)
  | 7 => whenOk (mod == 0) (.vor vd va vb pm)
  | 8 => whenOk (mod == 0) (.vxor vd va vb pm)
  | 9 => whenOk (!m2 && !m1 && !m0) (.vshl vd va vb pm wd)
  | 10 => whenOk (!m2 && !m1 && !m0) (.vshr vd va vb pm wd)
  | 11 => whenOk (!m2 && !m1 && !m0) (.vsra vd va vb pm wd)
  | 12 => whenOk (!m2 && !m1 && !m0) (.vmin vd va vb pm wd)
  | 13 => whenOk (!m2 && !m1 && !m0) (.vmax vd va vb pm wd)
  | 14 => whenOk (!m2 && !m1 && !m0) (.vminu vd va vb pm wd)
  | 15 => whenOk (!m2 && !m1 && !m0) (.vmaxu vd va vb pm wd)
  | 16 => whenOk (mod == 0) (.vsel vd va vb pm)
  | 17 => whenOk (va == 0 && vb == 0 && mod == 0) (.viota vd pm)
  | 18 => ty.map fun t => .vfadd vd va vb pm t rm
  | 19 => ty.map fun t => .vfsub vd va vb pm t rm
  | 20 => ty.map fun t => .vfmul vd va vb pm t rm
  | 21 => ty.map fun t => .vfma vd va vb pm t rm
  | 22 => ty.map fun t => .vfms vd va vb pm t rm
  | 23 => ty.map fun t => .vfmin vd va vb pm t rm
  | 24 => ty.map fun t => .vfmax vd va vb pm t rm
  | 25 => ty.map fun t => .vfdiv vd va vb pm t rm
  | 26 => ty.bind fun t => whenOk (vb == 0) (.vfsqrt vd va pm t rm)
  | 27 => ty.bind fun t => whenOk (vb == 0) (.vfrsq vd va pm t rm)
  | 28 => ty.bind fun t => whenOk (vb == 0) (.vfexp2 vd va pm t rm)
  | 29 => ty.bind fun t => whenOk (vb == 0) (.vflog2 vd va pm t rm)
  | 30 => ty.bind fun t => whenOk (vb == 0 && !m1 && !m0) (.vfabs vd va pm t)
  | 31 => ty.bind fun t => whenOk (vb == 0 && !m1 && !m0) (.vfneg vd va pm t)
  | 32 => whenOk (pOk vd && !m2 && !m1 && !m0) (.vcmpeq (pIdx vd) va vb pm wd)
  | 33 => whenOk (pOk vd && !m1 && !m0) (.vcmplt (pIdx vd) va vb pm wd m2)
  | 34 => whenOk (pOk vd && !m1 && !m0) (.vcmple (pIdx vd) va vb pm wd m2)
  | 35 => ty.bind fun t => whenOk (pOk vd) (.vfcmp (pIdx vd) va vb pm t (fcondOf (mod.extractLsb' 0 2)))
  | 36 => whenOk (pOk vd && pOk va && pOk vb && pm == 0 && mod == 0) (.pand (pIdx vd) (pIdx va) (pIdx vb))
  | 37 => whenOk (pOk vd && pOk va && pOk vb && pm == 0 && mod == 0) (.por (pIdx vd) (pIdx va) (pIdx vb))
  | 38 => whenOk (pOk vd && pOk va && pOk vb && pm == 0 && mod == 0) (.pandn (pIdx vd) (pIdx va) (pIdx vb))
  | 39 => whenOk (pOk vd && pOk va && pOk vb && pm == 0 && mod == 0) (.pxor (pIdx vd) (pIdx va) (pIdx vb))
  | 40 => decodeConvert vd va vb pm mod
  | 41 => whenOk (vb == 0) (.vdec vd va pm m3 m2 (mod.extractLsb' 0 2))
  | 42 => whenOk (vb == 0 && !m0) (.venc vd va pm m3 m2 m1)
  | 43 => whenOk (mod == 0) (.vshuf vd va vb pm)
  | 44 => whenOk (mod == 0) (.vroti vd va vb pm)
  | 45 => decodeScan vd va vb pm mod
  | 46 => whenOk (vb == 0 && mod == 0) (.vcmprs vd va pm)
  | _ => none

/-- The kind and course of a fence (R142); kind 00 is reserved. -/
def decodeFence (ok : Bool) (kind : BitVec 2) (course : BitVec 5) : Option Instr :=
  match kind.toNat with
  | 1 => whenOk ok (.fence .acq course)
  | 2 => whenOk ok (.fence .rel course)
  | 3 => whenOk ok (.fence .full course)
  | _ => none

/-- A U word (R38, R73). -/
def decodeU (x : Word) : Option Instr :=
  let sd := x.extractLsb' 47 5
  let sa := x.extractLsb' 42 5
  let sb := x.extractLsb' 37 5
  let la := x.extractLsb' 33 4
  let w4 := x.getLsbD 32
  let imm := x.extractLsb' 0 32
  match (x.extractLsb' 52 6).toNat with
  | 0 => whenOk (sa == 0 && sb == 0 && la == 0 && !w4) (.li sd imm)
  | 1 => whenOk (sa == 0 && sb == 0 && la == 0 && !w4) (.lih sd imm)
  | 2 => whenOk (sb == 0 && la == 0 && !w4) (.addil sd sa imm)
  | 3 => whenOk (sb == 0) (.ld sd sa la w4 imm)
  | 4 => whenOk (sd == 0 && la == 0) (.st sa sb w4 imm)
  | 5 => some (.aadd sd sa sb la w4 imm)
  | 6 => some (.amin sd sa sb la w4 imm)
  | 7 => some (.amax sd sa sb la w4 imm)
  | 8 => some (.aand sd sa sb la w4 imm)
  | 9 => some (.aor sd sa sb la w4 imm)
  | 10 => some (.axch sd sa sb la w4 imm)
  | 11 => some (.acas sd sa sb la w4 imm)
  | 12 => decodeFence (sd == 0 && sa == 0 && sb == 0 && la == 0 && !w4 && imm.extractLsb' 7 25 == 0)
      (imm.extractLsb' 0 2) (imm.extractLsb' 2 5)
  | 13 => whenOk (sd == 0 && sa == 0 && sb == 0 && la == 0 && !w4 && imm.toNat % 8 == 0) (.br imm)
  | 14 => whenOk (sa == 0 && sb == 0 && la == 0 && !w4 && imm.toNat % 8 == 0) (.call sd imm)
  | 15 => whenOk (sd == 0 && sb == 0 && la == 0 && !w4 && imm == 0) (.jr sa)
  | 16 => whenOk (sd == 0 && sb == 0 && la == 0 && imm.toNat % 8 == 0 && 0 < imm.toNat && imm.toNat < 2 ^ 31)
      (.loop w4 sa imm)
  | 17 => whenOk (sa == 0 && sb == 0 && la == 0 && !w4 && sysListed imm) (.mfs sd imm)
  | 18 => whenOk (sd == 0 && sb == 0 && la == 0 && !w4 && sysListed imm && !sysReadOnly imm) (.mts sa imm)
  | 19 => whenOk (sd == 0 && sb == 0 && la == 0 && !w4 && imm.toNat ≤ 31) (.crset sa imm)
  | 20 => whenOk (sd == 0 && sa == 0 && sb == 0 && la == 0 && !w4) (.trapi imm)
  | 21 => whenOk (sd == 0 && sa == 0 && sb == 0 && la == 0 && !w4 && imm == 0) .eret
  | 22 => whenOk (sd == 0 && sa == 0 && sb == 0 && la == 0 && !w4 && imm == 0) .yield
  | 23 => whenOk (sd == 0 && sb == 0 && la == 0 && !w4 && imm.toNat % 2 == 0) (.regset sa imm)
  | _ => none

/-- A V word (R39, R71). -/
def decodeV (x : Word) : Option Instr :=
  let vd := x.extractLsb' 45 6
  let sa := x.extractLsb' 40 5
  let sx := x.extractLsb' 35 5
  let vb := x.extractLsb' 29 6
  let pm := x.extractLsb' 26 3
  let la := x.extractLsb' 22 4
  let sz := x.extractLsb' 20 2
  let sy := x.extractLsb' 15 5
  let imm := x.extractLsb' 0 15
  let ez := esizeOf sz
  match (x.extractLsb' 51 7).toNat with
  | 0 => whenOk (sx == 0 && vb == 0 && sz == 0 && sy == 0) (.vld vd sa pm la imm)
  | 1 => whenOk (sx == 0 && vb == 0 && la == 0 && sz == 0 && sy == 0) (.vst vd sa pm imm)
  | 2 => ez.bind fun z => whenOk (vb == 0 && sy == 0) (.vlds vd sa sx pm la z imm)
  | 3 => ez.bind fun z => whenOk (vb == 0 && la == 0 && sy == 0) (.vsts vd sa sx pm z imm)
  | 4 => ez.bind fun z => whenOk (sx == 0 && sy == 0) (.vgath vd sa vb pm la z imm)
  | 5 => ez.bind fun z => whenOk (sx == 0 && la == 0 && sy == 0) (.vscat vd sa vb pm z imm)
  | 6 => whenOk (vd == 0 && sx == 0 && vb == 0 && pm == 0 && la == 0 && sz == 0 && sy == 0) (.vpf sa imm)
  | 7 => whenOk (vb == 0 && pm == 0 && sz == 0 && imm.extractLsb' 0 6 == 0)
      (.lda vd sa sx sy la (imm.getLsbD 14) (imm.extractLsb' 6 8))
  | 8 => whenOk (vb == 0 && pm == 0 && la == 0 && sz == 0 && sy == 0) (.sta vd sa sx imm)
  | 9 => whenOk (vb == 0 && la == 0 && sz == 0 && sy == 0) (.stad vd sa sx pm imm)
  | 10 => whenOk (vd == 0 && sx == 0 && vb == 0 && pm == 0 && sz == 0 && imm == 0) (.ldas sa sy la)
  | 11 => whenOk (sa == 0 && sx == 0 && vb == 0 && la == 0 && sz == 0 && imm.extractLsb' 7 8 == 0 &&
      (!imm.getLsbD 6 || imm.extractLsb' 0 6 == 0)) (.vtou sy vd pm (imm.getLsbD 6) (imm.extractLsb' 0 6))
  | 12 => whenOk (sx == 0 && vb == 0 && la == 0 && sz == 0 && sy == 0 && imm == 0) (.utov vd sa pm)
  | 13 => (redOf (imm.extractLsb' 0 4)).bind fun op =>
      whenOk (sa == 0 && sx == 0 && vb == 0 && la == 0 && sz == 0 && imm.extractLsb' 4 11 == 0) (.vred sy vd pm op)
  | 14 => whenOk (sa == 0 && sx == 0 && vb == 0 && la == 0 && sz == 0 && imm.extractLsb' 3 12 == 0)
      (.vuni sy (imm.extractLsb' 0 3) vd pm)
  | 15 => whenOk (vd == 0 && sa == 0 && sx == 0 && vb == 0 && la == 0 && sz == 0 && imm == 0) (.ptou sy pm)
  | 16 => whenOk (pOk vd && sx == 0 && vb == 0 && pm == 0 && la == 0 && sz == 0 && sy == 0 && imm == 0)
      (.utop (pIdx vd) sa)
  | 17 => whenOk (vd == 0 && sa == 0 && sx == 0 && vb == 0 && la == 0 && sz == 0 && qOk sy && imm == 0)
      (.pany (qIdx sy) pm)
  | 18 => whenOk (vd == 0 && sa == 0 && sx == 0 && vb == 0 && la == 0 && sz == 0 && qOk sy && imm == 0)
      (.pall (qIdx sy) pm)
  | _ => none

/-- A T word (R40, R74). An accumulator, channel or table field above 3, or a handle field above 7, is rejected. -/
def decodeT (x : Word) : Option Instr :=
  let la := x.extractLsb' 48 4
  let fa := x.extractLsb' 44 4
  let fb := x.extractLsb' 40 4
  let fc := x.extractLsb' 36 4
  let s1 := x.extractLsb' 31 5
  let s2 := x.extractLsb' 26 5
  let s3 := x.extractLsb' 21 5
  let imm := x.extractLsb' 0 21
  let a2 := fa.extractLsb' 0 2
  let a2Ok := fa.extractLsb' 2 2 == 0
  let k := fa.extractLsb' 0 3
  let kOk := fa.extractLsb' 3 1 == 0
  match (x.extractLsb' 52 6).toNat with
  | 0 => whenOk (la == 0 && fb == 0 && fc == 0 && s2 == 0 && s3 == 0 && imm == 0) (.tdesc fa s1)
  | 1 => whenOk (la == 0 && a2Ok && fb == 0 && fc == 0 && s3 == 0 && imm == 0) (.tzero a2 s1 s2)
  | 2 => whenOk (la == 0 && a2Ok && s1 == 0 && s2 == 0 && s3 == 0 && imm == 0) (.tmm a2 fb fc)
  | 3 => whenOk (la == 0 && a2Ok && fc.extractLsb' 3 1 == 0 && s2 == 0 && s3 == 0 && imm == 0)
      (.tmmr a2 fb (fc.extractLsb' 0 3) s1)
  | 4 => whenOk (la == 0 && a2Ok && fc == 0 && s2 == 0 && s3 == 0 && imm == 0) (.tdrain a2 fb s1)
  | 5 => whenOk (la == 0 && a2Ok && fb == 0 && fc == 0 && imm == 0) (.tcopy a2 s1 s2 s3)
  | 6 => whenOk (la == 0 && fa == 0 && fb == 0 && fc == 0 && s2 == 0 && s3 == 0 && imm == 0) (.twait s1)
  | 7 => whenOk (la == 0 && a2Ok && fb == 0 && fc == 0 && s2 == 0 && s3 == 0 && imm == 0) (.ttab a2 s1)
  | 8 => whenOk (la == 0 && fc == 0 && s1 == 0 && s2 == 0 && s3 == 0 && imm == 0) (.tcnv fa fb)
  | 9 => whenOk (la == 0 && s2 == 0 && s3 == 0 && imm == 0) (.tqms fa fb fc s1)
  | 10 => whenOk (la == 0 && fb == 0 && fc == 0 && s1 == 0 && s2 == 0 && s3 == 0 && imm == 0) (.tlu fa)
  | 11 => whenOk (la == 0 && fc == 0 && s1 == 0 && s2 == 0 && s3 == 0 && imm == 0) (.tsolv fa fb)
  | 12 => whenOk (la == 0 && fa == 0 && fb == 0 && fc == 0 && s3 == 0 && imm == 0) (.link s1 s2)
  | 13 => whenOk (fa == 0 && fb == 0 && fc == 0 && s2 == 0 && s3 == 0 && s1 != 0 &&
      1 ≤ imm.toNat && imm.toNat ≤ 4 && s1.toNat + imm.toNat ≤ 32) (.alloc s1 la imm)
  | 14 => whenOk (la == 0 && fa == 0 && fb == 0 && fc == 0 && s2 == 0 && s3 == 0 && imm == 0) (.free s1)
  | 15 => whenOk (la == 0 && fa == 0 && fb == 0 && fc == 0 && s3 == 0 && imm == 0) (.push s1 s2)
  | 16 => whenOk (x.extractLsb' 0 52 == 0) .endThread
  | 17 => whenOk (fa == 0 && fb == 0 && fc == 0 && s3 == 0) (.nld s1 s2 la imm)
  | 18 => whenOk (la == 0 && fa == 0 && fb == 0 && fc == 0 && s3 == 0) (.nst s1 s2 imm)
  | 19 => whenOk (la == 0 && fa == 0 && fb == 0 && fc == 0 && s3 == 0 && imm == 0) (.rulew s1 s2)
  | 20 => whenOk (la == 0 && kOk && fb == 0 && fc == 0 && imm == 0) (.board k s1 s2 s3)
  | 21 => whenOk (la == 0 && kOk && fb == 0 && fc == 0 && s1 == 0 && s2 == 0 && s3 == 0 && imm == 0) (.unboard k)
  | 22 => whenOk (kOk && fb == 0 && fc == 0 && s2 == 0 && s3 == 0 &&
      (imm.toNat ≤ 5 || (imm.toNat == 6 && la == 0))) (.ringq k s1 la imm)
  | 23 => whenOk (la == 0 && fa == 0 && fb == 0 && fc == 0 && s2 == 0 && s3 == 0 && imm == 0) (.mig s1)
  | 24 => whenOk (la == 0 && fa == 0 && fb == 0 && fc == 0 && s3 == 0 && imm.extractLsb' 6 15 == 0)
      (.reds s1 s2 (imm.extractLsb' 0 6))
  | 25 => whenOk (x.extractLsb' 0 52 == 0) .halt
  | 26 => whenOk (la == 0 && fa == 0 && fb == 0 && fc == 0 && s1 == 0 && s2 == 0 && s3 == 0 && imm.toNat ≤ 2047)
      (.svc imm)
  | _ => none

/-- The guard in bits 61:58 (R34). -/
def guardOf (x : Word) : Guard := ⟨x.getLsbD 61, x.extractLsb' 58 3⟩

/-- The slots of a pair word, or the slot that rejects it. -/
def pairOf (g : Guard) (u v : Option Instr) : Except Reject Bundle :=
  match u, v with
  | none, _ => .error .uniformSlot
  | some _, none => .error .vectorSlot
  | some u, some v => .ok (.pair g u v)

/-- A long word, or its rejection. -/
def longOf (g : Guard) (i : Option Instr) : Except Reject Bundle :=
  match i with
  | none => .error .longWord
  | some i => .ok (.long g i)

/-- A 64-bit word (R33): bits 63:62 give the class; guard 1000 is rejected whatever follows. -/
def decode (x : Word) : Except Reject Bundle :=
  if (guardOf x).wf then
    match (x.extractLsb' 62 2).toNat with
    | 0 => pairOf (guardOf x) (decodeUniform (x.extractLsb' 32 26)) (decodeVector (x.extractLsb' 0 32))
    | 1 => longOf (guardOf x) (decodeU x)
    | 2 => longOf (guardOf x) (decodeV x)
    | _ => longOf (guardOf x) (decodeT x)
  else .error .guardNever

/-- The little-endian value of bytes, the first least significant (R1). -/
def leNat : List Byte → Nat
  | [] => 0
  | b :: bs => b.toNat + 256 * leNat bs

/-- The first `n` bytes of a value, the least significant first (R1). -/
def leBytes : Nat → Nat → List Byte
  | 0, _ => []
  | n + 1, x => BitVec.ofNat 8 x :: leBytes n (x / 256)

/-- A word from the bytes at its address, with the bytes after it. -/
def decodeBytes : List Byte → Except Reject (Bundle × List Byte)
  | b0 :: b1 :: b2 :: b3 :: b4 :: b5 :: b6 :: b7 :: rest =>
    (decode (BitVec.ofNat 64 (leNat [b0, b1, b2, b3, b4, b5, b6, b7]))).map fun b => (b, rest)
  | _ => .error .short

/-- The instruction of a word: its long instruction, or its vector-slot instruction, or, where the vector slot is
`vnop` beside another uniform-slot operation, the uniform-slot one. -/
def Bundle.instr : Bundle → Instr
  | .pair _ u v => if v == .vnop && u != .unop then u else v
  | .long _ i => i

/-- The instruction this decoder reads from the bits `w` of a row of the opcode table, `nbits` wide: the bits above are
zero, the 8 bytes are laid out little-endian. -/
def decodeTableWord (nbits w : Nat) : Option Instr :=
  match decodeBytes (leBytes 8 (w % 2 ^ nbits)) with
  | .ok (b, _) => some b.instr
  | .error _ => none

/-! ### The encoder -/

/-- The code of a rounding mode (R69). -/
def RMode.code : RMode → BitVec 2
  | .rne => 0 | .rz => 1 | .rup => 2 | .rdn => 3

/-- The code of an element type (R69). -/
def FTyp.code : FTyp → BitVec 2
  | .f32 => 0 | .f16 => 1 | .bf16 => 2

/-- The code of a compare condition (R69). -/
def FCond.code : FCond → BitVec 2
  | .eq => 0 | .lt => 1 | .le => 2 | .un => 3

/-- Mod bit 3 of a width (R69). -/
def Width.code : Width → BitVec 1
  | .w32 => 0 | .w16 => 1

/-- The size code (R71). -/
def ESize.code : ESize → BitVec 2
  | .s4 => 0 | .s2 => 1 | .s1 => 2

/-- The code of a reduction (R72). -/
def RedOp.code : RedOp → BitVec 4
  | .add => 0 | .fadd => 1 | .min => 2 | .max => 3 | .minu => 4 | .maxu => 5
  | .fmin => 6 | .fmax => 7 | .and => 8 | .or => 9 | .xor => 10

/-- The code of a conversion (R70). -/
def CvtCode.code : CvtCode → BitVec 4
  | .i32f32 => 0 | .u32f32 => 1 | .f32i32 => 2 | .f32i32z => 3 | .f32u32 => 4 | .f32u32z => 5
  | .f16l => 8 | .f16h => 9 | .bf16l => 10 | .bf16h => 11

/-- The code of a pair conversion (R70). -/
def PairCode.code : PairCode → BitVec 4
  | .toF16 => 6 | .toBf16 => 7

/-- The code of a scan (R70). -/
def ScanOp.code : ScanOp → BitVec 4
  | .add => 0 | .fadd => 1 | .min => 2 | .max => 3 | .fmin => 4 | .fmax => 5

/-- The kind field of a fence (R142). -/
def FenceKind.code : FenceKind → BitVec 2
  | .acq => 1 | .rel => 2 | .full => 3

/-- One bit of a Bool. -/
def bit1 (b : Bool) : BitVec 1 := BitVec.ofBool b

/-- A predicate index in a 5-bit field. -/
def q5 (q : BitVec 3) : BitVec 5 := 0#2 ++ q

/-- A lane predicate index in a 6-bit field. -/
def p6 (p : BitVec 3) : BitVec 6 := 0#3 ++ p

/-- The five fields of a uniform slot (R35). -/
def uSlot (op : BitVec 6) (sd sa sh sb : BitVec 5) : BitVec 26 := op ++ (sd ++ (sa ++ (sh ++ sb)))

/-- A uniform slot with an immediate (R35). -/
def uSlotImm (op : BitVec 6) (sd sa : BitVec 5) (imm : BitVec 10) : BitVec 26 := op ++ (sd ++ (sa ++ imm))

/-- The six fields of a vector slot (R35). -/
def vSlot (op : BitVec 7) (vd va vb : BitVec 6) (pm : BitVec 3) (mod : BitVec 4) : BitVec 32 :=
  op ++ (vd ++ (va ++ (vb ++ (pm ++ mod))))

/-- The fields of a U word below its guard (R38). -/
def uWord (op : BitVec 6) (sd sa sb : BitVec 5) (la : BitVec 4) (x : BitVec 1) (imm : BitVec 32) : BitVec 58 :=
  op ++ (sd ++ (sa ++ (sb ++ (la ++ (x ++ imm)))))

/-- The fields of a V word below its guard (R39). -/
def vWord (op : BitVec 7) (vd : BitVec 6) (sa sx : BitVec 5) (vb : BitVec 6) (pm : BitVec 3) (la : BitVec 4)
    (sz : BitVec 2) (sy : BitVec 5) (imm : BitVec 15) : BitVec 58 :=
  op ++ (vd ++ (sa ++ (sx ++ (vb ++ (pm ++ (la ++ (sz ++ (sy ++ imm))))))))

/-- The fields of a T word below its guard (R40). -/
def tWord (op : BitVec 6) (la fa fb fc : BitVec 4) (s1 s2 s3 : BitVec 5) (imm : BitVec 21) : BitVec 58 :=
  op ++ (la ++ (fa ++ (fb ++ (fc ++ (s1 ++ (s2 ++ (s3 ++ imm)))))))

/-- The bits of a uniform slot; 0 for an instruction that does not stand there. -/
def encodeUniform : Instr → BitVec 26
  | .unop => uSlot 0 0 0 0 0
  | .add sd sa sb => uSlot 1 sd sa 0 sb
  | .addi sd sa imm => uSlotImm 2 sd sa imm
  | .sub sd sa sb => uSlot 3 sd sa 0 sb
  | .mul sd sa sb => uSlot 4 sd sa 0 sb
  | .mulh sd sa sb => uSlot 5 sd sa 0 sb
  | .mulhu sd sa sb => uSlot 6 sd sa 0 sb
  | .and sd sa sb => uSlot 7 sd sa 0 sb
  | .andi sd sa imm => uSlotImm 8 sd sa imm
  | .or sd sa sb => uSlot 9 sd sa 0 sb
  | .ori sd sa imm => uSlotImm 10 sd sa imm
  | .xor sd sa sb => uSlot 11 sd sa 0 sb
  | .xori sd sa imm => uSlotImm 12 sd sa imm
  | .shl sd sa sb => uSlot 13 sd sa 0 sb
  | .shli sd sa imm => uSlotImm 14 sd sa imm
  | .shr sd sa sb => uSlot 15 sd sa 0 sb
  | .shri sd sa imm => uSlotImm 16 sd sa imm
  | .sra sd sa sb => uSlot 17 sd sa 0 sb
  | .srai sd sa imm => uSlotImm 18 sd sa imm
  | .min sd sa sb => uSlot 19 sd sa 0 sb
  | .max sd sa sb => uSlot 20 sd sa 0 sb
  | .minu sd sa sb => uSlot 21 sd sa 0 sb
  | .maxu sd sa sb => uSlot 22 sd sa 0 sb
  | .addx sd sa sb sh => uSlot 23 sd sa sh sb
  | .clz sd sa => uSlot 24 sd sa 0 0
  | .popc sd sa => uSlot 25 sd sa 0 0
  | .bext sd sa sb => uSlot 26 sd sa 0 sb
  | .sext sd sa imm => uSlotImm 27 sd sa imm
  | .slt sd sa sb => uSlot 28 sd sa 0 sb
  | .sltu sd sa sb => uSlot 29 sd sa 0 sb
  | .qeq qd sa sb => uSlot 30 (q5 qd) sa 0 sb
  | .qne qd sa sb => uSlot 31 (q5 qd) sa 0 sb
  | .qlt qd sa sb => uSlot 32 (q5 qd) sa 0 sb
  | .qltu qd sa sb => uSlot 33 (q5 qd) sa 0 sb
  | .qle qd sa sb => uSlot 34 (q5 qd) sa 0 sb
  | .qleu qd sa sb => uSlot 35 (q5 qd) sa 0 sb
  | .qeqi qd sa imm => uSlotImm 36 (q5 qd) sa imm
  | .qlti qd sa imm => uSlotImm 37 (q5 qd) sa imm
  | .qand qd qa qb => uSlot 38 (q5 qd) (q5 qa) 0 (q5 qb)
  | .qor qd qa qb => uSlot 39 (q5 qd) (q5 qa) 0 (q5 qb)
  | .qxor qd qa qb => uSlot 40 (q5 qd) (q5 qa) 0 (q5 qb)
  | .qnot qd qa => uSlot 41 (q5 qd) (q5 qa) 0 0
  | _ => 0

/-- The bits of a vector slot; 0 for an instruction that does not stand there. -/
def encodeVector : Instr → BitVec 32
  | .vnop => vSlot 0 0 0 0 0 0
  | .vadd vd va vb pm w u s => vSlot 1 vd va vb pm (w.code ++ (bit1 u ++ (0#1 ++ bit1 s)))
  | .vsub vd va vb pm w u s => vSlot 2 vd va vb pm (w.code ++ (bit1 u ++ (0#1 ++ bit1 s)))
  | .vmul vd va vb pm w => vSlot 3 vd va vb pm (w.code ++ 0#3)
  | .vmulh vd va vb pm w => vSlot 4 vd va vb pm (w.code ++ 0#3)
  | .vmulhu vd va vb pm w => vSlot 5 vd va vb pm (w.code ++ 0#3)
  | .vand vd va vb pm => vSlot 6 vd va vb pm 0
  | .vor vd va vb pm => vSlot 7 vd va vb pm 0
  | .vxor vd va vb pm => vSlot 8 vd va vb pm 0
  | .vshl vd va vb pm w => vSlot 9 vd va vb pm (w.code ++ 0#3)
  | .vshr vd va vb pm w => vSlot 10 vd va vb pm (w.code ++ 0#3)
  | .vsra vd va vb pm w => vSlot 11 vd va vb pm (w.code ++ 0#3)
  | .vmin vd va vb pm w => vSlot 12 vd va vb pm (w.code ++ 0#3)
  | .vmax vd va vb pm w => vSlot 13 vd va vb pm (w.code ++ 0#3)
  | .vminu vd va vb pm w => vSlot 14 vd va vb pm (w.code ++ 0#3)
  | .vmaxu vd va vb pm w => vSlot 15 vd va vb pm (w.code ++ 0#3)
  | .vsel vd va vb pm => vSlot 16 vd va vb pm 0
  | .viota vd pm => vSlot 17 vd 0 0 pm 0
  | .vfadd vd va vb pm t r => vSlot 18 vd va vb pm (t.code ++ r.code)
  | .vfsub vd va vb pm t r => vSlot 19 vd va vb pm (t.code ++ r.code)
  | .vfmul vd va vb pm t r => vSlot 20 vd va vb pm (t.code ++ r.code)
  | .vfma vd va vb pm t r => vSlot 21 vd va vb pm (t.code ++ r.code)
  | .vfms vd va vb pm t r => vSlot 22 vd va vb pm (t.code ++ r.code)
  | .vfmin vd va vb pm t r => vSlot 23 vd va vb pm (t.code ++ r.code)
  | .vfmax vd va vb pm t r => vSlot 24 vd va vb pm (t.code ++ r.code)
  | .vfdiv vd va vb pm t r => vSlot 25 vd va vb pm (t.code ++ r.code)
  | .vfsqrt vd va pm t r => vSlot 26 vd va 0 pm (t.code ++ r.code)
  | .vfrsq vd va pm t r => vSlot 27 vd va 0 pm (t.code ++ r.code)
  | .vfexp2 vd va pm t r => vSlot 28 vd va 0 pm (t.code ++ r.code)
  | .vflog2 vd va pm t r => vSlot 29 vd va 0 pm (t.code ++ r.code)
  | .vfabs vd va pm t => vSlot 30 vd va 0 pm (t.code ++ 0#2)
  | .vfneg vd va pm t => vSlot 31 vd va 0 pm (t.code ++ 0#2)
  | .vcmpeq pd va vb pm w => vSlot 32 (p6 pd) va vb pm (w.code ++ 0#3)
  | .vcmplt pd va vb pm w u => vSlot 33 (p6 pd) va vb pm (w.code ++ (bit1 u ++ 0#2))
  | .vcmple pd va vb pm w u => vSlot 34 (p6 pd) va vb pm (w.code ++ (bit1 u ++ 0#2))
  | .vfcmp pd va vb pm t c => vSlot 35 (p6 pd) va vb pm (t.code ++ c.code)
  | .pand pd pa pb => vSlot 36 (p6 pd) (p6 pa) (p6 pb) 0 0
  | .por pd pa pb => vSlot 37 (p6 pd) (p6 pa) (p6 pb) 0 0
  | .pandn pd pa pb => vSlot 38 (p6 pd) (p6 pa) (p6 pb) 0 0
  | .pxor pd pa pb => vSlot 39 (p6 pd) (p6 pa) (p6 pb) 0 0
  | .vcvt vd va pm c => vSlot 40 vd va 0 pm c.code
  | .vcvtPair vd va vb pm c => vSlot 40 vd va vb pm c.code
  | .vdec vd va pm c4 t1 g => vSlot 41 vd va 0 pm (bit1 c4 ++ (bit1 t1 ++ g))
  | .venc vd va pm c4 t1 inf => vSlot 42 vd va 0 pm (bit1 c4 ++ (bit1 t1 ++ (bit1 inf ++ 0#1)))
  | .vshuf vd va vb pm => vSlot 43 vd va vb pm 0
  | .vroti vd va n pm => vSlot 44 vd va n pm 0
  | .vscan vd va pm op => vSlot 45 vd va 0 pm op.code
  | .vcmprs vd va pm => vSlot 46 vd va 0 pm 0
  | _ => 0

/-- The class of a long instruction (R33) and the bits below its guard; class P and 0 for any other instruction. -/
def encodeLong : Instr → BitVec 2 × BitVec 58
  | .li sd imm => (1, uWord 0 sd 0 0 0 0 imm)
  | .lih sd imm => (1, uWord 1 sd 0 0 0 0 imm)
  | .addil sd sa imm => (1, uWord 2 sd sa 0 0 0 imm)
  | .ld sd sa la w4 imm => (1, uWord 3 sd sa 0 la (bit1 w4) imm)
  | .st sa sb w4 imm => (1, uWord 4 0 sa sb 0 (bit1 w4) imm)
  | .aadd sd sa sb la w4 imm => (1, uWord 5 sd sa sb la (bit1 w4) imm)
  | .amin sd sa sb la w4 imm => (1, uWord 6 sd sa sb la (bit1 w4) imm)
  | .amax sd sa sb la w4 imm => (1, uWord 7 sd sa sb la (bit1 w4) imm)
  | .aand sd sa sb la w4 imm => (1, uWord 8 sd sa sb la (bit1 w4) imm)
  | .aor sd sa sb la w4 imm => (1, uWord 9 sd sa sb la (bit1 w4) imm)
  | .axch sd sa sb la w4 imm => (1, uWord 10 sd sa sb la (bit1 w4) imm)
  | .acas sd sa sb la w4 imm => (1, uWord 11 sd sa sb la (bit1 w4) imm)
  | .fence k c => (1, uWord 12 0 0 0 0 0 (0#25 ++ (c ++ k.code)))
  | .br imm => (1, uWord 13 0 0 0 0 0 imm)
  | .call sd imm => (1, uWord 14 sd 0 0 0 0 imm)
  | .jr sa => (1, uWord 15 0 sa 0 0 0 0)
  | .loop n sa imm => (1, uWord 16 0 sa 0 0 (bit1 n) imm)
  | .mfs sd idx => (1, uWord 17 sd 0 0 0 0 idx)
  | .mts sa idx => (1, uWord 18 0 sa 0 0 0 idx)
  | .crset sa e => (1, uWord 19 0 sa 0 0 0 e)
  | .trapi imm => (1, uWord 20 0 0 0 0 0 imm)
  | .eret => (1, uWord 21 0 0 0 0 0 0)
  | .yield => (1, uWord 22 0 0 0 0 0 0)
  | .regset sa mask => (1, uWord 23 0 sa 0 0 0 mask)
  | .vld vd sa pm la off => (2, vWord 0 vd sa 0 0 pm la 0 0 off)
  | .vst vd sa pm off => (2, vWord 1 vd sa 0 0 pm 0 0 0 off)
  | .vlds vd sa sx pm la z off => (2, vWord 2 vd sa sx 0 pm la z.code 0 off)
  | .vsts vd sa sx pm z off => (2, vWord 3 vd sa sx 0 pm 0 z.code 0 off)
  | .vgath vd sa vb pm la z off => (2, vWord 4 vd sa 0 vb pm la z.code 0 off)
  | .vscat vd sa vb pm z off => (2, vWord 5 vd sa 0 vb pm 0 z.code 0 off)
  | .vpf sa off => (2, vWord 6 0 sa 0 0 0 0 0 0 off)
  | .lda vd sa sx sy la wt lag => (2, vWord 7 vd sa sx 0 0 la 0 sy (bit1 wt ++ (lag ++ 0#6)))
  | .sta vd sa sx off => (2, vWord 8 vd sa sx 0 0 0 0 0 off)
  | .stad vd sa sx pm off => (2, vWord 9 vd sa sx 0 pm 0 0 0 off)
  | .ldas sa sy la => (2, vWord 10 0 sa 0 0 0 la 0 sy 0)
  | .vtou sy vd pm low e => (2, vWord 11 vd 0 0 0 pm 0 0 sy (0#8 ++ (bit1 low ++ e)))
  | .utov vd sa pm => (2, vWord 12 vd sa 0 0 pm 0 0 0 0)
  | .vred sy vd pm op => (2, vWord 13 vd 0 0 0 pm 0 0 sy (0#11 ++ op.code))
  | .vuni sy qd vd pm => (2, vWord 14 vd 0 0 0 pm 0 0 sy (0#12 ++ qd))
  | .ptou sy pn => (2, vWord 15 0 0 0 0 pn 0 0 sy 0)
  | .utop pd sa => (2, vWord 16 (p6 pd) sa 0 0 0 0 0 0 0)
  | .pany qd pn => (2, vWord 17 0 0 0 0 pn 0 0 (q5 qd) 0)
  | .pall qd pn => (2, vWord 18 0 0 0 0 pn 0 0 (q5 qd) 0)
  | .tdesc d s1 => (3, tWord 0 0 d 0 0 s1 0 0 0)
  | .tzero a s1 s2 => (3, tWord 1 0 (0#2 ++ a) 0 0 s1 s2 0 0)
  | .tmm a da db => (3, tWord 2 0 (0#2 ++ a) da db 0 0 0 0)
  | .tmmr a dx k s1 => (3, tWord 3 0 (0#2 ++ a) dx (0#1 ++ k) s1 0 0 0)
  | .tdrain a dc s1 => (3, tWord 4 0 (0#2 ++ a) dc 0 s1 0 0 0)
  | .tcopy ch s1 s2 s3 => (3, tWord 5 0 (0#2 ++ ch) 0 0 s1 s2 s3 0)
  | .twait s1 => (3, tWord 6 0 0 0 0 s1 0 0 0)
  | .ttab t s1 => (3, tWord 7 0 (0#2 ++ t) 0 0 s1 0 0 0)
  | .tcnv dd ds => (3, tWord 8 0 dd ds 0 0 0 0 0)
  | .tqms dr da dx s1 => (3, tWord 9 0 dr da dx s1 0 0 0)
  | .tlu dn => (3, tWord 10 0 dn 0 0 0 0 0 0)
  | .tsolv dl dv => (3, tWord 11 0 dl dv 0 0 0 0 0)
  | .link s1 s2 => (3, tWord 12 0 0 0 0 s1 s2 0 0)
  | .alloc sd la n => (3, tWord 13 la 0 0 0 sd 0 0 n)
  | .free s1 => (3, tWord 14 0 0 0 0 s1 0 0 0)
  | .push s1 s2 => (3, tWord 15 0 0 0 0 s1 s2 0 0)
  | .endThread => (3, tWord 16 0 0 0 0 0 0 0 0)
  | .nld s1 sd la off => (3, tWord 17 la 0 0 0 s1 sd 0 off)
  | .nst s1 s2 off => (3, tWord 18 0 0 0 0 s1 s2 0 off)
  | .rulew s1 s2 => (3, tWord 19 0 0 0 0 s1 s2 0 0)
  | .board k s1 s2 s3 => (3, tWord 20 0 (0#1 ++ k) 0 0 s1 s2 s3 0)
  | .unboard k => (3, tWord 21 0 (0#1 ++ k) 0 0 0 0 0 0)
  | .ringq k sd la code => (3, tWord 22 la (0#1 ++ k) 0 0 sd 0 0 code)
  | .mig s1 => (3, tWord 23 0 0 0 0 s1 0 0 0)
  | .reds s1 s2 v => (3, tWord 24 0 0 0 0 s1 s2 0 (0#15 ++ v))
  | .halt => (3, tWord 25 0 0 0 0 0 0 0 0)
  | .svc e => (3, tWord 26 0 0 0 0 0 0 0 e)
  | _ => (0, 0)

/-- The four bits of a guard (R34). -/
def Guard.bits (g : Guard) : BitVec 4 := bit1 g.neg ++ g.q

/-- The 64 bits of a word (R33 to R40). -/
def encode : Bundle → Word
  | .pair g u v => 0#2 ++ (g.bits ++ (encodeUniform u ++ encodeVector v))
  | .long g i => (encodeLong i).1 ++ (g.bits ++ (encodeLong i).2)

end Sys2Proof
end

