-- ==== Sys2Proof/Machine/RingClock.lean ====
section
/-! DEFINITION. The Lantern ring's injection clock and what a die reads of it (R257, R258). -/

namespace Sys2Proof.Machine

/-- N of a ring program: header word 0, bits 27:0 (R259). -/
def RingProgram.len (g : RingProgram) : Nat := (bits g.header 0 28).toNat

/-- Time(n) of a speed grade (R257). -/
def ringTime (grade : BitVec 2) (n : Nat) : Nat :=
  match grade.toNat with
  | 0 => n
  | 1 => n + n / 3
  | 2 => 2 * n
  | _ => 4 * n

/-- LAPLEN of a speed grade (R257). -/
def lapLength (grade : BitVec 2) (n : Nat) : Nat := ringTime grade n

/-- The greatest offset with Time(n) ≤ d, and whether d is a bubble (R257, R258). -/
def ringOffset (grade : BitVec 2) (d : Nat) : Nat × Bool :=
  match grade.toNat with
  | 0 => (d, false)
  | 1 => (3 * (d / 4) + min (d % 4) 2, d % 4 == 3)
  | 2 => (d / 2, d % 2 == 1)
  | _ => (d / 4, d % 4 != 0)

/-- The running lap and the laps before it, newest first; none while no program runs. -/
def Ring.laps (r : Ring) : List PastLap :=
  match r.running with
  | none => []
  | some g => ⟨r.lap, r.origin, r.grade, g⟩ :: r.past

/-- The lap that a die reads at a cycle; none while no program runs (R258). -/
def Ring.seen (r : Ring) (now : Nat) : Option PastLap :=
  if r.stopped then none else r.laps.find? fun l => l.origin + 3 ≤ now

/-- LAP (R258). -/
def Ring.lapReg (r : Ring) (now : Nat) : Word :=
  match r.seen now with
  | some x => zx x.lap
  | none => zx r.lap

/-- RINGPOS (R258). -/
def Ring.posReg (r : Ring) (now : Nat) : Word :=
  match r.seen now with
  | some l =>
    let d := now - 3 - l.origin
    let x := ringOffset l.grade d
    if l.program.len ≤ x.1 then w64 (l.program.len - 1 + 2 ^ 32) else w64 (x.1 + if x.2 then 2 ^ 32 else 0)
  | none => 0

/-- LAPLEN (R258). -/
def Ring.lenReg (r : Ring) (now : Nat) : Word :=
  match r.seen now with
  | some l => w64 (l.grade.toNat * 2 ^ 32 + lapLength l.grade l.program.len)
  | none => 0

/-! ### Parts (R259, R265) -/

/-- The format of a part (R259). -/
def Part.fmt (p : Part) : Nat := (bits p.w0 60 4).toNat
/-- Whether a part is a mixture-of-experts layer (R259). -/
def Part.expert (p : Part) : Bool := p.w0.getLsbD 59
/-- The lane of a part (R259). -/
def Part.lane (p : Part) : Nat := (bits p.w0 56 3).toNat
/-- Layer and model of a part (R259). -/
def Part.layer (p : Part) : BitVec 24 := bits p.w0 32 8 ++ bits p.w0 40 16
/-- The lap offset of segment 0 (R259). -/
def Part.first (p : Part) : Nat := (bits p.w0 0 28).toNat
/-- The context whose boardings may catch the part (R259). -/
def Part.ctx (p : Part) : Nat := (bits p.w1 58 6).toNat
/-- The source plinth die (R259). -/
def Part.source (p : Part) : Nat := (bits p.w1 24 10).toNat
/-- S, the segment count (R259). -/
def Part.count (p : Part) : Nat := (bits p.w1 0 24).toNat
/-- The in-die offset of the part's data (R259). -/
def Part.addr (p : Part) : Nat := (bits p.w2 0 36).toNat
/-- The group size: 64 segments for code8 formats, 32 for code4 (R265). -/
def Part.group (p : Part) : Nat := if isCode4 p.fmt then 32 else 64
/-- S′ (R265). -/
def Part.span (p : Part) : Nat := (p.count + p.group - 1) / p.group * p.group

/-- Whether two entries carry the same part: context, model, layer and lane (R260). -/
def Part.same (p q : Part) : Bool := p.ctx == q.ctx && p.layer == q.layer && p.lane == q.lane

/-- The entry of a program that carries a part. -/
def RingProgram.find (g : RingProgram) (p : Part) : Option Part := g.parts.find? fun q => q.same p

/-! ### Laps and windows (R257, R266) -/

/-- Cycles into a lap at which an offset is injected: Inj(ℓ, n) (R257). -/
def PastLap.inj (l : PastLap) (n : Nat) : Nat := l.origin + ringTime l.grade n

/-- The program that a lap not yet begun is to run. -/
def Ring.programAt (r : Ring) (l : BitVec 32) : Option RingProgram :=
  match r.switchAt with
  | some k => if 0 ≤ serial l k then r.standby else r.running
  | none => r.running

/-- A lap not yet begun, `k` laps after the running one, at the current grade (R266). -/
def Ring.ahead (r : Ring) (k : Nat) : Option PastLap :=
  match r.running with
  | none => none
  | some g =>
    let l := r.lap + BitVec.ofNat 32 k
    (r.programAt l).map fun q => ⟨l, r.origin + k * lapLength r.grade g.len, r.grade, q⟩

/-- The laps a boarding may catch, in order: those whose segments may still be on the ring, the running one, the next, and
the first of a pinned switch (R266). -/
def Ring.catchable (r : Ring) : List PastLap :=
  if r.stopped then [] else
  let switch : List PastLap := match r.switchAt with
    | some k => if 1 < serial k r.lap then ((r.ahead (serial k r.lap).toNat).map fun x => [x]).getD [] else []
    | none => []
  r.laps.reverse ++ ((r.ahead 1).map fun x => [x]).getD [] ++ switch

/-- A lap by its count: begun, or at the current grade while it has not (R270). -/
def Ring.lapOf (r : Ring) (l : BitVec 32) : Option PastLap :=
  match r.laps.find? fun x => x.lap = l with
  | some x => some x
  | none => if 0 < serial l r.lap then r.ahead (serial l r.lap).toNat else none

/-- The cycle segment `j` of a part of a lap passes a die: Pass(ℓ, j) (R266). -/
def PastLap.pass (l : PastLap) (p : Part) (die j : Nat) : Nat := l.inj (p.first + j) + ringDelay p.source die

/-- The cycles on which a lap's window begins and ends at a die, if its program carries the part (R266). -/
def PastLap.window (l : PastLap) (p : Part) (die : Nat) : Option (Nat × Nat) :=
  (l.program.find p).map fun q => (l.pass q die 0, l.pass q die (q.count - 1))

/-! ### Handles (R265, R269, R270) -/

/-- The present handle of a context on a core: one that no `board` or `unboard` has released (R265). -/
def Core.handle (x : Core) (ctx k : Nat) : Handle :=
  match x.handles.find? fun h => h.ctx = ctx ∧ h.k = k ∧ h.releasing.isNone with
  | some h => h
  | none => { ctx, k }

/-- The handle as `ringq` reads it: one whose release has not taken effect shows what it was (R269). -/
def Core.handleNow (x : Core) (ctx k : Nat) : Handle :=
  match (x.handles.filter fun h => h.ctx = ctx && h.k = k).getLast? with
  | some h => h
  | none => { ctx, k }

/-- The handle that an operation names: the one being released that still serves it, else the present one (R269). -/
def Core.handleFor (x : Core) (ctx k uid : Nat) : Handle :=
  match x.handles.find? fun h => h.ctx = ctx ∧ h.k = k ∧ (h.releasing.getD []).contains uid with
  | some h => h
  | none => x.handle ctx k

/-- The window of a handle's caught lap at its die. -/
def Ring.windowOf (r : Ring) (die : Nat) (h : Handle) : Option (Nat × Nat) :=
  if h.window.isSome then h.window
  else if !h.resolved then none
  else match h.part, r.lapOf h.lap with
    | some p, some l => l.window p die
    | _, _ => none

/-- The state of a handle at a cycle: a boarding waits until its window begins, lands until the window ends and no token
is left, and is then complete (R265, R268). -/
def Ring.stateOf (r : Ring) (die now : Nat) (h : Handle) : HandleState :=
  match h.state with
  | .free => .free
  | .absent => .absent
  | .complete => .complete
  | _ =>
    match r.windowOf die h with
    | none => .waiting
    | some (b, e) =>
      if now < b || (h.window.isNone && r.laps.all fun x => x.lap ≠ h.lap) then .waiting
      else if now < e || h.dropped ≠ 0 then .landing
      else .complete

end Sys2Proof.Machine
end

