-- ==== Sys2Proof/Machine/Ready.lean ====
section
/-! DEFINITION. Courses, what holds a thread, the traps due at a boundary, and which slots are ready (R29, R44, R46,
R97, R159 to R163, R306, R340). -/

namespace Sys2Proof.Machine

/-! ### Courses (R161 to R163) -/

/-- The reset entry, which names every core (R161). -/
def courseReset : BitVec 128 := 0xFFFF001B17000001

/-- The course entry of a context that a die holds, with its map's masks (R99, R161). -/
def State.courseOf (s : State) (die ctx e : Nat) : BitVec 128 × List (BitVec 16) :=
  match (s.die die).courses.find? fun c => c.1 = ctx ∧ c.2.1 = e with
  | some c => c.2.2
  | none => (courseReset, [])

/-- Whether an entry names a core of a lamp die (R163). -/
def courseNames (c : BitVec 128) (masks : List (BitVec 16)) (die core : Nat) : Bool :=
  let f (lo n : Nat) : Nat := (c.extractLsb' lo n).toNat
  if f 0 2 = 1 then
    f 8 5 ≤ dieX die && dieX die ≤ f 24 5 && f 16 5 ≤ dieY die && dieY die ≤ f 32 5 && c.getLsbD (48 + core)
  else (masks.getD (lampNo die) 0).getLsbD core

/-- Whether an entry image obeys the layout (R161). -/
def courseOk (c : BitVec 128) : Bool :=
  let f (lo n : Nat) : Nat := (c.extractLsb' lo n).toNat
  let zeros := f 2 6 == 0 && f 13 3 == 0 && f 21 3 == 0 && f 29 3 == 0 && f 37 11 == 0 && f 64 3 == 0 && f 112 16 == 0
  if f 0 2 = 1 then
    zeros && f 64 64 == 0 && f 24 5 ≤ 23 && f 32 5 ≤ 27 && f 8 5 ≤ f 24 5 && f 16 5 ≤ f 32 5
  else if f 0 2 = 2 then zeros && f 2 62 == 0
  else false

/-! ### Fences and joins (R142, R159, R306) -/

/-- Whether an unanswered access keeps a release waiting (R159). -/
def Out.keepsRelease (o : Out) (course : BitVec 128) (masks : List (BitVec 16)) : Bool :=
  match o.cls with
  | .load | .lda | .ldas => false
  | _ => match o.core with
    | none => true
    | some c => courseNames course masks o.dest c

/-- Whether an unanswered access keeps an acquire waiting (R159). -/
def Out.keepsAcquire (o : Out) : Bool :=
  match o.cls with
  | .load | .atomic | .lda | .ldas => true
  | _ => false

/-- Whether a fence that waits for the accesses numbered below `upto` is complete (R159). -/
def State.fenceDone (s : State) (uid : Nat) (rel acq : Bool) (course : BitVec 128) (masks : List (BitVec 16))
    (upto : Nat) : Bool :=
  s.outs.all fun o => !(o.owner = uid && o.req < upto &&
    ((rel && o.keepsRelease course masks) || (acq && o.keepsAcquire)))

/-- Whether every operation of a thread numbered `n` or lower is complete (R306). -/
def State.joined (s : State) (uid n : Nat) : Bool := s.ops.all fun o => !(o.owner = uid && o.seq ≤ n)

/-- The engine operations of a thread issued and not complete (R294). -/
def State.opsOf (s : State) (uid : Nat) : List TileOp := s.ops.filter fun o => o.owner = uid

/-- Whether a thread's earlier accesses to a die are answered or accepted. -/
def State.drained (s : State) (uid die : Nat) : Bool :=
  s.outs.all fun o => !(o.owner = uid && o.dest = die && !o.accepted)

/-- A field of a descriptor (R291). -/
def descField (d : BitVec 128) (lo n : Nat) : Nat := (d.extractLsb' lo n).toNat
/-- Format code of a descriptor (R274). -/
def descFmt (d : BitVec 128) : Nat := descField d 118 4

/-- Whether an operation of a context on a core reads its decode table: 0 `c8t0`, 1 `c8t1`, 2 `c4t0`, 3 `c4t1` (R302). -/
def State.opReadsTable (s : State) (o : TileOp) (p : Place) (ctx tab : Nat) : Bool :=
  o.ctx = ctx && o.place.die = p.die && o.place.core = p.core &&
  ((o.descs.any fun d => descFmt d = 4 + tab) ||
   (o.op = 3 && (match ((s.core p.die p.core).handleFor o.ctx o.fc o.uid).part with
     | some x => (bits x.w0 60 4).toNat = 4 + tab
     | none => false)))

/-- Whether an operation was issued after a `ttab` that still waits to replace a table it reads (R302). -/
def State.tableHeld (s : State) (o : TileOp) : Bool :=
  s.slots.any fun e => match e.2.thread with
    | some t => match t.hold with
      | .table tab mark => mark ≤ o.uid && s.opReadsTable o e.1 t.ctx tab && t.ctx = o.ctx
      | _ => false
    | none => false

/-- Whether a thread may take its next sequence number: its operations not complete are among the last 31 it has issued, so
that the history keeps every one of them (R294, R295). -/
def State.seqFree (s : State) (t : Thread) : Bool := (s.opsOf t.uid).all fun o => t.sys.tseq.toNat + 1 < o.seq + 32

/-- Whether a thread's hold has ended. -/
def State.holdOver (s : State) (p : Place) (t : Thread) : Bool :=
  match t.hold with
  | .none => true
  | .until_ c => c ≤ s.cycle
  | .yielded _ _ => false
  | .fence rel acq course masks upto => s.fenceDone t.uid rel acq course masks upto
  | .drain die => s.drained t.uid die
  | .twait n => s.joined t.uid n
  | .stall => s.seqFree t
  | .table tab mark => s.ops.all fun o => !(o.uid < mark && s.opReadsTable o p t.ctx tab)
  | .walk pages => pages.any fun x => !((s.die p.die).walks ++ (s.die p.die).walkQueue).contains x
  | .ringq k => (s.ring.stateOf p.die s.cycle ((s.core p.die p.core).handleNow t.ctx k)) != .waiting
  | .quarry served => served
  | .link => t.link.isNone
  | .rulew _ dies => dies.isEmpty
  | .crset _ dies => dies.isEmpty
  | .migrate => false
  | .saving => s.saved t.uid
  | .switch => false

/-- Whether a thread's migration packet has been refused (R323). -/
def Thread.refused (t : Thread) : Bool :=
  match t.migration with
  | some m => match m.phase with
    | .refused _ => true
    | _ => false
  | none => false

/-- Whether a thread stands between two words: nothing it has begun still holds it (R338, R345). A word that waits to
issue again, or whose migration is refused, has not acted (R327). -/
def State.between (s : State) (p : Place) (t : Thread) : Bool :=
  match t.hold with
  | .yielded _ _ | .drain _ | .twait _ | .stall | .table _ _ | .ringq _ | .quarry _ | .walk _ => true
  | .migrate => t.refused
  | _ => s.holdOver p t

/-! ### Traps due at a boundary (R340) -/

/-- TRAPCAUSE of an operation's late trap (R46). -/
def Tag.cause (g : Tag) (next : Word) : Word :=
  match g.state with
  | .trapped c _ => trapCause c 0 (g.la ≠ 0) next
  | _ => 0

/-- TRAPINFO of an operation's late trap. -/
def Tag.info (g : Tag) : Word :=
  match g.state with
  | .trapped _ i => i
  | _ => 0

/-- Whether an operation ended in a trap. -/
def Tag.isTrapped (g : Tag) : Bool :=
  match g.state with
  | .trapped _ _ => true
  | _ => false

/-- A trap due at a boundary (R340); PREEMPT has its own step. -/
inductive DueTrap where
  | debug
  | tag (g : Tag)
  | late (cause info : Word)
  | notice (info : Word)
  deriving DecidableEq, Repr

/-! ### Ready slots (R29) -/

/-- The words that close every window (R44). -/
def closesWindows : Instr → Bool
  | .endThread | .yield | .mig _ | .halt => true
  | _ => false

/-- Whether a thread's next word is one that closes windows and acts (R44): one whose guard is false closes none, the model's
choice (log 19). -/
def State.closingNext (s : State) (p : Place) (t : Thread) : Bool :=
  match s.fetch p.die t.ctx t.pc with
  | .error _ => false
  | .ok w => match decode w with
    | .ok (.long g i) => t.guardTrue g && closesWindows i
    | _ => false

/-- The operations whose window ends at the next word: those with no word to come, and all of them before a word that
closes windows (R43, R44). -/
def State.dueTags (s : State) (p : Place) (t : Thread) : List Tag :=
  if (t.tags.any fun g => !g.frozen && g.count ≠ 0) && s.closingNext p t then t.tags.filter fun g => !g.frozen
  else t.tags.filter fun g => !g.frozen && g.count = 0

/-- Whether a thread is held at a `twait` that is released as soon as the operations without effect it waits for have completed:
none that still has an effect keeps it (R254, R306). -/
def State.twaitReleases (s : State) (t : Thread) : Bool :=
  match t.hold with
  | .twait n => (s.opsOf t.uid).all fun o => n < o.seq || o.skip
  | _ => false

/-- The first due trap of a thread at a boundary, PREEMPT apart; in a PREEMPT handler only its own words' traps are due. The
precise trap of the last word comes before those of windows that it belongs to. An operation's fault is taken at the first
boundary, a `twait` that holds the thread issuing again afterwards, but it follows the release of a `twait` that only operations
without effect hold (R46, R254, R306, R307, R340, R350; log 66). -/
def State.dueTrap (s : State) (p : Place) (t : Thread) : Option DueTrap :=
  if t.debugDue && !t.priv then some .debug
  else match ((s.dueTags p t).find? fun g => g.isTrapped && g.la = 0).orElse fun _ => (s.dueTags p t).find? Tag.isTrapped with
  | some g => some (.tag g)
  | none =>
    if t.hs || t.priv then none
    else match t.lateFaults.head?.filter fun f => !(f.2.2 && s.twaitReleases t) with
    | some f => some (.late f.1 f.2.1)
    | none => t.notices.head?.map .notice

/-- Whether a physical address lies in the scratchpad of a core a context has been evicted from: an access waits until the
context returns (R353, R355). -/
def State.paAway (s : State) (ctx pa : Nat) : Bool :=
  match paOwner pa with
  | some c => (s.core (paHome pa) c).evicted.any fun e => e.1 = ctx
  | none => false

/-- Whether a thread's next word lies in the scratchpad of a core its context has been evicted from, or in a page being walked:
the thread is held until the context returns, or the walk is over (R353, R362). -/
def State.fetchHeld (s : State) (p : Place) (t : Thread) : Bool :=
  s.walkWaits p.die t.ctx t.pc.toNat || match s.translate p.die t.ctx .fetch t.pc with
  | .fail _ => false
  | .ok pa _ => s.paAway t.ctx pa

/-- Whether nothing but its fetch may keep a thread from issuing: it is not held, no trap is due at its boundary, and a load that
migrated it has been performed (R29, R44, R340). -/
def State.unheld (s : State) (p : Place) (t : Thread) : Bool :=
  !t.halted && !(s.die p.die).halt && t.pending.isNone && t.migration.isNone && s.holdOver p t &&
  !(t.preempt.isSome && !t.priv) && (s.dueTrap p t).isNone &&
  ((s.dueTags p t).all Tag.done) && (t.tags.all fun g => !g.now || g.done)

/-- Whether a slot is ready: it holds a thread that nothing holds (R29). -/
def State.ready (s : State) (p : Place) : Bool :=
  match s.thread? p with
  | none => false
  | some t => s.unheld p t && !s.fetchHeld p t

/-- The state after the fetches that miss while every walk of their die is busy wait in arrival order, those of one cycle in the order of
the slots (R362; log 13). -/
def State.queueFetches (s : State) : State :=
  s.slots.foldl (fun (x : State) e => match e.2.thread with
    | none => x
    | some t =>
      if x.walksFull e.1.die && s.unheld e.1 t && x.walkWaits e.1.die t.ctx t.pc.toNat &&
          !(x.walkedPages e.1.die).any (·.covers t.ctx t.pc.toNat) then
        x.modDie e.1.die fun d => { d with walkQueue := d.walkQueue ++ [(t.ctx, t.pc.toNat)] }
      else x) s

/-- The slots of a core after the one that issued last, in the order of the issue pointer (R29). -/
def slotOrder (last : Nat) : List Nat := (List.range 16).map fun k => (last + 1 + k) % 16

/-- Whether a slot is free and may take a thread: no take that waits for the rewrite unit keeps it (R27, R186, R238). -/
def State.slotFree (s : State) (p : Place) : Bool :=
  (s.slot p).thread.isNone && (s.slot p).usable && !((s.core p.die p.core).takeBusy.any fun e => e.1 = p.slot)

/-- Whether a released launch of a core takes effect on this cycle: its slot is free (R11, R27). -/
def State.launching (s : State) (die core : Nat) : Bool :=
  s.launches.any fun l => l.place.die = die && l.place.core = core && !l.held && s.slotFree l.place

/-- The slot a core issues from next: the first ready one the pointer meets, at most one word a cycle, once the launches of the
core that take effect on this cycle have (R29). -/
def State.nextSlot (s : State) (die core : Nat) : Option Place :=
  let x := s.core die core
  if x.lastIssue = some s.cycle || s.launching die core then none
  else ((slotOrder x.issuePtr).map fun k => Place.mk die core k).find? s.ready

/-! ### Figures of remote accesses (R321) -/

/-- LAT and HOPS set by an access that spent a number of cycles on links and whose route crossed a number of them; LAT
saturates (R321). -/
def State.setFigures (s : State) (p : Place) (lat hops : Nat) : State :=
  s.modThread p fun t =>
    { t with sys := { t.sys with lat := w64 (min lat (2 ^ 32 - 1)), hops := w64 (hops % 2 ^ 16) } }

/-- The cycles that an answer delivered now and its request spent on links: from its sending to its delivery, and from the home to
here; a request that was answered "retry" counts from its last sending (R321; log 5). -/
def State.linkCycles (s : State) (r : Resp) : Nat := r.lat + (s.cycle - r.since)

/-- LAT and HOPS as an answer is delivered; an access homed on the thread's own die writes neither (R321). -/
def State.figures (s : State) (p : Place) (r : Resp) : State :=
  if r.src = p.die then s else s.setFigures p (s.linkCycles r) r.hops

/-! ### Images read at issue -/

/-- The 8-byte words of an image, checked in ascending order and then read (R98, R162). -/
def State.checkWords (s : State) (die ctx : Nat) (a : Access) : List Word → Except (BitVec 8 × Word) (List Nat)
  | [] => .ok []
  | va :: r =>
    match s.translate die ctx a va with
    | .fail c => .error (c, va)
    | .ok pa _ =>
      match s.checkWords die ctx a r with
      | .error x => .error x
      | .ok pas => .ok (pa :: pas)

/-- The addresses of `n` 8-byte words from an address up. -/
def wordAddrs (va : Word) (n : Nat) : List Word := (List.range n).map fun k => va + w64 (8 * k)

/-- The lowest word of an image with an uncorrectable error (R146). -/
def State.badWord (s : State) : List (Word × Nat) → Option Word
  | [] => none
  | (va, pa) :: r => if s.badRange pa 8 then some va else s.badWord r

/-- A word waits to issue again: it has not acted. -/
def State.wait (s : State) (i : Issue) (t : Thread) (h : Hold) : State := (s.setThread i.place { t with hold := h }).stay

/-- Words of an image sent for by the word in its issue cycle, which does not act but issues again once they have returned
(log 17). -/
def State.fetchWords (s : State) (i : Issue) (t : Thread) (vas : List Word) (ordered : Bool) : State :=
  (s.plainLoad i t .load 8 (vas.mapIdx fun k va => (k, va)) fun n =>
    { openTag i n 0 with u := vas.map fun _ => 0, image := true, ordered, addr := vas.headD 0 }).stay

/-- Whether an 8-byte word can be read from here: its checks pass and it does not migrate the thread (R129, R130). -/
def State.readable (s : State) (i : Issue) (t : Thread) (va : Word) : Bool :=
  match s.check i.place.die t.ctx .load va 8 with
  | .ok pa _ => !(paSpace pa = 1 && paHome pa ≠ i.place.die)
  | .fail _ => false

/-- The next words of an image that is read as plain loads in ascending address order: those before the first that traps or
migrates the thread, or that one alone (R162, R302). -/
def State.fetchRun (s : State) (i : Issue) (t : Thread) (vas : List Word) : State :=
  let run := vas.takeWhile (s.readable i t)
  s.fetchWords i t (if run.isEmpty then vas.take 1 else run) true

end Sys2Proof.Machine
end

