-- ==== Sys2Proof/Machine/Control.lean ====
section
/-! DEFINITION. Branches, hardware loops, system registers, fences, courses, software traps, yield and image loads of the
U class (R86 to R99, R142). -/

namespace Sys2Proof.Machine

/-- The target of a relative branch (R86). -/
def branchTarget (pc : Word) (imm : BitVec 32) : Word := (pc + sx imm) &&& 0x0000FFFFFFFFFFFF

/-- `br` (R86). -/
def execBr (imm : BitVec 32) (s : State) : Host.Outcome State Fault Refusal :=
  s.word fun i _ => s.jump (branchTarget i.pc imm)

/-- `call`: the link is written, then the branch (R86). -/
def execCall (sd : BitVec 5) (imm : BitVec 32) (s : State) : Host.Outcome State Fault Refusal :=
  s.word fun i t => (s.setThread i.place (t.writeS sd (i.pc + 8))).jump (branchTarget i.pc imm)

/-- The trap of an indirect target, if it is not a word address of 48 bits (R86, R96). -/
def targetTrap (a : Word) : Option (BitVec 8) :=
  if bits a 0 3 ≠ 0 then some causeAlign else if bits a 48 16 ≠ 0 then some causeProt else none

/-- `jr` (R86). -/
def execJr (sa : BitVec 5) (s : State) : Host.Outcome State Fault Refusal :=
  s.word fun i t =>
    match targetTrap (t.readS sa) with
    | some c => s.precise i t c (t.readS sa)
    | none => s.jump (t.readS sa)

/-! ### Hardware loops (R88 to R92) -/

/-- LCn. -/
def SysRegs.lc (r : SysRegs) (n : Bool) : Word := if n then r.lc1 else r.lc0
/-- LSn. -/
def SysRegs.ls (r : SysRegs) (n : Bool) : Word := if n then r.ls1 else r.ls0
/-- LEn. -/
def SysRegs.le (r : SysRegs) (n : Bool) : Word := if n then r.le1 else r.le0

/-- The next address after a word that falls through, with the loop registers as the loop-back check leaves them (R90). After the
last word below 2^48 the next address is 2^48, whose fetch traps PROT: the spec gives `pc + 8` no modulus (log 70). -/
def SysRegs.loopBack (r : SysRegs) (pc : Word) : SysRegs × Word :=
  let hit (n : Bool) : Bool := r.lc n ≠ 0 && bits pc 3 45 == bits (r.le n) 3 45
  let check0 (r : SysRegs) : SysRegs × Word :=
    if hit false then
      if 1 < r.lc0.toNat then ({ r with lc0 := r.lc0 - 1 }, r.ls0) else ({ r with lc0 := 0 }, pc + 8)
    else (r, pc + 8)
  if hit true then
    if 1 < r.lc1.toNat then ({ r with lc1 := r.lc1 - 1 }, r.ls1) else check0 { r with lc1 := 0 }
  else check0 r

/-- The registers of loop n set; bits 47:3 of the addresses are kept (R88). -/
def SysRegs.setLoop (r : SysRegs) (n : Bool) (c ls le : Word) : SysRegs :=
  let m : Word := 0x0000FFFFFFFFFFF8
  if n then { r with lc1 := c, ls1 := ls &&& m, le1 := le &&& m } else { r with lc0 := c, ls0 := ls &&& m, le0 := le &&& m }

/-- `loop` (R89). After a loop that is skipped the next address is LEn + 8 within 48 bits, so that one which ends at 2^48 - 8 goes on at
0: the spec gives it no modulus, the model's choice (log 70). -/
def execLoop (n : Bool) (sa : BitVec 5) (imm : BitVec 32) (s : State) : Host.Outcome State Fault Refusal :=
  s.word fun i t =>
    if t.sys.lc n ≠ 0 then s.precise i t causeLoop (t.sys.le n)
    else
      let c := t.readS sa
      let s' := s.setThread i.place { t with sys := t.sys.setLoop n c (i.pc + 8) (i.pc + sx imm) }
      if c = 0 then s'.jump ((i.pc + sx imm + 8) &&& 0x0000FFFFFFFFFFFF) else s'

/-! ### System registers (R76, R93, R94) -/

/-- WHERE (R26). -/
def State.whereReg (s : State) (p : Place) : Word :=
  w64 (dieY p.die * 2 ^ 35 + dieX p.die * 2 ^ 30) + zx (s.widAt p)

/-- HODCAP of a context on a core (R236). -/
def Core.capOf (x : Core) (ctx : Nat) : Nat := lookupD 1024 ctx x.hodcap

/-- The value of a system register (R76). -/
def State.readSys (s : State) (p : Place) (t : Thread) (idx : Nat) : Word :=
  match idx with
  | 0x00 => t.sys.iter
  | 0x01 => w64 t.ctx
  | 0x02 => s.whereReg p
  | 0x03 => t.sys.flags
  | 0x04 => t.sys.lc0
  | 0x05 => t.sys.ls0
  | 0x06 => t.sys.le0
  | 0x07 => t.sys.lc1
  | 0x08 => t.sys.ls1
  | 0x09 => t.sys.le1
  | 0x0A => t.sys.tseq
  | 0x0B => t.sys.tdone
  | 0x0C => t.sys.cwp[0]
  | 0x0D => t.sys.cwp[1]
  | 0x0E => t.sys.cwp[2]
  | 0x0F => t.sys.cwp[3]
  | 0x10 => t.sys.trapvec
  | 0x11 => t.sys.trapcause
  | 0x12 => t.sys.trappc
  | 0x13 => t.sys.trapinfo
  | 0x14 => t.sys.trapsave
  | 0x15 => t.sys.vlive
  | 0x16 => w64 ((s.core p.die p.core).capOf t.ctx)
  | 0x17 => t.sys.lat
  | 0x18 => t.sys.hops
  | 0x19 => s.ring.lapReg s.cycle
  | 0x1A => s.ring.posReg s.cycle
  | 0x1B => s.ring.lenReg s.cycle
  | 0x1C => boolWord (s.die p.die).solver
  | 0x1D => t.sys.rndmode
  | 0x1E => t.sys.regeps
  | 0x20 => w64 s.cycle
  | 0x21 => zx (s.die p.die).headroom
  | n => if 0x40 ≤ n && n ≤ 0x5F then t.sys.history.toList.getD (n - 0x40) 0 else 0

/-- HODCAP as an `mts` leaves it: 1 to 1,024 (R236). -/
def clampCap (x : Word) : Nat :=
  let n := (bits x 0 11).toNat
  if n = 0 then 1 else min n 1024

/-- The thread with a writable system register of its own written; reserved bits keep 0 (R9, R94). -/
def SysRegs.write (r : SysRegs) (idx : Nat) (x : Word) : SysRegs :=
  match idx with
  | 0x00 => { r with iter := x &&& 0xFFFFFFFF }
  | 0x03 => { r with flags := x &&& 0x7F }
  | 0x04 => { r with lc0 := x }
  | 0x05 => { r with ls0 := x &&& 0x0000FFFFFFFFFFF8 }
  | 0x06 => { r with le0 := x &&& 0x0000FFFFFFFFFFF8 }
  | 0x07 => { r with lc1 := x }
  | 0x08 => { r with ls1 := x &&& 0x0000FFFFFFFFFFF8 }
  | 0x09 => { r with le1 := x &&& 0x0000FFFFFFFFFFF8 }
  | 0x10 => { r with trapvec := x }
  | 0x11 => { r with trapcause := x &&& 0x1FFFFFFFFFFFF1FF }
  | 0x12 => { r with trappc := x }
  | 0x13 => { r with trapinfo := x }
  | 0x14 => { r with trapsave := x }
  | 0x15 => { r with vlive := x }
  | 0x1D => { r with rndmode := x &&& 3 }
  | 0x1E => { r with regeps := x &&& 0x7FFFFFFF }
  | _ => r

/-- `mfs` (R93). -/
def execMfs (sd : BitVec 5) (idx : BitVec 32) (s : State) : Host.Outcome State Fault Refusal :=
  s.word fun i t =>
    if idx = 0x14 && !t.priv then s.precise i t causePriv 0x14
    else s.setThread i.place (t.writeS sd (s.readSys i.place t idx.toNat))

/-- `mts` (R94); HODCAP is kept per context and core (R236). -/
def execMts (sa : BitVec 5) (idx : BitVec 32) (s : State) : Host.Outcome State Fault Refusal :=
  s.word fun i t =>
    if idx = 0x14 && !t.priv then s.precise i t causePriv 0x14
    else if idx = 0x16 then
      s.modCore i.place.die i.place.core fun x => { x with hodcap := putKey t.ctx (clampCap (t.readS sa)) x.hodcap }
    else s.setThread i.place { t with sys := t.sys.write idx.toNat (t.readS sa) }

/-! ### Fences and courses (R99, R142) -/

/-- `fence`: the course entry is read now, and the thread is held until its condition is met (R142, R159). -/
def execFence (k : FenceKind) (course : BitVec 5) (s : State) : Host.Outcome State Fault Refusal :=
  s.word fun i t =>
    let c := s.courseOf i.place.die t.ctx course.toNat
    s.setThread i.place { t with hold := .fence (k != .acq) (k != .rel) c.1 c.2 s.nextId }

/-- The masks of a map's 84 words (R162). -/
def mapMasks (ws : List Word) : List (BitVec 16) :=
  ws.flatMap fun w => [bits w 0 16, bits w 16 16, bits w 32 16, bits w 48 16]

/-- The state with a die's copy of a course entry replaced (R99). -/
def State.setCourse (s : State) (die ctx e : Nat) (c : BitVec 128) (masks : List (BitVec 16)) : State :=
  s.modDie die fun x =>
    { x with courses := (x.courses.filter fun y => !(y.1 = ctx && y.2.1 = e)) ++ [(ctx, e, c, masks)] }

/-- The lamp dies in service. -/
def State.inService (s : State) : List Nat := lampDies.filter fun d => !(s.die d).outOfService

/-- `crset`: the image and then its map are read, this die's copy is replaced, and the thread is held until every lamp die
has its copy (R99, R162). -/
def execCrset (sa : BitVec 5) (e : BitVec 32) (s : State) : Host.Outcome State Fault Refusal :=
  s.word fun i t =>
    let a := t.readS sa
    let fin (c : BitVec 128) (masks : List (BitVec 16)) : State :=
      (s.setThread i.place { t with hold := .crset e.toNat ((s.inService).filter (· ≠ i.place.die)) }).setCourse
        i.place.die t.ctx e.toNat c masks
    if a.toNat % 16 ≠ 0 then s.precise i t causeAlign a
    else match t.image with
    | w0 :: w1 :: ms =>
      let c : BitVec 128 := w1 ++ w0
      if !courseOk c then s.precise i t causeIllegal i.word
      else if c.extractLsb' 0 2 = 1 then fin c []
      else if ms.length < 84 then s.fetchRun i t ((wordAddrs w1 84).drop ms.length)
      else fin c (mapMasks ms)
    | _ => s.fetchWords i t (wordAddrs a 2) false

/-- COURSE_ENTRY_COPY: a lamp die installs the entry of a `crset` that waits for it, as the issuing thread's die holds it,
and answers (R99). Of two `crset` of one entry in progress at once each copy step takes what that die then holds (log 65). -/
def execCourseEntryCopy (die : Nat) (s : State) : Host.Outcome State Fault Refusal :=
  match s.slots.findSome? fun x => x.2.thread.bind fun t => match t.hold with
      | .crset e dies => if dies.contains die then some (x.1, t, e, dies) else none
      | _ => none with
  | none => .next s
  | some (p, t, e, dies) =>
    let c := s.courseOf p.die t.ctx e
    .next ((s.setThread p { t with hold := .crset e (dies.filter (· ≠ die)) }).setCourse die t.ctx e c.1 c.2)

/-! ### Software traps and yield (R95, R97) -/

/-- `trapi` (R95). -/
def execTrapi (imm : BitVec 32) (s : State) : Host.Outcome State Fault Refusal :=
  s.word fun i t => s.precise i t causeSwtrap (sx imm)

/-- `yield`: held for 16 cycles and until every other slot that is ready has issued once (R97). -/
def execYield (s : State) : Host.Outcome State Fault Refusal :=
  s.word fun i t =>
    let others := (List.range 16).filter fun k => k ≠ i.place.slot && s.ready ⟨i.place.die, i.place.core, k⟩
    s.setThread i.place { t with hold := .yielded (s.cycle + 16) others }

/-! ### `regset` (R98) -/

/-- The registers a mask selects, ascending (R98). -/
def maskRegs (mask : BitVec 32) : List Nat := (List.range 32).filter fun j => j ≠ 0 && mask.getLsbD j

/-- `regset` (R98). -/
def execRegset (sa : BitVec 5) (mask : BitVec 32) (s : State) : Host.Outcome State Fault Refusal :=
  s.word fun i t =>
    let base := t.readS sa
    let rs := maskRegs mask
    if rs.isEmpty then s
    else if base.toNat % 8 ≠ 0 then s.precise i t causeAlign base
    else s.plainLoad i t .load 8 (rs.mapIdx fun k j => (k, base + w64 (8 * j))) fun n =>
      { openTag i n 0 with sds := rs.map (BitVec.ofNat 5), u := rs.map fun _ => 0, ordered := true }

end Sys2Proof.Machine
end

