-- ==== Sys2Proof/Machine/Memory.lean ====
section
/-! DEFINITION. Loads, stores, atomics and stamped accesses as a thread issues them (R12, R13, R127 to R141). -/

namespace Sys2Proof.Machine

/-- `ld` (R133). -/
def execLd (sd sa : BitVec 5) (la : BitVec 4) (w4 : Bool) (imm : BitVec 32) (s : State) : Host.Outcome State Fault Refusal :=
  s.word fun i t =>
    s.plainLoad i t .load (uSize w4) [(0, t.uAddr sa imm)] fun n => { openTag i n la.toNat with sds := [sd], u := [0] }

/-- `st` (R133). -/
def execSt (sa sb : BitVec 5) (w4 : Bool) (imm : BitVec 32) (s : State) : Host.Outcome State Fault Refusal :=
  s.word fun i t =>
    s.plainStore i t .store (uSize w4) [(0, t.uAddr sa imm)] fun _ => (t.readS sb).toNat % 2 ^ (8 * uSize w4)

/-- An atomic: checked and sent to its home, its operands read at issue (R137). -/
def State.atomic (s : State) (i : Issue) (t : Thread) (op : AtomicOp) (sd sa sb : BitVec 5) (la : BitVec 4) (w4 : Bool)
    (imm : BitVec 32) : State :=
  let n := uSize w4
  let a := t.uAddr sa imm
  match s.check i.place.die t.ctx .atomic a n with
  | .fail c => s.precise i t c a
  | .ok pa _ =>
    let k := s.nextId
    let cut (x : Word) : Word := w64 (x.toNat % 2 ^ (8 * n))
    let s1 := { s with nextId := k + 1 }.setThread i.place
      (t.addTag { openTag i k la.toNat with sds := [sd], u := [0], parts := 1 })
    s1.addReq (s.request i.place t k pa (.atomic op n a pa (cut (t.readS sb)) (cut (t.readS sd)))) .atomic a

/-- `aadd` (R137). -/
def execAadd (sd sa sb : BitVec 5) (la : BitVec 4) (w4 : Bool) (imm : BitVec 32) (s : State) :
    Host.Outcome State Fault Refusal := s.word fun i t => s.atomic i t .add sd sa sb la w4 imm
/-- `amin` (R137). -/
def execAmin (sd sa sb : BitVec 5) (la : BitVec 4) (w4 : Bool) (imm : BitVec 32) (s : State) :
    Host.Outcome State Fault Refusal := s.word fun i t => s.atomic i t .min sd sa sb la w4 imm
/-- `amax` (R137). -/
def execAmax (sd sa sb : BitVec 5) (la : BitVec 4) (w4 : Bool) (imm : BitVec 32) (s : State) :
    Host.Outcome State Fault Refusal := s.word fun i t => s.atomic i t .max sd sa sb la w4 imm
/-- `aand` (R137). -/
def execAand (sd sa sb : BitVec 5) (la : BitVec 4) (w4 : Bool) (imm : BitVec 32) (s : State) :
    Host.Outcome State Fault Refusal := s.word fun i t => s.atomic i t .and sd sa sb la w4 imm
/-- `aor` (R137). -/
def execAor (sd sa sb : BitVec 5) (la : BitVec 4) (w4 : Bool) (imm : BitVec 32) (s : State) :
    Host.Outcome State Fault Refusal := s.word fun i t => s.atomic i t .or sd sa sb la w4 imm
/-- `axch` (R137). -/
def execAxch (sd sa sb : BitVec 5) (la : BitVec 4) (w4 : Bool) (imm : BitVec 32) (s : State) :
    Host.Outcome State Fault Refusal := s.word fun i t => s.atomic i t .xch sd sa sb la w4 imm
/-- `acas`: compares with s[sd] as it stands at issue (R137). -/
def execAcas (sd sa sb : BitVec 5) (la : BitVec 4) (w4 : Bool) (imm : BitVec 32) (s : State) :
    Host.Outcome State Fault Refusal := s.word fun i t => s.atomic i t .cas sd sa sb la w4 imm

/-! ### Vector accesses (R134) -/

/-- The lanes of a vector access with their addresses, active lanes ascending. -/
def laneAddrs (m : Word) (f : Nat → Word) : List (Nat × Word) := (activeLanes m).map fun j => (j, f j)

/-- A vector load: lane results go to v[vd] (R134). -/
def State.vectorLoad (s : State) (i : Issue) (t : Thread) (vd : BitVec 6) (pm : BitVec 3) (la : BitVec 4) (size : Nat)
    (f : Nat → Word) : State :=
  s.plainLoad i t .load size (laneAddrs (t.readP pm) f) fun n =>
    { openTag i n la.toNat with hasV := true, vd := vd, lanes := t.readP pm }

/-- A vector store from v[vd] (R134). -/
def State.vectorStore (s : State) (i : Issue) (t : Thread) (vd : BitVec 6) (pm : BitVec 3) (size : Nat) (f : Nat → Word) :
    State :=
  s.plainStore i t .store size (laneAddrs (t.readP pm) f) fun j => (lane (t.readV vd) j).toNat % 2 ^ (8 * size)

/-- `vld` (R134). -/
def execVld (vd : BitVec 6) (sa : BitVec 5) (pm : BitVec 3) (la : BitVec 4) (off : BitVec 15) (s : State) :
    Host.Outcome State Fault Refusal :=
  s.word fun i t => s.vectorLoad i t vd pm la 4 (unitAddr (t.vAddr sa off))
/-- `vst` (R134). -/
def execVst (vd : BitVec 6) (sa : BitVec 5) (pm : BitVec 3) (off : BitVec 15) (s : State) :
    Host.Outcome State Fault Refusal :=
  s.word fun i t => s.vectorStore i t vd pm 4 (unitAddr (t.vAddr sa off))
/-- `vlds` (R134). -/
def execVlds (vd : BitVec 6) (sa sx : BitVec 5) (pm : BitVec 3) (la : BitVec 4) (z : ESize) (off : BitVec 15) (s : State) :
    Host.Outcome State Fault Refusal :=
  s.word fun i t => s.vectorLoad i t vd pm la (esizeBytes z) (strideAddr (t.vAddr sa off) (t.readS sx))
/-- `vsts` (R134, R135). -/
def execVsts (vd : BitVec 6) (sa sx : BitVec 5) (pm : BitVec 3) (z : ESize) (off : BitVec 15) (s : State) :
    Host.Outcome State Fault Refusal :=
  s.word fun i t => s.vectorStore i t vd pm (esizeBytes z) (strideAddr (t.vAddr sa off) (t.readS sx))
/-- `vgath` (R134). -/
def execVgath (vd : BitVec 6) (sa : BitVec 5) (vb : BitVec 6) (pm : BitVec 3) (la : BitVec 4) (z : ESize)
    (off : BitVec 15) (s : State) : Host.Outcome State Fault Refusal :=
  s.word fun i t => s.vectorLoad i t vd pm la (esizeBytes z) (indexAddr (t.vAddr sa off) (t.readV vb))
/-- `vscat` (R134, R135). -/
def execVscat (vd : BitVec 6) (sa : BitVec 5) (vb : BitVec 6) (pm : BitVec 3) (z : ESize) (off : BitVec 15) (s : State) :
    Host.Outcome State Fault Refusal :=
  s.word fun i t => s.vectorStore i t vd pm (esizeBytes z) (indexAddr (t.vAddr sa off) (t.readV vb))
/-- `vpf`: a hint that changes nothing programs can see (R136). -/
def execVpf (_sa : BitVec 5) (_off : BitVec 15) (s : State) : Host.Outcome State Fault Refusal := s.word fun _ _ => s

/-! ### Stamped accesses (R12, R13, R139, R140) -/

/-- `lda` (R12). -/
def execLda (vd : BitVec 6) (sa sx sy : BitVec 5) (la : BitVec 4) (wait : Bool) (lag : BitVec 8) (s : State) :
    Host.Outcome State Fault Refusal :=
  s.word fun i t =>
    let a := t.readS sa
    match s.check i.place.die t.ctx .stampedLoad a 256 with
    | .fail c => s.precise i t c a
    | .ok pa _ =>
      let k := s.nextId
      let it := bits (t.readS sx) 0 32
      let s1 := { s with nextId := k + 1 }.setThread i.place (t.addTag { openTag i k la.toNat with
        hasV := true, vd := vd, lanes := BitVec.allOnes 64, sds := [sy], u := [0], parts := 1, isLda := true, addr := a,
        iter := it, lag := lag, wait := wait })
      s1.addReq (s.request i.place t k pa (.lda a pa it lag wait)) .lda a

/-- `ldas` (R140). -/
def execLdas (sa sy : BitVec 5) (la : BitVec 4) (s : State) : Host.Outcome State Fault Refusal :=
  s.word fun i t =>
    let a := t.readS sa
    match s.check i.place.die t.ctx .stampedLoad a 256 with
    | .fail c => s.precise i t c a
    | .ok pa _ =>
      let k := s.nextId
      let s1 := { s with nextId := k + 1 }.setThread i.place
        (t.addTag { openTag i k la.toNat with sds := [sy], u := [0], parts := 1 })
      s1.addReq (s.request i.place t k pa (.ldas a pa)) .ldas a

/-- A stamped store: checked and posted; the thread has now made one (R13, R139, R182). -/
def State.stampedStore (s : State) (i : Issue) (t : Thread) (a : Word) (body : Nat → ReqBody) : State :=
  match s.check i.place.die t.ctx .stampedStore a 256 with
  | .fail c => s.precise i t c a
  | .ok pa _ =>
    let k := s.nextId
    let s1 := { s with nextId := k + 1 }.setThread i.place { t with stampedNow := true }
    s1.addReq (s.request i.place t k pa (body pa)) .stamped a

/-- `sta` (R13). -/
def execSta (vd : BitVec 6) (sa sx : BitVec 5) (off : BitVec 15) (s : State) : Host.Outcome State Fault Refusal :=
  s.word fun i t =>
    let a := t.vAddr sa off
    s.stampedStore i t a fun pa => .sta a pa (t.stampArg sx) (t.readV vd)

/-- `stad` (R139). -/
def execStad (vd : BitVec 6) (sa sx : BitVec 5) (pm : BitVec 3) (off : BitVec 15) (s : State) :
    Host.Outcome State Fault Refusal :=
  s.word fun i t =>
    let a := t.vAddr sa off
    s.stampedStore i t a fun pa => .stad a pa (t.stampArg sx) (t.readV vd) (t.readP pm)

end Sys2Proof.Machine
end

