-- ==== Sys2Proof/Machine/Engine.lean ====
section
/-! DEFINITION. Engine operations: their queues, accumulators, completion, indications and late faults (R158, R254, R294,
R295, R306 to R308, R312, R346). -/

namespace Sys2Proof.Machine

/-! ### Save blocks of threads that are away (R346, R347) -/

/-- The save block of a thread that is saved and not restored. -/
def State.blockOf (s : State) (uid : Nat) : Option Saving := s.saving.find? fun v => v.uid = uid

/-- A physical address of a save block's byte; blocks lie in plain memory of the thread's context. -/
def State.blockPa (s : State) (v : Saving) (off : Nat) : Option Nat :=
  match s.translate v.place.die v.ctx .store (v.block + w64 off) with
  | .ok pa _ => some pa
  | .fail _ => none

/-- The word of a save block at an offset. -/
def State.blockRead (s : State) (v : Saving) (off : Nat) : Word :=
  match s.blockPa v off with
  | some pa => s.read64 pa
  | none => 0

/-- The state with a word of a save block written. -/
def State.blockWrite (s : State) (v : Saving) (off : Nat) (x : Word) : State :=
  match s.blockPa v off with
  | some pa => s.write64 pa x
  | none => s

/-! ### Accumulators (R293) -/

/-- The accumulators of a thread, present or ended. -/
def State.accsOf (s : State) (uid : Nat) : Vector Acc 4 :=
  match s.findThread uid with
  | some (_, t) => t.acc
  | none => lookupD (Vector.replicate 4 Acc.start) uid s.accs

/-- The state with an accumulator of a thread replaced. -/
def State.setAcc (s : State) (uid n : Nat) (a : Acc) : State :=
  match s.findThread uid with
  | some (p, t) => s.setThread p { t with acc := t.acc.setIfInBounds n a }
  | none => { s with accs := putKey uid ((s.accsOf uid).setIfInBounds n a) s.accs }

/-- Accumulator `n` of a thread. -/
def State.accOf (s : State) (uid n : Nat) : Acc := (s.accsOf uid).toList.getD n Acc.start

/-! ### Queues (R294) -/

/-- The queue of an operation: matrix 0, solver 1, `reds` 2, copy channel n 4 + n (R294, R331). -/
def TileOp.queue (o : TileOp) : Nat :=
  if o.op = 5 then 4 + o.fa else if 9 ≤ o.op && o.op ≤ 11 then 1 else if o.op = 24 then 2 else 0

/-- An operation that is the oldest of its thread's queue; `reds` operations do not wait for one another. -/
def State.opHead (s : State) (uid : Nat) : Option TileOp :=
  match s.ops.find? fun o => o.uid = uid with
  | none => none
  | some o =>
    if o.queue ≠ 2 && (s.ops.any fun x => x.owner = o.owner && x.queue = o.queue && x.seq < o.seq) then none else some o

/-- The state with an operation changed. -/
def State.modOp (s : State) (uid : Nat) (f : TileOp → TileOp) : State :=
  { s with ops := modFirst (fun o => o.uid = uid) f s.ops }

/-! ### Completion -/

/-- The state with an operation gone; an ended thread's accumulators go with its last one. -/
def State.dropOp (s : State) (o : TileOp) : State :=
  let ops := s.ops.filter fun x => x.uid ≠ o.uid
  { s with ops := ops, accs := if ops.any (fun x => x.owner = o.owner) then s.accs else dropKey o.owner s.accs }

/-- A history entry's faulted bit (R295). -/
def faultedBit : Word := 0x8000000000000000

/-- The thread with an operation's history entry marked faulted (R295, R307). -/
def Thread.markFault (t : Thread) (seq : Nat) : Thread :=
  { t with sys := { t.sys with history :=
      t.sys.history.setIfInBounds (seq % 32) (t.sys.history.toList.getD (seq % 32) 0 ||| faultedBit) } }

/-- Whether an operation has begun its reads, its writes or its contribution. -/
def TileOp.begun (o : TileOp) : Bool := o.phase != .queued || o.wrote ≠ 0

/-- Whether an operation has begun: a `tmmr` starts when the operation before it ends, and may then wait for its segments
(R254). -/
def State.opBegun (s : State) (o : TileOp) : Bool :=
  o.begun || (o.op = 3 && (s.opHead o.uid).isSome && !s.tableHeld o)

/-- An operation complete with its indications: they wait with the thread for a `twait`, or go to the block of a saved
thread; those of an ended thread are discarded (R231, R306, R346). -/
def State.opDone (s : State) (o : TileOp) : State :=
  let s1 := s.dropOp o
  match s1.blockOf o.owner with
  | some v =>
    { s1.blockWrite v 0x6E8 (s1.blockRead v 0x6E8 ||| zx o.ind) with
      saving := modFirst (fun x => x.uid = o.owner) (fun x => { x with inds := x.inds ++ [(o.seq, o.ind)] }) s1.saving }
  | none =>
    match s1.findThread o.owner with
    | some (p, t) => s1.setThread p { t with unmerged := t.unmerged ++ [(o.seq, o.ind)] }
    | none => s1

/-- An operation that faults late: its history entry is marked, the thread's later operations that have not begun
complete without effect, and the trap waits for a boundary (R254, R307, R308); the fault of an ended thread's operation is
logged (R231), and that of a saved thread goes to its block (R346). -/
def State.opFault (s : State) (o : TileOp) (cause info : Word) : State :=
  let s0 := s.dropOp o
  let s1 : State := { s0 with ops := s0.ops.map fun (x : TileOp) =>
    if x.owner = o.owner && o.seq < x.seq && !s.opBegun x then { x with skip := true } else x }
  match s1.blockOf o.owner with
  | some v =>
    let h := 0x500 + 8 * (o.seq % 32)
    let s2 := s1.blockWrite v h (s1.blockRead v h ||| faultedBit)
    if s2.blockRead v 0x6F0 = 0 then
      { (s2.blockWrite v 0x6F0 cause).blockWrite v 0x6F8 info with
        saving := modFirst (fun x => x.uid = o.owner) (fun x => { x with opFault := true }) s2.saving }
    else s2
  | none =>
    match s1.findThread o.owner with
    | some (p, t) => s1.setThread p { t.markFault o.seq with lateFaults := t.lateFaults ++ [(cause, info, true)] }
    | none => s1.faultRecord o.ctx 2 (bits cause 0 8) o.wid 0 info

/-- A TILE fault of an operation (R307). -/
def State.tileFault (s : State) (o : TileOp) (sub : BitVec 4) : State :=
  s.opFault o (trapCause causeTile sub false 0) (w64 o.seq)

/-- The state after a copy's group is written: the count of its channel advances (R304). -/
def State.copyCount (s : State) (o : TileOp) (n : Nat) : State :=
  let add (x : Word) : Word := w64 ((x.toNat + n) % 2 ^ 36)
  match s.blockOf o.owner with
  | some v =>
    let off := 0x200 + 8 * (0x0C + o.fa)
    s.blockWrite v off (add (s.blockRead v off))
  | none =>
    match s.findThread o.owner with
    | some (p, t) => s.setThread p { t with sys := { t.sys with
        cwp := t.sys.cwp.setIfInBounds o.fa (add (t.sys.cwp.toList.getD o.fa 0)) } }
    | none => s

/-- The bytes of the group of a copy that starts at byte `b`: to the end of the destination's 256-byte block (R303). -/
def copyGroup (d len b : Nat) : Nat := min (len - b) (256 - (d + b) % 256)

/-- What follows when the last answer an operation awaits has come: its reads are answered; or, its writes being performed, a
copy's next group is due, or the copy is complete or stops at a byte that could not be read; a drain with a wake node has
still to wake it; the others are complete (R294, R300, R303). -/
def State.opSettled (s : State) (o : TileOp) : State :=
  if !o.waitFor.isEmpty then s
  else if o.phase == .reading then s.modOp o.uid fun x => { x with phase := .read }
  else if o.phase == .wakeReading then s.modOp o.uid fun x => { x with phase := .wakeRead }
  else if o.phase != .writing then s
  else if o.op = 5 then
    let s1 := s.copyCount o o.piece
    match o.bad with
    | some (c, va) => s1.opFault o (zx c) va
    | none =>
      if (o.regs.getD 2 0).toNat ≤ o.wrote + o.piece then s1.opDone o
      else s1.modOp o.uid fun x => { x with phase := .queued, wrote := x.wrote + x.piece, reads := [] }
  else if o.op = 4 && o.regs.getD 0 0 ≠ 0 then s.modOp o.uid fun x => { x with phase := .waking }
  else s.opDone o

/-- The lower-addressed of two failing elements (R308). -/
def lowerBad (x : BitVec 8 × Word) : Option (BitVec 8 × Word) → BitVec 8 × Word
  | some y => if y.2 ≤ x.2 then y else x
  | none => x

/-- An operation with what an answer gives it. -/
def TileOp.taking (o : TileOp) : RespBody → TileOp
  | .values vs => { o with reads := o.reads ++ vs }
  | .part vs c va => { o with reads := o.reads ++ vs, bad := some (lowerBad (c, va) o.bad) }
  | .trap _ c va => { o with bad := some (lowerBad (c, va) o.bad) }
  | _ => o

/-- The state after an engine operation gets an answer to a request (R158). -/
def State.opAnswered (s : State) (uid req : Nat) (b : RespBody) : State :=
  let s1 := s.modOp uid fun o => { o.taking b with waitFor := o.waitFor.erase req }
  match s1.ops.find? fun o => o.uid = uid with
  | some o => s1.opSettled o
  | none => s1

/-- An operation that writes nothing more, or whose writes are sent: it awaits their answers (R294). -/
def State.opWrites (s : State) (o : TileOp) (reqs : List Req) : State :=
  let o' := { o with phase := .writing, waitFor := reqs.map (·.req) }
  ({ s with sends := s.sends ++ reqs }.modOp o.uid fun _ => o').opSettled o'

/-- A request of an engine operation; its number is drawn by the caller (R158). -/
def engineReq (o : TileOp) (n pa : Nat) (body : ReqBody) : Req :=
  { req := n, owner := o.uid, wid := 0, ctx := o.ctx, src := o.place.die, srcCore := o.place.core, dest := paHome pa,
    core := paOwner pa, engine := true, retries := 0, notBefore := none, ordered := false, hops := 0, body }

/-- The read requests of grouped elements, numbered from `n` (R131, R158). -/
def readReqs (o : TileOp) (n : Nat) : List (List Elem) → List Req
  | [] => []
  | g :: r => engineReq o n (groupPa g) (.load g) :: readReqs o (n + 1) r

/-- The elements of an engine's read that can be translated, with the failing one of the lowest address (R308). -/
def State.engineElems (s : State) (o : TileOp) (a : Access) :
    List (Nat × Word × Nat) → List Elem × Option (BitVec 8 × Word)
  | [] => ([], none)
  | (k, va, size) :: r =>
    let x := s.engineElems o a r
    match s.translate o.place.die o.ctx a va with
    | .ok pa _ => (⟨k, va, pa, size⟩ :: x.1, x.2)
    | .fail c => (x.1, some (lowerBad (c, va) x.2))

/-- The state after an operation sends its reads (R158); with nothing that can be read it faults at once (R308). -/
def State.opReads (s : State) (o : TileOp) (a : Access) (phase : OpPhase) (xs : List (Nat × Word × Nat)) : State :=
  let es := s.engineElems o a xs
  match es.1, es.2 with
  | [], some (c, va) => s.opFault o (zx c) va
  | _, _ =>
    let reqs := readReqs o s.nextId (groupsOf es.1)
    { s with nextId := s.nextId + reqs.length, sends := s.sends ++ reqs }.modOp o.uid fun (x : TileOp) =>
      { x with phase := phase, waitFor := reqs.map fun (q : Req) => q.req, reads := [], bad := es.2 }

/-- Value `k` of an operation's reads. -/
def TileOp.val (o : TileOp) (k : Nat) : Nat := (lookupD 0 k o.reads).toNat

/-- What an operation does with its operands: it sends for them first, and faults where one cannot be read (R158, R308). -/
def State.withReads (s : State) (o : TileOp) (xs : List (Nat × Word × Nat)) (f : State) : State :=
  if o.phase == .queued then s.opReads o .load .reading xs
  else match o.bad with
    | some (c, va) => s.opFault o (zx c) va
    | none => f

/-! ### Issue (R290, R294, R295) -/

/-- A history entry (R295). -/
def historyWord (op fa fb fc : Nat) (pc : Word) : Word :=
  w64 (fc * 2 ^ 59 + fb * 2 ^ 55 + fa * 2 ^ 51 + op * 2 ^ 45) ||| zx (bits pc 3 45)

/-- Whether a fault of one of the thread's operations waits for delivery: with the thread, or, in a PREEMPT handler, in its
save block (R254, R346). -/
def State.faultWaits (s : State) (t : Thread) : Bool :=
  (t.lateFaults.any fun f => f.2.2) || (t.priv && (s.blockOf t.uid).any fun v => v.opFault && s.blockRead v 0x6F0 ≠ 0)

/-- An operation taking the thread's next sequence number: it waits while one 32 before it is outstanding; it completes without effect
if a fault of an earlier one waits for delivery (R254, R294, R295). -/
def State.issueOp (s : State) (i : Issue) (t : Thread) (op fa fb fc : Nat) (descs : List (BitVec 128)) (regs : List Word)
    (vec : VReg) : State :=
  if !s.seqFree t then s.wait i t .stall
  else
    let seq := (t.sys.tseq + 1).toNat
    let o : TileOp :=
      { uid := s.nextId, owner := t.uid, place := i.place, ctx := t.ctx, wid := s.widAt i.place, seq, op, fa, fb, fc, descs,
        regs, vec, rnd := bits t.sys.rndmode 0 2, regeps := t.sys.regeps, skip := s.faultWaits t,
        phase := .queued, waitFor := [], ind := 0, wrote := 0, piece := 0, reads := [], bad := none }
    let h := if op = 24 then historyWord op 0 0 0 i.pc else historyWord op fa fb fc i.pc
    { s with nextId := s.nextId + 1, ops := s.ops ++ [o] }.setThread i.place { t with sys := { t.sys with
      tseq := w64 seq, history := t.sys.history.setIfInBounds (seq % 32) h } }

end Sys2Proof.Machine
end

