-- ==== Sys2Proof/Machine/Ordering.lean ====
section
/-! DEFINITION. The steps of the ordering machine: send, deliver, perform and respond (R12, R13, R131, R137 to R142, R146,
R149 to R157, R175 to R180). A step that is not permitted changes nothing (log 10). -/

namespace Sys2Proof.Machine

/-! ### What is performed (R152, R155) -/

/-- Whether a request in an inbound log counts as performed: a store, acknowledged when it was appended (R355). -/
def Req.isWrite (r : Req) : Bool :=
  match r.body with
  | .store _ _ | .merge _ _ => true
  | _ => false

/-- A request of an owner numbered below `n` that is still to be performed: sent or not, or answered "retry", or a wait
whose acceptance is still to be delivered (R152, R155). -/
def State.unperformed (s : State) (owner n : Nat) : Bool :=
  let early (r : Req) : Bool := r.owner = owner && r.req < n
  s.sends.any early || s.chans.any early || s.arrivals.any early ||
  (s.logged.any fun x => match x with | .req r => !r.isWrite && early r | _ => false) ||
  (s.resps.any fun r => match r.body with | .retry q => early q | _ => false) ||
  (s.dies.any fun d => d.2.monitor.any fun m => m.owner = owner && m.req < n &&
    !(s.outs.any fun o => o.owner = owner ∧ o.req = m.req ∧ o.accepted))

/-- Whether a request is a stamped store. -/
def Req.isStamped (r : Req) : Bool :=
  match r.body with
  | .sta _ _ _ _ | .stad _ _ _ _ _ => true
  | _ => false

/-- Whether a request is a wait-mode `lda`. -/
def Req.isWait (r : Req) : Bool :=
  match r.body with
  | .lda _ _ _ _ w => w
  | _ => false

/-- An earlier wait of a thread to a die, sent and not accepted (R152). -/
def State.waitSent (s : State) (r : Req) : Bool :=
  let early (q : Req) : Bool := q.owner = r.owner && q.dest = r.dest && q.req < r.req && q.isWait
  s.chans.any early || s.arrivals.any early ||
  (s.resps.any fun q => match q.body with | .retry x => early x | _ => false) ||
  (s.outs.any fun o => o.owner = r.owner && o.dest = r.dest && o.req < r.req && o.cls == .lda && !o.accepted &&
    (s.dies.any fun d => d.2.monitor.any fun m => m.owner = r.owner && m.req = o.req))

/-- Whether the slot a request comes from waits for a clear notice (R184). -/
def State.clearDue (s : State) (w : BitVec 24) : Bool := (s.slot (widPlace w)).noticed.contains (widGen w)

/-- Whether the earlier groups of a request's word are performed, where they are performed one after another (R98, R162). -/
def State.inTurn (s : State) (r : Req) : Bool :=
  let same (q : Req) : Bool := q.owner = r.owner && q.req = r.req
  !r.ordered || ((s.sends.find? same).all (·.dest = r.dest) && !s.chans.any same && !s.arrivals.any same &&
    !(s.logged.any fun x => match x with | .req q => same q | _ => false))

/-- Whether a request touches the node at a physical address. -/
def Req.touches (r : Req) (pa : Nat) : Bool :=
  let hit (a n : Nat) : Bool := a < pa + 32 && pa < a + n
  match r.body with
  | .load es => es.any fun e => hit e.paddr e.size
  | .store _ bs => bs.any fun b => hit b.1 1
  | .merge _ bs => bs.any fun b => hit b.1 1
  | .atomic _ n _ a _ _ => hit a n
  | _ => false

/-- The node that a request zeroes. -/
def Req.node (r : Req) : Nat :=
  match r.body with
  | .store _ bs => (bs.head?.map (·.1)).getD 0
  | _ => 0

/-- Whether the zeroing of a node that an earlier `free` of a request's die posted is still to travel ahead of it: it is not
sent, or, for an engine's request, which travels another channel, not performed (R160, R203, R229). -/
def State.zeroAhead (s : State) (r : Req) : Bool :=
  let ahead (z : Req) : Bool :=
    z.zeroes && z.src = r.src && z.dest = r.dest && z.req < r.req && z.owner ≠ r.owner && r.touches z.node
  s.sends.any ahead || (r.engine && (s.chans.any ahead || s.arrivals.any ahead))

/-- Whether a request may be sent (R152, R160, R184, R320). -/
def State.maySend (s : State) (r : Req) : Bool :=
  s.routeClear r.src r.dest && !s.zeroAhead r &&
  (r.engine ||
  (!(r.isStamped && (s.unperformed r.owner r.req || s.clearDue r.wid)) && !s.waitSent r &&
    (match r.notBefore with
      | some c => c ≤ s.cycle
      | none => true) && s.inTurn r))

/-- The state after the oldest request of a send list has moved to its channel (R152). -/
def State.sendFirst (s : State) (owner e : Nat) (retried : Bool) : State :=
  match s.sends.find? fun r => r.owner = owner ∧ r.dest = e with
  | none => s
  | some r =>
    if s.maySend r && r.notBefore.isSome == retried then
      { s with sends := dropFirst (fun q => q.owner = owner && q.dest = e) s.sends
               chans := s.chans ++ [{ r with notBefore := none, hops := s.hops r.src e, sentAt := s.cycle }] }
    else s

/-- SEND (R152). -/
def execSend (owner : Nat) (e : Nat) (s : State) : Host.Outcome State Fault Refusal := .next (s.sendFirst owner e false)

/-- MONITOR_RETRY: a retried `lda` is sent again 512 cycles after its answer (R180). -/
def execMonitorRetry (owner : Nat) (e : Nat) (s : State) : Host.Outcome State Fault Refusal :=
  .next (s.sendFirst owner e true)

/-- DELIVER; nothing is delivered to a die out of service (R153, R320). -/
def execDeliver (d : Nat) (e : Nat) (engine : Bool) (s : State) : Host.Outcome State Fault Refusal :=
  let mine (r : Req) : Bool := r.src = d && r.dest = e && r.engine = engine
  match s.chans.find? mine with
  | none => .next s
  | some r =>
    if (s.die e).outOfService then .next s
    else .next { s with chans := dropFirst mine s.chans, arrivals := s.arrivals ++ [{ r with lat := s.cycle - r.sentAt }] }

/-! ### Performing (R154) -/

/-- The head of a die's arrival queue. -/
def State.arrival (s : State) (e : Nat) : Option Req := s.arrivals.find? fun r => r.dest = e

/-- The state with the head of a die's arrival queue taken. -/
def State.popArrival (s : State) (e : Nat) : State := { s with arrivals := dropFirst (fun r => r.dest = e) s.arrivals }

/-- The virtual address of a request's first byte. -/
def ReqBody.vaddr : ReqBody → Word
  | .load es => groupAddr es
  | .store va _ | .merge va _ | .atomic _ _ va _ _ _ | .lda va _ _ _ _ | .ldas va _ | .sta va _ _ _ | .stad va _ _ _ _
  | .result _ _ _ va _ _ _ _ => va
  | .packet _ _ _ => 0

/-- The state with an answer appended. -/
def State.answer (s : State) (r : Req) (b : RespBody) : State :=
  { s with resps := s.resps ++ [⟨r.req, r.owner, r.dest, r.src, r.hops, r.lat, s.cycle, r.body.vaddr, b, false⟩] }

/-- Whether a request is for the scratchpad of a core its context has been evicted from (R355). -/
def State.evictedAt (s : State) (r : Req) : Bool :=
  match r.core with
  | some c => (s.core r.dest c).evicted.any fun e => e.1 = r.ctx
  | none => false

/-- The values of elements, in order. -/
def State.elemValues (s : State) (es : List Elem) : List (Nat × Word) :=
  es.map fun e => (e.lane, w64 (s.readNat e.paddr e.size))

/-- The lowest address of elements. -/
def lowestAddr (es : List Elem) : Word := es.foldl (fun a e => if e.vaddr < a then e.vaddr else a) (groupAddr es)

/-- The values of a load group, or the lowest lane with an uncorrectable error; an engine gets what could be read, and the
lowest failing address (R131, R146, R303, R308). -/
def State.loadGroup (s : State) (engine : Bool) (es : List Elem) : RespBody :=
  match es.filter fun e => s.badRange e.paddr e.size with
  | [] => .values (s.elemValues es)
  | e :: bad =>
    if engine then .part (s.elemValues (es.filter fun e => !s.badRange e.paddr e.size)) causeMcheck (lowestAddr (e :: bad))
    else .trap e.lane causeMcheck e.vaddr

/-- Whether a write in part of an aligned 4-byte word meets an uncorrectable error in that word (R138, R146). -/
def State.subWordError (s : State) (bytes : List (Nat × Byte)) : Bool :=
  bytes.any fun b =>
    let w := b.1 / 4 * 4
    s.badRange w 4 && !((List.range 4).all fun k => bytes.any fun c => c.1 = w + k)

/-- The state after a group of bytes is written; an error found in a word written in part goes to management (R138,
R146). -/
def State.storeGroup (s : State) (bytes : List (Nat × Byte)) : State :=
  let bad := s.subWordError bytes
  let s1 := s.writePairs bytes
  if bad then s1.tell (.homeReadError ((bytes.head?.map (·.1)).getD 0)) else s1

/-- The bytes that nibble writes leave, each taking effect on the byte that the writes before it leave (R298). -/
def State.mergeBytes (s : State) (bs : List (Nat × Byte × Byte)) : List (Nat × Byte) :=
  bs.foldl (fun acc b => putKey b.1 ((lookupD (s.readByte b.1) b.1 acc &&& ~~~b.2.2) ||| (b.2.1 &&& b.2.2)) acc) []

/-- The new value of an atomic's element of `n` bytes (R137). -/
def atomicNew (op : AtomicOp) (n : Nat) (old b cmp : Word) : Word :=
  let m := 2 ^ (8 * n)
  let sg (x : Word) : Int := if x.toNat < m / 2 then x.toNat else (x.toNat : Int) - m
  match op with
  | .add => w64 ((old.toNat + b.toNat) % m)
  | .min => if sg old ≤ sg b then old else b
  | .max => if sg old ≤ sg b then b else old
  | .and => old &&& b
  | .or => old ||| b
  | .xch => b
  | .cas => if old = cmp then b else old

/-- The freshness test of a stamped load (R175). -/
def freshEnough (lag : BitVec 8) (stamp iter : BitVec 32) : Bool := lag = 255 || -(lag.toNat : Int) ≤ serial stamp iter

/-- The acceptance test of a stamped store (R175). -/
def accepts (n stamp : BitVec 32) : Bool := 0 ≤ serial n stamp

/-- The answer with a block and its stamp, or MCHECK (R146, R154). -/
def State.blockAnswer (s : State) (vaddr : Word) (pa : Nat) : RespBody :=
  if s.badRange pa 256 then .trap 0 causeMcheck vaddr else .block (s.readBlock pa) (s.stampOf pa)

/-- The answer that a request made of a monitor entry gets. -/
def State.answerEntry (s : State) (e : Nat) (m : MonEntry) (b : RespBody) : State :=
  { s with resps := s.resps ++ [⟨m.req, m.owner, e, m.src, m.hops, m.lat, s.cycle, m.vaddr, b, false⟩] }

/-- The state after the entries of a block whose bound the block's stamp meets are answered, in entry order (R154,
R176). -/
def State.answerMet (s : State) (e pa : Nat) : State :=
  let met (m : MonEntry) : Bool := m.paddr = pa && freshEnough m.lag (s.stampOf pa) m.iter
  let ms := (s.die e).monitor.filter met
  ms.foldl (fun (x : State) m => x.answerEntry e m (s.blockAnswer m.vaddr pa))
    (s.modDie e fun d => { d with monitor := d.monitor.filter fun m => !met m })

/-- The kind of monitor entry a request may take: an ordinary one while one of the 3,840 is free, else a reserved one with
four retries or more; none answers "retry" (R156, R180). -/
def Die.monitorEntry (d : Die) (retries : Nat) : Option Bool :=
  if (d.monitor.filter fun m => !m.reserved).length < Config.monitorOpen then some false
  else if 4 ≤ retries && (d.monitor.filter fun m => m.reserved).length < Config.monitorEntries - Config.monitorOpen then
    some true
  else none

/-- The step of an `lda` at its home (R12, R154, R156, R176). -/
def State.ldaStep (s : State) (r : Req) (va : Word) (pa : Nat) (iter : BitVec 32) (lag : BitVec 8) (wait : Bool) : State :=
  let w := s.writerOf pa
  if freshEnough lag (s.stampOf pa) iter then s.answer r (s.blockAnswer va pa)
  else if !wait then s.answer r (.trap 0 causeLag va)
  else if w ≠ 0 && (s.die r.dest).stopSet.contains w then s.answer r (.trap 0 causeStopped va)
  else match (s.die r.dest).monitorEntry r.retries with
  | some reserved =>
    (s.modDie r.dest fun d => { d with monitor := d.monitor ++
      [MonEntry.mk r.req r.owner r.wid r.ctx r.src va pa iter lag r.hops r.lat reserved] }).answer r .accepted
  | none => s.answer r (.retry { r with retries := min (r.retries + 1) 7 })

/-- The step of a stamped store at its home: written, stamped and claimed, or dropped (R13, R139, R154). -/
def State.staStep (s : State) (r : Req) (va : Word) (pa : Nat) (stamp : BitVec 32) (data : VReg) (lanes : Word) : State :=
  if accepts stamp (s.stampOf pa) then
    let s1 := s.writePairs ((activeLanes lanes).flatMap fun j =>
      (bytesOf 4 (lane data j).toNat).mapIdx fun k b => (pa + 4 * j + k, b))
    ((s1.setSide pa stamp r.wid).answer r .ack).answerMet r.dest pa
  else s.answer r (.regress va r.wid)

/-- A result store at its home: written with stamp n and no writer, or dropped; the acknowledgement goes to the member's
die, before any answer it releases (R314, R332). -/
def State.resultStep (s : State) (r : Req) (ctx g member : Nat) (pa : Nat) (stamp : BitVec 32) (data : VReg)
    (ind : BitVec 7) : State :=
  let ok := accepts stamp (s.stampOf pa)
  let a : Resp := ⟨r.req, r.owner, r.dest, member, r.hops, r.lat, s.cycle, r.body.vaddr, .result ctx g stamp ok ind, false⟩
  if ok then
    let s1 := (s.writeNat pa 256 data.toNat).setSide pa stamp 0
    { s1 with resps := s1.resps ++ [a] }.answerMet r.dest pa
  else { s with resps := s.resps ++ [a] }

/-- A request performed at its serialisation point, its answer appended (R154). An atomic that meets an uncorrectable error
tells management and takes the value as found (R146; log 68); `ldas` reads no data and so meets none (R140; log 69). -/
def State.perform (s : State) (r : Req) : State :=
  match r.body with
  | .load es => s.answer r (s.loadGroup r.engine es)
  | .store _ bs => (s.storeGroup bs).answer r .ack
  | .merge _ bs => (s.storeGroup (s.mergeBytes bs)).answer r .ack
  | .atomic op n _ pa b cmp =>
    let old := w64 (s.readNat pa n)
    let s1 := if s.badRange pa n then s.tell (.homeReadError pa) else s
    (if op = .cas && old ≠ cmp then s1 else s1.writeNat pa n (atomicNew op n old b cmp).toNat).answer r (.old old)
  | .lda va pa iter lag wait => s.ldaStep r va pa iter lag wait
  | .ldas _ pa => s.answer r (.values [(0, zx (s.sideband pa))])
  | .sta va pa stamp data => s.staStep r va pa stamp data (BitVec.allOnes 64)
  | .stad va pa stamp data lanes => s.staStep r va pa stamp data lanes
  | .result ctx g m _ pa stamp data ind => s.resultStep r ctx g m pa stamp data ind
  | .packet _ _ _ => s

/-- The block that a request's step is on (R131, R154). -/
def Req.block (r : Req) : Nat :=
  blockOf (match r.body with
    | .load es => groupPa es
    | .store _ bs => (bs.head?.map (·.1)).getD 0
    | .merge _ bs => (bs.head?.map (·.1)).getD 0
    | .atomic _ _ _ pa _ _ | .lda _ pa _ _ _ | .ldas _ pa | .sta _ pa _ _ | .stad _ pa _ _ _ | .result _ _ _ _ pa _ _ _ => pa
    | .packet _ _ _ => 0)

/-- The head of a die's arrival queue performed, if its kind is the one asked for, no step has been made on its block this
cycle, and no inbound log takes it (R154, R355). -/
def State.performHead (s : State) (e : Nat) (kind : ReqBody → Bool) : State :=
  match s.arrival e with
  | none => s
  | some r =>
    if kind r.body && !s.evictedAt r && !s.stepped.contains r.block then
      ({ s with stepped := r.block :: s.stepped }.popArrival e).perform r
    else s

/-- LOAD_PERFORM (R131, R154). -/
def execLoadPerform (e : Nat) (s : State) : Host.Outcome State Fault Refusal :=
  .next (s.performHead e fun b => match b with | .load _ => true | _ => false)
/-- STORE_PERFORM (R154). -/
def execStorePerform (e : Nat) (s : State) : Host.Outcome State Fault Refusal :=
  .next (s.performHead e fun b => match b with | .store _ _ | .merge _ _ => true | _ => false)
/-- ATOMIC_PERFORM (R137, R154). -/
def execAtomicPerform (e : Nat) (s : State) : Host.Outcome State Fault Refusal :=
  .next (s.performHead e fun b => match b with | .atomic _ _ _ _ _ _ => true | _ => false)
/-- LDA_PERFORM (R12). -/
def execLdaPerform (e : Nat) (s : State) : Host.Outcome State Fault Refusal :=
  .next (s.performHead e fun b => match b with | .lda _ _ _ _ _ => true | _ => false)
/-- LDAS_PERFORM (R140). -/
def execLdasPerform (e : Nat) (s : State) : Host.Outcome State Fault Refusal :=
  .next (s.performHead e fun b => match b with | .ldas _ _ => true | _ => false)
/-- STA_PERFORM; the result stores of a reduction too (R13, R314). -/
def execStaPerform (e : Nat) (s : State) : Host.Outcome State Fault Refusal :=
  .next (s.performHead e fun b => match b with | .sta _ _ _ _ | .result _ _ _ _ _ _ _ _ => true | _ => false)
/-- STAD_PERFORM (R139). -/
def execStadPerform (e : Nat) (s : State) : Host.Outcome State Fault Refusal :=
  .next (s.performHead e fun b => match b with | .stad _ _ _ _ _ => true | _ => false)

/-! ### Responding (R155) -/

/-- The head of a response queue; behind a die out of service only an answer that has passed it goes on (R320). -/
def State.respHead (s : State) (e d : Nat) : Option Resp :=
  (s.resps.find? fun r => r.src = e ∧ r.dest = d).filter fun r => r.passed || s.routeClear e d

/-- The state with the head of a response queue taken. -/
def State.popResp (s : State) (e d : Nat) : State :=
  { s with resps := dropFirst (fun r => r.src = e && r.dest = d) s.resps }

/-- The state with one access of an owner no longer outstanding. -/
def State.dropOut (s : State) (r : Resp) : State :=
  { s with outs := dropFirst (fun o => o.owner = r.owner && o.req = r.req && o.dest = r.src) s.outs }

/-- One value put to a tag's results: a lane of a vector result, or one of the uniform results. -/
def Tag.putValue (g : Tag) (x : Nat × Word) : Tag :=
  if g.hasV then { g with v := maskLanes (w64 (2 ^ x.1)) g.v fun _ => bits x.2 0 32 }
  else { g with u := g.u.set x.1 x.2 }

/-- A tag with one more group answered: with the last, its result is ready, or it ends in the trap of its lowest failing lane
(R43, R46, R146). -/
def Tag.answered (g : Tag) : Tag :=
  { g with
    parts := g.parts - 1
    state := if g.parts ≤ 1 && g.state == .waiting then (match g.fault with
      | some f => .trapped f.2.1 f.2.2
      | none => .ready) else g.state }

/-- A tag with one group answered by a trap: of several, the lowest lane's is kept (R98, R146); an image read as one load is
one element (R99, R292). -/
def Tag.trap (g : Tag) (lane : Nat) (c : BitVec 8) (info : Word) : Tag :=
  let info := if g.image && !g.ordered then g.addr else info
  let f := match g.fault with
    | some x => if x.1 ≤ lane then x else (lane, c, info)
    | none => (lane, c, info)
  { g with fault := some f }.answered

/-- The state with a thread's open operation changed. -/
def State.modTag (s : State) (p : Place) (n : Nat) (f : Tag → Tag) : State :=
  s.modThread p fun t => { t with tags := modFirst (fun g => g.req = n) f t.tags }

/-- The thread with the registers of a `regset` written once every read has returned: it opens no window (R98). -/
def Thread.loadSet (t : Thread) : Thread :=
  let whole (g : Tag) : Bool := g.ordered && !g.image && g.state == .ready
  let t1 := (t.tags.filter whole).foldl (fun (u : Thread) g => u.writeAll g.sds g.u) t
  { t1 with tags := t.tags.filter fun g => !whole g }

/-- An answer delivered to a thread (R155). -/
def State.deliverTo (s : State) (p : Place) (r : Resp) : State :=
  match r.body with
  | .values vs =>
    (((s.dropOut r).modTag p r.req fun g => (vs.foldl Tag.putValue g).answered).modThread p Thread.loadSet).figures p r
  | .old x => ((s.dropOut r).modTag p r.req fun g => (g.putValue (0, x)).answered).figures p r
  | .block d st =>
    ((s.dropOut r).modTag p r.req fun g => { g with v := d, u := [zx st] }.answered).figures p r
  | .trap l c info => ((s.dropOut r).modTag p r.req fun g => g.trap l c info).figures p r
  | .accepted =>
    { s with outs := modFirst (fun o => o.owner = r.owner && o.req = r.req) (fun o => { o with accepted := true }) s.outs }
  | .retry q => { s with sends := { q with notBefore := some (s.cycle + 512) } :: s.sends }
  | .ack => s.dropOut r
  | .part _ _ _ | .regress _ _ | .result _ _ _ _ _ | .packetOk | .packetNo => s

/-- The state after a migration packet is refused: sent again 512 cycles later (R323). -/
def State.packetRefused (s : State) (uid : Nat) : State :=
  match s.slots.find? fun e => match e.2.thread with | some t => t.uid = uid && t.away | none => false with
  | some (p, _) => s.modThread p fun t =>
      { t with migration := t.migration.map fun m => { m with phase := .refused s.cycle } }
  | none => s

/-- Whether RESPOND delivers an answer; the notice of a dropped store and a migration's acceptance have steps of their
own. -/
def RespBody.plain : RespBody → Bool
  | .regress _ _ | .result _ _ _ _ _ | .packetOk => false
  | _ => true

/-- RESPOND (R155). -/
def execRespond (e : Nat) (d : Nat) (s : State) : Host.Outcome State Fault Refusal :=
  match s.respHead e d with
  | none => .next s
  | some r =>
    if !r.body.plain then .next s
    else
      let s1 := s.popResp e d
      if r.body = .packetNo then .next (s1.packetRefused r.owner)
      else match s1.findThread r.owner with
        | some (p, _) => .next (s1.deliverTo p r)
        | none => .next ((s1.dropOut r).opAnswered r.owner r.req r.body)

/-- The notice queue with one more notice: a full queue loses it and marks its last entry (R178). -/
def addNotice (q : List Word) (a : Word) : List Word :=
  if q.length < 16 then q ++ [a] else q.mapIdx fun k x => if k = 15 then x ||| 1 else x

/-- The state with a notice put to the queue of a saved thread's block (R178, R347). -/
def State.blockNotice (s : State) (v : Saving) (a : Word) : State :=
  let w := s.blockRead v 0x6E0
  let n := (bits w 0 5).toNat
  if n < 16 then (s.blockWrite v (0x660 + 8 * n) a).blockWrite v 0x6E0 (w + 1)
  else (s.blockWrite v 0x6D8 (s.blockRead v 0x6D8 ||| 1)).blockWrite v 0x6E0 (w ||| 0x100)

/-- STAMP_REGRESS: the notice of a dropped store reaches its writer's queue (R178). -/
def execStampRegress (e : Nat) (d : Nat) (s : State) : Host.Outcome State Fault Refusal :=
  match s.respHead e d with
  | none => .next s
  | some r =>
    match r.body with
    | .regress va w =>
      let s1 := (s.popResp e d).dropOut r
      match s1.blockOf r.owner with
      | some v => .next (s1.blockNotice v va)
      | none =>
      match s1.findThread r.owner with
      | some (p, _) =>
        if s1.widAt p = w then .next (s1.modThread p fun t => { t with notices := addNotice t.notices va })
        else .next (s1.tell (.noticeDiscarded w))
      | none => .next (s1.tell (.noticeDiscarded w))
    | _ => .next s

end Sys2Proof.Machine
end

