-- ==== Sys2Proof/Machine/Issue.lean ====
section
/-! DEFINITION. The issue of a word: the slot's turn, the results due before it, its fetch and decoding, and what follows
it (R29, R34, R43, R63, R87, R90, R151). -/

namespace Sys2Proof.Machine

/-- The thread with an operation's results written to its destinations; the words of an image go to the word that reads it
(R43). -/
def Thread.writeResult (t : Thread) (g : Tag) : Thread :=
  if g.image then { t with image := t.image ++ g.u }
  else
    let t1 := if g.hasV then t.writeV g.vd (maskLanes g.lanes (t.readV g.vd) (lane g.v)) else t
    t1.writeAll g.sds g.u

/-- The thread with the results due written in the order their words issued, and any hold over; a served `alloc`
and a `ttab` keep their marks (R43, R217, R302). -/
def Thread.turn (t : Thread) (due : List Tag) : Thread :=
  let t1 := due.foldl Thread.writeResult t
  { t1 with
    tags := t.tags.filter fun g => !(due.any fun h => h.req = g.req)
    hold := match t.hold with
      | .quarry b => .quarry b
      | .table a m => .table a m
      | _ => .none }

/-- The state with a slot's turn taken: the issue pointer moves, and yielding threads of the core see that it has issued
(R29, R97). -/
def State.takeTurn (s : State) (p : Place) : State :=
  let s1 := s.modCore p.die p.core fun x => { x with issuePtr := p.slot, lastIssue := some s.cycle }
  { s1 with slots := s1.slots.map fun e =>
      if e.1.die = p.die && e.1.core = p.core then
        (e.1, { e.2 with thread := e.2.thread.map fun t => match t.hold with
          | .yielded c ks => { t with hold := .yielded c (ks.filter (· ≠ p.slot)) }
          | _ => t })
      else e }

/-- The start of a core's issue: none when no slot is ready; else the state with the word in its issue cycle and the
word, if it acts. A word that cannot be fetched traps at its address; an ill-formed word traps ILLEGAL whatever its guard
(R34, R63, R87). -/
def State.startIssue (s : State) (die core : Nat) : Option (State × Option Bundle) :=
  match s.nextSlot die core with
  | none => none
  | some p =>
    match s.thread? p with
    | none => none
    | some t =>
      let t1 := t.turn (s.dueTags p t)
      let i : Issue := { place := p, pc := t.pc, word := 0 }
      let s1 := { (s.takeTurn p).setThread p t1 with cur := some i }
      match s1.fetch die t1.ctx t.pc with
      | .error c => some (s1.precise i t1 c t.pc, none)
      | .ok w =>
        let i' : Issue := { i with word := w }
        let s2 := { s1 with cur := some i' }
        match decode w with
        | .error _ => some (s2.precise i' t1 causeIllegal w, none)
        | .ok b =>
          let g := match b with
            | .pair g _ _ => g
            | .long g _ => g
          some (s2, if t1.guardTrue g then some b else none)

/-- The numbers of the operations whose windows the word in its issue cycle belongs to (R43). -/
def State.windows (s : State) : List Nat :=
  match s.current with
  | none => []
  | some (_, t) => (t.tags.filter fun g => !g.frozen).map (·.req)

/-- The thread after a word has acted: the windows it belongs to count it, and the flow goes on; an operation of LA 0 that this
word has opened keeps what that changed, one that an `eret` has resumed what its own word changed (R43, R45, R90). -/
def Thread.advance (t : Thread) (i : Issue) (ws : List Nat) : Thread :=
  let tags := t.tags.map fun g =>
    if ws.contains g.req then { g with count := g.count - 1 }
    else if g.la = 0 && !g.frozen && g.pc = i.pc && g.undo.isNone then { g with undo := some (t.sys.lc0, t.sys.lc1, ws) }
    else g
  let u := { t with tags := tags, firstWord := false, image := [], reissue := none }
  match i.next with
  | some a => { u with pc := a }
  | none =>
    let r := t.sys.loopBack i.pc
    { u with sys := r.1, pc := r.2 }

/-- The thread as it stood before a word whose operation traps precisely from its home: its loop-back check and its count in
the windows it belongs to are undone (R8, R90). -/
def Thread.unissue (t : Thread) (g : Tag) : Thread :=
  match g.undo with
  | none => t
  | some (c0, c1, ws) =>
    { t with
      sys := { t.sys with lc0 := c0, lc1 := c1 }
      tags := t.tags.map fun h => if ws.contains h.req then { h with count := h.count + 1 } else h }

/-- The end of an issue cycle: a word that has acted is counted by its windows and the thread advances; one that trapped,
left its slot or waits is not (R43, R90). -/
def State.finishIssue (s : State) (ws : List Nat) : State :=
  match s.current with
  | none => { s with cur := none }
  | some (i, t) =>
    if i.moved then { s with cur := none } else { s.setThread i.place (t.advance i ws) with cur := none }

/-- Whether the word in its issue cycle has trapped, left its slot or waits. -/
def State.hasMoved (s : State) : Bool :=
  match s.cur with
  | some i => i.moved
  | none => true

end Sys2Proof.Machine
end

