-- ==== Sys2Proof/Machine/Threads.lean ====
section
/-! DEFINITION. Trap entry at a boundary, the end of a yield, and the start of launched threads (R11, R27, R45, R97, R338,
R340). -/

namespace Sys2Proof.Machine

/-- The thread with a due trap taken off what waits for it. -/
def Thread.consume (t : Thread) : DueTrap → Thread
  | .debug => { t with debugDue := false }
  | .tag g => ({ t with tags := dropFirst (fun h => h.req = g.req) t.tags } : Thread).unissue g
  | .late _ _ => { t with lateFaults := t.lateFaults.drop 1 }
  | .notice _ => { t with notices := t.notices.drop 1 }

/-- A due trap taken, R45 being complete (R46, R338, R340); a stamped load that was a handler's first word makes it
fatal (R341), and one of a PREEMPT handler ends it (R350). -/
def State.takeDue (s : State) (p : Place) (t : Thread) (d : DueTrap) : State :=
  let t1 := t.consume d
  match d with
  | .debug => s.enterTrap p t1 (zx causeDebug) t.pc 0
  | .tag g =>
    if t.priv then s.raise p t1 (g.cause t.pc) g.pc g.info
    else if g.first && g.la = 0 then s.fatal p t1 (bits (g.cause t.pc) 0 8) g.pc g.info
    else s.enterTrap p t1 (g.cause t.pc) g.pc g.info
  | .late c info => s.enterTrap p t1 c t.pc info
  | .notice a => s.enterTrap p t1 (zx causeRegress) t.pc a

/-- Whether a slot's thread can take a boundary trap now (R338, R340, R357). -/
def State.atBoundary (s : State) (p : Place) (t : Thread) : Bool :=
  !t.halted && !(s.die p.die).halt && t.pending.isNone && s.between p t

/-- TRAP_ENTRY: waiting loads are withdrawn, and once every open operation is complete the trap is entered (R45, R338,
R340). DEBUG without a handler enters none, and the slot stays halted with its waiting loads at their homes (R181, R357). -/
def execTrapEntry (p : Place) (s : State) : Host.Outcome State Fault Refusal :=
  match s.thread? p with
  | none => .next s
  | some t =>
    match t.pending with
    | some x =>
      let s1 := s.withdraw p t
      match s1.thread? p with
      | some t1 => .next (if t1.settled then s1.enterTrap p t1 x.cause x.pc x.info else s1)
      | none => .next s1
    | none =>
      if !s.atBoundary p t || (t.preempt.isSome && !t.priv) then .next s
      else match s.dueTrap p t with
        | none => .next s
        | some d =>
          if d = .debug && !s.handlerOk p t then .next (s.takeDue p t d) else
          let s1 := s.withdraw p t
          match s1.thread? p with
          | some t1 => .next (if t1.settled then s1.takeDue p t1 d else s1)
          | none => .next s1

/-- YIELD_RELEASE (R97). A slot that was ready when the `yield` issued and that empties without issuing is waited for no longer
(log 72). -/
def execYieldRelease (p : Place) (s : State) : Host.Outcome State Fault Refusal :=
  match s.thread? p with
  | none => .next s
  | some t =>
    match t.hold with
    | .yielded c ks =>
      if c ≤ s.cycle && (ks.all fun k => (s.thread? ⟨p.die, p.core, k⟩).isNone) then
        .next (s.setThread p { t with hold := .none })
      else .next s
    | _ => .next s

/-- A thread at its start: everything zero but what is given (R11, R28, R76). -/
def Thread.begin (uid ctx : Nat) (pc : Word) (regs : List Word) (trapvec nodeA : Word) : Thread :=
  { uid, ctx, pc, nodeA,
    s := Vector.ofFn fun k => if k.val = 0 then 0 else regs.getD k.val 0
    sys := { trapvec } }

/-- The state with a thread started in a free slot (R11, R27). -/
def State.startThread (s : State) (p : Place) (ctx : Nat) (pc : Word) (regs : List Word) (trapvec nodeA : Word) : State :=
  let n := s.nextId
  { s with nextId := n + 1 }.setThread p (Thread.begin n ctx pc regs trapvec nodeA)

/-- LAUNCH_FILL: the oldest released launch record of a free slot starts its thread and gives the slot its owner (R11,
R27, R30). -/
def execLaunchFill (p : Place) (s : State) : Host.Outcome State Fault Refusal :=
  let mine (l : LaunchRec) : Bool := l.place = p && !l.held
  match s.launches.find? mine with
  | none => .next s
  | some l =>
    if !s.slotFree p then .next s
    else
      let s1 := { s with launches := dropFirst mine s.launches }
      let s2 := s1.setSlot p { s1.slot p with owner := some l.ctx }
      .next (s2.startThread p l.ctx l.pc l.regs 0 0)

end Sys2Proof.Machine
end

