-- ==== Sys2Proof/Machine/Tile.lean ====
section
/-! DEFINITION. The tile, solver and reduction words as a thread issues them (R197, R290 to R296, R302, R306, R331). -/

namespace Sys2Proof.Machine

/-! ### Descriptors (R291, R292) -/

/-- Base address. -/
def descBase (d : BitVec 128) : Word := d.extractLsb' 0 64
/-- Selector: an exponent or the `inf` bit. -/
def descSel (d : BitVec 128) : BitVec 6 := d.extractLsb' 122 6
/-- Columns. -/
def descCols (d : BitVec 128) : Nat := descField d 111 7
/-- Rows. -/
def descRows (d : BitVec 128) : Nat := descField d 104 7
/-- Row stride in bytes, signed. -/
def descStride (d : BitVec 128) : Word := sx (d.extractLsb' 64 32)

/-- Whether a descriptor image obeys R291 (R292). -/
def descOk (d : BitVec 128) : Bool :=
  let f := descFmt d
  descField d 48 16 == 0 && descField d 96 8 == 0 && 1 ≤ descRows d && descRows d ≤ 64 && 1 ≤ descCols d &&
  descCols d ≤ 64 && f < 14 &&
  (if f = 13 then true else if f ≤ 7 then (descSel d).toNat ≤ 1 else descSel d == 0)

/-- `tdesc` (R292). -/
def execTdesc (d : BitVec 4) (s1 : BitVec 5) (s : State) : Host.Outcome State Fault Refusal :=
  s.word fun i t =>
    let a := t.readS s1
    if a.toNat % 16 ≠ 0 then s.precise i t causeAlign a
    else match t.image with
    | w0 :: w1 :: _ =>
      let x : BitVec 128 := w1 ++ w0
      if !descOk x then s.precise i t causeIllegal i.word else s.setThread i.place (t.writeD d x)
    | _ => s.fetchWords i t (wordAddrs a 2) false

/-! ### Operations that take a sequence number -/

/-- `tzero` (R296). -/
def execTzero (a : BitVec 2) (s1 s2 : BitVec 5) (s : State) : Host.Outcome State Fault Refusal :=
  s.word fun i t => s.issueOp i t 1 a.toNat 0 0 [] [t.readS s1, t.readS s2] 0

/-- `tmm` (R297). -/
def execTmm (a : BitVec 2) (da db : BitVec 4) (s : State) : Host.Outcome State Fault Refusal :=
  s.word fun i t => s.issueOp i t 2 a.toNat da.toNat db.toNat [t.readD da, t.readD db] [] 0

/-- `tmmr` (R271, R297). -/
def execTmmr (a : BitVec 2) (dx : BitVec 4) (k : BitVec 3) (s1 : BitVec 5) (s : State) :
    Host.Outcome State Fault Refusal :=
  s.word fun i t => s.issueOp i t 3 a.toNat dx.toNat k.toNat [t.readD dx] [t.readS s1] 0

/-- `tdrain`; a wake node is named when s1 is not s0 (R298, R300). -/
def execTdrain (a : BitVec 2) (dc : BitVec 4) (s1 : BitVec 5) (s : State) : Host.Outcome State Fault Refusal :=
  s.word fun i t => s.issueOp i t 4 a.toNat dc.toNat 0 [t.readD dc] [if s1 = 0 then 0 else 1, t.readS s1] 0

/-- `tcopy`: destination, source and length as read at issue (R303). -/
def execTcopy (ch : BitVec 2) (s1 s2 s3 : BitVec 5) (s : State) : Host.Outcome State Fault Refusal :=
  s.word fun i t => s.issueOp i t 5 ch.toNat 0 0 [] [t.readS s1, t.readS s2, t.readS s3] 0

/-- `tcnv` (R301). -/
def execTcnv (dd ds : BitVec 4) (s : State) : Host.Outcome State Fault Refusal :=
  s.word fun i t => s.issueOp i t 8 dd.toNat ds.toNat 0 [t.readD dd, t.readD ds] [] 0

/-- A solver word: FEATURE where the die lacks the datapath (R75, R197). -/
def State.solverOp (s : State) (i : Issue) (t : Thread) (op fa fb fc : Nat) (descs : List (BitVec 128))
    (regs : List Word) : State :=
  if !(s.die i.place.die).solver then s.precise i t causeFeature i.word else s.issueOp i t op fa fb fc descs regs 0

/-- `tqms` (R198). -/
def execTqms (dr da dx : BitVec 4) (s1 : BitVec 5) (s : State) : Host.Outcome State Fault Refusal :=
  s.word fun i t =>
    s.solverOp i t 9 dr.toNat da.toNat dx.toNat [t.readD dr, t.readD da, t.readD dx] [t.readS s1]

/-- `tlu` (R199). -/
def execTlu (dn : BitVec 4) (s : State) : Host.Outcome State Fault Refusal :=
  s.word fun i t => s.solverOp i t 10 dn.toNat 0 0 [t.readD dn] []

/-- `tsolv` (R200). -/
def execTsolv (dl dv : BitVec 4) (s : State) : Host.Outcome State Fault Refusal :=
  s.word fun i t => s.solverOp i t 11 dl.toNat dv.toNat 0 [t.readD dl, t.readD dv] []

/-- `reds` (R313, R331). -/
def execReds (s1 s2 : BitVec 5) (v : BitVec 6) (s : State) : Host.Outcome State Fault Refusal :=
  s.word fun i t => s.issueOp i t 24 0 0 0 [] [t.readS s1, t.readS s2] (t.readV v)

/-! ### Waiting and tables (R302, R306) -/

/-- `twait` once its operations are complete; one that covers nothing new merges nothing (R306). -/
def Thread.joinOps (t : Thread) (n : Nat) : Thread :=
  let cov := t.unmerged.filter fun u => u.1 ≤ n
  let t1 := t.mergeFlags (indAll (cov.map (·.2)))
  if n ≤ t.sys.tdone.toNat then t
  else { t1 with
    unmerged := t.unmerged.filter fun u => n < u.1
    sys := { t1.sys with tdone := w64 (max t.sys.tdone.toNat n) } }

/-- `twait` (R306). -/
def execTwait (s1 : BitVec 5) (s : State) : Host.Outcome State Fault Refusal :=
  s.word fun i t =>
    let n := min (t.readS s1).toNat t.sys.tseq.toNat
    if s.joined t.uid n then s.setThread i.place (t.joinOps n) else s.wait i t (.twait n)

/-- The tables of a core with one replaced (R302). -/
def Core.setTable (x : Core) (ctx tab : Nat) (img : Image) : Core :=
  let old := x.tablesOf ctx
  let new : Tables := match tab with
    | 0 => { old with c8 := old.c8.set 0 (BitVec.ofNat _ img.raw) }
    | 1 => { old with c8 := old.c8.set 1 (BitVec.ofNat _ img.raw) }
    | 2 => { old with c4 := old.c4.set 0 (BitVec.ofNat _ img.raw) }
    | _ => { old with c4 := old.c4.set 1 (BitVec.ofNat _ img.raw) }
  { x with tables := new :: x.tables.filter fun y => y.ctx ≠ ctx }

/-- The number that 8-byte words make, the first lowest. -/
def wordsNat : List Word → Nat
  | [] => 0
  | w :: r => w.toNat + 2 ^ 64 * wordsNat r

/-- The number before which operations were issued before a `ttab` that has issued once (R302). -/
def Thread.tableMark (t : Thread) : Option Nat :=
  match t.hold with
  | .table _ m => some m
  | _ => none

/-- `ttab`: the image is read and checked; the word waits while an operation of the context on the core issued before it
reads the table (R302). -/
def execTtab (tab : BitVec 2) (s1 : BitVec 5) (s : State) : Host.Outcome State Fault Refusal :=
  s.word fun i t =>
    let a := t.readS s1
    let c4 := tab.getLsbD 1
    if a.toNat % 16 ≠ 0 then s.precise i t causeAlign a
    else
      let u := { t with hold := .table tab.toNat (t.tableMark.getD s.nextId) }
      if t.image.length < imageBytes c4 / 8 then
        s.fetchRun i u ((wordAddrs a (imageBytes c4 / 8)).drop t.image.length)
      else
        let img : Image := ⟨c4, wordsNat t.image⟩
        if !img.ok then s.precise i t causeIllegal i.word
        else if !s.holdOver i.place u then s.wait i u u.hold
        else
          (s.setThread i.place { t with hold := .none }).modCore i.place.die i.place.core fun x =>
            x.setTable t.ctx tab.toNat img

end Sys2Proof.Machine
end

