-- ==== Sys2Proof/Machine/Tiles.lean ====
section
/-! DEFINITION. Tiles in memory and the arithmetic of the tile unit: element decoding, exact K-sums, drains, conversions and
the Q32 solver (R194 to R200, R274, R278, R282, R284, R291, R297 to R299, R301). -/

namespace Sys2Proof.Machine

/-! ### Elements (R274, R291) -/

/-- The bytes of an element; a code4 element lies in one byte (R274). -/
def elemBytes (fmt : Nat) : Nat := if fmt < 8 then 1 else if fmt = 9 || fmt = 10 then 2 else 4

/-- The address of the byte or bytes of element (i,j) (R291). -/
def elemAddr (d : BitVec 128) (i j : Nat) : Word :=
  descBase d + w64 i * descStride d +
    (if isCode4 (descFmt d) then w64 (j / 2) else w64 (j * elemBytes (descFmt d)))

/-- The positions of a tile's elements, row by row. -/
def tileIdx (rows cols : Nat) : List (Nat × Nat) :=
  (List.range rows).flatMap fun i => (List.range cols).map fun j => (i, j)

/-- The positions of a descriptor's elements. -/
def descIdx (d : BitVec 128) : List (Nat × Nat) := tileIdx (descRows d) (descCols d)

/-- Rows and columns of 1 to 64 (R291). A descriptor that `tdesc` has loaded always has them; one that came back from an edited
save block need not, and then the operation that names it faults SHAPE (log 67). -/
def descShape (d : BitVec 128) : Bool := 1 ≤ descRows d && descRows d ≤ 64 && 1 ≤ descCols d && descCols d ≤ 64

/-- Rows and columns of 1 to 64, base and stride multiples of the element size, and every element's address with bits 63:48
zero (R291, R299). -/
def descAligned (d : BitVec 128) : Bool :=
  let z := elemBytes (descFmt d)
  descShape d && (descBase d).toNat % z == 0 && (descStride d).toNat % z == 0 && ((descIdx d).all fun e => bits (elemAddr d e.1 e.2) 48 16 == 0)

/-- What an operation reads of its tiles, element by element: number, address and size (R291, R298). -/
def tileReads (ds : List (BitVec 128)) : List (Nat × Word × Nat) :=
  (ds.flatMap fun d => (descIdx d).map fun e => (elemAddr d e.1 e.2, elemBytes (descFmt d))).mapIdx fun k x => (k, x.1, x.2)

/-- The raw elements of a tile as read, the tiles before it given: the nibble for a code4 format (R291). -/
def TileOp.tileVals (o : TileOp) (before : List (BitVec 128)) (d : BitVec 128) : List Nat :=
  let k0 := (before.map fun b => descRows b * descCols b).sum
  (descIdx d).mapIdx fun k e =>
    let v := o.val (k0 + k)
    if isCode4 (descFmt d) then (if e.2 % 2 = 0 then v % 16 else v / 16) else v

/-! ### Products (R278, R282, R297) -/

/-- An E8M10 pattern quietened, with the invalid of a signalling NaN. -/
def quietE8 (x : Nat) : Nat × Ind :=
  if e8m10.isNaN x then (e8m10.quiet x, indIf (e8m10.isSNaN x) indInvalid) else (x, 0)

/-- A raw element of format 0 to 10 as a quiet E8M10 pattern, with its indications (R278, R282). -/
def toProduct (tabs : Tables) (fmt raw : Nat) : Nat × Ind :=
  if fmt < 8 then quietE8 ((formatImage tabs fmt).entry raw)
  else if fmt = 8 then convertFmt fp32 e8m10 .rne raw
  else if fmt = 9 then convertFmt fp16 e8m10 .rne raw
  else convertFmt bf16 e8m10 .rne raw

/-- A K-sum: a quiet NaN as FP32, an infinity, or an exact value in units of 2^−272 with the sign of a zero. -/
inductive KSum where
  | nan (fp : Nat)
  | inf (neg : Bool)
  | val (x : Int) (negZero : Bool)
  deriving DecidableEq, Repr, Inhabited

/-- Whether a pattern's value is infinite. -/
def Num.isInf : Num → Bool
  | .inf _ => true
  | _ => false

/-- Whether a value is a zero. -/
def Num.isZero : Num → Bool
  | .zero _ => true
  | _ => false

/-- The sign of a value. -/
def Num.isNeg : Num → Bool
  | .nan _ => false
  | .inf n => n
  | .zero n => n
  | .fin n _ _ => n

/-- The exact K-sum of pairs of E8M10 patterns (R297). -/
def kSum (ps : List (Nat × Nat)) : KSum × Ind :=
  match (ps.flatMap fun p => [p.1, p.2]).find? e8m10.isNaN with
  | some x => (.nan (x * 2 ^ 13), 0)
  | none =>
    let ms := ps.map fun p => (e8m10.num p.1).mul (e8m10.num p.2)
    let infs (n : Bool) : Bool := ms.any fun m => m == some (.inf n)
    if (ms.any Option.isNone) || (infs true && infs false) then (.nan fp32.defaultNaN, indInvalid)
    else if infs true then (.inf true, 0)
    else if infs false then (.inf false, 0)
    else
      let xs := ms.map fun m => match m with
        | some (.fin n a e) => atExp n a e (-272)
        | _ => 0
      (.val xs.sum (ms.all fun m => m == some (.zero true)), 0)

/-- AddRound of an FP32 element and a K-sum (R297). -/
def addRound (c : Nat) (k : KSum) : Nat × Ind :=
  if fp32.isNaN c then (c, 0)
  else match k with
  | .nan x => (x, 0)
  | .inf n =>
    if (fp32.num c).isInf && fp32.neg c != n then (fp32.defaultNaN, indInvalid) else (fp32.signed n fp32.infMag, 0)
  | .val x nz =>
    match fp32.num c with
    | .inf n => (fp32.signed n fp32.infMag, 0)
    | .fin n m e => fp32.roundInt .rne (atExp n m e (-272) + x) (-272) false
    | .zero n => fp32.roundInt .rne x (-272) (n && x = 0 && nz)
    | .nan _ => (c, 0)

/-- Element (i,j) of an accumulator (R293). -/
def Acc.elem (a : Acc) (i j : Nat) : Nat := (a.elems.extractLsb' (32 * (64 * i + j)) 32).toNat

/-- The elements of an accumulator as a number, element by element. -/
def accNat (f : Nat → Nat → Nat) : Nat → Nat
  | 0 => 0
  | n + 1 => accNat f n + f (n / 64) (n % 64) * 2 ^ (32 * n)

/-- The accumulator with elements given by a function. -/
def Acc.ofElems (a : Acc) (f : Nat → Nat → Nat) : Acc := { a with elems := BitVec.ofNat _ (accNat f 4096) }

/-- A product's operands: A(i,j) and B(j,k) as E8M10 patterns, +0 outside their tiles. -/
structure Operands where
  a : Nat → Nat → Nat
  b : Nat → Nat → Nat

/-- The elements of a row-major list as a function, +0 outside the columns. -/
def matOf (cols : Nat) (vs : List Nat) (i j : Nat) : Nat := if j < cols then vs.getD (i * cols + j) 0 else 0

/-- A product added into an accumulator: each element of Rows × Cols by its K-sum (R297). -/
def Acc.product (a : Acc) (rows cols fa fb : Nat) (x : Operands) : Acc × Ind :=
  let res := (tileIdx rows cols).map fun e =>
    let k := kSum ((List.range 64).map fun j => (x.a e.1 j, x.b j e.2))
    let r := addRound (a.elem e.1 e.2) k.1
    (e, r.1, k.2 ||| r.2)
  let new := a.ofElems fun i j =>
    if i < rows && j < cols then ((res[i * cols + j]?).map (·.2.1)).getD 0 else a.elem i j
  ({ new with fA := some (BitVec.ofNat 4 fa), fB := some (BitVec.ofNat 4 fb), vr := max a.vr rows, vc := max a.vc cols },
    indAll (res.map (·.2.2)))

/-- Whether a chain's pair excludes an operation's (R297). -/
def Acc.mixes (a : Acc) (fa fb : Nat) : Bool :=
  !a.isSet || (a.fA.isSome && !(a.fA = some (BitVec.ofNat 4 fa) && a.fB = some (BitVec.ofNat 4 fb)))

/-! ### Drains and conversions (R298, R301) -/

/-- A value to store: a number, with a quiet FP32 pattern where it is a NaN. -/
structure Stored where
  num : Num
  nan : Nat

/-- The exact triple product of a drain with its indications (R298). -/
def drainValue (x a b : Nat) : Stored × Ind :=
  let sg := [x, a, b].any fp32.isSNaN
  match [x, a, b].find? fp32.isNaN with
  | some n => (⟨.nan false, fp32.quiet n⟩, indIf sg indInvalid)
  | none =>
    match (fp32.num x).mul (fp32.num a) with
    | none => (⟨.nan false, fp32.defaultNaN⟩, indInvalid)
    | some p => match p.mul (fp32.num b) with
      | none => (⟨.nan false, fp32.defaultNaN⟩, indInvalid)
      | some q => (⟨q, 0⟩, 0)

/-- A source element of `tcnv` decoded exactly, with its indications (R301). -/
def cnvValue (tabs : Tables) (d : BitVec 128) (raw : Nat) : Stored × Ind :=
  let f := descFmt d
  let fl (x : Nat) : Stored × Ind :=
    if fp32.isNaN x then (⟨.nan false, fp32.quiet x⟩, indIf (fp32.isSNaN x) indInvalid) else (⟨fp32.num x, 0⟩, 0)
  let int (x : Int) (e : Int) : Stored × Ind :=
    (⟨if x = 0 then .zero false else .fin (x < 0) x.natAbs e, 0⟩, 0)
  if f < 8 then fl ((formatImage tabs f).entry raw * 2 ^ 13)
  else if f = 8 then fl raw
  else if f = 9 then
    if fp16.isNaN raw then (⟨.nan false, (convertFmt fp16 fp32 .rne raw).1⟩, indIf (fp16.isSNaN raw) indInvalid)
    else (⟨fp16.num raw, 0⟩, 0)
  else if f = 10 then fl (raw * 2 ^ 16)
  else if f = 11 then int (BitVec.ofNat 32 raw).toInt 0
  else if f = 12 then int raw 0
  else int (BitVec.ofNat 32 raw).toInt ((descSel d).toInt - 30)

/-- Conv: the raw element of a destination with its indications; none for NOCODE (R298). -/
def convStored (tabs : Tables) (d : BitVec 128) (rnd : RMode) (x : Stored) : Option (Nat × Ind) :=
  let f := descFmt d
  let isN := match x.num with
    | .nan _ => true
    | _ => false
  let fl (g : Fmt) : Nat × Ind := if isN then convertFmt fp32 g rnd x.nan else g.roundNum rnd x.num
  if f < 8 then (formatImage tabs f).encode x.num ((descSel d).getLsbD 0)
  else if f = 8 then some (if isN then (x.nan, 0) else fp32.roundNum rnd x.num)
  else if f = 9 then some (fl fp16)
  else if f = 10 then some (fl bf16)
  else
    let r := if f = 11 then numToInt rnd (-(2 ^ 31)) (2 ^ 31 - 1) x.num else numToInt rnd 0 (2 ^ 32 - 1) x.num
    some ((BitVec.ofInt 32 r.1).toNat, r.2)

/-- The raw elements of a destination with their indications; none for NOCODE. -/
def convAll (tabs : Tables) (d : BitVec 128) (rnd : RMode) : List (Stored × Ind) → Option (List Nat × Ind)
  | [] => some ([], 0)
  | (x, ind) :: r =>
    match convStored tabs d rnd x, convAll tabs d rnd r with
    | some a, some b => some (a.1 :: b.1, ind ||| a.2 ||| b.2)
    | _, _ => none

/-- One element to be written: addresses and masked bytes. -/
structure ElemWrite where
  vaddr : Word
  paddr : Nat
  bytes : List (Nat × Byte × Byte)

/-- The writes of a tile's raw elements, or the failing one of the lowest address (R298, R308). -/
def State.tileWrites (s : State) (die ctx : Nat) (d : BitVec 128) :
    List ((Nat × Nat) × Nat) → Except (BitVec 8 × Word) (List ElemWrite)
  | [] => .ok []
  | (e, v) :: r =>
    let va := elemAddr d e.1 e.2
    match s.translate die ctx .store va with
    | .fail c => .error (match s.tileWrites die ctx d r with
      | .error x => lowerBad (c, va) (some x)
      | .ok _ => (c, va))
    | .ok pa _ =>
      match s.tileWrites die ctx d r with
      | .error x => .error x
      | .ok ws =>
        let bs : List (Nat × Byte × Byte) :=
          if isCode4 (descFmt d) then
            (if e.2 % 2 = 0 then [(pa, BitVec.ofNat 8 v, 0x0F)] else [(pa, BitVec.ofNat 8 (16 * v), 0xF0)])
          else (bytesOf (elemBytes (descFmt d)) v).mapIdx fun k b => (pa + k, b, 0xFF)
        .ok (⟨va, pa, bs⟩ :: ws)

/-- Writes put to the group of their 256-byte block (R131). -/
def addWrite (w : ElemWrite) : List ElemWrite → List ElemWrite
  | [] => [w]
  | g :: r => if blockOf g.paddr = blockOf w.paddr then { g with bytes := g.bytes ++ w.bytes } :: r else g :: addWrite w r

/-- The requests of grouped writes, numbered from `n`. -/
def writeReqs (o : TileOp) (n : Nat) : List ElemWrite → List Req
  | [] => []
  | g :: r =>
    let body : ReqBody := if g.bytes.all fun b => b.2.2 == 0xFF then .store g.vaddr (g.bytes.map fun b => (b.1, b.2.1))
      else .merge g.vaddr g.bytes
    engineReq o n g.paddr body :: writeReqs o (n + 1) r

/-- The state after an operation's results are sent to their homes, or its fault (R294, R308). They are written row by row: where two
elements of a tile lie at one address the last one stays, the model's choice (R197; log 92). -/
def State.writeTile (s : State) (o : TileOp) (d : BitVec 128) (vals : List Nat) (ind : Ind) : State :=
  match s.tileWrites o.place.die o.ctx d ((descIdx d).zip vals) with
  | .error (c, va) => s.opFault o (zx c) va
  | .ok ws =>
    let gs := ws.foldl (fun gs w => addWrite w gs) []
    let reqs := writeReqs o s.nextId gs
    { s with nextId := s.nextId + reqs.length }.opWrites { o with ind := ind } reqs

/-! ### Q32 (R195, R198 to R200) -/

/-- The signed value of a raw Q32 element. -/
def q32 (raw : Nat) : Int := (BitVec.ofNat 32 raw).toInt

/-- 2 to an exponent that is not negative. -/
def pow2 (e : Int) : Int := 2 ^ e.toNat

/-- `tqms`: the residual in units of the result's step (R198); `x` is EA + Ex − Er. -/
def qmsElem (x : Int) (n c : Nat) (a v b : List Int) (i k : Nat) : BitVec 32 × Ind :=
  let p := ((List.range n).map fun j => a.getD (i * n + j) 0 * v.getD (j * c + k) 0).sum
  roundQ32 (b.getD (i * c + k) 0 * 2 ^ 60 - p * pow2 (x + 30)) (2 ^ 60)

/-- A quotient by a nonzero integer, rounded to Q32. -/
def divQ32 (num : Int) (u : Int) : BitVec 32 × Ind := if u < 0 then roundQ32 (-num) u.natAbs else roundQ32 num u.natAbs

/-- Σ over p below k of row i times column j of a block being factorised. -/
def luDot (n : Nat) (m : List Int) (i j k : Nat) : Int :=
  ((List.range k).map fun p => m.getD (i * n + p) 0 * m.getD (p * n + j) 0).sum

/-- Row k of U (R199). -/
def luRow (n : Nat) (e : Int) (k : Nat) (st : List Int × Ind) : List Int × Ind :=
  (List.range n).foldl (fun st j =>
    if j < k then st
    else
      let r := roundQ32 (st.1.getD (k * n + j) 0 * 2 ^ 60 - luDot n st.1 k j k * pow2 (e + 30)) (2 ^ 60)
      (st.1.set (k * n + j) r.1.toInt, st.2 ||| r.2)) st

/-- The pivot replaced where it is below the threshold (R199). -/
def luPivot (n : Nat) (t : Int) (k : Nat) (st : List Int × Ind) : List Int × Ind :=
  let w := st.1.getD (k * n + k) 0
  if (w.natAbs : Int) < t then (st.1.set (k * n + k) (if w < 0 then -t else t), st.2 ||| indPivot) else st

/-- Column k of L (R199). -/
def luCol (n : Nat) (e : Int) (k : Nat) (st : List Int × Ind) : List Int × Ind :=
  (List.range n).foldl (fun st i =>
    if i ≤ k then st
    else
      let num := st.1.getD (i * n + k) 0 * 2 ^ 60 - luDot n st.1 i k k * pow2 (e + 30)
      let r := divQ32 (num * pow2 (30 - e)) (st.1.getD (k * n + k) 0 * 2 ^ 60)
      (st.1.set (i * n + k) r.1.toInt, st.2 ||| r.2)) st

/-- `tlu` on a block of integers (R199). -/
def luFactor (n : Nat) (e t : Int) (m : List Int) : List Int × Ind :=
  (List.range n).foldl (fun st k => luCol n e k (luPivot n t k (luRow n e k st))) (m, 0)

/-- The forward substitution of one column: z from v (R200). -/
def solveForward (n : Nat) (e : Int) (l v : List Int) : List Int × Ind :=
  (List.range n).foldl (fun st i =>
    let p := ((List.range i).map fun j => l.getD (i * n + j) 0 * st.1.getD j 0).sum
    let r := roundQ32 (v.getD i 0 * 2 ^ 60 - p * pow2 (e + 30)) (2 ^ 60)
    (st.1 ++ [r.1.toInt], st.2 ||| r.2)) ([], 0)

/-- The back substitution of one column: y from z (R200). -/
def solveBack (n : Nat) (e : Int) (u z : List Int) : List Int × Ind :=
  (List.range n).foldl (fun st r =>
    let i := n - 1 - r
    let p := ((List.range n).map fun j => if j ≤ i then 0 else u.getD (i * n + j) 0 * st.1.getD j 0).sum
    let num := z.getD i 0 * 2 ^ 60 - p * pow2 (e + 30)
    let d := u.getD (i * n + i) 0
    let y := if d = 0 then
        (if num = 0 then ((0 : BitVec 32), (0 : Ind)) else if 0 < num then (0x7FFFFFFF, indRange) else (0x80000000, indRange))
      else divQ32 (num * pow2 (30 - e)) (d * 2 ^ 60)
    (st.1.set i y.1.toInt, st.2 ||| y.2)) (List.replicate n 0, 0)

/-- `tsolv` on a factor and a block of columns, row-major (R200). -/
def solveAll (n c : Nat) (e : Int) (l v : List Int) : List Int × Ind :=
  let cols := (List.range c).map fun k =>
    let f := solveForward n e l ((List.range n).map fun i => v.getD (i * c + k) 0)
    let y := solveBack n e l f.1
    (y.1, f.2 ||| y.2)
  ((tileIdx n c).map fun x => ((cols[x.2]?).map fun q => q.1.getD x.1 0).getD 0, indAll (cols.map (·.2)))

end Sys2Proof.Machine
end

