-- ==== Sys2Proof/Machine/Nodes.lean ====
section
/-! DEFINITION. Nodes, port words, rules, pair records, hods and spill partitions (R206 to R217, R234 to R241). -/

namespace Sys2Proof.Machine

/-! ### Nodes and port words (R206 to R209) -/

/-- The tag of a node header (R206). -/
def nodeTag (h : Word) : Nat := (bits h 0 16).toNat
/-- The arity of a node header (R206). -/
def nodeArity (h : Word) : Nat := (bits h 16 2).toNat
/-- The label of a node header (R206). -/
def nodeLabel (h : Word) : Nat := (bits h 18 6).toNat
/-- The payload of a node header (R206). -/
def nodePayload (h : Word) : BitVec 40 := bits h 24 40

/-- The kind of a port word: 0 unlinked, 1 link, 2 redirect, 3 root (R207). -/
def portKind (w : Word) : Nat := (bits w 62 2).toNat
/-- Bit 61: a Meet has been performed on the port (R207). -/
def portMet (w : Word) : Bool := w.getLsbD 61
/-- The reference a port word names: bits 47:5 and 1:0 (R207, R208). -/
def portTarget (w : Word) : Word := w &&& 0x0000FFFFFFFFFFE3

/-- Whether a port word obeys its layout (R207). -/
def portOk (w : Word) : Bool :=
  if portKind w = 0 then w == 0
  else bits w 48 13 == 0 && bits w 2 3 == 0 && bits w 0 2 != 3 && (portKind w == 2 || !portMet w) &&
    (portKind w != 3 || bits w 0 2 == 0)

/-- The link word that names a port (R207). -/
def linkTo (x : Word) : Word := 0x4000000000000000 ||| x
/-- The redirect word that names a port; a hold for reference 0 (R207). -/
def redirectTo (x : Word) : Word := 0x8000000000000000 ||| x
/-- Whether a port word is a hold (R207). -/
def isHold (w : Word) : Bool := portKind w == 2 && portTarget w == 0

/-- The port number of a reference (R208). -/
def refPort (x : Word) : Nat := (bits x 0 2).toNat
/-- The node of a reference (R208). -/
def refNode (x : Word) : Word := x &&& 0x0000FFFFFFFFFFE0
/-- Whether a word is a port reference (R208). -/
def refOk (x : Word) : Bool := bits x 48 16 == 0 && bits x 2 3 == 0 && bits x 0 2 != 3
/-- The address of the port word of a reference (R206). -/
def refAddr (x : Word) : Word := refNode x + w64 (8 * (refPort x + 1))

/-- Whether an access that a unit, the dispatcher or a link step of a die makes stands behind others: requests that the
die's threads have sent to its home, and the zeroing of its node (R160, R203, R213). Such an access is sent and performed
in one step, once none is left (log 73). -/
def State.behind (s : State) (die pa : Nat) : Bool :=
  let sent (r : Req) : Bool := !r.engine && r.src = die && r.dest = paHome pa
  s.chans.any sent || s.arrivals.any sent ||
    s.sends.any fun r => r.zeroes && r.src = die && r.node = pa / 32 * 32

/-- A node as the units read it: it must wait, it cannot be read, or its four words. -/
inductive NodeRead where
  | away
  | bad
  | ok (h p0 p1 p2 : Word) (home : Nat)

/-- A node read at its home, once nothing is ahead of the read and no step has been made on its block this cycle (R154, R213,
R235). -/
def State.readNode (s : State) (die ctx : Nat) (n : Word) : NodeRead :=
  match s.check die ctx .nodeLoad n 32 with
  | .fail _ => .bad
  | .ok pa _ =>
    if s.paAway ctx pa || s.behind die pa || s.stepped.contains (Machine.blockOf pa) then .away
    else if s.badRange pa 32 then .bad
    else .ok (s.read64 pa) (s.read64 (pa + 8)) (s.read64 (pa + 16)) (s.read64 (pa + 24)) (paHome pa)

/-- The state after a unit has read nodes: their blocks have had their step this cycle, two nodes of one block in one step (R154;
log 73). -/
def State.readOn (s : State) (die ctx : Nat) (ns : List Word) : State :=
  { s with stepped := (ns.filterMap fun n => match s.check die ctx .nodeLoad n 32 with
    | .ok pa _ => some (Machine.blockOf pa)
    | .fail _ => none) ++ s.stepped }

/-- A malformed node (R206). -/
def nodeMalformed (h p1 p2 : Word) : Bool :=
  let t := nodeTag h
  nodeArity h == 3 || (nodeArity h < 1 && p1 != 0) || (nodeArity h < 2 && p2 != 0) || (0xA ≤ t && t ≤ 0xF) || 0x1000 ≤ t

/-- A node that no pair may hold: malformed, FREE or RDR (R206, R209). -/
def nodeBad (h p1 p2 : Word) : Bool := nodeMalformed h p1 p2 || nodeTag h == 0 || nodeTag h == 9

/-! ### Classes and rules (R210, R211) -/

/-- The class of a tag (R210). -/
def State.classOf (s : State) (ctx tag : Nat) : Nat :=
  match s.ctxInfo? ctx with
  | some c => (c.tagClass.extractLsb' (8 * tag) 8).toNat
  | none => 0

/-- Whether the first of two nodes is node A: the lower class, or at equal classes the lower address (R28). -/
def firstIsA (cx cy : Nat) (x y : Word) : Bool := cx < cy || (cx == cy && x.toNat ≤ y.toNat)

/-- The address of an entry of a context's rule table (R210). -/
def State.ruleAddr (s : State) (ctx idx : Nat) : Nat := (s.record ctx 2).toNat + 8 * idx

/-- Whether the read of a rule entry must wait: a core without it in its cache reads it at its home, where a step has been made on
the block this cycle (R154, R210). -/
def State.ruleBusy (s : State) (die core ctx idx : Nat) : Bool :=
  !((s.core die core).cache.any fun e => e.1 = ctx && e.2.1 = idx) && s.stepped.contains (Machine.blockOf (s.ruleAddr ctx idx))

/-- The state after a core reads a rule entry, and the entry: from its cache, or from the table's home. A full cache drops the entry
it has held longest, the model's choice (R210; log 88). -/
def State.ruleRead (s : State) (die core ctx idx : Nat) : State × Word :=
  let x := s.core die core
  match x.cache.find? fun e => e.1 = ctx ∧ e.2.1 = idx with
  | some e => (s, e.2.2)
  | none =>
    let pa := s.ruleAddr ctx idx
    let w := s.read64 pa
    let s1 : State := { s with stepped := Machine.blockOf pa :: s.stepped }
    if x.resident ctx then
      let kept := if x.cache.length < 1024 then x.cache else x.cache.drop 1
      (s1.setCore die core { x with cache := kept ++ [(ctx, idx, w)] }, w)
    else (s1, w)

/-- The handler address of a rule entry (R211). -/
def ruleHandler (e : Word) : Word := zx (bits e 8 40) <<< 3

/-- The action of a rule entry as dispatch reads it (R211). -/
def ruleAction (e : Word) : Nat :=
  let a := (bits e 0 4).toNat
  if bits e 48 16 ≠ 0 || 5 < a || (a = 4 && bits e 8 40 = 0) then 0 else a

/-! ### Pair records (R234, R235) -/

/-- Word 0 of a record (R234). -/
def recWord0 (ctx : Nat) (prio energy : BitVec 2) (a : Word) : Word :=
  w64 (ctx * 2 ^ 58 + prio.toNat * 2 ^ 56 + energy.toNat * 2 ^ 54) ||| a
/-- Word 1 of a record (R234). -/
def recWord1 (affinity : Nat) (b : Word) : Word := w64 (affinity * 2 ^ 54) ||| b
/-- The context of a record. -/
def recCtx (w0 : Word) : Nat := (bits w0 58 6).toNat
/-- The priority class of a record. -/
def recPrio (w0 : Word) : Nat := (bits w0 56 2).toNat
/-- The energy class of a record. -/
def recEnergy (w0 : Word) : Nat := (bits w0 54 2).toNat
/-- Node A of a record. -/
def recA (w0 : Word) : Word := refNode w0
/-- Node B of a record. -/
def recB (w1 : Word) : Word := refNode w1
/-- The affinity die of a record. -/
def recAffinity (w1 : Word) : Nat := (bits w1 54 10).toNat
/-- Whether a record has been moved between dies. -/
def recMoved (w1 : Word) : Bool := w1.getLsbD 48

/-- The state after a context gets new work: its quiescent bit clears (R245). -/
def State.noteWork (s : State) (ctx : Nat) : State :=
  { s with bar0 := { s.bar0 with quiescent := s.bar0.quiescent &&& ~~~(w64 (2 ^ ctx)) } }

/-- The state after a record is created on a die, to enter a core's hod (R235, R245). -/
def State.createRecord (s : State) (src : RecSource) (owner ctx die core : Nat) (a b : Word) : State :=
  let n := s.nextId
  let wid := match src with
    | .push | .link => (s.findThread owner).elim 0 fun x => s.widAt x.1
    | _ => 0
  let s1 := ({ s with nextId := n + 1 }.modStatus die ctx fun c => { c with created := c.created + 1 }).noteWork ctx
  { s1 with fresh := s1.fresh ++ [⟨n, owner, wid, ctx, die, core, a, b, src, none⟩] }

/-- The words of a record of two nodes, classified on a core, and the state after its rule is read; none while a node's
scratchpad is away, or a step has been made this cycle on a block it reads (R154, R235). -/
def State.classify (s : State) (die core ctx : Nat) (x y : Word) : Option (State × Word × Word) :=
  match s.readNode die ctx x, s.readNode die ctx y with
  | .away, _ => none
  | _, .away => none
  | rx, ry =>
    let header : NodeRead → Word × Nat := fun r => match r with
      | .ok h _ _ _ home => (h, home)
      | _ => (0, 0)
    let cx := s.classOf ctx (nodeTag (header rx).1)
    let cy := s.classOf ctx (nodeTag (header ry).1)
    let fst := firstIsA cx cy x y
    let idx := if fst then cx * 256 + cy else cy * 256 + cx
    let s1 := s.readOn die ctx [x, y]
    let e := s1.ruleRead die core ctx idx
    let home := if fst then (header rx).2 else (header ry).2
    if s.ruleBusy die core ctx idx then none
    else some (e.1, recWord0 ctx (bits e.2 6 2) (bits e.2 4 2) (if fst then x else y), recWord1 home (if fst then y else x))

/-! ### Hods and spill partitions (R236, R237, R239, R240) -/

/-- The records of a context in a hod. -/
def Core.hodCount (x : Core) (ctx : Nat) : Nat := (x.hod.filter fun e => recCtx e.w0 = ctx).length

/-- Whether a hod takes a record of a context, which must be resident on its core (R61, R237). -/
def Core.hodRoom (x : Core) (ctx : Nat) : Bool :=
  x.resident ctx && x.hodCount ctx < x.capOf ctx && x.hod.length < Config.hodEntries

/-- The partition size S of a context, in records (R239). -/
def State.partSize (s : State) (ctx : Nat) : Nat := (s.record ctx 7).toNat

/-- The physical address of a die's spill partition of a context (R239). -/
def State.partAddr (s : State) (ctx die : Nat) : Nat :=
  (s.record ctx 6).toNat + lampNo die * (16 * s.partSize ctx + 64)

/-- The records that stand in a die's spill partition of a context (R239). -/
def State.partHeld (s : State) (ctx die : Nat) : Nat :=
  let a := s.partAddr ctx die
  (s.read64 a - s.read64 (a + 8)).toNat

/-- A die's count for its spill partition: the records that stand in it and those on their way to it (R241). -/
def State.partCount (s : State) (ctx die : Nat) : Nat :=
  s.partHeld ctx die + (s.spilling.filter fun r => r.die = die && r.ctx = ctx).length +
  ((s.batches.filter fun b => b.1 = die && b.2.1 = ctx).map fun b => b.2.2.length).sum

/-- The room a die's spill partition has. -/
def State.partRoom (s : State) (ctx die : Nat) : Nat := s.partSize ctx - s.partCount ctx die

/-- The state after a record is written at a partition's tail (R240). -/
def State.partAppend (s : State) (ctx die : Nat) (w0 w1 : Word) : State :=
  let a := s.partAddr ctx die
  let n := s.read64 a
  let slot := a + 64 + 16 * (n.toNat % s.partSize ctx)
  ((s.write64 slot w0).write64 (slot + 8) w1).write64 a (n + 1)

/-- The state after a record enters a hod (R236). -/
def State.hodEnter (s : State) (die core : Nat) (w0 w1 : Word) : State :=
  s.modCore die core fun x => { x with hod := x.hod ++ [⟨w0, w1, s.cycle, s.cycle⟩] }

/-- The state after a drain's record is written: the drain is complete (R300). -/
def State.wakeDone (s : State) (op : Option Nat) : State :=
  match op.bind fun n => s.ops.find? fun o => o.uid = n with
  | some o => s.opDone o
  | none => s

/-- The state after a record enters its core's hod, or goes to the die's spill partition; none if neither has room; `op` is
the drain that waits for it to be written (R237, R300). -/
def State.placeRecord (s : State) (die core ctx : Nat) (w0 w1 : Word) (op : Option Nat) : Option State :=
  if (s.core die core).hodRoom ctx then some ((s.hodEnter die core w0 w1).wakeDone op)
  else if s.partRoom ctx die = 0 then none
  else
    let s1 := s.modDie die fun d => { d with lastSpill := putKey ctx core d.lastSpill }
    some { s1 with spilling := s1.spilling ++ [⟨die, ctx, w0, w1, op⟩] }

/-- The records of a context held at a core (R241). -/
def Core.heldCount (x : Core) (ctx : Nat) : Nat := (x.held.filter fun r => r.ctx = ctx).length

/-- Whether a `push` traps HOD_FULL at issue (R241). -/
def State.hodFull (s : State) (die core ctx : Nat) : Bool :=
  let x := s.core die core
  16 ≤ x.heldCount ctx ||
  ((x.capOf ctx ≤ x.hodCount ctx || Config.hodEntries ≤ x.hod.length) && s.partRoom ctx die == 0)

/-! ### The quarry and the free stacks (R215 to R217) -/

/-- The free stack of a context on a core, top first (R216). -/
def Core.stackOf (x : Core) (ctx : Nat) : List Word := lookupD [] ctx x.nodeStacks

/-- The state with a free stack replaced. -/
def State.setStack (s : State) (die core ctx : Nat) (l : List Word) : State :=
  s.modCore die core fun x => { x with nodeStacks := putKey ctx l x.nodeStacks }

/-- The state after a node is pushed on a free stack; at 64 entries the bottom 32 go back to the quarry first (R216). -/
def State.pushNode (s : State) (die core ctx : Nat) (n : Word) : State :=
  let st := (s.core die core).stackOf ctx
  if st.length < 64 then s.setStack die core ctx (n :: st)
  else (s.setStack die core ctx (n :: st.take 32)).modCore die core fun x =>
    { x with giveBack := x.giveBack ++ [(ctx, (st.drop 32).reverse)] }

/-- Whether a quarry can still hand out a node (R215). -/
def State.quarryLeft (s : State) (ctx : Nat) : Bool :=
  match s.ctxInfo? ctx with
  | none => false
  | some c => !c.returned.isEmpty || c.mark.toNat + 32 ≤ (s.record ctx 4).toNat + (s.record ctx 5).toNat

/-- Up to `n` never-used nodes from a mark up, below an end (R215). -/
def nodesFrom (mark last : Nat) : (n : Nat) → List Word
  | 0 => []
  | n + 1 => if mark + 32 ≤ last then w64 mark :: nodesFrom (mark + 32) last n else []

/-- A batch of up to 8 nodes, and the quarry's header after it (R215). -/
def CtxInfo.batch (c : CtxInfo) (last : Nat) : List Word × CtxInfo :=
  let old := c.returned.take 8
  let new := nodesFrom c.mark.toNat last (8 - old.length)
  (old ++ new, { c with returned := c.returned.drop 8, mark := c.mark + w64 (32 * new.length) })

/-- The places of a list of nodes, as far as they translate. -/
def State.nodePlaces (s : State) (die ctx : Nat) (ns : List Word) : List Nat :=
  ns.filterMap fun n => match s.translate die ctx .nodeName n with
    | .ok pa _ => some pa
    | .fail _ => none

/-- The state after the never-used nodes of a batch are made zero as they are handed out (R215; log 74). -/
def State.zeroNodes (s : State) (die ctx : Nat) (ns : List Word) : State :=
  (s.nodePlaces die ctx ns).foldl (fun (x : State) pa => x.writeNat pa 32 0) s

/-- Whether one of a list of nodes lies in the scratchpad of a core its context has been evicted from. -/
def State.anyAway (s : State) (die ctx : Nat) (ns : List Word) : Bool := (s.nodePlaces die ctx ns).any (s.paAway ctx)

/-- The state after a batch is pushed with its first node on top (R216). A stack that would then hold more than 64 gives its bottom 32
back to the quarry, oldest first, as a `free` would have it do: the model's choice (log 87). -/
def State.pushBatch (s : State) (die core ctx : Nat) (b : List Word) : State :=
  let l := b ++ (s.core die core).stackOf ctx
  if l.length ≤ 64 then s.setStack die core ctx l
  else (s.setStack die core ctx (l.take (l.length - 32))).modCore die core fun x =>
    { x with giveBack := x.giveBack ++ [(ctx, (l.drop (l.length - 32)).reverse)] }

/-! ### Nodes popped by one that waits for more (R216, R217) -/

/-- The nodes that a waiting `alloc` or rewrite has popped. -/
def Core.poppedFor (x : Core) (uid : Nat) : List Word := ((x.popped.find? fun e => e.1 = uid).map (·.2.2)).getD []

/-- The state with the nodes that a waiting `alloc` or rewrite has popped set. -/
def State.setPopped (s : State) (die core ctx uid : Nat) (ns : List Word) : State :=
  s.modCore die core fun x => { x with
    popped := (x.popped.filter fun e => e.1 ≠ uid) ++ if ns.isEmpty then [] else [(uid, ctx, ns)] }

/-- Whether a thread's `alloc`, or a rewrite, of a core still waits for nodes. -/
def State.awaitsNodes (s : State) (die core uid : Nat) : Bool :=
  (match s.findThread uid with
    | some (p, t) => p.die = die && p.core = core && (match t.hold with
      | .quarry _ => true
      | _ => false)
    | none => false) ||
  (s.core die core).rewrites.any fun r => r.uid = uid && !r.begun && !r.faulted

/-- The state with the nodes popped by one that waits no longer, a trap or a pre-emption having fallen on its word, on the core's
stack again (R147, R217; log 87). -/
def State.regain (s : State) (die core ctx : Nat) : State :=
  let left (e : Nat × Nat × List Word) : Bool := e.2.1 = ctx && !s.awaitsNodes die core e.1
  let back := ((s.core die core).popped.filter left).flatMap (·.2.2)
  if back.isEmpty then s
  else (s.modCore die core fun x => { x with popped := x.popped.filter fun e => !left e }).pushBatch die core ctx back

/-- The first `n` nodes that one has popped or pops now, and the state after; none if the stack holds too few (R216, R228). -/
def State.popNodes (s : State) (die core ctx uid n : Nat) : Option (List Word × State) :=
  let l := (s.core die core).poppedFor uid ++ (s.core die core).stackOf ctx
  if l.length < n then none
  else some (l.take n, (s.setPopped die core ctx uid []).setStack die core ctx (l.drop n))

/-- The state after one that needs nodes has popped all its core's stack holds, and a pop has found it empty: the core asks its quarry
for a batch, if it has not asked already (R216). -/
def State.wantNodes (s : State) (die core ctx uid : Nat) : State :=
  let x := s.core die core
  ((s.setPopped die core ctx uid (x.poppedFor uid ++ x.stackOf ctx)).setStack die core ctx []).modCore die core fun y =>
    { y with wants := if y.wants.contains ctx then y.wants else y.wants ++ [ctx] }

/-- The state after a request that the quarry cannot meet: the nodes it has received stay on the stack (R217). -/
def State.unpop (s : State) (die core ctx uid : Nat) : State :=
  (s.setPopped die core ctx uid []).pushBatch die core ctx ((s.core die core).poppedFor uid)

/-- Whether a node's zeroing, or another write to it, is still on its way (R160, R228). -/
def State.zeroing (s : State) (die ctx : Nat) (n : Word) : Bool :=
  match s.translate die ctx .nodeName n with
  | .fail _ => false
  | .ok pa _ =>
    let hits (r : Req) : Bool := match r.body with
      | .store _ bs => bs.any fun b => pa ≤ b.1 && b.1 < pa + 32
      | _ => false
    s.sends.any hits || s.chans.any hits || s.arrivals.any hits

/-- QUARRY_BATCH: a batch on its way back reaches the quarry, or a batch is served to a core's stack (R215, R216). -/
def execQuarryBatch (die : Nat) (core : Nat) (ctx : Nat) (s : State) : Host.Outcome State Fault Refusal :=
  let x := s.core die core
  match x.giveBack.find? fun b => b.1 = ctx with
  | some b =>
    .next ((s.modCore die core fun y => { y with giveBack := dropFirst (fun c => c.1 = ctx) y.giveBack }).modCtx ctx fun c =>
      { c with returned := c.returned ++ b.2 })
  | none =>
    match x.wants.contains ctx, s.ctxInfo? ctx with
    | true, some c =>
      let b := c.batch ((s.record ctx 4).toNat + (s.record ctx 5).toNat)
      let new := b.1.drop (min 8 c.returned.length)
      if s.anyAway die ctx new then .next s
      else
      let s1 := ((((s.zeroNodes die ctx new).modCtx ctx fun _ => b.2).modCore die core fun y =>
        { y with wants := y.wants.filter fun v => v ≠ ctx }).regain die core ctx).pushBatch die core ctx b.1
      .next { s1 with slots := s1.slots.map fun e =>
        if e.1.die = die && e.1.core = core then
          (e.1, { e.2 with thread := e.2.thread.map fun (t : Thread) =>
            if t.ctx = ctx && t.hold == .quarry false then { t with hold := .quarry true } else t })
        else e }
    | _, _ => .next s

/-! ### Fault threads (R212, R341) -/

/-- Whether a slot is free for a dispatched thread of a context: its own, usable, no launch pending for it, and no
migrating thread waiting for it (R27, R28, R186). A launch record still held counts as pending: the model's choice (log 80). -/
def State.slotFor (s : State) (p : Place) (ctx : Nat) : Bool :=
  (s.slot p).owner == some ctx && s.slotFree p && !(s.launches.any fun l => l.place = p) &&
  !((s.die p.die).buffer.any fun b => b.core = p.core && b.t.ctx = ctx)

/-- The first slot of a core that is free for a dispatched thread of a context. -/
def State.freeFor (s : State) (die core ctx : Nat) : Option Place :=
  ((List.range 16).map fun k => Place.mk die core k).find? fun p => s.slotFor p ctx

/-- The state after a fault thread starts in a slot; with no handler the fault is fatal (R212, R341). -/
def State.faultThread (s : State) (p : Place) (ctx : Nat) (a b : Word) : State :=
  let h := s.record ctx 3
  if h = 0 then ((s.faultRecord ctx 1 causeLink (s.widAt p) 0 a).setFaulted ctx).freeSlot p
  else (s.startThread p ctx h [0, a, b] h a).modThread p fun t =>
    { t with sys := { t.sys with trapcause := zx causeLink, trappc := 0, trapinfo := a } }

end Sys2Proof.Machine
end

