-- ==== Sys2Proof/Machine/Links.lean ====
section
/-! DEFINITION. Links and splices: the steps Take, Attach and Meet at the homes of port words, and vicious circles (R218 to
R223, R227). A step that is not permitted changes nothing (log 10). -/

namespace Sys2Proof.Machine

/-! ### Who links (R213, R219) -/

/-- The issuer of link steps: a thread or a rewrite of a core's rewrite unit. -/
structure Party where
  uid    : Nat
  ctx    : Nat
  die    : Nat
  core   : Nat
  thread : Option Place     -- the slot, for a thread
  work   : LinkWork
  deriving Repr

/-- The rewrite with a number. -/
def State.jobOf (s : State) (uid : Nat) : Option Rewrite :=
  s.cores.findSome? fun e => e.2.rewrites.find? fun r => r.uid = uid

/-- The state with a rewrite changed. -/
def State.modJob (s : State) (r : Rewrite) (f : Rewrite → Rewrite) : State :=
  s.modCore r.die r.core fun x => { x with rewrites := modFirst (fun y => y.uid = r.uid) f x.rewrites }

/-- The party with a number, if it has a link or splice in progress. -/
def State.party (s : State) (uid : Nat) : Option Party :=
  match s.findThread uid with
  | some (p, t) => t.link.map fun k => ⟨uid, t.ctx, p.die, p.core, some p, .link k⟩
  | none => match s.jobOf uid with
    | some r => r.cur.map fun w => ⟨uid, r.ctx, r.die, r.core, none, w⟩
    | none => none

/-- The state with a party's work replaced. -/
def State.setWork (s : State) (p : Party) (w : LinkWork) : State :=
  match p.thread, w with
  | some at_, .link k => s.modThread at_ fun t => { t with link := some k }
  | some _, .splice _ => s
  | none, w => match s.jobOf p.uid with
    | some r => s.modJob r fun x => { x with cur := some w }
    | none => s

/-- A rewrite that goes on to its next link. -/
def Rewrite.nextLink (r : Rewrite) : Rewrite := { r with cur := r.todo.head?, todo := r.todo.drop 1 }

/-- The state after a rewrite goes on to its next link. -/
def State.goOn (s : State) (uid : Nat) : State :=
  match s.jobOf uid with
  | some r => s.modJob r Rewrite.nextLink
  | none => s

/-- A thread's link complete: LAT and HOPS report its longest step at another die, and the thread goes on (R223, R227,
R321). The cycles of its steps on links are a free value, each step being made as one (log 5, log 73). -/
def State.endLink (s : State) (p : Place) (t : Thread) (hops : Nat) : State :=
  let t1 := { t with link := none, hold := .none }
  let s1 := s.setThread p (t1.advance { place := p, pc := t.pc, word := 0 } ((t.tags.filter fun g => !g.frozen).map (·.req)))
  if hops = 0 then s1 else { s1 with freeCtr := s1.freeCtr + 1 }.setFigures p (Config.latency s1.freeCtr).toNat hops

/-- The rewrites whose splices a party's splice has taken over. -/
def LinkWork.partners : LinkWork → List Nat
  | .link _ => []
  | .splice t => t.partners

/-- The state after a party's link or splice is complete, and with it the splices it has taken over (R223; log 20). -/
def State.linkDone (s : State) (p : Party) : State :=
  match p.thread, p.work with
  | some at_, .link k => match s.thread? at_ with
    | some t => s.endLink at_ t k.hops
    | none => s
  | _, w => w.partners.foldl State.goOn (s.goOn p.uid)

/-- The state after a rewrite's write or step is answered fault: a fault thread is due for it (R212). -/
def State.jobFault (s : State) (uid : Nat) : State :=
  match s.jobOf uid with
  | some r => s.modJob r fun x => { x with faulted := true, writes := [], cur := none, todo := [], frees := [] }
  | none => s

/-- The state after a step is answered fault: LINK_FAULT precise at a thread's `link`, or a fault thread due for a
rewrite and for those whose splices it has taken over (R212, R227). -/
def State.linkFault (s : State) (p : Party) : State :=
  match p.thread with
  | some at_ => match s.thread? at_ with
    | some t => s.raise at_ { t with link := none, hold := .none } (zx causeLink) t.pc t.nodeA
    | none => s
  | none => p.work.partners.foldl State.jobFault (s.jobFault p.uid)

/-- The state after a step is lost with its home: MCHECK precise at a thread's `link`, with TRAPINFO the word's address; a
rewrite takes it as a fault answer (R320). -/
def State.linkLost (s : State) (p : Party) (va : Word) : State :=
  match p.thread with
  | some at_ => match s.thread? at_ with
    | some t => s.raise at_ { t with link := none, hold := .none } (zx causeMcheck) t.pc va
    | none => s
  | none => s.linkFault p

/-! ### Port words at their homes (R218) -/

/-- What a step or plain write at an address meets: a refusal, a home that has failed, something it must wait for, or the
physical address it acts at. -/
inductive StepAt where
  | fault
  | lost
  | wait
  | at_ (pa : Nat)
  deriving Repr

/-- Whether a step may be performed at an address now: the home does not keep it in an inbound log, no step has been made on
the block this cycle, nothing of its die is ahead of it, and a thread's earlier accesses to the home are performed (R132,
R154, R160, R226, R354). -/
def State.mayStep (s : State) (die ctx : Nat) (thread : Option Nat) (pa : Nat) : Bool :=
  !s.paAway ctx pa && !s.stepped.contains (Machine.blockOf pa) && !s.behind die pa &&
  (match thread with
    | some uid => s.drained uid (paHome pa)
    | none => true)

/-- What a step, or a write of `n` bytes, at an address meets (R218, R320, R361). -/
def State.stepAt (s : State) (die ctx : Nat) (thread : Option Nat) (va : Word) (n : Nat) : StepAt :=
  match s.check die ctx .nodeStore va n with
  | .fail _ => .fault
  | .ok pa _ =>
    if (s.die (paHome pa)).outOfService then .lost else if s.mayStep die ctx thread pa then .at_ pa else .wait

/-- The thread whose earlier accesses a party's steps follow; a rewrite unit has none. -/
def Party.follows (p : Party) : Option Nat := p.thread.map fun _ => p.uid

/-- What a party's plain write at an address meets. -/
def State.wordAt (s : State) (p : Party) (va : Word) : StepAt := s.stepAt p.die p.ctx p.follows va 8

/-- What a party's step at a port meets; a reference that breaks its layout is answered fault (R208). -/
def State.portAt (s : State) (p : Party) (x : Word) : StepAt := if refOk x then s.wordAt p (refAddr x) else .fault

/-- The state after a step at an address: its block has had its step this cycle, and an uncorrectable error found there is
told to management (R146, R154; log 68). -/
def State.stepOn (s : State) (pa : Nat) : State :=
  let s1 : State := { s with stepped := Machine.blockOf pa :: s.stepped }
  if s.badRange pa 8 then s1.tell (.homeReadError pa) else s1

/-- The state after a step at an address that leaves a word there. -/
def State.stepWrite (s : State) (pa : Nat) (x : Word) : State := (s.stepOn pa).write64 pa x

/-- A step at an address: the party waits, or is answered fault, or the step is made. -/
def State.step_ (s : State) (p : Party) (va : Word) (x : StepAt) (f : Nat → State) : State :=
  match x with
  | .fault => s.linkFault p
  | .lost => s.linkLost p va
  | .wait => s
  | .at_ pa => f pa

/-- The links a step's request crosses; 0 at the party's own die (R321). -/
def State.stepHops (s : State) (p : Party) (pa : Nat) : Nat := if paHome pa = p.die then 0 else s.hops p.die (paHome pa)

/-- Who creates a pair that a party's link forms (R237). -/
def Party.source (p : Party) : RecSource := if p.thread.isSome then .link else .unit

/-- The state after a party pushes the pair of two ports' nodes (R219, R227). -/
def State.pushPair (s : State) (p : Party) (x y : Word) : State :=
  s.createRecord p.source p.uid p.ctx p.die p.core (refNode x) (refNode y)

/-! ### Parties at work -/

/-- The parties with work in progress. -/
def State.parties (s : State) : List Party :=
  (s.slots.filterMap fun e => e.2.thread.bind fun t =>
    t.link.map fun k => ⟨t.uid, t.ctx, e.1.die, e.1.core, some e.1, .link k⟩) ++
  s.cores.flatMap fun e => e.2.rewrites.filterMap fun r =>
    r.cur.map fun w => ⟨r.uid, r.ctx, r.die, r.core, none, w⟩

/-- Whether a side's word taken is a root. -/
def SpliceEnd.isRoot (e : SpliceEnd) : Bool := portKind e.word == 3

/-- Whether a splice has attached one of its ends and has a port as a live end. -/
def SpliceTask.settling (t : SpliceTask) (x : Word) : Bool :=
  (t.a.state == .done || t.b.state == .done) && t.phase != .joined &&
    ((t.a.far == x && !t.a.isRoot) || (t.b.far == x && !t.b.isRoot))

/-- Whether a port is an end of another party's splice that has attached an end and is not complete: a Take there waits, so
that no party meets the wire half made (R222, R225; log 75). -/
def State.settling (s : State) (p : Party) (x : Word) : Bool :=
  s.parties.any fun q => q.uid ≠ p.uid && q.ctx = p.ctx && (match q.work with
    | .splice t => t.settling x
    | .link _ => false)

/-! ### Links (R219) -/

/-- The check of Q (R219). -/
def State.linkCheck (s : State) (p : Party) (k : LinkTask) : State :=
  s.step_ p (refAddr k.q) (s.portAt p k.q) fun pa =>
    if s.read64 pa ≠ 0 then (s.stepOn pa).linkFault p else (s.stepOn pa).setWork p (.link { k with phase := .take })

/-- The Take of P, and the writes that follow: a root's cell last (R219). -/
def State.linkTake (s : State) (p : Party) (k : LinkTask) : State :=
  s.step_ p (refAddr k.p) (s.portAt p k.p) fun pa =>
    let w := s.read64 pa
    if s.settling p k.p then s
    else if !portOk w || (portKind w ≠ 1 && portKind w ≠ 3) then (s.stepOn pa).linkFault p
    else
      let k1 := { k with x := portTarget w, hops := max k.hops (s.stepHops p pa) }
      let k2 := if portKind w = 3 then
          { k1 with phase := .finish, writes := [(refAddr k.q, w), (portTarget w, linkTo k.q)] }
        else { k1 with phase := .attach, writes := [(refAddr k.q, linkTo k1.x)] }
      (s.stepWrite pa (redirectTo k.q)).setWork p (.link k2)

/-- An Attach of a link and its answer (R218, R219). -/
def State.linkAttach (s : State) (p : Party) (k : LinkTask) : State :=
  s.step_ p (refAddr k.x) (s.portAt p k.x) fun pa =>
    let w := s.read64 pa
    let k1 := { k with hops := max k.hops (s.stepHops p pa) }
    if w = linkTo k.p then
      let s1 := s.stepWrite pa (linkTo k.q)
      let s2 := if refPort k.x = 0 && refPort k.q = 0 then s1.pushPair p k.x k.q else s1
      s2.linkDone { p with work := .link k1 }
    else if !portOk w || portKind w ≠ 2 then (s.stepOn pa).linkFault p
    else if isHold w then (s.stepOn pa).setWork p (.link { k1 with phase := .hold (s.cycle + 16), held := k.held + 1 })
    else
      let m := if k.p.toNat ≤ k.x.toNat then k.p else k.x
      (s.stepOn pa).setWork p
        (.link { k1 with phase := .meet m (portTarget w), writes := [(refAddr k.q, linkTo (portTarget w))] })

/-! ### Splices (R220) -/

/-- The word an Attach writes at the far end, for the other side of the splice (R220). -/
def SpliceEnd.value (other : SpliceEnd) : Word := if other.isRoot then other.word else linkTo other.far

/-- Whether an Attach at a side is still to be made: its end is not fixed, or it names what the other side was before it
changed. -/
def SpliceEnd.needs (e other : SpliceEnd) : Bool :=
  !e.isRoot && (e.state == .free || (e.state == .done && e.names != other.value))

/-- The side as its port is taken (R220). -/
def SpliceEnd.taken (e : SpliceEnd) (w : Word) : SpliceEnd :=
  { e with word := w, far := portTarget w, names := linkTo e.port, state := .free, held := 0 }

/-- The writes a one-root splice makes last: the root word over an end fixed by MET, and then the cell (R220 step 5). -/
def SpliceTask.last (t : SpliceTask) : List (Word × Word) :=
  let rootCase (e r : SpliceEnd) : List (Word × Word) :=
    (match e.state with
      | .met _ => [(refAddr e.far, r.word)]
      | _ => []) ++ [(portTarget r.word, linkTo e.far)]
  if t.a.isRoot && t.b.isRoot then [] else if t.a.isRoot then rootCase t.b t.a else if t.b.isRoot then rootCase t.a t.b else []

/-- A splice complete: a pair is pushed when it has two ends, both are port 0 and no other splice pushes it (R220). -/
def State.spliceDone (s : State) (p : Party) (t : SpliceTask) : State :=
  let p' := { p with work := .splice t }
  if !t.a.isRoot && !t.b.isRoot && refPort t.a.far = 0 && refPort t.b.far = 0 && t.pushes then
    (s.pushPair p t.a.far t.b.far).linkDone p'
  else s.linkDone p'

/-- A splice that has no Meet left: its last writes are due, or it is complete (R220 step 5). -/
def State.spliceFinish (s : State) (p : Party) (t : SpliceTask) : State :=
  let t1 := { t with phase := .finish, writes := t.writes ++ t.last }
  if t1.writes.isEmpty then s.spliceDone p t1 else s.setWork p (.splice t1)

/-- The reference of the Meet that an end fixed by MET needs (R220). -/
def SpliceEnd.meetRef (e : SpliceEnd) : List Word :=
  match e.state with
  | .met old => [if e.port.toNat ≤ old.toNat then e.port else old]
  | _ => []

/-- Both ends fixed: the consumed ports become redirects, and the Meets follow (R220 steps 4 and 5). -/
def State.spliceRelease (s : State) (p : Party) (t : SpliceTask) : State :=
  let ra := if t.b.isRoot then t.a.far else t.b.far
  let rb := if t.a.isRoot then t.b.far else t.a.far
  let t1 := { t with
    writes := [(refAddr t.a.port, redirectTo ra), (refAddr t.b.port, redirectTo rb)]
    meets := t.a.meetRef ++ t.b.meetRef
    phase := .meets }
  if t1.meets.isEmpty then s.spliceFinish p t1 else s.setWork p (.splice t1)

/-- Both ports taken: two roots empty their cells, and the ends are attached otherwise (R220 step 2). -/
def State.spliceBegin (s : State) (p : Party) (t : SpliceTask) : State :=
  if t.a.isRoot && t.b.isRoot then
    s.setWork p (.splice { t with phase := .finish, writes := [(portTarget t.a.word, 0), (portTarget t.b.word, 0)] })
  else s.setWork p (.splice { t with phase := .attach })

/-- A Take of a splice (R220 step 1). -/
def State.spliceTake (s : State) (p : Party) (t : SpliceTask) : State :=
  let e := if t.phase = .takeFirst then t.a else t.b
  s.step_ p (refAddr e.port) (s.portAt p e.port) fun pa =>
    let w := s.read64 pa
    if s.settling p e.port then s
    else if !portOk w || (portKind w ≠ 1 && portKind w ≠ 3) then (s.stepOn pa).linkFault p
    else
      let s1 := s.stepWrite pa (redirectTo 0)
      if t.phase = .takeFirst then s1.setWork p (.splice { t with a := t.a.taken w, phase := .takeSecond })
      else s1.spliceBegin p { t with b := t.b.taken w }

/-- The splice with one side replaced and the turn passed to the other. -/
def SpliceTask.putSide (t : SpliceTask) (atB : Bool) (e : SpliceEnd) : SpliceTask :=
  if atB then { t with b := e, turnB := false } else { t with a := e, turnB := true }

/-- An Attach of a splice at one side and its answer (R220 step 3). -/
def State.spliceAttachAt (s : State) (p : Party) (t : SpliceTask) (atB : Bool) : State :=
  let e := if atB then t.b else t.a
  let o := if atB then t.a else t.b
  s.step_ p (refAddr e.far) (s.portAt p e.far) fun pa =>
    let w := s.read64 pa
    let go (s' : State) (e' : SpliceEnd) : State :=
      let t' := { t.putSide atB e' with phase := .attach }
      if t'.a.needs t'.b || t'.b.needs t'.a then s'.setWork p (.splice t') else s'.spliceRelease p t'
    if w = e.names then go (s.stepWrite pa o.value) { e with state := .done, names := o.value, held := 0 }
    else if !portOk w || portKind w ≠ 2 then (s.stepOn pa).linkFault p
    else if isHold w then
      (s.stepOn pa).setWork p (.splice { t.putSide atB { e with held := e.held + 1 } with phase := .hold (s.cycle + 16) })
    else go (s.stepOn pa) { e with state := .met e.far, far := portTarget w, held := 0 }

/-- Whether the far end of a side names the side's port, so that an Attach there would be answered DONE. -/
def State.plainEnd (s : State) (p : Party) (e : SpliceEnd) : Bool :=
  match s.check p.die p.ctx .nodeStore (refAddr e.far) 8 with
  | .ok pa _ => s.read64 pa == e.names
  | .fail _ => false

/-- The side a splice attaches next: of two, an end that does not name its port comes before one that does, so that none is
attached before both can be; else they take turns (R220 step 3; log 75). -/
def State.attachSide (s : State) (p : Party) (t : SpliceTask) : Bool :=
  if t.a.needs t.b && t.b.needs t.a then
    if s.plainEnd p t.a == s.plainEnd p t.b then t.turnB else s.plainEnd p t.a
  else !t.a.needs t.b

/-- The Attach a splice makes next (R220 step 3). -/
def State.spliceAttach (s : State) (p : Party) (t : SpliceTask) : State := s.spliceAttachAt p t (s.attachSide p t)

/-! ### Meets (R218 to R220) -/

/-- The reference a party waits on after a FIRST. -/
def Party.waits (p : Party) : Option Word :=
  match p.work with
  | .link k => match k.phase with
    | .waitFirst r _ => some r
    | _ => none
  | .splice t => if t.phase = .waitFirst then t.meets.head? else none

/-- Whether a party is a splice. -/
def Party.isSplice (p : Party) : Bool :=
  match p.work with
  | .splice _ => true
  | .link _ => false

/-- The state after one Meet of a party is answered for good; `push` is whether a link pushes, or whether a splice may
still push (R219, R220). -/
def State.metOnce (s : State) (p : Party) (push : Bool) : State :=
  match p.work with
  | .link k =>
    let dst : Word := match k.phase with
      | .meet _ d => d
      | .waitFirst _ d => d
      | _ => 0
    let s1 := if push && refPort dst = 0 && refPort k.q = 0 then s.pushPair p dst k.q else s
    s1.linkDone p
  | .splice t =>
    let t1 := { t with meets := t.meets.drop 1, pushes := t.pushes && push, phase := .meets }
    if t1.meets.isEmpty then s.spliceFinish p t1 else s.setWork p (.splice t1)

/-- A Meet at a reference: FIRST waits at the home; SECOND completes both parties. A link pushes at SECOND unless the
other party is a splice; a splice answered FIRST by another splice does not push (R218 to R220). -/
def State.meetAt (s : State) (p : Party) (r : Word) (waiting : LinkWork) : State :=
  s.step_ p (refAddr r) (s.portAt p r) fun pa =>
    let w := s.read64 pa
    let p : Party := match p.work with
      | .link k => { p with work := .link { k with hops := max k.hops (s.stepHops p pa) } }
      | .splice _ => p
    if !portOk w || portKind w ≠ 2 then (s.stepOn pa).linkFault p
    else if !portMet w then
      (s.stepWrite pa (w ||| 0x2000000000000000)).setWork p (match waiting, p.work with
        | .link k, .link j => .link { k with hops := j.hops }
        | x, _ => x)
    else match s.parties.find? fun q => q.uid ≠ p.uid && q.ctx = p.ctx && q.waits = some r with
      | none => (s.stepOn pa).metOnce p true
      | some q => ((s.stepOn pa).metOnce p (p.isSplice || !q.isSplice)).metOnce q (q.isSplice && !p.isSplice)

/-! ### Plain writes between steps (R218) -/

/-- The plain writes a party makes before its next step. -/
def LinkWork.writes : LinkWork → List (Word × Word)
  | .link k => k.writes
  | .splice t => t.writes

/-- The work with the first of its writes made. -/
def LinkWork.wrote : LinkWork → LinkWork
  | .link k => .link { k with writes := k.writes.drop 1 }
  | .splice t => .splice { t with writes := t.writes.drop 1 }

/-- Whether a party has nothing left to do. -/
def LinkWork.finished : LinkWork → Bool
  | .link k => k.phase == .finish && k.writes.isEmpty
  | .splice t => t.phase == .finish && t.writes.isEmpty

/-- The state after a party's next plain write, which completes a party that has nothing else to do (R218 to R220). -/
def State.partyWrite (s : State) (p : Party) (w : Word × Word) : State :=
  s.step_ p w.1 (s.wordAt p w.1) fun pa =>
    let s1 := s.stepWrite pa w.2
    let work := p.work.wrote
    if !work.finished then s1.setWork p work
    else match work with
      | .link _ => s1.linkDone { p with work }
      | .splice t => s1.spliceDone p t

/-- What TAKE, ATTACH and MEET do for an issuer: its plain writes that are due, one at a time, and then the step. -/
def State.netEvent (s : State) (issuer : Nat) (f : Party → State) : State :=
  match s.party issuer with
  | none => s
  | some p => match p.work.writes with
    | w :: _ => s.partyWrite p w
    | [] => f p

/-! ### The events -/

/-- TAKE: a link's check of Q and its Take, or a Take of a splice (R218 to R220). -/
def execTake (issuer : Nat) (s : State) : Host.Outcome State Fault Refusal :=
  .next (s.netEvent issuer fun p => match p.work with
    | .link k => if k.phase = .check then s.linkCheck p k else if k.phase = .take then s.linkTake p k else s
    | .splice t => if t.phase = .takeFirst || t.phase = .takeSecond then s.spliceTake p t else s)

/-- ATTACH (R218 to R220). -/
def execAttach (issuer : Nat) (s : State) : Host.Outcome State Fault Refusal :=
  .next (s.netEvent issuer fun p => match p.work with
    | .link k => if k.phase = .attach then s.linkAttach p k else s
    | .splice t => if t.phase = .attach then s.spliceAttach p t else s)

/-- MEET (R218 to R220). -/
def execMeet (issuer : Nat) (s : State) : Host.Outcome State Fault Refusal :=
  .next (s.netEvent issuer fun p => match p.work with
    | .link k => match k.phase with
      | .meet r d => s.meetAt p r (.link { k with phase := .waitFirst r d })
      | _ => s
    | .splice t => match t.phase, t.meets with
      | .meets, r :: _ => s.meetAt p r (.splice { t with phase := .waitFirst })
      | _, _ => s)

/-- LINK_HOLD_RETRY: 16 cycles after HOLD the Attach is due again (R219, R220). -/
def execLinkHoldRetry (issuer : Nat) (s : State) : Host.Outcome State Fault Refusal :=
  match s.party issuer with
  | none => .next s
  | some p => match p.work with
    | .link k => match k.phase with
      | .hold c => .next (if c ≤ s.cycle then s.setWork p (.link { k with phase := .attach }) else s)
      | _ => .next s
    | .splice t => match t.phase with
      | .hold c => .next (if c ≤ s.cycle then s.setWork p (.splice { t with phase := .attach }) else s)
      | _ => .next s

/-! ### Vicious circles (R221) -/

/-- The ports a splice holds and has not released. -/
def SpliceTask.holds (t : SpliceTask) (r : Word) : Bool :=
  match t.phase with
  | .takeSecond => t.a.port == r
  | .attach | .hold _ => t.a.port == r || t.b.port == r
  | _ => false

/-- The splice of a context that holds a port. -/
def State.holder (s : State) (ctx : Nat) (r : Word) : Option (Party × SpliceTask) :=
  s.parties.findSome? fun p => match p.work with
    | .splice t => if p.ctx = ctx && t.holds r then some (p, t) else none
    | .link _ => none

/-- The far end beyond the other port of a splice entered at one port. -/
def SpliceTask.beyond (t : SpliceTask) (r : Word) : SpliceEnd := if t.a.port = r then t.b else t.a

/-- The splices met by following holds from a port until the asking splice is entered at a given port; none where the
chain does not return there. -/
def State.circle (s : State) (ctx uid : Nat) (home : Word) : (fuel : Nat) → (r : Word) → Option (List Nat)
  | 0, _ => none
  | fuel + 1, r =>
    match s.holder ctx r with
    | none => none
    | some (p, t) =>
      if p.uid = uid then (if r = home then some [uid] else none)
      else
        let e := t.beyond r
        if e.isRoot then none else (s.circle ctx uid home fuel e.far).map fun l => p.uid :: l

/-- The state after the splices of a circle vanish, with those they have taken over: they skip their remaining steps
(R221). -/
def State.vanish (s : State) (us : List Nat) : State :=
  let gone := us ++ s.parties.flatMap fun q => if us.contains q.uid then q.work.partners else []
  gone.foldl State.goOn s

/-- The state after a splice takes over the far side of one that holds the other port of their wire: the other is complete
when this one is (R221, R222; log 20). -/
def State.joinSplices (s : State) (p q : Party) (t u : SpliceTask) (e o : SpliceEnd) : State :=
  let s1 := s.setWork q (.splice { u with phase := .joined, partners := [] })
  let t1 : SpliceTask :=
    { a := u.beyond e.far, b := o, turnB := false, meets := [], pushes := t.pushes && u.pushes, phase := .attach, writes := [],
      partners := t.partners ++ q.uid :: u.partners }
  if t1.a.isRoot && t1.b.isRoot then s1.spliceBegin p t1
  else if t1.a.needs t1.b || t1.b.needs t1.a then s1.setWork p (.splice t1)
  else s1.spliceRelease p t1

/-- VICIOUS_CIRCLE: a splice that has met one hold 64 times asks for its holder. On a closed circle every splice vanishes.
Two splices that hold both ports of one wire join (R221, R222; log 20). -/
def execViciousCircle (issuer : Nat) (s : State) : Host.Outcome State Fault Refusal :=
  match s.party issuer with
  | none => .next s
  | some p => match p.work with
    | .link _ => .next s
    | .splice t =>
      let e := if t.turnB then t.a else t.b
      let o := if t.turnB then t.b else t.a
      match t.phase with
      | .hold _ =>
        if e.held < 64 then .next s
        else match s.circle p.ctx p.uid o.port (s.parties.length + 1) e.far with
        | some us => .next (s.vanish us)
        | none => match s.holder p.ctx e.far with
          | none => .next s
          | some (q, u) =>
            let facing := if u.a.port = e.far then u.a else u.b
            if q.uid ≠ p.uid && facing.far = e.port && u.phase ≠ .takeSecond then .next (s.joinSplices p q t u e o)
            else .next s
      | _ => .next s

end Sys2Proof.Machine
end

