-- ==== Sys2Proof/Machine/Logs.lean ====
section
/-! DEFINITION. Eviction areas and inbound logs (R354, R355). -/

namespace Sys2Proof.Machine

/-- The eviction area in force of a context on a core (R354). -/
def Core.areaOf (x : Core) (ctx : Nat) : Option Word := (x.evicted.find? fun e => e.1 = ctx).map (·.2)

/-- An 8-byte word of an eviction area. -/
def State.areaRead (s : State) (die ctx : Nat) (area : Word) (off : Nat) : Word :=
  match s.translate die ctx .store (area + w64 off) with
  | .ok pa _ => s.read64 pa
  | .fail _ => 0

/-- The state with an 8-byte word of an eviction area written. -/
def State.areaWrite (s : State) (die ctx : Nat) (area : Word) (off : Nat) (x : Word) : State :=
  match s.translate die ctx .store (area + w64 off) with
  | .ok pa _ => s.write64 pa x
  | .fail _ => s

/-- The size L of an inbound log (R354). -/
def State.logSize (s : State) (die ctx : Nat) (area : Word) : Nat := (s.areaRead die ctx area 0x10).toNat
/-- The bytes written to an inbound log since it was set up (R354). -/
def State.logWritten (s : State) (die ctx : Nat) (area : Word) : Nat := (s.areaRead die ctx area 0x18).toNat
/-- The bytes of an inbound log that stand in it. -/
def State.logUsed (s : State) (die ctx : Nat) (area : Word) : Nat :=
  (s.areaRead die ctx area 0x18 - s.areaRead die ctx area 0x20).toNat

/-- The offset of a byte of the log's ring in its area (R354). -/
def State.logOffset (s : State) (die ctx : Nat) (area : Word) (n : Nat) : Nat :=
  0x8000 + (s.areaRead die ctx area 8).toNat + n % s.logSize die ctx area

/-- The 8-byte words of a payload, padded to 16 bytes (R355). -/
def payloadWords (bs : List Byte) : List Word :=
  (List.range ((bs.length + 15) / 16 * 2)).map fun k => w64 (ofBytes ((bs.drop (8 * k)).take 8))

/-- An inbound log entry: its kind, address, source, length, and payload (R355). -/
structure LogEntry where
  kind    : Nat
  addr    : Word
  source  : BitVec 24
  length  : Nat
  payload : List Byte

/-- The words of an entry (R355). -/
def LogEntry.words (e : LogEntry) : List Word :=
  [w64 (e.kind * 2 ^ 56) ||| (e.addr &&& 0x0000FFFFFFFFFFFF), w64 (e.source.toNat * 2 ^ 40 + e.length)] ++ payloadWords e.payload

/-- The state after the entries of one message are appended to the log of a context evicted from a core; none while the log
has no room for them. Management is told when the log passes three quarters (R355). -/
def State.logAppend (s : State) (die ctx : Nat) (area : Word) (es : List LogEntry) : Option State :=
  let ws := es.flatMap LogEntry.words
  let used := s.logUsed die ctx area
  let size := s.logSize die ctx area
  let n := 8 * ws.length
  if size < used + n then none
  else
    let base := s.logWritten die ctx area
    let s1 := ((List.range ws.length).zip ws).foldl (fun (x : State) w =>
      x.areaWrite die ctx area (s.logOffset die ctx area (base + 8 * w.1)) w.2) s
    let s2 := s1.areaWrite die ctx area 0x18 (w64 (base + n))
    some (if 4 * used ≤ 3 * size && 3 * size < 4 * (used + n) then s2.tell (.logFilling ctx) else s2)

/-- The state after a record for a context evicted from a core is appended to its log, with the writer id of the thread that
sent it, or 0 for a unit's (R237, R355). -/
def State.logRecord (s : State) (die core ctx : Nat) (area : Word) (source : BitVec 24) (w : Word × Word) : Option State :=
  (s.logAppend die ctx area [⟨4, refNode w.1, source, 16, bytesOf 8 w.1.toNat ++ bytesOf 8 w.2.toNat⟩]).map fun s1 =>
    { s1 with logged := s1.logged ++ [.record die core ctx w.1 w.2] }

end Sys2Proof.Machine
end

