-- ==== Sys2Proof/Machine/Rewrites.lean ====
section
/-! DEFINITION. Dispatch, the rewrite unit's built-in actions, and the wake of a drain (R28, R212 to R214, R217, R238,
R300). -/

namespace Sys2Proof.Machine

/-! ### Dispatch (R28, R238) -/

/-- Whether a record may be taken: its energy is within the headroom, or its priority is 3 (R238). -/
def HodEntry.eligible (e : HodEntry) (headroom : Nat) : Bool := recPrio e.w0 = 3 || recEnergy e.w0 ≤ headroom

/-- The record taken first of a list: the highest class, the last to enter among equals (R238). -/
def bestRecord : List HodEntry → Option HodEntry
  | [] => none
  | e :: r => match bestRecord r with
    | some x => if recPrio x.w0 < recPrio e.w0 then some e else some x
    | none => some e

/-- The record a core takes for a slot of a context (R28, R238). -/
def State.nextRecord (s : State) (die core ctx : Nat) : Option HodEntry :=
  bestRecord ((s.core die core).hod.filter fun e => recCtx e.w0 = ctx && e.eligible (s.die die).headroom.toNat)

/-- The weight of a context on a core (R30). -/
def Core.weightOf (x : Core) (ctx : Nat) : Nat := (lookupD 0 ctx x.weights).toNat

/-- The state after a thread starts by CALL: s1 and s2 hold the nodes (R28). How many cycles after the take its first word issues the
spec leaves open ("a few"); the model has it ready in the take's own cycle (log 83). -/
def State.callThread (s : State) (p : Place) (ctx : Nat) (handler a b : Word) : State :=
  s.startThread p ctx handler [0, a, b] (s.record ctx 3) a

/-- Whether the rewrite unit of a core can take a pair of a context: a place is free, and no record of the unit is held
(R213, R241). -/
def Core.unitFree (x : Core) (ctx : Nat) : Bool :=
  x.rewrites.length < 8 && !(x.held.any fun r => r.ctx = ctx && r.src == .unit)

/-- Whether the rewrite unit of a core takes a pair of a context: it is free, and no record of it waits at a core that already holds
16 (R241). -/
def State.unitOpen (s : State) (die core ctx : Nat) : Bool :=
  (s.core die core).unitFree ctx &&
  !(16 ≤ (s.core die core).heldCount ctx &&
    s.fresh.any fun r => r.die = die && r.core = core && r.ctx = ctx && r.src == .unit)

/-- What a take does with a record for a slot, by its rule entry; none while a node's scratchpad is away, or a step has
been made this cycle on a block it reads. A take that had to wait for the rewrite unit has its record no more (R28, R154,
R238). The spec leaves two points open, which the model settles so: in the fault thread of a pair with a node that cannot be read,
the record's first node is A (log 89); and a built-in take that the unit cannot do is made and waits, and with it the core's other
takes, also while the unit holds back for a held record (R241; log 90). -/
def State.dispatch (s0 : State) (p : Place) (e : HodEntry) : Option State :=
  let ctx := recCtx e.w0
  let x := recA e.w0
  let y := recB e.w1
  let s := (s0.readOn p.die ctx [x, y]).modCore p.die p.core fun c => { c with takeBusy := none }
  match s0.readNode p.die ctx x, s0.readNode p.die ctx y with
  | .ok hx _ px qx _, .ok hy _ py qy _ =>
    let cx := s.classOf ctx (nodeTag hx)
    let cy := s.classOf ctx (nodeTag hy)
    let fst := firstIsA cx cy x y
    let a := if fst then x else y
    let b := if fst then y else x
    let idx := if fst then cx * 256 + cy else cy * 256 + cx
    let r := s.ruleRead p.die p.core ctx idx
    let act := ruleAction r.2
    if s0.ruleBusy p.die p.core ctx idx then none
    else if nodeBad hx px qx || nodeBad hy py qy || act = 0 then some (r.1.faultThread p ctx a b)
    else if act = 4 then some (r.1.callThread p ctx (ruleHandler r.2) a b)
    else if !r.1.unitOpen p.die p.core ctx then
      some (r.1.modCore p.die p.core fun c => { c with takeBusy := some (p.slot, e) })
    else
      let n := r.1.nextId
      let job : Rewrite :=
        { uid := n, ctx, die := p.die, core := p.core, action := BitVec.ofNat 4 act, w0 := e.w0, w1 := e.w1, a, b,
          begun := false, faulted := false, writes := [], todo := [], cur := none, frees := [] }
      some ({ r.1 with nextId := n + 1 }.modCore p.die p.core fun c => { c with rewrites := c.rewrites ++ [job] })
  | .away, _ => none
  | _, .away => none
  | _, _ => some (s.faultThread p ctx x y)

/-- DISPATCH_TAKE: a record is taken for a free slot of its context, at most one on a core in a cycle; a take that waits
for the rewrite unit goes on once a place is free (R28, R238). -/
def execDispatchTake (p : Place) (s : State) : Host.Outcome State Fault Refusal :=
  let x := s.core p.die p.core
  match x.takeBusy with
  | some (k, e) =>
    if k = p.slot && !(s.die p.die).halt && s.unitOpen p.die p.core (recCtx e.w0) then .next ((s.dispatch p e).getD s) else .next s
  | none =>
    match (s.slot p).owner with
    | none => .next s
    | some ctx =>
      if (s.die p.die).halt || x.lastTake = some s.cycle || x.weightOf ctx = 0 || !x.resident ctx || !s.slotFor p ctx then
        .next s
      else match s.nextRecord p.die p.core ctx with
        | none => .next s
        | some e =>
          let s1 := (s.modCore p.die p.core fun c =>
            { c with hod := dropFirst (fun h => h == e) c.hod, lastTake := some s.cycle }).modStatus p.die ctx fun c =>
              { c with consumed := c.consumed + 1 }
          .next ((s1.dispatch p e).getD s)

/-! ### Rewrites (R213, R214) -/

/-- What a rewrite is to do once its checks have passed: the words of its new nodes, and its links. -/
structure Plan where
  nodes : List (Word × Word × Word)   -- word 0, port 1 and port 2 of each new node
  todo  : List LinkWork

/-- A link still to perform. -/
def linkWork (p q : Word) : LinkWork := .link { p, q, x := 0, phase := .check, held := 0, hops := 0, writes := [] }

/-- A side of a splice before its Take. -/
def SpliceEnd.start (p : Word) : SpliceEnd := ⟨p, 0, 0, 0, .free, 0⟩

/-- A splice still to perform. -/
def spliceWork (p q : Word) : LinkWork :=
  .splice { a := .start p, b := .start q, turnB := false, meets := [], pushes := true, phase := .takeFirst, writes := [],
            partners := [] }

/-- The number of new nodes an action needs (R214). -/
def planSize (act : Nat) (ha hb : Word) : Nat :=
  match act with
  | 2 => nodeArity ha + nodeArity hb
  | 3 => if nodeTag ha = 1 then nodeArity hb else nodeArity ha
  | 5 => 1
  | _ => 0

/-- A NUMOP operator on signed 40-bit operands (R214). -/
def numOp (label : Nat) (x y : BitVec 40) : Option (BitVec 40) :=
  let a := x.toInt
  let b := y.toInt
  let sh := (b % 64).toNat
  match label with
  | 2 => some (x + y)
  | 3 => some (x - y)
  | 4 => some (x * y)
  | 5 => some (if b = 0 then 0 else BitVec.ofInt 40 (a.tdiv b))
  | 6 => some (if b = 0 then x else BitVec.ofInt 40 (a - b * a.tdiv b))
  | 7 => some (x &&& y)
  | 8 => some (x ||| y)
  | 9 => some (x ^^^ y)
  | 10 => some (if 40 ≤ sh then 0 else x <<< sh)
  | 11 => some (BitVec.ofInt 40 (a / 2 ^ sh))
  | 12 => some (if a < b then 1 else 0)
  | 13 => some (if a = b then 1 else 0)
  | 14 => some (if a ≤ b then x else y)
  | 15 => some (if a ≤ b then y else x)
  | _ => none

/-- The header of an OP1 node (R209, R214). -/
def op1Header (payload : BitVec 40) (label : Nat) : Word := (zx payload <<< 24) ||| w64 (label * 2 ^ 18 + 2 ^ 16 + 7)

/-- The header of a NUM node (R209, R214). -/
def numHeader (payload : BitVec 40) : Word := (zx payload <<< 24) ||| 4

/-- ANNIHILATE (R214). -/
def planAnnihilate (a b ha hb : Word) : Option Plan :=
  if nodeArity ha ≠ nodeArity hb then none
  else some ⟨[], (List.range (nodeArity ha)).map fun k => spliceWork (a + w64 (k + 1)) (b + w64 (k + 1))⟩

/-- COMMUTE on the nodes popped: copies of B, then copies of A, wired to each other (R214). -/
def planCommute (a b ha hb : Word) (ns : List Word) : Option Plan :=
  let m := nodeArity ha
  let n := nodeArity hb
  let copyB (k : Nat) : Word := ns.getD k 0
  let copyA (j : Nat) : Word := ns.getD (m + j) 0
  let wire (arity j : Nat) (n : Word) (port : Nat) : Word := if j < arity then linkTo (n + w64 port) else 0
  some ⟨((List.range m).map fun k => (hb, wire n 0 (copyA 0) (k + 1), wire n 1 (copyA 1) (k + 1))) ++
      ((List.range n).map fun j => (ha, wire m 0 (copyB 0) (j + 1), wire m 1 (copyB 1) (j + 1))),
    ((List.range m).map fun k => linkWork (a + w64 (k + 1)) (copyB k)) ++
      ((List.range n).map fun j => linkWork (b + w64 (j + 1)) (copyA j))⟩

/-- ERASE (R214). -/
def planErase (a b ha hb : Word) (ns : List Word) : Option Plan :=
  if nodeTag ha ≠ 1 && nodeTag hb ≠ 1 then none
  else
    let n := if nodeTag ha = 1 then b else a
    some ⟨ns.map fun _ => (1, 0, 0), ns.mapIdx fun k e => linkWork (n + w64 (k + 1)) e⟩

/-- NUMOP (R214). -/
def planNumop (a b ha hb : Word) (ns : List Word) : Option Plan :=
  let r := ns.getD 0 0
  let f (op hn ho : Word) : Option Plan :=
    if nodeTag hn ≠ 4 then none
    else if nodeTag ho = 6 then
      if (numOp (nodeLabel ho) 0 0).isNone then none
      else some ⟨[(op1Header (nodePayload hn) (nodeLabel ho), 0, 0)], [linkWork (op + 2) (r + 1), linkWork (op + 1) r]⟩
    else if nodeTag ho = 7 then
      (numOp (nodeLabel ho) (nodePayload ho) (nodePayload hn)).map fun x =>
        ⟨[(numHeader x, 0, 0)], [linkWork (op + 1) r]⟩
    else none
  (f b ha hb).orElse fun _ => f a hb ha

/-- The state after a fault thread has been started for a rewrite, which ends; it waits for a free slot of its context
(R212). -/
def State.unitFault (s : State) (r : Rewrite) : State :=
  match s.freeFor r.die r.core r.ctx with
  | none => s
  | some p => (s.modCore r.die r.core fun x => { x with rewrites := x.rewrites.filter fun y => y.uid ≠ r.uid }).faultThread
      p r.ctx r.a r.b

/-- The words a unit writes into a new node: its header, and the wires of its ports 1 and 2 (R213 step 4). -/
def nodeWords (n h p1 p2 : Word) : List (Word × Word) :=
  (n, h) :: [(n + 16, p1), (n + 24, p2)].filter fun w => w.2 ≠ 0

/-- A header with tag 9 (R213). -/
def rdrHeader (h : Word) : Word := (h &&& 0xFFFFFFFFFFFF0000) ||| 9

/-- The quarry cannot supply a rewrite's nodes: the record returns unchanged to the hod, or to the partition if the hod has
filled, and the event is logged; it waits while neither has room (R213, R217, R236). -/
def State.unitEmpty (s : State) (r : Rewrite) : State :=
  let s1 := (s.unpop r.die r.core r.ctx r.uid).modCore r.die r.core fun x =>
    { x with rewrites := x.rewrites.filter fun y => y.uid ≠ r.uid }
  match s1.placeRecord r.die r.core r.ctx r.w0 r.w1 none with
  | none => s
  | some s2 =>
    ((s2.modStatus r.die r.ctx fun c => { c with consumed := c.consumed - 1 }).faultRecord r.ctx 3 causeQuarry 0 0 r.a).tell
      (.quarryEmpty r.ctx r.a)

/-- The state after a rewrite's checks have failed: once a slot is free for its fault thread (R154, R212, R213). -/
def State.checkFault (s : State) (r : Rewrite) : State :=
  if (s.freeFor r.die r.core r.ctx).isNone then s else (s.readOn r.die r.ctx [r.a, r.b]).unitFault r

/-- A rewrite begins: its checks are made and its nodes popped, as `alloc` pops them, and tag 9 for its pair and the words of its new
nodes are due (R213 steps 1 to 4, R216). -/
def State.beginRewrite (s : State) (r : Rewrite) (plan : (a b ha hb : Word) → List Word → Option Plan) : State :=
  match s.readNode r.die r.ctx r.a, s.readNode r.die r.ctx r.b with
  | .away, _ => s
  | _, .away => s
  | .ok ha _ pa qa _, .ok hb _ pb qb _ =>
    if nodeBad ha pa qa || nodeBad hb pb qb || (plan r.a r.b ha hb []).isNone then s.checkFault r
    else
      let s0 := s.regain r.die r.core r.ctx
      match s0.popNodes r.die r.core r.ctx r.uid (planSize r.action.toNat ha hb) with
      | none => if s.quarryLeft r.ctx then s0.wantNodes r.die r.core r.ctx r.uid else s0.unitEmpty r
      | some (ns, s1) =>
        if ns.any fun x => s.zeroing r.die r.ctx x then s
        else match plan r.a r.b ha hb ns with
        | none => s.checkFault r
        | some pl =>
          let pair := if r.a = r.b then [(r.a, rdrHeader ha)] else [(r.a, rdrHeader ha), (r.b, rdrHeader hb)]
          (s1.readOn r.die r.ctx [r.a, r.b]).modJob r fun x => { x with
            begun := true
            writes := pair ++ (ns.zip pl.nodes).flatMap fun e => nodeWords e.1 e.2.1 e.2.2.1 e.2.2.2
            todo := pl.todo
            frees := if r.a = r.b then [r.a] else [r.a, r.b] }
  | _, _ => s.checkFault r

/-- A write of a rewrite at an address, in the order of its die's accesses; a refusal is answered fault (R213, R361). -/
def State.unitStep (s : State) (r : Rewrite) (va : Word) (n : Nat) (f : Nat → State) : State :=
  match s.stepAt r.die r.ctx none va n with
  | .fault | .lost => s.jobFault r.uid
  | .wait => s
  | .at_ pa => f pa

/-- The state after a rewrite writes the next word of its pair or its new nodes (R213 steps 3 and 4). -/
def State.unitWrite (s : State) (r : Rewrite) (w : Word × Word) : State :=
  s.unitStep r w.1 8 fun pa => (s.stepWrite pa w.2).modJob r fun x => { x with writes := x.writes.drop 1 }

/-- The state after a rewrite frees the next of its nodes, which is zeroed and goes on the core's stack (R213 step 6,
R223). -/
def State.unitFree (s : State) (r : Rewrite) (n : Word) : State :=
  s.unitStep r n 32 fun pa =>
    ((((s.stepOn pa).writeNat pa 32 0).regain r.die r.core r.ctx).pushNode r.die r.core r.ctx n).modJob r fun x =>
      { x with frees := x.frees.drop 1 }

/-- A step of a rewrite of one action, between its links (R213). -/
def State.rewriteStep (s : State) (uid act : Nat) (plan : (a b ha hb : Word) → List Word → Option Plan) : State :=
  match s.jobOf uid with
  | none => s
  | some r =>
    if r.action.toNat ≠ act then s
    else if r.faulted then s.unitFault r
    else if !r.begun then s.beginRewrite r plan
    else match r.writes, r.cur, r.todo, r.frees with
      | w :: _, _, _, _ => s.unitWrite r w
      | [], some _, _, _ => s
      | [], none, _ :: _, _ => s.modJob r Rewrite.nextLink
      | [], none, [], n :: _ => s.unitFree r n
      | [], none, [], [] => s.modCore r.die r.core fun x => { x with rewrites := x.rewrites.filter fun y => y.uid ≠ r.uid }

/-- ANNIHILATE (R213, R214). -/
def execAnnihilate (job : Nat) (s : State) : Host.Outcome State Fault Refusal :=
  .next (s.rewriteStep job 1 fun a b ha hb _ => planAnnihilate a b ha hb)
/-- COMMUTE (R213, R214). -/
def execCommute (job : Nat) (s : State) : Host.Outcome State Fault Refusal := .next (s.rewriteStep job 2 planCommute)
/-- ERASE (R213, R214). -/
def execErase (job : Nat) (s : State) : Host.Outcome State Fault Refusal := .next (s.rewriteStep job 3 planErase)
/-- NUMOP (R213, R214). -/
def execNumop (job : Nat) (s : State) : Host.Outcome State Fault Refusal := .next (s.rewriteStep job 5 planNumop)

/-! ### The wake of a drain (R300) -/

/-- DRAIN_WAKE: word 1 of the wake node is read at its home; a link to a port 0 makes the pair's record, and the drain is
complete once that is written; anything else starts a fault thread; a node that cannot be read is a late fault of the drain
(R300, R308). -/
def execDrainWake (op : Nat) (s : State) : Host.Outcome State Fault Refusal :=
  match s.ops.find? fun o => o.uid = op with
  | none => .next s
  | some o =>
    let w := o.regs.getD 1 0
    if o.phase == .waking then .next (s.opReads o .nodeLoad .wakeReading [(0, w + 8, 8)])
    else if o.phase != .wakeRead then .next s
    else match o.bad with
    | some (c, va) => .next (s.opFault o (zx c) va)
    | none =>
      let x := w64 (o.val 0)
      if portOk x && portKind x == 1 && refPort (portTarget x) == 0 then
        .next ((s.createRecord .wake op o.ctx o.place.die o.place.core w (portTarget x)).modOp op fun y =>
          { y with phase := .recording })
      else match s.freeFor o.place.die o.place.core o.ctx with
        | none => .next s
        | some p => .next ((s.faultThread p o.ctx w 0).opDone o)

end Sys2Proof.Machine
end

