-- ==== Sys2Proof/Machine/Records.lean ====
section
/-! DEFINITION. Pair records on their way to dispatch: classification, hods, spill partitions, stealing, aging, balancing,
the quiescence wave and the slot arbiter (R30, R235 to R245, R247). -/

namespace Sys2Proof.Machine

/-! ### New records (R230, R235, R237, R241, R247) -/

/-- The state with the words of a new record filled in. -/
def State.setWords (s : State) (n : Nat) (w : Word × Word) : State :=
  { s with fresh := modFirst (fun r => r.id = n) (fun r => { r with words := some w }) s.fresh }

/-- RECORD_CLASSIFY: a new record is classified; one of a `push` once its thread's earlier accesses are performed (R230,
R235). -/
def execRecordClassify (n : Nat) (s : State) : Host.Outcome State Fault Refusal :=
  match s.fresh.find? fun r => r.id = n with
  | none => .next s
  | some r =>
    if r.words.isSome || (r.src == .push && s.unperformed r.owner n) then .next s
    else match s.classify r.die r.core r.ctx r.a r.b with
    | none => .next s
    | some (s1, w) => .next (s1.setWords n w)

/-- The lamp die in service nearest a record's affinity die, the lowest index among equals (R247). -/
def nearestDie (aff : Nat) : List Nat → Option Nat
  | [] => none
  | d :: r => match nearestDie aff r with
    | some e => if gridDist e aff < gridDist d aff then some e else some d
    | none => some d

/-- The core that an intake record of a context enters on a die: the first from the context's pointer that holds a slot of
its own (R247). -/
def State.intakeCore (s : State) (die ctx : Nat) : Option Nat :=
  let p := ((s.ctxInfo? ctx).map (·.intakePtr)).getD 0
  ((List.range 16).map fun k => (p + k) % 16).find? fun c =>
    (List.range 16).any fun k => (s.slot ⟨die, c, k⟩).owner == some ctx

/-- The state after a record is sent to its hod or partition from a die's core; none if neither has room. A context evicted
from the core keeps it in its inbound log, under its sender's writer id (R237, R355). -/
def State.sendRecord (s : State) (die core ctx : Nat) (source : BitVec 24) (w : Word × Word) (op : Option Nat) : Option State :=
  match (s.core die core).areaOf ctx with
  | some area => (s.logRecord die core ctx area source w).map fun s1 => s1.wakeDone op
  | none => s.placeRecord die core ctx w.1 w.2 op

/-- The state after a record of the intake unit enters the die and core chosen for it; none while there is no room
(R247). -/
def State.sendIntake (s : State) (ctx : Nat) (w : Word × Word) : Option State :=
  match nearestDie (recAffinity w.2) s.inService with
  | none => none
  | some d =>
    match s.intakeCore d ctx with
    | some c => (s.sendRecord d c ctx 0 w none).map fun s1 => s1.modCtx ctx fun x => { x with intakePtr := (c + 1) % 16 }
    | none =>
      if s.partRoom ctx d = 0 then none
      else some { s with spilling := s.spilling ++ [⟨d, ctx, w.1, w.2, none⟩] }

/-- The drain that a record wakes. -/
def FreshRec.op (r : FreshRec) : Option Nat := if r.src == .wake then some r.owner else none

/-- PAIR_RECORD_SEND: a classified record enters its core's hod or the die's partition; one without room is held at the
core, which holds at most 16 of a context, or at the intake unit (R230, R237, R241, R247). -/
def execPairRecordSend (n : Nat) (s : State) : Host.Outcome State Fault Refusal :=
  match s.fresh.find? fun r => r.id = n with
  | none => .next s
  | some r =>
    match r.words with
    | none => .next s
    | some w =>
      let s1 : State := { s with fresh := s.fresh.filter fun q => q.id ≠ n }
      if r.src == .intake then .next ((s1.sendIntake r.ctx w).getD s)
      else match s1.sendRecord r.die r.core r.ctx r.wid w r.op with
      | some s2 => .next s2
      | none =>
        if 16 ≤ (s.core r.die r.core).heldCount r.ctx then .next s
        else .next (s1.modCore r.die r.core fun x => { x with held := x.held ++ [r] })

/-- HELD_RECORD_WRITE (R241). -/
def execHeldRecordWrite (die : Nat) (core : Nat) (ctx : Nat) (s : State) : Host.Outcome State Fault Refusal :=
  match (s.core die core).held.find? fun r => r.ctx = ctx with
  | none => .next s
  | some r =>
    match s.sendRecord die core ctx r.wid (r.words.getD (0, 0)) r.op with
    | none => .next s
    | some s1 => .next (s1.modCore die core fun x => { x with held := dropFirst (fun q => q.id = r.id) x.held })

/-! ### Spill partitions (R240) -/

/-- SPILL_WRITE: the oldest record on its way to a die's partition is written at its tail, where it has room (R240, R300). -/
def execSpillWrite (die : Nat) (ctx : Nat) (s : State) : Host.Outcome State Fault Refusal :=
  let mine (r : SpillRec) : Bool := r.die = die && r.ctx = ctx
  match s.spilling.find? mine with
  | none => .next s
  | some r =>
    if s.partSize ctx ≤ s.partHeld ctx die then .next s
    else .next (({ s with spilling := dropFirst mine s.spilling }.partAppend ctx die r.w0 r.w1).wakeDone r.op)

/-- Whether a core can use more records of a context: it has a free slot of it and no eligible record (R240). -/
def State.wantsRecords (s : State) (die core ctx : Nat) : Bool :=
  let x := s.core die core
  x.resident ctx &&
  ((List.range 16).any fun k => (s.slot ⟨die, core, k⟩).owner == some ctx && s.slotFree ⟨die, core, k⟩) &&
  !(x.hod.any fun e => recCtx e.w0 = ctx && e.eligible (s.die die).headroom.toNat)

/-- The room of a hod for a context's records (R237, R240). -/
def Core.room (x : Core) (ctx : Nat) : Nat := min (x.capOf ctx - x.hodCount ctx) (Config.hodEntries - x.hod.length)

/-- SPILL_READ: up to 8 of the oldest records of a die's partition go to the first core, after the one that last spilled,
that wants them (R240). -/
def execSpillRead (die : Nat) (core : Nat) (ctx : Nat) (s : State) : Host.Outcome State Fault Refusal :=
  let last := lookupD 15 ctx (s.die die).lastSpill
  let first := ((List.range 16).map fun k => (last + 1 + k) % 16).find? fun c => s.wantsRecords die c ctx
  if first ≠ some core then .next s
  else
    let n := min 8 (min (s.partHeld ctx die) ((s.core die core).room ctx))
    let a := s.partAddr ctx die
    let r := (s.read64 (a + 8)).toNat
    let s1 := (List.range n).foldl (fun (x : State) k =>
      let slot := a + 64 + 16 * ((r + k) % s.partSize ctx)
      x.hodEnter die core (s.read64 slot) (s.read64 (slot + 8))) s
    .next (s1.write64 (a + 8) (w64 (r + n)))

/-- The eligible records of a context in a hod. -/
def State.eligibleOf (s : State) (die core ctx : Nat) : List HodEntry :=
  (s.core die core).hod.filter fun e => recCtx e.w0 = ctx && e.eligible (s.die die).headroom.toNat

/-- The core with the most of something, the lowest number among equals. -/
def mostOf (f : Nat → Nat) : List Nat → Option Nat
  | [] => none
  | c :: r => match mostOf f r with
    | some d => if f c < f d then some d else some c
    | none => some c

/-- HOD_STEAL: an idle core takes the oldest half, rounded up and at most 8, of the eligible records of the core of its
die that has most (R243). -/
def execHodSteal (die : Nat) (core : Nat) (ctx : Nat) (s : State) : Host.Outcome State Fault Refusal :=
  if !s.wantsRecords die core ctx || s.partHeld ctx die ≠ 0 then .next s
  else match mostOf (fun c => (s.eligibleOf die c ctx).length) ((List.range 16).filter (· ≠ core)) with
  | none => .next s
  | some c =>
    let es := s.eligibleOf die c ctx
    let n := min (min 8 ((es.length + 1) / 2)) ((s.core die core).room ctx)
    let taken := es.take n
    let s1 := s.modCore die c fun x => { x with hod := taken.foldl (fun h e => dropFirst (· == e) h) x.hod }
    .next (taken.foldl (fun (x : State) e => x.hodEnter die core e.w0 e.w1) s1)

/-- The record of a hod entry one priority class higher (R238). -/
def HodEntry.rise (e : HodEntry) (now : Nat) : HodEntry :=
  { e with w0 := e.w0 + 0x0100000000000000, rose := now }

/-- AGING_RISE: the entry at a place of a hod that has waited 65,536 cycles since it entered or last rose gains a class
(R238). -/
def execAgingRise (die : Nat) (core : Nat) (n : Nat) (s : State) : Host.Outcome State Fault Refusal :=
  match (s.core die core).hod[n]? with
  | none => .next s
  | some e =>
    if recPrio e.w0 < 3 && e.rose + 65536 ≤ s.cycle then
      .next (s.modCore die core fun x => { x with hod := x.hod.set n (e.rise s.cycle) })
    else .next s

/-! ### Balancing (R244) -/

/-- The lamp dies two hops from a die (R244). -/
def twoHops (d : Nat) : List Nat := lampDies.filter fun e => gridDist d e = 2

/-- A die's count of a context's records: its hods and its partition (R244). -/
def State.recordCount (s : State) (die ctx : Nat) : Nat :=
  ((List.range 16).map fun c => (s.core die c).hodCount ctx).sum + s.partCount ctx die

/-- The list sorted by a number, equal ones in their order. -/
def sortOn {α : Type} (f : α → Nat) (l : List α) : List α :=
  let ins (a : α) (r : List α) : List α := r.takeWhile (fun b => f b ≤ f a) ++ a :: r.dropWhile (fun b => f b ≤ f a)
  l.foldl (fun r a => ins a r) []

/-- The records of a die's hods that balancing may send to a neighbour, nearest affinity first and then oldest, with their
cores (R244). -/
def State.candidates (s : State) (die ctx nb : Nat) : List (Nat × HodEntry) :=
  let all := (List.range 16).flatMap fun c =>
    ((s.core die c).hod.filter fun e => recCtx e.w0 = ctx && recPrio e.w0 < 3 && !recMoved e.w1).map fun e => (c, e)
  sortOn (fun x => s.hops nb (recAffinity x.2.w1)) (sortOn (fun x => x.2.entered) all)

/-- A die with the latest advertisement of another kept (R244). -/
def Die.putAdvert (x : Die) (die ctx count room : Nat) : Die :=
  let rest := x.adverts.filter fun a => !(a.1 = die && a.2.1 = ctx)
  { x with adverts := (die, ctx, count, room) :: rest }

/-- The state after a die compares its count with one neighbour's advertisement and sends it a batch if it is due
(R244). -/
def State.balanceWith (s : State) (die ctx nb : Nat) : State :=
  match (s.die die).adverts.find? fun a => a.1 = nb ∧ a.2.1 = ctx with
  | none => s
  | some (_, _, count, room) =>
    if s.recordCount die ctx ≤ 2 * count + 16 then s
    else
      let xs := (s.candidates die ctx nb).take (min 16 room)
      if xs.isEmpty then s
      else
        let s1 := xs.foldl (fun (x : State) e => x.modCore die e.1 fun c => { c with hod := dropFirst (· == e.2) c.hod }) s
        let s2 := s1.modDie die fun d => d.putAdvert nb ctx (count + xs.length) (room - xs.length)
        { s2 with batches := s2.batches ++ [(nb, ctx, xs.map fun e => (e.2.w0, e.2.w1 ||| 0x0001000000000000))] }

/-- BALANCE_ADVERTISE: every 4,096 cycles a die compares its count with its neighbours' and advertises its own (R244). -/
def execBalanceAdvertise (die : Nat) (ctx : Nat) (s : State) : Host.Outcome State Fault Refusal :=
  if s.cycle % 4096 ≠ 0 || !s.inService.contains die || (s.die die).advertised.contains (ctx, s.cycle) then .next s
  else
    let nbs := (twoHops die).filter fun d => !(s.die d).outOfService
    let s1 := nbs.foldl (fun (x : State) nb => x.balanceWith die ctx nb) s
    let count := s1.recordCount die ctx
    let room := s1.partRoom ctx die
    let s2 := nbs.foldl (fun (x : State) nb => x.modDie nb fun d => d.putAdvert die ctx count room) s1
    .next (s2.modDie die fun d => { d with advertised := putKey ctx s.cycle d.advertised })

/-- BALANCE_BATCH: a batch on its way is placed in the neighbour's partition; it waits where that has no room left, which
two senders or the die's own spills can bring about (R241, R244). -/
def execBalanceBatch (n : Nat) (s : State) : Host.Outcome State Fault Refusal :=
  match s.batches[n]? with
  | none => .next s
  | some (die, ctx, rs) =>
    if s.partSize ctx < s.partHeld ctx die + rs.length then .next s
    else .next (rs.foldl (fun (x : State) r => x.partAppend ctx die r.1 r.2) { s with batches := s.batches.eraseIdx n })

/-! ### Quiescence (R32, R245) -/

/-- The combined status word of a context (R245). -/
def State.statusWord (s : State) (ctx : Nat) : BitVec 128 :=
  let sts := s.dies.map fun d => d.2.statusOf ctx
  let running := min 131071 (s.threadsOf ctx).length
  let engines := min 32767 (s.ops.filter fun o => o.ctx = ctx).length
  (sts.map (·.created)).sum ++ (sts.map (·.consumed)).sum ++ (sts.map (·.sent)).sum ++ (sts.map (·.placed)).sum ++
    BitVec.ofNat 17 running ++ BitVec.ofNat 15 engines

/-- Whether a combined word shows no work (R245). -/
def statusQuiet (w : BitVec 128) : Bool :=
  w.extractLsb' 96 32 == w.extractLsb' 64 32 && w.extractLsb' 48 16 == w.extractLsb' 32 16 && w.extractLsb' 0 32 == 0

/-- The state after a wave of one context: two alike that show no work declare it quiescent (R245). -/
def State.waveOf (s : State) (c : CtxInfo) : State :=
  let w := s.statusWord c.n
  let s1 := s.modCtx c.n fun x => { x with lastWave := some w }
  if c.lastWave = some w && statusQuiet w && !s.bar0.quiescent.getLsbD c.n then
    let v := s.record c.n 10
    let b : Bar0 := { s1.bar0 with
      quiescent := s1.bar0.quiescent ||| w64 (2 ^ c.n)
      msix := if v.getLsbD 0 then s1.bar0.msix ++ [(bits v 16 11).toNat] else s1.bar0.msix }
    { s1 with bar0 := b }
  else s1

/-- QUIESCENCE_WAVE: every 8,192 cycles (R245). -/
def execQuiescenceWave (s : State) : Host.Outcome State Fault Refusal :=
  if s.cycle % 8192 ≠ 0 || s.lastWave = some s.cycle then .next s
  else .next (s.ctxs.foldl (fun (x : State) c => x.waveOf c) { s with lastWave := some s.cycle })

/-! ### The slot arbiter (R30) -/

/-- The slots of a core whose queue-owner is a context, free or occupied. -/
def State.ownedSlots (s : State) (die core ctx : Nat) : Nat :=
  ((List.range 16).filter fun k => (s.slot ⟨die, core, k⟩).owner == some ctx).length

/-- A context's slots above its target share, times the sum of the weights (R30). -/
def State.excess (s : State) (die core ctx sum : Nat) : Int :=
  (s.ownedSlots die core ctx * sum : Int) - ((s.core die core).weightOf ctx * 16 : Int)

/-- The context with the greatest value, the lower number among equals; contexts ascend. -/
def greatest (f : Nat → Int) : List Nat → Option Nat
  | [] => none
  | c :: r => match greatest f r with
    | some d => if f c < f d then some d else some c
    | none => some c

/-- The state after a slot arbiter's boundary: an unowned free slot goes to the context furthest below its target, or one
free slot moves from the context furthest above to it (R30). -/
def State.arbitrate (s : State) (die core : Nat) : State :=
  let ctxs := (List.range 64).filter fun n => (s.core die core).resident n
  let sum := (ctxs.map fun n => (s.core die core).weightOf n).sum
  let free := (List.range 16).filter fun k => s.slotFree ⟨die, core, k⟩
  let ownerAt (k : Nat) : Option Nat := (s.slot ⟨die, core, k⟩).owner
  let give (k n : Nat) : State :=
    let p : Place := ⟨die, core, k⟩
    s.setSlot p { s.slot p with owner := some n }
  if sum = 0 then s
  else match greatest (fun n => -(s.excess die core n sum)) (ctxs.filter fun n => s.excess die core n sum < 0) with
  | none => s
  | some rc =>
    match free.find? fun k => match ownerAt k with
      | some n => !ctxs.contains n
      | none => true with
    | some k => give k rc
    | none =>
      let donors := ctxs.filter fun n => 0 < s.excess die core n sum && free.any fun k => ownerAt k == some n
      match greatest (fun n => s.excess die core n sum) donors with
      | none => s
      | some dn =>
        if s.excess die core dn sum - s.excess die core rc sum ≤ sum then s
        else match free.find? fun k => ownerAt k == some dn with
          | some k => give k rc
          | none => s

/-- SLOT_ARBITER: at every cycle that is a multiple of 16 (R30). -/
def execSlotArbiter (die : Nat) (core : Nat) (s : State) : Host.Outcome State Fault Refusal :=
  if s.cycle % 16 ≠ 0 || (s.core die core).lastArb = some s.cycle then .next s
  else .next ((s.arbitrate die core).modCore die core fun x => { x with lastArb := some s.cycle })

end Sys2Proof.Machine
end

