-- ==== Sys2Proof/Machine/RingUnit.lean ====
section
/-! DEFINITION. The Lantern ring: the ring words, boarding, segments on their way, laps, and ring programs (R256 to
R272, R366). -/

namespace Sys2Proof.Machine

/-! ### Boarding (R265 to R269) -/

/-- The state with the handles of a core changed. -/
def State.modHandles (s : State) (die core : Nat) (f : List Handle → List Handle) : State :=
  s.modCore die core fun x => { x with handles := f x.handles }

/-- The operations of a core that name a handle (R269). -/
def State.opsOn (s : State) (die core ctx k : Nat) : List Nat :=
  (s.ops.filter fun o => o.op = 3 && o.fc = k && o.ctx = ctx && o.place.die = die && o.place.core = core).map (·.uid)

/-- The state after a handle is released: at once, or when the operations that name it have completed (R269). -/
def State.releaseHandle (s : State) (die core ctx k : Nat) : State :=
  let mine (h : Handle) : Bool := h.ctx = ctx && h.k = k && h.releasing.isNone
  let os := s.opsOn die core ctx k
  s.modHandles die core fun hs =>
    if os.isEmpty then hs.filter fun h => !mine h else modFirst mine (fun h => { h with releasing := some os }) hs

/-- A boarding resolved at a cycle: the earliest lap whose program carries its part and whose window is still to begin, or
absent; a boarding of a part that only an unpinned standby program carries waits (R266, R267). -/
def Ring.resolve (r : Ring) (die t : Nat) (h : Handle) : Handle :=
  match h.part with
  | none => { h with state := .absent }
  | some p =>
    let ls := r.catchable.filter fun l => (l.program.find p).isSome
    match ls.find? fun l => ((l.window p die).map fun w => decide (t < w.1)) == some true with
    | some l =>
      let before := r.laps.find? fun x => x.lap = l.lap - 1
      let inside := match before.bind fun x => x.window p die with
        | some w => w.1 ≤ t && t ≤ w.2
        | none => false
      { h with state := .waiting, part := l.program.find p, lap := l.lap, resolved := true, window := none,
               missedWait := h.missedWait || inside }
    | none =>
      if !r.stopped && ((r.running.bind fun g => g.find p).isSome || (r.standby.bind fun g => g.find p).isSome) then
        { h with state := .waiting, resolved := false, window := none }
      else { h with state := .absent, resolved := false, window := none }

/-- The part that a boarding names, in the running or the standby program (R267). -/
def Ring.partOf (r : Ring) (ctx : Nat) (layer : BitVec 24) (lane : Nat) : Option Part :=
  let hit (p : Part) : Bool := p.ctx = ctx && p.layer == layer && p.lane = lane
  match r.running.bind fun g => g.parts.find? hit with
  | some p => some p
  | none => r.standby.bind fun g => g.parts.find? hit

/-- The number of the one bit set in a mask. -/
def oneBit (m : BitVec 8) : Option Nat :=
  match (List.range 8).filter fun k => m.getLsbD k with
  | [k] => some k
  | _ => none

/-- Numbers sorted upward. -/
def sortUp (l : List Nat) : List Nat := sortOn id l

/-- A token list under the rule of a capacity of 64: the lowest 64 entries, and then the rest, each ascending (R268). -/
def capTokens (l : List Nat) : List Nat := sortUp l

/-- The checks of a token list's entries: each in the core's own scratchpad, readable and writable (R268). -/
def State.checkTokens (s : State) (die core ctx : Nat) : List Word → Except (BitVec 8 × Word) (List Nat)
  | [] => .ok []
  | va :: r =>
    match s.translate die ctx .load va, s.translate die ctx .store va with
    | .fail c, _ => .error (c, va)
    | .ok _ _, .fail c => .error (c, va)
    | .ok pa _, .ok _ _ =>
      if paSpace pa ≠ 1 || paHome pa ≠ die || paCore pa ≠ core then .error (causeProt, va)
      else if s.badRange pa 4 then .error (causeMcheck, va)
      else match s.checkTokens die core ctx r with
        | .ok ps => .ok (pa :: ps)
        | .error e => .error e

/-- The addresses of `n` 4-byte entries. -/
def tokenAddrs (va : Word) (n : Nat) : List Word := (List.range n).map fun k => va + w64 (4 * k)

/-- The state with 4-byte entries written. -/
def State.writeTokens (s : State) (pas vals : List Nat) : State :=
  (pas.zip vals).foldl (fun (x : State) e => x.writeNat e.1 4 e.2) s

/-- The state after a new boarding of a handle replaces the old one (R267). -/
def State.boardHandle (s : State) (p : Place) (ctx k : Nat) (part : Option Part) (list : Word) (n : Nat) : State :=
  let h : Handle := { ctx, k, state := .waiting, part, list, count := n, accepted := min n 64, dropped := n - 64 }
  (s.releaseHandle p.die p.core ctx k).modHandles p.die p.core fun hs => hs ++ [s.ring.resolve p.die s.cycle h]

/-- `board` (R267, R268). -/
def execBoard (k : BitVec 3) (s1 s2 s3 : BitVec 5) (s : State) : Host.Outcome State Fault Refusal :=
  s.word fun i t =>
    let x := t.readS s1
    let m := t.readS s2
    match oneBit (bits m 0 8) with
    | none => s.precise i t causeIllegal i.word
    | some lane =>
      if bits x 24 40 ≠ 0 || bits m 8 56 ≠ 0 then s.precise i t causeIllegal i.word
      else
        let part := s.ring.partOf t.ctx (bits x 0 24) lane
        if (part.map Part.expert) ≠ some true then s.boardHandle i.place t.ctx k.toNat part 0 0
        else
          let y := t.readS s3
          let n := (bits y 0 12).toNat
          let list := y &&& 0x0000FFFFFFFFF000
          if bits y 48 16 ≠ 0 then s.precise i t causeIllegal i.word
          else match s.checkTokens i.place.die i.place.core t.ctx (tokenAddrs list n) with
          | .error (c, va) => s.precise i t c va
          | .ok pas =>
            if n ≠ 0 && !s.drained t.uid i.place.die then s.wait i t (.drain i.place.die)
            else (s.writeTokens pas (capTokens (pas.map fun a => s.readNat a 4))).boardHandle i.place t.ctx k.toNat part list n

/-- `unboard` (R269). -/
def execUnboard (k : BitVec 3) (s : State) : Host.Outcome State Fault Refusal :=
  s.word fun i t => s.releaseHandle i.place.die i.place.core t.ctx k.toNat

/-- The code of a handle's state (R270). -/
def stateCode : HandleState → Nat
  | .free => 0
  | .waiting => 1
  | .landing => 2
  | .complete => 3
  | .absent => 4

/-- The answer of `ringq` (R270). -/
def State.ringAnswer (s : State) (p : Place) (h : Handle) (code : Nat) : Word :=
  let st := s.ring.stateOf p.die s.cycle h
  let live := st != .free && st != .absent
  let b (x : Bool) (n : Nat) : Nat := if x then 2 ^ n else 0
  match code with
  | 1 => w64 (stateCode st + b h.missedWait 8 + b h.missed 9 + b h.crcBad 10 + b h.overwritten 11)
  | 2 => zx h.lap
  | 3 => if live then w64 (((s.ring.windowOf p.die h).map (·.1)).getD 0) else 0
  | 4 => if live then w64 (((s.ring.windowOf p.die h).map (·.2)).getD 0) else 0
  | 5 => w64 (h.accepted % 4096 + h.dropped % 4096 * 2 ^ 16)
  | _ => w64 h.w

/-- `ringq`; code 6 waits until the handle no longer does (R270). -/
def execRingq (k : BitVec 3) (sd : BitVec 5) (la : BitVec 4) (code : BitVec 21) (s : State) :
    Host.Outcome State Fault Refusal :=
  s.word fun i t =>
    let h := (s.core i.place.die i.place.core).handleNow t.ctx k.toNat
    if code = 6 && s.ring.stateOf i.place.die s.cycle h == .waiting then s.wait i t (.ringq k.toNat)
    else
      let g := { openTag i s.nextId la.toNat with
        sds := [sd], u := [s.ringAnswer i.place h code.toNat], state := .ready }
      { s with nextId := s.nextId + 1 }.setThread i.place (t.addTag g)

/-- HANDLE_RELEASE: the oldest release of a handle takes effect once its operations have completed (R269). -/
def execHandleRelease (die : Nat) (core : Nat) (ctx : Nat) (k : Nat) (s : State) : Host.Outcome State Fault Refusal :=
  let mine (h : Handle) : Bool := h.ctx = ctx && h.k = k && h.releasing.isSome
  match (s.core die core).handles.find? mine with
  | none => .next s
  | some h =>
    if (h.releasing.getD []).any fun u => s.ops.any fun o => o.uid = u then .next s
    else .next (s.modHandles die core (dropFirst mine))

/-! ### Segments (R262 to R264) -/

/-- One bit of CRC-32C. -/
def crcBit (c : BitVec 32) : BitVec 32 := if c.getLsbD 0 then (c >>> 1) ^^^ 0x82F63B78 else c >>> 1

/-- One byte of CRC-32C. -/
def crcByte (c : BitVec 32) (b : Byte) : BitVec 32 :=
  let x := c ^^^ b.setWidth 32
  crcBit (crcBit (crcBit (crcBit (crcBit (crcBit (crcBit (crcBit x)))))))

/-- CRC-32C of bytes (R262). -/
def crc32c (bs : List Byte) : BitVec 32 := ~~~(bs.foldl crcByte 0xFFFFFFFF)

/-- The CRC of a segment: its header with bits 127:96 taken as zero, and its payload (R262). -/
def segmentCrc (w0 : Word) (lap : BitVec 32) (payload : BitVec 8192) : BitVec 32 :=
  crc32c (bytesOf 8 w0.toNat ++ bytesOf 8 lap.toNat ++ bytesOf 1024 payload.toNat)

/-- Header word 0 of segment `j` of a part (R262). -/
def segmentWord0 (p : Part) (j : Nat) : Word :=
  w64 (p.ctx * 2 ^ 56 + (if p.expert then 2 ^ 55 else 0) + p.fmt * 2 ^ 51 + p.lane * 2 ^ 48 + j * 2 ^ 24 +
    (bits p.w0 40 16).toNat * 2 ^ 8 + (bits p.w0 32 8).toNat)

/-- The lap of a segment. -/
def Segment.lap (g : Segment) : BitVec 32 := bits g.w1 0 32
/-- The index of a segment within its part. -/
def Segment.index (g : Segment) : Nat := (bits g.w0 24 24).toNat
/-- Whether a segment's CRC matches. -/
def Segment.ok (g : Segment) : Bool := bits g.w1 32 32 == segmentCrc g.w0 g.lap g.payload
/-- The cycle a segment passes a die (R256). -/
def Segment.passes (g : Segment) (die : Nat) : Nat := g.injected + ringDelay g.source die

/-- Whether a segment belongs to a part (R262). -/
def Segment.isOf (g : Segment) (p : Part) : Bool :=
  (bits g.w0 56 6).toNat == p.ctx && g.lane == p.lane && bits g.w0 0 8 ++ bits g.w0 8 16 == p.layer

/-- SEGMENT_INJECT: the segment due on a lane at this cycle is read at its source's home and injected (R257, R262). -/
def execSegmentInject (lane : Nat) (s : State) : Host.Outcome State Fault Refusal :=
  match s.ring.running with
  | none => .next s
  | some g =>
    let d := s.cycle - s.ring.origin
    let o := ringOffset s.ring.grade d
    if s.ring.stopped || s.cycle < s.ring.origin || o.2 || g.len ≤ o.1 ||
        (s.ring.segments.any fun x => x.lane = lane && x.injected = s.cycle) then .next s
    else match g.parts.find? fun p => p.lane = lane && p.first ≤ o.1 && o.1 < p.first + p.count with
    | none => .next s
    | some p =>
      if (s.die p.source).bypassed || (s.die p.source).outOfService then .next s
      else
        let j := o.1 - p.first
        let payload : BitVec 8192 := BitVec.ofNat 8192 (s.readNat (plinthAddr p.source (p.addr + 1024 * j)) 1024)
        let w0 := segmentWord0 p j
        let w1 : Word := segmentCrc w0 s.ring.lap payload ++ s.ring.lap
        let seg : Segment := ⟨w0, w1, payload, lane, p.source, s.cycle, false, []⟩
        .next { s with ring := { s.ring with segments := s.ring.segments ++ [seg] } }

/-- A saturating count on 32 bits. -/
def satInc (x : BitVec 32) : BitVec 32 := if x = 0xFFFFFFFF then x else x + 1

/-- The state after a die checks a segment that failed: an error on the incoming hop is counted where BAD arrived as 0, and
BAD is set (R264). -/
def State.hopError (s : State) (die : Nat) (g : Segment) : State :=
  if g.ok || g.bad then s
  else
    let s1 := s.modDie die fun d => { d with
      errors := satInc d.errors, laneErrors := putKey g.lane (satInc (lookupD 0 g.lane d.laneErrors)) d.laneErrors }
    { s1 with ring := { s1.ring with segments := s1.ring.segments.map fun x =>
      if x.lane = g.lane && x.injected = g.injected then { x with bad := true } else x } }

/-- Whether a die's bypass governs a segment: those of laps before the bypass finish their circuit unchanged (R261). -/
def State.skips (s : State) (die : Nat) (g : Segment) : Bool :=
  (s.die die).bypassed && (match (s.die die).bypassFrom with
    | some l => decide (0 ≤ serial g.lap l)
    | none => true)

/-- Whether a live handle wants a segment: it is of the caught lap and part (R263). -/
def Handle.wants (h : Handle) (g : Segment) : Bool :=
  h.state == .waiting && h.resolved && h.lap == g.lap && (h.part.map g.isOf) == some true

/-- The sequence number of a segment in a handle (R265). -/
def Handle.seq (h : Handle) (g : Segment) : Nat := h.lapK * ((h.part.map Part.span).getD 0) + g.index

/-- A handle that misses a segment (R263, R272). -/
def Handle.miss (h : Handle) (g : Segment) : Handle := { h with missed := true, lost := h.lost ++ [h.seq g] }

/-- A handle as a segment's block lands: in place sequence mod 512, overwriting what stood there (R265). -/
def Handle.land (h : Handle) (g : Segment) (core : Nat) : Handle :=
  let n := h.seq g
  let gone := (h.landed.filter fun e => e.1 + 512 ≤ n).map (·.1)
  { h with
    w := max h.w (n + 1)
    landed := (h.landed.filter fun e => n < e.1 + 512) ++ [(n, g.payload.extractLsb' (512 * core) 512)]
    lost := h.lost ++ gone
    overwritten := h.overwritten || !gone.isEmpty
    failed := if g.ok then h.failed else h.failed ++ [n]
    crcBad := h.crcBad || !g.ok }

/-- Whether the `n`th boarding of a core, in order of issue, has begun: no release of an older boarding of its handle has still to take
effect (R269). -/
def Core.begun (x : Core) (n : Nat) (h : Handle) : Bool :=
  (x.handles.take n).all fun q => !(q.ctx = h.ctx && q.k = h.k && q.releasing.isSome)

/-- How many boardings of a core that have begun want a segment. -/
def Core.wanting (x : Core) (g : Segment) : Nat :=
  (x.handles.zipIdx.filter fun e => e.1.wants g && x.begun e.2 e.1).length

/-- The state with every handle of a die that wants a segment changed; a boarding that has not begun misses it (R263, R269). -/
def State.deal (s : State) (die : Nat) (g : Segment) (f : Nat → Handle → Handle) : State :=
  let one (x : Core) (c n : Nat) (h : Handle) : Handle :=
    if !h.wants g then h else if x.begun n h then f c h else h.miss g
  let put (e : (Nat × Nat) × Core) : (Nat × Nat) × Core :=
    if e.1.1 = die then (e.1, { e.2 with handles := e.2.handles.mapIdx (one e.2 e.1.2) }) else e
  { s with cores := s.cores.map put }

/-- How many boardings of a die that have begun want a segment (R263, R273). -/
def State.wanting (s : State) (die : Nat) (g : Segment) : Nat :=
  ((s.cores.filter fun e => e.1.1 = die).map fun e => e.2.wanting g).sum

/-- The state with a segment marked as dealt with at a die. -/
def State.markPassed (s : State) (die : Nat) (g : Segment) : State :=
  { s with ring := { s.ring with segments := s.ring.segments.map fun x =>
    if x.lane = g.lane && x.injected = g.injected then { x with tapped := x.tapped ++ [die] } else x } }

/-- The segments that have reached a die and are not dealt with there. -/
def State.passing (s : State) (die : Nat) : List Segment :=
  s.ring.segments.filter fun g => g.passes die ≤ s.cycle && !g.tapped.contains die

/-- The lowest of a list of numbers. -/
def lowest : List Nat → Nat
  | [] => 0
  | [a] => a
  | a :: r => min a (lowest r)

/-- SEGMENT_TAP: of the segments that pass a lamp die on one cycle, the tap reads the lowest lane that a boarding which has begun
wants, checks its CRC and deals it to the handles; the others are missed. A halted die's tap lands nothing, and a bypassed die's reads
nothing (R263, R264, R269, R272, R273). -/
def execSegmentTap (die : Nat) (s : State) : Host.Outcome State Fault Refusal :=
  let all := s.passing die
  if !isLamp die || all.isEmpty then .next s
  else
    let at_ := lowest (all.map fun g => g.passes die)
    let now := all.filter fun g => g.passes die = at_
    let s1 := now.foldl (fun (x : State) g => x.markPassed die g) s
    let miss (x : State) (gs : List Segment) : State := gs.foldl (fun (y : State) g => y.deal die g fun _ h => h.miss g) x
    if (s.die die).halt then .next (miss s1 now)
    else
      let read := now.filter fun g => s.wanting die g ≠ 0 && !s.skips die g
      let low := lowest (read.map (·.lane))
      match read.find? fun g => g.lane = low with
      | none => .next (miss s1 now)
      | some g =>
        let rest := now.filter fun x => x.lane ≠ low
        let s2 := (s1.deal die g fun c h => h.land g c).hopError die g
        .next ((miss s2 rest).modDie die fun d => { d with missed := d.missed + (rest.map (s.wanting die)).sum })

/-- SEGMENT_FORWARD: a plinth die checks the segment that passes on a lane and passes it on; a segment back at its source
leaves the ring (R256, R264). -/
def execSegmentForward (die : Nat) (lane : Nat) (s : State) : Host.Outcome State Fault Refusal :=
  if !isPlinth die then .next s
  else match s.ring.segments.find? fun g => g.lane = lane && g.source = die && g.injected + 2016 ≤ s.cycle with
  | some g => .next { s with ring := { s.ring with
      segments := dropFirst (fun x => x.lane = lane && x.injected = g.injected) s.ring.segments } }
  | none =>
    match (s.passing die).find? fun g => g.lane = lane && g.source ≠ die with
    | none => .next s
    | some g =>
      let s1 := s.markPassed die g
      .next (if s.skips die g then s1 else s1.hopError die g)

/-- Whether an expert boarding's window has ended with tokens dropped, its last segment dealt with (R268). -/
def State.reboardDue (s : State) (die : Nat) (h : Handle) : Bool :=
  match s.ring.windowOf die h with
  | none => false
  | some (_, e) => h.state == .waiting && h.dropped ≠ 0 && e ≤ s.cycle &&
      (h.window.isSome || s.ring.laps.any fun x => x.lap = h.lap) && !(s.passing die).any h.wants

/-- An expert boarding with the dropped tokens moved down: its list has the entries that the capacity left, and it catches the next lap
carried, its sequence numbers going on and no missed-layer wait arising (R265, R266, R268). -/
def Ring.expertAgain (r : Ring) (die t : Nat) (h : Handle) : Handle :=
  let d := h.dropped
  { r.resolve die t { h with count := d, accepted := min d 64, dropped := d - 64, lapK := h.lapK + 1, resolved := false } with
    missedWait := h.missedWait }

/-- EXPERT_REBOARD: at the end of an expert boarding's window, its last segment dealt with, the dropped tokens move
down, and the part is boarded again for the next lap carried; a boarding whose release is deferred re-boards too (R266, R268, R269). Where
the list no longer translates, or meets an error, no entry moves and the part is boarded again all the same: the spec is silent, the
model's choice (log 93). -/
def execExpertReboard (die : Nat) (core : Nat) (ctx : Nat) (k : Nat) (s : State) : Host.Outcome State Fault Refusal :=
  match (s.core die core).handles.find? fun h => h.ctx = ctx && h.k = k && s.reboardDue die h with
  | none => .next s
  | some h =>
    let pas := match s.checkTokens die core ctx (tokenAddrs h.list h.count) with
      | .ok ps => ps
      | .error _ => []
    let vals := pas.map fun a => s.readNat a 4
    let s1 := s.writeTokens (pas.take h.dropped) (capTokens (vals.drop h.accepted))
    .next (s1.modHandles die core (modFirst (· == h) fun h => s.ring.expertAgain die s.cycle h))

/-! ### Laps (R257, R261, R366) -/

/-- Whether a program permits a grade (R259). -/
def RingProgram.permits (g : RingProgram) (grade : Nat) : Bool := g.header.getLsbD (52 + grade)

/-- The grade of the next lap: a pinned one that the program permits; the slowest permitted above 27 kW; the next slower
above the budget; the next faster below 0.7 of it (R366). -/
def nextGrade (g : RingProgram) (now watts budget : Nat) (pin : Option Nat) : Nat :=
  let slower := ((List.range 4).filter fun k => now < k && g.permits k).head?
  let faster := ((List.range 4).filter fun k => k < now && g.permits k).getLast?
  let slowest := ((List.range 4).filter fun k => g.permits k).getLast?
  if 27000 < watts then (if g.permits 3 then 3 else slowest.getD now)
  else match pin with
  | some k => if g.permits k then k else now
  | none =>
    if budget < watts then slower.getD now
    else if 10 * watts < 7 * budget then faster.getD now
    else now

/-- A grade that a program permits: the given one, or else the fastest permitted. -/
def RingProgram.startGrade (g : RingProgram) (grade : Nat) : Nat :=
  if g.permits grade then grade else (((List.range 4).filter fun k => g.permits k).head?).getD grade

/-- Whether two parts of one lane collide, one of a lap and one of the same or a later lap: segments injected at t1 < t2 at
positions q1 and q2 with t2 − t1 = 3·((q2 − q1) mod 672) (R260). -/
def partsCollide (g : BitVec 2) (p : Part) (o1 : Nat) (q : Part) (g2 : BitVec 2) (o2 : Nat) : Bool :=
  let d := ringDelay p.source q.source
  d != 0 && (List.range p.count).any fun j =>
    let t := o1 + ringTime g (p.first + j) + d
    o2 ≤ t && (let x := ringOffset g2 (t - o2); !x.2 && q.first ≤ x.1 && x.1 < q.first + q.count)

/-- Whether the segments of two laps collide (R260). -/
def lapsCollide (a b : PastLap) : Bool :=
  a.program.parts.any fun p => b.program.parts.any fun q => p.lane == q.lane && partsCollide a.grade p a.origin q b.grade b.origin

/-- The idle cycles, up to 2,016, that part a new program's first lap from the laps before it; none if no number of them does
(R260, R261). -/
def idleCycles (before : List PastLap) (new : PastLap) : Option Nat :=
  (List.range 2017).find? fun k => before.all fun old => !lapsCollide old { new with origin := new.origin + k }

/-- The dies that firmware bypasses at a boundary: those whose error count has reached their threshold, and those out of
service (R261, R264). -/
def State.newBypass (s : State) : List Nat :=
  (s.dies.filter fun e => !e.2.bypassed && (e.2.outOfService || (e.2.threshold ≠ 0 && e.2.threshold ≤ e.2.errors))).map (·.1)

/-- Whether two ring-adjacent dies would be bypassed, with more of them (R261). -/
def State.adjacentBypass (s : State) (new : List Nat) : Bool :=
  let ps := ((s.dies.filter fun e => e.2.bypassed).map (·.1) ++ new).map ringPos
  ps.any fun a => ps.contains ((a + 1) % 672)

/-- The state with dies bypassed from a lap on; a bypass that no segment of an earlier lap is left of governs every segment (R261). -/
def State.bypass (s : State) (new : List Nat) (lap : BitVec 32) : State :=
  let ended (l : BitVec 32) : Bool := s.ring.segments.all fun g => decide (0 ≤ serial g.lap l)
  let s1 : State := { s with dies := s.dies.map fun e => (e.1, { e.2 with bypassFrom := e.2.bypassFrom.filter fun l => !ended l }) }
  new.foldl (fun (x : State) d => x.modDie d fun y => { y with bypassed := true, bypassFrom := some lap }) s1

/-- The state with every boarding that is not over changed. -/
def State.mapHandles (s : State) (f : Nat → Handle → Handle) : State :=
  let one (d : Nat) (h : Handle) : Handle := if h.state == .waiting then f d h else h
  { s with cores := s.cores.map fun e => (e.1, { e.2 with handles := e.2.handles.map (one e.1.1) }) }

/-- A boarding with the window of its caught lap kept once that lap has begun, and its state once it is complete. -/
def Ring.settle (r : Ring) (now die : Nat) (h : Handle) : Handle :=
  let h1 := if h.window.isNone && h.resolved && r.laps.any (fun x => x.lap = h.lap) then { h with window := r.windowOf die h } else h
  if r.stateOf die now h1 == .complete then { h1 with state := .complete } else h1

/-- The state after firmware stops the ring: LAPLEN reads 0 and every live boarding becomes absent, a complete one too (R261, R265). -/
def State.stopRing (s : State) : State :=
  let gone (h : Handle) : Handle := if h.state == .free then h else { h with state := .absent, resolved := false, window := none }
  { s with
    ring := { s.ring with running := none, stopped := true, switchAt := none }
    cores := s.cores.map fun e => (e.1, { e.2 with handles := e.2.handles.map gone }) }

/-- The state after boardings not complete are resolved again at a switch that takes effect at or before their caught lap
(R266). -/
def State.reresolve (s : State) (l : BitVec 32) (t : Nat) : State :=
  s.mapHandles fun die h => if !h.resolved || 0 ≤ serial h.lap l then s.ring.resolve die t h else h

/-- The next lap begins: its grade, program and origin (R257, R261, R366). At a switch with idle cycles before the new lap, `t` of the new
resolution is the new lap's origin, after them, where R266 says "the cycle of the switch's lap boundary": the model's choice (log
94). -/
def State.nextLap (s : State) (g : RingProgram) (watts : Nat) : State :=
  let r := s.ring
  let lap := r.lap + 1
  let old : PastLap := ⟨r.lap, r.origin, r.grade, g⟩
  let switch := r.switchAt == some lap && r.standby.isSome
  let prog := if switch then r.standby.getD g else g
  let pin := if s.bar0.grade.getLsbD 2 then some (bits s.bar0.grade 0 2).toNat else none
  let chosen := nextGrade prog r.grade.toNat watts (bits s.bar0.budget 0 16).toNat pin
  let grade : BitVec 2 := BitVec.ofNat 2 (prog.startGrade chosen)
  let base := r.origin + lapLength r.grade g.len
  let new : PastLap := ⟨lap, base, grade, prog⟩
  let origin := if switch then base + (idleCycles (old :: r.past) new).getD 2016 else base
  let past := (old :: r.past).filter fun l => base < l.origin + lapLength l.grade l.program.len + 4096
  let s1 := s.mapHandles fun die h => r.settle s.cycle die h
  let s2 : State := { s1 with ring := { r with
    lap := lap, origin := origin, grade := grade, running := some prog, past := past
    standby := if switch then none else r.standby
    switchAt := if switch then none else r.switchAt } }
  let s3 := if switch then (s2.reresolve lap origin).finishCmd 9 0 else s2
  s3.mapHandles fun die h => s3.ring.settle s.cycle die h

/-- LAP_BOUNDARY: the lap ends; the package's mean power over it is measured; grade, switch and bypass take effect; a bypass that
would leave two ring-adjacent dies bypassed stops the ring instead (R261, R264, R366). -/
def execLapBoundary (watts : Nat) (s : State) : Host.Outcome State Fault Refusal :=
  match s.ring.running with
  | none => .next s
  | some g =>
    if s.ring.stopped || s.cycle < s.ring.origin + lapLength s.ring.grade g.len then .next s
    else
      let s1 : State := { s with bar0 := { s.bar0 with power := w64 (watts % 2 ^ 32) } }
      let s2 := if 27000 < watts then s1.tell (.overPower watts) else s1
      let new := s2.newBypass
      .next (if s2.adjacentBypass new then s2.stopRing else (s2.bypass new (s.ring.lap + 1)).nextLap g watts)

/-! ### Ring programs (R259, R260, R373) -/

/-- A ring program image read from memory (R259). -/
def State.readProgram (s : State) (a : Nat) : RingProgram :=
  let h := s.read64 a
  ⟨h, bits (s.read64 (a + 8)) 0 16, (List.range (bits h 40 12).toNat).map fun k =>
    ⟨s.read64 (a + 64 + 32 * k), s.read64 (a + 72 + 32 * k), s.read64 (a + 80 + 32 * k)⟩⟩

/-- Whether an image's fields are within their layout (R259). -/
def State.programFields (s : State) (a : Nat) (g : RingProgram) : Bool :=
  bits g.header 56 8 == 0 && bits g.header 28 12 == 0 && !g.parts.isEmpty && g.len != 0 &&
  bits (s.read64 (a + 8)) 16 48 == 0 && ((List.range 6).all fun k => s.read64 (a + 16 + 8 * k) == 0) &&
  ((List.range g.parts.length).all fun k => s.read64 (a + 88 + 32 * k) == 0) &&
  g.parts.all fun p => p.fmt ≤ 7 && bits p.w0 28 4 == 0 && bits p.w1 34 24 == 0 && p.count != 0 && bits p.w2 36 28 == 0 &&
    p.addr % 1024 == 0

/-- A property of each two successive entries. -/
def eachPair {α : Type} (f : α → α → Bool) : List α → Bool
  | a :: b :: r => f a b && eachPair f (b :: r)
  | _ => true

/-- A property of every two entries. -/
def allPairs {α : Type} (f : α → α → Bool) : List α → Bool
  | [] => true
  | a :: r => r.all (f a) && allPairs f r

/-- Whether a plinth byte range lies within pages of a context with the RINGSRC attribute (R260). -/
def State.ringSource (s : State) (ctx die off len : Nat) : Bool :=
  let ls := (s.leaves ctx).filter fun e => e.1.getLsbD 58
  (List.range ((off % 4096 + len + 4095) / 4096)).all fun k =>
    ls.any fun e => s.leafHolds ctx e (plinthAddr die (off / 4096 * 4096 + 4096 * k))

/-- Whether a program runs at a grade without two segments of a lane colliding, over two successive laps and at its boundary with
the running program, with the idle cycles that a switch inserts (R260, R261). -/
def gradeOk (running : Option RingProgram) (g : RingProgram) (k : Nat) : Bool :=
  let c : BitVec 2 := BitVec.ofNat 2 k
  let lap (n o : Nat) (q : RingProgram) : PastLap := ⟨BitVec.ofNat 32 n, o, c, q⟩
  let a := lap 0 0 g
  !lapsCollide a a && !lapsCollide a (lap 1 (lapLength c g.len) g) &&
    running.all fun r => (idleCycles [lap 0 0 r] (lap 1 (lapLength c r.len) g)).isSome

/-- The program as the loader accepts it, with its grade bits set, or none (R260). -/
def State.acceptProgram (s : State) (a : Nat) : Option RingProgram :=
  let g := s.readProgram a
  let sorted := eachPair (fun (p q : Part) => p.lane < q.lane || (p.lane == q.lane && p.first + p.count ≤ q.first)) g.parts
  let within := g.parts.all fun p => p.first + p.count ≤ g.len
  let distinct := allPairs (fun (p q : Part) => !p.same q) g.parts
  let sources := g.parts.all fun p => isPlinth p.source && !(s.die p.source).bypassed &&
    s.ringSource p.ctx p.source p.addr (1024 * p.count)
  let oneLane := allPairs (fun (p q : Part) => p.source != q.source || p.lane == q.lane ||
    p.first + p.count ≤ q.first || q.first + q.count ≤ p.first) g.parts
  let grades := (List.range 4).filter (gradeOk s.ring.running g)
  if s.programFields a g && sorted && within && distinct && sources && oneLane && !grades.isEmpty then
    some { g with header := (g.header &&& 0xFF0FFFFFFFFFFFFF) ||| w64 ((grades.map fun k => 2 ^ (52 + k)).sum) }
  else none

end Sys2Proof.Machine
end

