-- ==== Sys2Proof/Machine/HostAccess.lean ====
section
/-! DEFINITION. The host's accesses: the intake window, the memory aperture and the stamp view (R173, R246 to R249). -/

namespace Sys2Proof.Machine

/-! ### Stamped blocks (R173) -/

/-- Whether a loaded context maps a plinth address in a STAMPED page. -/
def State.stampedAt (s : State) (pa : Nat) : Bool :=
  s.ctxs.any fun c => (s.leaves c.n).any fun e => e.1.getLsbD 60 && s.leafHolds c.n e pa

/-- The leaves of the STAMPED pages of the loaded contexts, with their contexts. -/
def State.stampedLeaves (s : State) : List (Nat × Word × Nat) :=
  s.ctxs.flatMap fun c => ((s.leaves c.n).filter fun e => e.1.getLsbD 60).map fun e => (c.n, e)

/-- Whether two leaves map the same page of a context. -/
def samePage (x y : Nat × Word × Nat) : Bool :=
  x.1 = y.1 && pteAddr x.2.1 == pteAddr y.2.1 && x.2.1.getLsbD 61 == y.2.1.getLsbD 61 &&
    bits x.2.1 6 6 == bits y.2.1 6 6 && x.2.2 = y.2.2

/-- The state after a write to memory that may have mapped or unmapped STAMPED pages of loaded contexts: a page newly mapped
takes stamp 0 and no writer, and the sideband of one that no loaded context maps STAMPED any more is discarded (R173;
log 34). -/
def State.remapped (new old : State) : State :=
  let ns := new.stampedLeaves
  let os := old.stampedLeaves
  let added := ns.filter fun x => !os.any (samePage x)
  let gone := os.filter fun x => !ns.any (samePage x)
  { new with side := new.side.filter fun b =>
      !(added.any fun x => new.leafHolds x.1 x.2 b.1) &&
        !((gone.any fun x => old.leafHolds x.1 x.2 b.1) && !ns.any fun x => new.leafHolds x.1 x.2 b.1) }

/-- Whether a plinth byte range meets a block of a STAMPED page. -/
def State.stampedRange (s : State) (pa n : Nat) : Bool :=
  (List.range ((pa % 256 + n + 255) / 256)).any fun k => s.stampedAt (pa / 256 * 256 + 256 * k)

/-- Whether a byte range lies in one plinth die's memory. -/
def plinthRange (pa n : Nat) : Bool :=
  n != 0 && paSpace pa == 0 && paValid pa && paValid (pa + n - 1) && paHome pa == paHome (pa + n - 1)

/-! ### The intake log (R249) -/

/-- The state with an entry written to the intake log, a ring of 256 (R249). -/
def State.intakeLog (s : State) (cause ctx : Nat) (info : Word) : State :=
  let w0 := w64 (cause * 2 ^ 56 + ctx * 2 ^ 50)
  let k := s.bar0.logCount.toNat % 256
  { s with bar0 := { s.bar0 with log := putKey k (w0, info) s.bar0.log, logCount := s.bar0.logCount + 1 } }

/-! ### The intake window (R247, R248) -/

/-- INTAKE_WRITE: a write to BAR2 goes to the bridge, or is rejected with the first rule it breaks (R247). -/
def execIntakeWrite (off : Nat) (len : Nat) (relaxed : Bool) (w0 w1 : BitVec 64) (s : State) :
    Host.Outcome State Fault Refusal :=
  let ctx := off / 4096 % 64
  let reject (cause : Nat) : State := s.intakeLog cause ctx (w64 off)
  if 2 ^ 18 ≤ off then .next s
  else if relaxed then .next (reject 1)
  else if len ≠ 16 || off % 16 ≠ 0 then .next (reject 2)
  else if bits w0 48 16 ≠ 0 || bits w1 48 16 ≠ 0 then .next (reject 3)
  else if (s.ctxInfo? ctx).isNone then .next (reject 5)
  else .next { s with intake := s.intake ++ [(ctx, off, w0, w1)] }

/-- Whether an address names a node: a multiple of 32 in a NET page, as the intake unit of die (0,0) translates it
(R247). -/
def State.intakeNode (s : State) (ctx : Nat) (a : Word) : Bool :=
  match s.check 0 ctx .nodeName a 32 with
  | .ok _ _ => true
  | .fail _ => false

/-- INTAKE_FORWARD: the oldest record at the bridge goes to the intake unit, which holds 256; every host write before it is
performed (R247, R248). The unit's records are classified on core 0 of die (0,0), through that core's rule cache: the spec names no
core, the model's choice (R235; log 85). -/
def execIntakeForward (s : State) : Host.Outcome State Fault Refusal :=
  match s.intake with
  | [] => .next s
  | (ctx, off, a, b) :: r =>
    if 256 ≤ (s.fresh.filter fun f => f.src == .intake).length then .next s
    else
      let s1 := { s with intake := r }
      if (s.ctxInfo? ctx).isNone then .next (s1.intakeLog 5 ctx (w64 off))
      else if !s.intakeNode ctx a then .next (s1.intakeLog 4 ctx a)
      else if !s.intakeNode ctx b then .next (s1.intakeLog 4 ctx b)
      else .next (s1.createRecord .intake 0 ctx 0 0 a b)

/-- BAR2_READ: a read of the intake window returns zero and is logged (R247). -/
def execBar2Read (off : Nat) (s : State) : Host.Outcome State Fault Refusal :=
  if 2 ^ 18 ≤ off then .next s
  else .next { s.intakeLog 6 (off / 4096 % 64) (w64 off) with hostRead := some (bytesOf 8 0) }

/-! ### The memory aperture and the stamp view (R246, R248) -/

/-- HOST_WRITE: a write through BAR4 is performed at its home, and may map or unmap pages; one that meets a STAMPED block is discarded and logged, and so
is a write to the stamp view (R173, R248). -/
def execHostWrite (off : Nat) (bytes : List (BitVec 8)) (s : State) : Host.Outcome State Fault Refusal :=
  if 2 ^ 47 ≤ off then .next s
  else if 2 ^ 46 ≤ off then .next (s.intakeLog 8 0 (w64 off))
  else if !plinthRange off bytes.length then .next s
  else if s.stampedRange off bytes.length then .next (s.intakeLog 7 0 (w64 off))
  else .next ((s.writeBytes off bytes).remapped s)

/-- HOST_READ (R248). -/
def execHostRead (off : Nat) (len : Nat) (s : State) : Host.Outcome State Fault Refusal :=
  if !plinthRange off len then .next s else .next { s with hostRead := some (s.readBytes off len) }

/-- STAMP_VIEW_READ: a block's writer and stamp as one word; any other access returns zero and is logged (R248). -/
def execStampViewRead (off : Nat) (len : Nat) (s : State) : Host.Outcome State Fault Refusal :=
  if off < 2 ^ 46 || 2 ^ 47 ≤ off then .next s
  else
    let a := off - 2 ^ 46
    if len = 8 && a % 256 = 0 && plinthRange a 256 && s.stampedAt a then
      .next { s with hostRead := some (bytesOf 8 (s.sideband a).toNat) }
    else .next { s.intakeLog 8 0 (w64 off) with hostRead := some (bytesOf len 0) }

end Sys2Proof.Machine
end

