-- ==== Sys2Proof/Machine/TileUnit.lean ====
section
/-! DEFINITION. The steps of the tile unit and the copy channels (R197 to R200, R254, R271, R296 to R304, R377). An
operation sends for its operands, computes once they have all come, and then sends its results. -/

namespace Sys2Proof.Machine

/-- An operation at the head of its queue that has not begun or whose reads are answered, for a step of the given T opcode; one
without effect completes (R254), and one issued after a `ttab` that waits does not read the table (R302). -/
def State.runOp (s : State) (uid opc : Nat) (f : TileOp → State) : Host.Outcome State Fault Refusal :=
  match s.opHead uid with
  | none => .next s
  | some o =>
    if o.op ≠ opc || !(o.phase == .queued || o.phase == .read) || s.tableHeld o then .next s
    else if o.skip && !o.begun then .next (s.opDone o)
    else .next (f o)

/-- Descriptor `k` of an operation. -/
def TileOp.desc (o : TileOp) (k : Nat) : BitVec 128 := o.descs.getD k 0

/-- The decode tables an operation uses (R282). -/
def State.opTables (s : State) (o : TileOp) : Tables := (s.core o.place.die o.place.core).tablesOf o.ctx

/-- TZERO_EXECUTE (R296). -/
def execTzeroExecute (op : Nat) (s : State) : Host.Outcome State Fault Refusal :=
  s.runOp op 1 fun o =>
    let a : Acc := ⟨0, bits (o.regs.getD 0 0) 0 32, bits (o.regs.getD 1 0) 0 32, none, none, 0, 0, true⟩
    (s.setAcc o.owner o.fa a).opDone o

/-- Raw elements as product operands, with the indications of their conversion. -/
def products (tabs : Tables) (fmt : Nat) (vs : List Nat) : List Nat × Ind :=
  let rs := vs.map (toProduct tabs fmt)
  (rs.map (·.1), indAll (rs.map (·.2)))

/-- TMM_EXECUTE (R297, R299, R377). -/
def execTmmExecute (op : Nat) (s : State) : Host.Outcome State Fault Refusal :=
  s.runOp op 2 fun o =>
    let dA := o.desc 0
    let dB := o.desc 1
    let a := s.accOf o.owner o.fa
    if 10 < descFmt dA || 10 < descFmt dB || !descAligned dA || !descAligned dB then s.tileFault o 2
    else if a.mixes (descFmt dA) (descFmt dB) then s.tileFault o 1
    else s.withReads o (tileReads [dA, dB]) <|
      let tabs := s.opTables o
      let pa := products tabs (descFmt dA) (o.tileVals [] dA)
      let pb := products tabs (descFmt dB) (o.tileVals [dA] dB)
      let r := a.product (descRows dA) (descCols dB) (descFmt dA) (descFmt dB)
        ⟨matOf (descCols dA) pa.1, fun j k => if j < descRows dB then matOf (descCols dB) pb.1 j k else 0⟩
      (s.setAcc o.owner o.fa r.1).opDone { o with ind := pa.2 ||| pb.2 ||| r.2 }

/-! ### Boarded segments (R265, R271) -/

/-- The laps a boarding catches in all, counted from the first: an expert part is boarded again until no token is dropped
(R268). -/
def Handle.laps (h : Handle) : Nat := h.lapK + 1 + (h.dropped + 63) / 64

/-- Whether a sequence number carries a segment that the boarding lands or loses (R265, R271). -/
def Handle.real (h : Handle) (p : Part) (n : Nat) : Bool := n % p.span < p.count && n / p.span < h.laps

/-- The sequence numbers of a group. -/
def groupSeqs (p : Part) (g : Nat) : List Nat := (List.range p.group).map fun k => g * p.group + k

/-- The byte of a landed block; a sequence number without a segment reads zero. -/
def Handle.byte (h : Handle) (n k : Nat) : Nat := ((lookupD 0 n h.landed).extractLsb' (8 * k) 8).toNat

/-- B(j,k) of a ring product as a raw code (R297). -/
def Handle.code (h : Handle) (p : Part) (g j k : Nat) : Nat :=
  if isCode4 p.fmt then
    let b := h.byte (32 * g + j / 2) (32 * (j % 2) + k / 2)
    if k % 2 = 0 then b % 16 else b / 16
  else h.byte (64 * g + j) k

/-- TMMR_READ_STEP: the tests of rows 1 to 3, the wait for the group, and the product (R271, R297, R377). -/
def execTmmrReadStep (op : Nat) (s : State) : Host.Outcome State Fault Refusal :=
  s.runOp op 3 fun o =>
    let dX := o.desc 0
    let a := s.accOf o.owner o.fa
    let h := (s.core o.place.die o.place.core).handleFor o.ctx o.fc o.uid
    let g := (o.regs.getD 0 0).toNat
    if 10 < descFmt dX || !descAligned dX then s.tileFault o 2
    else match h.part with
    | none => s.tileFault o 3
    | some p =>
      let seqs := groupSeqs p g
      let real := seqs.filter (h.real p)
      if h.state == .free || h.state == .absent || real.isEmpty then s.tileFault o 3
      else if a.mixes (descFmt dX) p.fmt then s.tileFault o 1
      else if real.any fun n => !(h.landed.any (·.1 = n)) && !h.lost.contains n then s
      else if real.any fun n => h.lost.contains n then s.tileFault o 3
      else if real.any fun n => h.failed.contains n then s.tileFault o 4
      else s.withReads o (tileReads [dX]) <|
        let tabs := s.opTables o
        let px := products tabs (descFmt dX) (o.tileVals [] dX)
        let img := formatImage tabs p.fmt
        let pb := (tileIdx 64 64).map fun e => quietE8 (img.entry (h.code p g e.1 e.2))
        let bs := pb.map (·.1)
        let r := a.product (descRows dX) 64 (descFmt dX) p.fmt ⟨matOf (descCols dX) px.1, matOf 64 bs⟩
        (s.setAcc o.owner o.fa r.1).opDone { o with ind := px.2 ||| indAll (pb.map (·.2)) ||| r.2 }

/-! ### Drains and conversions -/

/-- The wake node's check (R299): s0 was named, or a multiple of 32 in a NET page. -/
def State.wakeOk (s : State) (o : TileOp) : Bool :=
  o.regs.getD 0 0 == 0 ||
  ((o.regs.getD 1 0).toNat % 32 == 0 && (match s.translate o.place.die o.ctx .nodeName (o.regs.getD 1 0) with
    | .ok _ _ => true
    | .fail _ => false))

/-- TDRAIN_EXECUTE (R298, R299, R377). -/
def execTdrainExecute (op : Nat) (s : State) : Host.Outcome State Fault Refusal :=
  s.runOp op 4 fun o =>
    let d := o.desc 0
    let a := s.accOf o.owner o.fa
    if 12 < descFmt d || !descAligned d || !s.wakeOk o then s.tileFault o 2
    else if !a.isSet then s.tileFault o 1
    else if a.vr < descRows d || a.vc < descCols d then s.tileFault o 2
    else match convAll (s.opTables o) d (rmodeOf o.rnd)
        ((descIdx d).map fun e => drainValue (a.elem e.1 e.2) a.scA.toNat a.scB.toNat) with
    | none => s.tileFault o 5
    | some (vals, ind) => s.writeTile o d vals ind

/-- TCNV_EXECUTE (R299, R301). -/
def execTcnvExecute (op : Nat) (s : State) : Host.Outcome State Fault Refusal :=
  s.runOp op 8 fun o =>
    let d := o.desc 0
    let src := o.desc 1
    if 12 < descFmt d || 13 < descFmt src || descRows d ≠ descRows src || descCols d ≠ descCols src || !descAligned d || !descAligned src then
      s.tileFault o 2
    else s.withReads o (tileReads [src]) <|
      let tabs := s.opTables o
      match convAll tabs d (rmodeOf o.rnd) ((o.tileVals [] src).map (cnvValue tabs src)) with
      | none => s.tileFault o 5
      | some (vals, ind) => s.writeTile o d vals ind

/-! ### Copies (R303, R304) -/

/-- Translation of every page of a range, ascending: the first failure (R303). -/
def State.rangeFault (s : State) (die ctx : Nat) (a : Access) (base len : Nat) : Option (BitVec 8 × Word) :=
  if len = 0 then none
  else
    let first := base / 4096
    let last := (base + len - 1) / 4096
    (List.range (last - first + 1)).findSome? fun k =>
      let va := w64 (max base ((first + k) * 4096))
      match s.translate die ctx a va with
      | .fail c => some (c, va)
      | .ok _ _ => none

/-- TCOPY_EXECUTE: the checks before any byte moves, and then one group of the destination's block at a time; an
uncorrectable error of the source stops the copy once the bytes before it are written (R303). -/
def execTcopyExecute (op : Nat) (s : State) : Host.Outcome State Fault Refusal :=
  s.runOp op 5 fun o =>
    let d := (o.regs.getD 0 0).toNat
    let b := (o.regs.getD 1 0).toNat
    let len := (o.regs.getD 2 0).toNat
    let die := o.place.die
    let bad : Option (BitVec 8 × Word) := if o.begun then none
      else (s.rangeFault die o.ctx .load b len).orElse fun _ => s.rangeFault die o.ctx .store d len
    if 2 ^ 32 ≤ len || (len ≠ 0 && b < d + len && d < b + len) then s.tileFault o 2
    else match bad with
    | some (c, va) => s.opFault o (zx c) va
    | none =>
      if len = 0 then s.opDone o
      else
        let va := w64 (b + o.wrote)
        if o.phase == .queued then
          s.opReads o .load .reading ((List.range (copyGroup d len o.wrote)).map fun k => (k, va + w64 k, 1))
        else
          let n := match o.bad with
            | some x => (x.2 - va).toNat
            | none => copyGroup d len o.wrote
          let first := o.bad.getD (causeMcheck, va)
          if n = 0 then s.opFault o (zx first.1) first.2
          else match s.translate die o.ctx .store (w64 (d + o.wrote)) with
          | .fail c => s.opFault o (zx c) (w64 (d + o.wrote))
          | .ok pa _ =>
            let body : ReqBody := .store (w64 (d + o.wrote)) ((List.range n).map fun k => (pa + k, BitVec.ofNat 8 (o.val k)))
            { s with nextId := s.nextId + 1 }.opWrites { o with piece := n } [engineReq o s.nextId pa body]

/-! ### The solver (R197 to R200) -/

/-- Whether an address and a stride are multiples of 4 (R197). -/
def q32Aligned (d : BitVec 128) : Bool := (descBase d).toNat % 4 == 0 && (descStride d).toNat % 4 == 0

/-- Whether a descriptor is a q32 tile of 1 to 64 rows and columns, aligned to 4 bytes (R197). -/
def q32Ok (d : BitVec 128) : Bool := descFmt d == 13 && descShape d && q32Aligned d

/-- A descriptor's exponent. -/
def descExp (d : BitVec 128) : Int := (descSel d).toInt

/-- TQMS_EXECUTE (R198). -/
def execTqmsExecute (op : Nat) (s : State) : Host.Outcome State Fault Refusal :=
  s.runOp op 9 fun o =>
    let dr := o.desc 0
    let da := o.desc 1
    let dx := o.desc 2
    let b := o.regs.getD 0 0
    let db : BitVec 128 := dr.extractLsb' 64 64 ++ b
    let x := descExp da + descExp dx - descExp dr
    if !q32Ok dr || !q32Ok da || !q32Ok dx || !q32Aligned db || descRows da ≠ descRows dr || descCols da ≠ descRows dx ||
        descCols dx ≠ descCols dr || x < -30 || 30 < x then s.tileFault o 2
    else s.withReads o (tileReads [db, da, dx]) <|
      let vb := (o.tileVals [] db).map q32
      let va := (o.tileVals [db] da).map q32
      let vx := (o.tileVals [db, da] dx).map q32
      let rs := (descIdx dr).map fun e => qmsElem x (descCols da) (descCols dr) va vx vb e.1 e.2
      s.writeTile o dr (rs.map fun r => r.1.toNat) (indAll (rs.map (·.2)))

/-- TLU_EXECUTE (R199). -/
def execTluExecute (op : Nat) (s : State) : Host.Outcome State Fault Refusal :=
  s.runOp op 10 fun o =>
    let d := o.desc 0
    let e := descExp d
    if !q32Ok d || descRows d ≠ descCols d || e < -30 || 30 < e then s.tileFault o 2
    else s.withReads o (tileReads [d]) <|
      let r := luFactor (descRows d) e (max (o.regeps.toNat : Int) 1) ((o.tileVals [] d).map q32)
      s.writeTile o d (r.1.map fun x => (BitVec.ofInt 32 x).toNat) r.2

/-- TSOLV_EXECUTE (R200). -/
def execTsolvExecute (op : Nat) (s : State) : Host.Outcome State Fault Refusal :=
  s.runOp op 11 fun o =>
    let dl := o.desc 0
    let dv := o.desc 1
    let e := descExp dl
    if !q32Ok dl || !q32Ok dv || descRows dl ≠ descCols dl || descRows dv ≠ descRows dl || e < -30 || 30 < e then
      s.tileFault o 2
    else s.withReads o (tileReads [dl, dv]) <|
      let r := solveAll (descRows dl) (descCols dv) e ((o.tileVals [] dl).map q32) ((o.tileVals [dl] dv).map q32)
      s.writeTile o dv (r.1.map fun x => (BitVec.ofInt 32 x).toNat) r.2

end Sys2Proof.Machine
end

