-- ==== Sys2Proof/Machine/Wick.lean ====
section
/-! DEFINITION. Stop notices, their deferral, clear notices and held-away marks (R15, R16, R182 to R187). -/

namespace Sys2Proof.Machine

/-! ### Halt flags (R187, R343, R357) -/

/-- Whether the wick tree carries a debug-halt flag for a die: it is halted, or a thread of it is (R187, R343). -/
def State.haltFlag (s : State) (die : Nat) : Bool :=
  (s.die die).halt || s.slots.any fun e => e.1.die = die && (e.2.thread.any fun t => t.halted)

/-- The dies of a context: those it is resident on or has threads on (R187). -/
def State.diesOf (s : State) (ctx : Nat) : List Nat :=
  (s.cores.filterMap fun e => if e.2.resident ctx then some e.1.1 else none) ++ (s.threadsOf ctx).map fun x => x.1.die

/-- Whether the homes defer a notice: a die of its context, or one its thread was on, is flagged (R187). -/
def State.defers (s : State) (n : StopNotice) : Bool :=
  (s.diesOf n.ctx ++ n.ids.map fun w => (widPlace w).die).any s.haltFlag

/-! ### Stop notices (R15, R182) -/

/-- Whether a thread still has a stamped store to be performed (R15). -/
def State.stampedPending (s : State) (uid : Nat) : Bool :=
  let mine (r : Req) : Bool := r.owner = uid && r.isStamped
  s.sends.any mine || s.chans.any mine || s.arrivals.any mine

/-- The state with a generation of a slot marked as having had a stop notice (R184). -/
def State.markNoticed (s : State) (w : BitVec 24) : State :=
  let p := widPlace w
  let x := s.slot p
  if x.noticed.contains (widGen w) then s else s.setSlot p { x with noticed := x.noticed ++ [widGen w] }

/-- STOP_NOTICE_SEND: a stopped thread's notice leaves once its stamped stores are performed (R15, R182). -/
def execStopNoticeSend (uid : Nat) (s : State) : Host.Outcome State Fault Refusal :=
  match s.stopped.find? fun x => x.uid = uid with
  | none => .next s
  | some x =>
    if s.stampedPending uid then .next s
    else
      let s1 : State := { s with
        stopped := dropFirst (fun y => y.uid = uid) s.stopped
        notices := s.notices ++ [⟨x.ids, x.ctx, [], []⟩] }
      .next (x.ids.foldl State.markNoticed s1)

/-- The state after a plinth die acts on a notice: the ids enter its stop set, and the entries whose block one of them
wrote are answered WRITER_STOPPED (R182). -/
def State.applyNotice (s : State) (die : Nat) (ids : List (BitVec 24)) : State :=
  let hit (m : MonEntry) : Bool := ids.contains (s.writerOf m.paddr)
  let ms := (s.die die).monitor.filter hit
  ms.foldl (fun (x : State) m => x.answerEntry die m (.trap 0 causeStopped m.vaddr))
    (s.modDie die fun d => { d with
      stopSet := d.stopSet ++ ids.filter fun w => !d.stopSet.contains w
      monitor := d.monitor.filter fun m => !hit m })

/-- The state after a plinth die acts on the deferred notices whose flag has cleared, in arrival order (R187). -/
def State.applyDeferred (s : State) (die : Nat) : State :=
  let due := (s.die die).deferred.filter fun n => !s.defers n
  due.foldl (fun (x : State) n => x.applyNotice die n.ids)
    (s.modDie die fun d => { d with deferred := d.deferred.filter fun n => s.defers n })

/-- The state after every home acts on the notices whose flag has cleared (R187). -/
def State.applyAllDeferred (s : State) : State :=
  (s.dies.map (·.1)).foldl State.applyDeferred s

/-- Whether a notice has reached every plinth die in service and every lamp die it names. -/
def State.noticeOver (s : State) (n : StopNotice) : Bool :=
  (plinthDies.all fun d => n.applied.contains d || (s.die d).outOfService) &&
  n.ids.all fun w => n.cleared.contains (widPlace w).die || (s.die (widPlace w).die).outOfService

/-- The state without the notices that have reached every die. -/
def State.pruneNotices (s : State) : State := { s with notices := s.notices.filter fun n => !s.noticeOver n }

/-- STOP_NOTICE_APPLY: a plinth die receives a notice once; it acts on it, or defers it, up to 64 of them, while a die of
the context is halted; with no such notice it acts on those it has deferred whose flag has cleared (R182, R187). -/
def execStopNoticeApply (die : Nat) (n : Nat) (s : State) : Host.Outcome State Fault Refusal :=
  match s.notices[n]? with
  | none => .next (s.applyDeferred die)
  | some x =>
    if !isPlinth die || x.applied.contains die then .next (s.applyDeferred die)
    else
      let s1 : State := { s with notices := s.notices.set n { x with applied := x.applied ++ [die] } }
      if s.defers x then
        if 64 ≤ (s.die die).deferred.length then .next s
        else .next (s1.modDie die fun d => { d with deferred := d.deferred ++ [x] }).pruneNotices
      else .next ((s1.applyDeferred die).applyNotice die x.ids).pruneNotices

/-! ### Clear notices and held-away marks (R184 to R186) -/

/-- Whether a notice that names an id is on its way and has still to be acted on at some plinth die. -/
def State.noticePending (s : State) (w : BitVec 24) : Bool :=
  (s.notices.any fun n => n.ids.contains w && !(plinthDies.all fun d => n.applied.contains d || (s.die d).outOfService)) ||
  s.dies.any fun d => d.2.deferred.any fun n => n.ids.contains w

/-- The generation of a slot whose clear notice is due, no stop notice for it being on its way: the present one, or an earlier one
whose thread has left with a stamped store still held for the clear (R184; log 23). -/
def State.clearGen (s : State) (p : Place) : Option Nat :=
  let x := s.slot p
  let held (g : Nat) : Bool := s.sends.any fun r => r.isStamped && r.wid = writerId p g
  (x.noticed.filter (· = x.gen) ++ x.noticed).find? fun g => (g = x.gen || held g) && !s.noticePending (writerId p g)

/-- CLEAR_NOTICE: a slot that has come to a generation whose id has had a stop notice clears that id at every plinth die, after the
notice itself (R184). -/
def execClearNotice (p : Place) (s : State) : Host.Outcome State Fault Refusal :=
  match s.clearGen p with
  | none => .next s
  | some g =>
    let x := s.slot p
    let s1 : State := { s with dies := s.dies.map fun d =>
      (d.1, { d.2 with stopSet := d.2.stopSet.filter (· ≠ writerId p g) }) }
    .next (s1.setSlot p { x with noticed := x.noticed.filter (· ≠ g) })

/-- A slot with a held-away mark cleared; a slot that every generation kept blocked takes the one cleared (R186). -/
def Slot.clearMark (x : Slot) (g : Nat) : Slot :=
  let away := x.heldAway.filter (· ≠ g)
  if x.heldAway.contains g && x.thread.isNone && x.heldAway.contains x.gen then { x with heldAway := away, gen := g }
  else { x with heldAway := away }

/-- HELD_AWAY_CLEAR: a notice reaches a lamp die that its thread left, and clears the marks of its ids there (R185). -/
def execHeldAwayClear (die : Nat) (n : Nat) (s : State) : Host.Outcome State Fault Refusal :=
  match s.notices[n]? with
  | none => .next s
  | some x =>
    if x.cleared.contains die then .next s
    else
      let ids := x.ids.filter fun w => (widPlace w).die = die
      let s1 : State := { s with notices := s.notices.set n { x with cleared := x.cleared ++ [die] } }
      .next (ids.foldl (fun (y : State) w => y.setSlot (widPlace w) ((y.slot (widPlace w)).clearMark (widGen w))) s1).pruneNotices

end Sys2Proof.Machine
end

