-- ==== Sys2Proof/Machine/Reduction.lean ====
section
/-! DEFINITION. In-network reduction: keystones, groups and their images, rounds, the watchdog, rebuilding (R286 to R288,
R313, R314, R329 to R334, R373). -/

namespace Sys2Proof.Machine

/-! ### Keystone lanes (R286, R287, R288) -/

/-- An empty lane. -/
def KLane.empty : KLane := ⟨0, 0⟩
/-- A NaN was contributed (R286). -/
def KLane.nan (k : KLane) : Bool := k.special.getLsbD 2
/-- The group rank of the contributor whose NaN is held (R286). -/
def KLane.rank (k : KLane) : Nat := (bits k.special 44 20).toNat

/-- Enter: the lane of one contribution of a group rank (R287). -/
def enterLane (x : BitVec 32) (rank : Nat) : KLane :=
  match fp32.num x.toNat with
  | .nan _ => ⟨0, w64 (rank * 2 ^ 44 + x.toNat / 2 ^ 31 * 2 ^ 25 + x.toNat % 2 ^ 22 * 8 + 4)⟩
  | .inf false => ⟨0, 1⟩
  | .inf true => ⟨0, 2⟩
  | .zero _ => ⟨0, 0⟩
  | .fin n m e => ⟨BitVec.ofInt 320 (atExp n m e (-149)), 0⟩

/-- Combine (R287). -/
def KLane.combine (a b : KLane) : KLane :=
  let flags := (a.special ||| b.special) &&& 3
  let held : Word :=
    if a.nan && b.nan then (if a.rank ≤ b.rank then a.special else b.special)
    else if a.nan then a.special
    else if b.nan then b.special
    else 0
  ⟨a.value + b.value, (held &&& ~~~3) ||| flags⟩

/-- A signalling NaN (R287). -/
def isSignalling (x : BitVec 32) : Bool := fp32.isSNaN x.toNat

/-- The result and indications of a lane at the root; `sig`: a signalling NaN was contributed (R288). -/
def KLane.result (k : KLane) (sig : Bool) : BitVec 32 × Ind :=
  if k.nan then
    (BitVec.ofNat 32 ((bits k.special 25 1).toNat * 2 ^ 31 + 0x7FC00000 + (bits k.special 3 22).toNat), indIf sig indInvalid)
  else if bits k.special 0 2 = 3 then (0x7FC00000, indInvalid)
  else if k.special.getLsbD 0 then (0x7F800000, 0)
  else if k.special.getLsbD 1 then (0xFF800000, 0)
  else if k.value = 0 then (0, 0)
  else
    let r := fp32.roundInt .rne k.value.toInt (-149) false
    (BitVec.ofNat 32 r.1, r.2)

/-- The lanes of one contribution (R287). -/
def enterAll (x : VReg) (rank : Nat) : List KLane := laneIdx.map fun j => enterLane (lane x j) rank

/-- The mask of the lanes with a signalling NaN (R332). -/
def signalMask (x : VReg) : Word := ofBits fun j => isSignalling (lane x j)

/-- Two keystones combined lane by lane (R287). -/
def combineAll (a b : List KLane) : List KLane := List.zipWith KLane.combine a b

/-- The rounded vector of a keystone and its indications (R288). -/
def KeySlot.rounded (k : KeySlot) : VReg × BitVec 7 :=
  let r (j : Nat) : BitVec 32 × Ind := (k.lanes.getD j KLane.empty).result (k.sig.getLsbD j)
  (ofLanes fun j => (r j).1, indAll (laneIdx.map fun j => (r j).2))

/-! ### Groups (R329) -/

/-- M (R329). -/
def Group.memberCount (g : Group) : Nat := (bits g.h0 0 10).toNat
/-- K (R329). -/
def Group.nodeCount (g : Group) : Nat := (bits g.h0 10 10).toNat
/-- W (R329). -/
def Group.window (g : Group) : Nat := (bits g.h0 20 2).toNat + 1
/-- The round each member contributes first (R329). -/
def Group.first (g : Group) : BitVec 32 := bits g.h0 32 32
/-- This package's index (R329). -/
def Group.package (g : Group) : Nat := (bits g.h1 0 6).toNat
/-- P (R329). -/
def Group.span (g : Group) : Nat := (bits g.h1 6 6).toNat + 1
/-- The package whose root rounds (R329). -/
def Group.global (g : Group) : Nat := (bits g.h1 12 6).toNat

/-- The die of a node record. -/
def nodeDie (w : Word) : Nat := (bits w 0 10).toNat
/-- The parent die of a node record. -/
def nodeParent (w : Word) : Nat := (bits w 10 10).toNat
/-- The children of a node record. -/
def nodeChildren (w : Word) : Nat := (bits w 20 9).toNat
/-- The die of a member record. -/
def memberDie (m : Word × Word) : Nat := (bits m.1 0 10).toNat
/-- The local rank of a member record. -/
def memberRank (m : Word × Word) : Nat := (bits m.1 10 9).toNat
/-- The node record a member sends to. -/
def memberParent (m : Word × Word) : Nat := (bits m.1 19 9).toNat
/-- The result block of a member record. -/
def memberResult (m : Word × Word) : Word := m.2 &&& 0x0000FFFFFFFFFFFF

/-- The root's die: node record 0. -/
def Group.root (g : Group) : Nat := nodeDie (g.nodes.getD 0 0)
/-- The node record of a die. -/
def Group.node (g : Group) (die : Nat) : Option Word := g.nodes.find? fun w => nodeDie w = die
/-- The member record of a die. -/
def Group.member (g : Group) (die : Nat) : Option (Word × Word) := g.members.find? fun m => memberDie m = die
/-- The group rank of a member's contributions (R329). -/
def Group.rankOf (g : Group) (m : Word × Word) : Nat := g.package * 512 + memberRank m

/-- A group in force. -/
def State.group (s : State) (ctx g : Nat) : Option Group := s.groups.find? fun x => x.ctx = ctx ∧ x.g = g

/-- A group image read from memory (R329). -/
def State.readGroup (s : State) (ctx g a : Nat) : Group :=
  let h0 := s.read64 a
  let k := (bits h0 10 10).toNat
  ⟨ctx, g, h0, s.read64 (a + 8), (List.range k).map fun j => s.read64 (a + 32 + 8 * j),
    (List.range (bits h0 0 10).toNat).map fun j =>
      (s.read64 (a + 32 + 8 * k + 16 * j), s.read64 (a + 40 + 8 * k + 16 * j))⟩

/-- Whether a node reaches record 0 by its parents within `fuel` steps. -/
def Group.reaches (g : Group) : (fuel : Nat) → Nat → Bool
  | 0, _ => false
  | fuel + 1, d => if d = g.root then true else match g.node d with
    | some w => g.reaches fuel (nodeParent w)
    | none => false

/-- Whether the parents form one tree rooted at record 0 whose children counts match (R330). -/
def Group.treeOk (g : Group) : Bool :=
  (g.nodes.all fun w => g.reaches (g.nodes.length + 1) (nodeDie w)) && ((g.node g.root).map nodeParent) == some g.root &&
  (g.members.all fun m => memberParent m < g.nodes.length) &&
  (List.range g.nodes.length).all fun i =>
    let w := g.nodes.getD i 0
    nodeChildren w == (g.members.filter fun m => memberParent m = i).length +
      (g.nodes.filter fun x => nodeDie x ≠ g.root && nodeParent x = nodeDie w).length

/-- Whether a result block is a multiple of 256 in a STAMPED page of the context (R330). -/
def State.resultOk (s : State) (ctx : Nat) (va : Word) : Bool :=
  va.toNat % 256 == 0 && match s.walk ctx va.toNat with
    | .leaf e _ _ => e.getLsbD 60
    | .fail _ => false

/-! ### `reds` operations and rounds (R331) -/

/-- The group a `reds` names. -/
def TileOp.group (o : TileOp) : Word := o.regs.getD 0 0
/-- The round a `reds` names. -/
def TileOp.round (o : TileOp) : BitVec 32 := bits (o.regs.getD 1 0) 0 32

/-- Whether an operation is a `reds` of a group of a context. -/
def TileOp.isReds (o : TileOp) (ctx g : Nat) : Bool := o.op = 24 && o.ctx = ctx && o.group.toNat = g

/-- Whether rounds of a group are in flight. -/
def State.roundsOpen (s : State) (ctx g : Nat) : Bool :=
  (s.ops.any fun o => o.isReds ctx g && (o.phase == .held || o.phase == .sent)) ||
  s.dies.any fun e => e.2.keystones.any fun k => k.ctx = ctx && k.group = g

/-! ### Firmware's checks (R330) -/

/-- Whether a group's ranks are 0 to M − 1; in a rebuilding they are distinct and a member that stays keeps its rank, so a
member removed may leave a gap (R330, R334; log 77). -/
def State.ranksOk (s : State) (g : Group) (rebuilt : Bool) : Bool :=
  let ranks := g.members.map memberRank
  if rebuilt then
    ranks.Nodup && g.members.all fun m => match (s.group g.ctx g.g).bind fun old => old.member (memberDie m) with
      | some o => memberRank o == memberRank m
      | none => true
  else (List.range g.members.length).all fun r => ranks.contains r

/-- Firmware's checks of an image (R330); `rebuilt`: it rebuilds its group (R334). -/
def State.groupOk (s : State) (a : Nat) (g : Group) (rebuilt : Bool) : Bool :=
  let zeros := bits g.h0 22 10 == 0 && bits g.h1 18 46 == 0 && s.read64 (a + 16) == 0 && s.read64 (a + 24) == 0 &&
    (g.nodes.all fun w => bits w 29 35 == 0) && g.members.all fun m => bits m.1 28 36 == 0 && bits m.2 48 16 == 0
  let counts := 1 ≤ g.memberCount && g.memberCount ≤ 336 && 1 ≤ g.nodeCount && g.nodeCount ≤ 336
  let nodeDies := g.nodes.map nodeDie
  let memDies := g.members.map memberDie
  let dies := nodeDies.Nodup && (nodeDies.all fun d => isPlinth d && s.up d) && memDies.Nodup &&
    memDies.all fun d => isLamp d && s.up d
  let results := g.members.all fun m => s.resultOk g.ctx (memberResult m)
  let others := s.groups.filter fun x => !(x.ctx = g.ctx && x.g = g.g)
  let windows := nodeDies.all fun d =>
    g.window + ((others.filter fun x => (x.node d).isSome).map Group.window).sum ≤ 16
  zeros && counts && dies && g.treeOk && s.ranksOk g rebuilt && results && windows

/-! ### Expected rounds (R331) -/

/-- The round a member die expects of a group. -/
def State.expectedRound (s : State) (die ctx g : Nat) : Option (BitVec 32) :=
  ((s.die die).expected.find? fun e => e.1 = ctx ∧ e.2.1 = g).map (·.2.2)

/-- The state with a member's expected round set. -/
def State.setExpected (s : State) (die ctx g : Nat) (n : BitVec 32) : State :=
  s.modDie die fun d => { d with expected := (ctx, g, n) :: d.expected.filter fun e => !(e.1 = ctx && e.2.1 = g) }

/-- The state without the expected rounds of a group. -/
def State.dropExpected (s : State) (ctx g : Nat) : State :=
  { s with dies := s.dies.map fun e => (e.1, { e.2 with expected := e.2.expected.filter fun x => !(x.1 = ctx && x.2.1 = g) }) }

/-! ### `reds` (R331) -/

/-- The state after a `reds` ends in REDGROUP (R331). -/
def State.redsFault (s : State) (o : TileOp) : State :=
  s.opFault o (zx causeRedgroup) (bits o.group 0 32 ++ o.round)

/-- The earlier rounds of a member that have been taken and are not complete (R331). -/
def State.openRounds (s : State) (o : TileOp) : Nat :=
  (s.ops.filter fun x => x.isReds o.ctx o.group.toNat && x.place.die = o.place.die && x.uid ≠ o.uid &&
    (x.phase == .held || x.phase == .sent) && 0 < serial o.round x.round).length

/-- The state after a member sends its contribution, once fewer than W of its earlier rounds are incomplete (R331). -/
def State.contribute (s : State) (o : TileOp) (g : Group) (m : Word × Word) : State :=
  if g.window ≤ s.openRounds o then s
  else
    let dest := nodeDie (g.nodes.getD (memberParent m) 0)
    { s with redMsgs := s.redMsgs ++ [RedMsg.contribution o.ctx g.g o.round (g.rankOf m) o.place.die dest o.vec false] }.modOp o.uid fun x =>
      { x with phase := .sent }

/-- REDS_SEND: the pseudo-thread checks the round and takes it, and sends its contribution once the window allows; it
completes without effect behind an earlier fault (R254, R331). -/
def execRedsSend (op : Nat) (s : State) : Host.Outcome State Fault Refusal :=
  match s.ops.find? fun o => o.uid = op && o.op = 24 with
  | none => .next s
  | some o =>
    let member := (s.group o.ctx o.group.toNat).bind fun g => (g.member o.place.die).map fun m => (g, m)
    match o.phase with
    | .queued =>
      if s.ops.any fun x => x.owner = o.owner && x.op = 24 && x.phase == .queued && x.seq < o.seq then .next s
      else if o.skip then .next (s.opDone o)
      else if 63 < o.group.toNat then .next (s.redsFault o)
      else match member with
      | none => .next (s.redsFault o)
      | some (g, m) =>
        if s.expectedRound o.place.die o.ctx g.g ≠ some o.round then .next (s.redsFault o)
        else
          let s1 := (s.setExpected o.place.die o.ctx g.g (o.round + 1)).modOp op fun x => { x with phase := .held }
          .next (s1.contribute { o with phase := .held } g m)
    | .held => match member with
      | none => .next (s.redsFault o)
      | some (g, m) => .next (s.contribute o g m)
    | _ => .next s

/-! ### Keystones (R314, R332) -/

/-- An empty slot. -/
def KeySlot.start (ctx g : Nat) (round : BitVec 32) (now : Nat) : KeySlot :=
  ⟨ctx, g, round, List.replicate 64 KLane.empty, 0, 0, [], now, false, none, [], [], none⟩

/-- Whether a slot holds a round of a group. -/
def KeySlot.isOf (k : KeySlot) (ctx g : Nat) (round : BitVec 32) : Bool := k.ctx = ctx && k.group = g && k.round == round

/-- The slot of a round at a node, an empty one if none is in use. -/
def State.keySlot (s : State) (die ctx g : Nat) (round : BitVec 32) : KeySlot :=
  ((s.die die).keystones.find? fun k => k.isOf ctx g round).getD (KeySlot.start ctx g round s.cycle)

/-- The state with the slot of a round replaced. -/
def State.putKeySlot (s : State) (die : Nat) (k : KeySlot) : State :=
  s.modDie die fun d =>
    if d.keystones.any fun x => x.isOf k.ctx k.group k.round then
      { d with keystones := modFirst (fun x => x.isOf k.ctx k.group k.round) (fun _ => k) d.keystones }
    else { d with keystones := d.keystones ++ [k] }

/-- The state with the slot of a round free. -/
def State.dropKeySlot (s : State) (die : Nat) (k : KeySlot) : State :=
  s.modDie die fun d => { d with keystones := dropFirst (fun x => x.isOf k.ctx k.group k.round) d.keystones }

/-- The state after a node accepts a child: a node that is not the root sends its keystone to its parent once it has
accepted every child, and its slot is free (R314). -/
def State.acceptChild (s : State) (die : Nat) (ctx g : Nat) (round : BitVec 32) (lanes : List KLane) (sig : Word) : State :=
  match s.group ctx g with
  | none => s
  | some gr => match gr.node die with
    | none => s
    | some w =>
      let k := s.keySlot die ctx g round
      let k1 : KeySlot := { k with lanes := combineAll k.lanes lanes, sig := k.sig ||| sig, accepted := k.accepted + 1 }
      if die ≠ gr.root && nodeChildren w ≤ k1.accepted then
        let s1 := s.dropKeySlot die k1
        { s1 with redMsgs := s1.redMsgs ++ [RedMsg.keystone ctx g round die (nodeParent w) k1.lanes k1.sig false] }
      else s.putKeySlot die k1

/-- The die a reduction message comes from, and the die it goes to. -/
def RedMsg.pair : RedMsg → Nat × Nat
  | .contribution _ _ _ _ src dest _ _ => (src, dest)
  | .keystone _ _ _ src dest _ _ _ => (src, dest)

/-- Whether a reduction message has passed a die of its route that then failed (R320). -/
def RedMsg.beyond : RedMsg → Bool
  | .contribution _ _ _ _ _ _ _ p => p
  | .keystone _ _ _ _ _ _ _ p => p

/-- A reduction message marked as beyond a failed die. -/
def RedMsg.marked (m : RedMsg) : RedMsg :=
  match m with
  | .contribution c g n r a b x _ => .contribution c g n r a b x true
  | .keystone c g n a b ls sig _ => .keystone c g n a b ls sig true

/-- Whether a node's slot for a round, n mod W, still holds another round of the group (R332). -/
def State.slotTaken (s : State) (die ctx g : Nat) (round : BitVec 32) : Bool :=
  match s.group ctx g with
  | none => false
  | some gr => (s.die die).keystones.any fun k =>
      k.ctx = ctx && k.group = g && k.round != round && k.round.toNat % gr.window = round.toNat % gr.window

/-- Whether a reduction message finds its slot free, or in use by its own round (R332; log 91). -/
def State.slotOpen (s : State) (m : RedMsg) : Bool :=
  match m with
  | .contribution c g n _ _ d _ _ => !s.slotTaken d c g n
  | .keystone c g n _ d _ _ _ => !s.slotTaken d c g n

/-- A reduction message that has arrived and can enter its slot: messages of one pair arrive in order, and none crosses a die out
of service (R316, R320, R332). -/
def State.redMsgAt (s : State) (n : Nat) : Option RedMsg :=
  s.redMsgs[n]?.filter fun m => !((s.redMsgs.take n).any fun x => x.pair = m.pair) &&
    (m.beyond || s.routeClear m.pair.1 m.pair.2) && s.slotOpen m

/-- REDS_CONTRIBUTION: a keystone enters a contribution that has arrived (R287, R314, R332). -/
def execRedsContribution (n : Nat) (s : State) : Host.Outcome State Fault Refusal :=
  match s.redMsgAt n with
  | some (.contribution ctx g round rank _ dest x _) =>
    .next ({ s with redMsgs := s.redMsgs.eraseIdx n }.acceptChild dest ctx g round (enterAll x rank) (signalMask x))
  | _ => .next s

/-- KEYSTONE_MESSAGE: a parent combines a child's keystone that has arrived (R287, R314, R332). -/
def execKeystoneMessage (n : Nat) (s : State) : Host.Outcome State Fault Refusal :=
  match s.redMsgAt n with
  | some (.keystone ctx g round _ dest lanes sig _) =>
    .next ({ s with redMsgs := s.redMsgs.eraseIdx n }.acceptChild dest ctx g round lanes sig)
  | _ => .next s

/-! ### Results (R314, R332) -/

/-- A member record put into a list in ascending rank. -/
def insertRank (m : Word × Word) : List (Word × Word) → List (Word × Word)
  | [] => [m]
  | x :: r => if memberRank m < memberRank x then m :: x :: r else x :: insertRank m r

/-- The members of a group, in ascending rank. -/
def Group.byRank (g : Group) : List (Word × Word) := g.members.foldl (fun l m => insertRank m l) []

/-- A slot whose result is known, to be written to every member in ascending rank. -/
def KeySlot.withResult (k : KeySlot) (g : Group) (r : VReg × BitVec 7) : KeySlot :=
  { k with result := some r, toWrite := g.byRank }

/-- Whether a root's slot is done with: every result is written and acknowledged (R314). -/
def KeySlot.spent (k : KeySlot) : Bool := k.result.isSome && k.toWrite.isEmpty && k.acks.isEmpty

/-- The state with a root's slot replaced, or free once it is done with (R314). -/
def State.settleKeySlot (s : State) (die : Nat) (k : KeySlot) : State :=
  if k.spent then s.dropKeySlot die k else s.putKeySlot die k

/-- The state after a root need await no acknowledgement for a member's die: of one round, or of every round (R314). -/
def State.unawait (s : State) (which : KeySlot → Bool) (md : Nat) : State :=
  let k1 (k : KeySlot) : Option KeySlot :=
    if which k && k.acks.contains md then
      let x : KeySlot := { k with acks := k.acks.erase md }
      if x.spent then none else some x
    else some k
  { s with dies := s.dies.map fun e => (e.1, { e.2 with keystones := e.2.keystones.filterMap k1 }) }

/-- The state after the result of one rank is written: performed at once at a block of the root's own die, else sent; a block
that no longer translates completes the member's `reds` with REDGROUP (R314). -/
def State.writeResult (s : State) (die : Nat) (k : KeySlot) (m : Word × Word) (r : VReg × BitVec 7) : State :=
  let va := memberResult m
  let md := memberDie m
  match s.translate die k.ctx .stampedStore va with
  | .fail _ => { s with resps := s.resps ++ [⟨0, 0, die, md, 0, 0, s.cycle, va, .result k.ctx k.group k.round false r.2, false⟩] }
  | .ok pa _ =>
    let q : Req := { req := s.nextId, owner := 0, wid := 0, ctx := k.ctx, src := die, srcCore := 0, dest := paHome pa,
                     core := none, engine := true, retries := 0, notBefore := none, ordered := false, hops := 0,
                     body := .result k.ctx k.group md va pa k.round r.1 r.2 }
    let s1 := { s with nextId := s.nextId + 1 }
    if paHome pa = die then { s1 with stepped := Machine.blockOf pa :: s1.stepped }.resultStep q k.ctx k.group md pa k.round r.1 r.2
    else { s1 with chans := s1.chans ++ [{ q with sentAt := s.cycle }] }

/-- Whether a member's result block lies at the root's own die and a step has been made on it this cycle: its store, performed on
the cycle it is issued, waits (R154, R314). -/
def State.resultBusy (s : State) (die : Nat) (k : KeySlot) (m : Word × Word) : Bool :=
  match s.translate die k.ctx .stampedStore (memberResult m) with
  | .fail _ => false
  | .ok pa _ => paHome pa = die && s.stepped.contains (Machine.blockOf pa)

/-- Whether the root of a group has issued a result store this cycle (R314). -/
def State.wroteResult (s : State) (die ctx g : Nat) : Bool :=
  (s.die die).keystones.any fun k => k.ctx = ctx && k.group = g && k.lastWrite == some s.cycle

/-- RESULT_WRITE: the root issues the next member's result store, one a cycle in ascending rank, passing over members no longer
in service (R314, R334). One step is made on a block in a cycle (R154). -/
def execResultWrite (die : Nat) (n : Nat) (s : State) : Host.Outcome State Fault Refusal :=
  match (s.die die).keystones[n]? with
  | none => .next s
  | some k =>
    match k.result, k.toWrite with
    | some r, m :: rest =>
      if s.wroteResult die k.ctx k.group then .next s
      else if !s.up (memberDie m) then .next (s.settleKeySlot die { k with toWrite := rest })
      else if s.resultBusy die k m then .next s
      else
        let k1 : KeySlot := { k with toWrite := rest, acks := k.acks ++ [memberDie m], lastWrite := some s.cycle }
        .next ((s.putKeySlot die k1).writeResult die k m r)
    | _, _ => .next s

/-- The state after the round of a member's `reds` is complete: its indications are kept for the `twait`, or it ends in
REDGROUP when its block refused the store (R289, R313, R332). -/
def State.finishReds (s : State) (die ctx g : Nat) (round : BitVec 32) (ok : Bool) (ind : BitVec 7) : State :=
  match s.ops.find? fun o => o.isReds ctx g && o.place.die = die && o.round == round && o.phase == .sent with
  | none => s
  | some o => if ok then s.opDone { o with ind := ind } else s.redsFault o

/-- REDS_COMPLETE: a result store's acknowledgement, the head of its response queue, reaches the member's die; after the last
the root's slot is free (R314). -/
def execRedsComplete (n : Nat) (s : State) : Host.Outcome State Fault Refusal :=
  match s.resps[n]? with
  | none => .next s
  | some r =>
    match r.body with
    | .result ctx g round ok ind =>
      if ((s.resps.take n).any fun q => q.src = r.src && q.dest = r.dest) ||
          !(r.passed || s.routeClear r.src r.dest) then .next s
      else .next (({ s with resps := s.resps.eraseIdx n }.finishReds r.dest ctx g round ok ind).unawait
        (fun k => k.isOf ctx g round) r.dest)
    | _ => .next s

/-! ### The watchdog (R333) -/

/-- Whether the wick tree carries a debug-halt flag of any die. -/
def State.anyHalt (s : State) : Bool :=
  (s.dies.any fun e => e.2.halt) || s.slots.any fun e => e.2.thread.any fun t => t.halted

/-- The state after a cycle passes: the fetches that found every walk busy wait in arrival order, and the watchdogs do not count while a
debug-halt flag is up (R333, R362). -/
def State.passCycle (s : State) : State :=
  let s1 := { s.queueFetches with cycle := s.cycle + 1, stepped := [] }
  if s.anyHalt && (s.dies.any fun e => !e.2.keystones.isEmpty) then
    { s1 with dies := s1.dies.map fun e =>
      (e.1, { e.2 with keystones := e.2.keystones.map fun k => { k with since := k.since + 1 } }) }
  else s1

/-- REDUCTION_WATCHDOG: the root reports a slot held for longer than management's figure, once (R333). -/
def execReductionWatchdog (die : Nat) (n : Nat) (s : State) : Host.Outcome State Fault Refusal :=
  match (s.die die).keystones[n]? with
  | none => .next s
  | some k =>
    if ((s.group k.ctx k.group).map Group.root) ≠ some die || k.reported || s.anyHalt || s.cycle < k.since + s.watchdog then .next s
    else .next ((s.putKeySlot die { k with reported := true }).tell (.watchdog k.ctx k.group k.round))

/-! ### Loading and rebuilding (R331, R334, R373) -/

/-- Whether a result store of a round, or its acknowledgement, is on its way to a member's die. -/
def State.resultMoving (s : State) (ctx g : Nat) (die : Nat) (round : BitVec 32) : Bool :=
  let store (r : Req) : Bool := match r.body with
    | .result c h m _ _ n _ _ => c = ctx && h = g && m = die && n == round
    | _ => false
  s.chans.any store || s.arrivals.any store ||
  s.resps.any fun r => match r.body with
    | .result c h n _ _ => c = ctx && h = g && r.dest = die && n == round
    | _ => false

/-- Whether the root has begun to write a round that a member has not completed (R334). -/
def State.resultDue (s : State) (ctx g : Nat) (die : Nat) (round : BitVec 32) : Bool :=
  s.resultMoving ctx g die round ||
  s.dies.any fun e => e.2.keystones.any fun k => k.isOf ctx g round && k.result.isSome

/-- Whether a reduction message belongs to a group. -/
def RedMsg.isOf (ctx g : Nat) : RedMsg → Bool
  | .contribution c h _ _ _ _ _ _ => c = ctx && h = g
  | .keystone c h _ _ _ _ _ _ => c = ctx && h = g

/-- The state with a group's image put in force, the one before replaced. -/
def State.putGroup (s : State) (g : Group) : State :=
  { s with groups := s.groups.filter (fun x => !(x.ctx = g.ctx && x.g = g.g)) ++ [g] }

/-- The state after a group is loaded while none of its rounds is in flight: every member takes the header's first round
(R331). -/
def State.loadGroup1 (s : State) (g : Group) : State :=
  g.members.foldl (fun (x : State) m => x.setExpected (memberDie m) g.ctx g.g g.first) ((s.dropExpected g.ctx g.g).putGroup g)

/-- The state after a `reds` meets its group's rebuilding: the `reds` of a member removed ends in REDGROUP, and a
contribution of a discarded round is sent again (R334). -/
def State.replay (s : State) (g : Group) (o : TileOp) : State :=
  match g.member o.place.die with
  | none => if s.resultMoving g.ctx g.g o.place.die o.round then s else s.redsFault o
  | some m =>
    if o.phase != .sent || s.resultDue g.ctx g.g o.place.die o.round then s
    else
      let dest := nodeDie (g.nodes.getD (memberParent m) 0)
      { s with redMsgs := s.redMsgs ++ [RedMsg.contribution o.ctx g.g o.round (g.rankOf m) o.place.die dest o.vec false] }

/-- The state after a group is rebuilt: the slots that no root has begun to write are discarded, members present before keep
their expected round, new ones take the header's first, and discarded rounds are replayed (R331, R334). -/
def State.rebuildGroup (s : State) (g : Group) : State :=
  let keep (k : KeySlot) : Bool := !(k.ctx = g.ctx && k.group = g.g) || k.result.isSome
  let s1 : State := { s with
    redMsgs := s.redMsgs.filter fun m => !m.isOf g.ctx g.g
    dies := s.dies.map fun e => (e.1, { e.2 with keystones := e.2.keystones.filter keep }) }
  let s2 := g.members.foldl (fun (x : State) m =>
    x.setExpected (memberDie m) g.ctx g.g ((s.expectedRound (memberDie m) g.ctx g.g).getD g.first))
    ((s1.dropExpected g.ctx g.g).putGroup g)
  (s.ops.filter fun o => o.isReds g.ctx g.g && (o.phase == .held || o.phase == .sent)).foldl
    (fun (x : State) o => x.replay g o) s2

/-- The state after an accepted image is put in force (R331, R334). -/
def State.installGroup (s : State) (g : Group) : State :=
  if s.roundsOpen g.ctx g.g then s.rebuildGroup g else s.loadGroup1 g

/-- GROUP_REBUILD: firmware rebuilds a group from an image at a physical address; one that it refuses leaves the group in
force (R330, R334). -/
def execGroupRebuild (ctx : Nat) (g : Nat) (addr : Nat) (s : State) : Host.Outcome State Fault Refusal :=
  let gr := s.readGroup ctx g addr
  if (s.group ctx g).isSome && s.groupOk addr gr true then .next (s.rebuildGroup gr) else .next s

end Sys2Proof.Machine
end

