-- ==== Sys2Proof/Machine/Switching.lean ====
section
/-! DEFINITION. Return from a trap, halts, services, pre-emption, save blocks and restoring (R96, R343 to R352, R357,
R373, R374). -/

namespace Sys2Proof.Machine

/-! ### Save blocks (R347 to R349) -/

/-- Words at successive offsets. -/
def wordsAt (off : Nat) (ws : List Word) : List (Nat × Word) := ws.mapIdx fun k w => (off + 8 * k, w)

/-- The frame (R348). -/
def Thread.frame (t : Thread) (wid : BitVec 24) : List Word :=
  [t.pc &&& 0x0000FFFFFFFFFFFF, w64 ((if t.halted then 2 else 0) + if t.hs then 1 else 0),
   w64 (t.ctx * 2 ^ 24 + wid.toNat), t.nodeA, w64 t.tags.length] ++ List.replicate 27 0

/-- The system register words, index 0x00 to 0x1F; those ignored on restore are zero (R347). -/
def SysRegs.image (r : SysRegs) : List Word :=
  [r.iter, 0, 0, r.flags, r.lc0, r.ls0, r.le0, r.lc1, r.ls1, r.le1, r.tseq, r.tdone, r.cwp[0], r.cwp[1], r.cwp[2], r.cwp[3],
   r.trapvec, r.trapcause, r.trappc, r.trapinfo, 0, r.vlive, 0, r.lat, r.hops, 0, 0, 0, 0, r.rndmode, r.regeps, 0]

/-- The words of an accumulator record (R349). -/
def Acc.recordWords (a : Acc) : List Word :=
  let f (x : Option (BitVec 4)) : Nat := (x.getD 15).toNat
  [a.scB ++ a.scA, w64 ((if a.isSet then 2 ^ 63 else 0) + f a.fA * 2 ^ 56 + f a.fB * 2 ^ 52 + a.vc * 2 ^ 8 + a.vr)]

/-- The words of a lookahead tag: a result is held once it is ready, and only that of an `alloc` counts further uniform results
(R349). -/
def Tag.words (g : Tag) : List Word :=
  let b (x : Bool) (n : Nat) : Nat := if x then 2 ^ n else 0
  let wd := g.state == .withdrawn
  let has := g.state == .ready
  let low : Nat × Word := match g.state with
    | .withdrawn => (g.iter.toNat, g.addr)
    | .trapped c i => (c.toNat, i)
    | _ => (0, g.u.getD 0 0)
  [w64 (2 ^ 63 + b wd 62 + g.count * 2 ^ 58 + g.vd.toNat * 2 ^ 52 + b (has && g.hasV) 51 + (g.sds.getD 0 0).toNat * 2 ^ 46 +
     b (has && !g.sds.isEmpty) 45 + (if wd then g.lag.toNat * 2 ^ 37 else 0) + b (wd && g.wait) 36 +
     (if g.hasV || g.ordered then 0 else (g.sds.length - 1) % 4 * 2 ^ 34) + b g.isTrapped 33 + low.1), low.2]

/-- The data entry of a tag: its vector result, or the further uniform results (R349). -/
def Tag.data (g : Tag) : List Word :=
  if g.hasV then (List.range 32).map fun k => g.v.extractLsb' (64 * k) 64
  else (g.u.drop 1).take 32 ++ List.replicate (32 - (g.u.drop 1).length) 0

/-- The words of a block but its accumulators (R347). -/
def Thread.blockWords (t : Thread) (wid : BitVec 24) : List (Nat × Word) :=
  let ids := t.former ++ List.replicate (8 - t.former.length) 0
  let ns := t.notices ++ List.replicate (16 - t.notices.length) 0
  let late : Word × Word := match t.lateFaults with
    | f :: _ => (f.1, f.2.1)
    | [] => (0, 0)
  let tags := t.tags
  wordsAt 0 (t.frame wid) ++
  wordsAt 0x100 ((List.range 32).map fun k => if k = 0 then 0 else t.s.toList.getD k 0) ++
  wordsAt 0x200 t.sys.image ++
  wordsAt 0x300 (w64 ((List.range 8).foldl (fun n k => n + if k = 0 || t.q.toList.getD k false then 2 ^ k else 0) 0) ::
    (t.p.toList.drop 1)) ++
  wordsAt 0x340 (List.replicate 24 0) ++
  wordsAt 0x400 (t.d.toList.flatMap fun d => [d.extractLsb' 0 64, d.extractLsb' 64 64]) ++
  wordsAt 0x500 t.sys.history.toList ++
  wordsAt 0x640 ((List.range 4).map fun k => w64 ((ids.getD (2 * k) 0).toNat + (ids.getD (2 * k + 1) 0).toNat * 2 ^ 32)) ++
  wordsAt 0x660 (ns.take 16) ++
  wordsAt 0x6E0 [w64 (t.notices.length + if (t.notices.getLast?.getD 0).getLsbD 0 then 256 else 0),
    zx (indAll (t.unmerged.map (·.2))), late.1, late.2] ++
  wordsAt 0x700 (tags.flatMap Tag.words ++ List.replicate (32 - 2 * tags.length) 0) ++
  wordsAt 0x800 (tags.flatMap Tag.data ++ List.replicate (512 - 32 * tags.length) 0) ++
  wordsAt 0x1800 (List.replicate 256 0) ++
  wordsAt 0x2000 (t.v.toList.flatMap fun v => (List.range 32).map fun k => v.extractLsb' (64 * k) 64)

/-- The accumulator words of a block (R347, R349). -/
def accWords (acc : Vector Acc 4) : List (Nat × Word) :=
  wordsAt 0x600 (acc.toList.flatMap Acc.recordWords) ++
  wordsAt 0x6000 (acc.toList.flatMap fun a => (List.range 2048).map fun k => a.elems.extractLsb' (64 * k) 64)

/-- The state with words of a save block written. -/
def State.blockFill (s : State) (v : Saving) (ws : List (Nat × Word)) : State :=
  ws.foldl (fun (x : State) w => x.blockWrite v w.1 w.2) s

/-- The words of a save block from an offset. -/
def State.blockList (s : State) (v : Saving) (off n : Nat) : List Word :=
  (List.range n).map fun k => s.blockRead v (off + 8 * k)

/-- The value of words laid out little-endian. -/
def packWords (ws : List Word) : Nat := wordsNat ws

/-! ### Loading a thread from its block (R351) -/

/-- The system registers of a block; reserved bits keep 0 (R9, R351). -/
def sysOfBlock (ws : List Word) (hist : List Word) (trapsave : Word) : SysRegs :=
  let g (k : Nat) : Word := ws.getD k 0
  let m36 : Word := 0x0000000FFFFFFFFF
  let base := (List.range 0x1F).foldl (fun (r : SysRegs) k => if k = 0x14 then r else r.write k (g k)) {}
  { base with
    tseq := g 0x0A, tdone := g 0x0B
    cwp := #v[g 0x0C &&& m36, g 0x0D &&& m36, g 0x0E &&& m36, g 0x0F &&& m36]
    lat := g 0x17 &&& 0xFFFFFFFF, hops := g 0x18 &&& 0xFFFF
    history := Vector.ofFn fun k => hist.getD k.val 0
    trapsave := trapsave }

/-- An accumulator of a block (R349). -/
def accOfBlock (r : List Word) (es : List Word) : Acc :=
  let w1 := r.getD 1 0
  let f (lo : Nat) : Option (BitVec 4) := if bits w1 lo 4 = 15 then none else some (bits w1 lo 4)
  ⟨BitVec.ofNat 131072 (packWords es), bits (r.getD 0 0) 0 32, bits (r.getD 0 0) 32 32, f 56, f 52,
    min (bits w1 0 7).toNat 64, min (bits w1 8 7).toNat 64, w1.getLsbD 63⟩

/-- A tag of a block: what the layout holds, and, from the tag as it was saved, what it has no field for. A withdrawn tag holds no
result yet, and its `lda` will give both (R349, R351). -/
def tagOfBlock (old : Tag) (w0 w1 : Word) (data : List Word) : Tag :=
  let un := (bits w0 34 2).toNat
  let wd := w0.getLsbD 62
  let hasU := w0.getLsbD 45 || wd
  { old with
    count := (bits w0 58 4).toNat
    hasV := w0.getLsbD 51 || wd, vd := bits w0 52 6, v := BitVec.ofNat 2048 (packWords data)
    sds := if hasU then (List.range (un + 1)).map fun k => bits w0 46 5 + BitVec.ofNat 5 k else []
    u := if hasU then w1 :: data.take un else []
    addr := w1, iter := bits w0 0 32, lag := bits w0 37 8, wait := w0.getLsbD 36
    parts := if w0.getLsbD 62 then 1 else 0
    isLda := old.isLda || w0.getLsbD 62
    state := if w0.getLsbD 62 then .withdrawn else if w0.getLsbD 33 then .trapped (bits w0 0 8) w1 else .ready }

/-- A tag for which nothing was saved. -/
def blankTag (n : Nat) (pc : Word) : Tag :=
  { openTag { place := ⟨0, 0, 0⟩, pc, word := 0 } n 0 with lanes := BitVec.allOnes 64 }

/-- The tags of a block. -/
def State.tagsOfBlock (s : State) (v : Saving) : List Tag :=
  ((List.range 16).filterMap fun k =>
    let w0 := s.blockRead v (0x700 + 16 * k)
    if w0.getLsbD 63 then
      some (tagOfBlock (v.tags.getD k (blankTag (s.nextId + k) (s.blockRead v 0))) w0 (s.blockRead v (0x708 + 16 * k))
        (s.blockList v (0x800 + 256 * k) 32))
    else none)

/-- The indications of a block under the numbers of the operations that gave them; those that no operation gave, in an edited
block, stand under the number given (R197, R306; log 76). -/
def unmergedOf (inds : List (Nat × BitVec 7)) (ind : BitVec 7) (n : Nat) : List (Nat × BitVec 7) :=
  let own := (inds.map fun u => (u.1, u.2 &&& ind)).filter fun u => u.2 ≠ 0
  let rest := ind &&& ~~~indAll (own.map (·.2))
  if rest = 0 then own else own ++ [(n, rest)]

/-- The thread a block holds (R351). -/
def State.threadOfBlock (s : State) (v : Saving) (acc : Option (Vector Acc 4)) (trapsave : Word) : Thread :=
  let f1 := s.blockRead v 8
  let q := s.blockRead v 0x300
  let ns := (bits (s.blockRead v 0x6E0) 0 5).toNat
  let ids := (s.blockList v 0x640 4).flatMap fun w => [bits w 0 24, bits w 32 24]
  let late := s.blockRead v 0x6F0 &&& 0x1FFFFFFFFFFFF1FF
  let ind : BitVec 7 := bits (s.blockRead v 0x6E8) 0 7
  { uid := v.uid, ctx := v.ctx, pc := s.blockRead v 0 &&& 0x0000FFFFFFFFFFFF
    s := Vector.ofFn fun k => if k.val = 0 then 0 else s.blockRead v (0x100 + 8 * k.val)
    q := Vector.ofFn fun k => q.getLsbD k.val
    v := Vector.ofFn fun k => BitVec.ofNat 2048 (packWords (s.blockList v (0x2000 + 256 * k.val) 32))
    p := Vector.ofFn fun k => if k.val = 0 then 0 else s.blockRead v (0x300 + 8 * k.val)
    d := Vector.ofFn fun k => s.blockRead v (0x408 + 16 * k.val) ++ s.blockRead v (0x400 + 16 * k.val)
    acc := match acc with
      | some a => a
      | none => Vector.ofFn fun k => accOfBlock (s.blockList v (0x600 + 16 * k.val) 2) (s.blockList v (0x6000 + 16384 * k.val) 2048)
    sys := sysOfBlock (s.blockList v 0x200 32) (s.blockList v 0x500 32) trapsave
    hs := f1.getLsbD 0, halted := f1.getLsbD 1
    tags := s.tagsOfBlock v
    firstWord := v.first
    notices := (s.blockList v 0x660 16).take ns
    lateFaults := if late = 0 then [] else [(late, s.blockRead v 0x6F8, v.opFault)]
    unmerged := unmergedOf v.inds ind (max (s.blockRead v 0x250).toNat ((s.blockRead v 0x258).toNat + 1))
    former := ids.filter (· ≠ 0)
    nodeA := s.blockRead v 0x18 }

/-- The state after a loaded thread stands in its slot: each withdrawn `lda` is sent again (R181, R351). -/
def State.installThread (s : State) (p : Place) (t : Thread) : State :=
  let t' := { t with tags := t.tags.map fun g => { g with state := if g.state == .withdrawn then .waiting else g.state } }
  (t.tags.filter fun g => g.state == .withdrawn).reverse.foldl (fun (x : State) g => x.resend p t g) (s.setThread p t')

/-! ### `eret`, `halt`, `svc` (R96, R343, R344, R350) -/

/-- `eret`: in PRIV the thread is reloaded from its block, once that is complete; otherwise the thread returns to TRAPPC
(R96, R339, R350). -/
def execEret (s : State) : Host.Outcome State Fault Refusal :=
  s.word fun i t =>
    if t.priv then
      match s.saving.find? fun v => v.uid = t.uid with
      | none => (s.setThread i.place { t with priv := false }).stay
      | some v =>
        if !v.complete then s.wait i t .saving
        else
          let u := s.threadOfBlock v none t.sys.trapsave
          let s1 : State := { s with saving := dropFirst (fun x => x.uid = t.uid) s.saving }
          (s1.installThread i.place
            { u with stampedNow := t.stampedNow, stampedAny := t.stampedAny, preempt := t.preempt, debugDue := t.debugDue }).stay
    else match targetTrap t.sys.trappc with
    | some c => s.precise i t c t.sys.trappc
    | none => s.returnTrap i t

/-- `halt` (R343). -/
def execHalt (s : State) : Host.Outcome State Fault Refusal := s.wordRegs fun t => { t with halted := true }

/-- The service registers of a context (R375). -/
def State.serviceOf (s : State) (ctx : Nat) : Word × Word × Word × Word := lookupD (0, 0, 0, 0) ctx s.bar0.services

/-- `svc` (R344, R375). -/
def execSvc (e : BitVec 21) (s : State) : Host.Outcome State Fault Refusal :=
  s.word fun i t =>
    let v := s.record t.ctx 8
    let n := e.toNat
    if (bits v 16 11).toNat ≤ n then s.tell (.svcRefused t.ctx n)
    else
      let old := s.serviceOf t.ctx
      let w0 := w64 (2 ^ 63 + t.ctx * 2 ^ 40 + (s.widAt i.place).toNat * 2 ^ 16 + n)
      let cnt : Word := if old.2.2.1 = 0xFFFFFFFF then old.2.2.1 else old.2.2.1 + 1
      { s with bar0 := { s.bar0 with
        services := putKey t.ctx (w0, i.pc, cnt, w64 s.cycle) s.bar0.services
        msix := s.bar0.msix ++ [(bits v 0 11).toNat + n] } }

/-! ### Pre-emption (R345, R346) -/

/-- Whether a thread can be pre-empted now: at a boundary, or before its migration is sent, and not while its die is halted
(R327, R345, R357). -/
def State.canPreempt (s : State) (p : Place) (t : Thread) : Bool :=
  !(s.die p.die).halt && !t.priv && t.pending.isNone &&
  (s.between p t || t.migration.any fun m => m.phase == .waiting)

/-- The thread as it enters a PREEMPT handler, what is saved having gone to the block (R346). A handler address that is no
multiple of 8 stands in PC as given and traps ALIGN at its fetch: the model's choice (log 81). -/
def Thread.enterPreempt (t : Thread) (cycle : Nat) (block handler : Word) : Thread :=
  { t with
    priv := true, halted := false, preempt := none, pending := none, migration := none
    notices := [], lateFaults := [], unmerged := []
    tags := t.tags.map fun g => { g with frozen := true }
    image := []
    firstWord := false
    pc := handler
    hold := if handler = 0 then .switch else .until_ (cycle + 3)
    sys := { t.sys with trapsave := block, trapcause := zx causePreempt, trappc := t.pc, trapinfo := 0 } }

/-- The thread without the words of an image that it has read for a word that has not acted. -/
def Thread.dropImages (t : Thread) : Thread := { t with tags := t.tags.filter fun g => !g.image, image := [] }

/-- PREEMPT_ENTRY: waiting loads are withdrawn, the thread is saved, and the handler is entered (R346). Its block may be one that
another thread was saved in: what is kept of that thread goes with it. -/
def execPreemptEntry (p : Place) (s : State) : Host.Outcome State Fault Refusal :=
  match s.thread? p with
  | none => .next s
  | some t =>
    match t.preempt with
    | none => .next s
    | some block =>
      if !s.canPreempt p t then .next s
      else
        let s1 := s.withdraw p t
        match s1.thread? p with
        | none => .next s1
        | some t2 =>
          if !t2.settled then .next s1
          else
            let t1 := t2.dropImages
            let v : Saving := ⟨t1.uid, t1.ctx, block, p, false, t1.tags, t1.firstWord, t1.unmerged, t1.lateFaults.head?.any (·.2.2)⟩
            let s2 := s1.blockFill v (t1.blockWords (s1.widAt p))
            let h := (s.core p.die p.core).handler &&& 0x0000FFFFFFFFFFFF
            let kept := s2.saving.filter fun x => !(x.complete && x.ctx = t1.ctx && x.block = block && (s2.findThread x.uid).isNone)
            .next ({ s2 with saving := kept ++ [v] }.setThread p (t1.enterPreempt s.cycle block h)).applyAllDeferred

/-- SAVE_COMPLETE: every operation of a saved thread being recorded, its accumulators are written and the complete bit is
set; a thread that waits for it is switched out (R346, R350). -/
def execSaveComplete (uid : Nat) (s : State) : Host.Outcome State Fault Refusal :=
  match s.saving.find? fun v => v.uid = uid && !v.complete with
  | none => .next s
  | some v =>
    if !(s.opsOf uid).isEmpty then .next s
    else
      let s1 := s.blockFill v (accWords (s.accsOf uid))
      let s2 := s1.blockWrite v 8 (s1.blockRead v 8 ||| 4)
      let s3 := { s2 with saving := modFirst (fun x => x.uid = uid) (fun x => { x with complete := true }) s2.saving }.finishCmd 6 0
      match s3.findThread uid with
      | some (p, t) => .next (if t.hold == .switch then s3.leaveAlive p t else s3)
      | none => .next s3

/-! ### Commands PREEMPT and RESTORE (R351, R373) -/

/-- The place a slot argument names (R372). -/
def argPlace (x : Word) : Place := ⟨(bits x 0 10).toNat, (bits x 10 4).toNat, (bits x 14 4).toNat⟩

/-- An argument that names a slot or a core: a lamp die, and every other bit zero (R372). -/
def argOk (x : Word) : Bool := isLamp (bits x 0 10).toNat && bits x 18 46 == 0

/-- Whether a command runs: its code and context (R372). -/
def State.running (s : State) (code ctx : Nat) : Bool :=
  s.bar0.busy && s.bar0.cmdCode.toNat == code && s.bar0.cmdCtx == ctx

/-- An argument of the running command. -/
def State.arg (s : State) (k : Nat) : Word := s.bar0.cmdArgs.toList.getD k 0

/-- PREEMPT (R345, R373). -/
def execPreempt (ctx : Nat) (s : State) : Host.Outcome State Fault Refusal :=
  if !s.running 6 ctx then .next s
  else
    let p := argPlace (s.arg 0)
    let block := s.arg 1
    if (s.ctxInfo? ctx).isNone then .next (s.finishCmd 6 5)
    else if !argOk (s.arg 0) then .next (s.finishCmd 6 2)
    else match s.thread? p with
    | none => .next (s.finishCmd 6 4)
    | some t =>
      if t.ctx ≠ ctx || block.toNat % 256 ≠ 0 then .next (s.finishCmd 6 2)
      else if t.preempt.isSome || (s.saving.any fun v => v.uid = t.uid && v.block = block) then .next s
      else .next (s.setThread p { t with preempt := some block })

/-- The state, and the thread, after a restored thread's id is settled: the slot it left gives it back its id; otherwise the
id it held away joins its former ids (R185). -/
def State.settleIds (s : State) (p : Place) (t : Thread) (wid : BitVec 24) : State × Thread :=
  let q := widPlace wid
  let x := s.slot q
  let held := x.heldAway.contains (widGen wid)
  if q = p then
    (s.setSlot p { x with gen := widGen wid, heldAway := x.heldAway.filter (· ≠ widGen wid) },
      { t with stampedNow := held, stampedAny := held || !t.former.isEmpty })
  else
    let t1 := { t with stampedNow := held }
    let f := t1.formerAfter wid
    (s.dropId t.uid t.ctx p.die f.2, { t with former := f.1, stampedNow := false, stampedAny := !f.1.isEmpty })

/-- RESTORE: the thread last saved in the block goes on; one that no slot gives back, of which only the block is left, gets what a
block has no field for afresh (R351, R373; log 76). A slot whose every generation is held away answers as an occupied one, with
status 4: the model's choice, which R186 and R373 leave open (log 86). -/
def execRestore (ctx : Nat) (s : State) : Host.Outcome State Fault Refusal :=
  if !s.running 7 ctx then .next s
  else
    let p := argPlace (s.arg 0)
    let block := s.arg 1
    if (s.ctxInfo? ctx).isNone then .next (s.finishCmd 7 5)
    else if !argOk (s.arg 0) then .next (s.finishCmd 7 2)
    else if !(s.core p.die p.core).resident ctx then .next (s.finishCmd 7 6)
    else
      let own := (s.saving.filter fun x => x.ctx = ctx && x.block = block).getLast?
      let v : Saving := match own with
        | some x => { x with place := p }
        | none => ⟨s.nextId, ctx, block, p, true, [], false, [], true⟩
      if !(s.blockRead v 8).getLsbD 2 then .next (s.finishCmd 7 2)
      else if !s.slotFree p then .next (s.finishCmd 7 4)
      else
        let t := s.threadOfBlock v none 0
        let s1 : State := { s with
          nextId := s.nextId + 17, saving := s.saving.filter fun x => x.uid ≠ v.uid }
        let r := s1.settleIds p t (bits (s.blockRead v 0x10) 0 24)
        let s2 := r.1.setSlot p { r.1.slot p with owner := some ctx }
        .next ((s2.installThread p r.2).finishCmd 7 0)

/-! ### Debug halts (R343, R357, R374) -/

/-- DIE_HALT; in recovery the halt words take no write (R357, R364). -/
def execDieHalt (die : Nat) (s : State) : Host.Outcome State Fault Refusal :=
  if isLamp die && !s.recovery then .next (s.modDie die fun d => { d with halt := true }) else .next s

/-- A boarding as though its `board` had issued at a cycle, its landed segments discarded (R272). -/
def Ring.reboard (r : Ring) (die t : Nat) (h : Handle) : Handle :=
  r.resolve die t { h with landed := [], lost := [], failed := [], w := 0, lapK := 0, window := none }

/-- DIE_RELEASE: marked slots get DEBUG, boardings are resolved again, and the homes act on the notices they deferred (R187,
R272, R357). -/
def execDieRelease (die : Nat) (s : State) : Host.Outcome State Fault Refusal :=
  if !(s.die die).halt then .next s
  else
    let s1 := s.modDie die fun d => { d with halt := false }
    let wake (e : Place × Slot) : Place × Slot :=
      if e.1.die = die && e.2.mark then
        (e.1, { e.2 with thread := e.2.thread.map fun (t : Thread) => if t.halted then t else { t with debugDue := true } })
      else e
    let s2 : State := { s1 with slots := s1.slots.map wake }
    let again (d : Nat) (h : Handle) : Handle :=
      if d = die && s.ring.stateOf die s.cycle h != .complete then s.ring.reboard die s.cycle h else h
    .next (s2.mapHandles again).applyAllDeferred

/-- The state after a slot halted by its own `halt` is released: its thread goes on, with DEBUG when the slot is marked (R343, R374). -/
def State.releaseSlot (s : State) (p : Place) : State :=
  match s.thread? p with
  | none => s
  | some t =>
    if !t.halted then s
    else (s.setThread p { t with halted := false, debugDue := (s.slot p).mark }).applyAllDeferred

/-- SLOT_RELEASE: a slot halted by its own `halt` is released (R343, R374). -/
def execSlotRelease (p : Place) (s : State) : Host.Outcome State Fault Refusal := .next (s.releaseSlot p)

end Sys2Proof.Machine
end

