-- ==== Sys2Proof/Machine/Residency.lean ====
section
/-! DEFINITION. Loading, launching, residency, eviction with its inbound log, and destruction (R173, R242, R353 to R355,
R369, R373). -/

namespace Sys2Proof.Machine

/-! ### Byte ranges -/

/-- The state with a range of bytes zero, and without errors. -/
def State.clearRange (s : State) (a n : Nat) : State :=
  { s with
    mem := s.mem.filter fun c => !(a ≤ c.1 && c.1 < a + n)
    errors := s.errors.filter fun e => !(a ≤ e && e < a + n) }

/-- The state with a range of bytes copied to another. -/
def State.copyRange (s : State) (src dst n : Nat) : State :=
  (s.clearRange dst n).writePairs ((s.mem.filter fun c => src ≤ c.1 && c.1 < src + n).map fun c => (dst + (c.1 - src), c.2))

/-- A virtual range cut at 4 KiB boundaries: addresses and lengths, within `fuel` pieces. -/
def pieces (va n : Nat) : (fuel : Nat) → List (Nat × Nat)
  | 0 => []
  | fuel + 1 =>
    if n = 0 then []
    else
      let m := min n (4096 - va % 4096)
      (va, m) :: pieces (va + m) (n - m) fuel

/-- The pieces of a range. -/
def cut (va n : Nat) : List (Nat × Nat) := pieces va n (n / 4096 + 2)

/-- The state with a virtual range of a context copied to physical addresses upward. -/
def State.copyIn (s : State) (die ctx : Nat) (va : Word) (dst n : Nat) : State :=
  (cut va.toNat n).foldl (fun (x : State) p => match x.translate die ctx .store (w64 p.1) with
    | .ok pa _ => x.copyRange pa (dst + (p.1 - va.toNat)) p.2
    | .fail _ => x) s

/-- The state with physical addresses upward copied to a virtual range of a context. -/
def State.copyOut (s : State) (die ctx : Nat) (src : Nat) (va : Word) (n : Nat) : State :=
  (cut va.toNat n).foldl (fun (x : State) p => match x.translate die ctx .store (w64 p.1) with
    | .ok pa _ => x.copyRange (src + (p.1 - va.toNat)) pa p.2
    | .fail _ => x) s

/-! ### LOADCTX (R369, R373) -/

/-- Whether a plinth address is aligned and exists. -/
def tableOk (a align : Nat) : Bool := a % align == 0 && paSpace a == 0 && paValid a

/-- Entry `e` of a context's course table (R369). -/
def State.courseImage (s : State) (ctx e : Nat) : BitVec 128 :=
  let a := (s.record ctx 12).toNat + 16 * e
  s.read64 (a + 8) ++ s.read64 a

/-- The words of the map that a course entry names, as the loader reads them; none if one cannot be read (R161, R162). -/
def State.courseMap (s : State) (ctx : Nat) (c : BitVec 128) : Option (List (BitVec 16)) :=
  if c.extractLsb' 0 2 = 1 then some []
  else
    let vas := wordAddrs (c.extractLsb' 64 64) 84
    match s.checkWords 0 ctx .load vas with
    | .error _ => none
    | .ok pas => if (s.badWord (vas.zip pas)).isSome then none else some (mapMasks (pas.map s.read64))

/-- The checks of LOADCTX (R161, R162, R210, R369, R373). -/
def State.recordOk (s : State) (ctx : Nat) : Bool :=
  (s.record ctx 0).toNat % 2 ^ 17 == 0 && (s.record ctx 2).toNat % 8 == 0 && tableOk (s.record ctx 11).toNat 4096 &&
  tableOk (s.record ctx 12).toNat 512 &&
  (List.range 32).all fun e => courseOk (s.courseImage ctx e) && (s.courseMap ctx (s.courseImage ctx e)).isSome

/-- The state with a context's course entries copied to every lamp die; an entry that a die does not list is the reset
entry (R99, R143, R161). -/
def State.copyCourses (s : State) (ctx : Nat) : State :=
  let es := ((List.range 32).filter fun e => s.courseImage ctx e ≠ courseReset).map fun e =>
    (ctx, e, s.courseImage ctx e, (s.courseMap ctx (s.courseImage ctx e)).getD [])
  let s1 : State := { s with dies := s.dies.map fun d => (d.1, { d.2 with courses := d.2.courses.filter fun c => c.1 ≠ ctx }) }
  if es.isEmpty then s1
  else lampDies.foldl (fun (x : State) d => x.modDie d fun y => { y with courses := y.courses ++ es }) s1

/-- Every core of the lamp dies. -/
def allCores : List (Nat × Nat) := lampDies.flatMap fun d => (List.range 16).map fun c => (d, c)

/-- The state with every core giving a context the same weight (R30, R369). -/
def State.weighAll (s : State) (ctx : Nat) (w : BitVec 8) : State :=
  let put (x : Core) : Core := { x with weights := putKey ctx w x.weights }
  let listed := s.cores.map fun e => (e.1, if e.2.weightOf ctx = w.toNat then e.2 else put e.2)
  let keys := s.cores.map (·.1)
  { s with cores := listed ++ (if w = 0 then [] else (allCores.filter fun k => !keys.contains k).map fun k => (k, put {})) }

/-- The state with the sideband of every block of a context's STAMPED pages at stamp 0 and no writer (R173). -/
def State.clearStamps (s : State) (ctx : Nat) : State :=
  let ls := (s.leaves ctx).filter fun e => e.1.getLsbD 60
  { s with side := s.side.filter fun b => !(ls.any fun e => s.leafHolds ctx e b.1) }

/-- The state with the sideband of a context's STAMPED pages discarded, but for blocks that another loaded context maps STAMPED: what
it wrote there keeps its writer (R173, R182, R358; log 34). -/
def State.unmapStamps (s : State) (ctx : Nat) : State :=
  let ls := (s.leaves ctx).filter fun e => e.1.getLsbD 60
  let shared (a : Nat) : Bool := s.stampedLeaves.any fun x => x.1 ≠ ctx && s.leafHolds x.1 x.2 a
  { s with side := s.side.filter fun b => !(ls.any fun e => s.leafHolds ctx e b.1) || shared b.1 }

/-- LOADCTX: the context is loaded and resident on no core; one that fails a check is not loaded, whatever it was (R61, R173, R373). -/
def execLoadctx (ctx : Nat) (s : State) : Host.Outcome State Fault Refusal :=
  if !s.running 1 ctx then .next s
  else if s.record ctx 0 = 0 then .next (s.finishCmd 1 5)
  else if !s.recordOk ctx then .next ({ s with ctxs := s.ctxs.filter fun c => c.n ≠ ctx }.finishCmd 1 2)
  else
    let tags : BitVec 32768 := BitVec.ofNat 32768 (s.readNat (s.record ctx 11).toNat 4096)
    let s1 := (s.copyCourses ctx).weighAll ctx (bits (s.record ctx 10) 32 8)
    let s2 : State := if (s.ctxInfo? ctx).isSome then s1.modCtx ctx fun c => { c with tagClass := tags, intakePtr := 0 }
      else { s1.clearStamps ctx with ctxs := s1.ctxs ++ [⟨ctx, tags, s.record ctx 4, [], 0, none⟩] }
    .next (s2.finishCmd 1 0)

/-! ### LAUNCH (R27, R373) -/

/-- The register image of a launch: 32 words at a virtual address, word j giving sj (R98, R373). -/
def State.launchRegs (s : State) (die ctx : Nat) (va : Word) : Option (List Word) :=
  let vas := wordAddrs va 32
  match s.checkWords die ctx .load vas with
  | .error _ => none
  | .ok pas => if (s.badWord (vas.zip pas)).isSome then none else some (pas.map s.read64)

/-- LAUNCH: a record is added; one without hold releases every other waiting record of the context, and they
take effect on one cycle; a core on which the context is not resident answers 6 (R61, R373). -/
def execLaunch (ctx : Nat) (s : State) : Host.Outcome State Fault Refusal :=
  if !s.running 3 ctx then .next s
  else
    let p := argPlace (s.arg 0)
    if (s.ctxInfo? ctx).isNone then .next (s.finishCmd 3 5)
    else if !argOk (s.arg 0) || bits (s.arg 1) 0 3 ≠ 0 then .next (s.finishCmd 3 2)
    else if !(s.core p.die p.core).resident ctx then .next (s.finishCmd 3 6)
    else match s.launchRegs p.die ctx (s.arg 2) with
    | none => .next (s.finishCmd 3 2)
    | some regs =>
      let hold := (s.arg 3).getLsbD 0
      let free (l : LaunchRec) : LaunchRec := if l.ctx = ctx && !hold then { l with held := false } else l
      let new : LaunchRec := ⟨ctx, p, s.arg 1, regs, hold⟩
      .next ({ s.noteWork ctx with launches := s.launches.map free ++ [new] }.finishCmd 3 0)

/-! ### The inbound log (R354, R355) -/

/-- Bytes grouped into runs of successive addresses: each run's offset from the first address, and its bytes. -/
def runsOf (first : Nat) : List (Nat × Byte) → List (Nat × List Byte)
  | [] => []
  | (a, b) :: r => match runsOf first r with
    | (o, bs) :: rest => if first + o = a + 1 then (a - first, b :: bs) :: rest else (a - first, [b]) :: (o, bs) :: rest
    | [] => [(a - first, [b])]

/-- The entries of a store. -/
def storeEntries (kind : Nat) (va : Word) (wid : BitVec 24) (bs : List (Nat × Byte)) : List LogEntry :=
  let first := (bs.head?.map (·.1)).getD 0
  (runsOf first bs).map fun x => ⟨kind, va + w64 x.1, wid, x.2.length, x.2⟩

/-- The flits of a migration packet (R324). -/
def Thread.flits (t : Thread) : Nat :=
  16 + 4 * ((List.range 64).filter fun k => t.sys.vlive.getLsbD k).length +
    ((t.acc.toList.filter fun a => a.isSet).map fun a => (a.vr * a.vc + 15) / 16).sum

/-- Payload bytes whose layout the spec does not give (log 5). -/
def State.freePayload (s : State) (n : Nat) : List Byte := (List.range n).map fun k => Config.logByte (s.freeCtr + k)

/-- The entries of a request for an evicted context (R355). -/
def State.entriesOf (s : State) (r : Req) : List LogEntry :=
  match r.body with
  | .load es => [⟨6, groupAddr es, r.wid, (es.map (·.size)).sum, []⟩]
  | .store va bs => storeEntries (if r.engine then 3 else 1) va r.wid bs
  | .merge va bs => storeEntries 3 va r.wid (bs.map fun b => (b.1, b.2.1))
  | .atomic op n va _ _ _ =>
    let k := if op = .cas then 2 * n else n
    [⟨2, va, r.wid, k, s.freePayload k⟩]
  | .packet _ _ t => [⟨5, 0, r.wid, 64 * t.flits, s.freePayload (64 * t.flits)⟩]
  | _ => []

/-- The answer a message gets when it is appended: stores are acknowledged and packets accepted; reads and atomics wait for
the replay (R355). -/
def State.answerLogged (s : State) (r : Req) : State :=
  match r.body with
  | .store _ _ | .merge _ _ => s.answer r .ack
  | .packet _ _ _ => s.answer r .packetOk
  | _ => s

/-- LOG_APPEND: the message at the head of a die's arrival queue, for a context evicted from its core, is appended to the
inbound log; it waits while the log is full (R322, R355). -/
def execLogAppend (e : Nat) (s : State) : Host.Outcome State Fault Refusal :=
  match s.arrival e with
  | none => .next s
  | some r =>
    match r.core.bind fun c => (s.core e c).areaOf r.ctx with
    | none => .next s
    | some area =>
      match s.logAppend e r.ctx area (s.entriesOf r) with
      | none => .next s
      | some s1 =>
        let s2 := s1.popArrival e
        .next ({ s2 with logged := s2.logged ++ [LogItem.req r], freeCtr := s2.freeCtr + 2 ^ 17 }.answerLogged r)

/-- The physical address of a virtual one, whatever its page permits. -/
def State.paOf (s : State) (die ctx : Nat) (va : Word) : Option Nat :=
  match s.leafOf die ctx va.toNat with
  | .leaf e base _ => some (s.leafAddr ctx e (va.toNat - base))
  | .fail _ => none

/-- An address moved with the page of a virtual address that it stood in. -/
def State.moved (s : State) (die ctx : Nat) (va : Word) (old a : Nat) : Nat :=
  match s.paOf die ctx va with
  | some pa => pa + a - old
  | none => a

/-- The body of a logged request, its addresses translated afresh: the partition may stand at another base (R353). -/
def State.rebase (s : State) (die ctx : Nat) (b : ReqBody) : ReqBody :=
  match b with
  | .load es => .load (es.map fun e => { e with paddr := s.moved die ctx e.vaddr e.paddr e.paddr })
  | .store va bs =>
    let old := (bs.head?.map (·.1)).getD 0
    .store va (bs.map fun x => (s.moved die ctx va old x.1, x.2))
  | .merge va bs =>
    let old := (bs.head?.map (·.1)).getD 0
    .merge va (bs.map fun x => (s.moved die ctx va old x.1, x.2))
  | .atomic op n va pa x y => .atomic op n va (s.moved die ctx va pa pa) x y
  | b => b

/-- The state after one entry of a log is replayed: stores are performed, reads and atomics performed and answered, a packet
is put with the buffered ones, and a record goes to its hod or partition, or waits to be held at the core (R241, R354,
R355). -/
def State.replayItem (s : State) (x : LogItem) : State :=
  match x with
  | .record die core ctx w0 w1 =>
    (s.sendRecord die core ctx 0 (w0, w1) none).getD
      { s with
        nextId := s.nextId + 1
        fresh := s.fresh ++ [⟨s.nextId, 0, 0, ctx, die, core, recA w0, recB w1, .link, some (w0, w1)⟩] }
  | .req r =>
    match s.rebase r.dest r.ctx r.body with
    | .store _ bs => s.storeGroup bs
    | .merge _ bs => s.storeGroup (s.mergeBytes bs)
    | .packet core _ t => s.modDie r.dest fun d => { d with buffer := d.buffer ++ [⟨core, r.src, r.hops, r.lat, t⟩] }
    | b => s.perform { r with body := b }

/-- Whether a log entry is of a context on a core. -/
def LogItem.isOf (x : LogItem) (die core ctx : Nat) : Bool :=
  match x with
  | .req r => r.dest = die && r.core = some core && r.ctx = ctx
  | .record d c n _ _ => d = die && c = core && n = ctx

/-- The state after the log of a context on a core is replayed in full, in arrival order (R354). -/
def State.replayLog (s : State) (die core ctx : Nat) : State :=
  (s.logged.filter fun x => x.isOf die core ctx).foldl State.replayItem
    { s with logged := s.logged.filter fun x => !x.isOf die core ctx }

/-! ### RESIDE (R353, R354, R373) -/

/-- Whether a partition may be placed on a core: within its 64 units, apart from the others, and at most 4 (R353). -/
def Core.partitionFits (x : Core) (base size : Nat) : Bool :=
  1 ≤ size && base + size ≤ 64 && x.partitions.length < 4 &&
  x.partitions.all fun p => p.base + p.size ≤ base || base + size ≤ p.base

/-- The words of a table image in an area. -/
def State.areaWords (s : State) (die ctx : Nat) (area : Word) (off n : Nat) : Nat :=
  wordsNat ((List.range n).map fun k => s.areaRead die ctx area (off + 8 * k))

/-- The tables of an area (R354). -/
def State.areaTables (s : State) (die ctx : Nat) (area : Word) : Tables :=
  let t8 (k : Nat) : BitVec 10368 := BitVec.ofNat _ (s.areaWords die ctx area (0x100 + 1296 * k) 162)
  let t4 (k : Nat) : BitVec 768 := BitVec.ofNat _ (s.areaWords die ctx area (0xC00 + 96 * k) 12)
  ⟨ctx, #v[t8 0, t8 1], #v[t4 0, t4 1]⟩

/-- The records of an area, in order (R354). -/
def State.areaRecords (s : State) (die ctx : Nat) (area : Word) : List (Word × Word) :=
  ((List.range 1024).map fun k =>
    (s.areaRead die ctx area (0x1000 + 16 * k), s.areaRead die ctx area (0x1008 + 16 * k))).filter fun w => w ≠ (0, 0)

/-- The state after a context's tables, partition and records return from its area, and its log is replayed (R242, R354). -/
def State.restoreArea (s : State) (die core ctx base size : Nat) (area : Word) : State :=
  let s1 := s.copyIn die ctx (area + 0x8000) (scratchAddr die core (base * 65536)) (size * 65536)
  let s2 := s1.modCore die core fun x => { x with
    tables := (x.tables.filter fun t => t.ctx ≠ ctx) ++ [s.areaTables die ctx area]
    evicted := x.evicted.filter fun e => e.1 ≠ ctx }
  let s3 := (s.areaRecords die ctx area).foldl (fun (x : State) w => x.replayItem (.record die core ctx w.1 w.2)) s2
  (s3.replayLog die core ctx).areaWrite die ctx area 0x20 (s.areaRead die ctx area 0x18)

/-- RESIDE (R353, R354, R373). -/
def execReside (ctx : Nat) (s : State) : Host.Outcome State Fault Refusal :=
  if !s.running 4 ctx then .next s
  else
    let p := argPlace (s.arg 0)
    let base := (bits (s.arg 1) 0 6).toNat
    let size := (bits (s.arg 1) 8 7).toNat
    let area := s.arg 2
    let x := s.core p.die p.core
    let inForce := (x.areaOf ctx).getD 0
    if (s.ctxInfo? ctx).isNone then .next (s.finishCmd 4 5)
    else if !argOk (s.arg 0) || !s.up p.die || x.resident ctx || !x.partitionFits base size || area ≠ inForce ||
        (area ≠ 0 && (s.areaRead p.die ctx area 8).toNat ≠ size * 65536) then .next (s.finishCmd 4 2)
    else
      let s1 := s.modCore p.die p.core fun y => { y with
        partitions := y.partitions ++ [⟨ctx, base, size⟩]
        hodcap := putKey ctx Config.hodEntries y.hodcap }
      let s2 := if area = 0 then
          (s1.clearRange (scratchAddr p.die p.core (base * 65536)) (size * 65536)).modCore p.die p.core fun y =>
            { y with tables := (y.tables.filter fun t => t.ctx ≠ ctx) ++ [Tables.preset ctx] }
        else s1.restoreArea p.die p.core ctx base size area
      .next (s2.finishCmd 4 0)

/-! ### EVICT (R242, R354, R373) -/

/-- Whether a context has nothing left on a core that an eviction waits for: no thread, no engine operation, no rewrite and
no take (R354). -/
def State.coreIdle (s : State) (die core ctx : Nat) : Bool :=
  let x := s.core die core
  ((s.threadsOf ctx).all fun t => !(t.1.die = die && t.1.core = core)) &&
  (s.ops.all fun o => !(o.ctx = ctx && o.place.die = die && o.place.core = core)) &&
  (x.rewrites.all fun r => r.ctx ≠ ctx) && x.takeBusy.all fun e => recCtx e.2.w0 ≠ ctx

/-- Whether an area is mapped writable as far as its log reaches, and its log size is a power of two from 64 KiB to 1 GiB
(R354). -/
def State.areaOk (s : State) (die ctx : Nat) (area : Word) (size : Nat) : Bool :=
  let l := s.logSize die ctx area
  let total := 0x8000 + size * 65536 + l
  ((List.range 15).any fun k => l == 2 ^ (16 + k)) &&
  ((List.range (total / 65536 + 1)).all fun k => match s.translate die ctx .store (area + w64 (min (65536 * k) (total - 1))) with
    | .ok _ _ => true
    | .fail _ => false)

/-- The state with words written to an area from an offset. -/
def State.areaPut (s : State) (die ctx : Nat) (area : Word) (off : Nat) (ws : List Word) : State :=
  (wordsAt off ws).foldl (fun (x : State) w => x.areaWrite die ctx area w.1 w.2) s

/-- The 8-byte words of a number, `n` of them. -/
def natWords (x n : Nat) : List Word := (List.range n).map fun k => w64 (x / 2 ^ (64 * k))

/-- The state after a context's hod records on a core go to the die's partition, and the rest to the area (R242). -/
def State.evictRecords (s : State) (die core ctx : Nat) (area : Word) : State :=
  let es := (s.core die core).hod.filter fun e => recCtx e.w0 = ctx
  let n := s.partRoom ctx die
  let s1 := s.modCore die core fun x => { x with hod := x.hod.filter fun e => recCtx e.w0 ≠ ctx }
  let s2 := (es.take n).foldl (fun (x : State) e => x.partAppend ctx die e.w0 e.w1) s1
  s2.areaPut die ctx area 0x1000 ((es.drop n).flatMap (fun e => [e.w0, e.w1]) ++ List.replicate (2048 - 2 * (es.length - n)) 0)

/-- The state after a context leaves a core: its free stack returns to the quarry, its handles and cached rules go, and its
area is in force (R216, R272, R354). -/
def State.leaveCore (s : State) (die core ctx : Nat) : State :=
  let s := s.regain die core ctx
  let x := s.core die core
  (s.modCtx ctx fun c => { c with returned := c.returned ++ (x.stackOf ctx).reverse }).modCore die core fun y => { y with
    nodeStacks := dropKey ctx y.nodeStacks
    wants := y.wants.filter fun w => w ≠ ctx
    popped := y.popped.filter fun w => w.2.1 ≠ ctx
    handles := y.handles.filter fun h => h.ctx ≠ ctx
    cache := y.cache.filter fun e => e.1 ≠ ctx
    tables := y.tables.filter fun t => t.ctx ≠ ctx
    hodcap := dropKey ctx y.hodcap
    partitions := y.partitions.filter fun q => q.ctx ≠ ctx }

/-- EVICT: once the context is idle on the core, its threads having been pre-empted, it is evicted (R354, R373). -/
def execEvict (ctx : Nat) (s : State) : Host.Outcome State Fault Refusal :=
  if !s.running 5 ctx then .next s
  else
    let p := argPlace (s.arg 0)
    let area := s.arg 1
    let x := s.core p.die p.core
    if (s.ctxInfo? ctx).isNone then .next (s.finishCmd 5 5)
    else if !argOk (s.arg 0) then .next (s.finishCmd 5 2)
    else match x.partitions.find? fun q => q.ctx = ctx with
    | none => .next (s.finishCmd 5 6)
    | some q =>
      if !s.areaOk p.die ctx area q.size then .next (s.finishCmd 5 2)
      else if !s.coreIdle p.die p.core ctx then .next s
      else
        let t := x.tablesOf ctx
        let s1 := s.areaPut p.die ctx area 0 [w64 (q.base * 65536), w64 (q.size * 65536)]
        let s2 := s1.areaPut p.die ctx area 0x18 (List.replicate 29 0)
        let s3 := s2.evictRecords p.die p.core ctx area
        let s4 := s3.areaPut p.die ctx area 0x100 (natWords t.c8[0].toNat 162 ++ natWords t.c8[1].toNat 162)
        let s5 := s4.areaPut p.die ctx area 0xC00 (natWords t.c4[0].toNat 12 ++ natWords t.c4[1].toNat 12)
        let s6 := s5.copyOut p.die ctx (scratchAddr p.die p.core (q.base * 65536)) (area + 0x8000) (q.size * 65536)
        let s7 := (s6.leaveCore p.die p.core ctx).modCore p.die p.core fun y => { y with evicted := y.evicted ++ [(ctx, area)] }
        .next (s7.finishCmd 5 0).applyAllDeferred

/-! ### DESTROY (R173, R181, R182, R242, R272, R327, R373) -/

/-- Whether a request is a migration packet of a context. -/
def Req.packetOf (r : Req) (ctx : Nat) : Bool :=
  match r.body with
  | .packet _ _ _ => r.ctx = ctx
  | _ => false

/-- The state with `n` records of a context counted as consumed on a die (R242). -/
def State.discard (s : State) (die ctx n : Nat) : State :=
  if n = 0 then s else s.modStatus die ctx fun c => { c with consumed := c.consumed + BitVec.ofNat 32 n }

/-- The state with `n` migration packets of a context counted as placed on a die (R327). -/
def State.discardPackets (s : State) (die ctx n : Nat) : State :=
  if n = 0 then s else s.modStatus die ctx fun c => { c with placed := c.placed + BitVec.ofNat 16 n }

/-- The state after a context's threads leave their slots: their stamped loads are withdrawn, and their stop notices are due
(R181, R182). -/
def State.stopThreads (s : State) (ctx : Nat) : State :=
  let mine (r : Req) : Bool := r.ctx = ctx && match r.body with
    | .lda _ _ _ _ _ => true
    | _ => false
  let s1 : State := { s with
    sends := s.sends.filter fun r => !mine r
    chans := s.chans.filter fun r => !mine r
    arrivals := s.arrivals.filter fun r => !mine r
    outs := s.outs.filter fun o => !(o.ctx = ctx && o.cls == .lda)
    dies := s.dies.map fun d => (d.1, { d.2 with monitor := d.2.monitor.filter fun m => m.ctx ≠ ctx }) }
  (s.threadsOf ctx).foldl (fun (x : State) t => x.stopThread t.1 t.2) s1

/-- The ids of a stamped writer that a saved thread holds: its former ids, and the one it left under if that is held
away. -/
def State.savedIds (s : State) (v : Saving) : List (BitVec 24) :=
  let ids := ((s.blockList v 0x640 4).flatMap fun w => [bits w 0 24, bits w 32 24]).filter (· ≠ 0)
  let w : BitVec 24 := bits (s.blockRead v 0x10) 0 24
  if (s.slot (widPlace w)).heldAway.contains (widGen w) then ids ++ [w] else ids

/-- The state after a context's threads that stand in no slot are gone: those saved, and those in packets that have been
accepted; their stop notices are due (R182, R327). -/
def State.stopAway (s : State) (ctx : Nat) : State :=
  let here := (s.threadsOf ctx).map fun t => t.2.uid
  let buf := s.dies.flatMap fun d => (d.2.buffer.filter fun b => b.t.ctx = ctx).map fun b => (d.1, b.t)
  let log := s.logged.filterMap fun x => match x with
    | .req r => (match r.body with
      | .packet _ _ t => if r.ctx = ctx then some (r.dest, t) else none
      | _ => none)
    | _ => none
  let packed : List Stopped := ((buf ++ log).filter fun x => !here.contains x.2.uid && !x.2.former.isEmpty).map fun x =>
    ⟨x.2.uid, x.2.former, ctx, x.1⟩
  let saved : List Stopped := ((s.saving.filter fun v => v.ctx = ctx && !here.contains v.uid).map fun v =>
    (⟨v.uid, s.savedIds v, ctx, v.place.die⟩ : Stopped)).filter fun x => !x.ids.isEmpty
  { s with stopped := s.stopped ++ packed ++ saved }

/-- Whether a thread's packet has been refused, or is being refused: it stands in no channel and waits to be sent again
(R323). -/
def State.packetWaits (s : State) (t : Thread) : Bool :=
  t.refused || (t.away && s.resps.any fun r => r.owner = t.uid && r.body == .packetNo)

/-- The state after a context's packets are discarded wherever they are, and counted as placed on the die where each stood or
was bound for; one that was refused stands at its source (R245, R327). -/
def State.dropPackets (s : State) (ctx : Nat) : State :=
  let moving := ((s.sends ++ s.chans ++ s.arrivals).filter fun r => r.packetOf ctx).map (·.dest)
  let logs := s.logged.filterMap fun x => match x with
    | .req r => if r.packetOf ctx then some r.dest else none
    | _ => none
  let bufs := s.dies.flatMap fun d => (d.2.buffer.filter fun b => b.t.ctx = ctx).map fun _ => d.1
  let waiting := ((s.threadsOf ctx).filter fun x => s.packetWaits x.2).map fun x => x.1.die
  let s1 : State := { s with
    sends := s.sends.filter fun r => !r.packetOf ctx
    chans := s.chans.filter fun r => !r.packetOf ctx
    arrivals := s.arrivals.filter fun r => !r.packetOf ctx
    logged := s.logged.filter fun x => match x with
      | .req r => !r.packetOf ctx
      | _ => true
    dies := s.dies.map fun d => (d.1, { d.2 with buffer := d.2.buffer.filter fun b => b.t.ctx ≠ ctx }) }
  (moving ++ logs ++ bufs ++ waiting).foldl (fun (x : State) d => x.discardPackets d ctx 1) s1

/-- The records of a context that stand on a die or are bound for it: in its cores and their logs, in its partition, and on their
way; and in its cores' areas, which a DESTROY that has begun has counted already (R242). -/
def State.recordsOn (s : State) (die ctx : Nat) : Nat :=
  let mine := s.cores.filter fun e => e.1.1 = die
  (mine.map fun e => e.2.hodCount ctx + e.2.heldCount ctx).sum +
  (if s.partSize ctx = 0 then 0 else s.partHeld ctx die) +
  (s.fresh.filter fun r => r.die = die && r.ctx = ctx).length +
  (s.spilling.filter fun r => r.die = die && r.ctx = ctx).length +
  ((s.batches.filter fun b => b.1 = die && b.2.1 = ctx).map fun b => b.2.2.length).sum +
  (s.logged.filter fun x => match x with
    | .record d _ n _ _ => d = die && n = ctx
    | _ => false).length +
  (if s.bar0.destroying then 0
  else (mine.map fun e => match e.2.areaOf ctx with
    | some a => (s.areaRecords die ctx a).length
    | none => 0).sum)

/-- The state with a context's partition on a die empty: its read count stands at its write count (R239, R242). -/
def State.emptyPartition (s : State) (ctx die : Nat) : State :=
  if s.partSize ctx = 0 || s.partHeld ctx die = 0 then s
  else s.write64 (s.partAddr ctx die + 8) (s.read64 (s.partAddr ctx die))

/-- The state after a context's records are discarded wherever they are, and counted as consumed on their dies (R242,
R245). -/
def State.dropRecords (s : State) (ctx : Nat) : State :=
  let s1 := lampDies.foldl (fun (x : State) d => x.discard d ctx (s.recordsOn d ctx)) s
  let s2 := lampDies.foldl (fun (x : State) d => x.emptyPartition ctx d) s1
  { s2 with
    fresh := s2.fresh.filter fun r => r.ctx ≠ ctx
    spilling := s2.spilling.filter fun r => r.ctx ≠ ctx
    batches := s2.batches.filter fun b => b.2.1 ≠ ctx
    logged := s2.logged.filter fun x => match x with
      | .record _ _ n _ _ => n ≠ ctx
      | _ => true
    cores := s2.cores.map fun e => (e.1, { e.2 with
      hod := e.2.hod.filter fun h => recCtx h.w0 ≠ ctx
      held := e.2.held.filter fun r => r.ctx ≠ ctx
      rewrites := e.2.rewrites.filter fun r => r.ctx ≠ ctx
      takeBusy := e.2.takeBusy.filter fun x => recCtx x.2.w0 ≠ ctx }) }

/-- A core without what it holds of a context (R272, R373). -/
def Core.forget (x : Core) (ctx : Nat) : Core :=
  { x with
    hod := x.hod.filter fun e => recCtx e.w0 ≠ ctx
    hodcap := dropKey ctx x.hodcap
    held := x.held.filter fun r => r.ctx ≠ ctx
    nodeStacks := dropKey ctx x.nodeStacks
    wants := x.wants.filter fun w => w ≠ ctx
    popped := x.popped.filter fun w => w.2.1 ≠ ctx
    giveBack := dropKey ctx x.giveBack
    cache := x.cache.filter fun e => e.1 ≠ ctx
    rewrites := x.rewrites.filter fun r => r.ctx ≠ ctx
    tables := x.tables.filter fun t => t.ctx ≠ ctx
    handles := x.handles.filter fun h => h.ctx ≠ ctx
    partitions := x.partitions.filter fun p => p.ctx ≠ ctx
    evicted := x.evicted.filter fun e => e.1 ≠ ctx
    takeBusy := x.takeBusy.filter fun e => recCtx e.2.w0 ≠ ctx }

/-- A die without what it holds of a context. -/
def Die.forget (x : Die) (ctx : Nat) : Die :=
  let ws := x.walks.filter fun w => w.1 ≠ ctx
  let q := x.walkQueue.filter fun w => w.1 ≠ ctx
  { x with
    lastSpill := dropKey ctx x.lastSpill
    adverts := x.adverts.filter fun a => a.2.1 ≠ ctx
    courses := x.courses.filter fun c => c.1 ≠ ctx
    walks := ws ++ q.take (walkLimit - ws.length)
    walkQueue := q.drop (walkLimit - ws.length)
    keystones := x.keystones.filter fun k => k.ctx ≠ ctx
    expected := x.expected.filter fun e => e.1 ≠ ctx }

/-- Whether a reduction message is of a context. -/
def RedMsg.ofCtx (ctx : Nat) : RedMsg → Bool
  | .contribution c _ _ _ _ _ _ _ => c = ctx
  | .keystone c _ _ _ _ _ _ _ => c = ctx

/-- The state without what is left of a context: its engine operations, its reductions, its launches, and all that cores and
dies hold of it; word 0 of its record is 0 (R373). -/
def State.forgetCtx (s : State) (ctx : Nat) : State :=
  let gone := (s.ops.filter fun o => o.ctx = ctx).map (·.owner)
  { s with
    ops := s.ops.filter fun o => o.ctx ≠ ctx
    accs := s.accs.filter fun a => !gone.contains a.1
    cores := s.cores.map fun e => (e.1, e.2.forget ctx)
    dies := s.dies.map fun e => (e.1, e.2.forget ctx)
    redMsgs := s.redMsgs.filter fun m => !m.ofCtx ctx
    groups := s.groups.filter fun g => g.ctx ≠ ctx
    launches := s.launches.filter fun l => l.ctx ≠ ctx
    saving := s.saving.filter fun v => v.ctx ≠ ctx
    logged := s.logged.filter fun x => match x with
      | .req r => r.ctx ≠ ctx
      | .record _ _ n _ _ => n ≠ ctx
    ctxs := s.ctxs.filter fun c => c.n ≠ ctx
    bar0 := { s.bar0 with
      records := s.bar0.records.filter fun e => !(e.1 = ctx && e.2.1 = 0)
      destroying := false } }

/-- Whether a round that a member has taken can still complete: every member has taken it, and what other packages add is in (R314,
R331, R337). -/
def State.roundRuns (s : State) (ctx g : Nat) (round : BitVec 32) : Bool :=
  match s.group ctx g with
  | none => false
  | some gr =>
    (gr.members.all fun m => s.up (memberDie m) && (s.expectedRound (memberDie m) ctx g).any fun n => decide (0 < serial n round)) &&
    (gr.span = 1 || (s.die gr.root).keystones.any fun k => k.isOf ctx g round &&
      (k.result.isSome || (gr.package = gr.global && gr.span ≤ (k.packages.filter (· ≠ gr.package)).length + 1)))

/-- Whether an operation of a destroyed context can itself still complete. A `reds` whose round another member, or another package,
has still to join, a product on a handle that no lap is known for, a drain's wake, and an operation whose access stands in an
inbound log end with the context, which is all that could answer them (R158, R272, R314, R373; log 35). -/
def State.opAlive (s : State) (o : TileOp) : Bool :=
  (match o.op, o.phase with
    | 24, .queued => true
    | 24, _ => s.roundRuns o.ctx o.group.toNat o.round
    | 3, .queued =>
      let h := (s.core o.place.die o.place.core).handleFor o.ctx o.fc o.uid
      h.state != .waiting || h.resolved
    | _, p => [.queued, .reading, .read, .writing].contains p) &&
  !(s.logged.any fun x => match x with
    | .req r => r.owner = o.uid && (match r.body with | .packet _ _ _ => false | _ => true)
    | _ => false)

/-- Whether an operation of a destroyed context still runs to its completion: it can, and so can those before it in its queue (R294,
R373). -/
def State.opRuns (s : State) (o : TileOp) : Bool :=
  s.opAlive o && s.ops.all fun x => !(x.owner = o.owner && x.queue = o.queue && o.queue ≠ 2 && x.seq < o.seq) || s.opAlive x

/-- The state after a context's threads, packets, records and launches are gone, those that stood where this counts them counted
once (R173, R181, R182, R242, R245, R327, R373). -/
def State.loseWork (s : State) (ctx : Nat) : State :=
  let s1 := (((s.stopAway ctx).dropPackets ctx).stopThreads ctx).dropRecords ctx
  { s1 with
    launches := s1.launches.filter fun l => l.ctx ≠ ctx
    saving := s1.saving.filter fun v => v.ctx ≠ ctx
    bar0 := { s1.bar0 with destroying := true } }

/-- DESTROY: the context's work is gone; once its engine operations have completed, all that is left of it goes too, and the
homes act on notices that a flag of its dies deferred (R187, R373). -/
def execDestroy (ctx : Nat) (s : State) : Host.Outcome State Fault Refusal :=
  if !s.running 2 ctx then .next s
  else if (s.ctxInfo? ctx).isNone then .next (s.finishCmd 2 5)
  else
    let s1 := s.loseWork ctx
    if s1.ops.any fun o => o.ctx = ctx && s1.opRuns o then .next s1
    else .next (((s1.unmapStamps ctx).forgetCtx ctx).finishCmd 2 0).applyAllDeferred

end Sys2Proof.Machine
end

