-- ==== Sys2Proof/Machine/Commands.lean ====
section
/-! DEFINITION. The commands on ring programs and reduction groups, and unknown codes (R257, R261, R330, R372, R373). -/

namespace Sys2Proof.Machine

/-- RINGLOAD (R259, R260, R373). -/
def execRingload (ctx : Nat) (s : State) : Host.Outcome State Fault Refusal :=
  if !s.running 8 ctx then .next s
  else
    let a := (s.arg 0).toNat
    match if tableOk a 1 then s.acceptProgram a else none with
    | none => .next (s.finishCmd 8 3)
    | some g => .next ({ s with ring := { s.ring with standby := some g } }.finishCmd 8 0)

/-- The lap that a RINGSWITCH names (R373). -/
def State.switchLap (s : State) : BitVec 32 := if (s.arg 0).getLsbD 32 then s.ring.lap + 1 else bits (s.arg 0) 0 32

/-- The state after the standby program starts while none runs: its first lap's origin is the next cycle, and firmware bypasses the
failed dies at that lap (R257, R261, R364, R373). -/
def State.startRing (s : State) (g : RingProgram) (lap : BitVec 32) : State :=
  let s1 := s.bypass s.newBypass lap
  let pin := if s.bar0.grade.getLsbD 2 then (bits s.bar0.grade 0 2).toNat else s.ring.grade.toNat
  let r : Ring := { s.ring with
    running := some g, standby := none, lap := lap, origin := s.cycle + 1, grade := BitVec.ofNat 2 (g.startGrade pin), past := [] }
  { s1 with ring := r }.reresolve lap s.cycle

/-- RINGSWITCH: a switch is pinned to a lap fresher than the current one, and is busy until that boundary; while no program
runs the standby program starts at once, but where two ring-adjacent dies would be bypassed firmware stops the ring instead (R261, R364,
R373; log 29). -/
def execRingswitch (ctx : Nat) (s : State) : Host.Outcome State Fault Refusal :=
  if !s.running 9 ctx || s.ring.switchAt.isSome then .next s
  else match s.ring.standby with
  | none => .next (s.finishCmd 9 2)
  | some g =>
    let lap := s.switchLap
    if s.ring.stopped then .next (s.finishCmd 9 2)
    else if s.ring.running.isNone then
      .next (if s.adjacentBypass s.newBypass then s.stopRing.finishCmd 9 2 else (s.startRing g lap).finishCmd 9 0)
    else if serial lap s.ring.lap ≤ 0 then .next (s.finishCmd 9 2)
    else .next { s with ring := { s.ring with switchAt := some lap } }

/-- GROUPLOAD (R330, R331, R334, R373). -/
def execGroupload (ctx : Nat) (s : State) : Host.Outcome State Fault Refusal :=
  if !s.running 10 ctx then .next s
  else
    let g := (s.arg 0).toNat
    let a := (s.arg 1).toNat
    if (s.ctxInfo? ctx).isNone then .next (s.finishCmd 10 5)
    else if 63 < g then .next (s.finishCmd 10 2)
    else
      let gr := s.readGroup ctx g a
      if tableOk a 1 && s.groupOk a gr (s.roundsOpen ctx gr.g) then .next ((s.installGroup gr).finishCmd 10 0) else .next (s.finishCmd 10 3)

/-- A command whose code is not assigned (R372, R373). -/
def execUnknownCommand (code : BitVec 8) (ctx : Nat) (s : State) : Host.Outcome State Fault Refusal :=
  if s.running code.toNat ctx && (code = 0 || 10 < code.toNat) then .next (s.finishCmd code 1) else .next s

end Sys2Proof.Machine
end

