-- ==== Sys2Proof/Machine/Migration.lean ====
section
/-! DEFINITION. Migration: `mig`, the packet on its way, its placement and acceptance (R323 to R327). -/

namespace Sys2Proof.Machine

/-- The lamp neighbour of a die with the lowest index (R326). -/
def lampBeside (d : Nat) : Option Nat :=
  match ((neighbours d).filter isLamp) with
  | [] => none
  | n :: r => some (r.foldl min n)

/-- The target of `mig`: a scratchpad's core, or this thread's core on the lamp die beside a plinth home (R326). -/
def migTarget (p : Place) (pa : Nat) : Option (Nat × Nat) :=
  if paSpace pa = 1 then some (paHome pa, paCore pa)
  else if paSpace pa = 0 then (lampBeside (paHome pa)).map fun d => (d, p.core)
  else none

/-- `mig` (R326). -/
def execMig (s1 : BitVec 5) (s : State) : Host.Outcome State Fault Refusal :=
  s.word fun i t =>
    let a := t.readS s1
    match s.check i.place.die t.ctx .load a 1 with
    | .fail c => s.precise i t c a
    | .ok pa _ =>
      match migTarget i.place pa with
      | none => s.precise i t causeProt a
      | some (d, c) =>
        if d = i.place.die && c = i.place.core then s
        else
          let r := t.sys.loopBack i.pc
          s.startMigration i t d c r.2 r.1.lc0 r.1.lc1

/-- Whether everything a migrating thread has begun is done: its open operations, its accesses, its engine operations
(R44, R323). -/
def State.migrationReady (s : State) (t : Thread) : Bool :=
  (t.tags.all fun g => g.done) && (s.outs.all fun o => o.owner ≠ t.uid) && !s.unperformed t.uid s.nextId && (s.opsOf t.uid).isEmpty

/-- The thread as its packet carries it: the vectors VLIVE names, and its former ids (R185, R324). -/
def Thread.packed (t : Thread) (m : Migration) (wid : BitVec 24) : Thread :=
  { t with
    pc := m.resume
    sys := { t.sys with lc0 := m.lc0, lc1 := m.lc1 }
    reissue := if m.resume == t.pc && t.image.isEmpty then some t.pc else none
    v := Vector.ofFn fun k => if t.sys.vlive.getLsbD k.val then t.v[k] else 0
    hold := .none
    migration := none
    preempt := none
    firstWord := t.firstWord && m.resume == t.pc
    former := (t.formerAfter wid).1
    stampedNow := false
    stampedAny := t.stampedAny || t.stampedNow }

/-- The state after a thread's packet is put to its send list (R323, R324). -/
def State.sendPacket (s : State) (p : Place) (t : Thread) (m : Migration) : State :=
  let n := s.nextId
  let r : Req := { req := n, owner := t.uid, wid := s.widAt p, ctx := t.ctx, src := p.die, srcCore := p.core, dest := m.die,
                   core := some m.core, engine := false, retries := 0, notBefore := none, ordered := false, hops := 0,
                   body := .packet m.core p (t.packed m (s.widAt p)) }
  { s with nextId := n + 1, sends := s.sends ++ [r] }.setThread p { t with migration := some { m with phase := .sent } }

/-- MIGRATION_PACK: once all it has begun is done, the thread is packed and sent (R323). -/
def execMigrationPack (p : Place) (s : State) : Host.Outcome State Fault Refusal :=
  match s.thread? p with
  | none => .next s
  | some t =>
    match t.migration with
    | none => .next s
    | some m =>
      if m.phase != .waiting || !s.migrationReady t then .next s
      else .next (((s.modStatus p.die t.ctx fun c => { c with sent := c.sent + 1 }).noteWork t.ctx).sendPacket p t m)

/-- MIGRATION_RESEND: a refused packet is sent again 512 cycles later (R323). -/
def execMigrationResend (p : Place) (s : State) : Host.Outcome State Fault Refusal :=
  match s.thread? p with
  | none => .next s
  | some t =>
    match t.migration with
    | none => .next s
    | some m => match m.phase with
      | .refused c => .next (if c + 512 ≤ s.cycle then s.sendPacket p t m else s)
      | _ => .next s

/-- The state after a migrated thread is placed in a slot: it runs under the slot's writer id, and the packet's own figures set
LAT and HOPS, a packet of the same die too (R321, R323). -/
def State.placeThread (s : State) (p : Place) (lat hops : Nat) (t : Thread) : State :=
  ((s.setThread p t).setFigures p lat hops).modStatus p.die t.ctx fun c => { c with placed := c.placed + 1 }

/-- The state after a thread is lost in a packet or in a failed die's buffer: a stop notice for the ids it stored under is due,
and its context is faulted (R185, R320). -/
def State.losePacket (s : State) (die : Nat) (t : Thread) : State :=
  let s1 : State := if t.former.isEmpty then s else { s with stopped := s.stopped ++ [Stopped.mk t.uid t.former t.ctx die] }
  s1.setFaulted t.ctx

/-- A packet refused; with its source failed meanwhile its thread is lost (R320, R323). -/
def State.refusePacket (s : State) (r : Req) (t : Thread) : State :=
  if s.up r.src then s.answer r .packetNo else s.losePacket r.src t

/-- MIGRATION_PACKET: the packet at the head of a die's arrival queue is placed in a free slot of its context, or buffered,
or refused; one for an evicted context waits for its log (R323, R327). -/
def execMigrationPacket (e : Nat) (s : State) : Host.Outcome State Fault Refusal :=
  match s.arrival e with
  | none => .next s
  | some r => match r.body with
    | .packet core _ t =>
      let s1 := s.popArrival e
      if s.evictedAt r then .next s
      else if !(s.core e core).resident t.ctx then .next (s1.refusePacket r t)
      else match (if (s.die e).halt then none else s.freeFor e core t.ctx) with
        | some p => .next ((s1.placeThread p r.lat r.hops t).answer r .packetOk)
        | none =>
          if (s.die e).buffer.length < 16 then
            .next ((s1.modDie e fun d => { d with buffer := d.buffer ++ [⟨core, r.src, r.hops, r.lat, t⟩] }).answer r .packetOk)
          else .next (s1.refusePacket r t)
    | _ => .next s

/-- MIGRATION_ACCEPT: the acceptance reaches the source, whose slot is freed (R185, R323). A stop notice of the migrated thread that
has reached this die before it finds no mark to clear, and the mark set here then stays: the spec is silent, the model's choice
(log 84). -/
def execMigrationAccept (e : Nat) (d : Nat) (s : State) : Host.Outcome State Fault Refusal :=
  match s.respHead e d with
  | none => .next s
  | some r =>
    if r.body ≠ .packetOk then .next s
    else
      let s1 := s.popResp e d
      match s1.slots.find? fun x => match x.2.thread with
          | some t => t.uid = r.owner && t.away
          | none => false with
      | some (p, x) => match x.thread with
        | some t => .next ((s1.dropId t.uid t.ctx p.die (t.formerAfter (s1.widAt p)).2).leaveAlive p t)
        | none => .next s1
      | none => .next s1

/-- BUFFERED_PACKET_PLACE: a buffered packet, the first for its core and context, is placed once a slot of its context
frees, after the die's release (R27, R323, R327). -/
def execBufferedPacketPlace (die : Nat) (n : Nat) (s : State) : Host.Outcome State Fault Refusal :=
  match (s.die die).buffer[n]? with
  | none => .next s
  | some b =>
    let earlier := ((s.die die).buffer.take n).any fun x => x.core = b.core && x.t.ctx = b.t.ctx
    let free := ((List.range 16).map fun k => Place.mk die b.core k).find? fun p =>
      (s.slot p).owner == some b.t.ctx && s.slotFree p && !(s.launches.any fun l => l.place = p)
    if earlier || (s.die die).halt then .next s
    else match free with
    | none => .next s
    | some p => .next ((s.modDie die fun d => { d with buffer := d.buffer.eraseIdx n }).placeThread p b.lat b.hops b.t)

end Sys2Proof.Machine
end

