-- ==== Sys2Proof/Machine/Fabric.lean ====
section
/-! DEFINITION. Route changes and failed dies (R46, R182, R317 to R320, R341). -/

namespace Sys2Proof.Machine

/-! ### Routes (R317 to R320) -/

/-- The port by which one die leads to a neighbour. -/
def portTo (d n : Nat) : Nat := ((List.range 5).find? fun p => neighbour d p = some n).getD 0

/-- Whether the turn from one hop's port to the next one's is permitted (R318). -/
def turnOk (p q : Nat) : Bool :=
  match p, q with
  | 1, 1 | 1, 3 | 1, 4 | 2, 2 | 2, 3 | 2, 4 | 3, 1 | 3, 2 | 3, 3 | 4, 4 => true
  | _, _ => false

/-- Whether every turn of a list of hops is permitted. -/
def turnsOk : List Nat → Bool
  | p :: q :: r => turnOk p q && turnsOk (q :: r)
  | _ => true

/-- The ports of the hops of a list of dies. -/
def hopPorts : List Nat → List Nat
  | d :: n :: r => portTo d n :: hopPorts (n :: r)
  | _ => []

/-- Whether the route of a pair reaches its end, visits no die twice, crosses no die out of service, and turns only as
permitted (R319). -/
def State.routeOk (s : State) (d e : Nat) : Bool :=
  let path := d :: s.routeFrom d e Config.dies
  path.getLast? == some e && path.Nodup && (path.all s.up) && turnsOk (hopPorts path)

/-- The state with a set of routing tables in force: the entries not named are 0 (R317). -/
def State.withRoutes (s : State) (tables : List (Nat × Nat × Nat)) : State :=
  (List.range Config.dies).foldl (fun (x : State) d =>
    let rs := (tables.filter fun t => t.1 = d && t.2.2 ≠ 0).map fun t => (t.2.1, t.2.2)
    if rs.isEmpty && (x.die d).routes.isEmpty then x else x.modDie d fun y => { y with routes := rs }) s

/-- Firmware's checks of a set of routing tables (R319). -/
def State.routesOk (s : State) (tables : List (Nat × Nat × Nat)) : Bool :=
  let t := s.withRoutes tables
  let dies := (List.range Config.dies).filter s.up
  (tables.all fun e => !(e.1 = e.2.1 && e.2.2 ≠ 0) && e.2.2 ≤ 4) && dies.all fun d => dies.all fun e => d = e || t.routeOk d e

/-- Whether messages of any class are on their way between a pair whose route a set of tables changes. An answer or a reduction
message held behind a die out of service has not been sent; one that had passed the die is on its way (R320). -/
def State.routesBusy (s : State) (tables : List (Nat × Nat × Nat)) : Bool :=
  let t := s.withRoutes tables
  let changes (d e : Nat) : Bool := s.routeFrom d e Config.dies ≠ t.routeFrom d e Config.dies
  (s.chans.any fun r => changes r.src r.dest) ||
  (s.resps.any fun r => (r.passed || s.routeClear r.src r.dest) && changes r.src r.dest) ||
  s.redMsgs.any fun m => (m.beyond || s.routeClear m.pair.1 m.pair.2) && changes m.pair.1 m.pair.2

/-- ROUTE_CHANGE: once the channels of the pairs it changes are empty, a set of tables that passes firmware's checks is
loaded; any other is refused whole (R319, R320). -/
def execRouteChange (tables : List (Nat × Nat × Nat)) (s : State) : Host.Outcome State Fault Refusal :=
  if s.routesOk tables && !s.routesBusy tables then .next (s.withRoutes tables) else .next s

/-! ### Failed dies (R320) -/

/-- The state after a late MCHECK for a lost store: with its thread, or in the block of one saved or in a PREEMPT handler, or
told to management when its issuer is gone (R320, R346, R350). -/
def State.lateMcheck (s : State) (owner ctx : Nat) (va : Word) : State :=
  match s.blockOf owner with
  | some v =>
    if s.blockRead v 0x6F0 = 0 then (s.blockWrite v 0x6F0 (zx causeMcheck)).blockWrite v 0x6F8 va else s.tell (.lostStore ctx va)
  | none =>
    match s.findThread owner with
    | some (p, t) => s.setThread p { t with lateFaults := t.lateFaults ++ [(zx causeMcheck, va, false)] }
    | none => s.tell (.lostStore ctx va)

/-- The state after a lost access ends in MCHECK: a load, an atomic or a stamped load at its word, a store late (R46, R320). -/
def State.loseAccess (s : State) (o : Out) : State :=
  let s1 : State := { s with outs := dropFirst (fun x => x == o) s.outs }
  let posted := match o.cls with
    | .store | .stamped | .remoteStore => true
    | _ => false
  if posted then s1.lateMcheck o.owner o.ctx o.vaddr
  else match s1.findThread o.owner with
    | some (p, _) => s1.modTag p o.req fun g => g.trap 0 causeMcheck o.vaddr
    | none => if (s1.blockOf o.owner).isSome then s1.lateMcheck o.owner o.ctx o.vaddr else s1

/-- The state after an access of an issuer is found lost: of a thread, by what is outstanding; an engine operation ends in MCHECK
(R308, R320). -/
def State.loseOf (s : State) (owner req dest : Nat) (va : Word) : State :=
  match s.ops.find? fun o => o.uid = owner with
  | some o => s.opFault o (zx causeMcheck) va
  | none =>
    let mine (o : Out) : Bool := o.owner = owner && o.req = req && o.dest = dest
    match (s.outs.find? fun o => mine o && o.vaddr = va).or (s.outs.find? mine) with
    | some o => s.loseAccess o
    | none => s

/-- The state after a member's result store or its acknowledgement is lost: its `reds` ends in MCHECK, and the root waits for it
no longer (R308, R314, R320; log 79). -/
def State.loseResult (s : State) (ctx g md : Nat) (round : BitVec 32) (va : Word) : State :=
  let s1 := match s.ops.find? fun o => o.isReds ctx g && o.place.die = md && o.round == round && o.phase == .sent with
    | some o => s.opFault o (zx causeMcheck) va
    | none => s
  s1.unawait (fun k => k.isOf ctx g round) md

/-- The state after a request is found lost; a migrating thread is held at its source as after a refusal (R320, R323). -/
def State.loseRequest (s : State) (r : Req) : State :=
  match r.body with
  | .packet _ _ _ => s.packetRefused r.owner
  | .result ctx g m va _ n _ _ => s.loseResult ctx g m n va
  | _ => s.loseOf r.owner r.req r.dest r.body.vaddr

/-- The state after an answer is found lost (R320). -/
def State.loseAnswer (s : State) (r : Resp) : State :=
  match r.body with
  | .packetOk | .packetNo => s
  | .result ctx g n _ _ => s.loseResult ctx g r.dest n r.vaddr
  | _ => s.loseOf r.owner r.req r.src r.vaddr

/-- The state after a thread on a failed die is lost: its stop notice is due and its context is faulted (R182, R320). -/
def State.loseThread (s : State) (p : Place) (t : Thread) : State := (s.stopThread p t).setFaulted t.ctx

/-- The contexts with records on a die: in its cores, on their way to them, or on their way to its partitions. -/
def State.recordCtxs (s : State) (die : Nat) : List Nat :=
  (s.cores.flatMap fun e => if e.1.1 = die then e.2.hod.map (fun h => recCtx h.w0) ++ e.2.held.map (·.ctx) else []) ++
  (s.fresh.filter fun r => r.die = die).map (·.ctx) ++ (s.spilling.filter fun r => r.die = die).map (·.ctx) ++
  (s.batches.filter fun b => b.1 = die).map (·.2.1)

/-- The state after a failed die's records are lost: their contexts are faulted (R320). -/
def State.loseRecords (s : State) (die : Nat) : State :=
  let cs := (s.recordCtxs die).dedup
  let s1 : State := { s with
    fresh := s.fresh.filter fun r => r.die ≠ die
    spilling := s.spilling.filter fun r => r.die ≠ die
    batches := s.batches.filter fun b => b.1 ≠ die }
  cs.foldl (fun (x : State) c => (x.setFaulted c).tell (.recordsLost c die)) s1

/-- Whether the copy of a thread in its packet is on its way, in a die's buffer or placed: it lives though its source fails. -/
def State.packetLives (s : State) (uid : Nat) : Bool :=
  let moving (r : Req) : Bool := r.owner = uid && (match r.body with | .packet _ _ _ => true | _ => false)
  s.chans.any moving || s.arrivals.any moving || (s.logged.any fun x => match x with | .req r => moving r | _ => false) ||
  (s.dies.any fun e => e.2.buffer.any fun b => b.t.uid = uid) || (s.findThread uid).isSome

/-- The state after the threads of a failed lamp die are lost, those in its migration buffer too; one whose packet has left
lives on (R320, R323). -/
def State.loseThreads (s : State) (die : Nat) : State :=
  let ts := s.slots.filterMap fun e => if e.1.die = die then e.2.thread.map fun t => (e.1, t) else none
  let s1 := (s.die die).buffer.foldl (fun (x : State) b => x.losePacket die b.t) (s.modDie die fun d => { d with buffer := [] })
  ts.foldl (fun (x : State) t => if t.2.away && x.packetLives t.2.uid then x.freeSlot t.1 else x.loseThread t.1 t.2) s1

/-- A thread that no longer waits for a failed die's answer to its `rulew` or `crset`. -/
def Thread.excuse (t : Thread) (die : Nat) : Thread :=
  match t.hold with
  | .rulew i ds => { t with hold := .rulew i (ds.filter (· ≠ die)) }
  | .crset e ds => { t with hold := .crset e (ds.filter (· ≠ die)) }
  | _ => t

/-- Whether message `k` in flight of a pair is lost with a failed die: it ends there, or its route passes the die and it had not
left it (R320; log 79). -/
def State.lostThere (s : State) (die k : Nat) (x : Nat × Nat) : Bool :=
  x.2 = die || ((x.1 :: s.routeFrom x.1 x.2 Config.dies).contains die && !Config.passed (s.freeCtr + k))

/-- The messages of a list that are lost, and those that are not; the first is message `k`. -/
def State.sortLost (s : State) (die : Nat) {α : Type} (pair : α → Nat × Nat) (k : Nat) : List α → List α × List α
  | [] => ([], [])
  | m :: r =>
    let x := s.sortLost die pair (k + 1) r
    if s.lostThere die k (pair m) then (m :: x.1, x.2) else (x.1, m :: x.2)

/-- What a failed die held or its links carried: the requests and the answers lost, and the state without them, those that had
passed the die being marked. -/
def State.loseMessages (s : State) (die : Nat) : List Req × List Resp × State :=
  let own (r : Req) : Bool := r.src = die || r.dest = die
  let cs := s.sortLost die (fun r : Req => (r.src, r.dest)) 0 s.chans
  let n := s.chans.length
  let rs := s.sortLost die (fun r : Resp => (r.src, r.dest)) n s.resps
  let ms := s.sortLost die RedMsg.pair (n + s.resps.length) s.redMsgs
  let there (r : Req) : Bool := r.dest = die
  let kept := s.logged.filterMap fun x => match x with
    | .req r => if there r then some r else none
    | _ => none
  (s.sends.filter own ++ cs.1 ++ s.arrivals.filter there ++ kept, rs.1,
    let through (x : Nat × Nat) : Bool := (x.1 :: s.routeFrom x.1 x.2 Config.dies).contains die
    { s with
      sends := s.sends.filter fun r => !own r
      chans := cs.2
      arrivals := s.arrivals.filter fun r => !there r
      logged := s.logged.filter fun x => match x with
        | .req r => !there r
        | .record d _ _ _ _ => d ≠ die
      resps := rs.2.map fun r => if through (r.src, r.dest) then { r with passed := true } else r
      redMsgs := ms.2.map fun m => if through m.pair then m.marked else m
      freeCtr := s.freeCtr + n + s.resps.length + s.redMsgs.length })

/-- The state without what a failed die held but for its messages: its threads' operations, and its cores' and keystones' work. -/
def State.clearDie (s : State) (die : Nat) : State :=
  { s with
    ops := s.ops.filter fun o => o.place.die ≠ die
    slots := s.slots.map fun e => (e.1, { e.2 with thread := e.2.thread.map fun t => t.excuse die })
    cores := s.cores.map fun e => if e.1.1 = die then
      (e.1, { e.2 with
        hod := [], held := [], rewrites := [], handles := [], takeBusy := none, wants := [], popped := [], giveBack := [] })
      else e
    dies := s.dies.map fun e => if e.1 = die then (e.1, { e.2 with monitor := [], keystones := [] })
      else (e.1, { e.2 with adverts := e.2.adverts.filter fun a => a.1 ≠ die }) }

/-- The parties whose Meet waits at a die. -/
def State.meetsAt (s : State) (die : Nat) : List (Party × Word) :=
  s.parties.filterMap fun p => p.waits.bind fun r => match s.check p.die p.ctx .nodeStore (refAddr r) 8 with
    | .ok pa _ => if paHome pa = die then some (p, refAddr r) else none
    | .fail _ => none

/-- DIE_FAILURE: the die is out of service; its threads and records are lost, and every access lost there is completed; run
again, it completes the accesses that were sent to the die since. Homes act on the stop notices they deferred for it alone
(R187, R320). -/
def execDieFailure (die : Nat) (s : State) : Host.Outcome State Fault Refusal :=
  if Config.dies ≤ die then .next s
  else
    let s0 := s.modDie die fun d => { d with outOfService := true, halt := false }
    let m := s0.loseMessages die
    let s1 := ((m.2.2.loseThreads die).loseRecords die).clearDie die
    let s2 := m.2.1.foldl State.loseAnswer (m.1.foldl State.loseRequest s1)
    let s3 := (s2.outs.filter fun o => o.dest = die).foldl State.loseAccess s2
    let s4 := (s3.meetsAt die).foldl (fun (x : State) p => x.linkLost p.1 p.2) s3
    .next (s4.unawait (fun _ => true) die).applyAllDeferred

end Sys2Proof.Machine
end

