-- ==== Sys2Proof/Machine/Nets.lean ====
section
/-! DEFINITION. The net words as a thread issues them, and the rule invalidation (R226 to R233). -/

namespace Sys2Proof.Machine

/-- `link`: the references and the addresses they name are checked, and the thread is held until the link is complete; it
then goes on (R226, R227). -/
def execLink (s1 s2 : BitVec 5) (s : State) : Host.Outcome State Fault Refusal :=
  s.word fun i t =>
    let p := t.readS s1
    let q := t.readS s2
    if !refOk p || !refOk q then s.precise i t causeLink t.nodeA
    else match s.checkElems i.place.die t.ctx .nodeStore 8 [(0, refAddr p), (1, refAddr q)] with
    | .error (c, va) => s.precise i t c va
    | .ok _ =>
      if 16 ≤ (s.core i.place.die i.place.core).heldCount t.ctx then s.precise i t causeHodFull p
      else (s.setThread i.place
        { t with hold := .link, link := some { p, q, x := 0, phase := .check, held := 0, hops := 0, writes := [] } }).stay

/-- `alloc`: nodes popped from the core's free stack. A pop that finds it empty asks for a batch, and the word waits, keeping what it
has popped; it waits too while a node's zeroing is on its way. Where the quarry has no more, what it has received stays on the
stack (R216, R217, R228). -/
def execAlloc (sd : BitVec 5) (la : BitVec 4) (n : BitVec 21) (s : State) : Host.Outcome State Fault Refusal :=
  s.word fun i t =>
    let d := i.place.die
    let c := i.place.core
    let k := n.toNat
    let t0 := { t with hold := .none }
    let s0 := s.regain d c t.ctx
    match s0.popNodes d c t.ctx t.uid k with
    | none =>
      if t.hold == .quarry true && !s.quarryLeft t.ctx then (s0.unpop d c t.ctx t.uid).precise i t0 causeQuarry (w64 k)
      else (s0.wantNodes d c t.ctx t.uid).wait i t (.quarry false)
    | some (ns, s1) =>
      if ns.any fun a => s.zeroing d t.ctx a then s.wait i t (.quarry true)
      else
        let g := { openTag i s.nextId la.toNat with
          sds := (List.range k).map fun j => sd + BitVec.ofNat 5 j, u := ns, state := .ready }
        { s1 with nextId := s.nextId + 1 }.setThread i.place (t0.addTag g)

/-- The state with the requests of one word of a thread marked as the zeroing of a node (R203). -/
def State.markZeroing (s : State) (uid n : Nat) : State :=
  { s with sends := s.sends.map fun r => if r.owner = uid && r.req = n then { r with zeroes := true } else r }

/-- `free`: the node goes on the core's free stack, and its zeroing is posted, ahead of every later access to the node from
this die (R203, R229). -/
def execFree (s1 : BitVec 5) (s : State) : Host.Outcome State Fault Refusal :=
  s.word fun i t =>
    let a := t.readS s1
    match s.check i.place.die t.ctx .nodeStore a 32 with
    | .fail c => s.precise i t c a
    | .ok _ _ =>
      let s1 := (s.plainStore i t .nodeStore 32 [(0, a)] fun _ => 0).markZeroing t.uid s.nextId
      (s1.regain i.place.die i.place.core t.ctx).pushNode i.place.die i.place.core t.ctx a

/-- `push`: the record of two nodes is formed, to be sent once the thread's earlier accesses are performed (R230, R241). -/
def execPush (s1 s2 : BitVec 5) (s : State) : Host.Outcome State Fault Refusal :=
  s.word fun i t =>
    let a := t.readS s1
    let b := t.readS s2
    match s.checkElems i.place.die t.ctx .nodeName 32 [(0, a), (1, b)] with
    | .error (c, va) => s.precise i t c va
    | .ok _ =>
      if s.hodFull i.place.die i.place.core t.ctx then s.precise i t causeHodFull a
      else s.createRecord .push t.uid t.ctx i.place.die i.place.core a b

/-- `end`: the thread leaves its slot; a PREEMPT handler is switched out (R231, R350). -/
def execEndThread (s : State) : Host.Outcome State Fault Refusal :=
  s.word fun i t => (if t.priv then s.switchOut i.place t else s.stopThread i.place t).stay

/-- The address of `nld` and `nst` (R232). -/
def Thread.nodeAddr (t : Thread) (sa : BitVec 5) (off : BitVec 21) : Word := t.readS sa + sx off

/-- `nld` (R232). -/
def execNld (s1 sd : BitVec 5) (la : BitVec 4) (off : BitVec 21) (s : State) : Host.Outcome State Fault Refusal :=
  s.word fun i t =>
    s.plainLoad i t .nodeLoad 8 [(0, t.nodeAddr s1 off)] fun n => { openTag i n la.toNat with sds := [sd], u := [0] }

/-- `nst` (R232). -/
def execNst (s1 s2 : BitVec 5) (off : BitVec 21) (s : State) : Host.Outcome State Fault Refusal :=
  s.word fun i t => s.plainStore i t .nodeStore 8 [(0, t.nodeAddr s1 off)] fun _ => (t.readS s2).toNat

/-- Whether a rule entry may be written (R233). -/
def ruleOk (e : Word) : Bool :=
  bits e 48 16 == 0 && (bits e 0 4).toNat ≤ 5 && !(bits e 0 4 == 4 && bits e 8 40 == 0)

/-- `rulew`: the entry is written at the table's home, as one step, once the thread's earlier accesses to it are performed,
and the thread is held until every lamp die has answered (R226, R233). -/
def execRulew (s1 s2 : BitVec 5) (s : State) : Host.Outcome State Fault Refusal :=
  s.word fun i t =>
    let k := (t.readS s1).toNat
    let e := t.readS s2
    if 0xFFFF < k || !ruleOk e then s.precise i t causeIllegal i.word
    else
      let pa := (s.record t.ctx 2).toNat + 8 * k
      if !s.mayStep i.place.die t.ctx (some t.uid) pa then s.wait i t (.drain (paHome pa))
      else (s.stepWrite pa e).setThread i.place { t with hold := .rulew k s.inService }

/-- RULE_INVALIDATE: a lamp die drops the entry of a `rulew` that waits for it from its cores' caches, and answers
(R233). -/
def execRuleInvalidate (die : Nat) (s : State) : Host.Outcome State Fault Refusal :=
  match s.slots.findSome? fun x => x.2.thread.bind fun t => match t.hold with
      | .rulew k dies => if dies.contains die then some (x.1, t, k, dies) else none
      | _ => none with
  | none => .next s
  | some (p, t, k, dies) =>
    let s1 := s.setThread p { t with hold := .rulew k (dies.filter (· ≠ die)) }
    .next { s1 with cores := s1.cores.map fun e =>
      if e.1.1 = die then (e.1, { e.2 with cache := e.2.cache.filter fun c => !(c.1 = t.ctx && c.2.1 = k) }) else e }

end Sys2Proof.Machine
end

