-- ==== Sys2Proof/Machine/ScaleOut.lean ====
section
/-! DEFINITION. The root's rounding and the Soloskic transport between packages (R288, R314, R335 to R337). -/

namespace Sys2Proof.Machine

/-! ### Frames (R335, R336) -/

/-- A scale-out port; one not listed has sent and received nothing (R335). -/
def State.port (s : State) (n : Nat) : Port := (s.ports.find? fun p => p.n = n).getD { n }

/-- The state with a port replaced. -/
def State.setPort (s : State) (p : Port) : State :=
  { s with ports := if s.ports.any fun q => q.n = p.n then modFirst (fun q => q.n = p.n) (fun _ => p) s.ports
    else s.ports ++ [p] }

/-- The highest sequence number a port has received in order from a peer; 0 before the first (R336). -/
def Port.seenFrom (p : Port) (peer : Nat) : BitVec 32 := lookupD 0 peer p.seen

/-- The next sequence number a port sends to a peer; the first is 1 (R336). -/
def Port.nextTo (p : Port) (peer : Nat) : BitVec 32 := lookupD 1 peer p.nextSeq

/-- The kind of a frame (R336). -/
def frameKind (f : Frame) : Nat := (bits f.w0 48 8).toNat
/-- The context of a frame. -/
def frameCtx (f : Frame) : Nat := (bits f.w0 42 6).toNat
/-- The group of a frame. -/
def frameGroup (f : Frame) : Nat := (bits f.w0 36 6).toNat
/-- The source package of a frame. -/
def frameSource (f : Frame) : Nat := (bits f.w0 30 6).toNat
/-- The round of a frame. -/
def frameRound (f : Frame) : BitVec 32 := bits f.w1 0 32
/-- The acknowledgement a frame carries. -/
def frameAck (f : Frame) : BitVec 32 := bits f.w2 32 32
/-- The sequence number of a frame. -/
def frameSeq (f : Frame) : BitVec 32 := bits f.w2 0 32

/-- The entry of the package table for a package: its port and its peer's address (R335). -/
def State.packageEntry (s : State) (pkg : Nat) : Option (Nat × BitVec 48) := (s.packages.find? fun e => e.1 = pkg).map (·.2)

/-- A frame of a kind from a port to a package, with its sequence number, under the EtherType in force (R335, R336). -/
def State.frameTo (s : State) (gr : Group) (kind : Nat) (round : BitVec 32) (body : List Byte) (pkg : Nat) (p : Port)
    (mac : BitVec 48) (seq : BitVec 32) : Frame :=
  ⟨mac, p.mac, s.etherType, w64 (2 ^ 56 + kind * 2 ^ 48 + gr.ctx * 2 ^ 42 + gr.g * 2 ^ 36 + gr.package * 2 ^ 30), zx round,
    p.seenFrom pkg ++ seq, 0, body⟩

/-- The state after a frame is put on a port's wire. -/
def State.onWire (s : State) (n : Nat) (f : Frame) : State :=
  let p := s.port n
  s.setPort { p with sent := p.sent ++ [f] }

/-- The state after a frame is sent to a package: it is kept until it is acknowledged (R336). -/
def State.sendFrame (s : State) (gr : Group) (kind : Nat) (round : BitVec 32) (body : List Byte) (pkg : Nat) : State :=
  match s.packageEntry pkg with
  | none => s
  | some (n, mac) =>
    let p := s.port n
    let seq := p.nextTo pkg
    let f := s.frameTo gr kind round body pkg p mac seq
    { (s.setPort { p with nextSeq := putKey pkg (seq + 1) p.nextSeq }).onWire n f with
      frames := s.frames ++ [⟨n, pkg, seq, f, s.cycle, 0⟩] }

/-- The state after the receipt of a frame is acknowledged: an acknowledgement names the highest sequence received in order, takes
no number of its own, and goes while the frame's group is in force (R336; log 78). -/
def State.sendAck (s : State) (f : Frame) : State :=
  match s.packageEntry (frameSource f), s.group (frameCtx f) (frameGroup f) with
  | some (n, mac), some gr =>
    let p := s.port n
    s.onWire n (s.frameTo gr 3 (frameRound f) [] (frameSource f) p mac (p.nextTo (frameSource f) - 1))
  | _, _ => s

/-- The state without the frames to a peer that it has acknowledged (R336). -/
def State.acked (s : State) (port peer : Nat) (ack : BitVec 32) : State :=
  { s with frames := s.frames.filter fun f => !(f.port = port && f.peer = peer && serial f.seq ack ≤ 0) }

/-- Whether a frame of a kind has come from a package on its port, between the addresses that management has set and under its
EtherType (R335, R336). -/
def State.frameKnown (s : State) (port : Nat) (f : Frame) (kind : Nat) : Bool :=
  port < 8 && bits f.w0 56 8 == 1 && (frameKind f) == kind && s.packageEntry (frameSource f) == some (port, f.src) &&
    f.dst == (s.port port).mac && f.etherType == s.etherType

/-- The state after a frame arrives, and whether it is the next in order: that one is noted with the acknowledgement it carries;
it and a duplicate are acknowledged; one out of order, or not of the transport, is discarded (R336; log 78). -/
def State.receive (s : State) (port : Nat) (f : Frame) (kind len : Nat) : State × Bool :=
  let p := s.port port
  let ahead := serial (frameSeq f) (p.seenFrom (frameSource f))
  if !s.frameKnown port f kind || f.body.length != len || 1 < ahead then (s, false)
  else if ahead = 1 then
    (((s.setPort { p with seen := putKey (frameSource f) (frameSeq f) p.seen }).acked port (frameSource f) (frameAck f)).sendAck f, true)
  else (s.sendAck f, false)

/-- The body of a keystone frame (R336). -/
def keystoneBody (k : KeySlot) : List Byte :=
  (k.lanes.flatMap fun l => bytesOf 40 l.value.toNat ++ bytesOf 8 l.special.toNat) ++ bytesOf 8 k.sig.toNat

/-- The lanes of a keystone body (R336). -/
def bodyLanes (b : List Byte) : List KLane :=
  laneIdx.map fun j =>
    ⟨BitVec.ofNat 320 (ofBytes ((b.drop (48 * j)).take 40)), w64 (ofBytes ((b.drop (48 * j + 40)).take 8))⟩

/-- The signalling mask of a keystone body (R336). -/
def bodySig (b : List Byte) : Word := w64 (ofBytes ((b.drop 3072).take 8))

/-- The body of a result frame (R336). -/
def resultBody (r : VReg × BitVec 7) : List Byte := bytesOf 256 r.1.toNat ++ bytesOf 8 (r.2.toNat % 32)

/-! ### The root (R288, R314, R337) -/

/-- The state after the global root rounds a complete keystone and sends the result to every other package (R288, R337). -/
def State.roundAtRoot (s : State) (die : Nat) (gr : Group) (k : KeySlot) : State :=
  let r := k.rounded
  ((k.packages.filter (· ≠ gr.package)).foldl (fun (x : State) q => x.sendFrame gr 2 k.round (resultBody r) q) s).putKeySlot die
    (k.withResult gr r)

/-- ROOT_ROUND: the root of a package, its keystone holding every child, rounds it; in a group of several packages it sends
it to the global root's package instead, and the global root rounds once it has every package's (R288, R314, R337). -/
def execRootRound (die : Nat) (n : Nat) (s : State) : Host.Outcome State Fault Refusal :=
  match (s.die die).keystones[n]? with
  | none => .next s
  | some k =>
    match s.group k.ctx k.group with
    | none => .next s
    | some gr =>
      let children := ((gr.node die).map nodeChildren).getD 0
      if die ≠ gr.root || k.result.isSome || k.accepted < children then .next s
      else if gr.span = 1 then .next (s.putKeySlot die (k.withResult gr k.rounded))
      else if gr.package = gr.global then
        let k1 : KeySlot := if k.packages.contains gr.package then k else { k with packages := k.packages ++ [gr.package] }
        .next (if k1.packages.length < gr.span then s.putKeySlot die k1 else s.roundAtRoot die gr k1)
      else if k.packages.contains gr.package || (s.packageEntry gr.global).isNone then .next s
      else .next ((s.sendFrame gr 1 k.round (keystoneBody k) gr.global).putKeySlot die { k with packages := [gr.package] })

/-! ### Frames received (R336, R337) -/

/-- SOLOSKIC_KEYSTONE: the global root combines a package's keystone, once (R337); the frame is not received while its slot still
holds another round (R332; log 91). -/
def execSoloskicKeystone (port : Nat) (f : Frame) (s : State) : Host.Outcome State Fault Refusal :=
  if decide (serial (frameSeq f) ((s.port port).seenFrom (frameSource f)) = 1) &&
      (s.group (frameCtx f) (frameGroup f)).any fun gr => s.slotTaken gr.root gr.ctx gr.g (frameRound f) then .next s
  else
  match s.receive port f 1 3080 with
  | (s1, false) => .next s1
  | (s1, true) =>
    match s1.group (frameCtx f) (frameGroup f) with
    | none => .next s1
    | some gr =>
      let k := s1.keySlot gr.root gr.ctx gr.g (frameRound f)
      if gr.span = 1 || gr.package ≠ gr.global || k.result.isSome || k.packages.contains (frameSource f) then .next s1
      else .next (s1.putKeySlot gr.root { k with
        lanes := combineAll k.lanes (bodyLanes f.body), sig := k.sig ||| bodySig f.body, packages := k.packages ++ [(frameSource f)] })

/-- SOLOSKIC_RESULT: a package root receives the global result and begins its members' writes (R337). -/
def execSoloskicResult (port : Nat) (f : Frame) (s : State) : Host.Outcome State Fault Refusal :=
  match s.receive port f 2 264 with
  | (s1, false) => .next s1
  | (s1, true) =>
    match s1.group (frameCtx f) (frameGroup f) with
    | none => .next s1
    | some gr =>
      match (s1.die gr.root).keystones.find? fun k => k.isOf gr.ctx gr.g (frameRound f) with
      | none => .next s1
      | some k =>
        if (frameSource f) ≠ gr.global || !k.packages.contains gr.package || k.result.isSome then .next s1
        else
          let r : VReg × BitVec 7 := (BitVec.ofNat 2048 (ofBytes (f.body.take 256)),
            BitVec.ofNat 7 (ofBytes ((f.body.drop 256).take 8) % 32))
          .next (s1.putKeySlot gr.root (k.withResult gr r))

/-- SOLOSKIC_ACK (R336). -/
def execSoloskicAck (port : Nat) (f : Frame) (s : State) : Host.Outcome State Fault Refusal :=
  if s.frameKnown port f 3 then .next (s.acked port (frameSource f) (frameAck f)) else .next s

/-- FRAME_RESEND: a frame not acknowledged within 36,000 cycles is sent again; after 8 resends management is told (R336). -/
def execFrameResend (n : Nat) (s : State) : Host.Outcome State Fault Refusal :=
  match s.frames[n]? with
  | none => .next s
  | some f =>
    if s.cycle < f.sentAt + 36000 then .next s
    else if f.resends < 8 then
      .next ({ s with frames := s.frames.set n { f with resends := f.resends + 1, sentAt := s.cycle } }.onWire f.port f.f)
    else .next ({ s with frames := s.frames.eraseIdx n }.tell (.peerFailed f.port f.peer))

/-- ETHERNET_FRAME_DISCARD: a frame of a kind that is not supported is counted and discarded (R335). -/
def execEthernetFrameDiscard (port : Nat) (kind : Nat) (s : State) : Host.Outcome State Fault Refusal :=
  if port < 8 then .next (s.tell (.frameDiscarded port kind)) else .next s

end Sys2Proof.Machine
end

