-- ==== Sys2Proof/Machine/System.lean ====
section
/-! DEFINITION. Power, walks and shootdowns, start-up, attestation, and the management registers (R359 to R376). -/

namespace Sys2Proof.Machine

/-! ### Power (R365, R366) -/

/-- The headroom of a mean power in milliwatts under a cap in watts (R366). -/
def headroomOf (milliwatts cap : Nat) : BitVec 2 :=
  if milliwatts < 600 * cap then 3 else if milliwatts < 750 * cap then 2 else if milliwatts < 900 * cap then 1 else 0

/-- POWER_HEADROOM_UPDATE: every 4,096 cycles a lamp die publishes its headroom from its mean power over the span (R366). -/
def execPowerHeadroomUpdate (die : Nat) (milliwatts : Nat) (s : State) : Host.Outcome State Fault Refusal :=
  if !isLamp die || s.cycle % 4096 ≠ 0 then .next s
  else .next (s.modDie die fun d =>
    { d with power := BitVec.ofNat 32 milliwatts, headroom := headroomOf milliwatts d.cap.toNat })

/-! ### Walks and shootdowns (R359, R361 to R363) -/

/-- Whether a shootdown names a cached translation (R363, R370). -/
def TlbEntry.named (e : TlbEntry) (ctx : Nat) (va : BitVec 48) : Bool :=
  e.ctx = ctx && (va = BitVec.allOnes 48 || (e.base ≤ va.toNat && va.toNat < e.base + e.size))

/-- Whether a shootdown that is busy names a translation: no TLB keeps it until the busy bit clears (R363). -/
def State.shotDown (s : State) (e : TlbEntry) : Bool :=
  s.bar0.shootdown.getLsbD 63 && e.named (bits s.bar0.shootdown 48 6).toNat (bits s.bar0.shootdown 0 48)

/-- The die with a walk over: its oldest waiting miss begins (R362). -/
def Die.endWalk (d : Die) (w : Nat × Nat) : Die :=
  { d with walks := d.walks.erase w ++ d.walkQueue.take 1, walkQueue := d.walkQueue.drop 1 }

/-- The die with a miss that begins a walk, or waits in arrival order while every walk is busy (R362). -/
def Die.beginWalk (d : Die) (w : Nat × Nat) : Die :=
  if d.walks.length < walkLimit then { d with walks := d.walks ++ [w] } else { d with walkQueue := d.walkQueue ++ [w] }

/-- PAGE_WALK: the translation unit of a lamp die begins the walk of a page that misses its TLBs; a later one for an address of the same
page ends the walk, keeping the leaf that the tables then hold (R359, R361, R362; log 13). -/
def execPageWalk (die : Nat) (ctx : Nat) (va : BitVec 64) (s : State) : Host.Outcome State Fault Refusal :=
  let d := s.die die
  if !isLamp die || bits va 48 16 ≠ 0 || (s.ctxInfo? ctx).isNone then .next s
  else match d.walks.find? (s.walkCovers ctx va.toNat) with
  | some w =>
    let s1 := s.modDie die fun d => d.endWalk w
    match s1.leafOf die ctx va.toNat with
    | .fail _ => .next s1
    | .leaf e base size =>
      let new : TlbEntry := ⟨ctx, base, size, e⟩
      .next (s1.modDie die fun d => { d with tlb := if d.tlb.contains new || s.shotDown new then d.tlb else d.tlb ++ [new] })
  | none =>
    if d.walkQueue.any (s.walkCovers ctx va.toNat) || d.tlb.any (·.covers ctx va.toNat) then .next s
    else .next (s.modDie die fun d => d.beginWalk (ctx, va.toNat))

/-- The requests of a context that have still to be performed at their homes: not sent, on their way, arrived, in a log, answered
"retry", or waiting as a monitor entry (R363). -/
def State.inFlight (s : State) (ctx : Nat) : List Nat :=
  let again := s.resps.filterMap fun r => match r.body with | .retry q => some q | _ => none
  let held := s.logged.filterMap fun x => match x with | .req r => some r | _ => none
  ((s.sends ++ s.chans ++ s.arrivals ++ held ++ again).filter fun r => r.ctx = ctx).map (·.req) ++
    s.dies.flatMap fun d => (d.2.monitor.filter fun m => m.ctx = ctx).map (·.req)

/-- SHOOTDOWN: every TLB drops the entries named, and keeps none of them while the shootdown is busy; busy clears once the
accesses translated before have been performed; while it is busy the step looks again. In recovery the register takes no
write (R363, R364, R370). -/
def execShootdown (ctx : Nat) (va : BitVec 48) (s : State) : Host.Outcome State Fault Refusal :=
  let word := w64 (ctx % 64 * 2 ^ 48) ||| zx va
  let done (l : List Nat) : State → State := fun x => { x with bar0 := { x.bar0 with
    shooting := l, shootdown := if l.isEmpty then word else 0x8000000000000000 ||| word } }
  if s.recovery then .next s
  else if s.bar0.shootdown.getLsbD 63 then
    if s.bar0.shootdown = 0x8000000000000000 ||| word then
      .next (done (s.bar0.shooting.filter fun n => (s.inFlight ctx).contains n) s)
    else .next s
  else
    let s1 : State := { s with dies := s.dies.map fun d => (d.1, { d.2 with tlb := d.2.tlb.filter fun e => !e.named ctx va }) }
    .next (done (s.inFlight ctx).dedup s1)

/-! ### Firmware and start-up (R364, R367, R376) -/

/-- The 8-byte word of bytes at an offset. -/
def imageWord (bs : List Byte) (off : Nat) : Word := w64 (ofBytes ((bs.drop off).take 8))

/-- Whether an image's header obeys its layout (R376). -/
def imageHeaderOk (image : List Byte) : Bool :=
  let len := (imageWord image 16).toNat
  imageWord image 0 == 0x57465956 && bits (imageWord image 8) 2 6 == 0 && bits (imageWord image 8) 14 50 == 0 && len % 4096 == 0 &&
  len ≤ 2 ^ 28 && image.length == 576 + len + 512 &&
  ((List.range 4).all fun k => imageWord image (32 + 8 * k) == 0)

/-- Whether the boot ROM accepts an image (R367, R376). -/
def Fuses.accepts (f : Fuses) (image : List Byte) : Bool :=
  let len := (imageWord image 16).toNat
  let modulus := (image.drop 64).take 512
  let body := (image.drop 576).take len
  imageHeaderOk image &&
  (match f.keys[(bits (imageWord image 8) 0 2).toNat]? with
    | some (digest, revoked) => !revoked && digest == digestOf modulus
    | none => false) &&
  f.svn ≤ (bits (imageWord image 8) 8 6).toNat && pssVerify modulus (image.take 64 ++ body) ((image.drop (576 + len)).take 512)

/-- Whether two ring-adjacent dies are among those that failed (R261, R364). -/
def ringBroken (failed : List Nat) : Bool :=
  let ps := failed.map ringPos
  ps.any fun a => ps.contains ((a + 1) % 672)

/-- The machine after a start-up: what the fuses fix, the dies that failed out of service, the links down, the routing tables
that firmware lays around them, if they are well formed, and everything else as at reset; with an image that is refused the package stays in
recovery (R319, R364). The model's own counters and agenda go on (log 1). -/
def State.startUp (s : State) (image : List Byte) (failed : List Nat) (links : Fabric) (f : Fuses) : State :=
  let ok := s.fuses.accepts image
  let s1 : State := { State.reset with
    fuses := if ok then f else s.fuses, nextId := s.nextId, freeCtr := s.freeCtr, agenda := s.agenda, recovery := !ok }
  if !ok then s1.tell .imageRefused
  else
    let s2 : State := { s1 with
      linksDown := links.down, firmware := digestOf ((image.drop 576).take (imageWord image 16).toNat)
      ring := { s1.ring with stopped := ringBroken failed } }
    let s3 := failed.foldl (fun (x : State) d => x.modDie d fun y => { y with outOfService := true }) s2
    if s3.routesOk links.tables then s3.withRoutes links.tables else s3

/-- COLD_START: the full sequence; the trained parameters are saved (R364). -/
def execColdStart (image : List (BitVec 8)) (failed : List Nat) (links : Fabric) (temps : List Nat)
    (s : State) : Host.Outcome State Fault Refusal :=
  .next (s.startUp image failed links { s.fuses with saved := some (failed, links.down, temps) })

/-- Whether the saved parameters are valid: the same topology, and every die within 15 °C (R364). -/
def Fuses.savedValid (f : Fuses) (failed : List Nat) (links : List (Nat × Nat)) (temps : List Nat) : Bool :=
  match f.saved with
  | none => false
  | some (d, l, t) => d == failed && l == links && t.length == temps.length &&
      (t.zip temps).all fun x => x.1 ≤ x.2 + 15 && x.2 ≤ x.1 + 15

/-- WARM_START: without BIST and training when the saved parameters are valid; else as a cold start (R364). -/
def execWarmStart (image : List (BitVec 8)) (failed : List Nat) (links : Fabric) (temps : List Nat)
    (s : State) : Host.Outcome State Fault Refusal :=
  if s.fuses.savedValid failed links.down temps then .next (s.startUp image failed links s.fuses)
  else .next (s.startUp image failed links { s.fuses with saved := some (failed, links.down, temps) })

/-! ### Attestation (R367) -/

/-- The bytes of a ring program's image (R259). -/
def RingProgram.image (g : RingProgram) : List Byte :=
  bytesOf 8 g.header.toNat ++ bytesOf 8 g.number.toNat ++ List.replicate 48 0 ++
    g.parts.flatMap fun p => bytesOf 8 p.w0.toNat ++ bytesOf 8 p.w1.toNat ++ bytesOf 8 p.w2.toNat ++ List.replicate 8 0

/-- What a report holds: the part identifier, the security version, the digests of the running firmware and of the running
ring program, and the nonce (R367). That the part identifier stands most significant byte first, and the security version
least significant byte first, is the model's choice (log 8). -/
def State.reportBody (s : State) (nonce : BitVec 512) : List Byte :=
  beBytes 16 s.fuses.partId.toNat ++ bytesOf 8 s.fuses.svn ++ beBytes 64 s.firmware.toNat ++
    sha512 ((s.ring.running.map RingProgram.image).getD []) ++ bytesOf 64 nonce.toNat

/-- ATTESTATION: a nonce written to the mailbox yields a signed report (R367). -/
def execAttestation (nonce : BitVec 512) (s : State) : Host.Outcome State Fault Refusal :=
  let body := s.reportBody nonce
  .next { s with bar0 := { s.bar0 with nonce := nonce, report := body ++ Config.attestSign body } }

/-! ### Writes of management registers (R368 to R375) -/

/-- The bits of a context record's word that are kept (R9, R369). -/
def recordMask (word : Nat) : Word :=
  match word with
  | 8 => 0x07FF07FF
  | 10 => 0xFF07FF0001
  | _ => BitVec.allOnes 64

/-- The state after a word of a context record is written, while the context is not loaded (R369). -/
def State.writeRecord (s : State) (ctx word : Nat) (x : Word) : State :=
  if 12 < word || (s.ctxInfo? ctx).isSome then s
  else
    let v := x &&& recordMask word
    let rest := s.bar0.records.filter fun e => !(e.1 = ctx && e.2.1 = word)
    { s with bar0 := { s.bar0 with records := if v = 0 then rest else (ctx, word, v) :: rest } }

/-- The state after CMD is written: ignored while a command runs, else the command starts with the arguments held (R372). -/
def State.writeCmd (s : State) (x : Word) : State :=
  if s.bar0.busy then s
  else { s with bar0 := { s.bar0 with
    busy := true, cmdCtx := (bits x 32 6).toNat, cmdCode := bits x 0 8, cmdArgs := s.bar0.args } }

/-- The slot of a lamp die's 32-byte area that a bit of one of its words belongs to (R374). -/
def areaPlace (die word k : Nat) : Place := ⟨die, 4 * word + k / 16, k % 16⟩

/-- The state after a word of a lamp die's DEBUG marks is written: bit 16c + k belongs to slot k of core c (R374). -/
def State.writeMarks (s : State) (die word : Nat) (x : Word) : State :=
  (List.range 64).foldl (fun (y : State) k =>
    let p := areaPlace die word k
    if (y.slot p).mark = x.getLsbD k then y else y.setSlot p { y.slot p with mark := x.getLsbD k }) s

/-- The state after eight context weights of a lamp die are written: byte 64c + n is the weight of context n on core c
(R30, R371). -/
def State.writeWeights (s : State) (die first : Nat) (x : Word) : State :=
  (List.range 8).foldl (fun (y : State) k =>
    y.modCore die ((first + k) / 64) fun c => { c with weights := putKey ((first + k) % 64) (bits x (8 * k) 8) c.weights }) s

/-- The state after an 8-byte word of a die's configuration block is written (R264, R366, R371). -/
def State.writeConfig (s : State) (die off : Nat) (x : Word) : State :=
  if off = 0x1000 then s.modDie die fun d => { d with errors := 0, laneErrors := [] }
  else if off = 0x1048 then s.modDie die fun d => { d with threshold := bits x 0 32 }
  else if !isLamp die then s
  else if off = 0x2000 then s.modDie die fun d => { d with cap := bits x 0 16 }
  else if 0x3000 ≤ off && off < 0x3400 then s.writeWeights die (off - 0x3000) x
  else if 0x3800 ≤ off && off < 0x3880 then s.modCore die ((off - 0x3800) / 8) fun c => { c with handler := x &&& 0x0000FFFFFFFFFFFF }
  else s

/-- The state after a context's service register is written: its valid bit clears on a 1, and its count starts again (R375). -/
def State.writeService (s : State) (ctx : Nat) (x : Word) : State :=
  let v := s.serviceOf ctx
  if !x.getLsbD 63 then s
  else { s with bar0 := { s.bar0 with
    services := putKey ctx (v.1 &&& 0x7FFFFFFFFFFFFFFF, v.2.1, 0, v.2.2.2) s.bar0.services } }

/-- The state after a word of a lamp die's release area is written: each slot whose bit is 1 is released, in rising order (R374). -/
def State.writeRelease (s : State) (die word : Nat) (x : Word) : State :=
  ((List.range 64).filter x.getLsbD).foldl (fun (y : State) k => y.releaseSlot (areaPlace die word k)) s

/-- REGISTER_WRITE: an aligned 8-byte write to BAR0. A write of SHOOTDOWN, of a halt word or of the release area is the step that its
word names (R363, R374). The routing tables and the mailbox have steps of their own, and read-only registers and reserved space
take no write; in recovery BAR0 takes none (R364, R368). -/
def execRegisterWrite (off : Nat) (value : BitVec 64) (s : State) : Host.Outcome State Fault Refusal :=
  if s.recovery || off % 8 ≠ 0 then .next s
  else if off = 0x018 then .next { s with bar0 := { s.bar0 with faulted := s.bar0.faulted &&& ~~~value } }
  else if off = 0x020 then .next { s with bar0 := { s.bar0 with budget := zx (bits value 0 16) } }
  else if off = 0x028 then .next { s with bar0 := { s.bar0 with grade := zx (bits value 0 3) } }
  else if off = 0x038 then execShootdown (bits value 48 6).toNat (bits value 0 48) s
  else if off = 0x048 then .next (s.writeCmd value)
  else if 0x050 ≤ off && off < 0x070 then
    .next { s with bar0 := { s.bar0 with args := s.bar0.args.setIfInBounds ((off - 0x050) / 8) value } }
  else if 0x1000 ≤ off && off < 0x5000 then .next (s.writeRecord ((off - 0x1000) / 256) ((off - 0x1000) % 256 / 8) value)
  else if 0x30000 ≤ off && off < 0x30800 && off % 32 = 0 then .next (s.writeService ((off - 0x30000) / 32) value)
  else if 0x40000 ≤ off && off < 0x40A80 then
    if value.getLsbD 0 then execDieHalt (lampOf ((off - 0x40000) / 8)) s else execDieRelease (lampOf ((off - 0x40000) / 8)) s
  else if 0x47000 ≤ off && off < 0x49A00 then
    .next (s.writeRelease (lampOf ((off - 0x47000) / 32)) ((off - 0x47000) % 32 / 8) value)
  else if 0x41000 ≤ off && off < 0x43A00 then
    .next (s.writeMarks (lampOf ((off - 0x41000) / 32)) ((off - 0x41000) % 32 / 8) value)
  else if 0x1000000 ≤ off && off < 0x1000000 + 0x10000 * Config.dies then
    .next (s.writeConfig ((off - 0x1000000) / 0x10000) ((off - 0x1000000) % 0x10000) value)
  else .next s

/-! ### What management reads (R249, R365, R368 to R375) -/

/-- The word of CMD (R372). -/
def State.cmdWord (s : State) : Word :=
  w64 ((if s.bar0.busy then 2 ^ 63 else 0) + s.bar0.status.toNat * 2 ^ 48 + s.bar0.cmdCtx * 2 ^ 32 + s.bar0.cmdCode.toNat)

/-- A word of the package registers (R370). -/
def State.packageWord (s : State) (off : Nat) : Word :=
  match off with
  | 0x000 => 0x565957363732
  | 0x008 => w64 s.cycle
  | 0x010 => s.bar0.quiescent
  | 0x018 => s.bar0.faulted
  | 0x020 => s.bar0.budget
  | 0x028 => s.bar0.grade
  | 0x030 => s.bar0.power
  | 0x038 => s.bar0.shootdown
  | 0x040 => w64 s.fuses.svn
  | 0x048 => s.cmdWord
  | _ =>
    if 0x050 ≤ off && off < 0x070 then s.bar0.args.toList.getD ((off - 0x050) / 8) 0
    else if 0x100 ≤ off && off < 0x130 then
      ofBits fun k => s.fuses.solverOff.contains (lampOf ((off - 0x100) / 8 * 64 + k))
    else 0

/-- Whether a thread's slot is debug-halted: by its own `halt`, or because its die has halted and it stands at a boundary with
R45 complete, its waiting loads staying at their homes (R181, R343, R357, R374). -/
def State.slotHalted (s : State) (p : Place) : Bool :=
  match s.thread? p with
  | none => false
  | some t => t.halted || ((s.die p.die).halt && s.between p t && t.tags.all fun g => g.done || s.waitsAtHome t g)

/-- The halt word of a lamp die (R374). -/
def State.haltWord (s : State) (die : Nat) : Word :=
  let all := s.slots.all fun e => e.1.die ≠ die || e.2.thread.isNone || s.slotHalted e.1
  w64 ((if (s.die die).halt then 1 else 0) + if (s.die die).halt && all then 2 else 0)

/-- A word of a lamp die's 32-byte area, a bit for each slot (R374). -/
def slotBits (die word : Nat) (f : Place → Bool) : Word := ofBits fun k => f (areaPlace die word k)

/-- A word of a context's fault log: its header, or the ring of 31 records (R375). -/
def State.faultLogWord (s : State) (ctx off : Nat) : Word :=
  let e := lookupD (0, []) ctx s.bar0.faults
  if off = 0 then w64 (e.1 % 2 ^ 32)
  else if off < 32 then 0
  else
    let k := (off - 32) / 32
    match ((List.range e.2.length).zip e.2).find? fun x => (e.1 - e.2.length + x.1) % 31 = k with
    | none => 0
    | some (_, r) => match off % 32 / 8 with
      | 0 => r.w0
      | 1 => r.w1
      | 2 => r.w2
      | _ => r.w3

/-- Bytes laid out in a word. -/
def byteWord (f : Nat → Nat) : Word := w64 (((List.range 8).map fun k => f k % 256 * 2 ^ (8 * k)).sum)

/-- A word of a die's configuration block (R371). -/
def State.configWord (s : State) (die off : Nat) : Word :=
  let d := s.die die
  if off < 336 then byteWord fun k =>
    lookupD 0 (2 * (off + k)) d.routes + 16 * lookupD 0 (2 * (off + k) + 1) d.routes
  else if off = 0x1000 then zx d.errors
  else if 0x1008 ≤ off && off < 0x1048 then zx (lookupD 0 ((off - 0x1008) / 8) d.laneErrors)
  else if off = 0x1048 then zx d.threshold
  else if off = 0x1050 then w64 ((if d.bypassed then 1 else 0) + if d.outOfService then 2 else 0)
  else if !isLamp die then 0
  else if off = 0x2000 then zx d.cap
  else if off = 0x2008 then w64 (d.headroom.toNat + d.power.toNat * 2 ^ 16)
  else if 0x3000 ≤ off && off < 0x3400 then byteWord fun k => (s.core die ((off - 0x3000 + k) / 64)).weightOf ((off - 0x3000 + k) % 64)
  else if 0x3400 ≤ off && off < 0x3500 then byteWord fun k =>
    match (s.slot ⟨die, (off - 0x3400 + k) / 16, (off - 0x3400 + k) % 16⟩).owner with
    | some n => 128 + n
    | none => 0
  else if 0x3800 ≤ off && off < 0x3880 then (s.core die ((off - 0x3800) / 8)).handler
  else if 0x3900 ≤ off && off < 0x3B00 then
    match (s.core die ((off - 0x3900) / 32)).partitions[(off - 0x3900) % 32 / 8]? with
    | some p => w64 (2 ^ 63 + p.ctx * 2 ^ 56 + p.base * 2 ^ 8 + p.size)
    | none => 0
  else 0

/-- What management reads at an aligned offset of BAR0; reserved space reads zero, and in recovery only ID and the mailbox are
presented (R364, R368). -/
def State.barRead (s : State) (off : Nat) : Word :=
  if 0x50000 ≤ off && off < 0x52000 then w64 (ofBytes (((s.bar0.report ++ Config.attestCertificate).drop (off - 0x50000)).take 8))
  else if s.recovery && off ≠ 0 then 0
  else if off < 0x1000 then s.packageWord off
  else if off < 0x5000 then s.record ((off - 0x1000) / 256) ((off - 0x1000) % 256 / 8)
  else if 0x10000 ≤ off && off < 0x11000 then
    let e := lookupD (0, 0) ((off - 0x10000) / 16) s.bar0.log
    if off % 16 = 0 then e.1 else e.2
  else if off = 0x11000 then zx s.bar0.logCount
  else if 0x20000 ≤ off && off < 0x30000 then s.faultLogWord ((off - 0x20000) / 1024) (off % 1024)
  else if 0x30000 ≤ off && off < 0x30800 then
    let v := s.serviceOf ((off - 0x30000) / 32)
    match off % 32 / 8 with
    | 0 => v.1
    | 1 => v.2.1
    | 2 => v.2.2.1
    | _ => v.2.2.2
  else if 0x40000 ≤ off && off < 0x40A80 then s.haltWord (lampOf ((off - 0x40000) / 8))
  else if 0x41000 ≤ off && off < 0x43A00 then
    slotBits (lampOf ((off - 0x41000) / 32)) ((off - 0x41000) % 32 / 8) fun p => (s.slot p).mark
  else if 0x44000 ≤ off && off < 0x46A00 then slotBits (lampOf ((off - 0x44000) / 32)) ((off - 0x44000) % 32 / 8) s.slotHalted
  else if 0x1000000 ≤ off && off < 0x1000000 + 0x10000 * Config.dies then
    s.configWord ((off - 0x1000000) / 0x10000) ((off - 0x1000000) % 0x10000)
  else 0

end Sys2Proof.Machine
end

