-- ==== Sys2Proof/Machine/Dispatch.lean ====
section
/-! DEFINITION. The meaning of every instruction: one arm per constructor, one direct call per arm. -/

namespace Sys2Proof.Machine

def exec (i : Instr) (s : State) : Host.Outcome State Fault Refusal :=
  match i with
  | .unop => Sys2Proof.Machine.execUnop s
  | .add sd sa sb => Sys2Proof.Machine.execAdd sd sa sb s
  | .addi sd sa imm => Sys2Proof.Machine.execAddi sd sa imm s
  | .sub sd sa sb => Sys2Proof.Machine.execSub sd sa sb s
  | .mul sd sa sb => Sys2Proof.Machine.execMul sd sa sb s
  | .mulh sd sa sb => Sys2Proof.Machine.execMulh sd sa sb s
  | .mulhu sd sa sb => Sys2Proof.Machine.execMulhu sd sa sb s
  | .and sd sa sb => Sys2Proof.Machine.execAnd sd sa sb s
  | .andi sd sa imm => Sys2Proof.Machine.execAndi sd sa imm s
  | .or sd sa sb => Sys2Proof.Machine.execOr sd sa sb s
  | .ori sd sa imm => Sys2Proof.Machine.execOri sd sa imm s
  | .xor sd sa sb => Sys2Proof.Machine.execXor sd sa sb s
  | .xori sd sa imm => Sys2Proof.Machine.execXori sd sa imm s
  | .shl sd sa sb => Sys2Proof.Machine.execShl sd sa sb s
  | .shli sd sa imm => Sys2Proof.Machine.execShli sd sa imm s
  | .shr sd sa sb => Sys2Proof.Machine.execShr sd sa sb s
  | .shri sd sa imm => Sys2Proof.Machine.execShri sd sa imm s
  | .sra sd sa sb => Sys2Proof.Machine.execSra sd sa sb s
  | .srai sd sa imm => Sys2Proof.Machine.execSrai sd sa imm s
  | .min sd sa sb => Sys2Proof.Machine.execMin sd sa sb s
  | .max sd sa sb => Sys2Proof.Machine.execMax sd sa sb s
  | .minu sd sa sb => Sys2Proof.Machine.execMinu sd sa sb s
  | .maxu sd sa sb => Sys2Proof.Machine.execMaxu sd sa sb s
  | .addx sd sa sb sh => Sys2Proof.Machine.execAddx sd sa sb sh s
  | .clz sd sa => Sys2Proof.Machine.execClz sd sa s
  | .popc sd sa => Sys2Proof.Machine.execPopc sd sa s
  | .bext sd sa sb => Sys2Proof.Machine.execBext sd sa sb s
  | .sext sd sa imm => Sys2Proof.Machine.execSext sd sa imm s
  | .slt sd sa sb => Sys2Proof.Machine.execSlt sd sa sb s
  | .sltu sd sa sb => Sys2Proof.Machine.execSltu sd sa sb s
  | .qeq qd sa sb => Sys2Proof.Machine.execQeq qd sa sb s
  | .qne qd sa sb => Sys2Proof.Machine.execQne qd sa sb s
  | .qlt qd sa sb => Sys2Proof.Machine.execQlt qd sa sb s
  | .qltu qd sa sb => Sys2Proof.Machine.execQltu qd sa sb s
  | .qle qd sa sb => Sys2Proof.Machine.execQle qd sa sb s
  | .qleu qd sa sb => Sys2Proof.Machine.execQleu qd sa sb s
  | .qeqi qd sa imm => Sys2Proof.Machine.execQeqi qd sa imm s
  | .qlti qd sa imm => Sys2Proof.Machine.execQlti qd sa imm s
  | .qand qd qa qb => Sys2Proof.Machine.execQand qd qa qb s
  | .qor qd qa qb => Sys2Proof.Machine.execQor qd qa qb s
  | .qxor qd qa qb => Sys2Proof.Machine.execQxor qd qa qb s
  | .qnot qd qa => Sys2Proof.Machine.execQnot qd qa s
  | .vnop => Sys2Proof.Machine.execVnop s
  | .vadd vd va vb pm w uns sat => Sys2Proof.Machine.execVadd vd va vb pm w uns sat s
  | .vsub vd va vb pm w uns sat => Sys2Proof.Machine.execVsub vd va vb pm w uns sat s
  | .vmul vd va vb pm w => Sys2Proof.Machine.execVmul vd va vb pm w s
  | .vmulh vd va vb pm w => Sys2Proof.Machine.execVmulh vd va vb pm w s
  | .vmulhu vd va vb pm w => Sys2Proof.Machine.execVmulhu vd va vb pm w s
  | .vand vd va vb pm => Sys2Proof.Machine.execVand vd va vb pm s
  | .vor vd va vb pm => Sys2Proof.Machine.execVor vd va vb pm s
  | .vxor vd va vb pm => Sys2Proof.Machine.execVxor vd va vb pm s
  | .vshl vd va vb pm w => Sys2Proof.Machine.execVshl vd va vb pm w s
  | .vshr vd va vb pm w => Sys2Proof.Machine.execVshr vd va vb pm w s
  | .vsra vd va vb pm w => Sys2Proof.Machine.execVsra vd va vb pm w s
  | .vmin vd va vb pm w => Sys2Proof.Machine.execVmin vd va vb pm w s
  | .vmax vd va vb pm w => Sys2Proof.Machine.execVmax vd va vb pm w s
  | .vminu vd va vb pm w => Sys2Proof.Machine.execVminu vd va vb pm w s
  | .vmaxu vd va vb pm w => Sys2Proof.Machine.execVmaxu vd va vb pm w s
  | .vsel vd va vb pm => Sys2Proof.Machine.execVsel vd va vb pm s
  | .viota vd pm => Sys2Proof.Machine.execViota vd pm s
  | .vfadd vd va vb pm t r => Sys2Proof.Machine.execVfadd vd va vb pm t r s
  | .vfsub vd va vb pm t r => Sys2Proof.Machine.execVfsub vd va vb pm t r s
  | .vfmul vd va vb pm t r => Sys2Proof.Machine.execVfmul vd va vb pm t r s
  | .vfma vd va vb pm t r => Sys2Proof.Machine.execVfma vd va vb pm t r s
  | .vfms vd va vb pm t r => Sys2Proof.Machine.execVfms vd va vb pm t r s
  | .vfmin vd va vb pm t r => Sys2Proof.Machine.execVfmin vd va vb pm t r s
  | .vfmax vd va vb pm t r => Sys2Proof.Machine.execVfmax vd va vb pm t r s
  | .vfdiv vd va vb pm t r => Sys2Proof.Machine.execVfdiv vd va vb pm t r s
  | .vfsqrt vd va pm t r => Sys2Proof.Machine.execVfsqrt vd va pm t r s
  | .vfrsq vd va pm t r => Sys2Proof.Machine.execVfrsq vd va pm t r s
  | .vfexp2 vd va pm t r => Sys2Proof.Machine.execVfexp2 vd va pm t r s
  | .vflog2 vd va pm t r => Sys2Proof.Machine.execVflog2 vd va pm t r s
  | .vfabs vd va pm t => Sys2Proof.Machine.execVfabs vd va pm t s
  | .vfneg vd va pm t => Sys2Proof.Machine.execVfneg vd va pm t s
  | .vcmpeq pd va vb pm w => Sys2Proof.Machine.execVcmpeq pd va vb pm w s
  | .vcmplt pd va vb pm w uns => Sys2Proof.Machine.execVcmplt pd va vb pm w uns s
  | .vcmple pd va vb pm w uns => Sys2Proof.Machine.execVcmple pd va vb pm w uns s
  | .vfcmp pd va vb pm t c => Sys2Proof.Machine.execVfcmp pd va vb pm t c s
  | .pand pd pa pb => Sys2Proof.Machine.execPand pd pa pb s
  | .por pd pa pb => Sys2Proof.Machine.execPor pd pa pb s
  | .pandn pd pa pb => Sys2Proof.Machine.execPandn pd pa pb s
  | .pxor pd pa pb => Sys2Proof.Machine.execPxor pd pa pb s
  | .vcvt vd va pm c => Sys2Proof.Machine.execVcvt vd va pm c s
  | .vcvtPair vd va vb pm c => Sys2Proof.Machine.execVcvtPair vd va vb pm c s
  | .vdec vd va pm c4 t1 grp => Sys2Proof.Machine.execVdec vd va pm c4 t1 grp s
  | .venc vd va pm c4 t1 inf => Sys2Proof.Machine.execVenc vd va pm c4 t1 inf s
  | .vshuf vd va vb pm => Sys2Proof.Machine.execVshuf vd va vb pm s
  | .vroti vd va n pm => Sys2Proof.Machine.execVroti vd va n pm s
  | .vscan vd va pm op => Sys2Proof.Machine.execVscan vd va pm op s
  | .vcmprs vd va pm => Sys2Proof.Machine.execVcmprs vd va pm s
  | .li sd imm => Sys2Proof.Machine.execLi sd imm s
  | .lih sd imm => Sys2Proof.Machine.execLih sd imm s
  | .addil sd sa imm => Sys2Proof.Machine.execAddil sd sa imm s
  | .ld sd sa la w4 imm => Sys2Proof.Machine.execLd sd sa la w4 imm s
  | .st sa sb w4 imm => Sys2Proof.Machine.execSt sa sb w4 imm s
  | .aadd sd sa sb la w4 imm => Sys2Proof.Machine.execAadd sd sa sb la w4 imm s
  | .amin sd sa sb la w4 imm => Sys2Proof.Machine.execAmin sd sa sb la w4 imm s
  | .amax sd sa sb la w4 imm => Sys2Proof.Machine.execAmax sd sa sb la w4 imm s
  | .aand sd sa sb la w4 imm => Sys2Proof.Machine.execAand sd sa sb la w4 imm s
  | .aor sd sa sb la w4 imm => Sys2Proof.Machine.execAor sd sa sb la w4 imm s
  | .axch sd sa sb la w4 imm => Sys2Proof.Machine.execAxch sd sa sb la w4 imm s
  | .acas sd sa sb la w4 imm => Sys2Proof.Machine.execAcas sd sa sb la w4 imm s
  | .fence k course => Sys2Proof.Machine.execFence k course s
  | .br imm => Sys2Proof.Machine.execBr imm s
  | .call sd imm => Sys2Proof.Machine.execCall sd imm s
  | .jr sa => Sys2Proof.Machine.execJr sa s
  | .loop n sa imm => Sys2Proof.Machine.execLoop n sa imm s
  | .mfs sd idx => Sys2Proof.Machine.execMfs sd idx s
  | .mts sa idx => Sys2Proof.Machine.execMts sa idx s
  | .crset sa e => Sys2Proof.Machine.execCrset sa e s
  | .trapi imm => Sys2Proof.Machine.execTrapi imm s
  | .eret => Sys2Proof.Machine.execEret s
  | .yield => Sys2Proof.Machine.execYield s
  | .regset sa mask => Sys2Proof.Machine.execRegset sa mask s
  | .vld vd sa pm la off => Sys2Proof.Machine.execVld vd sa pm la off s
  | .vst vd sa pm off => Sys2Proof.Machine.execVst vd sa pm off s
  | .vlds vd sa sx pm la z off => Sys2Proof.Machine.execVlds vd sa sx pm la z off s
  | .vsts vd sa sx pm z off => Sys2Proof.Machine.execVsts vd sa sx pm z off s
  | .vgath vd sa vb pm la z off => Sys2Proof.Machine.execVgath vd sa vb pm la z off s
  | .vscat vd sa vb pm z off => Sys2Proof.Machine.execVscat vd sa vb pm z off s
  | .vpf sa off => Sys2Proof.Machine.execVpf sa off s
  | .lda vd sa sx sy la wait lag => Sys2Proof.Machine.execLda vd sa sx sy la wait lag s
  | .sta vd sa sx off => Sys2Proof.Machine.execSta vd sa sx off s
  | .stad vd sa sx pm off => Sys2Proof.Machine.execStad vd sa sx pm off s
  | .ldas sa sy la => Sys2Proof.Machine.execLdas sa sy la s
  | .vtou sy vd pm low e => Sys2Proof.Machine.execVtou sy vd pm low e s
  | .utov vd sa pm => Sys2Proof.Machine.execUtov vd sa pm s
  | .vred sy vd pm op => Sys2Proof.Machine.execVred sy vd pm op s
  | .vuni sy qd vd pm => Sys2Proof.Machine.execVuni sy qd vd pm s
  | .ptou sy pn => Sys2Proof.Machine.execPtou sy pn s
  | .utop pd sa => Sys2Proof.Machine.execUtop pd sa s
  | .pany qd pn => Sys2Proof.Machine.execPany qd pn s
  | .pall qd pn => Sys2Proof.Machine.execPall qd pn s
  | .tdesc d s1 => Sys2Proof.Machine.execTdesc d s1 s
  | .tzero a s1 s2 => Sys2Proof.Machine.execTzero a s1 s2 s
  | .tmm a da db => Sys2Proof.Machine.execTmm a da db s
  | .tmmr a dx k s1 => Sys2Proof.Machine.execTmmr a dx k s1 s
  | .tdrain a dc s1 => Sys2Proof.Machine.execTdrain a dc s1 s
  | .tcopy ch s1 s2 s3 => Sys2Proof.Machine.execTcopy ch s1 s2 s3 s
  | .twait s1 => Sys2Proof.Machine.execTwait s1 s
  | .ttab t s1 => Sys2Proof.Machine.execTtab t s1 s
  | .tcnv dd ds => Sys2Proof.Machine.execTcnv dd ds s
  | .tqms dr da dx s1 => Sys2Proof.Machine.execTqms dr da dx s1 s
  | .tlu dn => Sys2Proof.Machine.execTlu dn s
  | .tsolv dl dv => Sys2Proof.Machine.execTsolv dl dv s
  | .link s1 s2 => Sys2Proof.Machine.execLink s1 s2 s
  | .alloc sd la n => Sys2Proof.Machine.execAlloc sd la n s
  | .free s1 => Sys2Proof.Machine.execFree s1 s
  | .push s1 s2 => Sys2Proof.Machine.execPush s1 s2 s
  | .endThread => Sys2Proof.Machine.execEndThread s
  | .nld s1 sd la off => Sys2Proof.Machine.execNld s1 sd la off s
  | .nst s1 s2 off => Sys2Proof.Machine.execNst s1 s2 off s
  | .rulew s1 s2 => Sys2Proof.Machine.execRulew s1 s2 s
  | .board k s1 s2 s3 => Sys2Proof.Machine.execBoard k s1 s2 s3 s
  | .unboard k => Sys2Proof.Machine.execUnboard k s
  | .ringq k sd la code => Sys2Proof.Machine.execRingq k sd la code s
  | .mig s1 => Sys2Proof.Machine.execMig s1 s
  | .reds s1 s2 v => Sys2Proof.Machine.execReds s1 s2 v s
  | .halt => Sys2Proof.Machine.execHalt s
  | .svc e => Sys2Proof.Machine.execSvc e s
  | .trapEntry p => Sys2Proof.Machine.execTrapEntry p s
  | .yieldRelease p => Sys2Proof.Machine.execYieldRelease p s
  | .launchFill p => Sys2Proof.Machine.execLaunchFill p s
  | .send owner e => Sys2Proof.Machine.execSend owner e s
  | .deliver d e engine => Sys2Proof.Machine.execDeliver d e engine s
  | .loadPerform e => Sys2Proof.Machine.execLoadPerform e s
  | .storePerform e => Sys2Proof.Machine.execStorePerform e s
  | .atomicPerform e => Sys2Proof.Machine.execAtomicPerform e s
  | .ldaPerform e => Sys2Proof.Machine.execLdaPerform e s
  | .ldasPerform e => Sys2Proof.Machine.execLdasPerform e s
  | .staPerform e => Sys2Proof.Machine.execStaPerform e s
  | .stadPerform e => Sys2Proof.Machine.execStadPerform e s
  | .respond e d => Sys2Proof.Machine.execRespond e d s
  | .monitorRetry owner e => Sys2Proof.Machine.execMonitorRetry owner e s
  | .stampRegress e d => Sys2Proof.Machine.execStampRegress e d s
  | .stopNoticeSend uid => Sys2Proof.Machine.execStopNoticeSend uid s
  | .stopNoticeApply die n => Sys2Proof.Machine.execStopNoticeApply die n s
  | .clearNotice p => Sys2Proof.Machine.execClearNotice p s
  | .tzeroExecute op => Sys2Proof.Machine.execTzeroExecute op s
  | .tmmExecute op => Sys2Proof.Machine.execTmmExecute op s
  | .tmmrReadStep op => Sys2Proof.Machine.execTmmrReadStep op s
  | .tdrainExecute op => Sys2Proof.Machine.execTdrainExecute op s
  | .drainWake op => Sys2Proof.Machine.execDrainWake op s
  | .tcnvExecute op => Sys2Proof.Machine.execTcnvExecute op s
  | .tcopyExecute op => Sys2Proof.Machine.execTcopyExecute op s
  | .tqmsExecute op => Sys2Proof.Machine.execTqmsExecute op s
  | .tluExecute op => Sys2Proof.Machine.execTluExecute op s
  | .tsolvExecute op => Sys2Proof.Machine.execTsolvExecute op s
  | .dispatchTake p => Sys2Proof.Machine.execDispatchTake p s
  | .annihilate job => Sys2Proof.Machine.execAnnihilate job s
  | .commute job => Sys2Proof.Machine.execCommute job s
  | .erase job => Sys2Proof.Machine.execErase job s
  | .numop job => Sys2Proof.Machine.execNumop job s
  | .take issuer => Sys2Proof.Machine.execTake issuer s
  | .attach issuer => Sys2Proof.Machine.execAttach issuer s
  | .meet issuer => Sys2Proof.Machine.execMeet issuer s
  | .linkHoldRetry issuer => Sys2Proof.Machine.execLinkHoldRetry issuer s
  | .viciousCircle issuer => Sys2Proof.Machine.execViciousCircle issuer s
  | .quarryBatch die core ctx => Sys2Proof.Machine.execQuarryBatch die core ctx s
  | .recordClassify n => Sys2Proof.Machine.execRecordClassify n s
  | .pairRecordSend n => Sys2Proof.Machine.execPairRecordSend n s
  | .heldRecordWrite die core ctx => Sys2Proof.Machine.execHeldRecordWrite die core ctx s
  | .spillWrite die ctx => Sys2Proof.Machine.execSpillWrite die ctx s
  | .spillRead die core ctx => Sys2Proof.Machine.execSpillRead die core ctx s
  | .hodSteal die core ctx => Sys2Proof.Machine.execHodSteal die core ctx s
  | .agingRise die core n => Sys2Proof.Machine.execAgingRise die core n s
  | .balanceAdvertise die ctx => Sys2Proof.Machine.execBalanceAdvertise die ctx s
  | .balanceBatch n => Sys2Proof.Machine.execBalanceBatch n s
  | .quiescenceWave => Sys2Proof.Machine.execQuiescenceWave s
  | .slotArbiter die core => Sys2Proof.Machine.execSlotArbiter die core s
  | .intakeWrite off len relaxed w0 w1 => Sys2Proof.Machine.execIntakeWrite off len relaxed w0 w1 s
  | .intakeForward => Sys2Proof.Machine.execIntakeForward s
  | .bar2Read off => Sys2Proof.Machine.execBar2Read off s
  | .hostWrite off bytes => Sys2Proof.Machine.execHostWrite off bytes s
  | .hostRead off len => Sys2Proof.Machine.execHostRead off len s
  | .stampViewRead off len => Sys2Proof.Machine.execStampViewRead off len s
  | .migrationPack p => Sys2Proof.Machine.execMigrationPack p s
  | .migrationPacket e => Sys2Proof.Machine.execMigrationPacket e s
  | .migrationAccept e d => Sys2Proof.Machine.execMigrationAccept e d s
  | .migrationResend p => Sys2Proof.Machine.execMigrationResend p s
  | .bufferedPacketPlace die n => Sys2Proof.Machine.execBufferedPacketPlace die n s
  | .redsSend op => Sys2Proof.Machine.execRedsSend op s
  | .redsContribution n => Sys2Proof.Machine.execRedsContribution n s
  | .keystoneMessage n => Sys2Proof.Machine.execKeystoneMessage n s
  | .rootRound die n => Sys2Proof.Machine.execRootRound die n s
  | .resultWrite die n => Sys2Proof.Machine.execResultWrite die n s
  | .redsComplete n => Sys2Proof.Machine.execRedsComplete n s
  | .reductionWatchdog die n => Sys2Proof.Machine.execReductionWatchdog die n s
  | .groupRebuild ctx g addr => Sys2Proof.Machine.execGroupRebuild ctx g addr s
  | .soloskicKeystone port f => Sys2Proof.Machine.execSoloskicKeystone port f s
  | .soloskicResult port f => Sys2Proof.Machine.execSoloskicResult port f s
  | .soloskicAck port f => Sys2Proof.Machine.execSoloskicAck port f s
  | .frameResend n => Sys2Proof.Machine.execFrameResend n s
  | .ethernetFrameDiscard port kind => Sys2Proof.Machine.execEthernetFrameDiscard port kind s
  | .segmentInject lane => Sys2Proof.Machine.execSegmentInject lane s
  | .segmentTap die => Sys2Proof.Machine.execSegmentTap die s
  | .segmentForward die lane => Sys2Proof.Machine.execSegmentForward die lane s
  | .lapBoundary watts => Sys2Proof.Machine.execLapBoundary watts s
  | .expertReboard die core ctx k => Sys2Proof.Machine.execExpertReboard die core ctx k s
  | .handleRelease die core ctx k => Sys2Proof.Machine.execHandleRelease die core ctx k s
  | .powerHeadroomUpdate die milliwatts => Sys2Proof.Machine.execPowerHeadroomUpdate die milliwatts s
  | .pageWalk die ctx va => Sys2Proof.Machine.execPageWalk die ctx va s
  | .ruleInvalidate die => Sys2Proof.Machine.execRuleInvalidate die s
  | .logAppend e => Sys2Proof.Machine.execLogAppend e s
  | .preemptEntry p => Sys2Proof.Machine.execPreemptEntry p s
  | .saveComplete uid => Sys2Proof.Machine.execSaveComplete uid s
  | .routeChange tables => Sys2Proof.Machine.execRouteChange tables s
  | .dieFailure die => Sys2Proof.Machine.execDieFailure die s
  | .coldStart image failed links temps => Sys2Proof.Machine.execColdStart image failed links temps s
  | .warmStart image failed links temps => Sys2Proof.Machine.execWarmStart image failed links temps s
  | .loadctx ctx => Sys2Proof.Machine.execLoadctx ctx s
  | .destroy ctx => Sys2Proof.Machine.execDestroy ctx s
  | .launch ctx => Sys2Proof.Machine.execLaunch ctx s
  | .reside ctx => Sys2Proof.Machine.execReside ctx s
  | .evict ctx => Sys2Proof.Machine.execEvict ctx s
  | .preempt ctx => Sys2Proof.Machine.execPreempt ctx s
  | .restore ctx => Sys2Proof.Machine.execRestore ctx s
  | .ringload ctx => Sys2Proof.Machine.execRingload ctx s
  | .ringswitch ctx => Sys2Proof.Machine.execRingswitch ctx s
  | .groupload ctx => Sys2Proof.Machine.execGroupload ctx s
  | .unknownCommand code ctx => Sys2Proof.Machine.execUnknownCommand code ctx s
  | .shootdown ctx va => Sys2Proof.Machine.execShootdown ctx va s
  | .attestation nonce => Sys2Proof.Machine.execAttestation nonce s
  | .dieHalt die => Sys2Proof.Machine.execDieHalt die s
  | .dieRelease die => Sys2Proof.Machine.execDieRelease die s
  | .slotRelease p => Sys2Proof.Machine.execSlotRelease p s
  | .registerWrite off value => Sys2Proof.Machine.execRegisterWrite off value s
  | .courseEntryCopy die => Sys2Proof.Machine.execCourseEntryCopy die s
  | .heldAwayClear die n => Sys2Proof.Machine.execHeldAwayClear die n s

end Sys2Proof.Machine
end

