-- ==== Sys2Proof/Machine/Program.lean ====
section
/-! DEFINITION. A program placed as management's load leaves it (R61, R369, R373; log 7). -/

namespace Sys2Proof.Machine

/-- The physical address of the page table's root: 16 GiB into plinth die 1. -/
def rootAddr : Nat := plinthAddr 1 (2 ^ 34)

/-- The root's entry 0: a valid level-0 leaf that maps the first 16 GiB to the start of plinth die 1, readable and
executable (R360). -/
def rootLeaf : Word := w64 (2 ^ 63 + 2 ^ 62 + 2 ^ 57 + 2 ^ 55 + plinthAddr 1 0)

/-- The state with a word of an instruction placed: context 0's root and leaf, the word at address 0, a thread of context
0 in T(0,0,0,0) at address 0 with every register at its start value, and core 0's issue as the next move. -/
def placeWord (s : State) (_nbits w : Nat) : State :=
  let p : Place := ⟨0, 0, 0⟩
  let s1 := { s with
    agenda := [.issue 0 0], cur := none
    bar0 := { s.bar0 with records := (0, 0, w64 rootAddr) :: s.bar0.records.filter fun e => !(e.1 = 0 && e.2.1 = 0) } }
  let s2 := (s1.write64 rootAddr rootLeaf).write64 (plinthAddr 1 0) (w64 w)
  let s3 := (s2.modDie 0 fun x => { x with tlb := [], halt := false }).modCore 0 0 fun x =>
    { x with issuePtr := 15, lastIssue := none }
  let s4 := s3.setSlot p { s3.slot p with owner := some 0, thread := none }
  s4.startThread p 0 0 [] 0 0

end Sys2Proof.Machine
end

