-- ==== Sys2Proof/Machine/Walks.lean ====
section
/-! DEFINITION. What waits for a page walk: a word, or a machine step, that reaches a page being walked (R362). -/

namespace Sys2Proof.Machine

/-- Whether a page is being walked on some die. -/
def State.walking (s : State) : Bool := s.dies.any fun e => !e.2.walks.isEmpty

/-- The state as it would be were some pages absent: entries that give no permission stand behind the TLBs' own. -/
def State.without (s : State) (f : Nat → List TlbEntry) : State :=
  { s with dies := s.dies.map fun e => (e.1, { e.2 with tlb := e.2.tlb ++ f e.1 }) }

/-- The state without those entries. -/
def State.dropWalked (s : State) : State :=
  { s with dies := s.dies.map fun e => (e.1, { e.2 with tlb := e.2.tlb.filter fun x => x.leaf ≠ 0 }) }

/-- Whether a step would end otherwise were some pages absent. -/
def State.meets (s : State) (f : State → Host.Outcome State Fault Refusal) (absent : Nat → List TlbEntry) : Bool :=
  match f s, f (s.without absent) with
  | .next a, .next b => a ≠ b.dropWalked
  | _, _ => false

/-- Whether a step reaches a page that a walk holds: it would end otherwise were that page absent (R362; log 13). -/
def State.meetsWalk (s : State) (f : State → Host.Outcome State Fault Refusal) : Bool := s.walking && s.meets f s.absentPages

/-- The pages that a step misses at a die, and that no walk there, and no miss that waits for one, covers (R362). -/
def State.misses (s : State) (die : Nat) (f : State → Host.Outcome State Fault Refusal) : List (Nat × Nat) :=
  let d := s.die die
  s.ctxs.flatMap fun c => ((s.pages c.n).filter fun p =>
    !(d.walks ++ d.walkQueue).any (s.walkCovers c.n p.1) &&
      s.meets f fun n => if n = die then [⟨c.n, p.1, p.2, 0⟩] else []).map fun p => (c.n, p.1)

/-- The state after a step's misses, where every walk of their die is busy, wait in arrival order (R362). -/
def State.queueMisses (s : State) (f : State → Host.Outcome State Fault Refusal) : State :=
  { s with dies := s.dies.map fun e =>
    if e.2.walks.length < walkLimit then e else (e.1, { e.2 with walkQueue := e.2.walkQueue ++ s.misses e.1 f }) }

/-- The state after the word in its issue cycle waits for a walk of its die, and has not acted (R362). -/
def State.holdForWalk (s : State) : State :=
  match s.current with
  | some (i, t) => s.wait i t (.walk ((s.die i.place.die).walks ++ (s.die i.place.die).walkQueue))
  | none => s

/-- A machine step; one that reaches a page being walked does not happen yet, a miss of its that finds every walk busy waiting in arrival
order; walks and shootdowns are not held (R150, R362). -/
def runEvent (i : Instr) (s : State) : Host.Outcome State Fault Refusal :=
  match i with
  | .pageWalk _ _ _ | .shootdown _ _ => exec i s
  | _ => if s.meetsWalk (exec i) then .next (s.queueMisses (exec i)) else exec i s

end Sys2Proof.Machine
end

