-- ==== Sys2Proof/Machine/Schedule.lean ====
section
/-! DEFINITION. The step taken next when the agenda names none: the first of the machine's own steps that changes anything,
else the issue of a word, else a cycle passes (R150; log 1). Steps that stand for the outside world (host accesses, register
writes, frames, failures, measured power) are taken from the agenda only. -/

namespace Sys2Proof.Machine

/-- The delivery of an answer (R155). -/
def respondEvent (k : Nat) (r : Resp) : Instr :=
  match r.body with
  | .regress _ _ => .stampRegress r.src r.dest
  | .packetOk => .migrationAccept r.src r.dest
  | .result _ _ _ _ _ => .redsComplete k
  | _ => .respond r.src r.dest

/-- The performance of a request that has arrived, or its append to an inbound log (R154, R355). -/
def performEvent (r : Req) : List Instr :=
  (match r.body with
    | .load _ => .loadPerform r.dest
    | .store _ _ | .merge _ _ => .storePerform r.dest
    | .atomic _ _ _ _ _ _ => .atomicPerform r.dest
    | .lda _ _ _ _ _ => .ldaPerform r.dest
    | .ldas _ _ => .ldasPerform r.dest
    | .sta _ _ _ _ => .staPerform r.dest
    | .stad _ _ _ _ _ => .stadPerform r.dest
    | .result _ _ _ _ _ _ _ _ => .staPerform r.dest
    | .packet _ _ _ => .migrationPacket r.dest) :: (if r.core.isSome then [.logAppend r.dest] else [])

/-- The sending of a request (R152, R180). -/
def sendEvent (r : Req) : Instr :=
  if r.notBefore.isSome then .monitorRetry r.owner r.dest else .send r.owner r.dest

/-- The execution of an engine operation (R294, R300, R331). -/
def opEvent (o : TileOp) : Instr :=
  match o.phase, o.op with
  | .waking, _ | .wakeRead, _ => .drainWake o.uid
  | _, 1 => .tzeroExecute o.uid
  | _, 2 => .tmmExecute o.uid
  | _, 3 => .tmmrReadStep o.uid
  | _, 4 => .tdrainExecute o.uid
  | _, 5 => .tcopyExecute o.uid
  | _, 8 => .tcnvExecute o.uid
  | _, 9 => .tqmsExecute o.uid
  | _, 10 => .tluExecute o.uid
  | _, 11 => .tsolvExecute o.uid
  | _, _ => .redsSend o.uid

/-- The steps of a link's issuer (R218 to R221). -/
def linkEvents (issuer : Nat) : List Instr :=
  [.take issuer, .attach issuer, .meet issuer, .linkHoldRetry issuer, .viciousCircle issuer]

/-- The steps of a rewrite (R214). -/
def rewriteEvents (r : Rewrite) : List Instr :=
  (match r.action.toNat with
    | 1 => .annihilate r.uid
    | 2 => .commute r.uid
    | 3 => .erase r.uid
    | _ => .numop r.uid) :: linkEvents r.uid

/-- The steps of a slot and its thread. -/
def slotEvents (e : Place × Slot) : List Instr :=
  let p := e.1
  let free : List Instr := if e.2.thread.isNone then [.dispatchTake p] else []
  let clear : List Instr := if !e.2.noticed.isEmpty then [.clearNotice p] else []
  free ++ clear ++ match e.2.thread with
  | none => []
  | some t =>
    (if t.link.isSome then linkEvents t.uid else []) ++ (if t.preempt.isSome then [.preemptEntry p] else []) ++ [.trapEntry p] ++
    (if t.migration.isSome then [.migrationPack p, .migrationResend p] else []) ++
    match t.hold with
    | .yielded _ _ => [.yieldRelease p]
    | .rulew _ (d :: _) => [.ruleInvalidate d]
    | .crset _ (d :: _) => [.courseEntryCopy d]
    | _ => []

/-- The steps of a core, for each context resident on it. Core c steals only on cycles that are c modulo 16, so that two
idle cores do not take a record from each other for ever. -/
def State.coreEvents (s : State) (e : (Nat × Nat) × Core) : List Instr :=
  let d := e.1.1
  let c := e.1.2
  e.2.rewrites.flatMap rewriteEvents ++ (e.2.held.map fun r => .heldRecordWrite d c r.ctx) ++
  (e.2.wants.map fun n => .quarryBatch d c n) ++ (e.2.giveBack.map fun b => .quarryBatch d c b.1) ++
  (e.2.partitions.map fun p => .spillRead d c p.ctx) ++
  (if s.cycle % 16 = c then e.2.partitions.map fun p => .hodSteal d c p.ctx else []) ++
  ((List.range e.2.hod.length).map fun n => .agingRise d c n) ++
  (if s.cycle % 16 = 0 && !e.2.partitions.isEmpty then [.slotArbiter d c] else []) ++
  (e.2.handles.flatMap fun h => [.handleRelease d c h.ctx h.k, .expertReboard d c h.ctx h.k])

/-- The steps of a die. -/
def State.dieEvents (s : State) (e : Nat × Die) : List Instr :=
  ((List.range e.2.buffer.length).map fun n => .bufferedPacketPlace e.1 n) ++
  (e.2.walks.map fun w => .pageWalk e.1 w.1 (w64 w.2)) ++
  (if e.2.deferred.any fun n => !s.defers n then [.stopNoticeApply e.1 s.notices.length] else []) ++
  ((List.range e.2.keystones.length).flatMap fun n => [.rootRound e.1 n, .resultWrite e.1 n, .reductionWatchdog e.1 n]) ++
  (if s.cycle % 4096 = 0 then s.ctxs.map fun c => .balanceAdvertise e.1 c.n else [])

/-- The steps of stop notices (R182, R185). -/
def State.noticeEvents (s : State) : List Instr :=
  (s.stopped.map fun x => .stopNoticeSend x.uid) ++
  ((List.range s.notices.length).zip s.notices).flatMap fun x =>
    (match plinthDies.find? fun d => !x.2.applied.contains d && s.up d with
      | some d => [.stopNoticeApply d x.1]
      | none => []) ++ x.2.ids.map fun w => .heldAwayClear (widPlace w).die x.1

/-- The steps of the Lantern ring (R256 to R264). -/
def State.ringEvents (s : State) : List Instr :=
  if s.ring.running.isNone && s.ring.segments.isEmpty then []
  else
    ((List.range 8).map fun l => .segmentInject l) ++
    (s.ring.segments.flatMap fun g => ((List.range Config.dies).filter fun d => g.passes d ≤ s.cycle && !g.tapped.contains d).map fun d =>
      if isLamp d then .segmentTap d else .segmentForward d g.lane) ++
    (s.ring.segments.map fun g => .segmentForward g.source g.lane) ++ [.lapBoundary s.bar0.power.toNat]

/-- The running command (R372, R373). -/
def State.commandEvents (s : State) : List Instr :=
  if !s.bar0.busy then []
  else
    let n := s.bar0.cmdCtx
    match s.bar0.cmdCode.toNat with
    | 1 => [.loadctx n]
    | 2 => [.destroy n]
    | 3 => [.launch n]
    | 4 => [.reside n]
    | 5 => [.evict n]
    | 6 => [.preempt n]
    | 7 => [.restore n]
    | 8 => [.ringload n]
    | 9 => [.ringswitch n]
    | 10 => [.groupload n]
    | _ => [.unknownCommand s.bar0.cmdCode n]

/-- The machine's own steps that may be taken, in the order in which they are tried. -/
def State.ownSteps (s : State) : List Instr :=
  (((List.range s.resps.length).zip s.resps).map fun x => respondEvent x.1 x.2) ++ s.arrivals.flatMap performEvent ++
  (s.chans.map fun r => .deliver r.src r.dest r.engine) ++ s.sends.map sendEvent ++ s.ops.map opEvent ++
  (s.fresh.flatMap fun r => [.recordClassify r.id, .pairRecordSend r.id]) ++ (s.spilling.map fun r => .spillWrite r.die r.ctx) ++
  ((List.range s.batches.length).map fun n => .balanceBatch n) ++ (s.launches.map fun l => .launchFill l.place) ++
  s.slots.flatMap slotEvents ++ s.cores.flatMap s.coreEvents ++ s.dies.flatMap s.dieEvents ++
  (s.saving.map fun v => .saveComplete v.uid) ++ s.noticeEvents ++ s.ringEvents ++
  ((List.range s.redMsgs.length).flatMap fun n => [.redsContribution n, .keystoneMessage n]) ++ [.intakeForward] ++
  ((List.range s.frames.length).map fun n => .frameResend n) ++
  (if s.bar0.shootdown.getLsbD 63 then [.shootdown (bits s.bar0.shootdown 48 6).toNat (bits s.bar0.shootdown 0 48)] else []) ++
  s.commandEvents ++ (if s.cycle % 8192 = 0 then [.quiescenceWave] else [])

/-- Whether a step changes anything. -/
def State.acts (s : State) (i : Instr) : Bool :=
  match runEvent i s with
  | .next t => t ≠ s
  | _ => false

/-- The first core, in ascending order, that can issue a word now. -/
def State.issueMove (s : State) : Option Move :=
  s.slots.findSome? fun e => match s.nextSlot e.1.die e.1.core with
    | some p => some (.issue p.die p.core)
    | none => none

/-- Whether a cycle may pass: no core with a ready slot has still to issue in this one, and no released launch can start (R11,
R29, R31). -/
def State.mayTick (s : State) : Bool :=
  s.issueMove.isNone && s.launches.all fun l => l.held || !s.slotFree l.place

/-- The default move: the first of the machine's own steps that changes anything, then an issue, then a cycle passes. -/
def State.defaultMove (s : State) : Move :=
  match s.ownSteps.find? s.acts with
  | some i => .event i
  | none => s.issueMove.getD .tick

end Sys2Proof.Machine
end

