-- ==== Sys2Proof/Machine/Settings.lean ====
section
/-! DEFINITION. What management sets by a route to which the spec gives no register: the stamp of a block that `.stamp` places,
the watchdog's figure, a port's address, the package table and the EtherType; and firmware's advance of the fused
security version, whose route it does not give either (R55, R173, R333, R335, R367; log 41). -/

namespace Sys2Proof.Machine

/-- The state after a block of a STAMPED page takes the stamp that the loader names for it, and no writer; any other address
changes nothing (R55, R173). -/
def State.placeStamp (s : State) (pa : Nat) (stamp : BitVec 32) : State :=
  if pa % 256 = 0 && plinthRange pa 256 && s.stampedAt pa then s.setSide pa stamp 0 else s

/-- The package table with an entry set: 64 packages and eight ports (R335). -/
def State.setPackage (s : State) (pkg port : Nat) (mac : BitVec 48) : State :=
  if pkg < 64 && port < 8 then { s with packages := (pkg, port, mac) :: s.packages.filter fun e => e.1 ≠ pkg } else s

/-- The state after firmware advances the fused security version, a thermometer code of 64 steps: it is never lowered, and in recovery no
firmware runs (R364, R367). -/
def State.advanceSvn (s : State) (n : Nat) : State :=
  if !s.recovery && s.fuses.svn ≤ n && n ≤ 64 then { s with fuses := { s.fuses with svn := n } } else s

/-- The state after management, or firmware, sets a figure. -/
def State.applySetting (s : State) : Setting → State
  | .stamp pa n => s.placeStamp pa n
  | .watchdog n => { s with watchdog := n }
  | .mac n a => if n < 8 then s.setPort { s.port n with mac := a } else s
  | .package k n a => s.setPackage k n a
  | .etherType x => { s with etherType := x }
  | .svn n => s.advanceSvn n

end Sys2Proof.Machine
end

