-- ==== Sys2Proof/Machine/Step.lean ====
section
/-! DEFINITION. One step of the machine (R29, R37, R150), and an instruction placed where the next step issues it. -/

namespace Sys2Proof.Machine

/-- A word's effect: a long word's instruction; or the vector slot and then the uniform slot of a pair word, which touch
different registers, the uniform slot not acting when the vector slot has trapped (R37). -/
def runWord (b : Bundle) (s : State) : Host.Outcome State Fault Refusal :=
  match b with
  | .long _ i => exec i s
  | .pair _ u v =>
    match exec v s with
    | .next s' => if s'.hasMoved then .next s' else exec u s'
    | .fault f => .fault f
    | .refused r => .refused r

/-- A word run and its issue cycle ended. -/
def finishWord (b : Bundle) (s : State) : Host.Outcome State Fault Refusal :=
  match runWord b s with
  | .next s' => .next (s'.finishIssue s.windows)
  | .fault f => .fault f
  | .refused r => .refused r

/-- The issue of one word by a core; with no ready slot nothing happens, and a word that reaches a page being walked waits (R29,
R362). -/
def issueStep (die core : Nat) (s : State) : Host.Outcome State Fault Refusal :=
  match s.startIssue die core with
  | none => .next s
  | some (s', none) => .next (s'.finishIssue s'.windows)
  | some (s', some b) =>
    if s'.meetsWalk (runWord b) then .next ((s'.queueMisses (runWord b)).holdForWalk.finishIssue s'.windows) else finishWord b s'

/-- One move (R150); a cycle passes only once every core that can issue in it has (R29). -/
def moveStep (m : Move) (s : State) : Host.Outcome State Fault Refusal :=
  match m with
  | .issue die core => issueStep die core s
  | .event i => if i.form = .event then runEvent i s else .next s
  | .tick => .next (if s.mayTick then s.passCycle else s)
  | .set x => .next (s.applySetting x)

/-- One step: the move the agenda names, or the default one (R150; log 1). -/
def step (s : State) : Host.Outcome State Fault Refusal :=
  match s.agenda with
  | m :: r => moveStep m { s with agenda := r }
  | [] => moveStep s.defaultMove s

/-- The state with an instruction placed where the next step issues it: slot T(0,0,0,0) of context 0 holds a thread at
address 0, whose page is mapped, and the agenda's next move is core 0's issue (log 7). -/
def State.withFetchWord (s : State) (nbits w : Nat) : State := placeWord s nbits w

end Sys2Proof.Machine
end

