-- ==== Sys2Proof/Safety.lean ====
section
/-! DEFINITION. What counts as a safe run, and the invariant of the state that the claims use. -/

namespace Sys2Proof.Machine

/-- Memory and sideband in their canonical form: the invariant that every step keeps. -/
def State.stored (s : State) : Prop := Memory.wf s.mem = true ∧ sparseWf 0 s.side = true

/-- A step is safe when it neither faults nor refuses. -/
def safeStep (s : State) : Prop := ∃ t, step s = .next t

end Sys2Proof.Machine
end

