-- ==== Sys2Proof/Certificates/Slice0/Obligations.lean ====
section
/-! DEFINITION. The statements for the provers. Each clause is a definition of its own in `Sys2Proof.Claims` or an obligation; the
obligations that join several clauses stand at the end. -/

/-! ### How a word's effect is said -/

namespace Sys2Proof.Claims
open Sys2Proof.Machine

/-- `u` is `s` but for the thread at `p` and the word in its issue cycle: no other slot, no other part of the machine, and
no byte of memory differs. -/
def OnlyThread (s u : State) (p : Place) : Prop :=
  { u with slots := s.slots, cur := s.cur } = s ∧ (∀ r, r ≠ p → u.slot r = s.slot r) ∧
    { u.slot p with thread := (s.slot p).thread } = s.slot p ∧ ∀ a, u.readByte a = s.readByte a

/-- The outcome is a next state that differs from `s` at most in the thread at `p`, which is then `t'`; the flow goes on to
the next word. -/
def Lands (s : State) (p : Place) (o : Host.Outcome State Fault Refusal) (t' : Thread) : Prop :=
  ∃ u, o = .next u ∧ u.thread? p = some t' ∧ u.cur = s.cur ∧ OnlyThread s u p

/-- As `Lands`, and the flow goes to the address `a` (R86). -/
def LandsAt (s : State) (i : Issue) (o : Host.Outcome State Fault Refusal) (t' : Thread) (a : Word) : Prop :=
  ∃ u, o = .next u ∧ u.thread? i.place = some t' ∧ u.cur = some { i with next := some a } ∧ OnlyThread s u i.place

/-- As `Lands`, and the word has trapped, has left its slot or waits: the thread does not advance past it. -/
def LandsStaying (s : State) (i : Issue) (o : Host.Outcome State Fault Refusal) (t' : Thread) : Prop :=
  ∃ u, o = .next u ∧ u.thread? i.place = some t' ∧ u.cur = some { i with moved := true } ∧ OnlyThread s u i.place

/-- A trap of the thread can be entered now: it is in no PREEMPT handler and not at a handler's first word, R45 is complete,
TRAPVEC names a handler, and its first word can be fetched (R338, R341). -/
def CanEnter (s : State) (p : Place) (t : Thread) : Prop :=
  t.priv = false ∧ t.firstWord = false ∧ t.settled = true ∧ vecUsable t.sys.trapvec = true ∧
    ∃ w, s.fetch p.die t.ctx t.sys.trapvec = .ok w

/-- `t'` is `t` as it enters its handler (R338): TRAPCAUSE, TRAPPC and TRAPINFO written, HS 1, PC at TRAPVEC[47:0], held for
the two cycles after this one, its open windows stopped (R45), what it had read of an image dropped (log 17). No other
register differs. -/
def Entered (cycle : Nat) (t t' : Thread) (cause pc info : Word) : Prop :=
  t'.sys = { t.sys with trapcause := cause, trappc := pc, trapinfo := info } ∧ t'.hs = true ∧
    t'.pc = t.sys.trapvec &&& 0x0000FFFFFFFFFFFF ∧ t'.hold = .until_ (cycle + 3) ∧ t'.firstWord = true ∧
    t'.tags = (t.tags.filter fun g => !g.image).map (fun g => { g with frozen := true }) ∧ t'.image = [] ∧
    t'.pending = none ∧ t'.migration = none ∧
    { t' with sys := t.sys, hs := t.hs, pc := t.pc, hold := t.hold, firstWord := t.firstWord, tags := t.tags,
              image := t.image, pending := t.pending, migration := t.migration } = t

/-- Only the uniform register `r` differs; s0 keeps reading 0 whatever is written to it (R41). -/
def WroteS (t t' : Thread) (r : BitVec 5) (x : Word) : Prop :=
  (∀ k, t'.readS k = if k = r ∧ r ≠ 0 then x else t.readS k) ∧ { t' with s := t.s } = t

/-- Only the uniform predicate `r` differs; q0 keeps reading 1 whatever is written to it (R41). -/
def WroteQ (t t' : Thread) (r : BitVec 3) (b : Bool) : Prop :=
  (∀ k, t'.readQ k = if k = r ∧ r ≠ 0 then b else t.readQ k) ∧ { t' with q := t.q } = t

/-- Only the lane predicate `r` differs; p0 keeps reading all ones whatever is written to it (R41). Bit `j` of the new value
is `f j`. -/
def WroteP (t t' : Thread) (r : BitVec 3) (f : Nat → Bool) : Prop :=
  (∀ k, k ≠ r → t'.readP k = t.readP k) ∧ (r ≠ 0 → ∀ j, j < 64 → (t'.readP r).getLsbD j = f j) ∧
    t'.readP 0 = BitVec.allOnes 64 ∧ { t' with p := t.p } = t

/-- Only the vector register `r` differs; lane `j` of the new value is `f j`. -/
def WroteV (t t' : Thread) (r : BitVec 6) (f : Nat → BitVec 32) : Prop :=
  (∀ k, k ≠ r → t'.readV k = t.readV k) ∧ (∀ j, j < 64 → lane (t'.readV r) j = f j) ∧ { t' with v := t.v } = t

/-- The masked lanes (R101): an active lane takes `f`, an inactive lane of the destination keeps its value. -/
def masked (t : Thread) (pm : BitVec 3) (vd : BitVec 6) (f : Nat → BitVec 32) (j : Nat) : BitVec 32 :=
  if (t.readP pm).getLsbD j then f j else lane (t.readV vd) j

/-- The register as a signed number. -/
def sA (t : Thread) (r : BitVec 5) : Int := (t.readS r).toInt

/-- The register as an unsigned number. -/
def uA (t : Thread) (r : BitVec 5) : Nat := (t.readS r).toNat

/-- 1 or 0. -/
def one (b : Prop) [Decidable b] : Word := if b then 1 else 0

/-! ### The uniform slot (R80 to R85) -/

/-- R80 and R82 as tables of exact numbers: the destination and the value of each register form. -/
def registerForm : Instr → Option (BitVec 5 × (Thread → Word))
  | .add sd sa sb => some (sd, fun t => BitVec.ofInt 64 (sA t sa + sA t sb))
  | .sub sd sa sb => some (sd, fun t => BitVec.ofInt 64 (sA t sa - sA t sb))
  | .mul sd sa sb => some (sd, fun t => BitVec.ofInt 64 (sA t sa * sA t sb))
  | .mulh sd sa sb => some (sd, fun t => BitVec.ofInt 64 (sA t sa * sA t sb / 2 ^ 64))
  | .mulhu sd sa sb => some (sd, fun t => BitVec.ofNat 64 (uA t sa * uA t sb / 2 ^ 64))
  | .and sd sa sb => some (sd, fun t => BitVec.ofNat 64 (uA t sa &&& uA t sb))
  | .or sd sa sb => some (sd, fun t => BitVec.ofNat 64 (uA t sa ||| uA t sb))
  | .xor sd sa sb => some (sd, fun t => BitVec.ofNat 64 (uA t sa ^^^ uA t sb))
  | .shl sd sa sb => some (sd, fun t => BitVec.ofNat 64 (uA t sa * 2 ^ (uA t sb % 64)))
  | .shr sd sa sb => some (sd, fun t => BitVec.ofNat 64 (uA t sa / 2 ^ (uA t sb % 64)))
  | .sra sd sa sb => some (sd, fun t => BitVec.ofInt 64 (sA t sa / 2 ^ (uA t sb % 64)))
  | .min sd sa sb => some (sd, fun t => BitVec.ofInt 64 (if sA t sa < sA t sb then sA t sa else sA t sb))
  | .max sd sa sb => some (sd, fun t => BitVec.ofInt 64 (if sA t sa < sA t sb then sA t sb else sA t sa))
  | .minu sd sa sb => some (sd, fun t => BitVec.ofNat 64 (if uA t sa < uA t sb then uA t sa else uA t sb))
  | .maxu sd sa sb => some (sd, fun t => BitVec.ofNat 64 (if uA t sa < uA t sb then uA t sb else uA t sa))
  | .slt sd sa sb => some (sd, fun t => one (sA t sa < sA t sb))
  | .sltu sd sa sb => some (sd, fun t => one (uA t sa < uA t sb))
  | .addx sd sa sb e => some (sd, fun t => BitVec.ofNat 64 (uA t sa + uA t sb * 2 ^ e.toNat))
  | .bext sd sa sb => some (sd, fun t =>
      BitVec.ofNat 64 (uA t sa / 2 ^ (uA t sb % 64) % 2 ^ (if 64 < uA t sb / 256 % 128 then 64 else uA t sb / 256 % 128)))
  | _ => none

/-- R81 and R85 as tables of exact numbers: the destination and the value of each form with an immediate or one source. -/
def immediateForm : Instr → Option (BitVec 5 × (Thread → Word))
  | .addi sd sa imm => some (sd, fun t => BitVec.ofInt 64 (sA t sa + imm.toInt))
  | .andi sd sa imm => some (sd, fun t => BitVec.ofNat 64 (uA t sa &&& imm.toNat))
  | .ori sd sa imm => some (sd, fun t => BitVec.ofNat 64 (uA t sa ||| imm.toNat))
  | .xori sd sa imm => some (sd, fun t => BitVec.ofNat 64 (uA t sa ^^^ imm.toNat))
  | .shli sd sa imm => some (sd, fun t => BitVec.ofNat 64 (uA t sa * 2 ^ (imm.toNat % 64)))
  | .shri sd sa imm => some (sd, fun t => BitVec.ofNat 64 (uA t sa / 2 ^ (imm.toNat % 64)))
  | .srai sd sa imm => some (sd, fun t => BitVec.ofInt 64 (sA t sa / 2 ^ (imm.toNat % 64)))
  | .sext sd sa imm => some (sd, fun t => BitVec.ofInt 64 ((uA t sa : Int).bmod (2 ^ imm.toNat)))
  | .clz sd sa => some (sd, fun t => BitVec.ofNat 64 ((List.range 64).countP fun j => decide (uA t sa < 2 ^ j)))
  | .popc sd sa => some (sd, fun t => BitVec.ofNat 64 ((List.range 64).countP fun j => (t.readS sa).getLsbD j))
  | .li sd imm => some (sd, fun _ => BitVec.ofInt 64 imm.toInt)
  | .lih sd imm => some (sd, fun t => BitVec.ofNat 64 (imm.toNat * 2 ^ 32 + uA t sd % 2 ^ 32))
  | .addil sd sa imm => some (sd, fun t => BitVec.ofInt 64 (sA t sa + imm.toInt))
  | _ => none

/-- R83 and R84 as tables: the destination and the truth value of each compare and each predicate operation. -/
def predicateForm : Instr → Option (BitVec 3 × (Thread → Bool))
  | .qeq qd sa sb => some (qd, fun t => decide (uA t sa = uA t sb))
  | .qne qd sa sb => some (qd, fun t => decide (uA t sa ≠ uA t sb))
  | .qlt qd sa sb => some (qd, fun t => decide (sA t sa < sA t sb))
  | .qltu qd sa sb => some (qd, fun t => decide (uA t sa < uA t sb))
  | .qle qd sa sb => some (qd, fun t => decide (sA t sa ≤ sA t sb))
  | .qleu qd sa sb => some (qd, fun t => decide (uA t sa ≤ uA t sb))
  | .qeqi qd sa imm => some (qd, fun t => decide (sA t sa = imm.toInt))
  | .qlti qd sa imm => some (qd, fun t => decide (sA t sa < imm.toInt))
  | .qand qd qa qb => some (qd, fun t => t.readQ qa && t.readQ qb)
  | .qor qd qa qb => some (qd, fun t => t.readQ qa || t.readQ qb)
  | .qxor qd qa qb => some (qd, fun t => t.readQ qa ^^ t.readQ qb)
  | .qnot qd qa => some (qd, fun t => !t.readQ qa)
  | _ => none

end Sys2Proof.Claims

section
open Sys2Proof Sys2Proof.Machine Sys2Proof.Claims

/-- R80, R82: every register form of the uniform slot writes its table's value to s[sd] and nothing else. -/
def Sys2Proof.Claims.UniformRegisterForms : Prop :=
  ∀ (s : State) (i : Issue) (t : Thread) (ins : Instr) (sd : BitVec 5) (f : Thread → Word),
    s.current = some (i, t) → registerForm ins = some (sd, f) →
    ∃ t', WroteS t t' sd (f t) ∧ Lands s i.place (exec ins s) t'

/-- R81, R85: every immediate or single-source form, and every constant, writes its table's value to s[sd] and nothing
else. -/
def Sys2Proof.Claims.UniformImmediateForms : Prop :=
  ∀ (s : State) (i : Issue) (t : Thread) (ins : Instr) (sd : BitVec 5) (f : Thread → Word),
    s.current = some (i, t) → immediateForm ins = some (sd, f) →
    ∃ t', WroteS t t' sd (f t) ∧ Lands s i.place (exec ins s) t'

/-- R83, R84: every compare and every predicate operation writes its table's truth value to q[qd] and nothing else. -/
def Sys2Proof.Claims.UniformPredicates : Prop :=
  ∀ (s : State) (i : Issue) (t : Thread) (ins : Instr) (qd : BitVec 3) (f : Thread → Bool),
    s.current = some (i, t) → predicateForm ins = some (qd, f) →
    ∃ t', WroteQ t t' qd (f t) ∧ Lands s i.place (exec ins s) t'

end
/-! ### The vector slot and the moves between the files (R100 to R125) -/

namespace Sys2Proof.Claims
open Sys2Proof.Machine

/-- Element `e` of lane `j`, as a raw number of `n` bits (R100). -/
def elem (n : Nat) (v : VReg) (j e : Nat) : Nat := v.toNat / 2 ^ (32 * j + n * e) % 2 ^ n

/-- A raw number of `n` bits read as a signed one (R6). -/
def sE (n x : Nat) : Int := (x : Int).bmod (2 ^ n)

/-- The bits of an element of a width, and of a floating-point type (R69). -/
def widthBits : Width → Nat
  | .w32 => 32
  | .w16 => 16

/-- The bits of an element of a floating-point type. -/
def typeBits : FTyp → Nat
  | .f32 => 32
  | .f16 => 16
  | .bf16 => 16

/-- The exact value of a saturating or wrapping sum or difference (R105). -/
def satInt (uns sat : Bool) (n : Nat) (sExact uExact : Int) : Int :=
  if sat && uns then max 0 (min (2 ^ n - 1) uExact)
  else if sat then max (-(2 ^ (n - 1))) (min (2 ^ (n - 1) - 1) sExact)
  else sExact

/-- R104 as a table: destination, sources, mask, element bits, and the exact value of an element from the raw elements. -/
def integerLanes : Instr → Option (BitVec 6 × BitVec 6 × BitVec 6 × BitVec 3 × Nat × (Nat → Nat → Nat → Int))
  | .vadd vd va vb pm w uns sat => some (vd, va, vb, pm, widthBits w, fun n x y => satInt uns sat n (sE n x + sE n y) (x + y))
  | .vsub vd va vb pm w uns sat => some (vd, va, vb, pm, widthBits w, fun n x y => satInt uns sat n (sE n x - sE n y) ((x : Int) - y))
  | .vmul vd va vb pm w => some (vd, va, vb, pm, widthBits w, fun n x y => sE n x * sE n y)
  | .vmulh vd va vb pm w => some (vd, va, vb, pm, widthBits w, fun n x y => sE n x * sE n y / 2 ^ n)
  | .vmulhu vd va vb pm w => some (vd, va, vb, pm, widthBits w, fun n x y => ((x * y / 2 ^ n : Nat) : Int))
  | .vand vd va vb pm => some (vd, va, vb, pm, 32, fun _ x y => ((x &&& y : Nat) : Int))
  | .vor vd va vb pm => some (vd, va, vb, pm, 32, fun _ x y => ((x ||| y : Nat) : Int))
  | .vxor vd va vb pm => some (vd, va, vb, pm, 32, fun _ x y => ((x ^^^ y : Nat) : Int))
  | .vshl vd va vb pm w => some (vd, va, vb, pm, widthBits w, fun n x y => ((x * 2 ^ (y % n) : Nat) : Int))
  | .vshr vd va vb pm w => some (vd, va, vb, pm, widthBits w, fun n x y => ((x / 2 ^ (y % n) : Nat) : Int))
  | .vsra vd va vb pm w => some (vd, va, vb, pm, widthBits w, fun n x y => sE n x / 2 ^ (y % n))
  | .vmin vd va vb pm w => some (vd, va, vb, pm, widthBits w, fun n x y => min (sE n x) (sE n y))
  | .vmax vd va vb pm w => some (vd, va, vb, pm, widthBits w, fun n x y => max (sE n x) (sE n y))
  | .vminu vd va vb pm w => some (vd, va, vb, pm, widthBits w, fun _ x y => ((min x y : Nat) : Int))
  | .vmaxu vd va vb pm w => some (vd, va, vb, pm, widthBits w, fun _ x y => ((max x y : Nat) : Int))
  | _ => none

/-- R112's integer compares as a table: destination, sources, mask, element bits and test. -/
def integerTest : Instr → Option (BitVec 3 × BitVec 6 × BitVec 6 × BitVec 3 × Nat × (Nat → Nat → Nat → Bool))
  | .vcmpeq pd va vb pm w => some (pd, va, vb, pm, widthBits w, fun _ x y => decide (x = y))
  | .vcmplt pd va vb pm w uns => some (pd, va, vb, pm, widthBits w, fun n x y =>
      if uns then decide (x < y) else decide (sE n x < sE n y))
  | .vcmple pd va vb pm w uns => some (pd, va, vb, pm, widthBits w, fun n x y =>
      if uns then decide (x ≤ y) else decide (sE n x ≤ sE n y))
  | _ => none

/-- R113 as a table. -/
def lanePredicate : Instr → Option (BitVec 3 × (Thread → Nat → Bool))
  | .pand pd pa pb => some (pd, fun t j => (t.readP pa).getLsbD j && (t.readP pb).getLsbD j)
  | .por pd pa pb => some (pd, fun t j => (t.readP pa).getLsbD j || (t.readP pb).getLsbD j)
  | .pandn pd pa pb => some (pd, fun t j => (t.readP pa).getLsbD j && !(t.readP pb).getLsbD j)
  | .pxor pd pa pb => some (pd, fun t j => (t.readP pa).getLsbD j ^^ (t.readP pb).getLsbD j)
  | .utop pd sa => some (pd, fun t j => (t.readS sa).getLsbD j)
  | _ => none

/-- The active lanes below `j`. -/
def below (m : Word) (j : Nat) : Nat := (List.range j).countP fun k => m.getLsbD k

/-- The words that write a vector register lane by lane from other registers (R106, R111, R117, R122), as a table. -/
def laneMove : Instr → Option (BitVec 6 × (Thread → Nat → BitVec 32))
  | .vsel vd va vb pm => some (vd, fun t j =>
      if (t.readP pm).getLsbD j then lane (t.readV va) j else lane (t.readV vb) j)
  | .viota vd pm => some (vd, fun t => masked t pm vd fun j => BitVec.ofNat 32 (below (t.readP pm) j))
  | .vshuf vd va vb pm => some (vd, fun t => masked t pm vd fun j =>
      lane (t.readV va) ((lane (t.readV vb) j).toNat % 64))
  | .vroti vd va n pm => some (vd, fun t => masked t pm vd fun j => lane (t.readV va) ((j + n.toNat) % 64))
  | .utov vd sa pm => some (vd, fun t => masked t pm vd fun _ => BitVec.ofNat 32 (uA t sa))
  | .vfabs vd va pm ty => some (vd, fun t => masked t pm vd fun j =>
      lane (t.readV va) j &&& (if ty = .f32 then 0x7FFFFFFF else 0x7FFF7FFF))
  | .vfneg vd va pm ty => some (vd, fun t => masked t pm vd fun j =>
      lane (t.readV va) j ^^^ (if ty = .f32 then 0x80000000 else 0x80008000))
  | _ => none

/-- The words that write a uniform register from lanes or a lane predicate (R121, R125), as a table. -/
def laneRead : Instr → Option (BitVec 5 × (Thread → Word))
  | .vtou sy vd pm low e => some (sy, fun t =>
      if low then zx (((List.range 64).find? fun j => (t.readP pm).getLsbD j).elim 0 fun j => lane (t.readV vd) j)
      else if (t.readP pm).getLsbD e.toNat then zx (lane (t.readV vd) e.toNat) else 0)
  | .ptou sy pn => some (sy, fun t => t.readP pn)
  | _ => none

/-- The words that write a uniform predicate from a lane predicate (R125), as a table. -/
def laneAny : Instr → Option (BitVec 3 × (Thread → Bool))
  | .pany qd pn => some (qd, fun t => (List.range 64).any fun j => (t.readP pn).getLsbD j)
  | .pall qd pn => some (qd, fun t => (List.range 64).all fun j => (t.readP pn).getLsbD j)
  | _ => none

/-- `u` is `t` but for the vector register `r` and FLAGS, which the indications are merged into (R102). -/
def WroteVF (t t' : Thread) (r : BitVec 6) (f : Nat → BitVec 32) (ind : Ind) : Prop :=
  (∀ k, k ≠ r → t'.readV k = t.readV k) ∧ (∀ j, j < 64 → lane (t'.readV r) j = f j) ∧
    t'.sys = { t.sys with flags := t.sys.flags ||| zx ind } ∧ { t' with v := t.v, sys := t.sys } = t

/-- The OR of the indications of the active lanes. -/
def anyInd (m : Word) (f : Nat → Ind) : Ind :=
  (List.range 64).foldr (fun j acc => (if m.getLsbD j then f j else 0) ||| acc) 0

/-- A floating-point operation on the elements of one lane: the elements' results put together, their indications OR'ed
(R100, R102). -/
def laneF (ty : FTyp) (f : Fmt → Nat → Nat → Nat → Nat × Ind) (t : Thread) (va vb vd : BitVec 6) (j : Nat) : BitVec 32 × Ind :=
  let n := typeBits ty
  let r := fun e => f (fmtOf ty) (elem n (t.readV va) j e) (elem n (t.readV vb) j e) (elem n (t.readV vd) j e)
  if ty = .f32 then (BitVec.ofNat 32 (r 0).1, (r 0).2)
  else (BitVec.ofNat 16 (r 1).1 ++ BitVec.ofNat 16 (r 0).1, (r 0).2 ||| (r 1).2)

/-- R108 and R110 as a table: destination, sources, mask, type, and the element's operation of va, vb and vd. -/
def floatLanes : Instr → Option (BitVec 6 × BitVec 6 × BitVec 6 × BitVec 3 × FTyp × (Fmt → Nat → Nat → Nat → Nat × Ind))
  | .vfadd vd va vb pm ty m => some (vd, va, vb, pm, ty, fun g x y _ => g.add m x y)
  | .vfsub vd va vb pm ty m => some (vd, va, vb, pm, ty, fun g x y _ => g.sub m x y)
  | .vfmul vd va vb pm ty m => some (vd, va, vb, pm, ty, fun g x y _ => g.mul m x y)
  | .vfdiv vd va vb pm ty m => some (vd, va, vb, pm, ty, fun g x y _ => g.div m x y)
  | .vfma vd va vb pm ty m => some (vd, va, vb, pm, ty, fun g x y z => g.fma m x y z false)
  | .vfms vd va vb pm ty m => some (vd, va, vb, pm, ty, fun g x y z => g.fma m x y z true)
  | .vfmin vd va vb pm ty _ => some (vd, va, vb, pm, ty, fun g x y _ => g.minMax false x y)
  | .vfmax vd va vb pm ty _ => some (vd, va, vb, pm, ty, fun g x y _ => g.minMax true x y)
  | .vfsqrt vd va pm ty m => some (vd, va, va, pm, ty, fun g x _ _ => g.sqrt m x)
  | .vfrsq vd va pm ty m => some (vd, va, va, pm, ty, fun g x _ _ => g.rsq m x)
  | .vfexp2 vd va pm ty m => some (vd, va, va, pm, ty, fun g x _ _ => g.exp2 m x)
  | .vflog2 vd va pm ty m => some (vd, va, va, pm, ty, fun g x _ _ => g.log2 m x)
  | _ => none

/-- The greatest active lane below `j`. -/
def lastBelow (m : Word) (j : Nat) : Option Nat := ((List.range j).filter fun k => m.getLsbD k).getLast?

/-- The pairwise tree of `vred` over the lanes `lo` to `lo + 2^n - 1`: the value, absent where no lane is active, and the
indications of its nodes (R123). -/
def redNode (op : RedOp) (m : Word) (v : VReg) : (n lo : Nat) → Option (BitVec 32) × Ind
  | 0, lo => (if m.getLsbD lo then some (lane v lo) else none, 0)
  | n + 1, lo =>
    let a := redNode op m v n lo
    let b := redNode op m v n (lo + 2 ^ n)
    match a.1, b.1 with
    | some x, some y => (some (redApply op x y).1, a.2 ||| b.2 ||| (redApply op x y).2)
    | none, y => (y, a.2 ||| b.2)
    | some x, none => (some x, a.2 ||| b.2)

end Sys2Proof.Claims

section
open Sys2Proof Sys2Proof.Machine Sys2Proof.Claims

/-- R104, R105 with R100 and R101: every integer lane operation writes each element of each active lane of v[vd] the low
bits of its exact value, keeps the inactive lanes, and changes nothing else. -/
def Obligations.IntegerLanes : Prop :=
  ∀ (s : State) (i : Issue) (t : Thread) (ins : Instr) (vd va vb : BitVec 6) (pm : BitVec 3) (n : Nat)
    (f : Nat → Nat → Nat → Int),
    s.current = some (i, t) → integerLanes ins = some (vd, va, vb, pm, n, f) →
    ∃ t', Lands s i.place (exec ins s) t' ∧ { t' with v := t.v } = t ∧ (∀ k, k ≠ vd → t'.readV k = t.readV k) ∧
      ∀ j, j < 64 →
        ((t.readP pm).getLsbD j = false → lane (t'.readV vd) j = lane (t.readV vd) j) ∧
        ((t.readP pm).getLsbD j = true → ∀ e, e < 32 / n →
          (elem n (t'.readV vd) j e : Int) = f n (elem n (t.readV va) j e) (elem n (t.readV vb) j e) % 2 ^ n)

/-- R112, integer compares: bit j of p[pd] is 1 exactly for the active lanes all of whose elements pass the test; a write to
p0 is discarded; nothing else changes. -/
def Sys2Proof.Claims.IntegerCompares : Prop :=
  ∀ (s : State) (i : Issue) (t : Thread) (ins : Instr) (pd : BitVec 3) (va vb : BitVec 6) (pm : BitVec 3) (n : Nat)
    (f : Nat → Nat → Nat → Bool),
    s.current = some (i, t) → integerTest ins = some (pd, va, vb, pm, n, f) →
    ∃ t', Lands s i.place (exec ins s) t' ∧ WroteP t t' pd fun j => (t.readP pm).getLsbD j &&
      (List.range (32 / n)).all fun e => f n (elem n (t.readV va) j e) (elem n (t.readV vb) j e)

/-- R113, R125: the lane-predicate operations and `utop` write all 64 bits of p[pd] (none for p0) and nothing else. -/
def Sys2Proof.Claims.LanePredicates : Prop :=
  ∀ (s : State) (i : Issue) (t : Thread) (ins : Instr) (pd : BitVec 3) (f : Thread → Nat → Bool),
    s.current = some (i, t) → lanePredicate ins = some (pd, f) →
    ∃ t', Lands s i.place (exec ins s) t' ∧ WroteP t t' pd (f t)

/-- R106, R111, R117, R122: the lane moves write v[vd] lane by lane as their tables say and nothing else. -/
def Sys2Proof.Claims.LaneMoves : Prop :=
  ∀ (s : State) (i : Issue) (t : Thread) (ins : Instr) (vd : BitVec 6) (f : Thread → Nat → BitVec 32),
    s.current = some (i, t) → laneMove ins = some (vd, f) →
    ∃ t', Lands s i.place (exec ins s) t' ∧ WroteV t t' vd (f t)

/-- R119, R118: `vcmprs` packs the active lanes to the low lanes and leaves the others; `vscan` writes each active lane the
combination of the running value of the active lane before it with its own, and merges the indications of those
combinations. -/
def Sys2Proof.Claims.PackAndScan : Prop :=
  ∀ (s : State) (i : Issue) (t : Thread) (vd va : BitVec 6) (pm : BitVec 3), s.current = some (i, t) →
    (∃ t', Lands s i.place (exec (.vcmprs vd va pm) s) t' ∧ { t' with v := t.v } = t ∧
      (∀ k, k ≠ vd → t'.readV k = t.readV k) ∧
      (∀ j, j < 64 → (t.readP pm).getLsbD j = true →
        lane (t'.readV vd) (below (t.readP pm) j) = lane (t.readV va) j) ∧
      ∀ j, j < 64 → below (t.readP pm) 64 ≤ j → lane (t'.readV vd) j = lane (t.readV vd) j) ∧
    ∀ op : ScanOp, ∃ t', Lands s i.place (exec (.vscan vd va pm op) s) t' ∧
      WroteVF t t' vd
        (masked t pm vd fun j => match lastBelow (t.readP pm) j with
          | none => lane (t.readV va) j
          | some k => (scanApply op (lane (t'.readV vd) k) (lane (t.readV va) j)).1)
        (anyInd (t.readP pm) fun j => match lastBelow (t.readP pm) j with
          | none => 0
          | some k => (scanApply op (lane (t'.readV vd) k) (lane (t.readV va) j)).2)

/-- R121, R124, R125: a lane or a lane predicate read into the uniform path; `vuni` also tells whether the active lanes
agree. -/
def Sys2Proof.Claims.LaneReads : Prop :=
  ∀ (s : State) (i : Issue) (t : Thread), s.current = some (i, t) →
    (∀ (ins : Instr) (sy : BitVec 5) (f : Thread → Word), laneRead ins = some (sy, f) →
      ∃ t', WroteS t t' sy (f t) ∧ Lands s i.place (exec ins s) t') ∧
    (∀ (ins : Instr) (qd : BitVec 3) (f : Thread → Bool), laneAny ins = some (qd, f) →
      ∃ t', WroteQ t t' qd (f t) ∧ Lands s i.place (exec ins s) t') ∧
    ∀ (sy : BitVec 5) (qd : BitVec 3) (vd : BitVec 6) (pm : BitVec 3),
      let x : BitVec 32 := ((List.range 64).find? fun j => (t.readP pm).getLsbD j).elim 0 fun j => lane (t.readV vd) j
      ∃ t1 t', WroteS t t1 sy (zx x) ∧
        WroteQ t1 t' qd ((List.range 64).all fun j => !(t.readP pm).getLsbD j || lane (t.readV vd) j == x) ∧
        Lands s i.place (exec (.vuni sy qd vd pm) s) t'

/-- R123: `vred` reduces the active lanes by the fixed pairwise tree, extends the result by its code, and merges the
indications of the tree's nodes. -/
def Sys2Proof.Claims.LaneReduction : Prop :=
  ∀ (s : State) (i : Issue) (t : Thread) (sy : BitVec 5) (vd : BitVec 6) (pm : BitVec 3) (op : RedOp),
    s.current = some (i, t) →
    ∃ t1 t', WroteS t t1 sy
        (let r := (redNode op (t.readP pm) (t.readV vd) 6 0).1.getD (redIdentity op)
         if op = .add ∨ op = .min ∨ op = .max then BitVec.ofInt 64 r.toInt else BitVec.ofNat 64 r.toNat) ∧
      t' = { t1 with sys := { t.sys with flags := t.sys.flags ||| zx (redNode op (t.readP pm) (t.readV vd) 6 0).2 } } ∧
      Lands s i.place (exec (.vred sy vd pm op) s) t'

/-- R101, R102, R107, R108, R110: a floating-point lane operation gives each active lane its elements' results, keeps the
inactive lanes, merges the active elements' indications into FLAGS, and changes nothing else. -/
def Obligations.FloatLanes : Prop :=
  ∀ (s : State) (i : Issue) (t : Thread) (ins : Instr) (vd va vb : BitVec 6) (pm : BitVec 3) (ty : FTyp)
    (f : Fmt → Nat → Nat → Nat → Nat × Ind),
    s.current = some (i, t) → floatLanes ins = some (vd, va, vb, pm, ty, f) →
    ∃ t', Lands s i.place (exec ins s) t' ∧
      WroteVF t t' vd (masked t pm vd fun j => (laneF ty f t va vb vd j).1)
        (anyInd (t.readP pm) fun j => (laneF ty f t va vb vd j).2)

end
namespace Sys2Proof.Claims
open Sys2Proof.Machine

/-- The real value of a number that is no NaN, infinities beyond every finite value. -/
def realOf : Machine.Num → ℚ
  | .nan _ => 0
  | .inf neg => if neg then -2 ^ 1000 else 2 ^ 1000
  | .zero _ => 0
  | .fin neg m e => (if neg then -1 else 1) * (m : ℚ) * (2 : ℚ) ^ e

/-- The test of `vfcmp` on one element pair (R112). -/
def floatTest (c : FCond) (x y : Machine.Num) : Prop :=
  match c with
  | .eq => (∀ b, x ≠ .nan b) ∧ (∀ b, y ≠ .nan b) ∧ realOf x = realOf y
  | .lt => (∀ b, x ≠ .nan b) ∧ (∀ b, y ≠ .nan b) ∧ realOf x < realOf y
  | .le => (∀ b, x ≠ .nan b) ∧ (∀ b, y ≠ .nan b) ∧ realOf x ≤ realOf y
  | .un => (∃ b, x = .nan b) ∨ ∃ b, y = .nan b

/-- Invalid of `vfcmp` on one element pair: for `.lt` and `.le` with any NaN, for `.eq` and `.un` with a signalling one
(R112). -/
def floatTestInvalid (c : FCond) (x y : Machine.Num) : Prop :=
  match c with
  | .lt | .le => (∃ b, x = .nan b) ∨ ∃ b, y = .nan b
  | .eq | .un => x = .nan true ∨ y = .nan true

/-- The number an element holds, by its type (R100, R275). -/
def elemNum (ty : FTyp) (v : VReg) (j e : Nat) : Machine.Num := (fmtOf ty).num (elem (typeBits ty) v j e)

/-- `u` is `t` but for FLAGS, which the indications are merged into. -/
def Flagged (t u : Thread) (ind : Ind) : Prop :=
  u = { t with sys := { t.sys with flags := t.sys.flags ||| zx ind } }

/-- One value lies before another in R281's order: as real numbers, −0 before +0. -/
def before (x y : Machine.Num) : Prop := realOf x < realOf y ∨ x = .zero true ∧ y = .zero false

/-- A finite number. -/
def finite (n : Machine.Num) : Prop := ∀ b, n ≠ .nan b ∧ n ≠ .inf b

/-- The value of a table's list position (R281). -/
def codeVal (t : Image) (k : Nat) : Machine.Num := t.value (t.list.getD k 0)

/-- What R284 asks of the list position `k` that a value `x`, which is no NaN, encodes to. Beyond the table's finite values it
is the infinity of that side, if it is asked for and listed, and else the outermost finite value. Within them it is the value
itself where it is listed; else a neighbour of `x` in the list, the nearest one, and of two equally near the one at the even
position. -/
def encodesTo (t : Image) (x : Machine.Num) (inf : Bool) (k : Nat) : Prop :=
  let n := t.list.length
  let v := codeVal t
  let same := fun j => ¬ before (v j) x ∧ ¬ before x (v j)
  let dist := fun j => |realOf x - realOf (v j)|
  k < n ∧
  ((∀ j < n, finite (v j) → realOf (v j) < realOf x) →
    (inf = true → (∃ j < n, v j = .inf false) → v k = .inf false) ∧
    (¬ (inf = true ∧ ∃ j < n, v j = .inf false) →
      finite (v k) ∧ ∀ j < n, finite (v j) → realOf (v j) ≤ realOf (v k))) ∧
  ((∀ j < n, finite (v j) → realOf x < realOf (v j)) →
    (inf = true → (∃ j < n, v j = .inf true) → v k = .inf true) ∧
    (¬ (inf = true ∧ ∃ j < n, v j = .inf true) →
      finite (v k) ∧ ∀ j < n, finite (v j) → realOf (v k) ≤ realOf (v j))) ∧
  ((∃ j < n, finite (v j) ∧ realOf x ≤ realOf (v j)) → (∃ j < n, finite (v j) ∧ realOf (v j) ≤ realOf x) →
    ((∃ j < n, same j) → same k) ∧
    ((∀ j < n, ¬ same j) →
      (∀ j < n, ¬ (before (v k) (v j) ∧ before (v j) x) ∧ ¬ (before x (v j) ∧ before (v j) (v k))) ∧
      (∀ j < n, dist k ≤ dist j) ∧
      ((∃ j < n, realOf (v j) ≠ realOf (v k) ∧ dist j = dist k) → k % 2 = 0)))

/-- The value of a uniform register with bits 2:0 cleared and 48 bits kept: a word's address (R86). -/
def wordAddr (x : Word) : Word := x &&& 0x0000FFFFFFFFFFF8

end Sys2Proof.Claims

section
open Sys2Proof Sys2Proof.Machine Sys2Proof.Claims

/-- R112, `vfcmp`: bit j of p[pd] is 1 exactly for the active lanes all of whose elements pass the test as real numbers; a
write to p0 is discarded; invalid alone is merged into FLAGS, when an active lane's element raises it. -/
def Sys2Proof.Claims.FloatCompares : Prop :=
  ∀ (s : State) (i : Issue) (t : Thread) (pd : BitVec 3) (va vb : BitVec 6) (pm : BitVec 3) (ty : FTyp) (c : FCond),
    s.current = some (i, t) →
    ∃ t1 t' b ind, WroteP t t1 pd b ∧ Flagged t1 t' ind ∧ Lands s i.place (exec (.vfcmp pd va vb pm ty c) s) t' ∧
      (∀ j, j < 64 → (b j = true ↔ (t.readP pm).getLsbD j = true ∧
        ∀ e, e < 32 / typeBits ty → floatTest c (elemNum ty (t.readV va) j e) (elemNum ty (t.readV vb) j e))) ∧
      (ind = 0 ∨ ind = indInvalid) ∧
      (ind = indInvalid ↔ ∃ j e, j < 64 ∧ e < 32 / typeBits ty ∧ (t.readP pm).getLsbD j = true ∧
        floatTestInvalid c (elemNum ty (t.readV va) j e) (elemNum ty (t.readV vb) j e))

/-- R114: a conversion writes each active lane of v[vd] its converted value, merges the active lanes' indications, and
changes nothing else. -/
def Sys2Proof.Claims.Conversions : Prop :=
  ∀ (s : State) (i : Issue) (t : Thread) (vd va vb : BitVec 6) (pm : BitVec 3), s.current = some (i, t) →
    (∀ c : CvtCode, ∃ t', Lands s i.place (exec (.vcvt vd va pm c) s) t' ∧
      WroteVF t t' vd (masked t pm vd fun j => (convertLane c (lane (t.readV va) j)).1)
        (anyInd (t.readP pm) fun j => (convertLane c (lane (t.readV va) j)).2)) ∧
    ∀ c : PairCode, ∃ t', Lands s i.place (exec (.vcvtPair vd va vb pm c) s) t' ∧
      WroteVF t t' vd (masked t pm vd fun j => (convertPair c (lane (t.readV va) j) (lane (t.readV vb) j)).1)
        (anyInd (t.readP pm) fun j => (convertPair c (lane (t.readV va) j) (lane (t.readV vb) j)).2)

/-- R114, the conversions to integers: the number is truncated (RZ), or taken to a nearest integer, an even one on a tie (RNE). One out
of range gives the nearest bound with invalid alone, as an infinity does; within range the integer is the result, with inexact exactly when
it differs from the number. A NaN gives 0 with invalid alone. -/
def Sys2Proof.Claims.ToInteger : Prop :=
  ∀ (lo hi : Int) (x : Machine.Num), lo ≤ 0 → 0 ≤ hi → hi < 2 ^ 64 → -2 ^ 64 < lo →
    (∀ r : RMode, (∀ b, x = .nan b → numToInt r lo hi x = (0, indInvalid)) ∧
      (∀ n : Bool, x = .inf n → numToInt r lo hi x = (if n = true then lo else hi, indInvalid)) ∧
      (∀ n, x = .zero n → numToInt r lo hi x = (0, 0))) ∧
    ∀ (n : Bool) m e, x = .fin n m e →
      (let z := numToInt .rz lo hi x
       let q := ⌊|realOf x|⌋ * (if n = true then -1 else 1)
       z = if q < lo then (lo, indInvalid) else if hi < q then (hi, indInvalid)
         else (q, if (q : ℚ) = realOf x then 0 else indInexact)) ∧
      ∃ q : Int, |(q : ℚ) - realOf x| ≤ 1 / 2 ∧ (|(q : ℚ) - realOf x| = 1 / 2 → q % 2 = 0) ∧
        numToInt .rne lo hi x = if q < lo then (lo, indInvalid) else if hi < q then (hi, indInvalid)
          else (q, if (q : ℚ) = realOf x then 0 else indInexact)

/-- R115: `vdec` gives each active lane the FP32 word of its code's table entry: sign, exponent, fraction and 13 zero bits.
No flag is raised. -/
def Sys2Proof.Claims.DecodeCodes : Prop :=
  ∀ (s : State) (i : Issue) (t : Thread) (vd va : BitVec 6) (pm : BitVec 3) (c4 t1 : Bool) (g : BitVec 2),
    s.current = some (i, t) →
    ∃ t', Lands s i.place (exec (.vdec vd va pm c4 t1 g) s) t' ∧
      WroteV t t' vd (masked t pm vd fun j =>
        let k := 64 * g.toNat + j
        let code := if c4 then (t.readV va).toNat / 2 ^ (4 * k) % 16 else (t.readV va).toNat / 2 ^ (8 * k) % 256
        BitVec.ofNat 32 ((s.tableOf i.place t c4 t1).entry code * 2 ^ 13))

/-- R116: `venc`. With an active NaN lane and no NaN code in the table the word traps TILE, sub-cause NOCODE, precisely, with
TRAPINFO a 1 for each such lane. Otherwise each active lane's code goes to byte j (code8) or nibble j (code4) of v[vd], every
other byte or nibble keeps its value, and the lanes' indications are merged into FLAGS. -/
def Sys2Proof.Claims.EncodeCodes : Prop :=
  ∀ (s : State) (i : Issue) (t : Thread) (vd va : BitVec 6) (pm : BitVec 3) (c4 t1 inf : Bool),
    s.current = some (i, t) →
    let img := s.tableOf i.place t c4 t1
    let nan := fun j => (t.readP pm).getLsbD j && fp32.isNaN (lane (t.readV va) j).toNat
    let code := fun j => img.encode (fp32.num (lane (t.readV va) j).toNat) inf
    (img.hasNaN = false → (∃ j < 64, nan j = true) →
      ∃ info : Word, (∀ j, j < 64 → info.getLsbD j = nan j) ∧
        exec (.venc vd va pm c4 t1 inf) s = .next ((s.raise i.place t (trapCause causeTile 5 false 0) i.pc info).stay)) ∧
    ((img.hasNaN = true ∨ ∀ j < 64, nan j = false) →
      ∃ t', Lands s i.place (exec (.venc vd va pm c4 t1 inf) s) t' ∧
        (∀ k, k ≠ vd → t'.readV k = t.readV k) ∧
        t'.sys = { t.sys with flags := t.sys.flags ||| zx (anyInd (t.readP pm) fun j => ((code j).map (·.2)).getD 0) } ∧
        { t' with v := t.v, sys := t.sys } = t ∧
        ∀ j, j < (if c4 then 512 else 256) →
          (t'.readV vd).toNat / 2 ^ ((if c4 then 4 else 8) * j) % 2 ^ (if c4 then 4 else 8) =
            if j < 64 ∧ (t.readP pm).getLsbD j = true ∧ (code j).isSome = true then
              ((code j).map (·.1)).getD 0 % 2 ^ (if c4 then 4 else 8)
            else (t.readV vd).toNat / 2 ^ ((if c4 then 4 else 8) * j) % 2 ^ (if c4 then 4 else 8))

/-- R284: the code that `venc` chooses for an FP32 value by a well-formed table. A NaN takes the NaN code, with invalid for a
signalling one. Any other value takes the code at the position that R284 chooses; overflow is raised for a value beyond the
finite ones of the table, but for an infinity that is asked for and listed; inexact exactly when the code's value differs
from it as a real number; nothing else is raised. -/
def Sys2Proof.Claims.EncodeChooses : Prop :=
  ∀ (t : Image) (p : BitVec 32) (inf : Bool), t.ok = true →
    let x := fp32.num p.toNat
    let n := t.list.length
    (∀ sg, x = .nan sg → t.encode x inf =
      if t.hasNaN = true then some (t.nanCode, if sg then indInvalid else 0) else none) ∧
    ((∀ sg, x ≠ .nan sg) → ∃ k ind, encodesTo t x inf k ∧ t.encode x inf = some (t.list.getD k 0, ind) ∧
      (ind &&& indInexact ≠ 0 ↔ realOf (codeVal t k) ≠ realOf x) ∧
      (ind &&& indOverflow ≠ 0 ↔
        ((∀ j < n, finite (codeVal t j) → realOf (codeVal t j) < realOf x) ∨
          ∀ j < n, finite (codeVal t j) → realOf x < realOf (codeVal t j)) ∧
        ¬ (inf = true ∧ codeVal t k = x)) ∧
      ind &&& ~~~(indInexact ||| indOverflow) = 0)

end
namespace Sys2Proof.Claims
open Sys2Proof.Machine

/-- The formats that Round narrows to (R275). -/
def isFormat (f : Fmt) : Prop := f = fp32 ∨ f = fp16 ∨ f = bf16 ∨ f = e8m10

/-- The formats of the vector lanes (R69). -/
def isLaneFormat (f : Fmt) : Prop := f = fp32 ∨ f = fp16 ∨ f = bf16

/-- A number that is no NaN does not exceed a real value. -/
def atMost (n : Machine.Num) (x : ℚ) : Prop :=
  match n with
  | .nan _ => False
  | .inf neg => neg = true
  | n => realOf n ≤ x

/-- A number that is no NaN is not below a real value. -/
def atLeast (n : Machine.Num) (x : ℚ) : Prop :=
  match n with
  | .nan _ => False
  | .inf neg => neg = false
  | n => x ≤ realOf n

/-- The least number that no finite value of a format rounds up to under RNE: (2 − 2^−(m+1))·2^B (R276). -/
def rneLimit (f : Fmt) : ℚ := (2 - (2 : ℚ) ^ (-((f.m : Int) + 1))) * 2 ^ f.bias

/-- What R276 asks of the value `y` that a pattern holds, for the exact nonzero value `x` and a mode: RDN the greatest value
not above x, RUP the least not below it, RZ the one of largest magnitude towards zero, RNE a nearest one, with an even
fraction on a tie, and an infinity exactly from the limit on. `p` is the pattern. -/
def roundsTo (f : Fmt) (r : RMode) (x : ℚ) (p : Nat) : Prop :=
  let y := f.num p
  let all := fun (P : Machine.Num → Prop) => ∀ q, q < 2 * f.signBit → (∀ b, f.num q ≠ .nan b) → P (f.num q)
  match r with
  | .rdn => atMost y x ∧ all fun z => atMost z x → realOf z ≤ realOf y
  | .rup => atLeast y x ∧ all fun z => atLeast z x → realOf y ≤ realOf z
  | .rz => finite y ∧ |realOf y| ≤ |x| ∧ all fun z => finite z → |realOf z| ≤ |x| → |realOf z| ≤ |realOf y|
  | .rne => if rneLimit f ≤ |x| then y = .inf (decide (x < 0))
      else finite y ∧ (all fun z => finite z → |realOf y - x| ≤ |realOf z - x|) ∧
        ((∃ q, q < 2 * f.signBit ∧ finite (f.num q) ∧ realOf (f.num q) ≠ realOf y ∧
          |realOf y - x| = |realOf (f.num q) - x|) → p % 2 = 0)

/-- Whether a mode rounds the magnitude of a value up (R276). -/
def roundsAway (r : RMode) (x : ℚ) : Prop := r = .rup ∧ 0 < x ∨ r = .rdn ∧ x < 0

/-- Whether the value rounded with an unbounded exponent exceeds the largest finite one (R276). -/
def overflows (f : Fmt) (r : RMode) (x : ℚ) : Prop :=
  (r = .rne → rneLimit f ≤ |x|) ∧ (roundsAway r x → (2 - (2 : ℚ) ^ (-(f.m : Int))) * 2 ^ f.bias < |x|) ∧
    (r ≠ .rne → ¬ roundsAway r x → (2 : ℚ) ^ (f.bias + 1) ≤ |x|)

/-- Whether the value rounded with an unbounded exponent is below the smallest normal one (R276). -/
def isTiny (f : Fmt) (r : RMode) (x : ℚ) : Prop :=
  let u := (2 : ℚ) ^ (-(f.bias : Int))
  (r = .rne → |x| < (2 - (2 : ℚ) ^ (-((f.m : Int) + 1))) * u) ∧ (roundsAway r x → |x| ≤ (2 - (2 : ℚ) ^ (-(f.m : Int))) * u) ∧
    (r ≠ .rne → ¬ roundsAway r x → |x| < 2 * u)

/-- What Round gives for an exact value (R107, R276): its pattern, with the sign of the value, and the indications inexact,
overflow and underflow; a zero takes the sign given and raises nothing. -/
def Rounded (f : Fmt) (r : RMode) (x : ℚ) (zeroNeg : Bool) (z : Nat × Ind) : Prop :=
  if x = 0 then z = (f.signed zeroNeg 0, 0)
  else
    let exact := finite (f.num z.1) ∧ realOf (f.num z.1) = x
    z.1 < 2 * f.signBit ∧ f.neg z.1 = decide (x < 0) ∧ roundsTo f r x z.1 ∧
      (z.2 &&& indInexact ≠ 0 ↔ ¬ exact) ∧ (z.2 &&& indOverflow ≠ 0 ↔ overflows f r x) ∧
      (z.2 &&& indUnderflow ≠ 0 ↔ ¬ exact ∧ isTiny f r x) ∧ z.2 &&& ~~~(indInexact ||| indOverflow ||| indUnderflow) = 0

/-- As `roundsTo`, for a real value that need not be rational, greater than 0 and below the largest finite value, or its
negative. -/
def roundsToReal (f : Fmt) (r : RMode) (x : ℝ) (p : Nat) : Prop :=
  let y : ℝ := realOf (f.num p)
  let all := fun (P : ℝ → Prop) => ∀ q, q < 2 * f.signBit → finite (f.num q) → P (realOf (f.num q))
  finite (f.num p) ∧ match r with
  | .rdn => y ≤ x ∧ all fun z => z ≤ x → z ≤ y
  | .rup => x ≤ y ∧ all fun z => x ≤ z → y ≤ z
  | .rz => |y| ≤ |x| ∧ all fun z => |z| ≤ |x| → |z| ≤ |y|
  | .rne => (all fun z => |y - x| ≤ |z - x|) ∧
      ((∃ q, q < 2 * f.signBit ∧ finite (f.num q) ∧ realOf (f.num q) ≠ realOf (f.num p) ∧
        |y - x| = |(realOf (f.num q) : ℝ) - x|) → p % 2 = 0)

/-- A NaN of one format carried to another: its sign and high fraction bits kept, and quiet (R107, R114). -/
def carriedNaN (f g : Fmt) (x : Nat) : Nat :=
  let fr := x % 2 ^ f.m
  let k := if g.m < f.m then fr / 2 ^ (f.m - g.m) else fr * 2 ^ (g.m - f.m)
  g.signed (f.neg x) (g.infMag + 2 ^ (g.m - 1) + k % 2 ^ (g.m - 1))

/-- An FP32 value narrowed to a format by RNE: its pattern and its indications (R114). -/
def Narrowed (g : Fmt) (x : BitVec 32) (z : Nat × Ind) : Prop :=
  (∀ sg, fp32.num x.toNat = .nan sg → z = (carriedNaN fp32 g x.toNat, if sg then indInvalid else 0)) ∧
  (∀ n, fp32.num x.toNat = .inf n → z = (g.signed n g.infMag, 0)) ∧
  (finite (fp32.num x.toNat) → Rounded g .rne (realOf (fp32.num x.toNat)) (fp32.neg x.toNat) z)

/-- The codes from FP32 to integers: mode and bounds (R70, R114). -/
def integerCodes : List (CvtCode × RMode × Int × Int) :=
  [(.f32i32, .rne, -2 ^ 31, 2 ^ 31 - 1), (.f32i32z, .rz, -2 ^ 31, 2 ^ 31 - 1), (.f32u32, .rne, 0, 2 ^ 32 - 1),
   (.f32u32z, .rz, 0, 2 ^ 32 - 1)]

/-- The codes from a half of a lane: its format and the half (R70, R114). -/
def halfCodes (x : BitVec 32) : List (CvtCode × Fmt × Nat) :=
  [(.f16l, fp16, x.toNat % 2 ^ 16), (.f16h, fp16, x.toNat / 2 ^ 16), (.bf16l, bf16, x.toNat % 2 ^ 16),
   (.bf16h, bf16, x.toNat / 2 ^ 16)]

end Sys2Proof.Claims

section
open Sys2Proof Sys2Proof.Machine Sys2Proof.Claims

/-- R276: Round of a nonzero exact value gives the value the mode chooses, with the sign of the exact value, and inexact
exactly when that value differs from it. -/
def Obligations.RoundChoosesByMode : Prop :=
  ∀ (f : Fmt) (r : RMode) (neg : Bool) (mant : Nat) (exp : Int), isFormat f → 0 < mant →
    let x : ℚ := (if neg then -1 else 1) * (mant : ℚ) * (2 : ℚ) ^ exp
    let z := f.round r neg mant exp
    z.1 < 2 * f.signBit ∧ f.neg z.1 = neg ∧ roundsTo f r x z.1 ∧
      (z.2 &&& indInexact ≠ 0 ↔ ¬ (finite (f.num z.1) ∧ realOf (f.num z.1) = x))

/-- R107, R110: NaN operands. A sum, difference, product, quotient, root, exponential or logarithm with a NaN operand gives
its first NaN operand quietened; invalid is raised exactly for a signalling one (and for 0 × ∞ with a NaN addend). A minimum
or maximum gives the other operand, or va's NaN quietened when both are NaNs. -/
def Sys2Proof.Claims.NaNOperands : Prop :=
  ∀ (f : Fmt) (r : RMode) (a b c : Nat), isLaneFormat f →
    let bad := fun p : Bool => if p then indInvalid else (0 : Ind)
    let zeroInf := (f.num a = .zero true ∨ f.num a = .zero false) ∧ (f.num b = .inf true ∨ f.num b = .inf false) ∨
      (f.num a = .inf true ∨ f.num a = .inf false) ∧ (f.num b = .zero true ∨ f.num b = .zero false)
    (f.isNaN a = true ∨ f.isNaN b = true →
      (let z := (f.quiet (if f.isNaN a then a else b), bad (f.isSNaN a || f.isSNaN b))
       f.add r a b = z ∧ f.sub r a b = z ∧ f.mul r a b = z ∧ f.div r a b = z) ∧
      ∀ big, f.minMax big a b =
        (if f.isNaN a && f.isNaN b then f.quiet a else if f.isNaN a then b else a, bad (f.isSNaN a || f.isSNaN b))) ∧
    (f.isNaN a = true →
      (let z := (f.quiet a, bad (f.isSNaN a))
       f.sqrt r a = z ∧ f.rsq r a = z ∧ f.exp2 r a = z ∧ f.log2 r a = z)) ∧
    ∀ neg, f.isNaN a = true ∨ f.isNaN b = true ∨ f.isNaN c = true →
      (f.fma r a b c neg).1 = f.quiet (if f.isNaN a then a else if f.isNaN b then b else c) ∧
      ((f.fma r a b c neg).2 = 0 ∨ (f.fma r a b c neg).2 = indInvalid) ∧
      ((f.fma r a b c neg).2 = indInvalid ↔
        f.isSNaN a = true ∨ f.isSNaN b = true ∨ f.isSNaN c = true ∨ zeroInf)

/-- R109: the special operands, each with its result and its flag, for operands that are no NaNs. -/
def Sys2Proof.Claims.SpecialOperands : Prop :=
  ∀ (f : Fmt) (r : RMode) (a b c : Nat), isLaneFormat f →
    f.isNaN a = false → f.isNaN b = false → f.isNaN c = false →
    let inv : Nat × Ind := (f.defaultNaN, indInvalid)
    let inf := fun n => f.signed n f.infMag
    (∀ n, f.num a = .inf n → f.num b = .inf (!n) → f.add r a b = inv) ∧
    (∀ n, f.num a = .inf n → f.num b = .inf n → f.sub r a b = inv) ∧
    (∀ n k, (f.num a = .zero n ∧ f.num b = .inf k) ∨ (f.num a = .inf n ∧ f.num b = .zero k) →
      f.mul r a b = inv ∧ ∀ neg, f.fma r a b c neg = inv) ∧
    (∀ p l neg, (f.num a).mul (f.num b) = some (.inf p) → f.num c = .inf l → p ≠ (l != neg) → f.fma r a b c neg = inv) ∧
    (∀ n k, (f.num a = .zero n ∧ f.num b = .zero k) ∨ (f.num a = .inf n ∧ f.num b = .inf k) → f.div r a b = inv) ∧
    (∀ n m e k, f.num a = .fin n m e → f.num b = .zero k → f.div r a b = (inf (n != k), indDivZero)) ∧
    (f.num a = .zero true → f.sqrt r a = (f.signed true 0, 0)) ∧
    (f.num a = .inf true ∨ (∃ m e, f.num a = .fin true m e) →
      f.sqrt r a = inv ∧ f.rsq r a = inv ∧ f.log2 r a = inv) ∧
    (∀ n, f.num a = .zero n → f.rsq r a = (inf n, indDivZero) ∧ f.log2 r a = (inf true, indDivZero) ∧
      f.exp2 r a = (f.bias * 2 ^ f.m, 0)) ∧
    (f.num a = .inf false → f.rsq r a = (0, 0) ∧ f.exp2 r a = (inf false, 0) ∧ f.log2 r a = (inf false, 0)) ∧
    (f.num a = .inf true → f.exp2 r a = (0, 0)) ∧
    (a = f.bias * 2 ^ f.m → f.log2 r a = (0, 0))

/-- R107, R108: a sum, difference, product, quotient or fused product of finite operands is the exact result rounded once by
the mode. An exact zero sum of like-signed zeros keeps their sign; any other is −0 under RDN and else +0. -/
def Sys2Proof.Claims.FiniteResults : Prop :=
  ∀ (f : Fmt) (r : RMode) (a b c : Nat), isLaneFormat f → finite (f.num a) → finite (f.num b) → finite (f.num c) →
    let x := realOf (f.num a)
    let y := realOf (f.num b)
    let w := realOf (f.num c)
    let zero := fun (p q : ℚ) (n k : Bool) => if p = 0 ∧ q = 0 ∧ n = k then n else decide (r = .rdn)
    Rounded f r (x + y) (zero x y (f.neg a) (f.neg b)) (f.add r a b) ∧
    Rounded f r (x - y) (zero x y (f.neg a) (!f.neg b)) (f.sub r a b) ∧
    Rounded f r (x * y) (f.neg a != f.neg b) (f.mul r a b) ∧
    (y ≠ 0 → Rounded f r (x / y) (f.neg a != f.neg b) (f.div r a b)) ∧
    ∀ neg : Bool, Rounded f r (x * y + if neg then -w else w) (zero (x * y) w (f.neg a != f.neg b) (f.neg c != neg))
      (f.fma r a b c neg)

/-- R107: infinite operands that R109 does not list give an infinity, or, as a divisor, a zero, and raise nothing. -/
def Sys2Proof.Claims.InfiniteOperands : Prop :=
  ∀ (f : Fmt) (r : RMode) (a b c : Nat), isLaneFormat f →
    f.isNaN a = false → f.isNaN b = false → f.isNaN c = false →
    let inf := fun n : Bool => (f.signed n f.infMag, (0 : Ind))
    (∀ n, f.num a = .inf n → f.num b ≠ .inf (!n) → f.add r a b = inf n ∧ f.add r b a = inf n) ∧
    (∀ n, f.num a = .inf n → f.num b ≠ .inf n → f.sub r a b = inf n ∧ f.sub r b a = inf (!n)) ∧
    (∀ n, f.num a = .inf n → (∀ k, f.num b ≠ .zero k) →
      f.mul r a b = inf (n != f.neg b) ∧ f.mul r b a = inf (n != f.neg b)) ∧
    (∀ n, f.num a = .inf n → finite (f.num b) →
      f.div r a b = inf (n != f.neg b) ∧ f.div r b a = (f.signed (n != f.neg b) 0, 0)) ∧
    (∀ p neg, (f.num a).mul (f.num b) = some (.inf p) → f.num c ≠ .inf (p == neg) → f.fma r a b c neg = inf p) ∧
    (∀ k neg, finite (f.num a) → finite (f.num b) → f.num c = .inf k → f.fma r a b c neg = inf (k != neg)) ∧
    (f.num a = .inf false → f.sqrt r a = inf false)

/-- R108: the square root and its reciprocal of a positive finite operand are the exact value rounded once; inexact alone may be
raised, exactly when the result differs. -/
def Sys2Proof.Claims.RootResults : Prop :=
  ∀ (f : Fmt) (r : RMode) (a : Nat), isLaneFormat f → finite (f.num a) → 0 < realOf (f.num a) →
    let x := realOf (f.num a)
    let s := f.sqrt r a
    let q := f.rsq r a
    s.1 < f.signBit ∧ roundsToReal f r (Real.sqrt (x : ℝ)) s.1 ∧
      s.2 = (if realOf (f.num s.1) * realOf (f.num s.1) = x then 0 else indInexact) ∧
    q.1 < f.signBit ∧ roundsToReal f r (1 / Real.sqrt (x : ℝ)) q.1 ∧
      q.2 = (if realOf (f.num q.1) * realOf (f.num q.1) * x = 1 then 0 else indInexact)

/-- R110: the minimum or maximum of two numbers is one of them, before or after which the other does not lie, −0 before +0;
nothing is raised. -/
def Sys2Proof.Claims.MinMaxResults : Prop :=
  ∀ (f : Fmt) (a b : Nat), isLaneFormat f → f.isNaN a = false → f.isNaN b = false →
    (∃ z, f.minMax false a b = (z, 0) ∧ (z = a ∨ z = b) ∧ ¬ before (f.num a) (f.num z) ∧ ¬ before (f.num b) (f.num z)) ∧
    ∃ z, f.minMax true a b = (z, 0) ∧ (z = a ∨ z = b) ∧ ¬ before (f.num z) (f.num a) ∧ ¬ before (f.num z) (f.num b)

/-- R108, R109: the exponential of an integer and the logarithm of a power of two are that power and that integer, rounded. Any
other exponential or logarithm of a finite operand is the rounding, in value and in flags, of a value that differs from the exact one by
less than 2^−30 of it, or of 1 for a logarithm below 1, and it is inexact; that the model's own value is far finer, and correctly rounded,
is log 9. -/
def Sys2Proof.Claims.PowerAndLog : Prop :=
  ∀ (f : Fmt) (r : RMode) (a : Nat), isLaneFormat f → finite (f.num a) → realOf (f.num a) ≠ 0 →
    let x := realOf (f.num a)
    (∀ k : ℤ, x = k → Rounded f r ((2 : ℚ) ^ k) false (f.exp2 r a)) ∧
    (∀ k : ℤ, x = (2 : ℚ) ^ k → Rounded f r k false (f.log2 r a)) ∧
    (f.bias + 1 ≤ x → f.exp2 r a = (if r = .rz ∨ r = .rdn then f.infMag - 1 else f.infMag, indOverflow ||| indInexact)) ∧
    ((∀ k : ℤ, x ≠ k) → ∃ y : ℚ, |(y : ℝ) - (2 : ℝ) ^ (x : ℝ)| < (2 : ℝ) ^ (x : ℝ) / 2 ^ 30 ∧
      Rounded f r y false (f.exp2 r a) ∧ (f.exp2 r a).2 &&& indInexact ≠ 0) ∧
    (0 < x → (∀ k : ℤ, x ≠ (2 : ℚ) ^ k) → ∃ y : ℚ, |(y : ℝ) - Real.logb 2 (x : ℝ)| < max 1 |Real.logb 2 (x : ℝ)| / 2 ^ 30 ∧
      Rounded f r y false (f.log2 r a) ∧ (f.log2 r a).2 &&& indInexact ≠ 0)

/-- R114: the value and the indications of each conversion code: integers rounded to FP32 by RNE, FP32 to integers by the
code's mode and bounds, halves exactly, and pairs narrowed by RNE. -/
def Sys2Proof.Claims.ConversionCodes : Prop :=
  (∀ x : BitVec 32,
    (let z := convertLane .i32f32 x
     Rounded fp32 .rne x.toInt false (z.1.toNat, z.2)) ∧
    (let z := convertLane .u32f32 x
     Rounded fp32 .rne x.toNat false (z.1.toNat, z.2)) ∧
    (∀ e ∈ integerCodes, convertLane e.1 x =
      (let z := numToInt e.2.1 e.2.2.1 e.2.2.2 (fp32.num x.toNat)
       (BitVec.ofInt 32 z.1, z.2))) ∧
    ∀ e ∈ halfCodes x,
      let z := convertLane e.1 x
      let g := e.2.1
      if g.isNaN e.2.2 then z = (BitVec.ofNat 32 (carriedNaN g fp32 e.2.2), if g.isSNaN e.2.2 then indInvalid else 0)
      else fp32.isNaN z.1.toNat = false ∧ realOf (fp32.num z.1.toNat) = realOf (g.num e.2.2) ∧
        fp32.neg z.1.toNat = g.neg e.2.2 ∧ z.2 = 0) ∧
  ∀ (c : PairCode) (x y : BitVec 32),
    let g := if c = .toF16 then fp16 else bf16
    let z := convertPair c x y
    ∃ i j : Ind, z.2 = i ||| j ∧ Narrowed g x (z.1.toNat % 2 ^ 16, i) ∧ Narrowed g y (z.1.toNat / 2 ^ 16, j)

end
/-! ### Control: traps, branches, loops, system registers, fences (R86 to R97, R142, R338 to R341) -/

namespace Sys2Proof.Claims
open Sys2Proof.Machine

/-- Bits 47:3 of an address, the part that loop addresses keep and compare (R88, R90). -/
def loopBits (x : Word) : Nat := x.toNat / 8 % 2 ^ 45

/-- The loop-back check of R90 on the loop registers, and the next PC, of a word at `pc` that falls through. -/
def loopCheck (r : SysRegs) (pc : Word) : SysRegs × Word :=
  let zero (r : SysRegs) : SysRegs × Word :=
    if r.lc0 ≠ 0 ∧ loopBits pc = loopBits r.le0 then
      if 1 < r.lc0.toNat then ({ r with lc0 := r.lc0 - 1 }, r.ls0) else ({ r with lc0 := 0 }, pc + 8)
    else (r, pc + 8)
  if r.lc1 ≠ 0 ∧ loopBits pc = loopBits r.le1 then
    if 1 < r.lc1.toNat then ({ r with lc1 := r.lc1 - 1 }, r.ls1) else zero { r with lc1 := 0 }
  else zero r

/-- R76's table: the index of each register of the thread or its place, and what `mfs` reads. -/
def sysTable (s : State) (p : Place) (t : Thread) : List (Nat × Word) :=
  [(0x00, t.sys.iter), (0x01, w64 t.ctx),
   (0x02, w64 ((p.die / 24) * 2 ^ 35 + (p.die % 24) * 2 ^ 30 + p.die * 2 ^ 14 + p.core * 2 ^ 10 + p.slot * 2 ^ 6 + (s.slot p).gen)),
   (0x03, t.sys.flags), (0x04, t.sys.lc0), (0x05, t.sys.ls0), (0x06, t.sys.le0), (0x07, t.sys.lc1), (0x08, t.sys.ls1),
   (0x09, t.sys.le1), (0x0A, t.sys.tseq), (0x0B, t.sys.tdone), (0x0C, t.sys.cwp[0]), (0x0D, t.sys.cwp[1]),
   (0x0E, t.sys.cwp[2]), (0x0F, t.sys.cwp[3]), (0x10, t.sys.trapvec), (0x11, t.sys.trapcause), (0x12, t.sys.trappc),
   (0x13, t.sys.trapinfo), (0x15, t.sys.vlive), (0x16, w64 (lookupD 1024 t.ctx (s.core p.die p.core).hodcap)),
   (0x17, t.sys.lat), (0x18, t.sys.hops), (0x19, s.ring.lapReg s.cycle), (0x1A, s.ring.posReg s.cycle),
   (0x1B, s.ring.lenReg s.cycle), (0x1C, if (s.die p.die).solver then 1 else 0), (0x1D, t.sys.rndmode),
   (0x1E, t.sys.regeps), (0x20, w64 s.cycle), (0x21, w64 (s.die p.die).headroom.toNat)] ++
  (List.range 32).map fun k => (0x40 + k, t.sys.history.toList.getD k 0)

/-- The writable registers of the thread and the bits that each keeps (R9, R76, R77, R88, R103). -/
def writableMask : List (Nat × Word) :=
  [(0x00, 0xFFFFFFFF), (0x03, 0x7F), (0x04, 0xFFFFFFFFFFFFFFFF), (0x05, 0x0000FFFFFFFFFFF8), (0x06, 0x0000FFFFFFFFFFF8),
   (0x07, 0xFFFFFFFFFFFFFFFF), (0x08, 0x0000FFFFFFFFFFF8), (0x09, 0x0000FFFFFFFFFFF8), (0x10, 0xFFFFFFFFFFFFFFFF),
   (0x11, 0x1FFFFFFFFFFFF1FF), (0x12, 0xFFFFFFFFFFFFFFFF), (0x13, 0xFFFFFFFFFFFFFFFF), (0x15, 0xFFFFFFFFFFFFFFFF),
   (0x1D, 3), (0x1E, 0x7FFFFFFF)]

/-- An unanswered access that a release waits for: every class but loads and stamped loads, and for a scratchpad only one of a
core that the course names (R159). -/
def releaseWaits (o : Out) (course : BitVec 128) (masks : List (BitVec 16)) : Prop :=
  o.cls ≠ .load ∧ o.cls ≠ .lda ∧ o.cls ≠ .ldas ∧ ∀ c, o.core = some c → courseNames course masks o.dest c = true

/-- An unanswered access that an acquire waits for: loads, atomics and stamped loads (R159). -/
def acquireWaits (o : Out) : Prop := o.cls = .load ∨ o.cls = .atomic ∨ o.cls = .lda ∨ o.cls = .ldas

end Sys2Proof.Claims

section
open Sys2Proof Sys2Proof.Machine Sys2Proof.Claims

/-- R338, R341, R350, R357: a trap that is to be raised for a thread. In a PREEMPT handler it is recorded and the thread is
switched out; at a handler's first word it is fatal; while R45 is incomplete it waits; with no usable TRAPVEC, or a handler
word that cannot be fetched, it is fatal, but for DEBUG, which leaves the slot halted and management told (log 21); otherwise
the thread enters its handler and nothing else of the machine changes. -/
def Obligations.TrapEntry : Prop :=
  ∀ (s : State) (p : Place) (t : Thread) (cause pc info : Word), s.thread? p = some t →
    let c : BitVec 8 := bits cause 0 8
    (CanEnter s p t → ∃ t', Entered s.cycle t t' cause pc info ∧ OnlyThread s (s.raise p t cause pc info) p ∧
      (s.raise p t cause pc info).thread? p = some t' ∧ (s.raise p t cause pc info).cur = s.cur) ∧
    (t.priv = false → t.firstWord = true → s.raise p t cause pc info = s.fatal p t c pc info) ∧
    (t.priv = false → t.firstWord = false → t.settled = false →
      s.raise p t cause pc info = s.setThread p { t with pending := some ⟨cause, pc, info⟩ }) ∧
    (t.priv = false → t.firstWord = false → t.settled = true → vecUsable t.sys.trapvec = false → c ≠ causeDebug →
      s.raise p t cause pc info = s.fatal p t c pc info) ∧
    (t.priv = false → t.firstWord = false → t.settled = true → vecUsable t.sys.trapvec = true →
      ∀ e, s.fetch p.die t.ctx t.sys.trapvec = .error e → c ≠ causeDebug →
        s.raise p t cause pc info = s.fatal p t e t.sys.trapvec t.sys.trapvec) ∧
    (t.priv = false → t.firstWord = false → t.settled = true → c = causeDebug →
      (vecUsable t.sys.trapvec = false ∨ ∃ e, s.fetch p.die t.ctx t.sys.trapvec = .error e) →
      s.raise p t cause pc info =
        (s.setThread p { t with halted := true, debugDue := false, pending := none }).tell (.slotStuck p)) ∧
    (t.priv = true → s.raise p t cause pc info = (s.faultRecord t.ctx 4 c (s.widAt p) pc info).switchOut p t)

/-- R341, R375: a fatal fault of a thread with nothing pending frees its slot, advances its generation, sets its context's bit
in FAULTED, and puts a record with the writer id, cause, TRAPPC and TRAPINFO into its context's fault log. Memory and every
other slot stay as they are. -/
def Sys2Proof.Claims.FatalFault : Prop :=
  ∀ (s : State) (p : Place) (t : Thread) (c : BitVec 8) (pc info : Word), s.thread? p = some t → t.ctx < 64 →
    (s.slot p).heldAway = [] →
    let u := s.fatal p t c pc info
    u.thread? p = none ∧ (u.slot p).gen = nextGen (s.slot p).gen ∧ (∀ r, r ≠ p → u.slot r = s.slot r) ∧
      (∀ a, u.readByte a = s.readByte a) ∧ u.bar0.faulted.getLsbD t.ctx = true ∧
      (t.lateFaults = [] → ∃ old new : Nat × List FaultRec,
        (s.bar0.faults.find? fun e => e.1 = t.ctx).elim (0, []) (·.2) = old ∧
        (u.bar0.faults.find? fun e => e.1 = t.ctx).map (·.2) = some new ∧ new.1 = old.1 + 1 ∧
        new.2.getLast? = some ⟨w64 (c.toNat * 2 ^ 56 + t.ctx * 2 ^ 50 + 2 ^ 40 + (s.widAt p).toNat), pc, info, w64 s.cycle⟩)

/-- R86: `br` and `call` go to the sum of the word's address and the offset, modulo 2^48, `call` writing pc + 8 to its link
register; `jr` goes to its register's address, or traps ALIGN or PROT precisely with that address. -/
def Sys2Proof.Claims.Branches : Prop :=
  ∀ (s : State) (i : Issue) (t : Thread), s.current = some (i, t) →
    let target := fun imm : BitVec 32 => BitVec.ofNat 64 ((((i.pc.toNat : Int) + imm.toInt) % 2 ^ 48).toNat)
    (∀ imm, LandsAt s i (exec (.br imm) s) t (target imm)) ∧
    (∀ sd imm, ∃ t', WroteS t t' sd (i.pc + 8) ∧ LandsAt s i (exec (.call sd imm) s) t' (target imm)) ∧
    ∀ sa, let a := t.readS sa
      (a.toNat % 8 ≠ 0 → exec (.jr sa) s = .next (s.precise i t causeAlign a)) ∧
      (a.toNat % 8 = 0 → 2 ^ 48 ≤ a.toNat → exec (.jr sa) s = .next (s.precise i t causeProt a)) ∧
      (a.toNat % 8 = 0 → a.toNat < 2 ^ 48 → LandsAt s i (exec (.jr sa) s) t a)

/-- R89: `loop` traps LOOP with LEn while loop n is active; otherwise it sets LSn, LEn and LCn, and goes past the body when
the count is 0. Only those three registers change. -/
def Sys2Proof.Claims.LoopWord : Prop :=
  ∀ (s : State) (i : Issue) (t : Thread) (sa : BitVec 5) (imm : BitVec 32), s.current = some (i, t) →
    i.pc.toNat % 8 = 0 → i.pc.toNat < 2 ^ 48 → imm.toNat % 8 = 0 → 0 < imm.toInt → i.pc.toNat + imm.toNat + 8 < 2 ^ 48 →
    let c := t.readS sa
    let go := fun (n : Bool) (r : SysRegs) =>
      if c = 0 then LandsAt s i (exec (.loop n sa imm) s) { t with sys := r } (i.pc + zx imm + 8)
      else Lands s i.place (exec (.loop n sa imm) s) { t with sys := r }
    (t.sys.lc0 ≠ 0 → exec (.loop false sa imm) s = .next (s.precise i t causeLoop t.sys.le0)) ∧
    (t.sys.lc0 = 0 → go false { t.sys with lc0 := c, ls0 := i.pc + 8, le0 := i.pc + zx imm }) ∧
    (t.sys.lc1 ≠ 0 → exec (.loop true sa imm) s = .next (s.precise i t causeLoop t.sys.le1)) ∧
    (t.sys.lc1 = 0 → go true { t.sys with lc1 := c, ls1 := i.pc + 8, le1 := i.pc + zx imm })

/-- R90, R43: the end of a word's issue cycle. A word that has trapped, left or waits leaves its thread as it is. A word that
changes the flow sends its thread to its target with no loop check. Any other word's next PC and loop registers are those of
the loop-back check. Each window the word belongs to counts it; an operation of LA 0 that the word opened keeps what that
changed, so that a precise trap from its home finds the word unissued, while one that an `eret` has resumed goes on keeping what its own
word changed (R8, R45). -/
def Sys2Proof.Claims.IssueEnds : Prop :=
  ∀ (s : State) (i : Issue) (t : Thread) (ws : List Nat), s.current = some (i, t) →
    let u := s.finishIssue ws
    let tags := t.tags.map fun g =>
      if g.req ∈ ws then { g with count := g.count - 1 }
      else if g.la = 0 ∧ g.frozen = false ∧ g.pc = i.pc ∧ g.undo = none then { g with undo := some (t.sys.lc0, t.sys.lc1, ws) }
      else g
    u.cur = none ∧ OnlyThread s u i.place ∧
    (i.moved = true → u.thread? i.place = some t) ∧
    (i.moved = false → ∀ a, i.next = some a →
      u.thread? i.place = some { t with tags := tags, firstWord := false, image := [], reissue := none, pc := a }) ∧
    (i.moved = false → i.next = none →
      u.thread? i.place = some { t with
        tags := tags, firstWord := false, image := [], reissue := none, sys := (loopCheck t.sys i.pc).1,
        pc := (loopCheck t.sys i.pc).2 })

/-- R76, R93: `mfs` of every listed register writes its value to s[sd]; of TRAPSAVE outside a PREEMPT handler it traps PRIV
with TRAPINFO 0x14, inside one it reads the save block's address. -/
def Sys2Proof.Claims.ReadSystemRegister : Prop :=
  ∀ (s : State) (i : Issue) (t : Thread) (sd : BitVec 5), s.current = some (i, t) →
    (s.slot i.place).gen < 64 → i.place.slot < 16 → i.place.core < 16 → i.place.die < 672 →
    (∀ e ∈ sysTable s i.place t, ∃ t', WroteS t t' sd e.2 ∧ Lands s i.place (exec (.mfs sd (BitVec.ofNat 32 e.1)) s) t') ∧
    (t.priv = false → exec (.mfs sd 0x14) s = .next (s.precise i t causePriv 0x14)) ∧
    (t.priv = true → ∃ t', WroteS t t' sd t.sys.trapsave ∧ Lands s i.place (exec (.mfs sd 0x14) s) t')

/-- R76, R94, R9: `mts` writes the bits its register keeps, and no other register of the thread; of TRAPSAVE outside a PREEMPT
handler it traps PRIV; HODCAP is kept per context on a core, between 1 and 1,024 (R236). -/
def Sys2Proof.Claims.WriteSystemRegister : Prop :=
  ∀ (s : State) (i : Issue) (t : Thread) (sa : BitVec 5), s.current = some (i, t) →
    let x := t.readS sa
    (∀ e ∈ writableMask, ∃ t', Lands s i.place (exec (.mts sa (BitVec.ofNat 32 e.1)) s) t' ∧ { t' with sys := t.sys } = t ∧
      s.readSys i.place t' e.1 = x &&& e.2 ∧ ∀ k, k ≠ e.1 → s.readSys i.place t' k = s.readSys i.place t k) ∧
    (t.priv = false → exec (.mts sa 0x14) s = .next (s.precise i t causePriv 0x14)) ∧
    (t.priv = true → Lands s i.place (exec (.mts sa 0x14) s) { t with sys := { t.sys with trapsave := x } }) ∧
    ∃ u, exec (.mts sa 0x16) s = .next u ∧ { u with cores := s.cores } = s ∧
      (∀ d c, (d, c) ≠ (i.place.die, i.place.core) → u.core d c = s.core d c) ∧
      { u.core i.place.die i.place.core with hodcap := (s.core i.place.die i.place.core).hodcap } =
        s.core i.place.die i.place.core ∧
      (∀ k, k ≠ t.ctx → lookupD 1024 k (u.core i.place.die i.place.core).hodcap =
        lookupD 1024 k (s.core i.place.die i.place.core).hodcap) ∧
      1 ≤ lookupD 1024 t.ctx (u.core i.place.die i.place.core).hodcap ∧
      lookupD 1024 t.ctx (u.core i.place.die i.place.core).hodcap ≤ 1024 ∧
      (1 ≤ x.toNat → x.toNat ≤ 1024 → lookupD 1024 t.ctx (u.core i.place.die i.place.core).hodcap = x.toNat)

/-- R95, R96, R338, R339: `trapi` enters the handler with SWTRAP, TRAPPC its own address and TRAPINFO its sign-extended
operand. `eret` outside PRIV leaves the handler state and goes to TRAPPC, its open windows counting again, or traps ALIGN or
PROT with TRAPPC's value; TRAPCAUSE, TRAPPC and TRAPINFO stay. Stamped loads withdrawn at trap entry are sent again, at the
head of their send lists and in their order (R45); one whose address no longer translates ends in that trap (log 64). -/
def Sys2Proof.Claims.SoftwareTrapAndReturn : Prop :=
  ∀ (s : State) (i : Issue) (t : Thread), s.current = some (i, t) →
    (∀ imm : BitVec 32, CanEnter s i.place t → ∃ t',
      Entered s.cycle t t' 0x0E i.pc (BitVec.ofInt 64 imm.toInt) ∧ LandsStaying s i (exec (.trapi imm) s) t') ∧
    (t.priv = false →
      let a := t.sys.trappc
      (a.toNat % 8 ≠ 0 → exec .eret s = .next (s.precise i t causeAlign a)) ∧
      (a.toNat % 8 = 0 → 2 ^ 48 ≤ a.toNat → exec .eret s = .next (s.precise i t causeProt a)) ∧
      (a.toNat % 8 = 0 → a.toNat < 2 ^ 48 → (∀ g ∈ t.tags, g.state ≠ .withdrawn) →
        LandsAt s i (exec .eret s) { t with hs := false, tags := t.tags.map fun g => { g with frozen := false } } a) ∧
      (a.toNat % 8 = 0 → a.toNat < 2 ^ 48 → (t.tags.map (·.req)).Nodup →
        let at_ := fun g : Tag => s.translate i.place.die t.ctx .stampedLoad g.addr
        let again := (t.tags.filter fun g => g.state = .withdrawn).filterMap fun g => match at_ g with
          | .ok pa _ => some (s.request i.place t g.req pa (.lda g.addr pa g.iter g.lag g.wait))
          | .fail _ => none
        ∃ u, exec .eret s = .next u ∧ u.cur = some { i with next := some a } ∧
          { u with slots := s.slots, cur := s.cur, sends := s.sends, outs := s.outs } = s ∧
          (∀ r, r ≠ i.place → u.slot r = s.slot r) ∧ u.sends = again ++ s.sends ∧
          u.outs.Perm (s.outs ++ again.map fun r => r.out .lda r.body.vaddr) ∧
          u.thread? i.place = some { t with hs := false, tags := t.tags.map fun g =>
            { g with frozen := false, state := if g.state = .withdrawn then
                (match at_ g with
                  | .ok _ _ => .waiting
                  | .fail c => .trapped c g.addr)
              else g.state } }))

/-- R142, R159, R97, R343: `fence` holds its thread exactly until every earlier access it waits for is answered; `yield` until
16 cycles have passed and every other ready slot has issued; `halt` debug-halts it, so that its slot is not ready. -/
def Sys2Proof.Claims.FenceYieldHalt : Prop :=
  ∀ (s : State) (i : Issue) (t : Thread), s.current = some (i, t) →
    (∀ (k : FenceKind) (e : BitVec 5), ∃ t' u, { t' with hold := t.hold } = t ∧ Lands s i.place (exec (.fence k e) s) t' ∧
      exec (.fence k e) s = .next u ∧
      ∀ w : State, w.holdOver i.place t' = true ↔ ∀ o ∈ w.outs, o.owner = t.uid → o.req < s.nextId →
        (k ≠ .acq → ¬ releaseWaits o (s.courseOf i.place.die t.ctx e.toNat).1 (s.courseOf i.place.die t.ctx e.toNat).2) ∧
        (k ≠ .rel → ¬ acquireWaits o)) ∧
    (∃ others, Lands s i.place (exec .yield s) { t with hold := .yielded (s.cycle + 16) others } ∧
      ∀ k, k ∈ others ↔ k < 16 ∧ k ≠ i.place.slot ∧ s.ready ⟨i.place.die, i.place.core, k⟩ = true) ∧
    Lands s i.place (exec .halt s) { t with halted := true } ∧
    ∀ u, exec .halt s = .next u → u.ready i.place = false

end
/-! ### Memory words as they are issued (R12, R13, R43, R127 to R141, R151) -/

namespace Sys2Proof.Claims
open Sys2Proof.Machine

/-- One request, its class, and the virtual address it is known by until it is answered. -/
abbrev Sent := Req × OutClass × Word

/-- The outcome is a next state in which the requests `rs` stand at the tail of their send list in order, each kept until its
answer is delivered, the next number is used, and the thread is `t'`; nothing else of the machine differs, and no byte of
memory does. -/
def Sends (s : State) (p : Place) (o : Host.Outcome State Fault Refusal) (t' : Thread) (rs : List Sent) : Prop :=
  ∃ u, o = .next u ∧ u.thread? p = some t' ∧ u.cur = s.cur ∧ u.nextId = s.nextId + 1 ∧
    u.sends = s.sends ++ rs.map (fun r => r.1) ∧ u.outs = s.outs ++ rs.map (fun r => r.1.out r.2.1 r.2.2) ∧
    (∀ r, r ≠ p → u.slot r = s.slot r) ∧ { u.slot p with thread := (s.slot p).thread } = s.slot p ∧
    { u with slots := s.slots, nextId := s.nextId, sends := s.sends, outs := s.outs } = s ∧
    ∀ a, u.readByte a = s.readByte a

/-- The request of a thread at `p` for the home of a physical address: to the die whose memory the address is, numbered and
named by the issuer (R131, R149, R151). `turns` tells whether it is performed only after the word's earlier ones (R98). -/
def AsksHome (s : State) (p : Place) (t : Thread) (pa : Nat) (turns : Bool) (body : ReqBody) (r : Req) : Prop :=
  r.req = s.nextId ∧ r.owner = t.uid ∧ r.wid = s.widAt p ∧ r.ctx = t.ctx ∧ r.src = p.die ∧ r.srcCore = p.core ∧
    r.dest = paHome pa ∧ r.core = paOwner pa ∧ r.engine = false ∧ r.retries = 0 ∧ r.notBefore = none ∧
    r.ordered = turns ∧ r.zeroes = false ∧ r.body = body

/-- The thread has opened one operation: its window is `la` words, nothing of it has come, it is not frozen, and its
destinations are as given. `now` tells whether the next word waits until it has been performed, whatever its window (R44).
No register of the thread differs (R43). -/
def Opened (s : State) (i : Issue) (t t' : Thread) (now : Bool) (la parts : Nat) (vd : Option (BitVec 6 × Word)) (sds : List (BitVec 5)) : Prop :=
  ∃ g : Tag, t'.tags = t.tags ++ [g] ∧ { t' with tags := t.tags } = t ∧ g.req = s.nextId ∧ g.pc = i.pc ∧ g.la = la ∧
    g.count = la ∧ g.frozen = false ∧ g.state = .waiting ∧ g.parts = parts ∧ g.sds = sds ∧ g.u = sds.map (fun _ => 0) ∧
    g.isLda = false ∧ g.image = false ∧ g.now = now ∧ g.fault = none ∧ (match vd with
      | some (r, m) => g.hasV = true ∧ g.vd = r ∧ g.lanes = m
      | none => g.hasV = false)

/-- One element of an access passes its checks, and lies at the element's physical address (R129). -/
def Passes (s : State) (i : Issue) (t : Thread) (a : Access) (size : Nat) (x : Nat × Word) (e : Elem) : Prop :=
  e.lane = x.1 ∧ e.vaddr = x.2 ∧ e.size = size ∧ ∃ leaf, s.check i.place.die t.ctx a x.2 size = .ok e.paddr leaf

/-- The sum of a register and a signed offset, wrapping (R127). -/
def plus (t : Thread) (sa : BitVec 5) (off : Int) : Word := BitVec.ofInt 64 (uA t sa + off)

/-- The active lanes in ascending order, each with its address (R127, R131). -/
def perLane (t : Thread) (pm : BitVec 3) (f : Nat → Word) : List (Nat × Word) :=
  (List.range 64).filterMap fun j => if (t.readP pm).getLsbD j then some (j, f j) else none

/-- The bytes of a uniform access (R127). -/
def uBytes (w4 : Bool) : Nat := if w4 then 4 else 8

/-- The bytes of an element (R71). -/
def eBytes : ESize → Nat
  | .s4 => 4
  | .s2 => 2
  | .s1 => 1

/-- A load: what it is checked as, its element size, its window, its elements, its vector destination and mask, and its
uniform destinations. -/
structure LoadForm where
  access : Access
  size : Nat
  la : Nat
  elems : List (Nat × Word)
  vec : Option (BitVec 6 × Word)
  sds : List (BitVec 5)

/-- The loads (R98, R127, R133, R134, R232). -/
def loadForm (t : Thread) : Instr → Option LoadForm
  | .ld sd sa la w4 imm => some ⟨.load, uBytes w4, la.toNat, [(0, plus t sa imm.toInt)], none, [sd]⟩
  | .nld s1 sd la off => some ⟨.nodeLoad, 8, la.toNat, [(0, plus t s1 off.toInt)], none, [sd]⟩
  | .vld vd sa pm la off => some ⟨.load, 4, la.toNat, perLane t pm fun j => plus t sa (off.toInt + 4 * j),
      some (vd, t.readP pm), []⟩
  | .vlds vd sa sx pm la z off => some ⟨.load, eBytes z, la.toNat,
      perLane t pm fun j => plus t sa (off.toInt + j * sA t sx), some (vd, t.readP pm), []⟩
  | .vgath vd sa vb pm la z off => some ⟨.load, eBytes z, la.toNat,
      perLane t pm fun j => plus t sa (off.toInt + (lane (t.readV vb) j).toInt), some (vd, t.readP pm), []⟩
  | _ => none

/-- A store: what it is checked as, its element size, its elements, and each element's value. -/
structure StoreForm where
  access : Access
  size : Nat
  elems : List (Nat × Word)
  value : Nat → Nat

/-- The stores (R127, R133, R134, R232). -/
def storeForm (t : Thread) : Instr → Option StoreForm
  | .st sa sb w4 imm => some ⟨.store, uBytes w4, [(0, plus t sa imm.toInt)], fun _ => uA t sb % 2 ^ (8 * uBytes w4)⟩
  | .nst s1 s2 off => some ⟨.nodeStore, 8, [(0, plus t s1 off.toInt)], fun _ => uA t s2⟩
  | .vst vd sa pm off => some ⟨.store, 4, perLane t pm fun j => plus t sa (off.toInt + 4 * j),
      fun j => (lane (t.readV vd) j).toNat⟩
  | .vsts vd sa sx pm z off => some ⟨.store, eBytes z, perLane t pm fun j => plus t sa (off.toInt + j * sA t sx),
      fun j => (lane (t.readV vd) j).toNat % 2 ^ (8 * eBytes z)⟩
  | .vscat vd sa vb pm z off => some ⟨.store, eBytes z,
      perLane t pm fun j => plus t sa (off.toInt + (lane (t.readV vb) j).toInt),
      fun j => (lane (t.readV vd) j).toNat % 2 ^ (8 * eBytes z)⟩
  | _ => none

/-- The bytes that one group of elements stores, little-endian, later elements overwriting earlier ones (R4, R135). -/
def storedBytes (f : Nat → Nat) (g : List Elem) : List (Nat × Byte) :=
  g.flatMap fun e => (List.range e.size).map fun k => (e.paddr + k, BitVec.ofNat 8 (f e.lane / 2 ^ (8 * k)))

/-- The atomics (R137): operation, destination, address register, operand, window, size and offset. -/
def atomicForm : Instr → Option (AtomicOp × BitVec 5 × BitVec 5 × BitVec 5 × Nat × Nat × Int)
  | .aadd sd sa sb la w4 imm => some (.add, sd, sa, sb, la.toNat, uBytes w4, imm.toInt)
  | .amin sd sa sb la w4 imm => some (.min, sd, sa, sb, la.toNat, uBytes w4, imm.toInt)
  | .amax sd sa sb la w4 imm => some (.max, sd, sa, sb, la.toNat, uBytes w4, imm.toInt)
  | .aand sd sa sb la w4 imm => some (.and, sd, sa, sb, la.toNat, uBytes w4, imm.toInt)
  | .aor sd sa sb la w4 imm => some (.or, sd, sa, sb, la.toNat, uBytes w4, imm.toInt)
  | .axch sd sa sb la w4 imm => some (.xch, sd, sa, sb, la.toNat, uBytes w4, imm.toInt)
  | .acas sd sa sb la w4 imm => some (.cas, sd, sa, sb, la.toNat, uBytes w4, imm.toInt)
  | _ => none

end Sys2Proof.Claims

section
open Sys2Proof Sys2Proof.Machine Sys2Proof.Claims

/-- R131: the elements of an access in groups: no element is lost or made, each group's elements lie in one aligned block
of 256 bytes and in ascending order, no two groups share a block, and the groups stand in order of their first elements. -/
def Sys2Proof.Claims.GroupsPartition : Prop :=
  ∀ es : List Elem,
    (groupsOf es).flatten.Perm es ∧
    (∀ g ∈ groupsOf es, g ≠ [] ∧ g.Sublist es ∧ ∀ e ∈ g, e.paddr / 256 = groupPa g / 256) ∧
    (groupsOf es).Pairwise (fun g h => groupPa g / 256 ≠ groupPa h / 256) ∧
    ((groupsOf es).filterMap List.head?).Sublist es

/-- R127, R129 to R134, R232, R43, R44: a load. With no active lane nothing happens. The first element that fails its checks traps
precisely with that element's address. A load whose lowest element lies in another lamp die's scratchpad sends its thread
there to issue the word again. Otherwise it opens one operation and sends one request for each group of its elements; a load
that issues again after it has migrated its thread is performed before the next word, whatever its LA. -/
def Sys2Proof.Claims.LoadsIssue : Prop :=
  ∀ (s : State) (i : Issue) (t : Thread) (ins : Instr) (f : LoadForm), s.current = some (i, t) → loadForm t ins = some f →
    (f.elems = [] → exec ins s = .next s) ∧
    (∀ pre l va post c es, f.elems = pre ++ (l, va) :: post → List.Forall₂ (Passes s i t f.access f.size) pre es →
      s.check i.place.die t.ctx f.access va f.size = .fail c → exec ins s = .next (s.precise i t c va)) ∧
    (∀ e es, List.Forall₂ (Passes s i t f.access f.size) f.elems (e :: es) →
      (paSpace e.paddr = 1 ∧ paHome e.paddr ≠ i.place.die →
        ∃ t', { t' with hold := t.hold, migration := t.migration } = t ∧ t'.hold = .migrate ∧
          t'.migration = some ⟨paHome e.paddr, paCore e.paddr, i.pc, t.sys.lc0, t.sys.lc1, .waiting⟩ ∧ LandsStaying s i (exec ins s) t') ∧
      (¬ (paSpace e.paddr = 1 ∧ paHome e.paddr ≠ i.place.die) →
        ∃ (t' : Thread) (rs : List (List Elem × Req)), Sends s i.place (exec ins s) t' (rs.map fun r => (r.2, .load, groupAddr r.1)) ∧
          Opened s i t t' (decide (t.reissue = some i.pc)) f.la (groupsOf (e :: es)).length f.vec f.sds ∧ rs.map (·.1) = groupsOf (e :: es) ∧
          ∀ r ∈ rs, AsksHome s i.place t (groupPa r.1) false (.load r.1) r.2))

/-- R127, R129, R131, R133 to R135, R232: a store. The first element that fails its checks traps precisely with that element's
address, and nothing is stored. Otherwise one posted request for each group of its elements is sent; it holds the bytes to
store, and no register of the thread differs. -/
def Sys2Proof.Claims.StoresIssue : Prop :=
  ∀ (s : State) (i : Issue) (t : Thread) (ins : Instr) (f : StoreForm), s.current = some (i, t) → storeForm t ins = some f →
    (∀ pre l va post c es, f.elems = pre ++ (l, va) :: post → List.Forall₂ (Passes s i t f.access f.size) pre es →
      s.check i.place.die t.ctx f.access va f.size = .fail c → exec ins s = .next (s.precise i t c va)) ∧
    (∀ es, List.Forall₂ (Passes s i t f.access f.size) f.elems es →
      ∃ rs : List (List Elem × Req), Sends s i.place (exec ins s) t (rs.map fun r => (r.2,
          if paSpace (groupPa r.1) = 1 ∧ (paHome (groupPa r.1), paCore (groupPa r.1)) ≠ (i.place.die, i.place.core) then
            OutClass.remoteStore else OutClass.store, groupAddr r.1)) ∧
        rs.map (·.1) = groupsOf es ∧
        ∀ r ∈ rs, AsksHome s i.place t (groupPa r.1) false (.store (groupAddr r.1) (storedBytes f.value r.1)) r.2)

/-- R137, R129, R43: an atomic traps precisely when its checks fail; otherwise it opens an operation on its destination and
sends one request with its operand and, for `acas`, the value compared with, both read at issue. -/
def Sys2Proof.Claims.AtomicsIssue : Prop :=
  ∀ (s : State) (i : Issue) (t : Thread) (ins : Instr) (op : AtomicOp) (sd sa sb : BitVec 5) (la size : Nat) (off : Int),
    s.current = some (i, t) → atomicForm ins = some (op, sd, sa, sb, la, size, off) →
    let a := plus t sa off
    (∀ c, s.check i.place.die t.ctx .atomic a size = .fail c → exec ins s = .next (s.precise i t c a)) ∧
    (∀ pa leaf, s.check i.place.die t.ctx .atomic a size = .ok pa leaf →
      ∃ t' r, Sends s i.place (exec ins s) t' [(r, .atomic, a)] ∧ Opened s i t t' false la 1 none [sd] ∧
        AsksHome s i.place t pa false (.atomic op size a pa (BitVec.ofNat 64 (uA t sb % 2 ^ (8 * size)))
          (BitVec.ofNat 64 (uA t sd % 2 ^ (8 * size)))) r)

/-- R12, R13, R139, R140, R182: the stamped words trap precisely when their checks fail; otherwise `lda` and `ldas` open an
operation, `sta` and `stad` mark their thread as one that has made a stamped store, and each sends one request. -/
def Sys2Proof.Claims.StampedIssue : Prop :=
  ∀ (s : State) (i : Issue) (t : Thread), s.current = some (i, t) →
    let stamp := fun r : BitVec 5 => BitVec.ofNat 32 (if r = 0 then t.sys.iter.toNat else uA t r)
    (∀ vd sa sx sy la wait lag, let a := t.readS sa
      (∀ c, s.check i.place.die t.ctx .stampedLoad a 256 = .fail c →
        exec (.lda vd sa sx sy la wait lag) s = .next (s.precise i t c a)) ∧
      (∀ pa leaf, s.check i.place.die t.ctx .stampedLoad a 256 = .ok pa leaf → ∃ t' r g,
        Sends s i.place (exec (.lda vd sa sx sy la wait lag) s) t' [(r, .lda, a)] ∧
        AsksHome s i.place t pa false (.lda a pa (BitVec.ofNat 32 (uA t sx)) lag wait) r ∧
        t'.tags = t.tags ++ [g] ∧ { t' with tags := t.tags } = t ∧ g.req = s.nextId ∧ g.pc = i.pc ∧ g.count = la.toNat ∧
        g.frozen = false ∧ g.state = .waiting ∧ g.parts = 1 ∧ g.hasV = true ∧ g.vd = vd ∧ g.lanes = BitVec.allOnes 64 ∧
        g.sds = [sy])) ∧
    (∀ sa sy la, let a := t.readS sa
      (∀ c, s.check i.place.die t.ctx .stampedLoad a 256 = .fail c →
        exec (.ldas sa sy la) s = .next (s.precise i t c a)) ∧
      (∀ pa leaf, s.check i.place.die t.ctx .stampedLoad a 256 = .ok pa leaf → ∃ t' r,
        Sends s i.place (exec (.ldas sa sy la) s) t' [(r, .ldas, a)] ∧ Opened s i t t' false la.toNat 1 none [sy] ∧
        AsksHome s i.place t pa false (.ldas a pa) r)) ∧
    (∀ vd sa sx off, let a := plus t sa off.toInt
      (∀ c, s.check i.place.die t.ctx .stampedStore a 256 = .fail c →
        exec (.sta vd sa sx off) s = .next (s.precise i t c a)) ∧
      (∀ pa leaf, s.check i.place.die t.ctx .stampedStore a 256 = .ok pa leaf → ∃ r,
        Sends s i.place (exec (.sta vd sa sx off) s) { t with stampedNow := true } [(r, .stamped, a)] ∧
        AsksHome s i.place t pa false (.sta a pa (stamp sx) (t.readV vd)) r)) ∧
    (∀ vd sa sx pm off, let a := plus t sa off.toInt
      (∀ c, s.check i.place.die t.ctx .stampedStore a 256 = .fail c →
        exec (.stad vd sa sx pm off) s = .next (s.precise i t c a)) ∧
      (∀ pa leaf, s.check i.place.die t.ctx .stampedStore a 256 = .ok pa leaf → ∃ r,
        Sends s i.place (exec (.stad vd sa sx pm off) s) { t with stampedNow := true } [(r, .stamped, a)] ∧
        AsksHome s i.place t pa false (.stad a pa (stamp sx) (t.readV vd) (t.readP pm)) r))

/-- R98: `regset` with an empty mask does nothing; with a base that is not a multiple of 8 it traps ALIGN with the base; its
first failing element traps precisely; one whose lowest word lies in another lamp die's scratchpad sends its thread there to
issue it again; otherwise it opens one operation with LA 0 whose destinations are the masked registers in ascending order,
register j from base + 8j, and its words are performed in that order. -/
def Sys2Proof.Claims.RegisterSetIssue : Prop :=
  ∀ (s : State) (i : Issue) (t : Thread) (sa : BitVec 5) (mask : BitVec 32), s.current = some (i, t) → mask.getLsbD 0 = false →
    let rs := (List.range 32).filter fun k => mask.getLsbD k
    let elems := (List.range rs.length).map fun k => (k, plus t sa (8 * rs.getD k 0))
    (mask = 0 → exec (.regset sa mask) s = .next s) ∧
    (mask ≠ 0 → uA t sa % 8 ≠ 0 → exec (.regset sa mask) s = .next (s.precise i t causeAlign (t.readS sa))) ∧
    (mask ≠ 0 → uA t sa % 8 = 0 →
      (∀ pre l va post c es, elems = pre ++ (l, va) :: post → List.Forall₂ (Passes s i t .load 8) pre es →
        s.check i.place.die t.ctx .load va 8 = .fail c →
        exec (.regset sa mask) s = .next (s.precise i t c va)) ∧
      (∀ e es, List.Forall₂ (Passes s i t .load 8) elems (e :: es) → paSpace e.paddr = 1 → paHome e.paddr ≠ i.place.die →
        ∃ t', { t' with hold := t.hold, migration := t.migration } = t ∧ t'.hold = .migrate ∧
          t'.migration = some ⟨paHome e.paddr, paCore e.paddr, i.pc, t.sys.lc0, t.sys.lc1, .waiting⟩ ∧
          LandsStaying s i (exec (.regset sa mask) s) t') ∧
      (∀ e es, List.Forall₂ (Passes s i t .load 8) elems (e :: es) →
        ¬ (paSpace e.paddr = 1 ∧ paHome e.paddr ≠ i.place.die) →
        ∃ (t' : Thread) (qs : List (List Elem × Req)), Sends s i.place (exec (.regset sa mask) s) t' (qs.map fun r => (r.2, .load, groupAddr r.1)) ∧
          Opened s i t t' (decide (t.reissue = some i.pc)) 0 (groupsOf (e :: es)).length none (rs.map (BitVec.ofNat 5)) ∧ qs.map (·.1) = groupsOf (e :: es) ∧
          ∀ r ∈ qs, AsksHome s i.place t (groupPa r.1) true (.load r.1) r.2))

end
/-! ### Translation and the kinds of page (R22, R128, R129, R359 to R361) -/

namespace Sys2Proof.Claims
open Sys2Proof.Machine

/-- A bit of an entry. -/
def bitOf (e : Word) (n : Nat) : Bool := e.toNat / 2 ^ n % 2 = 1

/-- The rows of R128's table. -/
inductive PageKind where
  | plain | stamped | stampedOutside | net | ringsrc | executable | scratchpad | host
  deriving DecidableEq, Repr

/-- The row of a page with at most one of X, RINGSRC, NET and STAMPED (bits 57 to 60), translating to a space. -/
def pageKind (e : Word) (space : Nat) : PageKind :=
  if bitOf e 60 then (if space = 0 then .stamped else .stampedOutside)
  else if bitOf e 59 then .net
  else if bitOf e 58 then .ringsrc
  else if bitOf e 57 then .executable
  else if space = 1 then .scratchpad
  else if space = 2 then .host
  else .plain

/-- R128's table; the accesses to nodes need a NET page (R201, R232), and a fetch only X (R87). The host's memory, space 2, takes
plain loads and stores alone (R246). -/
def kindAdmits (space : Nat) : Access → PageKind → Bool
  | .load, k => k != .stampedOutside
  | .store, k => k == .plain || k == .scratchpad || k == .host
  | .atomic, k => k == .plain || k == .scratchpad
  | .stampedLoad, k => k == .stamped
  | .stampedStore, k => k == .stamped
  | .nodeLoad, k => k == .net && space != 2
  | .nodeStore, k => k == .net && space != 2
  | .nodeName, k => k == .net
  | .fetch, _ => space != 2

/-- The permission bit of R361's table: R is bit 55, W 56, X 57. -/
def neededBit : Access → Option Nat
  | .load | .stampedLoad | .nodeLoad => some 55
  | .store | .atomic | .stampedStore | .nodeStore => some 56
  | .nodeName => none
  | .fetch => some 57

/-- Whether an entry is malformed at a level whose leaf maps `size` bytes (R360, R361). That bit 61 of a pointer is not looked at
is the model's choice (log 24). -/
def Malformed (e : Word) (level size : Nat) : Prop :=
  let address := e.toNat / 2 ^ 12 % 2 ^ 40 * 4096
  e.toNat / 2 ^ 52 % 8 ≠ 0 ∨ e.toNat % 2 ^ 6 ≠ 0 ∨
  (bitOf e 62 = false ∧ (level = 3 ∨ ∃ n, 55 ≤ n ∧ n ≤ 60 ∧ bitOf e n = true)) ∨
  (bitOf e 60 = true ∧ bitOf e 59 = true) ∨ (bitOf e 60 = true ∧ bitOf e 58 = true) ∨
  (bitOf e 59 = true ∧ bitOf e 58 = true) ∨ (bitOf e 56 = true ∧ bitOf e 57 = true) ∨
  (bitOf e 62 = true ∧ bitOf e 61 = false ∧ address % size ≠ 0) ∨
  (bitOf e 62 = true ∧ bitOf e 61 = true ∧ address % (size / 16) ≠ 0)

/-- The levels of R359's table: the first bit of the index, its entries, and the bytes a leaf maps. -/
def levelRow : Nat → Nat × Nat × Nat
  | 0 => (34, 16384, 2 ^ 34)
  | 1 => (30, 16, 2 ^ 30)
  | 2 => (21, 512, 2 ^ 21)
  | _ => (16, 32, 2 ^ 16)

end Sys2Proof.Claims

section
open Sys2Proof Sys2Proof.Machine Sys2Proof.Claims

/-- R22, R127 to R129, R353, R361: the checks of one element. A misaligned address fails with ALIGN, one above 48 bits with
PROT, one without a leaf with the walk's cause. With a leaf that has at most one of X, RINGSRC, NET and STAMPED (both STAMPED
and X: the model's choice, log 82), the access passes exactly if the physical address exists, lies in
the context's partition where it is a scratchpad's, the page has the permission bit, and R128's table admits it; else it fails
with PROT. -/
def Sys2Proof.Claims.AccessChecks : Prop :=
  ∀ (s : State) (die ctx : Nat) (a : Access) (va : Word) (n : Nat),
    (va.toNat % n ≠ 0 → s.check die ctx a va n = .fail causeAlign) ∧
    (va.toNat % n = 0 → 2 ^ 48 ≤ va.toNat → s.check die ctx a va n = .fail causeProt) ∧
    (va.toNat % n = 0 → va.toNat < 2 ^ 48 →
      (∀ c, s.leafOf die ctx va.toNat = .fail c → s.check die ctx a va n = .fail c) ∧
      (∀ e base size, s.leafOf die ctx va.toNat = .leaf e base size →
        [57, 58, 59, 60].countP (fun k => bitOf e k) ≤ 1 →
        let pa := s.leafAddr ctx e (va.toNat - base)
        s.check die ctx a va n =
          if paValid pa = true ∧ (paSpace pa = 1 → s.partitionOk ctx pa = true) ∧ (∀ k, neededBit a = some k → bitOf e k = true) ∧
              kindAdmits (paSpace pa) a (pageKind e (paSpace pa)) = true then .ok pa e
          else .fail causeProt))

/-- R359, R360, R361: one level of a walk reads its entry at table + 8 x index. Outside plinth memory it fails with PROT, on
an uncorrectable error with MCHECK; an entry with V = 0 fails with PAGE, a malformed one with PROT; a leaf ends the walk with
its page; a pointer leads to the next level's table, whatever its bit 61 (the model's choice, log 24). -/
def Sys2Proof.Claims.WalkLevels : Prop :=
  ∀ (s : State) (va level table : Nat), va < 2 ^ 48 → level < 4 →
    let row := levelRow level
    let at_ := table + 8 * (va / 2 ^ row.1 % row.2.1)
    let e := s.read64 at_
    let r := s.walkFrom va (4 - level) table
    (¬ (paSpace at_ = 0 ∧ paValid at_ = true) → r = .fail causeProt) ∧
    (paSpace at_ = 0 → paValid at_ = true → s.badRange at_ 8 = true → r = .fail causeMcheck) ∧
    (paSpace at_ = 0 → paValid at_ = true → s.badRange at_ 8 = false →
      (bitOf e 63 = false → r = .fail causePage) ∧
      (bitOf e 63 = true → Malformed e level row.2.2 → r = .fail causeProt) ∧
      (bitOf e 63 = true → ¬ Malformed e level row.2.2 → bitOf e 62 = true →
        r = .leaf e (va - va % row.2.2) row.2.2) ∧
      (bitOf e 63 = true → ¬ Malformed e level row.2.2 → bitOf e 62 = false →
        r = s.walkFrom va (3 - level) (e.toNat / 2 ^ 12 % 2 ^ 40 * 4096)))

end
/-! ### The ordering machine (R12, R13, R131, R137 to R142, R149 to R156, R175 to R178) -/

namespace Sys2Proof.Claims
open Sys2Proof.Machine

/-- `x` is the first element of `l` with property `P`; the others are `pre` before it and `post` after it. -/
def FirstOf {α : Type} (P : α → Prop) (l pre : List α) (x : α) (post : List α) : Prop :=
  l = pre ++ x :: post ∧ P x ∧ ∀ y ∈ pre, ¬ P y

/-- The serial difference of two stamps (R6). -/
def stampDiff (a b : BitVec 32) : Int := ((a.toNat : Int) - b.toNat).bmod (2 ^ 32)

/-- The last of the bytes written to an address, if one is. -/
def lastAt (bs : List (Nat × Byte)) (a : Nat) : Option Byte := (bs.reverse.find? fun b => b.1 = a).map (·.2)

/-- The answer to a request at its home; it carries the links that the request crossed and the cycles it spent on them, and the cycle
on which it leaves (R321). -/
def reply (s : State) (r : Req) (b : RespBody) : Resp :=
  ⟨r.req, r.owner, r.dest, r.src, r.hops, r.lat, s.cycle, r.body.vaddr, b, false⟩

/-- The head of a home's arrival queue is performed: it is taken, its block has had its step of the cycle, the answers are
appended, and the rest of the machine is as `u` says but nothing outside memory, errors, sidebands, monitors and what management
is told differs. -/
def Performs (s : State) (e : Nat) (pre post : List Req) (r : Req) (o : Host.Outcome State Fault Refusal) (as : List Resp) (u : State) : Prop :=
  o = .next u ∧ u.arrivals = pre ++ post ∧ u.resps = s.resps ++ as ∧ u.stepped = r.block :: s.stepped ∧
    { u with arrivals := s.arrivals, resps := s.resps, mem := s.mem, errors := s.errors, side := s.side, dies := s.dies,
             mgmt := s.mgmt, stepped := s.stepped } = s ∧
    (∀ d, d ≠ e → u.die d = s.die d) ∧ { u.die e with monitor := (s.die e).monitor } = s.die e

/-- No byte of memory, no sideband and no monitor differs. -/
def MemorySame (s u : State) (e : Nat) : Prop :=
  (∀ a, u.readByte a = s.readByte a) ∧ (∀ a, u.sideband a = s.sideband a) ∧ (u.die e).monitor = (s.die e).monitor

/-- R137's table, on values of `n` bytes. -/
def atomicValue (op : AtomicOp) (n old b cmp : Nat) : Nat :=
  match op with
  | .add => (old + b) % 2 ^ (8 * n)
  | .min => if sE (8 * n) old ≤ sE (8 * n) b then old else b
  | .max => if sE (8 * n) b ≤ sE (8 * n) old then old else b
  | .and => old &&& b
  | .or => old ||| b
  | .xch => b
  | .cas => if old = cmp then b else old

/-- The block and its stamp as an answer, or MCHECK where the block holds an uncorrectable error (R146, R154). -/
def blockReply (s : State) (va : Word) (pa : Nat) : RespBody :=
  if s.badRange pa 256 = true then .trap 0 causeMcheck va
  else .block (BitVec.ofNat 2048 (s.readNat pa 256)) (BitVec.ofNat 32 ((s.sideband pa).toNat))

/-- Some request with a property is sent and not performed: on its way to its home, or answered "retry" with the answer on its
way back. -/
def OnItsWay (s : State) (P : Req → Prop) : Prop :=
  (∃ q ∈ s.chans ++ s.arrivals, P q) ∨ ∃ x ∈ s.resps, ∃ q, x.body = .retry q ∧ P q

/-- Whether a monitor entry stands for a request. -/
def Monitored (s : State) (owner req : Nat) : Prop := ∃ d ∈ s.dies, ∃ m ∈ d.2.monitor, m.owner = owner ∧ m.req = req

/-- R152: an earlier wait-mode `lda` of the thread to the same home is sent, and its acceptance not delivered. -/
def WaitAhead (s : State) (r : Req) : Prop :=
  OnItsWay s (fun q => q.owner = r.owner ∧ q.dest = r.dest ∧ q.req < r.req ∧ ∃ a b c d, q.body = .lda a b c d true) ∨
  ∃ o ∈ s.outs, o.owner = r.owner ∧ o.dest = r.dest ∧ o.req < r.req ∧ o.cls = .lda ∧ o.accepted = false ∧ Monitored s r.owner o.req

/-- R152, R184: an earlier request of the thread has still to be performed: it is not sent, or on its way, or in a core's inbound
log and no store, or a wait whose acceptance is not delivered; or a clear notice is due to the thread's id. -/
def StampedHeld (s : State) (r : Req) : Prop :=
  (∃ q ∈ s.sends, q.owner = r.owner ∧ q.req < r.req) ∨ OnItsWay s (fun q => q.owner = r.owner ∧ q.req < r.req) ∨
  (∃ q, LogItem.req q ∈ s.logged ∧ q.owner = r.owner ∧ q.req < r.req ∧ (∀ a b, q.body ≠ .store a b) ∧ ∀ a b, q.body ≠ .merge a b) ∨
  (∃ n, n < r.req ∧ Monitored s r.owner n ∧ ¬ ∃ o ∈ s.outs, o.owner = r.owner ∧ o.req = n ∧ o.accepted = true) ∨
  widGen r.wid ∈ (s.slot (widPlace r.wid)).noticed

/-- R203, R229: the zeroing of a node that a `free` of the same die posted before is still to go before a request that touches the
node. -/
def ZeroAhead (s : State) (r : Req) : Prop :=
  ∃ z ∈ s.sends ++ (if r.engine = true then s.chans ++ s.arrivals else []), z.zeroes = true ∧ z.src = r.src ∧ z.dest = r.dest ∧
    z.req < r.req ∧ z.owner ≠ r.owner ∧ r.touches z.node = true

/-- R98, R162: the groups of the request's word before it are performed. -/
def TurnCome (s : State) (r : Req) : Prop :=
  let same := fun q : Req => q.owner = r.owner ∧ q.req = r.req
  (∀ q, s.sends.find? (fun q => decide (same q)) = some q → q.dest = r.dest) ∧
    (∀ q ∈ s.chans ++ s.arrivals, ¬ same q) ∧ ∀ q, LogItem.req q ∈ s.logged → ¬ same q

/-- When a request may be sent (R152, R158, R180, R184, R320). -/
def MayGo (s : State) (r : Req) : Prop :=
  s.routeClear r.src r.dest = true ∧ ¬ ZeroAhead s r ∧
    (r.engine = true ∨ (¬ WaitAhead s r ∧ (r.isStamped = true → ¬ StampedHeld s r) ∧
      (∀ c, r.notBefore = some c → c ≤ s.cycle) ∧ (r.ordered = true → TurnCome s r)))

/-- A store in part of an aligned word of 4 bytes with an uncorrectable error (R138, R146). -/
def PartInError (s : State) (bs : List (Nat × Byte)) : Prop :=
  ∃ b ∈ bs, s.badRange (b.1 / 4 * 4) 4 = true ∧ ∃ k < 4, ∀ c ∈ bs, c.1 ≠ b.1 / 4 * 4 + k

/-- What management is told of an error that a home meets (R146). -/
def Told (s u : State) (bad : Prop) (pa : Nat) : Prop :=
  (bad → u.mgmt = s.mgmt ++ [.homeReadError pa]) ∧ (¬ bad → u.mgmt = s.mgmt)

/-- `t'` is `t` after an answer from a home is delivered to it: at its own die nothing else differs; from another die HOPS is the
number of links the request crossed, and LAT the cycles that the request, from its last sending, and the answer spent on links, at most
2^32 − 1 (R321; log 5). -/
def Figured (s : State) (p : Place) (r : Resp) (t t' : Thread) : Prop :=
  if r.src = p.die then t' = t
  else t' = { t with sys := { t.sys with
    lat := BitVec.ofNat 64 (min (r.lat + (s.cycle - r.since)) (2 ^ 32 - 1)), hops := BitVec.ofNat 64 (r.hops % 2 ^ 16) } }

/-- An answer is delivered to the thread at `p`: its access is over, its thread is then `t1` but for LAT and HOPS, and nothing
else differs. -/
def Delivered (s : State) (p : Place) (pre post : List Resp) (ended : List Out) (r : Resp)
    (o : Host.Outcome State Fault Refusal) (t1 : Thread) : Prop :=
  ∃ u t', o = .next u ∧ u.thread? p = some t' ∧ Figured s p r t1 t' ∧ u.resps = pre ++ post ∧ u.outs = ended ∧
    { u with slots := s.slots, resps := s.resps, outs := s.outs } = s ∧
    { u.slot p with thread := (s.slot p).thread } = s.slot p ∧ ∀ q, q ≠ p → u.slot q = s.slot q

/-- How an operation stands after one more of its groups is answered: with the last, its result is ready, or it ends in the trap
kept of its lowest failing lane (R43, R46, R146). -/
def afterGroup (g : Tag) (fault : Option (Nat × BitVec 8 × Word)) : TagState :=
  if g.parts ≤ 1 then (match fault with
    | some f => .trapped f.2.1 f.2.2
    | none => .ready)
  else .waiting

end Sys2Proof.Claims

section
open Sys2Proof Sys2Proof.Machine Sys2Proof.Claims

/-- R152, R158, R180, R184, R203, R320: SEND and MONITOR_RETRY move the oldest request of a send list to its channel, with the
links its route crosses, exactly when it may go. A request of an engine may go whenever its route is clear and no zeroing of a
node it touches is ahead of it; one of a thread only once an earlier wait-mode `lda` to that home is accepted, and, answered
"retry", 512 cycles after; a stamped store only once all earlier requests of its thread are performed and no clear notice is
due. What may not go stays. -/
def Sys2Proof.Claims.SendRules : Prop :=
  ∀ (s : State) (owner e : Nat) (pre post : List Req) (r : Req),
    FirstOf (fun q => q.owner = owner ∧ q.dest = e) s.sends pre r post →
    let gone := { s with sends := pre ++ post, chans := s.chans ++
      [{ r with notBefore := none, hops := s.hops r.src e, sentAt := s.cycle }] }
    (MayGo s r → r.notBefore = none → exec (.send owner e) s = .next gone ∧ exec (.monitorRetry owner e) s = .next s) ∧
    (MayGo s r → r.notBefore ≠ none → exec (.monitorRetry owner e) s = .next gone ∧ exec (.send owner e) s = .next s) ∧
    (¬ MayGo s r → exec (.send owner e) s = .next s ∧ exec (.monitorRetry owner e) s = .next s)

/-- R153, R321: DELIVER moves the head of a channel to the tail of the arrival queue of its home, with the cycles it has spent on links,
and changes nothing else; to a die out of service nothing is delivered. -/
def Sys2Proof.Claims.DeliverRule : Prop :=
  ∀ (s : State) (d e : Nat) (engine : Bool) (pre post : List Req) (r : Req),
    FirstOf (fun q => q.src = d ∧ q.dest = e ∧ q.engine = engine) s.chans pre r post →
    exec (.deliver d e engine) s =
      .next (if (s.die e).outOfService then s
        else { s with chans := pre ++ post, arrivals := s.arrivals ++ [{ r with lat := s.cycle - r.sentAt }] })

/-- R131, R137, R138, R140, R146, R154: plain loads and stores, nibble writes, atomics and `ldas` at their home. A load group
answers each element's value, or MCHECK with its lowest element in error; an engine is answered the elements that can be read and
its lowest failing address. A store group writes its bytes, the last of several to one address standing. An atomic answers the
old value and writes R137's new one. `ldas` answers the sideband. An error met by a store in part of a word, or by an atomic (the
model's choice, log 68), is told to management. No other byte, no sideband and no monitor differs. No block has two steps in a
cycle. -/
def Obligations.PlainPerforms : Prop :=
  ∀ (s : State) (e : Nat) (pre post : List Req) (r : Req), s.stored →
    FirstOf (fun q => q.dest = e) s.arrivals pre r post → s.evictedAt r = false →
    (r.block ∈ s.stepped → ∀ k ∈ [Instr.loadPerform e, .storePerform e, .atomicPerform e, .ldaPerform e, .ldasPerform e,
      .staPerform e, .stadPerform e], exec k s = .next s) ∧
    (r.block ∉ s.stepped →
    (∀ es, r.body = .load es → ∃ u, MemorySame s u e ∧ u.mgmt = s.mgmt ∧
      (let bad := fun x : Elem => s.badRange x.paddr x.size
       let values := fun xs : List Elem => xs.map fun x => (x.lane, BitVec.ofNat 64 (s.readNat x.paddr x.size))
       Performs s e pre post r (exec (.loadPerform e) s)
        [reply s r (match es.filter bad with
          | [] => .values (values es)
          | x :: xs =>
            if r.engine then .part (values (es.filter fun y => !bad y)) causeMcheck
              (BitVec.ofNat 64 ((x :: xs).foldl (fun a y => min a y.vaddr.toNat) x.vaddr.toNat))
            else .trap x.lane causeMcheck x.vaddr)] u)) ∧
    (∀ va bs, r.body = .store va bs → ∃ u, Performs s e pre post r (exec (.storePerform e) s) [reply s r .ack] u ∧
      (∀ a, u.readByte a = (lastAt bs a).getD (s.readByte a)) ∧ (∀ a, u.sideband a = s.sideband a) ∧
      (u.die e).monitor = (s.die e).monitor ∧ Told s u (PartInError s bs) ((bs.head?.map (·.1)).getD 0)) ∧
    (∀ va bs, r.body = .merge va bs → ∃ u, Performs s e pre post r (exec (.storePerform e) s) [reply s r .ack] u ∧
      (∀ a, u.readByte a = (bs.filter fun b => b.1 = a).foldl (fun x b => (x &&& ~~~b.2.2) ||| (b.2.1 &&& b.2.2)) (s.readByte a)) ∧
      (∀ a, u.sideband a = s.sideband a) ∧ (u.die e).monitor = (s.die e).monitor) ∧
    (∀ op n va pa b cmp, r.body = .atomic op n va pa b cmp → n = 4 ∨ n = 8 → b.toNat < 2 ^ (8 * n) → cmp.toNat < 2 ^ (8 * n) →
      let old := s.readNat pa n
      ∃ u, Performs s e pre post r (exec (.atomicPerform e) s) [reply s r (.old (BitVec.ofNat 64 old))] u ∧
        u.readNat pa n = atomicValue op n old b.toNat cmp.toNat ∧
        (∀ a, a < pa ∨ pa + n ≤ a → u.readByte a = s.readByte a) ∧ (∀ a, u.sideband a = s.sideband a) ∧
        (u.die e).monitor = (s.die e).monitor ∧ Told s u (s.badRange pa n = true) pa) ∧
    (∀ va pa, r.body = .ldas va pa → ∃ u, MemorySame s u e ∧ u.mgmt = s.mgmt ∧
      Performs s e pre post r (exec (.ldasPerform e) s)
        [reply s r (.values [(0, BitVec.ofNat 64 (s.sideband pa).toNat)])] u))

/-- R12, R154, R156, R175, R176: an `lda` at its home answers the block and its stamp when the lag is 255 or the stamp is at
most `lag` behind its iteration; otherwise LAG without the wait mode; WRITER_STOPPED when the block's writer is in the stop
set; else it takes one of the 3,840 ordinary monitor entries, or from its fourth retry one of the 256 reserved ones, and is
accepted; else it is answered "retry" with its count raised. Memory does not change. -/
def Sys2Proof.Claims.StampedLoadPerform : Prop :=
  ∀ (s : State) (e : Nat) (pre post : List Req) (r : Req) (va : Word) (pa : Nat) (it : BitVec 32) (lag : BitVec 8) (wait : Bool),
    FirstOf (fun q => q.dest = e) s.arrivals pre r post → s.evictedAt r = false → r.block ∉ s.stepped →
    r.body = .lda va pa it lag wait →
    let stamp : BitVec 32 := BitVec.ofNat 32 (s.sideband pa).toNat
    let writer : BitVec 24 := BitVec.ofNat 24 ((s.sideband pa).toNat / 2 ^ 32)
    let fresh := lag = 255 ∨ -(lag.toNat : Int) ≤ stampDiff stamp it
    let stopped := writer ≠ 0 ∧ writer ∈ (s.die e).stopSet
    let ordinary := ((s.die e).monitor.filter fun m => !m.reserved).length < 3840
    let reserved := 4 ≤ r.retries ∧ ((s.die e).monitor.filter fun m => m.reserved).length < 256
    ∃ u b, Performs s e pre post r (exec (.ldaPerform e) s) [reply s r b] u ∧
      (∀ a, u.readByte a = s.readByte a) ∧ (∀ a, u.sideband a = s.sideband a) ∧
      (fresh → b = blockReply s va pa ∧ (u.die e).monitor = (s.die e).monitor) ∧
      (¬ fresh → wait = false → b = .trap 0 causeLag va ∧ (u.die e).monitor = (s.die e).monitor) ∧
      (¬ fresh → wait = true → stopped → b = .trap 0 causeStopped va ∧ (u.die e).monitor = (s.die e).monitor) ∧
      (¬ fresh → wait = true → ¬ stopped → ordinary ∨ reserved → b = .accepted ∧
        (u.die e).monitor = (s.die e).monitor ++
          [⟨r.req, r.owner, r.wid, r.ctx, r.src, va, pa, it, lag, r.hops, r.lat, !decide ordinary⟩]) ∧
      (¬ fresh → wait = true → ¬ stopped → ¬ (ordinary ∨ reserved) → b = .retry { r with retries := min (r.retries + 1) 7 } ∧
        (u.die e).monitor = (s.die e).monitor)

/-- R13, R139, R154, R175, R176: a stamped store at its home. With a stamp older than
the block's it writes nothing and is answered with the regress notice. Otherwise it writes its lanes, sets the stamp and the
writer, is acknowledged, and then every monitor entry of the block whose bound the new stamp meets is
answered with the block, in entry order, and freed. -/
def Sys2Proof.Claims.StampedStorePerform : Prop :=
  ∀ (s : State) (e : Nat) (pre post : List Req) (r : Req) (va : Word) (pa : Nat) (stamp : BitVec 32) (data : VReg)
    (lanes : Word) (w : BitVec 24) (o : Host.Outcome State Fault Refusal) (yes no : RespBody), s.stored →
    FirstOf (fun q => q.dest = e) s.arrivals pre r post → s.evictedAt r = false → r.block ∉ s.stepped →
    (r.body = .sta va pa stamp data ∧ lanes = BitVec.allOnes 64 ∧ w = r.wid ∧ o = exec (.staPerform e) s ∧ yes = .ack ∧
        no = .regress va r.wid) ∨
      (r.body = .stad va pa stamp data lanes ∧ w = r.wid ∧ o = exec (.stadPerform e) s ∧ yes = .ack ∧
        no = .regress va r.wid) →
    let old : BitVec 32 := BitVec.ofNat 32 (s.sideband pa).toNat
    let met := fun m : MonEntry => m.paddr = pa ∧ (m.lag = 255 ∨ -(m.lag.toNat : Int) ≤ stampDiff stamp m.iter)
    (stampDiff stamp old < 0 → ∃ u, MemorySame s u e ∧ Performs s e pre post r o [reply s r no] u) ∧
    (0 ≤ stampDiff stamp old → ∃ (u : State) (ms : List MonEntry), ms.Sublist (s.die e).monitor ∧
      (∀ m, m ∈ ms ↔ m ∈ (s.die e).monitor ∧ met m) ∧ (∀ m, m ∈ (u.die e).monitor ↔ m ∈ (s.die e).monitor ∧ ¬ met m) ∧
      Performs s e pre post r o (reply s r yes :: ms.map fun m => ⟨m.req, m.owner, e, m.src, m.hops, m.lat, s.cycle, m.vaddr, blockReply u m.vaddr pa, false⟩) u ∧
      (∀ j k, j < 64 → k < 4 → u.readByte (pa + 4 * j + k) =
        if lanes.getLsbD j = true then BitVec.ofNat 8 ((lane data j).toNat / 2 ^ (8 * k)) else s.readByte (pa + 4 * j + k)) ∧
      (∀ a, a < pa ∨ pa + 256 ≤ a → u.readByte a = s.readByte a) ∧
      (u.sideband pa).toNat = w.toNat * 2 ^ 32 + stamp.toNat ∧ ∀ a, a ≠ pa → u.sideband a = s.sideband a)

/-- R155, R146, R98, R321: RESPOND, of an answer from any home. An acknowledgement ends the access; an acceptance marks it; a
"retry" puts the request back at the head of its send list, to be sent 512 cycles later. A value, a block or a trap goes to the
open operation it answers, whose last group makes it ready, or ends it in the trap of the lowest lane answered with one; no
register is written yet but those of a `regset`, once every word of it has come. An answer of another die writes LAT and HOPS. An
answer with a step of its own is left to that step. Behind a die out of service only an answer that has passed it is delivered
(R320). -/
def Sys2Proof.Claims.RespondRules : Prop :=
  ∀ (s : State) (e d : Nat) (pre post : List Resp) (r : Resp) (p : Place) (t : Thread),
    FirstOf (fun q => q.src = e ∧ q.dest = d) s.resps pre r post → s.findThread r.owner = some (p, t) → s.thread? p = some t →
    r.passed = true ∨ s.routeClear e d = true →
    let ended := s.outs.eraseIdx (s.outs.findIdx fun o => o.owner = r.owner && o.req = r.req && o.dest = e)
    let o := exec (.respond e d) s
    (r.body = .ack → o = .next { s with resps := pre ++ post, outs := ended }) ∧
    (r.body = .accepted → ∃ u, o = .next u ∧ { u with outs := s.outs, resps := s.resps } = s ∧ u.resps = pre ++ post ∧
      (∀ n, u.outs[n]? = if n = (s.outs.findIdx fun o => o.owner = r.owner && o.req = r.req) then
        s.outs[n]?.map fun o => { o with accepted := true } else s.outs[n]?)) ∧
    (∀ q, r.body = .retry q → o =
      .next { s with resps := pre ++ post, sends := { q with notBefore := some (s.cycle + 512) } :: s.sends }) ∧
    ((∃ va w, r.body = .regress va w) ∨ (∃ a b c k i, r.body = .result a b c k i) ∨ r.body = .packetOk → o = .next s) ∧
    (∀ before g after, FirstOf (fun h => h.req = r.req) t.tags before g after → g.state = .waiting →
      (∀ h ∈ before ++ after, h.ordered = true → h.image = false → h.state ≠ .ready) →
      let with_ := fun g' : Tag => { t with tags := before ++ g' :: after }
      let lands := Delivered s p pre post ended r o
      (∀ vs, r.body = .values vs → g.hasV = true → g.ordered = false → ∃ v : VReg,
        (∀ j, j < 64 → lane v j = ((vs.reverse.find? fun x => x.1 = j).map fun x => BitVec.ofNat 32 x.2.toNat).getD (lane g.v j)) ∧
        ((∀ x ∈ vs, x.1 < 64) → lands (with_ { g with v := v, parts := g.parts - 1, state := afterGroup g g.fault }))) ∧
      (∀ vs, r.body = .values vs → g.hasV = false →
        let u := (List.range g.u.length).map fun k => ((vs.reverse.find? fun x => x.1 = k).map (·.2)).getD (g.u.getD k 0)
        let g' : Tag := { g with u := u, parts := g.parts - 1, state := afterGroup g g.fault }
        (¬ (g.ordered = true ∧ g.image = false ∧ g'.state = .ready) → lands (with_ g')) ∧
        (g.ordered = true → g.image = false → g'.state = .ready →
          lands ({ t with tags := before ++ after }.writeAll g.sds u))) ∧
      (∀ x, r.body = .old x → g.hasV = false → g.u.length = 1 → g.ordered = false →
        lands (with_ { g with u := [x], parts := g.parts - 1, state := afterGroup g g.fault })) ∧
      (∀ b st, r.body = .block b st →
        lands (with_ { g with v := b, u := [BitVec.ofNat 64 st.toNat], parts := g.parts - 1, state := afterGroup g g.fault })) ∧
      (∀ l c info, r.body = .trap l c info →
        let info' := if g.image = true ∧ g.ordered = false then g.addr else info
        let f := match g.fault with
          | some x => if x.1 ≤ l then x else (l, c, info')
          | none => (l, c, info')
        lands (with_ { g with fault := some f, parts := g.parts - 1, state := afterGroup g (some f) })))

/-- R178, R347: STAMP_REGRESS puts the block's address into the queue of the thread that still has the id, a full queue marking
its last entry; into the block of a thread that is saved; and a notice whose thread is gone, or has left the id, is discarded and
told to management. -/
def Sys2Proof.Claims.RegressNotices : Prop :=
  ∀ (s : State) (e d : Nat) (pre post : List Resp) (r : Resp) (va : Word) (w : BitVec 24),
    FirstOf (fun q => q.src = e ∧ q.dest = d) s.resps pre r post → r.passed = true ∨ s.routeClear e d = true → r.body = .regress va w →
    let ended := s.outs.eraseIdx (s.outs.findIdx fun o => o.owner = r.owner && o.req = r.req && o.dest = e)
    let taken := { s with resps := pre ++ post, outs := ended }
    let o := exec (.stampRegress e d) s
    (∀ p t, s.blockOf r.owner = none → s.findThread r.owner = some (p, t) → s.thread? p = some t → s.widAt p = w →
      o = .next (taken.setThread p { t with notices :=
        if t.notices.length < 16 then t.notices ++ [va]
        else (List.range t.notices.length).map fun k => if k = 15 then t.notices.getD k 0 ||| 1 else t.notices.getD k 0 })) ∧
    (s.blockOf r.owner = none → (∀ p t, s.findThread r.owner = some (p, t) → s.widAt p ≠ w) →
      o = .next { taken with mgmt := s.mgmt ++ [.noticeDiscarded w] }) ∧
    ∀ v, s.blockOf r.owner = some v →
      let x := s.blockRead v 0x6E0
      let n := x.toNat % 32
      (n < 16 → o = .next ((taken.blockWrite v (0x660 + 8 * n) va).blockWrite v 0x6E0 (x + 1))) ∧
      (16 ≤ n → o = .next ((taken.blockWrite v 0x6D8 (s.blockRead v 0x6D8 ||| 1)).blockWrite v 0x6E0 (x ||| 0x100)))

end
/-! ### Starts, boundary traps, and stop notices (R11, R15, R27, R28, R97, R178, R182 to R187, R338, R340) -/

namespace Sys2Proof.Claims
open Sys2Proof.Machine

/-- A thread as it starts: its context, its address and its uniform registers as given, every other register 0, q0 and p0
apart, all lanes live (R28, R41, R76). -/
def Started (t : Thread) (ctx : Nat) (pc : Word) (regs : BitVec 5 → Word) (trapvec : Word) : Prop :=
  t.ctx = ctx ∧ t.pc = pc ∧ (∀ k, t.readS k = if k = 0 then 0 else regs k) ∧ (∀ k, t.readQ k = decide (k = 0)) ∧
    (∀ k, t.readV k = 0) ∧ (∀ k, t.readP k = if k = 0 then BitVec.allOnes 64 else 0) ∧ (∀ k, t.readD k = 0) ∧
    (∀ a ∈ t.acc.toList, a.elems = 0 ∧ a.isSet = false) ∧
    t.sys = { trapvec := trapvec, vlive := BitVec.allOnes 64 } ∧ t.hs = false ∧ t.priv = false ∧ t.tags = [] ∧
    t.hold = .none ∧ t.pending = none ∧ t.notices = [] ∧ t.lateFaults = [] ∧ t.halted = false

/-- A slot without its marks of stop notices. -/
def Slot.unnoticed (x : Slot) : Slot := { x with noticed := [] }

/-- A die with a debug halt, of its own or of a thread of one of its slots (R187). -/
def DieHalted (s : State) (d : Nat) : Prop := (s.die d).halt = true ∨ ∃ e ∈ s.slots, e.1.die = d ∧ ∃ t, e.2.thread = some t ∧ t.halted = true

/-- The dies of a stop notice's context, and those its thread was on (R187). -/
def NoticeDie (s : State) (x : StopNotice) (d : Nat) : Prop :=
  (∃ e ∈ s.cores, e.1.1 = d ∧ e.2.resident x.ctx = true) ∨ (∃ q ∈ s.threadsOf x.ctx, q.1.die = d) ∨ ∃ w ∈ x.ids, (widPlace w).die = d

/-- A home acts on the notices `xs` in their order: each one's ids enter the stop set, and the monitor entries whose block one of
them wrote are answered WRITER_STOPPED and freed (R182). -/
def ActsOn (s u : State) (die : Nat) (xs : List StopNotice) : Prop :=
  let hit := fun (x : StopNotice) (m : MonEntry) => x.ids.contains (BitVec.ofNat 24 ((s.sideband m.paddr).toNat / 2 ^ 32))
  u.resps = s.resps ++ ((List.range xs.length).flatMap fun k =>
    ((s.die die).monitor.filter fun m => (xs[k]?.any fun x => hit x m) && !((xs.take k).any fun x => hit x m)).map
      fun m => ⟨m.req, m.owner, die, m.src, m.hops, m.lat, s.cycle, m.vaddr, .trap 0 causeStopped m.vaddr, false⟩) ∧
    (u.die die).monitor = ((s.die die).monitor.filter fun m => !(xs.any fun x => hit x m)) ∧
    (∀ w, w ∈ (u.die die).stopSet ↔ w ∈ (s.die die).stopSet ∨ ∃ x ∈ xs, w ∈ x.ids) ∧
    { u.die die with monitor := (s.die die).monitor, stopSet := (s.die die).stopSet, deferred := (s.die die).deferred } = s.die die ∧
    (∀ d, d ≠ die → u.die d = s.die d) ∧ (∀ a, u.readByte a = s.readByte a) ∧
    { u with dies := s.dies, resps := s.resps, notices := s.notices } = s

end Sys2Proof.Claims

section
open Sys2Proof Sys2Proof.Machine Sys2Proof.Claims

/-- R45, R338, R340, R178, R46, R254, R306, R307: TRAP_ENTRY. A trap that waited for R45 is entered once every operation of the present
flow is complete. At a boundary outside the handler state the oldest late fault is entered, then the oldest STAMP_REGRESS notice, with
TRAPPC the address of the word not yet issued; it leaves its queue. A `twait` does not keep back the fault of an operation, but one that
waits only for operations without effect is released first (log 66). Nothing but the thread differs. -/
def Sys2Proof.Claims.BoundaryTraps : Prop :=
  ∀ (s : State) (p : Place) (t : Thread), s.thread? p = some t → t.settled = true → vecUsable t.sys.trapvec = true →
    (∃ w, s.fetch p.die t.ctx t.sys.trapvec = .ok w) →
    (∀ x, t.pending = some x → ∃ u t', exec (.trapEntry p) s = .next u ∧ Entered s.cycle t t' x.cause x.pc x.info ∧
      u.thread? p = some t' ∧ OnlyThread s u p) ∧
    (t.pending = none → s.atBoundary p t = true → t.preempt = none → t.debugDue = false → t.hs = false → t.priv = false →
      (s.dueTags p t).all (fun g => !g.isTrapped) = true →
      (let freed := ∃ n, t.hold = .twait n ∧ ∀ o ∈ s.opsOf t.uid, o.seq ≤ n → o.skip = true
       ∀ c info b rest, t.lateFaults = (c, info, b) :: rest →
        (b = false ∨ ¬ freed → ∃ u t', exec (.trapEntry p) s = .next u ∧
          Entered s.cycle { t with lateFaults := rest } t' c t.pc info ∧ u.thread? p = some t' ∧ OnlyThread s u p) ∧
        (b = true → freed → t.notices = [] → exec (.trapEntry p) s = .next s)) ∧
      (∀ a rest, t.lateFaults = [] → t.notices = a :: rest → ∃ u t', exec (.trapEntry p) s = .next u ∧
        Entered s.cycle { t with notices := rest } t' 0x09 t.pc a ∧ u.thread? p = some t' ∧ OnlyThread s u p))

/-- R97: YIELD_RELEASE ends a yield once its 16 cycles are over and no slot it waits for holds a thread; else nothing
changes. -/
def Sys2Proof.Claims.YieldReleases : Prop :=
  ∀ (s : State) (p : Place) (t : Thread) (c : Nat) (ks : List Nat), s.thread? p = some t → t.hold = .yielded c ks →
    let due := c ≤ s.cycle ∧ ∀ k ∈ ks, s.thread? ⟨p.die, p.core, k⟩ = none
    (due → ∃ u, exec (.yieldRelease p) s = .next u ∧ u.thread? p = some { t with hold := .none } ∧ OnlyThread s u p) ∧
    (¬ due → exec (.yieldRelease p) s = .next s)

/-- R11, R27, R28, R30: LAUNCH_FILL starts the thread of the oldest released launch record of a free slot: its registers are
the record's and zeros, the slot's owner is its context, and the record is gone. A slot that is not free keeps the record. -/
def Sys2Proof.Claims.LaunchFills : Prop :=
  ∀ (s : State) (p : Place) (pre post : List LaunchRec) (l : LaunchRec),
    FirstOf (fun x => x.place = p ∧ x.held = false) s.launches pre l post →
    (s.slotFree p = false → exec (.launchFill p) s = .next s) ∧
    (s.slotFree p = true → ∃ u t, exec (.launchFill p) s = .next u ∧ u.thread? p = some t ∧ t.uid = s.nextId ∧
      Started t l.ctx l.pc (fun k => l.regs.getD k.toNat 0) 0 ∧ (u.slot p).owner = some l.ctx ∧
      { u.slot p with owner := (s.slot p).owner, thread := none } = s.slot p ∧ u.launches = pre ++ post ∧
      u.nextId = s.nextId + 1 ∧ (∀ r, r ≠ p → u.slot r = s.slot r) ∧
      { u with launches := s.launches, slots := s.slots, nextId := s.nextId } = s ∧ ∀ a, u.readByte a = s.readByte a)

/-- R15, R182, R184, R185: a stopped thread's notice leaves when no stamped store of it is on its way. A lamp die clears the marks of its
own ids. A slot whose generation has had a notice clears its id from every stop set once no notice of it is on its way; so it does for an
earlier generation whose thread has left with a stamped store that waits for the clear (log 23). None of these changes memory. -/
def Sys2Proof.Claims.StopNotices : Prop :=
  (∀ (s : State) (uid : Nat) (pre post : List Stopped) (x : Stopped), FirstOf (fun y => y.uid = uid) s.stopped pre x post →
    (s.stampedPending uid = true → exec (.stopNoticeSend uid) s = .next s) ∧
    (s.stampedPending uid = false → ∃ u, exec (.stopNoticeSend uid) s = .next u ∧ u.stopped = pre ++ post ∧
      u.notices = s.notices ++ [⟨x.ids, x.ctx, [], []⟩] ∧ (∀ w ∈ x.ids, widGen w ∈ (u.slot (widPlace w)).noticed) ∧
      (∀ p, Slot.unnoticed (u.slot p) = Slot.unnoticed (s.slot p)) ∧
      { u with stopped := s.stopped, notices := s.notices, slots := s.slots } = s)) ∧
  (∀ (s : State) (die n : Nat) (w : BitVec 24) (x : StopNotice), s.notices[n]? = some x → die ∉ x.cleared → x.ids = [w] →
    (widPlace w).die = die → ∃ u, exec (.heldAwayClear die n) s = .next u ∧
      (∀ g, g ∈ (u.slot (widPlace w)).heldAway ↔ g ∈ (s.slot (widPlace w)).heldAway ∧ g ≠ widGen w) ∧
      (∀ p, p ≠ widPlace w → u.slot p = s.slot p) ∧ { u with slots := s.slots, notices := s.notices } = s) ∧
  (∀ (s : State) (w : BitVec 24), s.noticePending w = true ↔
    (∃ n ∈ s.notices, w ∈ n.ids ∧ ∃ d ∈ plinthDies, d ∉ n.applied ∧ (s.die d).outOfService = false) ∨
      ∃ e ∈ s.dies, ∃ n ∈ e.2.deferred, w ∈ n.ids) ∧
  ∀ (s : State) (p : Place),
    let x := s.slot p
    let id := fun g => writerId p g
    let held := fun g => ∃ r ∈ s.sends, r.isStamped = true ∧ r.wid = id g
    let clears := fun g => ∃ u, exec (.clearNotice p) s = .next u ∧ (∀ k, k ∈ (u.slot p).noticed ↔ k ∈ x.noticed ∧ k ≠ g) ∧
      Slot.unnoticed (u.slot p) = Slot.unnoticed x ∧ (∀ d, id g ∉ (u.die d).stopSet) ∧
      (∀ d w, w ≠ id g → (w ∈ (u.die d).stopSet ↔ w ∈ (s.die d).stopSet)) ∧ (∀ r, r ≠ p → u.slot r = s.slot r) ∧
      { u with slots := s.slots, dies := s.dies } = s
    (x.gen ∈ x.noticed → s.noticePending (id x.gen) = false → clears x.gen) ∧
    (¬ (x.gen ∈ x.noticed ∧ s.noticePending (id x.gen) = false) →
      (∀ pre g post, FirstOf (fun k => held k ∧ s.noticePending (id k) = false) x.noticed pre g post → clears g) ∧
      ((∀ g ∈ x.noticed, held g → s.noticePending (id g) = true) → exec (.clearNotice p) s = .next s))

/-- R182, R187: STOP_NOTICE_APPLY. A plinth die receives a notice once. While a die of the notice's context is halted it puts the
notice after those it has deferred, up to 64, and acts on none; with 64 the notice stays upstream. Otherwise it acts, in arrival
order, on the deferred notices whose flag has cleared, and then on the new one: ids enter its stop set, and entries on blocks one
of them wrote are answered WRITER_STOPPED and freed. With no notice to receive it acts on the deferred ones alone. -/
def Sys2Proof.Claims.NoticesApplied : Prop :=
  (∀ (s : State) (x : StopNotice), s.defers x = true ↔ ∃ d, NoticeDie s x d ∧ DieHalted s d) ∧
  ∀ (s : State) (die n : Nat),
    let o := exec (.stopNoticeApply die n) s
    let held := (s.die die).deferred
    let due := held.filter fun y => !s.defers y
    let left := held.filter fun y => s.defers y
    (∀ x, s.notices[n]? = some x → isPlinth die = true → die ∉ x.applied →
      (s.defers x = true → 64 ≤ held.length → o = .next s) ∧
      (s.defers x = true → held.length < 64 → ∃ u, o = .next u ∧ (u.die die).deferred = held ++ [x] ∧
        { u.die die with deferred := held } = s.die die ∧ (∀ d, d ≠ die → u.die d = s.die d) ∧
        { u with dies := s.dies, notices := s.notices } = s) ∧
      (s.defers x = false → ∃ u, o = .next u ∧ ActsOn s u die (due ++ [x]) ∧ (u.die die).deferred = left)) ∧
    ((∀ x, s.notices[n]? = some x → isPlinth die = false ∨ die ∈ x.applied) →
      ∃ u, o = .next u ∧ ActsOn s u die due ∧ (u.die die).deferred = left ∧ u.notices = s.notices)

/-- R46, R8, R90: at a boundary the trap of a load that its home has ended is entered before the next word issues: TRAPPC is the
address of its word; with LA 0 TRAPCAUSE is the cause alone, and the loop registers and open windows are as before the word; with a
window TRAPCAUSE[8] is 1 and TRAPCAUSE[60:16] holds bits 47:3 of the next word's address. The destinations keep their values.
As the first word of a handler an LA-0 load is fatal. -/
def Sys2Proof.Claims.LateLoadTraps : Prop :=
  ∀ (s : State) (p : Place) (t : Thread) (g : Tag) (pre post : List Tag) (c : BitVec 8) (info : Word), s.thread? p = some t →
    t.settled = true → vecUsable t.sys.trapvec = true → (∃ w, s.fetch p.die t.ctx t.sys.trapvec = .ok w) →
    t.pending = none → s.atBoundary p t = true → t.preempt = none → t.debugDue = false → t.priv = false →
    FirstOf (fun h => h.req = g.req) t.tags pre g post → g.state = .trapped c info →
    (∃ before after, if g.la = 0 then FirstOf (fun h => h.isTrapped = true ∧ h.la = 0) (s.dueTags p t) before g after
      else (∀ h ∈ s.dueTags p t, h.isTrapped = true → h.la ≠ 0) ∧ FirstOf (fun h => h.isTrapped = true) (s.dueTags p t) before g after) →
    let rest := pre ++ post
    let t0 : Thread := match g.undo with
      | none => { t with tags := rest }
      | some (c0, c1, ws) => { t with
        sys := { t.sys with lc0 := c0, lc1 := c1 }
        tags := rest.map fun h => if h.req ∈ ws then { h with count := h.count + 1 } else h }
    (g.la ≠ 0 ∨ g.first = false → ∃ (u : State) (t' : Thread) (cause : Word), exec (.trapEntry p) s = .next u ∧
      Entered s.cycle t0 t' cause g.pc info ∧ u.thread? p = some t' ∧ OnlyThread s u p ∧
      cause.extractLsb' 0 8 = c ∧ cause.getLsbD 8 = decide (g.la ≠ 0) ∧ cause.extractLsb' 9 7 = 0 ∧
      cause.extractLsb' 16 45 = (if g.la = 0 then 0 else t.pc.extractLsb' 3 45) ∧ cause.extractLsb' 61 3 = 0) ∧
    (g.la = 0 → g.first = true → exec (.trapEntry p) s = .next (s.fatal p t0 c g.pc info))

end
/-! ### Net words (R44, R206 to R217, R226 to R233, R241, R245) -/

namespace Sys2Proof.Claims
open Sys2Proof.Machine

/-- A port reference: a node's address below 2^48, a multiple of 32, and a port number of 0 to 2 (R208). -/
def IsRef (x : Word) : Prop := x.toNat < 2 ^ 48 ∧ x.toNat % 32 < 3

/-- The address of the port word that a reference names: node + 8 x (port + 1) (R206, R208). -/
def portAddr (x : Word) : Word := (x &&& 0x0000FFFFFFFFFFE0) + BitVec.ofNat 64 (8 * (x.toNat % 4 + 1))

/-- A rule entry that may be written: bits 63:48 zero, an action of 0 to 5, a handler where the action is CALL (R210, R211). -/
def RuleOk (e : Word) : Prop :=
  e.toNat < 2 ^ 48 ∧ e.toNat % 16 ≤ 5 ∧ (e.toNat % 16 = 4 → e.toNat / 2 ^ 8 % 2 ^ 40 ≠ 0)

/-- A core's free stack of a context, top first (R216). -/
def stack (s : State) (p : Place) (ctx : Nat) : List Word := (s.core p.die p.core).stackOf ctx

/-- When a link step, or a unit's write, of a die may be performed at a physical address: its core is not evicted, no step has been
made on the block this cycle, no request of the die's threads to that home is sent and not performed, no zeroing of its node is
still to be sent, and a thread's own earlier accesses to the home are done (R132, R154, R160, R203, R226, R354; log 73). -/
def MayAct (s : State) (die ctx : Nat) (thread : Option Nat) (pa : Nat) : Prop :=
  s.paAway ctx pa = false ∧ pa / 256 * 256 ∉ s.stepped ∧
    (∀ r ∈ s.chans ++ s.arrivals, r.engine = false → r.src = die → r.dest ≠ paHome pa) ∧
    (∀ r ∈ s.sends, r.zeroes = true → r.src = die → r.node ≠ pa / 32 * 32) ∧
    ∀ uid, thread = some uid → ∀ o ∈ s.outs, o.owner = uid → o.dest = paHome pa → o.accepted = true

/-- The block of an address has had a step this cycle, and management is told of an error in the word (R146, R154; log 68). -/
def StepMade (s u : State) (pa : Nat) : Prop :=
  u.stepped = pa / 256 * 256 :: s.stepped ∧
    u.mgmt = s.mgmt ++ (if s.badRange pa 8 = true then [.homeReadError pa] else [])

/-- Of the cores, only the one at `p` differs, and of it only the free stack of `ctx`, the batches on their way to a quarry,
the batches it wants, and what waiting words and rewrites of `ctx` have popped. -/
def OnlyStack (s u : State) (p : Place) (ctx : Nat) : Prop :=
  (∀ d c, (d, c) ≠ (p.die, p.core) → u.core d c = s.core d c) ∧
    (∀ k, k ≠ ctx → (u.core p.die p.core).stackOf k = (s.core p.die p.core).stackOf k) ∧
    { u.core p.die p.core with nodeStacks := (s.core p.die p.core).nodeStacks, giveBack := (s.core p.die p.core).giveBack,
                                   wants := (s.core p.die p.core).wants, popped := (s.core p.die p.core).popped } = s.core p.die p.core

/-- What a waiting word or rewrite of a context has popped, and it waits no longer (log 87). -/
def Stray (s : State) (p : Place) (ctx : Nat) (e : Nat × Nat × List Word) : Prop :=
  e.2.1 = ctx ∧ s.awaitsNodes p.die p.core e.1 = false

/-- The nodes that are to go back onto a core's stack of a context, since who had popped them waits no longer (log 87). -/
def strays (s : State) (p : Place) (ctx : Nat) : List Word :=
  ((s.core p.die p.core).popped.filter fun e => e.2.1 = ctx && !s.awaitsNodes p.die p.core e.1).flatMap (·.2.2)

/-- A stack with nodes pushed on it, the first on top, and what it then gives back to the quarry: its bottom 32, if it would hold more
than 64 (R216; log 87). -/
def pushed (ctx : Nat) (b st : List Word) : List Word × List (Nat × List Word) :=
  let l := b ++ st
  if l.length ≤ 64 then (l, []) else (l.take (l.length - 32), [(ctx, (l.drop (l.length - 32)).reverse)])

/-- A core's stack of a context and what it gives back, once nodes popped by one that waits no longer are on it again. -/
def regained (s : State) (p : Place) (ctx : Nat) : List Word × List (Nat × List Word) :=
  if strays s p ctx = [] then (stack s p ctx, []) else pushed ctx (strays s p ctx) (stack s p ctx)

/-- What a waiting word or rewrite has popped already. -/
def ownPopped (s : State) (p : Place) (ctx uid : Nat) : List Word :=
  (((s.core p.die p.core).popped.find? fun e => decide (e.1 = uid) && !(e.2.1 = ctx && !s.awaitsNodes p.die p.core e.1)).map (·.2.2)).getD []

/-- What waiting words and rewrites of a core have popped is as before, but for strays, and for the one named, which has `ns`. -/
def PoppedAre (s u : State) (p : Place) (ctx uid : Nat) (ns : List Word) : Prop :=
  ∀ e, e ∈ (u.core p.die p.core).popped ↔
    e ∈ (s.core p.die p.core).popped ∧ ¬ Stray s p ctx e ∧ e.1 ≠ uid ∨ ns ≠ [] ∧ e = (uid, ctx, ns)

/-- The change of a core's stack of a context by one that needs nodes: strays are back, it holds `ns` itself, and `rest` is left. -/
def NodesPopped (s u : State) (p : Place) (ctx uid : Nat) (ns rest : List Word) : Prop :=
  stack u p ctx = rest ∧ PoppedAre s u p ctx uid ns ∧ OnlyStack s u p ctx ∧
    (u.core p.die p.core).giveBack = (s.core p.die p.core).giveBack ++ (regained s p ctx).2

/-- The change of a core's stack of a context by a node freed onto it: strays are back, and a stack of 64 gives its bottom 32 back to the
quarry first (R216, R229). -/
def FreedOnto (s u : State) (p : Place) (ctx : Nat) (a : Word) : Prop :=
  let st := (regained s p ctx).1
  stack u p ctx = a :: (if st.length < 64 then st else st.take 32) ∧
    (u.core p.die p.core).giveBack = (s.core p.die p.core).giveBack ++ (regained s p ctx).2 ++
      (if st.length < 64 then [] else [(ctx, (st.drop 32).reverse)]) ∧
    (u.core p.die p.core).wants = (s.core p.die p.core).wants ∧
    (∀ e, e ∈ (u.core p.die p.core).popped ↔ e ∈ (s.core p.die p.core).popped ∧ ¬ Stray s p ctx e) ∧ OnlyStack s u p ctx

end Sys2Proof.Claims

section
open Sys2Proof Sys2Proof.Machine Sys2Proof.Claims

/-- R79, R68, R136: the words without effect change nothing: the no-operations of the two slots, and the prefetch hint. -/
def Sys2Proof.Claims.WordsWithoutEffect : Prop :=
  ∀ (s : State) (i : Issue) (t : Thread), s.current = some (i, t) →
    exec .unop s = .next s ∧ exec .vnop s = .next s ∧ ∀ sa off, exec (.vpf sa off) s = .next s

/-- R226, R227, R241: `link` traps LINK_FAULT with the thread's node A when an operand is no port reference, as its checks
fail, in order, and HOD_FULL while 16 records of its context are held; else the thread is held until its link, which begins
with the check of Q, is complete. -/
def Sys2Proof.Claims.LinkWord : Prop :=
  ∀ (s : State) (i : Issue) (t : Thread) (s1 s2 : BitVec 5), s.current = some (i, t) →
    let p := t.readS s1
    let q := t.readS s2
    let ck := fun x => s.check i.place.die t.ctx .nodeStore (portAddr x) 8
    (¬ (IsRef p ∧ IsRef q) → exec (.link s1 s2) s = .next (s.precise i t causeLink t.nodeA)) ∧
    (IsRef p → IsRef q → ∀ c, ck p = .fail c → exec (.link s1 s2) s = .next (s.precise i t c (portAddr p))) ∧
    (IsRef p → IsRef q → ∀ pp lp c, ck p = .ok pp lp → ck q = .fail c →
      exec (.link s1 s2) s = .next (s.precise i t c (portAddr q))) ∧
    (IsRef p → IsRef q → ∀ pp lp pq lq, ck p = .ok pp lp → ck q = .ok pq lq →
      let held := ((s.core i.place.die i.place.core).held.filter fun r => r.ctx = t.ctx).length
      (16 ≤ held → exec (.link s1 s2) s = .next (s.precise i t causeHodFull p)) ∧
      (held < 16 → LandsStaying s i (exec (.link s1 s2) s)
        { t with hold := .link, link := some ⟨p, q, 0, .check, 0, 0, []⟩ }))

/-- R216, R217, R228, R43: `alloc` of k nodes, with those it has popped while it waited and those on the core's stack at least k, pops
them, in order, into k registers from sd up, modulo 32, as an operation whose results are ready; it waits while one of them is still being
zeroed. With fewer it pops what there is, asks for one batch and waits; served and still short with the quarry empty, it traps
QUARRY_EMPTY with k, and what it has received stays on the stack. What one that waits no longer had popped is on the stack again first
(log 87). -/
def Sys2Proof.Claims.AllocWord : Prop :=
  ∀ (s : State) (i : Issue) (t : Thread) (sd : BitVec 5) (la : BitVec 4) (n : BitVec 21), s.current = some (i, t) →
    let p := i.place
    let x := s.core p.die p.core
    let st := ownPopped s p t.ctx t.uid ++ (regained s p t.ctx).1
    let spare := x.giveBack ++ (regained s p t.ctx).2
    let k := n.toNat
    (k ≤ st.length → (∃ a ∈ st.take k, s.zeroing p.die t.ctx a = true) →
      LandsStaying s i (exec (.alloc sd la n) s) { t with hold := .quarry true }) ∧
    (k ≤ st.length → (∀ a ∈ st.take k, s.zeroing p.die t.ctx a = false) →
      ∃ (u : State) (g : Tag), exec (.alloc sd la n) s = .next u ∧
        u.thread? p = some { t with hold := .none, tags := t.tags ++ [g] } ∧ g.req = s.nextId ∧ g.pc = i.pc ∧ g.la = la.toNat ∧
        g.count = la.toNat ∧ g.frozen = false ∧ g.hasV = false ∧ g.state = .ready ∧ g.u = st.take k ∧
        g.sds = ((List.range k).map fun j => BitVec.ofNat 5 (sd.toNat + j)) ∧ stack u p t.ctx = st.drop k ∧ OnlyStack s u p t.ctx ∧
        PoppedAre s u p t.ctx t.uid [] ∧ (u.core p.die p.core).giveBack = spare ∧ (u.core p.die p.core).wants = x.wants ∧
        { u with slots := s.slots, cores := s.cores, nextId := s.nextId } = s ∧ (∀ r, r ≠ p → u.slot r = s.slot r) ∧
        ∀ a, u.readByte a = s.readByte a) ∧
    (st.length < k → ¬ (t.hold = .quarry true ∧ s.quarryLeft t.ctx = false) →
      ∃ u, exec (.alloc sd la n) s = .next u ∧ u.thread? p = some { t with hold := .quarry false } ∧
        u.cur = some { i with moved := true } ∧ (∀ r, r ≠ p → u.slot r = s.slot r) ∧
        (u.core p.die p.core).wants = x.wants ++ (if t.ctx ∈ x.wants then [] else [t.ctx]) ∧ stack u p t.ctx = [] ∧
        PoppedAre s u p t.ctx t.uid st ∧ (u.core p.die p.core).giveBack = spare ∧
        OnlyStack s u p t.ctx ∧ { u with slots := s.slots, cores := s.cores, cur := s.cur } = s) ∧
    (st.length < k → t.hold = .quarry true → s.quarryLeft t.ctx = false →
      ∃ v, stack v p t.ctx = (pushed t.ctx [] st).1 ∧ PoppedAre s v p t.ctx t.uid [] ∧
        (v.core p.die p.core).giveBack = spare ++ (pushed t.ctx [] st).2 ∧ (v.core p.die p.core).wants = x.wants ∧
        OnlyStack s v p t.ctx ∧ { v with cores := s.cores } = s ∧
        exec (.alloc sd la n) s = .next (v.precise i { t with hold := .none } causeQuarry (BitVec.ofNat 64 k)))

/-- R216, R229: `free` traps precisely when its node fails its checks; otherwise it posts the zeroing of the node's 32 bytes and
puts the node on top of the core's stack. A stack of 64 first gives its bottom 32 back to the quarry. What one that waits no longer had
popped is on the stack again first (log 87). -/
def Sys2Proof.Claims.FreeWord : Prop :=
  ∀ (s : State) (i : Issue) (t : Thread) (s1 : BitVec 5), s.current = some (i, t) →
    let p := i.place
    let a := t.readS s1
    (∀ c, s.check p.die t.ctx .nodeStore a 32 = .fail c → exec (.free s1) s = .next (s.precise i t c a)) ∧
    (∀ pa leaf, s.check p.die t.ctx .nodeStore a 32 = .ok pa leaf → ∃ (u : State) (r : Req), exec (.free s1) s = .next u ∧
      AsksHome s p t pa false (.store a ((List.range 32).map fun k => (pa + k, (0 : Byte)))) { r with zeroes := false } ∧
      r.zeroes = true ∧
      u.sends = (s.sends.map fun q => if q.owner = t.uid ∧ q.req = s.nextId then { q with zeroes := true } else q) ++ [r] ∧
      FreedOnto s u p t.ctx a ∧ u.nextId = s.nextId + 1 ∧ u.outs.length = s.outs.length + 1 ∧
      { u with cores := s.cores, sends := s.sends, outs := s.outs, nextId := s.nextId } = s)

/-- R230, R241, R245: `push` traps precisely when a node fails its checks, and HOD_FULL with its first node when no place can
take the record; otherwise a record of the two nodes is created on the core: it is counted, and its context is no longer
quiescent. -/
def Sys2Proof.Claims.PushWord : Prop :=
  ∀ (s : State) (i : Issue) (t : Thread) (s1 s2 : BitVec 5), s.current = some (i, t) →
    let p := i.place
    let a := t.readS s1
    let b := t.readS s2
    let ck := fun x => s.check p.die t.ctx .nodeName x 32
    (∀ c, ck a = .fail c → exec (.push s1 s2) s = .next (s.precise i t c a)) ∧
    (∀ pa la c, ck a = .ok pa la → ck b = .fail c → exec (.push s1 s2) s = .next (s.precise i t c b)) ∧
    (∀ pa la pb lb, ck a = .ok pa la → ck b = .ok pb lb →
      (s.hodFull p.die p.core t.ctx = true → exec (.push s1 s2) s = .next (s.precise i t causeHodFull a)) ∧
      (s.hodFull p.die p.core t.ctx = false → ∃ u, exec (.push s1 s2) s = .next u ∧
        u.fresh = s.fresh ++ [
          ⟨s.nextId, t.uid, (s.findThread t.uid).elim 0 fun x => s.widAt x.1, t.ctx, p.die, p.core, a, b, .push, none⟩] ∧ u.nextId = s.nextId + 1 ∧
        ((u.die p.die).statusOf t.ctx).created = ((s.die p.die).statusOf t.ctx).created + 1 ∧
        (t.ctx < 64 → u.bar0.quiescent.getLsbD t.ctx = false) ∧
        (∀ c, c ≠ t.ctx → c < 64 → u.bar0.quiescent.getLsbD c = s.bar0.quiescent.getLsbD c) ∧
        (∀ d, d ≠ p.die → u.die d = s.die d) ∧ { u.die p.die with status := (s.die p.die).status } = s.die p.die ∧
        { u with fresh := s.fresh, nextId := s.nextId, dies := s.dies, bar0 := s.bar0 } = s))

/-- R231, R25, R182, R350: `end` frees the slot and advances its generation; a thread that made a stamped store leaves a stop
notice due for each of its ids; a PREEMPT handler whose save block is complete leaves its slot without one. No other slot and
no byte of memory differs. -/
def Sys2Proof.Claims.EndWord : Prop :=
  ∀ (s : State) (i : Issue) (t : Thread), s.current = some (i, t) → (s.slot i.place).heldAway = [] →
    ∃ u, exec .endThread s = .next u ∧ u.cur = some { i with moved := true } ∧ (∀ r, r ≠ i.place → u.slot r = s.slot r) ∧
      (∀ a, u.readByte a = s.readByte a) ∧
      (t.priv = false → u.thread? i.place = none ∧
        (u.slot i.place).gen = (if (s.slot i.place).gen < 63 then (s.slot i.place).gen + 1 else 1) ∧
        u.stopped = s.stopped ++ (if t.stampedNow = true ∨ t.stampedAny = true then
          [⟨t.uid, t.former ++ [s.widAt i.place], t.ctx, i.place.die⟩] else [])) ∧
      (t.priv = true → s.saved t.uid = true → u.thread? i.place = none ∧ u.stopped = s.stopped) ∧
      (t.priv = true → s.saved t.uid = false → u.thread? i.place = some { t with hold := .switch })

/-- R226, R233, R210: `rulew` of an index above 0xFFFF or an entry that may not be written traps ILLEGAL; it waits until
its step at the table's home may be made; then it writes the entry at table + 8 x index, and the thread is held until
every lamp die in service has answered. RULE_INVALIDATE is a die's answer: its cores drop the cached entry. -/
def Sys2Proof.Claims.RuleWrites : Prop :=
  (∀ (s : State) (i : Issue) (t : Thread) (s1 s2 : BitVec 5), s.current = some (i, t) → s.stored →
    let k := (t.readS s1).toNat
    let e := t.readS s2
    let pa := (s.record t.ctx 2).toNat + 8 * k
    (0xFFFF < k ∨ ¬ RuleOk e → exec (.rulew s1 s2) s = .next (s.precise i t causeIllegal i.word)) ∧
    (k ≤ 0xFFFF → RuleOk e → ¬ MayAct s i.place.die t.ctx (some t.uid) pa →
      LandsStaying s i (exec (.rulew s1 s2) s) { t with hold := .drain (paHome pa) }) ∧
    (k ≤ 0xFFFF → RuleOk e → MayAct s i.place.die t.ctx (some t.uid) pa → ∃ u dies, exec (.rulew s1 s2) s = .next u ∧
      u.thread? i.place = some { t with hold := .rulew k dies } ∧
      (∀ d, d ∈ dies ↔ d ∈ lampDies ∧ (s.die d).outOfService = false) ∧ u.read64 pa = e ∧
      (∀ a, a < pa ∨ pa + 8 ≤ a → u.readByte a = s.readByte a) ∧ (∀ r, r ≠ i.place → u.slot r = s.slot r) ∧
      StepMade s u pa ∧
      { u with slots := s.slots, mem := s.mem, errors := s.errors, stepped := s.stepped, mgmt := s.mgmt } = s)) ∧
  (∀ (s : State) (die : Nat) (pre post : List (Place × Slot)) (p : Place) (x : Slot) (t : Thread) (k : Nat) (dies : List Nat),
    s.slots = pre ++ (p, x) :: post → x.thread = some t → t.hold = .rulew k dies → die ∈ dies →
    (∀ y ∈ pre, y.1 ≠ p ∧ ∀ v j ds, y.2.thread = some v → v.hold = .rulew j ds → die ∉ ds) →
    ∃ u, exec (.ruleInvalidate die) s = .next u ∧ u.thread? p = some { t with hold := .rulew k (dies.filter (· ≠ die)) } ∧
      (∀ c e, e ∈ (u.core die c).cache ↔ e ∈ (s.core die c).cache ∧ ¬ (e.1 = t.ctx ∧ e.2.1 = k)) ∧
      (∀ d c, d ≠ die → u.core d c = s.core d c) ∧ (∀ r, r ≠ p → u.slot r = s.slot r) ∧
      { u with slots := s.slots, cores := s.cores } = s)

end
/-! ### Links, rewrites and dispatch (R28, R206 to R223, R238, R300) -/

namespace Sys2Proof.Claims
open Sys2Proof.Machine

/-- R214's operators on signed 40-bit numbers, before the result is cut to 40 bits. -/
def numTable (label : Nat) (a b : Int) : Option Int :=
  let sh := (b % 64).toNat
  match label with
  | 2 => some (a + b)
  | 3 => some (a - b)
  | 4 => some (a * b)
  | 5 => some (if b = 0 then 0 else a.tdiv b)
  | 6 => some (if b = 0 then a else a - b * a.tdiv b)
  | 7 => some (BitVec.ofInt 40 a &&& BitVec.ofInt 40 b).toInt
  | 8 => some (BitVec.ofInt 40 a ||| BitVec.ofInt 40 b).toInt
  | 9 => some (BitVec.ofInt 40 a ^^^ BitVec.ofInt 40 b).toInt
  | 10 => some (if 40 ≤ sh then 0 else a * 2 ^ sh)
  | 11 => some (a / 2 ^ sh)
  | 12 => some (if a < b then 1 else 0)
  | 13 => some (if a = b then 1 else 0)
  | 14 => some (min a b)
  | 15 => some (max a b)
  | _ => none

/-- A link of port `k` of a node to a reference, before it begins. -/
def toLink (p q : Word) : LinkWork := .link ⟨p, q, 0, .check, 0, 0, []⟩

/-- A splice of two ports, before it begins. -/
def toSplice (p q : Word) : LinkWork :=
  .splice { a := ⟨p, 0, 0, 0, .free, 0⟩, b := ⟨q, 0, 0, 0, .free, 0⟩, turnB := false, meets := [], pushes := true,
            phase := .takeFirst, writes := [], partners := [] }

/-- The four actions of the rewrite unit: the instruction of a rewrite, its action code, and its plan. -/
def rewriteForm (job : Nat) : Instr → Option (Nat × (Word → Word → Word → Word → List Word → Option Plan))
  | .annihilate j => if j = job then some (1, fun a b ha hb _ => planAnnihilate a b ha hb) else none
  | .commute j => if j = job then some (2, planCommute) else none
  | .erase j => if j = job then some (3, planErase) else none
  | .numop j => if j = job then some (5, planNumop) else none
  | _ => none

/-- The number of nodes a rewrite of two nodes makes (R214). -/
def nodesMade (act : Nat) (ha hb : Word) : Nat :=
  match act with
  | 2 => nodeArity ha + nodeArity hb
  | 3 => if nodeTag ha = 1 then nodeArity hb else nodeArity ha
  | 5 => 1
  | _ => 0

/-- The address a link or redirect names: bits 47:5 and 1:0 of the word (R207, R208). -/
def named (w : Word) : Word := w &&& 0x0000FFFFFFFFFFE3

/-- Port 0 of its node (R208). -/
abbrev AtPort0 (x : Word) : Prop := x.toNat % 4 = 0

/-- A port word that a Take may consume: a link or a root (R218). -/
def Takable (w : Word) : Prop := portOk w = true ∧ (portKind w = 1 ∨ portKind w = 3)

/-- The blocks a unit's reading of nodes steps on (R154; log 73). -/
def nodeBlocks (s : State) (die ctx : Nat) (ns : List Word) : List Nat :=
  ns.filterMap fun n => match s.check die ctx .nodeLoad n 32 with
    | .ok pa _ => some (pa / 256 * 256)
    | .fail _ => none

/-- The place of an entry of a context's rule table (R210). -/
def rulePlace (s : State) (ctx idx : Nat) : Nat := (s.record ctx 2).toNat + 8 * idx

/-- A core holds a rule entry in its cache (R210). -/
def RuleCached (s : State) (die core ctx idx : Nat) : Prop := ∃ e ∈ (s.core die core).cache, e.1 = ctx ∧ e.2.1 = idx

/-- A rule entry is to be read at its home, where a step has been made on its block this cycle (R154, R210). -/
def RuleWaits (s : State) (die core ctx idx : Nat) : Prop :=
  ¬ RuleCached s die core ctx idx ∧ rulePlace s ctx idx / 256 * 256 ∈ s.stepped

/-- What a core's rule cache becomes as it reads an entry: an entry it lacks is read at its home, as a step on its block, and kept
while its context is resident; a full cache drops the entry it has held longest (R154, R210; log 88). -/
def RuleReadOn (s u : State) (die core ctx idx : Nat) (e : Word) : Prop :=
  let x := s.core die core
  (RuleCached s die core ctx idx → (u.core die core).cache = x.cache ∧ (ctx, idx, e) ∈ x.cache) ∧
  (¬ RuleCached s die core ctx idx → e = s.read64 (rulePlace s ctx idx) ∧ (u.core die core).cache =
    (if x.resident ctx = true then (if x.cache.length < 1024 then x.cache else x.cache.drop 1) ++ [(ctx, idx, e)] else x.cache))

/-- The unit of a core takes a pair of a context: one of its eight places is free, no record of it is held, and none waits for a place
among 16 held ones (R213, R241). -/
def UnitOpen (s : State) (die core ctx : Nat) : Prop :=
  let x := s.core die core
  x.rewrites.length < 8 ∧ (∀ r ∈ x.held, ¬ (r.ctx = ctx ∧ r.src = .unit)) ∧
    ¬ (16 ≤ (x.held.filter fun r => r.ctx = ctx).length ∧ ∃ r ∈ s.fresh, r.die = die ∧ r.core = core ∧ r.ctx = ctx ∧ r.src = .unit)

/-- A redirect that is no hold (R207). -/
def Redirects (w : Word) : Prop := portOk w = true ∧ portKind w = 2 ∧ named w ≠ 0

/-- A hold (R207). -/
def Holds (w : Word) : Prop := portOk w = true ∧ portKind w = 2 ∧ named w = 0

/-- Another party's splice in the context has attached one of its ends and has port `x` as an end it is still to attach or has
attached: a Take of `x` waits (R222; log 75). -/
def HalfMade (s : State) (p : Party) (x : Word) : Prop :=
  ∃ q ∈ s.parties, q.uid ≠ p.uid ∧ q.ctx = p.ctx ∧ ∃ t, q.work = .splice t ∧ t.phase ≠ .joined ∧
    (t.a.state = .done ∨ t.b.state = .done) ∧ ((t.a.far = x ∧ portKind t.a.word ≠ 3) ∨ (t.b.far = x ∧ portKind t.b.word ≠ 3))

/-- What a side of a splice writes at the other side's end: its root word, or a link to its own end (R220). -/
def endValue (e : SpliceEnd) : Word := if portKind e.word = 3 then e.word else linkTo e.far

/-- An end of a splice that is still to be attached, because it is not fixed, or because the other end has changed since
(R220 step 3). -/
def StillDue (e o : SpliceEnd) : Prop :=
  portKind e.word ≠ 3 ∧ (e.state = .free ∨ (e.state = .done ∧ e.names ≠ endValue o))

/-- The Meet that an end fixed by MET asks for: at the lower of its port and its old reference (R220 step 5). -/
def meetOf (e : SpliceEnd) : List Word :=
  match e.state with
  | .met old => [if e.port.toNat ≤ old.toNat then e.port else old]
  | _ => []

/-- The last writes of a splice with one root: the root word over an end that was fixed by MET, then the cell (R220 step 5). -/
def lastWrites (a b : SpliceEnd) : List (Word × Word) :=
  let one := fun e r : SpliceEnd =>
    (if meetOf e = [] then [] else [(portAddr e.far, r.word)]) ++ [(named r.word, linkTo e.far)]
  if portKind a.word = 3 ∧ portKind b.word = 3 then []
  else if portKind a.word = 3 then one b a
  else if portKind b.word = 3 then one a b
  else []

/-- A splice that makes no more steps: it pushes the pair of its two ends when both are port 0 and no Meet left that to another
splice (R220 step 5). -/
def spliceOver (s : State) (p : Party) (t : SpliceTask) : State :=
  let p' := { p with work := .splice t }
  if portKind t.a.word ≠ 3 ∧ portKind t.b.word ≠ 3 ∧ t.a.far.toNat % 4 = 0 ∧ t.b.far.toNat % 4 = 0 ∧ t.pushes = true then
    (s.pushPair p t.a.far t.b.far).linkDone p'
  else s.linkDone p'

/-- A splice with no Meet left: its last writes are due, or it is over (R220 step 5). -/
def spliceLast (s : State) (p : Party) (t : SpliceTask) : State :=
  let t1 := { t with phase := .finish, writes := t.writes ++ lastWrites t.a t.b }
  if t1.writes = [] then spliceOver s p t1 else s.setWork p (.splice t1)

/-- A splice after one of its ends is fixed: attached again while an end is due; then its ports become redirects, and the Meets
follow (R220 steps 3 to 5). -/
def SpliceGoes (s : State) (p : Party) (t : SpliceTask) (u : State) : Prop :=
  ((StillDue t.a t.b ∨ StillDue t.b t.a) → u = s.setWork p (.splice { t with phase := .attach })) ∧
  (¬ (StillDue t.a t.b ∨ StillDue t.b t.a) →
    let t1 := { t with
      writes := [(portAddr t.a.port, redirectTo (if portKind t.b.word = 3 then t.a.far else t.b.far)),
        (portAddr t.b.port, redirectTo (if portKind t.a.word = 3 then t.b.far else t.a.far))]
      meets := meetOf t.a ++ meetOf t.b
      phase := .meets }
    u = if t1.meets = [] then spliceLast s p t1 else s.setWork p (.splice t1))

/-- A link answered at its Meet: it pushes the pair of its far end's replacement and its fresh port when it is told to and both are
port 0; it is over (R219). -/
def linkMet (s : State) (p : Party) (k : LinkTask) (dst : Word) (push : Bool) : State :=
  (if push = true ∧ dst.toNat % 4 = 0 ∧ k.q.toNat % 4 = 0 then s.pushPair p dst k.q else s).linkDone p

/-- A splice answered at its first Meet still to make (R220 step 5). -/
def spliceMet (s : State) (p : Party) (t : SpliceTask) (push : Bool) : State :=
  let t1 := { t with meets := t.meets.drop 1, pushes := t.pushes && push, phase := .meets }
  if t1.meets = [] then spliceLast s p t1 else s.setWork p (.splice t1)

/-- The party that waits at a reference after a FIRST (R218). -/
def WaitsAt (s : State) (p : Party) (r : Word) (q : Party) : Prop :=
  ∃ pre post, FirstOf (fun x : Party => x.uid ≠ p.uid ∧ x.ctx = p.ctx ∧
    ((∃ k d, x.work = .link k ∧ k.phase = .waitFirst r d) ∨ ∃ t, x.work = .splice t ∧ t.phase = .waitFirst ∧ t.meets.head? = some r))
    s.parties pre q post

/-- No other party waits at a reference. -/
def NoneWaits (s : State) (p : Party) (r : Word) : Prop := ∀ q, ¬ WaitsAt s p r q

/-- The three instructions that take a party on by one plain write or one step. -/
def StepWord (n : Nat) (ins : Instr) : Prop := ins = .take n ∨ ins = .attach n ∨ ins = .meet n

/-- The port of the next step of a party with no write due, the Attach of a splice apart, and the instruction that makes it. -/
def NextPort (n : Nat) (ins : Instr) (r : Word) : LinkWork → Prop
  | .link k => (k.phase = .check ∧ r = k.q ∧ ins = .take n) ∨ (k.phase = .take ∧ r = k.p ∧ ins = .take n) ∨
      (k.phase = .attach ∧ r = k.x ∧ ins = .attach n) ∨ ((∃ d, k.phase = .meet r d) ∧ ins = .meet n)
  | .splice t => (t.phase = .takeFirst ∧ r = t.a.port ∧ ins = .take n) ∨ (t.phase = .takeSecond ∧ r = t.b.port ∧ ins = .take n) ∨
      (t.phase = .meets ∧ t.meets.head? = some r ∧ ins = .meet n)

end Sys2Proof.Claims

section
open Sys2Proof Sys2Proof.Machine Sys2Proof.Claims

/-- R132, R154, R160, R203, R208, R218, R226, R320, R354, R361: what a step or a plain write meets at an address: a refusal where
its checks fail (or its port reference breaks its layout); a failed home; something it must wait for; or the place it acts at.
There its block has had its step of the cycle, and management is told of an error. -/
def Sys2Proof.Claims.StepsMeet : Prop :=
  (∀ (s : State) (die ctx : Nat) (thread : Option Nat) (va : Word) (n : Nat),
    let o := s.stepAt die ctx thread va n
    (∀ c, s.check die ctx .nodeStore va n = .fail c → o = .fault) ∧
    ∀ pa leaf, s.check die ctx .nodeStore va n = .ok pa leaf →
      ((s.die (paHome pa)).outOfService = true → o = .lost) ∧
      ((s.die (paHome pa)).outOfService = false → MayAct s die ctx thread pa → o = .at_ pa) ∧
      ((s.die (paHome pa)).outOfService = false → ¬ MayAct s die ctx thread pa → o = .wait)) ∧
  (∀ (s : State) (p : Party) (x : Word), (IsRef x → s.portAt p x = s.wordAt p (portAddr x)) ∧ (¬ IsRef x → s.portAt p x = .fault)) ∧
  (∀ (s : State) (p : Party) (va : Word),
    s.wordAt p va = s.stepAt p.die p.ctx (if p.thread.isSome = true then some p.uid else none) va 8) ∧
  ∀ (s : State) (pa : Nat) (x : Word), StepMade s (s.stepOn pa) pa ∧
    { s.stepOn pa with stepped := s.stepped, mgmt := s.mgmt } = s ∧ s.stepWrite pa x = (s.stepOn pa).write64 pa x

/-- R212, R223, R227, R320, R321: what becomes of a party. A thread's link complete, the thread goes on to the word after its
`link`, which its windows count, HOPS telling its longest step where one left its die; a step answered fault makes it trap
LINK_FAULT with its node A, one lost with its home MCHECK with the port word's address, at its `link`. A rewrite whose link is
complete goes on to its next; answered fault, it makes no more steps and a fault thread is due for it. -/
def Sys2Proof.Claims.PartiesGo : Prop :=
  (∀ (s : State) (n : Nat) (at_ : Place) (t : Thread) (k : LinkTask), s.findThread n = some (at_, t) → s.thread? at_ = some t →
    t.link = some k →
    let p : Party := ⟨n, t.ctx, at_.die, at_.core, some at_, .link k⟩
    let t0 : Thread := { t with link := none, hold := .none }
    s.party n = some p ∧ (∀ k', s.setWork p (.link k') = s.setThread at_ { t with link := some k' }) ∧
      (s.linkFault p = s.raise at_ t0 (zx causeLink) t.pc t.nodeA) ∧
      (∀ va, s.linkLost p va = s.raise at_ t0 (zx causeMcheck) t.pc va) ∧
      ∃ t1, OnlyThread s { s.linkDone p with freeCtr := s.freeCtr } at_ ∧ (s.linkDone p).thread? at_ = some t1 ∧
        t1.pc = (loopCheck t.sys t.pc).2 ∧ t1.link = none ∧ t1.hold = .none ∧ t1.firstWord = false ∧
        { t1.sys with lat := t.sys.lat, hops := t.sys.hops } = (loopCheck t.sys t.pc).1 ∧
        t1.sys.hops = (if k.hops = 0 then t.sys.hops else BitVec.ofNat 64 (k.hops % 2 ^ 16)) ∧ (k.hops = 0 → t1.sys.lat = t.sys.lat)) ∧
  (∀ (s : State) (n d c : Nat) (pre post : List ((Nat × Nat) × Core)) (x : Core) (ra rb : List Rewrite) (r : Rewrite) (w : LinkWork),
    s.findThread n = none → s.cores = pre ++ ((d, c), x) :: post →
    (∀ e ∈ pre, e.1 ≠ (d, c) ∧ ∀ y ∈ e.2.rewrites, y.uid ≠ n) → FirstOf (fun y => y.uid = n) x.rewrites ra r rb →
    r.die = d → r.core = c → r.cur = some w →
    let p : Party := ⟨n, r.ctx, d, c, none, w⟩
    let with_ := fun r' : Rewrite => { s with cores := pre ++ ((d, c), { x with rewrites := ra ++ r' :: rb }) :: post }
    s.party n = some p ∧ (∀ w', s.setWork p w' = with_ { r with cur := some w' }) ∧
      (w.partners = [] → s.linkDone p = with_ { r with cur := r.todo.head?, todo := r.todo.drop 1 }) ∧
      (w.partners = [] → s.linkFault p = with_ { r with faulted := true, writes := [], cur := none, todo := [], frees := [] }) ∧
      ∀ va, s.linkLost p va = s.linkFault p)

/-- R218 to R220: the plain writes of a party are made one at a time, each as a step of its own, before its next step; a party
with nothing more to do is then complete. A write, or then a step, that is answered fault, or lost with its home, ends the party;
one that must wait leaves everything as it is. An issuer with no link in progress does nothing. -/
def Sys2Proof.Claims.PartyWrites : Prop :=
  ∀ (s : State) (n : Nat) (ins : Instr), StepWord n ins →
    (s.party n = none → exec ins s = .next s) ∧
    (∀ (p : Party) (r : Word), s.party n = some p → p.work.writes = [] → NextPort n ins r p.work →
      (s.portAt p r = .fault → exec ins s = .next (s.linkFault p)) ∧
      (s.portAt p r = .lost → exec ins s = .next (s.linkLost p (portAddr r))) ∧ (s.portAt p r = .wait → exec ins s = .next s)) ∧
    (∀ (p : Party) (w : Word × Word) (ws : List (Word × Word)), s.party n = some p → p.work.writes = w :: ws →
      (s.wordAt p w.1 = .fault → exec ins s = .next (s.linkFault p)) ∧ (s.wordAt p w.1 = .lost → exec ins s = .next (s.linkLost p w.1)) ∧
      (s.wordAt p w.1 = .wait → exec ins s = .next s) ∧
      (∀ pa, s.wordAt p w.1 = .at_ pa →
        (∀ k, p.work = .link k → let k1 := { k with writes := ws }
          exec ins s = .next (if k.phase = .finish ∧ ws = [] then (s.stepWrite pa w.2).linkDone { p with work := .link k1 }
            else (s.stepWrite pa w.2).setWork p (.link k1))) ∧
        (∀ t, p.work = .splice t → let t1 := { t with writes := ws }
          exec ins s = .next (if t.phase = .finish ∧ ws = [] then spliceOver (s.stepWrite pa w.2) p t1
            else (s.stepWrite pa w.2).setWork p (.splice t1)))))

/-- R218, R219, R221, R227: the steps of a link whose writes are made. It checks that Q is unlinked. TAKE of a port linked to X makes
it a redirect to Q, and Q is to be linked to X; of a root, Q is to become the root and the root's cell a link to Q, the cell last;
any other port is answered fault. ATTACH at X, while X still names P, links X to Q and pushes the pair when both are port 0. A hold
is tried again 16 cycles later; a redirect sends the link to Meet at the lower of P and X, with Q to be linked to the target.
The link keeps its longest step. -/
def Sys2Proof.Claims.LinkSteps : Prop :=
  ∀ (s : State) (n : Nat) (p : Party) (k : LinkTask), s.party n = some p → p.work = .link k → k.writes = [] →
    (∀ pq, k.phase = .check → s.portAt p k.q = .at_ pq → exec (.take n) s =
      .next (if s.read64 pq = 0 then (s.stepOn pq).setWork p (.link { k with phase := .take }) else (s.stepOn pq).linkFault p)) ∧
    (∀ pp, k.phase = .take → s.portAt p k.p = .at_ pp →
      let w := s.read64 pp
      let k1 := { k with x := named w, hops := max k.hops (s.stepHops p pp) }
      (HalfMade s p k.p → exec (.take n) s = .next s) ∧
      (¬ HalfMade s p k.p → ¬ Takable w → exec (.take n) s = .next ((s.stepOn pp).linkFault p)) ∧
      (¬ HalfMade s p k.p → Takable w → exec (.take n) s = .next ((s.stepWrite pp (redirectTo k.q)).setWork p (.link
        (if portKind w = 3 then { k1 with phase := .finish, writes := [(portAddr k.q, w), (named w, linkTo k.q)] }
         else { k1 with phase := .attach, writes := [(portAddr k.q, linkTo (named w))] }))))) ∧
    (∀ px, k.phase = .attach → s.portAt p k.x = .at_ px →
      let w := s.read64 px
      let k1 := { k with hops := max k.hops (s.stepHops p px) }
      (w = linkTo k.p → exec (.attach n) s = .next
        ((if AtPort0 k.x ∧ AtPort0 k.q then (s.stepWrite px (linkTo k.q)).pushPair p k.x k.q
          else s.stepWrite px (linkTo k.q)).linkDone { p with work := .link k1 })) ∧
      (w ≠ linkTo k.p → Holds w → exec (.attach n) s =
        .next ((s.stepOn px).setWork p (.link { k1 with phase := .hold (s.cycle + 16), held := k.held + 1 }))) ∧
      (w ≠ linkTo k.p → Redirects w → exec (.attach n) s = .next ((s.stepOn px).setWork p (.link
        { k1 with phase := .meet (if k.p.toNat ≤ k.x.toNat then k.p else k.x) (named w), writes := [(portAddr k.q, linkTo (named w))] }))) ∧
      (w ≠ linkTo k.p → ¬ Holds w → ¬ Redirects w → exec (.attach n) s = .next ((s.stepOn px).linkFault p))) ∧
    (∀ c, k.phase = .hold c → exec (.linkHoldRetry n) s =
      .next (if c ≤ s.cycle then s.setWork p (.link { k with phase := .attach }) else s) ∧ exec (.viciousCircle n) s = .next s)

/-- R218 to R220: MEET at a redirect. The first Meet of a port sets its bit 61, and its party waits there. The second completes both:
a link pushes unless the other party is a splice; of two splices only the one answered SECOND may push; a splice that meets a link
pushes for both. At a port that nobody waits at any more it completes alone. A word that is no redirect is answered fault. -/
def Sys2Proof.Claims.MeetSteps : Prop :=
  ∀ (s : State) (n : Nat) (p : Party) (r : Word) (pr : Nat), s.party n = some p → p.work.writes = [] → s.portAt p r = .at_ pr →
    ((∃ k d, p.work = .link k ∧ k.phase = .meet r d) ∨ ∃ t rest, p.work = .splice t ∧ t.phase = .meets ∧ t.meets = r :: rest) →
    let w := s.read64 pr
    let redirect := portOk w = true ∧ portKind w = 2
    let s1 := s.stepOn pr
    (¬ redirect → ∃ p', p'.uid = p.uid ∧ p'.thread = p.thread ∧ p'.work.partners = p.work.partners ∧
      exec (.meet n) s = .next (s1.linkFault p')) ∧
    (redirect → bitOf w 61 = false →
      (∀ k d, p.work = .link k → k.phase = .meet r d → exec (.meet n) s = .next ((s.stepWrite pr (w ||| 0x2000000000000000)).setWork
        { p with work := .link { k with hops := max k.hops (s.stepHops p pr) } }
        (.link { k with phase := .waitFirst r d, hops := max k.hops (s.stepHops p pr) }))) ∧
      (∀ t, p.work = .splice t → exec (.meet n) s =
        .next ((s.stepWrite pr (w ||| 0x2000000000000000)).setWork p (.splice { t with phase := .waitFirst })))) ∧
    (redirect → bitOf w 61 = true →
      let second := fun push => match p.work with
        | .link k =>
          let k1 := { k with hops := max k.hops (s.stepHops p pr) }
          linkMet s1 { p with work := .link k1 } k1 (match k.phase with
            | .meet _ d => d
            | _ => 0) push
        | .splice t => spliceMet s1 p t push
      let link := ∃ k, p.work = .link k
      (NoneWaits s p r → exec (.meet n) s = .next (second true)) ∧
      (∀ q j d, WaitsAt s p r q → q.work = .link j → j.phase = .waitFirst r d →
        exec (.meet n) s = .next (linkMet (second true) q j d false)) ∧
      (∀ q u, WaitsAt s p r q → q.work = .splice u → (link → exec (.meet n) s = .next (spliceMet (second false) q u true)) ∧
        (¬ link → exec (.meet n) s = .next (spliceMet (second true) q u false))))

/-- R220, R221, R222: the steps of a splice whose writes are made. It takes its two ports as holds, the first and then the second;
two roots empty their cells, and the splice is then over with no pair. ATTACH links each end to the other, or writes a root word
there, again while an answer has changed an end; of two ends due, one that does not name its port comes first (the model's choice,
log 75), else they take turns. Then the ports become redirects, and the Meets follow. A hold is tried again 16 cycles later. -/
def Sys2Proof.Claims.SpliceSteps : Prop :=
  ∀ (s : State) (n : Nat) (p : Party) (t : SpliceTask), s.party n = some p → p.work = .splice t → t.writes = [] →
    (∀ pa, t.phase = .takeFirst ∨ t.phase = .takeSecond → let e := if t.phase = .takeFirst then t.a else t.b
      s.portAt p e.port = .at_ pa →
      let w := s.read64 pa
      let e' : SpliceEnd := ⟨e.port, w, named w, linkTo e.port, .free, 0⟩
      let s1 := s.stepWrite pa (redirectTo 0)
      (HalfMade s p e.port → exec (.take n) s = .next s) ∧
      (¬ HalfMade s p e.port → ¬ Takable w → exec (.take n) s = .next ((s.stepOn pa).linkFault p)) ∧
      (¬ HalfMade s p e.port → Takable w →
        (t.phase = .takeFirst → exec (.take n) s = .next (s1.setWork p (.splice { t with a := e', phase := .takeSecond }))) ∧
        (t.phase = .takeSecond → exec (.take n) s = .next (s1.setWork p (.splice
          (if portKind t.a.word = 3 ∧ portKind w = 3 then
            { t with b := e', phase := .finish, writes := [(named t.a.word, 0), (named w, 0)] }
           else { t with b := e', phase := .attach })))))) ∧
    (t.phase = .attach → StillDue t.a t.b ∨ StillDue t.b t.a →
      let plain := fun e : SpliceEnd => ∃ pa leaf, s.check p.die p.ctx .nodeStore (portAddr e.far) 8 = .ok pa leaf ∧ s.read64 pa = e.names
      ∃ atB : Bool, (¬ StillDue t.b t.a → atB = false) ∧ (¬ StillDue t.a t.b → atB = true) ∧
        (StillDue t.a t.b → StillDue t.b t.a → (plain t.a ∧ ¬ plain t.b → atB = true) ∧ (plain t.b ∧ ¬ plain t.a → atB = false) ∧
          ((plain t.a ↔ plain t.b) → atB = t.turnB)) ∧
        let e := if atB then t.b else t.a
        let o := if atB then t.a else t.b
        let put := fun e' : SpliceEnd => if atB then { t with b := e', turnB := false } else { t with a := e', turnB := true }
        (s.portAt p e.far = .fault → exec (.attach n) s = .next (s.linkFault p)) ∧
        (s.portAt p e.far = .lost → exec (.attach n) s = .next (s.linkLost p (portAddr e.far))) ∧
        (s.portAt p e.far = .wait → exec (.attach n) s = .next s) ∧
        (∀ pa, s.portAt p e.far = .at_ pa →
          let w := s.read64 pa
          (w = e.names → ∃ u, exec (.attach n) s = .next u ∧
            SpliceGoes (s.stepWrite pa (endValue o)) p { put { e with state := .done, names := endValue o, held := 0 } with phase := .attach } u) ∧
          (w ≠ e.names → Holds w → exec (.attach n) s = .next
            ((s.stepOn pa).setWork p (.splice { put { e with held := e.held + 1 } with phase := .hold (s.cycle + 16) }))) ∧
          (w ≠ e.names → Redirects w → ∃ u, exec (.attach n) s = .next u ∧
            SpliceGoes (s.stepOn pa) p { put { e with state := .met e.far, far := named w, held := 0 } with phase := .attach } u) ∧
          (w ≠ e.names → ¬ Holds w → ¬ Redirects w → exec (.attach n) s = .next ((s.stepOn pa).linkFault p)))) ∧
    (∀ c, t.phase = .hold c →
      exec (.linkHoldRetry n) s = .next (if c ≤ s.cycle then s.setWork p (.splice { t with phase := .attach }) else s))

/-- R221, R222: VICIOUS_CIRCLE. A splice asks for the holder only after 64 answers HOLD at one end. On a closed circle every splice
of it goes on without its remaining steps. Two splices that hold the two ports of one wire become one, of their outer ends (the
model's choice, log 20). Otherwise nothing changes. -/
def Sys2Proof.Claims.ViciousCircles : Prop :=
  ∀ (s : State) (n : Nat) (p : Party) (t : SpliceTask) (c : Nat), s.party n = some p → p.work = .splice t → t.phase = .hold c →
    let e := if t.turnB then t.a else t.b
    let o := if t.turnB then t.b else t.a
    let round := s.circle p.ctx p.uid o.port (s.parties.length + 1) e.far
    let joins := fun (q : Party) (u : SpliceTask) => q.uid ≠ p.uid ∧ (if u.a.port = e.far then u.a else u.b).far = e.port ∧ u.phase ≠ .takeSecond
    (e.held < 64 → exec (.viciousCircle n) s = .next s) ∧
    (64 ≤ e.held → (∀ us, round = some us → exec (.viciousCircle n) s = .next ((us ++ s.parties.flatMap fun q =>
        if q.uid ∈ us then q.work.partners else []).foldl State.goOn s)) ∧
      (round = none → ∀ q u, s.holder p.ctx e.far = some (q, u) →
        (¬ joins q u → exec (.viciousCircle n) s = .next s) ∧
        (joins q u → ∃ v, exec (.viciousCircle n) s = .next v ∧
          let s1 := s.setWork q (.splice { u with phase := .joined, partners := [] })
          let t1 : SpliceTask :=
            { a := if u.a.port = e.far then u.b else u.a, b := o, turnB := false, meets := [], pushes := t.pushes && u.pushes,
              phase := .attach, writes := [], partners := t.partners ++ q.uid :: u.partners }
          (portKind t1.a.word = 3 ∧ portKind o.word = 3 → v = s1.setWork p (.splice
            { t1 with phase := .finish, writes := [(named t1.a.word, 0), (named o.word, 0)] })) ∧
          (¬ (portKind t1.a.word = 3 ∧ portKind o.word = 3) → SpliceGoes s1 p t1 v))) ∧
      (round = none → s.holder p.ctx e.far = none → exec (.viciousCircle n) s = .next s))

/-- R214: what the four actions ask for, as nodes and links in order. ANNIHILATE splices equal ports of nodes of one arity and
makes none. COMMUTE makes arity(A) copies of B, each port wired to the copies of A, and as many of A the other way, and links each
auxiliary port to port 0 of its copy. ERASE makes an eraser of each node popped, one for each auxiliary port of the other node,
and fails with no eraser in the pair. NUMOP makes an OP1 from an OP2 and a NUM, and a NUM, by the operator's table modulo 2^40, from
an OP1 and a NUM, whichever is node A; any other pair, and the labels 0, 1 and 16 to 63, fail. -/
def Sys2Proof.Claims.RewritePlans : Prop :=
  ∀ (a b ha hb : Word) (ns : List Word),
    (nodeArity ha = nodeArity hb → ∃ pl, planAnnihilate a b ha hb = some pl ∧ pl.nodes = [] ∧
      pl.todo = (List.range (nodeArity ha)).map fun k => toSplice (a + BitVec.ofNat 64 (k + 1)) (b + BitVec.ofNat 64 (k + 1))) ∧
    (nodeArity ha ≠ nodeArity hb → planAnnihilate a b ha hb = none) ∧
    (nodeArity ha ≤ 2 → nodeArity hb ≤ 2 → ∃ pl, planCommute a b ha hb ns = some pl ∧
      pl.nodes.length = nodeArity ha + nodeArity hb ∧
      (∀ k, k < nodeArity ha → ∃ p1 p2, pl.nodes[k]? = some (hb, p1, p2) ∧
        (1 ≤ nodeArity hb → p1 = linkTo (ns.getD (nodeArity ha) 0 + BitVec.ofNat 64 (k + 1))) ∧
        (2 ≤ nodeArity hb → p2 = linkTo (ns.getD (nodeArity ha + 1) 0 + BitVec.ofNat 64 (k + 1)))) ∧
      (∀ j, j < nodeArity hb → ∃ p1 p2, pl.nodes[nodeArity ha + j]? = some (ha, p1, p2) ∧
        (1 ≤ nodeArity ha → p1 = linkTo (ns.getD 0 0 + BitVec.ofNat 64 (j + 1))) ∧
        (2 ≤ nodeArity ha → p2 = linkTo (ns.getD 1 0 + BitVec.ofNat 64 (j + 1)))) ∧
      pl.todo = ((List.range (nodeArity ha)).map fun k => toLink (a + BitVec.ofNat 64 (k + 1)) (ns.getD k 0)) ++
        (List.range (nodeArity hb)).map fun j => toLink (b + BitVec.ofNat 64 (j + 1)) (ns.getD (nodeArity ha + j) 0)) ∧
    (nodeTag ha = 1 ∨ nodeTag hb = 1 → ∃ pl, planErase a b ha hb ns = some pl ∧ pl.nodes = ns.map (fun _ => (1, 0, 0)) ∧
      pl.todo = (List.range ns.length).map fun k =>
        toLink ((if nodeTag ha = 1 then b else a) + BitVec.ofNat 64 (k + 1)) (ns.getD k 0)) ∧
    (nodeTag ha ≠ 1 → nodeTag hb ≠ 1 → planErase a b ha hb ns = none) ∧
    (∀ op hn ho, (op, hn, ho) = (b, ha, hb) ∨ (op, hn, ho) = (a, hb, ha) → nodeTag hn = 4 →
      (nodeTag ho = 6 → 2 ≤ nodeLabel ho → nodeLabel ho ≤ 15 → ∃ pl, planNumop a b ha hb ns = some pl ∧
        pl.nodes = [(BitVec.ofNat 64 ((nodePayload hn).toNat * 2 ^ 24 + nodeLabel ho * 2 ^ 18 + 2 ^ 16 + 7), 0, 0)] ∧
        pl.todo = [toLink (op + 2) (ns.getD 0 0 + 1), toLink (op + 1) (ns.getD 0 0)]) ∧
      (∀ x, nodeTag ho = 7 → numTable (nodeLabel ho) (nodePayload ho).toInt (nodePayload hn).toInt = some x →
        ∃ pl, planNumop a b ha hb ns = some pl ∧ pl.nodes = [(BitVec.ofNat 64 ((x % 2 ^ 40).toNat * 2 ^ 24 + 4), 0, 0)] ∧
          pl.todo = [toLink (op + 1) (ns.getD 0 0)])) ∧
    (¬ (∃ hn ho, ((hn, ho) = (ha, hb) ∨ (hn, ho) = (hb, ha)) ∧ nodeTag hn = 4 ∧ (nodeTag ho = 6 ∨ nodeTag ho = 7) ∧
      2 ≤ nodeLabel ho ∧ nodeLabel ho ≤ 15) → planNumop a b ha hb ns = none)

/-- R212, R213, R217, R223, R361: the steps of a rewrite between its links. It begins, once its nodes are popped and zero: tag 9 for
its pair and then its new nodes' words are due as writes, then its links, then its frees. A node that may not be rewritten, or a
condition that fails, ends it in a fault thread, once a slot is free; so does a write that is answered fault. With too few nodes it keeps
those it pops and asks for a batch, and with the quarry empty gives its record back. Reading its pair steps on both blocks (R154). One write, or one free, is made at a time; while a link is in progress the unit
waits, and after the last free the rewrite is over. -/
def Sys2Proof.Claims.RewriteSteps : Prop :=
  ∀ (s : State) (job : Nat) (ins : Instr) (act : Nat) (plan : Word → Word → Word → Word → List Word → Option Plan) (r : Rewrite),
    rewriteForm job ins = some (act, plan) → s.jobOf job = some r → r.action.toNat = act →
    let p : Place := ⟨r.die, r.core, 0⟩
    let blocks := nodeBlocks s r.die r.ctx [r.a, r.b]
    let fails := (s.freeFor r.die r.core r.ctx = none → exec ins s = .next s) ∧ (s.freeFor r.die r.core r.ctx ≠ none →
      exec ins s = .next ({ s with stepped := blocks ++ s.stepped }.unitFault r))
    (r.faulted = true → exec ins s = .next (s.unitFault r)) ∧
    (r.faulted = false → r.begun = false →
      ((s.readNode r.die r.ctx r.a = .away ∨ s.readNode r.die r.ctx r.b = .away) → exec ins s = .next s) ∧
      ((s.readNode r.die r.ctx r.a = .bad ∧ s.readNode r.die r.ctx r.b ≠ .away ∨
        s.readNode r.die r.ctx r.b = .bad ∧ s.readNode r.die r.ctx r.a ≠ .away) → fails) ∧
      ∀ ha pa qa la a3 hb pb qb lb b3,
      s.readNode r.die r.ctx r.a = .ok ha pa qa a3 la → s.readNode r.die r.ctx r.b = .ok hb pb qb b3 lb →
      (nodeBad ha qa a3 = true ∨ nodeBad hb qb b3 = true ∨ plan r.a r.b ha hb [] = none → fails) ∧
      (nodeBad ha qa a3 = false → nodeBad hb qb b3 = false → plan r.a r.b ha hb [] ≠ none →
        let st := ownPopped s p r.ctx r.uid ++ (regained s p r.ctx).1
        let n := nodesMade act ha hb
        (n ≤ st.length → (∀ x ∈ st.take n, s.zeroing r.die r.ctx x = false) → ∀ pl, plan r.a r.b ha hb (st.take n) = some pl →
          ∃ v, NodesPopped s v p r.ctx r.uid [] (st.drop n) ∧ (v.core r.die r.core).wants = (s.core r.die r.core).wants ∧
          v.stepped = blocks ++ s.stepped ∧ { v with cores := s.cores, stepped := s.stepped } = s ∧
          exec ins s = .next (v.modJob r fun x => { x with
            begun := true
            writes := (r.a, ha &&& 0xFFFFFFFFFFFF0000 ||| 9) ::
              (if r.a = r.b then [] else [(r.b, hb &&& 0xFFFFFFFFFFFF0000 ||| 9)]) ++
              ((st.take n).zip pl.nodes).flatMap fun e =>
                (e.1, e.2.1) :: [(e.1 + 16, e.2.2.1), (e.1 + 24, e.2.2.2)].filter fun w => w.2 ≠ 0
            todo := pl.todo
            frees := r.a :: if r.a = r.b then [] else [r.b] })) ∧
        (n ≤ st.length → (∃ x ∈ st.take n, s.zeroing r.die r.ctx x = true) → exec ins s = .next s) ∧
        (st.length < n → s.quarryLeft r.ctx = true → ∃ u, exec ins s = .next u ∧ NodesPopped s u p r.ctx r.uid st [] ∧
          (u.core r.die r.core).wants = (s.core r.die r.core).wants ++ (if r.ctx ∈ (s.core r.die r.core).wants then [] else [r.ctx]) ∧
          { u with cores := s.cores } = s) ∧
        (st.length < n → s.quarryLeft r.ctx = false → ∃ v, stack v p r.ctx = (regained s p r.ctx).1 ∧ OnlyStack s v p r.ctx ∧
          (v.core r.die r.core).giveBack = (s.core r.die r.core).giveBack ++ (regained s p r.ctx).2 ∧
          (∀ e, e ∈ (v.core r.die r.core).popped ↔ e ∈ (s.core r.die r.core).popped ∧ ¬ Stray s p r.ctx e) ∧
          (v.core r.die r.core).wants = (s.core r.die r.core).wants ∧ { v with cores := s.cores } = s ∧
          exec ins s = .next (v.unitEmpty r)))) ∧
    (r.faulted = false → r.begun = true →
      (∀ w ws, r.writes = w :: ws → let o := s.stepAt r.die r.ctx none w.1 8
        (o = .fault ∨ o = .lost → exec ins s = .next (s.jobFault r.uid)) ∧ (o = .wait → exec ins s = .next s) ∧
        (∀ pa, o = .at_ pa → exec ins s = .next ((s.stepWrite pa w.2).modJob r fun x => { x with writes := x.writes.drop 1 }))) ∧
      (r.writes = [] → r.cur ≠ none → exec ins s = .next s) ∧
      (r.writes = [] → r.cur = none → r.todo ≠ [] →
        exec ins s = .next (s.modJob r fun x => { x with cur := x.todo.head?, todo := x.todo.drop 1 })) ∧
      (∀ n ns, r.writes = [] → r.cur = none → r.todo = [] → r.frees = n :: ns → let o := s.stepAt r.die r.ctx none n 32
        (o = .fault ∨ o = .lost → exec ins s = .next (s.jobFault r.uid)) ∧ (o = .wait → exec ins s = .next s) ∧
        (∀ pa, o = .at_ pa → let w := (s.stepOn pa).writeNat pa 32 0
          ∃ v, FreedOnto w v p r.ctx n ∧ { v with cores := s.cores } = w ∧
            exec ins s = .next (v.modJob r fun x => { x with frees := x.frees.drop 1 }))) ∧
      (r.writes = [] → r.cur = none → r.todo = [] → r.frees = [] →
        exec ins s = .next (s.modCore r.die r.core fun x => { x with rewrites := x.rewrites.filter fun y => y.uid ≠ r.uid })))

/-- R217, R236, R375: a rewrite whose nodes the quarry cannot supply puts what it has popped on the stack again and gives its record
back to its core's hod, or to the die's partition; while neither has room it waits. The context's log and management are told, and the
record counts as not consumed (the model's choice, log 51). -/
def Sys2Proof.Claims.RewritesGiveBack : Prop :=
  ∀ (s : State) (r : Rewrite),
    let p : Place := ⟨r.die, r.core, 0⟩
    let x := s.core r.die r.core
    let own := ((x.popped.find? fun e => e.1 = r.uid).map (·.2.2)).getD []
    ∃ v0, stack v0 p r.ctx = (pushed r.ctx own (stack s p r.ctx)).1 ∧ OnlyStack s v0 p r.ctx ∧
    (v0.core r.die r.core).giveBack = x.giveBack ++ (pushed r.ctx own (stack s p r.ctx)).2 ∧ (v0.core r.die r.core).wants = x.wants ∧
    (∀ e, e ∈ (v0.core r.die r.core).popped ↔ e ∈ x.popped ∧ e.1 ≠ r.uid) ∧ { v0 with cores := s.cores } = s ∧
    let s1 := v0.modCore r.die r.core fun x => { x with rewrites := x.rewrites.filter fun y => y.uid ≠ r.uid }
    let room := x.resident r.ctx = true ∧ x.hodCount r.ctx < x.capOf r.ctx ∧ x.hod.length < 1024
    let back := fun v : State => ((v.modStatus r.die r.ctx fun c => { c with consumed := c.consumed - 1 }).faultRecord r.ctx 3
      causeQuarry 0 0 r.a).tell (.quarryEmpty r.ctx r.a)
    (room → s.unitEmpty r = back (s1.modCore r.die r.core fun y => { y with hod := y.hod ++ [⟨r.w0, r.w1, s.cycle, s.cycle⟩] })) ∧
    (¬ room → s.partRoom r.ctx r.die = 0 → s.unitEmpty r = s) ∧
    (¬ room → s.partRoom r.ctx r.die ≠ 0 → ∃ v, s.unitEmpty r = back v ∧
      v.spilling = s.spilling ++ [⟨r.die, r.ctx, r.w0, r.w1, none⟩] ∧ { v with spilling := s.spilling, dies := s.dies } = s1)

/-- R238, R28: the record a slot's context is dispatched is in the hod, of its context, within the headroom or of priority 3; no
such record has a higher priority, and of those of its priority it stands last. -/
def Sys2Proof.Claims.RecordChoice : Prop :=
  ∀ (s : State) (d c ctx : Nat) (e : HodEntry), s.nextRecord d c ctx = some e →
    let may := fun x : HodEntry => x.w0.toNat / 2 ^ 58 = ctx ∧
      (x.w0.toNat / 2 ^ 56 % 4 = 3 ∨ x.w0.toNat / 2 ^ 54 % 4 ≤ (s.die d).headroom.toNat)
    may e ∧ ∃ pre post, (s.core d c).hod = pre ++ e :: post ∧
      (∀ x ∈ pre, may x → x.w0.toNat / 2 ^ 56 % 4 ≤ e.w0.toNat / 2 ^ 56 % 4) ∧
      (∀ x ∈ post, may x → x.w0.toNat / 2 ^ 56 % 4 < e.w0.toNat / 2 ^ 56 % 4)

/-- R28, R30, R238, R245: DISPATCH_TAKE of a record whose rule is CALL, for a free slot of its context on a core that may take one
this cycle: the record leaves the hod and is counted, and a thread starts at the handler with the two nodes in s1 and s2, node A
first, and the context's fault handler in TRAPVEC. Memory does not change. Reading the nodes and an entry the cache lacks steps on their
blocks; while one of those has had a step this cycle, the take waits (R154). -/
def Sys2Proof.Claims.DispatchCalls : Prop :=
  ∀ (s : State) (p : Place) (ctx : Nat) (e : HodEntry) (hx px qx : Word) (x3 : Nat) (qx' : Word) (hy py qy : Word) (y3 : Nat) (qy' : Word),
    (s.core p.die p.core).takeBusy = none → (s.slot p).owner = some ctx → (s.die p.die).halt = false →
    (s.core p.die p.core).lastTake ≠ some s.cycle → (s.core p.die p.core).weightOf ctx ≠ 0 →
    (s.core p.die p.core).resident ctx = true → s.slotFor p ctx = true → s.nextRecord p.die p.core ctx = some e →
    let x := recA e.w0
    let y := recB e.w1
    s.readNode p.die ctx x = .ok hx px qx qx' x3 → s.readNode p.die ctx y = .ok hy py qy qy' y3 →
    nodeBad hx qx qx' = false → nodeBad hy qy qy' = false →
    let cx := s.classOf ctx (nodeTag hx)
    let cy := s.classOf ctx (nodeTag hy)
    let first := cx < cy ∨ (cx = cy ∧ x.toNat ≤ y.toNat)
    let idx := if first then cx * 256 + cy else cy * 256 + cx
    let rule := (s.ruleRead p.die p.core ctx idx).2
    (RuleWaits s p.die p.core ctx idx → exec (.dispatchTake p) s = .next s) ∧
    (¬ RuleWaits s p.die p.core ctx idx → rule.toNat / 2 ^ 48 = 0 → rule.toNat % 16 = 4 → rule.toNat / 2 ^ 8 % 2 ^ 40 ≠ 0 →
    ∃ u t, exec (.dispatchTake p) s = .next u ∧ u.thread? p = some t ∧ t.uid = s.nextId ∧
      Started t ctx (BitVec.ofNat 64 (rule.toNat / 2 ^ 8 % 2 ^ 40 * 8))
        (fun k => if k = 1 then (if first then x else y) else if k = 2 then (if first then y else x) else 0) (s.record ctx 3) ∧
      t.nodeA = (if first then x else y) ∧ (u.core p.die p.core).hod = (s.core p.die p.core).hod.erase e ∧
      ((u.die p.die).statusOf ctx).consumed = ((s.die p.die).statusOf ctx).consumed + 1 ∧
      (u.core p.die p.core).lastTake = some s.cycle ∧ RuleReadOn s u p.die p.core ctx idx rule ∧
      (∀ b, b ∈ u.stepped ↔ b ∈ nodeBlocks s p.die ctx [x, y] ∨ b ∈ s.stepped ∨
        ¬ RuleCached s p.die p.core ctx idx ∧ b = rulePlace s ctx idx / 256 * 256) ∧
      (∀ r, r ≠ p → u.slot r = s.slot r) ∧ ∀ a, u.readByte a = s.readByte a)

/-- R28, R210 to R213, R238, R341: DISPATCH_TAKE of a record whose rule is not CALL. A bad node, action 0 or a rule that is none
starts a fault thread, TRAPINFO node A, or, with no handler, is a fatal fault. A built-in action goes to the rewrite unit; while its
eight places are full, or a record it made is held, the take waits, and goes on, with the nodes and the rule read again, once it
may (the core's other takes wait behind it: log 90). While a node or the rule cannot be read yet, nothing happens. Of a pair with a node
that cannot be read at all, the record's first is node A (log 89). -/
def Sys2Proof.Claims.DispatchActions : Prop :=
  ∀ (s : State) (p : Place) (ctx : Nat) (e : HodEntry) (hx px qx : Word) (x3 : Nat) (qx' : Word) (hy py qy : Word) (y3 : Nat) (qy' : Word),
    recCtx e.w0 = ctx → (s.slot p).thread = none → (s.slot p).heldAway = [] → (s.die p.die).halt = false →
    let c0 := s.core p.die p.core
    let fresh := c0.takeBusy = none ∧ (s.slot p).owner = some ctx ∧ c0.lastTake ≠ some s.cycle ∧ c0.weightOf ctx ≠ 0 ∧
      c0.resident ctx = true ∧ s.slotFor p ctx = true ∧ s.nextRecord p.die p.core ctx = some e
    let again := c0.takeBusy = some (p.slot, e)
    let free := UnitOpen s p.die p.core ctx
    let x := recA e.w0
    let y := recB e.w1
    (again → ¬ free → exec (.dispatchTake p) s = .next s) ∧
    (fresh ∨ (again ∧ free) → s.readNode p.die ctx x = .ok hx px qx qx' x3 → s.readNode p.die ctx y = .ok hy py qy qy' y3 →
      let bad := nodeBad hx qx qx' = true ∨ nodeBad hy qy qy' = true
      let cx := s.classOf ctx (nodeTag hx)
      let cy := s.classOf ctx (nodeTag hy)
      let first := cx < cy ∨ (cx = cy ∧ x.toNat ≤ y.toNat)
      let a := if first then x else y
      let b := if first then y else x
      let idx := if first then cx * 256 + cy else cy * 256 + cx
      let rule := (s.ruleRead p.die p.core ctx idx).2
      let act := rule.toNat % 16
      let h := s.record ctx 3
      (RuleWaits s p.die p.core ctx idx → exec (.dispatchTake p) s = .next s) ∧ (¬ RuleWaits s p.die p.core ctx idx → ∃ u, exec (.dispatchTake p) s = .next u ∧
        (fresh → (u.core p.die p.core).hod = c0.hod.erase e ∧ (u.core p.die p.core).lastTake = some s.cycle ∧
          ((u.die p.die).statusOf ctx).consumed = ((s.die p.die).statusOf ctx).consumed + 1) ∧
        (again → (u.core p.die p.core).hod = c0.hod) ∧ (∀ r, r ≠ p → u.slot r = s.slot r) ∧ (∀ k, u.readByte k = s.readByte k) ∧
        (bad ∨ ¬ RuleOk rule ∨ act = 0 →
          (u.core p.die p.core).takeBusy = none ∧ (u.core p.die p.core).rewrites = c0.rewrites ∧
          (h ≠ 0 → ∃ t, u.thread? p = some t ∧ t.nodeA = a ∧ t.sys.trapcause = BitVec.ofNat 64 causeLink.toNat ∧ t.sys.trappc = 0 ∧
            t.sys.trapinfo = a ∧ Started { t with sys := { t.sys with trapcause := 0, trapinfo := 0 } } ctx h
              (fun k => if k = 1 then a else if k = 2 then b else 0) h) ∧
          (h = 0 → u.thread? p = none ∧ (ctx < 64 → u.bar0.faulted.getLsbD ctx = true))) ∧
        (¬ bad → RuleOk rule → act ≠ 0 → act ≠ 4 → u.slot p = s.slot p ∧
          (free → (u.core p.die p.core).takeBusy = none ∧ u.nextId = s.nextId + 1 ∧ (u.core p.die p.core).rewrites = c0.rewrites ++
            [{ uid := s.nextId, ctx := ctx, die := p.die, core := p.core, action := BitVec.ofNat 4 act, w0 := e.w0, w1 := e.w1, a := a,
               b := b, begun := false, faulted := false, writes := [], todo := [], cur := none, frees := [] }]) ∧
          (¬ free → (u.core p.die p.core).takeBusy = some (p.slot, e) ∧ (u.core p.die p.core).rewrites = c0.rewrites)))) ∧
    ((fresh ∨ again) → (s.readNode p.die ctx x = .away ∨ s.readNode p.die ctx y = .away) → exec (.dispatchTake p) s = .next s) ∧
    (fresh → ∀ d, (s.readNode p.die ctx x = .bad ∧ s.readNode p.die ctx y = d ∨ s.readNode p.die ctx x = d ∧ s.readNode p.die ctx y = .bad) →
      d ≠ .away → s.record ctx 3 ≠ 0 → ∃ u t, exec (.dispatchTake p) s = .next u ∧ u.thread? p = some t ∧ t.sys.trapinfo = x ∧
        t.readS 1 = x ∧ t.readS 2 = y ∧ t.sys.trapcause = BitVec.ofNat 64 causeLink.toNat)

/-- R215, R216: QUARRY_BATCH. A batch on its way back joins the returned nodes. Otherwise a core that asked is served up to eight
nodes, returned ones first and oldest first, then never-used ones from the mark up, which are made zero (the model's choice of when, log 74).
They go on its stack, their first on top, and the words of its context that asked go on; a stack that would then hold more than 64 gives
its bottom 32 back, and nodes popped by one that waits no longer are on the stack again first (the model's choices, log 87). While a new
node's scratchpad is away nothing happens. -/
def Sys2Proof.Claims.QuarryBatches : Prop :=
  ∀ (s : State) (d c ctx : Nat) (pre post : List CtxInfo) (info : CtxInfo), s.stored → FirstOf (fun x => x.n = ctx) s.ctxs pre info post →
    (∀ bs b bs', FirstOf (fun x => x.1 = ctx) (s.core d c).giveBack bs b bs' → ∃ u, exec (.quarryBatch d c ctx) s = .next u ∧
      (u.core d c).giveBack = bs ++ bs' ∧ u.ctxs = pre ++ { info with returned := info.returned ++ b.2 } :: post ∧
      { u with cores := s.cores, ctxs := s.ctxs } = s) ∧
    ((∀ b ∈ (s.core d c).giveBack, b.1 ≠ ctx) → ctx ∈ (s.core d c).wants →
      let last := (s.record ctx 4).toNat + (s.record ctx 5).toNat
      ∃ m : Nat, m ≤ 8 - (info.returned.take 8).length ∧
        (m < 8 - (info.returned.take 8).length → last < info.mark.toNat + 32 * m + 32) ∧
        (0 < m → info.mark.toNat + 32 * m ≤ last) ∧
        let new := (List.range m).map fun k => BitVec.ofNat 64 (info.mark.toNat + 32 * k)
        let places := new.filterMap fun n => match s.translate d ctx .nodeName n with
          | .ok pa _ => some pa
          | .fail _ => none
        ((∃ pa ∈ places, s.paAway ctx pa = true) → exec (.quarryBatch d c ctx) s = .next s) ∧
        ((∀ pa ∈ places, s.paAway ctx pa = false) → ∃ u, exec (.quarryBatch d c ctx) s = .next u ∧
          (let p : Place := ⟨d, c, 0⟩
           let st := pushed ctx (info.returned.take 8 ++ new) (regained s p ctx).1
           stack u p ctx = st.1 ∧ (u.core d c).giveBack = (s.core d c).giveBack ++ (regained s p ctx).2 ++ st.2 ∧
           (∀ e, e ∈ (u.core d c).popped ↔ e ∈ (s.core d c).popped ∧ ¬ Stray s p ctx e) ∧ OnlyStack s u p ctx) ∧
          u.ctxs = pre ++ { info with returned := info.returned.drop 8, mark := info.mark + BitVec.ofNat 64 (32 * m) } :: post ∧
          (u.core d c).wants = (s.core d c).wants.filter (fun w => decide (w ≠ ctx)) ∧
          (∀ a, u.readByte a = if ∃ pa ∈ places, pa ≤ a ∧ a < pa + 32 then 0 else s.readByte a) ∧
          ∀ q t, s.thread? q = some t → u.thread? q = some (if q.die = d ∧ q.core = c ∧ t.ctx = ctx ∧ t.hold = .quarry false then
            { t with hold := .quarry true } else t)))

/-- R300, R308: DRAIN_WAKE. The drain first sends for word 1 of its wake node. Once that is answered, a link to a port 0 makes the
record of the two nodes, created on the operation's core, and the drain is complete once that is written; a word that is none
starts a fault thread in a free slot of the context and completes the drain; one that could not be read is a late fault of it. -/
def Sys2Proof.Claims.DrainWakes : Prop :=
  ∀ (s : State) (pre post : List TileOp) (o : TileOp), FirstOf (fun x => x.uid = o.uid) s.ops pre o post →
    let w := o.regs.getD 1 0
    let ins := Instr.drainWake o.uid
    (o.phase = .waking →
      (∀ c, s.translate o.place.die o.ctx .nodeLoad (w + 8) = .fail c → exec ins s = .next (s.opFault o (BitVec.ofNat 64 c.toNat) (w + 8))) ∧
      (∀ pa leaf, s.translate o.place.die o.ctx .nodeLoad (w + 8) = .ok pa leaf → exec ins s = .next { s with
        nextId := s.nextId + 1, sends := s.sends ++ [engineReq o s.nextId pa (.load [⟨0, w + 8, pa, 8⟩])]
        ops := pre ++ { o with phase := .wakeReading, waitFor := [s.nextId], reads := [], bad := none } :: post })) ∧
    (o.phase = .wakeRead →
      (∀ c va, o.bad = some (c, va) → exec ins s = .next (s.opFault o (BitVec.ofNat 64 c.toNat) va)) ∧
      (o.bad = none → let x := BitVec.ofNat 64 (o.val 0)
        let pair := portOk x = true ∧ portKind x = 1 ∧ x.toNat % 4 = 0
        (pair → exec ins s = .next { s.createRecord .wake o.uid o.ctx o.place.die o.place.core w (named x) with
          ops := pre ++ { o with phase := .recording } :: post }) ∧
        (¬ pair → (∀ q, s.freeFor o.place.die o.place.core o.ctx = some q → exec ins s = .next ((s.faultThread q o.ctx w 0).opDone o)) ∧
          (s.freeFor o.place.die o.place.core o.ctx = none → exec ins s = .next s)))) ∧
    (o.phase ≠ .waking → o.phase ≠ .wakeRead → exec ins s = .next s)

end
/-! ### Tile words and the tile unit (R158, R197 to R200, R254, R290 to R308, R331, R377) -/

namespace Sys2Proof.Claims
open Sys2Proof.Machine

/-- A bit field of a descriptor. -/
def field (d : BitVec 128) (lo n : Nat) : Nat := d.toNat / 2 ^ lo % 2 ^ n

/-- R291's layout: its zero fields, 1 to 64 rows and columns, a format of 0 to 13, and a selector that suits it. -/
def DescOk (d : BitVec 128) : Prop :=
  field d 48 16 = 0 ∧ field d 96 8 = 0 ∧ 1 ≤ field d 104 7 ∧ field d 104 7 ≤ 64 ∧ 1 ≤ field d 111 7 ∧ field d 111 7 ≤ 64 ∧
    field d 118 4 ≤ 13 ∧ (field d 118 4 ≤ 7 → field d 122 6 ≤ 1) ∧ (8 ≤ field d 118 4 → field d 118 4 ≠ 13 → field d 122 6 = 0)

/-- A word that takes a tile sequence number: its opcode, its three fields, and what it reads at issue (R290, R295). -/
structure OpForm where
  op : Nat
  fa : Nat
  fb : Nat
  fc : Nat
  descs : List (BitVec 128)
  regs : List Word
  vec : VReg
  solver : Bool

/-- The words that take a sequence number (R290, R331). -/
def opForm (t : Thread) : Instr → Option OpForm
  | .tzero a s1 s2 => some ⟨1, a.toNat, 0, 0, [], [t.readS s1, t.readS s2], 0, false⟩
  | .tmm a da db => some ⟨2, a.toNat, da.toNat, db.toNat, [t.readD da, t.readD db], [], 0, false⟩
  | .tmmr a dx k s1 => some ⟨3, a.toNat, dx.toNat, k.toNat, [t.readD dx], [t.readS s1], 0, false⟩
  | .tdrain a dc s1 => some ⟨4, a.toNat, dc.toNat, 0, [t.readD dc], [if s1 = 0 then 0 else 1, t.readS s1], 0, false⟩
  | .tcopy ch s1 s2 s3 => some ⟨5, ch.toNat, 0, 0, [], [t.readS s1, t.readS s2, t.readS s3], 0, false⟩
  | .tcnv dd ds => some ⟨8, dd.toNat, ds.toNat, 0, [t.readD dd, t.readD ds], [], 0, false⟩
  | .tqms dr da dx s1 => some ⟨9, dr.toNat, da.toNat, dx.toNat, [t.readD dr, t.readD da, t.readD dx], [t.readS s1], 0, true⟩
  | .tlu dn => some ⟨10, dn.toNat, 0, 0, [t.readD dn], [], 0, true⟩
  | .tsolv dl dv => some ⟨11, dl.toNat, dv.toNat, 0, [t.readD dl, t.readD dv], [], 0, true⟩
  | .reds s1 s2 v => some ⟨24, 0, 0, 0, [], [t.readS s1, t.readS s2], t.readV v, false⟩
  | _ => none

/-- The step that runs an operation, its opcode. -/
def stepOf (op : Nat) : Instr → Option Nat
  | .tzeroExecute o => if o = op then some 1 else none
  | .tmmExecute o => if o = op then some 2 else none
  | .tmmrReadStep o => if o = op then some 3 else none
  | .tdrainExecute o => if o = op then some 4 else none
  | .tcopyExecute o => if o = op then some 5 else none
  | .tcnvExecute o => if o = op then some 8 else none
  | .tqmsExecute o => if o = op then some 9 else none
  | .tluExecute o => if o = op then some 10 else none
  | .tsolvExecute o => if o = op then some 11 else none
  | _ => none

/-- The E8M10 operands of a product of two tiles of raw elements (R297). -/
def tmmOperands (tabs : Tables) (dA dB : BitVec 128) (va vb : List Nat) : Operands :=
  ⟨matOf (descCols dA) (va.map fun x => (toProduct tabs (descFmt dA) x).1),
   fun j k => if j < descRows dB then matOf (descCols dB) (vb.map fun x => (toProduct tabs (descFmt dB) x).1) j k else 0⟩

/-- The word in its issue cycle sends for words of an image as one plain load of `t` and does not act: the first that fails its
checks traps precisely; one whose lowest word lies in another lamp die's scratchpad sends its thread there; else their requests are
sent, and the words come back to the word itself, which then issues again (R130, R162, R292; log 17). -/
def Fetches (s : State) (i : Issue) (t : Thread) (vas : List Word) (ordered : Bool) (o : Host.Outcome State Fault Refusal) : Prop :=
  let elems := vas.mapIdx fun k va => (k, va)
  (∀ pre l va post c es, elems = pre ++ (l, va) :: post → List.Forall₂ (Passes s i t .load 8) pre es →
    s.check i.place.die t.ctx .load va 8 = .fail c → o = .next (s.precise i t c va)) ∧
  (∀ e es, List.Forall₂ (Passes s i t .load 8) elems (e :: es) →
    (paSpace e.paddr = 1 ∧ paHome e.paddr ≠ i.place.die →
      ∃ t', { t' with hold := t.hold, migration := t.migration } = t ∧ t'.hold = .migrate ∧
        t'.migration = some ⟨paHome e.paddr, paCore e.paddr, i.pc, t.sys.lc0, t.sys.lc1, .waiting⟩ ∧ LandsStaying s i o t') ∧
    (¬ (paSpace e.paddr = 1 ∧ paHome e.paddr ≠ i.place.die) →
      ∃ (u : State) (t' : Thread) (g : Tag) (rs : List (List Elem × Req)), o = .next u ∧ u.cur = some { i with moved := true } ∧
        Sends s i.place (.next { u with cur := s.cur }) t' (rs.map fun r => (r.2, .load, groupAddr r.1)) ∧
        rs.map (·.1) = groupsOf (e :: es) ∧ (∀ r ∈ rs, AsksHome s i.place t (groupPa r.1) ordered (.load r.1) r.2) ∧
        t'.tags = t.tags ++ [g] ∧ { t' with tags := t.tags } = t ∧ g.req = s.nextId ∧ g.pc = i.pc ∧ g.la = 0 ∧ g.count = 0 ∧
        g.frozen = false ∧ g.state = .waiting ∧ g.parts = (groupsOf (e :: es)).length ∧ g.hasV = false ∧ g.sds = [] ∧
        g.u = vas.map (fun _ => 0) ∧ g.image = true ∧ g.ordered = ordered ∧ g.addr = vas.headD 0))

/-- The 8-byte words from an address up. -/
def imageAddrs (a : Word) (n : Nat) : List Word := (List.range n).map fun k => a + BitVec.ofNat 64 (8 * k)

/-- A word of an image that can be read from where the thread is. -/
def Near (s : State) (i : Issue) (t : Thread) (va : Word) : Prop :=
  ∃ pa leaf, s.check i.place.die t.ctx .load va 8 = .ok pa leaf ∧ ¬ (paSpace pa = 1 ∧ paHome pa ≠ i.place.die)

/-- The word in its issue cycle sends for the next words of an image in ascending order: as many as can be read from where the
thread is, or the first alone, which traps or sends the thread on (R162, R302). -/
def FetchesOn (s : State) (i : Issue) (t : Thread) (vas : List Word) (o : Host.Outcome State Fault Refusal) : Prop :=
  ∃ m, 1 ≤ m ∧ m ≤ vas.length ∧ (∀ va ∈ vas.take m, 1 < m → Near s i t va) ∧ (∀ va, vas.head? = some va → ¬ Near s i t va → m = 1) ∧
    (∀ va wb, vas.head? = some va → Near s i t va → vas[m]? = some wb → ¬ Near s i t wb) ∧ Fetches s i t (vas.take m) true o

/-- The elements of tiles that an operation reads, one after another: number, address and size (R291, R298). -/
def tileElems (ds : List (BitVec 128)) : List (Nat × Word × Nat) :=
  (ds.flatMap fun d => (List.range (descRows d)).flatMap fun r => (List.range (descCols d)).map fun c =>
    (elemAddr d r c, elemBytes (descFmt d))).mapIdx fun k x => (k, x.1, x.2)

/-- The raw elements of a tile that an operation has read, `k0` elements of other tiles before it: of a code4 format, the nibble
(R291). -/
def tileOf (o : TileOp) (k0 : Nat) (d : BitVec 128) : List Nat :=
  (List.range (descRows d * descCols d)).map fun k =>
    let v := o.val (k0 + k)
    if isCode4 (descFmt d) then (if k % descCols d % 2 = 0 then v % 16 else v / 16) else v

/-- The elements of a tile, as a count. -/
def tileSize (d : BitVec 128) : Nat := descRows d * descCols d

/-- The failing element of the lowest address of an engine's read, if one fails (R308). -/
def LowestFail (s : State) (o : TileOp) (a : Access) (xs : List (Nat × Word × Nat)) (bad : Option (BitVec 8 × Word)) : Prop :=
  let fails := fun c va => ∃ k z, (k, va, z) ∈ xs ∧ s.translate o.place.die o.ctx a va = .fail c
  (bad = none → ∀ c va, ¬ fails c va) ∧ ∀ c va, bad = some (c, va) → fails c va ∧ ∀ c' va', fails c' va' → va.toNat ≤ va'.toNat

/-- An indication is raised exactly where one of several raises it. -/
def Raises (ind : Ind) (xs : List Ind) : Prop := ∀ b, b < 7 → (ind.getLsbD b = true ↔ ∃ x ∈ xs, x.getLsbD b = true)

/-- An operation has begun: it has sent for its operands, or written, or it is a `tmmr` at the head of its queue, which may then wait
for its segments (R254). -/
def Begun (s : State) (o : TileOp) : Prop :=
  o.phase ≠ .queued ∨ o.wrote ≠ 0 ∨ (o.op = 3 ∧ s.opHead o.uid ≠ none ∧ s.tableHeld o = false)

/-- An operation is gone, and with the last one of an ended thread its accumulators (R231, R293). -/
def OpGone (s u : State) (o : TileOp) : Prop :=
  u.ops = s.ops.filter (fun x => decide (x.uid ≠ o.uid)) ∧
    ((∃ x ∈ s.ops, x.uid ≠ o.uid ∧ x.owner = o.owner) → u.accs = s.accs) ∧
    ((∀ x ∈ s.ops, x.uid ≠ o.uid → x.owner ≠ o.owner) → u.accs = s.accs.filter fun e => decide (e.1 ≠ o.owner)) ∧
    { u with ops := s.ops, accs := s.accs } = s

/-- The bytes of element `k` of a tile, at a physical address, and the bits of each that are written: a code4 element is half a byte
(R274, R291, R298). -/
def elemWrites (d : BitVec 128) (k pa v : Nat) : List (Nat × Byte × Byte) :=
  if isCode4 (descFmt d) then [if k % descCols d % 2 = 0 then (pa, BitVec.ofNat 8 v, 0x0F) else (pa, BitVec.ofNat 8 (16 * v), 0xF0)]
  else (List.range (elemBytes (descFmt d))).map fun j => (pa + j, BitVec.ofNat 8 (v / 2 ^ (8 * j)), 0xFF)

/-- 1 to 64 rows and columns (R291). -/
def ShapeOk (d : BitVec 128) : Prop := 1 ≤ descRows d ∧ descRows d ≤ 64 ∧ 1 ≤ descCols d ∧ descCols d ≤ 64

/-- A tile as R299 asks for it: 1 to 64 rows and columns, base and stride multiples of the element size, and every element's
address with bits 63:48 zero. -/
def TileOk (d : BitVec 128) : Prop :=
  let z := elemBytes (descFmt d)
  ShapeOk d ∧ (descBase d).toNat % z = 0 ∧ (descStride d).toNat % z = 0 ∧
    ∀ r c, r < descRows d → c < descCols d → (elemAddr d r c).toNat < 2 ^ 48

/-- A tile of the solver: q32, 1 to 64 rows and columns, base and stride multiples of 4 (R197). -/
def Q32Tile (d : BitVec 128) : Prop :=
  descFmt d = 13 ∧ ShapeOk d ∧ (descBase d).toNat % 4 = 0 ∧ (descStride d).toNat % 4 = 0

/-- An exponent that the solver accepts (R198 to R200). -/
def ExpOk (e : Int) : Prop := -30 ≤ e ∧ e ≤ 30

end Sys2Proof.Claims

section
open Sys2Proof Sys2Proof.Machine Sys2Proof.Claims

/-- R130, R146, R162, R292, R302: words of an image as loads of the word that reads it. They come back to that word at its next
issue, no register of the thread being written. -/
def Sys2Proof.Claims.ImagesRead : Prop :=
  (∀ (s : State) (i : Issue) (t : Thread) (vas : List Word) (ordered : Bool), s.current = some (i, t) → vas ≠ [] →
    Fetches s i t vas ordered (.next (s.fetchWords i t vas ordered))) ∧
  ∀ (t : Thread) (g : Tag), g.image = true → let u := t.turn [g]
    u.image = t.image ++ g.u ∧ (∀ h, h ∈ u.tags ↔ h ∈ t.tags ∧ h.req ≠ g.req) ∧
      { u with image := t.image, tags := t.tags, hold := t.hold } = t

/-- R291, R292: `tdesc` traps ALIGN off a multiple of 16. It sends for its image as one load and issues again; then an image that
breaks R291 traps ILLEGAL with the word, and any other is loaded into the descriptor register, and nothing else differs. -/
def Sys2Proof.Claims.DescriptorLoads : Prop :=
  ∀ (s : State) (i : Issue) (t : Thread) (d : BitVec 4) (s1 : BitVec 5), s.current = some (i, t) →
    let a := t.readS s1
    let o := exec (.tdesc d s1) s
    (a.toNat % 16 ≠ 0 → o = .next (s.precise i t causeAlign a)) ∧
    (a.toNat % 16 = 0 → t.image.length < 2 → Fetches s i t (imageAddrs a 2) false o) ∧
    (∀ w0 w1 rest, a.toNat % 16 = 0 → t.image = w0 :: w1 :: rest →
      (¬ DescOk (w1 ++ w0) → o = .next (s.precise i t causeIllegal i.word)) ∧
      (DescOk (w1 ++ w0) → ∃ t', Lands s i.place o t' ∧ t'.readD d = w1 ++ w0 ∧ (∀ k, k ≠ d → t'.readD k = t.readD k) ∧
        { t' with d := t.d } = t))

/-- R290, R294, R295, R75, R197, R158, R331: a word that takes a sequence number. A solver word traps FEATURE where the die lacks
the solver. While an operation whose number is 32 or more below its own is not complete the word waits. Otherwise the operation is queued with what it read at issue under the
number TSEQ + 1, the history entry of that number is set, and nothing else differs. -/
def Obligations.OperationsIssue : Prop :=
  ∀ (s : State) (i : Issue) (t : Thread) (ins : Instr) (f : OpForm), s.current = some (i, t) → opForm t ins = some f →
    (f.solver = true → (s.die i.place.die).solver = false → exec ins s = .next (s.precise i t causeFeature i.word)) ∧
    ((f.solver = true → (s.die i.place.die).solver = true) →
      let late := ∃ o ∈ s.ops, o.owner = t.uid ∧ o.seq + 32 ≤ t.sys.tseq.toNat + 1
      (late → LandsStaying s i (exec ins s) { t with hold := .stall }) ∧
      (¬ late → ∃ (u : State) (o : TileOp) (t' : Thread), exec ins s = .next u ∧ u.thread? i.place = some t' ∧
        u.ops = s.ops ++ [o] ∧ o.uid = s.nextId ∧ o.owner = t.uid ∧ o.place = i.place ∧ o.ctx = t.ctx ∧
        o.seq = (t.sys.tseq.toNat + 1) % 2 ^ 64 ∧ o.op = f.op ∧ o.fa = f.fa ∧ o.fb = f.fb ∧ o.fc = f.fc ∧ o.descs = f.descs ∧
        o.regs = f.regs ∧ o.vec = f.vec ∧ o.rnd.toNat = t.sys.rndmode.toNat % 4 ∧ o.regeps = t.sys.regeps ∧ o.phase = .queued ∧
        o.wid = s.widAt i.place ∧
        (o.skip = true ↔ (∃ x ∈ t.lateFaults, x.2.2 = true) ∨
          (t.priv = true ∧ ∃ v, s.blockOf t.uid = some v ∧ v.opFault = true ∧ s.blockRead v 0x6F0 ≠ 0)) ∧
        o.waitFor = [] ∧ o.ind = 0 ∧ o.wrote = 0 ∧ o.piece = 0 ∧ o.reads = [] ∧ o.bad = none ∧
        t'.sys.tseq = t.sys.tseq + 1 ∧
        (∀ k, k < 32 → t'.sys.history.toList.getD k 0 = if k = o.seq % 32 then
          BitVec.ofNat 64 (f.fc * 2 ^ 59 + f.fb * 2 ^ 55 + f.fa * 2 ^ 51 + f.op * 2 ^ 45 + i.pc.toNat / 8 % 2 ^ 45)
          else t.sys.history.toList.getD k 0) ∧
        { t' with sys := t.sys } = t ∧ { t'.sys with tseq := t.sys.tseq, history := t.sys.history } = t.sys ∧
        (∀ r, r ≠ i.place → u.slot r = s.slot r) ∧ u.nextId = s.nextId + 1 ∧
        { u with slots := s.slots, ops := s.ops, nextId := s.nextId } = s))

/-- R306, R289, R197: `twait` of n = min(s[sa], TSEQ) waits while an operation numbered n or lower is not complete. Then, for n up to
TDONE, it changes nothing; else it merges into FLAGS the indications that no earlier `twait` covered, and TDONE becomes n. -/
def Sys2Proof.Claims.TileWaits : Prop :=
  ∀ (s : State) (i : Issue) (t : Thread) (s1 : BitVec 5), s.current = some (i, t) →
    let n := min (uA t s1) t.sys.tseq.toNat
    let joined := ∀ o ∈ s.ops, o.owner = t.uid → n < o.seq
    (¬ joined → LandsStaying s i (exec (.twait s1) s) { t with hold := .twait n }) ∧
    (joined → n ≤ t.sys.tdone.toNat → Lands s i.place (exec (.twait s1) s) t) ∧
    (joined → t.sys.tdone.toNat < n → ∃ t', Lands s i.place (exec (.twait s1) s) t' ∧
      t'.unmerged = t.unmerged.filter (fun x => n < x.1) ∧ t'.sys.tdone.toNat = n ∧
      (∀ k, k < 64 → (t'.sys.flags.getLsbD k = true ↔ t.sys.flags.getLsbD k = true ∨
        ∃ x ∈ t.unmerged, x.1 ≤ n ∧ x.2.getLsbD k = true)) ∧
      { t' with unmerged := t.unmerged, sys := t.sys } = t ∧
      { t'.sys with tdone := t.sys.tdone, flags := t.sys.flags } = t.sys)

/-- R302: `ttab` traps ALIGN off a multiple of 16. It sends for the words of its image in ascending order until it has them all, and
traps ILLEGAL for an ill-formed image. It waits while an operation of the context on the core that was issued before it reads the
table; then the core's table of the context is the image, and the other three tables stay. -/
def Sys2Proof.Claims.TableLoads : Prop :=
  ∀ (s : State) (i : Issue) (t : Thread) (tab : BitVec 2) (s1 : BitVec 5), s.current = some (i, t) →
    let p := i.place
    let a := t.readS s1
    let c4 : Bool := decide (2 ≤ tab.toNat)
    let words := if c4 then 12 else 162
    let mark := match t.hold with
      | .table _ m => m
      | _ => s.nextId
    let t0 : Thread := { t with hold := .table tab.toNat mark }
    let img : Image := ⟨c4, wordsNat t.image⟩
    let inUse := ∃ o ∈ s.ops, o.uid < mark ∧ o.ctx = t.ctx ∧ o.place.die = p.die ∧ o.place.core = p.core ∧
      ((∃ d ∈ o.descs, descFmt d = 4 + tab.toNat) ∨
        (o.op = 3 ∧ ∃ x, ((s.core p.die p.core).handleFor o.ctx o.fc o.uid).part = some x ∧ x.w0.toNat / 2 ^ 60 = 4 + tab.toNat))
    let old := (s.core p.die p.core).tablesOf t.ctx
    let o := exec (.ttab tab s1) s
    (a.toNat % 16 ≠ 0 → o = .next (s.precise i t causeAlign a)) ∧
    (a.toNat % 16 = 0 → t.image.length < words → FetchesOn s i t0 ((imageAddrs a words).drop t.image.length) o) ∧
    (a.toNat % 16 = 0 → words ≤ t.image.length → img.ok = false → o = .next (s.precise i t causeIllegal i.word)) ∧
    (a.toNat % 16 = 0 → words ≤ t.image.length → img.ok = true → inUse → LandsStaying s i o t0) ∧
    (a.toNat % 16 = 0 → words ≤ t.image.length → img.ok = true → ¬ inUse → ∃ u, o = .next u ∧
      u.thread? p = some { t with hold := .none } ∧
      (let new := (u.core p.die p.core).tablesOf t.ctx
       (new.c8[0] = if tab = 0 then BitVec.ofNat 10368 img.raw else old.c8[0]) ∧
       (new.c8[1] = if tab = 1 then BitVec.ofNat 10368 img.raw else old.c8[1]) ∧
       (new.c4[0] = if tab = 2 then BitVec.ofNat 768 img.raw else old.c4[0]) ∧
       (new.c4[1] = if tab = 3 then BitVec.ofNat 768 img.raw else old.c4[1])) ∧
      (∀ c, c ≠ t.ctx → (u.core p.die p.core).tablesOf c = (s.core p.die p.core).tablesOf c) ∧
      { u.core p.die p.core with tables := (s.core p.die p.core).tables } = s.core p.die p.core ∧
      (∀ d c, (d, c) ≠ (p.die, p.core) → u.core d c = s.core d c) ∧ (∀ r, r ≠ p → u.slot r = s.slot r) ∧
      { u with slots := s.slots, cores := s.cores } = s)

/-- R131, R158, R308: an operation sends for what it reads: one request for each 256-byte block, of its own numbers. An element whose
page is refused is not read, and the failing one of the lowest address is kept; where none can be read that is the operation's
fault. -/
def Sys2Proof.Claims.EngineReads : Prop :=
  ∀ (s : State) (o : TileOp) (a : Access) (ph : OpPhase) (xs : List (Nat × Word × Nat)) (pre post : List TileOp),
    FirstOf (fun x => x.uid = o.uid) s.ops pre o post → xs ≠ [] →
    let es := xs.filterMap fun x => match s.translate o.place.die o.ctx a x.2.1 with
      | .ok pa _ => some (Elem.mk x.1 x.2.1 pa x.2.2)
      | .fail _ => none
    let gs := groupsOf es
    ∃ bad, LowestFail s o a xs bad ∧
      (∀ c va, es = [] → bad = some (c, va) → s.opReads o a ph xs = s.opFault o (BitVec.ofNat 64 c.toNat) va) ∧
      (es ≠ [] → s.opReads o a ph xs = { s with
        nextId := s.nextId + gs.length
        sends := s.sends ++ gs.mapIdx fun k g => engineReq o (s.nextId + k) (groupPa g) (.load g)
        ops := pre ++ { o with phase := ph, waitFor := (List.range gs.length).map (s.nextId + ·), reads := [], bad := bad } :: post })

/-- R158, R294, R300, R303, R304: RESPOND to an engine's operation. An answer adds what was read, or keeps the failing element of the
lowest address. With the last answer it waited for, an operation that reads goes on to compute; one that writes is complete, but for
a copy, whose channel's count advances, and which goes on to its next group or stops in the fault kept, and a drain with a wake
node, which has still to wake it. -/
def Sys2Proof.Claims.EngineAnswers : Prop :=
  ∀ (s : State) (e d : Nat) (pre post : List Resp) (r : Resp) (os os' : List TileOp) (o : TileOp),
    FirstOf (fun q => q.src = e ∧ q.dest = d) s.resps pre r post → r.passed = true ∨ s.routeClear e d = true → s.findThread r.owner = none →
    FirstOf (fun x => x.uid = r.owner) s.ops os o os' →
    (r.body = .ack ∨ (∃ vs, r.body = .values vs) ∨ (∃ l c va, r.body = .trap l c va) ∨ ∃ vs c va, r.body = .part vs c va) →
    let lower := fun (c : BitVec 8) (va : Word) => match o.bad with
      | some y => if y.2.toNat ≤ va.toNat then y else (c, va)
      | none => (c, va)
    let o1 : TileOp := match r.body with
      | .values vs => { o with reads := o.reads ++ vs }
      | .part vs c va => { o with reads := o.reads ++ vs, bad := some (lower c va) }
      | .trap _ c va => { o with bad := some (lower c va) }
      | _ => o
    let o2 : TileOp := { o1 with waitFor := o.waitFor.erase r.req }
    let ended := s.outs.eraseIdx (s.outs.findIdx fun x => x.owner = r.owner && x.req = r.req && x.dest = e)
    let with_ := fun x : TileOp => { s with resps := pre ++ post, outs := ended, ops := os ++ x :: os' }
    let go := exec (.respond e d) s
    (o2.waitFor ≠ [] → go = .next (with_ o2)) ∧
    (o2.waitFor = [] →
      (o.phase = .reading → go = .next (with_ { o2 with phase := .read })) ∧
      (o.phase = .wakeReading → go = .next (with_ { o2 with phase := .wakeRead })) ∧
      (o.phase = .writing → o.op = 4 → o.regs.getD 0 0 ≠ 0 → go = .next (with_ { o2 with phase := .waking })) ∧
      (o.phase = .writing → o.op ≠ 5 → (o.op = 4 → o.regs.getD 0 0 = 0) → go = .next ((with_ o2).opDone o2)) ∧
      (o.phase = .writing → o.op = 5 → let s1 := (with_ o2).copyCount o2 o.piece
        (∀ c va, o1.bad = some (c, va) → go = .next (s1.opFault o2 (BitVec.ofNat 64 c.toNat) va)) ∧
        (o1.bad = none → (o.regs.getD 2 0).toNat ≤ o.wrote + o.piece → go = .next (s1.opDone o2)) ∧
        (o1.bad = none → o.wrote + o.piece < (o.regs.getD 2 0).toNat → ∃ u, go = .next u ∧ { u with ops := s1.ops } = s1 ∧
          u.ops = os ++ { o2 with phase := .queued, wrote := o.wrote + o.piece, reads := [] } :: os')))

/-- R289, R306, R231, R346: an operation complete. It leaves the queue; its indications wait with its thread for a `twait`, or, of a
thread that is saved, go to its block; those of an ended thread are discarded. -/
def Sys2Proof.Claims.OperationsEnd : Prop :=
  ∀ (s : State) (o : TileOp), ∃ s1, OpGone s s1 o ∧
    (∀ v, s.blockOf o.owner = some v → ∃ pre post, FirstOf (fun x => x.uid = o.owner) s.saving pre v post ∧
      s.opDone o = { s1.blockWrite v 0x6E8 (s1.blockRead v 0x6E8 ||| BitVec.ofNat 64 o.ind.toNat) with
        saving := pre ++ { v with inds := v.inds ++ [(o.seq, o.ind)] } :: post }) ∧
    (s.blockOf o.owner = none →
      (∀ p t, s.findThread o.owner = some (p, t) → s.opDone o = s1.setThread p { t with unmerged := t.unmerged ++ [(o.seq, o.ind)] }) ∧
      (s.findThread o.owner = none → s.opDone o = s1))

/-- R254, R307, R308, R295, R231, R346: an operation that faults leaves the queue, and its thread's later operations that have not begun
are to complete without effect. Its history entry is marked faulted, and the fault waits behind the thread's other late faults; of a
thread that is saved, both go to its block, where an earlier fault stays; that of an ended thread is recorded. A TILE fault tells the
operation's number. -/
def Sys2Proof.Claims.OperationsFault : Prop :=
  (∀ (s : State) (o : TileOp) (n : BitVec 4), s.tileFault o n =
    s.opFault o (BitVec.ofNat 64 (n.toNat * 2 ^ 12 + causeTile.toNat)) (BitVec.ofNat 64 o.seq)) ∧
  ∀ (s : State) (o : TileOp) (cause info : Word), ∃ s0 s1 : State, OpGone s s0 o ∧ { s1 with ops := s0.ops } = s0 ∧
    List.Forall₂ (fun (x y : TileOp) => { y with skip := x.skip } = x ∧
      (y.skip = true ↔ x.skip = true ∨ (x.owner = o.owner ∧ o.seq < x.seq ∧ ¬ Begun s x))) s0.ops s1.ops ∧
    (∀ v, s.blockOf o.owner = some v → ∃ s2, s2 = s1.blockWrite v (0x500 + 8 * (o.seq % 32))
        (s1.blockRead v (0x500 + 8 * (o.seq % 32)) ||| 0x8000000000000000) ∧
      (s2.blockRead v 0x6F0 ≠ 0 → s.opFault o cause info = s2) ∧
      (s2.blockRead v 0x6F0 = 0 → ∃ pre post, FirstOf (fun x => x.uid = o.owner) s.saving pre v post ∧
        s.opFault o cause info =
          { (s2.blockWrite v 0x6F0 cause).blockWrite v 0x6F8 info with saving := pre ++ { v with opFault := true } :: post })) ∧
    (s.blockOf o.owner = none →
      (∀ p t, s.findThread o.owner = some (p, t) → ∃ t' : Thread, s.opFault o cause info = s1.setThread p t' ∧
        t'.lateFaults = t.lateFaults ++ [(cause, info, true)] ∧ { t' with lateFaults := t.lateFaults, sys := t.sys } = t ∧
        { t'.sys with history := t.sys.history } = t.sys ∧
        ∀ k, k < 32 → t'.sys.history.toList.getD k 0 =
          t.sys.history.toList.getD k 0 ||| (if k = o.seq % 32 then 0x8000000000000000 else 0)) ∧
      (s.findThread o.owner = none → s.opFault o cause info = s1.faultRecord o.ctx 2 (BitVec.ofNat 8 cause.toNat) o.wid 0 info))

/-- R158, R291, R298, R308: an operation writes a tile. It sends one request for each 256-byte block of the elements, of its own numbers,
with their bytes in the order of the elements; half bytes are merged at the home. Its indications are kept until its writes are answered.
Where an element's page is refused nothing is sent, and the failing one of the lowest address is the fault. -/
def Sys2Proof.Claims.TilesWritten : Prop :=
  ∀ (s : State) (o : TileOp) (d : BitVec 128) (vals : List Nat) (ind : Ind) (pre post : List TileOp),
    FirstOf (fun x => x.uid = o.uid) s.ops pre o post → ShapeOk d → vals.length = tileSize d →
    ∃ bad, LowestFail s o .store (tileElems [d]) bad ∧
      (∀ c va, bad = some (c, va) → s.writeTile o d vals ind = s.opFault o (BitVec.ofNat 64 c.toNat) va) ∧
      (bad = none →
        let es := (tileElems [d]).filterMap fun x => match s.translate o.place.die o.ctx .store x.2.1 with
          | .ok pa _ => some (Elem.mk x.1 x.2.1 pa x.2.2)
          | .fail _ => none
        let gs := groupsOf es
        let bytes := fun g : List Elem => g.flatMap fun e => elemWrites d e.lane e.paddr (vals.getD e.lane 0)
        es.length = tileSize d ∧ s.writeTile o d vals ind = { s with
          nextId := s.nextId + gs.length
          sends := s.sends ++ gs.mapIdx fun k g => engineReq o (s.nextId + k) (groupPa g)
            (if isCode4 (descFmt d) then .merge (groupAddr g) (bytes g) else .store (groupAddr g) ((bytes g).map fun b => (b.1, b.2.1)))
          ops := pre ++ { o with ind := ind, phase := .writing, waitFor := (List.range gs.length).map (s.nextId + ·) } :: post })

/-- R197 to R200, R254, R271, R294, R297, R299, R302, R307, R377: the step of an operation. One that is not the oldest of its queue, or
waits for answers, or reads a table that a `ttab` issued before it still waits to replace, is not run. One marked to have no effect
completes. A shape that R299 or the solver's rules do not permit faults SHAPE (2); a chain that mixes formats or an accumulator that
is not set faults SCALE_MIX (1); of a ring product, a handle or group without segments, or a lost one, faults 3, and a segment in
error 4. -/
def Sys2Proof.Claims.OperationChecks : Prop :=
  ∀ (s : State) (ins : Instr) (op code : Nat), stepOf op ins = some code →
    (s.opHead op = none → exec ins s = .next s) ∧
    (∀ o, s.opHead op = some o →
      let begun := o.phase ≠ .queued ∨ o.wrote ≠ 0
      let runs := o.op = code ∧ (o.phase = .queued ∨ o.phase = .read) ∧ s.tableHeld o = false
      (¬ runs → exec ins s = .next s) ∧
      (runs → o.skip = true → ¬ begun → exec ins s = .next (s.opDone o)) ∧
      (runs → (o.skip = true → begun) →
        let d0 := o.desc 0
        let d1 := o.desc 1
        let d2 := o.desc 2
        let acc := s.accOf o.owner o.fa
        let fault := fun n : BitVec 4 => exec ins s = .next (s.tileFault o n)
        let mixes := fun fb : Nat => acc.isSet = false ∨ ((∃ x, acc.fA = some x) ∧
          ¬ (acc.fA = some (BitVec.ofNat 4 (descFmt d0)) ∧ acc.fB = some (BitVec.ofNat 4 fb)))
        (code = 2 →
          let ok := descFmt d0 ≤ 10 ∧ descFmt d1 ≤ 10 ∧ TileOk d0 ∧ TileOk d1
          (¬ ok → fault 2) ∧ (ok → mixes (descFmt d1) → fault 1)) ∧
        (code = 3 →
          let ok := descFmt d0 ≤ 10 ∧ TileOk d0
          let h := (s.core o.place.die o.place.core).handleFor o.ctx o.fc o.uid
          (¬ ok → fault 2) ∧ (ok → h.part = none → fault 3) ∧
          (∀ p, ok → h.part = some p →
            let real := (groupSeqs p (o.regs.getD 0 0).toNat).filter (h.real p)
            let none_ := h.state = .free ∨ h.state = .absent ∨ real = []
            let here := ∀ n ∈ real, (∃ b, (n, b) ∈ h.landed) ∨ n ∈ h.lost
            (none_ → fault 3) ∧ (¬ none_ → mixes p.fmt → fault 1) ∧
            (¬ none_ → ¬ mixes p.fmt → ¬ here → exec ins s = .next s) ∧
            (¬ none_ → ¬ mixes p.fmt → here → (∃ n ∈ real, n ∈ h.lost) → fault 3) ∧
            (¬ none_ → ¬ mixes p.fmt → here → (∀ n ∈ real, n ∉ h.lost) → (∃ n ∈ real, n ∈ h.failed) → fault 4))) ∧
        (code = 4 →
          let wake := o.regs.getD 0 0 = 0 ∨ ((o.regs.getD 1 0).toNat % 32 = 0 ∧
            ∃ pa leaf, s.translate o.place.die o.ctx .nodeName (o.regs.getD 1 0) = .ok pa leaf)
          let ok := descFmt d0 ≤ 12 ∧ TileOk d0 ∧ wake
          (¬ ok → fault 2) ∧ (ok → acc.isSet = false → fault 1) ∧
          (ok → acc.isSet = true → acc.vr < descRows d0 ∨ acc.vc < descCols d0 → fault 2) ∧
          (ok → acc.isSet = true → descRows d0 ≤ acc.vr → descCols d0 ≤ acc.vc →
            convAll (s.opTables o) d0 (rmodeOf o.rnd) ((descIdx d0).map fun e =>
              drainValue (acc.elem e.1 e.2) acc.scA.toNat acc.scB.toNat) = none → fault 5)) ∧
        (code = 5 →
          let d := (o.regs.getD 0 0).toNat
          let b := (o.regs.getD 1 0).toNat
          let n := (o.regs.getD 2 0).toNat
          (2 ^ 32 ≤ n ∨ (n ≠ 0 ∧ b < d + n ∧ d < b + n)) → fault 2) ∧
        (code = 8 →
          ¬ (descFmt d0 ≤ 12 ∧ descFmt d1 ≤ 13 ∧ descRows d0 = descRows d1 ∧ descCols d0 = descCols d1 ∧ TileOk d0 ∧ TileOk d1) →
          fault 2) ∧
        (code = 9 →
          let b := (o.regs.getD 0 0).toNat
          ¬ (Q32Tile d0 ∧ Q32Tile d1 ∧ Q32Tile d2 ∧ b % 4 = 0 ∧ descRows d1 = descRows d0 ∧ descCols d1 = descRows d2 ∧
            descCols d2 = descCols d0 ∧ ExpOk ((descSel d1).toInt + (descSel d2).toInt - (descSel d0).toInt)) → fault 2) ∧
        (code = 10 → ¬ (Q32Tile d0 ∧ descRows d0 = descCols d0 ∧ ExpOk (descSel d0).toInt) → fault 2) ∧
        (code = 11 →
          ¬ (Q32Tile d0 ∧ Q32Tile d1 ∧ descRows d0 = descCols d0 ∧ descRows d1 = descRows d0 ∧ ExpOk (descSel d0).toInt) → fault 2)))

/-- R158, R197 to R200, R293, R296 to R298, R301, R303, R308: what each operation does once its checks have passed. First it sends for
its operands, `tzero` and `tdrain` apart, which have none in memory; where one could not be read, that is its fault. Then `tzero`
sets its accumulator; `tmm` and `tmmr` add a product into it; `tdrain` and `tcnv` write their converted elements, or fault NOCODE
(5); `tcopy` writes a group of bytes, up to the first that could not be read; the solver's operations write their results. -/
def Sys2Proof.Claims.OperationEffects : Prop :=
  ∀ (s : State) (o : TileOp), s.opHead o.uid = some o → (o.phase = .queued ∨ o.phase = .read) → s.tableHeld o = false →
    (o.skip = true → o.phase ≠ .queued ∨ o.wrote ≠ 0) →
    let tabs := (s.core o.place.die o.place.core).tablesOf o.ctx
    let d0 := o.desc 0
    let d1 := o.desc 1
    let d2 := o.desc 2
    let acc := s.accOf o.owner o.fa
    let rnd := rmodeOf o.rnd
    let r0 := o.regs.getD 0 0
    let r1 := o.regs.getD 1 0
    let r2 := o.regs.getD 2 0
    let computes := o.phase = .read ∧ o.bad = none
    let sendsFor := fun (ins : Instr) (xs : List (Nat × Word × Nat)) =>
      (o.phase = .queued → exec ins s = .next (s.opReads o .load .reading xs)) ∧
      (∀ c va, o.phase = .read → o.bad = some (c, va) → exec ins s = .next (s.opFault o (BitVec.ofNat 64 c.toNat) va))
    let free := fun fb : Nat => acc.isSet = true ∧
      (acc.fA = none ∨ (acc.fA = some (BitVec.ofNat 4 (descFmt d0)) ∧ acc.fB = some (BitVec.ofNat 4 fb)))
    (o.op = 1 → exec (.tzeroExecute o.uid) s = .next ((s.setAcc o.owner o.fa
      ⟨0, BitVec.ofNat 32 r0.toNat, BitVec.ofNat 32 r1.toNat, none, none, 0, 0, true⟩).opDone o)) ∧
    (o.op = 2 → descFmt d0 ≤ 10 → descFmt d1 ≤ 10 → TileOk d0 → TileOk d1 → free (descFmt d1) →
      sendsFor (.tmmExecute o.uid) (tileElems [d0, d1]) ∧
      (computes →
        let va := tileOf o 0 d0
        let vb := tileOf o (tileSize d0) d1
        let r := acc.product (descRows d0) (descCols d1) (descFmt d0) (descFmt d1) (tmmOperands tabs d0 d1 va vb)
        ∃ ind, Raises ind ((va.map fun x => (toProduct tabs (descFmt d0) x).2) ++ (vb.map fun x => (toProduct tabs (descFmt d1) x).2) ++ [r.2]) ∧
          exec (.tmmExecute o.uid) s = .next ((s.setAcc o.owner o.fa r.1).opDone { o with ind := ind }))) ∧
    (∀ p, o.op = 3 → descFmt d0 ≤ 10 → TileOk d0 →
      let h := (s.core o.place.die o.place.core).handleFor o.ctx o.fc o.uid
      let real := (groupSeqs p r0.toNat).filter (h.real p)
      h.part = some p → h.state ≠ .free → h.state ≠ .absent → real ≠ [] → free p.fmt →
      (∀ n ∈ real, (∃ b, (n, b) ∈ h.landed) ∧ n ∉ h.lost ∧ n ∉ h.failed) →
      sendsFor (.tmmrReadStep o.uid) (tileElems [d0]) ∧
      (computes →
        let va := tileOf o 0 d0
        let vb := (tileIdx 64 64).map fun e => (formatImage tabs p.fmt).entry (h.code p r0.toNat e.1 e.2)
        let r := acc.product (descRows d0) 64 (descFmt d0) p.fmt
          ⟨matOf (descCols d0) (va.map fun x => (toProduct tabs (descFmt d0) x).1), matOf 64 (vb.map fun x => (quietE8 x).1)⟩
        ∃ ind, Raises ind ((va.map fun x => (toProduct tabs (descFmt d0) x).2) ++ (vb.map fun x => (quietE8 x).2) ++ [r.2]) ∧
          exec (.tmmrReadStep o.uid) s = .next ((s.setAcc o.owner o.fa r.1).opDone { o with ind := ind }))) ∧
    (∀ vals ind, o.op = 4 → descFmt d0 ≤ 12 → TileOk d0 → s.wakeOk o = true → acc.isSet = true →
      descRows d0 ≤ acc.vr → descCols d0 ≤ acc.vc →
      convAll tabs d0 rnd ((descIdx d0).map fun e => drainValue (acc.elem e.1 e.2) acc.scA.toNat acc.scB.toNat) = some (vals, ind) →
      exec (.tdrainExecute o.uid) s = .next (s.writeTile o d0 vals ind)) ∧
    (o.op = 8 → descFmt d0 ≤ 12 → descFmt d1 ≤ 13 → descRows d0 = descRows d1 → descCols d0 = descCols d1 → TileOk d0 →
      TileOk d1 → sendsFor (.tcnvExecute o.uid) (tileElems [d1]) ∧
      (computes → exec (.tcnvExecute o.uid) s = .next (match convAll tabs d0 rnd ((tileOf o 0 d1).map (cnvValue tabs d1)) with
        | some (vals, ind) => s.writeTile o d0 vals ind
        | none => s.tileFault o 5))) ∧
    (o.op = 5 →
      let d := r0.toNat
      let b := r1.toNat
      let len := r2.toNat
      let n := min (len - o.wrote) (256 - (d + o.wrote) % 256)
      let va := BitVec.ofNat 64 (b + o.wrote)
      let refused := (s.rangeFault o.place.die o.ctx .load b len).orElse fun _ => s.rangeFault o.place.die o.ctx .store d len
      len < 2 ^ 32 → (len = 0 ∨ d + len ≤ b ∨ b + len ≤ d) →
      (∀ c a, o.phase = .queued → o.wrote = 0 → refused = some (c, a) →
        exec (.tcopyExecute o.uid) s = .next (s.opFault o (BitVec.ofNat 64 c.toNat) a)) ∧
      ((o.phase = .queued → o.wrote = 0 → refused = none) →
        (len = 0 → exec (.tcopyExecute o.uid) s = .next (s.opDone o)) ∧
        (0 < len → o.phase = .queued → exec (.tcopyExecute o.uid) s =
          .next (s.opReads o .load .reading ((List.range n).map fun k => (k, va + BitVec.ofNat 64 k, 1)))) ∧
        (0 < len → o.phase = .read →
          let m := match o.bad with
            | some x => (x.2 - va).toNat
            | none => n
          (∀ c a, m = 0 → o.bad = some (c, a) → exec (.tcopyExecute o.uid) s = .next (s.opFault o (BitVec.ofNat 64 c.toNat) a)) ∧
          (∀ c, m ≠ 0 → s.translate o.place.die o.ctx .store (BitVec.ofNat 64 (d + o.wrote)) = .fail c →
            exec (.tcopyExecute o.uid) s = .next (s.opFault o (BitVec.ofNat 64 c.toNat) (BitVec.ofNat 64 (d + o.wrote)))) ∧
          (∀ pa leaf, m ≠ 0 → s.translate o.place.die o.ctx .store (BitVec.ofNat 64 (d + o.wrote)) = .ok pa leaf →
            exec (.tcopyExecute o.uid) s = .next ({ s with nextId := s.nextId + 1 }.opWrites { o with piece := m } [engineReq o s.nextId pa
              (.store (BitVec.ofNat 64 (d + o.wrote)) ((List.range m).map fun k => (pa + k, BitVec.ofNat 8 (o.val k))))]))))) ∧
    (o.op = 9 →
      let x := (descSel d1).toInt + (descSel d2).toInt - (descSel d0).toInt
      let db : BitVec 128 := d0.extractLsb' 64 64 ++ r0
      Q32Tile d0 → Q32Tile d1 → Q32Tile d2 → r0.toNat % 4 = 0 → descRows d1 = descRows d0 → descCols d1 = descRows d2 →
      descCols d2 = descCols d0 → ExpOk x → sendsFor (.tqmsExecute o.uid) (tileElems [db, d1, d2]) ∧
      (computes →
        let vb := (tileOf o 0 db).map q32
        let va := (tileOf o (tileSize d0) d1).map q32
        let vx := (tileOf o (tileSize d0 + tileSize d1) d2).map q32
        let n := descCols d1
        let c := descCols d0
        let elem := fun i k => roundQ32 (vb.getD (i * c + k) 0 * 2 ^ 60 -
          ((List.range n).map fun j => va.getD (i * n + j) 0 * vx.getD (j * c + k) 0).sum * 2 ^ (x + 30).toNat) (2 ^ 60)
        ∃ ind, exec (.tqmsExecute o.uid) s = .next (s.writeTile o d0 ((descIdx d0).map fun e => (elem e.1 e.2).1.toNat) ind) ∧
          ∀ b, b < 7 → (ind.getLsbD b = true ↔ ∃ e ∈ descIdx d0, (elem e.1 e.2).2.getLsbD b = true))) ∧
    (o.op = 10 → Q32Tile d0 → descRows d0 = descCols d0 → ExpOk (descSel d0).toInt →
      sendsFor (.tluExecute o.uid) (tileElems [d0]) ∧
      (computes → let r := luFactor (descRows d0) (descSel d0).toInt (max (o.regeps.toNat : Int) 1) ((tileOf o 0 d0).map q32)
        exec (.tluExecute o.uid) s = .next (s.writeTile o d0 (r.1.map fun x => (BitVec.ofInt 32 x).toNat) r.2))) ∧
    (o.op = 11 → Q32Tile d0 → Q32Tile d1 → descRows d0 = descCols d0 → descRows d1 = descRows d0 → ExpOk (descSel d0).toInt →
      sendsFor (.tsolvExecute o.uid) (tileElems [d0, d1]) ∧
      (computes →
        let l := (tileOf o 0 d0).map q32
        let v := (tileOf o (tileSize d0) d1).map q32
        let r := solveAll (descRows d0) (descCols d1) (descSel d0).toInt l v
        exec (.tsolvExecute o.uid) s = .next (s.writeTile o d1 (r.1.map fun x => (BitVec.ofInt 32 x).toNat) r.2)))

/-- R195: RoundQ32 gives the integer nearest the quotient, the even one of two, held to the signed 32-bit range; RANGE is raised
exactly when that changes it, and nothing else is. -/
def Sys2Proof.Claims.SolverRounds : Prop :=
  ∀ (num : Int) (den : Nat), 0 < den → ∃ n : Int, (2 * |num - n * den| ≤ den ∧ (2 * |num - n * den| = den → n % 2 = 0)) ∧
    (roundQ32 num den).1.toInt = max (-2 ^ 31) (min (2 ^ 31 - 1) n) ∧
    (roundQ32 num den).2 = (if -2 ^ 31 ≤ n ∧ n < 2 ^ 31 then 0 else indRange)

/-- R199: `tlu`. Every stored value is the one rounding of R199's exact expression in the values stored; a pivot whose magnitude is
below the threshold is replaced, and used as stored. RANGE and PIVOT are raised by the values that raise them. -/
def Sys2Proof.Claims.SolverFactors : Prop :=
  ∀ (n : Nat) (e t : Int) (m : List Int), m.length = n * n → -30 ≤ e → e ≤ 30 → 1 ≤ t → t < 2 ^ 31 →
    (∀ x ∈ m, -2 ^ 31 ≤ x ∧ x < 2 ^ 31) →
    let r := luFactor n e t m
    let a := fun i j : Nat => m.getD (i * n + j) 0
    let f := fun i j : Nat => r.1.getD (i * n + j) 0
    let dot := fun i j k : Nat => ((List.range k).map fun p => f i p * f p j).sum
    let upper := fun k j : Nat => roundQ32 (a k j * 2 ^ 60 - dot k j k * 2 ^ (e + 30).toNat) (2 ^ 60)
    let lower := fun i k : Nat =>
      let num := (a i k * 2 ^ 60 - dot i k k * 2 ^ (e + 30).toNat) * 2 ^ (30 - e).toNat
      let den := f k k * 2 ^ 60
      roundQ32 (if den < 0 then -num else num) den.natAbs
    r.1.length = n * n ∧ (∀ k j, k < j → j < n → f k j = (upper k j).1.toInt) ∧
    (∀ k, k < n → let w := (upper k k).1.toInt
      f k k = if |w| < t then (if w < 0 then -t else t) else w) ∧
    (∀ i k, k < i → i < n → f i k = (lower i k).1.toInt) ∧
    (r.2 &&& indRange ≠ 0 ↔ (∃ k j, k ≤ j ∧ j < n ∧ (upper k j).2 ≠ 0) ∨ ∃ i k, k < i ∧ i < n ∧ (lower i k).2 ≠ 0) ∧
    (r.2 &&& indPivot ≠ 0 ↔ ∃ k, k < n ∧ |(upper k k).1.toInt| < t) ∧ r.2 &&& ~~~(indRange ||| indPivot) = 0

/-- R200: `tsolv` of each column: the forward substitution with a unit diagonal, then the back substitution, each value rounded once
and used as stored; a zero on the diagonal gives 0, or the extreme of the numerator's sign with RANGE. -/
def Sys2Proof.Claims.SolverSolves : Prop :=
  ∀ (n c : Nat) (e : Int) (l v : List Int), l.length = n * n → v.length = n * c → -30 ≤ e → e ≤ 30 →
    (∀ x ∈ l ++ v, -2 ^ 31 ≤ x ∧ x < 2 ^ 31) →
    let r := solveAll n c e l v
    let lu := fun i j : Nat => l.getD (i * n + j) 0
    r.1.length = n * c ∧ ∃ z : Nat → Nat → Int,
      let y := fun i k : Nat => r.1.getD (i * c + k) 0
      let forward := fun i k : Nat => roundQ32 (v.getD (i * c + k) 0 * 2 ^ 60 -
        ((List.range i).map fun j => lu i j * z j k).sum * 2 ^ (e + 30).toNat) (2 ^ 60)
      let num := fun i k : Nat => z i k * 2 ^ 60 -
        ((List.range n).map fun j => if i < j then lu i j * y j k else 0).sum * 2 ^ (e + 30).toNat
      let back := fun i k : Nat =>
        if lu i i = 0 then (if num i k = 0 then (0, 0) else if 0 < num i k then (0x7FFFFFFF, indRange) else (0x80000000, indRange))
        else
          let den := lu i i * 2 ^ 60
          let x := num i k * 2 ^ (30 - e).toNat
          roundQ32 (if den < 0 then -x else x) den.natAbs
      (∀ i k, i < n → k < c → z i k = (forward i k).1.toInt ∧ y i k = (back i k).1.toInt) ∧
      (r.2 &&& indRange ≠ 0 ↔ ∃ i k, i < n ∧ k < c ∧ ((forward i k).2 ≠ 0 ∨ (back i k).2 ≠ 0)) ∧ r.2 &&& ~~~indRange = 0

/-- R284, R298: Conv, element by element: a code by the destination's table, with its `inf` bit; FP32, FP16 or BF16 by RNDMODE, a NaN
carried over; an integer by RNDMODE, saturating. All elements are converted, or none. -/
def Sys2Proof.Claims.ConvertedElements : Prop :=
  (∀ (tabs : Tables) (d : BitVec 128) (r : RMode) (xs : List (Stored × Ind)),
    (convAll tabs d r xs = none ↔ ∃ x : Stored × Ind, x ∈ xs ∧ convStored tabs d r x.1 = none) ∧
    ∀ vs ind, convAll tabs d r xs = some (vs, ind) → vs.length = xs.length ∧
      (∀ (k : Nat) (x : Stored × Ind), xs[k]? = some x → ∃ a, convStored tabs d r x.1 = some a ∧ vs[k]? = some a.1) ∧
      ∀ b, b < 7 → (ind.getLsbD b = true ↔ ∃ x : Stored × Ind, x ∈ xs ∧ (x.2.getLsbD b = true ∨ ∃ a, convStored tabs d r x.1 = some a ∧ a.2.getLsbD b = true))) ∧
  (∀ (tabs : Tables) (d : BitVec 128) (r : RMode) (x : Stored), descFmt d ≤ 7 →
    convStored tabs d r x = (formatImage tabs (descFmt d)).encode x.num ((descSel d).getLsbD 0)) ∧
  (∀ (tabs : Tables) (d : BitVec 128) (r : RMode) (x : Stored) (g : Fmt), (descFmt d, g) ∈ [(8, fp32), (9, fp16), (10, bf16)] →
    (∀ b, x.num = .nan b → fp32.isNaN x.nan = true → fp32.isSNaN x.nan = false → x.nan < 2 ^ 32 →
      convStored tabs d r x = some (carriedNaN fp32 g x.nan, 0)) ∧
    (∀ n, x.num = .inf n → convStored tabs d r x = some (g.signed n g.infMag, 0)) ∧
    (∀ n, x.num = .zero n → convStored tabs d r x = some (g.signed n 0, 0)) ∧
    (∀ n m e, x.num = .fin n m e → 0 < m → ∃ z, convStored tabs d r x = some z ∧ Rounded g r (realOf x.num) false z)) ∧
  ∀ (tabs : Tables) (d : BitVec 128) (r : RMode) (x : Stored) (lo hi : Int),
    (descFmt d, lo, hi) ∈ [(11, (-2 ^ 31 : Int), (2 ^ 31 - 1 : Int)), (12, 0, 2 ^ 32 - 1)] →
    let z := numToInt r lo hi x.num
    convStored tabs d r x = some ((BitVec.ofInt 32 z.1).toNat, z.2)

/-- R278, R282, R297: an element as a product takes it. A code is its table's entry, a NaN quietened, with invalid for a signalling one;
FP32, FP16 and BF16 are converted to E8M10, rounded to nearest even. -/
def Sys2Proof.Claims.ProductOperands : Prop :=
  (∀ x : Nat, (e8m10.isNaN x = false → quietE8 x = (x, 0)) ∧
    (e8m10.isNaN x = true → quietE8 x = (e8m10.quiet x, if e8m10.isSNaN x = true then indInvalid else 0))) ∧
  ∀ (tabs : Tables) (f x : Nat), (f < 8 → toProduct tabs f x = quietE8 ((formatImage tabs f).entry x)) ∧
    ∀ g, (f, g) ∈ [(8, fp32), (9, fp16), (10, bf16)] → toProduct tabs f x = convertFmt g e8m10 .rne x

/-- R297: the K-sum of finite E8M10 pairs is their exact sum, in units of 2^−272; a NaN operand is given as it is; 0 × ∞, and
infinities of both signs, are invalid. AddRound gives the one rounding, by RNE, of element and K-sum, an exact zero being −0 when
element and every product are −0. -/
def Sys2Proof.Claims.SumsRoundOnce : Prop :=
  (∀ ps : List (Nat × Nat), (∀ p ∈ ps, p.1 < 2 ^ 19 ∧ p.2 < 2 ^ 19) →
    let value := fun p : Nat × Nat => realOf (e8m10.num p.1) * realOf (e8m10.num p.2)
    let infinite := fun (neg : Bool) (p : Nat × Nat) => (e8m10.num p.1).mul (e8m10.num p.2) = some (.inf neg)
    let flat := ps.flatMap fun p => [p.1, p.2]
    (∀ pre x post, FirstOf (fun x => e8m10.isNaN x = true) flat pre x post → kSum ps = (.nan (x * 2 ^ 13), 0)) ∧
    ((∀ x ∈ flat, e8m10.isNaN x = false) →
      ((∃ p ∈ ps, (e8m10.num p.1).mul (e8m10.num p.2) = none) ∨ ((∃ p ∈ ps, infinite true p) ∧ ∃ p ∈ ps, infinite false p) →
        kSum ps = (.nan fp32.defaultNaN, indInvalid)) ∧
      (∀ neg, (∃ p ∈ ps, infinite neg p) → (∀ p ∈ ps, ¬ infinite (!neg) p ∧ (e8m10.num p.1).mul (e8m10.num p.2) ≠ none) →
        kSum ps = (.inf neg, 0)) ∧
      ((∀ x ∈ flat, finite (e8m10.num x)) → ∃ (x : Int) (nz : Bool), kSum ps = (.val x nz, 0) ∧
        (x : ℚ) / 2 ^ 272 = (ps.map value).sum ∧
        (nz = true ↔ ∀ p ∈ ps, (e8m10.num p.1).mul (e8m10.num p.2) = some (.zero true))))) ∧
  ∀ (c : Nat), c < 2 ^ 32 →
    (fp32.isNaN c = true → ∀ k, addRound c k = (c, 0)) ∧
    (fp32.isNaN c = false →
      (∀ x, addRound c (.nan x) = (x, 0)) ∧
      (∀ n, addRound c (.inf n) = if fp32.num c = .inf (!n) then (fp32.defaultNaN, indInvalid) else (fp32.signed n fp32.infMag, 0)) ∧
      (∀ n x nz, fp32.num c = .inf n → addRound c (.val x nz) = (fp32.signed n fp32.infMag, 0)) ∧
      (∀ (x : Int) nz, finite (fp32.num c) → Rounded fp32 .rne (realOf (fp32.num c) + (x : ℚ) / 2 ^ 272)
        (decide (fp32.num c = .zero true) && nz) (addRound c (.val x nz))))

/-- R297: a product added into an accumulator. Every element inside rows x cols becomes the sum of itself and its exact K-sum,
rounded once; every other element stays; the valid extent grows to cover rows x cols, the format pair is set, and the scales
stay. -/
def Sys2Proof.Claims.ProductElements : Prop :=
  ∀ (a : Acc) (rows cols fa fb : Nat) (x : Operands), rows ≤ 64 → cols ≤ 64 →
    (∀ i j, i < rows → j < cols → (addRound (a.elem i j) (kSum ((List.range 64).map fun k => (x.a i k, x.b k j))).1).1 < 2 ^ 32) →
    let r := (a.product rows cols fa fb x).1
    (∀ i j, i < 64 → j < 64 → r.elem i j =
      if i < rows ∧ j < cols then (addRound (a.elem i j) (kSum ((List.range 64).map fun k => (x.a i k, x.b k j))).1).1
      else a.elem i j) ∧
    r.vr = max a.vr rows ∧ r.vc = max a.vc cols ∧ r.scA = a.scA ∧ r.scB = a.scB ∧ r.isSet = a.isSet ∧
    r.fA = some (BitVec.ofNat 4 fa) ∧ r.fB = some (BitVec.ofNat 4 fb) ∧
    ∀ b, b < 7 → ((a.product rows cols fa fb x).2.getLsbD b = true ↔ ∃ i j, i < rows ∧ j < cols ∧
      let k := kSum ((List.range 64).map fun n => (x.a i n, x.b n j))
      (k.2.getLsbD b = true ∨ (addRound (a.elem i j) k.1).2.getLsbD b = true))

end
/-! ### The Lantern ring (R256 to R271, R366, R372, R373) -/

namespace Sys2Proof.Claims
open Sys2Proof.Machine

/-- The state with the handles of one core as given, and nothing else changed. -/
def withHandles (s : State) (die core : Nat) (hs : List Handle) : State :=
  s.setCore die core { s.core die core with handles := hs }

/-- The grades a program permits (R259). -/
def permitted (g : RingProgram) (k : Nat) : Bool := g.header.toNat / 2 ^ (52 + k) % 2 = 1

/-- The command with a code runs for a context (R372). -/
def runs (s : State) (code : BitVec 8) (ctx : Nat) : Prop :=
  s.bar0.busy = true ∧ s.bar0.cmdCode = code ∧ s.bar0.cmdCtx = ctx

/-- A segment of lap `a` and one of lap `b` collide on a lane: the later one is injected as the earlier one passes its place
(R260). -/
def Collide (a b : PastLap) : Prop :=
  ∃ p ∈ a.program.parts, ∃ q ∈ b.program.parts, p.lane = q.lane ∧ ringDelay p.source q.source ≠ 0 ∧
    ∃ j k, j < p.count ∧ k < q.count ∧
      b.origin + ringTime b.grade (q.first + k) = a.origin + ringTime a.grade (p.first + j) + ringDelay p.source q.source

/-- A program may run at a grade: no two of its segments collide over two successive laps, nor with the running program's last
lap once enough idle cycles, at most 2,016, part the two (R260, R261). -/
def GradeClear (running : Option RingProgram) (g : RingProgram) (k : Nat) : Prop :=
  let c : BitVec 2 := BitVec.ofNat 2 k
  let at_ := fun (l : BitVec 32) (o : Nat) (q : RingProgram) => (⟨l, o, c, q⟩ : PastLap)
  ¬ Collide (at_ 0 0 g) (at_ 0 0 g) ∧ ¬ Collide (at_ 0 0 g) (at_ 1 (ringTime c g.len) g) ∧
    ∀ r, running = some r → ∃ idle ≤ 2016, ¬ Collide (at_ 0 0 r) (at_ 1 (ringTime c r.len + idle) g)

/-- A bypassed die's bypass governs a segment: one of the lap from which it holds, or of a later one (R261). -/
def Skips (s : State) (die : Nat) (g : Segment) : Prop :=
  (s.die die).bypassed = true ∧ ∀ l, (s.die die).bypassFrom = some l → 0 ≤ stampDiff g.lap l

/-- A core's boarding has begun: no release of an older boarding of its handle has still to take effect (R269). -/
def HasBegun (hs : List Handle) (n : Nat) (h : Handle) : Prop :=
  ∀ q ∈ hs.take n, ¬ (q.ctx = h.ctx ∧ q.k = h.k ∧ q.releasing.isSome = true)

/-- How many boardings of a die that have begun want a segment (R263, R269). -/
def wanting (s : State) (die : Nat) (g : Segment) : Nat :=
  (s.cores.map fun e => if e.1.1 = die then ((List.range e.2.handles.length).filter fun n => match e.2.handles[n]? with
    | some h => h.wants g && (e.2.handles.take n).all fun q => !(decide (q.ctx = h.ctx) && decide (q.k = h.k) && q.releasing.isSome)
    | none => false).length else 0).sum

/-- The segment that a lamp die's tap reads of those that pass it in one cycle: of those that a begun boarding wants and no bypass of
the die governs, the one on the lowest lane; a halted die's tap reads none (R263, R264, R269). -/
def Reads (s : State) (die : Nat) (gs : List Segment) (g : Segment) : Prop :=
  let may := fun x : Segment => x ∈ gs ∧ wanting s die x ≠ 0 ∧ ¬ Skips s die x
  (s.die die).halt = false ∧ may g ∧ ∀ x, may x → g.lane ≤ x.lane

/-- One more, on 32 bits, staying at the greatest. -/
def oneMore (x : BitVec 32) : Nat := min (x.toNat + 1) (2 ^ 32 - 1)

/-- Two segments are one: of one lane, injected in one cycle. -/
def SameSegment (x z : Segment) : Prop := x.lane = z.lane ∧ x.injected = z.injected

/-- Segments have been dealt with at a die: each of `gs` there is marked so, and of them those that `marks` holds of get the BAD bit
(R264). -/
def Passed (s u : State) (die : Nat) (gs : List Segment) (marks : Segment → Prop) : Prop :=
  { u.ring with segments := s.ring.segments } = s.ring ∧
    List.Forall₂ (fun x y : Segment => { y with tapped := x.tapped, bad := x.bad } = x ∧
      ((∃ z ∈ gs, SameSegment x z) → y.tapped = x.tapped ++ [die]) ∧ ((∀ z ∈ gs, ¬ SameSegment x z) → y.tapped = x.tapped) ∧
      (y.bad = true ↔ x.bad = true ∨ ∃ z ∈ gs, SameSegment x z ∧ marks z)) s.ring.segments u.ring.segments

/-- A die's counts of errors on its incoming hop after it checks a segment: one more, in all and of its lane, where the check fails and
BAD arrived as 0; else they stay (R264). -/
def HopCounted (s u : State) (die : Nat) (g : Segment) : Prop :=
  let n := if g.ok = false ∧ g.bad = false then oneMore (s.die die).errors else (s.die die).errors.toNat
  (u.die die).errors.toNat = n ∧ ∀ l, (lookupD 0 l (u.die die).laneErrors).toNat =
    if l = g.lane ∧ g.ok = false ∧ g.bad = false then oneMore (lookupD 0 l (s.die die).laneErrors)
    else (lookupD 0 l (s.die die).laneErrors).toNat

/-- A boarding of part `p` is resolved at a cycle: it catches the earliest lap it may catch whose program carries its part and whose
window at the die has not begun, a missed-layer wait where the cycle lies inside the window of the lap before; with no such lap it waits
while a program carries the part, and is absent otherwise (R266, R267). Nothing else of the boarding differs. -/
def Catches (r : Ring) (die now : Nat) (p : Part) (h h' : Handle) : Prop :=
  let begins := fun l : PastLap => ∃ b e, l.window p die = some (b, e) ∧ now < b
  { h' with state := h.state, part := h.part, lap := h.lap, resolved := h.resolved, missedWait := h.missedWait, window := h.window } = h ∧
    h'.window = none ∧
    (∀ pre l post, FirstOf begins (r.catchable.filter fun l => (l.program.find p).isSome) pre l post →
      h'.state = .waiting ∧ h'.resolved = true ∧ h'.lap = l.lap ∧ h'.part = l.program.find p ∧
      (h'.missedWait = true ↔ h.missedWait = true ∨ ∃ x b e, r.laps.find? (fun x => x.lap = l.lap - 1) = some x ∧
        x.window p die = some (b, e) ∧ b ≤ now ∧ now ≤ e)) ∧
    ((∀ l ∈ r.catchable, (l.program.find p).isSome = true → ¬ begins l) →
      let carried := r.stopped = false ∧ ((∃ g, r.running = some g ∧ (g.find p).isSome = true) ∨
        ∃ g, r.standby = some g ∧ (g.find p).isSome = true)
      h'.resolved = false ∧ h'.part = h.part ∧ h'.lap = h.lap ∧ h'.missedWait = h.missedWait ∧
        (carried → h'.state = .waiting) ∧ (¬ carried → h'.state = .absent))

/-- Of the cores, only the one named differs, and of it only its handles. -/
def OnlyHandles (s u : State) (d c : Nat) : Prop :=
  (∀ d' c', (d', c') ≠ (d, c) → u.core d' c' = s.core d' c') ∧
    { u.core d c with handles := (s.core d c).handles } = s.core d c ∧ { u with cores := s.cores } = s

/-- The tile operations of a core that name a handle of a context, oldest first (R269). -/
def naming (s : State) (d c ctx k : Nat) : List Nat :=
  (s.ops.filter fun o => decide (o.op = 3 ∧ o.fc = k ∧ o.ctx = ctx ∧ o.place.die = d ∧ o.place.core = c)).map (·.uid)

/-- A handle released: it is free at once where no operation names it; else its boarding stands until the operations that name it now,
and no later one, have completed. A free handle stays so (R269). -/
def Released (s u : State) (d c ctx k : Nat) : Prop :=
  let mine := fun h : Handle => h.ctx = ctx ∧ h.k = k ∧ h.releasing = none
  let hs := (s.core d c).handles
  OnlyHandles s u d c ∧ (naming s d c ctx k = [] → (u.core d c).handles = hs.filter fun h => decide (¬ mine h)) ∧
    (naming s d c ctx k ≠ [] → (∀ pre h post, FirstOf mine hs pre h post →
      (u.core d c).handles = pre ++ { h with releasing := some (naming s d c ctx k) } :: post) ∧
      ((∀ h ∈ hs, ¬ mine h) → (u.core d c).handles = hs))

/-- A handle boarded: what it held is released, and after it stands a new boarding of the part, with its token list, of which the
capacity of 64 takes the first; its sequence numbers, its write pointer and its flags start afresh (R265, R267, R268). -/
def Boarded (s u : State) (d c ctx k : Nat) (part : Option Part) (list : Word) (n : Nat) : Prop :=
  ∃ (v : State) (h : Handle), Released s v d c ctx k ∧ OnlyHandles s u d c ∧ (u.core d c).handles = (v.core d c).handles ++ [h] ∧
    let new : Handle := {
      ctx := ctx, k := k, state := .waiting, part := part, lap := 0, lapK := 0, w := 0, landed := [], lost := []
      failed := [], missedWait := false, missed := false, crcBad := false, overwritten := false, list := list, count := n
      accepted := min n 64, dropped := n - 64, releasing := none, resolved := false, window := none }
    (part = none → h = { new with state := .absent }) ∧ ∀ p, part = some p → Catches s.ring d s.cycle p new h

/-- 4-byte entries of a list written at the places given, and nothing else (R268). -/
def ListWritten (s u : State) (pas vals : List Nat) : Prop :=
  { u with mem := s.mem, errors := s.errors } = s ∧ (pas.length = vals.length → s.stored →
    (∀ a, (∀ pa ∈ pas, a < pa ∨ pa + 4 ≤ a) → u.readByte a = s.readByte a) ∧
    ((∀ v ∈ vals, v < 2 ^ 32) → pas.Pairwise (fun a b => a + 4 ≤ b ∨ b + 4 ≤ a) →
      ∀ j, j < pas.length → u.readNat (pas.getD j 0) 4 = vals.getD j 0))

/-- An expert boarding is to be boarded again: the window of its caught lap is over, its last segment dealt with, and tokens have been
dropped (R268). -/
def ReboardDue (s : State) (d : Nat) (h : Handle) : Prop :=
  ∃ b e, s.ring.windowOf d h = some (b, e) ∧ h.state = .waiting ∧ h.dropped ≠ 0 ∧ e ≤ s.cycle ∧
    (h.window ≠ none ∨ ∃ x ∈ s.ring.laps, x.lap = h.lap) ∧ ∀ x ∈ s.passing d, h.wants x = false

/-- A die that firmware is to bypass: it is out of service, or its error count has reached its threshold (R261, R264). -/
def BypassDue (s : State) (d : Nat) : Prop :=
  (s.die d).bypassed = false ∧
    ((s.die d).outOfService = true ∨ ((s.die d).threshold ≠ 0 ∧ (s.die d).threshold ≤ (s.die d).errors))

/-- A die that is bypassed, or is to be. -/
def WouldBypass (s : State) (d : Nat) : Prop := d ∈ s.dies.map (·.1) ∧ ((s.die d).bypassed = true ∨ BypassDue s d)

/-- Two ring-adjacent dies would both be bypassed (R261). -/
def AdjacentWould (s : State) : Prop := ∃ a b, WouldBypass s a ∧ WouldBypass s b ∧ ringPos b = (ringPos a + 1) % 672

/-- Every boarding is absent (R261, R265). -/
def AllAbsent (u : State) : Prop := ∀ d c, ∀ h ∈ (u.core d c).handles, h.state = .free ∨ h.state = .absent

/-- A command ends: it is no longer busy, and its status is as given (R372). -/
def ended (s : State) (status : BitVec 8) : State := { s with bar0 := { s.bar0 with busy := false, status := status } }

end Sys2Proof.Claims

section
open Sys2Proof Sys2Proof.Machine Sys2Proof.Claims

/-- R257, R258: the injection clock. The offset at a cycle of a lap is the greatest one whose time has come, and the cycle is a
bubble exactly when that time is past. -/
def Sys2Proof.Claims.RingClock : Prop :=
  ∀ (grade : BitVec 2) (d : Nat),
    let time := fun n : Nat => if grade = 0 then n else if grade = 1 then n + n / 3 else if grade = 2 then 2 * n else 4 * n
    let r := ringOffset grade d
    time r.1 ≤ d ∧ d < time (r.1 + 1) ∧ (r.2 = true ↔ time r.1 ≠ d)

/-- R265 to R269: `board` traps ILLEGAL for a lane mask that is not one bit, for bits of its operands that must be zero, and, of an
expert part, for a bad list word. A part that is no expert layer, or is carried by no program, is boarded at once. An expert part's
token list is checked; while its thread's accesses are not drained from the die the word waits; then the list is put in ascending order,
and the part boarded with its count. `unboard` releases the handle. No other core's handles differ. -/
def Sys2Proof.Claims.BoardWords : Prop :=
  ∀ (s : State) (i : Issue) (t : Thread) (k : BitVec 3) (s1 s2 s3 : BitVec 5), s.current = some (i, t) →
    let p := i.place
    let x := uA t s1
    let m := uA t s2
    let y := uA t s3
    let o := exec (.board k s1 s2 s3) s
    (∃ u, exec (.unboard k) s = .next u ∧ Released s u p.die p.core t.ctx k.toNat) ∧
    ((∀ lane, lane < 8 → m ≠ 2 ^ lane) ∨ 2 ^ 24 ≤ x → o = .next (s.precise i t causeIllegal i.word)) ∧
    (∀ lane, lane < 8 → m = 2 ^ lane → x < 2 ^ 24 →
      let part := s.ring.partOf t.ctx (BitVec.ofNat 24 x) lane
      ((∀ q, part = some q → q.expert = false) → ∃ u, o = .next u ∧ Boarded s u p.die p.core t.ctx k.toNat part 0 0) ∧
      (∀ q, part = some q → q.expert = true →
        let list : Word := BitVec.ofNat 64 (y / 2 ^ 12 % 2 ^ 36 * 2 ^ 12)
        let n := y % 2 ^ 12
        (2 ^ 48 ≤ y → o = .next (s.precise i t causeIllegal i.word)) ∧
        (y < 2 ^ 48 →
          (∀ c va, s.checkTokens p.die p.core t.ctx (tokenAddrs list n) = .error (c, va) → o = .next (s.precise i t c va)) ∧
          (∀ pas, s.checkTokens p.die p.core t.ctx (tokenAddrs list n) = .ok pas →
            (n ≠ 0 → s.drained t.uid p.die = false → LandsStaying s i o { t with hold := .drain p.die }) ∧
            (n = 0 ∨ s.drained t.uid p.die = true → ∃ (sorted : List Nat) (s1 u : State),
              sorted.Perm (pas.map fun a => s.readNat a 4) ∧ sorted.Pairwise (· ≤ ·) ∧ ListWritten s s1 pas sorted ∧
              o = .next u ∧ Boarded s1 u p.die p.core t.ctx k.toNat part list n)))))

/-- R267: the part that a boarding names: one of the context, layer and lane in the running program, or else in the standby one. -/
def Sys2Proof.Claims.BoardedPart : Prop :=
  ∀ (r : Ring) (ctx : Nat) (layer : BitVec 24) (lane : Nat),
    let hit := fun p : Part => p.ctx = ctx ∧ p.layer = layer ∧ p.lane = lane
    (∀ g pre p post, r.running = some g → FirstOf hit g.parts pre p post → r.partOf ctx layer lane = some p) ∧
    ((∀ g, r.running = some g → ∀ p ∈ g.parts, ¬ hit p) →
      (∀ g pre p post, r.standby = some g → FirstOf hit g.parts pre p post → r.partOf ctx layer lane = some p) ∧
      ((∀ g, r.standby = some g → ∀ p ∈ g.parts, ¬ hit p) → r.partOf ctx layer lane = none))

/-- R270, R43: `ringq` opens an operation whose result is ready: the state and flags of the handle, its lap, the cycles of its
window, its token counts, or its write pointer. Code 6 waits while the handle waits. -/
def Sys2Proof.Claims.RingQueries : Prop :=
  ∀ (s : State) (i : Issue) (t : Thread) (k : BitVec 3) (sd : BitVec 5) (la : BitVec 4) (code : BitVec 21), s.current = some (i, t) →
    let h := (s.core i.place.die i.place.core).handleNow t.ctx k.toNat
    let st := s.ring.stateOf i.place.die s.cycle h
    let live := st ≠ .free ∧ st ≠ .absent
    let b := fun (x : Bool) (n : Nat) => if x then 2 ^ n else 0
    let number := match st with
      | .free => 0
      | .waiting => 1
      | .landing => 2
      | .complete => 3
      | .absent => 4
    (code = 6 → st = .waiting → LandsStaying s i (exec (.ringq k sd la code) s) { t with hold := .ringq k.toNat }) ∧
    (¬ (code = 6 ∧ st = .waiting) → ∃ g : Tag, Sends s i.place (exec (.ringq k sd la code) s) { t with tags := t.tags ++ [g] } [] ∧
      g.req = s.nextId ∧ g.count = la.toNat ∧ g.frozen = false ∧ g.hasV = false ∧ g.sds = [sd] ∧ g.state = .ready ∧
      ∃ v : Nat, g.u = [BitVec.ofNat 64 v] ∧
        (code = 0 → v = h.w) ∧
        (code = 1 → v = number + b h.missedWait 8 + b h.missed 9 + b h.crcBad 10 + b h.overwritten 11) ∧
        (code = 2 → v = h.lap.toNat) ∧
        (code = 3 → v = if live then ((s.ring.windowOf i.place.die h).map (·.1)).getD 0 else 0) ∧
        (code = 4 → v = if live then ((s.ring.windowOf i.place.die h).map (·.2)).getD 0 else 0) ∧
        (code = 5 → v = h.accepted % 4096 + h.dropped % 4096 * 2 ^ 16) ∧ (code = 6 → v = h.w))

/-- R266, R267: a boarding is resolved to the earliest lap it may catch whose program carries its part and whose window at the die
has not begun; with no such lap it waits while a program carries the part, and is absent otherwise, as it is with no part. -/
def Sys2Proof.Claims.BoardingResolves : Prop :=
  ∀ (r : Ring) (die now : Nat) (h : Handle), (h.part = none → r.resolve die now h = { h with state := .absent }) ∧
    ∀ p, h.part = some p → Catches r die now p h (r.resolve die now h)

/-- R257, R262: SEGMENT_INJECT puts on the ring the segment due on a lane: its header names its part and index, its payload is the
1,024 bytes at its source, and its CRC covers both. While no program runs, in a bubble, outside the lap, twice on a lane in a cycle, where
no part is due on the lane, or from a source that is bypassed or out of service, nothing is injected. Memory does not change. -/
def Sys2Proof.Claims.SegmentsInject : Prop :=
  (∀ (s : State) (lane : Nat), s.ring.running = none → exec (.segmentInject lane) s = .next s) ∧
  ∀ (s : State) (lane : Nat) (g : RingProgram), s.ring.running = some g →
    let o := ringOffset s.ring.grade (s.cycle - s.ring.origin)
    let idle := s.ring.stopped = true ∨ s.cycle < s.ring.origin ∨ o.2 = true ∨ g.len ≤ o.1 ∨
      ∃ x ∈ s.ring.segments, x.lane = lane ∧ x.injected = s.cycle
    (idle → exec (.segmentInject lane) s = .next s) ∧
    let due := fun p : Part => p.lane = lane ∧ p.first ≤ o.1 ∧ o.1 < p.first + p.count
    ((∀ p ∈ g.parts, ¬ due p) → exec (.segmentInject lane) s = .next s) ∧
    (∀ pre p post, FirstOf due g.parts pre p post → (s.die p.source).bypassed = true ∨ (s.die p.source).outOfService = true →
      exec (.segmentInject lane) s = .next s) ∧
    (¬ idle → ∀ pre p post, FirstOf due g.parts pre p post →
      (s.die p.source).bypassed = false → (s.die p.source).outOfService = false →
      let j := o.1 - p.first
      ∃ seg : Segment, exec (.segmentInject lane) s = .next { s with ring := { s.ring with segments := s.ring.segments ++ [seg] } } ∧
        seg.lane = lane ∧ seg.source = p.source ∧ seg.injected = s.cycle ∧ seg.bad = false ∧ seg.tapped = [] ∧
        seg.payload = BitVec.ofNat 8192 (s.readNat (p.source * 2 ^ 36 + p.addr + 1024 * j) 1024) ∧ seg.lap = s.ring.lap ∧
        seg.ok = true ∧ seg.isOf p = true ∧ seg.index = j % 2 ^ 24)

/-- R256, R261, R264, R265: what a bypass governs: the segments of the lap from which it holds and of later ones. A block lands in a handle
at its sequence number, the write pointer past it, a block 512 older overwritten, a failed CRC marked. SEGMENT_FORWARD: a plinth die
checks the segment that passes on a lane and passes it on, counting an error on the hop where its check fails and BAD arrived as 0, and
then setting BAD; a bypassed one passes it on unchecked; back at its source after 2,016 cycles it leaves the ring. With no segment to pass
on, and at a lamp die, nothing happens. -/
def Sys2Proof.Claims.SegmentsPass : Prop :=
  (∀ (s : State) (die : Nat) (g : Segment), s.skips die g = true ↔ Skips s die g) ∧
  (∀ (h : Handle) (g : Segment) (core : Nat),
    let n := h.seq g
    let h' := h.land g core
    lookupD 0 n (h'.landed.filter fun e => e.1 = n).reverse = g.payload.extractLsb' (512 * core) 512 ∧ n < h'.w ∧ h.w ≤ h'.w ∧
    (∀ e ∈ h'.landed, n < e.1 + 512) ∧ (g.ok = false → n ∈ h'.failed ∧ h'.crcBad = true) ∧
    (∀ e ∈ h.landed, e.1 + 512 ≤ n → e.1 ∈ h'.lost ∧ h'.overwritten = true)) ∧
  (∀ (s : State) (die lane : Nat) (pre post : List Segment) (g : Segment), isPlinth die = true →
    FirstOf (fun x => x.lane = lane ∧ x.source = die ∧ x.injected + 2016 ≤ s.cycle) s.ring.segments pre g post →
    (∀ x ∈ pre, ¬ (x.lane = lane ∧ x.injected = g.injected)) →
    exec (.segmentForward die lane) s = .next { s with ring := { s.ring with segments := pre ++ post } }) ∧
  (∀ (s : State) (die lane : Nat), isPlinth die = false → exec (.segmentForward die lane) s = .next s) ∧
  (∀ (s : State) (die lane : Nat), isPlinth die = true →
    (∀ x ∈ s.ring.segments, ¬ (x.lane = lane ∧ x.source = die ∧ x.injected + 2016 ≤ s.cycle)) →
    ((∀ x ∈ s.passing die, ¬ (x.lane = lane ∧ x.source ≠ die)) → exec (.segmentForward die lane) s = .next s) ∧
    ∀ pre g post, FirstOf (fun x => x.lane = lane ∧ x.source ≠ die) (s.passing die) pre g post →
      ∃ u, exec (.segmentForward die lane) s = .next u ∧
        Passed s u die [g] (fun x => x.ok = false ∧ x.bad = false ∧ ¬ Skips s die g) ∧
        (¬ Skips s die g → HopCounted s u die g) ∧ (Skips s die g → u.dies = s.dies) ∧ (∀ d, d ≠ die → u.die d = s.die d) ∧
        { u.die die with errors := (s.die die).errors, laneErrors := (s.die die).laneErrors } = s.die die ∧
        { u with ring := s.ring, dies := s.dies } = s)

/-- R263, R264, R269, R272: SEGMENT_TAP at the first cycle at which segments not dealt with pass a lamp die. Of those that a boarding that
has begun wants, the tap reads the one on the lowest lane, which lands in every begun boarding that wants it; every other boarding that
wanted one of them misses it, and where several lanes were wanted the die counts each miss. A halted or bypassed die's tap reads none. A segment
read that fails its check counts as an error on the hop and gets BAD, where BAD arrived as 0. With no segment to deal with, and at a
plinth die, nothing happens. -/
def Sys2Proof.Claims.LowestLaneTaps : Prop :=
  (∀ (s : State) (die : Nat), isLamp die = false ∨ s.passing die = [] → exec (.segmentTap die) s = .next s) ∧
  ∀ (s : State) (die at_ : Nat), isLamp die = true → (∃ x ∈ s.passing die, x.passes die = at_) → (∀ x ∈ s.passing die, at_ ≤ x.passes die) →
    let gs := (s.passing die).filter fun x => decide (x.passes die = at_)
    gs.Pairwise (fun x y => x.lane ≠ y.lane) →
    ∃ u, exec (.segmentTap die) s = .next u ∧
      (∀ c, (u.core die c).handles.length = (s.core die c).handles.length) ∧
      (∀ c n h, (s.core die c).handles[n]? = some h → ∃ h', (u.core die c).handles[n]? = some h' ∧
        (∀ x ∈ gs, h.wants x = true →
          (Reads s die gs x → HasBegun (s.core die c).handles n h → h' = h.land x c) ∧
          (¬ (Reads s die gs x ∧ HasBegun (s.core die c).handles n h) → h' = h.miss x)) ∧
        ((∀ x ∈ gs, h.wants x = false) → h' = h)) ∧
      (∀ c, { u.core die c with handles := (s.core die c).handles } = s.core die c) ∧ (∀ d c, d ≠ die → u.core d c = s.core d c) ∧
      Passed s u die gs (fun x => x.ok = false ∧ x.bad = false ∧ Reads s die gs x) ∧
      (∀ g, Reads s die gs g → HopCounted s u die g ∧
        (u.die die).missed = (s.die die).missed + ((gs.filter fun x => x.lane ≠ g.lane).map fun x => wanting s die x).sum) ∧
      ((∀ g, ¬ Reads s die gs g) → u.die die = s.die die) ∧ (∀ d, d ≠ die → u.die d = s.die d) ∧
      { u.die die with errors := (s.die die).errors, laneErrors := (s.die die).laneErrors, missed := (s.die die).missed } = s.die die ∧
      { u with cores := s.cores, dies := s.dies, ring := s.ring } = s

/-- R366: the grade of the next lap. Above 27,000 W it is the slowest grade, 3, where the program permits it. Otherwise a pinned
grade that the program permits is taken; above the budget the next slower permitted grade; below 0.7 of the budget the next faster
one; between, the grade stays. -/
def Sys2Proof.Claims.GradeChoice : Prop :=
  ∀ (g : RingProgram) (now watts budget : Nat) (pin : Option Nat), now < 4 →
    let r := nextGrade g now watts budget pin
    (27000 < watts → permitted g 3 = true → r = 3) ∧
    (watts ≤ 27000 → ∀ k, pin = some k → r = if permitted g k = true then k else now) ∧
    (watts ≤ 27000 → pin = none →
      (budget < watts → (r = now ∧ ∀ k, now < k → k < 4 → permitted g k = false) ∨
        (now < r ∧ r < 4 ∧ permitted g r = true ∧ ∀ k, now < k → k < r → permitted g k = false)) ∧
      (watts ≤ budget → 10 * watts < 7 * budget → (r = now ∧ ∀ k, k < now → permitted g k = false) ∨
        (r < now ∧ permitted g r = true ∧ ∀ k, r < k → k < now → permitted g k = false)) ∧
      (watts ≤ budget → 7 * budget ≤ 10 * watts → r = now))

/-- R257, R261, R366: LAP_BOUNDARY before the running lap is over, or with no program running, changes nothing. At the end of a lap
with no switch pinned to the next one, the next lap starts where this one ends, with the same program, at the grade chosen from the
measured power, which POWER then holds. At the end of a lap with a switch pinned to the next one, the standby program becomes the running one
and a RINGSWITCH that waits for it ends with status 0; its first lap starts after the fewest idle cycles, up to 2,016, that part its segments
from those of earlier laps. The standby store is then empty: the model's reading (log 29). -/
def Sys2Proof.Claims.LapBoundaries : Prop :=
  ∀ (s : State) (watts : Nat),
    (s.ring.running = none → exec (.lapBoundary watts) s = .next s) ∧
    ∀ g, s.ring.running = some g →
      let time := s.ring.origin + ringTime s.ring.grade g.len
      (s.cycle < time → exec (.lapBoundary watts) s = .next s) ∧
      (time ≤ s.cycle → s.ring.stopped = false → s.newBypass = [] → s.adjacentBypass [] = false →
        s.ring.switchAt ≠ some (s.ring.lap + 1) →
        ∃ u, exec (.lapBoundary watts) s = .next u ∧ u.ring.lap = s.ring.lap + 1 ∧ u.ring.origin = time ∧
          u.ring.running = some g ∧ u.ring.standby = s.ring.standby ∧ u.ring.switchAt = s.ring.switchAt ∧
          u.ring.segments = s.ring.segments ∧ u.bar0.power = BitVec.ofNat 64 (watts % 2 ^ 32) ∧
          (let pin := if s.bar0.grade.toNat / 4 % 2 = 1 then some (s.bar0.grade.toNat % 4) else none
           let k := nextGrade g s.ring.grade.toNat watts (s.bar0.budget.toNat % 2 ^ 16) pin
           (permitted g k = true → u.ring.grade.toNat = k % 4)) ∧
          (∀ a, u.readByte a = s.readByte a) ∧ u.slots = s.slots) ∧
      (time ≤ s.cycle → s.ring.stopped = false → s.newBypass = [] → s.adjacentBypass [] = false →
        s.ring.switchAt = some (s.ring.lap + 1) → ∀ g', s.ring.standby = some g' →
        ∃ u, exec (.lapBoundary watts) s = .next u ∧ u.ring.lap = s.ring.lap + 1 ∧ u.ring.running = some g' ∧
          u.ring.standby = none ∧ u.ring.switchAt = none ∧ u.ring.segments = s.ring.segments ∧
          (let on := fun k : Nat => (⟨s.ring.lap + 1, time + k, u.ring.grade, g'⟩ : PastLap)
           ∀ k ≤ 2016, (∀ l ∈ s.ring.laps, ¬ Collide l (on k)) → (∀ j < k, ∃ l ∈ s.ring.laps, Collide l (on j)) →
            u.ring.origin = time + k) ∧
          (s.bar0.busy = true → s.bar0.cmdCode = 9 → u.bar0.busy = false ∧ u.bar0.status = 0) ∧
          (let pin := if s.bar0.grade.toNat / 4 % 2 = 1 then some (s.bar0.grade.toNat % 4) else none
           let k := nextGrade g' s.ring.grade.toNat watts (s.bar0.budget.toNat % 2 ^ 16) pin
           (permitted g' k = true → u.ring.grade.toNat = k % 4)) ∧
          (∀ a, u.readByte a = s.readByte a) ∧ u.slots = s.slots)

/-- R261, R264, R366: LAP_BOUNDARY where dies are to be bypassed: those out of service, and those whose error count has reached
their threshold. From the next lap on they are bypassed, unless two ring-adjacent dies would be: then the ring stops, no die is
bypassed, and every boarding becomes absent. Above 27 kW management is told. -/
def Sys2Proof.Claims.BypassesTake : Prop :=
  ∀ (s : State) (watts : Nat) (g : RingProgram), s.ring.running = some g → s.ring.stopped = false → (s.dies.map (·.1)).Nodup →
    s.ring.origin + ringTime s.ring.grade g.len ≤ s.cycle →
    (AdjacentWould s → ∃ u, exec (.lapBoundary watts) s = .next u ∧ u.ring.running = none ∧ u.ring.stopped = true ∧
      u.ring.switchAt = none ∧ (∀ d, (u.die d).bypassed = (s.die d).bypassed) ∧ (∀ a, u.readByte a = s.readByte a) ∧ u.slots = s.slots ∧
      AllAbsent u) ∧
    (¬ AdjacentWould s → ∃ u, exec (.lapBoundary watts) s = .next u ∧ u.ring.lap = s.ring.lap + 1 ∧
      (∀ d, d ∈ s.dies.map (·.1) → ((u.die d).bypassed = true ↔ WouldBypass s d) ∧
        (BypassDue s d → (u.die d).bypassFrom = some (s.ring.lap + 1)))) ∧
    (27000 < watts → ∃ u, exec (.lapBoundary watts) s = .next u ∧ MgmtEvent.overPower watts ∈ u.mgmt)

/-- R265, R266, R268, R269: EXPERT_REBOARD acts on the oldest boarding of a handle whose window is over with tokens dropped, its last
segment dealt with, one whose release is still to take effect too. The dropped tokens move to the head of the list in ascending order; the
part is boarded for the next lap that carries it, its sequence numbers going on, as many of the tokens accepted as the capacity takes. Where
the list no longer passes its checks no entry moves (the model's choice, log 93). With no such boarding nothing happens. HANDLE_RELEASE ends a
release once every operation that named the handle as it was released is complete, and not before. -/
def Sys2Proof.Claims.HandleEvents : Prop :=
  (∀ (s : State) (d c ctx k : Nat), (∀ h ∈ (s.core d c).handles, h.ctx = ctx → h.k = k → ¬ ReboardDue s d h) →
    exec (.expertReboard d c ctx k) s = .next s) ∧
  (∀ (s : State) (d c ctx k : Nat) (pre post : List Handle) (h : Handle) (p : Part),
    FirstOf (fun x => x.ctx = ctx ∧ x.k = k ∧ ReboardDue s d x) (s.core d c).handles pre h post → h.part = some p →
    ∃ (u s1 : State) (h1 h' : Handle), exec (.expertReboard d c ctx k) s = .next u ∧ OnlyHandles s1 u d c ∧
      (u.core d c).handles = pre ++ h' :: post ∧
      Catches s.ring d s.cycle p
        { h with count := h.dropped, accepted := min h.dropped 64, dropped := h.dropped - 64, lapK := h.lapK + 1, resolved := false } h1 ∧
      h' = { h1 with missedWait := h.missedWait } ∧
      (∀ pas, s.checkTokens d c ctx (tokenAddrs h.list h.count) = .ok pas →
        ∃ sorted : List Nat, sorted.Perm ((pas.map fun a => s.readNat a 4).drop h.accepted) ∧ sorted.Pairwise (· ≤ ·) ∧
          ListWritten s s1 (pas.take h.dropped) sorted) ∧
      (∀ x, s.checkTokens d c ctx (tokenAddrs h.list h.count) = .error x → s1 = s)) ∧
  (∀ (s : State) (d c ctx k : Nat), (∀ h ∈ (s.core d c).handles, h.ctx = ctx → h.k = k → h.releasing = none) →
    exec (.handleRelease d c ctx k) s = .next s) ∧
  (∀ (s : State) (d c ctx k : Nat) (pre post : List Handle) (h : Handle) (us : List Nat),
    FirstOf (fun x => x.ctx = ctx ∧ x.k = k ∧ x.releasing.isSome = true) (s.core d c).handles pre h post → h.releasing = some us →
    ((∃ o ∈ s.ops, o.uid ∈ us) → exec (.handleRelease d c ctx k) s = .next s) ∧
    ((∀ o ∈ s.ops, o.uid ∉ us) → exec (.handleRelease d c ctx k) s = .next (withHandles s d c (pre ++ post))))

/-- R259 to R261, R330, R372, R373: the commands on ring programs and groups. RINGLOAD of an image the loader accepts makes it the
standby program, status 0; of any other, status 3. RINGSWITCH with no standby program, or on a stopped ring, ends with status 2; to
a later lap it is pinned and stays busy; while no program runs it starts the standby program on the next cycle, with the dies that are to
be bypassed bypassed from its first lap on; but where two ring-adjacent dies would be, firmware stops the ring (status 2: the model's
choice). The standby store is empty after a start (log 29). GROUPLOAD of a context that is not loaded ends with status 5, of a group above 63
with 2 (in that order, log 37), of an accepted image with 0 and the group in force; of a refused one, or one at an address that cannot be read
(log 25), with 3, and the group in force stays. An unassigned code ends with status 1. -/
def Sys2Proof.Claims.RingCommands : Prop :=
  ∀ (s : State) (ctx : Nat),
    let a0 := s.bar0.cmdArgs[0]
    let a1 := s.bar0.cmdArgs[1]
    (runs s 8 ctx →
      (∀ g, tableOk a0.toNat 1 = true → s.acceptProgram a0.toNat = some g →
        exec (.ringload ctx) s = .next (ended { s with ring := { s.ring with standby := some g } } 0)) ∧
      (tableOk a0.toNat 1 = false ∨ s.acceptProgram a0.toNat = none → exec (.ringload ctx) s = .next (ended s 3))) ∧
    (runs s 9 ctx → s.ring.switchAt = none →
      (s.ring.standby = none → exec (.ringswitch ctx) s = .next (ended s 2)) ∧
      (s.ring.stopped = true → exec (.ringswitch ctx) s = .next (ended s 2)) ∧
      (∀ g, s.ring.standby = some g → s.ring.running = none → s.ring.stopped = false → (s.dies.map (·.1)).Nodup → AdjacentWould s →
        ∃ u, exec (.ringswitch ctx) s = .next u ∧ u.ring = { s.ring with stopped := true } ∧ AllAbsent u ∧ u.dies = s.dies ∧
          u.bar0.busy = false ∧ u.bar0.status = 2 ∧ ∀ a, u.readByte a = s.readByte a) ∧
      (∀ g, s.ring.standby = some g → s.ring.running = none → s.ring.stopped = false → (s.dies.map (·.1)).Nodup → ¬ AdjacentWould s →
        ∃ u, exec (.ringswitch ctx) s = .next u ∧
          (∀ d, d ∈ s.dies.map (·.1) → ((u.die d).bypassed = true ↔ WouldBypass s d) ∧
            (BypassDue s d → (u.die d).bypassFrom = some u.ring.lap)) ∧ u.ring.running = some g ∧ u.ring.standby = none ∧ u.ring.switchAt = none ∧
          u.ring.lap = (if a0.toNat / 2 ^ 32 % 2 = 1 then s.ring.lap + 1 else BitVec.ofNat 32 a0.toNat) ∧
          u.ring.origin = s.cycle + 1 ∧ u.ring.segments = s.ring.segments ∧ u.bar0.busy = false ∧ u.bar0.status = 0 ∧
          (∀ k, k < 4 → permitted g k = true →
            (let pin := if s.bar0.grade.toNat / 4 % 2 = 1 then s.bar0.grade.toNat % 4 else s.ring.grade.toNat
             permitted g u.ring.grade.toNat = true ∧ (permitted g pin = true → u.ring.grade.toNat = pin)))) ∧
      (∀ g g', s.ring.standby = some g → s.ring.running = some g' → s.ring.stopped = false →
        let lap : BitVec 32 := if a0.toNat / 2 ^ 32 % 2 = 1 then s.ring.lap + 1 else BitVec.ofNat 32 a0.toNat
        (0 < stampDiff lap s.ring.lap →
          exec (.ringswitch ctx) s = .next { s with ring := { s.ring with switchAt := some lap } }) ∧
        (stampDiff lap s.ring.lap ≤ 0 → exec (.ringswitch ctx) s = .next (ended s 2)))) ∧
    (runs s 10 ctx →
      (s.ctxInfo? ctx = none → exec (.groupload ctx) s = .next (ended s 5)) ∧
      (s.ctxInfo? ctx ≠ none → 63 < a0.toNat → exec (.groupload ctx) s = .next (ended s 2)) ∧
      (s.ctxInfo? ctx ≠ none → a0.toNat ≤ 63 → tableOk a1.toNat 1 = true →
        s.groupOk a1.toNat (s.readGroup ctx a0.toNat a1.toNat) (s.roundsOpen ctx (s.readGroup ctx a0.toNat a1.toNat).g) = true →
        exec (.groupload ctx) s = .next ((s.installGroup (s.readGroup ctx a0.toNat a1.toNat)).finishCmd 10 0)) ∧
      (s.ctxInfo? ctx ≠ none → a0.toNat ≤ 63 → tableOk a1.toNat 1 = false ∨
        s.groupOk a1.toNat (s.readGroup ctx a0.toNat a1.toNat) (s.roundsOpen ctx (s.readGroup ctx a0.toNat a1.toNat).g) = false →
        exec (.groupload ctx) s = .next (ended s 3) ∧ (ended s 3).groups = s.groups)) ∧
    (∀ code : BitVec 8, runs s code ctx → code = 0 ∨ 10 < code.toNat → exec (.unknownCommand code ctx) s = .next (ended s 1))

/-- R259, R260: the loader's rules. It accepts an image whose fields are within their layout exactly when its parts are in order
without overlap inside the lap, no two entries are one part, every source is a plinth die not bypassed with pages the context marks
RINGSRC, a plinth sources one lane at an offset, and some grade is free of collisions; and it permits just those grades. -/
def Sys2Proof.Claims.ProgramsAccepted : Prop :=
  ∀ (s : State) (a : Nat),
    let g := s.readProgram a
    let rules := s.programFields a g = true ∧
      g.parts.Pairwise (fun p q => p.lane < q.lane ∨ (p.lane = q.lane ∧ p.first + p.count ≤ q.first)) ∧
      (∀ p ∈ g.parts, p.first + p.count ≤ g.len) ∧
      g.parts.Pairwise (fun p q => ¬ (p.ctx = q.ctx ∧ p.layer = q.layer ∧ p.lane = q.lane)) ∧
      (∀ p ∈ g.parts, isPlinth p.source = true ∧ (s.die p.source).bypassed = false ∧
        s.ringSource p.ctx p.source p.addr (1024 * p.count) = true) ∧
      g.parts.Pairwise (fun p q => p.source ≠ q.source ∨ p.lane = q.lane ∨ p.first + p.count ≤ q.first ∨
        q.first + q.count ≤ p.first) ∧
      ∃ k, k < 4 ∧ GradeClear s.ring.running g k
    ((s.acceptProgram a).isSome = true ↔ rules) ∧
    ∀ q, s.acceptProgram a = some q → q.parts = g.parts ∧ q.len = g.len ∧ q.number = g.number ∧
      ∀ k, k < 4 → (permitted q k = true ↔ GradeClear s.ring.running g k)

end
/-! ### Pair records, the arbiter, and migration (R30, R230, R234 to R247, R321 to R327) -/

namespace Sys2Proof.Claims
open Sys2Proof.Machine

/-- Word 0 of a record: context, priority, energy, and node A (R234). -/
def pairWord0 (ctx prio energy : Nat) (a : Word) : Word :=
  BitVec.ofNat 64 (ctx % 64 * 2 ^ 58 + prio % 4 * 2 ^ 56 + energy % 4 * 2 ^ 54 + a.toNat)

/-- Word 1 of a record: the affinity die and node B (R234). -/
def pairWord1 (affinity : Nat) (b : Word) : Word := BitVec.ofNat 64 (affinity % 1024 * 2 ^ 54 + b.toNat)

/-- Of the cores, only one differs, and of it only its hod and its held records. -/
def OnlyHod (s u : State) (d c : Nat) : Prop :=
  (∀ d' c', (d', c') ≠ (d, c) → u.core d' c' = s.core d' c') ∧
    { u.core d c with hod := (s.core d c).hod, held := (s.core d c).held } = s.core d c

/-- A context's slots above its target share on a core, times the sum of the resident weights (R30). -/
def overShare (s : State) (d c sum n : Nat) : Int :=
  ((((List.range 16).filter fun k => (s.slot ⟨d, c, k⟩).owner = some n).length * sum : Nat) : Int) -
    (((s.core d c).weightOf n * 16 : Nat) : Int)

/-- A context that may give a slot: it owns more than its target, and one free slot (R30). -/
def MayGive (s : State) (d c sum n : Nat) : Prop :=
  n < 64 ∧ (s.core d c).resident n = true ∧ 0 < overShare s d c sum n ∧
    ∃ k, k < 16 ∧ s.slotFree ⟨d, c, k⟩ = true ∧ (s.slot ⟨d, c, k⟩).owner = some n

/-- A context that may receive a slot: it owns fewer than its target (R30). -/
def MayReceive (s : State) (d c sum n : Nat) : Prop :=
  n < 64 ∧ (s.core d c).resident n = true ∧ overShare s d c sum n < 0

/-- A free slot that no resident context owns (R30). -/
def Unowned (s : State) (d c k : Nat) : Prop :=
  k < 16 ∧ s.slotFree ⟨d, c, k⟩ = true ∧
    ∀ n, (s.slot ⟨d, c, k⟩).owner = some n → ¬ (n < 64 ∧ (s.core d c).resident n = true)

/-- The records of a die's hods that balancing may send, with their cores: below priority 3, and not moved before (R244). -/
def movable (s : State) (d ctx : Nat) : List (Nat × HodEntry) :=
  (List.range 16).flatMap fun c => ((s.core d c).hod.filter fun e =>
    e.w0.toNat / 2 ^ 58 = ctx && e.w0.toNat / 2 ^ 56 % 4 < 3 && e.w1.toNat / 2 ^ 48 % 2 = 0).map fun e => (c, e)

/-- A context is declared quiescent at a wave: its combined status is the same as at the wave before and shows no work, and its
bit is not set yet (R245). -/
def declared (s : State) (c : CtxInfo) : Bool :=
  let w := s.statusWord c.n
  c.lastWave = some w && w.extractLsb' 96 32 = w.extractLsb' 64 32 && w.extractLsb' 48 16 = w.extractLsb' 32 16 &&
    w.extractLsb' 0 32 = 0 && !s.bar0.quiescent.getLsbD c.n

/-- A drain that waited for its record is complete once that is written (R300). -/
def DrainDone (v u : State) (op : Option Nat) : Prop :=
  (op = none → u = v) ∧ ∀ n, op = some n → (∀ pre o post, FirstOf (fun x => x.uid = n) v.ops pre o post → u = v.opDone o) ∧
    ((∀ o ∈ v.ops, o.uid ≠ n) → u = v)

/-- The drain that waits for a record, if it is one that a drain's wake made. -/
def drainOf (r : FreshRec) : Option Nat := if r.src = .wake then some r.owner else none

/-- A record has entered a hod as its last entry, and nothing else differs (R236). -/
def EntersHod (s u : State) (d c : Nat) (w : Word × Word) : Prop :=
  (u.core d c).hod = (s.core d c).hod ++ [⟨w.1, w.2, s.cycle, s.cycle⟩] ∧ OnlyHod s u d c ∧ (u.core d c).held = (s.core d c).held ∧
    { u with cores := s.cores } = s

/-- A record is on its way to a die's spill partition, from a core, and nothing else differs (R237, R240). -/
def Spills (s u : State) (d c ctx : Nat) (w : Word × Word) (op : Option Nat) : Prop :=
  u.spilling = s.spilling ++ [⟨d, ctx, w.1, w.2, op⟩] ∧ lookupD 15 ctx (u.die d).lastSpill = c ∧
    { u.die d with lastSpill := (s.die d).lastSpill } = s.die d ∧ (∀ e, e ≠ d → u.die e = s.die e) ∧
    { u with spilling := s.spilling, dies := s.dies } = s

/-- The lamp die in service that an intake record goes to: the nearest to its affinity die, the first among equals (R247). -/
def IntakeDie (s : State) (aff d : Nat) : Prop :=
  ∃ pre post, s.inService = pre ++ d :: post ∧ (∀ e ∈ pre, gridDist d aff < gridDist e aff) ∧ ∀ e ∈ post, gridDist d aff ≤ gridDist e aff

/-- A core of a die on which a context owns a slot. -/
def OwnsSlot (s : State) (d ctx c : Nat) : Prop := ∃ k, k < 16 ∧ (s.slot ⟨d, c, k⟩).owner = some ctx

/-- A context's count of hod entries. -/
def inHod (s : State) (d c ctx : Nat) : Nat := ((s.core d c).hod.filter fun e => e.w0.toNat / 2 ^ 58 = ctx).length

end Sys2Proof.Claims

section
open Sys2Proof Sys2Proof.Machine Sys2Proof.Claims

/-- R230, R234, R235, R210: RECORD_CLASSIFY of a record of two readable nodes below 2^48: node A is the one of the lower class, or
the lower address at equal classes; the record's priority and energy are those of their rule, and its affinity die is node A's
home. A record of a `push` waits for its thread's earlier accesses. While a node or the rule cannot be read yet, nothing happens; reading
them steps on their blocks (R154). -/
def Sys2Proof.Claims.RecordsClassify : Prop :=
  ∀ (s : State) (n : Nat) (pre post : List FreshRec) (r : FreshRec) (hx px qx rx hy py qy ry : Word) (mx my : Nat),
    FirstOf (fun x => x.id = n) s.fresh pre r post → r.words = none →
    (r.src = .push → s.unperformed r.owner n = true → exec (.recordClassify n) s = .next s) ∧
    ((r.src = .push → s.unperformed r.owner n = false) → r.ctx < 64 → r.a.toNat < 2 ^ 48 → r.b.toNat < 2 ^ 48 → mx < 1024 →
      my < 1024 → s.readNode r.die r.ctx r.a = .ok hx px qx rx mx → s.readNode r.die r.ctx r.b = .ok hy py qy ry my →
      let cx := s.classOf r.ctx (hx.toNat % 2 ^ 16)
      let cy := s.classOf r.ctx (hy.toNat % 2 ^ 16)
      let first := cx < cy ∨ (cx = cy ∧ r.a.toNat ≤ r.b.toNat)
      let rule := (s.ruleRead r.die r.core r.ctx (if first then cx * 256 + cy else cy * 256 + cx)).2
      let w0 := pairWord0 r.ctx (rule.toNat / 2 ^ 6 % 4) (rule.toNat / 2 ^ 4 % 4) (if first then r.a else r.b)
      let w1 := pairWord1 (if first then mx else my) (if first then r.b else r.a)
      let idx := if first then cx * 256 + cy else cy * 256 + cx
      (RuleWaits s r.die r.core r.ctx idx → exec (.recordClassify n) s = .next s) ∧
      (¬ RuleWaits s r.die r.core r.ctx idx → ∃ u, exec (.recordClassify n) s = .next u ∧
        u.fresh = pre ++ { r with words := some (w0, w1) } :: post ∧ RuleReadOn s u r.die r.core r.ctx idx rule ∧
        (∀ b, b ∈ u.stepped ↔ b ∈ nodeBlocks s r.die r.ctx [r.a, r.b] ∨ b ∈ s.stepped ∨
          ¬ RuleCached s r.die r.core r.ctx idx ∧ b = rulePlace s r.ctx idx / 256 * 256) ∧
        (∀ a, u.readByte a = s.readByte a) ∧ u.slots = s.slots)) ∧
    ((s.readNode r.die r.ctx r.a = .away ∨ s.readNode r.die r.ctx r.b = .away) → exec (.recordClassify n) s = .next s)

/-- R236, R237, R240, R241, R247, R300: PAIR_RECORD_SEND and HELD_RECORD_WRITE. A classified record of a `push`, a link, the rewrite unit or a
drain's wake enters its core's hod as its last entry while the context has room there; else the die's spill partition; else it is held at
its core, which holds at most 16 of a context, and waits while it does. A held record is written to the hod, or the partition, once
there is room. A drain that waits for its record is complete once that is written. An intake record goes to the lamp die in service
nearest its affinity die, to the core there that the context's pointer comes to first of those on which the context owns a slot, or, with
none, to the die's partition; while there is no room it waits. -/
def Sys2Proof.Claims.RecordsPlaced : Prop :=
  (∀ (s : State) (n : Nat) (pre post : List FreshRec) (r : FreshRec) (w : Word × Word),
    FirstOf (fun x => x.id = n) s.fresh pre r post → (∀ x ∈ post, x.id ≠ n) → r.words = some w → r.src ≠ .intake →
    (s.core r.die r.core).areaOf r.ctx = none →
    let room := (s.core r.die r.core).hodRoom r.ctx = true
    let rest := { s with fresh := pre ++ post }
    (room → ∃ v u, exec (.pairRecordSend n) s = .next u ∧ EntersHod rest v r.die r.core w ∧ DrainDone v u (drainOf r)) ∧
    (¬ room → 0 < s.partRoom r.ctx r.die → ∃ u, exec (.pairRecordSend n) s = .next u ∧ Spills rest u r.die r.core r.ctx w (drainOf r)) ∧
    (¬ room → s.partRoom r.ctx r.die = 0 → let held := ((s.core r.die r.core).held.filter fun q => q.ctx = r.ctx).length
      (held < 16 → ∃ u, exec (.pairRecordSend n) s = .next u ∧ (u.core r.die r.core).held = (s.core r.die r.core).held ++ [r] ∧
        (u.core r.die r.core).hod = (s.core r.die r.core).hod ∧ OnlyHod s u r.die r.core ∧ { u with cores := s.cores } = rest) ∧
      (16 ≤ held → exec (.pairRecordSend n) s = .next s))) ∧
  (∀ (s : State) (d c ctx : Nat) (pre post : List FreshRec) (r : FreshRec) (w : Word × Word),
    FirstOf (fun x => x.ctx = ctx) (s.core d c).held pre r post → (∀ x ∈ pre, x.id ≠ r.id) → r.words = some w →
    (s.core d c).areaOf ctx = none →
    let written := fun u : State => u.modCore d c fun x => { x with held := pre ++ post }
    ((s.core d c).hodRoom ctx = true → ∃ v u, exec (.heldRecordWrite d c ctx) s = .next (written u) ∧ EntersHod s v d c w ∧
      DrainDone v u (drainOf r)) ∧
    ((s.core d c).hodRoom ctx = false → 0 < s.partRoom ctx d → ∃ u, exec (.heldRecordWrite d c ctx) s = .next (written u) ∧
      Spills s u d c ctx w (drainOf r)) ∧
    ((s.core d c).hodRoom ctx = false → s.partRoom ctx d = 0 → exec (.heldRecordWrite d c ctx) s = .next s)) ∧
  (∀ (s : State) (n : Nat) (pre post : List FreshRec) (r : FreshRec) (w : Word × Word) (before after : List CtxInfo) (i : CtxInfo),
    FirstOf (fun x => x.id = n) s.fresh pre r post → (∀ x ∈ post, x.id ≠ n) → r.words = some w → r.src = .intake →
    FirstOf (fun x => x.n = r.ctx) s.ctxs before i after →
    let rest := { s with fresh := pre ++ post }
    let cores := (List.range 16).map fun k => (i.intakePtr + k) % 16
    (s.inService = [] → exec (.pairRecordSend n) s = .next s) ∧
    ∀ d, IntakeDie s (w.2.toNat / 2 ^ 54) d →
      (∀ bs c as, FirstOf (OwnsSlot s d r.ctx) cores bs c as → (s.core d c).areaOf r.ctx = none →
        let next := fun u : State => { u with ctxs := before ++ { i with intakePtr := (c + 1) % 16 } :: after }
        ((s.core d c).hodRoom r.ctx = true → ∃ u, exec (.pairRecordSend n) s = .next (next u) ∧ EntersHod rest u d c w) ∧
        ((s.core d c).hodRoom r.ctx = false → 0 < s.partRoom r.ctx d →
          ∃ u, exec (.pairRecordSend n) s = .next (next u) ∧ Spills rest u d c r.ctx w none) ∧
        ((s.core d c).hodRoom r.ctx = false → s.partRoom r.ctx d = 0 → exec (.pairRecordSend n) s = .next s)) ∧
      ((∀ c ∈ cores, ¬ OwnsSlot s d r.ctx c) →
        (0 < s.partRoom r.ctx d → exec (.pairRecordSend n) s =
          .next { rest with spilling := s.spilling ++ [⟨d, r.ctx, w.1, w.2, none⟩] }) ∧
        (s.partRoom r.ctx d = 0 → exec (.pairRecordSend n) s = .next s)))

/-- R239, R240: SPILL_WRITE puts the oldest record on its way into the partition's tail slot, which completes the drain that waits for it, and
moves the tail on by one; it waits while the partition is full. SPILL_READ
moves up to eight of the oldest records, no more than stand there or than the hod has room for, to the hod of the core that wants
them, and moves the head on by their number. -/
def Sys2Proof.Claims.SpillPartitions : Prop :=
  (∀ (s : State) (d ctx : Nat) (pre post : List SpillRec) (r : SpillRec), FirstOf (fun x => x.die = d ∧ x.ctx = ctx) s.spilling pre r post →
    let a := s.partAddr ctx d
    let tail := s.read64 a
    let slot := a + 64 + 16 * (tail.toNat % s.partSize ctx)
    (s.partSize ctx ≤ s.partHeld ctx d → exec (.spillWrite d ctx) s = .next s) ∧
    (s.partHeld ctx d < s.partSize ctx → exec (.spillWrite d ctx) s = .next
      ((((({ s with spilling := pre ++ post }).write64 slot r.w0).write64 (slot + 8) r.w1)).write64 a (tail + 1)|>.wakeDone r.op))) ∧
  (∀ (s : State) (d c ctx : Nat),
    let last := lookupD 15 ctx (s.die d).lastSpill
    (((List.range 16).map fun k => (last + 1 + k) % 16).find? fun c' => s.wantsRecords d c' ctx) = some c →
    let a := s.partAddr ctx d
    let head := (s.read64 (a + 8)).toNat
    let n := min 8 (min (s.partHeld ctx d) ((s.core d c).room ctx))
    ∃ u, exec (.spillRead d c ctx) s = .next u ∧ OnlyHod s u d c ∧ (u.core d c).held = (s.core d c).held ∧
      (u.core d c).hod = (s.core d c).hod ++ (List.range n).map (fun k =>
        let slot := a + 64 + 16 * ((head + k) % s.partSize ctx)
        (⟨s.read64 slot, s.read64 (slot + 8), s.cycle, s.cycle⟩ : HodEntry)) ∧
      u.mem = (s.write64 (a + 8) (BitVec.ofNat 64 (head + n))).mem)

/-- R238, R243: AGING_RISE gives an entry that has waited 65,536 cycles in its class one class more, up to 3. HOD_STEAL moves the
oldest half, rounded up and at most eight, of the eligible records of the core that has most to a core that wants records: none is
lost or made, and none at all moves while the die's partition holds some. -/
def Sys2Proof.Claims.HodsChange : Prop :=
  (∀ (s : State) (d c n : Nat) (e : HodEntry), (s.core d c).hod[n]? = some e →
    let due := e.w0.toNat / 2 ^ 56 % 4 < 3 ∧ e.rose + 65536 ≤ s.cycle
    (¬ due → exec (.agingRise d c n) s = .next s) ∧
    (due → ∃ u e', exec (.agingRise d c n) s = .next u ∧ (u.core d c).hod = (s.core d c).hod.set n e' ∧
      e'.w0.toNat = e.w0.toNat + 2 ^ 56 ∧ e'.w1 = e.w1 ∧ e'.entered = e.entered ∧ e'.rose = s.cycle ∧ OnlyHod s u d c ∧
      { u with cores := s.cores } = s)) ∧
  (∀ (s : State) (d c ctx : Nat),
    (s.partHeld ctx d ≠ 0 → exec (.hodSteal d c ctx) s = .next s) ∧
    (s.wantsRecords d c ctx = false → exec (.hodSteal d c ctx) s = .next s) ∧
    (s.wantsRecords d c ctx = true → s.partHeld ctx d = 0 → c < 16 →
      ∃ u from_, exec (.hodSteal d c ctx) s = .next u ∧ from_ < 16 ∧ from_ ≠ c ∧
        (∀ k, k < 16 → k ≠ c → (s.eligibleOf d k ctx).length ≤ (s.eligibleOf d from_ ctx).length) ∧
        (let es := s.eligibleOf d from_ ctx
         let n := min (min 8 ((es.length + 1) / 2)) ((s.core d c).room ctx)
         (u.core d c).hod = (s.core d c).hod ++ (es.take n).map (fun e => (⟨e.w0, e.w1, s.cycle, s.cycle⟩ : HodEntry)) ∧
         ((u.core d from_).hod ++ es.take n).Perm (s.core d from_).hod) ∧
        { u with cores := s.cores } = s))

/-- R241, R244: BALANCE_BATCH writes the records of a batch on its way into the neighbour's partition, in order, once they all have
room there. BALANCE_ADVERTISE, every 4,096 cycles and once, tells each lamp die two hops away the die's count and room; a neighbour's
count is compared first, and only a count above twice the neighbour's and 16 more sends it records: up to 16, no more than its room,
those nearest by affinity and then oldest first, marked as moved; they are taken from the hods alone, the model's reading (log 52). -/
def Sys2Proof.Claims.Balancing : Prop :=
  (∀ (s : State) (n d ctx : Nat) (rs : List (Word × Word)), s.batches[n]? = some (d, ctx, rs) →
    (s.partSize ctx < s.partHeld ctx d + rs.length → exec (.balanceBatch n) s = .next s) ∧
    (s.partHeld ctx d + rs.length ≤ s.partSize ctx → exec (.balanceBatch n) s = .next (rs.foldl (fun (x : State) r =>
      let a := x.partAddr ctx d
      let slot := a + 64 + 16 * ((x.read64 a).toNat % x.partSize ctx)
      ((x.write64 slot r.1).write64 (slot + 8) r.2).write64 a (x.read64 a + 1)) { s with batches := s.batches.eraseIdx n }))) ∧
  (∀ (s : State) (d ctx : Nat),
    (s.cycle % 4096 ≠ 0 ∨ (ctx, s.cycle) ∈ (s.die d).advertised → exec (.balanceAdvertise d ctx) s = .next s) ∧
    (s.cycle % 4096 = 0 → (ctx, s.cycle) ∉ (s.die d).advertised → d ∈ s.inService →
      (∀ nb c r, (nb, ctx, c, r) ∈ (s.die d).adverts → s.recordCount d ctx ≤ 2 * c + 16) →
      ∃ u, exec (.balanceAdvertise d ctx) s = .next u ∧ lookupD 1 ctx (u.die d).advertised = s.cycle ∧
        (∀ nb, nb ∈ lampDies → gridDist d nb = 2 → (s.die nb).outOfService = false →
          (d, ctx, s.recordCount d ctx, s.partRoom ctx d) ∈ (u.die nb).adverts) ∧
        { u with dies := s.dies } = s)) ∧
  (∀ (s : State) (d ctx nb c r : Nat) (pre post : List (Nat × Nat × Nat × Nat)), ctx < 64 →
    s.cycle % 4096 = 0 → (ctx, s.cycle) ∉ (s.die d).advertised → d ∈ s.inService → nb ∈ lampDies → gridDist d nb = 2 →
    (s.die nb).outOfService = false → FirstOf (fun a => a.1 = nb ∧ a.2.1 = ctx) (s.die d).adverts pre (nb, ctx, c, r) post →
    2 * c + 16 < s.recordCount d ctx →
    (∀ m c' r', m ≠ nb → (m, ctx, c', r') ∈ (s.die d).adverts → s.recordCount d ctx ≤ 2 * c' + 16) →
    ∃ u xs ys, exec (.balanceAdvertise d ctx) s = .next u ∧ (xs ++ ys).Perm (movable s d ctx) ∧
      xs.length = min (min 16 r) (movable s d ctx).length ∧
      (xs ++ ys).Pairwise (fun a b => let n := fun e : Nat × HodEntry => s.hops nb (e.2.w1.toNat / 2 ^ 54)
        n a < n b ∨ (n a = n b ∧ a.2.entered ≤ b.2.entered)) ∧
      u.batches = s.batches ++ (if xs = [] then [] else
        [(nb, ctx, xs.map fun e => (e.2.w0, e.2.w1 ||| BitVec.ofNat 64 (2 ^ 48)))]) ∧
      (∀ k, k < 16 → ((u.core d k).hod ++ (xs.filter fun e => e.1 = k).map (·.2)).Perm (s.core d k).hod) ∧
      (∀ e k, e ≠ d → u.core e k = s.core e k) ∧ lookupD 1 ctx (u.die d).advertised = s.cycle ∧
      { u with dies := s.dies, cores := s.cores, batches := s.batches } = s)

/-- R245: QUIESCENCE_WAVE, every 8,192 cycles and once, keeps each loaded context's combined status; each whose status is the same as
at the wave before and shows no work is quiescent. Its vector is raised, if its record asks for it, only where its bit was not set already:
the model's reading (log 27). -/
def Sys2Proof.Claims.QuiescenceWaves : Prop :=
  ∀ s : State,
    (s.cycle % 8192 ≠ 0 ∨ s.lastWave = some s.cycle → exec .quiescenceWave s = .next s) ∧
    (s.cycle % 8192 = 0 → s.lastWave ≠ some s.cycle → (s.ctxs.map (·.n)).Nodup → (∀ c ∈ s.ctxs, c.n < 64) →
      let vector := fun c : CtxInfo => let v := s.record c.n 10
        if v.toNat % 2 = 1 then [v.toNat / 2 ^ 16 % 2 ^ 11] else []
      ∃ u, exec .quiescenceWave s = .next u ∧ u.lastWave = some s.cycle ∧
        u.ctxs = s.ctxs.map (fun c => { c with lastWave := some (s.statusWord c.n) }) ∧
        (∀ n, n < 64 → (u.bar0.quiescent.getLsbD n = true ↔
          s.bar0.quiescent.getLsbD n = true ∨ ∃ c ∈ s.ctxs, c.n = n ∧ declared s c = true)) ∧
        u.bar0.msix = s.bar0.msix ++ (s.ctxs.filter (declared s)).flatMap vector ∧
        { u with lastWave := s.lastWave, ctxs := s.ctxs, bar0 := s.bar0 } = s ∧
        { u.bar0 with quiescent := s.bar0.quiescent, msix := s.bar0.msix } = s.bar0)

/-- R30: SLOT_ARBITER acts once at each cycle that is a multiple of 16. It changes at most one slot, and of it only the owner. A free
slot that no resident context owns goes to the context furthest below its target share, the lower number among equals. With none, a
free slot of the context furthest above its target goes to that one when the excess and the shortfall together exceed one slot. No
thread and no byte of memory differs. -/
def Sys2Proof.Claims.SlotArbiters : Prop :=
  ∀ (s : State) (d c : Nat),
    (s.cycle % 16 ≠ 0 ∨ (s.core d c).lastArb = some s.cycle → exec (.slotArbiter d c) s = .next s) ∧
    (s.cycle % 16 = 0 → (s.core d c).lastArb ≠ some s.cycle →
      let sum := (((List.range 64).filter fun m => (s.core d c).resident m).map fun m => (s.core d c).weightOf m).sum
      let ov := overShare s d c sum
      let least := fun n => MayReceive s d c sum n ∧ ∀ m, MayReceive s d c sum m → ov n < ov m ∨ (ov n = ov m ∧ n ≤ m)
      let most := fun n => MayGive s d c sum n ∧ ∀ m, MayGive s d c sum m → ov m < ov n ∨ (ov n = ov m ∧ n ≤ m)
      ∃ u, exec (.slotArbiter d c) s = .next u ∧ (u.core d c).lastArb = some s.cycle ∧ (∀ p, u.thread? p = s.thread? p) ∧
        (∀ a, u.readByte a = s.readByte a) ∧
        (let gives := fun k n => u.slot ⟨d, c, k⟩ = { s.slot ⟨d, c, k⟩ with owner := some n } ∧
           ∀ p, p ≠ ⟨d, c, k⟩ → u.slot p = s.slot p
         (∀ n, sum ≠ 0 → least n → (∃ k, Unowned s d c k) → ∃ k, Unowned s d c k ∧ gives k n) ∧
         (∀ n m, sum ≠ 0 → least n → (¬ ∃ k, Unowned s d c k) → most m → (sum : Int) < ov m - ov n →
           ∃ k, k < 16 ∧ s.slotFree ⟨d, c, k⟩ = true ∧ (s.slot ⟨d, c, k⟩).owner = some m ∧ gives k n) ∧
         (sum = 0 ∨ (¬ ∃ n, least n) ∨ ((¬ ∃ k, Unowned s d c k) ∧
             ∀ n m, least n → most m → ov m - ov n ≤ (sum : Int)) → ∀ p, u.slot p = s.slot p)))

/-- R90, R326: `mig` traps precisely when its check fails, and PROT for an address of the host window; on the core it names already, the
thread goes on; otherwise it is told to migrate there and to resume at the next word, with the loop-back check of a word that falls
through made. A plinth address names the lowest lamp die
beside its home. -/
def Sys2Proof.Claims.MigrateWord : Prop :=
  ∀ (s : State) (i : Issue) (t : Thread) (s1 : BitVec 5), s.current = some (i, t) →
    let a := t.readS s1
    (∀ c, s.check i.place.die t.ctx .load a 1 = .fail c → exec (.mig s1) s = .next (s.precise i t c a)) ∧
    (∀ pa leaf, s.check i.place.die t.ctx .load a 1 = .ok pa leaf →
      (paSpace pa = 2 → exec (.mig s1) s = .next (s.precise i t causeProt a)) ∧
      (∀ d c, (paSpace pa = 1 ∧ d = paHome pa ∧ c = paCore pa) ∨
          (paSpace pa = 0 ∧ lampBeside (paHome pa) = some d ∧ c = i.place.core) →
        let r := loopCheck t.sys i.pc
        ((d, c) = (i.place.die, i.place.core) → Lands s i.place (exec (.mig s1) s) t) ∧
        ((d, c) ≠ (i.place.die, i.place.core) → LandsStaying s i (exec (.mig s1) s)
          { t with hold := .migrate, migration := some ⟨d, c, r.2, r.1.lc0, r.1.lc1, .waiting⟩ })))

/-- R185, R323, R324: the packet. MIGRATION_PACK sends it once the thread's operations and accesses are done: the live vectors, its
former ids, and everything else of the thread, at its resume address; a refused one is sent again after 512 cycles. At the target
it is placed in a free slot of its context, or buffered, up to 16, or refused where the context is not resident. The acceptance
frees the source's slot, whose generation advances to the next that is not held away; a ninth former id is dropped with a stop notice due for
it. A buffered packet is placed once a slot is free that no launch record names, a held one neither: the model's choice (log 80). -/
def Sys2Proof.Claims.Migrations : Prop :=
  (∀ (s : State) (p : Place) (t : Thread) (m : Migration), s.thread? p = some t → t.migration = some m →
    let packed := { t with pc := m.resume, sys := { t.sys with lc0 := m.lc0, lc1 := m.lc1 }, preempt := none,
                           reissue := if m.resume = t.pc ∧ t.image = [] then some t.pc else none, v := Vector.ofFn fun k => if t.sys.vlive.getLsbD k.val then t.v[k] else 0,
                           hold := .none, migration := none, firstWord := t.firstWord && m.resume == t.pc,
                           former := (t.formerAfter (s.widAt p)).1, stampedNow := false,
                           stampedAny := t.stampedAny || t.stampedNow }
    let goes := fun (o : Host.Outcome State Fault Refusal) => ∃ (u : State) (r : Req), o = .next u ∧ u.sends = s.sends ++ [r] ∧
      r.body = .packet m.core p packed ∧ r.owner = t.uid ∧ r.src = p.die ∧ r.dest = m.die ∧ r.ctx = t.ctx ∧
      u.thread? p = some { t with migration := some { m with phase := .sent } } ∧ (∀ q, q ≠ p → u.slot q = s.slot q) ∧
      ∀ a, u.readByte a = s.readByte a
    (m.phase = .waiting → s.migrationReady t = false → exec (.migrationPack p) s = .next s) ∧
    (m.phase = .waiting → s.migrationReady t = true → goes (exec (.migrationPack p) s)) ∧
    (∀ c, m.phase = .refused c → c + 512 ≤ s.cycle → goes (exec (.migrationResend p) s)) ∧
    (∀ c, m.phase = .refused c → s.cycle < c + 512 → exec (.migrationResend p) s = .next s)) ∧
  (∀ (s : State) (e core : Nat) (from_ : Place) (t : Thread) (pre post : List Req) (r : Req),
    FirstOf (fun q => q.dest = e) s.arrivals pre r post → r.body = .packet core from_ t → s.evictedAt r = false →
    let answered := fun (u : State) b => u.arrivals = pre ++ post ∧ u.resps = s.resps ++ [reply s r b] ∧ ∀ a, u.readByte a = s.readByte a
    let resident := (s.core e core).resident t.ctx = true
    (¬ resident → s.up r.src = true → ∃ u, exec (.migrationPacket e) s = .next u ∧ answered u .packetNo ∧ u.slots = s.slots ∧ u.dies = s.dies) ∧
    (∀ q, resident → (s.die e).halt = false → s.freeFor e core t.ctx = some q → ∃ u t',
      exec (.migrationPacket e) s = .next u ∧ answered u .packetOk ∧ u.thread? q = some t' ∧
      { t' with sys := t.sys } = t ∧ { t'.sys with lat := t.sys.lat, hops := t.sys.hops } = t.sys ∧
      t'.sys.hops.toNat = r.hops % 2 ^ 16 ∧ t'.sys.lat.toNat = min r.lat (2 ^ 32 - 1) ∧ ∀ x, x ≠ q → u.slot x = s.slot x) ∧
    (resident → ((s.die e).halt = true ∨ s.freeFor e core t.ctx = none) → (s.die e).buffer.length < 16 → ∃ u,
      exec (.migrationPacket e) s = .next u ∧ answered u .packetOk ∧ (u.die e).buffer = (s.die e).buffer ++ [⟨core, r.src, r.hops, r.lat, t⟩] ∧
      u.slots = s.slots) ∧
    (resident → s.up r.src = true → ((s.die e).halt = true ∨ s.freeFor e core t.ctx = none) → 16 ≤ (s.die e).buffer.length → ∃ u,
      exec (.migrationPacket e) s = .next u ∧ answered u .packetNo ∧ u.slots = s.slots)) ∧
  (∀ (s : State) (e d : Nat) (before after : List Resp) (r : Resp) (pre post : List (Place × Slot)) (p : Place) (x : Slot) (t : Thread),
    FirstOf (fun q => q.src = e ∧ q.dest = d) s.resps before r after → r.passed = true ∨ s.routeClear e d = true → r.body = .packetOk → s.slots = pre ++ (p, x) :: post →
    x.thread = some t → t.uid = r.owner → t.away = true →
    (∀ y ∈ pre, y.1 ≠ p ∧ ∀ v, y.2.thread = some v → ¬ (v.uid = r.owner ∧ v.away = true)) →
    ∃ u, exec (.migrationAccept e d) s = .next u ∧ u.resps = before ++ after ∧ u.thread? p = none ∧
      (∀ q, q ≠ p → u.slot q = s.slot q) ∧
      (let away := x.heldAway ++ (if t.stampedNow = true then [x.gen] else [])
       let after := fun k : Nat => (fun g : Nat => if g < 63 then g + 1 else 1)^[k] x.gen
       (u.slot p).heldAway = away ∧ (∀ k, 1 ≤ k → k ≤ 63 → after k ∉ away → (∀ j, 1 ≤ j → j < k → after j ∈ away) → (u.slot p).gen = after k) ∧
         ((∀ k, 1 ≤ k → k ≤ 63 → after k ∈ away) → (u.slot p).gen = x.gen)) ∧
      u.stopped = s.stopped ++ (match t.former with
        | a :: _ => if t.stampedNow = true ∧ 8 ≤ t.former.length then [⟨t.uid, [a], t.ctx, p.die⟩] else []
        | [] => []) ∧ ∀ a, u.readByte a = s.readByte a) ∧
  (∀ (s : State) (die n : Nat) (b : Buffered) (q : Place), (s.die die).buffer[n]? = some b →
    (∀ k c, k < n → (s.die die).buffer[k]? = some c → ¬ (c.core = b.core ∧ c.t.ctx = b.t.ctx)) → (s.die die).halt = false →
    (((List.range 16).map fun k => Place.mk die b.core k).find? fun p =>
      (s.slot p).owner == some b.t.ctx && s.slotFree p && !(s.launches.any fun l => l.place = p)) = some q →
    ∃ u t', exec (.bufferedPacketPlace die n) s = .next u ∧ u.thread? q = some t' ∧ { t' with sys := b.t.sys } = b.t ∧
      { t'.sys with lat := b.t.sys.lat, hops := b.t.sys.hops } = b.t.sys ∧ t'.sys.hops.toNat = b.hops % 2 ^ 16 ∧
      t'.sys.lat.toNat = min b.lat (2 ^ 32 - 1) ∧
      (u.die die).buffer = (s.die die).buffer.eraseIdx n ∧ (∀ x, x ≠ q → u.slot x = s.slot x) ∧ ∀ a, u.readByte a = s.readByte a)

end
/-! ### In-network reduction and the transport (R286 to R288, R313, R314, R329 to R337, R373) -/

namespace Sys2Proof.Claims
open Sys2Proof.Machine

/-- The integer x times 2^149 of a finite FP32 pattern (R286, R287). -/
def fp32Units (x : BitVec 32) : Int :=
  let e : Nat := x.toNat / 2 ^ 23 % 2 ^ 8
  let f : Nat := x.toNat % 2 ^ 23
  let size : Nat := if e = 0 then f else (f + 2 ^ 23) * 2 ^ (e - 1)
  if x.toNat / 2 ^ 31 = 1 then -(size : Int) else size

/-- The keystone lane of some contributions, in one order (R287). -/
def gathered (l : List (BitVec 32 × Nat)) : KLane :=
  (l.map fun c => enterLane c.1 c.2).foldl KLane.combine KLane.empty

/-- The header field of a group of a width at a place. -/
def headField (w : Word) (lo n : Nat) : Nat := w.toNat / 2 ^ lo % 2 ^ n

/-- The local rank of a member record (R329). -/
def rankOf (m : Word × Word) : Nat := headField m.1 10 9

/-- The member records of a group in ascending rank. -/
def Ascending (g : Group) (l : List (Word × Word)) : Prop := l.Perm g.members ∧ l.Pairwise fun a b => rankOf a < rankOf b

/-- A node's slot for a round of a group, round modulo W, still holds another round of it (R332). -/
def SlotTaken (s : State) (die ctx gn : Nat) (round : BitVec 32) : Prop :=
  ∃ g k, s.group ctx gn = some g ∧ k ∈ (s.die die).keystones ∧ k.ctx = ctx ∧ k.group = gn ∧ k.round ≠ round ∧
    let w := headField g.h0 20 2 + 1
    k.round.toNat % w = round.toNat % w

/-- The slot that a message of the reduction class is to enter still holds another round (R332). -/
def Blocked (s : State) : RedMsg → Prop
  | .contribution ctx gn round _ _ dest _ _ => SlotTaken s dest ctx gn round
  | .keystone ctx gn round _ dest _ _ _ => SlotTaken s dest ctx gn round

/-- A message of the reduction class has arrived: no earlier one of its pair is still on its way, no die out of service lies
between that it has not passed, and its slot is free or holds its own round (R316, R320, R332; log 91). -/
def Arrived (s : State) (n : Nat) (msg : RedMsg) : Prop :=
  s.redMsgs[n]? = some msg ∧ (∀ x ∈ s.redMsgs.take n, x.pair ≠ msg.pair) ∧
    (msg.beyond = true ∨ s.routeClear msg.pair.1 msg.pair.2 = true) ∧ ¬ Blocked s msg

/-- The rounds before that of a `reds` which its member has taken for the group and which are not complete (R331). -/
def earlierOpen (s : State) (o : TileOp) : Nat :=
  (s.ops.filter fun x => decide (x.op = 24 ∧ x.ctx = o.ctx ∧ (x.regs.getD 0 0).toNat = (o.regs.getD 0 0).toNat ∧
    x.place.die = o.place.die ∧ x.uid ≠ o.uid ∧ (x.phase = .held ∨ x.phase = .sent) ∧
    0 < stampDiff (BitVec.ofNat 32 (o.regs.getD 1 0).toNat) (BitVec.ofNat 32 (x.regs.getD 1 0).toNat))).length

/-- A frame of the transport of a kind, from a package on its port: version 1, between the addresses that management has set, and
under its EtherType (R335, R336). -/
def Known (s : State) (p : Nat) (f : Frame) (kind : Nat) : Prop :=
  p < 8 ∧ headField f.w0 56 8 = 1 ∧ headField f.w0 48 8 = kind ∧ s.packageEntry (headField f.w0 30 6) = some (p, f.src) ∧
    f.dst = (s.port p).mac ∧ f.etherType = s.etherType

/-- The frames a port has sent and not had acknowledged, after an acknowledgement (R336). -/
def stillDue (s : State) (p src : Nat) (ack : BitVec 32) : List SentFrame :=
  s.frames.filter fun x => ¬ (x.port = p ∧ x.peer = src ∧ stampDiff x.seq ack ≤ 0)

/-- The acknowledgement of a frame from a package of a group in force: the highest sequence number received in order, and no
sequence number of its own (R336; log 78). -/
def ackOf (s : State) (p : Nat) (f : Frame) (g : Group) (seen : BitVec 32) : Frame :=
  let src := headField f.w0 30 6
  { dst := f.src, src := (s.port p).mac, etherType := s.etherType,
    w0 := BitVec.ofNat 64 (2 ^ 56 + 3 * 2 ^ 48 + g.ctx * 2 ^ 42 + g.g * 2 ^ 36 + headField g.h1 0 6 * 2 ^ 30),
    w1 := BitVec.ofNat 64 (f.w1.toNat % 2 ^ 32), w2 := seen ++ ((s.port p).nextTo src - 1), w3 := 0, body := [] }

end Sys2Proof.Claims

section
open Sys2Proof Sys2Proof.Machine Sys2Proof.Claims

/-- R287: what one contribution enters: a NaN its rank, sign and payload, an infinity its flag, any other value the exact integer
x × 2^149; and how two keystones combine: the values add, the infinity flags join, and of two NaNs the one of lower rank is
held. -/
def Sys2Proof.Claims.KeystoneEntry : Prop :=
  (∀ a b : KLane,
    let c := a.combine b
    let nan (k : KLane) : Prop := k.special.toNat / 2 ^ 2 % 2 = 1
    let top (k : KLane) : Nat := k.special.toNat / 2 ^ 2
    let rank (k : KLane) : Nat := k.special.toNat / 2 ^ 44
    c.value = a.value + b.value ∧
      (∀ j, j < 2 → (c.special.getLsbD j = true ↔ a.special.getLsbD j = true ∨ b.special.getLsbD j = true)) ∧
      (nan a → nan b → top c = if rank a ≤ rank b then top a else top b) ∧ (nan a → ¬ nan b → top c = top a) ∧
      (¬ nan a → nan b → top c = top b) ∧ (¬ nan a → ¬ nan b → top c = 0)) ∧
  ∀ (x : BitVec 32) (rank : Nat), rank < 2 ^ 20 →
    let k := enterLane x rank
    let e := x.toNat / 2 ^ 23 % 2 ^ 8
    let f := x.toNat % 2 ^ 23
    (e = 255 → f ≠ 0 → k.value = 0 ∧
      k.special.toNat = rank * 2 ^ 44 + x.toNat / 2 ^ 31 * 2 ^ 25 + x.toNat % 2 ^ 22 * 2 ^ 3 + 2 ^ 2) ∧
    (e = 255 → f = 0 → k.value = 0 ∧ k.special = if x.toNat / 2 ^ 31 = 0 then 1 else 2) ∧
    (e ≠ 255 → k.special = 0 ∧ k.value.toInt = fp32Units x)

/-- R287, R314: the keystone of a round does not depend on the order in which its contributions are taken, nor on how the tree
groups them: contributions of distinct ranks in any order, and split between any two subtrees, give one keystone. -/
def Obligations.KeystoneOrderFree : Prop :=
  ∀ l l' a b : List (BitVec 32 × Nat), (l.map Prod.snd).Nodup → (∀ c ∈ l, c.2 < 2 ^ 20) → l.Perm l' → l.Perm (a ++ b) →
    gathered l' = gathered l ∧ (gathered a).combine (gathered b) = gathered l

/-- R288: the result and the indications of a lane at the root. -/
def Sys2Proof.Claims.KeystoneResult : Prop :=
  ∀ (k : KLane) (sig : Bool),
    let z := k.result sig
    let b (i : Nat) : Prop := k.special.toNat / 2 ^ i % 2 = 1
    (b 2 → z = (BitVec.ofNat 32 (k.special.toNat / 2 ^ 25 % 2 * 2 ^ 31 + 255 * 2 ^ 23 + 2 ^ 22 + k.special.toNat / 2 ^ 3 % 2 ^ 22),
      if sig then indInvalid else 0)) ∧
    (¬ b 2 → b 0 → b 1 → z = (0x7FC00000, indInvalid)) ∧
    (¬ b 2 → b 0 → ¬ b 1 → z = (0x7F800000, 0)) ∧
    (¬ b 2 → ¬ b 0 → b 1 → z = (0xFF800000, 0)) ∧
    (¬ b 2 → ¬ b 0 → ¬ b 1 → k.value = 0 → z = (0, 0)) ∧
    (¬ b 2 → ¬ b 0 → ¬ b 1 → k.value ≠ 0 →
      let x : ℚ := (k.value.toInt : ℚ) * (2 : ℚ) ^ (-149 : Int)
      let y := fp32.num z.1.toNat
      roundsTo fp32 .rne x z.1.toNat ∧
      z.2 = if rneLimit fp32 ≤ |x| then indOverflow ||| indInexact else if realOf y = x then 0 else indInexact)

/-- R254, R307, R331: REDS_SEND. The `reds` of one thread are checked in order of issue, the model's reading (log 48). One marked to have no
effect completes; one whose group, member or round is wrong ends in REDGROUP; else its round is taken, the member next expects the round
after, and its contribution goes to the node that the member record names if fewer than W earlier rounds are incomplete. Else it is held, and
goes once fewer are; in a group or a membership that is gone by then it ends in REDGROUP. -/
def Sys2Proof.Claims.ContributionsSend : Prop :=
  ∀ (s : State) (n : Nat) (pre post : List TileOp) (o : TileOp), FirstOf (fun x => x.uid = n) s.ops pre o post → o.op = 24 →
    let gn := (o.regs.getD 0 0).toNat
    let round := BitVec.ofNat 32 (o.regs.getD 1 0).toNat
    let earlier := ∃ x ∈ s.ops, x.owner = o.owner ∧ x.op = 24 ∧ x.phase = .queued ∧ x.seq < o.seq
    let fault := s.opFault o 0x12 (BitVec.ofNat 64 (gn % 2 ^ 32 * 2 ^ 32 + round.toNat))
    (o.phase = .queued → earlier → exec (.redsSend n) s = .next s) ∧
    (o.phase = .queued → ¬ earlier → o.skip = true → exec (.redsSend n) s = .next (s.opDone o)) ∧
    (o.phase = .queued → ¬ earlier → o.skip = false →
      (63 < gn ∨ s.group o.ctx gn = none ∨ (∃ g, s.group o.ctx gn = some g ∧ g.member o.place.die = none) ∨
        s.expectedRound o.place.die o.ctx gn ≠ some round) → exec (.redsSend n) s = .next fault) ∧
    (∀ g m, o.phase = .queued → ¬ earlier → o.skip = false → gn ≤ 63 → s.group o.ctx gn = some g →
      g.member o.place.die = some m → s.expectedRound o.place.die o.ctx gn = some round →
      let w := headField g.h0 20 2 + 1
      let rank := headField g.h1 0 6 * 512 + m.1.toNat / 2 ^ 10 % 2 ^ 9
      let node := (g.nodes.getD (m.1.toNat / 2 ^ 19 % 2 ^ 9) 0).toNat % 2 ^ 10
      ∃ u, exec (.redsSend n) s = .next u ∧ u.expectedRound o.place.die o.ctx gn = some (round + 1) ∧
        (earlierOpen s o < w → u.redMsgs = s.redMsgs ++ [.contribution o.ctx gn round rank o.place.die node o.vec false] ∧
          u.ops = pre ++ { o with phase := .sent } :: post) ∧
        (w ≤ earlierOpen s o → u.redMsgs = s.redMsgs ∧ u.ops = pre ++ { o with phase := .held } :: post) ∧
        (∀ a, u.readByte a = s.readByte a) ∧ u.slots = s.slots ∧ u.saving = s.saving) ∧
    (o.phase = .held → (s.group o.ctx gn = none ∨ (∃ g, s.group o.ctx gn = some g ∧ g.member o.place.die = none)) →
      exec (.redsSend n) s = .next fault) ∧
    (∀ g m, o.phase = .held → s.group o.ctx gn = some g → g.member o.place.die = some m →
      let w := headField g.h0 20 2 + 1
      let rank := headField g.h1 0 6 * 512 + m.1.toNat / 2 ^ 10 % 2 ^ 9
      let node := (g.nodes.getD (m.1.toNat / 2 ^ 19 % 2 ^ 9) 0).toNat % 2 ^ 10
      (w ≤ earlierOpen s o → exec (.redsSend n) s = .next s) ∧
      (earlierOpen s o < w → exec (.redsSend n) s = .next { s with
        redMsgs := s.redMsgs ++ [.contribution o.ctx g.g round rank o.place.die node o.vec false]
        ops := pre ++ { o with phase := .sent } :: post })) ∧
    (o.phase ≠ .queued → o.phase ≠ .held → exec (.redsSend n) s = .next s)

/-- R314, R316, R332: REDS_CONTRIBUTION and KEYSTONE_MESSAGE. A message behind another of its pair waits. A node enters a contribution,
or combines a child's keystone, in the round's slot, which it takes if it holds none; when it is not the root and has then accepted
every child, it sends the keystone to its parent and the slot is free. While the slot, round modulo W, holds another round the message waits
(the model's reading, log 91); so does one that a failed die stands before. -/
def Sys2Proof.Claims.KeystonesGather : Prop :=
  ∀ (s : State) (n : Nat) (msg : RedMsg),
    let i : Instr := match msg with
      | .contribution .. => .redsContribution n
      | .keystone .. => .keystoneMessage n
    (s.redMsgs[n]? = some msg → (∃ x ∈ s.redMsgs.take n, x.pair = msg.pair) → exec i s = .next s) ∧
    (s.redMsgs[n]? = some msg → Blocked s msg → exec i s = .next s) ∧
    (s.redMsgs[n]? = some msg → msg.beyond = false → s.routeClear msg.pair.1 msg.pair.2 = false → exec i s = .next s) ∧
    ∀ (p : Bool) (ctx gn : Nat) (round : BitVec 32) (src dest : Nat) (lanes : List KLane) (sig : Word), Arrived s n msg →
    ((∃ rank x, msg = .contribution ctx gn round rank src dest x p ∧ lanes = (List.range 64).map (fun j => enterLane (lane x j) rank) ∧
        ∀ j, j < 64 → sig.getLsbD j = (fp32.isSNaN (lane x j).toNat)) ∨
      msg = .keystone ctx gn round src dest lanes sig p) →
    ∀ g w, s.group ctx gn = some g → g.node dest = some w →
      let k := s.keySlot dest ctx gn round
      let full := g.root ≠ dest ∧ w.toNat / 2 ^ 20 % 2 ^ 9 ≤ k.accepted + 1
      ∃ u, exec i s = .next u ∧ (∀ a, u.readByte a = s.readByte a) ∧ u.slots = s.slots ∧ u.ops = s.ops ∧
        (∀ d, d ≠ dest → u.die d = s.die d) ∧
        (full → u.redMsgs = s.redMsgs.eraseIdx n ++
          [.keystone ctx gn round dest (w.toNat / 2 ^ 10 % 2 ^ 10) (List.zipWith KLane.combine k.lanes lanes) (k.sig ||| sig) false] ∧
          (u.die dest).keystones.length = (s.die dest).keystones.length - (if k ∈ (s.die dest).keystones then 1 else 0)) ∧
        (¬ full → u.redMsgs = s.redMsgs.eraseIdx n ∧ u.keySlot dest ctx gn round =
          { k with lanes := List.zipWith KLane.combine k.lanes lanes, sig := k.sig ||| sig, accepted := k.accepted + 1 })

/-- R288, R314, R337: ROOT_ROUND. A root that has accepted every child rounds its keystone and owes the result to every rank in
ascending order: at once in a group of one package, and at the global root once every package's keystone is in, which also sends the
result to the others; another package's root sends its keystone to the global root's package. The vector's lanes are R288's, and its
indications are those of all its lanes together. -/
def Sys2Proof.Claims.RootRounds : Prop :=
  ∀ (s : State) (d n : Nat) (k : KeySlot) (g : Group) (w : Word), (s.die d).keystones[n]? = some k → s.group k.ctx k.group = some g →
    g.node d = some w →
    let ready := d = g.root ∧ k.result = none ∧ w.toNat / 2 ^ 20 % 2 ^ 9 ≤ k.accepted
    let me := headField g.h1 0 6
    let span := headField g.h1 6 6 + 1
    let top := headField g.h1 12 6
    let r := k.rounded
    let ps := if me ∈ k.packages then k.packages else k.packages ++ [me]
    let known (k' : KeySlot) (l : List (Word × Word)) : KeySlot := { k' with result := some r, toWrite := l }
    (¬ ready → exec (.rootRound d n) s = .next s) ∧
    (∀ l, Ascending g l → ready → span = 1 → exec (.rootRound d n) s = .next (s.putKeySlot d (known k l))) ∧
    (ready → span ≠ 1 → me = top → ps.length < span → exec (.rootRound d n) s = .next (s.putKeySlot d { k with packages := ps })) ∧
    (∀ l, Ascending g l → ready → span ≠ 1 → me = top → span ≤ ps.length → exec (.rootRound d n) s = .next
      (((ps.filter fun q => q ≠ me).foldl (fun (x : State) q => x.sendFrame g 2 k.round (resultBody r) q) s).putKeySlot d
        (known { k with packages := ps } l))) ∧
    (ready → span ≠ 1 → me ≠ top → me ∉ k.packages → (∃ e ∈ s.packages, e.1 = top) → exec (.rootRound d n) s = .next
      ((s.sendFrame g 1 k.round (keystoneBody k) top).putKeySlot d { k with packages := [me] })) ∧
    (ready → span ≠ 1 → me ≠ top → me ∈ k.packages → exec (.rootRound d n) s = .next s) ∧
    (∀ j, j < 64 → lane r.1 j = ((k.lanes.getD j KLane.empty).result (k.sig.getLsbD j)).1) ∧
    (∀ b, r.2.getLsbD b = true ↔ ∃ j, j < 64 ∧ ((k.lanes.getD j KLane.empty).result (k.sig.getLsbD j)).2.getLsbD b = true)

/-- R288, R314, R332, R334: RESULT_WRITE, the result's store, and REDS_COMPLETE. The root issues the results one rank at a time,
ascending, at most one a cycle, as stores of stamp n and writer 0 to the members' blocks, and passes over a member out of service. The
home writes data and sideband and then acknowledges to the member's die before it releases any wait; the acknowledgement completes the
member's `reds` with the indications that ROOT_ROUND kept with the result, or in REDGROUP where the block refused the store. With the
last acknowledgement the root's slot is free. A block at the root's own die takes one step a cycle (R154). One result store a cycle is counted
for each group at its root, and a block that does not translate ends in REDGROUP: the model's readings (logs 38 and 39). -/
def Sys2Proof.Claims.ResultsReturn : Prop :=
  (∀ (s : State) (d n : Nat) (k : KeySlot) (r : VReg × BitVec 7) (m : Word × Word) (rest : List (Word × Word)),
    (s.die d).keystones[n]? = some k → k.result = some r → k.toWrite = m :: rest →
    let wrote := ∃ x ∈ (s.die d).keystones, x.ctx = k.ctx ∧ x.group = k.group ∧ x.lastWrite = some s.cycle
    let md := headField m.1 0 10
    let va := BitVec.ofNat 64 (m.2.toNat % 2 ^ 48)
    let s1 := s.putKeySlot d { k with toWrite := rest, acks := k.acks ++ [md], lastWrite := some s.cycle }
    (wrote → exec (.resultWrite d n) s = .next s) ∧
    (¬ wrote → (s.die md).outOfService = true → exec (.resultWrite d n) s =
      .next (if rest = [] ∧ k.acks = [] then s.dropKeySlot d { k with toWrite := rest } else s.putKeySlot d { k with toWrite := rest })) ∧
    (¬ wrote → (s.die md).outOfService = false →
      (∀ c, s1.translate d k.ctx .stampedStore va = .fail c → exec (.resultWrite d n) s =
        .next { s1 with resps := s.resps ++ [⟨0, 0, d, md, 0, 0, s.cycle, va, .result k.ctx k.group k.round false r.2, false⟩] }) ∧
      (∀ pa leaf, s1.translate d k.ctx .stampedStore va = .ok pa leaf →
        let q : Req := { req := s.nextId, owner := 0, wid := 0, ctx := k.ctx, src := d, srcCore := 0, dest := paHome pa,
                         core := none, engine := true, retries := 0, notBefore := none, ordered := false, hops := 0,
                         body := .result k.ctx k.group md va pa k.round r.1 r.2 }
        let s2 := { s1 with nextId := s.nextId + 1 }
        let block := pa / 256 * 256
        (paHome pa ≠ d → exec (.resultWrite d n) s = .next { s2 with chans := s.chans ++ [{ q with sentAt := s.cycle }] }) ∧
        (paHome pa = d → block ∈ s.stepped → exec (.resultWrite d n) s = .next s) ∧
        (paHome pa = d → block ∉ s.stepped → exec (.resultWrite d n) s =
          .next ({ s2 with stepped := block :: s.stepped }.resultStep q k.ctx k.group md pa k.round r.1 r.2))))) ∧
  (∀ (s : State) (q : Req) (ctx g m pa : Nat) (round : BitVec 32) (x : VReg) (ind : BitVec 7), s.stored → pa % 256 = 0 →
    let newer := 0 ≤ stampDiff round (BitVec.ofNat 32 (s.sideband pa).toNat)
    let u := s.resultStep q ctx g m pa round x ind
    (newer → u.readNat pa 256 = x.toNat ∧ (u.sideband pa).toNat = round.toNat) ∧
    (¬ newer → u.mem = s.mem ∧ u.side = s.side) ∧
    (∃ rest, u.resps = s.resps ++ ⟨q.req, q.owner, q.dest, m, q.hops, q.lat, s.cycle, q.body.vaddr,
      .result ctx g round (decide newer) ind, false⟩ :: rest)) ∧
  (∀ (s : State) (n : Nat) (r : Resp) (ctx g : Nat) (round : BitVec 32) (ok : Bool) (ind : BitVec 7),
    s.resps[n]? = some r → r.body = .result ctx g round ok ind →
    let gone := { s with resps := s.resps.eraseIdx n }
    let after := fun k : KeySlot => if k.ctx = ctx ∧ k.group = g ∧ k.round = round ∧ r.dest ∈ k.acks then
      (if k.result.isSome = true ∧ k.toWrite = [] ∧ k.acks = [r.dest] then none else some { k with acks := k.acks.erase r.dest })
      else some k
    let told := fun v : State => { v with dies := v.dies.map fun e =>
      (e.1, { e.2 with keystones := e.2.keystones.filterMap after }) }
    ((∃ q ∈ s.resps.take n, q.src = r.src ∧ q.dest = r.dest) → exec (.redsComplete n) s = .next s) ∧
    ((∀ q ∈ s.resps.take n, ¬ (q.src = r.src ∧ q.dest = r.dest)) → r.passed = true ∨ s.routeClear r.src r.dest = true →
      (∀ pre post o, FirstOf (fun x => x.op = 24 ∧ x.ctx = ctx ∧ (x.regs.getD 0 0).toNat = g ∧ x.place.die = r.dest ∧
          (x.regs.getD 1 0).toNat % 2 ^ 32 = round.toNat ∧ x.phase = .sent) s.ops pre o post →
        exec (.redsComplete n) s = .next (told (if ok then gone.opDone { o with ind := ind }
          else gone.opFault o 0x12 (BitVec.ofNat 64 ((o.regs.getD 0 0).toNat % 2 ^ 32 * 2 ^ 32 + round.toNat)))))))

/-- R333: REDUCTION_WATCHDOG. The root reports a slot held longer than management's figure, once, and not while a debug-halt flag is
up. -/
def Sys2Proof.Claims.WatchdogReports : Prop :=
  ∀ (s : State) (d n : Nat) (k : KeySlot) (g : Group), (s.die d).keystones[n]? = some k → s.group k.ctx k.group = some g →
    (g.root = d → k.reported = false → s.anyHalt = false → k.since + s.watchdog ≤ s.cycle → exec (.reductionWatchdog d n) s =
      .next { s.putKeySlot d { k with reported := true } with mgmt := s.mgmt ++ [.watchdog k.ctx k.group k.round] }) ∧
    (k.reported = true ∨ s.anyHalt = true ∨ s.cycle < k.since + s.watchdog → exec (.reductionWatchdog d n) s = .next s)

/-- R330, R334: firmware's checks of a group image, at a first loading and at a rebuilding, which lets a member that was removed
leave a gap in the ranks but keeps every survivor's rank (log 77). The tree's shape is checked by the model's `treeOk`. -/
def Sys2Proof.Claims.GroupImages : Prop :=
  ∀ (s : State) (a : Nat) (g : Group) (rebuilt : Bool),
    let dieOf := fun w : Word => headField w 0 10
    s.groupOk a g rebuilt = true ↔
      (headField g.h0 22 10 = 0 ∧ headField g.h1 18 46 = 0 ∧ s.read64 (a + 16) = 0 ∧ s.read64 (a + 24) = 0 ∧
        (∀ w ∈ g.nodes, headField w 29 35 = 0) ∧ (∀ m ∈ g.members, headField m.1 28 36 = 0 ∧ headField m.2 48 16 = 0)) ∧
      (1 ≤ headField g.h0 0 10 ∧ headField g.h0 0 10 ≤ 336 ∧ 1 ≤ headField g.h0 10 10 ∧ headField g.h0 10 10 ≤ 336) ∧
      (g.nodes.map dieOf).Nodup ∧ (∀ w ∈ g.nodes, isPlinth (dieOf w) = true ∧ (s.die (dieOf w)).outOfService = false) ∧
      (g.members.map fun m => dieOf m.1).Nodup ∧
      (∀ m ∈ g.members, isLamp (dieOf m.1) = true ∧ (s.die (dieOf m.1)).outOfService = false) ∧
      g.treeOk = true ∧
      (rebuilt = false → ∀ r, r < g.members.length → ∃ m ∈ g.members, rankOf m = r) ∧
      (rebuilt = true → (g.members.map rankOf).Nodup ∧ ∀ m ∈ g.members, ∀ old o, s.group g.ctx g.g = some old →
        old.member (dieOf m.1) = some o → rankOf o = rankOf m) ∧
      (∀ m ∈ g.members, m.2.toNat % 2 ^ 48 % 256 = 0 ∧
        ∃ e pa w, s.walk g.ctx (m.2.toNat % 2 ^ 48) = .leaf e pa w ∧ e.toNat / 2 ^ 60 % 2 = 1) ∧
      (∀ w ∈ g.nodes, headField g.h0 20 2 + 1 + (((s.groups.filter fun x =>
        ¬ (x.ctx = g.ctx ∧ x.g = g.g) ∧ (x.node (dieOf w)).isSome = true).map fun x => headField x.h0 20 2 + 1).sum) ≤ 16)

/-- R330, R331, R334: GROUP_REBUILD puts an accepted image in force: a member present before keeps its expected round, a new one takes
the header's first, and a dropped one expects none; the slots whose writing has not begun are discarded, and a member that stays and
had sent its contribution for such a round sends it again to its new node; an image that is refused, or a group that is not loaded,
changes nothing. -/
def Sys2Proof.Claims.GroupsRebuild : Prop :=
  ∀ (s : State) (ctx gn addr : Nat),
    let g := s.readGroup ctx gn addr
    (s.group ctx gn = none ∨ s.groupOk addr g true = false → exec (.groupRebuild ctx gn addr) s = .next s) ∧
    (∀ old, s.group ctx gn = some old → s.groupOk addr g true = true → ∃ u, exec (.groupRebuild ctx gn addr) s = .next u ∧
      u.group ctx gn = some g ∧ (∀ m ∈ g.members, u.expectedRound (m.1.toNat % 2 ^ 10) ctx gn =
        some ((s.expectedRound (m.1.toNat % 2 ^ 10) ctx gn).getD (BitVec.ofNat 32 (g.h0.toNat / 2 ^ 32)))) ∧
      (∀ d, (∀ m ∈ g.members, m.1.toNat % 2 ^ 10 ≠ d) → u.expectedRound d ctx gn = none) ∧
      (∀ d, ∀ k ∈ (u.die d).keystones, k.ctx = ctx → k.group = gn → k.result.isSome = true) ∧
      (∀ d, ∀ k ∈ (s.die d).keystones, k.result.isSome = true → k ∈ (u.die d).keystones) ∧
      (∀ o ∈ s.ops, ∀ m, o.op = 24 → o.ctx = ctx → (o.regs.getD 0 0).toNat = gn → o.phase = .sent →
        g.member o.place.die = some m → s.resultDue ctx gn o.place.die (BitVec.ofNat 32 (o.regs.getD 1 0).toNat) = false →
        RedMsg.contribution ctx gn (BitVec.ofNat 32 (o.regs.getD 1 0).toNat) (headField g.h1 0 6 * 512 + rankOf m) o.place.die
          (headField (g.nodes.getD (headField m.1 19 9) 0) 0 10) o.vec false ∈ u.redMsgs) ∧
      (s.saving = [] → ∀ a, u.readByte a = s.readByte a))

/-- R335 to R337: the transport between packages. A keystone or result frame is taken only in sequence from its package on its port;
a duplicate is acknowledged and nothing else; a keystone whose slot still holds another round is not received (log 91); the global root combines a package's keystone once, and a package's root takes the global
result and owes it to its members. An acknowledgement frees what it covers; a frame not acknowledged for 36,000 cycles is sent again,
and after 8 resends management is told; a frame of another kind is counted and discarded. -/
def Sys2Proof.Claims.TransportFrames : Prop :=
  (∀ (s : State) (p len kind : Nat) (f : Frame) (i : Instr),
    (kind = 1 ∧ len = 3080 ∧ i = .soloskicKeystone p f) ∨ (kind = 2 ∧ len = 264 ∧ i = .soloskicResult p f) →
    let src := headField f.w0 30 6
    let gn := headField f.w0 36 6
    let ctx := headField f.w0 42 6
    let round := BitVec.ofNat 32 f.w1.toNat
    let seq := BitVec.ofNat 32 f.w2.toNat
    let known := Known s p f kind ∧ f.body.length = len
    let ahead := stampDiff seq ((s.port p).seenFrom src)
    (¬ known ∨ 1 < ahead → exec i s = .next s) ∧
    (∀ g, kind = 1 → ahead = 1 → s.group ctx gn = some g → g.ctx = ctx → g.g = gn → SlotTaken s g.root ctx gn round → exec i s = .next s) ∧
    (∀ g, known → s.group ctx gn = some g → ahead ≤ 0 → ∃ u, exec i s = .next u ∧
      { u with ports := s.ports } = s ∧ u.port p = { s.port p with sent := (s.port p).sent ++ [ackOf s p f g ((s.port p).seenFrom src)] } ∧
      ∀ q, q ≠ p → u.port q = s.port q) ∧
    (∀ g, known → ahead = 1 → s.group ctx gn = some g → g.ctx = ctx → g.g = gn → ¬ (kind = 1 ∧ SlotTaken s g.root ctx gn round) → ∃ u, exec i s = .next u ∧
      (u.port p).seenFrom src = seq ∧ (u.port p).sent = (s.port p).sent ++ [ackOf s p f g seq] ∧
      u.frames = stillDue s p src (BitVec.ofNat 32 (f.w2.toNat / 2 ^ 32)) ∧
      (∀ a, u.readByte a = s.readByte a) ∧ u.slots = s.slots ∧ u.ops = s.ops ∧
      (let k := s.keySlot g.root ctx gn round
       kind = 1 → headField g.h1 6 6 ≠ 0 → headField g.h1 0 6 = headField g.h1 12 6 → k.result = none →
        u.keySlot g.root ctx gn round = if src ∈ k.packages then k else
          { k with lanes := List.zipWith KLane.combine k.lanes (bodyLanes f.body),
                   sig := k.sig ||| BitVec.ofNat 64 (ofBytes (f.body.drop 3072)), packages := k.packages ++ [src] }) ∧
      (∀ k l, kind = 2 → (s.die g.root).keystones.find? (fun x => x.isOf ctx gn round) = some k → src = headField g.h1 12 6 →
        headField g.h1 0 6 ∈ k.packages → k.result = none → Ascending g l →
        u.keySlot g.root ctx gn round = { k with
          result := some (BitVec.ofNat 2048 (ofBytes (f.body.take 256)), BitVec.ofNat 7 (ofBytes (f.body.drop 256) % 2 ^ 5))
          toWrite := l }))) ∧
  (∀ (s : State) (p : Nat) (f : Frame), (¬ Known s p f 3 → exec (.soloskicAck p f) s = .next s) ∧
    (Known s p f 3 → exec (.soloskicAck p f) s =
      .next { s with frames := stillDue s p (headField f.w0 30 6) (BitVec.ofNat 32 (f.w2.toNat / 2 ^ 32)) })) ∧
  (∀ (s : State) (n : Nat) (f : SentFrame), s.frames[n]? = some f →
    (s.cycle < f.sentAt + 36000 → exec (.frameResend n) s = .next s) ∧
    (f.sentAt + 36000 ≤ s.cycle → f.resends < 8 → ∃ u, exec (.frameResend n) s = .next u ∧
      u.frames = s.frames.set n { f with resends := f.resends + 1, sentAt := s.cycle } ∧
      u.port f.port = { s.port f.port with sent := (s.port f.port).sent ++ [f.f] } ∧ (∀ q, q ≠ f.port → u.port q = s.port q) ∧
      { u with frames := s.frames, ports := s.ports } = s) ∧
    (f.sentAt + 36000 ≤ s.cycle → 8 ≤ f.resends → exec (.frameResend n) s =
      .next { s with frames := s.frames.eraseIdx n, mgmt := s.mgmt ++ [.peerFailed f.port f.peer] })) ∧
  (∀ (s : State) (p kind : Nat), p < 8 → exec (.ethernetFrameDiscard p kind) s =
    .next { s with mgmt := s.mgmt ++ [.frameDiscarded p kind] })

/-- R335, R336: a frame sent to a package of the table goes out on its port, from the port's address to the peer's, under the EtherType
in force, with the next sequence number for that peer and the acknowledgement of what has come in order from it; it is kept until it
is acknowledged. What management sets of the transport and of the watchdog takes effect (R333). -/
def Sys2Proof.Claims.FramesSend : Prop :=
  (∀ (s : State) (g : Group) (kind : Nat) (round : BitVec 32) (body : List Byte) (pkg n : Nat) (mac : BitVec 48),
    s.packageEntry pkg = some (n, mac) →
    let p := s.port n
    let f : Frame :=
      { dst := mac, src := p.mac, etherType := s.etherType,
        w0 := BitVec.ofNat 64 (2 ^ 56 + kind * 2 ^ 48 + g.ctx * 2 ^ 42 + g.g * 2 ^ 36 + headField g.h1 0 6 * 2 ^ 30),
        w1 := BitVec.ofNat 64 round.toNat, w2 := p.seenFrom pkg ++ p.nextTo pkg, w3 := 0, body := body }
    let u := s.sendFrame g kind round body pkg
    u.frames = s.frames ++ [⟨n, pkg, p.nextTo pkg, f, s.cycle, 0⟩] ∧ (u.port n).sent = p.sent ++ [f] ∧
      (u.port n).nextTo pkg = p.nextTo pkg + 1 ∧ (∀ q, q ≠ pkg → (u.port n).nextTo q = p.nextTo q) ∧
      (∀ q, q ≠ n → u.port q = s.port q) ∧ { u with frames := s.frames, ports := s.ports } = s) ∧
  ∀ (s : State) (n : Nat) (a : BitVec 48), n < 8 →
    ((s.applySetting (.mac n a)).port n = { s.port n with mac := a }) ∧
    (∀ k, k < 64 → (s.applySetting (.package k n a)).packageEntry k = some (n, a) ∧
      ∀ q, q ≠ k → (s.applySetting (.package k n a)).packageEntry q = s.packageEntry q) ∧
    (s.applySetting (.watchdog n)).watchdog = n ∧ ∀ x, (s.applySetting (.etherType x)).etherType = x

end
/-! ### The host's accesses, power, walks, start-up and management (R173, R246 to R249, R359 to R376) -/

namespace Sys2Proof.Claims
open Sys2Proof.Machine

/-- Only management's registers differ. -/
def OnlyBar (s u : State) : Prop := { u with bar0 := s.bar0 } = s

/-- Only the intake log differs, by one entry more: its cause, context and offset or address (R249). -/
def Logged (s u : State) (cause ctx info : Nat) : Prop :=
  let n := s.bar0.logCount.toNat % 256
  OnlyBar s u ∧ { u.bar0 with log := s.bar0.log, logCount := s.bar0.logCount } = s.bar0 ∧
    u.bar0.logCount = s.bar0.logCount + 1 ∧
    ∀ k, lookupD (0, 0) k u.bar0.log = if k = n then (BitVec.ofNat 64 (cause * 2 ^ 56 + ctx * 2 ^ 50), BitVec.ofNat 64 info)
      else lookupD (0, 0) k s.bar0.log

/-- An access translated as the intake unit does names a node (R247). -/
def NamesNode (s : State) (ctx : Nat) (a : Word) : Prop := ∃ pa leaf, s.check 0 ctx .nodeName a 32 = .ok pa leaf

/-- An address of a context lies in the page of a walk, or of a miss that waits for one: the page of the tables, or the 64 KiB of the
smallest page where they give none (R359, R362; log 13). -/
def InPage (s : State) (ctx va : Nat) (w : Nat × Nat) : Prop :=
  let p := match s.walk w.1 w.2 with
    | .leaf _ base size => (base, size)
    | .fail _ => (w.2 / 2 ^ 16 * 2 ^ 16, 2 ^ 16)
  w.1 = ctx ∧ p.1 ≤ va ∧ va < p.1 + p.2

/-- A request of a context that has still to be performed: not sent, on its way, arrived, in a log, answered "retry", or a monitor
entry (R363; log 44). -/
def ToPerform (s : State) (ctx req : Nat) : Prop :=
  (∃ q : Req, (q ∈ s.sends ++ s.chans ++ s.arrivals ∨ (∃ x ∈ s.logged, x = .req q) ∨ ∃ a ∈ s.resps, a.body = .retry q) ∧
    q.ctx = ctx ∧ q.req = req) ∨
  ∃ e ∈ s.dies, ∃ m ∈ e.2.monitor, m.ctx = ctx ∧ m.req = req

/-- The offsets of BAR0 that no write changes: read-only package registers, the intake log, the fault logs, a service's other words,
and the halted-slot words (R249, R368, R370, R374, R375). -/
def ReadOnly (off : Nat) : Prop :=
  off ∈ [0x000, 0x008, 0x010, 0x030, 0x040] ∨ 0x100 ≤ off ∧ off < 0x130 ∨ 0x10000 ≤ off ∧ off < 0x30000 ∨
  0x30000 ≤ off ∧ off < 0x30800 ∧ off % 32 ≠ 0 ∨ 0x44000 ≤ off ∧ off < 0x46A00

/-- The offsets of a die's configuration block that no write changes (R371). -/
def ConfigReadOnly (off : Nat) : Prop :=
  0x1008 ≤ off ∧ off < 0x1048 ∨ off = 0x1050 ∨ off = 0x2008 ∨ 0x3400 ≤ off ∧ off < 0x3500 ∨ 0x3900 ≤ off ∧ off < 0x3B00

/-- The offsets of a die's configuration block that are lamp-only (R371). -/
def LampOnly (off : Nat) : Prop :=
  0x2000 ≤ off ∧ off < 0x2010 ∨ 0x3000 ≤ off ∧ off < 0x3500 ∨ 0x3800 ≤ off ∧ off < 0x3880 ∨ 0x3900 ≤ off ∧ off < 0x3B00

/-- A context is loaded. -/
def Loaded (s : State) (ctx : Nat) : Prop := (s.ctxInfo? ctx).isSome = true

end Sys2Proof.Claims

section
open Sys2Proof Sys2Proof.Machine Sys2Proof.Claims

/-- R247, R248, R249: INTAKE_WRITE, INTAKE_FORWARD and BAR2_READ. A write to the intake window is rejected and logged by the first
rule it breaks, or goes to the bridge; the bridge's oldest record waits while the intake unit holds 256, is logged where its
context is not loaded or an address names no node, and else becomes a record of die (0,0); a read returns zero and is
logged. The causes of an address that is unaligned (4) or has bits 63:48 set (3) are DEDUCED (log 16). -/
def Sys2Proof.Claims.IntakeWindow : Prop :=
  (∀ (s : State) (off len : Nat) (relaxed : Bool) (w0 w1 : Word), off < 2 ^ 18 →
    let ctx := off / 2 ^ 12
    let i : Instr := .intakeWrite off len relaxed w0 w1
    let logs (cause : Nat) : Prop := ∃ u, exec i s = .next u ∧ Logged s u cause ctx off
    (relaxed = true → logs 1) ∧ (relaxed = false → len ≠ 16 ∨ off % 16 ≠ 0 → logs 2) ∧
    (relaxed = false → len = 16 → off % 16 = 0 → 2 ^ 48 ≤ w0.toNat ∨ 2 ^ 48 ≤ w1.toNat → logs 3) ∧
    (relaxed = false → len = 16 → off % 16 = 0 → w0.toNat < 2 ^ 48 → w1.toNat < 2 ^ 48 → ¬ Loaded s ctx → logs 5) ∧
    (relaxed = false → len = 16 → off % 16 = 0 → w0.toNat < 2 ^ 48 → w1.toNat < 2 ^ 48 → Loaded s ctx →
      exec i s = .next { s with intake := s.intake ++ [(ctx, off, w0, w1)] })) ∧
  (∀ (s : State) (ctx off : Nat) (a b : Word) (rest : List (Nat × Nat × Word × Word)), s.intake = (ctx, off, a, b) :: rest →
    let gone := { s with intake := rest }
    let full := 256 ≤ (s.fresh.filter fun f => decide (f.src = .intake)).length
    let logs (cause info : Nat) : Prop := ∃ u, exec .intakeForward s = .next u ∧ Logged gone u cause ctx info
    (full → exec .intakeForward s = .next s) ∧ (¬ full → ¬ Loaded s ctx → logs 5 off) ∧
    (¬ full → Loaded s ctx → ¬ NamesNode s ctx a → logs 4 a.toNat) ∧
    (¬ full → Loaded s ctx → NamesNode s ctx a → ¬ NamesNode s ctx b → logs 4 b.toNat) ∧
    (¬ full → Loaded s ctx → NamesNode s ctx a → NamesNode s ctx b → ∃ u, exec .intakeForward s = .next u ∧ u.intake = rest ∧
      u.fresh = s.fresh ++ [⟨s.nextId, 0, 0, ctx, 0, 0, a, b, .intake, none⟩] ∧ (∀ x, u.readByte x = s.readByte x) ∧
      u.slots = s.slots ∧ u.cores = s.cores)) ∧
  (∀ (s : State) (off : Nat), off < 2 ^ 18 → ∃ u, exec (.bar2Read off) s = .next u ∧ u.hostRead = some (List.replicate 8 0) ∧
    Logged { s with hostRead := u.hostRead } u 6 (off / 2 ^ 12) off)

/-- R173, R246, R248: HOST_WRITE, HOST_READ and STAMP_VIEW_READ. A write within one plinth die's memory writes its bytes and no other,
and no sideband, but that a page it maps STAMPED takes stamp 0 and no writer at that write (log 34); one that meets a STAMPED block
(discarded whole, log 15), or goes to the stamp view, is logged and writes nothing. A read returns the
bytes. A read of the stamp view returns a STAMPED block's writer and stamp, and any other is logged and returns zero. -/
def Sys2Proof.Claims.HostAperture : Prop :=
  (∀ (s : State) (off : Nat) (bs : List Byte), s.stored →
    (2 ^ 46 ≤ off → off < 2 ^ 47 → ∃ u, exec (.hostWrite off bs) s = .next u ∧ Logged s u 8 0 off) ∧
    (off < 2 ^ 46 → plinthRange off bs.length = true →
      (s.stampedRange off bs.length = true → ∃ u, exec (.hostWrite off bs) s = .next u ∧ Logged s u 7 0 off) ∧
      (s.stampedRange off bs.length = false → ∃ u, exec (.hostWrite off bs) s = .next u ∧
        { u with mem := s.mem, errors := s.errors, side := s.side } = s ∧
        (u.stampedLeaves = s.stampedLeaves → u.side = s.side) ∧
        (∀ l ∈ u.stampedLeaves, (∀ k ∈ s.stampedLeaves, samePage l k = false) → ∀ a, u.leafHolds l.1 l.2 a = true →
          u.sideband a = 0) ∧ (∀ k, k < bs.length → some (u.readByte (off + k)) = bs[k]?) ∧
        (∀ a, a < off ∨ off + bs.length ≤ a → u.readByte a = s.readByte a)))) ∧
  (∀ (s : State) (off len : Nat), plinthRange off len = true → ∃ bs : List Byte, bs.length = len ∧
    (∀ k, k < len → bs[k]? = some (s.readByte (off + k))) ∧ exec (.hostRead off len) s = .next { s with hostRead := some bs }) ∧
  (∀ (s : State) (off len : Nat), 2 ^ 46 ≤ off → off < 2 ^ 47 →
    let a := off - 2 ^ 46
    let ok := len = 8 ∧ a % 256 = 0 ∧ plinthRange a 256 = true ∧ s.stampedAt a = true
    (ok → ∃ bs : List Byte, exec (.stampViewRead off len) s = .next { s with hostRead := some bs } ∧ bs.length = 8 ∧
      ofBytes bs = (s.sideband a).toNat) ∧
    (¬ ok → ∃ u, exec (.stampViewRead off len) s = .next u ∧ u.hostRead = some (List.replicate len 0) ∧
      Logged { s with hostRead := u.hostRead } u 8 0 off))

/-- R366, R359, R361 to R363: POWER_HEADROOM_UPDATE, PAGE_WALK and SHOOTDOWN. A lamp die publishes its mean power and the headroom it
leaves under its cap. A walk begins for a page that misses the die's TLBs, or waits in arrival order while 2,048 are busy; a later step
for an address of its page ends it, keeping the leaf found, if no shootdown names it, and nothing if it fails, and lets the oldest
waiting one begin (log 13 has the page where the tables give none). A shootdown drops the entries it names and no other, and is busy
until every request of its context then in flight is performed, the model's choice (log 44); in recovery it does nothing. -/
def Sys2Proof.Claims.PowerAndWalks : Prop :=
  (∀ (s : State) (d mw : Nat), isLamp d = true → s.cycle % 4096 = 0 → mw < 2 ^ 32 → ∃ u, exec (.powerHeadroomUpdate d mw) s = .next u ∧
    (let cap := (s.die d).cap.toNat * 1000
     u.die d = { s.die d with
       power := BitVec.ofNat 32 mw
       headroom := if 10 * mw < 6 * cap then 3 else if 20 * mw < 15 * cap then 2 else if 10 * mw < 9 * cap then 1 else 0 }) ∧
    (∀ e, e ≠ d → u.die e = s.die e) ∧ { u with dies := s.dies } = s) ∧
  (∀ (s : State) (d ctx : Nat) (va : Word), isLamp d = true → va.toNat < 2 ^ 48 → Loaded s ctx →
    let w := (ctx, va.toNat)
    let y := s.die d
    let none' := ∀ v ∈ y.walks, ¬ InPage s ctx va.toNat v
    let waits := ∃ v ∈ y.walkQueue, InPage s ctx va.toNat v
    let cached := ∃ e ∈ y.tlb, e.ctx = ctx ∧ e.base ≤ va.toNat ∧ va.toNat < e.base + e.size
    let makes := fun y' : Die => ∃ u, exec (.pageWalk d ctx va) s = .next u ∧ u.die d = y' ∧ (∀ k, k ≠ d → u.die k = s.die k) ∧
      { u with dies := s.dies } = s
    (none' → waits ∨ cached → exec (.pageWalk d ctx va) s = .next s) ∧
    (none' → ¬ waits → ¬ cached → y.walks.length < 2048 → makes { y with walks := y.walks ++ [w] }) ∧
    (none' → ¬ waits → ¬ cached → 2048 ≤ y.walks.length → makes { y with walkQueue := y.walkQueue ++ [w] }) ∧
    (∀ pre v post, y.walks = pre ++ v :: post → (∀ x ∈ pre, ¬ InPage s ctx va.toNat x) → InPage s ctx va.toNat v →
      let ended := { y with walks := pre ++ post ++ y.walkQueue.take 1, walkQueue := y.walkQueue.drop 1 }
      (∀ c, s.leafOf d ctx va.toNat = .fail c → makes ended) ∧
      (∀ e base size, s.leafOf d ctx va.toNat = .leaf e base size →
        let new : TlbEntry := ⟨ctx, base, size, e⟩
        let shot := s.bar0.shootdown.toNat / 2 ^ 63 = 1 ∧ ctx = s.bar0.shootdown.toNat / 2 ^ 48 % 2 ^ 6 ∧
          (s.bar0.shootdown.toNat % 2 ^ 48 = 2 ^ 48 - 1 ∨
            base ≤ s.bar0.shootdown.toNat % 2 ^ 48 ∧ s.bar0.shootdown.toNat % 2 ^ 48 < base + size)
        (shot ∨ new ∈ y.tlb → makes ended) ∧
        (¬ shot → new ∉ y.tlb → makes { ended with tlb := y.tlb ++ [new] })))) ∧
  (∀ (s : State) (ctx : Nat) (va : BitVec 48), ctx < 64 →
    let word : Word := BitVec.ofNat 64 (ctx * 2 ^ 48 + va.toNat)
    let moving := ToPerform s ctx
    let state (u : State) : Prop := u.bar0.shootdown = if u.bar0.shooting = [] then word else 2 ^ 63 ||| word
    (s.recovery = true → exec (.shootdown ctx va) s = .next s) ∧
    (s.recovery = false → s.bar0.shootdown.getLsbD 63 = false → ∃ u, exec (.shootdown ctx va) s = .next u ∧
      (∀ d x, x ∈ (u.die d).tlb ↔ x ∈ (s.die d).tlb ∧ ¬ (x.ctx = ctx ∧
        (va.toNat = 2 ^ 48 - 1 ∨ x.base ≤ va.toNat ∧ va.toNat < x.base + x.size))) ∧
      (∀ r, r ∈ u.bar0.shooting ↔ moving r) ∧ state u ∧ { u with dies := s.dies, bar0 := s.bar0 } = s) ∧
    (s.recovery = false → s.bar0.shootdown = 2 ^ 63 ||| word → ∃ u, exec (.shootdown ctx va) s = .next u ∧ OnlyBar s u ∧
      (∀ r, r ∈ u.bar0.shooting ↔ r ∈ s.bar0.shooting ∧ moving r) ∧ state u))

/-- R319, R364, R367, R376: COLD_START, WARM_START and ATTESTATION. A start with an image that the boot ROM refuses leaves the package in
recovery and tells management; with one it accepts, the failed dies are out of service, the links down and the firmware's
digest known, tables that pass firmware's checks in force, and all else is as at reset, memory empty after a warm start too (the
model's choice, log 45); a cold start, and a warm one whose saved parameters are not valid, saves the trained
parameters. A nonce yields a report with its signature. -/
def Sys2Proof.Claims.StartsAndReports : Prop :=
  (∀ (s : State) (image : List Byte) (failed : List Nat) (links : Fabric) (temps : List Nat) (warm : Bool),
    let i : Instr := if warm then .warmStart image failed links temps else .coldStart image failed links temps
    let valid := ∃ d l t, s.fuses.saved = some (d, l, t) ∧ d = failed ∧ l = links.down ∧ t.length = temps.length ∧
      ∀ k, k < t.length → t.getD k 0 ≤ temps.getD k 0 + 15 ∧ temps.getD k 0 ≤ t.getD k 0 + 15
    ∃ u, exec i s = .next u ∧ u.cycle = 0 ∧ u.slots = [] ∧ u.ctxs = [] ∧ u.mem = [] ∧ u.bar0 = State.reset.bar0 ∧
      (s.fuses.accepts image = false → u.recovery = true ∧ u.mgmt = [.imageRefused] ∧ u.fuses = s.fuses) ∧
      (s.fuses.accepts image = true → u.recovery = false ∧ u.mgmt = [] ∧ u.linksDown = links.down ∧
        (∀ d, (u.die d).outOfService = true ↔ d ∈ failed) ∧
        (u.ring.stopped = true ↔ ∃ a ∈ failed, ∃ b ∈ failed, ringPos b = (ringPos a + 1) % 672) ∧
        (u.routesOk links.tables = true → (links.tables.map fun x => (x.1, x.2.1)).Nodup → ∀ d e, d < 672 →
          lookupD 0 e (u.die d).routes = ((links.tables.find? fun x => decide (x.1 = d ∧ x.2.1 = e)).map (·.2.2)).getD 0) ∧
        u.firmware = digestOf ((image.drop 576).take (ofBytes ((image.drop 16).take 8))) ∧
        (warm = true → valid → u.fuses = s.fuses) ∧
        (warm = false ∨ ¬ valid → u.fuses = { s.fuses with saved := some (failed, links.down, temps) }))) ∧
  (∀ (s : State) (nonce : BitVec 512), ∃ u, exec (.attestation nonce) s = .next u ∧ OnlyBar s u ∧
    { u.bar0 with nonce := s.bar0.nonce, report := s.bar0.report } = s.bar0 ∧ u.bar0.nonce = nonce ∧
    u.bar0.report = s.reportBody nonce ++ Config.attestSign (s.reportBody nonce))

/-- R364, R366, R368 to R375: REGISTER_WRITE. Each writable register of BAR0 keeps the bits of its layout; FAULTED clears the bits
written as 1, and a service's valid bit clears on a 1; CMD starts a command with the arguments held, and is ignored while one
runs; a context record keeps its words while the context is not loaded. A write of SHOOTDOWN, of a halt word or of a release word is
the step that the word names. Read-only registers keep what they hold, and a lamp-only register of a plinth die takes no write. In
recovery nothing is written. -/
def Obligations.RegisterWrites : Prop :=
  ∀ (s : State) (x : Word),
    let w (off : Nat) : Host.Outcome State Fault Refusal := exec (.registerWrite off x) s
    (∀ off, s.recovery = true ∨ off % 8 ≠ 0 → w off = .next s) ∧
    (s.recovery = false →
      w 0x018 = .next { s with bar0 := { s.bar0 with faulted := s.bar0.faulted &&& ~~~x } } ∧
      w 0x020 = .next { s with bar0 := { s.bar0 with budget := BitVec.ofNat 64 (x.toNat % 2 ^ 16) } } ∧
      w 0x028 = .next { s with bar0 := { s.bar0 with grade := BitVec.ofNat 64 (x.toNat % 2 ^ 3) } } ∧
      (s.bar0.busy = true → w 0x048 = .next s) ∧
      (s.bar0.busy = false → w 0x048 = .next { s with bar0 := { s.bar0 with
        busy := true, cmdCtx := x.toNat / 2 ^ 32 % 2 ^ 6, cmdCode := BitVec.ofNat 8 x.toNat, cmdArgs := s.bar0.args } }) ∧
      (∀ k, k < 4 → ∃ u, w (0x050 + 8 * k) = .next u ∧ OnlyBar s u ∧ { u.bar0 with args := s.bar0.args } = s.bar0 ∧
        ∀ j, j < 4 → u.bar0.args.toList[j]? = if j = k then some x else s.bar0.args.toList[j]?) ∧
      (∀ ctx word, ctx < 64 → word < 32 →
        let off := 0x1000 + 256 * ctx + 8 * word
        let keep : Word := if word = 8 then 0x07FF07FF else if word = 10 then 0xFF07FF0001 else BitVec.allOnes 64
        (Loaded s ctx ∨ 12 < word → w off = .next s) ∧
        (¬ Loaded s ctx → word ≤ 12 → ∃ u, w off = .next u ∧ OnlyBar s u ∧
          { u.bar0 with records := s.bar0.records } = s.bar0 ∧
          ∀ c k, u.record c k = if c = ctx ∧ k = word then x &&& keep else s.record c k)) ∧
      (∀ ctx, ctx < 64 → ∃ u, w (0x30000 + 32 * ctx) = .next u ∧ OnlyBar s u ∧
        { u.bar0 with services := s.bar0.services } = s.bar0 ∧
        ∀ c, u.serviceOf c = if c = ctx ∧ x.getLsbD 63 = true then
          ((s.serviceOf c).1 &&& 0x7FFFFFFFFFFFFFFF, (s.serviceOf c).2.1, 0, (s.serviceOf c).2.2.2) else s.serviceOf c) ∧
      (∀ n k, n < 336 → k < 4 → ∃ u, w (0x41000 + 32 * n + 8 * k) = .next u ∧ { u with slots := s.slots } = s ∧
        ∀ p, u.slot p = if p.die = lampOf n ∧ p.core / 4 = k ∧ p.slot < 16 then
          { s.slot p with mark := x.getLsbD (p.core % 4 * 16 + p.slot) } else s.slot p) ∧
      (∀ off, ReadOnly off → w off = .next s) ∧
      w 0x038 = exec (.shootdown (x.toNat / 2 ^ 48 % 2 ^ 6) (BitVec.ofNat 48 x.toNat)) s ∧
      (∀ n, n < 336 → w (0x40000 + 8 * n) =
        if x.getLsbD 0 = true then exec (.dieHalt (lampOf n)) s else exec (.dieRelease (lampOf n)) s) ∧
      (∀ n k, n < 336 → k < 4 → ∃ t : Nat → State, t 0 = s ∧ w (0x47000 + 32 * n + 8 * k) = .next (t 64) ∧ ∀ j, j < 64 →
        if x.getLsbD j = true then exec (.slotRelease ⟨lampOf n, 4 * k + j / 16, j % 16⟩) (t j) = .next (t (j + 1))
        else t (j + 1) = t j) ∧
      (∀ d, d < 672 →
        let cfg := 0x1000000 + 0x10000 * d
        (∀ off, ConfigReadOnly off → w (cfg + off) = .next s) ∧
        (isLamp d = false → ∀ off, LampOnly off → w (cfg + off) = .next s) ∧
        (∃ u, w (cfg + 0x1000) = .next u ∧ u.die d = { s.die d with errors := 0, laneErrors := [] } ∧
          (∀ e, e ≠ d → u.die e = s.die e) ∧ { u with dies := s.dies } = s) ∧
        (∃ u, w (cfg + 0x1048) = .next u ∧ u.die d = { s.die d with threshold := BitVec.ofNat 32 x.toNat } ∧
          (∀ e, e ≠ d → u.die e = s.die e) ∧ { u with dies := s.dies } = s) ∧
        (isLamp d = true → ∃ u, w (cfg + 0x2000) = .next u ∧ u.die d = { s.die d with cap := BitVec.ofNat 16 x.toNat } ∧
          (∀ e, e ≠ d → u.die e = s.die e) ∧ { u with dies := s.dies } = s) ∧
        (isLamp d = true → ∀ k, k < 128 → ∃ u, w (cfg + 0x3000 + 8 * k) = .next u ∧ { u with cores := s.cores } = s ∧
          ∀ e c n, c < 16 → n < 64 → (u.core e c).weightOf n =
            if e = d ∧ (64 * c + n) / 8 = k then x.toNat / 2 ^ (8 * (n % 8)) % 2 ^ 8 else (s.core e c).weightOf n) ∧
        (isLamp d = true → ∀ c, c < 16 → ∃ u, w (cfg + 0x3800 + 8 * c) = .next u ∧ { u with cores := s.cores } = s ∧
          (∀ e c', (e, c') ≠ (d, c) → u.core e c' = s.core e c') ∧
          u.core d c = { s.core d c with handler := BitVec.ofNat 64 (x.toNat % 2 ^ 48) })))

/-- R317 to R320: ROUTE_CHANGE and DIE_FAILURE. A set of tables that firmware's checks pass is loaded once the channels it changes are
empty: no request of a pair whose route changes is on its way, and no answer or reduction message that has passed the dies out of
service; any other set is refused whole. A failed die is out of service, the contexts of its threads are faulted, its monitors
and keystone slots are empty, nothing is left on its way to it, and no access to it is outstanding. What it had sent to a live die
before is still served there, and a message whose route avoids it goes on. What a failed die loses is the model's choice (logs 43,
79). -/
def Sys2Proof.Claims.RoutesAndFailures : Prop :=
  (∀ (s : State) (ts : List (Nat × Nat × Nat)),
    (s.routesOk ts = true → s.routesBusy ts = false → (ts.map fun x => (x.1, x.2.1)).Nodup →
      ∃ u, exec (.routeChange ts) s = .next u ∧
        (∀ d e, d < 672 → lookupD 0 e (u.die d).routes = ((ts.find? fun x => decide (x.1 = d ∧ x.2.1 = e)).map (·.2.2)).getD 0) ∧
        (∀ d, { u.die d with routes := (s.die d).routes } = s.die d) ∧ { u with dies := s.dies } = s) ∧
    (s.routesOk ts = false ∨ s.routesBusy ts = true → exec (.routeChange ts) s = .next s) ∧
    (let changed (d e : Nat) : Prop := s.routeFrom d e 672 ≠ (s.withRoutes ts).routeFrom d e 672
     s.routesBusy ts = true ↔ (∃ r ∈ s.chans, changed r.src r.dest) ∨
      (∃ r ∈ s.resps, (r.passed = true ∨ s.routeClear r.src r.dest = true) ∧ changed r.src r.dest) ∨
      ∃ m ∈ s.redMsgs, (m.beyond = true ∨ s.routeClear m.pair.1 m.pair.2 = true) ∧ changed m.pair.1 m.pair.2)) ∧
  (∀ (s : State) (d : Nat), d < 672 → ∃ u, exec (.dieFailure d) s = .next u ∧ (u.die d).outOfService = true ∧
    (∀ e, e ≠ d → (u.die e).outOfService = (s.die e).outOfService) ∧
    (∀ r ∈ u.sends, r.src ≠ d ∧ r.dest ≠ d) ∧ (∀ r ∈ u.chans ++ u.arrivals, r.dest ≠ d) ∧ (∀ o ∈ u.outs, o.dest ≠ d) ∧
    (∀ r ∈ s.arrivals, r.dest ≠ d → r ∈ u.arrivals) ∧ (∀ m ∈ u.redMsgs, m.pair.2 ≠ d) ∧
    (∀ r ∈ s.chans, r.dest ≠ d → d ∉ r.src :: s.routeFrom r.src r.dest 672 → r ∈ u.chans) ∧
    ((∀ e, (s.die e).deferred = []) → ∀ r ∈ u.resps, r.dest ≠ d) ∧ (u.die d).monitor = [] ∧ (u.die d).keystones = [] ∧
    (∀ p t, s.thread? p = some t → p.die = d → t.away = false → t.ctx < 64 → u.bar0.faulted.getLsbD t.ctx = true) ∧
    (s.saving = [] → ∀ a, u.readByte a = s.readByte a))

end
/-! ### Courses, services, pre-emption, residency and commands (R96, R99, R161, R162, R343 to R357, R369 to R375) -/

namespace Sys2Proof.Claims
open Sys2Proof.Machine

/-- R161's layout of a course image: its zero fields, and a box that lies on the pavement or the address of a map. -/
def CourseOk (c : BitVec 128) : Prop :=
  field c 2 6 = 0 ∧ field c 13 3 = 0 ∧ field c 21 3 = 0 ∧ field c 29 3 = 0 ∧ field c 37 11 = 0 ∧ field c 64 3 = 0 ∧
    field c 112 16 = 0 ∧
    (field c 0 2 = 1 ∧ field c 64 64 = 0 ∧ field c 24 5 ≤ 23 ∧ field c 32 5 ≤ 27 ∧ field c 8 5 ≤ field c 24 5 ∧
        field c 16 5 ≤ field c 32 5 ∨
      field c 0 2 = 2 ∧ field c 2 62 = 0)

/-- What a `crset` leaves: its own die's copy of the entry replaced, and the thread held until every other lamp die in service
has it. -/
def CourseSet (s : State) (i : Issue) (t : Thread) (e : Nat) (c : BitVec 128) (masks : List (BitVec 16))
    (o : Host.Outcome State Fault Refusal) : Prop :=
  ∃ (u : State) (others : List Nat), o = .next u ∧
    (∀ d, d ∈ others ↔ isLamp d = true ∧ (s.die d).outOfService = false ∧ d ≠ i.place.die) ∧
    u.thread? i.place = some { t with hold := .crset e others } ∧ u.courseOf i.place.die t.ctx e = (c, masks) ∧
    (∀ d n k, (d, n, k) ≠ (i.place.die, t.ctx, e) → u.courseOf d n k = s.courseOf d n k) ∧
    (∀ r, r ≠ i.place → u.slot r = s.slot r) ∧ { u with slots := s.slots, dies := s.dies } = s

/-- The command that runs ends with a status, and nothing else happens (R372). -/
def EndsCmd (s : State) (o : Host.Outcome State Fault Refusal) (status : BitVec 8) : Prop :=
  o = .next { s with bar0 := { s.bar0 with busy := false, status := status } }

/-- A command runs for a context (R372). -/
def Runs (s : State) (code : BitVec 8) (ctx : Nat) : Prop := s.bar0.busy = true ∧ s.bar0.cmdCode = code ∧ s.bar0.cmdCtx = ctx

/-- The command that ran has ended with status 0. -/
def Done (u : State) : Prop := u.bar0.busy = false ∧ u.bar0.status = 0

/-- What a saved tag holds in its two words (R349): it is withdrawn, trapped, or ready with its results, which its fields say; the
destinations stand in it in any case. -/
def TagSaved (g : Tag) (w0 w1 : Word) : Prop :=
  let b (x : Bool) (n : Nat) : Nat := if x = true then 2 ^ n else 0
  let ready : Bool := decide (g.state = .ready)
  let wd : Bool := decide (g.state = .withdrawn)
  let trapped : Bool := !ready && !wd && decide (g.state ≠ .waiting)
  w0.toNat = 2 ^ 63 + b wd 62 + g.count * 2 ^ 58 + g.vd.toNat * 2 ^ 52 + b (ready && g.hasV) 51 + (g.sds.getD 0 0).toNat * 2 ^ 46 +
      b (ready && !g.sds.isEmpty) 45 + (if wd = true then g.lag.toNat * 2 ^ 37 else 0) + b (wd && g.wait) 36 +
      (if g.hasV = true ∨ g.ordered = true then 0 else (g.sds.length - 1) % 4 * 2 ^ 34) + b trapped 33 +
      (match g.state with
        | .withdrawn => g.iter.toNat
        | .trapped c _ => c.toNat
        | _ => 0) ∧
    w1 = (match g.state with
      | .withdrawn => g.addr
      | .trapped _ i => i
      | _ => g.u.getD 0 0)

/-- An operation of a context that is being destroyed can itself still complete: no log holds an access of it, and its `reds` has not
been taken or its round can complete, its product's boarding has or will have a lap, and any other is not one that waits for
records (R158, R373; log 35). -/
def CanEnd (s : State) (o : TileOp) : Prop :=
  (∀ x ∈ s.logged, ∀ r, x = .req r → r.owner = o.uid → ∃ a b c, r.body = .packet a b c) ∧
  (o.op = 24 → o.phase = .queued ∨ s.roundRuns o.ctx o.group.toNat o.round = true) ∧
  (o.op = 3 → o.phase = .queued →
    let h := (s.core o.place.die o.place.core).handleFor o.ctx o.fc o.uid
    h.state ≠ .waiting ∨ h.resolved = true) ∧
  (o.op ≠ 24 → o.phase ∈ [.queued, .reading, .read, .writing])

/-- The place an argument names, and whether its other bits are zero (R372). -/
def argAt (x : Word) : Place := ⟨x.toNat % 2 ^ 10, x.toNat / 2 ^ 10 % 2 ^ 4, x.toNat / 2 ^ 14 % 2 ^ 4⟩
/-- An argument that names a slot of a lamp die. -/
def ArgOk (x : Word) : Prop := isLamp (x.toNat % 2 ^ 10) = true ∧ x.toNat < 2 ^ 18

end Sys2Proof.Claims

section
open Sys2Proof Sys2Proof.Machine Sys2Proof.Claims

/-- R99, R161, R162: `crset` and COURSE_ENTRY_COPY. Off a multiple of 16 it traps ALIGN. It sends for its image as one load and issues
again; an image that breaks R161 traps ILLEGAL; for a map it then sends for the 84 words in ascending order; then this die's copy of the
entry is replaced, and the thread is held until each other lamp die has copied it. -/
def Sys2Proof.Claims.CourseEntries : Prop :=
  (∀ (s : State) (i : Issue) (t : Thread) (sa : BitVec 5) (e : BitVec 32), s.current = some (i, t) →
    let a := t.readS sa
    let o := exec (.crset sa e) s
    (a.toNat % 16 ≠ 0 → o = .next (s.precise i t causeAlign a)) ∧
    (a.toNat % 16 = 0 → t.image.length < 2 → Fetches s i t (imageAddrs a 2) false o) ∧
    (∀ w0 w1 ms, a.toNat % 16 = 0 → t.image = w0 :: w1 :: ms →
      let c : BitVec 128 := w1 ++ w0
      (¬ CourseOk c → o = .next (s.precise i t causeIllegal i.word)) ∧
      (CourseOk c → field c 0 2 = 1 → CourseSet s i t e.toNat c [] o) ∧
      (CourseOk c → field c 0 2 = 2 → ms.length < 84 → FetchesOn s i t ((imageAddrs w1 84).drop ms.length) o) ∧
      (CourseOk c → field c 0 2 = 2 → ms.length = 84 → ∃ masks : List (BitVec 16), masks.length = 336 ∧
        (∀ k, k < 336 → masks[k]? = some (BitVec.ofNat 16 ((ms.getD (k / 4) 0).toNat / 2 ^ (16 * (k % 4))))) ∧
        CourseSet s i t e.toNat c masks o))) ∧
  (∀ (s : State) (die : Nat) (p : Place) (x : Slot) (t : Thread) (e : Nat) (ds : List Nat) (pre post : List (Place × Slot)),
    FirstOf (fun y => ∃ t' e' ds', y.2.thread = some t' ∧ t'.hold = .crset e' ds' ∧ die ∈ ds') s.slots pre (p, x) post →
    x.thread = some t → t.hold = .crset e ds → s.thread? p = some t →
    ∃ u, exec (.courseEntryCopy die) s = .next u ∧ u.courseOf die t.ctx e = s.courseOf p.die t.ctx e ∧
      (∀ d n k, (d, n, k) ≠ (die, t.ctx, e) → u.courseOf d n k = s.courseOf d n k) ∧
      u.thread? p = some { t with hold := .crset e (ds.filter fun d => d ≠ die) } ∧ (∀ r, r ≠ p → u.slot r = s.slot r) ∧
      { u with slots := s.slots, dies := s.dies } = s)

/-- R344, R375: `svc`. An event below the context's count raises its interrupt vector and fills the context's service register
(valid, context, writer, event; the word's address; the count, which stops at its largest value; the cycle); another only
tells management. The thread goes on. -/
def Sys2Proof.Claims.ServiceWord : Prop :=
  ∀ (s : State) (i : Issue) (t : Thread) (e : BitVec 21), s.current = some (i, t) →
    let v := (s.record t.ctx 8).toNat
    let n := e.toNat
    let old := s.serviceOf t.ctx
    (v / 2 ^ 16 % 2 ^ 11 ≤ n → exec (.svc e) s = .next { s with mgmt := s.mgmt ++ [.svcRefused t.ctx n] }) ∧
    (n < v / 2 ^ 16 % 2 ^ 11 → ∃ u, exec (.svc e) s = .next u ∧ OnlyBar s u ∧
      { u.bar0 with services := s.bar0.services, msix := s.bar0.msix } = s.bar0 ∧
      u.bar0.msix = s.bar0.msix ++ [v % 2 ^ 11 + n] ∧ (∀ c, c ≠ t.ctx → u.serviceOf c = s.serviceOf c) ∧
      u.serviceOf t.ctx = (BitVec.ofNat 64 (2 ^ 63 + t.ctx * 2 ^ 40 + (s.widAt i.place).toNat * 2 ^ 16 + n), i.pc,
        if old.2.2.1 = 0xFFFFFFFF then 0xFFFFFFFF else old.2.2.1 + 1, BitVec.ofNat 64 s.cycle))

/-- R272, R343, R357, R364, R374: DIE_HALT, DIE_RELEASE and SLOT_RELEASE. A halt sets the die's flag, but in recovery; a release clears
it, boards its live handles afresh, and owes DEBUG to the threads of its marked slots that no `halt` of their own holds; a slot's release lets a thread that executed `halt` go on, with
DEBUG when its slot is marked. A slot counts as halted by its own `halt`, or, its die halted, at a boundary with every operation complete
or waiting at its home. DEBUG enters its handler; without one the slot stays halted and its waiting loads stay at their homes. -/
def Sys2Proof.Claims.DebugHalts : Prop :=
  (∀ (s : State) (d : Nat), s.recovery = true → exec (.dieHalt d) s = .next s) ∧
  (∀ (s : State) (d : Nat), isLamp d = true → s.recovery = false → ∃ u, exec (.dieHalt d) s = .next u ∧ u.die d = { s.die d with halt := true } ∧
    (∀ e, e ≠ d → u.die e = s.die e) ∧ { u with dies := s.dies } = s) ∧
  (∀ (s : State) (d : Nat), ((s.die d).halt = false → exec (.dieRelease d) s = .next s) ∧
    ((s.die d).halt = true → ∃ u, exec (.dieRelease d) s = .next u ∧ (u.die d).halt = false ∧
      (∀ e, e ≠ d → (u.die e).halt = (s.die e).halt) ∧ (∀ a, u.readByte a = s.readByte a) ∧
      (∀ e c, (u.core e c).handles = (s.core e c).handles.map fun h =>
        if e = d ∧ h.state = .waiting ∧ s.ring.stateOf d s.cycle h ≠ .complete then
          s.ring.resolve d s.cycle { h with landed := [], lost := [], failed := [], w := 0, lapK := 0, window := none } else h) ∧
      ∀ p t, s.thread? p = some t → u.thread? p =
        some (if p.die = d ∧ (s.slot p).mark = true ∧ t.halted = false then { t with debugDue := true } else t))) ∧
  (∀ (s : State) (p : Place) (t : Thread), s.thread? p = some t →
    (t.halted = false → exec (.slotRelease p) s = .next s) ∧
    (t.halted = true → ∃ u, exec (.slotRelease p) s = .next u ∧
      u.thread? p = some { t with halted := false, debugDue := (s.slot p).mark } ∧ (∀ r, r ≠ p → u.slot r = s.slot r) ∧
      (∀ a, u.readByte a = s.readByte a))) ∧
  (∀ (s : State) (p : Place), s.slotHalted p = true ↔ ∃ t, s.thread? p = some t ∧ (t.halted = true ∨
    (s.die p.die).halt = true ∧ s.between p t = true ∧ ∀ g ∈ t.tags, g.state ≠ .waiting ∨ s.waitsAtHome t g = true)) ∧
  (∀ (s : State) (p : Place) (t : Thread), s.thread? p = some t → t.pending = none → s.atBoundary p t = true → t.preempt = none →
    t.debugDue = true → t.priv = false →
    (s.handlerOk p t = true → t.settled = true → ∃ u t', exec (.trapEntry p) s = .next u ∧
      Entered s.cycle { t with debugDue := false } t' (BitVec.ofNat 64 causeDebug.toNat) t.pc 0 ∧ u.thread? p = some t' ∧
      OnlyThread s u p) ∧
    (s.handlerOk p t = false → exec (.trapEntry p) s =
      .next ((s.setThread p { t with halted := true, debugDue := false }).tell (.slotStuck p))))

/-- R347, R349: the words of a save block: the frame, the uniform registers, the system registers that are restored, the predicates, the
descriptors, the history, the open operations, whose results are held only once they are ready, and the vector registers, each at its
offset; no offset is written twice. -/
def Sys2Proof.Claims.SaveBlockLayout : Prop :=
  ∀ (t : Thread) (wid : BitVec 24), t.ctx < 64 → t.tags.length ≤ 16 → t.notices.length ≤ 16 → t.former.length ≤ 8 →
    let ws := t.blockWords wid
    (ws.map Prod.fst).Nodup ∧ (0, BitVec.ofNat 64 (t.pc.toNat % 2 ^ 48)) ∈ ws ∧
    (8, BitVec.ofNat 64 ((if t.halted then 2 else 0) + if t.hs then 1 else 0)) ∈ ws ∧
    (16, BitVec.ofNat 64 (t.ctx * 2 ^ 24 + wid.toNat)) ∈ ws ∧ (24, t.nodeA) ∈ ws ∧
    (32, BitVec.ofNat 64 t.tags.length) ∈ ws ∧
    (∀ k : BitVec 5, (0x100 + 8 * k.toNat, t.readS k) ∈ ws) ∧
    (∀ e ∈ [(0, t.sys.iter), (3, t.sys.flags), (4, t.sys.lc0), (5, t.sys.ls0), (6, t.sys.le0), (7, t.sys.lc1), (8, t.sys.ls1),
      (9, t.sys.le1), (10, t.sys.tseq), (11, t.sys.tdone), (16, t.sys.trapvec), (17, t.sys.trapcause), (18, t.sys.trappc),
      (19, t.sys.trapinfo), (21, t.sys.vlive), (23, t.sys.lat), (24, t.sys.hops), (29, t.sys.rndmode), (30, t.sys.regeps)],
      (0x200 + 8 * e.1, e.2) ∈ ws) ∧
    (∃ w, (0x300, w) ∈ ws ∧ ∀ k : BitVec 3, w.getLsbD k.toNat = t.readQ k) ∧
    (∀ k : BitVec 3, 0 < k.toNat → (0x300 + 8 * k.toNat, t.readP k) ∈ ws) ∧
    (∀ k : BitVec 4, (0x400 + 16 * k.toNat, (t.readD k).extractLsb' 0 64) ∈ ws ∧
      (0x408 + 16 * k.toNat, (t.readD k).extractLsb' 64 64) ∈ ws) ∧
    (∀ k, k < 32 → (0x500 + 8 * k, t.sys.history.toList.getD k 0) ∈ ws) ∧
    (∀ k g, t.tags[k]? = some g → g.count < 16 → ∃ w0 w1, (0x700 + 16 * k, w0) ∈ ws ∧ (0x708 + 16 * k, w1) ∈ ws ∧ TagSaved g w0 w1) ∧
    (∀ (r : BitVec 6) (k : Nat), k < 32 → (0x2000 + 256 * r.toNat + 8 * k, (t.readV r).extractLsb' (64 * k) 64) ∈ ws)

/-- R345, R346, R350: PREEMPT_ENTRY and SAVE_COMPLETE. Once a requested pre-emption can happen, the thread's waiting stamped loads are
withdrawn, what it had read of an image is dropped (log 17), its words go to its block, and it enters the core's PREEMPT handler with TRAPSAVE the block and TRAPPC its address,
no other register changed; with no handler it is switched out. What was kept of a thread saved in that block before, which stands in no
slot, is dropped. When its last operation is recorded its accumulators and the
complete bit are written. -/
def Sys2Proof.Claims.PreemptionSaves : Prop :=
  (∀ (s : State) (p : Place) (t t1 : Thread) (block : Word), s.thread? p = some t → t.preempt = some block →
    (s.canPreempt p t = false → exec (.preemptEntry p) s = .next s) ∧
    (s.canPreempt p t = true → (s.withdraw p t).thread? p = some t1 → t1.settled = true → ∃ (v : Saving) (t' : Thread),
      v.uid = t1.uid ∧ v.ctx = t1.ctx ∧ v.block = block ∧ v.place = p ∧ v.complete = false ∧
      v.tags = (t1.tags.filter fun g => g.image = false) ∧ v.inds = t1.unmerged ∧ v.first = t1.firstWord ∧
      v.opFault = t1.lateFaults.head?.any (·.2.2) ∧
      (let w := (s.withdraw p t).blockFill v ({ t1 with tags := v.tags, image := [] }.blockWords ((s.withdraw p t).widAt p))
       let old := fun x : Saving => x.complete = true ∧ x.ctx = t1.ctx ∧ x.block = block ∧ w.findThread x.uid = none
       exec (.preemptEntry p) s =
         .next ({ w with saving := (w.saving.filter fun x => decide (¬ old x)) ++ [v] }.setThread p t').applyAllDeferred) ∧
      (let h : Word := BitVec.ofNat 64 ((s.core p.die p.core).handler.toNat % 2 ^ 48)
       t'.pc = h ∧ t'.priv = true ∧ t'.hold = (if h = 0 then .switch else .until_ (s.cycle + 3)) ∧
       t'.sys = { t1.sys with trapsave := block, trapcause := 0x0F, trappc := t1.pc, trapinfo := 0 } ∧
       (∀ g ∈ t'.tags, g.frozen = true) ∧ t'.image = [] ∧ t'.lateFaults = [] ∧ t'.unmerged = [] ∧
       t'.s = t1.s ∧ t'.q = t1.q ∧ t'.v = t1.v ∧ t'.p = t1.p ∧ t'.d = t1.d ∧ t'.acc = t1.acc ∧ t'.hs = t1.hs ∧ t'.halted = false ∧
       t'.preempt = none))) ∧
  (∀ (s : State) (uid : Nat) (pre post : List Saving) (v : Saving),
    FirstOf (fun x => x.uid = uid ∧ x.complete = false) s.saving pre v post → (∀ x ∈ pre, x.uid ≠ uid) →
    (s.slots.map Prod.fst).Nodup →
    ((∃ o ∈ s.ops, o.owner = uid) → exec (.saveComplete uid) s = .next s) ∧
    ((∀ o ∈ s.ops, o.owner ≠ uid) →
      let s1 := s.blockFill v (accWords (s.accsOf uid))
      let s2 := s1.blockWrite v 8 (s1.blockRead v 8 ||| 4)
      ∃ u, exec (.saveComplete uid) s = .next u ∧ u.mem = s2.mem ∧ u.saving = pre ++ { v with complete := true } :: post ∧
        (Runs s 6 s.bar0.cmdCtx → Done u) ∧ (∀ r, (s.thread? r).map (·.uid) ≠ some uid → u.slot r = s.slot r)))

/-- R96, R345, R350, R351: `eret` in a PREEMPT handler. While the block is not complete the word waits, which is the model's reading
(log 55); else the thread is reloaded from its block and goes on at the block's PC, and its place and its uid stay. Stamped loads that
were withdrawn are sent again, at the head of their send lists and in their order; one whose address no longer translates ends in that
trap (log 64). -/
def Sys2Proof.Claims.PreemptReturn : Prop :=
  ∀ (s : State) (i : Issue) (t : Thread) (pre post : List Saving) (v : Saving), s.current = some (i, t) → t.priv = true →
    FirstOf (fun x => x.uid = t.uid) s.saving pre v post →
    (v.complete = false → LandsStaying s i (exec .eret s) { t with hold := .saving }) ∧
    (v.complete = true →
      let b := s.threadOfBlock v none t.sys.trapsave
      (∀ g ∈ b.tags, g.state ≠ .withdrawn) → ∃ u t', exec .eret s = .next u ∧ u.saving = pre ++ post ∧
        u.thread? i.place = some t' ∧ { t' with stampedNow := b.stampedNow, stampedAny := b.stampedAny, preempt := b.preempt,
                                                debugDue := b.debugDue } = b ∧
        t'.uid = t.uid ∧ t'.pc.toNat = (s.blockRead v 0).toNat % 2 ^ 48 ∧
        (∀ k : BitVec 5, k ≠ 0 → t'.readS k = s.blockRead v (0x100 + 8 * k.toNat)) ∧
        (∀ k : BitVec 3, k ≠ 0 → t'.readP k = s.blockRead v (0x300 + 8 * k.toNat)) ∧
        (∀ k : BitVec 3, k ≠ 0 → t'.readQ k = (s.blockRead v 0x300).getLsbD k.toNat) ∧
        t'.hs = (s.blockRead v 8).getLsbD 0 ∧ t'.halted = (s.blockRead v 8).getLsbD 1 ∧ t'.priv = false ∧
        t'.sys.trapcause = s.blockRead v 0x288 &&& 0x1FFFFFFFFFFFF1FF ∧ t'.sys.trappc = s.blockRead v 0x290 ∧
        t'.sys.trapinfo = s.blockRead v 0x298 ∧ t'.sys.tseq = s.blockRead v 0x250 ∧ t'.sys.tdone = s.blockRead v 0x258 ∧
        u.cur = some { i with moved := true } ∧ (∀ r, r ≠ i.place → u.slot r = s.slot r) ∧ (∀ a, u.readByte a = s.readByte a)) ∧
    (v.complete = true →
      let b := s.threadOfBlock v none t.sys.trapsave
      (b.tags.map (·.req)).Nodup →
      let at_ := fun g : Tag => s.translate i.place.die b.ctx .stampedLoad g.addr
      let again := (b.tags.filter fun g => g.state = .withdrawn).filterMap fun g => match at_ g with
        | .ok pa _ => some (s.request i.place b g.req pa (.lda g.addr pa g.iter g.lag g.wait))
        | .fail _ => none
      ∃ u, exec .eret s = .next u ∧ u.cur = some { i with moved := true } ∧
        { u with slots := s.slots, cur := s.cur, sends := s.sends, outs := s.outs, saving := s.saving } = s ∧
        (∀ r, r ≠ i.place → u.slot r = s.slot r) ∧ u.sends = again ++ s.sends ∧
        u.outs.Perm (s.outs ++ again.map fun r => r.out .lda r.body.vaddr) ∧
        u.thread? i.place = some { b with stampedNow := t.stampedNow, stampedAny := t.stampedAny, preempt := t.preempt,
                                          debugDue := t.debugDue, tags := b.tags.map fun g =>
          { g with state := if g.state = .withdrawn then
              (match at_ g with
                | .ok _ _ => .waiting
                | .fail c => .trapped c g.addr)
            else g.state } })

/-- R345, R351, R372, R373: PREEMPT and RESTORE. Each ends with status 5 for a context that is not loaded, 2 for a bad argument, 6 where
the context is not resident, and 4 for an empty (or a taken) slot. PREEMPT marks its thread, and ends when it is saved or gone;
RESTORE takes a complete block and puts the thread last saved in it into the free slot, which it gives to the context; a slot that all
its generations block answers as a taken one. That order of checks, the slot's owner and that answer are the model's (logs 37, 57,
86). -/
def Sys2Proof.Claims.SwitchingCommands : Prop :=
  (∀ (s : State) (ctx : Nat), Runs s 6 ctx →
    let a := s.bar0.cmdArgs[0]
    let block := s.bar0.cmdArgs[1]
    let p := argAt a
    let o := exec (.preempt ctx) s
    (¬ Loaded s ctx → EndsCmd s o 5) ∧ (Loaded s ctx → ¬ ArgOk a → EndsCmd s o 2) ∧
    (Loaded s ctx → ArgOk a → s.thread? p = none → EndsCmd s o 4) ∧
    (∀ t, Loaded s ctx → ArgOk a → s.thread? p = some t →
      (t.ctx ≠ ctx ∨ block.toNat % 256 ≠ 0 → EndsCmd s o 2) ∧
      (t.ctx = ctx → block.toNat % 256 = 0 → t.preempt = none → (∀ v ∈ s.saving, ¬ (v.uid = t.uid ∧ v.block = block)) →
        ∃ u, o = .next u ∧ u.thread? p = some { t with preempt := some block } ∧ OnlyThread s u p))) ∧
  (∀ (s : State) (ctx : Nat), Runs s 7 ctx →
    let a := s.bar0.cmdArgs[0]
    let block := s.bar0.cmdArgs[1]
    let p := argAt a
    let o := exec (.restore ctx) s
    let v : Saving := ((s.saving.filter fun x => decide (x.ctx = ctx ∧ x.block = block)).getLast?.map fun x => { x with place := p }).getD
      ⟨s.nextId, ctx, block, p, true, [], false, [], true⟩
    let b := s.threadOfBlock v none 0
    (¬ Loaded s ctx → EndsCmd s o 5) ∧ (Loaded s ctx → ¬ ArgOk a → EndsCmd s o 2) ∧
    (Loaded s ctx → ArgOk a → (s.core p.die p.core).resident ctx = false → EndsCmd s o 6) ∧
    (Loaded s ctx → ArgOk a → (s.core p.die p.core).resident ctx = true →
      ((s.blockRead v 8).getLsbD 2 = false → EndsCmd s o 2) ∧
      ((s.blockRead v 8).getLsbD 2 = true → s.slotFree p = false → EndsCmd s o 4) ∧
      ((s.blockRead v 8).getLsbD 2 = true → s.slotFree p = true → (∀ g ∈ b.tags, g.state ≠ .withdrawn) → ∃ u t',
        o = .next u ∧ Done u ∧ u.thread? p = some t' ∧ { t' with stampedNow := b.stampedNow, stampedAny := b.stampedAny,
                                                                 former := b.former } = b ∧
        (u.slot p).owner = some ctx ∧ (∀ x, u.readByte x = s.readByte x) ∧ u.cores = s.cores ∧
        u.saving = s.saving.filter fun x => decide (x.uid ≠ v.uid))))

/-- R173, R353 to R355, R369, R372, R373: LOADCTX, LAUNCH, RESIDE, EVICT and DESTROY. Each ends with the status of the first check that
fails, LOADCTX's leaving the context not loaded; one that passes leaves what it says, with status 0. DESTROY stays busy while engine
operations of the context still run (log 35), a `reds` whose round can complete among them, and empties its spill partitions. RESIDE's
check of the area (log 32), EVICT's wait (log 33), LOADCTX's stamps and kept quarry (log 34), LAUNCH's rule for its image and its PC (log
36) and the order of the checks (log 37) are the model's choices. -/
def Sys2Proof.Claims.ContextCommands : Prop :=
  (∀ (s : State) (ctx : Nat), Runs s 1 ctx → ctx < 64 →
    let o := exec (.loadctx ctx) s
    (s.record ctx 0 = 0 → EndsCmd s o 5) ∧ (s.record ctx 0 ≠ 0 → s.recordOk ctx = false → EndsCmd { s with ctxs := s.ctxs.filter fun c => c.n ≠ ctx } o 2) ∧
    (s.record ctx 0 ≠ 0 → s.recordOk ctx = true → ∃ u, o = .next u ∧ Done u ∧ (∀ a, u.readByte a = s.readByte a) ∧
      u.slots = s.slots ∧
      (∃ c, u.ctxInfo? ctx = some c ∧ c.tagClass.toNat = s.readNat (s.record ctx 11).toNat 4096 ∧ c.intakePtr = 0 ∧
        (¬ Loaded s ctx → c.mark = s.record ctx 4 ∧ c.returned = [] ∧ c.lastWave = none ∧
          ∀ a, u.sideband a = if ∃ e ∈ s.leaves ctx, e.1.getLsbD 60 = true ∧ s.leafHolds ctx e a = true then 0
            else s.sideband a)) ∧
      (∀ n, n ≠ ctx → u.ctxInfo? n = s.ctxInfo? n) ∧
      (∀ d c, isLamp d = true → c < 16 → (u.core d c).weightOf ctx = (s.record ctx 10).toNat / 2 ^ 32 % 2 ^ 8) ∧
      (∀ d e, isLamp d = true → e < 32 → (u.courseOf d ctx e).1 = s.courseImage ctx e))) ∧
  (∀ (s : State) (ctx : Nat), Runs s 3 ctx →
    let p := argAt s.bar0.cmdArgs[0]
    let o := exec (.launch ctx) s
    let bad := ¬ ArgOk s.bar0.cmdArgs[0] ∨ s.bar0.cmdArgs[1].toNat % 8 ≠ 0
    let hold := s.bar0.cmdArgs[3].getLsbD 0
    (¬ Loaded s ctx → EndsCmd s o 5) ∧ (Loaded s ctx → bad → EndsCmd s o 2) ∧
    (Loaded s ctx → ¬ bad → (s.core p.die p.core).resident ctx = false → EndsCmd s o 6) ∧
    (Loaded s ctx → ¬ bad → (s.core p.die p.core).resident ctx = true →
      (s.launchRegs p.die ctx s.bar0.cmdArgs[2] = none → EndsCmd s o 2) ∧
      (∀ regs, s.launchRegs p.die ctx s.bar0.cmdArgs[2] = some regs → ∃ u, o = .next u ∧ Done u ∧
        u.launches = (s.launches.map fun l => { l with held := decide (l.held = true ∧ (l.ctx ≠ ctx ∨ hold = true)) }) ++
          [⟨ctx, p, s.bar0.cmdArgs[1], regs, hold⟩] ∧ { u with launches := s.launches, bar0 := s.bar0 } = s))) ∧
  (∀ (s : State) (ctx : Nat), Runs s 4 ctx →
    let p := argAt s.bar0.cmdArgs[0]
    let base := s.bar0.cmdArgs[1].toNat % 2 ^ 6
    let size := s.bar0.cmdArgs[1].toNat / 2 ^ 8 % 2 ^ 7
    let area := s.bar0.cmdArgs[2]
    let x := s.core p.die p.core
    let o := exec (.reside ctx) s
    let fits := 1 ≤ size ∧ base + size ≤ 64 ∧ x.partitions.length < 4 ∧
      ∀ q ∈ x.partitions, q.base + q.size ≤ base ∨ base + size ≤ q.base
    let good := ArgOk s.bar0.cmdArgs[0] ∧ (s.die p.die).outOfService = false ∧ x.resident ctx = false ∧ fits ∧
      area = ((x.evicted.find? fun e => decide (e.1 = ctx)).map (·.2)).getD 0 ∧
      (area ≠ 0 → (s.areaRead p.die ctx area 8).toNat = size * 2 ^ 16)
    (¬ Loaded s ctx → EndsCmd s o 5) ∧ (Loaded s ctx → ¬ good → EndsCmd s o 2) ∧
    (Loaded s ctx → good → ∃ u, o = .next u ∧ Done u ∧ (area = 0 →
      (u.core p.die p.core).partitions = x.partitions ++ [⟨ctx, base, size⟩] ∧
      lookupD 0 ctx (u.core p.die p.core).hodcap = 1024 ∧ (u.core p.die p.core).tablesOf ctx = Tables.preset ctx ∧
      (∀ a, u.readByte a = if scratchAddr p.die p.core (base * 2 ^ 16) ≤ a ∧
        a < scratchAddr p.die p.core (base * 2 ^ 16) + size * 2 ^ 16 then 0 else s.readByte a) ∧
      (∀ d c, (d, c) ≠ (p.die, p.core) → u.core d c = s.core d c)))) ∧
  (∀ (s : State) (ctx : Nat), Runs s 5 ctx →
    let p := argAt s.bar0.cmdArgs[0]
    let area := s.bar0.cmdArgs[1]
    let o := exec (.evict ctx) s
    (¬ Loaded s ctx → EndsCmd s o 5) ∧ (Loaded s ctx → ¬ ArgOk s.bar0.cmdArgs[0] → EndsCmd s o 2) ∧
    (Loaded s ctx → ArgOk s.bar0.cmdArgs[0] → (s.core p.die p.core).resident ctx = false → EndsCmd s o 6) ∧
    (∀ pre post q, Loaded s ctx → ArgOk s.bar0.cmdArgs[0] → FirstOf (fun y => y.ctx = ctx) (s.core p.die p.core).partitions pre q post →
      (s.areaOk p.die ctx area q.size = false → EndsCmd s o 2) ∧
      (s.areaOk p.die ctx area q.size = true → s.coreIdle p.die p.core ctx = false → o = .next s) ∧
      (s.areaOk p.die ctx area q.size = true → s.coreIdle p.die p.core ctx = true → ∃ u, o = .next u ∧ Done u ∧
        (u.core p.die p.core).resident ctx = false ∧ (∀ h ∈ (u.core p.die p.core).hod, h.w0.toNat / 2 ^ 58 ≠ ctx) ∧
        (ctx, area) ∈ (u.core p.die p.core).evicted ∧ u.slots = s.slots ∧
        (∀ d c, (d, c) ≠ (p.die, p.core) → u.core d c = s.core d c)))) ∧
  (∀ (s : State) (ctx : Nat), Runs s 2 ctx → (s.slots.map Prod.fst).Nodup →
    let o := exec (.destroy ctx) s
    (¬ Loaded s ctx → EndsCmd s o 5) ∧
    let running := ∃ x ∈ s.ops, x.ctx = ctx ∧ s.opRuns x = true
    (Loaded s ctx → running → ∃ u, o = .next u ∧ u.bar0.busy = true ∧ u.bar0.cmdCode = 2 ∧ u.bar0.cmdCtx = ctx ∧ u.ctxs = s.ctxs ∧
      u.ops = s.ops ∧ u.bar0.destroying = true ∧ (∀ p t, u.thread? p = some t → t.ctx ≠ ctx) ∧ (∀ l ∈ u.launches, l.ctx ≠ ctx) ∧
      (∀ p t, s.thread? p = some t → t.ctx ≠ ctx → u.thread? p = some t) ∧
      ∀ d c, ∀ h ∈ (u.core d c).hod, h.w0.toNat / 2 ^ 58 ≠ ctx) ∧
    (∀ x, s.opRuns x = true ↔
      CanEnd s x ∧ ∀ y ∈ s.ops, y.owner = x.owner → y.queue = x.queue → x.queue ≠ 2 → y.seq < x.seq → CanEnd s y) ∧
    (Loaded s ctx → ¬ running → ∃ u, o = .next u ∧ Done u ∧ u.bar0.destroying = false ∧ (∀ c ∈ u.ctxs, c.n ≠ ctx) ∧ (∀ n, n ≠ ctx → u.ctxInfo? n = s.ctxInfo? n) ∧
      u.record ctx 0 = 0 ∧ (∀ p t, u.thread? p = some t → t.ctx ≠ ctx) ∧
      (∀ p t, s.thread? p = some t → t.ctx ≠ ctx → u.thread? p = some t) ∧
      (∀ d c, (u.core d c).resident ctx = false ∧ ∀ h ∈ (u.core d c).hod, h.w0.toNat / 2 ^ 58 ≠ ctx) ∧
      (∀ x ∈ u.ops, x.ctx ≠ ctx) ∧ (∀ l ∈ u.launches, l.ctx ≠ ctx) ∧ (∀ g ∈ u.groups, g.ctx ≠ ctx) ∧
      (s.stored → ∀ d, d ∈ lampDies → s.partSize ctx ≠ 0 → u.read64 (s.partAddr ctx d + 8) = s.read64 (s.partAddr ctx d)) ∧
      (s.stored → ∀ a, (∀ d, d ∈ lampDies → s.partSize ctx ≠ 0 → a < s.partAddr ctx d + 8 ∨ s.partAddr ctx d + 16 ≤ a) →
        u.readByte a = s.readByte a)))

/-- R322, R355: LOG_APPEND. The head of a die's arrival queue that is for a context evicted from its core is appended to the
context's log and leaves the queue: a store is acknowledged at once, a read or an atomic waits for the replay; while the log
has no room it stays. -/
def Sys2Proof.Claims.LogAppends : Prop :=
  ∀ (s : State) (e : Nat) (pre post : List Req) (r : Req) (c : Nat) (area : Word), FirstOf (fun q => q.dest = e) s.arrivals pre r post →
    r.core = some c → (s.core e c).areaOf r.ctx = some area →
    (s.logAppend e r.ctx area (s.entriesOf r) = none → exec (.logAppend e) s = .next s) ∧
    (∀ s1, s.logAppend e r.ctx area (s.entriesOf r) = some s1 → ∃ u, exec (.logAppend e) s = .next u ∧
      u.arrivals = pre ++ post ∧ u.mem = s1.mem ∧ u.logged = s.logged ++ [.req r] ∧
      u.resps = s.resps ++ (match r.body with
        | .store _ _ | .merge _ _ => [reply s r .ack]
        | .packet _ _ _ => [reply s r .packetOk]
        | _ => []) ∧ u.slots = s.slots ∧ u.cores = s.cores)

end
/-! ### Encoding, the step, reset, and invariants (R1, R29, R33 to R37, R41, R43, R63, R87, R90, R364) -/

namespace Sys2Proof.Claims
open Sys2Proof.Machine

/-- The state in which a word of a thread acts: the slot's turn is taken, the results due are written and the word is in its
issue cycle. -/
def acting (s : State) (p : Place) (t : Thread) (w : Word) : State :=
  { (s.takeTurn p).setThread p (t.turn (s.dueTags p t)) with cur := some { place := p, pc := t.pc, word := w } }

/-- A core's issue begins with the thread `t` at `p` and reaches the word `w`. -/
def Reaches (s : State) (d c : Nat) (p : Place) (t : Thread) (w : Word) : Prop :=
  s.nextSlot d c = some p ∧ s.thread? p = some t ∧ p.die = d ∧ (acting s p t 0).fetch d t.ctx t.pc = .ok w

/-- A word's effect followed by the end of its issue cycle (R43, R90). -/
def thenEnds (o : Host.Outcome State Fault Refusal) (ws : List Nat) : Host.Outcome State Fault Refusal :=
  match o with
  | .next u => .next (u.finishIssue ws)
  | .fault f => .fault f
  | .refused r => .refused r

/-- A cycle may not pass yet: some core has a ready slot it has not issued from in this one, or a launch that is not held can start
(R11, R29, R31). -/
def Unfinished (s : State) : Prop :=
  (∃ d c, s.nextSlot d c ≠ none) ∨ ∃ l ∈ s.launches, l.held = false ∧ s.slotFree l.place = true

/-- Words written out from the spec's tables, each with what it stands for (R63, R66, R69 to R75). -/
def writtenWords : List (Word × Bundle) :=
  let g : Guard := ⟨false, 0⟩
  -- class 00, guard 0000, uop 000001, sd 00011, sa 00001, shift 00000, sb 00010; vop 0: add s3, s1, s2
  [(0b00_0000_000001_00011_00001_00000_00010_00000000000000000000000000000000, .pair g (.add 3 1 2) .vnop),
   -- T, guard 0000, opcode 000000, d1, s1 = s4: tdesc d1, s4 (an example of the spec)
   (0xC000100200000000, .long g (.tdesc 1 4)),
   -- T, opcode 000001, a0, s1 = 10, s2 = 11: tzero a0, s10, s11 (an example of the spec)
   (0xC01000052C000000, .long g (.tzero 0 10 11))]

end Sys2Proof.Claims

section
open Sys2Proof Sys2Proof.Machine Sys2Proof.Claims

/-- R33 to R37, R63 to R75: decoding gives back every well-formed word, in every class, with every operand at every value that the
encoding admits. -/
def Obligations.RoundTrip : Prop := ∀ b : Bundle, b.wf = true → decode (encode b) = .ok b

/-- R34, R36, R63: a word that decodes is well formed, and it is the encoding of what it decodes to: no field of a word is unread, so a
word with another value in a field that its opcode does not use is rejected. -/
def Sys2Proof.Claims.OneMeaning : Prop := ∀ (w : Word) (b : Bundle), decode w = .ok b → b.wf = true ∧ encode b = w

/-- R34: guard 1000 is reserved in every word of every class. -/
def Sys2Proof.Claims.GuardNever : Prop :=
  ∀ w : Word, w.toNat / 2 ^ 58 % 2 ^ 4 = 8 → decode w = .error .guardNever

/-- R33, R35, R66, R74: words written out bit by bit decode to what they stand for. -/
def Obligations.WrittenWords : Prop := ∀ x ∈ writtenWords, decode x.1 = .ok x.2

/-- R29, R31, R33, R34, R35, R37, R87, R90, R362: a step runs the decoded word. When a core's issue reaches a word that decodes and whose
guard is true, the step is the word's instruction run where the thread's turn is taken and the results due are written, then the end of
the issue cycle; a pair word runs its vector slot and then its uniform slot; one that reaches a page being walked waits for the walk,
which cannot be while no page is being walked; the pages it misses then wait in their die's queue if every walk of the die is busy. A core
issues at most once a cycle, from the first ready slot that the pointer meets after the slot that issued last, and not before the launches of
the core that take effect in the cycle. Under a false guard nothing runs but the end of the cycle; a word that does not decode
traps ILLEGAL with the word, and one that cannot be fetched traps as its fetch says. With no ready slot nothing happens. A machine step
is run as it is, or waits in the same way; a setting of management is applied; a tick passes one cycle, once no core can still issue in
it and no launch can still start. Waiting at a page being walked (log 13), results written before the fetch (log 19), the vector slot run
first (log 61), the agenda (log 1) and the settings (log 41) are the model's. -/
def Sys2Proof.Claims.StepRunsWords : Prop :=
  (∀ (s : State) (f : State → Host.Outcome State Fault Refusal), (∀ e ∈ s.dies, e.2.walks = []) → s.meetsWalk f = false) ∧
  (∀ (s : State) (f : State → Host.Outcome State Fault Refusal), { s.queueMisses f with dies := s.dies } = s ∧
    ∀ d, ((s.die d).walks.length < 2048 → (s.queueMisses f).die d = s.die d) ∧
      (2048 ≤ (s.die d).walks.length → ∃ ws, (s.queueMisses f).die d = { s.die d with walkQueue := (s.die d).walkQueue ++ ws } ∧
        ∀ w, w ∈ ws ↔ ∃ c ∈ s.ctxs, ∃ q ∈ s.pages c.n, w = (c.n, q.1) ∧
          (∀ v ∈ (s.die d).walks ++ (s.die d).walkQueue, ¬ InPage s c.n q.1 v) ∧
          s.meets f (fun n => if n = d then [⟨c.n, q.1, q.2, 0⟩] else []) = true)) ∧
  (∀ (s : State) (d c : Nat) (p : Place), s.nextSlot d c = some p ↔
    (s.core d c).lastIssue ≠ some s.cycle ∧
    (∀ l ∈ s.launches, l.place.die = d → l.place.core = c → l.held = false → s.slotFree l.place = false) ∧
    ∃ j, j < 16 ∧ p = ⟨d, c, ((s.core d c).issuePtr + 1 + j) % 16⟩ ∧ s.ready p = true ∧
      ∀ k, k < j → s.ready ⟨d, c, ((s.core d c).issuePtr + 1 + k) % 16⟩ = false) ∧
  (∀ (s : State) (p : Place), (s.takeTurn p).core p.die p.core =
      { s.core p.die p.core with issuePtr := p.slot, lastIssue := some s.cycle } ∧
    ∀ d c, (d, c) ≠ (p.die, p.core) → (s.takeTurn p).core d c = s.core d c) ∧
  ∀ (s : State) (rest : List Move),
    let s0 := { s with agenda := rest }
    (∀ d c, s.agenda = .issue d c :: rest →
      (s0.nextSlot d c = none → step s = .next s0) ∧
      (∀ p t w, Reaches s0 d c p t w →
        let a := acting s0 p t w
        let t1 := t.turn (s0.dueTags p t)
        (∀ b, decode w = .ok b → t1.guardTrue (match b with
            | .pair g _ _ => g
            | .long g _ => g) = true → a.meetsWalk (runWord b) = true →
              step s = .next ((a.queueMisses (runWord b)).holdForWalk.finishIssue a.windows)) ∧
        (∀ g i, decode w = .ok (.long g i) → t1.guardTrue g = true → a.meetsWalk (runWord (.long g i)) = false →
          step s = thenEnds (exec i a) a.windows) ∧
        (∀ g u v, decode w = .ok (.pair g u v) → t1.guardTrue g = true → a.meetsWalk (runWord (.pair g u v)) = false →
          (∀ b, exec v a = .next b → b.hasMoved = false → step s = thenEnds (exec u b) a.windows) ∧
          (∀ b, exec v a = .next b → b.hasMoved = true → step s = .next (b.finishIssue a.windows))) ∧
        (∀ b, decode w = .ok b → t1.guardTrue (match b with
            | .pair g _ _ => g
            | .long g _ => g) = false → step s = .next (a.finishIssue a.windows)) ∧
        (∀ e, decode w = .error e → ∃ ws, step s =
          .next ((a.precise { place := p, pc := t.pc, word := w } t1 causeIllegal w).finishIssue ws))) ∧
      (∀ p t k, s0.nextSlot d c = some p → s0.thread? p = some t → p.die = d →
        (acting s0 p t 0).fetch d t.ctx t.pc = .error k → ∃ ws, step s = .next
          (((acting s0 p t 0).precise { place := p, pc := t.pc, word := 0 } (t.turn (s0.dueTags p t)) k t.pc).finishIssue ws))) ∧
    (∀ i, s.agenda = .event i :: rest → i.form = .event →
      (s0.meetsWalk (exec i) = false ∨ (∃ d n a, i = .pageWalk d n a) ∨ (∃ n a, i = .shootdown n a) → step s = exec i s0) ∧
      (s0.meetsWalk (exec i) = true → (∀ d n a, i ≠ .pageWalk d n a) → (∀ n a, i ≠ .shootdown n a) →
        step s = .next (s0.queueMisses (exec i)))) ∧
    (∀ x, s.agenda = .set x :: rest → step s = .next (s0.applySetting x)) ∧
    (s.agenda = .tick :: rest → Unfinished s0 → step s = .next s0) ∧
    (s.agenda = .tick :: rest → ¬ Unfinished s0 → ∃ u, step s = .next u ∧ u.cycle = s.cycle + 1 ∧ u.stepped = [] ∧
      { u with cycle := s.cycle, dies := s.dies, stepped := s.stepped } = s0 ∧
      ∀ d, (s.die d).walks.length < 2048 → (u.die d).walkQueue = (s.die d).walkQueue)

/-- R43: what a slot's turn writes. With no result due the thread's registers stay. One operation's results are written where they
are due: the active lanes of its vector destination and its uniform destination, s0 apart; the others stay, and the operation
is no longer open. -/
def Sys2Proof.Claims.ResultsLand : Prop :=
  ∀ (t : Thread) (g : Tag),
    (t.turn [] = { t with hold := (t.turn []).hold }) ∧
    (g.image = false → let u := t.turn [g]
     (∀ r, (fun j => lane (u.readV r) j) = if g.hasV = true ∧ r = g.vd then (fun j => if g.lanes.getLsbD j then lane g.v j else lane (t.readV r) j)
        else (fun j => lane (t.readV r) j)) ∧
     (∀ r x, g.sds = [r] → g.u = [x] → ∀ k, u.readS k = if k = r ∧ r ≠ 0 then x else t.readS k) ∧
     (g.sds = [] → ∀ k, u.readS k = t.readS k) ∧ (∀ h, h ∈ u.tags ↔ h ∈ t.tags ∧ h.req ≠ g.req) ∧
     { u with s := t.s, v := t.v, tags := t.tags, hold := t.hold } = t)

/-- R41: s0 reads 0, q0 reads 1 and p0 reads all ones in every thread, whatever is written to them; a write to them changes
nothing. -/
def Sys2Proof.Claims.HardwiredRegisters : Prop :=
  ∀ (t : Thread) (x : Word) (b : Bool), t.readS 0 = 0 ∧ t.readQ 0 = true ∧ t.readP 0 = BitVec.allOnes 64 ∧
    (∀ k, (t.writeS 0 x).readS k = t.readS k) ∧ (∀ k, (t.writeQ 0 b).readQ k = t.readQ k) ∧
    ∀ k, (t.writeP 0 x).readP k = t.readP k

/-- Memory and sideband keep their canonical form in every step, from every state that has it. -/
def Obligations.StepKeepsStored : Prop := ∀ s t : State, s.stored → step s = .next t → t.stored

/-- R364, R368 to R371, R374, R257, R173: what reset leaves: cycle 0, every slot free, in generation 1 and without an owner; no context
loaded; memory and sidebands with nothing listed, hence canonical; no message on its way; no program on the ring; no die out of service;
the issue pointers before slot 0. What management reads of BAR0 at every aligned offset but the fuses' and the mailbox's: the part
identifier, the package budget 27,000 W, each die's bypass threshold 64, each lamp die's power cap 64 W and headroom 3, and 0 in every
other register and in reserved space. That unlisted memory reads 0 is the model's choice (log 3). -/
def Sys2Proof.Claims.ResetState : Prop :=
  let s := State.reset
  s.stored ∧ s.cycle = 0 ∧ (∀ p, s.thread? p = none ∧ (s.slot p).gen = 1 ∧ (s.slot p).owner = none) ∧ s.ctxs = [] ∧ s.mem = [] ∧
    (∀ a, s.readByte a = 0) ∧ (∀ a, s.sideband a = 0) ∧ s.sends = [] ∧ s.chans = [] ∧ s.arrivals = [] ∧ s.resps = [] ∧
    s.ring.running = none ∧ s.ring.segments = [] ∧
    (∀ d, (s.die d).outOfService = false ∧ (s.die d).halt = false ∧ (s.die d).monitor = []) ∧
    (∀ d c, (s.core d c).issuePtr = 15 ∧ (s.core d c).hod = [] ∧ (s.core d c).partitions = []) ∧
    s.bar0.budget = 27000 ∧ s.bar0.faulted = 0 ∧ s.bar0.quiescent = 0 ∧ s.bar0.busy = false ∧ s.bar0.status = 0 ∧
    ∀ off, off % 8 = 0 → off ≠ 0x40 → (off < 0x100 ∨ 0x130 ≤ off) → (off < 0x50000 ∨ 0x52000 ≤ off) →
      s.barRead off = if off = 0 then 0x565957363732 else if off = 0x20 then 27000
        else if 0x1000000 ≤ off ∧ off < 0x1000000 + 0x10000 * 672 then
          (let die := (off - 0x1000000) / 0x10000
           let r := (off - 0x1000000) % 0x10000
           if r = 0x1048 then 64 else if isLamp die = true ∧ r = 0x2000 then 64 else if isLamp die = true ∧ r = 0x2008 then 3 else 0)
        else 0

/-- R150, R151: no word changes memory or a sideband when it issues, but `rulew` and `board`, which write their own tables: a store's
bytes change when it is performed at its home. -/
def Obligations.WordsLeaveMemory : Prop :=
  ∀ (i : Instr) (s u : State), i.form ≠ .event → (∀ a b, i ≠ .rulew a b) → (∀ k a b c, i ≠ .board k a b c) → exec i s = .next u →
    (∀ a, u.readByte a = s.readByte a) ∧ ∀ a, u.sideband a = s.sideband a

end

/-! ### Statements of several clauses -/

section
open Sys2Proof Sys2Proof.Machine Sys2Proof.Claims

/-- The uniform slot: every register, immediate, compare and predicate form writes the value of its table and nothing
else. -/
def Obligations.UniformSlot : Prop :=
  Sys2Proof.Claims.UniformRegisterForms ∧
  Sys2Proof.Claims.UniformImmediateForms ∧
  Sys2Proof.Claims.UniformPredicates

/-- Integer lane compares and lane predicate logic. -/
def Obligations.LaneComparisons : Prop := Sys2Proof.Claims.IntegerCompares ∧ Sys2Proof.Claims.LanePredicates

/-- Lane moves, rotations, packing and scans. -/
def Obligations.LaneShuffles : Prop := Sys2Proof.Claims.LaneMoves ∧ Sys2Proof.Claims.PackAndScan

/-- Words that read lanes into uniform registers, and lane reductions. -/
def Obligations.LaneGathers : Prop := Sys2Proof.Claims.LaneReads ∧ Sys2Proof.Claims.LaneReduction

/-- Floating-point compares and conversions between lane formats and integers, code by code. -/
def Obligations.FloatFormats : Prop :=
  Sys2Proof.Claims.FloatCompares ∧
  Sys2Proof.Claims.Conversions ∧
  Sys2Proof.Claims.ConversionCodes ∧
  Sys2Proof.Claims.ToInteger

/-- Code lanes are decoded and encoded by the core's tables; encoding chooses the nearest entry. -/
def Obligations.TableCodes : Prop := Sys2Proof.Claims.DecodeCodes ∧ Sys2Proof.Claims.EncodeCodes ∧ Sys2Proof.Claims.EncodeChooses

/-- The results of floating-point operations: NaN, special, infinite and finite operands, roots, exp2 and log2, minimum
and maximum. -/
def Obligations.FloatSpecials : Prop :=
  Sys2Proof.Claims.NaNOperands ∧
  Sys2Proof.Claims.SpecialOperands ∧
  Sys2Proof.Claims.FiniteResults ∧
  Sys2Proof.Claims.InfiniteOperands ∧
  Sys2Proof.Claims.RootResults ∧
  Sys2Proof.Claims.MinMaxResults ∧
  Sys2Proof.Claims.PowerAndLog

/-- A fatal fault frees its slot and is recorded; late traps are entered at boundaries, oldest first; an operation's
fault (twait before its trap: log 66). -/
def Obligations.FaultsAtBoundaries : Prop :=
  Sys2Proof.Claims.FatalFault ∧
  Sys2Proof.Claims.BoundaryTraps ∧
  Sys2Proof.Claims.LateLoadTraps ∧
  Sys2Proof.Claims.OperationsFault

/-- Branches, calls, loops, and the loop-back check at the end of every word. -/
def Obligations.ControlFlow : Prop := Sys2Proof.Claims.Branches ∧ Sys2Proof.Claims.LoopWord ∧ Sys2Proof.Claims.IssueEnds

/-- mfs reads every listed system register; mts writes the bits its register keeps; TRAPSAVE traps PRIV outside a
PREEMPT handler. -/
def Obligations.SystemRegisters : Prop := Sys2Proof.Claims.ReadSystemRegister ∧ Sys2Proof.Claims.WriteSystemRegister

/-- trapi enters the handler; eret returns to TRAPPC, or reloads a pre-empted thread from its block (the wait and the
re-sending: logs 55 and 64). -/
def Obligations.TrapReturns : Prop := Sys2Proof.Claims.SoftwareTrapAndReturn ∧ Sys2Proof.Claims.PreemptReturn

/-- fence and halt hold their thread as their rules say; a yield ends also when a slot it waits for empties, the model's
choice (log 72). -/
def Obligations.HeldThreads : Prop := Sys2Proof.Claims.FenceYieldHalt ∧ Sys2Proof.Claims.YieldReleases

/-- Plain loads: elements fall into groups by block, each group is one request, and regset reads its registers so. -/
def Obligations.PlainLoads : Prop :=
  Sys2Proof.Claims.GroupsPartition ∧
  Sys2Proof.Claims.LoadsIssue ∧
  Sys2Proof.Claims.RegisterSetIssue

/-- Stores, atomics and stamped accesses issue their requests or trap, and change no memory yet. -/
def Obligations.StoresIssue : Prop := Sys2Proof.Claims.StoresIssue ∧ Sys2Proof.Claims.AtomicsIssue ∧ Sys2Proof.Claims.StampedIssue

/-- The checks of an access and the levels of a page walk (bit 61 of a pointer entry and where walks are held: logs 24
and 13). -/
def Obligations.Translation : Prop := Sys2Proof.Claims.AccessChecks ∧ Sys2Proof.Claims.WalkLevels

/-- Requests leave their send lists and are delivered in order. -/
def Obligations.RequestsTravel : Prop := Sys2Proof.Claims.SendRules ∧ Sys2Proof.Claims.DeliverRule

/-- What a stamped load and a stamped store do at their home: data, stamp, writer, monitor entries and answers. -/
def Obligations.StampedPerforms : Prop := Sys2Proof.Claims.StampedLoadPerform ∧ Sys2Proof.Claims.StampedStorePerform

/-- Answers reach their threads: acknowledgements, values, blocks, traps, retries and regress notices. -/
def Obligations.RespondRules : Prop := Sys2Proof.Claims.RespondRules ∧ Sys2Proof.Claims.RegressNotices

/-- Free slots take launched threads, and the slot arbiter gives slots their owners. -/
def Obligations.SlotsFill : Prop := Sys2Proof.Claims.LaunchFills ∧ Sys2Proof.Claims.SlotArbiters

/-- Stop notices leave, are deferred or applied once per plinth die, clear held-away marks, and are cleared (who defers:
log 59; a clear that waits: log 23). -/
def Obligations.StopNotices : Prop := Sys2Proof.Claims.StopNotices ∧ Sys2Proof.Claims.NoticesApplied

/-- Words without effect advance only the flow; end frees its slot. -/
def Obligations.QuietWords : Prop := Sys2Proof.Claims.WordsWithoutEffect ∧ Sys2Proof.Claims.EndWord

/-- link, alloc, free and push: traps, waits, effects (a link's page trap names its port, log 28; its checks before
HOD_FULL are the model's order). -/
def Obligations.NetWords : Prop :=
  Sys2Proof.Claims.LinkWord ∧
  Sys2Proof.Claims.AllocWord ∧
  Sys2Proof.Claims.FreeWord ∧
  Sys2Proof.Claims.PushWord

/-- The steps of links and splices at the ports of a net (where a step acts, waits and fails: logs 20, 68, 73 and 75). -/
def Obligations.LinkUnit : Prop :=
  Sys2Proof.Claims.StepsMeet ∧
  Sys2Proof.Claims.PartiesGo ∧
  Sys2Proof.Claims.PartyWrites ∧
  Sys2Proof.Claims.LinkSteps ∧
  Sys2Proof.Claims.MeetSteps ∧
  Sys2Proof.Claims.SpliceSteps ∧
  Sys2Proof.Claims.ViciousCircles

/-- The built-in rewrites: their conditions, new nodes and links, how they begin and end (logs 50, 51 and 73: the
model's steps and what is given back). -/
def Obligations.Rewrites : Prop :=
  Sys2Proof.Claims.RewritePlans ∧
  Sys2Proof.Claims.RewriteSteps ∧
  Sys2Proof.Claims.RewritesGiveBack

/-- Rules are written and invalidated; the dispatcher chooses records and starts them, or hands them to the rewrite unit
(logs 83, 88, 89, 90). -/
def Obligations.Dispatching : Prop :=
  Sys2Proof.Claims.RuleWrites ∧
  Sys2Proof.Claims.RecordChoice ∧
  Sys2Proof.Claims.DispatchCalls ∧
  Sys2Proof.Claims.DispatchActions

/-- Quarry batches (more than a stack holds: log 87), drain wakes, and twait. -/
def Obligations.DrainsAndBatches : Prop :=
  Sys2Proof.Claims.QuarryBatches ∧
  Sys2Proof.Claims.DrainWakes ∧
  Sys2Proof.Claims.TileWaits

/-- Images read as loads, and the words that load descriptors and tables from them (issued again with the image: log
17). -/
def Obligations.ImageWords : Prop := Sys2Proof.Claims.ImagesRead ∧ Sys2Proof.Claims.DescriptorLoads ∧ Sys2Proof.Claims.TableLoads

/-- Each engine operation: its checks, faults, reads, answers, writes and end, and the values of the solver and of tcnv
(logs 14, 67, 92). -/
def Obligations.OperationSteps : Prop :=
  Sys2Proof.Claims.OperationChecks ∧
  Sys2Proof.Claims.OperationEffects ∧
  Sys2Proof.Claims.EngineReads ∧
  Sys2Proof.Claims.EngineAnswers ∧
  Sys2Proof.Claims.SolverRounds ∧
  Sys2Proof.Claims.SolverFactors ∧
  Sys2Proof.Claims.SolverSolves ∧
  Sys2Proof.Claims.ConvertedElements ∧
  Sys2Proof.Claims.OperationsEnd ∧
  Sys2Proof.Claims.TilesWritten

/-- A product changes exactly the accumulator elements inside its extent, each by one rounded sum of its operands'
products, with its indications. -/
def Obligations.ProductElements : Prop :=
  Sys2Proof.Claims.SumsRoundOnce ∧
  Sys2Proof.Claims.ProductElements ∧
  Sys2Proof.Claims.ProductOperands

/-- The injection clock, the words that query the ring, and each lap after the last at the grade that power allows; a
switch (logs 29 and 94). -/
def Obligations.RingTime : Prop :=
  Sys2Proof.Claims.RingClock ∧
  Sys2Proof.Claims.RingQueries ∧
  Sys2Proof.Claims.GradeChoice ∧
  Sys2Proof.Claims.LapBoundaries ∧
  Sys2Proof.Claims.BypassesTake

/-- board and unboard: the handle they leave; how a boarding is resolved, re-boarded and released (a list that no longer
translates: log 93). -/
def Obligations.Boardings : Prop :=
  Sys2Proof.Claims.BoardWords ∧
  Sys2Proof.Claims.BoardedPart ∧
  Sys2Proof.Claims.BoardingResolves ∧
  Sys2Proof.Claims.HandleEvents

/-- Segments are injected, tapped (the lowest lane of those that pass in one cycle) and forwarded. -/
def Obligations.RingSegments : Prop :=
  Sys2Proof.Claims.SegmentsInject ∧
  Sys2Proof.Claims.SegmentsPass ∧
  Sys2Proof.Claims.LowestLaneTaps

/-- Ring and group commands end with the status of the first check that fails (logs 25, 29 and 37: an unreadable image,
a start, the order). -/
def Obligations.RingCommands : Prop := Sys2Proof.Claims.RingCommands ∧ Sys2Proof.Claims.ProgramsAccepted

/-- Pair records are classified, placed in a hod, a partition or held, and moved between them. -/
def Obligations.PairRecords : Prop :=
  Sys2Proof.Claims.RecordsClassify ∧
  Sys2Proof.Claims.RecordsPlaced ∧
  Sys2Proof.Claims.SpillPartitions

/-- Aging, stealing, balancing, and the waves that detect quiescence (when the interrupt is raised: log 27; what is
balanced: log 52). -/
def Obligations.Hods : Prop := Sys2Proof.Claims.HodsChange ∧ Sys2Proof.Claims.Balancing ∧ Sys2Proof.Claims.QuiescenceWaves

/-- mig and the steps of a migration (a slot that a launch record names takes no packet: log 80; a notice before the
acceptance: log 84). -/
def Obligations.Migrating : Prop := Sys2Proof.Claims.MigrateWord ∧ Sys2Proof.Claims.Migrations

/-- Keystone lanes: what a contribution enters, how lanes combine, and the one rounded result. -/
def Obligations.KeystoneValues : Prop := Sys2Proof.Claims.KeystoneEntry ∧ Sys2Proof.Claims.KeystoneResult

/-- reds contributions are taken in order, wait for their slot, and gather up the tree (issue order: log 48; a message
that waits: log 91). -/
def Obligations.ContributionsRise : Prop := Sys2Proof.Claims.ContributionsSend ∧ Sys2Proof.Claims.KeystonesGather

/-- The root rounds, writes every member's block, and completes every member's reds (one store a cycle: log 38; an
absent block: log 39). -/
def Obligations.ResultsFall : Prop := Sys2Proof.Claims.RootRounds ∧ Sys2Proof.Claims.ResultsReturn

/-- The watchdog, group images and their rebuilding (log 77), and the frames between packages (log 78). -/
def Obligations.GroupsAndTransport : Prop :=
  Sys2Proof.Claims.WatchdogReports ∧
  Sys2Proof.Claims.GroupImages ∧
  Sys2Proof.Claims.GroupsRebuild ∧
  Sys2Proof.Claims.TransportFrames ∧
  Sys2Proof.Claims.FramesSend

/-- The host's intake window, memory aperture and stamp view (a write that meets a STAMPED block, bad nodes, a page
newly mapped: logs 15, 16, 34). -/
def Obligations.HostAccesses : Prop := Sys2Proof.Claims.IntakeWindow ∧ Sys2Proof.Claims.HostAperture

/-- Power, walks, shootdowns, start-up, attestation, routes and failed dies (logs 13, 43, 44, 45 and 79). -/
def Obligations.PackageEvents : Prop :=
  Sys2Proof.Claims.PowerAndWalks ∧
  Sys2Proof.Claims.StartsAndReports ∧
  Sys2Proof.Claims.RoutesAndFailures

/-- crset replaces a course entry on every lamp die (its image as loads: log 17; two at once: log 65); svc raises its
event. -/
def Obligations.SystemWords : Prop := Sys2Proof.Claims.CourseEntries ∧ Sys2Proof.Claims.ServiceWord

/-- Debug halts, save blocks, pre-emption and restoring (order of checks, owner, status 4, handler address: logs 37, 57,
86, 81). -/
def Obligations.Preemption : Prop :=
  Sys2Proof.Claims.DebugHalts ∧
  Sys2Proof.Claims.SaveBlockLayout ∧
  Sys2Proof.Claims.PreemptionSaves ∧
  Sys2Proof.Claims.SwitchingCommands

/-- The context commands and the inbound log (areas, waits, stamps, DESTROY, LAUNCH, order: the model's, logs 32 to 37). -/
def Obligations.Residency : Prop := Sys2Proof.Claims.ContextCommands ∧ Sys2Proof.Claims.LogAppends

/-- A word that decodes is well formed and is the encoding of what it decodes to; guard 1000 is rejected. -/
def Obligations.OneMeaning : Prop := Sys2Proof.Claims.OneMeaning ∧ Sys2Proof.Claims.GuardNever

/-- A step runs the decoded word at the program counter, with what the step adds around it (the model's: logs 1, 13, 19,
41, 61). -/
def Obligations.StepRunsWords : Prop := Sys2Proof.Claims.StepRunsWords ∧ Sys2Proof.Claims.ResultsLand

/-- What reset leaves, every register of BAR0 by name, and the hard-wired registers (unlisted memory reads 0: the
model's choice, log 3). -/
def Obligations.ResetState : Prop := Sys2Proof.Claims.ResetState ∧ Sys2Proof.Claims.HardwiredRegisters

end
end

