-- ==== Sys2Proof/Laws/State.lean ====
section
/-! SUPPORT. What each named update of the state leaves: one lemma for each field of each update, true by definition; and
the same for the writes of a thread's registers. -/

set_option Elab.async false

namespace Sys2Proof.Machine

@[simp] theorem State.setSlot_cycle (s : State) (p : Place) (x : Slot) : (s.setSlot p x).cycle = s.cycle := rfl
@[simp] theorem State.setSlot_cur (s : State) (p : Place) (x : Slot) : (s.setSlot p x).cur = s.cur := rfl
@[simp] theorem State.setSlot_cores (s : State) (p : Place) (x : Slot) : (s.setSlot p x).cores = s.cores := rfl
@[simp] theorem State.setSlot_dies (s : State) (p : Place) (x : Slot) : (s.setSlot p x).dies = s.dies := rfl
@[simp] theorem State.setSlot_mem (s : State) (p : Place) (x : Slot) : (s.setSlot p x).mem = s.mem := rfl
@[simp] theorem State.setSlot_side (s : State) (p : Place) (x : Slot) : (s.setSlot p x).side = s.side := rfl
@[simp] theorem State.setSlot_errors (s : State) (p : Place) (x : Slot) : (s.setSlot p x).errors = s.errors := rfl
@[simp] theorem State.setSlot_stepped (s : State) (p : Place) (x : Slot) : (s.setSlot p x).stepped = s.stepped := rfl
@[simp] theorem State.setSlot_sends (s : State) (p : Place) (x : Slot) : (s.setSlot p x).sends = s.sends := rfl
@[simp] theorem State.setSlot_chans (s : State) (p : Place) (x : Slot) : (s.setSlot p x).chans = s.chans := rfl
@[simp] theorem State.setSlot_arrivals (s : State) (p : Place) (x : Slot) : (s.setSlot p x).arrivals = s.arrivals := rfl
@[simp] theorem State.setSlot_resps (s : State) (p : Place) (x : Slot) : (s.setSlot p x).resps = s.resps := rfl
@[simp] theorem State.setSlot_logged (s : State) (p : Place) (x : Slot) : (s.setSlot p x).logged = s.logged := rfl
@[simp] theorem State.setSlot_outs (s : State) (p : Place) (x : Slot) : (s.setSlot p x).outs = s.outs := rfl
@[simp] theorem State.setSlot_ops (s : State) (p : Place) (x : Slot) : (s.setSlot p x).ops = s.ops := rfl
@[simp] theorem State.setSlot_accs (s : State) (p : Place) (x : Slot) : (s.setSlot p x).accs = s.accs := rfl
@[simp] theorem State.setSlot_fresh (s : State) (p : Place) (x : Slot) : (s.setSlot p x).fresh = s.fresh := rfl
@[simp] theorem State.setSlot_spilling (s : State) (p : Place) (x : Slot) : (s.setSlot p x).spilling = s.spilling := rfl
@[simp] theorem State.setSlot_batches (s : State) (p : Place) (x : Slot) : (s.setSlot p x).batches = s.batches := rfl
@[simp] theorem State.setSlot_lastWave (s : State) (p : Place) (x : Slot) : (s.setSlot p x).lastWave = s.lastWave := rfl
@[simp] theorem State.setSlot_stopped (s : State) (p : Place) (x : Slot) : (s.setSlot p x).stopped = s.stopped := rfl
@[simp] theorem State.setSlot_notices (s : State) (p : Place) (x : Slot) : (s.setSlot p x).notices = s.notices := rfl
@[simp] theorem State.setSlot_redMsgs (s : State) (p : Place) (x : Slot) : (s.setSlot p x).redMsgs = s.redMsgs := rfl
@[simp] theorem State.setSlot_saving (s : State) (p : Place) (x : Slot) : (s.setSlot p x).saving = s.saving := rfl
@[simp] theorem State.setSlot_launches (s : State) (p : Place) (x : Slot) : (s.setSlot p x).launches = s.launches := rfl
@[simp] theorem State.setSlot_ctxs (s : State) (p : Place) (x : Slot) : (s.setSlot p x).ctxs = s.ctxs := rfl
@[simp] theorem State.setSlot_groups (s : State) (p : Place) (x : Slot) : (s.setSlot p x).groups = s.groups := rfl
@[simp] theorem State.setSlot_ring (s : State) (p : Place) (x : Slot) : (s.setSlot p x).ring = s.ring := rfl
@[simp] theorem State.setSlot_bar0 (s : State) (p : Place) (x : Slot) : (s.setSlot p x).bar0 = s.bar0 := rfl
@[simp] theorem State.setSlot_fuses (s : State) (p : Place) (x : Slot) : (s.setSlot p x).fuses = s.fuses := rfl
@[simp] theorem State.setSlot_recovery (s : State) (p : Place) (x : Slot) : (s.setSlot p x).recovery = s.recovery := rfl
@[simp] theorem State.setSlot_linksDown (s : State) (p : Place) (x : Slot) : (s.setSlot p x).linksDown = s.linksDown := rfl
@[simp] theorem State.setSlot_firmware (s : State) (p : Place) (x : Slot) : (s.setSlot p x).firmware = s.firmware := rfl
@[simp] theorem State.setSlot_intake (s : State) (p : Place) (x : Slot) : (s.setSlot p x).intake = s.intake := rfl
@[simp] theorem State.setSlot_hostRead (s : State) (p : Place) (x : Slot) : (s.setSlot p x).hostRead = s.hostRead := rfl
@[simp] theorem State.setSlot_ports (s : State) (p : Place) (x : Slot) : (s.setSlot p x).ports = s.ports := rfl
@[simp] theorem State.setSlot_packages (s : State) (p : Place) (x : Slot) : (s.setSlot p x).packages = s.packages := rfl
@[simp] theorem State.setSlot_etherType (s : State) (p : Place) (x : Slot) : (s.setSlot p x).etherType = s.etherType := rfl
@[simp] theorem State.setSlot_frames (s : State) (p : Place) (x : Slot) : (s.setSlot p x).frames = s.frames := rfl
@[simp] theorem State.setSlot_watchdog (s : State) (p : Place) (x : Slot) : (s.setSlot p x).watchdog = s.watchdog := rfl
@[simp] theorem State.setSlot_mgmt (s : State) (p : Place) (x : Slot) : (s.setSlot p x).mgmt = s.mgmt := rfl
@[simp] theorem State.setSlot_nextId (s : State) (p : Place) (x : Slot) : (s.setSlot p x).nextId = s.nextId := rfl
@[simp] theorem State.setSlot_freeCtr (s : State) (p : Place) (x : Slot) : (s.setSlot p x).freeCtr = s.freeCtr := rfl
@[simp] theorem State.setSlot_agenda (s : State) (p : Place) (x : Slot) : (s.setSlot p x).agenda = s.agenda := rfl

@[simp] theorem State.setThread_cycle (s : State) (p : Place) (t : Thread) : (s.setThread p t).cycle = s.cycle := rfl
@[simp] theorem State.setThread_cur (s : State) (p : Place) (t : Thread) : (s.setThread p t).cur = s.cur := rfl
@[simp] theorem State.setThread_cores (s : State) (p : Place) (t : Thread) : (s.setThread p t).cores = s.cores := rfl
@[simp] theorem State.setThread_dies (s : State) (p : Place) (t : Thread) : (s.setThread p t).dies = s.dies := rfl
@[simp] theorem State.setThread_mem (s : State) (p : Place) (t : Thread) : (s.setThread p t).mem = s.mem := rfl
@[simp] theorem State.setThread_side (s : State) (p : Place) (t : Thread) : (s.setThread p t).side = s.side := rfl
@[simp] theorem State.setThread_errors (s : State) (p : Place) (t : Thread) : (s.setThread p t).errors = s.errors := rfl
@[simp] theorem State.setThread_stepped (s : State) (p : Place) (t : Thread) : (s.setThread p t).stepped = s.stepped := rfl
@[simp] theorem State.setThread_sends (s : State) (p : Place) (t : Thread) : (s.setThread p t).sends = s.sends := rfl
@[simp] theorem State.setThread_chans (s : State) (p : Place) (t : Thread) : (s.setThread p t).chans = s.chans := rfl
@[simp] theorem State.setThread_arrivals (s : State) (p : Place) (t : Thread) : (s.setThread p t).arrivals = s.arrivals := rfl
@[simp] theorem State.setThread_resps (s : State) (p : Place) (t : Thread) : (s.setThread p t).resps = s.resps := rfl
@[simp] theorem State.setThread_logged (s : State) (p : Place) (t : Thread) : (s.setThread p t).logged = s.logged := rfl
@[simp] theorem State.setThread_outs (s : State) (p : Place) (t : Thread) : (s.setThread p t).outs = s.outs := rfl
@[simp] theorem State.setThread_ops (s : State) (p : Place) (t : Thread) : (s.setThread p t).ops = s.ops := rfl
@[simp] theorem State.setThread_accs (s : State) (p : Place) (t : Thread) : (s.setThread p t).accs = s.accs := rfl
@[simp] theorem State.setThread_fresh (s : State) (p : Place) (t : Thread) : (s.setThread p t).fresh = s.fresh := rfl
@[simp] theorem State.setThread_spilling (s : State) (p : Place) (t : Thread) : (s.setThread p t).spilling = s.spilling := rfl
@[simp] theorem State.setThread_batches (s : State) (p : Place) (t : Thread) : (s.setThread p t).batches = s.batches := rfl
@[simp] theorem State.setThread_lastWave (s : State) (p : Place) (t : Thread) : (s.setThread p t).lastWave = s.lastWave := rfl
@[simp] theorem State.setThread_stopped (s : State) (p : Place) (t : Thread) : (s.setThread p t).stopped = s.stopped := rfl
@[simp] theorem State.setThread_notices (s : State) (p : Place) (t : Thread) : (s.setThread p t).notices = s.notices := rfl
@[simp] theorem State.setThread_redMsgs (s : State) (p : Place) (t : Thread) : (s.setThread p t).redMsgs = s.redMsgs := rfl
@[simp] theorem State.setThread_saving (s : State) (p : Place) (t : Thread) : (s.setThread p t).saving = s.saving := rfl
@[simp] theorem State.setThread_launches (s : State) (p : Place) (t : Thread) : (s.setThread p t).launches = s.launches := rfl
@[simp] theorem State.setThread_ctxs (s : State) (p : Place) (t : Thread) : (s.setThread p t).ctxs = s.ctxs := rfl
@[simp] theorem State.setThread_groups (s : State) (p : Place) (t : Thread) : (s.setThread p t).groups = s.groups := rfl
@[simp] theorem State.setThread_ring (s : State) (p : Place) (t : Thread) : (s.setThread p t).ring = s.ring := rfl
@[simp] theorem State.setThread_bar0 (s : State) (p : Place) (t : Thread) : (s.setThread p t).bar0 = s.bar0 := rfl
@[simp] theorem State.setThread_fuses (s : State) (p : Place) (t : Thread) : (s.setThread p t).fuses = s.fuses := rfl
@[simp] theorem State.setThread_recovery (s : State) (p : Place) (t : Thread) : (s.setThread p t).recovery = s.recovery := rfl
@[simp] theorem State.setThread_linksDown (s : State) (p : Place) (t : Thread) : (s.setThread p t).linksDown = s.linksDown := rfl
@[simp] theorem State.setThread_firmware (s : State) (p : Place) (t : Thread) : (s.setThread p t).firmware = s.firmware := rfl
@[simp] theorem State.setThread_intake (s : State) (p : Place) (t : Thread) : (s.setThread p t).intake = s.intake := rfl
@[simp] theorem State.setThread_hostRead (s : State) (p : Place) (t : Thread) : (s.setThread p t).hostRead = s.hostRead := rfl
@[simp] theorem State.setThread_ports (s : State) (p : Place) (t : Thread) : (s.setThread p t).ports = s.ports := rfl
@[simp] theorem State.setThread_packages (s : State) (p : Place) (t : Thread) : (s.setThread p t).packages = s.packages := rfl
@[simp] theorem State.setThread_etherType (s : State) (p : Place) (t : Thread) : (s.setThread p t).etherType = s.etherType := rfl
@[simp] theorem State.setThread_frames (s : State) (p : Place) (t : Thread) : (s.setThread p t).frames = s.frames := rfl
@[simp] theorem State.setThread_watchdog (s : State) (p : Place) (t : Thread) : (s.setThread p t).watchdog = s.watchdog := rfl
@[simp] theorem State.setThread_mgmt (s : State) (p : Place) (t : Thread) : (s.setThread p t).mgmt = s.mgmt := rfl
@[simp] theorem State.setThread_nextId (s : State) (p : Place) (t : Thread) : (s.setThread p t).nextId = s.nextId := rfl
@[simp] theorem State.setThread_freeCtr (s : State) (p : Place) (t : Thread) : (s.setThread p t).freeCtr = s.freeCtr := rfl
@[simp] theorem State.setThread_agenda (s : State) (p : Place) (t : Thread) : (s.setThread p t).agenda = s.agenda := rfl

@[simp] theorem State.setCore_cycle (s : State) (d c : Nat) (x : Core) : (s.setCore d c x).cycle = s.cycle := rfl
@[simp] theorem State.setCore_cur (s : State) (d c : Nat) (x : Core) : (s.setCore d c x).cur = s.cur := rfl
@[simp] theorem State.setCore_slots (s : State) (d c : Nat) (x : Core) : (s.setCore d c x).slots = s.slots := rfl
@[simp] theorem State.setCore_dies (s : State) (d c : Nat) (x : Core) : (s.setCore d c x).dies = s.dies := rfl
@[simp] theorem State.setCore_mem (s : State) (d c : Nat) (x : Core) : (s.setCore d c x).mem = s.mem := rfl
@[simp] theorem State.setCore_side (s : State) (d c : Nat) (x : Core) : (s.setCore d c x).side = s.side := rfl
@[simp] theorem State.setCore_errors (s : State) (d c : Nat) (x : Core) : (s.setCore d c x).errors = s.errors := rfl
@[simp] theorem State.setCore_stepped (s : State) (d c : Nat) (x : Core) : (s.setCore d c x).stepped = s.stepped := rfl
@[simp] theorem State.setCore_sends (s : State) (d c : Nat) (x : Core) : (s.setCore d c x).sends = s.sends := rfl
@[simp] theorem State.setCore_chans (s : State) (d c : Nat) (x : Core) : (s.setCore d c x).chans = s.chans := rfl
@[simp] theorem State.setCore_arrivals (s : State) (d c : Nat) (x : Core) : (s.setCore d c x).arrivals = s.arrivals := rfl
@[simp] theorem State.setCore_resps (s : State) (d c : Nat) (x : Core) : (s.setCore d c x).resps = s.resps := rfl
@[simp] theorem State.setCore_logged (s : State) (d c : Nat) (x : Core) : (s.setCore d c x).logged = s.logged := rfl
@[simp] theorem State.setCore_outs (s : State) (d c : Nat) (x : Core) : (s.setCore d c x).outs = s.outs := rfl
@[simp] theorem State.setCore_ops (s : State) (d c : Nat) (x : Core) : (s.setCore d c x).ops = s.ops := rfl
@[simp] theorem State.setCore_accs (s : State) (d c : Nat) (x : Core) : (s.setCore d c x).accs = s.accs := rfl
@[simp] theorem State.setCore_fresh (s : State) (d c : Nat) (x : Core) : (s.setCore d c x).fresh = s.fresh := rfl
@[simp] theorem State.setCore_spilling (s : State) (d c : Nat) (x : Core) : (s.setCore d c x).spilling = s.spilling := rfl
@[simp] theorem State.setCore_batches (s : State) (d c : Nat) (x : Core) : (s.setCore d c x).batches = s.batches := rfl
@[simp] theorem State.setCore_lastWave (s : State) (d c : Nat) (x : Core) : (s.setCore d c x).lastWave = s.lastWave := rfl
@[simp] theorem State.setCore_stopped (s : State) (d c : Nat) (x : Core) : (s.setCore d c x).stopped = s.stopped := rfl
@[simp] theorem State.setCore_notices (s : State) (d c : Nat) (x : Core) : (s.setCore d c x).notices = s.notices := rfl
@[simp] theorem State.setCore_redMsgs (s : State) (d c : Nat) (x : Core) : (s.setCore d c x).redMsgs = s.redMsgs := rfl
@[simp] theorem State.setCore_saving (s : State) (d c : Nat) (x : Core) : (s.setCore d c x).saving = s.saving := rfl
@[simp] theorem State.setCore_launches (s : State) (d c : Nat) (x : Core) : (s.setCore d c x).launches = s.launches := rfl
@[simp] theorem State.setCore_ctxs (s : State) (d c : Nat) (x : Core) : (s.setCore d c x).ctxs = s.ctxs := rfl
@[simp] theorem State.setCore_groups (s : State) (d c : Nat) (x : Core) : (s.setCore d c x).groups = s.groups := rfl
@[simp] theorem State.setCore_ring (s : State) (d c : Nat) (x : Core) : (s.setCore d c x).ring = s.ring := rfl
@[simp] theorem State.setCore_bar0 (s : State) (d c : Nat) (x : Core) : (s.setCore d c x).bar0 = s.bar0 := rfl
@[simp] theorem State.setCore_fuses (s : State) (d c : Nat) (x : Core) : (s.setCore d c x).fuses = s.fuses := rfl
@[simp] theorem State.setCore_recovery (s : State) (d c : Nat) (x : Core) : (s.setCore d c x).recovery = s.recovery := rfl
@[simp] theorem State.setCore_linksDown (s : State) (d c : Nat) (x : Core) : (s.setCore d c x).linksDown = s.linksDown := rfl
@[simp] theorem State.setCore_firmware (s : State) (d c : Nat) (x : Core) : (s.setCore d c x).firmware = s.firmware := rfl
@[simp] theorem State.setCore_intake (s : State) (d c : Nat) (x : Core) : (s.setCore d c x).intake = s.intake := rfl
@[simp] theorem State.setCore_hostRead (s : State) (d c : Nat) (x : Core) : (s.setCore d c x).hostRead = s.hostRead := rfl
@[simp] theorem State.setCore_ports (s : State) (d c : Nat) (x : Core) : (s.setCore d c x).ports = s.ports := rfl
@[simp] theorem State.setCore_packages (s : State) (d c : Nat) (x : Core) : (s.setCore d c x).packages = s.packages := rfl
@[simp] theorem State.setCore_etherType (s : State) (d c : Nat) (x : Core) : (s.setCore d c x).etherType = s.etherType := rfl
@[simp] theorem State.setCore_frames (s : State) (d c : Nat) (x : Core) : (s.setCore d c x).frames = s.frames := rfl
@[simp] theorem State.setCore_watchdog (s : State) (d c : Nat) (x : Core) : (s.setCore d c x).watchdog = s.watchdog := rfl
@[simp] theorem State.setCore_mgmt (s : State) (d c : Nat) (x : Core) : (s.setCore d c x).mgmt = s.mgmt := rfl
@[simp] theorem State.setCore_nextId (s : State) (d c : Nat) (x : Core) : (s.setCore d c x).nextId = s.nextId := rfl
@[simp] theorem State.setCore_freeCtr (s : State) (d c : Nat) (x : Core) : (s.setCore d c x).freeCtr = s.freeCtr := rfl
@[simp] theorem State.setCore_agenda (s : State) (d c : Nat) (x : Core) : (s.setCore d c x).agenda = s.agenda := rfl

@[simp] theorem State.modCore_cycle (s : State) (d c : Nat) (f : Core → Core) : (s.modCore d c f).cycle = s.cycle := rfl
@[simp] theorem State.modCore_cur (s : State) (d c : Nat) (f : Core → Core) : (s.modCore d c f).cur = s.cur := rfl
@[simp] theorem State.modCore_slots (s : State) (d c : Nat) (f : Core → Core) : (s.modCore d c f).slots = s.slots := rfl
@[simp] theorem State.modCore_dies (s : State) (d c : Nat) (f : Core → Core) : (s.modCore d c f).dies = s.dies := rfl
@[simp] theorem State.modCore_mem (s : State) (d c : Nat) (f : Core → Core) : (s.modCore d c f).mem = s.mem := rfl
@[simp] theorem State.modCore_side (s : State) (d c : Nat) (f : Core → Core) : (s.modCore d c f).side = s.side := rfl
@[simp] theorem State.modCore_errors (s : State) (d c : Nat) (f : Core → Core) : (s.modCore d c f).errors = s.errors := rfl
@[simp] theorem State.modCore_stepped (s : State) (d c : Nat) (f : Core → Core) : (s.modCore d c f).stepped = s.stepped := rfl
@[simp] theorem State.modCore_sends (s : State) (d c : Nat) (f : Core → Core) : (s.modCore d c f).sends = s.sends := rfl
@[simp] theorem State.modCore_chans (s : State) (d c : Nat) (f : Core → Core) : (s.modCore d c f).chans = s.chans := rfl
@[simp] theorem State.modCore_arrivals (s : State) (d c : Nat) (f : Core → Core) : (s.modCore d c f).arrivals = s.arrivals := rfl
@[simp] theorem State.modCore_resps (s : State) (d c : Nat) (f : Core → Core) : (s.modCore d c f).resps = s.resps := rfl
@[simp] theorem State.modCore_logged (s : State) (d c : Nat) (f : Core → Core) : (s.modCore d c f).logged = s.logged := rfl
@[simp] theorem State.modCore_outs (s : State) (d c : Nat) (f : Core → Core) : (s.modCore d c f).outs = s.outs := rfl
@[simp] theorem State.modCore_ops (s : State) (d c : Nat) (f : Core → Core) : (s.modCore d c f).ops = s.ops := rfl
@[simp] theorem State.modCore_accs (s : State) (d c : Nat) (f : Core → Core) : (s.modCore d c f).accs = s.accs := rfl
@[simp] theorem State.modCore_fresh (s : State) (d c : Nat) (f : Core → Core) : (s.modCore d c f).fresh = s.fresh := rfl
@[simp] theorem State.modCore_spilling (s : State) (d c : Nat) (f : Core → Core) : (s.modCore d c f).spilling = s.spilling := rfl
@[simp] theorem State.modCore_batches (s : State) (d c : Nat) (f : Core → Core) : (s.modCore d c f).batches = s.batches := rfl
@[simp] theorem State.modCore_lastWave (s : State) (d c : Nat) (f : Core → Core) : (s.modCore d c f).lastWave = s.lastWave := rfl
@[simp] theorem State.modCore_stopped (s : State) (d c : Nat) (f : Core → Core) : (s.modCore d c f).stopped = s.stopped := rfl
@[simp] theorem State.modCore_notices (s : State) (d c : Nat) (f : Core → Core) : (s.modCore d c f).notices = s.notices := rfl
@[simp] theorem State.modCore_redMsgs (s : State) (d c : Nat) (f : Core → Core) : (s.modCore d c f).redMsgs = s.redMsgs := rfl
@[simp] theorem State.modCore_saving (s : State) (d c : Nat) (f : Core → Core) : (s.modCore d c f).saving = s.saving := rfl
@[simp] theorem State.modCore_launches (s : State) (d c : Nat) (f : Core → Core) : (s.modCore d c f).launches = s.launches := rfl
@[simp] theorem State.modCore_ctxs (s : State) (d c : Nat) (f : Core → Core) : (s.modCore d c f).ctxs = s.ctxs := rfl
@[simp] theorem State.modCore_groups (s : State) (d c : Nat) (f : Core → Core) : (s.modCore d c f).groups = s.groups := rfl
@[simp] theorem State.modCore_ring (s : State) (d c : Nat) (f : Core → Core) : (s.modCore d c f).ring = s.ring := rfl
@[simp] theorem State.modCore_bar0 (s : State) (d c : Nat) (f : Core → Core) : (s.modCore d c f).bar0 = s.bar0 := rfl
@[simp] theorem State.modCore_fuses (s : State) (d c : Nat) (f : Core → Core) : (s.modCore d c f).fuses = s.fuses := rfl
@[simp] theorem State.modCore_recovery (s : State) (d c : Nat) (f : Core → Core) : (s.modCore d c f).recovery = s.recovery := rfl
@[simp] theorem State.modCore_linksDown (s : State) (d c : Nat) (f : Core → Core) : (s.modCore d c f).linksDown = s.linksDown := rfl
@[simp] theorem State.modCore_firmware (s : State) (d c : Nat) (f : Core → Core) : (s.modCore d c f).firmware = s.firmware := rfl
@[simp] theorem State.modCore_intake (s : State) (d c : Nat) (f : Core → Core) : (s.modCore d c f).intake = s.intake := rfl
@[simp] theorem State.modCore_hostRead (s : State) (d c : Nat) (f : Core → Core) : (s.modCore d c f).hostRead = s.hostRead := rfl
@[simp] theorem State.modCore_ports (s : State) (d c : Nat) (f : Core → Core) : (s.modCore d c f).ports = s.ports := rfl
@[simp] theorem State.modCore_packages (s : State) (d c : Nat) (f : Core → Core) : (s.modCore d c f).packages = s.packages := rfl
@[simp] theorem State.modCore_etherType (s : State) (d c : Nat) (f : Core → Core) : (s.modCore d c f).etherType = s.etherType := rfl
@[simp] theorem State.modCore_frames (s : State) (d c : Nat) (f : Core → Core) : (s.modCore d c f).frames = s.frames := rfl
@[simp] theorem State.modCore_watchdog (s : State) (d c : Nat) (f : Core → Core) : (s.modCore d c f).watchdog = s.watchdog := rfl
@[simp] theorem State.modCore_mgmt (s : State) (d c : Nat) (f : Core → Core) : (s.modCore d c f).mgmt = s.mgmt := rfl
@[simp] theorem State.modCore_nextId (s : State) (d c : Nat) (f : Core → Core) : (s.modCore d c f).nextId = s.nextId := rfl
@[simp] theorem State.modCore_freeCtr (s : State) (d c : Nat) (f : Core → Core) : (s.modCore d c f).freeCtr = s.freeCtr := rfl
@[simp] theorem State.modCore_agenda (s : State) (d c : Nat) (f : Core → Core) : (s.modCore d c f).agenda = s.agenda := rfl

@[simp] theorem State.setDie_cycle (s : State) (d : Nat) (x : Die) : (s.setDie d x).cycle = s.cycle := rfl
@[simp] theorem State.setDie_cur (s : State) (d : Nat) (x : Die) : (s.setDie d x).cur = s.cur := rfl
@[simp] theorem State.setDie_slots (s : State) (d : Nat) (x : Die) : (s.setDie d x).slots = s.slots := rfl
@[simp] theorem State.setDie_cores (s : State) (d : Nat) (x : Die) : (s.setDie d x).cores = s.cores := rfl
@[simp] theorem State.setDie_mem (s : State) (d : Nat) (x : Die) : (s.setDie d x).mem = s.mem := rfl
@[simp] theorem State.setDie_side (s : State) (d : Nat) (x : Die) : (s.setDie d x).side = s.side := rfl
@[simp] theorem State.setDie_errors (s : State) (d : Nat) (x : Die) : (s.setDie d x).errors = s.errors := rfl
@[simp] theorem State.setDie_stepped (s : State) (d : Nat) (x : Die) : (s.setDie d x).stepped = s.stepped := rfl
@[simp] theorem State.setDie_sends (s : State) (d : Nat) (x : Die) : (s.setDie d x).sends = s.sends := rfl
@[simp] theorem State.setDie_chans (s : State) (d : Nat) (x : Die) : (s.setDie d x).chans = s.chans := rfl
@[simp] theorem State.setDie_arrivals (s : State) (d : Nat) (x : Die) : (s.setDie d x).arrivals = s.arrivals := rfl
@[simp] theorem State.setDie_resps (s : State) (d : Nat) (x : Die) : (s.setDie d x).resps = s.resps := rfl
@[simp] theorem State.setDie_logged (s : State) (d : Nat) (x : Die) : (s.setDie d x).logged = s.logged := rfl
@[simp] theorem State.setDie_outs (s : State) (d : Nat) (x : Die) : (s.setDie d x).outs = s.outs := rfl
@[simp] theorem State.setDie_ops (s : State) (d : Nat) (x : Die) : (s.setDie d x).ops = s.ops := rfl
@[simp] theorem State.setDie_accs (s : State) (d : Nat) (x : Die) : (s.setDie d x).accs = s.accs := rfl
@[simp] theorem State.setDie_fresh (s : State) (d : Nat) (x : Die) : (s.setDie d x).fresh = s.fresh := rfl
@[simp] theorem State.setDie_spilling (s : State) (d : Nat) (x : Die) : (s.setDie d x).spilling = s.spilling := rfl
@[simp] theorem State.setDie_batches (s : State) (d : Nat) (x : Die) : (s.setDie d x).batches = s.batches := rfl
@[simp] theorem State.setDie_lastWave (s : State) (d : Nat) (x : Die) : (s.setDie d x).lastWave = s.lastWave := rfl
@[simp] theorem State.setDie_stopped (s : State) (d : Nat) (x : Die) : (s.setDie d x).stopped = s.stopped := rfl
@[simp] theorem State.setDie_notices (s : State) (d : Nat) (x : Die) : (s.setDie d x).notices = s.notices := rfl
@[simp] theorem State.setDie_redMsgs (s : State) (d : Nat) (x : Die) : (s.setDie d x).redMsgs = s.redMsgs := rfl
@[simp] theorem State.setDie_saving (s : State) (d : Nat) (x : Die) : (s.setDie d x).saving = s.saving := rfl
@[simp] theorem State.setDie_launches (s : State) (d : Nat) (x : Die) : (s.setDie d x).launches = s.launches := rfl
@[simp] theorem State.setDie_ctxs (s : State) (d : Nat) (x : Die) : (s.setDie d x).ctxs = s.ctxs := rfl
@[simp] theorem State.setDie_groups (s : State) (d : Nat) (x : Die) : (s.setDie d x).groups = s.groups := rfl
@[simp] theorem State.setDie_ring (s : State) (d : Nat) (x : Die) : (s.setDie d x).ring = s.ring := rfl
@[simp] theorem State.setDie_bar0 (s : State) (d : Nat) (x : Die) : (s.setDie d x).bar0 = s.bar0 := rfl
@[simp] theorem State.setDie_fuses (s : State) (d : Nat) (x : Die) : (s.setDie d x).fuses = s.fuses := rfl
@[simp] theorem State.setDie_recovery (s : State) (d : Nat) (x : Die) : (s.setDie d x).recovery = s.recovery := rfl
@[simp] theorem State.setDie_linksDown (s : State) (d : Nat) (x : Die) : (s.setDie d x).linksDown = s.linksDown := rfl
@[simp] theorem State.setDie_firmware (s : State) (d : Nat) (x : Die) : (s.setDie d x).firmware = s.firmware := rfl
@[simp] theorem State.setDie_intake (s : State) (d : Nat) (x : Die) : (s.setDie d x).intake = s.intake := rfl
@[simp] theorem State.setDie_hostRead (s : State) (d : Nat) (x : Die) : (s.setDie d x).hostRead = s.hostRead := rfl
@[simp] theorem State.setDie_ports (s : State) (d : Nat) (x : Die) : (s.setDie d x).ports = s.ports := rfl
@[simp] theorem State.setDie_packages (s : State) (d : Nat) (x : Die) : (s.setDie d x).packages = s.packages := rfl
@[simp] theorem State.setDie_etherType (s : State) (d : Nat) (x : Die) : (s.setDie d x).etherType = s.etherType := rfl
@[simp] theorem State.setDie_frames (s : State) (d : Nat) (x : Die) : (s.setDie d x).frames = s.frames := rfl
@[simp] theorem State.setDie_watchdog (s : State) (d : Nat) (x : Die) : (s.setDie d x).watchdog = s.watchdog := rfl
@[simp] theorem State.setDie_mgmt (s : State) (d : Nat) (x : Die) : (s.setDie d x).mgmt = s.mgmt := rfl
@[simp] theorem State.setDie_nextId (s : State) (d : Nat) (x : Die) : (s.setDie d x).nextId = s.nextId := rfl
@[simp] theorem State.setDie_freeCtr (s : State) (d : Nat) (x : Die) : (s.setDie d x).freeCtr = s.freeCtr := rfl
@[simp] theorem State.setDie_agenda (s : State) (d : Nat) (x : Die) : (s.setDie d x).agenda = s.agenda := rfl

@[simp] theorem State.modDie_cycle (s : State) (d : Nat) (f : Die → Die) : (s.modDie d f).cycle = s.cycle := rfl
@[simp] theorem State.modDie_cur (s : State) (d : Nat) (f : Die → Die) : (s.modDie d f).cur = s.cur := rfl
@[simp] theorem State.modDie_slots (s : State) (d : Nat) (f : Die → Die) : (s.modDie d f).slots = s.slots := rfl
@[simp] theorem State.modDie_cores (s : State) (d : Nat) (f : Die → Die) : (s.modDie d f).cores = s.cores := rfl
@[simp] theorem State.modDie_mem (s : State) (d : Nat) (f : Die → Die) : (s.modDie d f).mem = s.mem := rfl
@[simp] theorem State.modDie_side (s : State) (d : Nat) (f : Die → Die) : (s.modDie d f).side = s.side := rfl
@[simp] theorem State.modDie_errors (s : State) (d : Nat) (f : Die → Die) : (s.modDie d f).errors = s.errors := rfl
@[simp] theorem State.modDie_stepped (s : State) (d : Nat) (f : Die → Die) : (s.modDie d f).stepped = s.stepped := rfl
@[simp] theorem State.modDie_sends (s : State) (d : Nat) (f : Die → Die) : (s.modDie d f).sends = s.sends := rfl
@[simp] theorem State.modDie_chans (s : State) (d : Nat) (f : Die → Die) : (s.modDie d f).chans = s.chans := rfl
@[simp] theorem State.modDie_arrivals (s : State) (d : Nat) (f : Die → Die) : (s.modDie d f).arrivals = s.arrivals := rfl
@[simp] theorem State.modDie_resps (s : State) (d : Nat) (f : Die → Die) : (s.modDie d f).resps = s.resps := rfl
@[simp] theorem State.modDie_logged (s : State) (d : Nat) (f : Die → Die) : (s.modDie d f).logged = s.logged := rfl
@[simp] theorem State.modDie_outs (s : State) (d : Nat) (f : Die → Die) : (s.modDie d f).outs = s.outs := rfl
@[simp] theorem State.modDie_ops (s : State) (d : Nat) (f : Die → Die) : (s.modDie d f).ops = s.ops := rfl
@[simp] theorem State.modDie_accs (s : State) (d : Nat) (f : Die → Die) : (s.modDie d f).accs = s.accs := rfl
@[simp] theorem State.modDie_fresh (s : State) (d : Nat) (f : Die → Die) : (s.modDie d f).fresh = s.fresh := rfl
@[simp] theorem State.modDie_spilling (s : State) (d : Nat) (f : Die → Die) : (s.modDie d f).spilling = s.spilling := rfl
@[simp] theorem State.modDie_batches (s : State) (d : Nat) (f : Die → Die) : (s.modDie d f).batches = s.batches := rfl
@[simp] theorem State.modDie_lastWave (s : State) (d : Nat) (f : Die → Die) : (s.modDie d f).lastWave = s.lastWave := rfl
@[simp] theorem State.modDie_stopped (s : State) (d : Nat) (f : Die → Die) : (s.modDie d f).stopped = s.stopped := rfl
@[simp] theorem State.modDie_notices (s : State) (d : Nat) (f : Die → Die) : (s.modDie d f).notices = s.notices := rfl
@[simp] theorem State.modDie_redMsgs (s : State) (d : Nat) (f : Die → Die) : (s.modDie d f).redMsgs = s.redMsgs := rfl
@[simp] theorem State.modDie_saving (s : State) (d : Nat) (f : Die → Die) : (s.modDie d f).saving = s.saving := rfl
@[simp] theorem State.modDie_launches (s : State) (d : Nat) (f : Die → Die) : (s.modDie d f).launches = s.launches := rfl
@[simp] theorem State.modDie_ctxs (s : State) (d : Nat) (f : Die → Die) : (s.modDie d f).ctxs = s.ctxs := rfl
@[simp] theorem State.modDie_groups (s : State) (d : Nat) (f : Die → Die) : (s.modDie d f).groups = s.groups := rfl
@[simp] theorem State.modDie_ring (s : State) (d : Nat) (f : Die → Die) : (s.modDie d f).ring = s.ring := rfl
@[simp] theorem State.modDie_bar0 (s : State) (d : Nat) (f : Die → Die) : (s.modDie d f).bar0 = s.bar0 := rfl
@[simp] theorem State.modDie_fuses (s : State) (d : Nat) (f : Die → Die) : (s.modDie d f).fuses = s.fuses := rfl
@[simp] theorem State.modDie_recovery (s : State) (d : Nat) (f : Die → Die) : (s.modDie d f).recovery = s.recovery := rfl
@[simp] theorem State.modDie_linksDown (s : State) (d : Nat) (f : Die → Die) : (s.modDie d f).linksDown = s.linksDown := rfl
@[simp] theorem State.modDie_firmware (s : State) (d : Nat) (f : Die → Die) : (s.modDie d f).firmware = s.firmware := rfl
@[simp] theorem State.modDie_intake (s : State) (d : Nat) (f : Die → Die) : (s.modDie d f).intake = s.intake := rfl
@[simp] theorem State.modDie_hostRead (s : State) (d : Nat) (f : Die → Die) : (s.modDie d f).hostRead = s.hostRead := rfl
@[simp] theorem State.modDie_ports (s : State) (d : Nat) (f : Die → Die) : (s.modDie d f).ports = s.ports := rfl
@[simp] theorem State.modDie_packages (s : State) (d : Nat) (f : Die → Die) : (s.modDie d f).packages = s.packages := rfl
@[simp] theorem State.modDie_etherType (s : State) (d : Nat) (f : Die → Die) : (s.modDie d f).etherType = s.etherType := rfl
@[simp] theorem State.modDie_frames (s : State) (d : Nat) (f : Die → Die) : (s.modDie d f).frames = s.frames := rfl
@[simp] theorem State.modDie_watchdog (s : State) (d : Nat) (f : Die → Die) : (s.modDie d f).watchdog = s.watchdog := rfl
@[simp] theorem State.modDie_mgmt (s : State) (d : Nat) (f : Die → Die) : (s.modDie d f).mgmt = s.mgmt := rfl
@[simp] theorem State.modDie_nextId (s : State) (d : Nat) (f : Die → Die) : (s.modDie d f).nextId = s.nextId := rfl
@[simp] theorem State.modDie_freeCtr (s : State) (d : Nat) (f : Die → Die) : (s.modDie d f).freeCtr = s.freeCtr := rfl
@[simp] theorem State.modDie_agenda (s : State) (d : Nat) (f : Die → Die) : (s.modDie d f).agenda = s.agenda := rfl

@[simp] theorem State.modStatus_cycle (s : State) (d ctx : Nat) (f : Status → Status) : (s.modStatus d ctx f).cycle = s.cycle := rfl
@[simp] theorem State.modStatus_cur (s : State) (d ctx : Nat) (f : Status → Status) : (s.modStatus d ctx f).cur = s.cur := rfl
@[simp] theorem State.modStatus_slots (s : State) (d ctx : Nat) (f : Status → Status) : (s.modStatus d ctx f).slots = s.slots := rfl
@[simp] theorem State.modStatus_cores (s : State) (d ctx : Nat) (f : Status → Status) : (s.modStatus d ctx f).cores = s.cores := rfl
@[simp] theorem State.modStatus_mem (s : State) (d ctx : Nat) (f : Status → Status) : (s.modStatus d ctx f).mem = s.mem := rfl
@[simp] theorem State.modStatus_side (s : State) (d ctx : Nat) (f : Status → Status) : (s.modStatus d ctx f).side = s.side := rfl
@[simp] theorem State.modStatus_errors (s : State) (d ctx : Nat) (f : Status → Status) : (s.modStatus d ctx f).errors = s.errors := rfl
@[simp] theorem State.modStatus_stepped (s : State) (d ctx : Nat) (f : Status → Status) : (s.modStatus d ctx f).stepped = s.stepped := rfl
@[simp] theorem State.modStatus_sends (s : State) (d ctx : Nat) (f : Status → Status) : (s.modStatus d ctx f).sends = s.sends := rfl
@[simp] theorem State.modStatus_chans (s : State) (d ctx : Nat) (f : Status → Status) : (s.modStatus d ctx f).chans = s.chans := rfl
@[simp] theorem State.modStatus_arrivals (s : State) (d ctx : Nat) (f : Status → Status) : (s.modStatus d ctx f).arrivals = s.arrivals := rfl
@[simp] theorem State.modStatus_resps (s : State) (d ctx : Nat) (f : Status → Status) : (s.modStatus d ctx f).resps = s.resps := rfl
@[simp] theorem State.modStatus_logged (s : State) (d ctx : Nat) (f : Status → Status) : (s.modStatus d ctx f).logged = s.logged := rfl
@[simp] theorem State.modStatus_outs (s : State) (d ctx : Nat) (f : Status → Status) : (s.modStatus d ctx f).outs = s.outs := rfl
@[simp] theorem State.modStatus_ops (s : State) (d ctx : Nat) (f : Status → Status) : (s.modStatus d ctx f).ops = s.ops := rfl
@[simp] theorem State.modStatus_accs (s : State) (d ctx : Nat) (f : Status → Status) : (s.modStatus d ctx f).accs = s.accs := rfl
@[simp] theorem State.modStatus_fresh (s : State) (d ctx : Nat) (f : Status → Status) : (s.modStatus d ctx f).fresh = s.fresh := rfl
@[simp] theorem State.modStatus_spilling (s : State) (d ctx : Nat) (f : Status → Status) : (s.modStatus d ctx f).spilling = s.spilling := rfl
@[simp] theorem State.modStatus_batches (s : State) (d ctx : Nat) (f : Status → Status) : (s.modStatus d ctx f).batches = s.batches := rfl
@[simp] theorem State.modStatus_lastWave (s : State) (d ctx : Nat) (f : Status → Status) : (s.modStatus d ctx f).lastWave = s.lastWave := rfl
@[simp] theorem State.modStatus_stopped (s : State) (d ctx : Nat) (f : Status → Status) : (s.modStatus d ctx f).stopped = s.stopped := rfl
@[simp] theorem State.modStatus_notices (s : State) (d ctx : Nat) (f : Status → Status) : (s.modStatus d ctx f).notices = s.notices := rfl
@[simp] theorem State.modStatus_redMsgs (s : State) (d ctx : Nat) (f : Status → Status) : (s.modStatus d ctx f).redMsgs = s.redMsgs := rfl
@[simp] theorem State.modStatus_saving (s : State) (d ctx : Nat) (f : Status → Status) : (s.modStatus d ctx f).saving = s.saving := rfl
@[simp] theorem State.modStatus_launches (s : State) (d ctx : Nat) (f : Status → Status) : (s.modStatus d ctx f).launches = s.launches := rfl
@[simp] theorem State.modStatus_ctxs (s : State) (d ctx : Nat) (f : Status → Status) : (s.modStatus d ctx f).ctxs = s.ctxs := rfl
@[simp] theorem State.modStatus_groups (s : State) (d ctx : Nat) (f : Status → Status) : (s.modStatus d ctx f).groups = s.groups := rfl
@[simp] theorem State.modStatus_ring (s : State) (d ctx : Nat) (f : Status → Status) : (s.modStatus d ctx f).ring = s.ring := rfl
@[simp] theorem State.modStatus_bar0 (s : State) (d ctx : Nat) (f : Status → Status) : (s.modStatus d ctx f).bar0 = s.bar0 := rfl
@[simp] theorem State.modStatus_fuses (s : State) (d ctx : Nat) (f : Status → Status) : (s.modStatus d ctx f).fuses = s.fuses := rfl
@[simp] theorem State.modStatus_recovery (s : State) (d ctx : Nat) (f : Status → Status) : (s.modStatus d ctx f).recovery = s.recovery := rfl
@[simp] theorem State.modStatus_linksDown (s : State) (d ctx : Nat) (f : Status → Status) : (s.modStatus d ctx f).linksDown = s.linksDown := rfl
@[simp] theorem State.modStatus_firmware (s : State) (d ctx : Nat) (f : Status → Status) : (s.modStatus d ctx f).firmware = s.firmware := rfl
@[simp] theorem State.modStatus_intake (s : State) (d ctx : Nat) (f : Status → Status) : (s.modStatus d ctx f).intake = s.intake := rfl
@[simp] theorem State.modStatus_hostRead (s : State) (d ctx : Nat) (f : Status → Status) : (s.modStatus d ctx f).hostRead = s.hostRead := rfl
@[simp] theorem State.modStatus_ports (s : State) (d ctx : Nat) (f : Status → Status) : (s.modStatus d ctx f).ports = s.ports := rfl
@[simp] theorem State.modStatus_packages (s : State) (d ctx : Nat) (f : Status → Status) : (s.modStatus d ctx f).packages = s.packages := rfl
@[simp] theorem State.modStatus_etherType (s : State) (d ctx : Nat) (f : Status → Status) : (s.modStatus d ctx f).etherType = s.etherType := rfl
@[simp] theorem State.modStatus_frames (s : State) (d ctx : Nat) (f : Status → Status) : (s.modStatus d ctx f).frames = s.frames := rfl
@[simp] theorem State.modStatus_watchdog (s : State) (d ctx : Nat) (f : Status → Status) : (s.modStatus d ctx f).watchdog = s.watchdog := rfl
@[simp] theorem State.modStatus_mgmt (s : State) (d ctx : Nat) (f : Status → Status) : (s.modStatus d ctx f).mgmt = s.mgmt := rfl
@[simp] theorem State.modStatus_nextId (s : State) (d ctx : Nat) (f : Status → Status) : (s.modStatus d ctx f).nextId = s.nextId := rfl
@[simp] theorem State.modStatus_freeCtr (s : State) (d ctx : Nat) (f : Status → Status) : (s.modStatus d ctx f).freeCtr = s.freeCtr := rfl
@[simp] theorem State.modStatus_agenda (s : State) (d ctx : Nat) (f : Status → Status) : (s.modStatus d ctx f).agenda = s.agenda := rfl

@[simp] theorem State.modCtx_cycle (s : State) (ctx : Nat) (f : CtxInfo → CtxInfo) : (s.modCtx ctx f).cycle = s.cycle := rfl
@[simp] theorem State.modCtx_cur (s : State) (ctx : Nat) (f : CtxInfo → CtxInfo) : (s.modCtx ctx f).cur = s.cur := rfl
@[simp] theorem State.modCtx_slots (s : State) (ctx : Nat) (f : CtxInfo → CtxInfo) : (s.modCtx ctx f).slots = s.slots := rfl
@[simp] theorem State.modCtx_cores (s : State) (ctx : Nat) (f : CtxInfo → CtxInfo) : (s.modCtx ctx f).cores = s.cores := rfl
@[simp] theorem State.modCtx_dies (s : State) (ctx : Nat) (f : CtxInfo → CtxInfo) : (s.modCtx ctx f).dies = s.dies := rfl
@[simp] theorem State.modCtx_mem (s : State) (ctx : Nat) (f : CtxInfo → CtxInfo) : (s.modCtx ctx f).mem = s.mem := rfl
@[simp] theorem State.modCtx_side (s : State) (ctx : Nat) (f : CtxInfo → CtxInfo) : (s.modCtx ctx f).side = s.side := rfl
@[simp] theorem State.modCtx_errors (s : State) (ctx : Nat) (f : CtxInfo → CtxInfo) : (s.modCtx ctx f).errors = s.errors := rfl
@[simp] theorem State.modCtx_stepped (s : State) (ctx : Nat) (f : CtxInfo → CtxInfo) : (s.modCtx ctx f).stepped = s.stepped := rfl
@[simp] theorem State.modCtx_sends (s : State) (ctx : Nat) (f : CtxInfo → CtxInfo) : (s.modCtx ctx f).sends = s.sends := rfl
@[simp] theorem State.modCtx_chans (s : State) (ctx : Nat) (f : CtxInfo → CtxInfo) : (s.modCtx ctx f).chans = s.chans := rfl
@[simp] theorem State.modCtx_arrivals (s : State) (ctx : Nat) (f : CtxInfo → CtxInfo) : (s.modCtx ctx f).arrivals = s.arrivals := rfl
@[simp] theorem State.modCtx_resps (s : State) (ctx : Nat) (f : CtxInfo → CtxInfo) : (s.modCtx ctx f).resps = s.resps := rfl
@[simp] theorem State.modCtx_logged (s : State) (ctx : Nat) (f : CtxInfo → CtxInfo) : (s.modCtx ctx f).logged = s.logged := rfl
@[simp] theorem State.modCtx_outs (s : State) (ctx : Nat) (f : CtxInfo → CtxInfo) : (s.modCtx ctx f).outs = s.outs := rfl
@[simp] theorem State.modCtx_ops (s : State) (ctx : Nat) (f : CtxInfo → CtxInfo) : (s.modCtx ctx f).ops = s.ops := rfl
@[simp] theorem State.modCtx_accs (s : State) (ctx : Nat) (f : CtxInfo → CtxInfo) : (s.modCtx ctx f).accs = s.accs := rfl
@[simp] theorem State.modCtx_fresh (s : State) (ctx : Nat) (f : CtxInfo → CtxInfo) : (s.modCtx ctx f).fresh = s.fresh := rfl
@[simp] theorem State.modCtx_spilling (s : State) (ctx : Nat) (f : CtxInfo → CtxInfo) : (s.modCtx ctx f).spilling = s.spilling := rfl
@[simp] theorem State.modCtx_batches (s : State) (ctx : Nat) (f : CtxInfo → CtxInfo) : (s.modCtx ctx f).batches = s.batches := rfl
@[simp] theorem State.modCtx_lastWave (s : State) (ctx : Nat) (f : CtxInfo → CtxInfo) : (s.modCtx ctx f).lastWave = s.lastWave := rfl
@[simp] theorem State.modCtx_stopped (s : State) (ctx : Nat) (f : CtxInfo → CtxInfo) : (s.modCtx ctx f).stopped = s.stopped := rfl
@[simp] theorem State.modCtx_notices (s : State) (ctx : Nat) (f : CtxInfo → CtxInfo) : (s.modCtx ctx f).notices = s.notices := rfl
@[simp] theorem State.modCtx_redMsgs (s : State) (ctx : Nat) (f : CtxInfo → CtxInfo) : (s.modCtx ctx f).redMsgs = s.redMsgs := rfl
@[simp] theorem State.modCtx_saving (s : State) (ctx : Nat) (f : CtxInfo → CtxInfo) : (s.modCtx ctx f).saving = s.saving := rfl
@[simp] theorem State.modCtx_launches (s : State) (ctx : Nat) (f : CtxInfo → CtxInfo) : (s.modCtx ctx f).launches = s.launches := rfl
@[simp] theorem State.modCtx_groups (s : State) (ctx : Nat) (f : CtxInfo → CtxInfo) : (s.modCtx ctx f).groups = s.groups := rfl
@[simp] theorem State.modCtx_ring (s : State) (ctx : Nat) (f : CtxInfo → CtxInfo) : (s.modCtx ctx f).ring = s.ring := rfl
@[simp] theorem State.modCtx_bar0 (s : State) (ctx : Nat) (f : CtxInfo → CtxInfo) : (s.modCtx ctx f).bar0 = s.bar0 := rfl
@[simp] theorem State.modCtx_fuses (s : State) (ctx : Nat) (f : CtxInfo → CtxInfo) : (s.modCtx ctx f).fuses = s.fuses := rfl
@[simp] theorem State.modCtx_recovery (s : State) (ctx : Nat) (f : CtxInfo → CtxInfo) : (s.modCtx ctx f).recovery = s.recovery := rfl
@[simp] theorem State.modCtx_linksDown (s : State) (ctx : Nat) (f : CtxInfo → CtxInfo) : (s.modCtx ctx f).linksDown = s.linksDown := rfl
@[simp] theorem State.modCtx_firmware (s : State) (ctx : Nat) (f : CtxInfo → CtxInfo) : (s.modCtx ctx f).firmware = s.firmware := rfl
@[simp] theorem State.modCtx_intake (s : State) (ctx : Nat) (f : CtxInfo → CtxInfo) : (s.modCtx ctx f).intake = s.intake := rfl
@[simp] theorem State.modCtx_hostRead (s : State) (ctx : Nat) (f : CtxInfo → CtxInfo) : (s.modCtx ctx f).hostRead = s.hostRead := rfl
@[simp] theorem State.modCtx_ports (s : State) (ctx : Nat) (f : CtxInfo → CtxInfo) : (s.modCtx ctx f).ports = s.ports := rfl
@[simp] theorem State.modCtx_packages (s : State) (ctx : Nat) (f : CtxInfo → CtxInfo) : (s.modCtx ctx f).packages = s.packages := rfl
@[simp] theorem State.modCtx_etherType (s : State) (ctx : Nat) (f : CtxInfo → CtxInfo) : (s.modCtx ctx f).etherType = s.etherType := rfl
@[simp] theorem State.modCtx_frames (s : State) (ctx : Nat) (f : CtxInfo → CtxInfo) : (s.modCtx ctx f).frames = s.frames := rfl
@[simp] theorem State.modCtx_watchdog (s : State) (ctx : Nat) (f : CtxInfo → CtxInfo) : (s.modCtx ctx f).watchdog = s.watchdog := rfl
@[simp] theorem State.modCtx_mgmt (s : State) (ctx : Nat) (f : CtxInfo → CtxInfo) : (s.modCtx ctx f).mgmt = s.mgmt := rfl
@[simp] theorem State.modCtx_nextId (s : State) (ctx : Nat) (f : CtxInfo → CtxInfo) : (s.modCtx ctx f).nextId = s.nextId := rfl
@[simp] theorem State.modCtx_freeCtr (s : State) (ctx : Nat) (f : CtxInfo → CtxInfo) : (s.modCtx ctx f).freeCtr = s.freeCtr := rfl
@[simp] theorem State.modCtx_agenda (s : State) (ctx : Nat) (f : CtxInfo → CtxInfo) : (s.modCtx ctx f).agenda = s.agenda := rfl

@[simp] theorem State.tell_cycle (s : State) (e : MgmtEvent) : (s.tell e).cycle = s.cycle := rfl
@[simp] theorem State.tell_cur (s : State) (e : MgmtEvent) : (s.tell e).cur = s.cur := rfl
@[simp] theorem State.tell_slots (s : State) (e : MgmtEvent) : (s.tell e).slots = s.slots := rfl
@[simp] theorem State.tell_cores (s : State) (e : MgmtEvent) : (s.tell e).cores = s.cores := rfl
@[simp] theorem State.tell_dies (s : State) (e : MgmtEvent) : (s.tell e).dies = s.dies := rfl
@[simp] theorem State.tell_mem (s : State) (e : MgmtEvent) : (s.tell e).mem = s.mem := rfl
@[simp] theorem State.tell_side (s : State) (e : MgmtEvent) : (s.tell e).side = s.side := rfl
@[simp] theorem State.tell_errors (s : State) (e : MgmtEvent) : (s.tell e).errors = s.errors := rfl
@[simp] theorem State.tell_stepped (s : State) (e : MgmtEvent) : (s.tell e).stepped = s.stepped := rfl
@[simp] theorem State.tell_sends (s : State) (e : MgmtEvent) : (s.tell e).sends = s.sends := rfl
@[simp] theorem State.tell_chans (s : State) (e : MgmtEvent) : (s.tell e).chans = s.chans := rfl
@[simp] theorem State.tell_arrivals (s : State) (e : MgmtEvent) : (s.tell e).arrivals = s.arrivals := rfl
@[simp] theorem State.tell_resps (s : State) (e : MgmtEvent) : (s.tell e).resps = s.resps := rfl
@[simp] theorem State.tell_logged (s : State) (e : MgmtEvent) : (s.tell e).logged = s.logged := rfl
@[simp] theorem State.tell_outs (s : State) (e : MgmtEvent) : (s.tell e).outs = s.outs := rfl
@[simp] theorem State.tell_ops (s : State) (e : MgmtEvent) : (s.tell e).ops = s.ops := rfl
@[simp] theorem State.tell_accs (s : State) (e : MgmtEvent) : (s.tell e).accs = s.accs := rfl
@[simp] theorem State.tell_fresh (s : State) (e : MgmtEvent) : (s.tell e).fresh = s.fresh := rfl
@[simp] theorem State.tell_spilling (s : State) (e : MgmtEvent) : (s.tell e).spilling = s.spilling := rfl
@[simp] theorem State.tell_batches (s : State) (e : MgmtEvent) : (s.tell e).batches = s.batches := rfl
@[simp] theorem State.tell_lastWave (s : State) (e : MgmtEvent) : (s.tell e).lastWave = s.lastWave := rfl
@[simp] theorem State.tell_stopped (s : State) (e : MgmtEvent) : (s.tell e).stopped = s.stopped := rfl
@[simp] theorem State.tell_notices (s : State) (e : MgmtEvent) : (s.tell e).notices = s.notices := rfl
@[simp] theorem State.tell_redMsgs (s : State) (e : MgmtEvent) : (s.tell e).redMsgs = s.redMsgs := rfl
@[simp] theorem State.tell_saving (s : State) (e : MgmtEvent) : (s.tell e).saving = s.saving := rfl
@[simp] theorem State.tell_launches (s : State) (e : MgmtEvent) : (s.tell e).launches = s.launches := rfl
@[simp] theorem State.tell_ctxs (s : State) (e : MgmtEvent) : (s.tell e).ctxs = s.ctxs := rfl
@[simp] theorem State.tell_groups (s : State) (e : MgmtEvent) : (s.tell e).groups = s.groups := rfl
@[simp] theorem State.tell_ring (s : State) (e : MgmtEvent) : (s.tell e).ring = s.ring := rfl
@[simp] theorem State.tell_bar0 (s : State) (e : MgmtEvent) : (s.tell e).bar0 = s.bar0 := rfl
@[simp] theorem State.tell_fuses (s : State) (e : MgmtEvent) : (s.tell e).fuses = s.fuses := rfl
@[simp] theorem State.tell_recovery (s : State) (e : MgmtEvent) : (s.tell e).recovery = s.recovery := rfl
@[simp] theorem State.tell_linksDown (s : State) (e : MgmtEvent) : (s.tell e).linksDown = s.linksDown := rfl
@[simp] theorem State.tell_firmware (s : State) (e : MgmtEvent) : (s.tell e).firmware = s.firmware := rfl
@[simp] theorem State.tell_intake (s : State) (e : MgmtEvent) : (s.tell e).intake = s.intake := rfl
@[simp] theorem State.tell_hostRead (s : State) (e : MgmtEvent) : (s.tell e).hostRead = s.hostRead := rfl
@[simp] theorem State.tell_ports (s : State) (e : MgmtEvent) : (s.tell e).ports = s.ports := rfl
@[simp] theorem State.tell_packages (s : State) (e : MgmtEvent) : (s.tell e).packages = s.packages := rfl
@[simp] theorem State.tell_etherType (s : State) (e : MgmtEvent) : (s.tell e).etherType = s.etherType := rfl
@[simp] theorem State.tell_frames (s : State) (e : MgmtEvent) : (s.tell e).frames = s.frames := rfl
@[simp] theorem State.tell_watchdog (s : State) (e : MgmtEvent) : (s.tell e).watchdog = s.watchdog := rfl
@[simp] theorem State.tell_nextId (s : State) (e : MgmtEvent) : (s.tell e).nextId = s.nextId := rfl
@[simp] theorem State.tell_freeCtr (s : State) (e : MgmtEvent) : (s.tell e).freeCtr = s.freeCtr := rfl
@[simp] theorem State.tell_agenda (s : State) (e : MgmtEvent) : (s.tell e).agenda = s.agenda := rfl

@[simp] theorem State.writeByte_cycle (s : State) (a : Nat) (b : Byte) : (s.writeByte a b).cycle = s.cycle := rfl
@[simp] theorem State.writeByte_cur (s : State) (a : Nat) (b : Byte) : (s.writeByte a b).cur = s.cur := rfl
@[simp] theorem State.writeByte_slots (s : State) (a : Nat) (b : Byte) : (s.writeByte a b).slots = s.slots := rfl
@[simp] theorem State.writeByte_cores (s : State) (a : Nat) (b : Byte) : (s.writeByte a b).cores = s.cores := rfl
@[simp] theorem State.writeByte_dies (s : State) (a : Nat) (b : Byte) : (s.writeByte a b).dies = s.dies := rfl
@[simp] theorem State.writeByte_side (s : State) (a : Nat) (b : Byte) : (s.writeByte a b).side = s.side := rfl
@[simp] theorem State.writeByte_sends (s : State) (a : Nat) (b : Byte) : (s.writeByte a b).sends = s.sends := rfl
@[simp] theorem State.writeByte_chans (s : State) (a : Nat) (b : Byte) : (s.writeByte a b).chans = s.chans := rfl
@[simp] theorem State.writeByte_arrivals (s : State) (a : Nat) (b : Byte) : (s.writeByte a b).arrivals = s.arrivals := rfl
@[simp] theorem State.writeByte_resps (s : State) (a : Nat) (b : Byte) : (s.writeByte a b).resps = s.resps := rfl
@[simp] theorem State.writeByte_logged (s : State) (a : Nat) (b : Byte) : (s.writeByte a b).logged = s.logged := rfl
@[simp] theorem State.writeByte_outs (s : State) (a : Nat) (b : Byte) : (s.writeByte a b).outs = s.outs := rfl
@[simp] theorem State.writeByte_ops (s : State) (a : Nat) (b : Byte) : (s.writeByte a b).ops = s.ops := rfl
@[simp] theorem State.writeByte_accs (s : State) (a : Nat) (b : Byte) : (s.writeByte a b).accs = s.accs := rfl
@[simp] theorem State.writeByte_fresh (s : State) (a : Nat) (b : Byte) : (s.writeByte a b).fresh = s.fresh := rfl
@[simp] theorem State.writeByte_spilling (s : State) (a : Nat) (b : Byte) : (s.writeByte a b).spilling = s.spilling := rfl
@[simp] theorem State.writeByte_batches (s : State) (a : Nat) (b : Byte) : (s.writeByte a b).batches = s.batches := rfl
@[simp] theorem State.writeByte_lastWave (s : State) (a : Nat) (b : Byte) : (s.writeByte a b).lastWave = s.lastWave := rfl
@[simp] theorem State.writeByte_stopped (s : State) (a : Nat) (b : Byte) : (s.writeByte a b).stopped = s.stopped := rfl
@[simp] theorem State.writeByte_notices (s : State) (a : Nat) (b : Byte) : (s.writeByte a b).notices = s.notices := rfl
@[simp] theorem State.writeByte_redMsgs (s : State) (a : Nat) (b : Byte) : (s.writeByte a b).redMsgs = s.redMsgs := rfl
@[simp] theorem State.writeByte_saving (s : State) (a : Nat) (b : Byte) : (s.writeByte a b).saving = s.saving := rfl
@[simp] theorem State.writeByte_launches (s : State) (a : Nat) (b : Byte) : (s.writeByte a b).launches = s.launches := rfl
@[simp] theorem State.writeByte_ctxs (s : State) (a : Nat) (b : Byte) : (s.writeByte a b).ctxs = s.ctxs := rfl
@[simp] theorem State.writeByte_groups (s : State) (a : Nat) (b : Byte) : (s.writeByte a b).groups = s.groups := rfl
@[simp] theorem State.writeByte_ring (s : State) (a : Nat) (b : Byte) : (s.writeByte a b).ring = s.ring := rfl
@[simp] theorem State.writeByte_bar0 (s : State) (a : Nat) (b : Byte) : (s.writeByte a b).bar0 = s.bar0 := rfl
@[simp] theorem State.writeByte_fuses (s : State) (a : Nat) (b : Byte) : (s.writeByte a b).fuses = s.fuses := rfl
@[simp] theorem State.writeByte_recovery (s : State) (a : Nat) (b : Byte) : (s.writeByte a b).recovery = s.recovery := rfl
@[simp] theorem State.writeByte_linksDown (s : State) (a : Nat) (b : Byte) : (s.writeByte a b).linksDown = s.linksDown := rfl
@[simp] theorem State.writeByte_firmware (s : State) (a : Nat) (b : Byte) : (s.writeByte a b).firmware = s.firmware := rfl
@[simp] theorem State.writeByte_intake (s : State) (a : Nat) (b : Byte) : (s.writeByte a b).intake = s.intake := rfl
@[simp] theorem State.writeByte_hostRead (s : State) (a : Nat) (b : Byte) : (s.writeByte a b).hostRead = s.hostRead := rfl
@[simp] theorem State.writeByte_ports (s : State) (a : Nat) (b : Byte) : (s.writeByte a b).ports = s.ports := rfl
@[simp] theorem State.writeByte_packages (s : State) (a : Nat) (b : Byte) : (s.writeByte a b).packages = s.packages := rfl
@[simp] theorem State.writeByte_etherType (s : State) (a : Nat) (b : Byte) : (s.writeByte a b).etherType = s.etherType := rfl
@[simp] theorem State.writeByte_frames (s : State) (a : Nat) (b : Byte) : (s.writeByte a b).frames = s.frames := rfl
@[simp] theorem State.writeByte_watchdog (s : State) (a : Nat) (b : Byte) : (s.writeByte a b).watchdog = s.watchdog := rfl
@[simp] theorem State.writeByte_mgmt (s : State) (a : Nat) (b : Byte) : (s.writeByte a b).mgmt = s.mgmt := rfl
@[simp] theorem State.writeByte_nextId (s : State) (a : Nat) (b : Byte) : (s.writeByte a b).nextId = s.nextId := rfl
@[simp] theorem State.writeByte_freeCtr (s : State) (a : Nat) (b : Byte) : (s.writeByte a b).freeCtr = s.freeCtr := rfl
@[simp] theorem State.writeByte_agenda (s : State) (a : Nat) (b : Byte) : (s.writeByte a b).agenda = s.agenda := rfl

@[simp] theorem State.setSide_cycle (s : State) (a : Nat) (stamp : BitVec 32) (w : BitVec 24) : (s.setSide a stamp w).cycle = s.cycle := rfl
@[simp] theorem State.setSide_cur (s : State) (a : Nat) (stamp : BitVec 32) (w : BitVec 24) : (s.setSide a stamp w).cur = s.cur := rfl
@[simp] theorem State.setSide_slots (s : State) (a : Nat) (stamp : BitVec 32) (w : BitVec 24) : (s.setSide a stamp w).slots = s.slots := rfl
@[simp] theorem State.setSide_cores (s : State) (a : Nat) (stamp : BitVec 32) (w : BitVec 24) : (s.setSide a stamp w).cores = s.cores := rfl
@[simp] theorem State.setSide_dies (s : State) (a : Nat) (stamp : BitVec 32) (w : BitVec 24) : (s.setSide a stamp w).dies = s.dies := rfl
@[simp] theorem State.setSide_mem (s : State) (a : Nat) (stamp : BitVec 32) (w : BitVec 24) : (s.setSide a stamp w).mem = s.mem := rfl
@[simp] theorem State.setSide_errors (s : State) (a : Nat) (stamp : BitVec 32) (w : BitVec 24) : (s.setSide a stamp w).errors = s.errors := rfl
@[simp] theorem State.setSide_stepped (s : State) (a : Nat) (stamp : BitVec 32) (w : BitVec 24) : (s.setSide a stamp w).stepped = s.stepped := rfl
@[simp] theorem State.setSide_sends (s : State) (a : Nat) (stamp : BitVec 32) (w : BitVec 24) : (s.setSide a stamp w).sends = s.sends := rfl
@[simp] theorem State.setSide_chans (s : State) (a : Nat) (stamp : BitVec 32) (w : BitVec 24) : (s.setSide a stamp w).chans = s.chans := rfl
@[simp] theorem State.setSide_arrivals (s : State) (a : Nat) (stamp : BitVec 32) (w : BitVec 24) : (s.setSide a stamp w).arrivals = s.arrivals := rfl
@[simp] theorem State.setSide_resps (s : State) (a : Nat) (stamp : BitVec 32) (w : BitVec 24) : (s.setSide a stamp w).resps = s.resps := rfl
@[simp] theorem State.setSide_logged (s : State) (a : Nat) (stamp : BitVec 32) (w : BitVec 24) : (s.setSide a stamp w).logged = s.logged := rfl
@[simp] theorem State.setSide_outs (s : State) (a : Nat) (stamp : BitVec 32) (w : BitVec 24) : (s.setSide a stamp w).outs = s.outs := rfl
@[simp] theorem State.setSide_ops (s : State) (a : Nat) (stamp : BitVec 32) (w : BitVec 24) : (s.setSide a stamp w).ops = s.ops := rfl
@[simp] theorem State.setSide_accs (s : State) (a : Nat) (stamp : BitVec 32) (w : BitVec 24) : (s.setSide a stamp w).accs = s.accs := rfl
@[simp] theorem State.setSide_fresh (s : State) (a : Nat) (stamp : BitVec 32) (w : BitVec 24) : (s.setSide a stamp w).fresh = s.fresh := rfl
@[simp] theorem State.setSide_spilling (s : State) (a : Nat) (stamp : BitVec 32) (w : BitVec 24) : (s.setSide a stamp w).spilling = s.spilling := rfl
@[simp] theorem State.setSide_batches (s : State) (a : Nat) (stamp : BitVec 32) (w : BitVec 24) : (s.setSide a stamp w).batches = s.batches := rfl
@[simp] theorem State.setSide_lastWave (s : State) (a : Nat) (stamp : BitVec 32) (w : BitVec 24) : (s.setSide a stamp w).lastWave = s.lastWave := rfl
@[simp] theorem State.setSide_stopped (s : State) (a : Nat) (stamp : BitVec 32) (w : BitVec 24) : (s.setSide a stamp w).stopped = s.stopped := rfl
@[simp] theorem State.setSide_notices (s : State) (a : Nat) (stamp : BitVec 32) (w : BitVec 24) : (s.setSide a stamp w).notices = s.notices := rfl
@[simp] theorem State.setSide_redMsgs (s : State) (a : Nat) (stamp : BitVec 32) (w : BitVec 24) : (s.setSide a stamp w).redMsgs = s.redMsgs := rfl
@[simp] theorem State.setSide_saving (s : State) (a : Nat) (stamp : BitVec 32) (w : BitVec 24) : (s.setSide a stamp w).saving = s.saving := rfl
@[simp] theorem State.setSide_launches (s : State) (a : Nat) (stamp : BitVec 32) (w : BitVec 24) : (s.setSide a stamp w).launches = s.launches := rfl
@[simp] theorem State.setSide_ctxs (s : State) (a : Nat) (stamp : BitVec 32) (w : BitVec 24) : (s.setSide a stamp w).ctxs = s.ctxs := rfl
@[simp] theorem State.setSide_groups (s : State) (a : Nat) (stamp : BitVec 32) (w : BitVec 24) : (s.setSide a stamp w).groups = s.groups := rfl
@[simp] theorem State.setSide_ring (s : State) (a : Nat) (stamp : BitVec 32) (w : BitVec 24) : (s.setSide a stamp w).ring = s.ring := rfl
@[simp] theorem State.setSide_bar0 (s : State) (a : Nat) (stamp : BitVec 32) (w : BitVec 24) : (s.setSide a stamp w).bar0 = s.bar0 := rfl
@[simp] theorem State.setSide_fuses (s : State) (a : Nat) (stamp : BitVec 32) (w : BitVec 24) : (s.setSide a stamp w).fuses = s.fuses := rfl
@[simp] theorem State.setSide_recovery (s : State) (a : Nat) (stamp : BitVec 32) (w : BitVec 24) : (s.setSide a stamp w).recovery = s.recovery := rfl
@[simp] theorem State.setSide_linksDown (s : State) (a : Nat) (stamp : BitVec 32) (w : BitVec 24) : (s.setSide a stamp w).linksDown = s.linksDown := rfl
@[simp] theorem State.setSide_firmware (s : State) (a : Nat) (stamp : BitVec 32) (w : BitVec 24) : (s.setSide a stamp w).firmware = s.firmware := rfl
@[simp] theorem State.setSide_intake (s : State) (a : Nat) (stamp : BitVec 32) (w : BitVec 24) : (s.setSide a stamp w).intake = s.intake := rfl
@[simp] theorem State.setSide_hostRead (s : State) (a : Nat) (stamp : BitVec 32) (w : BitVec 24) : (s.setSide a stamp w).hostRead = s.hostRead := rfl
@[simp] theorem State.setSide_ports (s : State) (a : Nat) (stamp : BitVec 32) (w : BitVec 24) : (s.setSide a stamp w).ports = s.ports := rfl
@[simp] theorem State.setSide_packages (s : State) (a : Nat) (stamp : BitVec 32) (w : BitVec 24) : (s.setSide a stamp w).packages = s.packages := rfl
@[simp] theorem State.setSide_etherType (s : State) (a : Nat) (stamp : BitVec 32) (w : BitVec 24) : (s.setSide a stamp w).etherType = s.etherType := rfl
@[simp] theorem State.setSide_frames (s : State) (a : Nat) (stamp : BitVec 32) (w : BitVec 24) : (s.setSide a stamp w).frames = s.frames := rfl
@[simp] theorem State.setSide_watchdog (s : State) (a : Nat) (stamp : BitVec 32) (w : BitVec 24) : (s.setSide a stamp w).watchdog = s.watchdog := rfl
@[simp] theorem State.setSide_mgmt (s : State) (a : Nat) (stamp : BitVec 32) (w : BitVec 24) : (s.setSide a stamp w).mgmt = s.mgmt := rfl
@[simp] theorem State.setSide_nextId (s : State) (a : Nat) (stamp : BitVec 32) (w : BitVec 24) : (s.setSide a stamp w).nextId = s.nextId := rfl
@[simp] theorem State.setSide_freeCtr (s : State) (a : Nat) (stamp : BitVec 32) (w : BitVec 24) : (s.setSide a stamp w).freeCtr = s.freeCtr := rfl
@[simp] theorem State.setSide_agenda (s : State) (a : Nat) (stamp : BitVec 32) (w : BitVec 24) : (s.setSide a stamp w).agenda = s.agenda := rfl

@[simp] theorem State.jump_cycle (s : State) (a : Word) : (s.jump a).cycle = s.cycle := rfl
@[simp] theorem State.jump_slots (s : State) (a : Word) : (s.jump a).slots = s.slots := rfl
@[simp] theorem State.jump_cores (s : State) (a : Word) : (s.jump a).cores = s.cores := rfl
@[simp] theorem State.jump_dies (s : State) (a : Word) : (s.jump a).dies = s.dies := rfl
@[simp] theorem State.jump_mem (s : State) (a : Word) : (s.jump a).mem = s.mem := rfl
@[simp] theorem State.jump_side (s : State) (a : Word) : (s.jump a).side = s.side := rfl
@[simp] theorem State.jump_errors (s : State) (a : Word) : (s.jump a).errors = s.errors := rfl
@[simp] theorem State.jump_stepped (s : State) (a : Word) : (s.jump a).stepped = s.stepped := rfl
@[simp] theorem State.jump_sends (s : State) (a : Word) : (s.jump a).sends = s.sends := rfl
@[simp] theorem State.jump_chans (s : State) (a : Word) : (s.jump a).chans = s.chans := rfl
@[simp] theorem State.jump_arrivals (s : State) (a : Word) : (s.jump a).arrivals = s.arrivals := rfl
@[simp] theorem State.jump_resps (s : State) (a : Word) : (s.jump a).resps = s.resps := rfl
@[simp] theorem State.jump_logged (s : State) (a : Word) : (s.jump a).logged = s.logged := rfl
@[simp] theorem State.jump_outs (s : State) (a : Word) : (s.jump a).outs = s.outs := rfl
@[simp] theorem State.jump_ops (s : State) (a : Word) : (s.jump a).ops = s.ops := rfl
@[simp] theorem State.jump_accs (s : State) (a : Word) : (s.jump a).accs = s.accs := rfl
@[simp] theorem State.jump_fresh (s : State) (a : Word) : (s.jump a).fresh = s.fresh := rfl
@[simp] theorem State.jump_spilling (s : State) (a : Word) : (s.jump a).spilling = s.spilling := rfl
@[simp] theorem State.jump_batches (s : State) (a : Word) : (s.jump a).batches = s.batches := rfl
@[simp] theorem State.jump_lastWave (s : State) (a : Word) : (s.jump a).lastWave = s.lastWave := rfl
@[simp] theorem State.jump_stopped (s : State) (a : Word) : (s.jump a).stopped = s.stopped := rfl
@[simp] theorem State.jump_notices (s : State) (a : Word) : (s.jump a).notices = s.notices := rfl
@[simp] theorem State.jump_redMsgs (s : State) (a : Word) : (s.jump a).redMsgs = s.redMsgs := rfl
@[simp] theorem State.jump_saving (s : State) (a : Word) : (s.jump a).saving = s.saving := rfl
@[simp] theorem State.jump_launches (s : State) (a : Word) : (s.jump a).launches = s.launches := rfl
@[simp] theorem State.jump_ctxs (s : State) (a : Word) : (s.jump a).ctxs = s.ctxs := rfl
@[simp] theorem State.jump_groups (s : State) (a : Word) : (s.jump a).groups = s.groups := rfl
@[simp] theorem State.jump_ring (s : State) (a : Word) : (s.jump a).ring = s.ring := rfl
@[simp] theorem State.jump_bar0 (s : State) (a : Word) : (s.jump a).bar0 = s.bar0 := rfl
@[simp] theorem State.jump_fuses (s : State) (a : Word) : (s.jump a).fuses = s.fuses := rfl
@[simp] theorem State.jump_recovery (s : State) (a : Word) : (s.jump a).recovery = s.recovery := rfl
@[simp] theorem State.jump_linksDown (s : State) (a : Word) : (s.jump a).linksDown = s.linksDown := rfl
@[simp] theorem State.jump_firmware (s : State) (a : Word) : (s.jump a).firmware = s.firmware := rfl
@[simp] theorem State.jump_intake (s : State) (a : Word) : (s.jump a).intake = s.intake := rfl
@[simp] theorem State.jump_hostRead (s : State) (a : Word) : (s.jump a).hostRead = s.hostRead := rfl
@[simp] theorem State.jump_ports (s : State) (a : Word) : (s.jump a).ports = s.ports := rfl
@[simp] theorem State.jump_packages (s : State) (a : Word) : (s.jump a).packages = s.packages := rfl
@[simp] theorem State.jump_etherType (s : State) (a : Word) : (s.jump a).etherType = s.etherType := rfl
@[simp] theorem State.jump_frames (s : State) (a : Word) : (s.jump a).frames = s.frames := rfl
@[simp] theorem State.jump_watchdog (s : State) (a : Word) : (s.jump a).watchdog = s.watchdog := rfl
@[simp] theorem State.jump_mgmt (s : State) (a : Word) : (s.jump a).mgmt = s.mgmt := rfl
@[simp] theorem State.jump_nextId (s : State) (a : Word) : (s.jump a).nextId = s.nextId := rfl
@[simp] theorem State.jump_freeCtr (s : State) (a : Word) : (s.jump a).freeCtr = s.freeCtr := rfl
@[simp] theorem State.jump_agenda (s : State) (a : Word) : (s.jump a).agenda = s.agenda := rfl

@[simp] theorem State.stay_cycle (s : State) : (s.stay).cycle = s.cycle := rfl
@[simp] theorem State.stay_slots (s : State) : (s.stay).slots = s.slots := rfl
@[simp] theorem State.stay_cores (s : State) : (s.stay).cores = s.cores := rfl
@[simp] theorem State.stay_dies (s : State) : (s.stay).dies = s.dies := rfl
@[simp] theorem State.stay_mem (s : State) : (s.stay).mem = s.mem := rfl
@[simp] theorem State.stay_side (s : State) : (s.stay).side = s.side := rfl
@[simp] theorem State.stay_errors (s : State) : (s.stay).errors = s.errors := rfl
@[simp] theorem State.stay_stepped (s : State) : (s.stay).stepped = s.stepped := rfl
@[simp] theorem State.stay_sends (s : State) : (s.stay).sends = s.sends := rfl
@[simp] theorem State.stay_chans (s : State) : (s.stay).chans = s.chans := rfl
@[simp] theorem State.stay_arrivals (s : State) : (s.stay).arrivals = s.arrivals := rfl
@[simp] theorem State.stay_resps (s : State) : (s.stay).resps = s.resps := rfl
@[simp] theorem State.stay_logged (s : State) : (s.stay).logged = s.logged := rfl
@[simp] theorem State.stay_outs (s : State) : (s.stay).outs = s.outs := rfl
@[simp] theorem State.stay_ops (s : State) : (s.stay).ops = s.ops := rfl
@[simp] theorem State.stay_accs (s : State) : (s.stay).accs = s.accs := rfl
@[simp] theorem State.stay_fresh (s : State) : (s.stay).fresh = s.fresh := rfl
@[simp] theorem State.stay_spilling (s : State) : (s.stay).spilling = s.spilling := rfl
@[simp] theorem State.stay_batches (s : State) : (s.stay).batches = s.batches := rfl
@[simp] theorem State.stay_lastWave (s : State) : (s.stay).lastWave = s.lastWave := rfl
@[simp] theorem State.stay_stopped (s : State) : (s.stay).stopped = s.stopped := rfl
@[simp] theorem State.stay_notices (s : State) : (s.stay).notices = s.notices := rfl
@[simp] theorem State.stay_redMsgs (s : State) : (s.stay).redMsgs = s.redMsgs := rfl
@[simp] theorem State.stay_saving (s : State) : (s.stay).saving = s.saving := rfl
@[simp] theorem State.stay_launches (s : State) : (s.stay).launches = s.launches := rfl
@[simp] theorem State.stay_ctxs (s : State) : (s.stay).ctxs = s.ctxs := rfl
@[simp] theorem State.stay_groups (s : State) : (s.stay).groups = s.groups := rfl
@[simp] theorem State.stay_ring (s : State) : (s.stay).ring = s.ring := rfl
@[simp] theorem State.stay_bar0 (s : State) : (s.stay).bar0 = s.bar0 := rfl
@[simp] theorem State.stay_fuses (s : State) : (s.stay).fuses = s.fuses := rfl
@[simp] theorem State.stay_recovery (s : State) : (s.stay).recovery = s.recovery := rfl
@[simp] theorem State.stay_linksDown (s : State) : (s.stay).linksDown = s.linksDown := rfl
@[simp] theorem State.stay_firmware (s : State) : (s.stay).firmware = s.firmware := rfl
@[simp] theorem State.stay_intake (s : State) : (s.stay).intake = s.intake := rfl
@[simp] theorem State.stay_hostRead (s : State) : (s.stay).hostRead = s.hostRead := rfl
@[simp] theorem State.stay_ports (s : State) : (s.stay).ports = s.ports := rfl
@[simp] theorem State.stay_packages (s : State) : (s.stay).packages = s.packages := rfl
@[simp] theorem State.stay_etherType (s : State) : (s.stay).etherType = s.etherType := rfl
@[simp] theorem State.stay_frames (s : State) : (s.stay).frames = s.frames := rfl
@[simp] theorem State.stay_watchdog (s : State) : (s.stay).watchdog = s.watchdog := rfl
@[simp] theorem State.stay_mgmt (s : State) : (s.stay).mgmt = s.mgmt := rfl
@[simp] theorem State.stay_nextId (s : State) : (s.stay).nextId = s.nextId := rfl
@[simp] theorem State.stay_freeCtr (s : State) : (s.stay).freeCtr = s.freeCtr := rfl
@[simp] theorem State.stay_agenda (s : State) : (s.stay).agenda = s.agenda := rfl

@[simp] theorem State.draw_cycle (s : State) : s.draw.2.cycle = s.cycle := rfl
@[simp] theorem State.draw_cur (s : State) : s.draw.2.cur = s.cur := rfl
@[simp] theorem State.draw_slots (s : State) : s.draw.2.slots = s.slots := rfl
@[simp] theorem State.draw_cores (s : State) : s.draw.2.cores = s.cores := rfl
@[simp] theorem State.draw_dies (s : State) : s.draw.2.dies = s.dies := rfl
@[simp] theorem State.draw_mem (s : State) : s.draw.2.mem = s.mem := rfl
@[simp] theorem State.draw_side (s : State) : s.draw.2.side = s.side := rfl
@[simp] theorem State.draw_errors (s : State) : s.draw.2.errors = s.errors := rfl
@[simp] theorem State.draw_stepped (s : State) : s.draw.2.stepped = s.stepped := rfl
@[simp] theorem State.draw_sends (s : State) : s.draw.2.sends = s.sends := rfl
@[simp] theorem State.draw_chans (s : State) : s.draw.2.chans = s.chans := rfl
@[simp] theorem State.draw_arrivals (s : State) : s.draw.2.arrivals = s.arrivals := rfl
@[simp] theorem State.draw_resps (s : State) : s.draw.2.resps = s.resps := rfl
@[simp] theorem State.draw_logged (s : State) : s.draw.2.logged = s.logged := rfl
@[simp] theorem State.draw_outs (s : State) : s.draw.2.outs = s.outs := rfl
@[simp] theorem State.draw_ops (s : State) : s.draw.2.ops = s.ops := rfl
@[simp] theorem State.draw_accs (s : State) : s.draw.2.accs = s.accs := rfl
@[simp] theorem State.draw_fresh (s : State) : s.draw.2.fresh = s.fresh := rfl
@[simp] theorem State.draw_spilling (s : State) : s.draw.2.spilling = s.spilling := rfl
@[simp] theorem State.draw_batches (s : State) : s.draw.2.batches = s.batches := rfl
@[simp] theorem State.draw_lastWave (s : State) : s.draw.2.lastWave = s.lastWave := rfl
@[simp] theorem State.draw_stopped (s : State) : s.draw.2.stopped = s.stopped := rfl
@[simp] theorem State.draw_notices (s : State) : s.draw.2.notices = s.notices := rfl
@[simp] theorem State.draw_redMsgs (s : State) : s.draw.2.redMsgs = s.redMsgs := rfl
@[simp] theorem State.draw_saving (s : State) : s.draw.2.saving = s.saving := rfl
@[simp] theorem State.draw_launches (s : State) : s.draw.2.launches = s.launches := rfl
@[simp] theorem State.draw_ctxs (s : State) : s.draw.2.ctxs = s.ctxs := rfl
@[simp] theorem State.draw_groups (s : State) : s.draw.2.groups = s.groups := rfl
@[simp] theorem State.draw_ring (s : State) : s.draw.2.ring = s.ring := rfl
@[simp] theorem State.draw_bar0 (s : State) : s.draw.2.bar0 = s.bar0 := rfl
@[simp] theorem State.draw_fuses (s : State) : s.draw.2.fuses = s.fuses := rfl
@[simp] theorem State.draw_recovery (s : State) : s.draw.2.recovery = s.recovery := rfl
@[simp] theorem State.draw_linksDown (s : State) : s.draw.2.linksDown = s.linksDown := rfl
@[simp] theorem State.draw_firmware (s : State) : s.draw.2.firmware = s.firmware := rfl
@[simp] theorem State.draw_intake (s : State) : s.draw.2.intake = s.intake := rfl
@[simp] theorem State.draw_hostRead (s : State) : s.draw.2.hostRead = s.hostRead := rfl
@[simp] theorem State.draw_ports (s : State) : s.draw.2.ports = s.ports := rfl
@[simp] theorem State.draw_packages (s : State) : s.draw.2.packages = s.packages := rfl
@[simp] theorem State.draw_etherType (s : State) : s.draw.2.etherType = s.etherType := rfl
@[simp] theorem State.draw_frames (s : State) : s.draw.2.frames = s.frames := rfl
@[simp] theorem State.draw_watchdog (s : State) : s.draw.2.watchdog = s.watchdog := rfl
@[simp] theorem State.draw_mgmt (s : State) : s.draw.2.mgmt = s.mgmt := rfl
@[simp] theorem State.draw_freeCtr (s : State) : s.draw.2.freeCtr = s.freeCtr := rfl
@[simp] theorem State.draw_agenda (s : State) : s.draw.2.agenda = s.agenda := rfl

@[simp] theorem State.drawFree_cycle (s : State) : s.drawFree.2.cycle = s.cycle := rfl
@[simp] theorem State.drawFree_cur (s : State) : s.drawFree.2.cur = s.cur := rfl
@[simp] theorem State.drawFree_slots (s : State) : s.drawFree.2.slots = s.slots := rfl
@[simp] theorem State.drawFree_cores (s : State) : s.drawFree.2.cores = s.cores := rfl
@[simp] theorem State.drawFree_dies (s : State) : s.drawFree.2.dies = s.dies := rfl
@[simp] theorem State.drawFree_mem (s : State) : s.drawFree.2.mem = s.mem := rfl
@[simp] theorem State.drawFree_side (s : State) : s.drawFree.2.side = s.side := rfl
@[simp] theorem State.drawFree_errors (s : State) : s.drawFree.2.errors = s.errors := rfl
@[simp] theorem State.drawFree_stepped (s : State) : s.drawFree.2.stepped = s.stepped := rfl
@[simp] theorem State.drawFree_sends (s : State) : s.drawFree.2.sends = s.sends := rfl
@[simp] theorem State.drawFree_chans (s : State) : s.drawFree.2.chans = s.chans := rfl
@[simp] theorem State.drawFree_arrivals (s : State) : s.drawFree.2.arrivals = s.arrivals := rfl
@[simp] theorem State.drawFree_resps (s : State) : s.drawFree.2.resps = s.resps := rfl
@[simp] theorem State.drawFree_logged (s : State) : s.drawFree.2.logged = s.logged := rfl
@[simp] theorem State.drawFree_outs (s : State) : s.drawFree.2.outs = s.outs := rfl
@[simp] theorem State.drawFree_ops (s : State) : s.drawFree.2.ops = s.ops := rfl
@[simp] theorem State.drawFree_accs (s : State) : s.drawFree.2.accs = s.accs := rfl
@[simp] theorem State.drawFree_fresh (s : State) : s.drawFree.2.fresh = s.fresh := rfl
@[simp] theorem State.drawFree_spilling (s : State) : s.drawFree.2.spilling = s.spilling := rfl
@[simp] theorem State.drawFree_batches (s : State) : s.drawFree.2.batches = s.batches := rfl
@[simp] theorem State.drawFree_lastWave (s : State) : s.drawFree.2.lastWave = s.lastWave := rfl
@[simp] theorem State.drawFree_stopped (s : State) : s.drawFree.2.stopped = s.stopped := rfl
@[simp] theorem State.drawFree_notices (s : State) : s.drawFree.2.notices = s.notices := rfl
@[simp] theorem State.drawFree_redMsgs (s : State) : s.drawFree.2.redMsgs = s.redMsgs := rfl
@[simp] theorem State.drawFree_saving (s : State) : s.drawFree.2.saving = s.saving := rfl
@[simp] theorem State.drawFree_launches (s : State) : s.drawFree.2.launches = s.launches := rfl
@[simp] theorem State.drawFree_ctxs (s : State) : s.drawFree.2.ctxs = s.ctxs := rfl
@[simp] theorem State.drawFree_groups (s : State) : s.drawFree.2.groups = s.groups := rfl
@[simp] theorem State.drawFree_ring (s : State) : s.drawFree.2.ring = s.ring := rfl
@[simp] theorem State.drawFree_bar0 (s : State) : s.drawFree.2.bar0 = s.bar0 := rfl
@[simp] theorem State.drawFree_fuses (s : State) : s.drawFree.2.fuses = s.fuses := rfl
@[simp] theorem State.drawFree_recovery (s : State) : s.drawFree.2.recovery = s.recovery := rfl
@[simp] theorem State.drawFree_linksDown (s : State) : s.drawFree.2.linksDown = s.linksDown := rfl
@[simp] theorem State.drawFree_firmware (s : State) : s.drawFree.2.firmware = s.firmware := rfl
@[simp] theorem State.drawFree_intake (s : State) : s.drawFree.2.intake = s.intake := rfl
@[simp] theorem State.drawFree_hostRead (s : State) : s.drawFree.2.hostRead = s.hostRead := rfl
@[simp] theorem State.drawFree_ports (s : State) : s.drawFree.2.ports = s.ports := rfl
@[simp] theorem State.drawFree_packages (s : State) : s.drawFree.2.packages = s.packages := rfl
@[simp] theorem State.drawFree_etherType (s : State) : s.drawFree.2.etherType = s.etherType := rfl
@[simp] theorem State.drawFree_frames (s : State) : s.drawFree.2.frames = s.frames := rfl
@[simp] theorem State.drawFree_watchdog (s : State) : s.drawFree.2.watchdog = s.watchdog := rfl
@[simp] theorem State.drawFree_mgmt (s : State) : s.drawFree.2.mgmt = s.mgmt := rfl
@[simp] theorem State.drawFree_nextId (s : State) : s.drawFree.2.nextId = s.nextId := rfl
@[simp] theorem State.drawFree_agenda (s : State) : s.drawFree.2.agenda = s.agenda := rfl

@[simp] theorem State.faultRecord_cycle (s : State) (ctx kind : Nat) (cause : BitVec 8) (w : BitVec 24) (pc info : Word) : (s.faultRecord ctx kind cause w pc info).cycle = s.cycle := rfl
@[simp] theorem State.faultRecord_cur (s : State) (ctx kind : Nat) (cause : BitVec 8) (w : BitVec 24) (pc info : Word) : (s.faultRecord ctx kind cause w pc info).cur = s.cur := rfl
@[simp] theorem State.faultRecord_slots (s : State) (ctx kind : Nat) (cause : BitVec 8) (w : BitVec 24) (pc info : Word) : (s.faultRecord ctx kind cause w pc info).slots = s.slots := rfl
@[simp] theorem State.faultRecord_cores (s : State) (ctx kind : Nat) (cause : BitVec 8) (w : BitVec 24) (pc info : Word) : (s.faultRecord ctx kind cause w pc info).cores = s.cores := rfl
@[simp] theorem State.faultRecord_dies (s : State) (ctx kind : Nat) (cause : BitVec 8) (w : BitVec 24) (pc info : Word) : (s.faultRecord ctx kind cause w pc info).dies = s.dies := rfl
@[simp] theorem State.faultRecord_mem (s : State) (ctx kind : Nat) (cause : BitVec 8) (w : BitVec 24) (pc info : Word) : (s.faultRecord ctx kind cause w pc info).mem = s.mem := rfl
@[simp] theorem State.faultRecord_side (s : State) (ctx kind : Nat) (cause : BitVec 8) (w : BitVec 24) (pc info : Word) : (s.faultRecord ctx kind cause w pc info).side = s.side := rfl
@[simp] theorem State.faultRecord_errors (s : State) (ctx kind : Nat) (cause : BitVec 8) (w : BitVec 24) (pc info : Word) : (s.faultRecord ctx kind cause w pc info).errors = s.errors := rfl
@[simp] theorem State.faultRecord_stepped (s : State) (ctx kind : Nat) (cause : BitVec 8) (w : BitVec 24) (pc info : Word) : (s.faultRecord ctx kind cause w pc info).stepped = s.stepped := rfl
@[simp] theorem State.faultRecord_sends (s : State) (ctx kind : Nat) (cause : BitVec 8) (w : BitVec 24) (pc info : Word) : (s.faultRecord ctx kind cause w pc info).sends = s.sends := rfl
@[simp] theorem State.faultRecord_chans (s : State) (ctx kind : Nat) (cause : BitVec 8) (w : BitVec 24) (pc info : Word) : (s.faultRecord ctx kind cause w pc info).chans = s.chans := rfl
@[simp] theorem State.faultRecord_arrivals (s : State) (ctx kind : Nat) (cause : BitVec 8) (w : BitVec 24) (pc info : Word) : (s.faultRecord ctx kind cause w pc info).arrivals = s.arrivals := rfl
@[simp] theorem State.faultRecord_resps (s : State) (ctx kind : Nat) (cause : BitVec 8) (w : BitVec 24) (pc info : Word) : (s.faultRecord ctx kind cause w pc info).resps = s.resps := rfl
@[simp] theorem State.faultRecord_logged (s : State) (ctx kind : Nat) (cause : BitVec 8) (w : BitVec 24) (pc info : Word) : (s.faultRecord ctx kind cause w pc info).logged = s.logged := rfl
@[simp] theorem State.faultRecord_outs (s : State) (ctx kind : Nat) (cause : BitVec 8) (w : BitVec 24) (pc info : Word) : (s.faultRecord ctx kind cause w pc info).outs = s.outs := rfl
@[simp] theorem State.faultRecord_ops (s : State) (ctx kind : Nat) (cause : BitVec 8) (w : BitVec 24) (pc info : Word) : (s.faultRecord ctx kind cause w pc info).ops = s.ops := rfl
@[simp] theorem State.faultRecord_accs (s : State) (ctx kind : Nat) (cause : BitVec 8) (w : BitVec 24) (pc info : Word) : (s.faultRecord ctx kind cause w pc info).accs = s.accs := rfl
@[simp] theorem State.faultRecord_fresh (s : State) (ctx kind : Nat) (cause : BitVec 8) (w : BitVec 24) (pc info : Word) : (s.faultRecord ctx kind cause w pc info).fresh = s.fresh := rfl
@[simp] theorem State.faultRecord_spilling (s : State) (ctx kind : Nat) (cause : BitVec 8) (w : BitVec 24) (pc info : Word) : (s.faultRecord ctx kind cause w pc info).spilling = s.spilling := rfl
@[simp] theorem State.faultRecord_batches (s : State) (ctx kind : Nat) (cause : BitVec 8) (w : BitVec 24) (pc info : Word) : (s.faultRecord ctx kind cause w pc info).batches = s.batches := rfl
@[simp] theorem State.faultRecord_lastWave (s : State) (ctx kind : Nat) (cause : BitVec 8) (w : BitVec 24) (pc info : Word) : (s.faultRecord ctx kind cause w pc info).lastWave = s.lastWave := rfl
@[simp] theorem State.faultRecord_stopped (s : State) (ctx kind : Nat) (cause : BitVec 8) (w : BitVec 24) (pc info : Word) : (s.faultRecord ctx kind cause w pc info).stopped = s.stopped := rfl
@[simp] theorem State.faultRecord_notices (s : State) (ctx kind : Nat) (cause : BitVec 8) (w : BitVec 24) (pc info : Word) : (s.faultRecord ctx kind cause w pc info).notices = s.notices := rfl
@[simp] theorem State.faultRecord_redMsgs (s : State) (ctx kind : Nat) (cause : BitVec 8) (w : BitVec 24) (pc info : Word) : (s.faultRecord ctx kind cause w pc info).redMsgs = s.redMsgs := rfl
@[simp] theorem State.faultRecord_saving (s : State) (ctx kind : Nat) (cause : BitVec 8) (w : BitVec 24) (pc info : Word) : (s.faultRecord ctx kind cause w pc info).saving = s.saving := rfl
@[simp] theorem State.faultRecord_launches (s : State) (ctx kind : Nat) (cause : BitVec 8) (w : BitVec 24) (pc info : Word) : (s.faultRecord ctx kind cause w pc info).launches = s.launches := rfl
@[simp] theorem State.faultRecord_ctxs (s : State) (ctx kind : Nat) (cause : BitVec 8) (w : BitVec 24) (pc info : Word) : (s.faultRecord ctx kind cause w pc info).ctxs = s.ctxs := rfl
@[simp] theorem State.faultRecord_groups (s : State) (ctx kind : Nat) (cause : BitVec 8) (w : BitVec 24) (pc info : Word) : (s.faultRecord ctx kind cause w pc info).groups = s.groups := rfl
@[simp] theorem State.faultRecord_ring (s : State) (ctx kind : Nat) (cause : BitVec 8) (w : BitVec 24) (pc info : Word) : (s.faultRecord ctx kind cause w pc info).ring = s.ring := rfl
@[simp] theorem State.faultRecord_fuses (s : State) (ctx kind : Nat) (cause : BitVec 8) (w : BitVec 24) (pc info : Word) : (s.faultRecord ctx kind cause w pc info).fuses = s.fuses := rfl
@[simp] theorem State.faultRecord_recovery (s : State) (ctx kind : Nat) (cause : BitVec 8) (w : BitVec 24) (pc info : Word) : (s.faultRecord ctx kind cause w pc info).recovery = s.recovery := rfl
@[simp] theorem State.faultRecord_linksDown (s : State) (ctx kind : Nat) (cause : BitVec 8) (w : BitVec 24) (pc info : Word) : (s.faultRecord ctx kind cause w pc info).linksDown = s.linksDown := rfl
@[simp] theorem State.faultRecord_firmware (s : State) (ctx kind : Nat) (cause : BitVec 8) (w : BitVec 24) (pc info : Word) : (s.faultRecord ctx kind cause w pc info).firmware = s.firmware := rfl
@[simp] theorem State.faultRecord_intake (s : State) (ctx kind : Nat) (cause : BitVec 8) (w : BitVec 24) (pc info : Word) : (s.faultRecord ctx kind cause w pc info).intake = s.intake := rfl
@[simp] theorem State.faultRecord_hostRead (s : State) (ctx kind : Nat) (cause : BitVec 8) (w : BitVec 24) (pc info : Word) : (s.faultRecord ctx kind cause w pc info).hostRead = s.hostRead := rfl
@[simp] theorem State.faultRecord_ports (s : State) (ctx kind : Nat) (cause : BitVec 8) (w : BitVec 24) (pc info : Word) : (s.faultRecord ctx kind cause w pc info).ports = s.ports := rfl
@[simp] theorem State.faultRecord_packages (s : State) (ctx kind : Nat) (cause : BitVec 8) (w : BitVec 24) (pc info : Word) : (s.faultRecord ctx kind cause w pc info).packages = s.packages := rfl
@[simp] theorem State.faultRecord_etherType (s : State) (ctx kind : Nat) (cause : BitVec 8) (w : BitVec 24) (pc info : Word) : (s.faultRecord ctx kind cause w pc info).etherType = s.etherType := rfl
@[simp] theorem State.faultRecord_frames (s : State) (ctx kind : Nat) (cause : BitVec 8) (w : BitVec 24) (pc info : Word) : (s.faultRecord ctx kind cause w pc info).frames = s.frames := rfl
@[simp] theorem State.faultRecord_watchdog (s : State) (ctx kind : Nat) (cause : BitVec 8) (w : BitVec 24) (pc info : Word) : (s.faultRecord ctx kind cause w pc info).watchdog = s.watchdog := rfl
@[simp] theorem State.faultRecord_mgmt (s : State) (ctx kind : Nat) (cause : BitVec 8) (w : BitVec 24) (pc info : Word) : (s.faultRecord ctx kind cause w pc info).mgmt = s.mgmt := rfl
@[simp] theorem State.faultRecord_nextId (s : State) (ctx kind : Nat) (cause : BitVec 8) (w : BitVec 24) (pc info : Word) : (s.faultRecord ctx kind cause w pc info).nextId = s.nextId := rfl
@[simp] theorem State.faultRecord_freeCtr (s : State) (ctx kind : Nat) (cause : BitVec 8) (w : BitVec 24) (pc info : Word) : (s.faultRecord ctx kind cause w pc info).freeCtr = s.freeCtr := rfl
@[simp] theorem State.faultRecord_agenda (s : State) (ctx kind : Nat) (cause : BitVec 8) (w : BitVec 24) (pc info : Word) : (s.faultRecord ctx kind cause w pc info).agenda = s.agenda := rfl

@[simp] theorem State.setFaulted_cycle (s : State) (ctx : Nat) : (s.setFaulted ctx).cycle = s.cycle := rfl
@[simp] theorem State.setFaulted_cur (s : State) (ctx : Nat) : (s.setFaulted ctx).cur = s.cur := rfl
@[simp] theorem State.setFaulted_slots (s : State) (ctx : Nat) : (s.setFaulted ctx).slots = s.slots := rfl
@[simp] theorem State.setFaulted_cores (s : State) (ctx : Nat) : (s.setFaulted ctx).cores = s.cores := rfl
@[simp] theorem State.setFaulted_dies (s : State) (ctx : Nat) : (s.setFaulted ctx).dies = s.dies := rfl
@[simp] theorem State.setFaulted_mem (s : State) (ctx : Nat) : (s.setFaulted ctx).mem = s.mem := rfl
@[simp] theorem State.setFaulted_side (s : State) (ctx : Nat) : (s.setFaulted ctx).side = s.side := rfl
@[simp] theorem State.setFaulted_errors (s : State) (ctx : Nat) : (s.setFaulted ctx).errors = s.errors := rfl
@[simp] theorem State.setFaulted_stepped (s : State) (ctx : Nat) : (s.setFaulted ctx).stepped = s.stepped := rfl
@[simp] theorem State.setFaulted_sends (s : State) (ctx : Nat) : (s.setFaulted ctx).sends = s.sends := rfl
@[simp] theorem State.setFaulted_chans (s : State) (ctx : Nat) : (s.setFaulted ctx).chans = s.chans := rfl
@[simp] theorem State.setFaulted_arrivals (s : State) (ctx : Nat) : (s.setFaulted ctx).arrivals = s.arrivals := rfl
@[simp] theorem State.setFaulted_resps (s : State) (ctx : Nat) : (s.setFaulted ctx).resps = s.resps := rfl
@[simp] theorem State.setFaulted_logged (s : State) (ctx : Nat) : (s.setFaulted ctx).logged = s.logged := rfl
@[simp] theorem State.setFaulted_outs (s : State) (ctx : Nat) : (s.setFaulted ctx).outs = s.outs := rfl
@[simp] theorem State.setFaulted_ops (s : State) (ctx : Nat) : (s.setFaulted ctx).ops = s.ops := rfl
@[simp] theorem State.setFaulted_accs (s : State) (ctx : Nat) : (s.setFaulted ctx).accs = s.accs := rfl
@[simp] theorem State.setFaulted_fresh (s : State) (ctx : Nat) : (s.setFaulted ctx).fresh = s.fresh := rfl
@[simp] theorem State.setFaulted_spilling (s : State) (ctx : Nat) : (s.setFaulted ctx).spilling = s.spilling := rfl
@[simp] theorem State.setFaulted_batches (s : State) (ctx : Nat) : (s.setFaulted ctx).batches = s.batches := rfl
@[simp] theorem State.setFaulted_lastWave (s : State) (ctx : Nat) : (s.setFaulted ctx).lastWave = s.lastWave := rfl
@[simp] theorem State.setFaulted_stopped (s : State) (ctx : Nat) : (s.setFaulted ctx).stopped = s.stopped := rfl
@[simp] theorem State.setFaulted_notices (s : State) (ctx : Nat) : (s.setFaulted ctx).notices = s.notices := rfl
@[simp] theorem State.setFaulted_redMsgs (s : State) (ctx : Nat) : (s.setFaulted ctx).redMsgs = s.redMsgs := rfl
@[simp] theorem State.setFaulted_saving (s : State) (ctx : Nat) : (s.setFaulted ctx).saving = s.saving := rfl
@[simp] theorem State.setFaulted_launches (s : State) (ctx : Nat) : (s.setFaulted ctx).launches = s.launches := rfl
@[simp] theorem State.setFaulted_ctxs (s : State) (ctx : Nat) : (s.setFaulted ctx).ctxs = s.ctxs := rfl
@[simp] theorem State.setFaulted_groups (s : State) (ctx : Nat) : (s.setFaulted ctx).groups = s.groups := rfl
@[simp] theorem State.setFaulted_ring (s : State) (ctx : Nat) : (s.setFaulted ctx).ring = s.ring := rfl
@[simp] theorem State.setFaulted_fuses (s : State) (ctx : Nat) : (s.setFaulted ctx).fuses = s.fuses := rfl
@[simp] theorem State.setFaulted_recovery (s : State) (ctx : Nat) : (s.setFaulted ctx).recovery = s.recovery := rfl
@[simp] theorem State.setFaulted_linksDown (s : State) (ctx : Nat) : (s.setFaulted ctx).linksDown = s.linksDown := rfl
@[simp] theorem State.setFaulted_firmware (s : State) (ctx : Nat) : (s.setFaulted ctx).firmware = s.firmware := rfl
@[simp] theorem State.setFaulted_intake (s : State) (ctx : Nat) : (s.setFaulted ctx).intake = s.intake := rfl
@[simp] theorem State.setFaulted_hostRead (s : State) (ctx : Nat) : (s.setFaulted ctx).hostRead = s.hostRead := rfl
@[simp] theorem State.setFaulted_ports (s : State) (ctx : Nat) : (s.setFaulted ctx).ports = s.ports := rfl
@[simp] theorem State.setFaulted_packages (s : State) (ctx : Nat) : (s.setFaulted ctx).packages = s.packages := rfl
@[simp] theorem State.setFaulted_etherType (s : State) (ctx : Nat) : (s.setFaulted ctx).etherType = s.etherType := rfl
@[simp] theorem State.setFaulted_frames (s : State) (ctx : Nat) : (s.setFaulted ctx).frames = s.frames := rfl
@[simp] theorem State.setFaulted_watchdog (s : State) (ctx : Nat) : (s.setFaulted ctx).watchdog = s.watchdog := rfl
@[simp] theorem State.setFaulted_mgmt (s : State) (ctx : Nat) : (s.setFaulted ctx).mgmt = s.mgmt := rfl
@[simp] theorem State.setFaulted_nextId (s : State) (ctx : Nat) : (s.setFaulted ctx).nextId = s.nextId := rfl
@[simp] theorem State.setFaulted_freeCtr (s : State) (ctx : Nat) : (s.setFaulted ctx).freeCtr = s.freeCtr := rfl
@[simp] theorem State.setFaulted_agenda (s : State) (ctx : Nat) : (s.setFaulted ctx).agenda = s.agenda := rfl

@[simp] theorem State.addReq_cycle (s : State) (r : Req) (c : OutClass) (a : Word) : (s.addReq r c a).cycle = s.cycle := rfl
@[simp] theorem State.addReq_cur (s : State) (r : Req) (c : OutClass) (a : Word) : (s.addReq r c a).cur = s.cur := rfl
@[simp] theorem State.addReq_slots (s : State) (r : Req) (c : OutClass) (a : Word) : (s.addReq r c a).slots = s.slots := rfl
@[simp] theorem State.addReq_cores (s : State) (r : Req) (c : OutClass) (a : Word) : (s.addReq r c a).cores = s.cores := rfl
@[simp] theorem State.addReq_dies (s : State) (r : Req) (c : OutClass) (a : Word) : (s.addReq r c a).dies = s.dies := rfl
@[simp] theorem State.addReq_mem (s : State) (r : Req) (c : OutClass) (a : Word) : (s.addReq r c a).mem = s.mem := rfl
@[simp] theorem State.addReq_side (s : State) (r : Req) (c : OutClass) (a : Word) : (s.addReq r c a).side = s.side := rfl
@[simp] theorem State.addReq_errors (s : State) (r : Req) (c : OutClass) (a : Word) : (s.addReq r c a).errors = s.errors := rfl
@[simp] theorem State.addReq_stepped (s : State) (r : Req) (c : OutClass) (a : Word) : (s.addReq r c a).stepped = s.stepped := rfl
@[simp] theorem State.addReq_chans (s : State) (r : Req) (c : OutClass) (a : Word) : (s.addReq r c a).chans = s.chans := rfl
@[simp] theorem State.addReq_arrivals (s : State) (r : Req) (c : OutClass) (a : Word) : (s.addReq r c a).arrivals = s.arrivals := rfl
@[simp] theorem State.addReq_resps (s : State) (r : Req) (c : OutClass) (a : Word) : (s.addReq r c a).resps = s.resps := rfl
@[simp] theorem State.addReq_logged (s : State) (r : Req) (c : OutClass) (a : Word) : (s.addReq r c a).logged = s.logged := rfl
@[simp] theorem State.addReq_ops (s : State) (r : Req) (c : OutClass) (a : Word) : (s.addReq r c a).ops = s.ops := rfl
@[simp] theorem State.addReq_accs (s : State) (r : Req) (c : OutClass) (a : Word) : (s.addReq r c a).accs = s.accs := rfl
@[simp] theorem State.addReq_fresh (s : State) (r : Req) (c : OutClass) (a : Word) : (s.addReq r c a).fresh = s.fresh := rfl
@[simp] theorem State.addReq_spilling (s : State) (r : Req) (c : OutClass) (a : Word) : (s.addReq r c a).spilling = s.spilling := rfl
@[simp] theorem State.addReq_batches (s : State) (r : Req) (c : OutClass) (a : Word) : (s.addReq r c a).batches = s.batches := rfl
@[simp] theorem State.addReq_lastWave (s : State) (r : Req) (c : OutClass) (a : Word) : (s.addReq r c a).lastWave = s.lastWave := rfl
@[simp] theorem State.addReq_stopped (s : State) (r : Req) (c : OutClass) (a : Word) : (s.addReq r c a).stopped = s.stopped := rfl
@[simp] theorem State.addReq_notices (s : State) (r : Req) (c : OutClass) (a : Word) : (s.addReq r c a).notices = s.notices := rfl
@[simp] theorem State.addReq_redMsgs (s : State) (r : Req) (c : OutClass) (a : Word) : (s.addReq r c a).redMsgs = s.redMsgs := rfl
@[simp] theorem State.addReq_saving (s : State) (r : Req) (c : OutClass) (a : Word) : (s.addReq r c a).saving = s.saving := rfl
@[simp] theorem State.addReq_launches (s : State) (r : Req) (c : OutClass) (a : Word) : (s.addReq r c a).launches = s.launches := rfl
@[simp] theorem State.addReq_ctxs (s : State) (r : Req) (c : OutClass) (a : Word) : (s.addReq r c a).ctxs = s.ctxs := rfl
@[simp] theorem State.addReq_groups (s : State) (r : Req) (c : OutClass) (a : Word) : (s.addReq r c a).groups = s.groups := rfl
@[simp] theorem State.addReq_ring (s : State) (r : Req) (c : OutClass) (a : Word) : (s.addReq r c a).ring = s.ring := rfl
@[simp] theorem State.addReq_bar0 (s : State) (r : Req) (c : OutClass) (a : Word) : (s.addReq r c a).bar0 = s.bar0 := rfl
@[simp] theorem State.addReq_fuses (s : State) (r : Req) (c : OutClass) (a : Word) : (s.addReq r c a).fuses = s.fuses := rfl
@[simp] theorem State.addReq_recovery (s : State) (r : Req) (c : OutClass) (a : Word) : (s.addReq r c a).recovery = s.recovery := rfl
@[simp] theorem State.addReq_linksDown (s : State) (r : Req) (c : OutClass) (a : Word) : (s.addReq r c a).linksDown = s.linksDown := rfl
@[simp] theorem State.addReq_firmware (s : State) (r : Req) (c : OutClass) (a : Word) : (s.addReq r c a).firmware = s.firmware := rfl
@[simp] theorem State.addReq_intake (s : State) (r : Req) (c : OutClass) (a : Word) : (s.addReq r c a).intake = s.intake := rfl
@[simp] theorem State.addReq_hostRead (s : State) (r : Req) (c : OutClass) (a : Word) : (s.addReq r c a).hostRead = s.hostRead := rfl
@[simp] theorem State.addReq_ports (s : State) (r : Req) (c : OutClass) (a : Word) : (s.addReq r c a).ports = s.ports := rfl
@[simp] theorem State.addReq_packages (s : State) (r : Req) (c : OutClass) (a : Word) : (s.addReq r c a).packages = s.packages := rfl
@[simp] theorem State.addReq_etherType (s : State) (r : Req) (c : OutClass) (a : Word) : (s.addReq r c a).etherType = s.etherType := rfl
@[simp] theorem State.addReq_frames (s : State) (r : Req) (c : OutClass) (a : Word) : (s.addReq r c a).frames = s.frames := rfl
@[simp] theorem State.addReq_watchdog (s : State) (r : Req) (c : OutClass) (a : Word) : (s.addReq r c a).watchdog = s.watchdog := rfl
@[simp] theorem State.addReq_mgmt (s : State) (r : Req) (c : OutClass) (a : Word) : (s.addReq r c a).mgmt = s.mgmt := rfl
@[simp] theorem State.addReq_nextId (s : State) (r : Req) (c : OutClass) (a : Word) : (s.addReq r c a).nextId = s.nextId := rfl
@[simp] theorem State.addReq_freeCtr (s : State) (r : Req) (c : OutClass) (a : Word) : (s.addReq r c a).freeCtr = s.freeCtr := rfl
@[simp] theorem State.addReq_agenda (s : State) (r : Req) (c : OutClass) (a : Word) : (s.addReq r c a).agenda = s.agenda := rfl
/-! ### Registers of a thread -/

@[simp] theorem Thread.writeS_uid (t : Thread) (r : BitVec 5) (x : Word) : (t.writeS r x).uid = t.uid := by
  unfold Thread.writeS; split <;> rfl
@[simp] theorem Thread.writeS_ctx (t : Thread) (r : BitVec 5) (x : Word) : (t.writeS r x).ctx = t.ctx := by
  unfold Thread.writeS; split <;> rfl
@[simp] theorem Thread.writeS_pc (t : Thread) (r : BitVec 5) (x : Word) : (t.writeS r x).pc = t.pc := by
  unfold Thread.writeS; split <;> rfl
@[simp] theorem Thread.writeS_q (t : Thread) (r : BitVec 5) (x : Word) : (t.writeS r x).q = t.q := by
  unfold Thread.writeS; split <;> rfl
@[simp] theorem Thread.writeS_v (t : Thread) (r : BitVec 5) (x : Word) : (t.writeS r x).v = t.v := by
  unfold Thread.writeS; split <;> rfl
@[simp] theorem Thread.writeS_p (t : Thread) (r : BitVec 5) (x : Word) : (t.writeS r x).p = t.p := by
  unfold Thread.writeS; split <;> rfl
@[simp] theorem Thread.writeS_d (t : Thread) (r : BitVec 5) (x : Word) : (t.writeS r x).d = t.d := by
  unfold Thread.writeS; split <;> rfl
@[simp] theorem Thread.writeS_acc (t : Thread) (r : BitVec 5) (x : Word) : (t.writeS r x).acc = t.acc := by
  unfold Thread.writeS; split <;> rfl
@[simp] theorem Thread.writeS_sys (t : Thread) (r : BitVec 5) (x : Word) : (t.writeS r x).sys = t.sys := by
  unfold Thread.writeS; split <;> rfl
@[simp] theorem Thread.writeS_hs (t : Thread) (r : BitVec 5) (x : Word) : (t.writeS r x).hs = t.hs := by
  unfold Thread.writeS; split <;> rfl
@[simp] theorem Thread.writeS_priv (t : Thread) (r : BitVec 5) (x : Word) : (t.writeS r x).priv = t.priv := by
  unfold Thread.writeS; split <;> rfl
@[simp] theorem Thread.writeS_tags (t : Thread) (r : BitVec 5) (x : Word) : (t.writeS r x).tags = t.tags := by
  unfold Thread.writeS; split <;> rfl
@[simp] theorem Thread.writeS_hold (t : Thread) (r : BitVec 5) (x : Word) : (t.writeS r x).hold = t.hold := by
  unfold Thread.writeS; split <;> rfl
@[simp] theorem Thread.writeS_pending (t : Thread) (r : BitVec 5) (x : Word) : (t.writeS r x).pending = t.pending := by
  unfold Thread.writeS; split <;> rfl
@[simp] theorem Thread.writeS_firstWord (t : Thread) (r : BitVec 5) (x : Word) : (t.writeS r x).firstWord = t.firstWord := by
  unfold Thread.writeS; split <;> rfl
@[simp] theorem Thread.writeS_notices (t : Thread) (r : BitVec 5) (x : Word) : (t.writeS r x).notices = t.notices := by
  unfold Thread.writeS; split <;> rfl
@[simp] theorem Thread.writeS_lateFaults (t : Thread) (r : BitVec 5) (x : Word) : (t.writeS r x).lateFaults = t.lateFaults := by
  unfold Thread.writeS; split <;> rfl
@[simp] theorem Thread.writeS_unmerged (t : Thread) (r : BitVec 5) (x : Word) : (t.writeS r x).unmerged = t.unmerged := by
  unfold Thread.writeS; split <;> rfl
@[simp] theorem Thread.writeS_former (t : Thread) (r : BitVec 5) (x : Word) : (t.writeS r x).former = t.former := by
  unfold Thread.writeS; split <;> rfl
@[simp] theorem Thread.writeS_nodeA (t : Thread) (r : BitVec 5) (x : Word) : (t.writeS r x).nodeA = t.nodeA := by
  unfold Thread.writeS; split <;> rfl
@[simp] theorem Thread.writeS_stampedNow (t : Thread) (r : BitVec 5) (x : Word) : (t.writeS r x).stampedNow = t.stampedNow := by
  unfold Thread.writeS; split <;> rfl
@[simp] theorem Thread.writeS_stampedAny (t : Thread) (r : BitVec 5) (x : Word) : (t.writeS r x).stampedAny = t.stampedAny := by
  unfold Thread.writeS; split <;> rfl
@[simp] theorem Thread.writeS_halted (t : Thread) (r : BitVec 5) (x : Word) : (t.writeS r x).halted = t.halted := by
  unfold Thread.writeS; split <;> rfl
@[simp] theorem Thread.writeS_debugDue (t : Thread) (r : BitVec 5) (x : Word) : (t.writeS r x).debugDue = t.debugDue := by
  unfold Thread.writeS; split <;> rfl
@[simp] theorem Thread.writeS_preempt (t : Thread) (r : BitVec 5) (x : Word) : (t.writeS r x).preempt = t.preempt := by
  unfold Thread.writeS; split <;> rfl
@[simp] theorem Thread.writeS_migration (t : Thread) (r : BitVec 5) (x : Word) : (t.writeS r x).migration = t.migration := by
  unfold Thread.writeS; split <;> rfl
@[simp] theorem Thread.writeS_link (t : Thread) (r : BitVec 5) (x : Word) : (t.writeS r x).link = t.link := by
  unfold Thread.writeS; split <;> rfl
@[simp] theorem Thread.writeS_reissue (t : Thread) (r : BitVec 5) (x : Word) : (t.writeS r x).reissue = t.reissue := by
  unfold Thread.writeS; split <;> rfl
@[simp] theorem Thread.writeS_image (t : Thread) (r : BitVec 5) (x : Word) : (t.writeS r x).image = t.image := by
  unfold Thread.writeS; split <;> rfl

@[simp] theorem Thread.writeQ_uid (t : Thread) (r : BitVec 3) (b : Bool) : (t.writeQ r b).uid = t.uid := by
  unfold Thread.writeQ; split <;> rfl
@[simp] theorem Thread.writeQ_ctx (t : Thread) (r : BitVec 3) (b : Bool) : (t.writeQ r b).ctx = t.ctx := by
  unfold Thread.writeQ; split <;> rfl
@[simp] theorem Thread.writeQ_pc (t : Thread) (r : BitVec 3) (b : Bool) : (t.writeQ r b).pc = t.pc := by
  unfold Thread.writeQ; split <;> rfl
@[simp] theorem Thread.writeQ_s (t : Thread) (r : BitVec 3) (b : Bool) : (t.writeQ r b).s = t.s := by
  unfold Thread.writeQ; split <;> rfl
@[simp] theorem Thread.writeQ_v (t : Thread) (r : BitVec 3) (b : Bool) : (t.writeQ r b).v = t.v := by
  unfold Thread.writeQ; split <;> rfl
@[simp] theorem Thread.writeQ_p (t : Thread) (r : BitVec 3) (b : Bool) : (t.writeQ r b).p = t.p := by
  unfold Thread.writeQ; split <;> rfl
@[simp] theorem Thread.writeQ_d (t : Thread) (r : BitVec 3) (b : Bool) : (t.writeQ r b).d = t.d := by
  unfold Thread.writeQ; split <;> rfl
@[simp] theorem Thread.writeQ_acc (t : Thread) (r : BitVec 3) (b : Bool) : (t.writeQ r b).acc = t.acc := by
  unfold Thread.writeQ; split <;> rfl
@[simp] theorem Thread.writeQ_sys (t : Thread) (r : BitVec 3) (b : Bool) : (t.writeQ r b).sys = t.sys := by
  unfold Thread.writeQ; split <;> rfl
@[simp] theorem Thread.writeQ_hs (t : Thread) (r : BitVec 3) (b : Bool) : (t.writeQ r b).hs = t.hs := by
  unfold Thread.writeQ; split <;> rfl
@[simp] theorem Thread.writeQ_priv (t : Thread) (r : BitVec 3) (b : Bool) : (t.writeQ r b).priv = t.priv := by
  unfold Thread.writeQ; split <;> rfl
@[simp] theorem Thread.writeQ_tags (t : Thread) (r : BitVec 3) (b : Bool) : (t.writeQ r b).tags = t.tags := by
  unfold Thread.writeQ; split <;> rfl
@[simp] theorem Thread.writeQ_hold (t : Thread) (r : BitVec 3) (b : Bool) : (t.writeQ r b).hold = t.hold := by
  unfold Thread.writeQ; split <;> rfl
@[simp] theorem Thread.writeQ_pending (t : Thread) (r : BitVec 3) (b : Bool) : (t.writeQ r b).pending = t.pending := by
  unfold Thread.writeQ; split <;> rfl
@[simp] theorem Thread.writeQ_firstWord (t : Thread) (r : BitVec 3) (b : Bool) : (t.writeQ r b).firstWord = t.firstWord := by
  unfold Thread.writeQ; split <;> rfl
@[simp] theorem Thread.writeQ_notices (t : Thread) (r : BitVec 3) (b : Bool) : (t.writeQ r b).notices = t.notices := by
  unfold Thread.writeQ; split <;> rfl
@[simp] theorem Thread.writeQ_lateFaults (t : Thread) (r : BitVec 3) (b : Bool) : (t.writeQ r b).lateFaults = t.lateFaults := by
  unfold Thread.writeQ; split <;> rfl
@[simp] theorem Thread.writeQ_unmerged (t : Thread) (r : BitVec 3) (b : Bool) : (t.writeQ r b).unmerged = t.unmerged := by
  unfold Thread.writeQ; split <;> rfl
@[simp] theorem Thread.writeQ_former (t : Thread) (r : BitVec 3) (b : Bool) : (t.writeQ r b).former = t.former := by
  unfold Thread.writeQ; split <;> rfl
@[simp] theorem Thread.writeQ_nodeA (t : Thread) (r : BitVec 3) (b : Bool) : (t.writeQ r b).nodeA = t.nodeA := by
  unfold Thread.writeQ; split <;> rfl
@[simp] theorem Thread.writeQ_stampedNow (t : Thread) (r : BitVec 3) (b : Bool) : (t.writeQ r b).stampedNow = t.stampedNow := by
  unfold Thread.writeQ; split <;> rfl
@[simp] theorem Thread.writeQ_stampedAny (t : Thread) (r : BitVec 3) (b : Bool) : (t.writeQ r b).stampedAny = t.stampedAny := by
  unfold Thread.writeQ; split <;> rfl
@[simp] theorem Thread.writeQ_halted (t : Thread) (r : BitVec 3) (b : Bool) : (t.writeQ r b).halted = t.halted := by
  unfold Thread.writeQ; split <;> rfl
@[simp] theorem Thread.writeQ_debugDue (t : Thread) (r : BitVec 3) (b : Bool) : (t.writeQ r b).debugDue = t.debugDue := by
  unfold Thread.writeQ; split <;> rfl
@[simp] theorem Thread.writeQ_preempt (t : Thread) (r : BitVec 3) (b : Bool) : (t.writeQ r b).preempt = t.preempt := by
  unfold Thread.writeQ; split <;> rfl
@[simp] theorem Thread.writeQ_migration (t : Thread) (r : BitVec 3) (b : Bool) : (t.writeQ r b).migration = t.migration := by
  unfold Thread.writeQ; split <;> rfl
@[simp] theorem Thread.writeQ_link (t : Thread) (r : BitVec 3) (b : Bool) : (t.writeQ r b).link = t.link := by
  unfold Thread.writeQ; split <;> rfl
@[simp] theorem Thread.writeQ_reissue (t : Thread) (r : BitVec 3) (b : Bool) : (t.writeQ r b).reissue = t.reissue := by
  unfold Thread.writeQ; split <;> rfl
@[simp] theorem Thread.writeQ_image (t : Thread) (r : BitVec 3) (b : Bool) : (t.writeQ r b).image = t.image := by
  unfold Thread.writeQ; split <;> rfl

@[simp] theorem Thread.writeP_uid (t : Thread) (r : BitVec 3) (x : Word) : (t.writeP r x).uid = t.uid := by
  unfold Thread.writeP; split <;> rfl
@[simp] theorem Thread.writeP_ctx (t : Thread) (r : BitVec 3) (x : Word) : (t.writeP r x).ctx = t.ctx := by
  unfold Thread.writeP; split <;> rfl
@[simp] theorem Thread.writeP_pc (t : Thread) (r : BitVec 3) (x : Word) : (t.writeP r x).pc = t.pc := by
  unfold Thread.writeP; split <;> rfl
@[simp] theorem Thread.writeP_s (t : Thread) (r : BitVec 3) (x : Word) : (t.writeP r x).s = t.s := by
  unfold Thread.writeP; split <;> rfl
@[simp] theorem Thread.writeP_q (t : Thread) (r : BitVec 3) (x : Word) : (t.writeP r x).q = t.q := by
  unfold Thread.writeP; split <;> rfl
@[simp] theorem Thread.writeP_v (t : Thread) (r : BitVec 3) (x : Word) : (t.writeP r x).v = t.v := by
  unfold Thread.writeP; split <;> rfl
@[simp] theorem Thread.writeP_d (t : Thread) (r : BitVec 3) (x : Word) : (t.writeP r x).d = t.d := by
  unfold Thread.writeP; split <;> rfl
@[simp] theorem Thread.writeP_acc (t : Thread) (r : BitVec 3) (x : Word) : (t.writeP r x).acc = t.acc := by
  unfold Thread.writeP; split <;> rfl
@[simp] theorem Thread.writeP_sys (t : Thread) (r : BitVec 3) (x : Word) : (t.writeP r x).sys = t.sys := by
  unfold Thread.writeP; split <;> rfl
@[simp] theorem Thread.writeP_hs (t : Thread) (r : BitVec 3) (x : Word) : (t.writeP r x).hs = t.hs := by
  unfold Thread.writeP; split <;> rfl
@[simp] theorem Thread.writeP_priv (t : Thread) (r : BitVec 3) (x : Word) : (t.writeP r x).priv = t.priv := by
  unfold Thread.writeP; split <;> rfl
@[simp] theorem Thread.writeP_tags (t : Thread) (r : BitVec 3) (x : Word) : (t.writeP r x).tags = t.tags := by
  unfold Thread.writeP; split <;> rfl
@[simp] theorem Thread.writeP_hold (t : Thread) (r : BitVec 3) (x : Word) : (t.writeP r x).hold = t.hold := by
  unfold Thread.writeP; split <;> rfl
@[simp] theorem Thread.writeP_pending (t : Thread) (r : BitVec 3) (x : Word) : (t.writeP r x).pending = t.pending := by
  unfold Thread.writeP; split <;> rfl
@[simp] theorem Thread.writeP_firstWord (t : Thread) (r : BitVec 3) (x : Word) : (t.writeP r x).firstWord = t.firstWord := by
  unfold Thread.writeP; split <;> rfl
@[simp] theorem Thread.writeP_notices (t : Thread) (r : BitVec 3) (x : Word) : (t.writeP r x).notices = t.notices := by
  unfold Thread.writeP; split <;> rfl
@[simp] theorem Thread.writeP_lateFaults (t : Thread) (r : BitVec 3) (x : Word) : (t.writeP r x).lateFaults = t.lateFaults := by
  unfold Thread.writeP; split <;> rfl
@[simp] theorem Thread.writeP_unmerged (t : Thread) (r : BitVec 3) (x : Word) : (t.writeP r x).unmerged = t.unmerged := by
  unfold Thread.writeP; split <;> rfl
@[simp] theorem Thread.writeP_former (t : Thread) (r : BitVec 3) (x : Word) : (t.writeP r x).former = t.former := by
  unfold Thread.writeP; split <;> rfl
@[simp] theorem Thread.writeP_nodeA (t : Thread) (r : BitVec 3) (x : Word) : (t.writeP r x).nodeA = t.nodeA := by
  unfold Thread.writeP; split <;> rfl
@[simp] theorem Thread.writeP_stampedNow (t : Thread) (r : BitVec 3) (x : Word) : (t.writeP r x).stampedNow = t.stampedNow := by
  unfold Thread.writeP; split <;> rfl
@[simp] theorem Thread.writeP_stampedAny (t : Thread) (r : BitVec 3) (x : Word) : (t.writeP r x).stampedAny = t.stampedAny := by
  unfold Thread.writeP; split <;> rfl
@[simp] theorem Thread.writeP_halted (t : Thread) (r : BitVec 3) (x : Word) : (t.writeP r x).halted = t.halted := by
  unfold Thread.writeP; split <;> rfl
@[simp] theorem Thread.writeP_debugDue (t : Thread) (r : BitVec 3) (x : Word) : (t.writeP r x).debugDue = t.debugDue := by
  unfold Thread.writeP; split <;> rfl
@[simp] theorem Thread.writeP_preempt (t : Thread) (r : BitVec 3) (x : Word) : (t.writeP r x).preempt = t.preempt := by
  unfold Thread.writeP; split <;> rfl
@[simp] theorem Thread.writeP_migration (t : Thread) (r : BitVec 3) (x : Word) : (t.writeP r x).migration = t.migration := by
  unfold Thread.writeP; split <;> rfl
@[simp] theorem Thread.writeP_link (t : Thread) (r : BitVec 3) (x : Word) : (t.writeP r x).link = t.link := by
  unfold Thread.writeP; split <;> rfl
@[simp] theorem Thread.writeP_reissue (t : Thread) (r : BitVec 3) (x : Word) : (t.writeP r x).reissue = t.reissue := by
  unfold Thread.writeP; split <;> rfl
@[simp] theorem Thread.writeP_image (t : Thread) (r : BitVec 3) (x : Word) : (t.writeP r x).image = t.image := by
  unfold Thread.writeP; split <;> rfl

@[simp] theorem Thread.writeV_uid (t : Thread) (r : BitVec 6) (x : VReg) : (t.writeV r x).uid = t.uid := rfl
@[simp] theorem Thread.writeV_ctx (t : Thread) (r : BitVec 6) (x : VReg) : (t.writeV r x).ctx = t.ctx := rfl
@[simp] theorem Thread.writeV_pc (t : Thread) (r : BitVec 6) (x : VReg) : (t.writeV r x).pc = t.pc := rfl
@[simp] theorem Thread.writeV_s (t : Thread) (r : BitVec 6) (x : VReg) : (t.writeV r x).s = t.s := rfl
@[simp] theorem Thread.writeV_q (t : Thread) (r : BitVec 6) (x : VReg) : (t.writeV r x).q = t.q := rfl
@[simp] theorem Thread.writeV_p (t : Thread) (r : BitVec 6) (x : VReg) : (t.writeV r x).p = t.p := rfl
@[simp] theorem Thread.writeV_d (t : Thread) (r : BitVec 6) (x : VReg) : (t.writeV r x).d = t.d := rfl
@[simp] theorem Thread.writeV_acc (t : Thread) (r : BitVec 6) (x : VReg) : (t.writeV r x).acc = t.acc := rfl
@[simp] theorem Thread.writeV_sys (t : Thread) (r : BitVec 6) (x : VReg) : (t.writeV r x).sys = t.sys := rfl
@[simp] theorem Thread.writeV_hs (t : Thread) (r : BitVec 6) (x : VReg) : (t.writeV r x).hs = t.hs := rfl
@[simp] theorem Thread.writeV_priv (t : Thread) (r : BitVec 6) (x : VReg) : (t.writeV r x).priv = t.priv := rfl
@[simp] theorem Thread.writeV_tags (t : Thread) (r : BitVec 6) (x : VReg) : (t.writeV r x).tags = t.tags := rfl
@[simp] theorem Thread.writeV_hold (t : Thread) (r : BitVec 6) (x : VReg) : (t.writeV r x).hold = t.hold := rfl
@[simp] theorem Thread.writeV_pending (t : Thread) (r : BitVec 6) (x : VReg) : (t.writeV r x).pending = t.pending := rfl
@[simp] theorem Thread.writeV_firstWord (t : Thread) (r : BitVec 6) (x : VReg) : (t.writeV r x).firstWord = t.firstWord := rfl
@[simp] theorem Thread.writeV_notices (t : Thread) (r : BitVec 6) (x : VReg) : (t.writeV r x).notices = t.notices := rfl
@[simp] theorem Thread.writeV_lateFaults (t : Thread) (r : BitVec 6) (x : VReg) : (t.writeV r x).lateFaults = t.lateFaults := rfl
@[simp] theorem Thread.writeV_unmerged (t : Thread) (r : BitVec 6) (x : VReg) : (t.writeV r x).unmerged = t.unmerged := rfl
@[simp] theorem Thread.writeV_former (t : Thread) (r : BitVec 6) (x : VReg) : (t.writeV r x).former = t.former := rfl
@[simp] theorem Thread.writeV_nodeA (t : Thread) (r : BitVec 6) (x : VReg) : (t.writeV r x).nodeA = t.nodeA := rfl
@[simp] theorem Thread.writeV_stampedNow (t : Thread) (r : BitVec 6) (x : VReg) : (t.writeV r x).stampedNow = t.stampedNow := rfl
@[simp] theorem Thread.writeV_stampedAny (t : Thread) (r : BitVec 6) (x : VReg) : (t.writeV r x).stampedAny = t.stampedAny := rfl
@[simp] theorem Thread.writeV_halted (t : Thread) (r : BitVec 6) (x : VReg) : (t.writeV r x).halted = t.halted := rfl
@[simp] theorem Thread.writeV_debugDue (t : Thread) (r : BitVec 6) (x : VReg) : (t.writeV r x).debugDue = t.debugDue := rfl
@[simp] theorem Thread.writeV_preempt (t : Thread) (r : BitVec 6) (x : VReg) : (t.writeV r x).preempt = t.preempt := rfl
@[simp] theorem Thread.writeV_migration (t : Thread) (r : BitVec 6) (x : VReg) : (t.writeV r x).migration = t.migration := rfl
@[simp] theorem Thread.writeV_link (t : Thread) (r : BitVec 6) (x : VReg) : (t.writeV r x).link = t.link := rfl
@[simp] theorem Thread.writeV_reissue (t : Thread) (r : BitVec 6) (x : VReg) : (t.writeV r x).reissue = t.reissue := rfl
@[simp] theorem Thread.writeV_image (t : Thread) (r : BitVec 6) (x : VReg) : (t.writeV r x).image = t.image := rfl

@[simp] theorem Thread.writeD_uid (t : Thread) (r : BitVec 4) (x : BitVec 128) : (t.writeD r x).uid = t.uid := rfl
@[simp] theorem Thread.writeD_ctx (t : Thread) (r : BitVec 4) (x : BitVec 128) : (t.writeD r x).ctx = t.ctx := rfl
@[simp] theorem Thread.writeD_pc (t : Thread) (r : BitVec 4) (x : BitVec 128) : (t.writeD r x).pc = t.pc := rfl
@[simp] theorem Thread.writeD_s (t : Thread) (r : BitVec 4) (x : BitVec 128) : (t.writeD r x).s = t.s := rfl
@[simp] theorem Thread.writeD_q (t : Thread) (r : BitVec 4) (x : BitVec 128) : (t.writeD r x).q = t.q := rfl
@[simp] theorem Thread.writeD_v (t : Thread) (r : BitVec 4) (x : BitVec 128) : (t.writeD r x).v = t.v := rfl
@[simp] theorem Thread.writeD_p (t : Thread) (r : BitVec 4) (x : BitVec 128) : (t.writeD r x).p = t.p := rfl
@[simp] theorem Thread.writeD_acc (t : Thread) (r : BitVec 4) (x : BitVec 128) : (t.writeD r x).acc = t.acc := rfl
@[simp] theorem Thread.writeD_sys (t : Thread) (r : BitVec 4) (x : BitVec 128) : (t.writeD r x).sys = t.sys := rfl
@[simp] theorem Thread.writeD_hs (t : Thread) (r : BitVec 4) (x : BitVec 128) : (t.writeD r x).hs = t.hs := rfl
@[simp] theorem Thread.writeD_priv (t : Thread) (r : BitVec 4) (x : BitVec 128) : (t.writeD r x).priv = t.priv := rfl
@[simp] theorem Thread.writeD_tags (t : Thread) (r : BitVec 4) (x : BitVec 128) : (t.writeD r x).tags = t.tags := rfl
@[simp] theorem Thread.writeD_hold (t : Thread) (r : BitVec 4) (x : BitVec 128) : (t.writeD r x).hold = t.hold := rfl
@[simp] theorem Thread.writeD_pending (t : Thread) (r : BitVec 4) (x : BitVec 128) : (t.writeD r x).pending = t.pending := rfl
@[simp] theorem Thread.writeD_firstWord (t : Thread) (r : BitVec 4) (x : BitVec 128) : (t.writeD r x).firstWord = t.firstWord := rfl
@[simp] theorem Thread.writeD_notices (t : Thread) (r : BitVec 4) (x : BitVec 128) : (t.writeD r x).notices = t.notices := rfl
@[simp] theorem Thread.writeD_lateFaults (t : Thread) (r : BitVec 4) (x : BitVec 128) : (t.writeD r x).lateFaults = t.lateFaults := rfl
@[simp] theorem Thread.writeD_unmerged (t : Thread) (r : BitVec 4) (x : BitVec 128) : (t.writeD r x).unmerged = t.unmerged := rfl
@[simp] theorem Thread.writeD_former (t : Thread) (r : BitVec 4) (x : BitVec 128) : (t.writeD r x).former = t.former := rfl
@[simp] theorem Thread.writeD_nodeA (t : Thread) (r : BitVec 4) (x : BitVec 128) : (t.writeD r x).nodeA = t.nodeA := rfl
@[simp] theorem Thread.writeD_stampedNow (t : Thread) (r : BitVec 4) (x : BitVec 128) : (t.writeD r x).stampedNow = t.stampedNow := rfl
@[simp] theorem Thread.writeD_stampedAny (t : Thread) (r : BitVec 4) (x : BitVec 128) : (t.writeD r x).stampedAny = t.stampedAny := rfl
@[simp] theorem Thread.writeD_halted (t : Thread) (r : BitVec 4) (x : BitVec 128) : (t.writeD r x).halted = t.halted := rfl
@[simp] theorem Thread.writeD_debugDue (t : Thread) (r : BitVec 4) (x : BitVec 128) : (t.writeD r x).debugDue = t.debugDue := rfl
@[simp] theorem Thread.writeD_preempt (t : Thread) (r : BitVec 4) (x : BitVec 128) : (t.writeD r x).preempt = t.preempt := rfl
@[simp] theorem Thread.writeD_migration (t : Thread) (r : BitVec 4) (x : BitVec 128) : (t.writeD r x).migration = t.migration := rfl
@[simp] theorem Thread.writeD_link (t : Thread) (r : BitVec 4) (x : BitVec 128) : (t.writeD r x).link = t.link := rfl
@[simp] theorem Thread.writeD_reissue (t : Thread) (r : BitVec 4) (x : BitVec 128) : (t.writeD r x).reissue = t.reissue := rfl
@[simp] theorem Thread.writeD_image (t : Thread) (r : BitVec 4) (x : BitVec 128) : (t.writeD r x).image = t.image := rfl

@[simp] theorem Thread.mergeFlags_uid (t : Thread) (i : Ind) : (t.mergeFlags i).uid = t.uid := rfl
@[simp] theorem Thread.mergeFlags_ctx (t : Thread) (i : Ind) : (t.mergeFlags i).ctx = t.ctx := rfl
@[simp] theorem Thread.mergeFlags_pc (t : Thread) (i : Ind) : (t.mergeFlags i).pc = t.pc := rfl
@[simp] theorem Thread.mergeFlags_s (t : Thread) (i : Ind) : (t.mergeFlags i).s = t.s := rfl
@[simp] theorem Thread.mergeFlags_q (t : Thread) (i : Ind) : (t.mergeFlags i).q = t.q := rfl
@[simp] theorem Thread.mergeFlags_v (t : Thread) (i : Ind) : (t.mergeFlags i).v = t.v := rfl
@[simp] theorem Thread.mergeFlags_p (t : Thread) (i : Ind) : (t.mergeFlags i).p = t.p := rfl
@[simp] theorem Thread.mergeFlags_d (t : Thread) (i : Ind) : (t.mergeFlags i).d = t.d := rfl
@[simp] theorem Thread.mergeFlags_acc (t : Thread) (i : Ind) : (t.mergeFlags i).acc = t.acc := rfl
@[simp] theorem Thread.mergeFlags_hs (t : Thread) (i : Ind) : (t.mergeFlags i).hs = t.hs := rfl
@[simp] theorem Thread.mergeFlags_priv (t : Thread) (i : Ind) : (t.mergeFlags i).priv = t.priv := rfl
@[simp] theorem Thread.mergeFlags_tags (t : Thread) (i : Ind) : (t.mergeFlags i).tags = t.tags := rfl
@[simp] theorem Thread.mergeFlags_hold (t : Thread) (i : Ind) : (t.mergeFlags i).hold = t.hold := rfl
@[simp] theorem Thread.mergeFlags_pending (t : Thread) (i : Ind) : (t.mergeFlags i).pending = t.pending := rfl
@[simp] theorem Thread.mergeFlags_firstWord (t : Thread) (i : Ind) : (t.mergeFlags i).firstWord = t.firstWord := rfl
@[simp] theorem Thread.mergeFlags_notices (t : Thread) (i : Ind) : (t.mergeFlags i).notices = t.notices := rfl
@[simp] theorem Thread.mergeFlags_lateFaults (t : Thread) (i : Ind) : (t.mergeFlags i).lateFaults = t.lateFaults := rfl
@[simp] theorem Thread.mergeFlags_unmerged (t : Thread) (i : Ind) : (t.mergeFlags i).unmerged = t.unmerged := rfl
@[simp] theorem Thread.mergeFlags_former (t : Thread) (i : Ind) : (t.mergeFlags i).former = t.former := rfl
@[simp] theorem Thread.mergeFlags_nodeA (t : Thread) (i : Ind) : (t.mergeFlags i).nodeA = t.nodeA := rfl
@[simp] theorem Thread.mergeFlags_stampedNow (t : Thread) (i : Ind) : (t.mergeFlags i).stampedNow = t.stampedNow := rfl
@[simp] theorem Thread.mergeFlags_stampedAny (t : Thread) (i : Ind) : (t.mergeFlags i).stampedAny = t.stampedAny := rfl
@[simp] theorem Thread.mergeFlags_halted (t : Thread) (i : Ind) : (t.mergeFlags i).halted = t.halted := rfl
@[simp] theorem Thread.mergeFlags_debugDue (t : Thread) (i : Ind) : (t.mergeFlags i).debugDue = t.debugDue := rfl
@[simp] theorem Thread.mergeFlags_preempt (t : Thread) (i : Ind) : (t.mergeFlags i).preempt = t.preempt := rfl
@[simp] theorem Thread.mergeFlags_migration (t : Thread) (i : Ind) : (t.mergeFlags i).migration = t.migration := rfl
@[simp] theorem Thread.mergeFlags_link (t : Thread) (i : Ind) : (t.mergeFlags i).link = t.link := rfl
@[simp] theorem Thread.mergeFlags_reissue (t : Thread) (i : Ind) : (t.mergeFlags i).reissue = t.reissue := rfl
@[simp] theorem Thread.mergeFlags_image (t : Thread) (i : Ind) : (t.mergeFlags i).image = t.image := rfl

@[simp] theorem Thread.addTag_uid (t : Thread) (g : Tag) : (t.addTag g).uid = t.uid := rfl
@[simp] theorem Thread.addTag_ctx (t : Thread) (g : Tag) : (t.addTag g).ctx = t.ctx := rfl
@[simp] theorem Thread.addTag_pc (t : Thread) (g : Tag) : (t.addTag g).pc = t.pc := rfl
@[simp] theorem Thread.addTag_s (t : Thread) (g : Tag) : (t.addTag g).s = t.s := rfl
@[simp] theorem Thread.addTag_q (t : Thread) (g : Tag) : (t.addTag g).q = t.q := rfl
@[simp] theorem Thread.addTag_v (t : Thread) (g : Tag) : (t.addTag g).v = t.v := rfl
@[simp] theorem Thread.addTag_p (t : Thread) (g : Tag) : (t.addTag g).p = t.p := rfl
@[simp] theorem Thread.addTag_d (t : Thread) (g : Tag) : (t.addTag g).d = t.d := rfl
@[simp] theorem Thread.addTag_acc (t : Thread) (g : Tag) : (t.addTag g).acc = t.acc := rfl
@[simp] theorem Thread.addTag_sys (t : Thread) (g : Tag) : (t.addTag g).sys = t.sys := rfl
@[simp] theorem Thread.addTag_hs (t : Thread) (g : Tag) : (t.addTag g).hs = t.hs := rfl
@[simp] theorem Thread.addTag_priv (t : Thread) (g : Tag) : (t.addTag g).priv = t.priv := rfl
@[simp] theorem Thread.addTag_hold (t : Thread) (g : Tag) : (t.addTag g).hold = t.hold := rfl
@[simp] theorem Thread.addTag_pending (t : Thread) (g : Tag) : (t.addTag g).pending = t.pending := rfl
@[simp] theorem Thread.addTag_firstWord (t : Thread) (g : Tag) : (t.addTag g).firstWord = t.firstWord := rfl
@[simp] theorem Thread.addTag_notices (t : Thread) (g : Tag) : (t.addTag g).notices = t.notices := rfl
@[simp] theorem Thread.addTag_lateFaults (t : Thread) (g : Tag) : (t.addTag g).lateFaults = t.lateFaults := rfl
@[simp] theorem Thread.addTag_unmerged (t : Thread) (g : Tag) : (t.addTag g).unmerged = t.unmerged := rfl
@[simp] theorem Thread.addTag_former (t : Thread) (g : Tag) : (t.addTag g).former = t.former := rfl
@[simp] theorem Thread.addTag_nodeA (t : Thread) (g : Tag) : (t.addTag g).nodeA = t.nodeA := rfl
@[simp] theorem Thread.addTag_stampedNow (t : Thread) (g : Tag) : (t.addTag g).stampedNow = t.stampedNow := rfl
@[simp] theorem Thread.addTag_stampedAny (t : Thread) (g : Tag) : (t.addTag g).stampedAny = t.stampedAny := rfl
@[simp] theorem Thread.addTag_halted (t : Thread) (g : Tag) : (t.addTag g).halted = t.halted := rfl
@[simp] theorem Thread.addTag_debugDue (t : Thread) (g : Tag) : (t.addTag g).debugDue = t.debugDue := rfl
@[simp] theorem Thread.addTag_preempt (t : Thread) (g : Tag) : (t.addTag g).preempt = t.preempt := rfl
@[simp] theorem Thread.addTag_migration (t : Thread) (g : Tag) : (t.addTag g).migration = t.migration := rfl
@[simp] theorem Thread.addTag_link (t : Thread) (g : Tag) : (t.addTag g).link = t.link := rfl
@[simp] theorem Thread.addTag_reissue (t : Thread) (g : Tag) : (t.addTag g).reissue = t.reissue := rfl
@[simp] theorem Thread.addTag_image (t : Thread) (g : Tag) : (t.addTag g).image = t.image := rfl

end Sys2Proof.Machine
end

