-- ==== Sys2Proof/Laws/Store.lean ====
section
/-! SUPPORT. The laws of the stores: keyed lists, sparse contents, memory bytes and sideband. A read after a write to the
same place gives the value written, a write leaves every other place alone, and the canonical form is kept. -/

set_option Elab.async false

namespace Sys2Proof.Machine

/-! ### Keyed lists -/

@[simp] theorem lookupD_putKey_same {κ α : Type} [DecidableEq κ] (d : α) (k : κ) (a : α) (l : List (κ × α)) :
    lookupD d k (putKey k a l) = a := by
  induction l with
  | nil => simp [putKey, lookupD]
  | cons e r ih => obtain ⟨k', a'⟩ := e; by_cases h : k' = k <;> simp [putKey, lookupD, h, ih]

theorem lookupD_putKey_other {κ α : Type} [DecidableEq κ] (d : α) {k k' : κ} (h : k' ≠ k) (a : α) (l : List (κ × α)) :
    lookupD d k' (putKey k a l) = lookupD d k' l := by
  induction l with
  | nil => simp [putKey, lookupD, h.symm]
  | cons e r ih =>
    obtain ⟨k2, a2⟩ := e
    by_cases h2 : k2 = k
    · subst h2; simp [putKey, lookupD, h.symm]
    · by_cases h3 : k2 = k'
      · subst h3; simp [putKey, lookupD, h]
      · simp [putKey, lookupD, h2, h3, ih]

@[simp] theorem State.slot_setSlot_same (s : State) (p : Place) (x : Slot) : (s.setSlot p x).slot p = x := by
  simp [State.slot, State.setSlot]

theorem State.slot_setSlot_other (s : State) {p p' : Place} (h : p' ≠ p) (x : Slot) :
    (s.setSlot p x).slot p' = s.slot p' := by
  simp [State.slot, State.setSlot, lookupD_putKey_other _ h]

@[simp] theorem State.thread_setThread_same (s : State) (p : Place) (t : Thread) : (s.setThread p t).thread? p = some t := by
  simp [State.thread?, State.setThread]

theorem State.slot_setThread_other (s : State) {p p' : Place} (h : p' ≠ p) (t : Thread) :
    (s.setThread p t).slot p' = s.slot p' := State.slot_setSlot_other s h _

theorem State.thread_setThread_other (s : State) {p p' : Place} (h : p' ≠ p) (t : Thread) :
    (s.setThread p t).thread? p' = s.thread? p' := by
  simp only [State.thread?, State.slot_setThread_other s h t]

@[simp] theorem State.core_setCore_same (s : State) (d c : Nat) (x : Core) : (s.setCore d c x).core d c = x := by
  simp [State.core, State.setCore]

theorem State.core_setCore_other (s : State) {d c d' c' : Nat} (h : (d', c') ≠ (d, c)) (x : Core) :
    (s.setCore d c x).core d' c' = s.core d' c' := by
  simp [State.core, State.setCore, lookupD_putKey_other _ h]

@[simp] theorem State.die_setDie_same (s : State) (d : Nat) (x : Die) : (s.setDie d x).die d = x := by
  simp [State.die, State.setDie]

theorem State.die_setDie_other (s : State) {d d' : Nat} (h : d' ≠ d) (x : Die) : (s.setDie d x).die d' = s.die d' := by
  simp [State.die, State.setDie, lookupD_putKey_other _ h]

/-! ### Sparse contents -/

section Sparse

variable {α : Type} [DecidableEq α] (z : α)

theorem sparseRead_write_same (l : List (Nat × α)) (a : Nat) (b : α) :
    sparseWf z l = true → sparseRead z (sparseWrite z l a b) a = b := by
  suffices h : ∀ o, sparseAbove z o l = true → sparseRead z (sparseWrite z l a b) a = b from h none
  induction l with
  | nil => intro o _; by_cases h : b = z <;> simp [sparseWrite, sparseRead, h]
  | cons e r ih =>
    obtain ⟨k, c⟩ := e
    intro o ho
    have hr : sparseAbove z (some k) r = true := by
      cases o <;> simp [sparseAbove] at ho <;> simp [ho]
    have low : ∀ (r : List (Nat × α)) k, sparseAbove z (some k) r = true → ∀ x, x ≤ k → sparseRead z r x = z := by
      intro r
      induction r with
      | nil => intros; rfl
      | cons e r ih =>
        obtain ⟨k2, c2⟩ := e
        intro k h x hx
        simp [sparseAbove] at h
        have : x ≠ k2 := by omega
        simp [sparseRead, this]
        exact ih k2 h.2 x (by omega)
    unfold sparseWrite
    by_cases h1 : a < k
    · by_cases h2 : b = z
      · have : a ≠ k := by omega
        simp [h1, h2, sparseRead, this]
        exact low r k hr a (by omega)
      · simp [h1, h2, sparseRead]
    · by_cases h2 : a = k
      · by_cases h3 : b = z
        · simp [h2, h3]
          exact low r k hr k (Nat.le_refl k)
        · simp [h2, h3, sparseRead]
      · simp [h1, h2, sparseRead]
        exact ih (some k) hr

theorem sparseRead_write_other (l : List (Nat × α)) {a a' : Nat} (h : a' ≠ a) (b : α) :
    sparseRead z (sparseWrite z l a b) a' = sparseRead z l a' := by
  induction l with
  | nil => by_cases h2 : b = z <;> simp [sparseWrite, sparseRead, h, h2]
  | cons e r ih =>
    obtain ⟨k, c⟩ := e
    unfold sparseWrite
    by_cases h1 : a < k
    · by_cases h2 : b = z <;> simp [h1, h2, sparseRead, h]
    · by_cases h2 : a = k
      · subst h2
        by_cases h3 : b = z <;> simp [h3, sparseRead, h]
      · simp only [h1, h2, if_false, sparseRead, ih]

theorem sparseAbove_write (l : List (Nat × α)) (a : Nat) (b : α) :
    ∀ o : Option Nat, (∀ k, o = some k → k < a) → sparseAbove z o l = true → sparseAbove z o (sparseWrite z l a b) = true := by
  induction l with
  | nil =>
    intro o ho _
    by_cases h : b = z
    · cases o <;> simp [sparseWrite, h, sparseAbove]
    · cases o with
      | none => simp [sparseWrite, h, sparseAbove]
      | some k => simp [sparseWrite, h, sparseAbove, ho k rfl]
  | cons e r ih =>
    obtain ⟨k, c⟩ := e
    intro o ho hl
    have hc : c ≠ z ∧ sparseAbove z (some k) r = true := by
      cases o <;> simp [sparseAbove] at hl <;> simp [hl]
    unfold sparseWrite
    by_cases h1 : a < k
    · by_cases h2 : b = z
      · simpa [h1, h2] using hl
      · have tail : sparseAbove z (some a) ((k, c) :: r) = true := by simp [sparseAbove, h1, hc]
        cases o with
        | none => simpa [h1, h2, sparseAbove] using tail
        | some m => simpa [h1, h2, sparseAbove, ho m rfl] using tail
    · by_cases h2 : a = k
      · subst h2
        by_cases h3 : b = z
        · have drop : ∀ (r : List (Nat × α)) m k, m < k → sparseAbove z (some k) r = true → sparseAbove z (some m) r = true := by
            intro r m k hm h
            cases r with
            | nil => simp [sparseAbove]
            | cons e r => obtain ⟨k2, c2⟩ := e; simp [sparseAbove] at h ⊢; exact ⟨⟨by omega, h.1.2⟩, h.2⟩
          cases o with
          | none =>
            cases r with
            | nil => simp [h3, sparseAbove]
            | cons e r => obtain ⟨k2, c2⟩ := e; simp [sparseAbove] at hc; simp [h3, sparseAbove, hc]
          | some m => simpa [h3] using drop r m a (ho m rfl) hc.2
        · cases o with
          | none => simpa [h3, sparseAbove] using hc.2
          | some m => simpa [h3, sparseAbove, ho m rfl] using hc.2
      · have hk : ∀ m, some k = some m → m < a := by intro m hm; cases hm; omega
        have tail := ih (some k) hk hc.2
        cases o with
        | none => simpa [h1, h2, sparseAbove, hc.1] using tail
        | some m => simp [sparseAbove] at hl; simpa [h1, h2, sparseAbove, hc.1, hl.1.1] using tail

theorem sparseWf_write (l : List (Nat × α)) (a : Nat) (b : α) (h : sparseWf z l = true) :
    sparseWf z (sparseWrite z l a b) = true :=
  sparseAbove_write z l a b none (by simp) h

end Sparse

/-! ### Memory and sideband -/

theorem State.readByte_writeByte_same (s : State) (a : Nat) (b : Byte) (h : s.stored) : (s.writeByte a b).readByte a = b :=
  sparseRead_write_same unlisted s.mem a b h.1

theorem State.readByte_writeByte_other (s : State) {a a' : Nat} (h : a' ≠ a) (b : Byte) :
    (s.writeByte a b).readByte a' = s.readByte a' :=
  sparseRead_write_other unlisted s.mem h b

theorem State.sideband_setSide_same (s : State) (a : Nat) (n : BitVec 32) (w : BitVec 24) (h : s.stored) :
    (s.setSide a n w).sideband a = w ++ n :=
  sparseRead_write_same 0 s.side a _ h.2

theorem State.sideband_setSide_other (s : State) {a a' : Nat} (h : a' ≠ a) (n : BitVec 32) (w : BitVec 24) :
    (s.setSide a n w).sideband a' = s.sideband a' :=
  sparseRead_write_other 0 s.side h _

theorem State.readByte_writeBytes_outside (l : List Byte) : ∀ (s : State) (a x : Nat), x < a ∨ a + l.length ≤ x →
    (s.writeBytes a l).readByte x = s.readByte x := by
  induction l with
  | nil => intros; rfl
  | cons b r ih =>
    intro s a x h
    simp only [State.writeBytes]
    simp only [List.length_cons] at h
    rw [ih _ _ _ (by omega), State.readByte_writeByte_other _ (by omega)]

theorem State.readByte_writePairs_outside (l : List (Nat × Byte)) : ∀ (s : State) (x : Nat), (∀ e ∈ l, e.1 ≠ x) →
    (s.writePairs l).readByte x = s.readByte x := by
  induction l with
  | nil => intros; rfl
  | cons e r ih =>
    obtain ⟨a, b⟩ := e
    intro s x h
    simp only [State.writePairs]
    rw [ih _ _ fun e he => h e (List.mem_cons_of_mem _ he),
      State.readByte_writeByte_other _ (Ne.symm (h (a, b) List.mem_cons_self))]

theorem State.writeByte_stored (s : State) (a : Nat) (b : Byte) (h : s.stored) : (s.writeByte a b).stored :=
  ⟨sparseWf_write unlisted s.mem a b h.1, h.2⟩

theorem State.setSide_stored (s : State) (a : Nat) (n : BitVec 32) (w : BitVec 24) (h : s.stored) : (s.setSide a n w).stored :=
  ⟨h.1, sparseWf_write 0 s.side a _ h.2⟩

theorem State.writeBytes_stored (l : List Byte) : ∀ (s : State) (a : Nat), s.stored → (s.writeBytes a l).stored := by
  induction l with
  | nil => intro s a h; exact h
  | cons b r ih => intro s a h; exact ih _ _ (State.writeByte_stored s a b h)

theorem State.writePairs_stored (l : List (Nat × Byte)) : ∀ s : State, s.stored → (s.writePairs l).stored := by
  induction l with
  | nil => intro s h; exact h
  | cons e r ih => obtain ⟨a, b⟩ := e; intro s h; exact ih _ (State.writeByte_stored s a b h)

theorem State.writeNat_stored (s : State) (a n x : Nat) (h : s.stored) : (s.writeNat a n x).stored :=
  State.writeBytes_stored _ s a h

theorem State.write64_stored (s : State) (a : Nat) (x : Word) (h : s.stored) : (s.write64 a x).stored :=
  State.writeNat_stored s a 8 _ h

/-- Contents that agree are canonical together. -/
theorem State.stored_of_same {s t : State} (hm : t.mem = s.mem) (hs : t.side = s.side) (h : s.stored) : t.stored := by
  unfold State.stored; rw [hm, hs]; exact h

end Sys2Proof.Machine
end

