-- ==== Sys2Proof/Laws/Keeps.lean ====
section
/-! SUPPORT. What does not write memory: for every operation and every instruction's meaning that leaves the memory and the
sideband alone, one lemma says so. `f_keeps` is about a function of the state, `execX_keeps` about a meaning: `OutKeeps s o`
says that every next state of the outcome `o` has the memory and the sideband of `s`. -/
set_option Elab.async false

namespace Sys2Proof.Machine

/-- What every step of a fold keeps, the fold keeps. -/
theorem foldl_inv {α β : Type} {P : α → Prop} (f : α → β → α) (h : ∀ a b, P a → P (f a b)) : ∀ (l : List β) (a : α), P a → P (l.foldl f a)
  | [], _, ha => ha
  | b :: l, a, ha => foldl_inv f h l (f a b) (h a b ha)

/-- Every next state of an outcome has the memory and the sideband of a state. -/
def OutKeeps (s : State) (o : Host.Outcome State Fault Refusal) : Prop :=
  ∀ t, o = .next t → t.mem = s.mem ∧ t.side = s.side

@[simp] theorem outKeeps_next (s t : State) : OutKeeps s (.next t) ↔ t.mem = s.mem ∧ t.side = s.side :=
  ⟨fun h => h t rfl, fun h _ e => by cases e; exact h⟩

@[simp] theorem outKeeps_fault (s : State) (f : Fault) : OutKeeps s (.fault f) := fun _ e => by cases e

theorem word_keeps (s : State) (f : Issue → Thread → State) (h : ∀ i t, (f i t).mem = s.mem ∧ (f i t).side = s.side) :
    OutKeeps s (s.word f) := by
  unfold State.word
  split
  · simp
  · simpa using h _ _

@[simp] theorem foldl_keeps {β : Type} (f : State → β → State) (h : ∀ s x, (f s x).mem = s.mem ∧ (f s x).side = s.side)
    (l : List β) (s : State) : (l.foldl f s).mem = s.mem ∧ (l.foldl f s).side = s.side := by
  induction l generalizing s with
  | nil => exact ⟨rfl, rfl⟩
  | cons x r ih => simp only [List.foldl_cons]; rw [(ih _).1, (ih _).2]; exact h s x

@[simp] theorem foldr_keeps {β : Type} (f : β → State → State) (h : ∀ s x, (f x s).mem = s.mem ∧ (f x s).side = s.side)
    (l : List β) (s : State) : (l.foldr f s).mem = s.mem ∧ (l.foldr f s).side = s.side := by
  induction l with
  | nil => exact ⟨rfl, rfl⟩
  | cons x r ih => simp only [List.foldr_cons]; rw [(h _ x).1, (h _ x).2]; exact ih

@[simp] theorem State.setSlot_keeps (s : State) (p : Place) (x : Slot) : (s.setSlot p x).mem = s.mem ∧ (s.setSlot p x).side = s.side := by
  unfold State.setSlot
  simp

@[simp] theorem State.setThread_keeps (s : State) (p : Place) (t : Thread) : (s.setThread p t).mem = s.mem ∧ (s.setThread p t).side = s.side := by
  unfold State.setThread
  simp

@[simp] theorem State.modThread_keeps (s : State) (p : Place) (f : Thread → Thread) : (s.modThread p f).mem = s.mem ∧ (s.modThread p f).side = s.side := by
  unfold State.modThread
  (repeat' split) <;> simp

@[simp] theorem State.setCore_keeps (s : State) (d c : Nat) (x : Core) : (s.setCore d c x).mem = s.mem ∧ (s.setCore d c x).side = s.side := by
  unfold State.setCore
  simp

@[simp] theorem State.modCore_keeps (s : State) (d c : Nat) (f : Core → Core) : (s.modCore d c f).mem = s.mem ∧ (s.modCore d c f).side = s.side := by
  unfold State.modCore
  simp

@[simp] theorem State.setDie_keeps (s : State) (d : Nat) (x : Die) : (s.setDie d x).mem = s.mem ∧ (s.setDie d x).side = s.side := by
  unfold State.setDie
  simp

@[simp] theorem State.modDie_keeps (s : State) (d : Nat) (f : Die → Die) : (s.modDie d f).mem = s.mem ∧ (s.modDie d f).side = s.side := by
  unfold State.modDie
  simp

@[simp] theorem State.modStatus_keeps (s : State) (d ctx : Nat) (f : Status → Status) : (s.modStatus d ctx f).mem = s.mem ∧ (s.modStatus d ctx f).side = s.side := by
  unfold State.modStatus
  simp

@[simp] theorem State.modCtx_keeps (s : State) (ctx : Nat) (f : CtxInfo → CtxInfo) : (s.modCtx ctx f).mem = s.mem ∧ (s.modCtx ctx f).side = s.side := by
  unfold State.modCtx
  simp

@[simp] theorem State.tell_keeps (s : State) (e : MgmtEvent) : (s.tell e).mem = s.mem ∧ (s.tell e).side = s.side := by
  unfold State.tell
  simp

@[simp] theorem State.jump_keeps (s : State) (target : Word) : (s.jump target).mem = s.mem ∧ (s.jump target).side = s.side := by
  unfold State.jump
  simp

@[simp] theorem State.stay_keeps (s : State) : (s.stay).mem = s.mem ∧ (s.stay).side = s.side := by
  unfold State.stay
  simp

@[simp] theorem State.dropId_keeps (s : State) (uid ctx die : Nat) (o : Option (BitVec 24)) :
    (s.dropId uid ctx die o).mem = s.mem ∧ (s.dropId uid ctx die o).side = s.side := by
  cases o <;> exact ⟨rfl, rfl⟩

@[simp] theorem State.faultRecord_keeps (s : State) (ctx kind : Nat) (cause : BitVec 8) (writer : BitVec 24) (pc info : Word) : (s.faultRecord ctx kind cause writer pc info).mem = s.mem ∧ (s.faultRecord ctx kind cause writer pc info).side = s.side := by
  unfold State.faultRecord
  simp

@[simp] theorem State.setFaulted_keeps (s : State) (ctx : Nat) : (s.setFaulted ctx).mem = s.mem ∧ (s.setFaulted ctx).side = s.side := by
  unfold State.setFaulted
  simp

@[simp] theorem State.freeSlot_keeps (s : State) (p : Place) : (s.freeSlot p).mem = s.mem ∧ (s.freeSlot p).side = s.side := by
  unfold State.freeSlot
  dsimp only
  (repeat' split) <;> simp

@[simp] theorem State.finishCmd_keeps (s : State) (code : BitVec 8) (status : BitVec 8) : (s.finishCmd code status).mem = s.mem ∧ (s.finishCmd code status).side = s.side := by
  unfold State.finishCmd
  (repeat' split) <;> simp

@[simp] theorem State.stopThread_keeps (s : State) (p : Place) (t : Thread) : (s.stopThread p t).mem = s.mem ∧ (s.stopThread p t).side = s.side := by
  unfold State.stopThread
  dsimp only
  (repeat' split) <;> simp

@[simp] theorem State.leaveAlive_keeps (s : State) (p : Place) (t : Thread) : (s.leaveAlive p t).mem = s.mem ∧ (s.leaveAlive p t).side = s.side := by
  unfold State.leaveAlive
  (repeat' split) <;> simp

@[simp] theorem State.switchOut_keeps (s : State) (p : Place) (t : Thread) : (s.switchOut p t).mem = s.mem ∧ (s.switchOut p t).side = s.side := by
  unfold State.switchOut
  (repeat' split) <;> simp

@[simp] theorem State.fatal_keeps (s : State) (p : Place) (t : Thread) (cause : BitVec 8) (pc info : Word) : (s.fatal p t cause pc info).mem = s.mem ∧ (s.fatal p t cause pc info).side = s.side := by
  unfold State.fatal
  simp

@[simp] theorem State.enterTrap_keeps (s : State) (p : Place) (t : Thread) (cause pc info : Word) : (s.enterTrap p t cause pc info).mem = s.mem ∧ (s.enterTrap p t cause pc info).side = s.side := by
  unfold State.enterTrap
  dsimp only
  (repeat' split) <;> simp

@[simp] theorem State.raise_keeps (s : State) (p : Place) (t : Thread) (cause pc info : Word) : (s.raise p t cause pc info).mem = s.mem ∧ (s.raise p t cause pc info).side = s.side := by
  unfold State.raise
  (repeat' split) <;> simp

@[simp] theorem State.precise_keeps (s : State) (i : Issue) (t : Thread) (cause : BitVec 8) (info : Word) : (s.precise i t cause info).mem = s.mem ∧ (s.precise i t cause info).side = s.side := by
  unfold State.precise
  simp

@[simp] theorem State.withdraw_keeps (s : State) (p : Place) (t : Thread) : (s.withdraw p t).mem = s.mem ∧ (s.withdraw p t).side = s.side := by
  unfold State.withdraw
  simp

@[simp] theorem State.addReq_keeps (s : State) (r : Req) (cls : OutClass) (vaddr : Word) : (s.addReq r cls vaddr).mem = s.mem ∧ (s.addReq r cls vaddr).side = s.side := by
  unfold State.addReq
  simp

@[simp] theorem State.openLoad_keeps (s : State) (i : Issue) (t : Thread) (g : Nat → Tag) (es : List Elem) : (s.openLoad i t g es).mem = s.mem ∧ (s.openLoad i t g es).side = s.side := by
  unfold State.openLoad
  simp

@[simp] theorem State.startMigration_keeps (s : State) (i : Issue) (t : Thread) (die core : Nat) (resume lc0 lc1 : Word) : (s.startMigration i t die core resume lc0 lc1).mem = s.mem ∧ (s.startMigration i t die core resume lc0 lc1).side = s.side := by
  unfold State.startMigration
  simp

@[simp] theorem State.plainLoad_keeps (s : State) (i : Issue) (t : Thread) (a : Access) (size : Nat) (las : List (Nat × Word)) (g : Nat → Tag) : (s.plainLoad i t a size las g).mem = s.mem ∧ (s.plainLoad i t a size las g).side = s.side := by
  unfold State.plainLoad
  (repeat' split) <;> simp

@[simp] theorem State.plainStore_keeps (s : State) (i : Issue) (t : Thread) (a : Access) (size : Nat) (las : List (Nat × Word)) (f : Nat → Nat) : (s.plainStore i t a size las f).mem = s.mem ∧ (s.plainStore i t a size las f).side = s.side := by
  unfold State.plainStore
  (repeat' split) <;> simp

@[simp] theorem State.resend_keeps (s : State) (p : Place) (t : Thread) (g : Tag) : (s.resend p t g).mem = s.mem ∧ (s.resend p t g).side = s.side := by
  unfold State.resend
  (repeat' split) <;> simp

@[simp] theorem State.resumeTags_keeps (s : State) (p : Place) (t : Thread) : (s.resumeTags p t).mem = s.mem ∧ (s.resumeTags p t).side = s.side := by
  unfold State.resumeTags
  simp

@[simp] theorem State.returnTrap_keeps (s : State) (i : Issue) (t : Thread) : (s.returnTrap i t).mem = s.mem ∧ (s.returnTrap i t).side = s.side := by
  unfold State.returnTrap
  simp

theorem State.toS_keeps (s : State) (sd : BitVec 5) (f : Thread → Word) : OutKeeps s (State.toS s sd f) := by
  unfold State.toS
  apply word_keeps; intro i t; simp

theorem State.opS_keeps (s : State) (sd sa sb : BitVec 5) (f : Word → Word → Word) : OutKeeps s (State.opS s sd sa sb f) := by
  unfold State.opS
  apply word_keeps; intro i t; simp

theorem State.toQ_keeps (s : State) (qd : BitVec 3) (f : Thread → Bool) : OutKeeps s (State.toQ s qd f) := by
  unfold State.toQ
  apply word_keeps; intro i t; simp

theorem State.cmpQ_keeps (s : State) (qd : BitVec 3) (sa sb : BitVec 5) (f : Word → Word → Bool) : OutKeeps s (State.cmpQ s qd sa sb f) := by
  unfold State.cmpQ
  apply word_keeps; intro i t; simp

theorem execUnop_keeps (s : State) : OutKeeps s (execUnop s) := by
  unfold execUnop
  apply word_keeps; intro i t; simp

theorem execAdd_keeps (sd sa sb : BitVec 5) (s : State) : OutKeeps s (execAdd sd sa sb s) := by
  unfold execAdd
  apply word_keeps; intro i t; simp

theorem execAddi_keeps (sd sa : BitVec 5) (imm : BitVec 10) (s : State) : OutKeeps s (execAddi sd sa imm s) := by
  unfold execAddi
  apply word_keeps; intro i t; simp

theorem execSub_keeps (sd sa sb : BitVec 5) (s : State) : OutKeeps s (execSub sd sa sb s) := by
  unfold execSub
  apply word_keeps; intro i t; simp

theorem execMul_keeps (sd sa sb : BitVec 5) (s : State) : OutKeeps s (execMul sd sa sb s) := by
  unfold execMul
  apply word_keeps; intro i t; simp

theorem execMulh_keeps (sd sa sb : BitVec 5) (s : State) : OutKeeps s (execMulh sd sa sb s) := by
  unfold execMulh
  apply word_keeps; intro i t; simp

theorem execMulhu_keeps (sd sa sb : BitVec 5) (s : State) : OutKeeps s (execMulhu sd sa sb s) := by
  unfold execMulhu
  apply word_keeps; intro i t; simp

theorem execAnd_keeps (sd sa sb : BitVec 5) (s : State) : OutKeeps s (execAnd sd sa sb s) := by
  unfold execAnd
  apply word_keeps; intro i t; simp

theorem execAndi_keeps (sd sa : BitVec 5) (imm : BitVec 10) (s : State) : OutKeeps s (execAndi sd sa imm s) := by
  unfold execAndi
  apply word_keeps; intro i t; simp

theorem execOr_keeps (sd sa sb : BitVec 5) (s : State) : OutKeeps s (execOr sd sa sb s) := by
  unfold execOr
  apply word_keeps; intro i t; simp

theorem execOri_keeps (sd sa : BitVec 5) (imm : BitVec 10) (s : State) : OutKeeps s (execOri sd sa imm s) := by
  unfold execOri
  apply word_keeps; intro i t; simp

theorem execXor_keeps (sd sa sb : BitVec 5) (s : State) : OutKeeps s (execXor sd sa sb s) := by
  unfold execXor
  apply word_keeps; intro i t; simp

theorem execXori_keeps (sd sa : BitVec 5) (imm : BitVec 10) (s : State) : OutKeeps s (execXori sd sa imm s) := by
  unfold execXori
  apply word_keeps; intro i t; simp

theorem execShl_keeps (sd sa sb : BitVec 5) (s : State) : OutKeeps s (execShl sd sa sb s) := by
  unfold execShl
  apply word_keeps; intro i t; simp

theorem execShli_keeps (sd sa : BitVec 5) (imm : BitVec 10) (s : State) : OutKeeps s (execShli sd sa imm s) := by
  unfold execShli
  apply word_keeps; intro i t; simp

theorem execShr_keeps (sd sa sb : BitVec 5) (s : State) : OutKeeps s (execShr sd sa sb s) := by
  unfold execShr
  apply word_keeps; intro i t; simp

theorem execShri_keeps (sd sa : BitVec 5) (imm : BitVec 10) (s : State) : OutKeeps s (execShri sd sa imm s) := by
  unfold execShri
  apply word_keeps; intro i t; simp

theorem execSra_keeps (sd sa sb : BitVec 5) (s : State) : OutKeeps s (execSra sd sa sb s) := by
  unfold execSra
  apply word_keeps; intro i t; simp

theorem execSrai_keeps (sd sa : BitVec 5) (imm : BitVec 10) (s : State) : OutKeeps s (execSrai sd sa imm s) := by
  unfold execSrai
  apply word_keeps; intro i t; simp

theorem execMin_keeps (sd sa sb : BitVec 5) (s : State) : OutKeeps s (execMin sd sa sb s) := by
  unfold execMin
  apply word_keeps; intro i t; simp

theorem execMax_keeps (sd sa sb : BitVec 5) (s : State) : OutKeeps s (execMax sd sa sb s) := by
  unfold execMax
  apply word_keeps; intro i t; simp

theorem execMinu_keeps (sd sa sb : BitVec 5) (s : State) : OutKeeps s (execMinu sd sa sb s) := by
  unfold execMinu
  apply word_keeps; intro i t; simp

theorem execMaxu_keeps (sd sa sb : BitVec 5) (s : State) : OutKeeps s (execMaxu sd sa sb s) := by
  unfold execMaxu
  apply word_keeps; intro i t; simp

theorem execAddx_keeps (sd sa sb sh : BitVec 5) (s : State) : OutKeeps s (execAddx sd sa sb sh s) := by
  unfold execAddx
  apply word_keeps; intro i t; simp

theorem execClz_keeps (sd sa : BitVec 5) (s : State) : OutKeeps s (execClz sd sa s) := by
  unfold execClz
  apply word_keeps; intro i t; simp

theorem execPopc_keeps (sd sa : BitVec 5) (s : State) : OutKeeps s (execPopc sd sa s) := by
  unfold execPopc
  apply word_keeps; intro i t; simp

theorem execBext_keeps (sd sa sb : BitVec 5) (s : State) : OutKeeps s (execBext sd sa sb s) := by
  unfold execBext
  apply word_keeps; intro i t; simp

theorem execSext_keeps (sd sa : BitVec 5) (imm : BitVec 10) (s : State) : OutKeeps s (execSext sd sa imm s) := by
  unfold execSext
  apply word_keeps; intro i t; simp

theorem execSlt_keeps (sd sa sb : BitVec 5) (s : State) : OutKeeps s (execSlt sd sa sb s) := by
  unfold execSlt
  apply word_keeps; intro i t; simp

theorem execSltu_keeps (sd sa sb : BitVec 5) (s : State) : OutKeeps s (execSltu sd sa sb s) := by
  unfold execSltu
  apply word_keeps; intro i t; simp

theorem execQeq_keeps (qd : BitVec 3) (sa sb : BitVec 5) (s : State) : OutKeeps s (execQeq qd sa sb s) := by
  unfold execQeq
  apply word_keeps; intro i t; simp

theorem execQne_keeps (qd : BitVec 3) (sa sb : BitVec 5) (s : State) : OutKeeps s (execQne qd sa sb s) := by
  unfold execQne
  apply word_keeps; intro i t; simp

theorem execQlt_keeps (qd : BitVec 3) (sa sb : BitVec 5) (s : State) : OutKeeps s (execQlt qd sa sb s) := by
  unfold execQlt
  apply word_keeps; intro i t; simp

theorem execQltu_keeps (qd : BitVec 3) (sa sb : BitVec 5) (s : State) : OutKeeps s (execQltu qd sa sb s) := by
  unfold execQltu
  apply word_keeps; intro i t; simp

theorem execQle_keeps (qd : BitVec 3) (sa sb : BitVec 5) (s : State) : OutKeeps s (execQle qd sa sb s) := by
  unfold execQle
  apply word_keeps; intro i t; simp

theorem execQleu_keeps (qd : BitVec 3) (sa sb : BitVec 5) (s : State) : OutKeeps s (execQleu qd sa sb s) := by
  unfold execQleu
  apply word_keeps; intro i t; simp

theorem execQeqi_keeps (qd : BitVec 3) (sa : BitVec 5) (imm : BitVec 10) (s : State) : OutKeeps s (execQeqi qd sa imm s) := by
  unfold execQeqi
  apply word_keeps; intro i t; simp

theorem execQlti_keeps (qd : BitVec 3) (sa : BitVec 5) (imm : BitVec 10) (s : State) : OutKeeps s (execQlti qd sa imm s) := by
  unfold execQlti
  apply word_keeps; intro i t; simp

theorem execQand_keeps (qd qa qb : BitVec 3) (s : State) : OutKeeps s (execQand qd qa qb s) := by
  unfold execQand
  apply word_keeps; intro i t; simp

theorem execQor_keeps (qd qa qb : BitVec 3) (s : State) : OutKeeps s (execQor qd qa qb s) := by
  unfold execQor
  apply word_keeps; intro i t; simp

theorem execQxor_keeps (qd qa qb : BitVec 3) (s : State) : OutKeeps s (execQxor qd qa qb s) := by
  unfold execQxor
  apply word_keeps; intro i t; simp

theorem execQnot_keeps (qd qa : BitVec 3) (s : State) : OutKeeps s (execQnot qd qa s) := by
  unfold execQnot
  apply word_keeps; intro i t; simp

theorem execLi_keeps (sd : BitVec 5) (imm : BitVec 32) (s : State) : OutKeeps s (execLi sd imm s) := by
  unfold execLi
  apply word_keeps; intro i t; simp

theorem execLih_keeps (sd : BitVec 5) (imm : BitVec 32) (s : State) : OutKeeps s (execLih sd imm s) := by
  unfold execLih
  apply word_keeps; intro i t; simp

theorem execAddil_keeps (sd sa : BitVec 5) (imm : BitVec 32) (s : State) : OutKeeps s (execAddil sd sa imm s) := by
  unfold execAddil
  apply word_keeps; intro i t; simp

theorem State.toV_keeps (s : State) (vd : BitVec 6) (f : Thread → VReg) : OutKeeps s (State.toV s vd f) := by
  unfold State.toV
  apply word_keeps; intro i t; simp

theorem State.opV_keeps (s : State) (vd va vb : BitVec 6) (pm : BitVec 3) (f : BitVec 32 → BitVec 32 → BitVec 32) : OutKeeps s (State.opV s vd va vb pm f) := by
  unfold State.opV
  apply word_keeps; intro i t; simp

theorem State.toP_keeps (s : State) (pd : BitVec 3) (f : Thread → Word) : OutKeeps s (State.toP s pd f) := by
  unfold State.toP
  apply word_keeps; intro i t; simp

theorem State.cmpV_keeps (s : State) (pd : BitVec 3) (va vb : BitVec 6) (pm : BitVec 3) (f : BitVec 32 → BitVec 32 → Bool) : OutKeeps s (State.cmpV s pd va vb pm f) := by
  unfold State.cmpV
  apply word_keeps; intro i t; simp

theorem execVnop_keeps (s : State) : OutKeeps s (execVnop s) := by
  unfold execVnop
  apply word_keeps; intro i t; simp

theorem execVadd_keeps (vd va vb : BitVec 6) (pm : BitVec 3) (w : Width) (uns sat : Bool) (s : State) : OutKeeps s (execVadd vd va vb pm w uns sat s) := by
  unfold execVadd
  apply word_keeps; intro i t; simp

theorem execVsub_keeps (vd va vb : BitVec 6) (pm : BitVec 3) (w : Width) (uns sat : Bool) (s : State) : OutKeeps s (execVsub vd va vb pm w uns sat s) := by
  unfold execVsub
  apply word_keeps; intro i t; simp

theorem execVmul_keeps (vd va vb : BitVec 6) (pm : BitVec 3) (w : Width) (s : State) : OutKeeps s (execVmul vd va vb pm w s) := by
  unfold execVmul
  apply word_keeps; intro i t; simp

theorem execVmulh_keeps (vd va vb : BitVec 6) (pm : BitVec 3) (w : Width) (s : State) : OutKeeps s (execVmulh vd va vb pm w s) := by
  unfold execVmulh
  apply word_keeps; intro i t; simp

theorem execVmulhu_keeps (vd va vb : BitVec 6) (pm : BitVec 3) (w : Width) (s : State) : OutKeeps s (execVmulhu vd va vb pm w s) := by
  unfold execVmulhu
  apply word_keeps; intro i t; simp

theorem execVshl_keeps (vd va vb : BitVec 6) (pm : BitVec 3) (w : Width) (s : State) : OutKeeps s (execVshl vd va vb pm w s) := by
  unfold execVshl
  apply word_keeps; intro i t; simp

theorem execVshr_keeps (vd va vb : BitVec 6) (pm : BitVec 3) (w : Width) (s : State) : OutKeeps s (execVshr vd va vb pm w s) := by
  unfold execVshr
  apply word_keeps; intro i t; simp

theorem execVsra_keeps (vd va vb : BitVec 6) (pm : BitVec 3) (w : Width) (s : State) : OutKeeps s (execVsra vd va vb pm w s) := by
  unfold execVsra
  apply word_keeps; intro i t; simp

theorem execVmin_keeps (vd va vb : BitVec 6) (pm : BitVec 3) (w : Width) (s : State) : OutKeeps s (execVmin vd va vb pm w s) := by
  unfold execVmin
  apply word_keeps; intro i t; simp

theorem execVmax_keeps (vd va vb : BitVec 6) (pm : BitVec 3) (w : Width) (s : State) : OutKeeps s (execVmax vd va vb pm w s) := by
  unfold execVmax
  apply word_keeps; intro i t; simp

theorem execVminu_keeps (vd va vb : BitVec 6) (pm : BitVec 3) (w : Width) (s : State) : OutKeeps s (execVminu vd va vb pm w s) := by
  unfold execVminu
  apply word_keeps; intro i t; simp

theorem execVmaxu_keeps (vd va vb : BitVec 6) (pm : BitVec 3) (w : Width) (s : State) : OutKeeps s (execVmaxu vd va vb pm w s) := by
  unfold execVmaxu
  apply word_keeps; intro i t; simp

theorem execVand_keeps (vd va vb : BitVec 6) (pm : BitVec 3) (s : State) : OutKeeps s (execVand vd va vb pm s) := by
  unfold execVand
  apply word_keeps; intro i t; simp

theorem execVor_keeps (vd va vb : BitVec 6) (pm : BitVec 3) (s : State) : OutKeeps s (execVor vd va vb pm s) := by
  unfold execVor
  apply word_keeps; intro i t; simp

theorem execVxor_keeps (vd va vb : BitVec 6) (pm : BitVec 3) (s : State) : OutKeeps s (execVxor vd va vb pm s) := by
  unfold execVxor
  apply word_keeps; intro i t; simp

theorem execVsel_keeps (vd va vb : BitVec 6) (pm : BitVec 3) (s : State) : OutKeeps s (execVsel vd va vb pm s) := by
  unfold execVsel
  apply word_keeps; intro i t; simp

theorem execViota_keeps (vd : BitVec 6) (pm : BitVec 3) (s : State) : OutKeeps s (execViota vd pm s) := by
  unfold execViota
  apply word_keeps; intro i t; simp

theorem execVcmpeq_keeps (pd : BitVec 3) (va vb : BitVec 6) (pm : BitVec 3) (w : Width) (s : State) : OutKeeps s (execVcmpeq pd va vb pm w s) := by
  unfold execVcmpeq
  apply word_keeps; intro i t; simp

theorem execVcmplt_keeps (pd : BitVec 3) (va vb : BitVec 6) (pm : BitVec 3) (w : Width) (uns : Bool) (s : State) : OutKeeps s (execVcmplt pd va vb pm w uns s) := by
  unfold execVcmplt
  apply word_keeps; intro i t; simp

theorem execVcmple_keeps (pd : BitVec 3) (va vb : BitVec 6) (pm : BitVec 3) (w : Width) (uns : Bool) (s : State) : OutKeeps s (execVcmple pd va vb pm w uns s) := by
  unfold execVcmple
  apply word_keeps; intro i t; simp

theorem execPand_keeps (pd pa pb : BitVec 3) (s : State) : OutKeeps s (execPand pd pa pb s) := by
  unfold execPand
  apply word_keeps; intro i t; simp

theorem execPor_keeps (pd pa pb : BitVec 3) (s : State) : OutKeeps s (execPor pd pa pb s) := by
  unfold execPor
  apply word_keeps; intro i t; simp

theorem execPandn_keeps (pd pa pb : BitVec 3) (s : State) : OutKeeps s (execPandn pd pa pb s) := by
  unfold execPandn
  apply word_keeps; intro i t; simp

theorem execPxor_keeps (pd pa pb : BitVec 3) (s : State) : OutKeeps s (execPxor pd pa pb s) := by
  unfold execPxor
  apply word_keeps; intro i t; simp

theorem State.toVF_keeps (s : State) (vd : BitVec 6) (f : Thread → VReg × Ind) : OutKeeps s (State.toVF s vd f) := by
  unfold State.toVF
  apply word_keeps; intro i t; simp

theorem State.opF_keeps (s : State) (vd va vb : BitVec 6) (pm : BitVec 3) (ty : FTyp) (f : Fmt → Nat → Nat → Nat → Nat × Ind) : OutKeeps s (State.opF s vd va vb pm ty f) := by
  unfold State.opF
  apply word_keeps; intro i t; simp

theorem State.opF1_keeps (s : State) (vd va : BitVec 6) (pm : BitVec 3) (ty : FTyp) (f : Fmt → Nat → Nat × Ind) : OutKeeps s (State.opF1 s vd va pm ty f) := by
  unfold State.opF1
  apply word_keeps; intro i t; simp

theorem execVfadd_keeps (vd va vb : BitVec 6) (pm : BitVec 3) (ty : FTyp) (r : RMode) (s : State) : OutKeeps s (execVfadd vd va vb pm ty r s) := by
  unfold execVfadd
  apply word_keeps; intro i t; simp

theorem execVfsub_keeps (vd va vb : BitVec 6) (pm : BitVec 3) (ty : FTyp) (r : RMode) (s : State) : OutKeeps s (execVfsub vd va vb pm ty r s) := by
  unfold execVfsub
  apply word_keeps; intro i t; simp

theorem execVfmul_keeps (vd va vb : BitVec 6) (pm : BitVec 3) (ty : FTyp) (r : RMode) (s : State) : OutKeeps s (execVfmul vd va vb pm ty r s) := by
  unfold execVfmul
  apply word_keeps; intro i t; simp

theorem execVfdiv_keeps (vd va vb : BitVec 6) (pm : BitVec 3) (ty : FTyp) (r : RMode) (s : State) : OutKeeps s (execVfdiv vd va vb pm ty r s) := by
  unfold execVfdiv
  apply word_keeps; intro i t; simp

theorem execVfma_keeps (vd va vb : BitVec 6) (pm : BitVec 3) (ty : FTyp) (r : RMode) (s : State) : OutKeeps s (execVfma vd va vb pm ty r s) := by
  unfold execVfma
  apply word_keeps; intro i t; simp

theorem execVfms_keeps (vd va vb : BitVec 6) (pm : BitVec 3) (ty : FTyp) (r : RMode) (s : State) : OutKeeps s (execVfms vd va vb pm ty r s) := by
  unfold execVfms
  apply word_keeps; intro i t; simp

theorem execVfmin_keeps (vd va vb : BitVec 6) (pm : BitVec 3) (ty : FTyp) (_r : RMode) (s : State) : OutKeeps s (execVfmin vd va vb pm ty _r s) := by
  unfold execVfmin
  apply word_keeps; intro i t; simp

theorem execVfmax_keeps (vd va vb : BitVec 6) (pm : BitVec 3) (ty : FTyp) (_r : RMode) (s : State) : OutKeeps s (execVfmax vd va vb pm ty _r s) := by
  unfold execVfmax
  apply word_keeps; intro i t; simp

theorem execVfsqrt_keeps (vd va : BitVec 6) (pm : BitVec 3) (ty : FTyp) (r : RMode) (s : State) : OutKeeps s (execVfsqrt vd va pm ty r s) := by
  unfold execVfsqrt
  apply word_keeps; intro i t; simp

theorem execVfrsq_keeps (vd va : BitVec 6) (pm : BitVec 3) (ty : FTyp) (r : RMode) (s : State) : OutKeeps s (execVfrsq vd va pm ty r s) := by
  unfold execVfrsq
  apply word_keeps; intro i t; simp

theorem execVfexp2_keeps (vd va : BitVec 6) (pm : BitVec 3) (ty : FTyp) (r : RMode) (s : State) : OutKeeps s (execVfexp2 vd va pm ty r s) := by
  unfold execVfexp2
  apply word_keeps; intro i t; simp

theorem execVflog2_keeps (vd va : BitVec 6) (pm : BitVec 3) (ty : FTyp) (r : RMode) (s : State) : OutKeeps s (execVflog2 vd va pm ty r s) := by
  unfold execVflog2
  apply word_keeps; intro i t; simp

theorem execVfabs_keeps (vd va : BitVec 6) (pm : BitVec 3) (ty : FTyp) (s : State) : OutKeeps s (execVfabs vd va pm ty s) := by
  unfold execVfabs
  apply word_keeps; intro i t; simp

theorem execVfneg_keeps (vd va : BitVec 6) (pm : BitVec 3) (ty : FTyp) (s : State) : OutKeeps s (execVfneg vd va pm ty s) := by
  unfold execVfneg
  apply word_keeps; intro i t; simp

theorem execVfcmp_keeps (pd : BitVec 3) (va vb : BitVec 6) (pm : BitVec 3) (ty : FTyp) (c : FCond) (s : State) : OutKeeps s (execVfcmp pd va vb pm ty c s) := by
  unfold execVfcmp
  apply word_keeps; intro i t; simp

theorem execVcvt_keeps (vd va : BitVec 6) (pm : BitVec 3) (c : CvtCode) (s : State) : OutKeeps s (execVcvt vd va pm c s) := by
  unfold execVcvt
  apply word_keeps; intro i t; simp

theorem execVcvtPair_keeps (vd va vb : BitVec 6) (pm : BitVec 3) (c : PairCode) (s : State) : OutKeeps s (execVcvtPair vd va vb pm c s) := by
  unfold execVcvtPair
  apply word_keeps; intro i t; simp

theorem execVdec_keeps (vd va : BitVec 6) (pm : BitVec 3) (c4 t1 : Bool) (grp : BitVec 2) (s : State) : OutKeeps s (execVdec vd va pm c4 t1 grp s) := by
  unfold execVdec
  apply word_keeps; intro i t; simp

theorem execVenc_keeps (vd va : BitVec 6) (pm : BitVec 3) (c4 t1 inf : Bool) (s : State) : OutKeeps s (execVenc vd va pm c4 t1 inf s) := by
  unfold execVenc
  apply word_keeps; intro i t; dsimp only; (repeat' split) <;> simp

theorem execVshuf_keeps (vd va vb : BitVec 6) (pm : BitVec 3) (s : State) : OutKeeps s (execVshuf vd va vb pm s) := by
  unfold execVshuf
  apply word_keeps; intro i t; simp

theorem execVroti_keeps (vd va : BitVec 6) (n : BitVec 6) (pm : BitVec 3) (s : State) : OutKeeps s (execVroti vd va n pm s) := by
  unfold execVroti
  apply word_keeps; intro i t; simp

theorem execVscan_keeps (vd va : BitVec 6) (pm : BitVec 3) (op : ScanOp) (s : State) : OutKeeps s (execVscan vd va pm op s) := by
  unfold execVscan
  apply word_keeps; intro i t; simp

theorem execVcmprs_keeps (vd va : BitVec 6) (pm : BitVec 3) (s : State) : OutKeeps s (execVcmprs vd va pm s) := by
  unfold execVcmprs
  apply word_keeps; intro i t; simp

theorem execVtou_keeps (sy : BitVec 5) (vd : BitVec 6) (pm : BitVec 3) (low : Bool) (e : BitVec 6) (s : State) : OutKeeps s (execVtou sy vd pm low e s) := by
  unfold execVtou
  apply word_keeps; intro i t; (repeat' split) <;> simp

theorem execUtov_keeps (vd : BitVec 6) (sa : BitVec 5) (pm : BitVec 3) (s : State) : OutKeeps s (execUtov vd sa pm s) := by
  unfold execUtov
  apply word_keeps; intro i t; simp

theorem execVred_keeps (sy : BitVec 5) (vd : BitVec 6) (pm : BitVec 3) (op : RedOp) (s : State) : OutKeeps s (execVred sy vd pm op s) := by
  unfold execVred
  apply word_keeps; intro i t; (repeat' split) <;> simp

theorem execVuni_keeps (sy : BitVec 5) (qd : BitVec 3) (vd : BitVec 6) (pm : BitVec 3) (s : State) : OutKeeps s (execVuni sy qd vd pm s) := by
  unfold execVuni
  apply word_keeps; intro i t; simp

theorem execPtou_keeps (sy : BitVec 5) (pn : BitVec 3) (s : State) : OutKeeps s (execPtou sy pn s) := by
  unfold execPtou
  apply word_keeps; intro i t; simp

theorem execUtop_keeps (pd : BitVec 3) (sa : BitVec 5) (s : State) : OutKeeps s (execUtop pd sa s) := by
  unfold execUtop
  apply word_keeps; intro i t; simp

theorem execPany_keeps (qd pn : BitVec 3) (s : State) : OutKeeps s (execPany qd pn s) := by
  unfold execPany
  apply word_keeps; intro i t; simp

theorem execPall_keeps (qd pn : BitVec 3) (s : State) : OutKeeps s (execPall qd pn s) := by
  unfold execPall
  apply word_keeps; intro i t; simp

@[simp] theorem State.setFigures_keeps (s : State) (p : Place) (lat hops : Nat) : (s.setFigures p lat hops).mem = s.mem ∧ (s.setFigures p lat hops).side = s.side := by
  unfold State.setFigures
  simp

@[simp] theorem State.figures_keeps (s : State) (p : Place) (r : Resp) : (s.figures p r).mem = s.mem ∧ (s.figures p r).side = s.side := by
  unfold State.figures
  (repeat' split) <;> simp

@[simp] theorem State.wait_keeps (s : State) (i : Issue) (t : Thread) (h : Hold) : (s.wait i t h).mem = s.mem ∧ (s.wait i t h).side = s.side := by
  unfold State.wait
  simp

theorem execBr_keeps (imm : BitVec 32) (s : State) : OutKeeps s (execBr imm s) := by
  unfold execBr
  apply word_keeps; intro i t; simp

theorem execCall_keeps (sd : BitVec 5) (imm : BitVec 32) (s : State) : OutKeeps s (execCall sd imm s) := by
  unfold execCall
  apply word_keeps; intro i t; simp

theorem execJr_keeps (sa : BitVec 5) (s : State) : OutKeeps s (execJr sa s) := by
  unfold execJr
  apply word_keeps; intro i t; (repeat' split) <;> simp

theorem execLoop_keeps (n : Bool) (sa : BitVec 5) (imm : BitVec 32) (s : State) : OutKeeps s (execLoop n sa imm s) := by
  unfold execLoop
  apply word_keeps; intro i t; dsimp only; (repeat' split) <;> simp

theorem execMfs_keeps (sd : BitVec 5) (idx : BitVec 32) (s : State) : OutKeeps s (execMfs sd idx s) := by
  unfold execMfs
  apply word_keeps; intro i t; (repeat' split) <;> simp

theorem execMts_keeps (sa : BitVec 5) (idx : BitVec 32) (s : State) : OutKeeps s (execMts sa idx s) := by
  unfold execMts
  apply word_keeps; intro i t; (repeat' split) <;> simp

theorem execFence_keeps (k : FenceKind) (course : BitVec 5) (s : State) : OutKeeps s (execFence k course s) := by
  unfold execFence
  apply word_keeps; intro i t; simp

@[simp] theorem State.setCourse_keeps (s : State) (die ctx e : Nat) (c : BitVec 128) (masks : List (BitVec 16)) : (s.setCourse die ctx e c masks).mem = s.mem ∧ (s.setCourse die ctx e c masks).side = s.side := by
  unfold State.setCourse
  simp

@[simp] theorem State.fetchWords_keeps (s : State) (i : Issue) (t : Thread) (vas : List Word) (o : Bool) : (s.fetchWords i t vas o).mem = s.mem ∧ (s.fetchWords i t vas o).side = s.side := by
  unfold State.fetchWords
  simp

@[simp] theorem State.fetchRun_keeps (s : State) (i : Issue) (t : Thread) (vas : List Word) : (s.fetchRun i t vas).mem = s.mem ∧ (s.fetchRun i t vas).side = s.side := by
  unfold State.fetchRun
  simp

theorem execCrset_keeps (sa : BitVec 5) (e : BitVec 32) (s : State) : OutKeeps s (execCrset sa e s) := by
  unfold execCrset
  apply word_keeps; intro i t; dsimp only; (repeat' split) <;> simp

theorem execCourseEntryCopy_keeps (die : Nat) (s : State) : OutKeeps s (execCourseEntryCopy die s) := by
  unfold execCourseEntryCopy
  (try dsimp only)
  (repeat' split) <;> simp

theorem execTrapi_keeps (imm : BitVec 32) (s : State) : OutKeeps s (execTrapi imm s) := by
  unfold execTrapi
  apply word_keeps; intro i t; simp

theorem execYield_keeps (s : State) : OutKeeps s (execYield s) := by
  unfold execYield
  apply word_keeps; intro i t; simp

theorem execRegset_keeps (sa : BitVec 5) (mask : BitVec 32) (s : State) : OutKeeps s (execRegset sa mask s) := by
  unfold execRegset
  apply word_keeps; intro i t; dsimp only; (repeat' split) <;> simp

theorem execLd_keeps (sd sa : BitVec 5) (la : BitVec 4) (w4 : Bool) (imm : BitVec 32) (s : State) : OutKeeps s (execLd sd sa la w4 imm s) := by
  unfold execLd
  apply word_keeps; intro i t; simp

theorem execSt_keeps (sa sb : BitVec 5) (w4 : Bool) (imm : BitVec 32) (s : State) : OutKeeps s (execSt sa sb w4 imm s) := by
  unfold execSt
  apply word_keeps; intro i t; simp

@[simp] theorem State.atomic_keeps (s : State) (i : Issue) (t : Thread) (op : AtomicOp) (sd sa sb : BitVec 5) (la : BitVec 4) (w4 : Bool) (imm : BitVec 32) : (s.atomic i t op sd sa sb la w4 imm).mem = s.mem ∧ (s.atomic i t op sd sa sb la w4 imm).side = s.side := by
  unfold State.atomic
  dsimp only
  (repeat' split) <;> simp

theorem execAadd_keeps (sd sa sb : BitVec 5) (la : BitVec 4) (w4 : Bool) (imm : BitVec 32) (s : State) : OutKeeps s (execAadd sd sa sb la w4 imm s) := by
  unfold execAadd
  apply word_keeps; intro i t; simp

theorem execAmin_keeps (sd sa sb : BitVec 5) (la : BitVec 4) (w4 : Bool) (imm : BitVec 32) (s : State) : OutKeeps s (execAmin sd sa sb la w4 imm s) := by
  unfold execAmin
  apply word_keeps; intro i t; simp

theorem execAmax_keeps (sd sa sb : BitVec 5) (la : BitVec 4) (w4 : Bool) (imm : BitVec 32) (s : State) : OutKeeps s (execAmax sd sa sb la w4 imm s) := by
  unfold execAmax
  apply word_keeps; intro i t; simp

theorem execAand_keeps (sd sa sb : BitVec 5) (la : BitVec 4) (w4 : Bool) (imm : BitVec 32) (s : State) : OutKeeps s (execAand sd sa sb la w4 imm s) := by
  unfold execAand
  apply word_keeps; intro i t; simp

theorem execAor_keeps (sd sa sb : BitVec 5) (la : BitVec 4) (w4 : Bool) (imm : BitVec 32) (s : State) : OutKeeps s (execAor sd sa sb la w4 imm s) := by
  unfold execAor
  apply word_keeps; intro i t; simp

theorem execAxch_keeps (sd sa sb : BitVec 5) (la : BitVec 4) (w4 : Bool) (imm : BitVec 32) (s : State) : OutKeeps s (execAxch sd sa sb la w4 imm s) := by
  unfold execAxch
  apply word_keeps; intro i t; simp

theorem execAcas_keeps (sd sa sb : BitVec 5) (la : BitVec 4) (w4 : Bool) (imm : BitVec 32) (s : State) : OutKeeps s (execAcas sd sa sb la w4 imm s) := by
  unfold execAcas
  apply word_keeps; intro i t; simp

@[simp] theorem State.vectorLoad_keeps (s : State) (i : Issue) (t : Thread) (vd : BitVec 6) (pm : BitVec 3) (la : BitVec 4) (size : Nat) (f : Nat → Word) : (s.vectorLoad i t vd pm la size f).mem = s.mem ∧ (s.vectorLoad i t vd pm la size f).side = s.side := by
  unfold State.vectorLoad
  simp

@[simp] theorem State.vectorStore_keeps (s : State) (i : Issue) (t : Thread) (vd : BitVec 6) (pm : BitVec 3) (size : Nat) (f : Nat → Word) : (s.vectorStore i t vd pm size f).mem = s.mem ∧ (s.vectorStore i t vd pm size f).side = s.side := by
  unfold State.vectorStore
  simp

theorem execVld_keeps (vd : BitVec 6) (sa : BitVec 5) (pm : BitVec 3) (la : BitVec 4) (off : BitVec 15) (s : State) : OutKeeps s (execVld vd sa pm la off s) := by
  unfold execVld
  apply word_keeps; intro i t; simp

theorem execVst_keeps (vd : BitVec 6) (sa : BitVec 5) (pm : BitVec 3) (off : BitVec 15) (s : State) : OutKeeps s (execVst vd sa pm off s) := by
  unfold execVst
  apply word_keeps; intro i t; simp

theorem execVlds_keeps (vd : BitVec 6) (sa sx : BitVec 5) (pm : BitVec 3) (la : BitVec 4) (z : ESize) (off : BitVec 15) (s : State) : OutKeeps s (execVlds vd sa sx pm la z off s) := by
  unfold execVlds
  apply word_keeps; intro i t; simp

theorem execVsts_keeps (vd : BitVec 6) (sa sx : BitVec 5) (pm : BitVec 3) (z : ESize) (off : BitVec 15) (s : State) : OutKeeps s (execVsts vd sa sx pm z off s) := by
  unfold execVsts
  apply word_keeps; intro i t; simp

theorem execVgath_keeps (vd : BitVec 6) (sa : BitVec 5) (vb : BitVec 6) (pm : BitVec 3) (la : BitVec 4) (z : ESize) (off : BitVec 15) (s : State) : OutKeeps s (execVgath vd sa vb pm la z off s) := by
  unfold execVgath
  apply word_keeps; intro i t; simp

theorem execVscat_keeps (vd : BitVec 6) (sa : BitVec 5) (vb : BitVec 6) (pm : BitVec 3) (z : ESize) (off : BitVec 15) (s : State) : OutKeeps s (execVscat vd sa vb pm z off s) := by
  unfold execVscat
  apply word_keeps; intro i t; simp

theorem execVpf_keeps (_sa : BitVec 5) (_off : BitVec 15) (s : State) : OutKeeps s (execVpf _sa _off s) := by
  unfold execVpf
  apply word_keeps; intro i t; simp

theorem execLda_keeps (vd : BitVec 6) (sa sx sy : BitVec 5) (la : BitVec 4) (wait : Bool) (lag : BitVec 8) (s : State) : OutKeeps s (execLda vd sa sx sy la wait lag s) := by
  unfold execLda
  apply word_keeps; intro i t; dsimp only; (repeat' split) <;> simp

theorem execLdas_keeps (sa sy : BitVec 5) (la : BitVec 4) (s : State) : OutKeeps s (execLdas sa sy la s) := by
  unfold execLdas
  apply word_keeps; intro i t; dsimp only; (repeat' split) <;> simp

@[simp] theorem State.stampedStore_keeps (s : State) (i : Issue) (t : Thread) (a : Word) (body : Nat → ReqBody) : (s.stampedStore i t a body).mem = s.mem ∧ (s.stampedStore i t a body).side = s.side := by
  unfold State.stampedStore
  (repeat' split) <;> simp

theorem execSta_keeps (vd : BitVec 6) (sa sx : BitVec 5) (off : BitVec 15) (s : State) : OutKeeps s (execSta vd sa sx off s) := by
  unfold execSta
  apply word_keeps; intro i t; simp

theorem execStad_keeps (vd : BitVec 6) (sa sx : BitVec 5) (pm : BitVec 3) (off : BitVec 15) (s : State) : OutKeeps s (execStad vd sa sx pm off s) := by
  unfold execStad
  apply word_keeps; intro i t; simp

@[simp] theorem State.setAcc_keeps (s : State) (uid n : Nat) (a : Acc) : (s.setAcc uid n a).mem = s.mem ∧ (s.setAcc uid n a).side = s.side := by
  unfold State.setAcc
  (repeat' split) <;> simp

@[simp] theorem State.modOp_keeps (s : State) (uid : Nat) (f : TileOp → TileOp) : (s.modOp uid f).mem = s.mem ∧ (s.modOp uid f).side = s.side := by
  unfold State.modOp
  simp

@[simp] theorem State.dropOp_keeps (s : State) (o : TileOp) : (s.dropOp o).mem = s.mem ∧ (s.dropOp o).side = s.side := by
  unfold State.dropOp
  simp

@[simp] theorem State.issueOp_keeps (s : State) (i : Issue) (t : Thread) (op fa fb fc : Nat) (descs : List (BitVec 128)) (regs : List Word) (vec : VReg) : (s.issueOp i t op fa fb fc descs regs vec).mem = s.mem ∧ (s.issueOp i t op fa fb fc descs regs vec).side = s.side := by
  unfold State.issueOp
  (repeat' split) <;> simp

@[simp] theorem State.sendFirst_keeps (s : State) (owner e : Nat) (retried : Bool) : (s.sendFirst owner e retried).mem = s.mem ∧ (s.sendFirst owner e retried).side = s.side := by
  unfold State.sendFirst
  (repeat' split) <;> simp

theorem execSend_keeps (owner : Nat) (e : Nat) (s : State) : OutKeeps s (execSend owner e s) := by
  unfold execSend
  simp

theorem execMonitorRetry_keeps (owner : Nat) (e : Nat) (s : State) : OutKeeps s (execMonitorRetry owner e s) := by
  unfold execMonitorRetry
  simp

theorem execDeliver_keeps (d : Nat) (e : Nat) (engine : Bool) (s : State) : OutKeeps s (execDeliver d e engine s) := by
  unfold execDeliver
  (try dsimp only)
  (repeat' split) <;> simp

@[simp] theorem State.popArrival_keeps (s : State) (e : Nat) : (s.popArrival e).mem = s.mem ∧ (s.popArrival e).side = s.side := by
  unfold State.popArrival
  simp

@[simp] theorem State.answer_keeps (s : State) (r : Req) (b : RespBody) : (s.answer r b).mem = s.mem ∧ (s.answer r b).side = s.side := by
  unfold State.answer
  simp

@[simp] theorem State.answerEntry_keeps (s : State) (e : Nat) (m : MonEntry) (b : RespBody) : (s.answerEntry e m b).mem = s.mem ∧ (s.answerEntry e m b).side = s.side := by
  unfold State.answerEntry
  simp

@[simp] theorem State.answerMet_keeps (s : State) (e pa : Nat) : (s.answerMet e pa).mem = s.mem ∧ (s.answerMet e pa).side = s.side := by
  unfold State.answerMet
  simp

@[simp] theorem State.ldaStep_keeps (s : State) (r : Req) (va : Word) (pa : Nat) (iter : BitVec 32) (lag : BitVec 8) (wait : Bool) : (s.ldaStep r va pa iter lag wait).mem = s.mem ∧ (s.ldaStep r va pa iter lag wait).side = s.side := by
  unfold State.ldaStep
  dsimp only
  (repeat' split) <;> simp

@[simp] theorem State.popResp_keeps (s : State) (e d : Nat) : (s.popResp e d).mem = s.mem ∧ (s.popResp e d).side = s.side := by
  unfold State.popResp
  simp

@[simp] theorem State.dropOut_keeps (s : State) (r : Resp) : (s.dropOut r).mem = s.mem ∧ (s.dropOut r).side = s.side := by
  unfold State.dropOut
  simp

@[simp] theorem State.modTag_keeps (s : State) (p : Place) (n : Nat) (f : Tag → Tag) : (s.modTag p n f).mem = s.mem ∧ (s.modTag p n f).side = s.side := by
  unfold State.modTag
  simp

@[simp] theorem State.deliverTo_keeps (s : State) (p : Place) (r : Resp) : (s.deliverTo p r).mem = s.mem ∧ (s.deliverTo p r).side = s.side := by
  unfold State.deliverTo
  (repeat' split) <;> simp

@[simp] theorem State.packetRefused_keeps (s : State) (uid : Nat) : (s.packetRefused uid).mem = s.mem ∧ (s.packetRefused uid).side = s.side := by
  unfold State.packetRefused
  (repeat' split) <;> simp

theorem execTdesc_keeps (d : BitVec 4) (s1 : BitVec 5) (s : State) : OutKeeps s (execTdesc d s1 s) := by
  unfold execTdesc
  apply word_keeps; intro i t; dsimp only; (repeat' split) <;> simp

theorem execTzero_keeps (a : BitVec 2) (s1 s2 : BitVec 5) (s : State) : OutKeeps s (execTzero a s1 s2 s) := by
  unfold execTzero
  apply word_keeps; intro i t; simp

theorem execTmm_keeps (a : BitVec 2) (da db : BitVec 4) (s : State) : OutKeeps s (execTmm a da db s) := by
  unfold execTmm
  apply word_keeps; intro i t; simp

theorem execTmmr_keeps (a : BitVec 2) (dx : BitVec 4) (k : BitVec 3) (s1 : BitVec 5) (s : State) : OutKeeps s (execTmmr a dx k s1 s) := by
  unfold execTmmr
  apply word_keeps; intro i t; simp

theorem execTdrain_keeps (a : BitVec 2) (dc : BitVec 4) (s1 : BitVec 5) (s : State) : OutKeeps s (execTdrain a dc s1 s) := by
  unfold execTdrain
  apply word_keeps; intro i t; (repeat' split) <;> simp

theorem execTcopy_keeps (ch : BitVec 2) (s1 s2 s3 : BitVec 5) (s : State) : OutKeeps s (execTcopy ch s1 s2 s3 s) := by
  unfold execTcopy
  apply word_keeps; intro i t; simp

theorem execTcnv_keeps (dd ds : BitVec 4) (s : State) : OutKeeps s (execTcnv dd ds s) := by
  unfold execTcnv
  apply word_keeps; intro i t; simp

@[simp] theorem State.solverOp_keeps (s : State) (i : Issue) (t : Thread) (op fa fb fc : Nat) (descs : List (BitVec 128)) (regs : List Word) : (s.solverOp i t op fa fb fc descs regs).mem = s.mem ∧ (s.solverOp i t op fa fb fc descs regs).side = s.side := by
  unfold State.solverOp
  (repeat' split) <;> simp

theorem execTqms_keeps (dr da dx : BitVec 4) (s1 : BitVec 5) (s : State) : OutKeeps s (execTqms dr da dx s1 s) := by
  unfold execTqms
  apply word_keeps; intro i t; simp

theorem execTlu_keeps (dn : BitVec 4) (s : State) : OutKeeps s (execTlu dn s) := by
  unfold execTlu
  apply word_keeps; intro i t; simp

theorem execTsolv_keeps (dl dv : BitVec 4) (s : State) : OutKeeps s (execTsolv dl dv s) := by
  unfold execTsolv
  apply word_keeps; intro i t; simp

theorem execReds_keeps (s1 s2 : BitVec 5) (v : BitVec 6) (s : State) : OutKeeps s (execReds s1 s2 v s) := by
  unfold execReds
  apply word_keeps; intro i t; simp

theorem execTwait_keeps (s1 : BitVec 5) (s : State) : OutKeeps s (execTwait s1 s) := by
  unfold execTwait
  apply word_keeps; intro i t; dsimp only; (repeat' split) <;> simp

theorem execTtab_keeps (tab : BitVec 2) (s1 : BitVec 5) (s : State) : OutKeeps s (execTtab tab s1 s) := by
  unfold execTtab
  apply word_keeps; intro i t; dsimp only; (repeat' split) <;> simp

@[simp] theorem State.takeTurn_keeps (s : State) (p : Place) : (s.takeTurn p).mem = s.mem ∧ (s.takeTurn p).side = s.side := by
  unfold State.takeTurn
  simp

/-- The start of an issue leaves memory and sideband alone, whatever follows from the word (R34, R63). -/
theorem State.startIssue_keeps (s : State) (die core : Nat) (x : State × Option Bundle)
    (h : s.startIssue die core = some x) : x.1.mem = s.mem ∧ x.1.side = s.side := by
  unfold State.startIssue at h
  split at h
  · cases h
  · split at h
    · cases h
    · dsimp only at h
      split at h
      · cases h; simp
      · split at h <;> (cases h; simp)

@[simp] theorem State.finishIssue_keeps (s : State) (ws : List Nat) : (s.finishIssue ws).mem = s.mem ∧ (s.finishIssue ws).side = s.side := by
  unfold State.finishIssue
  (repeat' split) <;> simp

@[simp] theorem State.takeDue_keeps (s : State) (p : Place) (t : Thread) (d : DueTrap) : (s.takeDue p t d).mem = s.mem ∧ (s.takeDue p t d).side = s.side := by
  unfold State.takeDue
  (repeat' split) <;> simp

theorem execTrapEntry_keeps (p : Place) (s : State) : OutKeeps s (execTrapEntry p s) := by
  unfold execTrapEntry
  (try dsimp only)
  (repeat' split) <;> simp

theorem execYieldRelease_keeps (p : Place) (s : State) : OutKeeps s (execYieldRelease p s) := by
  unfold execYieldRelease
  (repeat' split) <;> simp

@[simp] theorem State.startThread_keeps (s : State) (p : Place) (ctx : Nat) (pc : Word) (regs : List Word) (trapvec nodeA : Word) : (s.startThread p ctx pc regs trapvec nodeA).mem = s.mem ∧ (s.startThread p ctx pc regs trapvec nodeA).side = s.side := by
  unfold State.startThread
  simp

theorem execLaunchFill_keeps (p : Place) (s : State) : OutKeeps s (execLaunchFill p s) := by
  unfold execLaunchFill
  (try dsimp only)
  (repeat' split) <;> simp

@[simp] theorem State.ruleRead_keeps (s : State) (die core ctx idx : Nat) :
    (s.ruleRead die core ctx idx).1.mem = s.mem ∧ (s.ruleRead die core ctx idx).1.side = s.side := by
  unfold State.ruleRead
  dsimp only
  (repeat' split) <;> simp

theorem State.classify_keeps {s : State} {die core ctx : Nat} {x y : Word} {r : State × Word × Word}
    (h : s.classify die core ctx x y = some r) : r.1.mem = s.mem ∧ r.1.side = s.side := by
  unfold State.classify at h
  split at h
  · cases h
  · cases h
  · dsimp only at h
    generalize s.ruleBusy die core ctx _ = b at h
    cases b
    · cases h
      exact ⟨(State.ruleRead_keeps ..).1, (State.ruleRead_keeps ..).2⟩
    · cases h

@[simp] theorem State.noteWork_keeps (s : State) (ctx : Nat) : (s.noteWork ctx).mem = s.mem ∧ (s.noteWork ctx).side = s.side := by
  unfold State.noteWork
  simp

@[simp] theorem State.createRecord_keeps (s : State) (src : RecSource) (owner ctx die core : Nat) (a b : Word) : (s.createRecord src owner ctx die core a b).mem = s.mem ∧ (s.createRecord src owner ctx die core a b).side = s.side := by
  unfold State.createRecord
  simp

@[simp] theorem State.hodEnter_keeps (s : State) (die core : Nat) (w0 w1 : Word) : (s.hodEnter die core w0 w1).mem = s.mem ∧ (s.hodEnter die core w0 w1).side = s.side := by
  unfold State.hodEnter
  simp

@[simp] theorem State.setStack_keeps (s : State) (die core ctx : Nat) (l : List Word) : (s.setStack die core ctx l).mem = s.mem ∧ (s.setStack die core ctx l).side = s.side := by
  unfold State.setStack
  simp

@[simp] theorem State.pushNode_keeps (s : State) (die core ctx : Nat) (n : Word) : (s.pushNode die core ctx n).mem = s.mem ∧ (s.pushNode die core ctx n).side = s.side := by
  unfold State.pushNode
  dsimp only
  (repeat' split) <;> simp

@[simp] theorem State.readOn_keeps (s : State) (die ctx : Nat) (ns : List Word) : (s.readOn die ctx ns).mem = s.mem ∧ (s.readOn die ctx ns).side = s.side := by
  unfold State.readOn
  simp

@[simp] theorem State.pushBatch_keeps (s : State) (die core ctx : Nat) (b : List Word) : (s.pushBatch die core ctx b).mem = s.mem ∧ (s.pushBatch die core ctx b).side = s.side := by
  unfold State.pushBatch
  dsimp only
  split <;> simp

@[simp] theorem State.setPopped_keeps (s : State) (die core ctx uid : Nat) (ns : List Word) : (s.setPopped die core ctx uid ns).mem = s.mem ∧ (s.setPopped die core ctx uid ns).side = s.side := by
  unfold State.setPopped
  simp

@[simp] theorem State.regain_keeps (s : State) (die core ctx : Nat) : (s.regain die core ctx).mem = s.mem ∧ (s.regain die core ctx).side = s.side := by
  unfold State.regain
  dsimp only
  split <;> simp

theorem State.popNodes_keeps {s : State} {die core ctx uid n : Nat} {r : List Word × State}
    (h : s.popNodes die core ctx uid n = some r) : r.2.mem = s.mem ∧ r.2.side = s.side := by
  unfold State.popNodes at h
  dsimp only at h
  split at h
  · cases h
  · cases h; simp

@[simp] theorem State.wantNodes_keeps (s : State) (die core ctx uid : Nat) : (s.wantNodes die core ctx uid).mem = s.mem ∧ (s.wantNodes die core ctx uid).side = s.side := by
  unfold State.wantNodes
  simp

@[simp] theorem State.unpop_keeps (s : State) (die core ctx uid : Nat) : (s.unpop die core ctx uid).mem = s.mem ∧ (s.unpop die core ctx uid).side = s.side := by
  unfold State.unpop
  simp

@[simp] theorem State.faultThread_keeps (s : State) (p : Place) (ctx : Nat) (a b : Word) : (s.faultThread p ctx a b).mem = s.mem ∧ (s.faultThread p ctx a b).side = s.side := by
  unfold State.faultThread
  dsimp only
  (repeat' split) <;> simp

@[simp] theorem State.modJob_keeps (s : State) (r : Rewrite) (f : Rewrite → Rewrite) : (s.modJob r f).mem = s.mem ∧ (s.modJob r f).side = s.side := by
  unfold State.modJob
  simp

@[simp] theorem State.setWork_keeps (s : State) (p : Party) (w : LinkWork) : (s.setWork p w).mem = s.mem ∧ (s.setWork p w).side = s.side := by
  unfold State.setWork
  (repeat' split) <;> simp

@[simp] theorem State.endLink_keeps (s : State) (p : Place) (t : Thread) (hops : Nat) : (s.endLink p t hops).mem = s.mem ∧ (s.endLink p t hops).side = s.side := by
  unfold State.endLink
  (repeat' split) <;> simp

@[simp] theorem State.goOn_keeps (s : State) (uid : Nat) : (s.goOn uid).mem = s.mem ∧ (s.goOn uid).side = s.side := by
  unfold State.goOn
  (repeat' split) <;> simp

@[simp] theorem State.jobFault_keeps (s : State) (uid : Nat) : (s.jobFault uid).mem = s.mem ∧ (s.jobFault uid).side = s.side := by
  unfold State.jobFault
  (repeat' split) <;> simp

@[simp] theorem State.linkDone_keeps (s : State) (p : Party) : (s.linkDone p).mem = s.mem ∧ (s.linkDone p).side = s.side := by
  unfold State.linkDone
  (repeat' split) <;> simp

@[simp] theorem State.linkFault_keeps (s : State) (p : Party) : (s.linkFault p).mem = s.mem ∧ (s.linkFault p).side = s.side := by
  unfold State.linkFault
  (repeat' split) <;> simp

@[simp] theorem State.pushPair_keeps (s : State) (p : Party) (x y : Word) : (s.pushPair p x y).mem = s.mem ∧ (s.pushPair p x y).side = s.side := by
  unfold State.pushPair
  simp

theorem execLinkHoldRetry_keeps (issuer : Nat) (s : State) : OutKeeps s (execLinkHoldRetry issuer s) := by
  unfold execLinkHoldRetry
  (repeat' split) <;> simp

@[simp] theorem State.vanish_keeps (s : State) (us : List Nat) : (s.vanish us).mem = s.mem ∧ (s.vanish us).side = s.side := by
  unfold State.vanish
  simp

theorem execLink_keeps (s1 s2 : BitVec 5) (s : State) : OutKeeps s (execLink s1 s2 s) := by
  unfold execLink
  apply word_keeps; intro i t; dsimp only; (repeat' split) <;> simp

theorem execAlloc_keeps (sd : BitVec 5) (la : BitVec 4) (n : BitVec 21) (s : State) : OutKeeps s (execAlloc sd la n s) := by
  unfold execAlloc
  apply word_keeps; intro i t; dsimp only
  split
  · split <;> simp
  · rename_i h
    have k := State.popNodes_keeps h
    split <;> simp_all

@[simp] theorem State.markZeroing_keeps (s : State) (uid n : Nat) : (s.markZeroing uid n).mem = s.mem ∧ (s.markZeroing uid n).side = s.side := by
  unfold State.markZeroing
  simp

theorem execFree_keeps (s1 : BitVec 5) (s : State) : OutKeeps s (execFree s1 s) := by
  unfold execFree
  apply word_keeps; intro i t; dsimp only; (repeat' split) <;> simp

theorem execPush_keeps (s1 s2 : BitVec 5) (s : State) : OutKeeps s (execPush s1 s2 s) := by
  unfold execPush
  apply word_keeps; intro i t; dsimp only; (repeat' split) <;> simp

theorem execEndThread_keeps (s : State) : OutKeeps s (execEndThread s) := by
  unfold execEndThread
  apply word_keeps; intro i t; (repeat' split) <;> simp

theorem execNld_keeps (s1 sd : BitVec 5) (la : BitVec 4) (off : BitVec 21) (s : State) : OutKeeps s (execNld s1 sd la off s) := by
  unfold execNld
  apply word_keeps; intro i t; simp

theorem execNst_keeps (s1 s2 : BitVec 5) (off : BitVec 21) (s : State) : OutKeeps s (execNst s1 s2 off s) := by
  unfold execNst
  apply word_keeps; intro i t; simp

theorem execRuleInvalidate_keeps (die : Nat) (s : State) : OutKeeps s (execRuleInvalidate die s) := by
  unfold execRuleInvalidate
  (try dsimp only)
  (repeat' split) <;> simp

@[simp] theorem State.callThread_keeps (s : State) (p : Place) (ctx : Nat) (handler a b : Word) : (s.callThread p ctx handler a b).mem = s.mem ∧ (s.callThread p ctx handler a b).side = s.side := by
  unfold State.callThread
  simp

theorem State.dispatch_keeps {s : State} {p : Place} {e : HodEntry} {r : State}
    (h : s.dispatch p e = some r) : r.mem = s.mem ∧ r.side = s.side := by
  unfold State.dispatch at h
  dsimp only at h
  split at h
  · (repeat' split at h) <;> cases h <;> simp
  · cases h
  · cases h
  · cases h; simp

theorem execDispatchTake_keeps (p : Place) (s : State) : OutKeeps s (execDispatchTake p s) := by
  have key : ∀ (x : State) p e (y : State), x.mem = y.mem ∧ x.side = y.side → s.mem = y.mem ∧ s.side = y.side →
      ((x.dispatch p e).getD s).mem = y.mem ∧ ((x.dispatch p e).getD s).side = y.side := by
    intro x p e y hx hs
    cases h : x.dispatch p e with
    | none => simpa using hs
    | some r => simpa [State.dispatch_keeps h] using hx
  unfold execDispatchTake
  dsimp only
  (repeat' split) <;> simp
  · exact key _ _ _ _ ⟨rfl, rfl⟩ ⟨rfl, rfl⟩
  · exact key _ _ _ _ (by simp) ⟨rfl, rfl⟩

@[simp] theorem State.unitFault_keeps (s : State) (r : Rewrite) : (s.unitFault r).mem = s.mem ∧ (s.unitFault r).side = s.side := by
  unfold State.unitFault
  (repeat' split) <;> simp

theorem State.placeRecord_keeps {s : State} {die core ctx : Nat} {a b : Word} {r : State}
    (h : s.placeRecord die core ctx a b none = some r) : r.mem = s.mem ∧ r.side = s.side := by
  unfold State.placeRecord at h
  dsimp only [State.wakeDone, Option.bind_none] at h
  (repeat' split at h) <;> cases h <;> simp

@[simp] theorem State.unitEmpty_keeps (s : State) (r : Rewrite) : (s.unitEmpty r).mem = s.mem ∧ (s.unitEmpty r).side = s.side := by
  unfold State.unitEmpty
  dsimp only
  split
  · simp
  · rename_i h
    have k := State.placeRecord_keeps h
    simp [k]

@[simp] theorem State.checkFault_keeps (s : State) (r : Rewrite) : (s.checkFault r).mem = s.mem ∧ (s.checkFault r).side = s.side := by
  unfold State.checkFault
  split <;> simp

@[simp] theorem State.setWords_keeps (s : State) (n : Nat) (w : Word × Word) : (s.setWords n w).mem = s.mem ∧ (s.setWords n w).side = s.side := by
  unfold State.setWords
  simp

theorem execRecordClassify_keeps (n : Nat) (s : State) : OutKeeps s (execRecordClassify n s) := by
  unfold execRecordClassify
  split
  · simp
  · split
    · simp
    · split
      · simp
      · rename_i h
        have k := State.classify_keeps h
        simpa using k

theorem execHodSteal_keeps (die : Nat) (core : Nat) (ctx : Nat) (s : State) : OutKeeps s (execHodSteal die core ctx s) := by
  unfold execHodSteal
  (try dsimp only)
  (repeat' split) <;> simp

theorem execAgingRise_keeps (die : Nat) (core : Nat) (n : Nat) (s : State) : OutKeeps s (execAgingRise die core n s) := by
  unfold execAgingRise
  (repeat' split) <;> simp

@[simp] theorem State.balanceWith_keeps (s : State) (die ctx nb : Nat) : (s.balanceWith die ctx nb).mem = s.mem ∧ (s.balanceWith die ctx nb).side = s.side := by
  unfold State.balanceWith
  dsimp only
  (repeat' split) <;> simp

theorem execBalanceAdvertise_keeps (die : Nat) (ctx : Nat) (s : State) : OutKeeps s (execBalanceAdvertise die ctx s) := by
  unfold execBalanceAdvertise
  (try dsimp only)
  (repeat' split) <;> simp

@[simp] theorem State.waveOf_keeps (s : State) (c : CtxInfo) : (s.waveOf c).mem = s.mem ∧ (s.waveOf c).side = s.side := by
  unfold State.waveOf
  dsimp only
  (repeat' split) <;> simp

theorem execQuiescenceWave_keeps (s : State) : OutKeeps s (execQuiescenceWave s) := by
  unfold execQuiescenceWave
  (repeat' split) <;> simp

@[simp] theorem State.arbitrate_keeps (s : State) (die core : Nat) : (s.arbitrate die core).mem = s.mem ∧ (s.arbitrate die core).side = s.side := by
  unfold State.arbitrate
  dsimp only
  (repeat' split) <;> simp

theorem execSlotArbiter_keeps (die : Nat) (core : Nat) (s : State) : OutKeeps s (execSlotArbiter die core s) := by
  unfold execSlotArbiter
  (repeat' split) <;> simp

@[simp] theorem State.markNoticed_keeps (s : State) (w : BitVec 24) : (s.markNoticed w).mem = s.mem ∧ (s.markNoticed w).side = s.side := by
  unfold State.markNoticed
  dsimp only
  (repeat' split) <;> simp

theorem execStopNoticeSend_keeps (uid : Nat) (s : State) : OutKeeps s (execStopNoticeSend uid s) := by
  unfold execStopNoticeSend
  (try dsimp only)
  (repeat' split) <;> simp

@[simp] theorem State.applyNotice_keeps (s : State) (die : Nat) (ids : List (BitVec 24)) : (s.applyNotice die ids).mem = s.mem ∧ (s.applyNotice die ids).side = s.side := by
  unfold State.applyNotice
  simp

@[simp] theorem State.applyDeferred_keeps (s : State) (die : Nat) : (s.applyDeferred die).mem = s.mem ∧ (s.applyDeferred die).side = s.side := by
  unfold State.applyDeferred
  simp

@[simp] theorem State.applyAllDeferred_keeps (s : State) : (s.applyAllDeferred).mem = s.mem ∧ (s.applyAllDeferred).side = s.side := by
  unfold State.applyAllDeferred
  simp

@[simp] theorem State.pruneNotices_keeps (s : State) : (s.pruneNotices).mem = s.mem ∧ (s.pruneNotices).side = s.side := by
  unfold State.pruneNotices
  simp

theorem execStopNoticeApply_keeps (die : Nat) (n : Nat) (s : State) : OutKeeps s (execStopNoticeApply die n s) := by
  unfold execStopNoticeApply
  (try dsimp only)
  (repeat' split) <;> simp

theorem execClearNotice_keeps (p : Place) (s : State) : OutKeeps s (execClearNotice p s) := by
  unfold execClearNotice
  (try dsimp only)
  (repeat' split) <;> simp

theorem execHeldAwayClear_keeps (die : Nat) (n : Nat) (s : State) : OutKeeps s (execHeldAwayClear die n s) := by
  unfold execHeldAwayClear
  (try dsimp only)
  (repeat' split) <;> simp

@[simp] theorem State.modHandles_keeps (s : State) (die core : Nat) (f : List Handle → List Handle) : (s.modHandles die core f).mem = s.mem ∧ (s.modHandles die core f).side = s.side := by
  unfold State.modHandles
  simp

@[simp] theorem State.releaseHandle_keeps (s : State) (die core ctx k : Nat) : (s.releaseHandle die core ctx k).mem = s.mem ∧ (s.releaseHandle die core ctx k).side = s.side := by
  unfold State.releaseHandle
  simp

@[simp] theorem State.boardHandle_keeps (s : State) (p : Place) (ctx k : Nat) (part : Option Part) (list : Word) (n : Nat) : (s.boardHandle p ctx k part list n).mem = s.mem ∧ (s.boardHandle p ctx k part list n).side = s.side := by
  unfold State.boardHandle
  simp

theorem execUnboard_keeps (k : BitVec 3) (s : State) : OutKeeps s (execUnboard k s) := by
  unfold execUnboard
  apply word_keeps; intro i t; simp

theorem execRingq_keeps (k : BitVec 3) (sd : BitVec 5) (la : BitVec 4) (code : BitVec 21) (s : State) : OutKeeps s (execRingq k sd la code s) := by
  unfold execRingq
  apply word_keeps; intro i t; dsimp only; (repeat' split) <;> simp

theorem execHandleRelease_keeps (die : Nat) (core : Nat) (ctx : Nat) (k : Nat) (s : State) : OutKeeps s (execHandleRelease die core ctx k s) := by
  unfold execHandleRelease
  (try dsimp only)
  (repeat' split) <;> simp

theorem execSegmentInject_keeps (lane : Nat) (s : State) : OutKeeps s (execSegmentInject lane s) := by
  unfold execSegmentInject
  (try dsimp only)
  (repeat' split) <;> simp

@[simp] theorem State.hopError_keeps (s : State) (die : Nat) (g : Segment) : (s.hopError die g).mem = s.mem ∧ (s.hopError die g).side = s.side := by
  unfold State.hopError
  (repeat' split) <;> simp

@[simp] theorem State.deal_keeps (s : State) (die : Nat) (g : Segment) (f : Nat → Handle → Handle) : (s.deal die g f).mem = s.mem ∧ (s.deal die g f).side = s.side := by
  unfold State.deal
  simp

@[simp] theorem State.markPassed_keeps (s : State) (die : Nat) (g : Segment) : (s.markPassed die g).mem = s.mem ∧ (s.markPassed die g).side = s.side := by
  unfold State.markPassed
  simp

theorem execSegmentTap_keeps (die : Nat) (s : State) : OutKeeps s (execSegmentTap die s) := by
  unfold execSegmentTap
  (try dsimp only)
  (repeat' split) <;> simp

theorem execSegmentForward_keeps (die : Nat) (lane : Nat) (s : State) : OutKeeps s (execSegmentForward die lane s) := by
  unfold execSegmentForward
  (try dsimp only)
  (repeat' split) <;> simp

@[simp] theorem State.mapHandles_keeps (s : State) (f : Nat → Handle → Handle) : (s.mapHandles f).mem = s.mem ∧ (s.mapHandles f).side = s.side := by
  unfold State.mapHandles
  simp

@[simp] theorem State.stopRing_keeps (s : State) : (s.stopRing).mem = s.mem ∧ (s.stopRing).side = s.side := by
  unfold State.stopRing
  simp

@[simp] theorem State.reresolve_keeps (s : State) (l : BitVec 32) (t : Nat) : (s.reresolve l t).mem = s.mem ∧ (s.reresolve l t).side = s.side := by
  unfold State.reresolve
  simp

@[simp] theorem State.nextLap_keeps (s : State) (g : RingProgram) (watts : Nat) : (s.nextLap g watts).mem = s.mem ∧ (s.nextLap g watts).side = s.side := by
  unfold State.nextLap
  dsimp only
  (repeat' split) <;> simp

@[simp] theorem State.bypass_keeps (s : State) (new : List Nat) (lap : BitVec 32) : (s.bypass new lap).mem = s.mem ∧ (s.bypass new lap).side = s.side := by
  unfold State.bypass
  simp

theorem execLapBoundary_keeps (watts : Nat) (s : State) : OutKeeps s (execLapBoundary watts s) := by
  unfold execLapBoundary
  (try dsimp only)
  (repeat' split) <;> simp

theorem execMig_keeps (s1 : BitVec 5) (s : State) : OutKeeps s (execMig s1 s) := by
  unfold execMig
  apply word_keeps; intro i t; dsimp only; (repeat' split) <;> simp

@[simp] theorem State.sendPacket_keeps (s : State) (p : Place) (t : Thread) (m : Migration) : (s.sendPacket p t m).mem = s.mem ∧ (s.sendPacket p t m).side = s.side := by
  unfold State.sendPacket
  simp

theorem execMigrationPack_keeps (p : Place) (s : State) : OutKeeps s (execMigrationPack p s) := by
  unfold execMigrationPack
  (repeat' split) <;> simp

theorem execMigrationResend_keeps (p : Place) (s : State) : OutKeeps s (execMigrationResend p s) := by
  unfold execMigrationResend
  (repeat' split) <;> simp

@[simp] theorem State.placeThread_keeps (s : State) (p : Place) (lat hops : Nat) (t : Thread) : (s.placeThread p lat hops t).mem = s.mem ∧ (s.placeThread p lat hops t).side = s.side := by
  unfold State.placeThread
  simp

@[simp] theorem State.losePacket_keeps (s : State) (die : Nat) (t : Thread) : (s.losePacket die t).mem = s.mem ∧ (s.losePacket die t).side = s.side := by
  unfold State.losePacket
  dsimp only
  split <;> simp

@[simp] theorem State.refusePacket_keeps (s : State) (r : Req) (t : Thread) : (s.refusePacket r t).mem = s.mem ∧ (s.refusePacket r t).side = s.side := by
  unfold State.refusePacket
  split <;> simp

theorem execMigrationPacket_keeps (e : Nat) (s : State) : OutKeeps s (execMigrationPacket e s) := by
  unfold execMigrationPacket
  (try dsimp only)
  (repeat' split) <;> simp

theorem execMigrationAccept_keeps (e : Nat) (d : Nat) (s : State) : OutKeeps s (execMigrationAccept e d s) := by
  unfold execMigrationAccept
  split
  · simp
  · split
    · simp
    · dsimp only
      split
      · split <;> simp
      · simp

theorem execBufferedPacketPlace_keeps (die : Nat) (n : Nat) (s : State) : OutKeeps s (execBufferedPacketPlace die n s) := by
  unfold execBufferedPacketPlace
  (try dsimp only)
  (repeat' split) <;> simp

@[simp] theorem State.installThread_keeps (s : State) (p : Place) (t : Thread) : (s.installThread p t).mem = s.mem ∧ (s.installThread p t).side = s.side := by
  unfold State.installThread
  simp

theorem execEret_keeps (s : State) : OutKeeps s (execEret s) := by
  unfold execEret
  apply word_keeps; intro i t; (repeat' split) <;> simp

theorem execHalt_keeps (s : State) : OutKeeps s (execHalt s) := by
  unfold execHalt
  apply word_keeps; intro i t; simp

theorem execSvc_keeps (e : BitVec 21) (s : State) : OutKeeps s (execSvc e s) := by
  unfold execSvc
  apply word_keeps; intro i t; dsimp only; (repeat' split) <;> simp

theorem execPreempt_keeps (ctx : Nat) (s : State) : OutKeeps s (execPreempt ctx s) := by
  unfold execPreempt
  (try dsimp only)
  (repeat' split) <;> simp

theorem execRestore_keeps (ctx : Nat) (s : State) : OutKeeps s (execRestore ctx s) := by
  have settle (x : State) (p : Place) (t : Thread) (w : BitVec 24) :
      (x.settleIds p t w).1.mem = x.mem ∧ (x.settleIds p t w).1.side = x.side := by
    unfold State.settleIds
    dsimp only
    split <;> simp
  unfold execRestore
  dsimp only
  split
  · simp
  split
  · simp
  split
  · simp
  split
  · simp
  split <;> split
  all_goals first | (simp; done) | (split <;> simp [settle])

theorem execDieHalt_keeps (die : Nat) (s : State) : OutKeeps s (execDieHalt die s) := by
  unfold execDieHalt
  (repeat' split) <;> simp

theorem execDieRelease_keeps (die : Nat) (s : State) : OutKeeps s (execDieRelease die s) := by
  unfold execDieRelease
  (try dsimp only)
  (repeat' split) <;> simp

@[simp] theorem State.releaseSlot_keeps (s : State) (p : Place) : (s.releaseSlot p).mem = s.mem ∧ (s.releaseSlot p).side = s.side := by
  unfold State.releaseSlot
  (repeat' split) <;> simp

theorem execSlotRelease_keeps (p : Place) (s : State) : OutKeeps s (execSlotRelease p s) := by
  unfold execSlotRelease
  simp

@[simp] theorem State.intakeLog_keeps (s : State) (cause ctx : Nat) (info : Word) : (s.intakeLog cause ctx info).mem = s.mem ∧ (s.intakeLog cause ctx info).side = s.side := by
  unfold State.intakeLog
  simp

theorem execIntakeWrite_keeps (off : Nat) (len : Nat) (relaxed : Bool) (w0 w1 : BitVec 64) (s : State) : OutKeeps s (execIntakeWrite off len relaxed w0 w1 s) := by
  unfold execIntakeWrite
  (try dsimp only)
  (repeat' split) <;> simp

theorem execIntakeForward_keeps (s : State) : OutKeeps s (execIntakeForward s) := by
  unfold execIntakeForward
  (try dsimp only)
  (repeat' split) <;> simp

theorem execBar2Read_keeps (off : Nat) (s : State) : OutKeeps s (execBar2Read off s) := by
  unfold execBar2Read
  (try dsimp only)
  (repeat' split) <;> simp

theorem execHostRead_keeps (off : Nat) (len : Nat) (s : State) : OutKeeps s (execHostRead off len s) := by
  unfold execHostRead
  (repeat' split) <;> simp

theorem execStampViewRead_keeps (off : Nat) (len : Nat) (s : State) : OutKeeps s (execStampViewRead off len s) := by
  unfold execStampViewRead
  (try dsimp only)
  (repeat' split) <;> simp

@[simp] theorem State.setExpected_keeps (s : State) (die ctx g : Nat) (n : BitVec 32) : (s.setExpected die ctx g n).mem = s.mem ∧ (s.setExpected die ctx g n).side = s.side := by
  unfold State.setExpected
  simp

@[simp] theorem State.dropExpected_keeps (s : State) (ctx g : Nat) : (s.dropExpected ctx g).mem = s.mem ∧ (s.dropExpected ctx g).side = s.side := by
  unfold State.dropExpected
  simp

@[simp] theorem State.contribute_keeps (s : State) (o : TileOp) (g : Group) (m : Word × Word) : (s.contribute o g m).mem = s.mem ∧ (s.contribute o g m).side = s.side := by
  unfold State.contribute
  (repeat' split) <;> simp

@[simp] theorem State.putKeySlot_keeps (s : State) (die : Nat) (k : KeySlot) : (s.putKeySlot die k).mem = s.mem ∧ (s.putKeySlot die k).side = s.side := by
  unfold State.putKeySlot
  simp

@[simp] theorem State.dropKeySlot_keeps (s : State) (die : Nat) (k : KeySlot) : (s.dropKeySlot die k).mem = s.mem ∧ (s.dropKeySlot die k).side = s.side := by
  unfold State.dropKeySlot
  simp

@[simp] theorem State.acceptChild_keeps (s : State) (die : Nat) (ctx g : Nat) (round : BitVec 32) (lanes : List KLane) (sig : Word) : (s.acceptChild die ctx g round lanes sig).mem = s.mem ∧ (s.acceptChild die ctx g round lanes sig).side = s.side := by
  unfold State.acceptChild
  dsimp only
  (repeat' split) <;> simp

theorem execRedsContribution_keeps (n : Nat) (s : State) : OutKeeps s (execRedsContribution n s) := by
  unfold execRedsContribution
  (repeat' split) <;> simp

theorem execKeystoneMessage_keeps (n : Nat) (s : State) : OutKeeps s (execKeystoneMessage n s) := by
  unfold execKeystoneMessage
  (repeat' split) <;> simp

/-- Fetches that wait for a walk change nothing but the dies' queues. -/
theorem State.queueFetches_frame (s : State) : { s.queueFetches with dies := s.dies } = s := by
  unfold State.queueFetches
  refine foldl_inv (P := fun x : State => { x with dies := s.dies } = s) _ ?_ _ _ rfl
  intro x e h
  cases e.2.thread with
  | none => exact h
  | some t =>
    dsimp only
    generalize (x.walksFull e.1.die && s.unheld e.1 t && x.walkWaits e.1.die t.ctx t.pc.toNat &&
      !(x.walkedPages e.1.die).any (·.covers t.ctx t.pc.toNat)) = b
    cases b <;> exact h

@[simp] theorem State.queueFetches_keeps (s : State) : s.queueFetches.mem = s.mem ∧ s.queueFetches.side = s.side := by
  have h := s.queueFetches_frame
  exact ⟨by simpa using congrArg State.mem h, by simpa using congrArg State.side h⟩

@[simp] theorem State.passCycle_keeps (s : State) : (s.passCycle).mem = s.mem ∧ (s.passCycle).side = s.side := by
  unfold State.passCycle
  (repeat' split) <;> simp

theorem execReductionWatchdog_keeps (die : Nat) (n : Nat) (s : State) : OutKeeps s (execReductionWatchdog die n s) := by
  unfold execReductionWatchdog
  (repeat' split) <;> simp

@[simp] theorem State.putGroup_keeps (s : State) (g : Group) : (s.putGroup g).mem = s.mem ∧ (s.putGroup g).side = s.side := by
  unfold State.putGroup
  simp

@[simp] theorem State.loadGroup1_keeps (s : State) (g : Group) : (s.loadGroup1 g).mem = s.mem ∧ (s.loadGroup1 g).side = s.side := by
  unfold State.loadGroup1
  simp

@[simp] theorem State.setPort_keeps (s : State) (p : Port) : (s.setPort p).mem = s.mem ∧ (s.setPort p).side = s.side := by
  unfold State.setPort
  simp

@[simp] theorem State.onWire_keeps (s : State) (n : Nat) (f : Frame) : (s.onWire n f).mem = s.mem ∧ (s.onWire n f).side = s.side := by
  unfold State.onWire
  simp

@[simp] theorem State.sendAck_keeps (s : State) (f : Frame) : (s.sendAck f).mem = s.mem ∧ (s.sendAck f).side = s.side := by
  unfold State.sendAck
  (repeat' split) <;> simp

@[simp] theorem State.sendFrame_keeps (s : State) (gr : Group) (kind : Nat) (round : BitVec 32) (body : List Byte) (pkg : Nat) : (s.sendFrame gr kind round body pkg).mem = s.mem ∧ (s.sendFrame gr kind round body pkg).side = s.side := by
  unfold State.sendFrame
  (repeat' split) <;> simp

@[simp] theorem State.acked_keeps (s : State) (port peer : Nat) (ack : BitVec 32) : (s.acked port peer ack).mem = s.mem ∧ (s.acked port peer ack).side = s.side := by
  unfold State.acked
  simp

@[simp] theorem State.roundAtRoot_keeps (s : State) (die : Nat) (gr : Group) (k : KeySlot) : (s.roundAtRoot die gr k).mem = s.mem ∧ (s.roundAtRoot die gr k).side = s.side := by
  unfold State.roundAtRoot
  simp

theorem execRootRound_keeps (die : Nat) (n : Nat) (s : State) : OutKeeps s (execRootRound die n s) := by
  unfold execRootRound
  (try dsimp only)
  (repeat' split) <;> simp

@[simp] theorem State.receive_keeps (s : State) (port : Nat) (f : Frame) (kind len : Nat) :
    (s.receive port f kind len).1.mem = s.mem ∧ (s.receive port f kind len).1.side = s.side := by
  unfold State.receive
  dsimp only
  (repeat' split) <;> simp

theorem execSoloskicKeystone_keeps (port : Nat) (f : Frame) (s : State) : OutKeeps s (execSoloskicKeystone port f s) := by
  have k := State.receive_keeps s port f 1 3080
  unfold execSoloskicKeystone
  split
  · simp
  cases h : s.receive port f 1 3080 with
  | mk s1 b =>
    rw [h] at k
    replace k : s1.mem = s.mem ∧ s1.side = s.side := k
    cases b
    · simpa using k
    · dsimp only
      (repeat' split) <;> (try dsimp only) <;> (repeat' split) <;> simp [k]

theorem execSoloskicResult_keeps (port : Nat) (f : Frame) (s : State) : OutKeeps s (execSoloskicResult port f s) := by
  have k := State.receive_keeps s port f 2 264
  unfold execSoloskicResult
  cases h : s.receive port f 2 264 with
  | mk s1 b =>
    rw [h] at k
    replace k : s1.mem = s.mem ∧ s1.side = s.side := k
    cases b
    · simpa using k
    · dsimp only
      (repeat' split) <;> (try dsimp only) <;> (repeat' split) <;> simp [k]

theorem execSoloskicAck_keeps (port : Nat) (f : Frame) (s : State) : OutKeeps s (execSoloskicAck port f s) := by
  unfold execSoloskicAck
  (repeat' split) <;> simp

theorem execFrameResend_keeps (n : Nat) (s : State) : OutKeeps s (execFrameResend n s) := by
  unfold execFrameResend
  (repeat' split) <;> simp

theorem execEthernetFrameDiscard_keeps (port : Nat) (kind : Nat) (s : State) : OutKeeps s (execEthernetFrameDiscard port kind s) := by
  unfold execEthernetFrameDiscard
  (repeat' split) <;> simp

@[simp] theorem State.copyCourses_keeps (s : State) (ctx : Nat) : (s.copyCourses ctx).mem = s.mem ∧ (s.copyCourses ctx).side = s.side := by
  unfold State.copyCourses
  dsimp only
  (repeat' split) <;> simp

@[simp] theorem State.weighAll_keeps (s : State) (ctx : Nat) (w : BitVec 8) : (s.weighAll ctx w).mem = s.mem ∧ (s.weighAll ctx w).side = s.side := by
  unfold State.weighAll
  simp

theorem execLaunch_keeps (ctx : Nat) (s : State) : OutKeeps s (execLaunch ctx s) := by
  unfold execLaunch
  (try dsimp only)
  (repeat' split) <;> simp

@[simp] theorem State.answerLogged_keeps (s : State) (r : Req) : (s.answerLogged r).mem = s.mem ∧ (s.answerLogged r).side = s.side := by
  unfold State.answerLogged
  (repeat' split) <;> simp

@[simp] theorem State.leaveCore_keeps (s : State) (die core ctx : Nat) : (s.leaveCore die core ctx).mem = s.mem ∧ (s.leaveCore die core ctx).side = s.side := by
  unfold State.leaveCore
  simp

@[simp] theorem State.discard_keeps (s : State) (die ctx n : Nat) : (s.discard die ctx n).mem = s.mem ∧ (s.discard die ctx n).side = s.side := by
  unfold State.discard
  (repeat' split) <;> simp

@[simp] theorem State.discardPackets_keeps (s : State) (die ctx n : Nat) : (s.discardPackets die ctx n).mem = s.mem ∧ (s.discardPackets die ctx n).side = s.side := by
  unfold State.discardPackets
  (repeat' split) <;> simp

@[simp] theorem State.stopThreads_keeps (s : State) (ctx : Nat) : (s.stopThreads ctx).mem = s.mem ∧ (s.stopThreads ctx).side = s.side := by
  unfold State.stopThreads
  simp

@[simp] theorem State.stopAway_keeps (s : State) (ctx : Nat) : (s.stopAway ctx).mem = s.mem ∧ (s.stopAway ctx).side = s.side := by
  unfold State.stopAway
  simp

@[simp] theorem State.dropPackets_keeps (s : State) (ctx : Nat) : (s.dropPackets ctx).mem = s.mem ∧ (s.dropPackets ctx).side = s.side := by
  unfold State.dropPackets
  simp

@[simp] theorem State.forgetCtx_keeps (s : State) (ctx : Nat) : (s.forgetCtx ctx).mem = s.mem ∧ (s.forgetCtx ctx).side = s.side := by
  unfold State.forgetCtx
  simp

theorem execRingload_keeps (ctx : Nat) (s : State) : OutKeeps s (execRingload ctx s) := by
  unfold execRingload
  (try dsimp only)
  (repeat' split) <;> simp

@[simp] theorem State.startRing_keeps (s : State) (g : RingProgram) (lap : BitVec 32) : (s.startRing g lap).mem = s.mem ∧ (s.startRing g lap).side = s.side := by
  unfold State.startRing
  simp

theorem execRingswitch_keeps (ctx : Nat) (s : State) : OutKeeps s (execRingswitch ctx s) := by
  unfold execRingswitch
  (try dsimp only)
  (repeat' split) <;> simp

theorem execUnknownCommand_keeps (code : BitVec 8) (ctx : Nat) (s : State) : OutKeeps s (execUnknownCommand code ctx s) := by
  unfold execUnknownCommand
  (repeat' split) <;> simp

@[simp] theorem State.withRoutes_keeps (s : State) (tables : List (Nat × Nat × Nat)) : (s.withRoutes tables).mem = s.mem ∧ (s.withRoutes tables).side = s.side := by
  unfold State.withRoutes
  refine foldl_keeps _ ?_ _ _
  intro x y
  dsimp only
  (repeat' split) <;> simp

theorem execRouteChange_keeps (tables : List (Nat × Nat × Nat)) (s : State) : OutKeeps s (execRouteChange tables s) := by
  unfold execRouteChange
  (repeat' split) <;> simp

@[simp] theorem State.loseThread_keeps (s : State) (p : Place) (t : Thread) : (s.loseThread p t).mem = s.mem ∧ (s.loseThread p t).side = s.side := by
  unfold State.loseThread
  simp

@[simp] theorem State.loseRecords_keeps (s : State) (die : Nat) : (s.loseRecords die).mem = s.mem ∧ (s.loseRecords die).side = s.side := by
  unfold State.loseRecords
  simp

@[simp] theorem State.loseThreads_keeps (s : State) (die : Nat) : (s.loseThreads die).mem = s.mem ∧ (s.loseThreads die).side = s.side := by
  have h (x : State) (l : List (Place × Thread)) :
      (l.foldl (fun x t => if t.2.away && x.packetLives t.2.uid then x.freeSlot t.1 else x.loseThread t.1 t.2) x).mem = x.mem ∧
      (l.foldl (fun x t => if t.2.away && x.packetLives t.2.uid then x.freeSlot t.1 else x.loseThread t.1 t.2) x).side = x.side := by
    refine foldl_keeps _ ?_ _ _
    intro x y
    split <;> simp
  have g := h ((s.die die).buffer.foldl (fun x b => x.losePacket die b.t) (s.modDie die fun d => { d with buffer := [] }))
    (s.slots.filterMap fun e => if e.1.die = die then e.2.thread.map fun t => (e.1, t) else none)
  have k : ((s.die die).buffer.foldl (fun x b => x.losePacket die b.t) (s.modDie die fun d => { d with buffer := [] })).mem = s.mem ∧
      ((s.die die).buffer.foldl (fun x b => x.losePacket die b.t) (s.modDie die fun d => { d with buffer := [] })).side = s.side := by
    simp
  exact ⟨g.1.trans k.1, g.2.trans k.2⟩

theorem State.loseMessages_keeps (s : State) (die : Nat) : (s.loseMessages die).2.2.mem = s.mem ∧ (s.loseMessages die).2.2.side = s.side := by
  unfold State.loseMessages
  simp

@[simp] theorem State.clearDie_keeps (s : State) (die : Nat) : (s.clearDie die).mem = s.mem ∧ (s.clearDie die).side = s.side := by
  unfold State.clearDie
  simp

theorem execPowerHeadroomUpdate_keeps (die : Nat) (milliwatts : Nat) (s : State) : OutKeeps s (execPowerHeadroomUpdate die milliwatts s) := by
  unfold execPowerHeadroomUpdate
  (repeat' split) <;> simp

theorem execPageWalk_keeps (die : Nat) (ctx : Nat) (va : BitVec 64) (s : State) : OutKeeps s (execPageWalk die ctx va s) := by
  unfold execPageWalk
  (try dsimp only)
  (repeat' split) <;> simp

theorem execShootdown_keeps (ctx : Nat) (va : BitVec 48) (s : State) : OutKeeps s (execShootdown ctx va s) := by
  unfold execShootdown
  (try dsimp only)
  (repeat' split) <;> simp

theorem execAttestation_keeps (nonce : BitVec 512) (s : State) : OutKeeps s (execAttestation nonce s) := by
  unfold execAttestation
  (try dsimp only)
  simp

@[simp] theorem State.writeRecord_keeps (s : State) (ctx word : Nat) (x : Word) : (s.writeRecord ctx word x).mem = s.mem ∧ (s.writeRecord ctx word x).side = s.side := by
  unfold State.writeRecord
  (repeat' split) <;> simp

@[simp] theorem State.writeCmd_keeps (s : State) (x : Word) : (s.writeCmd x).mem = s.mem ∧ (s.writeCmd x).side = s.side := by
  unfold State.writeCmd
  (repeat' split) <;> simp

@[simp] theorem State.writeMarks_keeps (s : State) (die word : Nat) (x : Word) : (s.writeMarks die word x).mem = s.mem ∧ (s.writeMarks die word x).side = s.side := by
  unfold State.writeMarks
  refine foldl_keeps _ ?_ _ _
  intro x y
  dsimp only
  (repeat' split) <;> simp

@[simp] theorem State.writeWeights_keeps (s : State) (die first : Nat) (x : Word) : (s.writeWeights die first x).mem = s.mem ∧ (s.writeWeights die first x).side = s.side := by
  unfold State.writeWeights
  simp

@[simp] theorem State.writeConfig_keeps (s : State) (die off : Nat) (x : Word) : (s.writeConfig die off x).mem = s.mem ∧ (s.writeConfig die off x).side = s.side := by
  unfold State.writeConfig
  (repeat' split) <;> simp

@[simp] theorem State.writeService_keeps (s : State) (ctx : Nat) (x : Word) : (s.writeService ctx x).mem = s.mem ∧ (s.writeService ctx x).side = s.side := by
  unfold State.writeService
  (repeat' split) <;> simp

@[simp] theorem State.writeRelease_keeps (s : State) (die word : Nat) (x : Word) : (s.writeRelease die word x).mem = s.mem ∧ (s.writeRelease die word x).side = s.side := by
  unfold State.writeRelease
  simp

theorem OutKeeps.ite {s : State} {c : Prop} [Decidable c] {a b : Host.Outcome State Fault Refusal} (ha : OutKeeps s a)
    (hb : OutKeeps s b) : OutKeeps s (if c then a else b) := by
  split
  · exact ha
  · exact hb

theorem execRegisterWrite_keeps (off : Nat) (value : BitVec 64) (s : State) : OutKeeps s (execRegisterWrite off value s) := by
  unfold execRegisterWrite
  (repeat' apply OutKeeps.ite) <;>
    first
      | exact execShootdown_keeps _ _ _
      | exact execDieHalt_keeps _ _
      | exact execDieRelease_keeps _ _
      | simp

/-- What a step misses while every walk is busy changes the dies' queues alone. -/
theorem State.queueMisses_frame (s : State) (f : State → Host.Outcome State Fault Refusal) :
    { s.queueMisses f with dies := s.dies } = s := rfl

@[simp] theorem State.queueMisses_keeps (s : State) (f : State → Host.Outcome State Fault Refusal) :
    (s.queueMisses f).mem = s.mem ∧ (s.queueMisses f).side = s.side := ⟨rfl, rfl⟩

@[simp] theorem State.holdForWalk_keeps (s : State) : s.holdForWalk.mem = s.mem ∧ s.holdForWalk.side = s.side := by
  unfold State.holdForWalk
  split <;> simp

end Sys2Proof.Machine
end

