-- ==== Sys2Proof/Laws/Canon.lean ====
section
/-! SUPPORT. What writes memory keeps its canonical form: for every operation and every instruction's meaning that may write
memory or the sideband, one lemma says that it keeps both in canonical form. `f_canon` is about a function of the state,
`execX_canon` about a meaning: `OutStored o` says it of every next state of the outcome `o`. With `execX_keeps` of Keeps.lean
(and `OutKeeps.stored`), every arm of `exec` has its lemma. -/
set_option Elab.async false

namespace Sys2Proof.Machine

theorem sparseAbove_mono {α : Type} [DecidableEq α] (z : α) (r : List (Nat × α)) (m : Option Nat) (k : Nat)
    (hm : ∀ j, m = some j → j ≤ k) (h : sparseAbove z (some k) r = true) : sparseAbove z m r = true := by
  cases r with
  | nil => cases m <;> simp [sparseAbove]
  | cons e r =>
    obtain ⟨k2, c2⟩ := e
    simp [sparseAbove] at h
    cases m with
    | none => simp [sparseAbove, h]
    | some j => have := hm j rfl; simp [sparseAbove, h]; omega

theorem sparseAbove_filter {α : Type} [DecidableEq α] (z : α) (p : Nat × α → Bool) (l : List (Nat × α)) :
    ∀ o, sparseAbove z o l = true → sparseAbove z o (l.filter p) = true := by
  induction l with
  | nil => intro o h; exact h
  | cons e r ih =>
    obtain ⟨k, c⟩ := e
    intro o h
    have hr : c ≠ z ∧ sparseAbove z (some k) r = true ∧ ∀ j, o = some j → j < k := by
      cases o <;> simp [sparseAbove] at h <;> simp [h]
    by_cases hp : p (k, c)
    · rw [List.filter_cons_of_pos hp]
      have := ih (some k) hr.2.1
      cases o with
      | none => simp [sparseAbove, hr.1, this]
      | some j => simp [sparseAbove, hr.1, this, hr.2.2 j rfl]
    · rw [List.filter_cons_of_neg hp]
      exact ih o (sparseAbove_mono z r o k (fun j hj => Nat.le_of_lt (hr.2.2 j hj)) hr.2.1)

@[simp] theorem sparseWf_filter {α : Type} [DecidableEq α] (z : α) (p : Nat × α → Bool) (l : List (Nat × α))
    (h : sparseWf z l = true) : sparseWf z (l.filter p) = true := sparseAbove_filter z p l none h

/-- Every next state of an outcome has its memory and sideband in canonical form. -/
def OutStored (o : Host.Outcome State Fault Refusal) : Prop := ∀ t, o = .next t → t.stored

@[simp] theorem outStored_next (t : State) : OutStored (.next t) ↔ sparseWf unlisted t.mem = true ∧ sparseWf 0#56 t.side = true :=
  ⟨fun h => h t rfl, fun h _ e => by cases e; exact h⟩

@[simp] theorem outStored_fault (f : Fault) : OutStored (.fault f) := fun _ e => by cases e

theorem OutKeeps.stored {s : State} {o : Host.Outcome State Fault Refusal} (k : OutKeeps s o) (h : s.stored) : OutStored o :=
  fun t e => State.stored_of_same (k t e).1 (k t e).2 h

theorem word_stored (s : State) (f : Issue → Thread → State)
    (h : ∀ i t, sparseWf unlisted (f i t).mem = true ∧ sparseWf 0#56 (f i t).side = true) : OutStored (s.word f) := by
  unfold State.word
  split
  · simp
  · simpa using h _ _

theorem foldl_stored {β : Type} (f : State → β → State) (h : ∀ (s : State) x, sparseWf unlisted s.mem = true → sparseWf 0#56 s.side = true →
    sparseWf unlisted (f s x).mem = true ∧ sparseWf 0#56 (f s x).side = true)
    (l : List β) (s : State) (h1 : sparseWf unlisted s.mem = true) (h2 : sparseWf 0#56 s.side = true) :
    sparseWf unlisted (l.foldl f s).mem = true ∧ sparseWf 0#56 (l.foldl f s).side = true := by
  induction l generalizing s with
  | nil => exact ⟨h1, h2⟩
  | cons x r ih => simp only [List.foldl_cons]; exact ih _ (h s x h1 h2).1 (h s x h1 h2).2

@[simp] theorem State.writeByte_canon (s : State) (a : Nat) (b : Byte) (h1 : sparseWf unlisted s.mem = true) :
    sparseWf unlisted (s.writeByte a b).mem = true := sparseWf_write unlisted s.mem a b h1
@[simp] theorem State.setSide_canon (s : State) (a : Nat) (n : BitVec 32) (w : BitVec 24) (h2 : sparseWf 0#56 s.side = true) :
    sparseWf 0#56 (s.setSide a n w).side = true := sparseWf_write 0 s.side a _ h2
@[simp] theorem State.writeBytes_canon (l : List Byte) (s : State) (a : Nat) (h1 : sparseWf unlisted s.mem = true) (h2 : sparseWf 0#56 s.side = true) :
    sparseWf unlisted (s.writeBytes a l).mem = true ∧ sparseWf 0#56 (s.writeBytes a l).side = true := State.writeBytes_stored l s a ⟨h1, h2⟩
@[simp] theorem State.writePairs_canon (l : List (Nat × Byte)) (s : State) (h1 : sparseWf unlisted s.mem = true) (h2 : sparseWf 0#56 s.side = true) :
    sparseWf unlisted (s.writePairs l).mem = true ∧ sparseWf 0#56 (s.writePairs l).side = true := State.writePairs_stored l s ⟨h1, h2⟩
@[simp] theorem State.writeNat_canon (s : State) (a n x : Nat) (h1 : sparseWf unlisted s.mem = true) (h2 : sparseWf 0#56 s.side = true) :
    sparseWf unlisted (s.writeNat a n x).mem = true ∧ sparseWf 0#56 (s.writeNat a n x).side = true := State.writeNat_stored s a n x ⟨h1, h2⟩
@[simp] theorem State.write64_canon (s : State) (a : Nat) (x : Word) (h1 : sparseWf unlisted s.mem = true) (h2 : sparseWf 0#56 s.side = true) :
    sparseWf unlisted (s.write64 a x).mem = true ∧ sparseWf 0#56 (s.write64 a x).side = true := State.write64_stored s a x ⟨h1, h2⟩

@[simp] theorem State.blockWrite_canon (s : State) (v : Saving) (off : Nat) (x : Word) (h1 : sparseWf unlisted s.mem = true) (h2 : sparseWf 0#56 s.side = true) :
    sparseWf unlisted (s.blockWrite v off x).mem = true ∧ sparseWf 0#56 (s.blockWrite v off x).side = true := by
  unfold State.blockWrite
  (repeat' split) <;> simp (maxDischargeDepth := 9) [h1, h2]

@[simp] theorem State.opDone_canon (s : State) (o : TileOp) (h1 : sparseWf unlisted s.mem = true) (h2 : sparseWf 0#56 s.side = true) :
    sparseWf unlisted (s.opDone o).mem = true ∧ sparseWf 0#56 (s.opDone o).side = true := by
  unfold State.opDone
  dsimp only
  (repeat' split) <;> simp (maxDischargeDepth := 9) [h1, h2]

@[simp] theorem State.opFault_canon (s : State) (o : TileOp) (cause info : Word) (h1 : sparseWf unlisted s.mem = true) (h2 : sparseWf 0#56 s.side = true) :
    sparseWf unlisted (s.opFault o cause info).mem = true ∧ sparseWf 0#56 (s.opFault o cause info).side = true := by
  unfold State.opFault
  dsimp only
  split
  · split
    · refine State.blockWrite_canon _ _ _ _ ?_ ?_ <;> simp (maxDischargeDepth := 9) [h1, h2]
    · simp (maxDischargeDepth := 9) [h1, h2]
  · split <;> simp (maxDischargeDepth := 9) [h1, h2]

@[simp] theorem State.tileFault_canon (s : State) (o : TileOp) (sub : BitVec 4) (h1 : sparseWf unlisted s.mem = true) (h2 : sparseWf 0#56 s.side = true) :
    sparseWf unlisted (s.tileFault o sub).mem = true ∧ sparseWf 0#56 (s.tileFault o sub).side = true := by
  unfold State.tileFault
  simp (maxDischargeDepth := 9) [h1, h2]

@[simp] theorem State.copyCount_canon (s : State) (o : TileOp) (n : Nat) (h1 : sparseWf unlisted s.mem = true) (h2 : sparseWf 0#56 s.side = true) :
    sparseWf unlisted (s.copyCount o n).mem = true ∧ sparseWf 0#56 (s.copyCount o n).side = true := by
  unfold State.copyCount
  (repeat' split) <;> simp (maxDischargeDepth := 9) [h1, h2]

@[simp] theorem State.opSettled_canon (s : State) (o : TileOp) (h1 : sparseWf unlisted s.mem = true) (h2 : sparseWf 0#56 s.side = true) :
    sparseWf unlisted (s.opSettled o).mem = true ∧ sparseWf 0#56 (s.opSettled o).side = true := by
  unfold State.opSettled
  dsimp only
  (repeat' split) <;> simp (maxDischargeDepth := 9) [h1, h2]

@[simp] theorem State.opAnswered_canon (s : State) (uid req : Nat) (b : RespBody) (h1 : sparseWf unlisted s.mem = true) (h2 : sparseWf 0#56 s.side = true) :
    sparseWf unlisted (s.opAnswered uid req b).mem = true ∧ sparseWf 0#56 (s.opAnswered uid req b).side = true := by
  unfold State.opAnswered
  dsimp only
  (repeat' split) <;> simp (maxDischargeDepth := 9) [h1, h2]

@[simp] theorem State.opWrites_canon (s : State) (o : TileOp) (reqs : List Req) (h1 : sparseWf unlisted s.mem = true) (h2 : sparseWf 0#56 s.side = true) :
    sparseWf unlisted (s.opWrites o reqs).mem = true ∧ sparseWf 0#56 (s.opWrites o reqs).side = true := by
  unfold State.opWrites
  simp (maxDischargeDepth := 9) [h1, h2]

@[simp] theorem State.storeGroup_canon (s : State) (bytes : List (Nat × Byte)) (h1 : sparseWf unlisted s.mem = true) (h2 : sparseWf 0#56 s.side = true) :
    sparseWf unlisted (s.storeGroup bytes).mem = true ∧ sparseWf 0#56 (s.storeGroup bytes).side = true := by
  unfold State.storeGroup
  dsimp only
  (repeat' split) <;> simp (maxDischargeDepth := 9) [h1, h2]

@[simp] theorem State.staStep_canon (s : State) (r : Req) (va : Word) (pa : Nat) (stamp : BitVec 32) (data : VReg) (lanes : Word) (h1 : sparseWf unlisted s.mem = true) (h2 : sparseWf 0#56 s.side = true) :
    sparseWf unlisted (s.staStep r va pa stamp data lanes).mem = true ∧ sparseWf 0#56 (s.staStep r va pa stamp data lanes).side = true := by
  unfold State.staStep
  (repeat' split) <;> simp (maxDischargeDepth := 9) [h1, h2]

@[simp] theorem State.resultStep_canon (s : State) (r : Req) (ctx g member : Nat) (pa : Nat) (stamp : BitVec 32) (data : VReg) (ind : BitVec 7) (h1 : sparseWf unlisted s.mem = true) (h2 : sparseWf 0#56 s.side = true) :
    sparseWf unlisted (s.resultStep r ctx g member pa stamp data ind).mem = true ∧ sparseWf 0#56 (s.resultStep r ctx g member pa stamp data ind).side = true := by
  unfold State.resultStep
  dsimp only
  by_cases c : accepts stamp (s.stampOf pa) = true
  · rw [if_pos c]
    have hm : ∀ (x : State), sparseWf unlisted x.mem = true → sparseWf 0#56 x.side = true →
        sparseWf unlisted (x.answerMet r.dest pa).mem = true ∧ sparseWf 0#56 (x.answerMet r.dest pa).side = true := by
      intro x k1 k2
      rw [(State.answerMet_keeps ..).1, (State.answerMet_keeps ..).2]
      exact ⟨k1, k2⟩
    have key : ∀ (u : State) (a : Resp), sparseWf unlisted u.mem = true → sparseWf 0#56 u.side = true →
        let y : State := { u.setSide pa stamp 0 with resps := (u.setSide pa stamp 0).resps ++ [a] }
        sparseWf unlisted y.mem = true ∧ sparseWf 0#56 y.side = true :=
      fun u a k1 k2 => ⟨k1, State.setSide_canon _ _ _ _ k2⟩
    have h := State.writeNat_canon s pa 256 data.toNat h1 h2
    exact hm _ (key _ _ h.1 h.2).1 (key _ _ h.1 h.2).2
  · rw [if_neg c]
    exact ⟨h1, h2⟩

@[simp] theorem State.perform_canon (s : State) (r : Req) (h1 : sparseWf unlisted s.mem = true) (h2 : sparseWf 0#56 s.side = true) :
    sparseWf unlisted (s.perform r).mem = true ∧ sparseWf 0#56 (s.perform r).side = true := by
  unfold State.perform
  split
  all_goals try dsimp only
  all_goals (repeat' split) <;> simp (maxDischargeDepth := 9) [h1, h2]

@[simp] theorem State.performHead_canon (s : State) (e : Nat) (kind : ReqBody → Bool) (h1 : sparseWf unlisted s.mem = true) (h2 : sparseWf 0#56 s.side = true) :
    sparseWf unlisted (s.performHead e kind).mem = true ∧ sparseWf 0#56 (s.performHead e kind).side = true := by
  unfold State.performHead
  (repeat' split) <;> simp (maxDischargeDepth := 9) [h1, h2]

theorem execLoadPerform_canon (e : Nat) (s : State) (h1 : sparseWf unlisted s.mem = true) (h2 : sparseWf 0#56 s.side = true) : OutStored (execLoadPerform e s) := by
  unfold execLoadPerform
  simp (maxDischargeDepth := 9) [h1, h2]

theorem execStorePerform_canon (e : Nat) (s : State) (h1 : sparseWf unlisted s.mem = true) (h2 : sparseWf 0#56 s.side = true) : OutStored (execStorePerform e s) := by
  unfold execStorePerform
  simp (maxDischargeDepth := 9) [h1, h2]

theorem execAtomicPerform_canon (e : Nat) (s : State) (h1 : sparseWf unlisted s.mem = true) (h2 : sparseWf 0#56 s.side = true) : OutStored (execAtomicPerform e s) := by
  unfold execAtomicPerform
  simp (maxDischargeDepth := 9) [h1, h2]

theorem execLdaPerform_canon (e : Nat) (s : State) (h1 : sparseWf unlisted s.mem = true) (h2 : sparseWf 0#56 s.side = true) : OutStored (execLdaPerform e s) := by
  unfold execLdaPerform
  simp (maxDischargeDepth := 9) [h1, h2]

theorem execLdasPerform_canon (e : Nat) (s : State) (h1 : sparseWf unlisted s.mem = true) (h2 : sparseWf 0#56 s.side = true) : OutStored (execLdasPerform e s) := by
  unfold execLdasPerform
  simp (maxDischargeDepth := 9) [h1, h2]

theorem execStaPerform_canon (e : Nat) (s : State) (h1 : sparseWf unlisted s.mem = true) (h2 : sparseWf 0#56 s.side = true) : OutStored (execStaPerform e s) := by
  unfold execStaPerform
  simp (maxDischargeDepth := 9) [h1, h2]

theorem execStadPerform_canon (e : Nat) (s : State) (h1 : sparseWf unlisted s.mem = true) (h2 : sparseWf 0#56 s.side = true) : OutStored (execStadPerform e s) := by
  unfold execStadPerform
  simp (maxDischargeDepth := 9) [h1, h2]

theorem execRespond_canon (e : Nat) (d : Nat) (s : State) (h1 : sparseWf unlisted s.mem = true) (h2 : sparseWf 0#56 s.side = true) : OutStored (execRespond e d s) := by
  unfold execRespond
  (try dsimp only)
  (repeat' split) <;> simp (maxDischargeDepth := 9) [h1, h2]

@[simp] theorem State.blockNotice_canon (s : State) (v : Saving) (a : Word) (h1 : sparseWf unlisted s.mem = true) (h2 : sparseWf 0#56 s.side = true) :
    sparseWf unlisted (s.blockNotice v a).mem = true ∧ sparseWf 0#56 (s.blockNotice v a).side = true := by
  unfold State.blockNotice
  dsimp only
  (repeat' split) <;> simp (maxDischargeDepth := 9) [h1, h2]

theorem execStampRegress_canon (e : Nat) (d : Nat) (s : State) (h1 : sparseWf unlisted s.mem = true) (h2 : sparseWf 0#56 s.side = true) : OutStored (execStampRegress e d s) := by
  unfold execStampRegress
  (try dsimp only)
  (repeat' split) <;> simp (maxDischargeDepth := 9) [h1, h2]

@[simp] theorem State.writeTile_canon (s : State) (o : TileOp) (d : BitVec 128) (vals : List Nat) (ind : Ind) (h1 : sparseWf unlisted s.mem = true) (h2 : sparseWf 0#56 s.side = true) :
    sparseWf unlisted (s.writeTile o d vals ind).mem = true ∧ sparseWf 0#56 (s.writeTile o d vals ind).side = true := by
  unfold State.writeTile
  split
  · simp [h1, h2]
  · exact State.opWrites_canon _ _ _ h1 h2

theorem State.runOp_canon (s : State) (uid opc : Nat) (f : TileOp → State)
    (h1 : sparseWf unlisted s.mem = true) (h2 : sparseWf 0#56 s.side = true)
    (hf : ∀ o, sparseWf unlisted (f o).mem = true ∧ sparseWf 0#56 (f o).side = true) : OutStored (s.runOp uid opc f) := by
  unfold State.runOp
  split
  · simp [h1, h2]
  · split
    · simp [h1, h2]
    · split
      · simp [h1, h2]
      · simpa using hf _

@[simp] theorem State.opReads_canon (s : State) (o : TileOp) (a : Access) (ph : OpPhase) (xs : List (Nat × Word × Nat))
    (h1 : sparseWf unlisted s.mem = true) (h2 : sparseWf 0#56 s.side = true) :
    sparseWf unlisted (s.opReads o a ph xs).mem = true ∧ sparseWf 0#56 (s.opReads o a ph xs).side = true := by
  unfold State.opReads
  dsimp only
  split <;> simp (maxDischargeDepth := 9) [h1, h2]

theorem State.withReads_canon (s : State) (o : TileOp) (xs : List (Nat × Word × Nat)) (f : State)
    (h1 : sparseWf unlisted s.mem = true) (h2 : sparseWf 0#56 s.side = true)
    (hf : sparseWf unlisted f.mem = true ∧ sparseWf 0#56 f.side = true) :
    sparseWf unlisted (s.withReads o xs f).mem = true ∧ sparseWf 0#56 (s.withReads o xs f).side = true := by
  unfold State.withReads
  split
  · exact State.opReads_canon _ _ _ _ _ h1 h2
  · split
    · exact State.opFault_canon _ _ _ _ h1 h2
    · exact hf

theorem execTzeroExecute_canon (op : Nat) (s : State) (h1 : sparseWf unlisted s.mem = true) (h2 : sparseWf 0#56 s.side = true) : OutStored (execTzeroExecute op s) := by
  unfold execTzeroExecute
  refine State.runOp_canon s _ _ _ h1 h2 fun o => ?_
  dsimp only
  simp (maxDischargeDepth := 9) [h1, h2]

theorem execTmmExecute_canon (op : Nat) (s : State) (h1 : sparseWf unlisted s.mem = true) (h2 : sparseWf 0#56 s.side = true) : OutStored (execTmmExecute op s) := by
  unfold execTmmExecute
  refine State.runOp_canon s _ _ _ h1 h2 fun o => ?_
  dsimp only
  split
  · simp (maxDischargeDepth := 9) [h1, h2]
  split
  · simp (maxDischargeDepth := 9) [h1, h2]
  · exact State.withReads_canon _ _ _ _ h1 h2 (by simp (maxDischargeDepth := 9) [h1, h2])

theorem execTmmrReadStep_canon (op : Nat) (s : State) (h1 : sparseWf unlisted s.mem = true) (h2 : sparseWf 0#56 s.side = true) : OutStored (execTmmrReadStep op s) := by
  unfold execTmmrReadStep
  refine State.runOp_canon s _ _ _ h1 h2 fun o => ?_
  dsimp only
  repeat' split
  all_goals first
    | exact State.withReads_canon _ _ _ _ h1 h2 (by simp (maxDischargeDepth := 9) [h1, h2])
    | simp (maxDischargeDepth := 9) [h1, h2]

theorem execTdrainExecute_canon (op : Nat) (s : State) (h1 : sparseWf unlisted s.mem = true) (h2 : sparseWf 0#56 s.side = true) : OutStored (execTdrainExecute op s) := by
  unfold execTdrainExecute
  refine State.runOp_canon s _ _ _ h1 h2 fun o => ?_
  dsimp only
  (repeat' split) <;> simp (maxDischargeDepth := 9) [h1, h2]

theorem execTcnvExecute_canon (op : Nat) (s : State) (h1 : sparseWf unlisted s.mem = true) (h2 : sparseWf 0#56 s.side = true) : OutStored (execTcnvExecute op s) := by
  unfold execTcnvExecute
  refine State.runOp_canon s _ _ _ h1 h2 fun o => ?_
  dsimp only
  split
  · simp (maxDischargeDepth := 9) [h1, h2]
  · refine State.withReads_canon _ _ _ _ h1 h2 ?_
    split <;> simp (maxDischargeDepth := 9) [h1, h2]

theorem execTcopyExecute_canon (op : Nat) (s : State) (h1 : sparseWf unlisted s.mem = true) (h2 : sparseWf 0#56 s.side = true) : OutStored (execTcopyExecute op s) := by
  unfold execTcopyExecute
  refine State.runOp_canon s _ _ _ h1 h2 fun o => ?_
  dsimp only
  (repeat' split) <;> simp (maxDischargeDepth := 9) [h1, h2]

theorem execTqmsExecute_canon (op : Nat) (s : State) (h1 : sparseWf unlisted s.mem = true) (h2 : sparseWf 0#56 s.side = true) : OutStored (execTqmsExecute op s) := by
  unfold execTqmsExecute
  refine State.runOp_canon s _ _ _ h1 h2 fun o => ?_
  dsimp only
  split
  · simp (maxDischargeDepth := 9) [h1, h2]
  · exact State.withReads_canon _ _ _ _ h1 h2 (by simp (maxDischargeDepth := 9) [h1, h2])

theorem execTluExecute_canon (op : Nat) (s : State) (h1 : sparseWf unlisted s.mem = true) (h2 : sparseWf 0#56 s.side = true) : OutStored (execTluExecute op s) := by
  unfold execTluExecute
  refine State.runOp_canon s _ _ _ h1 h2 fun o => ?_
  dsimp only
  split
  · simp (maxDischargeDepth := 9) [h1, h2]
  · exact State.withReads_canon _ _ _ _ h1 h2 (by simp (maxDischargeDepth := 9) [h1, h2])

theorem execTsolvExecute_canon (op : Nat) (s : State) (h1 : sparseWf unlisted s.mem = true) (h2 : sparseWf 0#56 s.side = true) : OutStored (execTsolvExecute op s) := by
  unfold execTsolvExecute
  refine State.runOp_canon s _ _ _ h1 h2 fun o => ?_
  dsimp only
  split
  · simp (maxDischargeDepth := 9) [h1, h2]
  · exact State.withReads_canon _ _ _ _ h1 h2 (by simp (maxDischargeDepth := 9) [h1, h2])

@[simp] theorem State.partAppend_canon (s : State) (ctx die : Nat) (w0 w1 : Word) (h1 : sparseWf unlisted s.mem = true) (h2 : sparseWf 0#56 s.side = true) :
    sparseWf unlisted (s.partAppend ctx die w0 w1).mem = true ∧ sparseWf 0#56 (s.partAppend ctx die w0 w1).side = true := by
  unfold State.partAppend
  simp (maxDischargeDepth := 9) [h1, h2]

@[simp] theorem State.stepOn_keeps (s : State) (pa : Nat) : (s.stepOn pa).mem = s.mem ∧ (s.stepOn pa).side = s.side := by
  unfold State.stepOn
  dsimp only
  split <;> simp

@[simp] theorem State.stepWrite_canon (s : State) (pa : Nat) (x : Word) (h1 : sparseWf unlisted s.mem = true) (h2 : sparseWf 0#56 s.side = true) :
    sparseWf unlisted (s.stepWrite pa x).mem = true ∧ sparseWf 0#56 (s.stepWrite pa x).side = true := by
  unfold State.stepWrite
  simp (maxDischargeDepth := 9) [h1, h2]

@[simp] theorem State.linkLost_canon (s : State) (p : Party) (va : Word) (h1 : sparseWf unlisted s.mem = true) (h2 : sparseWf 0#56 s.side = true) :
    sparseWf unlisted (s.linkLost p va).mem = true ∧ sparseWf 0#56 (s.linkLost p va).side = true := by
  unfold State.linkLost
  (repeat' split) <;> simp (maxDischargeDepth := 9) [h1, h2]

theorem State.step__canon (s : State) (p : Party) (va : Word) (x : StepAt) (f : Nat → State) (h1 : sparseWf unlisted s.mem = true) (h2 : sparseWf 0#56 s.side = true)
    (hf : ∀ pa, sparseWf unlisted (f pa).mem = true ∧ sparseWf 0#56 (f pa).side = true) :
    sparseWf unlisted (s.step_ p va x f).mem = true ∧ sparseWf 0#56 (s.step_ p va x f).side = true := by
  unfold State.step_
  split
  · simp (maxDischargeDepth := 9) [h1, h2]
  · simp (maxDischargeDepth := 9) [h1, h2]
  · exact ⟨h1, h2⟩
  · exact hf _

@[simp] theorem State.linkCheck_canon (s : State) (p : Party) (k : LinkTask) (h1 : sparseWf unlisted s.mem = true) (h2 : sparseWf 0#56 s.side = true) :
    sparseWf unlisted (s.linkCheck p k).mem = true ∧ sparseWf 0#56 (s.linkCheck p k).side = true := by
  refine State.step__canon s p _ _ _ h1 h2 fun pa => ?_
  split <;> simp (maxDischargeDepth := 9) [h1, h2]

@[simp] theorem State.linkTake_canon (s : State) (p : Party) (k : LinkTask) (h1 : sparseWf unlisted s.mem = true) (h2 : sparseWf 0#56 s.side = true) :
    sparseWf unlisted (s.linkTake p k).mem = true ∧ sparseWf 0#56 (s.linkTake p k).side = true := by
  refine State.step__canon s p _ _ _ h1 h2 fun pa => ?_
  dsimp only
  (repeat' split) <;> simp (maxDischargeDepth := 9) [h1, h2]

@[simp] theorem State.linkAttach_canon (s : State) (p : Party) (k : LinkTask) (h1 : sparseWf unlisted s.mem = true) (h2 : sparseWf 0#56 s.side = true) :
    sparseWf unlisted (s.linkAttach p k).mem = true ∧ sparseWf 0#56 (s.linkAttach p k).side = true := by
  refine State.step__canon s p _ _ _ h1 h2 fun pa => ?_
  dsimp only
  (repeat' split) <;> simp (maxDischargeDepth := 9) [h1, h2]

@[simp] theorem State.spliceDone_canon (s : State) (p : Party) (t : SpliceTask) (h1 : sparseWf unlisted s.mem = true) (h2 : sparseWf 0#56 s.side = true) :
    sparseWf unlisted (s.spliceDone p t).mem = true ∧ sparseWf 0#56 (s.spliceDone p t).side = true := by
  unfold State.spliceDone
  dsimp only
  split <;> simp (maxDischargeDepth := 9) [h1, h2]

@[simp] theorem State.spliceFinish_canon (s : State) (p : Party) (t : SpliceTask) (h1 : sparseWf unlisted s.mem = true) (h2 : sparseWf 0#56 s.side = true) :
    sparseWf unlisted (s.spliceFinish p t).mem = true ∧ sparseWf 0#56 (s.spliceFinish p t).side = true := by
  unfold State.spliceFinish
  dsimp only
  split <;> simp (maxDischargeDepth := 9) [h1, h2]

@[simp] theorem State.spliceRelease_canon (s : State) (p : Party) (t : SpliceTask) (h1 : sparseWf unlisted s.mem = true) (h2 : sparseWf 0#56 s.side = true) :
    sparseWf unlisted (s.spliceRelease p t).mem = true ∧ sparseWf 0#56 (s.spliceRelease p t).side = true := by
  unfold State.spliceRelease
  dsimp only
  split <;> simp (maxDischargeDepth := 9) [h1, h2]

@[simp] theorem State.spliceBegin_canon (s : State) (p : Party) (t : SpliceTask) (h1 : sparseWf unlisted s.mem = true) (h2 : sparseWf 0#56 s.side = true) :
    sparseWf unlisted (s.spliceBegin p t).mem = true ∧ sparseWf 0#56 (s.spliceBegin p t).side = true := by
  unfold State.spliceBegin
  split <;> simp (maxDischargeDepth := 9) [h1, h2]

@[simp] theorem State.spliceTake_canon (s : State) (p : Party) (t : SpliceTask) (h1 : sparseWf unlisted s.mem = true) (h2 : sparseWf 0#56 s.side = true) :
    sparseWf unlisted (s.spliceTake p t).mem = true ∧ sparseWf 0#56 (s.spliceTake p t).side = true := by
  unfold State.spliceTake
  dsimp only
  refine State.step__canon s p _ _ _ h1 h2 fun pa => ?_
  (repeat' split) <;> simp (maxDischargeDepth := 9) [h1, h2]

@[simp] theorem State.spliceAttachAt_canon (s : State) (p : Party) (t : SpliceTask) (atB : Bool) (h1 : sparseWf unlisted s.mem = true) (h2 : sparseWf 0#56 s.side = true) :
    sparseWf unlisted (s.spliceAttachAt p t atB).mem = true ∧ sparseWf 0#56 (s.spliceAttachAt p t atB).side = true := by
  have go (x : State) (t' : SpliceTask) (b : Bool) (k1 : sparseWf unlisted x.mem = true) (k2 : sparseWf 0#56 x.side = true) :
      sparseWf unlisted (if b then x.setWork p (.splice t') else x.spliceRelease p t').mem = true ∧
      sparseWf 0#56 (if b then x.setWork p (.splice t') else x.spliceRelease p t').side = true := by
    cases b <;> simp (maxDischargeDepth := 9) [k1, k2]
  have w (pa : Nat) (x : Word) := State.stepWrite_canon s pa x h1 h2
  have n (pa : Nat) := State.stepOn_keeps s pa
  unfold State.spliceAttachAt
  generalize (if atB then t.b else t.a) = e
  generalize (if atB then t.a else t.b) = o
  refine State.step__canon s p _ _ _ h1 h2 fun pa => ?_
  dsimp only
  by_cases c1 : s.read64 pa = e.names
  · rw [if_pos c1]; exact go _ _ _ (w _ _).1 (w _ _).2
  · rw [if_neg c1]
    have k1 : sparseWf unlisted (s.stepOn pa).mem = true := by rw [(n pa).1]; exact h1
    have k2 : sparseWf 0#56 (s.stepOn pa).side = true := by rw [(n pa).2]; exact h2
    generalize s.stepOn pa = x at k1 k2
    generalize s.read64 pa = y
    by_cases c2 : (!portOk y || decide (portKind y ≠ 2)) = true
    · rw [if_pos c2]; simp (maxDischargeDepth := 9) [k1, k2]
    · rw [if_neg c2]
      by_cases c3 : isHold y = true
      · rw [if_pos c3]; simp (maxDischargeDepth := 9) [k1, k2]
      · rw [if_neg c3]; exact go _ _ _ k1 k2

@[simp] theorem State.spliceAttach_canon (s : State) (p : Party) (t : SpliceTask) (h1 : sparseWf unlisted s.mem = true) (h2 : sparseWf 0#56 s.side = true) :
    sparseWf unlisted (s.spliceAttach p t).mem = true ∧ sparseWf 0#56 (s.spliceAttach p t).side = true := by
  unfold State.spliceAttach
  simp (maxDischargeDepth := 9) [h1, h2]

@[simp] theorem State.metOnce_canon (s : State) (p : Party) (push : Bool) (h1 : sparseWf unlisted s.mem = true) (h2 : sparseWf 0#56 s.side = true) :
    sparseWf unlisted (s.metOnce p push).mem = true ∧ sparseWf 0#56 (s.metOnce p push).side = true := by
  unfold State.metOnce
  split
  · dsimp only
    split_ifs <;> simp (maxDischargeDepth := 9) [h1, h2]
  · dsimp only
    split <;> simp (maxDischargeDepth := 9) [h1, h2]

@[simp] theorem State.meetAt_canon (s : State) (p : Party) (r : Word) (waiting : LinkWork) (h1 : sparseWf unlisted s.mem = true) (h2 : sparseWf 0#56 s.side = true) :
    sparseWf unlisted (s.meetAt p r waiting).mem = true ∧ sparseWf 0#56 (s.meetAt p r waiting).side = true := by
  refine State.step__canon s p _ _ _ h1 h2 fun pa => ?_
  dsimp only
  split
  · simp (maxDischargeDepth := 9) [h1, h2]
  split
  · rw [(State.setWork_keeps ..).1, (State.setWork_keeps ..).2]
    exact State.stepWrite_canon _ _ _ h1 h2
  split
  · exact State.metOnce_canon _ _ _ (by simp [h1]) (by simp [h2])
  · have k := State.metOnce_canon (s.stepOn pa) (match p.work with
        | .link k => { p with work := .link { k with hops := max k.hops (s.stepHops p pa) } }
        | .splice _ => p) ((match p.work with
        | .link k => { p with work := .link { k with hops := max k.hops (s.stepHops p pa) } }
        | .splice _ => p : Party).isSplice || !Party.isSplice ‹_›) (by simp [h1]) (by simp [h2])
    exact State.metOnce_canon _ _ _ k.1 k.2

@[simp] theorem State.partyWrite_canon (s : State) (p : Party) (w : Word × Word) (h1 : sparseWf unlisted s.mem = true) (h2 : sparseWf 0#56 s.side = true) :
    sparseWf unlisted (s.partyWrite p w).mem = true ∧ sparseWf 0#56 (s.partyWrite p w).side = true := by
  refine State.step__canon s p _ _ _ h1 h2 fun pa => ?_
  dsimp only
  split
  · simp (maxDischargeDepth := 9) [h1, h2]
  · split <;> simp (maxDischargeDepth := 9) [h1, h2]

theorem State.netEvent_canon (s : State) (issuer : Nat) (f : Party → State) (h1 : sparseWf unlisted s.mem = true) (h2 : sparseWf 0#56 s.side = true)
    (hf : ∀ p, sparseWf unlisted (f p).mem = true ∧ sparseWf 0#56 (f p).side = true) : OutStored (.next (s.netEvent issuer f)) := by
  rw [outStored_next]
  unfold State.netEvent
  split
  · exact ⟨h1, h2⟩
  split
  · exact State.partyWrite_canon _ _ _ h1 h2
  · exact hf _

theorem execTake_canon (issuer : Nat) (s : State) (h1 : sparseWf unlisted s.mem = true) (h2 : sparseWf 0#56 s.side = true) : OutStored (execTake issuer s) := by
  refine State.netEvent_canon s issuer _ h1 h2 fun p => ?_
  (repeat' split) <;> simp (maxDischargeDepth := 9) [h1, h2]

theorem execAttach_canon (issuer : Nat) (s : State) (h1 : sparseWf unlisted s.mem = true) (h2 : sparseWf 0#56 s.side = true) : OutStored (execAttach issuer s) := by
  refine State.netEvent_canon s issuer _ h1 h2 fun p => ?_
  (repeat' split) <;> simp (maxDischargeDepth := 9) [h1, h2]

theorem execMeet_canon (issuer : Nat) (s : State) (h1 : sparseWf unlisted s.mem = true) (h2 : sparseWf 0#56 s.side = true) : OutStored (execMeet issuer s) := by
  refine State.netEvent_canon s issuer _ h1 h2 fun p => ?_
  (repeat' split) <;> simp (maxDischargeDepth := 9) [h1, h2]

@[simp] theorem State.joinSplices_canon (s : State) (p q : Party) (t u : SpliceTask) (e o : SpliceEnd) (h1 : sparseWf unlisted s.mem = true) (h2 : sparseWf 0#56 s.side = true) :
    sparseWf unlisted (s.joinSplices p q t u e o).mem = true ∧ sparseWf 0#56 (s.joinSplices p q t u e o).side = true := by
  unfold State.joinSplices
  dsimp only
  split
  · simp (maxDischargeDepth := 9) [h1, h2]
  split <;> simp (maxDischargeDepth := 9) [h1, h2]

theorem execViciousCircle_canon (issuer : Nat) (s : State) (h1 : sparseWf unlisted s.mem = true) (h2 : sparseWf 0#56 s.side = true) : OutStored (execViciousCircle issuer s) := by
  unfold execViciousCircle
  (repeat' split) <;> (try dsimp only) <;> (repeat' split) <;> simp (maxDischargeDepth := 9) [h1, h2]

theorem execRulew_canon (s1 s2 : BitVec 5) (s : State) (h1 : sparseWf unlisted s.mem = true) (h2 : sparseWf 0#56 s.side = true) : OutStored (execRulew s1 s2 s) := by
  unfold execRulew
  apply word_stored; intro i t; dsimp only; (repeat' split) <;> simp (maxDischargeDepth := 9) [h1, h2]

@[simp] theorem State.beginRewrite_canon (s : State) (r : Rewrite) (plan : (a b ha hb : Word) → List Word → Option Plan) (h1 : sparseWf unlisted s.mem = true) (h2 : sparseWf 0#56 s.side = true) :
    sparseWf unlisted (s.beginRewrite r plan).mem = true ∧ sparseWf 0#56 (s.beginRewrite r plan).side = true := by
  have pop (x : List Word × State) (n : Nat) (h : (s.regain r.die r.core r.ctx).popNodes r.die r.core r.ctx r.uid n = some x) :
      sparseWf unlisted x.2.mem = true ∧ sparseWf 0#56 x.2.side = true := by
    simpa [State.popNodes_keeps h] using ⟨h1, h2⟩
  unfold State.beginRewrite
  split
  · exact ⟨h1, h2⟩
  · exact ⟨h1, h2⟩
  · dsimp only
    split
    · simp [h1, h2]
    split
    · split <;> simp [h1, h2]
    · rename_i h
      have k := pop _ _ h
      split
      · exact ⟨h1, h2⟩
      split
      · simp [h1, h2]
      · simpa using k
  · simp [h1, h2]

theorem State.unitStep_canon (s : State) (r : Rewrite) (va : Word) (n : Nat) (f : Nat → State) (h1 : sparseWf unlisted s.mem = true) (h2 : sparseWf 0#56 s.side = true)
    (hf : ∀ pa, sparseWf unlisted (f pa).mem = true ∧ sparseWf 0#56 (f pa).side = true) :
    sparseWf unlisted (s.unitStep r va n f).mem = true ∧ sparseWf 0#56 (s.unitStep r va n f).side = true := by
  unfold State.unitStep
  split
  · simp (maxDischargeDepth := 9) [h1, h2]
  · simp (maxDischargeDepth := 9) [h1, h2]
  · exact ⟨h1, h2⟩
  · exact hf _

@[simp] theorem State.unitWrite_canon (s : State) (r : Rewrite) (w : Word × Word) (h1 : sparseWf unlisted s.mem = true) (h2 : sparseWf 0#56 s.side = true) :
    sparseWf unlisted (s.unitWrite r w).mem = true ∧ sparseWf 0#56 (s.unitWrite r w).side = true := by
  refine State.unitStep_canon s r _ _ _ h1 h2 fun pa => ?_
  simp (maxDischargeDepth := 9) [h1, h2]

@[simp] theorem State.unitFree_canon (s : State) (r : Rewrite) (n : Word) (h1 : sparseWf unlisted s.mem = true) (h2 : sparseWf 0#56 s.side = true) :
    sparseWf unlisted (s.unitFree r n).mem = true ∧ sparseWf 0#56 (s.unitFree r n).side = true := by
  refine State.unitStep_canon s r _ _ _ h1 h2 fun pa => ?_
  simp (maxDischargeDepth := 9) [h1, h2]

@[simp] theorem State.rewriteStep_canon (s : State) (uid act : Nat) (plan : (a b ha hb : Word) → List Word → Option Plan) (h1 : sparseWf unlisted s.mem = true) (h2 : sparseWf 0#56 s.side = true) :
    sparseWf unlisted (s.rewriteStep uid act plan).mem = true ∧ sparseWf 0#56 (s.rewriteStep uid act plan).side = true := by
  unfold State.rewriteStep
  (repeat' split) <;> simp (maxDischargeDepth := 9) [h1, h2]

theorem execAnnihilate_canon (job : Nat) (s : State) (h1 : sparseWf unlisted s.mem = true) (h2 : sparseWf 0#56 s.side = true) : OutStored (execAnnihilate job s) := by
  unfold execAnnihilate
  simp (maxDischargeDepth := 9) [h1, h2]

theorem execCommute_canon (job : Nat) (s : State) (h1 : sparseWf unlisted s.mem = true) (h2 : sparseWf 0#56 s.side = true) : OutStored (execCommute job s) := by
  unfold execCommute
  simp (maxDischargeDepth := 9) [h1, h2]

theorem execErase_canon (job : Nat) (s : State) (h1 : sparseWf unlisted s.mem = true) (h2 : sparseWf 0#56 s.side = true) : OutStored (execErase job s) := by
  unfold execErase
  simp (maxDischargeDepth := 9) [h1, h2]

theorem execNumop_canon (job : Nat) (s : State) (h1 : sparseWf unlisted s.mem = true) (h2 : sparseWf 0#56 s.side = true) : OutStored (execNumop job s) := by
  unfold execNumop
  simp (maxDischargeDepth := 9) [h1, h2]

theorem execDrainWake_canon (op : Nat) (s : State) (h1 : sparseWf unlisted s.mem = true) (h2 : sparseWf 0#56 s.side = true) : OutStored (execDrainWake op s) := by
  unfold execDrainWake
  (try dsimp only)
  (repeat' split) <;> simp (maxDischargeDepth := 9) [h1, h2]

@[simp] theorem State.areaWrite_canon (s : State) (die ctx : Nat) (area : Word) (off : Nat) (x : Word) (h1 : sparseWf unlisted s.mem = true) (h2 : sparseWf 0#56 s.side = true) :
    sparseWf unlisted (s.areaWrite die ctx area off x).mem = true ∧ sparseWf 0#56 (s.areaWrite die ctx area off x).side = true := by
  unfold State.areaWrite
  (repeat' split) <;> simp (maxDischargeDepth := 9) [h1, h2]

@[simp] theorem State.wakeDone_canon (s : State) (op : Option Nat) (h1 : sparseWf unlisted s.mem = true) (h2 : sparseWf 0#56 s.side = true) :
    sparseWf unlisted (s.wakeDone op).mem = true ∧ sparseWf 0#56 (s.wakeDone op).side = true := by
  unfold State.wakeDone
  (repeat' split) <;> simp (maxDischargeDepth := 9) [h1, h2]

theorem State.placeRecord_canon {s : State} {die core ctx : Nat} {a b : Word} {op : Option Nat} {t : State}
    (h : s.placeRecord die core ctx a b op = some t) (h1 : sparseWf unlisted s.mem = true) (h2 : sparseWf 0#56 s.side = true) :
    sparseWf unlisted t.mem = true ∧ sparseWf 0#56 t.side = true := by
  unfold State.placeRecord at h
  dsimp only at h
  (repeat' split at h) <;> cases h <;> simp (maxDischargeDepth := 9) [h1, h2]

theorem State.logAppend_canon {s : State} {die ctx : Nat} {area : Word} {es : List LogEntry} {t : State}
    (h : s.logAppend die ctx area es = some t) (h1 : sparseWf unlisted s.mem = true) (h2 : sparseWf 0#56 s.side = true) :
    sparseWf unlisted t.mem = true ∧ sparseWf 0#56 t.side = true := by
  have k (l : List (Nat × Word)) (g : Nat → Nat) := foldl_stored (fun (x : State) (w : Nat × Word) => x.areaWrite die ctx area (g w.1) w.2)
    (fun y e j1 j2 => State.areaWrite_canon _ _ _ _ _ _ j1 j2) l s h1 h2
  unfold State.logAppend at h
  dsimp only at h
  split at h
  · cases h
  · cases h
    have k1 := k ((List.range (es.flatMap LogEntry.words).length).zip (es.flatMap LogEntry.words))
      (fun j => s.logOffset die ctx area (s.logWritten die ctx area + 8 * j))
    split
    · simpa using State.areaWrite_canon _ _ _ _ _ _ k1.1 k1.2
    · exact State.areaWrite_canon _ _ _ _ _ _ k1.1 k1.2

theorem State.sendRecord_canon {s : State} {die core ctx : Nat} {source : BitVec 24} {w : Word × Word} {op : Option Nat} {t : State}
    (h : s.sendRecord die core ctx source w op = some t) (h1 : sparseWf unlisted s.mem = true) (h2 : sparseWf 0#56 s.side = true) :
    sparseWf unlisted t.mem = true ∧ sparseWf 0#56 t.side = true := by
  unfold State.sendRecord at h
  split at h
  · rename_i area _
    unfold State.logRecord at h
    obtain ⟨y, e', rfl⟩ := Option.map_eq_some_iff.mp h
    obtain ⟨x, e, rfl⟩ := Option.map_eq_some_iff.mp e'
    have k := State.logAppend_canon e h1 h2
    exact State.wakeDone_canon _ _ k.1 k.2
  · exact State.placeRecord_canon h h1 h2

theorem State.sendIntake_canon {s : State} {ctx : Nat} {w : Word × Word} {t : State}
    (h : s.sendIntake ctx w = some t) (h1 : sparseWf unlisted s.mem = true) (h2 : sparseWf 0#56 s.side = true) :
    sparseWf unlisted t.mem = true ∧ sparseWf 0#56 t.side = true := by
  unfold State.sendIntake at h
  split at h
  · cases h
  · rename_i d _
    split at h
    · rename_i c _
      obtain ⟨x, e, rfl⟩ := Option.map_eq_some_iff.mp h
      simpa using State.sendRecord_canon e h1 h2
    · split at h
      · cases h
      · cases h; exact ⟨h1, h2⟩

theorem execPairRecordSend_canon (n : Nat) (s : State) (h1 : sparseWf unlisted s.mem = true) (h2 : sparseWf 0#56 s.side = true) : OutStored (execPairRecordSend n s) := by
  have intake (x : State) (c : Nat) (w : Word × Word) (k1 : sparseWf unlisted x.mem = true) (k2 : sparseWf 0#56 x.side = true) :
      sparseWf unlisted ((x.sendIntake c w).getD s).mem = true ∧ sparseWf 0#56 ((x.sendIntake c w).getD s).side = true := by
    cases e : x.sendIntake c w with
    | none => exact ⟨h1, h2⟩
    | some y => exact State.sendIntake_canon e k1 k2
  unfold execPairRecordSend
  split
  · simp [h1, h2]
  split
  · simp [h1, h2]
  dsimp only
  split
  · rw [outStored_next]; exact intake _ _ _ h1 h2
  · split
    · rename_i e
      have k := State.sendRecord_canon e h1 h2
      simp (maxDischargeDepth := 9) [k]
    · split <;> simp [h1, h2]

theorem execHeldRecordWrite_canon (die : Nat) (core : Nat) (ctx : Nat) (s : State) (h1 : sparseWf unlisted s.mem = true) (h2 : sparseWf 0#56 s.side = true) : OutStored (execHeldRecordWrite die core ctx s) := by
  unfold execHeldRecordWrite
  split
  · simp [h1, h2]
  split
  · simp [h1, h2]
  · rename_i e
    have k := State.sendRecord_canon e h1 h2
    simp (maxDischargeDepth := 9) [k]

theorem execSpillWrite_canon (die : Nat) (ctx : Nat) (s : State) (h1 : sparseWf unlisted s.mem = true) (h2 : sparseWf 0#56 s.side = true) : OutStored (execSpillWrite die ctx s) := by
  unfold execSpillWrite
  dsimp only
  split
  · simp [h1, h2]
  · split <;> simp (maxDischargeDepth := 9) [h1, h2]

theorem execSpillRead_canon (die : Nat) (core : Nat) (ctx : Nat) (s : State) (h1 : sparseWf unlisted s.mem = true) (h2 : sparseWf 0#56 s.side = true) : OutStored (execSpillRead die core ctx s) := by
  unfold execSpillRead
  (try dsimp only)
  (repeat' split) <;> simp (maxDischargeDepth := 9) [h1, h2]

theorem execBalanceBatch_canon (n : Nat) (s : State) (h1 : sparseWf unlisted s.mem = true) (h2 : sparseWf 0#56 s.side = true) : OutStored (execBalanceBatch n s) := by
  unfold execBalanceBatch
  split
  · simp [h1, h2]
  · split
    · simp [h1, h2]
    · rw [outStored_next]
      exact foldl_stored _ (fun y e j1 j2 => State.partAppend_canon _ _ _ _ _ j1 j2) _ _ h1 h2

@[simp] theorem State.writeTokens_canon (s : State) (pas vals : List Nat) (h1 : sparseWf unlisted s.mem = true) (h2 : sparseWf 0#56 s.side = true) :
    sparseWf unlisted (s.writeTokens pas vals).mem = true ∧ sparseWf 0#56 (s.writeTokens pas vals).side = true := by
  exact foldl_stored (fun (x : State) (e : Nat × Nat) => x.writeNat e.1 4 e.2)
    (fun y e j1 j2 => State.writeNat_canon y e.1 4 e.2 j1 j2) (pas.zip vals) s h1 h2

theorem execBoard_canon (k : BitVec 3) (s1 s2 s3 : BitVec 5) (s : State) (h1 : sparseWf unlisted s.mem = true) (h2 : sparseWf 0#56 s.side = true) : OutStored (execBoard k s1 s2 s3 s) := by
  unfold execBoard
  apply word_stored; intro i t; dsimp only; (repeat' split) <;> simp (maxDischargeDepth := 9) [h1, h2]

theorem execExpertReboard_canon (die : Nat) (core : Nat) (ctx : Nat) (k : Nat) (s : State) (h1 : sparseWf unlisted s.mem = true) (h2 : sparseWf 0#56 s.side = true) : OutStored (execExpertReboard die core ctx k s) := by
  unfold execExpertReboard
  dsimp only
  split
  · simp [h1, h2]
  split
  · simp [h1, h2]
  · simp (maxDischargeDepth := 9) [h1, h2]

@[simp] theorem State.blockFill_canon (s : State) (v : Saving) (ws : List (Nat × Word)) (h1 : sparseWf unlisted s.mem = true) (h2 : sparseWf 0#56 s.side = true) :
    sparseWf unlisted (s.blockFill v ws).mem = true ∧ sparseWf 0#56 (s.blockFill v ws).side = true := by
  exact foldl_stored (fun (x : State) (w : Nat × Word) => x.blockWrite v w.1 w.2)
    (fun y e j1 j2 => State.blockWrite_canon _ _ _ _ j1 j2) ws s h1 h2

theorem execPreemptEntry_canon (p : Place) (s : State) (h1 : sparseWf unlisted s.mem = true) (h2 : sparseWf 0#56 s.side = true) : OutStored (execPreemptEntry p s) := by
  unfold execPreemptEntry
  (try dsimp only)
  (repeat' split) <;> simp (maxDischargeDepth := 9) [h1, h2]

theorem execSaveComplete_canon (uid : Nat) (s : State) (h1 : sparseWf unlisted s.mem = true) (h2 : sparseWf 0#56 s.side = true) : OutStored (execSaveComplete uid s) := by
  unfold execSaveComplete
  (try dsimp only)
  (repeat' split) <;> simp (maxDischargeDepth := 9) [h1, h2]

@[simp] theorem State.remapped_canon (s old : State) (h1 : sparseWf unlisted s.mem = true) (h2 : sparseWf 0#56 s.side = true) :
    sparseWf unlisted (s.remapped old).mem = true ∧ sparseWf 0#56 (s.remapped old).side = true := ⟨h1, sparseWf_filter _ _ _ h2⟩

theorem execHostWrite_canon (off : Nat) (bytes : List (BitVec 8)) (s : State) (h1 : sparseWf unlisted s.mem = true) (h2 : sparseWf 0#56 s.side = true) : OutStored (execHostWrite off bytes s) := by
  unfold execHostWrite
  (repeat' split) <;> simp (maxDischargeDepth := 9) [h1, h2]

@[simp] theorem State.redsFault_canon (s : State) (o : TileOp) (h1 : sparseWf unlisted s.mem = true) (h2 : sparseWf 0#56 s.side = true) :
    sparseWf unlisted (s.redsFault o).mem = true ∧ sparseWf 0#56 (s.redsFault o).side = true := by
  unfold State.redsFault
  simp (maxDischargeDepth := 9) [h1, h2]

theorem execRedsSend_canon (op : Nat) (s : State) (h1 : sparseWf unlisted s.mem = true) (h2 : sparseWf 0#56 s.side = true) : OutStored (execRedsSend op s) := by
  unfold execRedsSend
  (try dsimp only)
  (repeat' split) <;> simp (maxDischargeDepth := 9) [h1, h2]

@[simp] theorem State.unawait_keeps (s : State) (which : KeySlot → Bool) (md : Nat) :
    (s.unawait which md).mem = s.mem ∧ (s.unawait which md).side = s.side := ⟨rfl, rfl⟩

@[simp] theorem State.settleKeySlot_keeps (s : State) (die : Nat) (k : KeySlot) :
    (s.settleKeySlot die k).mem = s.mem ∧ (s.settleKeySlot die k).side = s.side := by
  unfold State.settleKeySlot
  split <;> simp

@[simp] theorem State.writeResult_canon (s : State) (die : Nat) (k : KeySlot) (m : Word × Word) (r : VReg × BitVec 7) (h1 : sparseWf unlisted s.mem = true) (h2 : sparseWf 0#56 s.side = true) :
    sparseWf unlisted (s.writeResult die k m r).mem = true ∧ sparseWf 0#56 (s.writeResult die k m r).side = true := by
  unfold State.writeResult
  dsimp only
  (repeat' split) <;> simp (maxDischargeDepth := 9) [h1, h2]

theorem execResultWrite_canon (die : Nat) (n : Nat) (s : State) (h1 : sparseWf unlisted s.mem = true) (h2 : sparseWf 0#56 s.side = true) : OutStored (execResultWrite die n s) := by
  unfold execResultWrite
  (try dsimp only)
  (repeat' split) <;> simp (maxDischargeDepth := 9) [h1, h2]

@[simp] theorem State.finishReds_canon (s : State) (die ctx g : Nat) (round : BitVec 32) (ok : Bool) (ind : BitVec 7) (h1 : sparseWf unlisted s.mem = true) (h2 : sparseWf 0#56 s.side = true) :
    sparseWf unlisted (s.finishReds die ctx g round ok ind).mem = true ∧ sparseWf 0#56 (s.finishReds die ctx g round ok ind).side = true := by
  unfold State.finishReds
  (repeat' split) <;> simp (maxDischargeDepth := 9) [h1, h2]

theorem execRedsComplete_canon (n : Nat) (s : State) (h1 : sparseWf unlisted s.mem = true) (h2 : sparseWf 0#56 s.side = true) : OutStored (execRedsComplete n s) := by
  unfold execRedsComplete
  (repeat' split) <;> simp (maxDischargeDepth := 9) [h1, h2]

@[simp] theorem State.replay_canon (s : State) (g : Group) (o : TileOp) (h1 : sparseWf unlisted s.mem = true) (h2 : sparseWf 0#56 s.side = true) :
    sparseWf unlisted (s.replay g o).mem = true ∧ sparseWf 0#56 (s.replay g o).side = true := by
  unfold State.replay
  (repeat' split) <;> simp (maxDischargeDepth := 9) [h1, h2]

@[simp] theorem State.rebuildGroup_canon (s : State) (g : Group) (h1 : sparseWf unlisted s.mem = true) (h2 : sparseWf 0#56 s.side = true) :
    sparseWf unlisted (s.rebuildGroup g).mem = true ∧ sparseWf 0#56 (s.rebuildGroup g).side = true := by
  unfold State.rebuildGroup
  dsimp only
  apply foldl_stored _ (fun y o j1 j2 => State.replay_canon y g o j1 j2) <;> simp [h1, h2]

@[simp] theorem State.installGroup_canon (s : State) (g : Group) (h1 : sparseWf unlisted s.mem = true) (h2 : sparseWf 0#56 s.side = true) :
    sparseWf unlisted (s.installGroup g).mem = true ∧ sparseWf 0#56 (s.installGroup g).side = true := by
  unfold State.installGroup
  (repeat' split) <;> simp (maxDischargeDepth := 9) [h1, h2]

theorem execGroupRebuild_canon (ctx : Nat) (g : Nat) (addr : Nat) (s : State) (h1 : sparseWf unlisted s.mem = true) (h2 : sparseWf 0#56 s.side = true) : OutStored (execGroupRebuild ctx g addr s) := by
  unfold execGroupRebuild
  (try dsimp only)
  (repeat' split) <;> simp (maxDischargeDepth := 9) [h1, h2]

@[simp] theorem State.clearRange_canon (s : State) (a n : Nat) (h1 : sparseWf unlisted s.mem = true) (h2 : sparseWf 0#56 s.side = true) :
    sparseWf unlisted (s.clearRange a n).mem = true ∧ sparseWf 0#56 (s.clearRange a n).side = true := by
  unfold State.clearRange
  simp (maxDischargeDepth := 9) [h1, h2]

@[simp] theorem State.copyRange_canon (s : State) (src dst n : Nat) (h1 : sparseWf unlisted s.mem = true) (h2 : sparseWf 0#56 s.side = true) :
    sparseWf unlisted (s.copyRange src dst n).mem = true ∧ sparseWf 0#56 (s.copyRange src dst n).side = true := by
  unfold State.copyRange
  simp (maxDischargeDepth := 9) [h1, h2]

@[simp] theorem State.copyIn_canon (s : State) (die ctx : Nat) (va : Word) (dst n : Nat) (h1 : sparseWf unlisted s.mem = true) (h2 : sparseWf 0#56 s.side = true) :
    sparseWf unlisted (s.copyIn die ctx va dst n).mem = true ∧ sparseWf 0#56 (s.copyIn die ctx va dst n).side = true := by
  refine foldl_stored _ (fun y e j1 j2 => ?_) (cut va.toNat n) s h1 h2
  split <;> simp [j1, j2]

@[simp] theorem State.copyOut_canon (s : State) (die ctx : Nat) (src : Nat) (va : Word) (n : Nat) (h1 : sparseWf unlisted s.mem = true) (h2 : sparseWf 0#56 s.side = true) :
    sparseWf unlisted (s.copyOut die ctx src va n).mem = true ∧ sparseWf 0#56 (s.copyOut die ctx src va n).side = true := by
  refine foldl_stored _ (fun y e j1 j2 => ?_) (cut va.toNat n) s h1 h2
  split <;> simp [j1, j2]

@[simp] theorem State.clearStamps_canon (s : State) (ctx : Nat) (h1 : sparseWf unlisted s.mem = true) (h2 : sparseWf 0#56 s.side = true) :
    sparseWf unlisted (s.clearStamps ctx).mem = true ∧ sparseWf 0#56 (s.clearStamps ctx).side = true := by
  unfold State.clearStamps
  simp (maxDischargeDepth := 9) [h1, h2]

@[simp] theorem State.unmapStamps_canon (s : State) (ctx : Nat) (h1 : sparseWf unlisted s.mem = true) (h2 : sparseWf 0#56 s.side = true) :
    sparseWf unlisted (s.unmapStamps ctx).mem = true ∧ sparseWf 0#56 (s.unmapStamps ctx).side = true := by
  unfold State.unmapStamps
  simp (maxDischargeDepth := 9) [h1, h2]

theorem execLoadctx_canon (ctx : Nat) (s : State) (h1 : sparseWf unlisted s.mem = true) (h2 : sparseWf 0#56 s.side = true) : OutStored (execLoadctx ctx s) := by
  unfold execLoadctx
  (try dsimp only)
  (repeat' split) <;> simp (maxDischargeDepth := 9) [h1, h2]

theorem execLogAppend_canon (e : Nat) (s : State) (h1 : sparseWf unlisted s.mem = true) (h2 : sparseWf 0#56 s.side = true) : OutStored (execLogAppend e s) := by
  unfold execLogAppend
  split
  · simp [h1, h2]
  split
  · simp [h1, h2]
  split
  · simp [h1, h2]
  · rename_i e
    have k := State.logAppend_canon e h1 h2
    simp [k]

@[simp] theorem State.replayItem_canon (s : State) (x : LogItem) (h1 : sparseWf unlisted s.mem = true) (h2 : sparseWf 0#56 s.side = true) :
    sparseWf unlisted (s.replayItem x).mem = true ∧ sparseWf 0#56 (s.replayItem x).side = true := by
  unfold State.replayItem
  split
  · rename_i die core ctx w0 w1
    cases e : s.sendRecord die core ctx 0 (w0, w1) none with
    | none => simp [h1, h2]
    | some y => simpa using State.sendRecord_canon e h1 h2
  · split <;> simp (maxDischargeDepth := 9) [h1, h2]

@[simp] theorem State.replayLog_canon (s : State) (die core ctx : Nat) (h1 : sparseWf unlisted s.mem = true) (h2 : sparseWf 0#56 s.side = true) :
    sparseWf unlisted (s.replayLog die core ctx).mem = true ∧ sparseWf 0#56 (s.replayLog die core ctx).side = true := by
  unfold State.replayLog
  exact foldl_stored State.replayItem (fun y e j1 j2 => State.replayItem_canon y e j1 j2) _ _ h1 h2

@[simp] theorem State.restoreArea_canon (s : State) (die core ctx base size : Nat) (area : Word) (h1 : sparseWf unlisted s.mem = true) (h2 : sparseWf 0#56 s.side = true) :
    sparseWf unlisted (s.restoreArea die core ctx base size area).mem = true ∧ sparseWf 0#56 (s.restoreArea die core ctx base size area).side = true := by
  unfold State.restoreArea
  dsimp only
  have k (l : List (Word × Word)) (x : State) (j1 : sparseWf unlisted x.mem = true) (j2 : sparseWf 0#56 x.side = true) :=
    foldl_stored (fun (x : State) (w : Word × Word) => x.replayItem (.record die core ctx w.1 w.2))
      (fun y e j1 j2 => State.replayItem_canon _ _ j1 j2) l x j1 j2
  have c := State.copyIn_canon s die ctx (area + 0x8000) (scratchAddr die core (base * 65536)) (size * 65536) h1 h2
  apply State.areaWrite_canon
  · exact (State.replayLog_canon _ _ _ _ (k _ _ (by simpa using c.1) (by simpa using c.2)).1 (k _ _ (by simpa using c.1) (by simpa using c.2)).2).1
  · exact (State.replayLog_canon _ _ _ _ (k _ _ (by simpa using c.1) (by simpa using c.2)).1 (k _ _ (by simpa using c.1) (by simpa using c.2)).2).2

theorem execReside_canon (ctx : Nat) (s : State) (h1 : sparseWf unlisted s.mem = true) (h2 : sparseWf 0#56 s.side = true) : OutStored (execReside ctx s) := by
  unfold execReside
  dsimp only
  split
  · simp [h1, h2]
  split
  · simp [h1, h2]
  split
  · simp [h1, h2]
  · rw [outStored_next, (State.finishCmd_keeps ..).1, (State.finishCmd_keeps ..).2]
    split <;> simp (maxDischargeDepth := 9) [h1, h2]

@[simp] theorem State.areaPut_canon (s : State) (die ctx : Nat) (area : Word) (off : Nat) (ws : List Word) (h1 : sparseWf unlisted s.mem = true) (h2 : sparseWf 0#56 s.side = true) :
    sparseWf unlisted (s.areaPut die ctx area off ws).mem = true ∧ sparseWf 0#56 (s.areaPut die ctx area off ws).side = true := by
  exact foldl_stored (fun (x : State) (w : Nat × Word) => x.areaWrite die ctx area w.1 w.2)
    (fun y e j1 j2 => State.areaWrite_canon _ _ _ _ _ _ j1 j2) (wordsAt off ws) s h1 h2

@[simp] theorem State.evictRecords_canon (s : State) (die core ctx : Nat) (area : Word) (h1 : sparseWf unlisted s.mem = true) (h2 : sparseWf 0#56 s.side = true) :
    sparseWf unlisted (s.evictRecords die core ctx area).mem = true ∧ sparseWf 0#56 (s.evictRecords die core ctx area).side = true := by
  unfold State.evictRecords
  dsimp only
  have k (l : List HodEntry) (x : State) (j1 : sparseWf unlisted x.mem = true) (j2 : sparseWf 0#56 x.side = true) :=
    foldl_stored (fun (x : State) (e : HodEntry) => x.partAppend ctx die e.w0 e.w1)
      (fun y e j1 j2 => State.partAppend_canon _ _ _ _ _ j1 j2) l x j1 j2
  apply State.areaPut_canon
  · exact (k _ _ (by simpa using h1) (by simpa using h2)).1
  · exact (k _ _ (by simpa using h1) (by simpa using h2)).2

theorem execEvict_canon (ctx : Nat) (s : State) (h1 : sparseWf unlisted s.mem = true) (h2 : sparseWf 0#56 s.side = true) : OutStored (execEvict ctx s) := by
  unfold execEvict
  dsimp only
  split
  · simp [h1, h2]
  split
  · simp [h1, h2]
  split
  · simp [h1, h2]
  split
  · simp [h1, h2]
  split
  · simp [h1, h2]
  split
  · simp [h1, h2]
  · simp (maxDischargeDepth := 12) [h1, h2]

@[simp] theorem State.emptyPartition_canon (s : State) (ctx die : Nat) (h1 : sparseWf unlisted s.mem = true) (h2 : sparseWf 0#56 s.side = true) :
    sparseWf unlisted (s.emptyPartition ctx die).mem = true ∧ sparseWf 0#56 (s.emptyPartition ctx die).side = true := by
  unfold State.emptyPartition
  split <;> simp (maxDischargeDepth := 9) [h1, h2]

@[simp] theorem State.dropRecords_canon (s : State) (ctx : Nat) (h1 : sparseWf unlisted s.mem = true) (h2 : sparseWf 0#56 s.side = true) :
    sparseWf unlisted (s.dropRecords ctx).mem = true ∧ sparseWf 0#56 (s.dropRecords ctx).side = true := by
  unfold State.dropRecords
  dsimp only
  have k := foldl_keeps (fun (x : State) (d : Nat) => x.discard d ctx (s.recordsOn d ctx)) (fun x d => State.discard_keeps ..) lampDies s
  exact foldl_stored (fun (x : State) (d : Nat) => x.emptyPartition ctx d) (fun y e j1 j2 => State.emptyPartition_canon y ctx e j1 j2)
    lampDies _ (by rw [k.1]; exact h1) (by rw [k.2]; exact h2)

@[simp] theorem State.loseWork_canon (s : State) (ctx : Nat) (h1 : sparseWf unlisted s.mem = true) (h2 : sparseWf 0#56 s.side = true) :
    sparseWf unlisted (s.loseWork ctx).mem = true ∧ sparseWf 0#56 (s.loseWork ctx).side = true := by
  unfold State.loseWork
  simp (maxDischargeDepth := 9) [h1, h2]

theorem execDestroy_canon (ctx : Nat) (s : State) (h1 : sparseWf unlisted s.mem = true) (h2 : sparseWf 0#56 s.side = true) : OutStored (execDestroy ctx s) := by
  have k := State.loseWork_canon s ctx h1 h2
  unfold execDestroy
  dsimp only
  split
  · simp [h1, h2]
  split
  · simp [h1, h2]
  generalize s.loseWork ctx = x at k
  split
  · simpa using k
  · simp (maxDischargeDepth := 9) [k]

theorem execGroupload_canon (ctx : Nat) (s : State) (h1 : sparseWf unlisted s.mem = true) (h2 : sparseWf 0#56 s.side = true) : OutStored (execGroupload ctx s) := by
  unfold execGroupload
  (try dsimp only)
  (repeat' split) <;> simp (maxDischargeDepth := 9) [h1, h2]

@[simp] theorem State.lateMcheck_canon (s : State) (owner ctx : Nat) (va : Word) (h1 : sparseWf unlisted s.mem = true) (h2 : sparseWf 0#56 s.side = true) :
    sparseWf unlisted (s.lateMcheck owner ctx va).mem = true ∧ sparseWf 0#56 (s.lateMcheck owner ctx va).side = true := by
  unfold State.lateMcheck
  (repeat' split) <;> simp (maxDischargeDepth := 9) [h1, h2]

@[simp] theorem State.loseAccess_canon (s : State) (o : Out) (h1 : sparseWf unlisted s.mem = true) (h2 : sparseWf 0#56 s.side = true) :
    sparseWf unlisted (s.loseAccess o).mem = true ∧ sparseWf 0#56 (s.loseAccess o).side = true := by
  unfold State.loseAccess
  dsimp only
  generalize (match o.cls with
    | .store | .stamped | .remoteStore => true
    | _ => false) = posted
  (repeat' split) <;> simp (maxDischargeDepth := 9) [h1, h2]

@[simp] theorem State.loseOf_canon (s : State) (owner req dest : Nat) (va : Word) (h1 : sparseWf unlisted s.mem = true) (h2 : sparseWf 0#56 s.side = true) :
    sparseWf unlisted (s.loseOf owner req dest va).mem = true ∧ sparseWf 0#56 (s.loseOf owner req dest va).side = true := by
  unfold State.loseOf
  dsimp only
  (repeat' split) <;> simp (maxDischargeDepth := 9) [h1, h2]

@[simp] theorem State.loseResult_canon (s : State) (ctx g md : Nat) (round : BitVec 32) (va : Word) (h1 : sparseWf unlisted s.mem = true) (h2 : sparseWf 0#56 s.side = true) :
    sparseWf unlisted (s.loseResult ctx g md round va).mem = true ∧ sparseWf 0#56 (s.loseResult ctx g md round va).side = true := by
  unfold State.loseResult
  dsimp only
  split <;> simp (maxDischargeDepth := 9) [h1, h2]

@[simp] theorem State.loseRequest_canon (s : State) (r : Req) (h1 : sparseWf unlisted s.mem = true) (h2 : sparseWf 0#56 s.side = true) :
    sparseWf unlisted (s.loseRequest r).mem = true ∧ sparseWf 0#56 (s.loseRequest r).side = true := by
  unfold State.loseRequest
  (repeat' split) <;> simp (maxDischargeDepth := 9) [h1, h2]

@[simp] theorem State.loseAnswer_canon (s : State) (r : Resp) (h1 : sparseWf unlisted s.mem = true) (h2 : sparseWf 0#56 s.side = true) :
    sparseWf unlisted (s.loseAnswer r).mem = true ∧ sparseWf 0#56 (s.loseAnswer r).side = true := by
  unfold State.loseAnswer
  (repeat' split) <;> simp (maxDischargeDepth := 9) [h1, h2]

theorem execDieFailure_canon (die : Nat) (s : State) (h1 : sparseWf unlisted s.mem = true) (h2 : sparseWf 0#56 s.side = true) : OutStored (execDieFailure die s) := by
  unfold execDieFailure
  split
  · simp [h1, h2]
  · rw [outStored_next]
    have k0 := State.loseMessages_keeps (s.modDie die fun d => { d with outOfService := true, halt := false }) die
    generalize (s.modDie die fun d => { d with outOfService := true, halt := false }).loseMessages die = m at k0
    have k1 : sparseWf unlisted (((m.2.2.loseThreads die).loseRecords die).clearDie die).mem = true ∧ sparseWf 0#56 (((m.2.2.loseThreads die).loseRecords die).clearDie die).side = true := by
      simp [k0, h1, h2]
    generalize ((m.2.2.loseThreads die).loseRecords die).clearDie die = s1 at k1
    have k2 := foldl_stored State.loseRequest (fun y e j1 j2 => State.loseRequest_canon y e j1 j2) m.1 s1 k1.1 k1.2
    have k3 := foldl_stored State.loseAnswer (fun y e j1 j2 => State.loseAnswer_canon y e j1 j2) m.2.1 _ k2.1 k2.2
    generalize m.2.1.foldl State.loseAnswer (m.1.foldl State.loseRequest s1) = s2 at k3
    have k4 := foldl_stored State.loseAccess (fun y e j1 j2 => State.loseAccess_canon y e j1 j2)
      (s2.outs.filter fun o => o.dest = die) s2 k3.1 k3.2
    generalize (s2.outs.filter fun o => o.dest = die).foldl State.loseAccess s2 = s3 at k4
    have k5 := foldl_stored (fun (x : State) (p : Party × Word) => x.linkLost p.1 p.2)
      (fun y e j1 j2 => State.linkLost_canon y e.1 e.2 j1 j2) (s3.meetsAt die) s3 k4.1 k4.2
    simpa using k5

theorem State.startUp_canon (s : State) (image : List Byte) (failed : List Nat) (links : Fabric) (f : Fuses) :
    sparseWf unlisted (s.startUp image failed links f).mem = true ∧ sparseWf 0#56 (s.startUp image failed links f).side = true := by
  have key (x : State) (k1 : x.mem = []) (k2 : x.side = []) :
      sparseWf unlisted (if x.routesOk links.tables then x.withRoutes links.tables else x).mem = true ∧
      sparseWf 0#56 (if x.routesOk links.tables then x.withRoutes links.tables else x).side = true := by
    split <;> simp [k1, k2, sparseWf, sparseAbove]
  have fold (x : State) := foldl_keeps (fun (x : State) (d : Nat) => x.modDie d fun y => { y with outOfService := true }) (fun x d => by simp) failed x
  unfold State.startUp
  dsimp only
  by_cases c : (!s.fuses.accepts image) = true
  · rw [if_pos c]; exact ⟨rfl, rfl⟩
  · rw [if_neg c]
    exact key _ (by rw [(fold _).1]; rfl) (by rw [(fold _).2]; rfl)

theorem execColdStart_canon (image : List (BitVec 8)) (failed : List Nat) (links : Fabric) (temps : List Nat) (s : State) :
    OutStored (execColdStart image failed links temps s) := (outStored_next _).mpr (State.startUp_canon ..)

theorem execWarmStart_canon (image : List (BitVec 8)) (failed : List Nat) (links : Fabric) (temps : List Nat) (s : State) :
    OutStored (execWarmStart image failed links temps s) := by
  unfold execWarmStart
  split
  · exact (outStored_next _).mpr (State.startUp_canon ..)
  · exact (outStored_next _).mpr (State.startUp_canon ..)

@[simp] theorem State.zeroNodes_canon (s : State) (die ctx : Nat) (ns : List Word) (h1 : sparseWf unlisted s.mem = true) (h2 : sparseWf 0#56 s.side = true) :
    sparseWf unlisted (s.zeroNodes die ctx ns).mem = true ∧ sparseWf 0#56 (s.zeroNodes die ctx ns).side = true := by
  exact foldl_stored _ (fun y e j1 j2 => by simp [j1, j2]) _ s h1 h2

theorem execQuarryBatch_canon (die : Nat) (core : Nat) (ctx : Nat) (s : State) (h1 : sparseWf unlisted s.mem = true) (h2 : sparseWf 0#56 s.side = true) : OutStored (execQuarryBatch die core ctx s) := by
  unfold execQuarryBatch
  dsimp only
  split
  · simp [h1, h2]
  split
  · split
    · simp [h1, h2]
    · simp (maxDischargeDepth := 9) [h1, h2]
  · simp [h1, h2]

theorem State.applySetting_canon (s : State) (x : Setting) (h1 : sparseWf unlisted s.mem = true) (h2 : sparseWf 0#56 s.side = true) :
    sparseWf unlisted (s.applySetting x).mem = true ∧ sparseWf 0#56 (s.applySetting x).side = true := by
  unfold State.applySetting
  split <;> (try unfold State.placeStamp) <;> (try unfold State.setPackage) <;>
    (try unfold State.advanceSvn) <;> (try split) <;> simp (maxDischargeDepth := 9) [h1, h2]

end Sys2Proof.Machine
end

