-- ==== Sys2Proof/Laws/Encoding.lean ====
section
/-! SUPPORT. What the fields of an encoded word read as: one lemma for each field of each layout of R35 and R38 to R40. -/

set_option Elab.async false

namespace Sys2Proof.Laws

/-- A field within the low part of a concatenation. -/
theorem extract_low {m n : Nat} (a : BitVec m) (b : BitVec n) (k l : Nat) (h : k + l ≤ n) :
    (a ++ b).extractLsb' k l = b.extractLsb' k l := by
  ext i hi
  simp only [BitVec.getElem_extractLsb', BitVec.getLsbD_append]
  rw [if_pos (by omega)]

/-- A field within the high part of a concatenation. -/
theorem extract_high {m n : Nat} (a : BitVec m) (b : BitVec n) (k l : Nat) (h : n ≤ k) :
    (a ++ b).extractLsb' k l = a.extractLsb' (k - n) l := by
  ext i hi
  simp only [BitVec.getElem_extractLsb', BitVec.getLsbD_append]
  rw [if_neg (by omega)]
  congr 1
  omega

/-- A field that is the whole. -/
theorem extract_all {n : Nat} (a : BitVec n) : a.extractLsb' 0 n = a := by
  ext i hi
  simp

/-! ### `uSlot` -/

theorem uSlot_op (op : BitVec 6) (sd sa sh sb : BitVec 5) :
    (uSlot op sd sa sh sb).extractLsb' 20 6 = op := by
  simp (disch := decide) only [uSlot, extract_high]; exact extract_all _

theorem uSlot_sd (op : BitVec 6) (sd sa sh sb : BitVec 5) :
    (uSlot op sd sa sh sb).extractLsb' 15 5 = sd := by
  simp (disch := decide) only [uSlot, extract_low, extract_high]; exact extract_all _

theorem uSlot_sa (op : BitVec 6) (sd sa sh sb : BitVec 5) :
    (uSlot op sd sa sh sb).extractLsb' 10 5 = sa := by
  simp (disch := decide) only [uSlot, extract_low, extract_high]; exact extract_all _

theorem uSlot_sh (op : BitVec 6) (sd sa sh sb : BitVec 5) :
    (uSlot op sd sa sh sb).extractLsb' 5 5 = sh := by
  simp (disch := decide) only [uSlot, extract_low, extract_high]; exact extract_all _

theorem uSlot_sb (op : BitVec 6) (sd sa sh sb : BitVec 5) :
    (uSlot op sd sa sh sb).extractLsb' 0 5 = sb := by
  simp (disch := decide) only [uSlot, extract_low]; exact extract_all _


/-! ### `uSlotImm` -/

theorem uSlotImm_op (op : BitVec 6) (sd sa : BitVec 5) (imm : BitVec 10) :
    (uSlotImm op sd sa imm).extractLsb' 20 6 = op := by
  simp (disch := decide) only [uSlotImm, extract_high]; exact extract_all _

theorem uSlotImm_sd (op : BitVec 6) (sd sa : BitVec 5) (imm : BitVec 10) :
    (uSlotImm op sd sa imm).extractLsb' 15 5 = sd := by
  simp (disch := decide) only [uSlotImm, extract_low, extract_high]; exact extract_all _

theorem uSlotImm_sa (op : BitVec 6) (sd sa : BitVec 5) (imm : BitVec 10) :
    (uSlotImm op sd sa imm).extractLsb' 10 5 = sa := by
  simp (disch := decide) only [uSlotImm, extract_low, extract_high]; exact extract_all _

theorem uSlotImm_imm (op : BitVec 6) (sd sa : BitVec 5) (imm : BitVec 10) :
    (uSlotImm op sd sa imm).extractLsb' 0 10 = imm := by
  simp (disch := decide) only [uSlotImm, extract_low]; exact extract_all _


/-! ### `vSlot` -/

theorem vSlot_op (op : BitVec 7) (vd va vb : BitVec 6) (pm : BitVec 3) (mod : BitVec 4) :
    (vSlot op vd va vb pm mod).extractLsb' 25 7 = op := by
  simp (disch := decide) only [vSlot, extract_high]; exact extract_all _

theorem vSlot_vd (op : BitVec 7) (vd va vb : BitVec 6) (pm : BitVec 3) (mod : BitVec 4) :
    (vSlot op vd va vb pm mod).extractLsb' 19 6 = vd := by
  simp (disch := decide) only [vSlot, extract_low, extract_high]; exact extract_all _

theorem vSlot_va (op : BitVec 7) (vd va vb : BitVec 6) (pm : BitVec 3) (mod : BitVec 4) :
    (vSlot op vd va vb pm mod).extractLsb' 13 6 = va := by
  simp (disch := decide) only [vSlot, extract_low, extract_high]; exact extract_all _

theorem vSlot_vb (op : BitVec 7) (vd va vb : BitVec 6) (pm : BitVec 3) (mod : BitVec 4) :
    (vSlot op vd va vb pm mod).extractLsb' 7 6 = vb := by
  simp (disch := decide) only [vSlot, extract_low, extract_high]; exact extract_all _

theorem vSlot_pm (op : BitVec 7) (vd va vb : BitVec 6) (pm : BitVec 3) (mod : BitVec 4) :
    (vSlot op vd va vb pm mod).extractLsb' 4 3 = pm := by
  simp (disch := decide) only [vSlot, extract_low, extract_high]; exact extract_all _

theorem vSlot_mod (op : BitVec 7) (vd va vb : BitVec 6) (pm : BitVec 3) (mod : BitVec 4) :
    (vSlot op vd va vb pm mod).extractLsb' 0 4 = mod := by
  simp (disch := decide) only [vSlot, extract_low]; exact extract_all _


/-! ### `uWord` -/

theorem uWord_op (c : BitVec 2) (g : BitVec 4) (op : BitVec 6) (sd sa sb : BitVec 5) (la : BitVec 4) (x : BitVec 1) (imm : BitVec 32) :
    (c ++ (g ++ uWord op sd sa sb la x imm)).extractLsb' 52 6 = op := by
  simp (disch := decide) only [uWord, extract_low, extract_high]; exact extract_all _

theorem uWord_sd (c : BitVec 2) (g : BitVec 4) (op : BitVec 6) (sd sa sb : BitVec 5) (la : BitVec 4) (x : BitVec 1) (imm : BitVec 32) :
    (c ++ (g ++ uWord op sd sa sb la x imm)).extractLsb' 47 5 = sd := by
  simp (disch := decide) only [uWord, extract_low, extract_high]; exact extract_all _

theorem uWord_sa (c : BitVec 2) (g : BitVec 4) (op : BitVec 6) (sd sa sb : BitVec 5) (la : BitVec 4) (x : BitVec 1) (imm : BitVec 32) :
    (c ++ (g ++ uWord op sd sa sb la x imm)).extractLsb' 42 5 = sa := by
  simp (disch := decide) only [uWord, extract_low, extract_high]; exact extract_all _

theorem uWord_sb (c : BitVec 2) (g : BitVec 4) (op : BitVec 6) (sd sa sb : BitVec 5) (la : BitVec 4) (x : BitVec 1) (imm : BitVec 32) :
    (c ++ (g ++ uWord op sd sa sb la x imm)).extractLsb' 37 5 = sb := by
  simp (disch := decide) only [uWord, extract_low, extract_high]; exact extract_all _

theorem uWord_la (c : BitVec 2) (g : BitVec 4) (op : BitVec 6) (sd sa sb : BitVec 5) (la : BitVec 4) (x : BitVec 1) (imm : BitVec 32) :
    (c ++ (g ++ uWord op sd sa sb la x imm)).extractLsb' 33 4 = la := by
  simp (disch := decide) only [uWord, extract_low, extract_high]; exact extract_all _

theorem uWord_x (c : BitVec 2) (g : BitVec 4) (op : BitVec 6) (sd sa sb : BitVec 5) (la : BitVec 4) (x : BitVec 1) (imm : BitVec 32) :
    (c ++ (g ++ uWord op sd sa sb la x imm)).getLsbD 32 = x.getLsbD 0 := by
  simp only [uWord, BitVec.getLsbD_append]; simp

theorem uWord_imm (c : BitVec 2) (g : BitVec 4) (op : BitVec 6) (sd sa sb : BitVec 5) (la : BitVec 4) (x : BitVec 1) (imm : BitVec 32) :
    (c ++ (g ++ uWord op sd sa sb la x imm)).extractLsb' 0 32 = imm := by
  simp (disch := decide) only [uWord, extract_low]; exact extract_all _


/-! ### `vWord` -/

theorem vWord_op (c : BitVec 2) (g : BitVec 4) (op : BitVec 7) (vd : BitVec 6) (sa sx : BitVec 5) (vb : BitVec 6) (pm : BitVec 3) (la : BitVec 4) (sz : BitVec 2) (sy : BitVec 5) (imm : BitVec 15) :
    (c ++ (g ++ vWord op vd sa sx vb pm la sz sy imm)).extractLsb' 51 7 = op := by
  simp (disch := decide) only [vWord, extract_low, extract_high]; exact extract_all _

theorem vWord_vd (c : BitVec 2) (g : BitVec 4) (op : BitVec 7) (vd : BitVec 6) (sa sx : BitVec 5) (vb : BitVec 6) (pm : BitVec 3) (la : BitVec 4) (sz : BitVec 2) (sy : BitVec 5) (imm : BitVec 15) :
    (c ++ (g ++ vWord op vd sa sx vb pm la sz sy imm)).extractLsb' 45 6 = vd := by
  simp (disch := decide) only [vWord, extract_low, extract_high]; exact extract_all _

theorem vWord_sa (c : BitVec 2) (g : BitVec 4) (op : BitVec 7) (vd : BitVec 6) (sa sx : BitVec 5) (vb : BitVec 6) (pm : BitVec 3) (la : BitVec 4) (sz : BitVec 2) (sy : BitVec 5) (imm : BitVec 15) :
    (c ++ (g ++ vWord op vd sa sx vb pm la sz sy imm)).extractLsb' 40 5 = sa := by
  simp (disch := decide) only [vWord, extract_low, extract_high]; exact extract_all _

theorem vWord_sx (c : BitVec 2) (g : BitVec 4) (op : BitVec 7) (vd : BitVec 6) (sa sx : BitVec 5) (vb : BitVec 6) (pm : BitVec 3) (la : BitVec 4) (sz : BitVec 2) (sy : BitVec 5) (imm : BitVec 15) :
    (c ++ (g ++ vWord op vd sa sx vb pm la sz sy imm)).extractLsb' 35 5 = sx := by
  simp (disch := decide) only [vWord, extract_low, extract_high]; exact extract_all _

theorem vWord_vb (c : BitVec 2) (g : BitVec 4) (op : BitVec 7) (vd : BitVec 6) (sa sx : BitVec 5) (vb : BitVec 6) (pm : BitVec 3) (la : BitVec 4) (sz : BitVec 2) (sy : BitVec 5) (imm : BitVec 15) :
    (c ++ (g ++ vWord op vd sa sx vb pm la sz sy imm)).extractLsb' 29 6 = vb := by
  simp (disch := decide) only [vWord, extract_low, extract_high]; exact extract_all _

theorem vWord_pm (c : BitVec 2) (g : BitVec 4) (op : BitVec 7) (vd : BitVec 6) (sa sx : BitVec 5) (vb : BitVec 6) (pm : BitVec 3) (la : BitVec 4) (sz : BitVec 2) (sy : BitVec 5) (imm : BitVec 15) :
    (c ++ (g ++ vWord op vd sa sx vb pm la sz sy imm)).extractLsb' 26 3 = pm := by
  simp (disch := decide) only [vWord, extract_low, extract_high]; exact extract_all _

theorem vWord_la (c : BitVec 2) (g : BitVec 4) (op : BitVec 7) (vd : BitVec 6) (sa sx : BitVec 5) (vb : BitVec 6) (pm : BitVec 3) (la : BitVec 4) (sz : BitVec 2) (sy : BitVec 5) (imm : BitVec 15) :
    (c ++ (g ++ vWord op vd sa sx vb pm la sz sy imm)).extractLsb' 22 4 = la := by
  simp (disch := decide) only [vWord, extract_low, extract_high]; exact extract_all _

theorem vWord_sz (c : BitVec 2) (g : BitVec 4) (op : BitVec 7) (vd : BitVec 6) (sa sx : BitVec 5) (vb : BitVec 6) (pm : BitVec 3) (la : BitVec 4) (sz : BitVec 2) (sy : BitVec 5) (imm : BitVec 15) :
    (c ++ (g ++ vWord op vd sa sx vb pm la sz sy imm)).extractLsb' 20 2 = sz := by
  simp (disch := decide) only [vWord, extract_low, extract_high]; exact extract_all _

theorem vWord_sy (c : BitVec 2) (g : BitVec 4) (op : BitVec 7) (vd : BitVec 6) (sa sx : BitVec 5) (vb : BitVec 6) (pm : BitVec 3) (la : BitVec 4) (sz : BitVec 2) (sy : BitVec 5) (imm : BitVec 15) :
    (c ++ (g ++ vWord op vd sa sx vb pm la sz sy imm)).extractLsb' 15 5 = sy := by
  simp (disch := decide) only [vWord, extract_low, extract_high]; exact extract_all _

theorem vWord_imm (c : BitVec 2) (g : BitVec 4) (op : BitVec 7) (vd : BitVec 6) (sa sx : BitVec 5) (vb : BitVec 6) (pm : BitVec 3) (la : BitVec 4) (sz : BitVec 2) (sy : BitVec 5) (imm : BitVec 15) :
    (c ++ (g ++ vWord op vd sa sx vb pm la sz sy imm)).extractLsb' 0 15 = imm := by
  simp (disch := decide) only [vWord, extract_low]; exact extract_all _


/-! ### `tWord` -/

theorem tWord_op (c : BitVec 2) (g : BitVec 4) (op : BitVec 6) (la fa fb fc : BitVec 4) (s1 s2 s3 : BitVec 5) (imm : BitVec 21) :
    (c ++ (g ++ tWord op la fa fb fc s1 s2 s3 imm)).extractLsb' 52 6 = op := by
  simp (disch := decide) only [tWord, extract_low, extract_high]; exact extract_all _

theorem tWord_la (c : BitVec 2) (g : BitVec 4) (op : BitVec 6) (la fa fb fc : BitVec 4) (s1 s2 s3 : BitVec 5) (imm : BitVec 21) :
    (c ++ (g ++ tWord op la fa fb fc s1 s2 s3 imm)).extractLsb' 48 4 = la := by
  simp (disch := decide) only [tWord, extract_low, extract_high]; exact extract_all _

theorem tWord_fa (c : BitVec 2) (g : BitVec 4) (op : BitVec 6) (la fa fb fc : BitVec 4) (s1 s2 s3 : BitVec 5) (imm : BitVec 21) :
    (c ++ (g ++ tWord op la fa fb fc s1 s2 s3 imm)).extractLsb' 44 4 = fa := by
  simp (disch := decide) only [tWord, extract_low, extract_high]; exact extract_all _

theorem tWord_fb (c : BitVec 2) (g : BitVec 4) (op : BitVec 6) (la fa fb fc : BitVec 4) (s1 s2 s3 : BitVec 5) (imm : BitVec 21) :
    (c ++ (g ++ tWord op la fa fb fc s1 s2 s3 imm)).extractLsb' 40 4 = fb := by
  simp (disch := decide) only [tWord, extract_low, extract_high]; exact extract_all _

theorem tWord_fc (c : BitVec 2) (g : BitVec 4) (op : BitVec 6) (la fa fb fc : BitVec 4) (s1 s2 s3 : BitVec 5) (imm : BitVec 21) :
    (c ++ (g ++ tWord op la fa fb fc s1 s2 s3 imm)).extractLsb' 36 4 = fc := by
  simp (disch := decide) only [tWord, extract_low, extract_high]; exact extract_all _

theorem tWord_s1 (c : BitVec 2) (g : BitVec 4) (op : BitVec 6) (la fa fb fc : BitVec 4) (s1 s2 s3 : BitVec 5) (imm : BitVec 21) :
    (c ++ (g ++ tWord op la fa fb fc s1 s2 s3 imm)).extractLsb' 31 5 = s1 := by
  simp (disch := decide) only [tWord, extract_low, extract_high]; exact extract_all _

theorem tWord_s2 (c : BitVec 2) (g : BitVec 4) (op : BitVec 6) (la fa fb fc : BitVec 4) (s1 s2 s3 : BitVec 5) (imm : BitVec 21) :
    (c ++ (g ++ tWord op la fa fb fc s1 s2 s3 imm)).extractLsb' 26 5 = s2 := by
  simp (disch := decide) only [tWord, extract_low, extract_high]; exact extract_all _

theorem tWord_s3 (c : BitVec 2) (g : BitVec 4) (op : BitVec 6) (la fa fb fc : BitVec 4) (s1 s2 s3 : BitVec 5) (imm : BitVec 21) :
    (c ++ (g ++ tWord op la fa fb fc s1 s2 s3 imm)).extractLsb' 21 5 = s3 := by
  simp (disch := decide) only [tWord, extract_low, extract_high]; exact extract_all _

theorem tWord_imm (c : BitVec 2) (g : BitVec 4) (op : BitVec 6) (la fa fb fc : BitVec 4) (s1 s2 s3 : BitVec 5) (imm : BitVec 21) :
    (c ++ (g ++ tWord op la fa fb fc s1 s2 s3 imm)).extractLsb' 0 21 = imm := by
  simp (disch := decide) only [tWord, extract_low]; exact extract_all _

/-! ### Codes -/

theorem qIdx_q5 (q : BitVec 3) : qIdx (q5 q) = q := by revert q; decide
theorem qOk_q5 (q : BitVec 3) : qOk (q5 q) = true := by revert q; decide
theorem pIdx_p6 (p : BitVec 3) : pIdx (p6 p) = p := by revert p; decide
theorem pOk_p6 (p : BitVec 3) : pOk (p6 p) = true := by revert p; decide

theorem esizeOf_code (z : ESize) : esizeOf z.code = some z := by cases z <;> decide
theorem redOf_code (op : RedOp) : redOf op.code = some op := by cases op <;> decide

theorem wide2_low (a : BitVec 2) : (0#2 ++ a).extractLsb' 0 2 = a := by revert a; decide
theorem wide2_high (a : BitVec 2) : (0#2 ++ a).extractLsb' 2 2 = 0 := by revert a; decide
theorem wide3_low (k : BitVec 3) : (0#1 ++ k).extractLsb' 0 3 = k := by revert k; decide
theorem wide3_high (k : BitVec 3) : (0#1 ++ k).extractLsb' 3 1 = 0 := by revert k; decide
theorem wide6_low (v : BitVec 6) : (0#15 ++ v).extractLsb' 0 6 = v := by
  simp (disch := decide) only [extract_low]; exact extract_all _
theorem wide6_high (v : BitVec 6) : (0#15 ++ v).extractLsb' 6 15 = 0 := by
  simp (disch := decide) only [extract_high]; exact extract_all _
theorem red_low (c : BitVec 4) : (0#11 ++ c).extractLsb' 0 4 = c := by revert c; decide
theorem red_high (c : BitVec 4) : (0#11 ++ c).extractLsb' 4 11 = 0 := by revert c; decide
theorem uni_low (q : BitVec 3) : (0#12 ++ q).extractLsb' 0 3 = q := by revert q; decide
theorem uni_high (q : BitVec 3) : (0#12 ++ q).extractLsb' 3 12 = 0 := by revert q; decide
theorem vtou_lane (b : BitVec 1) (e : BitVec 6) : (0#8 ++ (b ++ e)).extractLsb' 0 6 = e := by
  simp (disch := decide) only [extract_low]; exact extract_all _
theorem vtou_bit (b : BitVec 1) (e : BitVec 6) : (0#8 ++ (b ++ e)).getLsbD 6 = b.getLsbD 0 := by
  simp only [BitVec.getLsbD_append]; simp
theorem vtou_high (b : BitVec 1) (e : BitVec 6) : (0#8 ++ (b ++ e)).extractLsb' 7 8 = 0 := by
  simp (disch := decide) only [extract_high]; exact extract_all _
theorem fence_kind (c : BitVec 5) (k : BitVec 2) : (0#25 ++ (c ++ k)).extractLsb' 0 2 = k := by
  simp (disch := decide) only [extract_low]; exact extract_all _
theorem fence_course (c : BitVec 5) (k : BitVec 2) : (0#25 ++ (c ++ k)).extractLsb' 2 5 = c := by
  simp (disch := decide) only [extract_low, extract_high]; exact extract_all _
theorem fence_high (c : BitVec 5) (k : BitVec 2) : (0#25 ++ (c ++ k)).extractLsb' 7 25 = 0 := by
  simp (disch := decide) only [extract_high]; exact extract_all _
theorem lda_low (w : BitVec 1) (lag : BitVec 8) : (w ++ (lag ++ 0#6)).extractLsb' 0 6 = 0 := by
  simp (disch := decide) only [extract_low]; exact extract_all _
theorem lda_lag (w : BitVec 1) (lag : BitVec 8) : (w ++ (lag ++ 0#6)).extractLsb' 6 8 = lag := by
  simp (disch := decide) only [extract_low, extract_high]; exact extract_all _
theorem lda_wait (w : BitVec 1) (lag : BitVec 8) : (w ++ (lag ++ 0#6)).getLsbD 14 = w.getLsbD 0 := by
  simp only [BitVec.getLsbD_append]; simp
theorem tWord_zero (c : BitVec 2) (g : BitVec 4) (op : BitVec 6) :
    (c ++ (g ++ tWord op 0 0 0 0 0 0 0 0)).extractLsb' 0 52 = 0 := by
  simp (disch := decide) only [tWord, extract_low]; decide
theorem uSlot_zero (op : BitVec 6) (sd sa : BitVec 5) : (uSlot op sd sa 0 0).extractLsb' 0 10 = 0 := by
  simp (disch := decide) only [uSlot, extract_low]; decide
theorem dec_code (a b : BitVec 1) (g : BitVec 2) : (a ++ (b ++ g)).getLsbD 3 = a.getLsbD 0 := by
  simp only [BitVec.getLsbD_append]; simp
theorem dec_table (a b : BitVec 1) (g : BitVec 2) : (a ++ (b ++ g)).getLsbD 2 = b.getLsbD 0 := by
  simp only [BitVec.getLsbD_append]; simp
theorem dec_group (a b : BitVec 1) (g : BitVec 2) : (a ++ (b ++ g)).extractLsb' 0 2 = g := by
  simp (disch := decide) only [extract_low]; exact extract_all _
theorem bit1_get (b : Bool) : (bit1 b).getLsbD 0 = b := by cases b <;> decide

end Sys2Proof.Laws
end

