-- ==== Sys2Proof/Laws/Lanes.lean ====
section
/-! SUPPORT. The lanes of vectors laid side by side, and the bits of masks built from a test. -/

set_option Elab.async false

namespace Sys2Proof.Machine

theorem lanesNat_lt (f : Nat → BitVec 32) (n : Nat) : lanesNat f n < 2 ^ (32 * n) := by
  induction n with
  | zero => simp [lanesNat]
  | succ n ih =>
    have h : (f n).toNat + 1 ≤ 2 ^ 32 := (f n).isLt
    have e : 2 ^ (32 * (n + 1)) = 2 ^ 32 * 2 ^ (32 * n) := by rw [← pow_add]; congr 1; omega
    rw [lanesNat, e]
    have := Nat.mul_le_mul_right (2 ^ (32 * n)) h
    rw [Nat.add_mul] at this
    omega

/-- The lane of lanes laid side by side. -/
theorem lanesNat_lane (f : Nat → BitVec 32) (n j : Nat) (h : j < n) : lanesNat f n / 2 ^ (32 * j) % 2 ^ 32 = (f j).toNat := by
  induction n with
  | zero => omega
  | succ n ih =>
    rw [lanesNat]
    by_cases e : j = n
    · subst e
      rw [Nat.add_mul_div_right _ _ (by positivity), Nat.div_eq_of_lt (lanesNat_lt f j), Nat.zero_add]
      exact Nat.mod_eq_of_lt (f j).isLt
    · have hj : j < n := by omega
      have e1 : 2 ^ (32 * n) = 2 ^ (32 * j) * (2 ^ 32 * 2 ^ (32 * (n - j - 1))) := by
        rw [← pow_add, ← pow_add]; congr 1; omega
      rw [e1]
      have e2 : (f n).toNat * (2 ^ (32 * j) * (2 ^ 32 * 2 ^ (32 * (n - j - 1)))) =
          2 ^ (32 * j) * (2 ^ 32 * ((f n).toNat * 2 ^ (32 * (n - j - 1)))) := by ring
      rw [e2, Nat.add_mul_div_left _ _ (by positivity), Nat.add_mul_mod_self_left]
      exact ih hj

/-- Lane `j` of the register whose lanes are `f` is `f j`. -/
@[simp] theorem lane_ofLanes (f : Nat → BitVec 32) (j : Nat) (h : j < 64) : lane (ofLanes f) j = f j := by
  apply BitVec.eq_of_toNat_eq
  unfold lane ofLanes
  rw [BitVec.extractLsb'_toNat, BitVec.toNat_ofNat, Nat.mod_eq_of_lt (lanesNat_lt f 64), Nat.shiftRight_eq_div_pow]
  exact lanesNat_lane f 64 j h

/-- A masked result, lane by lane (R101). -/
@[simp] theorem lane_maskLanes (m : Word) (old : VReg) (f : Nat → BitVec 32) (j : Nat) (h : j < 64) :
    lane (maskLanes m old f) j = if m.getLsbD j then f j else lane old j := lane_ofLanes _ j h

theorem bitsNat_lt (f : Nat → Bool) (n : Nat) : bitsNat f n < 2 ^ n := by
  induction n with
  | zero => simp [bitsNat]
  | succ n ih => rw [bitsNat, pow_succ]; split <;> omega

theorem bitsNat_testBit (f : Nat → Bool) (n j : Nat) (h : j < n) : (bitsNat f n).testBit j = f j := by
  induction n with
  | zero => omega
  | succ n ih =>
    rw [bitsNat]
    by_cases e : j = n
    · subst e
      cases hf : f j
      · simpa using Nat.testBit_lt_two_pow (bitsNat_lt f j)
      · rw [if_pos rfl, Nat.add_comm, Nat.testBit_two_pow_add_eq, Nat.testBit_lt_two_pow (bitsNat_lt f j)]; rfl
    · have hj : j < n := by omega
      cases hf : f n
      · simpa using ih hj
      · rw [if_pos rfl, Nat.add_comm, Nat.testBit_two_pow_add_gt hj]; exact ih hj

/-- Bit `j` of the word of a lane test is the test of `j`. -/
@[simp] theorem getLsbD_ofBits (f : Nat → Bool) (j : Nat) (h : j < 64) : (ofBits f).getLsbD j = f j := by
  unfold ofBits
  rw [BitVec.getLsbD_ofNat, bitsNat_testBit f 64 j h]
  simp [h]

/-- A register is known by its lanes. -/
theorem vreg_ext (x y : VReg) (h : ∀ j, j < 64 → lane x j = lane y j) : x = y := by
  apply BitVec.eq_of_getLsbD_eq
  intro k hk
  have := congrArg (fun b : BitVec 32 => b.getLsbD (k % 32)) (h (k / 32) (by omega))
  simp only [lane, BitVec.getLsbD_extractLsb', Nat.mod_lt k (by norm_num : 32 > 0), decide_true, Bool.true_and] at this
  rwa [Nat.div_add_mod] at this

end Sys2Proof.Machine
end

