-- ==== Sys2Proof/Laws/PerInstr.lean ====
section
/-! SUPPORT. One lemma for each constructor of `Instr`: the encoding of a well-formed instruction is decoded as that
instruction, whatever its guard; a machine step has no encoding. -/

set_option Elab.async false

namespace Sys2Proof.Laws

/-- The long decoder of a class (R33). -/
def decodeClass (c : BitVec 2) (x : Word) : Option Instr :=
  match c.toNat with
  | 1 => decodeU x
  | 2 => decodeV x
  | 3 => decodeT x
  | _ => none

/-- The encoding of an instruction is decoded as it. -/
def Encodes.Statement (i : Instr) : Prop :=
  match i.form with
  | .uniform => i.wf = true → decodeUniform (encodeUniform i) = some i
  | .vector => i.wf = true → decodeVector (encodeVector i) = some i
  | .long => i.wf = true → ∀ g : BitVec 4, decodeClass (encodeLong i).1 ((encodeLong i).1 ++ (g ++ (encodeLong i).2)) = some i
  | .event => encodeUniform i = 0 ∧ encodeVector i = 0 ∧ encodeLong i = (0, 0)

theorem Encodes.add (sd : BitVec 5) (sa : BitVec 5) (sb : BitVec 5) : Encodes.Statement (.add sd sa sb) := by
  intro h
  show decodeUniform (uSlot 1 sd sa 0 sb) = some (.add sd sa sb)
  delta decodeUniform
  simp only [uSlot_op, uSlot_sd, uSlot_sa, uSlot_sh, uSlot_sb]
  simp_all [Instr.wf, whenOk]

theorem Encodes.addi (sd : BitVec 5) (sa : BitVec 5) (imm : BitVec 10) : Encodes.Statement (.addi sd sa imm) := by
  intro h
  show decodeUniform (uSlotImm 2 sd sa imm) = some (.addi sd sa imm)
  delta decodeUniform
  simp only [uSlotImm_op, uSlotImm_sd, uSlotImm_sa, uSlotImm_imm]
  rfl

theorem Encodes.sub (sd : BitVec 5) (sa : BitVec 5) (sb : BitVec 5) : Encodes.Statement (.sub sd sa sb) := by
  intro h
  show decodeUniform (uSlot 3 sd sa 0 sb) = some (.sub sd sa sb)
  delta decodeUniform
  simp only [uSlot_op, uSlot_sd, uSlot_sa, uSlot_sh, uSlot_sb]
  simp_all [Instr.wf, whenOk]

theorem Encodes.mul (sd : BitVec 5) (sa : BitVec 5) (sb : BitVec 5) : Encodes.Statement (.mul sd sa sb) := by
  intro h
  show decodeUniform (uSlot 4 sd sa 0 sb) = some (.mul sd sa sb)
  delta decodeUniform
  simp only [uSlot_op, uSlot_sd, uSlot_sa, uSlot_sh, uSlot_sb]
  simp_all [Instr.wf, whenOk]

theorem Encodes.mulh (sd : BitVec 5) (sa : BitVec 5) (sb : BitVec 5) : Encodes.Statement (.mulh sd sa sb) := by
  intro h
  show decodeUniform (uSlot 5 sd sa 0 sb) = some (.mulh sd sa sb)
  delta decodeUniform
  simp only [uSlot_op, uSlot_sd, uSlot_sa, uSlot_sh, uSlot_sb]
  simp_all [Instr.wf, whenOk]

theorem Encodes.mulhu (sd : BitVec 5) (sa : BitVec 5) (sb : BitVec 5) : Encodes.Statement (.mulhu sd sa sb) := by
  intro h
  show decodeUniform (uSlot 6 sd sa 0 sb) = some (.mulhu sd sa sb)
  delta decodeUniform
  simp only [uSlot_op, uSlot_sd, uSlot_sa, uSlot_sh, uSlot_sb]
  simp_all [Instr.wf, whenOk]

theorem Encodes.and (sd : BitVec 5) (sa : BitVec 5) (sb : BitVec 5) : Encodes.Statement (.and sd sa sb) := by
  intro h
  show decodeUniform (uSlot 7 sd sa 0 sb) = some (.and sd sa sb)
  delta decodeUniform
  simp only [uSlot_op, uSlot_sd, uSlot_sa, uSlot_sh, uSlot_sb]
  simp_all [Instr.wf, whenOk]

theorem Encodes.andi (sd : BitVec 5) (sa : BitVec 5) (imm : BitVec 10) : Encodes.Statement (.andi sd sa imm) := by
  intro h
  show decodeUniform (uSlotImm 8 sd sa imm) = some (.andi sd sa imm)
  delta decodeUniform
  simp only [uSlotImm_op, uSlotImm_sd, uSlotImm_sa, uSlotImm_imm]
  rfl

theorem Encodes.or (sd : BitVec 5) (sa : BitVec 5) (sb : BitVec 5) : Encodes.Statement (.or sd sa sb) := by
  intro h
  show decodeUniform (uSlot 9 sd sa 0 sb) = some (.or sd sa sb)
  delta decodeUniform
  simp only [uSlot_op, uSlot_sd, uSlot_sa, uSlot_sh, uSlot_sb]
  simp_all [Instr.wf, whenOk]

theorem Encodes.ori (sd : BitVec 5) (sa : BitVec 5) (imm : BitVec 10) : Encodes.Statement (.ori sd sa imm) := by
  intro h
  show decodeUniform (uSlotImm 10 sd sa imm) = some (.ori sd sa imm)
  delta decodeUniform
  simp only [uSlotImm_op, uSlotImm_sd, uSlotImm_sa, uSlotImm_imm]
  rfl

theorem Encodes.xor (sd : BitVec 5) (sa : BitVec 5) (sb : BitVec 5) : Encodes.Statement (.xor sd sa sb) := by
  intro h
  show decodeUniform (uSlot 11 sd sa 0 sb) = some (.xor sd sa sb)
  delta decodeUniform
  simp only [uSlot_op, uSlot_sd, uSlot_sa, uSlot_sh, uSlot_sb]
  simp_all [Instr.wf, whenOk]

theorem Encodes.xori (sd : BitVec 5) (sa : BitVec 5) (imm : BitVec 10) : Encodes.Statement (.xori sd sa imm) := by
  intro h
  show decodeUniform (uSlotImm 12 sd sa imm) = some (.xori sd sa imm)
  delta decodeUniform
  simp only [uSlotImm_op, uSlotImm_sd, uSlotImm_sa, uSlotImm_imm]
  rfl

theorem Encodes.shl (sd : BitVec 5) (sa : BitVec 5) (sb : BitVec 5) : Encodes.Statement (.shl sd sa sb) := by
  intro h
  show decodeUniform (uSlot 13 sd sa 0 sb) = some (.shl sd sa sb)
  delta decodeUniform
  simp only [uSlot_op, uSlot_sd, uSlot_sa, uSlot_sh, uSlot_sb]
  simp_all [Instr.wf, whenOk]

theorem Encodes.shli (sd : BitVec 5) (sa : BitVec 5) (imm : BitVec 10) : Encodes.Statement (.shli sd sa imm) := by
  intro h
  show decodeUniform (uSlotImm 14 sd sa imm) = some (.shli sd sa imm)
  delta decodeUniform
  simp only [uSlotImm_op, uSlotImm_sd, uSlotImm_sa, uSlotImm_imm]
  simp_all [Instr.wf, whenOk]

theorem Encodes.shr (sd : BitVec 5) (sa : BitVec 5) (sb : BitVec 5) : Encodes.Statement (.shr sd sa sb) := by
  intro h
  show decodeUniform (uSlot 15 sd sa 0 sb) = some (.shr sd sa sb)
  delta decodeUniform
  simp only [uSlot_op, uSlot_sd, uSlot_sa, uSlot_sh, uSlot_sb]
  simp_all [Instr.wf, whenOk]

theorem Encodes.shri (sd : BitVec 5) (sa : BitVec 5) (imm : BitVec 10) : Encodes.Statement (.shri sd sa imm) := by
  intro h
  show decodeUniform (uSlotImm 16 sd sa imm) = some (.shri sd sa imm)
  delta decodeUniform
  simp only [uSlotImm_op, uSlotImm_sd, uSlotImm_sa, uSlotImm_imm]
  simp_all [Instr.wf, whenOk]

theorem Encodes.sra (sd : BitVec 5) (sa : BitVec 5) (sb : BitVec 5) : Encodes.Statement (.sra sd sa sb) := by
  intro h
  show decodeUniform (uSlot 17 sd sa 0 sb) = some (.sra sd sa sb)
  delta decodeUniform
  simp only [uSlot_op, uSlot_sd, uSlot_sa, uSlot_sh, uSlot_sb]
  simp_all [Instr.wf, whenOk]

theorem Encodes.srai (sd : BitVec 5) (sa : BitVec 5) (imm : BitVec 10) : Encodes.Statement (.srai sd sa imm) := by
  intro h
  show decodeUniform (uSlotImm 18 sd sa imm) = some (.srai sd sa imm)
  delta decodeUniform
  simp only [uSlotImm_op, uSlotImm_sd, uSlotImm_sa, uSlotImm_imm]
  simp_all [Instr.wf, whenOk]

theorem Encodes.min (sd : BitVec 5) (sa : BitVec 5) (sb : BitVec 5) : Encodes.Statement (.min sd sa sb) := by
  intro h
  show decodeUniform (uSlot 19 sd sa 0 sb) = some (.min sd sa sb)
  delta decodeUniform
  simp only [uSlot_op, uSlot_sd, uSlot_sa, uSlot_sh, uSlot_sb]
  simp_all [Instr.wf, whenOk]

theorem Encodes.max (sd : BitVec 5) (sa : BitVec 5) (sb : BitVec 5) : Encodes.Statement (.max sd sa sb) := by
  intro h
  show decodeUniform (uSlot 20 sd sa 0 sb) = some (.max sd sa sb)
  delta decodeUniform
  simp only [uSlot_op, uSlot_sd, uSlot_sa, uSlot_sh, uSlot_sb]
  simp_all [Instr.wf, whenOk]

theorem Encodes.minu (sd : BitVec 5) (sa : BitVec 5) (sb : BitVec 5) : Encodes.Statement (.minu sd sa sb) := by
  intro h
  show decodeUniform (uSlot 21 sd sa 0 sb) = some (.minu sd sa sb)
  delta decodeUniform
  simp only [uSlot_op, uSlot_sd, uSlot_sa, uSlot_sh, uSlot_sb]
  simp_all [Instr.wf, whenOk]

theorem Encodes.maxu (sd : BitVec 5) (sa : BitVec 5) (sb : BitVec 5) : Encodes.Statement (.maxu sd sa sb) := by
  intro h
  show decodeUniform (uSlot 22 sd sa 0 sb) = some (.maxu sd sa sb)
  delta decodeUniform
  simp only [uSlot_op, uSlot_sd, uSlot_sa, uSlot_sh, uSlot_sb]
  simp_all [Instr.wf, whenOk]

theorem Encodes.addx (sd : BitVec 5) (sa : BitVec 5) (sb : BitVec 5) (sh : BitVec 5) : Encodes.Statement (.addx sd sa sb sh) := by
  intro h
  show decodeUniform (uSlot 23 sd sa sh sb) = some (.addx sd sa sb sh)
  delta decodeUniform
  simp only [uSlot_op, uSlot_sd, uSlot_sa, uSlot_sh, uSlot_sb]
  rfl

theorem Encodes.clz (sd : BitVec 5) (sa : BitVec 5) : Encodes.Statement (.clz sd sa) := by
  intro h
  show decodeUniform (uSlot 24 sd sa 0 0) = some (.clz sd sa)
  delta decodeUniform
  simp only [uSlot_op, uSlot_sd, uSlot_sa, uSlot_sh, uSlot_sb, uSlot_zero]
  simp_all [Instr.wf, whenOk]

theorem Encodes.popc (sd : BitVec 5) (sa : BitVec 5) : Encodes.Statement (.popc sd sa) := by
  intro h
  show decodeUniform (uSlot 25 sd sa 0 0) = some (.popc sd sa)
  delta decodeUniform
  simp only [uSlot_op, uSlot_sd, uSlot_sa, uSlot_sh, uSlot_sb, uSlot_zero]
  simp_all [Instr.wf, whenOk]

theorem Encodes.bext (sd : BitVec 5) (sa : BitVec 5) (sb : BitVec 5) : Encodes.Statement (.bext sd sa sb) := by
  intro h
  show decodeUniform (uSlot 26 sd sa 0 sb) = some (.bext sd sa sb)
  delta decodeUniform
  simp only [uSlot_op, uSlot_sd, uSlot_sa, uSlot_sh, uSlot_sb]
  simp_all [Instr.wf, whenOk]

theorem Encodes.sext (sd : BitVec 5) (sa : BitVec 5) (imm : BitVec 10) : Encodes.Statement (.sext sd sa imm) := by
  intro h
  show decodeUniform (uSlotImm 27 sd sa imm) = some (.sext sd sa imm)
  delta decodeUniform
  simp only [uSlotImm_op, uSlotImm_sd, uSlotImm_sa, uSlotImm_imm]
  simp_all [Instr.wf, whenOk]

theorem Encodes.slt (sd : BitVec 5) (sa : BitVec 5) (sb : BitVec 5) : Encodes.Statement (.slt sd sa sb) := by
  intro h
  show decodeUniform (uSlot 28 sd sa 0 sb) = some (.slt sd sa sb)
  delta decodeUniform
  simp only [uSlot_op, uSlot_sd, uSlot_sa, uSlot_sh, uSlot_sb]
  simp_all [Instr.wf, whenOk]

theorem Encodes.sltu (sd : BitVec 5) (sa : BitVec 5) (sb : BitVec 5) : Encodes.Statement (.sltu sd sa sb) := by
  intro h
  show decodeUniform (uSlot 29 sd sa 0 sb) = some (.sltu sd sa sb)
  delta decodeUniform
  simp only [uSlot_op, uSlot_sd, uSlot_sa, uSlot_sh, uSlot_sb]
  simp_all [Instr.wf, whenOk]

theorem Encodes.qeq (qd : BitVec 3) (sa : BitVec 5) (sb : BitVec 5) : Encodes.Statement (.qeq qd sa sb) := by
  intro h
  show decodeUniform (uSlot 30 (q5 qd) sa 0 sb) = some (.qeq qd sa sb)
  delta decodeUniform
  simp only [uSlot_op, uSlot_sd, uSlot_sa, uSlot_sh, uSlot_sb, qIdx_q5, qOk_q5]
  simp_all [Instr.wf, whenOk]

theorem Encodes.qne (qd : BitVec 3) (sa : BitVec 5) (sb : BitVec 5) : Encodes.Statement (.qne qd sa sb) := by
  intro h
  show decodeUniform (uSlot 31 (q5 qd) sa 0 sb) = some (.qne qd sa sb)
  delta decodeUniform
  simp only [uSlot_op, uSlot_sd, uSlot_sa, uSlot_sh, uSlot_sb, qIdx_q5, qOk_q5]
  simp_all [Instr.wf, whenOk]

theorem Encodes.qlt (qd : BitVec 3) (sa : BitVec 5) (sb : BitVec 5) : Encodes.Statement (.qlt qd sa sb) := by
  intro h
  show decodeUniform (uSlot 32 (q5 qd) sa 0 sb) = some (.qlt qd sa sb)
  delta decodeUniform
  simp only [uSlot_op, uSlot_sd, uSlot_sa, uSlot_sh, uSlot_sb, qIdx_q5, qOk_q5]
  simp_all [Instr.wf, whenOk]

theorem Encodes.qltu (qd : BitVec 3) (sa : BitVec 5) (sb : BitVec 5) : Encodes.Statement (.qltu qd sa sb) := by
  intro h
  show decodeUniform (uSlot 33 (q5 qd) sa 0 sb) = some (.qltu qd sa sb)
  delta decodeUniform
  simp only [uSlot_op, uSlot_sd, uSlot_sa, uSlot_sh, uSlot_sb, qIdx_q5, qOk_q5]
  simp_all [Instr.wf, whenOk]

theorem Encodes.qle (qd : BitVec 3) (sa : BitVec 5) (sb : BitVec 5) : Encodes.Statement (.qle qd sa sb) := by
  intro h
  show decodeUniform (uSlot 34 (q5 qd) sa 0 sb) = some (.qle qd sa sb)
  delta decodeUniform
  simp only [uSlot_op, uSlot_sd, uSlot_sa, uSlot_sh, uSlot_sb, qIdx_q5, qOk_q5]
  simp_all [Instr.wf, whenOk]

theorem Encodes.qleu (qd : BitVec 3) (sa : BitVec 5) (sb : BitVec 5) : Encodes.Statement (.qleu qd sa sb) := by
  intro h
  show decodeUniform (uSlot 35 (q5 qd) sa 0 sb) = some (.qleu qd sa sb)
  delta decodeUniform
  simp only [uSlot_op, uSlot_sd, uSlot_sa, uSlot_sh, uSlot_sb, qIdx_q5, qOk_q5]
  simp_all [Instr.wf, whenOk]

theorem Encodes.qeqi (qd : BitVec 3) (sa : BitVec 5) (imm : BitVec 10) : Encodes.Statement (.qeqi qd sa imm) := by
  intro h
  show decodeUniform (uSlotImm 36 (q5 qd) sa imm) = some (.qeqi qd sa imm)
  delta decodeUniform
  simp only [uSlotImm_op, uSlotImm_sd, uSlotImm_sa, uSlotImm_imm, qIdx_q5, qOk_q5]
  simp_all [Instr.wf, whenOk]

theorem Encodes.qlti (qd : BitVec 3) (sa : BitVec 5) (imm : BitVec 10) : Encodes.Statement (.qlti qd sa imm) := by
  intro h
  show decodeUniform (uSlotImm 37 (q5 qd) sa imm) = some (.qlti qd sa imm)
  delta decodeUniform
  simp only [uSlotImm_op, uSlotImm_sd, uSlotImm_sa, uSlotImm_imm, qIdx_q5, qOk_q5]
  simp_all [Instr.wf, whenOk]

theorem Encodes.qand (qd : BitVec 3) (qa : BitVec 3) (qb : BitVec 3) : Encodes.Statement (.qand qd qa qb) := by
  intro h
  show decodeUniform (uSlot 38 (q5 qd) (q5 qa) 0 (q5 qb)) = some (.qand qd qa qb)
  delta decodeUniform
  simp only [uSlot_op, uSlot_sd, uSlot_sa, uSlot_sh, uSlot_sb, qIdx_q5, qOk_q5]
  simp_all [Instr.wf, whenOk]

theorem Encodes.qor (qd : BitVec 3) (qa : BitVec 3) (qb : BitVec 3) : Encodes.Statement (.qor qd qa qb) := by
  intro h
  show decodeUniform (uSlot 39 (q5 qd) (q5 qa) 0 (q5 qb)) = some (.qor qd qa qb)
  delta decodeUniform
  simp only [uSlot_op, uSlot_sd, uSlot_sa, uSlot_sh, uSlot_sb, qIdx_q5, qOk_q5]
  simp_all [Instr.wf, whenOk]

theorem Encodes.qxor (qd : BitVec 3) (qa : BitVec 3) (qb : BitVec 3) : Encodes.Statement (.qxor qd qa qb) := by
  intro h
  show decodeUniform (uSlot 40 (q5 qd) (q5 qa) 0 (q5 qb)) = some (.qxor qd qa qb)
  delta decodeUniform
  simp only [uSlot_op, uSlot_sd, uSlot_sa, uSlot_sh, uSlot_sb, qIdx_q5, qOk_q5]
  simp_all [Instr.wf, whenOk]

theorem Encodes.qnot (qd : BitVec 3) (qa : BitVec 3) : Encodes.Statement (.qnot qd qa) := by
  intro h
  show decodeUniform (uSlot 41 (q5 qd) (q5 qa) 0 0) = some (.qnot qd qa)
  delta decodeUniform
  simp only [uSlot_op, uSlot_sd, uSlot_sa, uSlot_sh, uSlot_sb, uSlot_zero, qIdx_q5, qOk_q5]
  simp_all [Instr.wf, whenOk]

theorem Encodes.vadd (vd : BitVec 6) (va : BitVec 6) (vb : BitVec 6) (pm : BitVec 3) (w : Width) (uns : Bool) (sat : Bool) : Encodes.Statement (.vadd vd va vb pm w uns sat) := by
  intro h
  show decodeVector (vSlot 1 vd va vb pm (w.code ++ (bit1 uns ++ (0#1 ++ bit1 sat)))) = some (.vadd vd va vb pm w uns sat)
  delta decodeVector
  simp only [vSlot_op, vSlot_vd, vSlot_va, vSlot_vb, vSlot_pm, vSlot_mod]
  cases w <;> cases uns <;> cases sat <;> rfl

theorem Encodes.vsub (vd : BitVec 6) (va : BitVec 6) (vb : BitVec 6) (pm : BitVec 3) (w : Width) (uns : Bool) (sat : Bool) : Encodes.Statement (.vsub vd va vb pm w uns sat) := by
  intro h
  show decodeVector (vSlot 2 vd va vb pm (w.code ++ (bit1 uns ++ (0#1 ++ bit1 sat)))) = some (.vsub vd va vb pm w uns sat)
  delta decodeVector
  simp only [vSlot_op, vSlot_vd, vSlot_va, vSlot_vb, vSlot_pm, vSlot_mod]
  cases w <;> cases uns <;> cases sat <;> rfl

theorem Encodes.vmul (vd : BitVec 6) (va : BitVec 6) (vb : BitVec 6) (pm : BitVec 3) (w : Width) : Encodes.Statement (.vmul vd va vb pm w) := by
  intro h
  show decodeVector (vSlot 3 vd va vb pm (w.code ++ 0#3)) = some (.vmul vd va vb pm w)
  delta decodeVector
  simp only [vSlot_op, vSlot_vd, vSlot_va, vSlot_vb, vSlot_pm, vSlot_mod]
  cases w <;> rfl

theorem Encodes.vmulh (vd : BitVec 6) (va : BitVec 6) (vb : BitVec 6) (pm : BitVec 3) (w : Width) : Encodes.Statement (.vmulh vd va vb pm w) := by
  intro h
  show decodeVector (vSlot 4 vd va vb pm (w.code ++ 0#3)) = some (.vmulh vd va vb pm w)
  delta decodeVector
  simp only [vSlot_op, vSlot_vd, vSlot_va, vSlot_vb, vSlot_pm, vSlot_mod]
  cases w <;> rfl

theorem Encodes.vmulhu (vd : BitVec 6) (va : BitVec 6) (vb : BitVec 6) (pm : BitVec 3) (w : Width) : Encodes.Statement (.vmulhu vd va vb pm w) := by
  intro h
  show decodeVector (vSlot 5 vd va vb pm (w.code ++ 0#3)) = some (.vmulhu vd va vb pm w)
  delta decodeVector
  simp only [vSlot_op, vSlot_vd, vSlot_va, vSlot_vb, vSlot_pm, vSlot_mod]
  cases w <;> rfl

theorem Encodes.vand (vd : BitVec 6) (va : BitVec 6) (vb : BitVec 6) (pm : BitVec 3) : Encodes.Statement (.vand vd va vb pm) := by
  intro h
  show decodeVector (vSlot 6 vd va vb pm 0) = some (.vand vd va vb pm)
  delta decodeVector
  simp only [vSlot_op, vSlot_vd, vSlot_va, vSlot_vb, vSlot_pm, vSlot_mod]
  simp_all [Instr.wf, whenOk]

theorem Encodes.vor (vd : BitVec 6) (va : BitVec 6) (vb : BitVec 6) (pm : BitVec 3) : Encodes.Statement (.vor vd va vb pm) := by
  intro h
  show decodeVector (vSlot 7 vd va vb pm 0) = some (.vor vd va vb pm)
  delta decodeVector
  simp only [vSlot_op, vSlot_vd, vSlot_va, vSlot_vb, vSlot_pm, vSlot_mod]
  simp_all [Instr.wf, whenOk]

theorem Encodes.vxor (vd : BitVec 6) (va : BitVec 6) (vb : BitVec 6) (pm : BitVec 3) : Encodes.Statement (.vxor vd va vb pm) := by
  intro h
  show decodeVector (vSlot 8 vd va vb pm 0) = some (.vxor vd va vb pm)
  delta decodeVector
  simp only [vSlot_op, vSlot_vd, vSlot_va, vSlot_vb, vSlot_pm, vSlot_mod]
  simp_all [Instr.wf, whenOk]

theorem Encodes.vshl (vd : BitVec 6) (va : BitVec 6) (vb : BitVec 6) (pm : BitVec 3) (w : Width) : Encodes.Statement (.vshl vd va vb pm w) := by
  intro h
  show decodeVector (vSlot 9 vd va vb pm (w.code ++ 0#3)) = some (.vshl vd va vb pm w)
  delta decodeVector
  simp only [vSlot_op, vSlot_vd, vSlot_va, vSlot_vb, vSlot_pm, vSlot_mod]
  cases w <;> rfl

theorem Encodes.vshr (vd : BitVec 6) (va : BitVec 6) (vb : BitVec 6) (pm : BitVec 3) (w : Width) : Encodes.Statement (.vshr vd va vb pm w) := by
  intro h
  show decodeVector (vSlot 10 vd va vb pm (w.code ++ 0#3)) = some (.vshr vd va vb pm w)
  delta decodeVector
  simp only [vSlot_op, vSlot_vd, vSlot_va, vSlot_vb, vSlot_pm, vSlot_mod]
  cases w <;> rfl

theorem Encodes.vsra (vd : BitVec 6) (va : BitVec 6) (vb : BitVec 6) (pm : BitVec 3) (w : Width) : Encodes.Statement (.vsra vd va vb pm w) := by
  intro h
  show decodeVector (vSlot 11 vd va vb pm (w.code ++ 0#3)) = some (.vsra vd va vb pm w)
  delta decodeVector
  simp only [vSlot_op, vSlot_vd, vSlot_va, vSlot_vb, vSlot_pm, vSlot_mod]
  cases w <;> rfl

theorem Encodes.vmin (vd : BitVec 6) (va : BitVec 6) (vb : BitVec 6) (pm : BitVec 3) (w : Width) : Encodes.Statement (.vmin vd va vb pm w) := by
  intro h
  show decodeVector (vSlot 12 vd va vb pm (w.code ++ 0#3)) = some (.vmin vd va vb pm w)
  delta decodeVector
  simp only [vSlot_op, vSlot_vd, vSlot_va, vSlot_vb, vSlot_pm, vSlot_mod]
  cases w <;> rfl

theorem Encodes.vmax (vd : BitVec 6) (va : BitVec 6) (vb : BitVec 6) (pm : BitVec 3) (w : Width) : Encodes.Statement (.vmax vd va vb pm w) := by
  intro h
  show decodeVector (vSlot 13 vd va vb pm (w.code ++ 0#3)) = some (.vmax vd va vb pm w)
  delta decodeVector
  simp only [vSlot_op, vSlot_vd, vSlot_va, vSlot_vb, vSlot_pm, vSlot_mod]
  cases w <;> rfl

theorem Encodes.vminu (vd : BitVec 6) (va : BitVec 6) (vb : BitVec 6) (pm : BitVec 3) (w : Width) : Encodes.Statement (.vminu vd va vb pm w) := by
  intro h
  show decodeVector (vSlot 14 vd va vb pm (w.code ++ 0#3)) = some (.vminu vd va vb pm w)
  delta decodeVector
  simp only [vSlot_op, vSlot_vd, vSlot_va, vSlot_vb, vSlot_pm, vSlot_mod]
  cases w <;> rfl

theorem Encodes.vmaxu (vd : BitVec 6) (va : BitVec 6) (vb : BitVec 6) (pm : BitVec 3) (w : Width) : Encodes.Statement (.vmaxu vd va vb pm w) := by
  intro h
  show decodeVector (vSlot 15 vd va vb pm (w.code ++ 0#3)) = some (.vmaxu vd va vb pm w)
  delta decodeVector
  simp only [vSlot_op, vSlot_vd, vSlot_va, vSlot_vb, vSlot_pm, vSlot_mod]
  cases w <;> rfl

theorem Encodes.vsel (vd : BitVec 6) (va : BitVec 6) (vb : BitVec 6) (pm : BitVec 3) : Encodes.Statement (.vsel vd va vb pm) := by
  intro h
  show decodeVector (vSlot 16 vd va vb pm 0) = some (.vsel vd va vb pm)
  delta decodeVector
  simp only [vSlot_op, vSlot_vd, vSlot_va, vSlot_vb, vSlot_pm, vSlot_mod]
  simp_all [Instr.wf, whenOk]

theorem Encodes.viota (vd : BitVec 6) (pm : BitVec 3) : Encodes.Statement (.viota vd pm) := by
  intro h
  show decodeVector (vSlot 17 vd 0 0 pm 0) = some (.viota vd pm)
  delta decodeVector
  simp only [vSlot_op, vSlot_vd, vSlot_va, vSlot_vb, vSlot_pm, vSlot_mod]
  simp_all [Instr.wf, whenOk]

theorem Encodes.vfadd (vd : BitVec 6) (va : BitVec 6) (vb : BitVec 6) (pm : BitVec 3) (t : FTyp) (r : RMode) : Encodes.Statement (.vfadd vd va vb pm t r) := by
  intro h
  show decodeVector (vSlot 18 vd va vb pm (t.code ++ r.code)) = some (.vfadd vd va vb pm t r)
  delta decodeVector
  simp only [vSlot_op, vSlot_vd, vSlot_va, vSlot_vb, vSlot_pm, vSlot_mod]
  cases t <;> cases r <;> rfl

theorem Encodes.vfsub (vd : BitVec 6) (va : BitVec 6) (vb : BitVec 6) (pm : BitVec 3) (t : FTyp) (r : RMode) : Encodes.Statement (.vfsub vd va vb pm t r) := by
  intro h
  show decodeVector (vSlot 19 vd va vb pm (t.code ++ r.code)) = some (.vfsub vd va vb pm t r)
  delta decodeVector
  simp only [vSlot_op, vSlot_vd, vSlot_va, vSlot_vb, vSlot_pm, vSlot_mod]
  cases t <;> cases r <;> rfl

theorem Encodes.vfmul (vd : BitVec 6) (va : BitVec 6) (vb : BitVec 6) (pm : BitVec 3) (t : FTyp) (r : RMode) : Encodes.Statement (.vfmul vd va vb pm t r) := by
  intro h
  show decodeVector (vSlot 20 vd va vb pm (t.code ++ r.code)) = some (.vfmul vd va vb pm t r)
  delta decodeVector
  simp only [vSlot_op, vSlot_vd, vSlot_va, vSlot_vb, vSlot_pm, vSlot_mod]
  cases t <;> cases r <;> rfl

theorem Encodes.vfma (vd : BitVec 6) (va : BitVec 6) (vb : BitVec 6) (pm : BitVec 3) (t : FTyp) (r : RMode) : Encodes.Statement (.vfma vd va vb pm t r) := by
  intro h
  show decodeVector (vSlot 21 vd va vb pm (t.code ++ r.code)) = some (.vfma vd va vb pm t r)
  delta decodeVector
  simp only [vSlot_op, vSlot_vd, vSlot_va, vSlot_vb, vSlot_pm, vSlot_mod]
  cases t <;> cases r <;> rfl

theorem Encodes.vfms (vd : BitVec 6) (va : BitVec 6) (vb : BitVec 6) (pm : BitVec 3) (t : FTyp) (r : RMode) : Encodes.Statement (.vfms vd va vb pm t r) := by
  intro h
  show decodeVector (vSlot 22 vd va vb pm (t.code ++ r.code)) = some (.vfms vd va vb pm t r)
  delta decodeVector
  simp only [vSlot_op, vSlot_vd, vSlot_va, vSlot_vb, vSlot_pm, vSlot_mod]
  cases t <;> cases r <;> rfl

theorem Encodes.vfmin (vd : BitVec 6) (va : BitVec 6) (vb : BitVec 6) (pm : BitVec 3) (t : FTyp) (r : RMode) : Encodes.Statement (.vfmin vd va vb pm t r) := by
  intro h
  show decodeVector (vSlot 23 vd va vb pm (t.code ++ r.code)) = some (.vfmin vd va vb pm t r)
  delta decodeVector
  simp only [vSlot_op, vSlot_vd, vSlot_va, vSlot_vb, vSlot_pm, vSlot_mod]
  cases t <;> cases r <;> rfl

theorem Encodes.vfmax (vd : BitVec 6) (va : BitVec 6) (vb : BitVec 6) (pm : BitVec 3) (t : FTyp) (r : RMode) : Encodes.Statement (.vfmax vd va vb pm t r) := by
  intro h
  show decodeVector (vSlot 24 vd va vb pm (t.code ++ r.code)) = some (.vfmax vd va vb pm t r)
  delta decodeVector
  simp only [vSlot_op, vSlot_vd, vSlot_va, vSlot_vb, vSlot_pm, vSlot_mod]
  cases t <;> cases r <;> rfl

theorem Encodes.vfdiv (vd : BitVec 6) (va : BitVec 6) (vb : BitVec 6) (pm : BitVec 3) (t : FTyp) (r : RMode) : Encodes.Statement (.vfdiv vd va vb pm t r) := by
  intro h
  show decodeVector (vSlot 25 vd va vb pm (t.code ++ r.code)) = some (.vfdiv vd va vb pm t r)
  delta decodeVector
  simp only [vSlot_op, vSlot_vd, vSlot_va, vSlot_vb, vSlot_pm, vSlot_mod]
  cases t <;> cases r <;> rfl

theorem Encodes.vfsqrt (vd : BitVec 6) (va : BitVec 6) (pm : BitVec 3) (t : FTyp) (r : RMode) : Encodes.Statement (.vfsqrt vd va pm t r) := by
  intro h
  show decodeVector (vSlot 26 vd va 0 pm (t.code ++ r.code)) = some (.vfsqrt vd va pm t r)
  delta decodeVector
  simp only [vSlot_op, vSlot_vd, vSlot_va, vSlot_vb, vSlot_pm, vSlot_mod]
  cases t <;> cases r <;> rfl

theorem Encodes.vfrsq (vd : BitVec 6) (va : BitVec 6) (pm : BitVec 3) (t : FTyp) (r : RMode) : Encodes.Statement (.vfrsq vd va pm t r) := by
  intro h
  show decodeVector (vSlot 27 vd va 0 pm (t.code ++ r.code)) = some (.vfrsq vd va pm t r)
  delta decodeVector
  simp only [vSlot_op, vSlot_vd, vSlot_va, vSlot_vb, vSlot_pm, vSlot_mod]
  cases t <;> cases r <;> rfl

theorem Encodes.vfexp2 (vd : BitVec 6) (va : BitVec 6) (pm : BitVec 3) (t : FTyp) (r : RMode) : Encodes.Statement (.vfexp2 vd va pm t r) := by
  intro h
  show decodeVector (vSlot 28 vd va 0 pm (t.code ++ r.code)) = some (.vfexp2 vd va pm t r)
  delta decodeVector
  simp only [vSlot_op, vSlot_vd, vSlot_va, vSlot_vb, vSlot_pm, vSlot_mod]
  cases t <;> cases r <;> rfl

theorem Encodes.vflog2 (vd : BitVec 6) (va : BitVec 6) (pm : BitVec 3) (t : FTyp) (r : RMode) : Encodes.Statement (.vflog2 vd va pm t r) := by
  intro h
  show decodeVector (vSlot 29 vd va 0 pm (t.code ++ r.code)) = some (.vflog2 vd va pm t r)
  delta decodeVector
  simp only [vSlot_op, vSlot_vd, vSlot_va, vSlot_vb, vSlot_pm, vSlot_mod]
  cases t <;> cases r <;> rfl

theorem Encodes.vfabs (vd : BitVec 6) (va : BitVec 6) (pm : BitVec 3) (t : FTyp) : Encodes.Statement (.vfabs vd va pm t) := by
  intro h
  show decodeVector (vSlot 30 vd va 0 pm (t.code ++ 0#2)) = some (.vfabs vd va pm t)
  delta decodeVector
  simp only [vSlot_op, vSlot_vd, vSlot_va, vSlot_vb, vSlot_pm, vSlot_mod]
  cases t <;> rfl

theorem Encodes.vfneg (vd : BitVec 6) (va : BitVec 6) (pm : BitVec 3) (t : FTyp) : Encodes.Statement (.vfneg vd va pm t) := by
  intro h
  show decodeVector (vSlot 31 vd va 0 pm (t.code ++ 0#2)) = some (.vfneg vd va pm t)
  delta decodeVector
  simp only [vSlot_op, vSlot_vd, vSlot_va, vSlot_vb, vSlot_pm, vSlot_mod]
  cases t <;> rfl

theorem Encodes.vcmpeq (pd : BitVec 3) (va : BitVec 6) (vb : BitVec 6) (pm : BitVec 3) (w : Width) : Encodes.Statement (.vcmpeq pd va vb pm w) := by
  intro h
  show decodeVector (vSlot 32 (p6 pd) va vb pm (w.code ++ 0#3)) = some (.vcmpeq pd va vb pm w)
  delta decodeVector
  simp only [vSlot_op, vSlot_vd, vSlot_va, vSlot_vb, vSlot_pm, vSlot_mod, pIdx_p6, pOk_p6]
  cases w <;> rfl

theorem Encodes.vcmplt (pd : BitVec 3) (va : BitVec 6) (vb : BitVec 6) (pm : BitVec 3) (w : Width) (uns : Bool) : Encodes.Statement (.vcmplt pd va vb pm w uns) := by
  intro h
  show decodeVector (vSlot 33 (p6 pd) va vb pm (w.code ++ (bit1 uns ++ 0#2))) = some (.vcmplt pd va vb pm w uns)
  delta decodeVector
  simp only [vSlot_op, vSlot_vd, vSlot_va, vSlot_vb, vSlot_pm, vSlot_mod, pIdx_p6, pOk_p6]
  cases w <;> cases uns <;> rfl

theorem Encodes.vcmple (pd : BitVec 3) (va : BitVec 6) (vb : BitVec 6) (pm : BitVec 3) (w : Width) (uns : Bool) : Encodes.Statement (.vcmple pd va vb pm w uns) := by
  intro h
  show decodeVector (vSlot 34 (p6 pd) va vb pm (w.code ++ (bit1 uns ++ 0#2))) = some (.vcmple pd va vb pm w uns)
  delta decodeVector
  simp only [vSlot_op, vSlot_vd, vSlot_va, vSlot_vb, vSlot_pm, vSlot_mod, pIdx_p6, pOk_p6]
  cases w <;> cases uns <;> rfl

theorem Encodes.vfcmp (pd : BitVec 3) (va : BitVec 6) (vb : BitVec 6) (pm : BitVec 3) (t : FTyp) (c : FCond) : Encodes.Statement (.vfcmp pd va vb pm t c) := by
  intro h
  show decodeVector (vSlot 35 (p6 pd) va vb pm (t.code ++ c.code)) = some (.vfcmp pd va vb pm t c)
  delta decodeVector
  simp only [vSlot_op, vSlot_vd, vSlot_va, vSlot_vb, vSlot_pm, vSlot_mod, pIdx_p6, pOk_p6]
  cases t <;> cases c <;> rfl

theorem Encodes.pand (pd : BitVec 3) (pa : BitVec 3) (pb : BitVec 3) : Encodes.Statement (.pand pd pa pb) := by
  intro h
  show decodeVector (vSlot 36 (p6 pd) (p6 pa) (p6 pb) 0 0) = some (.pand pd pa pb)
  delta decodeVector
  simp only [vSlot_op, vSlot_vd, vSlot_va, vSlot_vb, vSlot_pm, vSlot_mod, pIdx_p6, pOk_p6]
  simp_all [Instr.wf, whenOk]

theorem Encodes.por (pd : BitVec 3) (pa : BitVec 3) (pb : BitVec 3) : Encodes.Statement (.por pd pa pb) := by
  intro h
  show decodeVector (vSlot 37 (p6 pd) (p6 pa) (p6 pb) 0 0) = some (.por pd pa pb)
  delta decodeVector
  simp only [vSlot_op, vSlot_vd, vSlot_va, vSlot_vb, vSlot_pm, vSlot_mod, pIdx_p6, pOk_p6]
  simp_all [Instr.wf, whenOk]

theorem Encodes.pandn (pd : BitVec 3) (pa : BitVec 3) (pb : BitVec 3) : Encodes.Statement (.pandn pd pa pb) := by
  intro h
  show decodeVector (vSlot 38 (p6 pd) (p6 pa) (p6 pb) 0 0) = some (.pandn pd pa pb)
  delta decodeVector
  simp only [vSlot_op, vSlot_vd, vSlot_va, vSlot_vb, vSlot_pm, vSlot_mod, pIdx_p6, pOk_p6]
  simp_all [Instr.wf, whenOk]

theorem Encodes.pxor (pd : BitVec 3) (pa : BitVec 3) (pb : BitVec 3) : Encodes.Statement (.pxor pd pa pb) := by
  intro h
  show decodeVector (vSlot 39 (p6 pd) (p6 pa) (p6 pb) 0 0) = some (.pxor pd pa pb)
  delta decodeVector
  simp only [vSlot_op, vSlot_vd, vSlot_va, vSlot_vb, vSlot_pm, vSlot_mod, pIdx_p6, pOk_p6]
  simp_all [Instr.wf, whenOk]

theorem Encodes.vcvt (vd : BitVec 6) (va : BitVec 6) (pm : BitVec 3) (c : CvtCode) : Encodes.Statement (.vcvt vd va pm c) := by
  intro h
  show decodeVector (vSlot 40 vd va 0 pm c.code) = some (.vcvt vd va pm c)
  delta decodeVector
  simp only [vSlot_op, vSlot_vd, vSlot_va, vSlot_vb, vSlot_pm, vSlot_mod]
  cases c <;> rfl

theorem Encodes.vcvtPair (vd : BitVec 6) (va : BitVec 6) (vb : BitVec 6) (pm : BitVec 3) (c : PairCode) : Encodes.Statement (.vcvtPair vd va vb pm c) := by
  intro h
  show decodeVector (vSlot 40 vd va vb pm c.code) = some (.vcvtPair vd va vb pm c)
  delta decodeVector
  simp only [vSlot_op, vSlot_vd, vSlot_va, vSlot_vb, vSlot_pm, vSlot_mod]
  cases c <;> rfl

theorem Encodes.vdec (vd : BitVec 6) (va : BitVec 6) (pm : BitVec 3) (c4 : Bool) (t1 : Bool) (grp : BitVec 2) : Encodes.Statement (.vdec vd va pm c4 t1 grp) := by
  intro h
  show decodeVector (vSlot 41 vd va 0 pm (bit1 c4 ++ (bit1 t1 ++ grp))) = some (.vdec vd va pm c4 t1 grp)
  delta decodeVector
  simp only [vSlot_op, vSlot_vd, vSlot_va, vSlot_vb, vSlot_pm, vSlot_mod, dec_code, dec_table, dec_group, bit1_get]
  simp_all [Instr.wf, whenOk]

theorem Encodes.venc (vd : BitVec 6) (va : BitVec 6) (pm : BitVec 3) (c4 : Bool) (t1 : Bool) (inf : Bool) : Encodes.Statement (.venc vd va pm c4 t1 inf) := by
  intro h
  show decodeVector (vSlot 42 vd va 0 pm (bit1 c4 ++ (bit1 t1 ++ (bit1 inf ++ 0#1)))) = some (.venc vd va pm c4 t1 inf)
  delta decodeVector
  simp only [vSlot_op, vSlot_vd, vSlot_va, vSlot_vb, vSlot_pm, vSlot_mod]
  cases c4 <;> cases t1 <;> cases inf <;> rfl

theorem Encodes.vshuf (vd : BitVec 6) (va : BitVec 6) (vb : BitVec 6) (pm : BitVec 3) : Encodes.Statement (.vshuf vd va vb pm) := by
  intro h
  show decodeVector (vSlot 43 vd va vb pm 0) = some (.vshuf vd va vb pm)
  delta decodeVector
  simp only [vSlot_op, vSlot_vd, vSlot_va, vSlot_vb, vSlot_pm, vSlot_mod]
  simp_all [Instr.wf, whenOk]

theorem Encodes.vroti (vd : BitVec 6) (va : BitVec 6) (n : BitVec 6) (pm : BitVec 3) : Encodes.Statement (.vroti vd va n pm) := by
  intro h
  show decodeVector (vSlot 44 vd va n pm 0) = some (.vroti vd va n pm)
  delta decodeVector
  simp only [vSlot_op, vSlot_vd, vSlot_va, vSlot_vb, vSlot_pm, vSlot_mod]
  simp_all [Instr.wf, whenOk]

theorem Encodes.vscan (vd : BitVec 6) (va : BitVec 6) (pm : BitVec 3) (op : ScanOp) : Encodes.Statement (.vscan vd va pm op) := by
  intro h
  show decodeVector (vSlot 45 vd va 0 pm op.code) = some (.vscan vd va pm op)
  delta decodeVector
  simp only [vSlot_op, vSlot_vd, vSlot_va, vSlot_vb, vSlot_pm, vSlot_mod]
  cases op <;> rfl

theorem Encodes.vcmprs (vd : BitVec 6) (va : BitVec 6) (pm : BitVec 3) : Encodes.Statement (.vcmprs vd va pm) := by
  intro h
  show decodeVector (vSlot 46 vd va 0 pm 0) = some (.vcmprs vd va pm)
  delta decodeVector
  simp only [vSlot_op, vSlot_vd, vSlot_va, vSlot_vb, vSlot_pm, vSlot_mod]
  simp_all [Instr.wf, whenOk]

theorem Encodes.li (sd : BitVec 5) (imm : BitVec 32) : Encodes.Statement (.li sd imm) := by
  intro h g
  show decodeU (1#2 ++ (g ++ uWord 0 sd 0 0 0 0 imm)) = some (.li sd imm)
  delta decodeU
  simp only [uWord_op, uWord_sd, uWord_sa, uWord_sb, uWord_la, uWord_x, uWord_imm]
  simp_all [Instr.wf, whenOk]

theorem Encodes.lih (sd : BitVec 5) (imm : BitVec 32) : Encodes.Statement (.lih sd imm) := by
  intro h g
  show decodeU (1#2 ++ (g ++ uWord 1 sd 0 0 0 0 imm)) = some (.lih sd imm)
  delta decodeU
  simp only [uWord_op, uWord_sd, uWord_sa, uWord_sb, uWord_la, uWord_x, uWord_imm]
  simp_all [Instr.wf, whenOk]

theorem Encodes.addil (sd : BitVec 5) (sa : BitVec 5) (imm : BitVec 32) : Encodes.Statement (.addil sd sa imm) := by
  intro h g
  show decodeU (1#2 ++ (g ++ uWord 2 sd sa 0 0 0 imm)) = some (.addil sd sa imm)
  delta decodeU
  simp only [uWord_op, uWord_sd, uWord_sa, uWord_sb, uWord_la, uWord_x, uWord_imm]
  simp_all [Instr.wf, whenOk]

theorem Encodes.ld (sd : BitVec 5) (sa : BitVec 5) (la : BitVec 4) (w4 : Bool) (imm : BitVec 32) : Encodes.Statement (.ld sd sa la w4 imm) := by
  intro h g
  show decodeU (1#2 ++ (g ++ uWord 3 sd sa 0 la (bit1 w4) imm)) = some (.ld sd sa la w4 imm)
  delta decodeU
  simp only [uWord_op, uWord_sd, uWord_sa, uWord_sb, uWord_la, uWord_x, uWord_imm, bit1_get]
  simp_all [Instr.wf, whenOk]

theorem Encodes.st (sa : BitVec 5) (sb : BitVec 5) (w4 : Bool) (imm : BitVec 32) : Encodes.Statement (.st sa sb w4 imm) := by
  intro h g
  show decodeU (1#2 ++ (g ++ uWord 4 0 sa sb 0 (bit1 w4) imm)) = some (.st sa sb w4 imm)
  delta decodeU
  simp only [uWord_op, uWord_sd, uWord_sa, uWord_sb, uWord_la, uWord_x, uWord_imm, bit1_get]
  simp_all [Instr.wf, whenOk]

theorem Encodes.aadd (sd : BitVec 5) (sa : BitVec 5) (sb : BitVec 5) (la : BitVec 4) (w4 : Bool) (imm : BitVec 32) : Encodes.Statement (.aadd sd sa sb la w4 imm) := by
  intro h g
  show decodeU (1#2 ++ (g ++ uWord 5 sd sa sb la (bit1 w4) imm)) = some (.aadd sd sa sb la w4 imm)
  delta decodeU
  simp only [uWord_op, uWord_sd, uWord_sa, uWord_sb, uWord_la, uWord_x, uWord_imm, bit1_get]
  rfl

theorem Encodes.amin (sd : BitVec 5) (sa : BitVec 5) (sb : BitVec 5) (la : BitVec 4) (w4 : Bool) (imm : BitVec 32) : Encodes.Statement (.amin sd sa sb la w4 imm) := by
  intro h g
  show decodeU (1#2 ++ (g ++ uWord 6 sd sa sb la (bit1 w4) imm)) = some (.amin sd sa sb la w4 imm)
  delta decodeU
  simp only [uWord_op, uWord_sd, uWord_sa, uWord_sb, uWord_la, uWord_x, uWord_imm, bit1_get]
  rfl

theorem Encodes.amax (sd : BitVec 5) (sa : BitVec 5) (sb : BitVec 5) (la : BitVec 4) (w4 : Bool) (imm : BitVec 32) : Encodes.Statement (.amax sd sa sb la w4 imm) := by
  intro h g
  show decodeU (1#2 ++ (g ++ uWord 7 sd sa sb la (bit1 w4) imm)) = some (.amax sd sa sb la w4 imm)
  delta decodeU
  simp only [uWord_op, uWord_sd, uWord_sa, uWord_sb, uWord_la, uWord_x, uWord_imm, bit1_get]
  rfl

theorem Encodes.aand (sd : BitVec 5) (sa : BitVec 5) (sb : BitVec 5) (la : BitVec 4) (w4 : Bool) (imm : BitVec 32) : Encodes.Statement (.aand sd sa sb la w4 imm) := by
  intro h g
  show decodeU (1#2 ++ (g ++ uWord 8 sd sa sb la (bit1 w4) imm)) = some (.aand sd sa sb la w4 imm)
  delta decodeU
  simp only [uWord_op, uWord_sd, uWord_sa, uWord_sb, uWord_la, uWord_x, uWord_imm, bit1_get]
  rfl

theorem Encodes.aor (sd : BitVec 5) (sa : BitVec 5) (sb : BitVec 5) (la : BitVec 4) (w4 : Bool) (imm : BitVec 32) : Encodes.Statement (.aor sd sa sb la w4 imm) := by
  intro h g
  show decodeU (1#2 ++ (g ++ uWord 9 sd sa sb la (bit1 w4) imm)) = some (.aor sd sa sb la w4 imm)
  delta decodeU
  simp only [uWord_op, uWord_sd, uWord_sa, uWord_sb, uWord_la, uWord_x, uWord_imm, bit1_get]
  rfl

theorem Encodes.axch (sd : BitVec 5) (sa : BitVec 5) (sb : BitVec 5) (la : BitVec 4) (w4 : Bool) (imm : BitVec 32) : Encodes.Statement (.axch sd sa sb la w4 imm) := by
  intro h g
  show decodeU (1#2 ++ (g ++ uWord 10 sd sa sb la (bit1 w4) imm)) = some (.axch sd sa sb la w4 imm)
  delta decodeU
  simp only [uWord_op, uWord_sd, uWord_sa, uWord_sb, uWord_la, uWord_x, uWord_imm, bit1_get]
  rfl

theorem Encodes.acas (sd : BitVec 5) (sa : BitVec 5) (sb : BitVec 5) (la : BitVec 4) (w4 : Bool) (imm : BitVec 32) : Encodes.Statement (.acas sd sa sb la w4 imm) := by
  intro h g
  show decodeU (1#2 ++ (g ++ uWord 11 sd sa sb la (bit1 w4) imm)) = some (.acas sd sa sb la w4 imm)
  delta decodeU
  simp only [uWord_op, uWord_sd, uWord_sa, uWord_sb, uWord_la, uWord_x, uWord_imm, bit1_get]
  rfl

theorem Encodes.fence (k : FenceKind) (course : BitVec 5) : Encodes.Statement (.fence k course) := by
  intro h g
  show decodeU (1#2 ++ (g ++ uWord 12 0 0 0 0 0 (0#25 ++ (course ++ k.code)))) = some (.fence k course)
  delta decodeU
  simp only [uWord_op, uWord_sd, uWord_sa, uWord_sb, uWord_la, uWord_x, uWord_imm, fence_kind, fence_course, fence_high]
  cases k <;> rfl

theorem Encodes.br (imm : BitVec 32) : Encodes.Statement (.br imm) := by
  intro h g
  show decodeU (1#2 ++ (g ++ uWord 13 0 0 0 0 0 imm)) = some (.br imm)
  delta decodeU
  simp only [uWord_op, uWord_sd, uWord_sa, uWord_sb, uWord_la, uWord_x, uWord_imm]
  simp_all [Instr.wf, whenOk]

theorem Encodes.call (sd : BitVec 5) (imm : BitVec 32) : Encodes.Statement (.call sd imm) := by
  intro h g
  show decodeU (1#2 ++ (g ++ uWord 14 sd 0 0 0 0 imm)) = some (.call sd imm)
  delta decodeU
  simp only [uWord_op, uWord_sd, uWord_sa, uWord_sb, uWord_la, uWord_x, uWord_imm]
  simp_all [Instr.wf, whenOk]

theorem Encodes.jr (sa : BitVec 5) : Encodes.Statement (.jr sa) := by
  intro h g
  show decodeU (1#2 ++ (g ++ uWord 15 0 sa 0 0 0 0)) = some (.jr sa)
  delta decodeU
  simp only [uWord_op, uWord_sd, uWord_sa, uWord_sb, uWord_la, uWord_x, uWord_imm]
  simp_all [Instr.wf, whenOk]

theorem Encodes.loop (n : Bool) (sa : BitVec 5) (imm : BitVec 32) : Encodes.Statement (.loop n sa imm) := by
  intro h g
  show decodeU (1#2 ++ (g ++ uWord 16 0 sa 0 0 (bit1 n) imm)) = some (.loop n sa imm)
  delta decodeU
  simp only [uWord_op, uWord_sd, uWord_sa, uWord_sb, uWord_la, uWord_x, uWord_imm, bit1_get]
  simp_all [Instr.wf, whenOk]

theorem Encodes.mfs (sd : BitVec 5) (idx : BitVec 32) : Encodes.Statement (.mfs sd idx) := by
  intro h g
  show decodeU (1#2 ++ (g ++ uWord 17 sd 0 0 0 0 idx)) = some (.mfs sd idx)
  delta decodeU
  simp only [uWord_op, uWord_sd, uWord_sa, uWord_sb, uWord_la, uWord_x, uWord_imm]
  simp_all [Instr.wf, whenOk]

theorem Encodes.mts (sa : BitVec 5) (idx : BitVec 32) : Encodes.Statement (.mts sa idx) := by
  intro h g
  show decodeU (1#2 ++ (g ++ uWord 18 0 sa 0 0 0 idx)) = some (.mts sa idx)
  delta decodeU
  simp only [uWord_op, uWord_sd, uWord_sa, uWord_sb, uWord_la, uWord_x, uWord_imm]
  simp_all [Instr.wf, whenOk]

theorem Encodes.crset (sa : BitVec 5) (e : BitVec 32) : Encodes.Statement (.crset sa e) := by
  intro h g
  show decodeU (1#2 ++ (g ++ uWord 19 0 sa 0 0 0 e)) = some (.crset sa e)
  delta decodeU
  simp only [uWord_op, uWord_sd, uWord_sa, uWord_sb, uWord_la, uWord_x, uWord_imm]
  simp_all [Instr.wf, whenOk]

theorem Encodes.trapi (imm : BitVec 32) : Encodes.Statement (.trapi imm) := by
  intro h g
  show decodeU (1#2 ++ (g ++ uWord 20 0 0 0 0 0 imm)) = some (.trapi imm)
  delta decodeU
  simp only [uWord_op, uWord_sd, uWord_sa, uWord_sb, uWord_la, uWord_x, uWord_imm]
  simp_all [Instr.wf, whenOk]

theorem Encodes.regset (sa : BitVec 5) (mask : BitVec 32) : Encodes.Statement (.regset sa mask) := by
  intro h g
  show decodeU (1#2 ++ (g ++ uWord 23 0 sa 0 0 0 mask)) = some (.regset sa mask)
  delta decodeU
  simp only [uWord_op, uWord_sd, uWord_sa, uWord_sb, uWord_la, uWord_x, uWord_imm]
  simp_all [Instr.wf, whenOk]

theorem Encodes.vld (vd : BitVec 6) (sa : BitVec 5) (pm : BitVec 3) (la : BitVec 4) (off : BitVec 15) : Encodes.Statement (.vld vd sa pm la off) := by
  intro h g
  show decodeV (2#2 ++ (g ++ vWord 0 vd sa 0 0 pm la 0 0 off)) = some (.vld vd sa pm la off)
  delta decodeV
  simp only [vWord_op, vWord_vd, vWord_sa, vWord_sx, vWord_vb, vWord_pm, vWord_la, vWord_sz, vWord_sy, vWord_imm]
  simp_all [Instr.wf, whenOk]

theorem Encodes.vst (vd : BitVec 6) (sa : BitVec 5) (pm : BitVec 3) (off : BitVec 15) : Encodes.Statement (.vst vd sa pm off) := by
  intro h g
  show decodeV (2#2 ++ (g ++ vWord 1 vd sa 0 0 pm 0 0 0 off)) = some (.vst vd sa pm off)
  delta decodeV
  simp only [vWord_op, vWord_vd, vWord_sa, vWord_sx, vWord_vb, vWord_pm, vWord_la, vWord_sz, vWord_sy, vWord_imm]
  simp_all [Instr.wf, whenOk]

theorem Encodes.vlds (vd : BitVec 6) (sa : BitVec 5) (sx : BitVec 5) (pm : BitVec 3) (la : BitVec 4) (z : ESize) (off : BitVec 15) : Encodes.Statement (.vlds vd sa sx pm la z off) := by
  intro h g
  show decodeV (2#2 ++ (g ++ vWord 2 vd sa sx 0 pm la z.code 0 off)) = some (.vlds vd sa sx pm la z off)
  delta decodeV
  simp only [vWord_op, vWord_vd, vWord_sa, vWord_sx, vWord_vb, vWord_pm, vWord_la, vWord_sz, vWord_sy, vWord_imm, esizeOf_code]
  simp_all [Instr.wf, whenOk]

theorem Encodes.vsts (vd : BitVec 6) (sa : BitVec 5) (sx : BitVec 5) (pm : BitVec 3) (z : ESize) (off : BitVec 15) : Encodes.Statement (.vsts vd sa sx pm z off) := by
  intro h g
  show decodeV (2#2 ++ (g ++ vWord 3 vd sa sx 0 pm 0 z.code 0 off)) = some (.vsts vd sa sx pm z off)
  delta decodeV
  simp only [vWord_op, vWord_vd, vWord_sa, vWord_sx, vWord_vb, vWord_pm, vWord_la, vWord_sz, vWord_sy, vWord_imm, esizeOf_code]
  simp_all [Instr.wf, whenOk]

theorem Encodes.vgath (vd : BitVec 6) (sa : BitVec 5) (vb : BitVec 6) (pm : BitVec 3) (la : BitVec 4) (z : ESize) (off : BitVec 15) : Encodes.Statement (.vgath vd sa vb pm la z off) := by
  intro h g
  show decodeV (2#2 ++ (g ++ vWord 4 vd sa 0 vb pm la z.code 0 off)) = some (.vgath vd sa vb pm la z off)
  delta decodeV
  simp only [vWord_op, vWord_vd, vWord_sa, vWord_sx, vWord_vb, vWord_pm, vWord_la, vWord_sz, vWord_sy, vWord_imm, esizeOf_code]
  simp_all [Instr.wf, whenOk]

theorem Encodes.vscat (vd : BitVec 6) (sa : BitVec 5) (vb : BitVec 6) (pm : BitVec 3) (z : ESize) (off : BitVec 15) : Encodes.Statement (.vscat vd sa vb pm z off) := by
  intro h g
  show decodeV (2#2 ++ (g ++ vWord 5 vd sa 0 vb pm 0 z.code 0 off)) = some (.vscat vd sa vb pm z off)
  delta decodeV
  simp only [vWord_op, vWord_vd, vWord_sa, vWord_sx, vWord_vb, vWord_pm, vWord_la, vWord_sz, vWord_sy, vWord_imm, esizeOf_code]
  simp_all [Instr.wf, whenOk]

theorem Encodes.vpf (sa : BitVec 5) (off : BitVec 15) : Encodes.Statement (.vpf sa off) := by
  intro h g
  show decodeV (2#2 ++ (g ++ vWord 6 0 sa 0 0 0 0 0 0 off)) = some (.vpf sa off)
  delta decodeV
  simp only [vWord_op, vWord_vd, vWord_sa, vWord_sx, vWord_vb, vWord_pm, vWord_la, vWord_sz, vWord_sy, vWord_imm]
  simp_all [Instr.wf, whenOk]

theorem Encodes.lda (vd : BitVec 6) (sa : BitVec 5) (sx : BitVec 5) (sy : BitVec 5) (la : BitVec 4) (wait : Bool) (lag : BitVec 8) : Encodes.Statement (.lda vd sa sx sy la wait lag) := by
  intro h g
  show decodeV (2#2 ++ (g ++ vWord 7 vd sa sx 0 0 la 0 sy (bit1 wait ++ (lag ++ 0#6)))) = some (.lda vd sa sx sy la wait lag)
  delta decodeV
  simp only [vWord_op, vWord_vd, vWord_sa, vWord_sx, vWord_vb, vWord_pm, vWord_la, vWord_sz, vWord_sy, vWord_imm, lda_low, lda_lag, lda_wait, bit1_get]
  simp_all [Instr.wf, whenOk]

theorem Encodes.sta (vd : BitVec 6) (sa : BitVec 5) (sx : BitVec 5) (off : BitVec 15) : Encodes.Statement (.sta vd sa sx off) := by
  intro h g
  show decodeV (2#2 ++ (g ++ vWord 8 vd sa sx 0 0 0 0 0 off)) = some (.sta vd sa sx off)
  delta decodeV
  simp only [vWord_op, vWord_vd, vWord_sa, vWord_sx, vWord_vb, vWord_pm, vWord_la, vWord_sz, vWord_sy, vWord_imm]
  simp_all [Instr.wf, whenOk]

theorem Encodes.stad (vd : BitVec 6) (sa : BitVec 5) (sx : BitVec 5) (pm : BitVec 3) (off : BitVec 15) : Encodes.Statement (.stad vd sa sx pm off) := by
  intro h g
  show decodeV (2#2 ++ (g ++ vWord 9 vd sa sx 0 pm 0 0 0 off)) = some (.stad vd sa sx pm off)
  delta decodeV
  simp only [vWord_op, vWord_vd, vWord_sa, vWord_sx, vWord_vb, vWord_pm, vWord_la, vWord_sz, vWord_sy, vWord_imm]
  simp_all [Instr.wf, whenOk]

theorem Encodes.ldas (sa : BitVec 5) (sy : BitVec 5) (la : BitVec 4) : Encodes.Statement (.ldas sa sy la) := by
  intro h g
  show decodeV (2#2 ++ (g ++ vWord 10 0 sa 0 0 0 la 0 sy 0)) = some (.ldas sa sy la)
  delta decodeV
  simp only [vWord_op, vWord_vd, vWord_sa, vWord_sx, vWord_vb, vWord_pm, vWord_la, vWord_sz, vWord_sy, vWord_imm]
  simp_all [Instr.wf, whenOk]

theorem Encodes.vtou (sy : BitVec 5) (vd : BitVec 6) (pm : BitVec 3) (low : Bool) (e : BitVec 6) : Encodes.Statement (.vtou sy vd pm low e) := by
  intro h g
  show decodeV (2#2 ++ (g ++ vWord 11 vd 0 0 0 pm 0 0 sy (0#8 ++ (bit1 low ++ e)))) = some (.vtou sy vd pm low e)
  delta decodeV
  simp only [vWord_op, vWord_vd, vWord_sa, vWord_sx, vWord_vb, vWord_pm, vWord_la, vWord_sz, vWord_sy, vWord_imm, vtou_lane, vtou_bit, vtou_high, bit1_get]
  simp_all [Instr.wf, whenOk]

theorem Encodes.utov (vd : BitVec 6) (sa : BitVec 5) (pm : BitVec 3) : Encodes.Statement (.utov vd sa pm) := by
  intro h g
  show decodeV (2#2 ++ (g ++ vWord 12 vd sa 0 0 pm 0 0 0 0)) = some (.utov vd sa pm)
  delta decodeV
  simp only [vWord_op, vWord_vd, vWord_sa, vWord_sx, vWord_vb, vWord_pm, vWord_la, vWord_sz, vWord_sy, vWord_imm]
  simp_all [Instr.wf, whenOk]

theorem Encodes.vred (sy : BitVec 5) (vd : BitVec 6) (pm : BitVec 3) (op : RedOp) : Encodes.Statement (.vred sy vd pm op) := by
  intro h g
  show decodeV (2#2 ++ (g ++ vWord 13 vd 0 0 0 pm 0 0 sy (0#11 ++ op.code))) = some (.vred sy vd pm op)
  delta decodeV
  simp only [vWord_op, vWord_vd, vWord_sa, vWord_sx, vWord_vb, vWord_pm, vWord_la, vWord_sz, vWord_sy, vWord_imm, red_low, red_high, redOf_code]
  simp_all [Instr.wf, whenOk]

theorem Encodes.vuni (sy : BitVec 5) (qd : BitVec 3) (vd : BitVec 6) (pm : BitVec 3) : Encodes.Statement (.vuni sy qd vd pm) := by
  intro h g
  show decodeV (2#2 ++ (g ++ vWord 14 vd 0 0 0 pm 0 0 sy (0#12 ++ qd))) = some (.vuni sy qd vd pm)
  delta decodeV
  simp only [vWord_op, vWord_vd, vWord_sa, vWord_sx, vWord_vb, vWord_pm, vWord_la, vWord_sz, vWord_sy, vWord_imm, uni_low, uni_high]
  simp_all [Instr.wf, whenOk]

theorem Encodes.ptou (sy : BitVec 5) (pn : BitVec 3) : Encodes.Statement (.ptou sy pn) := by
  intro h g
  show decodeV (2#2 ++ (g ++ vWord 15 0 0 0 0 pn 0 0 sy 0)) = some (.ptou sy pn)
  delta decodeV
  simp only [vWord_op, vWord_vd, vWord_sa, vWord_sx, vWord_vb, vWord_pm, vWord_la, vWord_sz, vWord_sy, vWord_imm]
  simp_all [Instr.wf, whenOk]

theorem Encodes.utop (pd : BitVec 3) (sa : BitVec 5) : Encodes.Statement (.utop pd sa) := by
  intro h g
  show decodeV (2#2 ++ (g ++ vWord 16 (p6 pd) sa 0 0 0 0 0 0 0)) = some (.utop pd sa)
  delta decodeV
  simp only [vWord_op, vWord_vd, vWord_sa, vWord_sx, vWord_vb, vWord_pm, vWord_la, vWord_sz, vWord_sy, vWord_imm, pIdx_p6, pOk_p6]
  simp_all [Instr.wf, whenOk]

theorem Encodes.pany (qd : BitVec 3) (pn : BitVec 3) : Encodes.Statement (.pany qd pn) := by
  intro h g
  show decodeV (2#2 ++ (g ++ vWord 17 0 0 0 0 pn 0 0 (q5 qd) 0)) = some (.pany qd pn)
  delta decodeV
  simp only [vWord_op, vWord_vd, vWord_sa, vWord_sx, vWord_vb, vWord_pm, vWord_la, vWord_sz, vWord_sy, vWord_imm, qIdx_q5, qOk_q5]
  simp_all [Instr.wf, whenOk]

theorem Encodes.pall (qd : BitVec 3) (pn : BitVec 3) : Encodes.Statement (.pall qd pn) := by
  intro h g
  show decodeV (2#2 ++ (g ++ vWord 18 0 0 0 0 pn 0 0 (q5 qd) 0)) = some (.pall qd pn)
  delta decodeV
  simp only [vWord_op, vWord_vd, vWord_sa, vWord_sx, vWord_vb, vWord_pm, vWord_la, vWord_sz, vWord_sy, vWord_imm, qIdx_q5, qOk_q5]
  simp_all [Instr.wf, whenOk]

theorem Encodes.tdesc (d : BitVec 4) (s1 : BitVec 5) : Encodes.Statement (.tdesc d s1) := by
  intro h g
  show decodeT (3#2 ++ (g ++ tWord 0 0 d 0 0 s1 0 0 0)) = some (.tdesc d s1)
  delta decodeT
  simp only [tWord_op, tWord_la, tWord_fa, tWord_fb, tWord_fc, tWord_s1, tWord_s2, tWord_s3, tWord_imm]
  simp_all [Instr.wf, whenOk]

theorem Encodes.tzero (a : BitVec 2) (s1 : BitVec 5) (s2 : BitVec 5) : Encodes.Statement (.tzero a s1 s2) := by
  intro h g
  show decodeT (3#2 ++ (g ++ tWord 1 0 (0#2 ++ a) 0 0 s1 s2 0 0)) = some (.tzero a s1 s2)
  delta decodeT
  simp only [tWord_op, tWord_la, tWord_fa, tWord_fb, tWord_fc, tWord_s1, tWord_s2, tWord_s3, tWord_imm, wide2_low, wide2_high]
  simp_all [Instr.wf, whenOk]

theorem Encodes.tmm (a : BitVec 2) (da : BitVec 4) (db : BitVec 4) : Encodes.Statement (.tmm a da db) := by
  intro h g
  show decodeT (3#2 ++ (g ++ tWord 2 0 (0#2 ++ a) da db 0 0 0 0)) = some (.tmm a da db)
  delta decodeT
  simp only [tWord_op, tWord_la, tWord_fa, tWord_fb, tWord_fc, tWord_s1, tWord_s2, tWord_s3, tWord_imm, wide2_low, wide2_high]
  simp_all [Instr.wf, whenOk]

theorem Encodes.tmmr (a : BitVec 2) (dx : BitVec 4) (k : BitVec 3) (s1 : BitVec 5) : Encodes.Statement (.tmmr a dx k s1) := by
  intro h g
  show decodeT (3#2 ++ (g ++ tWord 3 0 (0#2 ++ a) dx (0#1 ++ k) s1 0 0 0)) = some (.tmmr a dx k s1)
  delta decodeT
  simp only [tWord_op, tWord_la, tWord_fa, tWord_fb, tWord_fc, tWord_s1, tWord_s2, tWord_s3, tWord_imm, wide2_low, wide2_high, wide3_low, wide3_high]
  simp_all [Instr.wf, whenOk]

theorem Encodes.tdrain (a : BitVec 2) (dc : BitVec 4) (s1 : BitVec 5) : Encodes.Statement (.tdrain a dc s1) := by
  intro h g
  show decodeT (3#2 ++ (g ++ tWord 4 0 (0#2 ++ a) dc 0 s1 0 0 0)) = some (.tdrain a dc s1)
  delta decodeT
  simp only [tWord_op, tWord_la, tWord_fa, tWord_fb, tWord_fc, tWord_s1, tWord_s2, tWord_s3, tWord_imm, wide2_low, wide2_high]
  simp_all [Instr.wf, whenOk]

theorem Encodes.tcopy (ch : BitVec 2) (s1 : BitVec 5) (s2 : BitVec 5) (s3 : BitVec 5) : Encodes.Statement (.tcopy ch s1 s2 s3) := by
  intro h g
  show decodeT (3#2 ++ (g ++ tWord 5 0 (0#2 ++ ch) 0 0 s1 s2 s3 0)) = some (.tcopy ch s1 s2 s3)
  delta decodeT
  simp only [tWord_op, tWord_la, tWord_fa, tWord_fb, tWord_fc, tWord_s1, tWord_s2, tWord_s3, tWord_imm, wide2_low, wide2_high]
  simp_all [Instr.wf, whenOk]

theorem Encodes.twait (s1 : BitVec 5) : Encodes.Statement (.twait s1) := by
  intro h g
  show decodeT (3#2 ++ (g ++ tWord 6 0 0 0 0 s1 0 0 0)) = some (.twait s1)
  delta decodeT
  simp only [tWord_op, tWord_la, tWord_fa, tWord_fb, tWord_fc, tWord_s1, tWord_s2, tWord_s3, tWord_imm]
  simp_all [Instr.wf, whenOk]

theorem Encodes.ttab (t : BitVec 2) (s1 : BitVec 5) : Encodes.Statement (.ttab t s1) := by
  intro h g
  show decodeT (3#2 ++ (g ++ tWord 7 0 (0#2 ++ t) 0 0 s1 0 0 0)) = some (.ttab t s1)
  delta decodeT
  simp only [tWord_op, tWord_la, tWord_fa, tWord_fb, tWord_fc, tWord_s1, tWord_s2, tWord_s3, tWord_imm, wide2_low, wide2_high]
  simp_all [Instr.wf, whenOk]

theorem Encodes.tcnv (dd : BitVec 4) (ds : BitVec 4) : Encodes.Statement (.tcnv dd ds) := by
  intro h g
  show decodeT (3#2 ++ (g ++ tWord 8 0 dd ds 0 0 0 0 0)) = some (.tcnv dd ds)
  delta decodeT
  simp only [tWord_op, tWord_la, tWord_fa, tWord_fb, tWord_fc, tWord_s1, tWord_s2, tWord_s3, tWord_imm]
  simp_all [Instr.wf, whenOk]

theorem Encodes.tqms (dr : BitVec 4) (da : BitVec 4) (dx : BitVec 4) (s1 : BitVec 5) : Encodes.Statement (.tqms dr da dx s1) := by
  intro h g
  show decodeT (3#2 ++ (g ++ tWord 9 0 dr da dx s1 0 0 0)) = some (.tqms dr da dx s1)
  delta decodeT
  simp only [tWord_op, tWord_la, tWord_fa, tWord_fb, tWord_fc, tWord_s1, tWord_s2, tWord_s3, tWord_imm]
  simp_all [Instr.wf, whenOk]

theorem Encodes.tlu (dn : BitVec 4) : Encodes.Statement (.tlu dn) := by
  intro h g
  show decodeT (3#2 ++ (g ++ tWord 10 0 dn 0 0 0 0 0 0)) = some (.tlu dn)
  delta decodeT
  simp only [tWord_op, tWord_la, tWord_fa, tWord_fb, tWord_fc, tWord_s1, tWord_s2, tWord_s3, tWord_imm]
  simp_all [Instr.wf, whenOk]

theorem Encodes.tsolv (dl : BitVec 4) (dv : BitVec 4) : Encodes.Statement (.tsolv dl dv) := by
  intro h g
  show decodeT (3#2 ++ (g ++ tWord 11 0 dl dv 0 0 0 0 0)) = some (.tsolv dl dv)
  delta decodeT
  simp only [tWord_op, tWord_la, tWord_fa, tWord_fb, tWord_fc, tWord_s1, tWord_s2, tWord_s3, tWord_imm]
  simp_all [Instr.wf, whenOk]

theorem Encodes.link (s1 : BitVec 5) (s2 : BitVec 5) : Encodes.Statement (.link s1 s2) := by
  intro h g
  show decodeT (3#2 ++ (g ++ tWord 12 0 0 0 0 s1 s2 0 0)) = some (.link s1 s2)
  delta decodeT
  simp only [tWord_op, tWord_la, tWord_fa, tWord_fb, tWord_fc, tWord_s1, tWord_s2, tWord_s3, tWord_imm]
  simp_all [Instr.wf, whenOk]

theorem Encodes.alloc (sd : BitVec 5) (la : BitVec 4) (n : BitVec 21) : Encodes.Statement (.alloc sd la n) := by
  intro h g
  show decodeT (3#2 ++ (g ++ tWord 13 la 0 0 0 sd 0 0 n)) = some (.alloc sd la n)
  delta decodeT
  simp only [tWord_op, tWord_la, tWord_fa, tWord_fb, tWord_fc, tWord_s1, tWord_s2, tWord_s3, tWord_imm]
  simp_all [Instr.wf, whenOk]

theorem Encodes.free (s1 : BitVec 5) : Encodes.Statement (.free s1) := by
  intro h g
  show decodeT (3#2 ++ (g ++ tWord 14 0 0 0 0 s1 0 0 0)) = some (.free s1)
  delta decodeT
  simp only [tWord_op, tWord_la, tWord_fa, tWord_fb, tWord_fc, tWord_s1, tWord_s2, tWord_s3, tWord_imm]
  simp_all [Instr.wf, whenOk]

theorem Encodes.push (s1 : BitVec 5) (s2 : BitVec 5) : Encodes.Statement (.push s1 s2) := by
  intro h g
  show decodeT (3#2 ++ (g ++ tWord 15 0 0 0 0 s1 s2 0 0)) = some (.push s1 s2)
  delta decodeT
  simp only [tWord_op, tWord_la, tWord_fa, tWord_fb, tWord_fc, tWord_s1, tWord_s2, tWord_s3, tWord_imm]
  simp_all [Instr.wf, whenOk]

theorem Encodes.nld (s1 : BitVec 5) (sd : BitVec 5) (la : BitVec 4) (off : BitVec 21) : Encodes.Statement (.nld s1 sd la off) := by
  intro h g
  show decodeT (3#2 ++ (g ++ tWord 17 la 0 0 0 s1 sd 0 off)) = some (.nld s1 sd la off)
  delta decodeT
  simp only [tWord_op, tWord_la, tWord_fa, tWord_fb, tWord_fc, tWord_s1, tWord_s2, tWord_s3, tWord_imm]
  simp_all [Instr.wf, whenOk]

theorem Encodes.nst (s1 : BitVec 5) (s2 : BitVec 5) (off : BitVec 21) : Encodes.Statement (.nst s1 s2 off) := by
  intro h g
  show decodeT (3#2 ++ (g ++ tWord 18 0 0 0 0 s1 s2 0 off)) = some (.nst s1 s2 off)
  delta decodeT
  simp only [tWord_op, tWord_la, tWord_fa, tWord_fb, tWord_fc, tWord_s1, tWord_s2, tWord_s3, tWord_imm]
  simp_all [Instr.wf, whenOk]

theorem Encodes.rulew (s1 : BitVec 5) (s2 : BitVec 5) : Encodes.Statement (.rulew s1 s2) := by
  intro h g
  show decodeT (3#2 ++ (g ++ tWord 19 0 0 0 0 s1 s2 0 0)) = some (.rulew s1 s2)
  delta decodeT
  simp only [tWord_op, tWord_la, tWord_fa, tWord_fb, tWord_fc, tWord_s1, tWord_s2, tWord_s3, tWord_imm]
  simp_all [Instr.wf, whenOk]

theorem Encodes.board (k : BitVec 3) (s1 : BitVec 5) (s2 : BitVec 5) (s3 : BitVec 5) : Encodes.Statement (.board k s1 s2 s3) := by
  intro h g
  show decodeT (3#2 ++ (g ++ tWord 20 0 (0#1 ++ k) 0 0 s1 s2 s3 0)) = some (.board k s1 s2 s3)
  delta decodeT
  simp only [tWord_op, tWord_la, tWord_fa, tWord_fb, tWord_fc, tWord_s1, tWord_s2, tWord_s3, tWord_imm, wide3_low, wide3_high]
  simp_all [Instr.wf, whenOk]

theorem Encodes.unboard (k : BitVec 3) : Encodes.Statement (.unboard k) := by
  intro h g
  show decodeT (3#2 ++ (g ++ tWord 21 0 (0#1 ++ k) 0 0 0 0 0 0)) = some (.unboard k)
  delta decodeT
  simp only [tWord_op, tWord_la, tWord_fa, tWord_fb, tWord_fc, tWord_s1, tWord_s2, tWord_s3, tWord_imm, wide3_low, wide3_high]
  simp_all [Instr.wf, whenOk]

theorem Encodes.ringq (k : BitVec 3) (sd : BitVec 5) (la : BitVec 4) (code : BitVec 21) : Encodes.Statement (.ringq k sd la code) := by
  intro h g
  show decodeT (3#2 ++ (g ++ tWord 22 la (0#1 ++ k) 0 0 sd 0 0 code)) = some (.ringq k sd la code)
  delta decodeT
  simp only [tWord_op, tWord_la, tWord_fa, tWord_fb, tWord_fc, tWord_s1, tWord_s2, tWord_s3, tWord_imm, wide3_low, wide3_high]
  simp_all [Instr.wf, whenOk]

theorem Encodes.mig (s1 : BitVec 5) : Encodes.Statement (.mig s1) := by
  intro h g
  show decodeT (3#2 ++ (g ++ tWord 23 0 0 0 0 s1 0 0 0)) = some (.mig s1)
  delta decodeT
  simp only [tWord_op, tWord_la, tWord_fa, tWord_fb, tWord_fc, tWord_s1, tWord_s2, tWord_s3, tWord_imm]
  simp_all [Instr.wf, whenOk]

theorem Encodes.reds (s1 : BitVec 5) (s2 : BitVec 5) (v : BitVec 6) : Encodes.Statement (.reds s1 s2 v) := by
  intro h g
  show decodeT (3#2 ++ (g ++ tWord 24 0 0 0 0 s1 s2 0 (0#15 ++ v))) = some (.reds s1 s2 v)
  delta decodeT
  simp only [tWord_op, tWord_la, tWord_fa, tWord_fb, tWord_fc, tWord_s1, tWord_s2, tWord_s3, tWord_imm, wide6_low, wide6_high]
  simp_all [Instr.wf, whenOk]

theorem Encodes.svc (e : BitVec 21) : Encodes.Statement (.svc e) := by
  intro h g
  show decodeT (3#2 ++ (g ++ tWord 26 0 0 0 0 0 0 0 e)) = some (.svc e)
  delta decodeT
  simp only [tWord_op, tWord_la, tWord_fa, tWord_fb, tWord_fc, tWord_s1, tWord_s2, tWord_s3, tWord_imm]
  simp_all [Instr.wf, whenOk]

theorem Encodes.trapEntry (p : Place) : Encodes.Statement (.trapEntry p) :=
  ⟨rfl, rfl, rfl⟩

theorem Encodes.yieldRelease (p : Place) : Encodes.Statement (.yieldRelease p) :=
  ⟨rfl, rfl, rfl⟩

theorem Encodes.launchFill (p : Place) : Encodes.Statement (.launchFill p) :=
  ⟨rfl, rfl, rfl⟩

theorem Encodes.send (owner : Nat) (e : Nat) : Encodes.Statement (.send owner e) :=
  ⟨rfl, rfl, rfl⟩

theorem Encodes.deliver (d : Nat) (e : Nat) (engine : Bool) : Encodes.Statement (.deliver d e engine) :=
  ⟨rfl, rfl, rfl⟩

theorem Encodes.loadPerform (e : Nat) : Encodes.Statement (.loadPerform e) :=
  ⟨rfl, rfl, rfl⟩

theorem Encodes.storePerform (e : Nat) : Encodes.Statement (.storePerform e) :=
  ⟨rfl, rfl, rfl⟩

theorem Encodes.atomicPerform (e : Nat) : Encodes.Statement (.atomicPerform e) :=
  ⟨rfl, rfl, rfl⟩

theorem Encodes.ldaPerform (e : Nat) : Encodes.Statement (.ldaPerform e) :=
  ⟨rfl, rfl, rfl⟩

theorem Encodes.ldasPerform (e : Nat) : Encodes.Statement (.ldasPerform e) :=
  ⟨rfl, rfl, rfl⟩

theorem Encodes.staPerform (e : Nat) : Encodes.Statement (.staPerform e) :=
  ⟨rfl, rfl, rfl⟩

theorem Encodes.stadPerform (e : Nat) : Encodes.Statement (.stadPerform e) :=
  ⟨rfl, rfl, rfl⟩

theorem Encodes.respond (e : Nat) (d : Nat) : Encodes.Statement (.respond e d) :=
  ⟨rfl, rfl, rfl⟩

theorem Encodes.monitorRetry (owner : Nat) (e : Nat) : Encodes.Statement (.monitorRetry owner e) :=
  ⟨rfl, rfl, rfl⟩

theorem Encodes.stampRegress (e : Nat) (d : Nat) : Encodes.Statement (.stampRegress e d) :=
  ⟨rfl, rfl, rfl⟩

theorem Encodes.stopNoticeSend (uid : Nat) : Encodes.Statement (.stopNoticeSend uid) :=
  ⟨rfl, rfl, rfl⟩

theorem Encodes.stopNoticeApply (die : Nat) (n : Nat) : Encodes.Statement (.stopNoticeApply die n) :=
  ⟨rfl, rfl, rfl⟩

theorem Encodes.clearNotice (p : Place) : Encodes.Statement (.clearNotice p) :=
  ⟨rfl, rfl, rfl⟩

theorem Encodes.tzeroExecute (op : Nat) : Encodes.Statement (.tzeroExecute op) :=
  ⟨rfl, rfl, rfl⟩

theorem Encodes.tmmExecute (op : Nat) : Encodes.Statement (.tmmExecute op) :=
  ⟨rfl, rfl, rfl⟩

theorem Encodes.tmmrReadStep (op : Nat) : Encodes.Statement (.tmmrReadStep op) :=
  ⟨rfl, rfl, rfl⟩

theorem Encodes.tdrainExecute (op : Nat) : Encodes.Statement (.tdrainExecute op) :=
  ⟨rfl, rfl, rfl⟩

theorem Encodes.drainWake (op : Nat) : Encodes.Statement (.drainWake op) :=
  ⟨rfl, rfl, rfl⟩

theorem Encodes.tcnvExecute (op : Nat) : Encodes.Statement (.tcnvExecute op) :=
  ⟨rfl, rfl, rfl⟩

theorem Encodes.tcopyExecute (op : Nat) : Encodes.Statement (.tcopyExecute op) :=
  ⟨rfl, rfl, rfl⟩

theorem Encodes.tqmsExecute (op : Nat) : Encodes.Statement (.tqmsExecute op) :=
  ⟨rfl, rfl, rfl⟩

theorem Encodes.tluExecute (op : Nat) : Encodes.Statement (.tluExecute op) :=
  ⟨rfl, rfl, rfl⟩

theorem Encodes.tsolvExecute (op : Nat) : Encodes.Statement (.tsolvExecute op) :=
  ⟨rfl, rfl, rfl⟩

theorem Encodes.dispatchTake (p : Place) : Encodes.Statement (.dispatchTake p) :=
  ⟨rfl, rfl, rfl⟩

theorem Encodes.annihilate (job : Nat) : Encodes.Statement (.annihilate job) :=
  ⟨rfl, rfl, rfl⟩

theorem Encodes.commute (job : Nat) : Encodes.Statement (.commute job) :=
  ⟨rfl, rfl, rfl⟩

theorem Encodes.erase (job : Nat) : Encodes.Statement (.erase job) :=
  ⟨rfl, rfl, rfl⟩

theorem Encodes.numop (job : Nat) : Encodes.Statement (.numop job) :=
  ⟨rfl, rfl, rfl⟩

theorem Encodes.take (issuer : Nat) : Encodes.Statement (.take issuer) :=
  ⟨rfl, rfl, rfl⟩

theorem Encodes.attach (issuer : Nat) : Encodes.Statement (.attach issuer) :=
  ⟨rfl, rfl, rfl⟩

theorem Encodes.meet (issuer : Nat) : Encodes.Statement (.meet issuer) :=
  ⟨rfl, rfl, rfl⟩

theorem Encodes.linkHoldRetry (issuer : Nat) : Encodes.Statement (.linkHoldRetry issuer) :=
  ⟨rfl, rfl, rfl⟩

theorem Encodes.viciousCircle (issuer : Nat) : Encodes.Statement (.viciousCircle issuer) :=
  ⟨rfl, rfl, rfl⟩

theorem Encodes.quarryBatch (die : Nat) (core : Nat) (ctx : Nat) : Encodes.Statement (.quarryBatch die core ctx) :=
  ⟨rfl, rfl, rfl⟩

theorem Encodes.recordClassify (n : Nat) : Encodes.Statement (.recordClassify n) :=
  ⟨rfl, rfl, rfl⟩

theorem Encodes.pairRecordSend (n : Nat) : Encodes.Statement (.pairRecordSend n) :=
  ⟨rfl, rfl, rfl⟩

theorem Encodes.heldRecordWrite (die : Nat) (core : Nat) (ctx : Nat) : Encodes.Statement (.heldRecordWrite die core ctx) :=
  ⟨rfl, rfl, rfl⟩

theorem Encodes.spillWrite (die : Nat) (ctx : Nat) : Encodes.Statement (.spillWrite die ctx) :=
  ⟨rfl, rfl, rfl⟩

theorem Encodes.spillRead (die : Nat) (core : Nat) (ctx : Nat) : Encodes.Statement (.spillRead die core ctx) :=
  ⟨rfl, rfl, rfl⟩

theorem Encodes.hodSteal (die : Nat) (core : Nat) (ctx : Nat) : Encodes.Statement (.hodSteal die core ctx) :=
  ⟨rfl, rfl, rfl⟩

theorem Encodes.agingRise (die : Nat) (core : Nat) (n : Nat) : Encodes.Statement (.agingRise die core n) :=
  ⟨rfl, rfl, rfl⟩

theorem Encodes.balanceAdvertise (die : Nat) (ctx : Nat) : Encodes.Statement (.balanceAdvertise die ctx) :=
  ⟨rfl, rfl, rfl⟩

theorem Encodes.balanceBatch (n : Nat) : Encodes.Statement (.balanceBatch n) :=
  ⟨rfl, rfl, rfl⟩

theorem Encodes.slotArbiter (die : Nat) (core : Nat) : Encodes.Statement (.slotArbiter die core) :=
  ⟨rfl, rfl, rfl⟩

theorem Encodes.migrationPack (p : Place) : Encodes.Statement (.migrationPack p) :=
  ⟨rfl, rfl, rfl⟩

theorem Encodes.migrationPacket (e : Nat) : Encodes.Statement (.migrationPacket e) :=
  ⟨rfl, rfl, rfl⟩

theorem Encodes.migrationAccept (e : Nat) (d : Nat) : Encodes.Statement (.migrationAccept e d) :=
  ⟨rfl, rfl, rfl⟩

theorem Encodes.migrationResend (p : Place) : Encodes.Statement (.migrationResend p) :=
  ⟨rfl, rfl, rfl⟩

theorem Encodes.bufferedPacketPlace (die : Nat) (n : Nat) : Encodes.Statement (.bufferedPacketPlace die n) :=
  ⟨rfl, rfl, rfl⟩

theorem Encodes.redsSend (op : Nat) : Encodes.Statement (.redsSend op) :=
  ⟨rfl, rfl, rfl⟩

theorem Encodes.redsContribution (n : Nat) : Encodes.Statement (.redsContribution n) :=
  ⟨rfl, rfl, rfl⟩

theorem Encodes.keystoneMessage (n : Nat) : Encodes.Statement (.keystoneMessage n) :=
  ⟨rfl, rfl, rfl⟩

theorem Encodes.rootRound (die : Nat) (n : Nat) : Encodes.Statement (.rootRound die n) :=
  ⟨rfl, rfl, rfl⟩

theorem Encodes.resultWrite (die : Nat) (n : Nat) : Encodes.Statement (.resultWrite die n) :=
  ⟨rfl, rfl, rfl⟩

theorem Encodes.redsComplete (n : Nat) : Encodes.Statement (.redsComplete n) :=
  ⟨rfl, rfl, rfl⟩

theorem Encodes.reductionWatchdog (die : Nat) (n : Nat) : Encodes.Statement (.reductionWatchdog die n) :=
  ⟨rfl, rfl, rfl⟩

theorem Encodes.frameResend (n : Nat) : Encodes.Statement (.frameResend n) :=
  ⟨rfl, rfl, rfl⟩

theorem Encodes.segmentInject (lane : Nat) : Encodes.Statement (.segmentInject lane) :=
  ⟨rfl, rfl, rfl⟩

theorem Encodes.segmentTap (die : Nat) : Encodes.Statement (.segmentTap die) :=
  ⟨rfl, rfl, rfl⟩

theorem Encodes.segmentForward (die : Nat) (lane : Nat) : Encodes.Statement (.segmentForward die lane) :=
  ⟨rfl, rfl, rfl⟩

theorem Encodes.lapBoundary (watts : Nat) : Encodes.Statement (.lapBoundary watts) :=
  ⟨rfl, rfl, rfl⟩

theorem Encodes.expertReboard (die : Nat) (core : Nat) (ctx : Nat) (k : Nat) : Encodes.Statement (.expertReboard die core ctx k) :=
  ⟨rfl, rfl, rfl⟩

theorem Encodes.handleRelease (die : Nat) (core : Nat) (ctx : Nat) (k : Nat) : Encodes.Statement (.handleRelease die core ctx k) :=
  ⟨rfl, rfl, rfl⟩

theorem Encodes.ruleInvalidate (die : Nat) : Encodes.Statement (.ruleInvalidate die) :=
  ⟨rfl, rfl, rfl⟩

theorem Encodes.logAppend (e : Nat) : Encodes.Statement (.logAppend e) :=
  ⟨rfl, rfl, rfl⟩

theorem Encodes.preemptEntry (p : Place) : Encodes.Statement (.preemptEntry p) :=
  ⟨rfl, rfl, rfl⟩

theorem Encodes.saveComplete (uid : Nat) : Encodes.Statement (.saveComplete uid) :=
  ⟨rfl, rfl, rfl⟩

theorem Encodes.loadctx (ctx : Nat) : Encodes.Statement (.loadctx ctx) :=
  ⟨rfl, rfl, rfl⟩

theorem Encodes.destroy (ctx : Nat) : Encodes.Statement (.destroy ctx) :=
  ⟨rfl, rfl, rfl⟩

theorem Encodes.launch (ctx : Nat) : Encodes.Statement (.launch ctx) :=
  ⟨rfl, rfl, rfl⟩

theorem Encodes.reside (ctx : Nat) : Encodes.Statement (.reside ctx) :=
  ⟨rfl, rfl, rfl⟩

theorem Encodes.evict (ctx : Nat) : Encodes.Statement (.evict ctx) :=
  ⟨rfl, rfl, rfl⟩

theorem Encodes.preempt (ctx : Nat) : Encodes.Statement (.preempt ctx) :=
  ⟨rfl, rfl, rfl⟩

theorem Encodes.restore (ctx : Nat) : Encodes.Statement (.restore ctx) :=
  ⟨rfl, rfl, rfl⟩

theorem Encodes.ringload (ctx : Nat) : Encodes.Statement (.ringload ctx) :=
  ⟨rfl, rfl, rfl⟩

theorem Encodes.ringswitch (ctx : Nat) : Encodes.Statement (.ringswitch ctx) :=
  ⟨rfl, rfl, rfl⟩

theorem Encodes.groupload (ctx : Nat) : Encodes.Statement (.groupload ctx) :=
  ⟨rfl, rfl, rfl⟩

theorem Encodes.unknownCommand (code : BitVec 8) (ctx : Nat) : Encodes.Statement (.unknownCommand code ctx) :=
  ⟨rfl, rfl, rfl⟩

theorem Encodes.shootdown (ctx : Nat) (va : BitVec 48) : Encodes.Statement (.shootdown ctx va) :=
  ⟨rfl, rfl, rfl⟩

theorem Encodes.courseEntryCopy (die : Nat) : Encodes.Statement (.courseEntryCopy die) :=
  ⟨rfl, rfl, rfl⟩

theorem Encodes.heldAwayClear (die : Nat) (n : Nat) : Encodes.Statement (.heldAwayClear die n) :=
  ⟨rfl, rfl, rfl⟩

theorem Encodes.intakeWrite (off : Nat) (len : Nat) (relaxed : Bool) (w0 : BitVec 64) (w1 : BitVec 64) : Encodes.Statement (.intakeWrite off len relaxed w0 w1) :=
  ⟨rfl, rfl, rfl⟩

theorem Encodes.bar2Read (off : Nat) : Encodes.Statement (.bar2Read off) :=
  ⟨rfl, rfl, rfl⟩

theorem Encodes.hostWrite (off : Nat) (bytes : List (BitVec 8)) : Encodes.Statement (.hostWrite off bytes) :=
  ⟨rfl, rfl, rfl⟩

theorem Encodes.hostRead (off : Nat) (len : Nat) : Encodes.Statement (.hostRead off len) :=
  ⟨rfl, rfl, rfl⟩

theorem Encodes.stampViewRead (off : Nat) (len : Nat) : Encodes.Statement (.stampViewRead off len) :=
  ⟨rfl, rfl, rfl⟩

theorem Encodes.groupRebuild (ctx : Nat) (g : Nat) (addr : Nat) : Encodes.Statement (.groupRebuild ctx g addr) :=
  ⟨rfl, rfl, rfl⟩

theorem Encodes.soloskicKeystone (port : Nat) (f : Frame) : Encodes.Statement (.soloskicKeystone port f) :=
  ⟨rfl, rfl, rfl⟩

theorem Encodes.soloskicResult (port : Nat) (f : Frame) : Encodes.Statement (.soloskicResult port f) :=
  ⟨rfl, rfl, rfl⟩

theorem Encodes.soloskicAck (port : Nat) (f : Frame) : Encodes.Statement (.soloskicAck port f) :=
  ⟨rfl, rfl, rfl⟩

theorem Encodes.ethernetFrameDiscard (port : Nat) (kind : Nat) : Encodes.Statement (.ethernetFrameDiscard port kind) :=
  ⟨rfl, rfl, rfl⟩

theorem Encodes.powerHeadroomUpdate (die : Nat) (milliwatts : Nat) : Encodes.Statement (.powerHeadroomUpdate die milliwatts) :=
  ⟨rfl, rfl, rfl⟩

theorem Encodes.pageWalk (die : Nat) (ctx : Nat) (va : BitVec 64) : Encodes.Statement (.pageWalk die ctx va) :=
  ⟨rfl, rfl, rfl⟩

theorem Encodes.routeChange (tables : List (Nat × Nat × Nat)) : Encodes.Statement (.routeChange tables) :=
  ⟨rfl, rfl, rfl⟩

theorem Encodes.dieFailure (die : Nat) : Encodes.Statement (.dieFailure die) :=
  ⟨rfl, rfl, rfl⟩

theorem Encodes.coldStart (image : List (BitVec 8)) (failed : List Nat) (links : Fabric) (temps : List Nat) :
    Encodes.Statement (.coldStart image failed links temps) :=
  ⟨rfl, rfl, rfl⟩

theorem Encodes.warmStart (image : List (BitVec 8)) (failed : List Nat) (links : Fabric) (temps : List Nat) :
    Encodes.Statement (.warmStart image failed links temps) :=
  ⟨rfl, rfl, rfl⟩

theorem Encodes.attestation (nonce : BitVec 512) : Encodes.Statement (.attestation nonce) :=
  ⟨rfl, rfl, rfl⟩

theorem Encodes.dieHalt (die : Nat) : Encodes.Statement (.dieHalt die) :=
  ⟨rfl, rfl, rfl⟩

theorem Encodes.dieRelease (die : Nat) : Encodes.Statement (.dieRelease die) :=
  ⟨rfl, rfl, rfl⟩

theorem Encodes.slotRelease (p : Place) : Encodes.Statement (.slotRelease p) :=
  ⟨rfl, rfl, rfl⟩

theorem Encodes.registerWrite (off : Nat) (value : BitVec 64) : Encodes.Statement (.registerWrite off value) :=
  ⟨rfl, rfl, rfl⟩

theorem Encodes.unop : Encodes.Statement (.unop) := by
  intro h
  show decodeUniform (uSlot 0 0 0 0 0) = some (.unop)
  delta decodeUniform
  decide

theorem Encodes.vnop : Encodes.Statement (.vnop) := by
  intro h
  show decodeVector (vSlot 0 0 0 0 0 0) = some (.vnop)
  delta decodeVector
  decide

theorem Encodes.eret : Encodes.Statement (.eret) := by
  intro h g
  show decodeU (1#2 ++ (g ++ uWord 21 0 0 0 0 0 0)) = some (.eret)
  delta decodeU
  simp only [uWord_op, uWord_sd, uWord_sa, uWord_sb, uWord_la, uWord_x, uWord_imm]
  simp_all [Instr.wf, whenOk]

theorem Encodes.yield : Encodes.Statement (.yield) := by
  intro h g
  show decodeU (1#2 ++ (g ++ uWord 22 0 0 0 0 0 0)) = some (.yield)
  delta decodeU
  simp only [uWord_op, uWord_sd, uWord_sa, uWord_sb, uWord_la, uWord_x, uWord_imm]
  simp_all [Instr.wf, whenOk]

theorem Encodes.endThread : Encodes.Statement (.endThread) := by
  intro h g
  show decodeT (3#2 ++ (g ++ tWord 16 0 0 0 0 0 0 0 0)) = some (.endThread)
  delta decodeT
  simp only [tWord_op, tWord_la, tWord_fa, tWord_fb, tWord_fc, tWord_s1, tWord_s2, tWord_s3, tWord_imm, tWord_zero]
  simp_all [Instr.wf, whenOk]

theorem Encodes.halt : Encodes.Statement (.halt) := by
  intro h g
  show decodeT (3#2 ++ (g ++ tWord 25 0 0 0 0 0 0 0 0)) = some (.halt)
  delta decodeT
  simp only [tWord_op, tWord_la, tWord_fa, tWord_fb, tWord_fc, tWord_s1, tWord_s2, tWord_s3, tWord_imm, tWord_zero]
  simp_all [Instr.wf, whenOk]

theorem Encodes.quiescenceWave : Encodes.Statement (.quiescenceWave) :=
  ⟨rfl, rfl, rfl⟩

theorem Encodes.intakeForward : Encodes.Statement (.intakeForward) :=
  ⟨rfl, rfl, rfl⟩

end Sys2Proof.Laws
end

