-- ==== Sys2Proof/Tests/Slice0.lean ====
section
/-! SUPPORT. Tests: what `WellFormed` refuses, words written out from the encoding tables, single steps on a small machine, and
for every statement with hypotheses a state and operands that meet them (`witness_<statement>`). Expected results are the
spec's examples or worked by hand from its rules. -/

namespace Sys2Proof.Tests
open Sys2Proof.Machine
set_option Elab.async false

/-! ### What `WellFormed` refuses: one ill-formed term for each check -/

theorem test_wf_shli : Instr.wf (.shli 1 2 64) = false := by decide
theorem test_wf_shri : Instr.wf (.shri 1 2 64) = false := by decide
theorem test_wf_srai : Instr.wf (.srai 1 2 1023) = false := by decide
theorem test_wf_sext_zero : Instr.wf (.sext 1 2 0) = false := by decide
theorem test_wf_sext_wide : Instr.wf (.sext 1 2 65) = false := by decide
theorem test_wf_br : Instr.wf (.br 4) = false := by decide
theorem test_wf_call : Instr.wf (.call 1 12) = false := by decide
theorem test_wf_loop_zero : Instr.wf (.loop false 1 0) = false := by decide
theorem test_wf_loop_step : Instr.wf (.loop true 1 12) = false := by decide
theorem test_wf_loop_back : Instr.wf (.loop true 1 0xFFFFFFF8) = false := by decide
theorem test_wf_mfs : Instr.wf (.mfs 1 0x1F) = false := by decide
theorem test_wf_mts_unlisted : Instr.wf (.mts 1 0x22) = false := by decide
theorem test_wf_mts_read_only : Instr.wf (.mts 1 0x0A) = false := by decide
theorem test_wf_crset : Instr.wf (.crset 1 32) = false := by decide
theorem test_wf_regset : Instr.wf (.regset 1 3) = false := by decide
theorem test_wf_alloc_s0 : Instr.wf (.alloc 0 0 1) = false := by decide
theorem test_wf_alloc_none : Instr.wf (.alloc 1 0 0) = false := by decide
theorem test_wf_alloc_five : Instr.wf (.alloc 1 0 5) = false := by decide
theorem test_wf_alloc_past : Instr.wf (.alloc 30 0 3) = false := by decide
theorem test_wf_ringq_code : Instr.wf (.ringq 0 1 0 7) = false := by decide
theorem test_wf_ringq_window : Instr.wf (.ringq 0 1 1 6) = false := by decide
theorem test_wf_svc : Instr.wf (.svc 2048) = false := by decide
theorem test_wf_vtou : Instr.wf (.vtou 1 2 3 true 4) = false := by decide
theorem test_wf_guard : Guard.wf ⟨true, 0⟩ = false := by decide
theorem test_wf_pair_guard : Bundle.wf (.pair ⟨true, 0⟩ .unop .vnop) = false := by decide
theorem test_wf_pair_uniform : Bundle.wf (.pair ⟨false, 0⟩ (.li 1 2) .vnop) = false := by decide
theorem test_wf_pair_vector : Bundle.wf (.pair ⟨false, 0⟩ .unop (.add 1 2 3)) = false := by decide
theorem test_wf_pair_limit : Bundle.wf (.pair ⟨false, 0⟩ (.shli 1 2 64) .vnop) = false := by decide
theorem test_wf_long_form : Bundle.wf (.long ⟨false, 0⟩ .unop) = false := by decide
theorem test_wf_long_event : Bundle.wf (.long ⟨false, 0⟩ .quiescenceWave) = false := by decide
theorem test_wf_long_guard : Bundle.wf (.long ⟨true, 0⟩ .eret) = false := by decide
theorem test_wf_long_limit : Bundle.wf (.long ⟨false, 0⟩ (.svc 2048)) = false := by decide

/-! ### Words written out from the encoding tables (R35, R38 to R40, R65 to R75) -/

/-- Guard 0000, always (R34). -/
def always : Guard := ⟨false, 0⟩

/-- `vcmplt.u p1, v3, v4`, the spec's well-formed compare. -/
theorem test_decode_vcmplt : decode 0x0000000042086204 = .ok (.pair always .unop (.vcmplt 1 3 4 0 .w32 true)) := by rfl
/-- The same fields with `vcmpeq`, which does not permit mod bit 2. -/
theorem test_decode_vcmpeq_unsigned : (decode 0x0000000040086204).isOk = false := by decide +kernel
/-- The all-zero word is `unop || vnop` (R37). -/
theorem test_decode_zero : decode 0 = .ok (.pair always .unop .vnop) := by rfl
/-- class 00, guard 0000, uop 010111, sd 00110, sa 00001, shift 00011, sb 00010: `addx s6, s1, s2, 3`. -/
theorem test_decode_addx : decode 0b00_0000_010111_00110_00001_00011_00010_00000000000000000000000000000000 =
    .ok (.pair always (.addx 6 1 2 3) .vnop) := by rfl
/-- guard 1011 (not q3), uop 000010, sd 00101, sa 00100, imm10 1111111111: `addi s5, s4, -1`. -/
theorem test_decode_addi : decode 0b00_1011_000010_00101_00100_1111111111_00000000000000000000000000000000 =
    .ok (.pair ⟨true, 3⟩ (.addi 5 4 0x3FF) .vnop) := by rfl
/-- uop 100110 (row 4, column 6), sd 00001, sa 00010, sb 00011: `qand q1, q2, q3`. -/
theorem test_decode_qand : decode 0x0260880300000000 = .ok (.pair always (.qand 1 2 3) .vnop) := by rfl
/-- vop 0000001, vd 5, va 6, vb 7, pm 2, mod 1001: `vadd.i16.sat v5, v6, v7 {p2}`. -/
theorem test_decode_vadd : decode 0b00000000000000000000000000000000_0000001_000101_000110_000111_010_1001 =
    .ok (.pair always .unop (.vadd 5 6 7 2 .w16 false true)) := by rfl
/-- vop 0010101 (row 2, column 5), vd 1, va 2, vb 3, pm 0, mod 0111: `vfma.f16.rdn v1, v2, v3`. -/
theorem test_decode_vfma : decode 0b00000000000000000000000000000000_0010101_000001_000010_000011_000_0111 =
    .ok (.pair always .unop (.vfma 1 2 3 0 .f16 .rdn)) := by rfl
/-- vop 0100100, vd 1, va 2, vb 3: `pand p1, p2, p3`. -/
theorem test_decode_pand : decode 0b00000000000000000000000000000000_0100100_000001_000010_000011_000_0000 =
    .ok (.pair always .unop (.pand 1 2 3)) := by rfl
/-- `li s6, 0x3456_7890`, an example of the spec. -/
theorem test_decode_li : decode 0x4003000034567890 = .ok (.long always (.li 6 0x34567890)) := by rfl
/-- `lih s6, 0x7F12`, an example of the spec. -/
theorem test_decode_lih : decode 0x4013000000007F12 = .ok (.long always (.lih 6 0x7F12)) := by rfl
/-- class 10, op 0000000, vd 9, sa 4, pm 1, LA 3, imm15 -4: `vld v9, [s4 - 4] {p1}`, LA 3. -/
theorem test_decode_vld : decode 0b10_0000_0000000_001001_00100_00000_000000_001_0011_00_00000_111111111111100 =
    .ok (.long always (.vld 9 4 1 3 0x7FFC)) := by rfl
/-- class 10, op 0001101, vd 2, pm 1, sy 00101, imm15[3:0] 0101: `vred.maxu s5, v2 {p1}`. -/
theorem test_decode_vred : decode 0b10_0000_0001101_000010_00000_00000_000000_001_0000_00_00101_000000000000101 =
    .ok (.long always (.vred 5 2 1 .maxu)) := by rfl
/-- `board 0, s6, s4, s0`, an example of the spec. -/
theorem test_decode_board : decode 0xC140000310000000 = .ok (.long always (.board 0 6 4 0)) := by rfl
/-- `board 1, s7, s5, s0`, an example of the spec. -/
theorem test_decode_board_one : decode 0xC140100394000000 = .ok (.long always (.board 1 7 5 0)) := by rfl
/-- `end`, as R40 gives it. -/
theorem test_decode_end : decode 0xC100000000000000 = .ok (.long always .endThread) := by rfl
/-- `tdesc d1, s4`, an example of the spec. -/
theorem test_decode_tdesc : decode 0xC000100200000000 = .ok (.long always (.tdesc 1 4)) := by rfl
/-- Guard 1000 is reserved (R34). -/
theorem test_decode_never : (decode 0x2000000000000000).isOk = false := by decide +kernel
/-- vop 47 is reserved (R67). -/
theorem test_decode_vop47 : (decode 0x000000005E000000).isOk = false := by decide +kernel
/-- A row's word as the opcode table numbers it. -/
theorem test_decodeTableWord : decodeTableWord 64 0x4003000034567890 = some (.li 6 0x34567890) := by decide +kernel

/-! ### A small machine -/

/-- Slot 0 of core 0 of lamp die 0. -/
def place : Place := ⟨0, 0, 0⟩

/-- A thread of context 0. -/
def thr : Thread := { uid := 1, ctx := 0, pc := 0x1000 }

/-- The thread with uniform registers written. -/
def regs (l : List (BitVec 5 × Word)) : Thread := l.foldl (fun t e => t.writeS e.1 e.2) thr

/-- A leaf entry: valid, leaf, with attribute bits and an address (R360). -/
def leafTo (attrs : List Nat) (a : Nat) : Word := BitVec.ofNat 64 (2 ^ 63 + 2 ^ 62 + (attrs.map (2 ^ ·)).sum + a)

/-- Die 0's translations of context 0, a page of 2 MiB for each kind: plain, NET, STAMPED and executable of plinth die 1, the
scratchpad of core 0, the scratchpad of die 2's core 0, and the host's window. -/
def pages : List TlbEntry :=
  [⟨0, 0, 0x200000, leafTo [55, 56] 0x1000000000⟩,
   ⟨0, 0x200000, 0x200000, leafTo [55, 56, 59] 0x1000200000⟩,
   ⟨0, 0x400000, 0x200000, leafTo [55, 56, 60] 0x1000400000⟩,
   ⟨0, 0x600000, 0x200000, leafTo [55, 57] 0x1000600000⟩,
   ⟨0, 0x800000, 0x200000, leafTo [55, 56] 0x1000000000000⟩,
   ⟨0, 0xA00000, 0x200000, leafTo [55, 56] 0x1000200000000⟩,
   ⟨0, 0xE00000, 0x200000, leafTo [55, 56] 0x2000000000000⟩]

/-- The word of a thread in its issue cycle. -/
def iss (t : Thread) : Issue := { place, pc := t.pc, word := 0 }

/-- A machine in which the thread's word is in its issue cycle. -/
def st (t : Thread) : State :=
  { slots := [(place, { owner := some 0, thread := some t })], cur := some (iss t), nextId := 100,
    dies := [(0, { tlb := pages })],
    cores := [((0, 0), { partitions := [⟨0, 0, 64⟩] }), ((2, 0), { partitions := [⟨0, 0, 64⟩] })] }

theorem st_current (t : Thread) : (st t).current = some (iss t, t) := rfl

theorem st_thread (t : Thread) : (st t).thread? place = some t := rfl

/-- A uniform register of the thread after a step. -/
def getS (o : Host.Outcome State Fault Refusal) (r : BitVec 5) : Option Word :=
  match o with
  | .next u => (u.thread? place).map fun t => t.readS r
  | _ => none

/-- Lane `j` of a vector register after a step. -/
def getV (o : Host.Outcome State Fault Refusal) (r : BitVec 6) (j : Nat) : Option (BitVec 32) :=
  match o with
  | .next u => (u.thread? place).map fun t => lane (t.readV r) j
  | _ => none

/-- TRAPCAUSE and TRAPINFO after a step. -/
def getTrap (o : Host.Outcome State Fault Refusal) : Option (Word × Word) :=
  match o with
  | .next u => (u.thread? place).map fun t => (t.sys.trapcause, t.sys.trapinfo)
  | _ => none

/-- Where the flow goes after a step. -/
def getNext (o : Host.Outcome State Fault Refusal) : Option Word :=
  match o with
  | .next u => u.cur.bind fun i => i.next
  | _ => none

/-! ### One step each -/

theorem test_add_wraps : getS (exec (.add 3 1 2) (st (regs [(1, 0xFFFFFFFFFFFFFFFF), (2, 2)]))) 3 = some 1 := by decide +kernel
theorem test_write_s0 : getS (exec (.addi 0 1 5) (st (regs [(1, 1)]))) 0 = some 0 := by decide +kernel
theorem test_addi_negative : getS (exec (.addi 1 1 0x3FF) (st (regs [(1, 5)]))) 1 = some 4 := by decide +kernel
/-- "a shift by 65 as a shift by 1" (R82). -/
theorem test_shl_65 : getS (exec (.shl 3 1 2) (st (regs [(1, 3), (2, 65)]))) 3 = some 6 := by decide +kernel
theorem test_sra_sign : getS (exec (.srai 3 1 4) (st (regs [(1, 0x8000000000000000)]))) 3 = some 0xF800000000000000 := by
  decide +kernel
theorem test_mulh : getS (exec (.mulh 3 1 2) (st (regs [(1, 0xFFFFFFFFFFFFFFFF), (2, 1)]))) 3 = some 0xFFFFFFFFFFFFFFFF := by
  decide +kernel
theorem test_mulhu : getS (exec (.mulhu 3 1 2) (st (regs [(1, 0xFFFFFFFFFFFFFFFF), (2, 2)]))) 3 = some 1 := by decide +kernel
theorem test_clz_zero : getS (exec (.clz 3 1) (st thr)) 3 = some 64 := by decide +kernel
theorem test_sext : getS (exec (.sext 3 1 8) (st (regs [(1, 0x180)]))) 3 = some 0xFFFFFFFFFFFFFF80 := by decide +kernel
theorem test_lih_keeps : getS (exec (.lih 1 7) (st (regs [(1, 0xFFFFFFFF00000009)]))) 1 = some 0x700000009 := by decide +kernel
theorem test_li_sign : getS (exec (.li 1 0x80000000) (st thr)) 1 = some 0xFFFFFFFF80000000 := by decide +kernel
theorem test_utov : getV (exec (.utov 1 2 0) (st (regs [(2, 0x123456789)]))) 1 63 = some 0x23456789 := by decide +kernel
theorem test_utov_masked : getV (exec (.utov 1 2 1) (st (regs [(2, 7)]))) 1 0 = some 0 := by decide +kernel
theorem test_br_back : getNext (exec (.br 0xFFFFFFF0) (st thr)) = some 0xFF0 := by decide +kernel
theorem test_call_links : getS (exec (.call 4 8) (st thr)) 4 = some 0x1008 := by decide +kernel
/-- A misaligned target traps ALIGN with the target, entering the handler at TRAPVEC. -/
theorem test_jr_align : getTrap (exec (.jr 1) (st { regs [(1, 0x1004)] with sys := { trapvec := 0x600000 } })) =
    some (0x04, 0x1004) := by decide +kernel
theorem test_trapi : getTrap (exec (.trapi 0xFFFFFFFF) (st { thr with sys := { trapvec := 0x600000 } })) =
    some (0x0E, 0xFFFFFFFFFFFFFFFF) := by decide +kernel
theorem test_eret : getNext (exec .eret (st { thr with hs := true, sys := { trappc := 0x2000 } })) = some 0x2000 := by
  decide +kernel
/-- A store is a request first: memory does not change when it issues (R151). -/
theorem test_st_posts : (match exec (.st 1 2 false 0) (st (regs [(1, 0x100), (2, 9)])) with
    | .next u => decide (u.mem = [] ∧ u.sends.length = 1)
    | _ => false) = true := by decide +kernel
/-- A misaligned load traps ALIGN with its address. -/
theorem test_ld_align : getTrap (exec (.ld 3 1 0 false 4) (st { regs [(1, 0x100)] with sys := { trapvec := 0x600000 } })) =
    some (0x04, 0x104) := by decide +kernel
/-- One step from reset runs the placed word: `li s6, 0x3456_7890`. -/
theorem test_step_li : getS (step (State.reset.withFetchWord 64 0x4003000034567890)) 6 = some 0x34567890 := by decide +kernel
/-- One step from reset runs the placed pair word `addi s5, s4, -1`. -/
theorem test_step_addi : getS (step (State.reset.withFetchWord 64
    0b00_0000_000010_00101_00100_1111111111_00000000000000000000000000000000)) 5 = some 0xFFFFFFFFFFFFFFFF := by decide +kernel

/-! ### Witnesses: for each statement with hypotheses, a concrete state and operands that meet them -/

open Sys2Proof.Claims

theorem witness_UniformSlot : (st thr).current = some (iss thr, thr) ∧ (∃ f, registerForm (.add 0 1 2) = some (0, f)) ∧
    (∃ f, immediateForm (.srai 31 1 63) = some (31, f)) ∧ ∃ f, predicateForm (.qnot 0 7) = some (0, f) :=
  ⟨rfl, ⟨_, rfl⟩, ⟨_, rfl⟩, ⟨_, rfl⟩⟩

theorem witness_IntegerLanes : (st thr).current = some (iss thr, thr) ∧
    ∃ f, integerLanes (.vadd 63 1 2 0 .w16 true true) = some (63, 1, 2, 0, 16, f) := ⟨rfl, _, rfl⟩

theorem witness_LaneComparisons : (st thr).current = some (iss thr, thr) ∧
    (∃ f, integerTest (.vcmplt 0 1 2 7 .w32 true) = some (0, 1, 2, 7, 32, f)) ∧ ∃ f, lanePredicate (.utop 0 31) = some (0, f) :=
  ⟨rfl, ⟨_, rfl⟩, ⟨_, rfl⟩⟩

theorem witness_LaneShuffles : (st thr).current = some (iss thr, thr) ∧ ∃ f, laneMove (.vroti 63 1 63 0) = some (63, f) :=
  ⟨rfl, _, rfl⟩

theorem witness_LaneGathers : (st thr).current = some (iss thr, thr) ∧ (∃ f, laneRead (.vtou 0 1 0 false 63) = some (0, f)) ∧
    ∃ f, laneAny (.pall 0 7) = some (0, f) := ⟨rfl, ⟨_, rfl⟩, ⟨_, rfl⟩⟩

theorem witness_FloatLanes : (st thr).current = some (iss thr, thr) ∧
    ∃ f, floatLanes (.vfma 1 2 3 0 .bf16 .rdn) = some (1, 2, 3, 0, .bf16, f) := ⟨rfl, _, rfl⟩

/-- `ToInteger` at the bounds of INT32, with a NaN, an infinity and a finite number. -/
theorem witness_FloatFormats : (st thr).current = some (iss thr, thr) ∧ (-2 ^ 31 : Int) ≤ 0 ∧ (0 : Int) ≤ 2 ^ 31 - 1 ∧
    (2 ^ 31 - 1 : Int) < 2 ^ 64 ∧ (-2 ^ 64 : Int) < -2 ^ 31 ∧ fp32.num 0x7F800001 = .nan true ∧ fp32.num 0xFF800000 = .inf true ∧
    ∃ m e, fp32.num 0x4F000000 = .fin false m e :=
  ⟨rfl, by decide, by decide, by decide, by decide, by decide +kernel, by decide +kernel, _, _, rfl⟩

/-- A thread whose lane 0 of v1 is a NaN. -/
def nanThread : Thread := { thr with v := thr.v.set 1 0x7FC00000 }

/-- `EncodeCodes`: table 0 of the nibble codes has no NaN code and lane 0 is a NaN; the byte codes' table has one; no lane is a
NaN. -/
theorem witness_TableCodes : (st nanThread).current = some (iss nanThread, nanThread) ∧
    ((st nanThread).tableOf place nanThread true false).hasNaN = false ∧
    (∃ j < 64, ((nanThread.readP 0).getLsbD j && fp32.isNaN (lane (nanThread.readV 1) j).toNat) = true) ∧
    ((st nanThread).tableOf place nanThread false false).hasNaN = true ∧
    ∀ j < 64, ((thr.readP 0).getLsbD j && fp32.isNaN (lane (thr.readV 1) j).toNat) = false :=
  ⟨rfl, by decide +kernel, ⟨0, by decide, by decide +kernel⟩, by decide +kernel, by decide +kernel⟩

theorem witness_RoundChoosesByMode : isFormat e8m10 ∧ 0 < 1 := ⟨.inr (.inr (.inr rfl)), Nat.one_pos⟩

/-- One operand or pair of operands for each clause of `NaNOperands` and `SpecialOperands`. -/
theorem witness_FloatSpecials : isLaneFormat fp32 ∧ fp32.isNaN 0x7F800001 = true ∧ fp32.isNaN 0x7F800000 = false ∧
    fp32.num 0x7F800000 = .inf false ∧ fp32.num 0xFF800000 = .inf true ∧ fp32.num 0 = .zero false ∧
    fp32.num 0x80000000 = .zero true ∧ (∃ m e, fp32.num 1 = .fin false m e) ∧ (∃ m e, fp32.num 0x80000001 = .fin true m e) ∧
    (fp32.num 0x7F800000).mul (fp32.num 0xFF800000) = some (.inf true) ∧ 0x3F800000 = fp32.bias * 2 ^ fp32.m ∧
    fp32.isNaN 0x3F800000 = false :=
  ⟨.inl rfl, by decide +kernel, by decide +kernel, by decide +kernel, by decide +kernel, by decide +kernel, by decide +kernel,
    ⟨_, _, rfl⟩, ⟨_, _, rfl⟩, by decide +kernel, by decide +kernel, by decide +kernel⟩

/-- A thread with a usable handler. -/
def handled : Thread := { thr with sys := { trapvec := 0x600000 } }

theorem handled_can_enter : CanEnter (st handled) place handled := ⟨rfl, rfl, rfl, by decide +kernel, _, rfl⟩

/-- An operation that waits for an answer. -/
def openTag1 : Tag := { openTag (iss thr) 7 0 with parts := 1, sds := [3], u := [0] }

/-- One state for each outcome of a trap. -/
theorem witness_TrapEntry : (st handled).thread? place = some handled ∧ CanEnter (st handled) place handled ∧
    ({ handled with firstWord := true } : Thread).firstWord = true ∧
    ({ handled with tags := [openTag1] } : Thread).settled = false ∧
    vecUsable thr.sys.trapvec = false ∧ thr.settled = true ∧ bits (zx causeAlign : Word) 0 8 ≠ causeDebug ∧
    vecUsable 0xC00000 = true ∧ (∃ e, (st thr).fetch 0 0 0xC00000 = .error e) ∧ ({ thr with priv := true } : Thread).priv = true :=
  ⟨rfl, handled_can_enter, rfl, rfl, by decide +kernel, rfl, by decide +kernel, by decide +kernel, ⟨_, rfl⟩, rfl⟩

/-- A trap that waits, a late fault, and a notice, each in a thread between its words. -/
theorem witness_FaultsAtBoundaries :
    ((st handled).thread? place = some handled ∧ handled.ctx < 64 ∧ ((st handled).slot place).heldAway = [] ∧
      handled.lateFaults = []) ∧
    (let t := { handled with pending := some ⟨0x0E, 0x1000, 1⟩ }
     (st t).thread? place = some t ∧ t.settled = true ∧ vecUsable t.sys.trapvec = true ∧
      ∃ w, (st t).fetch 0 t.ctx t.sys.trapvec = .ok w) ∧
    (let t := { handled with lateFaults := [(0x0A, 1, true)], notices := [0x400000] }
     let s := { st t with cur := none }
     s.thread? place = some t ∧ t.settled = true ∧ t.pending = none ∧ s.atBoundary place t = true ∧ t.preempt = none ∧
      t.debugDue = false ∧ t.hs = false ∧ t.priv = false ∧ (s.dueTags place t).all (fun g => !g.isTrapped) = true) ∧
    (let t := { handled with notices := [0x400000] }
     let s := { st t with cur := none }
     s.atBoundary place t = true ∧ t.lateFaults = [] ∧ t.notices = 0x400000 :: [] ∧
      ∃ w, s.fetch 0 t.ctx t.sys.trapvec = .ok w) :=
  ⟨⟨rfl, by decide, rfl, rfl⟩, ⟨rfl, rfl, by decide +kernel, _, rfl⟩, ⟨rfl, rfl, rfl, by decide +kernel, rfl, rfl, rfl, rfl, rfl⟩,
    ⟨by decide +kernel, rfl, rfl, _, rfl⟩⟩

/-- Targets of `jr` below, at and above their limits; a loop at the last place it may stand; each end of an issue cycle. -/
theorem witness_ControlFlow : (st thr).current = some (iss thr, thr) ∧ (0x1004 : Word).toNat % 8 ≠ 0 ∧
    ((0x0001000000000000 : Word).toNat % 8 = 0 ∧ 2 ^ 48 ≤ (0x0001000000000000 : Word).toNat) ∧
    ((0x0000FFFFFFFFFFF8 : Word).toNat % 8 = 0 ∧ (0x0000FFFFFFFFFFF8 : Word).toNat < 2 ^ 48) ∧
    (thr.pc.toNat % 8 = 0 ∧ (8 : BitVec 32).toNat % 8 = 0 ∧ 0 < (8 : BitVec 32).toInt ∧
      thr.pc.toNat + (8 : BitVec 32).toNat + 8 < 2 ^ 48) ∧
    (thr.sys.lc0 = 0 ∧ thr.sys.lc1 = 0 ∧ ({ lc0 := 1, lc1 := 1 } : SysRegs).lc0 ≠ 0) ∧
    (iss thr).moved = false ∧ (iss thr).next = none ∧ ({ st thr with cur := some { iss thr with moved := true } }).current =
      some ({ iss thr with moved := true }, thr) ∧
    ({ st thr with cur := some { iss thr with next := some 0x2000 } }).current = some ({ iss thr with next := some 0x2000 }, thr) :=
  ⟨rfl, by decide, by decide, by decide, by decide, by decide, rfl, rfl, rfl, rfl⟩

theorem witness_SystemRegisters : (st thr).current = some (iss thr, thr) ∧ ((st thr).slot place).gen < 64 ∧ place.slot < 16 ∧
    place.core < 16 ∧ place.die < 672 ∧ (0x5F, thr.sys.history[31]) ∈ sysTable (st thr) place thr ∧ (0x1D, 3) ∈ writableMask ∧
    thr.priv = false ∧ (st { thr with priv := true }).current = some (iss thr, { thr with priv := true }) ∧
    1 ≤ (1024 : Word).toNat ∧ (1024 : Word).toNat ≤ 1024 :=
  ⟨rfl, by decide, by decide, by decide, by decide, by decide +kernel, by decide, rfl, rfl,
    by decide, by decide⟩

/-- A thread in a PREEMPT handler, and its block. -/
def privThread : Thread := { handled with priv := true, sys := { trapsave := 0x1000 } }

/-- Its saved block. -/
def saving1 (complete : Bool) : Saving := ⟨1, 0, 0x1000, place, complete, [], false, [], false⟩

theorem witness_TrapReturns : CanEnter (st handled) place handled ∧ handled.priv = false ∧
    ((0x2004 : Word).toNat % 8 ≠ 0) ∧ ((0x0001000000000000 : Word).toNat % 8 = 0 ∧ 2 ^ 48 ≤ (0x0001000000000000 : Word).toNat) ∧
    (handled.sys.trappc.toNat % 8 = 0 ∧ handled.sys.trappc.toNat < 2 ^ 48 ∧ ∀ g ∈ handled.tags, g.state ≠ .withdrawn) ∧
    (let s := { st privThread with saving := [saving1 true] }
     s.current = some (iss privThread, privThread) ∧ privThread.priv = true ∧
      FirstOf (fun x => x.uid = privThread.uid) s.saving [] (saving1 true) [] ∧
      ∀ g ∈ (s.threadOfBlock (saving1 true) none privThread.sys.trapsave).tags, g.state ≠ .withdrawn) ∧
    FirstOf (fun x : Saving => x.uid = privThread.uid) [saving1 false] [] (saving1 false) [] :=
  ⟨handled_can_enter, rfl, by decide, by decide, ⟨by decide, by decide, by decide⟩,
    ⟨rfl, rfl, ⟨rfl, rfl, by simp⟩, by decide +kernel⟩, ⟨rfl, rfl, by simp⟩⟩

theorem witness_HeldThreads : (st thr).current = some (iss thr, thr) ∧
    (let t := { thr with hold := .yielded 0 [1, 15] }
     (st t).thread? place = some t ∧ 0 ≤ (st t).cycle ∧ ∀ k ∈ [1, 15], (st t).thread? ⟨0, 0, k⟩ = none) ∧
    (let t := { thr with hold := .yielded 16 [] }
     (st t).thread? place = some t ∧ ¬ 16 ≤ (st t).cycle) :=
  ⟨rfl, ⟨rfl, by decide, by decide +kernel⟩, rfl, by decide⟩

/-- An element of 8 bytes at an address of the plain page. -/
def plainElem : Elem := ⟨0, 0x100, 0x1000000100, 8⟩

/-- No active lane; an element that fails; one that passes; and one in another die's scratchpad. `regset` alike. -/
theorem witness_PlainLoads :
    (∃ f, loadForm thr (.vld 1 1 1 0 0) = some f ∧ f.elems = []) ∧
    (let t := regs [(1, 4)]
     (st t).current = some (iss t, t) ∧ ∃ f, loadForm t (.ld 3 1 15 false 0) = some f ∧ f.elems = [] ++ (0, 4) :: [] ∧
      List.Forall₂ (Passes (st t) (iss t) t f.access f.size) [] [] ∧ (st t).check 0 0 f.access 4 f.size = .fail causeAlign) ∧
    (let t := regs [(1, 0x100)]
     ∃ f, loadForm t (.ld 3 1 0 false 0) = some f ∧ List.Forall₂ (Passes (st t) (iss t) t f.access f.size) f.elems [plainElem] ∧
      ¬ (paSpace plainElem.paddr = 1 ∧ paHome plainElem.paddr ≠ 0)) ∧
    (let t := regs [(1, 0xA00000)]
     ∃ f, loadForm t (.ld 3 1 0 false 0) = some f ∧
      List.Forall₂ (Passes (st t) (iss t) t f.access f.size) f.elems [⟨0, 0xA00000, 0x1000200000000, 8⟩] ∧
      paSpace 0x1000200000000 = 1 ∧ paHome 0x1000200000000 ≠ 0) ∧
    ((6 : BitVec 32).getLsbD 0 = false ∧ (6 : BitVec 32) ≠ 0 ∧ uA (regs [(1, 4)]) 1 % 8 ≠ 0 ∧ uA (regs [(1, 0x100)]) 1 % 8 = 0) ∧
    (let t := regs [(1, 0xC00000)]
     (st t).check 0 0 .load 0xC00000 8 = .fail causeProt ∧ plus t 1 0 = 0xC00000) ∧
    (let t := regs [(1, 0x100)]
     List.Forall₂ (Passes (st t) (iss t) t .load 8) [(0, plus t 1 0), (1, plus t 1 8)]
      [plainElem, ⟨1, 0x108, 0x1000000108, 8⟩]) :=
  ⟨⟨_, rfl, by decide +kernel⟩, ⟨rfl, _, rfl, by decide +kernel, .nil, by decide +kernel⟩,
    ⟨_, rfl, .cons ⟨rfl, by decide +kernel, rfl, _, rfl⟩ .nil, by decide +kernel⟩,
    ⟨_, rfl, .cons ⟨rfl, by decide +kernel, rfl, _, rfl⟩ .nil, by decide +kernel, by decide +kernel⟩,
    by decide +kernel, by decide +kernel,
    .cons ⟨rfl, by decide +kernel, rfl, _, rfl⟩ (.cons ⟨rfl, by decide +kernel, rfl, _, rfl⟩ .nil)⟩

/-- A store, an atomic and stamped accesses that pass, and addresses at which each fails. -/
theorem witness_StoresIssue :
    (let t := regs [(1, 4)]
     (st t).current = some (iss t, t) ∧ ∃ f, storeForm t (.st 1 2 false 0) = some f ∧ f.elems = [] ++ (0, 4) :: [] ∧
      List.Forall₂ (Passes (st t) (iss t) t f.access f.size) [] [] ∧ (st t).check 0 0 f.access 4 f.size = .fail causeAlign) ∧
    (let t := regs [(1, 0x100)]
     ∃ f, storeForm t (.st 1 2 false 0) = some f ∧ List.Forall₂ (Passes (st t) (iss t) t f.access f.size) f.elems [plainElem]) ∧
    (let t := regs [(1, 0x100)]
     atomicForm (.acas 3 1 2 0 true 0) = some (.cas, 3, 1, 2, 0, 4, 0) ∧ plus t 1 0 = 0x100 ∧
      (st t).check 0 0 .atomic 0x102 4 = .fail causeAlign ∧ ∃ leaf, (st t).check 0 0 .atomic 0x100 4 = .ok 0x1000000100 leaf) ∧
    (st thr).check 0 0 .stampedLoad 0x400080 256 = .fail causeAlign ∧ (st thr).check 0 0 .stampedStore 0x100 256 = .fail causeProt ∧
    (∃ leaf, (st thr).check 0 0 .stampedLoad 0x400000 256 = .ok 0x1000400000 leaf) ∧
    ∃ leaf, (st thr).check 0 0 .stampedStore 0x400000 256 = .ok 0x1000400000 leaf :=
  ⟨⟨rfl, _, rfl, by decide +kernel, .nil, by decide +kernel⟩, ⟨_, rfl, .cons ⟨rfl, by decide +kernel, rfl, _, rfl⟩ .nil⟩,
    ⟨rfl, by decide +kernel, by decide +kernel, _, rfl⟩, by decide +kernel, by decide +kernel, ⟨_, rfl⟩, _, rfl⟩

/-- An entry at the first word of a table. -/
def entryAt (e : Word) : State := State.reset.write64 0x1000000000 e

/-- Every outcome of the checks and of one level of a walk. -/
theorem witness_Translation :
    (0x104 : Word).toNat % 8 ≠ 0 ∧ ((0x0001000000000000 : Word).toNat % 8 = 0 ∧ 2 ^ 48 ≤ (0x0001000000000000 : Word).toNat) ∧
    (st thr).leafOf 0 0 0xC00000 = .fail causeProt ∧
    (∃ e, (st thr).leafOf 0 0 0x400000 = .leaf e 0x400000 0x200000 ∧ [57, 58, 59, 60].countP (fun k => bitOf e k) ≤ 1) ∧
    (2 ^ 48 - 1 < 2 ^ 48 ∧ 3 < 4) ∧ ¬ (paSpace 0 = 0 ∧ paValid 0 = true) ∧
    (paSpace 0x1000000000 = 0 ∧ paValid 0x1000000000 = true ∧
      ({ State.reset with errors := [0x1000000007] }).badRange 0x1000000000 8 = true ∧
      State.reset.badRange 0x1000000000 8 = false) ∧
    bitOf (State.reset.read64 0x1000000000) 63 = false ∧
    (let e := (entryAt 0x8000000000000001).read64 0x1000000000
     bitOf e 63 = true ∧ Malformed e 3 (2 ^ 16)) ∧
    (let e := (entryAt 0xC180001000000000).read64 0x1000000000
     bitOf e 63 = true ∧ ¬ Malformed e 0 (2 ^ 34) ∧ bitOf e 62 = true) ∧
    (let e := (entryAt 0x8000001000001000).read64 0x1000000000
     bitOf e 63 = true ∧ ¬ Malformed e 0 (2 ^ 34) ∧ bitOf e 62 = false) := by
  refine ⟨by decide, by decide, by decide +kernel, ⟨_, rfl, by decide +kernel⟩, by decide, by decide +kernel, by decide +kernel,
    by decide +kernel, ?_, ?_, ?_⟩
  · exact ⟨by decide +kernel, .inr (.inl (by decide +kernel))⟩
  · refine ⟨by decide +kernel, ?_, by decide +kernel⟩
    have h : (entryAt 0xC180001000000000).read64 0x1000000000 = 0xC180001000000000 := by decide +kernel
    rw [h]
    simp only [Malformed]
    rintro (h | h | ⟨h, -⟩ | h | h | h | h | h | h) <;> revert h <;> decide
  · refine ⟨by decide +kernel, ?_, by decide +kernel⟩
    have h : (entryAt 0x8000001000001000).read64 0x1000000000 = 0x8000001000001000 := by decide +kernel
    rw [h]
    simp only [Malformed]
    rintro (h | h | ⟨-, h | ⟨n, h1, h2, h⟩⟩ | h | h | h | h | h | h)
    · revert h; decide
    · revert h; decide
    · revert h; decide
    · interval_cases n <;> revert h <;> decide
    all_goals revert h; decide

/-- A request of thread 1 to a die. -/
def ask (dest : Nat) (body : ReqBody) : Req :=
  { req := 50, owner := 1, wid := 1, ctx := 0, src := 0, srcCore := 0, dest, core := none, engine := false, retries := 0,
    notBefore := none, ordered := false, hops := 0, body }

/-- A list of one element is its own first. -/
theorem first_one {α : Type} (P : α → Prop) (x : α) (h : P x) : FirstOf P [x] [] x [] := ⟨rfl, h, by simp⟩

/-- A request that may go, one that waits after "retry", and a stamped store behind an earlier request. -/
theorem witness_RequestsTravel :
    (let r := ask 1 (.ldas 0 0)
     let s := { st thr with sends := [r], chans := [r] }
     FirstOf (fun q => q.owner = 1 ∧ q.dest = 1) s.sends [] r [] ∧ MayGo { st thr with sends := [r] } r ∧ r.notBefore = none ∧
      FirstOf (fun q => q.src = 0 ∧ q.dest = 1 ∧ q.engine = false) s.chans [] r []) ∧
    (let r := { ask 1 (.ldas 0 0) with notBefore := some 512 }
     let s := { st thr with sends := [r], cycle := 512 }
     FirstOf (fun q => q.owner = 1 ∧ q.dest = 1) s.sends [] r [] ∧ MayGo s r ∧ r.notBefore ≠ none ∧
      ¬ MayGo { s with cycle := 511 } r) ∧
    (let r := ask 1 (.sta 0x400000 0x1000400000 1 0)
     let q := { ask 3 (.ldas 0 0) with req := 49 }
     let s := { st thr with sends := [r], arrivals := [q] }
     FirstOf (fun q => q.owner = 1 ∧ q.dest = 1) s.sends [] r [] ∧ ¬ MayGo s r) := by
  have clear : ∀ (s : State) (r : Req), s.routeClear r.src r.dest = true → r.engine = false →
      (∀ z ∈ s.sends, z.zeroes = false) → s.chans = [] → s.arrivals = [] → s.resps = [] → s.outs = [] → r.isStamped = false →
      (∀ c, r.notBefore = some c → c ≤ s.cycle) → r.ordered = false → MayGo s r := by
    intro s r h1 h2 h3 h4 h5 h6 h7 h8 h9 h10
    refine ⟨h1, ?_, .inr ⟨?_, by simp [h8], h9, by simp [h10]⟩⟩
    · rintro ⟨z, hz, z0, -⟩
      simp [h2] at hz
      simp [h3 z hz] at z0
    · rintro (h | ⟨o, ho, -⟩)
      · rcases h with ⟨q, hq, -⟩ | ⟨x, hx, -⟩
        · simp [h4, h5] at hq
        · simp [h6] at hx
      · simp [h7] at ho
  refine ⟨⟨first_one _ _ ⟨rfl, rfl⟩, ?_, rfl, first_one _ _ ⟨rfl, rfl, rfl⟩⟩,
    ⟨first_one _ _ ⟨rfl, rfl⟩, ?_, by decide, ?_⟩, first_one _ _ ⟨rfl, rfl⟩, ?_⟩
  · exact clear _ _ (by decide +kernel) rfl (by simp [ask]) rfl rfl rfl rfl rfl (by simp [ask]) rfl
  · exact clear _ _ (by decide +kernel) rfl (by simp [ask]) rfl rfl rfl rfl rfl (by simp) rfl
  · rintro ⟨-, -, h | ⟨-, -, h, -⟩⟩
    · cases h
    · exact absurd (h 512 rfl) (by decide)
  · rintro ⟨-, -, h | ⟨-, h, -⟩⟩
    · cases h
    · exact h rfl (.inr (.inl (.inl ⟨{ ask 3 (.ldas 0 0) with req := 49 }, by simp, rfl, by decide⟩)))

/-- A machine with one request at its home, plinth die 1. -/
def home1 (body : ReqBody) : State := { st thr with arrivals := [ask 1 body] }

/-- A step on a block that has had none this cycle, and on one that has; an atomic at a sound and at a bad location. -/
theorem witness_PlainPerforms :
    (let r := ask 1 (.atomic .add 8 0x100 0x1000000100 1 0)
     (home1 r.body).stored ∧ FirstOf (fun q => q.dest = 1) (home1 r.body).arrivals [] r [] ∧ (home1 r.body).evictedAt r = false ∧
      r.block ∉ (home1 r.body).stepped ∧ r.block ∈ ({ home1 r.body with stepped := [r.block] }).stepped ∧
      (8 = 4 ∨ 8 = 8) ∧ (1 : Word).toNat < 2 ^ (8 * 8) ∧ (home1 r.body).badRange 0x1000000100 8 = false ∧
      ({ home1 r.body with errors := [0x1000000107] }).badRange 0x1000000100 8 = true) :=
  ⟨⟨by decide, by decide⟩, first_one _ _ rfl, rfl, by decide +kernel, by decide +kernel, by decide, by decide, by decide +kernel,
    by decide +kernel⟩

/-- An `lda` that is fresh by its lag; one that is not, with no writer; one whose writer is stopped; a monitor whose ordinary
entries are full. A stamped store newer and one older than the block. -/
theorem witness_StampedPerforms :
    (let r := ask 1 (.lda 0x400000 0x1000400000 5 0 true)
     FirstOf (fun q => q.dest = 1) (home1 r.body).arrivals [] r [] ∧ (home1 r.body).evictedAt r = false ∧
      r.block ∉ (home1 r.body).stepped ∧
      ¬ ((0 : BitVec 8) = 255 ∨ -((0 : BitVec 8).toNat : Int) ≤
        stampDiff (BitVec.ofNat 32 ((home1 r.body).sideband 0x1000400000).toNat) 5) ∧
      -((5 : BitVec 8).toNat : Int) ≤ stampDiff (BitVec.ofNat 32 ((home1 r.body).sideband 0x1000400000).toNat) 5 ∧
      (((home1 r.body).die 1).monitor.filter fun m => !m.reserved).length < 3840 ∧
      ¬ (((List.replicate 3840 (default : MonEntry)).filter fun m => !m.reserved).length < 3840) ∧ ¬ 4 ≤ r.retries) ∧
    (let s := { st thr with side := [(0x1000400000, 0x00004100000000)], dies := [(1, { stopSet := [0x41] })] }
     let writer : BitVec 24 := BitVec.ofNat 24 ((s.sideband 0x1000400000).toNat / 2 ^ 32)
     writer ≠ 0 ∧ writer ∈ (s.die 1).stopSet) ∧
    (let r := ask 1 (.sta 0x400000 0x1000400000 7 0)
     let s := { home1 r.body with side := [(0x1000400000, 0x00000000000009)] }
     s.stored ∧ FirstOf (fun q => q.dest = 1) s.arrivals [] r [] ∧ s.evictedAt r = false ∧ r.block ∉ s.stepped ∧
      stampDiff 7 (BitVec.ofNat 32 (s.sideband 0x1000400000).toNat) < 0 ∧
      0 ≤ stampDiff 9 (BitVec.ofNat 32 (s.sideband 0x1000400000).toNat)) :=
  ⟨⟨first_one _ _ rfl, rfl, by decide +kernel, by decide +kernel, by decide +kernel, by decide, by
      rw [List.filter_replicate_of_pos rfl, List.length_replicate]; decide, by decide⟩,
    ⟨by decide +kernel, by decide +kernel⟩,
    ⟨⟨by decide, by decide +kernel⟩, first_one _ _ rfl, rfl, by decide +kernel, by decide +kernel, by decide +kernel⟩⟩

/-- An answer on its way to a thread with one operation open, of a vector and of a uniform destination; a regress notice to a
thread that has the id, and one that has left it; and one to a thread that is saved. -/
theorem witness_RespondRules :
    (let g := { openTag1 with hasV := true, sds := [], u := [] }
     let t := { thr with tags := [g] }
     let r : Resp := ⟨7, 1, 0, 0, 0, 0, 0, 0, .values [(63, 5)], false⟩
     let s := { st t with resps := [r] }
     FirstOf (fun q => q.src = 0 ∧ q.dest = 0) s.resps [] r [] ∧ s.findThread r.owner = some (place, t) ∧
      s.thread? place = some t ∧ s.routeClear 0 0 = true ∧ s.routeClear 1 0 = true ∧
      FirstOf (fun h => h.req = r.req) t.tags [] g [] ∧ g.state = .waiting ∧
      (∀ h ∈ ([] ++ [] : List Tag), h.ordered = true → h.image = false → h.state ≠ .ready) ∧ g.hasV = true ∧ g.ordered = false) ∧
    (let t := { thr with tags := [openTag1] }
     FirstOf (fun h => h.req = 7) t.tags [] openTag1 [] ∧ openTag1.hasV = false ∧ openTag1.state = .waiting ∧
      openTag1.u.length = 1 ∧ openTag1.ordered = false) ∧
    (let g := { openTag1 with ordered := true }
     g.ordered = true ∧ g.image = false ∧ afterGroup g g.fault = .ready) ∧
    (let r : Resp := ⟨7, 1, 1, 0, 1, 0, 0, 0, .regress 0x400000 1, false⟩
     let s := { st thr with resps := [r] }
     FirstOf (fun q => q.src = 1 ∧ q.dest = 0) s.resps [] r [] ∧ s.routeClear 1 0 = true ∧ s.blockOf r.owner = none ∧
      s.findThread r.owner = some (place, thr) ∧ s.widAt place = 1 ∧
      (∀ p t, s.findThread r.owner = some (p, t) → s.widAt p ≠ 2) ∧
      ({ s with saving := [saving1 true] }).blockOf r.owner = some (saving1 true)) := by
  refine ⟨⟨first_one _ _ ⟨rfl, rfl⟩, rfl, rfl, by decide +kernel, by decide +kernel, first_one _ _ rfl, rfl, by simp, rfl, rfl⟩,
    ⟨first_one _ _ rfl, rfl, rfl, rfl, rfl⟩, by decide,
    ⟨first_one _ _ ⟨rfl, rfl⟩, by decide +kernel, rfl, rfl, by decide +kernel, ?_, rfl⟩⟩
  intro p t h
  cases h
  decide +kernel

/-- A launch for a free slot and for a taken one; the arbiter at, off and again at its boundary. -/
theorem witness_SlotsFill :
    (let p : Place := ⟨0, 0, 1⟩
     let l : LaunchRec := ⟨0, p, 0x600000, [], false⟩
     FirstOf (fun x => x.place = p ∧ x.held = false) [l] [] l [] ∧ ({ st thr with launches := [l] }).slotFree p = true) ∧
    (let l : LaunchRec := ⟨0, place, 0x600000, [], false⟩
     FirstOf (fun x => x.place = place ∧ x.held = false) [l] [] l [] ∧ ({ st thr with launches := [l] }).slotFree place = false) ∧
    (State.reset.cycle % 16 = 0 ∧ (State.reset.core 0 0).lastArb ≠ some State.reset.cycle) ∧
    ({ State.reset with cycle := 15 }).cycle % 16 ≠ 0 :=
  ⟨⟨first_one _ _ ⟨rfl, rfl⟩, by decide +kernel⟩, ⟨first_one _ _ ⟨rfl, rfl⟩, by decide +kernel⟩, by decide, by decide⟩

/-- A stopped thread with and without a stamped store on its way; a notice at a plinth die, at the die of its id, and at its slot. -/
theorem witness_StopNotices :
    (let x : Stopped := ⟨1, [1], 0, 0⟩
     let s := { st thr with stopped := [x] }
     FirstOf (fun y => y.uid = 1) s.stopped [] x [] ∧ s.stampedPending 1 = false ∧
      ({ s with sends := [ask 1 (.sta 0x400000 0x1000400000 1 0)] }).stampedPending 1 = true) ∧
    (let x : StopNotice := ⟨[1], 0, [], []⟩
     let s := { st thr with notices := [x] }
     s.notices[0]? = some x ∧ isPlinth 1 = true ∧ 1 ∉ x.applied ∧ s.defers x = false ∧ (s.die 1).deferred = [] ∧ 0 ∉ x.cleared ∧
      x.ids = [1] ∧ (widPlace 1).die = 0) ∧
    (let s := { st thr with slots := [(place, { noticed := [1] })] }
     (s.slot place).gen ∈ (s.slot place).noticed ∧ s.noticePending (s.widAt place) = false) :=
  ⟨⟨first_one _ _ rfl, by decide +kernel, by decide +kernel⟩,
    ⟨rfl, by decide, by decide, by decide +kernel, rfl, by decide, rfl, by decide⟩, ⟨by decide, by decide +kernel⟩⟩

theorem witness_QuietWords : (st thr).current = some (iss thr, thr) ∧ ((st thr).slot place).heldAway = [] ∧ thr.priv = false ∧
    (st privThread).saved privThread.uid = true ∧ ({ st privThread with saving := [saving1 false] }).saved privThread.uid = false :=
  ⟨rfl, rfl, rfl, rfl, rfl⟩

/-- A machine with a stack of nodes and a context whose quarry is empty. -/
def netState (t : Thread) (stack : List Word) : State :=
  { st t with cores := [((0, 0), { partitions := [⟨0, 0, 64⟩], nodeStacks := [(0, stack)] })] }

/-- Two nodes on the stack. -/
def twoNodes : State := netState thr [0x200000, 0x200020]

theorem two_not_zeroing (a : Word) (h : a ∈ (stack twoNodes place 0).take 2) : twoNodes.zeroing 0 0 a = false := by
  have all : ((stack twoNodes place 0).take 2).all (fun a => !twoNodes.zeroing 0 0 a) = true := by decide +kernel
  simpa using List.all_eq_true.mp all a h

/-- `link`: operands that are references, or not, or fail; with room and with none. `alloc`: a full stack, a short one, and a
quarry found empty. `free` and `push`: nodes that pass and fail, and a full hod. -/
theorem witness_NetWords :
    (let t := regs [(1, 0x200000), (2, 0x200022), (3, 3), (4, 0x800000)]
     (st t).current = some (iss t, t) ∧ IsRef (t.readS 1) ∧ IsRef (t.readS 2) ∧ ¬ IsRef (t.readS 3) ∧ IsRef (t.readS 4) ∧
      (st t).check 0 0 .nodeStore (portAddr (t.readS 1)) 8 = .ok 0x1000200008 (leafTo [55, 56, 59] 0x1000200000) ∧
      (st t).check 0 0 .nodeStore (portAddr (t.readS 2)) 8 = .ok 0x1000200038 (leafTo [55, 56, 59] 0x1000200000) ∧
      (st t).check 0 0 .nodeStore (portAddr (t.readS 4)) 8 = .fail causeProt ∧
      (((st t).core 0 0).held.filter fun r => r.ctx = 0).length < 16) ∧
    16 ≤ ((List.replicate 16 (default : FreshRec)).filter fun r => r.ctx = 0).length ∧
    ((2 : BitVec 21).toNat ≤ (stack twoNodes place 0).length ∧
      (∀ a ∈ (stack twoNodes place 0).take 2, twoNodes.zeroing 0 0 a = false) ∧
      (stack twoNodes place 0).length < (4 : BitVec 21).toNat ∧ ¬ (thr.hold = .quarry true ∧ twoNodes.quarryLeft 0 = false)) ∧
    (let t := { thr with hold := .quarry true }
     (netState t []).current = some (iss t, t) ∧ (stack (netState t []) place 0).length < (1 : BitVec 21).toNat ∧
      t.hold = .quarry true ∧ (netState t []).quarryLeft 0 = false) ∧
    (st thr).check 0 0 .nodeStore 0x200010 32 = .fail causeAlign ∧
    (∃ leaf, (st thr).check 0 0 .nodeStore 0x200020 32 = .ok 0x1000200020 leaf) ∧
    (st thr).check 0 0 .nodeName 0x100 32 = .fail causeProt ∧
    (∃ leaf, (st thr).check 0 0 .nodeName 0x200020 32 = .ok 0x1000200020 leaf) ∧
    (st thr).hodFull 0 0 0 = false ∧ ({ st thr with cores := [((0, 0), { hodcap := [(0, 0)] })] }).hodFull 0 0 0 = true :=
  ⟨⟨rfl, ⟨by decide +kernel, by decide +kernel⟩, ⟨by decide +kernel, by decide +kernel⟩,
      fun h => absurd h.2 (by decide +kernel), ⟨by decide +kernel, by decide +kernel⟩, by decide +kernel, by decide +kernel, by decide +kernel,
      by decide +kernel⟩, by decide +kernel, ⟨by decide +kernel, two_not_zeroing, by decide +kernel, fun h => nomatch h.1⟩,
    ⟨rfl, by decide +kernel, rfl, rfl⟩, by decide +kernel, ⟨_, rfl⟩, by decide +kernel, ⟨_, rfl⟩, by decide +kernel,
    by decide +kernel⟩

/-! Reads of nodes, and the places of steps, have no equality test of their own: one from a Boolean test each. -/

/-- A Boolean test of a node read. -/
def nodeIs (x : NodeRead) (h p0 p1 p2 : Word) (home : Nat) : Bool :=
  match x with
  | .ok a b c d e => decide (a = h ∧ b = p0 ∧ c = p1 ∧ d = p2 ∧ e = home)
  | _ => false

theorem node_of (x : NodeRead) (h p0 p1 p2 : Word) (home : Nat) (t : nodeIs x h p0 p1 p2 home = true) :
    x = .ok h p0 p1 p2 home := by
  cases x <;> simp_all [nodeIs]

/-- A Boolean test of where a step acts. -/
def atIs (x : StepAt) (pa : Nat) : Bool :=
  match x with
  | .at_ a => decide (a = pa)
  | _ => false

theorem at_of (x : StepAt) (pa : Nat) (t : atIs x pa = true) : x = .at_ pa := by
  cases x <;> simp_all [atIs]

/-- A thread whose link of port 0 of node 0x200000 to port 1 of node 0x200020 is at a phase, with words of memory. -/
def linkThread (x : Word) (ph : LinkPhase) : Thread :=
  { thr with hold := .link, link := some ⟨0x200000, 0x200021, x, ph, 0, 0, []⟩ }

/-- The machine of such a thread. -/
def linkState (x : Word) (ph : LinkPhase) (mem : List Host.Cell) : State := { st (linkThread x ph) with mem }

/-- The thread as a party. -/
def linkParty (x : Word) (ph : LinkPhase) : Party := ⟨1, 0, 0, 0, some place, .link ⟨0x200000, 0x200021, x, ph, 0, 0, []⟩⟩

theorem link_party (x : Word) (ph : LinkPhase) (mem : List Host.Cell) : (linkState x ph mem).party 1 = some (linkParty x ph) := rfl

/-- A link between two ports of a NET page, from 0x200000. -/
def linked1 : List Host.Cell := [(0x1000200008, 0x40), (0x100020000A, 0x20), (0x100020000F, 0x40)]

theorem idle_may (s : State) (die ctx : Nat) (thread : Option Nat) (pa : Nat) (h1 : s.paAway ctx pa = false) (h2 : s.stepped = [])
    (h3 : s.chans = []) (h4 : s.arrivals = []) (h5 : s.sends = []) (h6 : s.outs = []) : MayAct s die ctx thread pa := by
  simp [MayAct, h1, h2, h3, h4, h5, h6]

/-- A step that acts, one refused by its page, one of a home out of service, one whose block has had a step; a thread's link; a
rewrite's; a write that is due; and an issuer with none. -/
theorem witness_StepsMeet :
    (st thr).check 0 0 .nodeStore 0x800000 8 = .fail causeProt ∧
    (∃ leaf, (st thr).check 0 0 .nodeStore 0x200008 8 = .ok 0x1000200008 leaf) ∧
    (({ st thr with dies := [(0, { tlb := pages }), (1, { outOfService := true })] }).die 1).outOfService = true ∧
    ((st thr).die (paHome 0x1000200008)).outOfService = false ∧ MayAct (st thr) 0 0 (some 1) 0x1000200008 ∧
    ¬ MayAct { st thr with stepped := [0x1000200000] } 0 0 (some 1) 0x1000200008 ∧ IsRef 0x200000 ∧ ¬ IsRef 3 := by
  refine ⟨by decide +kernel, ⟨_, rfl⟩, rfl, rfl, idle_may _ _ _ _ _ (by decide +kernel) rfl rfl rfl rfl rfl, ?_, ⟨by decide +kernel, by decide +kernel⟩,
    fun h => absurd h.2 (by decide +kernel)⟩
  rintro ⟨-, h, -⟩
  exact h (.head _)

/-- A Take of a linked port, of a root and of an unlinked port; an Attach that finds its own name, a hold, a redirect and an
unlinked port; a hold that is over and one that is not. -/
theorem witness_LinkUnit_link :
    (let p := linkParty 0 .check
     let s := linkState 0 .check linked1
     s.party 1 = some p ∧ p.work.writes = [] ∧ s.portAt p 0x200021 = .at_ 0x1000200030 ∧ s.read64 0x1000200030 = 0 ∧
      NextPort 1 (.take 1) 0x200021 p.work) ∧
    (let p := linkParty 0 .take
     let s := linkState 0 .take linked1
     s.party 1 = some p ∧ s.portAt p 0x200000 = .at_ 0x1000200008 ∧ ¬ HalfMade s p 0x200000 ∧ Takable (s.read64 0x1000200008) ∧
      portKind (s.read64 0x1000200008) = 1) ∧
    (let s := linkState 0 .take [(0x1000200008, 0x80), (0x100020000A, 0x20), (0x100020000F, 0xC0)]
     Takable (s.read64 0x1000200008) ∧ portKind (s.read64 0x1000200008) = 3) ∧
    ¬ Takable ((linkState 0 .take []).read64 0x1000200008) ∧
    (let p := linkParty 0x200040 .attach
     let own := linkState 0x200040 .attach [(0x100020004A, 0x20), (0x100020004F, 0x40)]
     let hold := linkState 0x200040 .attach [(0x100020004F, 0x80)]
     let redirect := linkState 0x200040 .attach [(0x1000200048, 0x60), (0x100020004A, 0x20), (0x100020004F, 0x80)]
     own.party 1 = some p ∧ own.portAt p 0x200040 = .at_ 0x1000200048 ∧
      own.read64 0x1000200048 = linkTo 0x200000 ∧ AtPort0 0x200040 ∧ hold.read64 0x1000200048 ≠ linkTo 0x200000 ∧
      Holds (hold.read64 0x1000200048) ∧ Redirects (redirect.read64 0x1000200048) ∧
      ¬ Redirects ((linkState 0x200040 .attach []).read64 0x1000200048)) ∧
    ((linkState 0 (.hold 16) []).party 1 = some (linkParty 0 (.hold 16)) ∧ ¬ 16 ≤ (linkState 0 (.hold 16) []).cycle ∧
      0 ≤ (linkState 0 (.hold 0) []).cycle) := by
  refine ⟨⟨rfl, rfl, at_of _ _ ?_, ?_, .inl ⟨rfl, rfl, rfl⟩⟩, ⟨rfl, at_of _ _ ?_, ?_, ⟨?_, .inl ?_⟩, ?_⟩, ⟨⟨?_, .inr ?_⟩, ?_⟩, ?_,
    ⟨rfl, at_of _ _ ?_, ?_, by decide, ?_, ⟨?_, ?_, ?_⟩, ⟨?_, ?_, ?_⟩, ?_⟩, rfl, ?_, ?_⟩
  case refine_4 =>
    rintro ⟨q, hq, hne, -⟩
    have all : (linkState 0 .take linked1).parties.all (fun q => q.uid == 1) = true := by decide +kernel
    exact hne (by simpa [linkParty] using List.all_eq_true.mp all q hq)
  case refine_11 => rintro ⟨-, h | h⟩ <;> revert h <;> decide +kernel
  case refine_21 => rintro ⟨-, h, -⟩; revert h; decide +kernel
  all_goals decide +kernel

/-- A second thread, with a link that waits at 0x200000 after a FIRST. -/
def waiter : Thread := { thr with uid := 2, hold := .link, link := some ⟨0x200000, 0x200041, 0, .waitFirst 0x200000 0x200060, 0, 0, []⟩ }

/-- The machine of a link that meets where another waits, and alone. -/
def meetState (others : List (Place × Slot)) (mem : List Host.Cell) : State :=
  let ph := LinkPhase.meet 0x200000 0x200060
  let s := linkState 0 ph mem
  { s with slots := s.slots ++ others }

/-- The waiting link as a party. -/
def waitParty : Party :=
  ⟨2, 0, 0, 0, some ⟨0, 0, 1⟩, .link ⟨0x200000, 0x200041, 0, .waitFirst 0x200000 0x200060, 0, 0, []⟩⟩

/-- The first Meet of a port, the second with its first still there, and with it gone. -/
theorem witness_LinkUnit_meet :
    (let p := linkParty 0 (.meet 0x200000 0x200060)
     let first := meetState [] [(0x1000200008, 0x60), (0x100020000A, 0x20), (0x100020000F, 0x80)]
     first.party 1 = some p ∧ p.work.writes = [] ∧ first.portAt p 0x200000 = .at_ 0x1000200008 ∧
      (∃ k d, p.work = .link k ∧ k.phase = .meet 0x200000 d) ∧ portOk (first.read64 0x1000200008) = true ∧
      portKind (first.read64 0x1000200008) = 2 ∧ bitOf (first.read64 0x1000200008) 61 = false ∧ NoneWaits first p 0x200000) ∧
    (let p := linkParty 0 (.meet 0x200000 0x200060)
     let second := meetState [(⟨0, 0, 1⟩, { owner := some 0, thread := some waiter })]
       [(0x1000200008, 0x60), (0x100020000A, 0x20), (0x100020000F, 0xA0)]
     second.party 1 = some p ∧ portOk (second.read64 0x1000200008) = true ∧ portKind (second.read64 0x1000200008) = 2 ∧
      bitOf (second.read64 0x1000200008) 61 = true ∧ WaitsAt second p 0x200000 waitParty) := by
  refine ⟨⟨rfl, rfl, at_of _ _ ?_, ⟨_, _, rfl, rfl⟩, ?_, ?_, ?_, ?_⟩, ⟨rfl, ?_, ?_, ?_, ?_⟩⟩
  case refine_5 =>
    rintro q ⟨pre, post, h, hq, -⟩
    have all : (meetState [] [(0x1000200008, 0x60), (0x100020000A, 0x20), (0x100020000F, 0x80)]).parties.all (fun q => q.uid == 1) =
        true := by decide +kernel
    exact hq.1 (by simpa [linkParty] using List.all_eq_true.mp all q (h ▸ List.mem_append.mpr (.inr (.head _))))
  case refine_9 =>
    refine ⟨[linkParty 0 (.meet 0x200000 0x200060)], [], rfl, ⟨by decide, rfl, .inl ⟨_, _, rfl, rfl⟩⟩, ?_⟩
    rintro y hy
    obtain rfl := List.mem_singleton.mp hy
    exact fun h => h.1 rfl
  all_goals decide +kernel

/-- A rewrite with a splice in progress whose second end waits at the first's port. -/
def spliceJob (held : Nat) (ph : SplicePhase) : Rewrite :=
  { uid := 9, ctx := 0, die := 0, core := 0, action := 1, w0 := 0, w1 := 0, a := 0x200000, b := 0x200020, begun := true,
    faulted := false, writes := [], todo := [], frees := [],
    cur := some (.splice { a := ⟨0x200001, 0, 0, 0, .free, 0⟩, b := ⟨0x200021, 0, 0x200001, 0, .free, held⟩, turnB := false,
                           meets := [], pushes := true, phase := ph, writes := [], partners := [] }) }

/-- The machine of a rewrite. -/
def jobState (r : Rewrite) (mem : List Host.Cell) : State :=
  { st thr with cores := [((0, 0), { partitions := [⟨0, 0, 64⟩], rewrites := [r] })], mem }

/-- A splice that takes its first port, one with an Attach due, one on a closed circle, one that has met its hold too seldom, and a
hold that is over. -/
theorem witness_LinkUnit_splice :
    (let s := jobState (spliceJob 0 .takeFirst) [(0x1000200010, 0x40), (0x1000200012, 0x20), (0x1000200017, 0x40)]
     ∃ p t, s.party 9 = some p ∧ p.work = .splice t ∧ t.writes = [] ∧ t.phase = .takeFirst ∧
      s.portAt p t.a.port = .at_ 0x1000200010 ∧ Takable (s.read64 0x1000200010) ∧ ¬ HalfMade s p t.a.port ∧
      ¬ Takable ((jobState (spliceJob 0 .takeFirst) []).read64 0x1000200010)) ∧
    (let s := jobState (spliceJob 0 .attach) []
     ∃ p t, s.party 9 = some p ∧ p.work = .splice t ∧ t.phase = .attach ∧ StillDue t.a t.b) ∧
    (let s := jobState (spliceJob 64 (.hold 16)) []
     ∃ p t, s.party 9 = some p ∧ p.work = .splice t ∧ t.phase = .hold 16 ∧ 64 ≤ (if t.turnB then t.a else t.b).held ∧
      s.circle p.ctx p.uid (if t.turnB then t.b else t.a).port (s.parties.length + 1) (if t.turnB then t.a else t.b).far =
        some [9]) ∧
    (let s := jobState (spliceJob 63 (.hold 16)) []
     ∃ p t, s.party 9 = some p ∧ p.work = .splice t ∧ (if t.turnB then t.a else t.b).held < 64) := by
  refine ⟨⟨_, _, rfl, rfl, rfl, rfl, at_of _ _ ?_, ⟨?_, .inl ?_⟩, ?_, ?_⟩, ⟨_, _, rfl, rfl, rfl, ?_, .inl rfl⟩,
    ⟨_, _, rfl, rfl, rfl, ?_, ?_⟩, ⟨_, _, rfl, rfl, ?_⟩⟩
  case refine_4 =>
    rintro ⟨q, hq, hne, -⟩
    have all : (jobState (spliceJob 0 .takeFirst) [(0x1000200010, 0x40), (0x1000200012, 0x20), (0x1000200017, 0x40)]).parties.all
        (fun q => q.uid == 9) = true := by decide +kernel
    exact hne (by simpa using List.all_eq_true.mp all q hq)
  case refine_5 => rintro ⟨-, h | h⟩ <;> revert h <;> decide +kernel
  all_goals decide +kernel

/-- A rewrite whose splice still has a write to make, one that has met the wire of another, and an issuer with no link. -/
theorem witness_PartyWrites :
    (let r : Rewrite := { spliceJob 0 .attach with cur := some (.splice
       { a := ⟨0x200001, 0, 0, 0, .free, 0⟩, b := ⟨0x200021, 0, 0, 0, .free, 0⟩, turnB := false, meets := [], pushes := true,
         phase := .meets, writes := [(0x200010, 7)], partners := [] }) }
     let s := jobState r []
     ∃ p, s.party 9 = some p ∧ p.work.writes = (0x200010, 7) :: [] ∧ s.wordAt p 0x200010 = .at_ 0x1000200010) ∧
    (st thr).party 9 = none ∧ StepWord 9 (.meet 9) ∧
    (let s := jobState (spliceJob 0 .attach) []
     ∃ x : Core, ∃ r w, s.findThread 9 = none ∧ s.cores = [] ++ ((0, 0), x) :: [] ∧ FirstOf (fun y => y.uid = 9) x.rewrites [] r [] ∧
      r.die = 0 ∧ r.core = 0 ∧ r.cur = some w ∧ w.partners = []) ∧
    (let s := linkState 0 .take []
     s.findThread 1 = some (place, linkThread 0 .take) ∧ s.thread? place = some (linkThread 0 .take)) := by
  refine ⟨⟨_, rfl, rfl, at_of _ _ ?_⟩, rfl, .inr (.inr rfl), ⟨_, _, _, rfl, rfl, first_one _ _ rfl, rfl, rfl, rfl, rfl⟩, rfl, rfl⟩
  decide +kernel

/-- Two nodes of tag 2 with two auxiliary ports each. -/
def twoCons : List Host.Cell := [(0x1000200000, 2), (0x1000200002, 2), (0x1000200020, 2), (0x1000200022, 2)]

/-- A rewrite that has not begun. -/
def newJob (act : BitVec 4) : Rewrite :=
  { uid := 9, ctx := 0, die := 0, core := 0, action := act, w0 := 0, w1 := 0, a := 0x200000, b := 0x200020, begun := false,
    faulted := false, writes := [], todo := [], cur := none, frees := [] }

/-- Headers for each action, and rewrites that fail, begin, ask for nodes, run out of them, and end. -/
theorem witness_Rewrites :
    (nodeArity 0x20002 = nodeArity 0x20003 ∧ nodeArity 0x20002 ≠ nodeArity 1 ∧ nodeArity 0x20002 ≤ 2 ∧ nodeTag 1 = 1 ∧
      nodeTag 0xA0006 = 6 ∧ 2 ≤ nodeLabel 0xA0006 ∧ nodeLabel 0x3E0006 ≤ 15 ∧ nodeTag 0x50000004 = 4 ∧ nodeTag 0x90007 = 7 ∧
      numTable (nodeLabel 0x90007) (nodePayload 0x90007).toInt (nodePayload 0xFFFFFFFFFF000004).toInt = some (-1)) ∧
    (rewriteForm 9 (.annihilate 9)).isSome = true ∧
    ((jobState { newJob 1 with faulted := true } []).jobOf 9 = some { newJob 1 with faulted := true }) ∧
    ((jobState (newJob 1) twoCons).jobOf 9 = some (newJob 1) ∧ (newJob 1).action.toNat = 1 ∧
      (jobState (newJob 1) twoCons).readNode 0 0 0x200000 = .ok 0x20002 0 0 0 1 ∧
      (jobState (newJob 1) twoCons).readNode 0 0 0x200020 = .ok 0x20002 0 0 0 1 ∧
      nodeBad 0x20002 0 0 = false ∧ (planAnnihilate 0x200000 0x200020 0x20002 0x20002).isSome = true ∧ nodesMade 1 0x20002 0x20002 ≤ 0) ∧
    (nodeBad 0 0 0 = true ∧ nodesMade 2 0x20002 0x20002 = 4 ∧ (jobState (newJob 2) twoCons).quarryLeft 0 = false ∧
      ({ jobState (newJob 2) twoCons with ctxs := [⟨0, 0, 0x200000, [0x200040], 0, none⟩] }).quarryLeft 0 = true ∧
      (((jobState (newJob 2) twoCons).core 0 0).stackOf 0).length < 4) ∧
    (let r := { newJob 1 with begun := true, frees := [0x200000] }
     (jobState r []).jobOf 9 = some r ∧ r.cur = none ∧ r.todo = [] ∧ r.writes = [] ∧ r.faulted = false ∧
      (jobState r []).stepAt 0 0 none 0x200000 32 = .at_ 0x1000200000) ∧
    (let s := jobState (newJob 2) []
     (s.core 0 0).resident 0 = true ∧ (s.core 0 0).hodCount 0 < (s.core 0 0).capOf 0 ∧ (s.core 0 0).hod.length < 1024) ∧
    (State.reset.core 0 0).resident 0 = false ∧ State.reset.partRoom 0 0 = 0 := by
  refine ⟨?_, rfl, rfl, ⟨rfl, rfl, node_of _ _ _ _ _ _ ?_, node_of _ _ _ _ _ _ ?_, ?_⟩, ?_,
    ⟨rfl, rfl, rfl, rfl, rfl, at_of _ _ ?_⟩, ?_⟩ <;> decide +kernel

/-- A rule that may be written, its boundaries, and a thread that waits for its answers; a record in a hod; and a record whose
rule is CALL, with a free slot. -/
theorem witness_Dispatching_rules :
    (let t := regs [(1, 0xFFFF), (2, 0x104)]
     (st t).current = some (iss t, t) ∧ (st t).stored ∧ (t.readS 1).toNat ≤ 0xFFFF ∧ RuleOk (t.readS 2) ∧
      MayAct (st t) 0 0 (some 1) 0x7FFF8 ∧
      ¬ MayAct { st t with stepped := [0x7FF00] } 0 0 (some 1) 0x7FFF8) ∧
    0xFFFF < (0x10000 : Word).toNat ∧ ¬ RuleOk 6 ∧
    (let t := { thr with hold := .rulew 5 [0, 2] }
     let x : Slot := { owner := some 0, thread := some t }
     (st t).slots = [] ++ (place, x) :: [] ∧ x.thread = some t ∧ t.hold = .rulew 5 [0, 2] ∧ 2 ∈ [0, 2]) ∧
    (let e : HodEntry := ⟨0x200000, 0x200020, 0, 0⟩
     ({ st thr with cores := [((0, 0), { hod := [e] })] }).nextRecord 0 0 0 = some e) :=
  ⟨⟨rfl, ⟨by decide, by decide⟩, by decide +kernel, ⟨by decide +kernel, by decide +kernel, by decide +kernel⟩,
      idle_may _ _ _ _ _ (by decide +kernel) rfl rfl rfl rfl rfl, fun h => h.2.1 (.head _)⟩, by decide, fun h => absurd h.2.1 (by decide +kernel), ⟨rfl, rfl, rfl, by decide⟩, by decide +kernel⟩

/-- A record whose rule calls a handler, on a core with a free slot of its context. -/
def callState : State :=
  { st thr with
    slots := [(⟨0, 0, 1⟩, { owner := some 0 })], mem := twoCons
    cores := [((0, 0), { partitions := [⟨0, 0, 64⟩], weights := [(0, 1)], hod := [⟨0x200000, 0x200020, 0, 0⟩],
                         cache := [(0, 0, 0xC000004)] })] }

theorem witness_Dispatching_call :
    (let p : Place := ⟨0, 0, 1⟩
     (callState.core 0 0).takeBusy = none ∧ (callState.slot p).owner = some 0 ∧ (callState.die 0).halt = false ∧
      (callState.core 0 0).lastTake ≠ some callState.cycle ∧ (callState.core 0 0).weightOf 0 ≠ 0 ∧
      (callState.core 0 0).resident 0 = true ∧ callState.slotFor p 0 = true ∧
      callState.nextRecord 0 0 0 = some ⟨0x200000, 0x200020, 0, 0⟩) ∧
    recA 0x200000 = 0x200000 ∧ recB 0x200020 = 0x200020 ∧
    (nodeIs (callState.readNode 0 0 0x200000) 0x20002 0 0 0 1 = true ∧ nodeIs (callState.readNode 0 0 0x200020) 0x20002 0 0 0 1 = true ∧
      nodeBad 0x20002 0 0 = false) ∧
    (let rule := (callState.ruleRead 0 0 0 (callState.classOf 0 2 * 256 + callState.classOf 0 2)).2
     rule.toNat / 2 ^ 48 = 0 ∧ rule.toNat % 16 = 4 ∧ rule.toNat / 2 ^ 8 % 2 ^ 40 ≠ 0) := by
  refine ⟨⟨rfl, rfl, rfl, ?_⟩, ?_, ?_, ?_, ?_⟩ <;> decide +kernel

/-- A take of a record whose rule is action 1, with the unit free, and one that waits with the unit's eight places full. -/
theorem witness_Dispatching_actions :
    (let s := { callState with cores := [((0, 0), { callState.core 0 0 with cache := [(0, 0, 1)] })] }
     let p : Place := ⟨0, 0, 1⟩
     recCtx 0x200000 = 0 ∧ (s.slot p).thread = none ∧ (s.slot p).heldAway = [] ∧ (s.core 0 0).takeBusy = none ∧
      (s.core 0 0).rewrites.length < 8 ∧ (∀ r ∈ (s.core 0 0).held, ¬ (r.ctx = 0 ∧ r.src = .unit)) ∧
      (let rule := (s.ruleRead 0 0 0 (s.classOf 0 2 * 256 + s.classOf 0 2)).2
       rule.toNat < 2 ^ 48 ∧ rule.toNat % 16 = 1) ∧ s.record 0 3 = 0) ∧
    (let c := { callState.core 0 0 with takeBusy := some (1, ⟨0x200000, 0x200020, 0, 0⟩), rewrites := List.replicate 8 (newJob 1) }
     c.takeBusy = some ((⟨0, 0, 1⟩ : Place).slot, ⟨0x200000, 0x200020, 0, 0⟩) ∧ ¬ c.rewrites.length < 8) := by
  refine ⟨⟨?_, rfl, rfl, rfl, ?_, ?_, ?_, ?_⟩, rfl, ?_⟩ <;> decide +kernel

/-- An operation of thread 1. -/
def op1 (op : Nat) (descs : List (BitVec 128)) (regs : List Word) : TileOp :=
  { uid := 9, owner := 1, place, ctx := 0, wid := 1, seq := 1, op, fa := 0, fb := 0, fc := 0, descs, regs, vec := 0, rnd := 0,
    regeps := 0, skip := false, phase := .queued, waitFor := [], ind := 0, wrote := 0, piece := 0, reads := [], bad := none }

/-- A quarry that takes back a batch, and one that serves one; a wake node to read, one read with a pair and one without; and `twait`,
joined and not. -/
theorem witness_DrainsAndBatches :
    (let info : CtxInfo := ⟨0, 0, 0x200000, [], 0, none⟩
     FirstOf (fun x => x.n = 0) [info] [] info [] ∧
      FirstOf (fun x : Nat × List Word => x.1 = 0) [(0, [0x200040])] [] (0, [0x200040]) []) ∧
    (let s := { st thr with cores := [((0, 0), { wants := [0] })] }
     s.stored ∧ (∀ b ∈ (s.core 0 0).giveBack, b.1 ≠ 0) ∧ 0 ∈ (s.core 0 0).wants) ∧
    (let o := { op1 4 [] [1, 0x200000] with phase := .waking }
     FirstOf (fun x => x.uid = o.uid) [o] [] o [] ∧ o.phase = .waking ∧
      (∃ leaf, (st thr).translate 0 0 .nodeLoad 0x200008 = .ok 0x1000200008 leaf) ∧
      (st thr).translate 0 0 .nodeLoad 0xC00008 = .fail causeProt) ∧
    (let o := { op1 4 [] [1, 0x200000] with phase := .wakeRead, reads := [(0, 0x4000000000200020)] }
     let s := { st thr with ops := [o], slots := [(⟨0, 0, 1⟩, { owner := some 0 })] }
     FirstOf (fun x => x.uid = o.uid) s.ops [] o [] ∧ o.bad = none ∧ o.val 0 = 0x4000000000200020 ∧
      portOk 0x4000000000200020 = true ∧ portKind 0x4000000000200020 = 1 ∧ portKind 0 ≠ 1 ∧ s.freeFor 0 0 0 = some ⟨0, 0, 1⟩) ∧
    (let t := { thr with sys := { tseq := 1 } }
     (st t).current = some (iss t, t) ∧ (∀ o ∈ (st t).ops, o.owner = 1 → 1 < o.seq) ∧
      ¬ ∀ o ∈ ({ st t with ops := [op1 1 [] []] }).ops, o.owner = 1 → 1 < o.seq) := by
  refine ⟨⟨first_one _ _ rfl, first_one _ _ rfl⟩, ⟨⟨?_, ?_⟩, by simp [State.core, lookupD], .head _⟩,
    ⟨first_one _ _ rfl, rfl, ⟨_, rfl⟩, ?_⟩, ⟨first_one _ _ rfl, rfl, ?_⟩, ⟨rfl, by simp [st], by simp [op1]⟩⟩
  all_goals decide +kernel

/-- A descriptor (R291). -/
def desc (base rows cols fmt sel : Nat) : BitVec 128 :=
  BitVec.ofNat 128 (base + rows * 2 ^ 104 + cols * 2 ^ 111 + fmt * 2 ^ 118 + sel * 2 ^ 122)

/-- Memory with 8-byte words at addresses. -/
def withWords (s : State) (l : List (Nat × Word)) : State := l.foldl (fun x e => x.write64 e.1 e.2) s

/-- The nibble codes' preset image, as the words that `ttab` reads. -/
def presetWords : List Word := (List.range 12).map fun k => BitVec.ofNat 64 (imageE2m1.raw / 2 ^ (64 * k))

/-- Words of an image that are all near; the first of which fails; and the lowest of which lies in another die's scratchpad. -/
theorem witness_ImageWords_read :
    (st thr).current = some (iss thr, thr) ∧ imageAddrs 0x100 2 ≠ [] ∧
    List.Forall₂ (Passes (st thr) (iss thr) thr .load 8) [(0, 0x100), (1, 0x108)] [plainElem, ⟨1, 0x108, 0x1000000108, 8⟩] ∧
    (st thr).check 0 0 .load 0xC00000 8 = .fail causeProt ∧ Near (st thr) (iss thr) thr 0x100 ∧
    (let e : Elem := ⟨0, 0xA00000, 0x1000200000000, 8⟩
     List.Forall₂ (Passes (st thr) (iss thr) thr .load 8) [(0, 0xA00000)] [e] ∧ paSpace e.paddr = 1 ∧ paHome e.paddr ≠ place.die) ∧
    ({ openTag1 with image := true }).image = true := by
  refine ⟨rfl, by decide, .cons ⟨rfl, by decide +kernel, rfl, _, rfl⟩ (.cons ⟨rfl, by decide +kernel, rfl, _, rfl⟩ .nil),
    by decide +kernel, ⟨_, _, rfl, by decide +kernel⟩, ⟨.cons ⟨rfl, by decide +kernel, rfl, _, rfl⟩ .nil, ?_⟩, rfl⟩
  decide +kernel

/-- A descriptor that obeys R291 at its limits, and one that does not; a table image that is well formed, and one that is not;
an operation that reads the table. -/
theorem witness_ImageWords_load :
    ¬ DescOk 0 ∧ DescOk (desc 0x100 64 64 13 31) ∧
    (let t := { regs [(1, 0x100)] with image := presetWords }
     (st t).current = some (iss t, t) ∧ (t.readS 1).toNat % 16 = 0 ∧ 12 ≤ t.image.length ∧
      (⟨true, wordsNat t.image⟩ : Image).ok = true) ∧
    (let t := { regs [(1, 0x100)] with image := [0x100, 0] }
     t.image = 0x100 :: 0 :: [] ∧ t.image.length < 12) ∧
    (⟨true, wordsNat (List.replicate 12 0)⟩ : Image).ok = false ∧
    (let o := op1 2 [desc 0x100 1 1 6 0] []
     o.uid < 100 ∧ ∃ d ∈ o.descs, descFmt d = 4 + 2) ∧ (st thr).ops = [] := by
  refine ⟨?_, ⟨?_, ?_, ?_, ?_, ?_, ?_, ?_, ?_, ?_⟩, ⟨rfl, ?_, ?_, ?_⟩, ⟨rfl, ?_⟩, ?_, ⟨?_, _, .head _, ?_⟩, rfl⟩
  · intro h
    exact absurd h.2.2.1 (by decide)
  all_goals decide +kernel

theorem witness_OperationsIssue : (st thr).current = some (iss thr, thr) ∧ (opForm thr (.tqms 0 1 2 3)).isSome = true ∧
    (∃ f, opForm thr (.tlu 15) = some f ∧ f.solver = true) ∧ ((st thr).die 0).solver = true ∧
    (({ st thr with dies := [(0, { solver := false })] }).die 0).solver = false ∧
    (¬ ∃ o ∈ (st thr).ops, o.owner = 1 ∧ o.seq + 32 ≤ thr.sys.tseq.toNat + 1) ∧
    ∃ o ∈ [op1 1 [] []], o.owner = 1 ∧ o.seq + 32 ≤ (32 : Word).toNat + 1 :=
  ⟨rfl, rfl, ⟨_, rfl, rfl⟩, rfl, rfl, by simp [st], _, .head _, rfl, by decide⟩

/-- A thread whose accumulator 0 is set. -/
def accThread : Thread := { thr with acc := thr.acc.set 0 { Acc.start with isSet := true } }

/-- A tile of one element. -/
theorem one_tile (b f sel : Nat) (hf : descFmt (desc b 1 1 f sel) = f) (hs : ShapeOk (desc b 1 1 f sel))
    (h1 : (descBase (desc b 1 1 f sel)).toNat % elemBytes f = 0) (h2 : (descStride (desc b 1 1 f sel)).toNat % elemBytes f = 0)
    (h3 : (descRows (desc b 1 1 f sel)) = 1 ∧ (descCols (desc b 1 1 f sel)) = 1)
    (h4 : (elemAddr (desc b 1 1 f sel) 0 0).toNat < 2 ^ 48) : TileOk (desc b 1 1 f sel) := by
  refine ⟨hs, by rw [hf]; exact h1, by rw [hf]; exact h2, fun r c hr hc => ?_⟩
  rw [h3.1] at hr
  rw [h3.2] at hc
  obtain rfl : r = 0 := by omega
  obtain rfl : c = 0 := by omega
  exact h4

theorem tile10 : TileOk (desc 0x100 1 1 10 0) := by
  refine one_tile _ _ _ ?_ ⟨?_, ?_, ?_, ?_⟩ ?_ ?_ ?_ ?_ <;> decide +kernel

theorem tile12 : TileOk (desc 0x100 1 1 12 0) := by
  refine one_tile _ _ _ ?_ ⟨?_, ?_, ?_, ?_⟩ ?_ ?_ ?_ ?_ <;> decide +kernel

theorem q32Tile : Q32Tile (desc 0x100 1 1 13 30) := by
  refine ⟨?_, ⟨?_, ?_, ?_, ?_⟩, ?_, ?_⟩ <;> decide +kernel

/-- Each check of an operation's step, failing and passing. -/
theorem witness_OperationSteps_checks :
    stepOf 9 (.tmmExecute 9) = some 2 ∧ ({ st thr with ops := [] }).opHead 9 = none ∧
    (let o := op1 2 [desc 0x100 1 1 10 0, desc 0x100 1 1 10 0] []
     let s := { st thr with ops := [o] }
     s.opHead 9 = some o ∧ o.op = 2 ∧ o.phase = .queued ∧ s.tableHeld o = false ∧ o.skip = false ∧
      descFmt (o.desc 0) ≤ 10 ∧ descFmt (o.desc 1) ≤ 10 ∧ TileOk (o.desc 0) ∧ (s.accOf 1 0).isSet = false) ∧
    ¬ TileOk (desc 0x101 1 1 10 0) ∧ ¬ ShapeOk (desc 0x100 65 1 10 0) ∧ 12 < descFmt (desc 0x100 1 1 13 0) ∧
    ¬ ((0x100 : Word).toNat % 32 = 0 ∧ ∃ pa leaf, (st thr).translate 0 0 .nodeName 0x100 = .ok pa leaf) ∧
    descCols (desc 0x100 1 2 12 0) ≠ descCols (desc 0x100 1 1 12 0) ∧ descFmt (desc 0x100 1 1 12 0) ≠ 13 ∧ ¬ ExpOk 31 := by
  refine ⟨rfl, rfl, ⟨rfl, rfl, rfl, rfl, rfl, ?_, ?_, tile10, ?_⟩, ?_, ?_, ?_, ?_, ?_, ?_, fun h => absurd h.2 (by decide)⟩
  case refine_4 => rintro ⟨-, h, -⟩; revert h; decide +kernel
  case refine_5 => rintro ⟨-, h, -⟩; revert h; decide +kernel
  case refine_7 =>
    rintro ⟨-, pa, leaf, h⟩
    have : (st thr).translate 0 0 .nodeName 0x100 = .fail causeProt := by decide +kernel
    rw [this] at h
    cases h
  all_goals decide +kernel

/-- An operation with its accumulator set. -/
def accState (o : TileOp) : State := { st accThread with ops := [o] }

/-- Operands on which each operation has its effect, before its reads and with them answered: one element each. -/
theorem witness_OperationSteps_effects :
    (let o := op1 2 [desc 0x100 1 1 10 0, desc 0x100 1 1 10 0] []
     let r := { o with phase := .read, reads := [(0, 0), (1, 0)] }
     (accState o).opHead 9 = some o ∧ (accState r).opHead 9 = some r ∧ (accState r).tableHeld r = false ∧ r.bad = none ∧
      descFmt (o.desc 0) ≤ 10 ∧ TileOk (o.desc 0) ∧
      ((accState o).accOf 1 0).isSet = true ∧ ((accState o).accOf 1 0).fA = none) ∧
    (let o := op1 4 [desc 0x100 1 1 12 0] [0, 0]
     let w := { accThread with acc := thr.acc.set 0 { Acc.start with isSet := true, vr := 1, vc := 1 } }
     let a := ({ st w with ops := [o] }).accOf 1 0
     descFmt (o.desc 0) ≤ 12 ∧ TileOk (o.desc 0) ∧ ({ st w with ops := [o] }).wakeOk o = true ∧ a.isSet = true ∧
      descRows (o.desc 0) ≤ a.vr ∧ descCols (o.desc 0) ≤ a.vc ∧
      (convAll ((st w).opTables o) (o.desc 0) .rne ((descIdx (o.desc 0)).map fun e =>
        drainValue (a.elem e.1 e.2) a.scA.toNat a.scB.toNat)).isSome = true) ∧
    (let o := op1 5 [] [0x100, 0x180, 4]
     (accState o).rangeFault 0 0 .load 0x180 4 = none ∧ (accState o).rangeFault 0 0 .store 0x100 4 = none ∧ 0x100 + 4 ≤ 0x180 ∧
      ∃ leaf, (accState o).translate 0 0 .store 0x100 = .ok 0x1000000100 leaf) ∧
    (let d := desc 0x100 1 1 13 30
     Q32Tile d ∧ descCols d = descRows d ∧ (descSel d).toInt + (descSel d).toInt - (descSel d).toInt = 30 ∧ ExpOk (descSel d).toInt) := by
  refine ⟨⟨rfl, rfl, rfl, rfl, ?_, tile10, rfl, rfl⟩, ⟨?_, tile12, ?_, ?_, ?_, ?_, ?_⟩, ⟨?_, ?_, ?_, _, rfl⟩, ⟨q32Tile, ?_, ?_, ?_, ?_⟩⟩ <;>
    decide +kernel

/-- An operation that sends for its elements, one of which is refused; an answer to an operation that reads, writes, copies and
drains. -/
theorem witness_EngineReads :
    (let o := op1 2 [] []
     FirstOf (fun x => x.uid = o.uid) (accState o).ops [] o [] ∧ [(0, (0x100 : Word), 4)] ≠ [] ∧
      (∃ leaf, (accState o).translate 0 0 .load 0x100 = .ok 0x1000000100 leaf) ∧
      (accState o).translate 0 0 .load 0xC00000 = .fail causeProt) ∧
    (let o := { op1 5 [] [0, 0, 600] with phase := .writing, waitFor := [7], piece := 256 }
     let r : Resp := ⟨7, 9, 1, 0, 1, 0, 0, 0, .ack, false⟩
     let s := { accState o with resps := [r] }
     FirstOf (fun q => q.src = 1 ∧ q.dest = 0) s.resps [] r [] ∧ s.routeClear 1 0 = true ∧ s.findThread 9 = none ∧
      FirstOf (fun x => x.uid = r.owner) s.ops [] o [] ∧ o.waitFor.erase r.req = [] ∧ o.wrote + o.piece < (o.regs.getD 2 0).toNat) := by
  refine ⟨⟨first_one _ _ rfl, by simp, ⟨_, rfl⟩, ?_⟩, ⟨first_one _ _ ⟨rfl, rfl⟩, ?_, rfl, first_one _ _ rfl, ?_, ?_⟩⟩ <;>
    decide +kernel

/-- A 1 x 1 matrix below the pivot's threshold, a substitution with a zero on its diagonal, and conversions to a code, to FP32 and to an
integer. -/
theorem witness_SolverValues :
    ([0] : List Int).length = 1 * 1 ∧ (∀ x ∈ [(0 : Int)] ++ [5], -2 ^ 31 ≤ x ∧ x < 2 ^ 31) ∧
    descFmt (desc 0x100 1 1 7 0) ≤ 7 ∧ (descFmt (desc 0x100 1 1 8 0), fp32) ∈ [(8, fp32), (9, fp16), (10, bf16)] ∧
    (descFmt (desc 0x100 1 1 12 0), (0 : Int), (2 ^ 32 - 1 : Int)) ∈
      [(11, (-2 ^ 31 : Int), (2 ^ 31 - 1 : Int)), (12, 0, 2 ^ 32 - 1)] := by
  refine ⟨rfl, by decide, by decide +kernel, ?_, ?_⟩
  · have : descFmt (desc 0x100 1 1 8 0) = 8 := by decide +kernel
    rw [this]
    exact .head _
  · have : descFmt (desc 0x100 1 1 12 0) = 12 := by decide +kernel
    rw [this]
    exact .tail _ (.head _)

/-- A part of one segment: context 0, lane 0, source die 1. -/
def part1 : Part := ⟨0, 0x1000001, 0⟩

/-- A handle of that part, with its one segment landed. -/
def landed1 : Handle := { ctx := 0, k := 0, state := .waiting, part := some part1, landed := [(0, 0)], resolved := true, w := 1 }

/-- `tmmr` with its group landed. -/
theorem witness_OperationSteps_tmmr :
    (let o := op1 3 [desc 0x100 1 1 8 0] [0]
     let s := { accState o with cores := [((0, 0), { handles := [landed1] })] }
     let h := (s.core 0 0).handleFor 0 0 9
     let real := (groupSeqs part1 0).filter (h.real part1)
     s.opHead 9 = some o ∧ h.part = some part1 ∧ h.state ≠ .free ∧ h.state ≠ .absent ∧ real = [0] ∧
      (s.accOf 1 0).fA = none ∧ (h.landed.any fun e => e.1 = 0) = true ∧ 0 ∉ h.lost ∧ 0 ∉ h.failed) := by
  refine ⟨rfl, rfl, ?_⟩; decide +kernel

theorem witness_ProductElements :
    let x : Operands := ⟨fun _ _ => 0, fun _ _ => 0⟩
    64 ≤ 64 ∧ ∀ i j, i < 1 → j < 1 →
      (addRound (Acc.start.elem i j) (kSum ((List.range 64).map fun k => (x.a i k, x.b k j))).1).1 < 2 ^ 32 := by
  refine ⟨Nat.le_refl _, fun i j hi hj => ?_⟩
  obtain rfl : i = 0 := by omega
  obtain rfl : j = 0 := by omega
  decide +kernel

/-- A program of one part, with every grade permitted. -/
def program1 : RingProgram := ⟨0xF0000000000008, 0, [part1]⟩

/-- Each case of a grade's choice; a handle that waits and one that does not; a lap that is over and one that is not. -/
theorem witness_RingTime :
    (st thr).current = some (iss thr, thr) ∧
    (st thr).ring.stateOf 0 0 (((st thr).core 0 0).handleNow 0 7) = .free ∧
    (let h : Handle := { ctx := 0, k := 7, state := .waiting }
     ({} : Ring).stateOf 0 0 h = .waiting) ∧
    (permitted program1 3 = true ∧ 27000 < 27001 ∧ 3 < 4 ∧ (26999 : Nat) ≤ 27000 ∧ 10 * 18899 < 7 * 27000 ∧ 7 * 27000 ≤ 10 * 18900) ∧
    (let s := { st thr with ring := { running := some program1 }, cycle := 8 }
     s.ring.running = some program1 ∧ s.ring.origin + ringTime s.ring.grade program1.len ≤ s.cycle ∧ s.ring.stopped = false ∧
      s.newBypass = [] ∧ s.adjacentBypass [] = false ∧ s.ring.switchAt ≠ some (s.ring.lap + 1) ∧
      ¬ s.ring.origin + ringTime s.ring.grade program1.len ≤ 7) :=
  ⟨rfl, by decide +kernel, by decide +kernel, by decide +kernel, rfl, by decide +kernel⟩

/-- A lap with a switch pinned to the next one; and dies to be bypassed, apart and ring-adjacent. -/
theorem witness_RingTime_bypass :
    (let s := { st thr with ring := { running := some program1, standby := some program1, switchAt := some 1 }, cycle := 8 }
     s.ring.origin + ringTime s.ring.grade program1.len ≤ s.cycle ∧ s.newBypass = [] ∧ s.adjacentBypass [] = false ∧
      s.ring.switchAt = some (s.ring.lap + 1)) ∧
    (let s := { st thr with ring := { running := some program1 }, cycle := 8, dies := [(0, { errors := 64 }), (1, { outOfService := true })] }
     s.ring.running = some program1 ∧ s.ring.stopped = false ∧ (s.dies.map (·.1)).Nodup ∧
      s.ring.origin + ringTime s.ring.grade program1.len ≤ s.cycle ∧
      (s.die 0).bypassed = false ∧ (s.die 0).threshold ≠ 0 ∧ (s.die 0).threshold ≤ (s.die 0).errors ∧ (s.die 1).outOfService = true ∧
      (ringPos 1 = (ringPos 0 + 1) % 672 ∨ ringPos 0 = (ringPos 1 + 1) % 672)) ∧
    (let s := { st thr with dies := [(0, { errors := 64 }), (300, {})] }
     ringPos 300 ≠ (ringPos 0 + 1) % 672 ∧ (s.dies.map (·.1)).Nodup) := by
  refine ⟨?_, ⟨rfl, rfl, ?_⟩, ?_⟩ <;> decide +kernel

/-- A part that is an expert's, and its program. -/
def expert1 : Part := ⟨0x800000000000000, 0x1000001, 0⟩

/-- `board` of masks and operands that pass and fail, of an expert part with a token in the core's scratchpad; boardings with and
without a lap to catch; and a handle that is boarded again or released. -/
theorem witness_Boardings :
    (let t := regs [(2, 1), (3, 0x801001)]
     let s := { st t with ring := { running := some ⟨8, 0, [expert1]⟩ } }
     s.current = some (iss t, t) ∧ uA t 2 = 2 ^ 0 ∧ uA t 1 < 2 ^ 24 ∧ s.ring.partOf 0 0 0 = some expert1 ∧ expert1.expert = true ∧
      uA t 3 < 2 ^ 48 ∧ uA t 3 % 2 ^ 12 = 1 ∧
      s.checkTokens 0 0 0 (tokenAddrs (BitVec.ofNat 64 (uA t 3 / 2 ^ 12 % 2 ^ 36 * 2 ^ 12)) 1) = .ok [0x1000000001000] ∧
      s.drained 1 0 = true ∧ s.checkTokens 0 0 0 (tokenAddrs 0xC00000 1) = .error (causeProt, 0xC00000)) ∧
    (∀ lane, lane < 8 → 3 ≠ 2 ^ lane) ∧ (2 ^ 48 ≤ (0x0001000000000000 : Word).toNat ∧ part1.expert = false) ∧
    (let r : Ring := { running := some program1 }
     let h : Handle := { ctx := 0, k := 0, state := .waiting, part := some part1 }
     let l : PastLap := ⟨0, 0, 0, program1⟩
     h.part = some part1 ∧ (r.catchable.filter fun l => (l.program.find part1).isSome) = l :: [⟨1, 8, 0, program1⟩] ∧
      (∃ b e, l.window part1 0 = some (b, e) ∧ 0 < b) ∧
      ∀ l ∈ ({} : Ring).catchable, (l.program.find part1).isSome = true → False) ∧
    (let h : Handle := { landed1 with dropped := 1, count := 1, list := 0x801000, window := some (5, 9) }
     let s := { st thr with cores := [((0, 0), { handles := [h], partitions := [⟨0, 0, 64⟩] })], cycle := 9 }
     (s.core 0 0).handle 0 0 = h ∧ s.ring.windowOf 0 h = some (5, 9) ∧ s.passing 0 = [] ∧ h.state = .waiting ∧ h.dropped ≠ 0 ∧ 9 ≤ s.cycle ∧
      h.window ≠ none ∧ s.checkTokens 0 0 0 (tokenAddrs h.list h.count) = .ok [0x1000000001000]) ∧
    (let h : Handle := { landed1 with releasing := some [9] }
     FirstOf (fun x : Handle => x.ctx = 0 ∧ x.k = 0 ∧ x.releasing.isSome = true) [h] [] h [] ∧ h.releasing = some [9] ∧
      (∃ o ∈ (accState (op1 3 [] [])).ops, o.uid ∈ [9]) ∧ ∀ o ∈ (st thr).ops, o.uid ∉ [9]) := by
  refine ⟨⟨rfl, ?_⟩, ?_, ?_, ⟨rfl, ?_, ⟨_, _, rfl, ?_⟩, ?_⟩, ?_, ⟨first_one _ _ ⟨rfl, rfl, rfl⟩, rfl, ⟨_, .head _, ?_⟩, ?_⟩⟩
  all_goals decide +kernel

/-- A segment of that part. -/
def segment1 : Segment := ⟨0, 0, 0, 0, 1, 0, false, []⟩

/-- A lane with a part due; no program; a lane with none due; and a source that is bypassed, and one out of service. At a plinth die a
segment that is back at its source, one to pass on, and none. -/
theorem witness_RingSegments :
    (let s := { st thr with ring := { running := some program1 } }
     let o := ringOffset s.ring.grade (s.cycle - s.ring.origin)
     s.ring.running = some program1 ∧
      ¬ (s.ring.stopped = true ∨ s.cycle < s.ring.origin ∨ o.2 = true ∨ program1.len ≤ o.1 ∨
        ∃ x ∈ s.ring.segments, x.lane = 0 ∧ x.injected = s.cycle) ∧
      FirstOf (fun p : Part => p.lane = 0 ∧ p.first ≤ o.1 ∧ o.1 < p.first + p.count) program1.parts [] part1 [] ∧
      (s.die part1.source).bypassed = false ∧ (s.die part1.source).outOfService = false ∧
      (({ s with dies := [(1, { bypassed := true })] }).die part1.source).bypassed = true ∧
      (({ s with dies := [(1, { outOfService := true })] }).die part1.source).outOfService = true ∧
      (∀ p ∈ program1.parts, ¬ (p.lane = 7 ∧ p.first ≤ o.1 ∧ o.1 < p.first + p.count)) ∧
      ({ s with ring := { s.ring with stopped := true } }).ring.stopped = true) ∧
    (st thr).ring.running = none ∧ isPlinth 0 = false ∧
    (let s := { st thr with ring := { running := some program1, segments := [segment1] }, cycle := 2016 }
     isPlinth 1 = true ∧
      FirstOf (fun x => x.lane = 0 ∧ x.source = 1 ∧ x.injected + 2016 ≤ s.cycle) s.ring.segments [] segment1 []) ∧
    (let s := { st thr with ring := { running := some program1, segments := [segment1] }, cycle := 2015 }
     (∀ x ∈ s.ring.segments, ¬ (x.lane = 0 ∧ x.source = 3 ∧ x.injected + 2016 ≤ s.cycle)) ∧
      FirstOf (fun x : Segment => x.lane = 0 ∧ x.source ≠ 3) (s.passing 3) [] segment1 [] ∧
      ∀ x ∈ s.passing 3, ¬ (x.lane = 7 ∧ x.source ≠ 3)) := by
  refine ⟨⟨rfl, ?_, ⟨rfl, ?_, by simp⟩, rfl, rfl, rfl, rfl, ?_, rfl⟩, rfl, ?_, ⟨?_, first_one _ _ ⟨rfl, rfl, Nat.le_refl _⟩⟩,
    ?_, ⟨?_, ?_, by simp⟩, ?_⟩
  all_goals decide +kernel

/-- Segments of two lanes that pass a lamp die in one cycle, both wanted, the first read: the other boarding's handle misses its own. -/
theorem witness_RingSegments_lowest :
    (let p2 : Part := ⟨0x100000000000000, 0x1000001, 0⟩
     let h1 : Handle := { landed1 with landed := [] }
     let h2 : Handle := { landed1 with landed := [], k := 1, part := some p2 }
     let g2 : Segment := { segment1 with lane := 1 }
     let s := { st thr with ring := { running := some program1, segments := [segment1, g2] }, cycle := 2013,
                            cores := [((0, 0), { handles := [h1, h2] })] }
     isLamp 0 = true ∧ s.passing 0 = [segment1, g2] ∧ (∃ x ∈ s.passing 0, x.passes 0 = segment1.passes 0) ∧
      (∀ x ∈ s.passing 0, segment1.passes 0 ≤ x.passes 0) ∧
      ((s.passing 0).filter fun x => decide (x.passes 0 = segment1.passes 0)).Pairwise (fun x y => x.lane ≠ y.lane) ∧
      h1.wants segment1 = true ∧ h2.wants g2 = true ∧ wanting s 0 segment1 = 1 ∧ wanting s 0 g2 = 1 ∧ (s.die 0).halt = false ∧
      s.skips 0 segment1 = false ∧ s.skips 0 g2 = false ∧ segment1.lane < g2.lane) ∧
    isLamp 1 = false ∧ (st thr).passing 0 = [] := by
  refine ⟨⟨?_, ?_, ?_, ?_, ?_, ?_, ?_, ?_, ?_, ?_, ?_, ?_, ?_⟩, ?_, ?_⟩
  all_goals decide +kernel

/-- The address of a root table that ends plinth die 1's memory: its entry 0 alone exists. -/
def lastWord : Nat := plinthAddr 1 (Config.plinthBytes - 8)

/-- A machine with an image of a program at 0x1000001000 whose part lies in a RINGSRC page. -/
def ringImage : State :=
  withWords { State.reset with bar0 := { busy := true, cmdCode := 8, cmdCtx := 0, records := [(0, 0, BitVec.ofNat 64 lastWord)],
                                         cmdArgs := #v[0x1000001000, 0, 0, 0] } }
    [(0x1000001000, 0x10000000008), (0x1000001048, 0x1000001), (lastWord, leafTo [55, 58] 0x1000000000)]

/-- A machine with an image of a group of one member at 0x1000001000 whose result block lies in a STAMPED page. -/
def groupImage : State :=
  withWords { State.reset with bar0 := { busy := true, cmdCode := 10, cmdCtx := 0, records := [(0, 0, BitVec.ofNat 64 lastWord)],
                                         cmdArgs := #v[63, 0x1000001000, 0, 0] }, ctxs := [⟨0, 0, 0, [], 0, none⟩] }
    [(0x1000001000, 0x401), (0x1000001020, 0x100401), (lastWord, leafTo [55, 56, 60] 0x1000000000)]

theorem witness_RingCommands :
    (runs ringImage 8 0 ∧ tableOk ringImage.bar0.cmdArgs[0].toNat 1 = true ∧
      (ringImage.acceptProgram ringImage.bar0.cmdArgs[0].toNat).isSome = true) ∧
    tableOk 0 1 = false ∧
    (let s := { State.reset with bar0 := { busy := true, cmdCode := 9 } }
     runs s 9 0 ∧ s.ring.switchAt = none ∧ s.ring.standby = none ∧
      0 < stampDiff (0 + 1) s.ring.lap ∧ stampDiff 0 s.ring.lap ≤ 0) ∧
    (let s := { State.reset with ring := { standby := some program1, running := some program1 } }
     s.ring.standby = some program1 ∧ s.ring.running = some program1 ∧ s.ring.stopped = false) ∧
    (let s := { State.reset with bar0 := { busy := true, cmdCode := 9 }, ring := { standby := some program1 } }
     runs s 9 0 ∧ s.ring.switchAt = none ∧ s.ring.running = none ∧ s.ring.stopped = false ∧ permitted program1 0 = true) ∧
    (runs groupImage 10 0 ∧ (groupImage.ctxInfo? 0).isSome = true ∧ groupImage.bar0.cmdArgs[0].toNat ≤ 63 ∧
      tableOk groupImage.bar0.cmdArgs[1].toNat 1 = true ∧
      groupImage.groupOk 0x1000001000 (groupImage.readGroup 0 63 0x1000001000)
        (groupImage.roundsOpen 0 (groupImage.readGroup 0 63 0x1000001000).g) = true) ∧
    State.reset.ctxInfo? 0 = none ∧ 63 < (64 : Word).toNat ∧
    (runs { State.reset with bar0 := { busy := true, cmdCode := 11 } } 11 0 ∧ 10 < (11 : BitVec 8).toNat) := by
  refine ⟨⟨⟨?_, ?_, ?_⟩, ?_, ?_⟩, ?_, ⟨⟨rfl, rfl, rfl⟩, rfl, rfl, ?_⟩, ⟨rfl, rfl, rfl⟩,
    ⟨⟨rfl, rfl, rfl⟩, rfl, rfl, rfl, ?_⟩, ⟨⟨?_, ?_, ?_⟩, ?_⟩, rfl, ?_, ⟨rfl, rfl, rfl⟩, ?_⟩
  all_goals decide +kernel

/-- A new record of the nodes 0x200000 and 0x200020, of a `push` of thread 1. -/
def rec1 : FreshRec := ⟨60, 1, 1, 0, 0, 0, 0x200000, 0x200020, .push, none⟩

/-- A record that waits for an access of its thread, and one that is classified. -/
theorem witness_RecordsClassify :
    (let s := { st thr with fresh := [rec1], sends := [ask 1 (.ldas 0 0)] }
     FirstOf (fun x => x.id = 60) s.fresh [] rec1 [] ∧ rec1.words = none ∧ rec1.src = .push ∧ s.unperformed 1 60 = true) ∧
    (let s := { st thr with fresh := [rec1], mem := twoCons }
     s.unperformed 1 60 = false ∧ rec1.ctx < 64 ∧ rec1.a.toNat < 2 ^ 48 ∧ rec1.b.toNat < 2 ^ 48 ∧ 1 < 1024 ∧
      s.readNode 0 0 0x200000 = .ok 0x20002 0 0 0 1 ∧ s.readNode 0 0 0x200020 = .ok 0x20002 0 0 0 1) := by
  refine ⟨⟨first_one _ _ rfl, rfl, rfl, ?_⟩, ?_, ?_, ?_, ?_, ?_, node_of _ _ _ _ _ _ ?_, node_of _ _ _ _ _ _ ?_⟩ <;> decide +kernel

/-- The record, classified. -/
def rec2 : FreshRec := { rec1 with words := some (0x200000, 0x200020) }

/-- A machine with a record to place, a mark of the context's hod on core 0, and a partition of a size at 0x1000100000. -/
def recState (mark size : Nat) : State :=
  { st thr with
    fresh := [rec2], bar0 := { records := [(0, 6, 0x1000100000), (0, 7, BitVec.ofNat 64 size)] }
    cores := [((0, 0), { partitions := [⟨0, 0, 64⟩], hodcap := [(0, mark)], held := [rec2] })] }

/-- A hod with room, one without beside a partition with room, and neither; a held record with room. -/
theorem witness_RecordsPlaced :
    (FirstOf (fun x => x.id = 60) (recState 1 0).fresh [] rec2 [] ∧ rec2.words = some (0x200000, 0x200020) ∧ rec2.src = .push ∧
      ((recState 1 0).core 0 0).areaOf 0 = none ∧ ((recState 1 0).core 0 0).hodRoom 0 = true) ∧
    (((recState 0 4).core 0 0).hodRoom 0 = false ∧ 0 < (recState 0 4).partRoom 0 0) ∧
    (((recState 0 0).core 0 0).hodRoom 0 = false ∧ (recState 0 0).partRoom 0 0 = 0) ∧
    FirstOf (fun x => x.ctx = 0) ((recState 1 0).core 0 0).held [] rec2 [] ∧
    (((recState 0 0).core 0 0).held.filter fun q => q.ctx = 0).length < 16 ∧
    16 ≤ ((List.replicate 16 rec2).filter fun q => q.ctx = 0).length := by
  refine ⟨⟨first_one _ _ rfl, rfl, rfl, ?_⟩, ?_, ?_, first_one _ _ rfl, ?_, ?_⟩ <;> decide +kernel

/-- A core with a free slot and an empty hod, and a partition that holds one record. -/
def idleState (n : Nat) : State :=
  { recState 1024 4 with
    slots := [(⟨0, 0, 1⟩, { owner := some 0 })], spilling := [⟨0, 0, 0x200000, 0x200020, none⟩]
    cores := [((0, 0), { partitions := [⟨0, 0, 64⟩] }), ((0, 1), { hod := [⟨0x200000, 0x200020, 0, 0⟩] })]
    mem := if n = 0 then [] else [(0x1000100000, BitVec.ofNat 8 n)] }

theorem witness_SpillPartitions :
    FirstOf (fun x => x.die = 0 ∧ x.ctx = 0) (idleState 1).spilling [] ⟨0, 0, 0x200000, 0x200020, none⟩ [] ∧
    (let last := lookupD 15 0 ((idleState 1).die 0).lastSpill
     (((List.range 16).map fun k => (last + 1 + k) % 16).find? fun c' => (idleState 1).wantsRecords 0 c' 0) = some 0) ∧
    (idleState 1).partHeld 0 0 = 1 ∧ ((idleState 1).core 0 0).room 0 = 1024 := by
  refine ⟨first_one _ _ ⟨rfl, rfl⟩, ?_⟩; decide +kernel

/-- An entry that is due to rise and one a cycle before; a core that may steal one record, one that wants none, and one whose
partition holds some. -/
theorem witness_HodsChange :
    (let e : HodEntry := ⟨0x200000, 0x200020, 0, 0⟩
     let s := { idleState 0 with cycle := 65536 }
     (s.core 0 1).hod[0]? = some e ∧ e.w0.toNat / 2 ^ 56 % 4 < 3 ∧ e.rose + 65536 ≤ s.cycle ∧ ¬ e.rose + 65536 ≤ 65535) ∧
    ((idleState 0).wantsRecords 0 0 0 = true ∧ (idleState 0).partHeld 0 0 = 0 ∧ ((idleState 0).eligibleOf 0 1 0).length = 1) ∧
    (idleState 0).wantsRecords 0 1 0 = false ∧ (idleState 1).partHeld 0 0 ≠ 0 := by
  decide +kernel

/-- A batch; an advertisement that is due, one between boundaries, and one made already. -/
theorem witness_Balancing :
    ({ idleState 0 with batches := [(0, 0, [(0x200000, 0x200020)])] }).batches[0]? = some (0, 0, [(0x200000, 0x200020)]) ∧
    (let s := { st thr with cycle := 4096, dies := [(0, { adverts := [(2, 0, 0, 5)] })] }
     s.cycle % 4096 = 0 ∧ (0, s.cycle) ∉ (s.die 0).advertised ∧ 0 ∈ s.inService ∧
      ∀ nb c r, (nb, 0, c, r) ∈ (s.die 0).adverts → s.recordCount 0 0 ≤ 2 * c + 16) ∧
    4095 % 4096 ≠ 0 ∧ (0, 4096) ∈ ({ advertised := [(0, 4096)] } : Die).advertised := by
  refine ⟨rfl, ⟨rfl, ?_, ?_, fun nb c r _ => ?_⟩, by decide, .head _⟩
  · decide +kernel
  · decide +kernel
  · have h : ({ st thr with cycle := 4096, dies := [(0, { adverts := [(2, 0, 0, 5)] })] } : State).recordCount 0 0 = 0 := by
      decide +kernel
    exact h ▸ Nat.zero_le _

/-- A batch with room and without; a die with 17 records, two hops from one that told it none. -/
theorem witness_Balancing_sends :
    (let s := { idleState 1 with batches := [(0, 0, [(0x200000, 0x200020)])] }
     s.batches[0]? = some (0, 0, [(0x200000, 0x200020)]) ∧ s.partHeld 0 0 + 1 ≤ s.partSize 0 ∧ s.partSize 0 < s.partHeld 0 0 + 4) ∧
    (let s := { st thr with cycle := 4096, dies := [(0, { adverts := [(2, 0, 0, 5)] })],
                            cores := [((0, 0), { hod := List.replicate 17 ⟨0x200000, 0x200020, 0, 0⟩ })] }
     s.cycle % 4096 = 0 ∧ (0, s.cycle) ∉ (s.die 0).advertised ∧ 0 ∈ s.inService ∧ 2 ∈ lampDies ∧ gridDist 0 2 = 2 ∧
      FirstOf (fun a : Nat × Nat × Nat × Nat => a.1 = 2 ∧ a.2.1 = 0) (s.die 0).adverts [] (2, 0, 0, 5) [] ∧
      2 * 0 + 16 < s.recordCount 0 0 ∧ ∀ m c r, m ≠ 2 → (m, 0, c, r) ∈ (s.die 0).adverts → s.recordCount 0 0 ≤ 2 * c + 16) := by
  refine ⟨?_, ⟨rfl, ?_, ?_, ?_, ?_, first_one _ _ ⟨rfl, rfl⟩, ?_, ?_⟩⟩
  case refine_7 =>
    intro m c r hm h
    obtain h := List.mem_singleton.mp h
    simp only [Prod.mk.injEq] at h
    exact absurd h.1 hm
  all_goals decide +kernel

/-- A context without work at its second wave alike, and at its first. -/
theorem witness_QuiescenceWaves :
    (let c : CtxInfo := ⟨0, 0, 0x200000, [], 0, some 0⟩
     let s := { State.reset with cycle := 8192, ctxs := [c] }
     s.cycle % 8192 = 0 ∧ s.lastWave ≠ some s.cycle ∧ s.ctxs = [c] ∧ (s.ctxs.map (·.n)).Nodup ∧ c.n < 64 ∧ c.lastWave = some (s.statusWord 0) ∧
      (let w := s.statusWord 0
       w.extractLsb' 96 32 = w.extractLsb' 64 32 ∧ w.extractLsb' 48 16 = w.extractLsb' 32 16 ∧ w.extractLsb' 0 32 = 0) ∧
      s.bar0.quiescent.getLsbD 0 = false) ∧
    (⟨0, 0, 0x200000, [], 0, none⟩ : CtxInfo).lastWave ≠ some 0 ∧ 8191 % 8192 ≠ 0 := by decide +kernel

/-- A boundary with a slot to give, one that has been taken, and a cycle that is none. -/
theorem witness_SlotArbiters :
    (let s := { st thr with cycle := 16, cores := [((0, 0), { partitions := [⟨0, 0, 64⟩], weights := [(0, 1)] })] }
     s.cycle % 16 = 0 ∧ (s.core 0 0).lastArb ≠ some s.cycle ∧ s.slotFree ⟨0, 0, 1⟩ = true ∧ (s.core 0 0).resident 0 = true ∧
      MayReceive s 0 0 1 0 ∧ Unowned s 0 0 1) ∧
    (let own : List (Place × Slot) := (List.range 16).map fun k => (⟨0, 0, k⟩, { owner := some 0 })
     let s := { State.reset with cycle := 16, slots := own, cores := [((0, 0),
       { partitions := [⟨0, 0, 64⟩, ⟨1, 64, 64⟩], weights := [(0, 1), (1, 1)] })] }
     (s.core 0 0).resident 1 = true ∧ MayGive s 0 0 2 0 ∧ MayReceive s 0 0 2 1 ∧ (∀ k, ¬ Unowned s 0 0 k) ∧
      (2 : Int) < overShare s 0 0 2 0 - overShare s 0 0 2 1) ∧
    ({ lastArb := some 16 } : Core).lastArb = some 16 ∧ 17 % 16 ≠ 0 := by
  refine ⟨⟨?_, ?_, ?_, ?_, ⟨?_, ?_, ?_⟩, ⟨?_, ?_, ?_⟩⟩, ⟨?_, ⟨?_, ?_, ?_, 0, ?_, ?_, ?_⟩, ⟨?_, ?_, ?_⟩, ?_, ?_⟩, ?_⟩
  case refine_10 =>
    intro n h
    have : ((({ st thr with cycle := 16, cores := [((0, 0), { partitions := [⟨0, 0, 64⟩], weights := [(0, 1)] })] } : State)).slot
      ⟨0, 0, 1⟩).owner = none := by decide +kernel
    simp_all
  case refine_21 =>
    rintro k ⟨hk, -, h⟩
    have all : ((List.range 16).all fun k => (({ State.reset with cycle := 16, slots := (List.range 16).map fun k => (⟨0, 0, k⟩, { owner := some 0 }), cores := [((0, 0),
       { partitions := [⟨0, 0, 64⟩, ⟨1, 64, 64⟩], weights := [(0, 1), (1, 1)] })] } : State).slot ⟨0, 0, k⟩).owner == some 0) = true := by
      decide +kernel
    exact h 0 (by simpa using List.all_eq_true.mp all k (List.mem_range.mpr hk)) ⟨by decide, by decide +kernel⟩
  all_goals decide +kernel

/-- `mig` to an address that fails, to the host's window, to its own core's scratchpad, to another's, and to a plinth die. -/
theorem witness_MigrateWord :
    (st (regs [(1, 0xC00000)])).check 0 0 .load 0xC00000 1 = .fail causeProt ∧
    ((∃ leaf, (st thr).check 0 0 .load 0xE00000 1 = .ok 0x2000000000000 leaf) ∧ paSpace 0x2000000000000 = 2) ∧
    ((∃ leaf, (st thr).check 0 0 .load 0x800000 1 = .ok 0x1000000000000 leaf) ∧ paSpace 0x1000000000000 = 1 ∧
      paHome 0x1000000000000 = 0 ∧ paCore 0x1000000000000 = 0) ∧
    ((∃ leaf, (st thr).check 0 0 .load 0xA00000 1 = .ok 0x1000200000000 leaf) ∧ paSpace 0x1000200000000 = 1 ∧
      paHome 0x1000200000000 = 2) ∧
    ((∃ leaf, (st thr).check 0 0 .load 0x100 1 = .ok 0x1000000100 leaf) ∧ paSpace 0x1000000100 = 0 ∧
      lampBeside (paHome 0x1000000100) = some 0) := by
  refine ⟨?_, ⟨⟨_, rfl⟩, ?_⟩, ⟨⟨_, rfl⟩, ?_⟩, ⟨⟨_, rfl⟩, ?_⟩, ⟨_, rfl⟩, ?_⟩ <;> decide +kernel

/-- A thread that migrates to core 0 of die 2. -/
def mover (ph : MigPhase) : Thread := { thr with hold := .migrate, migration := some ⟨2, 0, 0x1008, 0, 0, ph⟩ }

/-- Threads that wait, are ready, and were refused 512 cycles and 511 cycles before. -/
theorem witness_Migrations_sent :
    ((st (mover .waiting)).thread? place = some (mover .waiting) ∧ (mover .waiting).migration = some ⟨2, 0, 0x1008, 0, 0, .waiting⟩ ∧
      (st (mover .waiting)).migrationReady (mover .waiting) = true ∧
      ({ st (mover .waiting) with ops := [op1 1 [] []] }).migrationReady (mover .waiting) = false) ∧
    ((mover (.refused 0)).migration = some ⟨2, 0, 0x1008, 0, 0, .refused 0⟩ ∧
      0 + 512 ≤ ({ st (mover (.refused 0)) with cycle := 512 }).cycle ∧ 511 < 0 + 512) :=
  ⟨⟨rfl, rfl, by decide +kernel, by decide +kernel⟩, rfl, by decide, by decide⟩

/-- A packet's request at die 2, for a core. -/
def packet (core : Nat) : Req := { ask 2 (.packet core place thr) with core := some core }

/-- The machine with that packet arrived, a free slot of core 0 of die 2, and a buffer. -/
def packetState (core : Nat) (halt : Bool) (buffer : List Buffered) : State :=
  { st (mover .sent) with
    slots := [(place, { owner := some 0, thread := some (mover .sent) }), (⟨2, 0, 0⟩, { owner := some 0 })]
    arrivals := [packet core], dies := [(2, { halt, buffer })], resps := [⟨50, 1, 2, 0, 2, 0, 0, 0, .packetOk, false⟩] }

/-- Packets placed, buffered, refused for a full buffer, and refused where the context is not resident; an acceptance; and a
buffered packet placed. -/
theorem witness_Migrations_taken :
    (FirstOf (fun q => q.dest = 2) (packetState 0 false []).arrivals [] (packet 0) [] ∧ (packet 0).body = .packet 0 place thr ∧
      (packetState 0 false []).evictedAt (packet 0) = false ∧ ((packetState 0 false []).core 2 0).resident 0 = true ∧
      ((packetState 0 false []).die 2).halt = false ∧ (packetState 0 false []).freeFor 2 0 0 = some ⟨2, 0, 0⟩) ∧
    ((packetState 1 false []).core 2 1).resident 0 = false ∧
    (((packetState 0 true []).die 2).halt = true ∧ ((packetState 0 true []).die 2).buffer.length < 16 ∧
      16 ≤ ((packetState 0 true (List.replicate 16 ⟨0, 0, 2, 0, thr⟩)).die 2).buffer.length) ∧
    (let s := packetState 0 false []
     FirstOf (fun q => q.src = 2 ∧ q.dest = 0) s.resps [] ⟨50, 1, 2, 0, 2, 0, 0, 0, .packetOk, false⟩ [] ∧ s.routeClear 2 0 = true ∧ s.up 0 = true ∧ (mover .sent).uid = 1 ∧
      (mover .sent).away = true ∧
      s.slots = [] ++ (place, { owner := some 0, thread := some (mover .sent) }) :: [(⟨2, 0, 0⟩, { owner := some 0 })]) ∧
    (let s := packetState 0 false [⟨0, 0, 2, 0, thr⟩]
     (s.die 2).buffer[0]? = some ⟨0, 0, 2, 0, thr⟩ ∧ (s.die 2).halt = false ∧
      (((List.range 16).map fun k => Place.mk 2 0 k).find? fun p =>
        (s.slot p).owner == some 0 && s.slotFree p && !(s.launches.any fun l => l.place = p)) = some ⟨2, 0, 0⟩) := by
  refine ⟨⟨first_one _ _ rfl, rfl, ?_⟩, ?_, ?_, ⟨first_one _ _ ⟨rfl, rfl⟩, ?_, ?_, rfl, rfl, rfl⟩, rfl, ?_⟩ <;> decide +kernel

/-- Lanes with two NaNs, one NaN, and none; contributions of each kind, of the highest rank. -/
theorem witness_KeystoneEntry :
    (let nan : KLane := ⟨0, 4⟩
     nan.special.toNat / 2 ^ 2 % 2 = 1 ∧ ¬ (KLane.empty.special.toNat / 2 ^ 2 % 2 = 1)) ∧
    2 ^ 20 - 1 < 2 ^ 20 ∧ ((0x7FC00001 : BitVec 32).toNat / 2 ^ 23 % 2 ^ 8 = 255 ∧ (0x7FC00001 : BitVec 32).toNat % 2 ^ 23 ≠ 0) ∧
    ((0xFF800000 : BitVec 32).toNat / 2 ^ 23 % 2 ^ 8 = 255 ∧ (0xFF800000 : BitVec 32).toNat % 2 ^ 23 = 0) ∧
    (0x7F7FFFFF : BitVec 32).toNat / 2 ^ 23 % 2 ^ 8 ≠ 255 := by decide

theorem witness_KeystoneOrderFree :
    let l : List (BitVec 32 × Nat) := [(0x3F800000, 0), (0x7FC00001, 1), (0xFF800000, 1048575)]
    (l.map Prod.snd).Nodup ∧ (∀ c ∈ l, c.2 < 2 ^ 20) ∧
      l.Perm [(0xFF800000, 1048575), (0x7FC00001, 1), (0x3F800000, 0)] ∧
      l.Perm ([(0x7FC00001, 1)] ++ [(0x3F800000, 0), (0xFF800000, 1048575)]) := by
  refine ⟨by decide, by simp, ?_, ?_⟩ <;> decide

/-- Lanes of each case of the result. -/
theorem witness_KeystoneResult :
    let b (k : KLane) (i : Nat) : Bool := k.special.toNat / 2 ^ i % 2 = 1
    b ⟨0, 4⟩ 2 = true ∧ (b ⟨0, 3⟩ 2 = false ∧ b ⟨0, 3⟩ 0 = true ∧ b ⟨0, 3⟩ 1 = true) ∧ (b ⟨0, 1⟩ 0 = true ∧ b ⟨0, 1⟩ 1 = false) ∧
      (b ⟨0, 2⟩ 0 = false ∧ b ⟨0, 2⟩ 1 = true) ∧ b ⟨1, 0⟩ 0 = false ∧ b ⟨1, 0⟩ 1 = false ∧ (1 : BitVec 320) ≠ 0 := by decide +kernel

/-- Group 5 of context 0: plinth die 1 its root, with a child; lamp die 0 its member, with its result at 0x400000. The second
header word says whose package it is. -/
def group5 (h1 : Word) : Group := ⟨0, 5, 0x401, h1, [0x100401], [(0, 0x400000)]⟩

/-- A slot of its round 0 that holds one child. -/
def slot5 (result : Option (VReg × BitVec 7)) (packages : List Nat) : KeySlot :=
  ⟨0, 5, 0, List.replicate 64 KLane.empty, 0, 1, packages, 0, false, result, if result.isSome then [(0, 0x400000)] else [], [], none⟩

/-- The machine with that group in force, a slot at its root, a member that expects round 0, and packages 0 and 1 on port 0. -/
def groupState (h1 : Word) (ks : List KeySlot) : State :=
  { st thr with
    groups := [group5 h1], packages := [(0, 0, 0), (1, 0, 0)]
    dies := [(0, { tlb := pages, expected := [(0, 5, 0)] }), (1, { tlb := pages, keystones := ks })] }

/-- A `reds` of a group and round. -/
def reds (g round : Word) : TileOp := op1 24 [] [g, round]

/-- A `reds` behind another, one to skip, one of a wrong group, a wrong round, and one that is right, with room in its window
and without. -/
theorem witness_ContributionsSend :
    (let s := { groupState 0 [] with ops := [reds 5 0] }
     FirstOf (fun x => x.uid = 9) s.ops [] (reds 5 0) [] ∧ (reds 5 0).phase = .queued ∧ (reds 5 0).skip = false ∧
      s.group 0 5 = some (group5 0) ∧ (group5 0).member 0 = some (0, 0x400000) ∧ s.expectedRound 0 0 5 = some 0 ∧
      s.openRounds (reds 5 0) = 0 ∧ s.expectedRound 0 0 5 ≠ some 1) ∧
    (let o := { reds 5 0 with uid := 8, seq := 0 }
     o.owner = (reds 5 0).owner ∧ o.phase = .queued ∧ o.seq < (reds 5 0).seq ∧ ({ o with skip := true }).skip = true) ∧
    63 < (64 : Word).toNat ∧ (groupState 0 []).group 0 63 = none ∧
    (let o := reds 5 1
     let s := { groupState 0 [] with ops := [{ reds 5 0 with uid := 8, seq := 0, phase := .sent }, o] }
     s.openRounds o = 1 ∧ headField (group5 0).h0 20 2 + 1 ≤ s.openRounds o) := by
  refine ⟨⟨first_one _ _ rfl, ?_⟩, ?_⟩ <;> decide +kernel

/-- Nodes: the root, die 1, and die 3 below it with one child. -/
def group2 : Group := ⟨0, 5, 0x802, 0, [0x100401, 0x100403], [(0x80000, 0x400000)]⟩

/-- A die without slots has none taken. -/
theorem none_taken (s : State) (d ctx gn : Nat) (round : BitVec 32) (h : (s.die d).keystones = []) : ¬ SlotTaken s d ctx gn round := by
  rintro ⟨g, k, -, hk, -⟩
  simp [h] at hk

/-- A contribution to a node that it completes, a keystone to the root, a message behind another of its pair, one whose slot holds
another round, and one behind a die that has failed. -/
theorem witness_KeystonesGather :
    (let m : RedMsg := .contribution 0 5 0 0 0 3 0 false
     let s := { groupState 0 [] with groups := [group2], redMsgs := [m, m] }
     Arrived s 0 m ∧ (∀ j, j < 64 → (0 : Word).getLsbD j = fp32.isSNaN (lane 0 j).toNat) ∧
      s.group 0 5 = some group2 ∧ group2.node 3 = some 0x100403 ∧ group2.root ≠ 3 ∧
      (0x100403 : Word).toNat / 2 ^ 20 % 2 ^ 9 ≤ (s.keySlot 3 0 5 0).accepted + 1 ∧
      s.redMsgs[1]? = some m ∧ ∃ x ∈ s.redMsgs.take 1, x.pair = m.pair) ∧
    (let m : RedMsg := .keystone 0 5 0 3 1 (List.replicate 64 KLane.empty) 0 false
     Arrived { groupState 0 [] with groups := [group2], redMsgs := [m] } 0 m ∧ group2.node 1 = some 0x100401 ∧ group2.root = 1) ∧
    (let m : RedMsg := .contribution 0 5 1 0 0 1 0 false
     Blocked { groupState 0 [slot5 none []] with redMsgs := [m] } m) ∧
    (let m : RedMsg := .contribution 0 5 1 0 0 3 0 false
     let s := { groupState 0 [] with redMsgs := [m], dies := [(1, { outOfService := true }), (2, { outOfService := true })] }
     s.redMsgs[0]? = some m ∧ m.beyond = false ∧ s.routeClear m.pair.1 m.pair.2 = false) := by
  refine ⟨⟨⟨rfl, by simp, .inr ?_, none_taken _ _ _ _ _ ?_⟩, ?_, ?_, ?_, ?_, ?_, rfl, _, .head _, rfl⟩,
    ⟨⟨rfl, by simp, .inr ?_, none_taken _ _ _ _ _ ?_⟩, ?_⟩, ⟨group5 0, slot5 none [], ?_, .head _, rfl, rfl, ?_, ?_⟩, rfl, rfl, ?_⟩ <;>
    decide +kernel

/-- Roots that are not ready, of one package, of the global root's package before and after the other's keystone, and of the
other package before and after its keystone is sent. -/
theorem witness_RootRounds :
    (let s := groupState 0 [slot5 none []]
     (s.die 1).keystones[0]? = some (slot5 none []) ∧ s.group 0 5 = some (group5 0) ∧ (group5 0).node 1 = some 0x100401 ∧
      1 = (group5 0).root ∧ (slot5 none []).result = none ∧ Ascending (group5 0) [(0, 0x400000)] ∧
      (0x100401 : Word).toNat / 2 ^ 20 % 2 ^ 9 ≤ (slot5 none []).accepted ∧ headField (group5 0).h1 6 6 + 1 = 1) ∧
    (slot5 (some (0, 0)) []).result ≠ none ∧
    (let h1 : Word := 0x40
     headField h1 6 6 + 1 = 2 ∧ headField h1 0 6 = headField h1 12 6 ∧ 0 ∉ (slot5 none []).packages ∧
      ((slot5 none []).packages ++ [0]).length < 2 ∧ 2 ≤ ((slot5 none [1]).packages ++ [0]).length) ∧
    (let h1 : Word := 0x41
     headField h1 0 6 = 1 ∧ headField h1 12 6 = 0 ∧ 1 ∉ (slot5 none []).packages ∧ 1 ∈ (slot5 none [1]).packages ∧
      ∃ e ∈ (groupState h1 []).packages, e.1 = 0) := by
  refine ⟨⟨rfl, ?_, ?_, ?_, ?_, ⟨.refl _, by simp⟩, ?_⟩, ?_, ?_, ?_, ?_, ?_, ?_, (0, 0, 0), .head _, rfl⟩ <;> decide +kernel

/-- A root with a result to write; a result's stamps newer and not; and acknowledgements, one behind another. -/
theorem witness_ResultsReturn :
    (let k := slot5 (some (0, 0)) []
     let s := groupState 0 [k]
     (s.die 1).keystones[0]? = some k ∧ k.result = some (0, 0) ∧ k.toWrite = (0, 0x400000) :: [] ∧
      (∀ x ∈ (s.die 1).keystones, x.lastWrite ≠ some s.cycle) ∧ (s.die 0).outOfService = false ∧
      ∃ leaf, (s.putKeySlot 1 { k with toWrite := [], acks := k.acks ++ [0], lastWrite := some s.cycle }).translate 1 0
        .stampedStore 0x400000 = .ok 0x1000400000 leaf) ∧
    ((groupState 0 []).stored ∧ 0x1000400000 % 256 = 0 ∧
      0 ≤ stampDiff 0 (BitVec.ofNat 32 ((groupState 0 []).sideband 0x1000400000).toNat) ∧
      ¬ 0 ≤ stampDiff 0xFFFFFFFF (BitVec.ofNat 32 ((groupState 0 []).sideband 0x1000400000).toNat)) ∧
    (let r : Resp := ⟨0, 0, 1, 0, 0, 0, 0, 0, .result 0 5 0 true 0, false⟩
     let o := { reds 5 0 with phase := .sent }
     let s := { groupState 0 [] with resps := [r, r], ops := [o] }
     s.resps[0]? = some r ∧ (∀ q ∈ s.resps.take 0, ¬ (q.src = r.src ∧ q.dest = r.dest)) ∧ s.routeClear 1 0 = true ∧
      (∃ q ∈ s.resps.take 1, q.src = r.src ∧ q.dest = r.dest) ∧
      FirstOf (fun x => x.op = 24 ∧ x.ctx = 0 ∧ (x.regs.getD 0 0).toNat = 5 ∧ x.place.die = r.dest ∧
        (x.regs.getD 1 0).toNat % 2 ^ 32 = (0 : BitVec 32).toNat ∧ x.phase = .sent) s.ops [] o []) := by
  refine ⟨⟨rfl, rfl, rfl, ?_, rfl, _, rfl⟩, ⟨⟨by decide, by decide⟩, ?_, ?_, ?_⟩,
    ⟨rfl, by simp, ?_, ⟨_, .head _, rfl, rfl⟩, first_one _ _ ⟨rfl, rfl, rfl, rfl, rfl, rfl⟩⟩⟩ <;> decide +kernel

/-- A slot held too long, one reported, one a cycle before, and a machine with a debug-halt flag up. -/
theorem witness_WatchdogReports :
    (let s := { groupState 0 [slot5 none []] with cycle := 2 ^ 26 }
     (s.die 1).keystones[0]? = some (slot5 none []) ∧ s.group 0 5 = some (group5 0) ∧ (group5 0).root = 1 ∧
      (slot5 none []).reported = false ∧ s.anyHalt = false ∧ (slot5 none []).since + s.watchdog ≤ s.cycle ∧
      ¬ (slot5 none []).since + s.watchdog ≤ 2 ^ 26 - 1) ∧
    ({ slot5 none [] with reported := true }).reported = true ∧ ({ st thr with dies := [(0, { halt := true })] }).anyHalt = true := by
  refine ⟨⟨rfl, ?_⟩, ?_⟩ <;> decide +kernel

/-- An image that is accepted for a loaded group, one that is refused, and a group that is not loaded. -/
theorem witness_GroupsRebuild :
    (let s := { groupImage with groups := [⟨0, 63, 0x401, 0, [0x100401], [(0, 0x400000)]⟩] }
     s.group 0 63 = some ⟨0, 63, 0x401, 0, [0x100401], [(0, 0x400000)]⟩ ∧
      s.groupOk 0x1000001000 (s.readGroup 0 63 0x1000001000) true = true ∧ s.saving = [] ∧
      s.groupOk 0x1000002000 (s.readGroup 0 63 0x1000002000) true = false) ∧
    groupImage.group 0 63 = none := by
  refine ⟨⟨?_, ?_, rfl, ?_⟩, ?_⟩ <;> decide +kernel

/-- The first frame of a kind for group 5 from a package, with a body of zeros. -/
def frame5 (kind src len : Nat) : Frame :=
  ⟨0, 0, 0x88B5, BitVec.ofNat 64 (2 ^ 56 + kind * 2 ^ 48 + 5 * 2 ^ 36 + src * 2 ^ 30), 0, 1, 0, List.replicate len 0⟩

/-- A keystone frame in sequence at the global root, one behind and one out of sequence, a result frame at the other package's root,
and an acknowledgement. -/
theorem witness_TransportFrames_received :
    (let f := frame5 1 1 3080
     let s := groupState 0x40 []
     Known s 0 f 1 ∧ f.body.length = 3080 ∧ headField f.w0 36 6 = 5 ∧ headField f.w0 42 6 = 0 ∧
      stampDiff (BitVec.ofNat 32 f.w2.toNat) ((s.port 0).seenFrom 1) = 1 ∧ stampDiff 0 ((s.port 0).seenFrom 1) ≤ 0 ∧
      1 < stampDiff 2 ((s.port 0).seenFrom 1) ∧ s.group 0 5 = some (group5 0x40) ∧
      headField (group5 0x40).h1 6 6 ≠ 0 ∧ headField (group5 0x40).h1 0 6 = headField (group5 0x40).h1 12 6 ∧
      (s.keySlot 1 0 5 0).result = none) ∧
    (let f := frame5 2 0 264
     let s := groupState 0x41 [slot5 none [1]]
     Known s 0 f 2 ∧ f.body.length = 264 ∧ stampDiff (BitVec.ofNat 32 f.w2.toNat) ((s.port 0).seenFrom 0) = 1 ∧
      (group5 0x41).root = 1 ∧
      (s.die 1).keystones.find? (fun x => x.isOf 0 5 0) = some (slot5 none [1]) ∧ 0 = headField (group5 0x41).h1 12 6 ∧
      headField (group5 0x41).h1 0 6 ∈ (slot5 none [1]).packages ∧ (slot5 none [1]).result = none) ∧
    Known (groupState 0x41 []) 0 (frame5 3 1 0) 3 ∧ ¬ Known (groupState 0x41 []) 0 (frame5 3 9 0) 3 := by
  have len : ∀ k a n, (frame5 k a n).body.length = n := fun k a n => List.length_replicate
  refine ⟨⟨⟨?_, ?_, ?_, ?_, rfl, rfl⟩, len _ _ _, ?_, ?_, ?_, ?_, ?_, ?_⟩, ⟨⟨?_, ?_, ?_, ?_, rfl, rfl⟩, len _ _ _, ?_, ?_⟩,
    ⟨?_, ?_, ?_, ?_, rfl, rfl⟩, ?_⟩
  case refine_21 =>
    rintro ⟨-, -, -, h, -⟩
    have : (groupState 0x41 []).packageEntry (headField (frame5 3 9 0).w0 30 6) = none := by decide +kernel
    rw [this] at h
    cases h
  all_goals decide +kernel

/-- A frame sent 36,000 and 35,999 cycles before, resent 7 and 8 times; and the last port. -/
theorem witness_TransportFrames_resent :
    (let f : SentFrame := ⟨0, 1, 1, frame5 1 1 0, 0, 7⟩
     ({ st thr with frames := [f], cycle := 36000 }).frames[0]? = some f ∧ f.sentAt + 36000 ≤ 36000 ∧ 35999 < f.sentAt + 36000 ∧
      f.resends < 8 ∧ 8 ≤ ({ f with resends := 8 }).resends) ∧ 7 < 8 :=
  ⟨⟨rfl, by decide, by decide, by decide, by decide⟩, by decide⟩

/-- A context that is loaded. -/
def ctx0 : CtxInfo := ⟨0, 0, 0x200000, [], 0, none⟩

/-- Writes that break each rule and one that breaks none; records at the bridge that are logged, that wait, and that pass. -/
theorem witness_IntakeWindow :
    ((0x3FFF0 : Nat) < 2 ^ 18 ∧ 0x3FFF0 % 16 = 0 ∧ 0x3FFF8 % 16 ≠ 0 ∧ 2 ^ 48 ≤ (0x0001000000000000 : Word).toNat ∧
      (0x0000FFFFFFFFFFFF : Word).toNat < 2 ^ 48) ∧
    (let s := { st thr with ctxs := [ctx0], intake := [(0, 0, 0x200000, 0x200020)] }
     Sys2Proof.Claims.Loaded s 0 ∧ ¬ Sys2Proof.Claims.Loaded s 63 ∧ s.intake = (0, 0, 0x200000, 0x200020) :: [] ∧
      ¬ 256 ≤ (s.fresh.filter fun f => decide (f.src = .intake)).length ∧ NamesNode s 0 0x200000 ∧ NamesNode s 0 0x200020 ∧
      s.check 0 0 .nodeName 0x100 32 = .fail causeProt) ∧
    256 ≤ ((List.replicate 256 { rec1 with src := .intake }).filter fun f => decide (f.src = .intake)).length := by
  refine ⟨by decide, ⟨rfl, ?_, rfl, ?_, ⟨_, _, rfl⟩, ⟨_, _, rfl⟩, ?_⟩, ?_⟩
  · unfold Sys2Proof.Claims.Loaded; decide +kernel
  all_goals decide +kernel

/-- Writes and reads of a plinth die's memory, the last byte of it too, of a STAMPED block, and of the stamp view. -/
theorem witness_HostAperture :
    groupImage.stored ∧ ((2 ^ 46 : Nat) ≤ 2 ^ 47 - 1 ∧ 2 ^ 47 - 1 < 2 ^ 47) ∧ plinthRange 0x1000000100 8 = true ∧
    plinthRange (lastWord + 7) 1 = true ∧ groupImage.stampedRange 0x1000000100 8 = true ∧
    State.reset.stampedRange 0x1000000100 8 = false ∧
    (0x1000000100 % 256 = 0 ∧ plinthRange 0x1000000100 256 = true ∧ groupImage.stampedAt 0x1000000100 = true) := by
  refine ⟨⟨?_, ?_⟩, ?_⟩ <;> decide +kernel

/-- A span's end on a lamp die; walks that fail and that find a leaf; and shootdowns that start and that are polled. -/
theorem witness_PowerAndWalks :
    (isLamp 0 = true ∧ 8192 % 4096 = 0 ∧ 2 ^ 32 - 1 < 2 ^ 32) ∧
    (let s := { st thr with ctxs := [ctx0] }
     (0x0000FFFFFFFFFFFF : Word).toNat < 2 ^ 48 ∧ Sys2Proof.Claims.Loaded s 0 ∧ s.leafOf 0 0 0xC00000 = .fail causeProt ∧
      s.leafOf 0 0 0x400000 = .leaf (leafTo [55, 56, 60] 0x1000400000) 0x400000 0x200000) ∧
    (let word : Word := BitVec.ofNat 64 (63 * 2 ^ 48 + (0xFFFFFFFFFFFF : BitVec 48).toNat)
     63 < 64 ∧ (st thr).bar0.shootdown.getLsbD 63 = false ∧
      ({ shootdown := 2 ^ 63 ||| word } : Bar0).shootdown = 2 ^ 63 ||| word) := by
  refine ⟨by decide, ⟨?_, rfl, ?_, ?_⟩, ?_⟩ <;> decide +kernel

/-- A start with an image that is refused, and saved parameters that are valid: at the limit of the temperatures. -/
theorem witness_StartsAndReports_refused :
    State.reset.fuses.accepts [] = false ∧
    (let f : Fuses := { saved := some ([3], [(0, 1)], [40, 40]) }
     ∃ d l t, f.saved = some (d, l, t) ∧ d = [3] ∧ l = [(0, 1)] ∧ t.length = [55, 25].length ∧
      ∀ k, k < t.length → t.getD k 0 ≤ [55, 25].getD k 0 + 15 ∧ [55, 25].getD k 0 ≤ t.getD k 0 + 15) :=
  ⟨by decide +kernel, _, _, _, rfl, rfl, rfl, rfl, by decide⟩

/-- The modulus of a key made for this test by another program, most significant part first. -/
def modulus1 : List Byte :=
  [0xD9B1F853A3664B20F8796F471C1D88340696C84F45DE8B35EE3A2E24681DAEB47DB9FAEDF2390CDFC1B093AE5FB751FFBE81E4F9880B6503FBF3D9A876C5C54B,
   0xCFDD21166CD134371D2D1EA30262C02AD12A24BEC7AF71B83DD5D8E20594FC7FC09B1FF72E6CC180D19D611E338C51300F022CA9C02325EE7AE51BCF8F05B08C,
   0x019C3241CAD017FB3E72E0E0DC462C82742FCD67481293B62D96883FB7D6B1BB9A1C30B789D090472546519BEDD3A381653B38E45B171505DA16071C29CEF840,
   0x980B4C3E7B11322AE43A06AB520CB9B9968332B066A6A0E351E1EBA307FADEEEE9B8CF34E56A52231CFFA971C200BB2FDCD477D899886051E2F88E53678413D8,
   0x95BF0DA46D7DC97F537DA8021D41CAD91037598BB1E3801E85EBB948B7D07710AD02DF57CF9625A27B30E4A633907960EAF3F6FCDDDB3A2F3A399D4C094CA361,
   0x65BCFCB124804CD5CBB882613A3872159A273AD0AD6CCE70CC7FE8A04A4BA2672D635D954B6B227E4607BE82E98D2B7E807B71108DFF8AF0F69AF54CD8511460,
   0x06AAE4CC347316A4C4EB6C2DAF5A6CFF8610F766BC221AE8B04487BF71C0B02BF7A8D67065322FC393BC49B5967AC9E78854143E0C887E700478567CC80E108B,
   0xD9D9AF1F879FEE84D00EECA0BEE4AE0D09EA3EA754DC60E15CEBD26DCE7CD366E74886DDEAE7738A2D09CAC898280D41F7715E21B18B06129FE5DA8830A96A49].flatMap (beBytes 64)

/-- That key's signature, by that program, of the header below. -/
def signature1 : List Byte :=
  [0x7048C3EC5E1D5BC7885841BBA9642ED2B797AC49875F24B477B4AA0064C0AE9B99443936A83E171DA4B33E020AF58F0CAF3BF2338832FB6BC381EA70B6D4EBB7,
   0x3F781604D89838F0F994466243E77F7E8F7A379549FA9EECFCD13E4967230D3114145DBE3FBF1ABB89A14FE6406A3C71C735A1A323A06893B780F8B7262B99B2,
   0xEC3FAE9280C73B604ECA2BC4B28F5A13698B6AC6E3F27CB59B9C3A4D66FB212A07091C238B5BA5FACF5E76D000C2AC1EABC7FEC6001AA8FD3A2D47CC53FD53A7,
   0x12D64CB6D7C8397B6CEFF785EA13D276717FAA9F56F9FF27B30983BBB84BA172D41DBA344A24FE2AF3759B5209B319BE28C70E368168A6879BCCBA91B780B8DB,
   0x267145B74119D0A80EBD1BE1980BD621A8F0E2B5EFBFFD34065FE6F30400BE57795D07A278267B7BAF513670FF5224A9F364E60DD488D26A0EF4B7BC8C048355,
   0x4ACFFAF549CC0F7A555799BDE787982EFB0EE9B29398C56D682AC402D0258D8500FD231C6FB3C5EB27FA49B78EC0366845778DFA4EE2BC0BA45CE2DE50A6236A,
   0x5295342243AF2437F637A6AC25D68096F0D41D3AA6C564A351DFF513C0DC122660E7BFC5A7157D73364C653C84F951662518A88212ED6905D1E49D17808032DB,
   0x9549776B03EC81E480051D37A1664EECEB067EFB1822C468F230496177E4B7638397A851889E634DDC192134AF41C992858A9061A695A3469B4185732F5EE032].flatMap (beBytes 64)

/-- An image with an empty body: its magic, key 0 and security version 2, the key, and the signature. -/
def image1 : List Byte := bytesOf 8 0x57465956 ++ bytesOf 8 0x200 ++ List.replicate 48 0 ++ modulus1 ++ signature1

/-- Fuses that hold the key's digest, by that program. -/
def fuses1 : Fuses :=
  { svn := 2
    keys := [(0x48A217C292436DFB017EFCE59E2D561428402DF6D2629DC72E00504B425B79C16768B5BC684C08D382B1EE0EA81A95D5E89CE6BA03C15DE7F486855B0B13ABFC,
              false)] }

/-- The boot ROM accepts the image. -/
theorem witness_StartsAndReports_accepted : fuses1.accepts image1 = true := by decide +kernel

/-- Registers' offsets at their limits, and the states in which a write is ignored. -/
theorem witness_RegisterWrites :
    ({ State.reset with recovery := true }).recovery = true ∧ State.reset.recovery = false ∧ 0x01C % 8 ≠ 0 ∧
    State.reset.bar0.busy = false ∧ ({ busy := true } : Bar0).busy = true ∧ (63 < 64 ∧ 31 < 32 ∧ 12 < 13) ∧
    Sys2Proof.Claims.Loaded { State.reset with ctxs := [ctx0] } 0 ∧ ¬ Sys2Proof.Claims.Loaded State.reset 0 ∧
    (335 < 336 ∧ 127 < 128) ∧ (671 < 672 ∧ isLamp 671 = true ∧ isLamp 670 = false) := by
  refine ⟨rfl, rfl, by decide, rfl, rfl, by decide, rfl, ?_, by decide, by decide⟩
  unfold Sys2Proof.Claims.Loaded; decide

/-- A package of which die 0 alone is in service. -/
def oneDie : State := { State.reset with dies := (List.range 671).map fun k => (k + 1, { outOfService := true }) }

theorem oneDie_lookup (l : List Nat) (x : Die) (d : Nat) (h : d ∈ l) :
    (lookupD x (d + 1) (l.map fun k => (k + 1, { outOfService := true }))).outOfService = true := by
  induction l with
  | nil => cases h
  | cons a l ih =>
    by_cases e : a = d
    · simp [lookupD, e]
    · simpa [lookupD, e] using ih (by simpa [Ne.symm e] using h)

theorem oneDie_first (p : Nat → Bool) (n : Nat) (h0 : p 0 = true) (h : ∀ d, d < n → p (d + 1) = false) :
    (List.range (n + 1)).filter p = [0] := by
  have e : ((List.range n).map Nat.succ).filter p = [] := by
    refine List.filter_eq_nil_iff.2 fun x hx => ?_
    obtain ⟨d, hd, rfl⟩ := List.mem_map.1 hx
    simp [h d (List.mem_range.1 hd)]
  rw [List.range_succ_eq_map, List.filter_cons_of_pos h0, e]

theorem oneDie_up : (List.range Config.dies).filter oneDie.up = [0] := by
  refine oneDie_first oneDie.up 671 (by decide +kernel) fun d hd => ?_
  have h := oneDie_lookup (List.range 671) (Die.fresh oneDie.fuses (d + 1)) d (List.mem_range.2 hd)
  unfold State.up State.die
  simp only [oneDie] at h ⊢
  rw [h]
  rfl

/-- Tables that pass, a table of a port that does not exist, and a die with a thread that fails. -/
theorem witness_RoutesAndFailures :
    (oneDie.routesOk [(0, 1, 1), (1, 0, 2)] = true ∧ oneDie.routesBusy [(0, 1, 1), (1, 0, 2)] = false ∧
      ([(0, 1, 1), (1, 0, 2)].map fun x : Nat × Nat × Nat => (x.1, x.2.1)).Nodup) ∧
    oneDie.routesOk [(0, 1, 5)] = false ∧
    (0 < 672 ∧ (st thr).thread? place = some thr ∧ place.die = 0 ∧ thr.away = false ∧ thr.ctx < 64 ∧ (st thr).saving = []) := by
  refine ⟨⟨?_, by decide +kernel, by decide⟩, by decide +kernel, by decide, rfl, rfl, rfl, by decide, rfl⟩
  unfold State.routesOk
  rw [oneDie_up]
  rfl

/-- A thread whose `crset` has read some words of an image at 0x100. -/
def courseRead (ws : List Word) : Thread := { regs [(1, 0x100)] with image := ws }

/-- An image of a box, one of a map with no word of the map and with all, and one that breaks R161; an address off a multiple of 16. -/
theorem witness_CourseEntries_word :
    (0x108 : Word).toNat % 16 ≠ 0 ∧ ((courseRead []).readS 1).toNat % 16 = 0 ∧
    (st (courseRead [])).current = some (iss (courseRead []), courseRead []) ∧ (courseRead []).image.length < 2 ∧
    ((courseRead [0xFFFF001B17000001, 0]).image = 0xFFFF001B17000001 :: 0 :: [] ∧
      CourseOk ((0 : Word) ++ (0xFFFF001B17000001 : Word)) ∧ field ((0 : Word) ++ (0xFFFF001B17000001 : Word)) 0 2 = 1) ∧
    ((courseRead [2, 0x200]).image = 2 :: 0x200 :: [] ∧ CourseOk ((0x200 : Word) ++ (2 : Word)) ∧
      field ((0x200 : Word) ++ (2 : Word)) 0 2 = 2 ∧ ([] : List Word).length < 84 ∧ (List.replicate 84 (0 : Word)).length = 84) ∧
    ¬ CourseOk ((0 : Word) ++ (0 : Word)) := by
  refine ⟨?_, ?_, rfl, ?_, ⟨rfl, ?_, ?_⟩, ⟨rfl, ?_, ?_, ?_, List.length_replicate⟩, ?_⟩
  all_goals try unfold CourseOk
  all_goals decide +kernel

/-- A thread whose `crset` waits for two dies. -/
def courseThread : Thread := { thr with hold := .crset 5 [2, 4] }

theorem witness_CourseEntries_copy :
    FirstOf (fun y : Place × Slot => ∃ t' e' ds', y.2.thread = some t' ∧ t'.hold = .crset e' ds' ∧ 2 ∈ ds') (st courseThread).slots
      [] (place, { owner := some 0, thread := some courseThread }) [] ∧
    courseThread.hold = .crset 5 [2, 4] ∧ (st courseThread).thread? place = some courseThread :=
  ⟨first_one _ _ ⟨_, _, _, rfl, rfl, .head _⟩, rfl, rfl⟩

/-- An event below the context's count, and the count itself. -/
theorem witness_ServiceWord :
    let s := { st thr with bar0 := { records := [(0, 8, 0x20000)] } }
    s.current = some (iss thr, thr) ∧ (1 : BitVec 21).toNat < (s.record 0 8).toNat / 2 ^ 16 % 2 ^ 11 ∧
      (s.record 0 8).toNat / 2 ^ 16 % 2 ^ 11 ≤ (2 : BitVec 21).toNat := by
  refine ⟨rfl, ?_⟩; decide +kernel

theorem witness_DebugHalts :
    isLamp 671 = true ∧ ((st thr).die 0).halt = false ∧ (({ st thr with dies := [(0, { halt := true })] }).die 0).halt = true ∧
    (st thr).thread? place = some thr ∧ thr.halted = false ∧
    (let t := { thr with halted := true }
     (st t).thread? place = some t ∧ t.halted = true) :=
  ⟨by decide, rfl, rfl, rfl, rfl, rfl, rfl⟩

/-- A thread with as many open operations, notices and former ids as a block holds. -/
theorem witness_SaveBlockLayout :
    let t := { thr with tags := List.replicate 16 openTag1, notices := List.replicate 16 0, former := List.replicate 8 1 }
    t.ctx < 64 ∧ t.tags.length ≤ 16 ∧ t.notices.length ≤ 16 ∧ t.former.length ≤ 8 := by decide +kernel

/-- A thread that is to be pre-empted. -/
def asked : Thread := { thr with preempt := some 0x100 }

/-- The record of a thread's saving to the block at 0x100. -/
def saving (complete : Bool) : Saving := ⟨1, 0, 0x100, place, complete, [], false, [], false⟩

/-- A thread that can be pre-empted, and one that cannot; a block with an operation to wait for, and one without. -/
theorem witness_PreemptionSaves :
    ((st asked).thread? place = some asked ∧ asked.preempt = some 0x100 ∧ (st asked).canPreempt place asked = true ∧
      ((st asked).withdraw place asked).thread? place = some asked ∧ asked.settled = true ∧
      ({ st asked with dies := [(0, { halt := true })] }).canPreempt place asked = false) ∧
    (let s := { st thr with saving := [saving false] }
     FirstOf (fun x : Saving => x.uid = 1 ∧ x.complete = false) s.saving [] (saving false) [] ∧ (s.slots.map Prod.fst).Nodup ∧
      s.ops = [] ∧ ∃ o ∈ ({ s with ops := [op1 1 [] []] }).ops, o.owner = 1) := by
  refine ⟨⟨rfl, rfl, ?_, ?_, ?_, ?_⟩, first_one _ _ ⟨rfl, rfl⟩, ?_, rfl, _, .head _, rfl⟩ <;> decide +kernel

/-- As `witness_TrapReturns` has it: a PREEMPT handler's thread whose block is complete, and not. -/
theorem witness_PreemptReturn :
    (let s := { st privThread with saving := [saving1 true] }
     s.current = some (iss privThread, privThread) ∧ privThread.priv = true ∧
      FirstOf (fun x : Saving => x.uid = privThread.uid) s.saving [] (saving1 true) [] ∧
      ∀ g ∈ (s.threadOfBlock (saving1 true) none privThread.sys.trapsave).tags, g.state ≠ .withdrawn) ∧
    (saving1 true).complete = true ∧ (saving1 false).complete = false :=
  ⟨witness_TrapReturns.2.2.2.2.2.1, rfl, rfl⟩

/-- The machine with a command of context 0 running, the context loaded or not. -/
def cmdState (code : BitVec 8) (a0 a1 a2 a3 : Word) : State :=
  { st thr with
    ctxs := [ctx0], bar0 := { busy := true, cmdCode := code, cmdArgs := #v[a0, a1, a2, a3], records := [(0, 0, 0)] } }

/-- PREEMPT with each check failing and passing; the argument 0x4000 names slot 1, which is free. -/
theorem witness_SwitchingCommands_preempt :
    (Runs (cmdState 6 0 0x100 0 0) 6 0 ∧ Loaded (cmdState 6 0 0x100 0 0) 0 ∧ ArgOk 0 ∧
      (cmdState 6 0 0x100 0 0).thread? (argAt 0) = some thr ∧ thr.ctx = 0 ∧ (0x100 : Word).toNat % 256 = 0 ∧ thr.preempt = none ∧
      (cmdState 6 0 0x100 0 0).saving = []) ∧
    (Runs (cmdState 6 0x4000 0 0 0) 6 0 ∧ ArgOk 0x4000 ∧ (cmdState 6 0x4000 0 0 0).thread? (argAt 0x4000) = none) ∧
    ¬ ArgOk 1 ∧ ¬ ArgOk 0x40000 ∧ (0x180 : Word).toNat % 256 ≠ 0 ∧ ¬ Loaded { cmdState 6 0 0 0 0 with ctxs := [] } 0 := by
  refine ⟨⟨⟨rfl, rfl, rfl⟩, rfl, ⟨?_, ?_⟩, rfl, rfl, ?_, rfl, rfl⟩, ⟨⟨rfl, rfl, rfl⟩, ⟨?_, ?_⟩, ?_⟩, ?_, ?_, ?_, ?_⟩
  all_goals try unfold ArgOk
  all_goals try unfold Sys2Proof.Claims.Loaded
  all_goals decide +kernel

/-- RESTORE of a complete block to a free slot; to a taken one; and of a block that is not complete. -/
theorem witness_SwitchingCommands_restore :
    (let s := { cmdState 7 0x4000 0x100 0 0 with mem := [(0x1000000108, 4)] }
     let v : Saving := ⟨100, 0, 0x100, argAt 0x4000, true, [], false, [], true⟩
     Runs s 7 0 ∧ Loaded s 0 ∧ ArgOk 0x4000 ∧ (s.core (argAt 0x4000).die (argAt 0x4000).core).resident 0 = true ∧ s.saving = [] ∧
      s.nextId = 100 ∧ (s.blockRead v 8).getLsbD 2 = true ∧ s.slotFree (argAt 0x4000) = true ∧ s.slotFree (argAt 0) = false ∧
      (s.threadOfBlock v none 0).tags = []) ∧
    ((cmdState 7 0x4000 0x100 0 0).blockRead ⟨100, 0, 0x100, argAt 0x4000, true, [], false, [], true⟩ 8).getLsbD 2 = false ∧
    ((cmdState 7 0x4400 0 0 0).core (argAt 0x4400).die (argAt 0x4400).core).resident 0 = false := by
  refine ⟨⟨⟨rfl, rfl, rfl⟩, rfl, ⟨?_, ?_⟩, ?_, rfl, rfl, ?_⟩, ?_⟩ <;> decide +kernel

/-- The machine with a record of context 0 whose 32 course entries, at 0x1000004000, are the reset entry. -/
def loadState (root : Word) : State :=
  { State.reset with
    bar0 := { busy := true, cmdCode := 1, records := [(0, 0, root), (0, 11, 0x1000002000), (0, 12, 0x1000004000)] }
    mem := (List.range 32).flatMap fun e =>
      let a := 0x1000004000 + 16 * e
      [(a, 0x01), (a + 3, 0x17), (a + 4, 0x1B), (a + 6, 0xFF), (a + 7, 0xFF)] }

/-- A record that is refused for its first word, one for its tables, and one that passes. -/
theorem witness_ContextCommands_load :
    (Runs (loadState 0x1000020000) 1 0 ∧ 63 < 64 ∧ (loadState 0x1000020000).record 0 0 ≠ 0 ∧
      (loadState 0x1000020000).recordOk 0 = true ∧ ¬ Loaded (loadState 0x1000020000) 0) ∧
    (loadState 0).record 0 0 = 0 ∧ ((loadState 0x1000010000).record 0 0 ≠ 0 ∧ (loadState 0x1000010000).recordOk 0 = false) := by
  refine ⟨⟨⟨?_, ?_, ?_⟩, ?_, ?_, ?_, ?_⟩, ?_, ?_⟩
  all_goals try unfold Sys2Proof.Claims.Loaded
  all_goals decide +kernel

/-- LAUNCH with an image that is read and one that is not; RESIDE on a core with room; DESTROY. -/
theorem witness_ContextCommands_launch :
    (let s := cmdState 3 0 0x1000 0x100 1
     Runs s 3 0 ∧ Loaded s 0 ∧ ArgOk s.bar0.cmdArgs[0] ∧ s.bar0.cmdArgs[1].toNat % 8 = 0 ∧
      (s.core (argAt 0).die (argAt 0).core).resident 0 = true ∧ s.launchRegs (argAt 0).die 0 0x100 = some (List.replicate 32 0) ∧
      s.launchRegs (argAt 0).die 0 0xC00000 = none) ∧
    (let s := cmdState 4 0x400 0x4000 0 0
     Runs s 4 0 ∧ ArgOk s.bar0.cmdArgs[0] ∧ (s.die (argAt 0x400).die).outOfService = false ∧
      (s.core (argAt 0x400).die (argAt 0x400).core).resident 0 = false ∧
      (0x4000 : Word).toNat % 2 ^ 6 = 0 ∧ (0x4000 : Word).toNat / 2 ^ 8 % 2 ^ 7 = 64 ∧
      (s.core (argAt 0x400).die (argAt 0x400).core).partitions = [] ∧
      ((s.core (argAt 0x400).die (argAt 0x400).core).evicted.find? fun e => decide (e.1 = 0)) = none) ∧
    (Runs (cmdState 2 0 0 0 0) 2 0 ∧ ((cmdState 2 0 0 0 0).slots.map Prod.fst).Nodup) := by
  refine ⟨⟨⟨rfl, rfl, rfl⟩, rfl, ⟨?_, ?_⟩, ?_⟩, ⟨⟨rfl, rfl, rfl⟩, ⟨?_, ?_⟩, ?_⟩, ⟨rfl, rfl, rfl⟩, ?_⟩ <;> decide +kernel

/-- The machine with a partition of 64 KiB, and an area at 0x1000 whose log size is 64 KiB. -/
def areaState (core : Core) : State :=
  { cmdState 5 0 0x1000 0 0 with
    slots := [], mem := [(0x1000001012, 1)], cores := [((0, 0), core)]
    arrivals := [{ ask 0 (.store 0x800000 [(0x1000000000000, 7)]) with core := some 0 }] }

/-- EVICT to an area that is in order and to one that is not; on a core that is idle and on one that is not. -/
theorem witness_ContextCommands_evict :
    (let s := areaState { partitions := [⟨0, 0, 1⟩] }
     Runs s 5 0 ∧ Loaded s 0 ∧ ArgOk s.bar0.cmdArgs[0] ∧
      FirstOf (fun y => y.ctx = 0) (s.core (argAt 0).die (argAt 0).core).partitions [] ⟨0, 0, 1⟩ [] ∧
      s.areaOk (argAt 0).die 0 0x1000 1 = true ∧ s.areaOk (argAt 0).die 0 0x2000 1 = false ∧
      s.coreIdle (argAt 0).die (argAt 0).core 0 = true) ∧
    (cmdState 5 0 0x1000 0 0).coreIdle (argAt 0).die (argAt 0).core 0 = false := by
  refine ⟨⟨⟨rfl, rfl, rfl⟩, rfl, ⟨?_, ?_⟩, first_one _ _ rfl, ?_⟩, ?_⟩ <;> decide +kernel

/-- A store for a context evicted from its core, with a log that has room and one that has none. -/
theorem witness_LogAppends :
    let r : Req := { ask 0 (.store 0x800000 [(0x1000000000000, 7)]) with core := some 0 }
    let s := areaState { evicted := [(0, 0x1000)] }
    FirstOf (fun q => q.dest = 0) s.arrivals [] r [] ∧ r.core = some 0 ∧ (s.core 0 0).areaOf r.ctx = some 0x1000 ∧
      (s.logAppend 0 0 0x1000 (s.entriesOf r)).isSome = true ∧ (s.logAppend 0 0 0x2000 (s.entriesOf r)).isNone = true := by
  refine ⟨first_one _ _ rfl, rfl, ?_⟩; decide +kernel

/-- Well-formed words of both kinds, a word that decodes, and a word with the reserved guard. -/
theorem witness_RoundTrip :
    (Bundle.pair always (.shli 1 2 63) (.vadd 5 6 7 2 .w16 false true)).wf = true ∧
    (Bundle.long always (.alloc 28 0 4)).wf = true ∧ (Bundle.long ⟨true, 7⟩ (.svc 2047)).wf = true := by decide +kernel

theorem witness_OneMeaning : decode 0x4003000034567890 = .ok (.long always (.li 6 0x34567890)) := rfl

theorem witness_GuardNever : (0x2000000000000000 : Word).toNat / 2 ^ 58 % 2 ^ 4 = 8 := by decide

/-- A machine whose next move is core 0's issue, with a thread at 0x600000 and a word there. -/
def runState (t : Thread) (w : Word) : State :=
  withWords { st { t with pc := 0x600000 } with cur := none, agenda := [.issue 0 0] } [(0x1000600000, w)]

/-- A Boolean test of a fetch. -/
def fetchIs (x : Except (BitVec 8) Word) (w : Word) : Bool :=
  match x with
  | .ok v => decide (v = w)
  | .error _ => false

theorem fetch_of (x : Except (BitVec 8) Word) (w : Word) (t : fetchIs x w = true) : x = .ok w := by
  cases x <;> simp_all [fetchIs]

/-- A Boolean test of whether a word has acted on the flow. -/
def movedIs (o : Host.Outcome State Fault Refusal) (x : Bool) : Bool :=
  match o with
  | .next b => decide (b.hasMoved = x)
  | _ => false

theorem moved_of (o : Host.Outcome State Fault Refusal) (x : Bool) (t : movedIs o x = true) : ∃ b, o = .next b ∧ b.hasMoved = x := by
  cases o <;> simp_all [movedIs]

/-- `li s6, 0x3456_7890` is reached, and its guard is true. -/
theorem witness_StepRunsWords_long :
    let t := { thr with pc := 0x600000 }
    let s := runState thr 0x4003000034567890
    s.agenda = .issue 0 0 :: [] ∧ Reaches { s with agenda := [] } 0 0 place t 0x4003000034567890 ∧
      decode 0x4003000034567890 = .ok (.long always (.li 6 0x34567890)) ∧
      (t.turn (({ s with agenda := [] } : State).dueTags place t)).guardTrue always = true := by
  refine ⟨rfl, ⟨?_, rfl, rfl, fetch_of _ _ ?_⟩, rfl, ?_⟩ <;> decide +kernel

/-- `addi s5, s4, -1` under "always" and under "not q0" is reached; so is a word whose vector slot traps. -/
theorem witness_StepRunsWords_pair :
    (let w : Word := 0b00_0000_000010_00101_00100_1111111111_00000000000000000000000000000000
     let t := { thr with pc := 0x600000 }
     let s := { runState thr w with agenda := [] }
     Reaches s 0 0 place t w ∧ decode w = .ok (.pair always (.addi 5 4 0x3FF) .vnop) ∧
      ∃ b, exec .vnop (acting s place t w) = .next b ∧ b.hasMoved = false) ∧
    (let w : Word := 0b00_0001_000010_00101_00100_1111111111_00000000000000000000000000000000
     let t := { thr with pc := 0x600000 }
     let s := { runState thr w with agenda := [] }
     Reaches s 0 0 place t w ∧ decode w = .ok (.pair ⟨false, 1⟩ (.addi 5 4 0x3FF) .vnop) ∧
      (t.turn (s.dueTags place t)).guardTrue ⟨false, 1⟩ = false) ∧
    (let i : Instr := .venc 2 1 0 true false false
     let w := encode (.pair always .unop i)
     let t := { nanThread with pc := 0x600000 }
     let s := { runState nanThread w with agenda := [] }
     Reaches s 0 0 place t w ∧ decode w = .ok (.pair always .unop i) ∧
      ∃ b, exec i (acting s place t w) = .next b ∧ b.hasMoved = true) := by
  refine ⟨⟨⟨?_, rfl, rfl, fetch_of _ _ ?_⟩, rfl, moved_of _ _ ?_⟩, ⟨⟨?_, rfl, rfl, fetch_of _ _ ?_⟩, rfl, ?_⟩,
    ⟨⟨?_, rfl, rfl, fetch_of _ _ ?_⟩, rfl, moved_of _ _ ?_⟩⟩ <;> decide +kernel

/-- A word that does not decode, an address that cannot be fetched, a core without a ready slot, a machine step, and a tick. -/
theorem witness_StepRunsWords_other :
    (let w : Word := 0x2000000000000000
     let s := { runState thr w with agenda := [] }
     Reaches s 0 0 place { thr with pc := 0x600000 } w ∧ decode w = .error .guardNever) ∧
    (let s := { st thr with cur := none }
     s.nextSlot 0 0 = some place ∧ s.thread? place = some thr ∧ place.die = 0 ∧
      (acting s place thr 0).fetch 0 thr.ctx thr.pc = .error causeProt) ∧
    State.reset.nextSlot 0 0 = none ∧ Instr.quiescenceWave.form = .event ∧
    ({ st thr with agenda := [.event .quiescenceWave] }).agenda = .event .quiescenceWave :: [] ∧
    ({ st thr with agenda := [.tick] }).agenda = .tick :: [] := by
  refine ⟨⟨⟨?_, rfl, rfl, fetch_of _ _ ?_⟩, rfl⟩, ⟨?_, rfl, rfl, rfl⟩, ?_, rfl, rfl, rfl⟩ <;> decide +kernel

/-- An operation with one result of each kind, and one with none. -/
theorem witness_ResultsLand :
    let g := { openTag1 with hasV := true, vd := 2, lanes := 1 }
    g.hasV = true ∧ g.sds = [3] ∧ g.u = [0] ∧ ({ g with sds := [] }).sds = [] := ⟨rfl, rfl, rfl, rfl⟩

/-- A step from a state whose memory has its form. -/
theorem witness_StepKeepsStored :
    (runState thr 0x4003000034567890).stored ∧ ∃ b, step (runState thr 0x4003000034567890) = .next b ∧ b.hasMoved = true := by
  refine ⟨⟨?_, ?_⟩, moved_of _ _ ?_⟩ <;> decide +kernel

/-- A store's word, and the boundary: the two words that write a table of their own are apart. -/
theorem witness_WordsLeaveMemory :
    let i : Instr := .st 1 2 false 0
    i.form ≠ .event ∧ (∀ a b, i ≠ .rulew a b) ∧ (∀ k a b c, i ≠ .board k a b c) ∧
      ∃ b, exec i (st (regs [(1, 0x100), (2, 9)])) = .next b ∧ b.hasMoved = false := by
  refine ⟨by decide, by simp, by simp, moved_of _ _ ?_⟩
  decide +kernel

/-- A tag of an operation whose home has ended it in a PAGE trap, with the count of its window, and a thread that holds it. -/
def trappedTag (la : Nat) (first : Bool) : Tag :=
  { openTag (iss thr) 7 la with count := 0, state := .trapped causePage 0x100, first, undo := if la = 0 then some (3, 0, [9]) else none }

/-- A machine between two words of that thread. -/
def trappedState (la : Nat) (first : Bool) : State := { st { handled with tags := [trappedTag la first] } with cur := none }

/-- Loads ended by their homes at a boundary: with LA 0, with a window of two words, and as the first word of a handler. -/
theorem witness_LateLoadTraps :
    ((trappedState 0 false).thread? place = some { handled with tags := [trappedTag 0 false] } ∧
      ({ handled with tags := [trappedTag 0 false] } : Thread).settled = true ∧ vecUsable handled.sys.trapvec = true ∧
      (∃ w, (trappedState 0 false).fetch 0 0 handled.sys.trapvec = .ok w) ∧
      (trappedState 0 false).atBoundary place { handled with tags := [trappedTag 0 false] } = true ∧
      FirstOf (fun h : Tag => h.req = 7) [trappedTag 0 false] [] (trappedTag 0 false) [] ∧
      (trappedTag 0 false).state = .trapped causePage 0x100 ∧
      FirstOf (fun h => h.isTrapped = true ∧ h.la = 0)
        ((trappedState 0 false).dueTags place { handled with tags := [trappedTag 0 false] }) [] (trappedTag 0 false) []) ∧
    (let t := { handled with tags := [trappedTag 2 false] }
     (∀ h ∈ (trappedState 2 false).dueTags place t, h.isTrapped = true → h.la ≠ 0) ∧
      FirstOf (fun h => h.isTrapped = true) ((trappedState 2 false).dueTags place t) [] (trappedTag 2 false) []) ∧
    (trappedTag 0 true).la = 0 ∧ (trappedTag 0 true).first = true ∧ (trappedTag 0 false).undo = some (3, 0, [9]) := by
  have e0 : (trappedState 0 false).dueTags place { handled with tags := [trappedTag 0 false] } = [trappedTag 0 false] := by decide +kernel
  have e2 : (trappedState 2 false).dueTags place { handled with tags := [trappedTag 2 false] } = [trappedTag 2 false] := by decide +kernel
  rw [e0]
  simp only [e2]
  exact ⟨⟨rfl, rfl, by decide +kernel, ⟨_, rfl⟩, by decide +kernel, first_one _ _ rfl, rfl, first_one _ _ ⟨rfl, rfl⟩⟩,
    ⟨by decide, first_one _ _ rfl⟩, rfl, rfl, rfl⟩

/-- A notice that a home defers, one it has no place to defer, and a step with no notice to receive. -/
theorem witness_NoticesApplied :
    (let x : StopNotice := ⟨[1], 0, [], []⟩
     let s := { st thr with notices := [x], dies := [(0, { halt := true })] }
     s.notices[0]? = some x ∧ isPlinth 1 = true ∧ 1 ∉ x.applied ∧ s.defers x = true ∧ (s.die 1).deferred.length < 64 ∧
      64 ≤ (({ s with dies := s.dies ++ [(1, { deferred := List.replicate 64 x })] } : State).die 1).deferred.length) ∧
    (st thr).notices[0]? = none :=
  ⟨⟨rfl, by decide, by decide, by decide +kernel, by decide +kernel, by decide +kernel⟩, rfl⟩

theorem one_is : fp32.num 0x3F800000 = .fin false (2 ^ 23) (-23) := by decide +kernel
theorem two_is : fp32.num 0x40000000 = .fin false (2 ^ 23) (-22) := by decide +kernel
theorem large_is : fp32.num 0x43800000 = .fin false (2 ^ 23) (-15) := by decide +kernel

theorem fin_finite (b : Bool) (m : Nat) (e : Int) : finite (.fin b m e) := fun _ => ⟨nofun, nofun⟩

/-- 1, 2, 256 and the infinities as operands: an integer and a power of two, and a value above FP32's bias. -/
theorem witness_FloatValues : isLaneFormat fp32 ∧ finite (fp32.num 0x3F800000) ∧ finite (fp32.num 0x40000000) ∧
    realOf (fp32.num 0x3F800000) = 1 ∧ realOf (fp32.num 0x40000000) = 2 ∧ realOf (fp32.num 0x43800000) = 256 ∧
    ((1 : ℚ) = (1 : ℤ) ∧ (1 : ℚ) = (2 : ℚ) ^ (0 : ℤ) ∧ (fp32.bias : ℚ) + 1 ≤ 256 ∧ (1 : ℚ) ≤ fp32.bias + 1 / 2) ∧
    fp32.isNaN 0x3F800000 = false ∧ fp32.num 0xFF800000 = .inf true ∧ fp32.num 0x3F800000 ≠ .inf false ∧
    (∀ k, fp32.num 0x3F800000 ≠ .zero k) ∧ (fp32.num 0x7F800000).mul (fp32.num 0x3F800000) = some (.inf false) := by
  have b : fp32.bias = 127 := by decide +kernel
  rw [one_is, two_is, large_is, b]
  refine ⟨.inl rfl, fin_finite _ _ _, fin_finite _ _ _, ?_, ?_, ?_, ?_, ?_⟩
  · norm_num [realOf]
  · norm_num [realOf]
  · norm_num [realOf]
  · norm_num
  · exact ⟨by decide +kernel, by decide +kernel, nofun, fun _ => nofun, by decide +kernel⟩

/-- A table that is well formed, with a NaN and with a number to encode. -/
theorem witness_EncodeChooses : imageE2m1.ok = true ∧ fp32.num 0x7F800001 = .nan true ∧ ∀ sg, fp32.num 0x3F800000 ≠ .nan sg :=
  ⟨by decide +kernel, by decide +kernel, fun _ => by rw [one_is]; exact nofun⟩

/-- A block whose tag 0 is a withdrawn `lda` of the block 0x400000, which is sent again, or, without its translation, ends. -/
theorem witness_PreemptReturn_again :
    let s := { st privThread with saving := [saving1 true], mem := [(0x1000001707, 0xC0), (0x100000170A, 0x40)] }
    let b := s.threadOfBlock (saving1 true) none privThread.sys.trapsave
    (b.tags.map (·.req)).Nodup ∧ (b.tags.map fun g => (g.state, g.addr)) = [(.withdrawn, 0x400000)] ∧
      (match s.translate 0 b.ctx .stampedLoad 0x400000 with
        | .ok _ _ => true
        | .fail _ => false) = true ∧
      ∃ c, s.translate 0 b.ctx .stampedLoad 0xC00000 = .fail c := by
  refine ⟨?_, ?_, ?_, causeProt, ?_⟩ <;> decide +kernel

/-- An address of a page that is being walked, one of a page that waits, one that begins and one that waits while all are busy; a walk a
shootdown names; and a shootdown in recovery. -/
theorem witness_PowerAndWalks_busy :
    (let s := { st thr with ctxs := [ctx0], dies := [(0, { walks := [(0, 0x200004)], walkQueue := [(0, 0x300000)] })] }
     let out := fun va => ∀ v ∈ (s.die 0).walks, ¬ InPage s 0 va v
     ((s.die 0).walks = [] ++ (0, 0x200004) :: [] ∧ InPage s 0 0x20FFFF (0, 0x200004)) ∧
      (out 0x300008 ∧ ∃ v ∈ (s.die 0).walkQueue, InPage s 0 0x300008 v) ∧
      (out 0x210000 ∧ (∀ v ∈ (s.die 0).walkQueue, ¬ InPage s 0 0x210000 v) ∧ (∀ e ∈ (s.die 0).tlb, e.ctx ≠ 0) ∧
        (s.die 0).walks.length < 2048)) ∧
    2048 ≤ (({ st thr with dies := [(0, { walks := List.replicate 2048 (0, 0x200000) })] }).die 0).walks.length ∧
    (let word := (2 ^ 63 + 0x300000 : Nat)
     word / 2 ^ 63 = 1 ∧ 0 = word / 2 ^ 48 % 2 ^ 6 ∧ 0x200000 ≤ word % 2 ^ 48 ∧ word % 2 ^ 48 < 0x200000 + 0x200000) ∧
    ({ st thr with recovery := true }).recovery = true ∧ (st thr).recovery = false := by
  refine ⟨⟨⟨rfl, ?_⟩, ⟨?_, _, .head _, ?_⟩, ?_, ?_, ?_, ?_⟩, ?_, by decide, rfl, rfl⟩
  all_goals try unfold InPage
  all_goals decide +kernel

/-- A write that maps a page STAMPED: the entry at `lastWord` is a leaf of `groupImage`, and without it there is none. -/
theorem witness_HostAperture_maps :
    groupImage.stampedLeaves ≠ [] ∧ ({ groupImage with mem := [] }).stampedLeaves = [] := by
  constructor <;> decide +kernel

/-- A package of the table, its last place, and the last port. -/
theorem witness_FramesSend :
    ({ State.reset with packages := [(63, 7, 0x020000000001)] }).packageEntry 63 = some (7, 0x020000000001) ∧ 7 < 8 ∧ 63 < 64 := by
  decide +kernel

/-- A message of a live die that goes round the failed one, and one whose route crosses it. -/
theorem witness_RoutesAndFailures_chans :
    let r := { ask 1 (.ldas 0 0) with src := 0 }
    r.dest ≠ 2 ∧ 2 ∉ r.src :: ({ st thr with chans := [r] }).routeFrom r.src r.dest 672 ∧ (∀ e, (State.reset.die e).deferred = []) := by
  refine ⟨?_, ?_, fun e => ?_⟩
  · decide +kernel
  · decide +kernel
  · rfl

/-- LOADCTX of a context that is loaded, with a record that fails; DESTROY while an operation of the context runs, and while none
does. -/
theorem witness_ContextCommands_again :
    (let s := { loadState 0x1000010000 with ctxs := [ctx0] }
     Runs s 1 0 ∧ Loaded s 0 ∧ s.record 0 0 ≠ 0 ∧ s.recordOk 0 = false) ∧
    (let o := { op1 1 [] [] with phase := .reading }
     let s := { cmdState 2 0 0 0 0 with ops := [o] }
     o.ctx = 0 ∧ s.opRuns o = true ∧ (cmdState 2 0 0 0 0).ops = []) := by
  refine ⟨⟨⟨?_, ?_, ?_⟩, ?_, ?_, ?_⟩, ?_, ?_, ?_⟩
  all_goals try unfold Sys2Proof.Claims.Loaded
  all_goals decide +kernel

/-- No page is being walked; a word that waits for a walk and one that does not; a cycle that may not pass, and one that may; and a
setting of management. -/
theorem witness_StepRunsWords_waits :
    (∀ e ∈ (st thr).dies, e.2.walks = []) ∧ (∀ d c, State.reset.nextSlot d c = none) ∧ State.reset.launches = [] ∧
    (let s := { st thr with cur := none }
     Unfinished s) ∧
    (let x : Setting := .watchdog 5
     ({ st thr with agenda := [.set x] }).agenda = .set x :: []) := by
  refine ⟨?_, fun d c => rfl, rfl, .inl ⟨0, 0, ?_⟩, rfl⟩ <;> decide +kernel

/-- A load whose page is being walked waits; a word that reaches no such page does not; and so for a machine step. -/
theorem witness_StepRunsWords_walk :
    let i : Instr := .ld 3 1 0 false 0
    let t := { regs [(1, 0x100)] with pc := 0x600000 }
    let s := { withWords (runState (regs [(1, 0x100)]) (encode (.long always i))) [(lastWord, leafTo [55, 56] 0x1000000000)] with
      agenda := [], ctxs := [ctx0], dies := [(0, { tlb := pages.drop 1, walks := [(0, 0)] })]
      bar0 := { records := [(0, 0, BitVec.ofNat 64 lastWord)] } }
    Reaches s 0 0 place t (encode (.long always i)) ∧
      (acting s place t (encode (.long always i))).meetsWalk (runWord (.long always i)) = true ∧
      (acting s place t 0).meetsWalk (runWord (.pair always (.addi 5 4 0x3FF) .vnop)) = false ∧
      s.meetsWalk (exec .quiescenceWave) = false := by
  refine ⟨⟨?_, rfl, rfl, fetch_of _ _ ?_⟩, ?_, ?_, ?_⟩ <;> decide +kernel

/-- A Boolean test of a node that cannot be read yet. -/
def nodeAwayIs (x : NodeRead) : Bool :=
  match x with
  | .away => true
  | _ => false

theorem node_away (x : NodeRead) (t : nodeAwayIs x = true) : x = .away := by cases x <;> simp_all [nodeAwayIs]

/-- A Boolean test of a node that cannot be read at all. -/
def nodeBadIs (x : NodeRead) : Bool :=
  match x with
  | .bad => true
  | _ => false

theorem node_bad (x : NodeRead) (t : nodeBadIs x = true) : x = .bad := by cases x <;> simp_all [nodeBadIs]

/-- A Boolean test of where a step acts: 0 at its place, 1 nowhere for a fault, 2 nowhere for a lost home, 3 not yet. -/
def atKind (x : StepAt) : Nat :=
  match x with
  | .at_ _ => 0
  | .fault => 1
  | .lost => 2
  | .wait => 3

theorem at_fault (x : StepAt) (t : atKind x = 1) : x = .fault := by cases x <;> simp_all [atKind]
theorem at_wait (x : StepAt) (t : atKind x = 3) : x = .wait := by cases x <;> simp_all [atKind]

/-- A thread that waits for nodes. -/
def allocThread : Thread := { thr with hold := .quarry false }

/-- The machine of a thread whose `alloc` has popped one node while another, that waits no longer, has popped one, and one is on the
stack. -/
def allocState : State :=
  { st allocThread with
    cores := [((0, 0), { partitions := [⟨0, 0, 64⟩], nodeStacks := [(0, [0x200000])], popped := [(1, 0, [0x200020]), (7, 0, [0x200040])] })] }

/-- Three nodes in all, the quarry empty; one of them is still being zeroed; and a stack that would hold 65. -/
theorem witness_NetWords_popped :
    (let z := { allocState with sends := [ask 1 (.store 0x200000 [(0x1000200020, 0)])] }
     let all := ownPopped allocState place 0 1 ++ (regained allocState place 0).1
     allocState.current = some (iss allocThread, allocThread) ∧ allocState.awaitsNodes 0 0 1 = true ∧
      allocState.awaitsNodes 0 0 7 = false ∧ strays allocState place 0 = [0x200040] ∧ all = [0x200020, 0x200040, 0x200000] ∧
      (all.take 3).all (fun a => !allocState.zeroing 0 0 a) = true ∧ (all.take 3).any (fun a => z.zeroing 0 0 a) = true ∧
      allocThread.hold ≠ .quarry true) ∧
    (pushed 0 (List.replicate 8 0) (List.replicate 57 0)).2.length = 1 ∧
    (pushed 0 (List.replicate 8 0) (List.replicate 56 0)).2.length = 0 := by
  refine ⟨⟨rfl, ?_, ?_, ?_, ?_, ?_, ?_, ?_⟩, ?_, ?_⟩ <;> decide +kernel

/-- A rewrite of nodes of which one is being stepped on, one of a node that cannot be read, one that fails with a slot free and with
none, and one whose node is still being zeroed; a write of one that is due, one refused, and one whose block has had a step. -/
theorem witness_Rewrites_waits :
    (let s := { jobState (newJob 1) twoCons with stepped := [0x1000200000] }
     s.jobOf 9 = some (newJob 1) ∧ s.readNode 0 0 0x200000 = .away) ∧
    (let r := { newJob 1 with a := 0xC00000 }
     let s := jobState r twoCons
     s.jobOf 9 = some r ∧ s.readNode 0 0 0xC00000 = .bad ∧ s.readNode 0 0 0x200020 ≠ .away ∧ s.freeFor 0 0 0 = none ∧
      ({ s with slots := [(⟨0, 0, 1⟩, { owner := some 0 })] }).freeFor 0 0 0 ≠ none) ∧
    (let s := { jobState (newJob 2) twoCons with sends := [ask 1 (.store 0x200000 [(0x1000200060, 0)])] }
     s.zeroing 0 0 0x200060 = true ∧ s.zeroing 0 0 0x200040 = false) ∧
    (let r (w : Word) : Rewrite := { newJob 1 with begun := true, writes := [(w, 9)] }
     (jobState (r 0x200000) []).jobOf 9 = some (r 0x200000) ∧ (r 0x200000).writes = (0x200000, 9) :: [] ∧
      (jobState (r 0x200000) []).stepAt 0 0 none 0x200000 8 = .at_ 0x1000200000 ∧
      (jobState (r 0xC00000) []).stepAt 0 0 none 0xC00000 8 = .fault ∧
      ({ jobState (r 0x200000) [] with stepped := [0x1000200000] }).stepAt 0 0 none 0x200000 8 = .wait) ∧
    (let r := { newJob 1 with begun := true, todo := [.splice
       { a := ⟨0x200001, 0, 0, 0, .free, 0⟩, b := ⟨0x200021, 0, 0x200001, 0, .free, 0⟩, turnB := false, meets := [], pushes := true,
         phase := .takeFirst, writes := [], partners := [] }] }
     r.writes = [] ∧ r.cur = none ∧ r.todo ≠ []) ∧
    ((newJob 1).writes = [] ∧ (spliceJob 0 .attach).writes = [] ∧ (spliceJob 0 .attach).cur ≠ none) := by
  refine ⟨⟨rfl, node_away _ ?_⟩, ⟨rfl, node_bad _ ?_, ?_, ?_, ?_⟩, ?_,
    ⟨rfl, rfl, at_of _ _ ?_, at_fault _ ?_, at_wait _ ?_⟩, ⟨rfl, rfl, by simp⟩, rfl, rfl, by simp [spliceJob]⟩
  case refine_3 =>
    intro h
    have : nodeAwayIs ((jobState { newJob 1 with a := 0xC00000 } twoCons).readNode 0 0 0x200020) = false := by decide +kernel
    rw [h] at this
    cases this
  all_goals decide +kernel

/-- A rule that the core's cache lacks, its block stepped on this cycle, and not. -/
theorem witness_Dispatching_rule_waits :
    let s := { callState with cores := [((0, 0), { callState.core 0 0 with cache := [] })] }
    (¬ RuleCached s 0 0 0 0 ∧ ¬ RuleWaits s 0 0 0 0) ∧ RuleWaits { s with stepped := [0] } 0 0 0 0 ∧ RuleCached callState 0 0 0 0 := by
  refine ⟨⟨?_, ?_⟩, ⟨?_, ?_⟩, ?_⟩
  case refine_2 => exact fun h => absurd h.2 (by simp [callState, st])
  all_goals try unfold RuleCached
  all_goals decide +kernel

/-- The unit of a core takes pairs of a context; it does not while a record of it is held, or waits for a place among sixteen. -/
theorem witness_Dispatching_unit :
    UnitOpen callState 0 0 0 ∧
    (let r : FreshRec := { (default : FreshRec) with src := .unit }
     ¬ UnitOpen { callState with cores := [((0, 0), { callState.core 0 0 with held := [r] })] } 0 0 0 ∧
      (let c := { callState.core 0 0 with held := List.replicate 16 { r with src := .push } }
       ¬ UnitOpen { callState with fresh := [r], cores := [((0, 0), c)] } 0 0 0)) := by
  refine ⟨⟨?_, ?_, ?_⟩, fun h => h.2.1 _ (.head _) ⟨rfl, rfl⟩, fun h => h.2.2 ⟨?_, _, .head _, rfl, rfl, rfl, rfl⟩⟩ <;> decide +kernel

/-- A take of a record with a node that is being stepped on, and of one with a node that cannot be read, with a fault handler. -/
theorem witness_Dispatching_nodes :
    (let s := { callState with stepped := [0x1000200000] }
     s.nextRecord 0 0 0 = some ⟨0x200000, 0x200020, 0, 0⟩ ∧ s.readNode 0 0 0x200000 = .away) ∧
    (let s := { callState with
       bar0 := { records := [(0, 3, 0x600000)] }
       cores := [((0, 0), { callState.core 0 0 with hod := [⟨0xC00000, 0x200020, 0, 0⟩] })] }
     s.nextRecord 0 0 0 = some ⟨0xC00000, 0x200020, 0, 0⟩ ∧ s.readNode 0 0 0xC00000 = .bad ∧
      s.readNode 0 0 0x200020 = .ok 0x20002 0 0 0 1 ∧ s.record 0 3 ≠ 0 ∧ s.slotFor ⟨0, 0, 1⟩ 0 = true) := by
  refine ⟨⟨?_, node_away _ ?_⟩, ?_, node_bad _ ?_, node_of _ _ _ _ _ _ ?_, ?_, ?_⟩ <;> decide +kernel

/-- A quarry that serves one returned node and two never used ones, up to its last. -/
theorem witness_DrainsAndBatches_served :
    let info : CtxInfo := ⟨0, 0, 0x200000, [0x200100], 0, none⟩
    let s := { st thr with
      ctxs := [info], bar0 := { records := [(0, 4, 0x200000), (0, 5, 0x20)] }
      cores := [((0, 0), { wants := [0], giveBack := [(1, [0x200040])] })] }
    s.stored ∧ FirstOf (fun x => x.n = 0) s.ctxs [] info [] ∧ (∀ b ∈ (s.core 0 0).giveBack, b.1 ≠ 0) ∧ 0 ∈ (s.core 0 0).wants ∧
      (s.record 0 4).toNat + (s.record 0 5).toNat = 0x200020 ∧ s.paAway 0 0x1000200000 = false := by
  refine ⟨⟨?_, ?_⟩, first_one _ _ rfl, ?_, .head _, ?_, ?_⟩ <;> decide +kernel

theorem three_no_power (k : ℤ) : (3 : ℚ) ≠ 2 ^ k := by
  intro h
  rcases k with n | n
  · have e : (3 : ℕ) = 2 ^ n := by
      rw [Int.ofNat_eq_natCast, zpow_natCast] at h
      exact_mod_cast h
    rcases n with _ | _ | n
    · simp at e
    · simp at e
    · rw [pow_add] at e
      omega
  · have : (2 : ℚ) ^ (Int.negSucc n) ≤ 1 := zpow_le_one_of_nonpos₀ (by norm_num) (by omega)
    linarith

/-- 1.5, which is no integer, and 3, which is no power of two; and a zero to convert. -/
theorem witness_FloatValues_between :
    realOf (fp32.num 0x3FC00000) = 3 / 2 ∧ (∀ k : ℤ, (3 / 2 : ℚ) ≠ k) ∧ realOf (fp32.num 0x40400000) = 3 ∧ (0 : ℚ) < 3 ∧
      (∀ k : ℤ, (3 : ℚ) ≠ 2 ^ k) ∧ fp32.num 0x80000000 = .zero true := by
  have a : fp32.num 0x3FC00000 = .fin false (3 * 2 ^ 22) (-23) := by decide +kernel
  have b : fp32.num 0x40400000 = .fin false (3 * 2 ^ 22) (-22) := by decide +kernel
  refine ⟨by rw [a]; norm_num [realOf], fun k h => ?_, by rw [b]; norm_num [realOf], by norm_num, three_no_power, by decide +kernel⟩
  have e : (3 : ℤ) = 2 * k := by
    have : (3 : ℚ) = 2 * k := by linarith
    exact_mod_cast this
  omega

/-- Elements that a product takes: a NaN code and another, and a number to convert. -/
theorem witness_ProductElements_operands :
    e8m10.isNaN 0x3FC01 = true ∧ e8m10.isNaN 0 = false ∧ 7 < 8 ∧ ((10, bf16) : Nat × Fmt) ∈ [(8, fp32), (9, fp16), (10, bf16)] :=
  ⟨by decide +kernel, by decide +kernel, by decide, by simp⟩

/-- An operation's fault, with a `twait` that its operations without effect let go first, and with one that still waits. -/
theorem witness_FaultsAtBoundaries_twait :
    (let t := { handled with lateFaults := [(0x0A, 1, true)], hold := .twait 1 }
     let s := { st t with cur := none, ops := [{ op1 1 [] [] with skip := true }] }
     s.thread? place = some t ∧ t.lateFaults = (0x0A, 1, true) :: [] ∧ t.hold = .twait 1 ∧ (∀ o ∈ s.opsOf 1, o.seq ≤ 1 → o.skip = true) ∧
      t.notices = [] ∧ ¬ ∀ o ∈ ({ s with ops := [op1 1 [] []] }).opsOf 1, o.seq ≤ 1 → o.skip = true) ∧
    (let t := { handled with lateFaults := [(0x0A, 1, false)] }
     t.lateFaults = (0x0A, 1, false) :: []) := by
  refine ⟨⟨rfl, rfl, rfl, ?_, rfl, ?_⟩, rfl⟩ <;> decide +kernel

/-- The thread of an operation in a slot, saved in a block that records a fault and one that records none, and ended. -/
theorem witness_OperationSteps_ends :
    (let s := { st thr with ops := [op1 1 [] []] }
     s.blockOf 1 = none ∧ s.findThread 1 = some (place, thr)) ∧
    (let s := { State.reset with ops := [op1 1 [] []] }
     s.blockOf 1 = none ∧ s.findThread 1 = none) ∧
    (let s := { st thr with slots := [], saving := [saving1 false] }
     let v := saving1 false
     s.blockOf 1 = some v ∧ FirstOf (fun x : Saving => x.uid = 1) s.saving [] v [] ∧ s.blockRead v 0x6F0 = 0 ∧
      ({ s with dies := [(0, { tlb := pages })], mem := [(0x10000016F0, 0x0A)] }).blockRead v 0x6F0 ≠ 0) := by
  refine ⟨⟨rfl, rfl⟩, ⟨rfl, rfl⟩, rfl, first_one _ _ rfl, ?_, ?_⟩ <;> decide +kernel

/-- An operation that writes a tile of one element: at a page that takes it, and at one that does not. -/
theorem witness_OperationSteps_writes :
    (let d := desc 0x100 1 1 8 0
     let o := op1 4 [d] []
     let s := { st thr with ops := [o] }
     FirstOf (fun x => x.uid = o.uid) s.ops [] o [] ∧ ShapeOk d ∧ [0].length = tileSize d ∧ tileElems [d] = [(0, 0x100, 4)] ∧
      ∃ leaf, s.translate 0 0 .store 0x100 = .ok 0x1000000100 leaf) ∧
    (let d := desc 0xC00000 1 1 8 0
     ShapeOk d ∧ [0].length = tileSize d ∧ tileElems [d] = [(0, 0xC00000, 4)] ∧ (st thr).translate 0 0 .store 0xC00000 = .fail causeProt) := by
  refine ⟨⟨first_one _ _ rfl, ⟨?_, ?_, ?_, ?_⟩, ?_, ?_, _, rfl⟩, ⟨?_, ?_, ?_, ?_⟩, ?_, ?_⟩ <;> decide +kernel

/-- A slot whose earlier generation has had its notice while a stamped store of it waits, and one where none waits. -/
theorem witness_StopNotices_held :
    (let s := { st thr with
       slots := [(place, { gen := 2, noticed := [1] })]
       sends := [{ ask 1 (.sta 0x400000 0x1000400000 1 0) with wid := writerId place 1 }] }
     let x := s.slot place
     let held := fun g => ∃ r ∈ s.sends, r.isStamped = true ∧ r.wid = writerId place g
     ¬ (x.gen ∈ x.noticed ∧ s.noticePending (writerId place x.gen) = false) ∧
      FirstOf (fun k => held k ∧ s.noticePending (writerId place k) = false) x.noticed [] 1 []) ∧
    (let s := { st thr with slots := [(place, { gen := 2, noticed := [1] })] }
     ¬ ∃ r ∈ s.sends, r.isStamped = true ∧ r.wid = writerId place 1) := by
  refine ⟨⟨?_, first_one _ _ ⟨⟨_, .head _, ?_, ?_⟩, ?_⟩⟩, ?_⟩
  all_goals decide +kernel

/-- A record whose rule's block has had a step this cycle, one that may be read, and one whose node's block has had a step. -/
theorem witness_RecordsClassify_waits :
    (let s := { st thr with fresh := [rec1], mem := twoCons, stepped := [0] }
     RuleWaits s 0 0 0 (s.classOf 0 2 * 256 + s.classOf 0 2) ∧ s.readNode 0 0 0x200000 = .ok 0x20002 0 0 0 1) ∧
    (let s := { st thr with fresh := [rec1], mem := twoCons }
     ¬ RuleWaits s 0 0 0 (s.classOf 0 2 * 256 + s.classOf 0 2)) ∧
    (let s := { st thr with fresh := [rec1], mem := twoCons, stepped := [0x1000200000] }
     (s.readNode 0 0 0x200000 matches .away) = true) := by
  refine ⟨⟨⟨?_, ?_⟩, node_of _ _ _ _ _ _ ?_⟩, fun h => absurd h.2 (by simp [st]), ?_⟩
  all_goals try unfold RuleCached
  all_goals decide +kernel

/-- A record of the rewrite unit, and of a drain's wake while the drain waits and when it is gone; one that finds no room while sixteen
are held. -/
theorem witness_RecordsPlaced_sources :
    (let r : FreshRec := { rec2 with src := .unit }
     r.src ≠ .intake ∧ drainOf r = none) ∧
    (let r : FreshRec := { rec2 with src := .wake, owner := 9 }
     r.src ≠ .intake ∧ drainOf r = some 9 ∧ FirstOf (fun x : TileOp => x.uid = 9) (accState (op1 4 [] [])).ops [] (op1 4 [] []) [] ∧
      ∀ o ∈ (st thr).ops, o.uid ≠ 9) ∧
    (let full := { (recState 0 0).core 0 0 with held := List.replicate 16 rec2 }
     let s := { recState 0 0 with cores := [((0, 0), full)] }
     (s.core 0 0).areaOf 0 = none ∧ (s.core 0 0).hodRoom 0 = false ∧ s.partRoom 0 0 = 0 ∧
      16 ≤ ((s.core 0 0).held.filter fun q => q.ctx = 0).length) := by
  refine ⟨⟨by simp, rfl⟩, ⟨by simp, rfl, first_one _ _ rfl, by simp [st]⟩, ?_⟩
  decide +kernel

/-- Held records: one that finds a partition, and one that finds no room. -/
theorem witness_RecordsPlaced_held :
    (let s := recState 0 4
     FirstOf (fun x => x.ctx = 0) (s.core 0 0).held [] rec2 [] ∧ rec2.words = some (0x200000, 0x200020) ∧
      (s.core 0 0).areaOf 0 = none ∧ (s.core 0 0).hodRoom 0 = false ∧ 0 < s.partRoom 0 0) ∧
    ((recState 0 0).core 0 0).hodRoom 0 = false ∧ (recState 0 0).partRoom 0 0 = 0 := by
  refine ⟨⟨first_one _ _ rfl, rfl, ?_⟩, ?_⟩ <;> decide +kernel

/-- The machine with an intake record, its context owning a slot of core 0 of die 0 or none. -/
def intakeState (mark size : Nat) (own : Bool) : State :=
  { recState mark size with
    fresh := [{ rec2 with src := .intake }], ctxs := [⟨0, 0, 0, [], 0, none⟩]
    slots := if own then [(⟨0, 0, 1⟩, { owner := some 0 })] else [] }

theorem intake_die : IntakeDie (intakeState 1 0 true) ((0x200020 : Word).toNat / 2 ^ 54) 0 := by
  refine ⟨[], (intakeState 1 0 true).inService.tail, ?_, by simp, fun e _ => ?_⟩
  · decide +kernel
  · have : gridDist 0 ((0x200020 : Word).toNat / 2 ^ 54) = 0 := by decide +kernel
    rw [this]
    exact Nat.zero_le _

/-- An intake record whose context owns a slot of the die: with room in the hod, in the partition, and in neither; one whose context
owns none; and a package of which no lamp die is in service. -/
theorem witness_RecordsPlaced_intake :
    (let s := intakeState 1 0 true
     let r : FreshRec := { rec2 with src := .intake }
     FirstOf (fun x => x.id = 60) s.fresh [] r [] ∧ r.words = some (0x200000, 0x200020) ∧ r.src = .intake ∧
      FirstOf (fun x : CtxInfo => x.n = r.ctx) s.ctxs [] ⟨0, 0, 0, [], 0, none⟩ [] ∧
      FirstOf (OwnsSlot s 0 0) ((List.range 16).map fun k => (0 + k) % 16) [] 0 [1, 2, 3, 4, 5, 6, 7, 8, 9, 10, 11, 12, 13, 14, 15] ∧
      (s.core 0 0).areaOf 0 = none ∧ (s.core 0 0).hodRoom 0 = true) ∧
    (((intakeState 0 4 true).core 0 0).hodRoom 0 = false ∧ 0 < (intakeState 0 4 true).partRoom 0 0) ∧
    (((intakeState 0 0 true).core 0 0).hodRoom 0 = false ∧ (intakeState 0 0 true).partRoom 0 0 = 0) ∧
    (∀ c, ¬ OwnsSlot (intakeState 0 4 false) 0 0 c) ∧
    ({ State.reset with dies := (List.range 672).map fun k => (k, { outOfService := true }) }).inService = [] := by
  refine ⟨⟨first_one _ _ rfl, rfl, rfl, first_one _ _ rfl, ⟨?_, ⟨1, by decide, ?_⟩, by simp⟩, ?_⟩, ?_, ?_, ?_, ?_⟩
  case refine_6 =>
    rintro c ⟨k, -, h⟩
    have : ((intakeState 0 4 false).slot ⟨0, c, k⟩).owner = none := rfl
    rw [this] at h
    cases h
  all_goals decide +kernel

/-- `board` of a list while an access of the thread is on its way; a part of the running program, of the standby one alone, and of neither;
a boarding of no part. -/
theorem witness_Boardings_waits :
    (let t := regs [(2, 1), (3, 0x801001)]
     let s := { st t with ring := { running := some ⟨8, 0, [expert1]⟩ }, outs := [{ (default : Out) with owner := 1 }] }
     s.drained 1 0 = false ∧ uA t 3 % 2 ^ 12 ≠ 0 ∧
      s.checkTokens 0 0 0 (tokenAddrs (BitVec.ofNat 64 (uA t 3 / 2 ^ 12 % 2 ^ 36 * 2 ^ 12)) 1) = .ok [0x1000000001000]) ∧
    (let hit := fun p : Part => p.ctx = 0 ∧ p.layer = 0 ∧ p.lane = 0
     FirstOf hit program1.parts [] part1 [] ∧ (∀ p ∈ [({ expert1 with w0 := 0x100000000000000 } : Part)], ¬ hit p)) ∧
    (∀ g, ({ standby := some program1 } : Ring).running = some g → False) ∧ ({ ctx := 0, k := 0, part := none } : Handle).part = none := by
  refine ⟨?_, ⟨⟨rfl, ?_, by simp⟩, ?_⟩, nofun, rfl⟩ <;> decide +kernel

/-- An expert boarding that is due to be boarded again, its release still to take effect; one with no token dropped; handles none of
which is being released; and a list that no longer passes. -/
theorem witness_Boardings_due :
    (let h : Handle := { landed1 with dropped := 1, count := 1, list := 0x801000, window := some (5, 9), releasing := some [9] }
     let s := { st thr with cores := [((0, 0), { handles := [h], partitions := [⟨0, 0, 64⟩] })], cycle := 9 }
     FirstOf (fun x => x.ctx = 0 ∧ x.k = 0 ∧ ReboardDue s 0 x) (s.core 0 0).handles [] h [] ∧ h.part = some part1 ∧
      s.checkTokens 0 0 0 (tokenAddrs h.list h.count) = .ok [0x1000000001000] ∧
      s.checkTokens 0 0 0 (tokenAddrs 0xC00000 1) = .error (causeProt, 0xC00000)) ∧
    (∀ s : State, ¬ ReboardDue s 0 landed1) ∧ landed1.releasing = none := by
  refine ⟨⟨first_one _ _ ⟨rfl, rfl, 5, 9, ?_, rfl, ?_, ?_, .inl ?_, ?_⟩, rfl, ?_, ?_⟩, ?_, rfl⟩
  case refine_8 => rintro s ⟨b, e, -, -, h, -⟩; exact h rfl
  all_goals decide +kernel

/-- Ring-adjacent dies that would both be bypassed, and dies that are not adjacent. -/
theorem witness_RingTime_adjacent :
    AdjacentWould { st thr with dies := [(0, { errors := 64 }), (1, { outOfService := true })] } ∧
    ¬ AdjacentWould { st thr with dies := [(0, { errors := 64 }), (300, {})] } ∧
    BypassDue { st thr with dies := [(0, { errors := 64 }), (300, {})] } 0 := by
  have one : ringPos 1 = (ringPos 0 + 1) % 672 ∨ ringPos 0 = (ringPos 1 + 1) % 672 := by decide +kernel
  have w0 : WouldBypass { st thr with dies := [(0, { errors := 64 }), (1, { outOfService := true })] } 0 :=
    ⟨by decide, .inr ⟨rfl, .inr ⟨by decide, by decide⟩⟩⟩
  have w1 : WouldBypass { st thr with dies := [(0, { errors := 64 }), (1, { outOfService := true })] } 1 :=
    ⟨by decide, .inr ⟨rfl, .inl rfl⟩⟩
  refine ⟨one.elim (fun h => ⟨0, 1, w0, w1, h⟩) fun h => ⟨1, 0, w1, w0, h⟩, ?_, rfl, .inr ⟨by decide, by decide⟩⟩
  rintro ⟨a, b, ⟨ha, -⟩, ⟨hb, -⟩, h⟩
  have all : ([0, 300].all fun a => [0, 300].all fun b => ringPos b != (ringPos a + 1) % 672) = true := by decide +kernel
  have := List.all_eq_true.mp (List.all_eq_true.mp all a ha) b hb
  simp [h] at this

/-- RINGSWITCH that starts the standby program, with dies apart and adjacent; a group image at an address that cannot be read, and one
that is refused. -/
theorem witness_RingCommands_refused :
    (let s := { State.reset with bar0 := { busy := true, cmdCode := 9 }, ring := { standby := some program1 } }
     runs s 9 0 ∧ s.ring.running = none ∧ s.ring.stopped = false ∧ (s.dies.map (·.1)).Nodup ∧ ¬ AdjacentWould s) ∧
    (let s := { State.reset with
       bar0 := { busy := true, cmdCode := 9 }, ring := { standby := some program1 }
       dies := [(0, { errors := 64 }), (1, { outOfService := true })] }
     runs s 9 0 ∧ (s.dies.map (·.1)).Nodup ∧ AdjacentWould s) ∧
    tableOk 0 1 = false ∧
    groupImage.groupOk 0x1000002000 (groupImage.readGroup 0 63 0x1000002000)
      (groupImage.roundsOpen 0 (groupImage.readGroup 0 63 0x1000002000).g) = false := by
  refine ⟨⟨⟨rfl, rfl, rfl⟩, rfl, rfl, ?_, ?_⟩, ⟨⟨rfl, rfl, rfl⟩, ?_, ?_⟩, ?_, ?_⟩
  case refine_2 => rintro ⟨a, b, ⟨ha, -⟩, -⟩; cases ha
  case refine_4 => exact witness_RingTime_adjacent.1
  all_goals decide +kernel

/-- An answer to a packet that has passed a die which has failed since; a mover that has stored, whose id is held away, with eight former
ids and with none. -/
theorem witness_Migrations_accepted :
    (let s := { packetState 0 false [] with
       dies := [(1, { outOfService := true })]
       resps := [⟨50, 1, 2, 0, 2, 0, 0, 0, .packetOk, true⟩] }
     (s.resps.map (·.passed)) = [true] ∧ s.routeClear 2 0 = false) ∧
    (let t := { mover .sent with stampedNow := true, former := List.replicate 8 1 }
     t.away = true ∧ t.stampedNow = true ∧ 8 ≤ t.former.length ∧ ¬ 8 ≤ (mover .sent).former.length ∧ (mover .sent).stampedNow = false) ∧
    (let after := fun k : Nat => (fun g : Nat => if g < 63 then g + 1 else 1)^[k] 62
     after 1 = 63 ∧ after 2 = 1) := by
  refine ⟨⟨rfl, ?_⟩, ?_, ?_⟩ <;> decide +kernel

/-- A `reds` that is held: its group gone, one earlier round of its window of one open, and none; and one that has been sent. -/
theorem witness_ContributionsSend_held :
    (let o := { reds 5 1 with phase := .held }
     let s := { groupState 0 [] with ops := [o] }
     FirstOf (fun x => x.uid = 9) s.ops [] o [] ∧ o.op = 24 ∧ o.phase = .held ∧ s.group 0 5 = some (group5 0) ∧
      (group5 0).member 0 = some (0, 0x400000) ∧ earlierOpen s o < headField (group5 0).h0 20 2 + 1 ∧
      ({ s with groups := [] }).group 0 5 = none ∧
      (let e := { s with ops := [{ reds 5 0 with uid := 8, seq := 0, phase := .sent }, o] }
       headField (group5 0).h0 20 2 + 1 ≤ earlierOpen e o)) ∧
    ({ reds 5 1 with phase := .sent }).phase ≠ .queued := by
  refine ⟨⟨first_one _ _ rfl, rfl, rfl, ?_⟩, by simp⟩
  decide +kernel

/-- A result whose block's home is its root's own die, its block stepped on this cycle and not; one of a die out of service; and one of a
group that has had a store this cycle. -/
theorem witness_ResultsReturn_home :
    (let k := slot5 (some (0, 0)) []
     let s := groupState 0 [k]
     paHome 0x1000400000 = 1 ∧ 0x1000400000 / 256 * 256 ∉ s.stepped ∧
      0x1000400000 / 256 * 256 ∈ ({ s with stepped := [0x1000400000] }).stepped ∧ paHome 0x3000400000 ≠ 1 ∧
      (({ s with dies := [(0, { outOfService := true })] }).die 0).outOfService = true) ∧
    (let k := { slot5 (some (0, 0)) [] with lastWrite := some 0 }
     ∃ x ∈ ((groupState 0 [k]).die 1).keystones, x.ctx = k.ctx ∧ x.group = k.group ∧ x.lastWrite = some (groupState 0 [k]).cycle) :=
  ⟨by decide +kernel, _, .head _, rfl, rfl, rfl⟩

/-- A frame in sequence whose slot still holds another round. -/
theorem witness_TransportFrames_taken :
    (let s := groupState 0x40 [slot5 none []]
     s.group 0 5 = some (group5 0x40) ∧ SlotTaken s (group5 0x40).root 0 5 1) ∧
    stampDiff 1 (((groupState 0x40 [slot5 none []]).port 0).seenFrom 1) = 1 := by
  refine ⟨⟨?_, group5 0x40, slot5 none [], ?_, .head _, rfl, rfl, ?_, ?_⟩, ?_⟩ <;> decide +kernel

/-- Register offsets that no write changes, lamp-only ones, and the first and last words that start a step. -/
theorem witness_RegisterWrites_kept :
    ReadOnly 0 ∧ ReadOnly 0x10000 ∧ ReadOnly 0x2FFF8 ∧ ReadOnly 0x30008 ∧ ReadOnly 0x44000 ∧ ReadOnly 0x469F8 ∧ ¬ ReadOnly 0x30020 ∧
    ConfigReadOnly 0x1008 ∧ ConfigReadOnly 0x3AF8 ∧ ¬ ConfigReadOnly 0x1048 ∧ LampOnly 0x2000 ∧ LampOnly 0x387F ∧ ¬ LampOnly 0x2010 ∧
    isLamp 670 = false ∧ (335 < 336 ∧ 3 < 4) ∧ (1 : Word).getLsbD 0 = true ∧ (0 : Word).getLsbD 0 = false := by
  unfold ReadOnly ConfigReadOnly LampOnly
  refine ⟨?_, ?_, ?_, ?_, ?_, ?_, ?_, ?_, ?_, ?_, ?_, ?_, ?_, ?_, ?_, ?_, ?_⟩ <;> decide

/-- A walk behind another of another page, an address of whose page a request completes; and requests of a context that have still to be
performed. -/
theorem witness_PowerAndWalks_pages :
    (let s := { st thr with ctxs := [ctx0], dies := [(0, { walks := [(0, 0x400000), (0, 0x200004)] })] }
     (s.die 0).walks = [(0, 0x400000)] ++ (0, 0x200004) :: [] ∧ (∀ x ∈ [((0, 0x400000) : Nat × Nat)], ¬ InPage s 0 0x20FFFF x) ∧
      InPage s 0 0x20FFFF (0, 0x200004)) ∧
    ToPerform { st thr with sends := [ask 1 (.ldas 0 0)] } 0 50 ∧
    ToPerform { st thr with resps := [⟨50, 1, 1, 0, 0, 0, 0, 0, .retry (ask 1 (.ldas 0 0)), false⟩] } 0 50 ∧
    ToPerform { st thr with dies := [(1, { monitor := [{ (default : MonEntry) with req := 50 }] })] } 0 50 := by
  refine ⟨⟨rfl, ?_, ?_⟩, .inl ⟨ask 1 (.ldas 0 0), .inl ?_, rfl, rfl⟩,
    .inl ⟨ask 1 (.ldas 0 0), .inr (.inr ⟨_, .head _, rfl⟩), rfl, rfl⟩, .inr ⟨_, .head _, _, .head _, rfl, rfl⟩⟩
  case refine_3 => simp
  all_goals try unfold InPage
  all_goals decide +kernel

/-- A thread due for DEBUG between its words, with a handler that it may enter and without. -/
theorem witness_DebugHalts_entry :
    (let t := { handled with debugDue := true }
     let s := { st t with cur := none }
     s.thread? place = some t ∧ t.pending = none ∧ s.atBoundary place t = true ∧ t.preempt = none ∧ t.debugDue = true ∧ t.priv = false ∧
      s.handlerOk place t = true ∧ t.settled = true) ∧
    (let t := { thr with debugDue := true }
     let s := { st t with cur := none }
     s.atBoundary place t = true ∧ t.debugDue = true ∧ s.handlerOk place t = false) := by
  refine ⟨⟨rfl, rfl, ?_, rfl, rfl, rfl, ?_, rfl⟩, ?_, rfl, ?_⟩ <;> decide +kernel

/-- A saved operation in each state: waiting, withdrawn, trapped, and ready. -/
theorem witness_SaveBlockLayout_tags :
    let t := { thr with tags := [openTag1, { openTag1 with state := .withdrawn }, trappedTag 0 false, { openTag1 with state := .ready }] }
    t.tags[0]? = some openTag1 ∧ openTag1.count < 16 ∧ openTag1.state = .waiting ∧
      (t.tags.map fun g => decide (g.state = .ready)) = [false, false, false, true] := by
  refine ⟨rfl, ?_, rfl, ?_⟩ <;> decide +kernel

/-- RESTORE of a block in which two threads were saved, one after the other, into a slot that all its generations block. -/
theorem witness_SwitchingCommands_blocked :
    let x := { heldAway := (List.range 64).tail }
    let s := { cmdState 7 0x4000 0x100 0 0 with
      mem := [(0x1000000108, 4)], slots := [(argAt 0x4000, x)], saving := [saving true, { saving true with uid := 2 }] }
    let v : Saving := { saving true with uid := 2, place := argAt 0x4000 }
    ((s.saving.filter fun x => decide (x.ctx = 0 ∧ x.block = 0x100)).getLast?.map fun x => { x with place := argAt 0x4000 }) = some v ∧
      (s.blockRead v 8).getLsbD 2 = true ∧ s.slotFree (argAt 0x4000) = false := by
  decide +kernel

/-- A die with all walks busy, and one with one; a step that misses a page, and a machine step that does. -/
theorem witness_StepRunsWords_misses :
    2048 ≤ (({ st thr with dies := [(0, { walks := List.replicate 2048 (0, 0x200000) })] }).die 0).walks.length ∧
    ((st thr).die 0).walks.length < 2048 ∧
    (let o := op1 5 [] [0x100, 0x180, 4]
     let s := { withWords (accState o) [(lastWord, leafTo [55, 56] 0x1000000000)] with
       ctxs := [ctx0], dies := [(0, { walks := [(0, 0)] })], bar0 := { records := [(0, 0, BitVec.ofNat 64 lastWord)] } }
     let i := Instr.tcopyExecute 9
     i.form = .event ∧ s.meetsWalk (exec i) = true ∧ (∀ d n a, i ≠ .pageWalk d n a) ∧ ∀ n a, i ≠ .shootdown n a) ∧
    (let l : LaunchRec := ⟨0, ⟨0, 0, 1⟩, 0x600000, [], false⟩
     ({ st thr with launches := [l] }).nextSlot 0 0 = none) := by
  refine ⟨?_, ?_, ⟨rfl, ?_, nofun, nofun⟩, ?_⟩ <;> decide +kernel

end Sys2Proof.Tests
end

section
/-! SUPPORT. The statements of 02_pavement_and_threads.md: the launch of a thread into a free slot (R11, R27) and the slot
arbiter (R30). -/

set_option Elab.async false

namespace Sys2Proof.Machine
open Sys2Proof.Claims

/-! ### The first element that passes a test -/

section FirstElement
variable {α : Type} {P : α → Prop} {q : α → Bool} {l pre post : List α} {x : α}

theorem find?_of_firstOf (hq : ∀ y, q y = true ↔ P y) (h : FirstOf P l pre x post) : l.find? q = some x := by
  obtain ⟨rfl, hx, hpre⟩ := h
  exact List.find?_eq_some_iff_append.2 ⟨(hq x).2 hx, pre, post, rfl, fun y hy => by
    simpa using mt (hq y).1 (hpre y hy)⟩

theorem dropFirst_append_cons (hx : q x = true) (hpre : ∀ y ∈ pre, q y = false) :
    dropFirst q (pre ++ x :: post) = pre ++ post := by
  induction pre with
  | nil => simp [dropFirst, hx]
  | cons y ys ih =>
    have hy : q y = false := hpre y (by simp)
    simp [dropFirst, hy, ih fun z hz => hpre z (by simp [hz])]

theorem dropFirst_of_firstOf (hq : ∀ y, q y = true ↔ P y) (h : FirstOf P l pre x post) : dropFirst q l = pre ++ post := by
  obtain ⟨rfl, hx, hpre⟩ := h
  exact dropFirst_append_cons ((hq x).2 hx) fun y hy => by simpa using mt (hq y).1 (hpre y hy)

end FirstElement

/-! ### What a slot shows after an update of the state -/

@[simp] theorem State.slot_modCore (s : State) (d c : Nat) (f : Core → Core) (p : Place) :
    (s.modCore d c f).slot p = s.slot p := rfl

@[simp] theorem State.thread_modCore (s : State) (d c : Nat) (f : Core → Core) (p : Place) :
    (s.modCore d c f).thread? p = s.thread? p := rfl

@[simp] theorem State.readByte_modCore (s : State) (d c : Nat) (f : Core → Core) (a : Nat) :
    (s.modCore d c f).readByte a = s.readByte a := rfl

@[simp] theorem State.core_modCore_same (s : State) (d c : Nat) (f : Core → Core) :
    (s.modCore d c f).core d c = f (s.core d c) := State.core_setCore_same s d c _

@[simp] theorem State.readByte_setSlot (s : State) (p : Place) (x : Slot) (a : Nat) :
    (s.setSlot p x).readByte a = s.readByte a := rfl

/-- A free slot holds no thread (R27). -/
theorem State.slotFree_thread {s : State} {p : Place} (h : s.slotFree p = true) : (s.slot p).thread = none := by
  simp only [State.slotFree, Bool.and_eq_true, Option.isNone_iff_eq_none] at h
  exact h.1.1

/-! ### The launch of a thread (R11, R27, R28) -/

theorem Thread.begin_readS (uid ctx : Nat) (pc : Word) (regs : List Word) (trapvec nodeA : Word) (k : BitVec 5) :
    (Thread.begin uid ctx pc regs trapvec nodeA).readS k = if k = 0 then 0 else regs.getD k.toNat 0 := by
  by_cases hk : k = 0
  · simp [Thread.readS, hk]
  · have hn : k.toFin ≠ 0 := fun e => hk (BitVec.eq_of_toFin_eq e)
    rw [if_neg hk, Thread.readS, if_neg hk]
    simp [Thread.begin, hn]

theorem Acc.mem_replicate_start {n : Nat} {a : Acc} (h : a ∈ (Vector.replicate n Acc.start).toList) :
    a.elems = 0 ∧ a.isSet = false := by
  obtain rfl : a = Acc.start := by simp at h; exact h.2
  exact ⟨rfl, rfl⟩

/-- A thread begins with the registers given and every other register at its start (R28, R41, R76). -/
theorem Thread.begin_started (uid ctx : Nat) (pc : Word) (regs : List Word) (trapvec nodeA : Word) :
    Started (Thread.begin uid ctx pc regs trapvec nodeA) ctx pc (fun k => regs.getD k.toNat 0) trapvec := by
  refine ⟨rfl, rfl, Thread.begin_readS uid ctx pc regs trapvec nodeA, fun k => ?_, fun k => ?_, fun k => ?_, fun k => ?_,
    fun a => Acc.mem_replicate_start, rfl, rfl, rfl, rfl, rfl, rfl, rfl, rfl, rfl⟩
  · by_cases hk : k = 0 <;> simp [Thread.readQ, Thread.begin, hk]
  · simp [Thread.readV, Thread.begin]
  · simp [Thread.readP, Thread.begin]
  · simp [Thread.readD, Thread.begin]

/-- Whether a launch record is released and names a place: the test of LAUNCH_FILL. -/
def LaunchRec.releasedAt (p : Place) (l : LaunchRec) : Bool := l.place = p && !l.held

theorem LaunchRec.releasedAt_iff (p : Place) (l : LaunchRec) :
    l.releasedAt p = true ↔ l.place = p ∧ l.held = false := by simp [LaunchRec.releasedAt]

/-- The state after a launch record's thread has started in its slot. -/
def State.launched (s : State) (p : Place) (l : LaunchRec) : State :=
  let s1 := { s with launches := dropFirst (·.releasedAt p) s.launches }
  (s1.setSlot p { s1.slot p with owner := some l.ctx }).startThread p l.ctx l.pc l.regs 0 0

theorem exec_launchFill_of_find {s : State} {p : Place} {l : LaunchRec}
    (h : s.launches.find? (·.releasedAt p) = some l) :
    exec (.launchFill p) s = if s.slotFree p then .next (s.launched p l) else .next s := by
  change execLaunchFill p s = _
  have hfind : s.launches.find? (fun l => l.place = p && !l.held) = some l := h
  simp only [execLaunchFill, hfind]
  cases s.slotFree p <;> rfl

/-- The slot after the launch: its context owns it and its thread is the one begun. -/
theorem State.launched_slot_same (s : State) (p : Place) (l : LaunchRec) :
    (s.launched p l).slot p =
      { s.slot p with owner := some l.ctx, thread := some (Thread.begin s.nextId l.ctx l.pc l.regs 0 0) } := by
  simp [State.launched, State.startThread, State.setThread, State.setSlot, State.slot]

theorem State.launched_slot_other (s : State) {p r : Place} (l : LaunchRec) (h : r ≠ p) :
    (s.launched p l).slot r = s.slot r := by
  simp only [State.launched, State.startThread]
  rw [State.slot_setThread_other _ h]
  exact State.slot_setSlot_other _ h _

end Sys2Proof.Machine

namespace Sys2Proof.Claims
open Sys2Proof.Machine

theorem launchFills : LaunchFills := by
  intro s p pre post l h
  have hfind := find?_of_firstOf (LaunchRec.releasedAt_iff p) h
  have hdrop := dropFirst_of_firstOf (LaunchRec.releasedAt_iff p) h
  rw [exec_launchFill_of_find hfind]
  refine ⟨fun hf => by simp [hf], fun hf => ?_⟩
  have hslot := s.launched_slot_same p l
  refine ⟨s.launched p l, Thread.begin s.nextId l.ctx l.pc l.regs 0 0, by simp [hf], by simp [State.thread?, hslot], rfl,
    Thread.begin_started .., by simp [hslot], ?_, hdrop, rfl, fun r hr => s.launched_slot_other l hr, rfl, fun a => rfl⟩
  have hthread : (s.slot p).thread = none := State.slotFree_thread hf
  rw [hslot, ← hthread]

end Sys2Proof.Claims

/-! ### The contexts and slots the arbiter chooses (R30) -/

namespace Sys2Proof.Machine
open Sys2Proof.Claims

theorem greatest_eq_none {f : Nat → Int} {l : List Nat} : greatest f l = none ↔ l = [] := by
  cases l with
  | nil => simp [greatest]
  | cons c r => simp only [greatest]; split <;> simp; split <;> simp

/-- Of ascending contexts the one with the greatest value is chosen, and among equals the lowest. -/
theorem greatest_eq_some {f : Nat → Int} {l : List Nat} (hl : l.Pairwise (· < ·)) {x : Nat} (h : greatest f l = some x) :
    x ∈ l ∧ ∀ y ∈ l, f y < f x ∨ (f y = f x ∧ x ≤ y) := by
  induction l generalizing x with
  | nil => simp [greatest] at h
  | cons c r ih =>
    obtain ⟨hc, hr⟩ := List.pairwise_cons.1 hl
    cases hg : greatest f r with
    | none =>
      obtain rfl : c = x := by simpa [greatest, hg] using h
      simp [greatest_eq_none.1 hg]
    | some e =>
      obtain ⟨he, hle⟩ := ih hr hg
      have hce := hc e he
      by_cases hlt : f c < f e
      · obtain rfl : e = x := by simpa [greatest, hg, hlt] using h
        exact ⟨.tail c he, List.forall_mem_cons.2 ⟨.inl hlt, hle⟩⟩
      · obtain rfl : c = x := by simpa [greatest, hg, hlt] using h
        refine ⟨.head r, List.forall_mem_cons.2 ⟨.inr ⟨rfl, le_rfl⟩, fun y hy => ?_⟩⟩
        have := hle y hy
        have := hc y hy
        omega

/-- The contexts resident on a core, ascending. -/
def State.residents (s : State) (d c : Nat) : List Nat := (List.range 64).filter fun n => (s.core d c).resident n

theorem State.mem_residents {s : State} {d c n : Nat} :
    n ∈ s.residents d c ↔ n < 64 ∧ (s.core d c).resident n = true := by simp [State.residents]

theorem State.residents_filter_sorted (s : State) (d c : Nat) (q : Nat → Bool) :
    ((s.residents d c).filter q).Pairwise (· < ·) := (List.pairwise_lt_range.filter _).filter _

/-- The sum of the weights of a core's resident contexts (R30). -/
def State.weightSum (s : State) (d c : Nat) : Nat := ((s.residents d c).map fun n => (s.core d c).weightOf n).sum

/-- The free slots of a core, ascending. -/
def State.freeSlots (s : State) (d c : Nat) : List Nat := (List.range 16).filter fun k => s.slotFree ⟨d, c, k⟩

theorem State.mem_freeSlots {s : State} {d c k : Nat} :
    k ∈ s.freeSlots d c ↔ k < 16 ∧ s.slotFree ⟨d, c, k⟩ = true := by simp [State.freeSlots]

/-- The state with a slot of a core given to a context. -/
def State.giveSlot (s : State) (d c k n : Nat) : State :=
  s.setSlot ⟨d, c, k⟩ { s.slot ⟨d, c, k⟩ with owner := some n }

theorem State.thread_giveSlot (s : State) (d c k n : Nat) (p : Place) : (s.giveSlot d c k n).thread? p = s.thread? p := by
  by_cases h : p = ⟨d, c, k⟩
  · subst h; simp [State.thread?, State.giveSlot]
  · simp [State.thread?, State.giveSlot, State.slot_setSlot_other s h]

/-- The context the arbiter gives to: the one furthest below its target. -/
def State.receiver (s : State) (d c : Nat) : Option Nat :=
  greatest (fun n => -(s.excess d c n (s.weightSum d c)))
    ((s.residents d c).filter fun n => s.excess d c n (s.weightSum d c) < 0)

/-- The context the arbiter takes from: the one furthest above its target with a free slot. -/
def State.donor (s : State) (d c : Nat) : Option Nat :=
  greatest (fun n => s.excess d c n (s.weightSum d c)) ((s.residents d c).filter fun n =>
    0 < s.excess d c n (s.weightSum d c) && (s.freeSlots d c).any fun k => (s.slot ⟨d, c, k⟩).owner == some n)

/-- Whether a slot has no owner among a core's resident contexts. -/
def State.ownerAbsent (s : State) (d c k : Nat) : Bool :=
  match (s.slot ⟨d, c, k⟩).owner with
  | some n => !(s.residents d c).contains n
  | none => true

theorem State.ownerAbsent_iff {s : State} {d c k : Nat} : s.ownerAbsent d c k = true ↔
    ∀ n, (s.slot ⟨d, c, k⟩).owner = some n → ¬ (n < 64 ∧ (s.core d c).resident n = true) := by
  unfold State.ownerAbsent
  cases (s.slot ⟨d, c, k⟩).owner with
  | none => simp
  | some n => simp [← State.mem_residents]

/-- The lowest free slot that a test passes. -/
def State.firstFree (s : State) (d c : Nat) (q : Nat → Bool) : Option Nat := (s.freeSlots d c).find? q

/-- The boundary of the arbiter in terms of its choices: the model's definition with its parts named (R30). -/
theorem State.arbitrate_eq (s : State) (d c : Nat) : s.arbitrate d c =
    if s.weightSum d c = 0 then s
    else match s.receiver d c with
    | none => s
    | some n => match s.firstFree d c (s.ownerAbsent d c) with
      | some k => s.giveSlot d c k n
      | none => match s.donor d c with
        | none => s
        | some m =>
          if s.excess d c m (s.weightSum d c) - s.excess d c n (s.weightSum d c) ≤ s.weightSum d c then s
          else match s.firstFree d c fun k => (s.slot ⟨d, c, k⟩).owner == some m with
            | some k => s.giveSlot d c k n
            | none => s := rfl

/-! ### The choices are those the statement names -/

theorem State.excess_eq_overShare (s : State) (d c n sum : Nat) : s.excess d c n sum = overShare s d c sum n := by
  simp [State.excess, State.ownedSlots, overShare, beq_eq_decide]

/-- The receiver: of the contexts below their target the one furthest below, the lower number among equals (R30). -/
def Receives (s : State) (d c n : Nat) : Prop :=
  let ov := overShare s d c (s.weightSum d c)
  MayReceive s d c (s.weightSum d c) n ∧ ∀ m, MayReceive s d c (s.weightSum d c) m → ov n < ov m ∨ (ov n = ov m ∧ n ≤ m)

/-- The donor: of the contexts that may give the one furthest above, the lower number among equals (R30). -/
def Gives (s : State) (d c n : Nat) : Prop :=
  let ov := overShare s d c (s.weightSum d c)
  MayGive s d c (s.weightSum d c) n ∧ ∀ m, MayGive s d c (s.weightSum d c) m → ov m < ov n ∨ (ov n = ov m ∧ n ≤ m)

theorem Receives.unique {s : State} {d c n m : Nat} (hn : Receives s d c n) (hm : Receives s d c m) : n = m := by
  have h1 := hn.2 m hm.1
  have h2 := hm.2 n hn.1
  omega

theorem Gives.unique {s : State} {d c n m : Nat} (hn : Gives s d c n) (hm : Gives s d c m) : n = m := by
  have h1 := hn.2 m hm.1
  have h2 := hm.2 n hn.1
  omega

theorem State.mem_receivers {s : State} {d c n : Nat} :
    n ∈ ((s.residents d c).filter fun n => s.excess d c n (s.weightSum d c) < 0) ↔ MayReceive s d c (s.weightSum d c) n := by
  simp [State.mem_residents, State.excess_eq_overShare, MayReceive, and_assoc]

theorem State.mem_donors {s : State} {d c n : Nat} :
    n ∈ ((s.residents d c).filter fun n => 0 < s.excess d c n (s.weightSum d c) &&
      (s.freeSlots d c).any fun k => (s.slot ⟨d, c, k⟩).owner == some n) ↔ MayGive s d c (s.weightSum d c) n := by
  simp [State.mem_residents, State.mem_freeSlots, State.excess_eq_overShare, MayGive, and_assoc]

theorem State.receiver_eq_none {s : State} {d c : Nat} (h : s.receiver d c = none) (n : Nat) : ¬ Receives s d c n :=
  fun hn => List.eq_nil_iff_forall_not_mem.1 (greatest_eq_none.1 h) n (State.mem_receivers.2 hn.1)

theorem State.receiver_eq_some {s : State} {d c n : Nat} (h : s.receiver d c = some n) : Receives s d c n := by
  obtain ⟨hn, hmost⟩ := greatest_eq_some (s.residents_filter_sorted d c _) h
  refine ⟨State.mem_receivers.1 hn, fun m hm => ?_⟩
  have := hmost m (State.mem_receivers.2 hm)
  simp only [State.excess_eq_overShare] at this
  omega

theorem State.donor_eq_none {s : State} {d c : Nat} (h : s.donor d c = none) (n : Nat) : ¬ Gives s d c n :=
  fun hn => List.eq_nil_iff_forall_not_mem.1 (greatest_eq_none.1 h) n (State.mem_donors.2 hn.1)

theorem State.donor_eq_some {s : State} {d c n : Nat} (h : s.donor d c = some n) : Gives s d c n := by
  obtain ⟨hn, hmost⟩ := greatest_eq_some (s.residents_filter_sorted d c _) h
  refine ⟨State.mem_donors.1 hn, fun m hm => ?_⟩
  have := hmost m (State.mem_donors.2 hm)
  simp only [State.excess_eq_overShare] at this
  omega

theorem State.firstFree_eq_some {s : State} {d c k : Nat} {q : Nat → Bool} (h : s.firstFree d c q = some k) :
    k < 16 ∧ s.slotFree ⟨d, c, k⟩ = true ∧ q k = true := by
  obtain ⟨hk, hfree⟩ := State.mem_freeSlots.1 (List.mem_of_find?_eq_some h)
  exact ⟨hk, hfree, List.find?_some h⟩

theorem State.firstFree_eq_none {s : State} {d c k : Nat} {q : Nat → Bool} (h : s.firstFree d c q = none) (hk : k < 16)
    (hfree : s.slotFree ⟨d, c, k⟩ = true) : q k ≠ true :=
  List.find?_eq_none.1 h k (State.mem_freeSlots.2 ⟨hk, hfree⟩)

theorem State.unowned_of_firstFree {s : State} {d c k : Nat} (h : s.firstFree d c (s.ownerAbsent d c) = some k) :
    Unowned s d c k := by
  obtain ⟨hk, hfree, habsent⟩ := State.firstFree_eq_some h
  exact ⟨hk, hfree, State.ownerAbsent_iff.1 habsent⟩

theorem State.no_unowned_of_firstFree {s : State} {d c : Nat} (h : s.firstFree d c (s.ownerAbsent d c) = none) :
    ¬ ∃ k, Unowned s d c k := by
  rintro ⟨k, hk, hfree, howner⟩
  exact State.firstFree_eq_none h hk hfree (State.ownerAbsent_iff.2 howner)

/-- A context that gives owns a free slot, so the arbiter finds one to move. -/
theorem Gives.firstFree {s : State} {d c m : Nat} (h : Gives s d c m) :
    ∃ k, s.firstFree d c (fun k => (s.slot ⟨d, c, k⟩).owner == some m) = some k := by
  obtain ⟨⟨-, -, -, k, hk, hfree, howner⟩, -⟩ := h
  refine Option.ne_none_iff_exists'.1 fun hnone => ?_
  exact State.firstFree_eq_none hnone hk hfree (by simp [howner])

/-! ### What a boundary of the arbiter can do -/

/-- The donor's excess and the receiver's shortfall together, times the sum of the weights (R30). -/
def apart (s : State) (d c m n : Nat) : Int :=
  overShare s d c (s.weightSum d c) m - overShare s d c (s.weightSum d c) n

/-- Nothing may be given: no share is set, no context is below its target, or there is no unowned slot and no donor and
receiver further than one slot apart (R30). -/
def ArbiterRests (s : State) (d c : Nat) : Prop :=
  s.weightSum d c = 0 ∨ (¬ ∃ n, Receives s d c n) ∨
    ((¬ ∃ k, Unowned s d c k) ∧ ∀ n m, Receives s d c n → Gives s d c m → apart s d c m n ≤ s.weightSum d c)

/-- What a boundary of the arbiter makes of a state: an unowned slot is given, a donor's slot moves, or nothing changes. -/
inductive Arbitrates (s : State) (d c : Nat) : State → Prop
  | give {n k : Nat} (hsum : s.weightSum d c ≠ 0) (hn : Receives s d c n) (hk : Unowned s d c k) :
      Arbitrates s d c (s.giveSlot d c k n)
  | move {n m k : Nat} (hsum : s.weightSum d c ≠ 0) (hn : Receives s d c n) (hnone : ¬ ∃ k, Unowned s d c k)
      (hm : Gives s d c m) (hfar : (s.weightSum d c : Int) < apart s d c m n) (hk : k < 16)
      (hfree : s.slotFree ⟨d, c, k⟩ = true) (howner : (s.slot ⟨d, c, k⟩).owner = some m) :
      Arbitrates s d c (s.giveSlot d c k n)
  | keep (h : ArbiterRests s d c) : Arbitrates s d c s

theorem State.arbitrate_arbitrates (s : State) (d c : Nat) : Arbitrates s d c (s.arbitrate d c) := by
  rw [State.arbitrate_eq]
  by_cases hsum : s.weightSum d c = 0
  · rw [if_pos hsum]
    exact .keep (.inl hsum)
  rw [if_neg hsum]
  cases hr : s.receiver d c with
  | none => exact .keep (.inr (.inl fun ⟨n, hn⟩ => State.receiver_eq_none hr n hn))
  | some n =>
    have hn := State.receiver_eq_some hr
    cases hu : s.firstFree d c (s.ownerAbsent d c) with
    | some k => exact .give hsum hn (State.unowned_of_firstFree hu)
    | none =>
      have hnone := State.no_unowned_of_firstFree hu
      cases hd : s.donor d c with
      | none => exact .keep (.inr (.inr ⟨hnone, fun _ m _ hm => absurd hm (State.donor_eq_none hd m)⟩))
      | some m =>
        have hm := State.donor_eq_some hd
        simp only [State.excess_eq_overShare]
        split
        case isTrue hnear =>
          exact .keep (.inr (.inr ⟨hnone, fun n' m' hn' hm' => hn.unique hn' ▸ hm.unique hm' ▸ hnear⟩))
        case isFalse hfar =>
          obtain ⟨k, hfind⟩ := hm.firstFree
          obtain ⟨hk, hfree, howner⟩ := State.firstFree_eq_some hfind
          rw [hfind]
          exact .move hsum hn hnone hm (not_le.1 hfar) hk hfree (by simpa using howner)

/-- Of the slots only the one at a place differs, and of it only the owner. -/
def OnlyOwner (s u : State) (p : Place) (n : Nat) : Prop :=
  u.slot p = { s.slot p with owner := some n } ∧ ∀ r, r ≠ p → u.slot r = s.slot r

theorem State.giveSlot_onlyOwner (s : State) (d c k n : Nat) : OnlyOwner s (s.giveSlot d c k n) ⟨d, c, k⟩ n :=
  ⟨State.slot_setSlot_same .., fun _ hr => State.slot_setSlot_other s hr _⟩

section Boundary
variable {s u : State} {d c n m : Nat}

theorem Arbitrates.thread (h : Arbitrates s d c u) (p : Place) : u.thread? p = s.thread? p := by
  cases h with
  | give => exact State.thread_giveSlot ..
  | move => exact State.thread_giveSlot ..
  | keep => rfl

theorem Arbitrates.readByte (h : Arbitrates s d c u) (a : Nat) : u.readByte a = s.readByte a := by
  cases h <;> rfl

theorem ArbiterRests.no_give (h : ArbiterRests s d c) (hsum : s.weightSum d c ≠ 0) (hn : Receives s d c n) :
    (¬ ∃ k, Unowned s d c k) ∧ ∀ m, Gives s d c m → apart s d c m n ≤ s.weightSum d c := by
  obtain h | h | ⟨hnone, hnear⟩ := h
  · exact absurd h hsum
  · exact absurd ⟨n, hn⟩ h
  · exact ⟨hnone, fun m => hnear n m hn⟩

theorem Arbitrates.gives_unowned (h : Arbitrates s d c u) (hsum : s.weightSum d c ≠ 0) (hn : Receives s d c n)
    (hu : ∃ k, Unowned s d c k) : ∃ k, Unowned s d c k ∧ OnlyOwner s u ⟨d, c, k⟩ n := by
  cases h with
  | give _ hn' hk => exact ⟨_, hk, hn.unique hn' ▸ s.giveSlot_onlyOwner ..⟩
  | move _ _ hnone => exact absurd hu hnone
  | keep h => exact absurd hu (h.no_give hsum hn).1

theorem Arbitrates.moves_slot (h : Arbitrates s d c u) (hsum : s.weightSum d c ≠ 0) (hn : Receives s d c n)
    (hnone : ¬ ∃ k, Unowned s d c k) (hm : Gives s d c m) (hfar : (s.weightSum d c : Int) < apart s d c m n) :
    ∃ k, k < 16 ∧ s.slotFree ⟨d, c, k⟩ = true ∧ (s.slot ⟨d, c, k⟩).owner = some m ∧ OnlyOwner s u ⟨d, c, k⟩ n := by
  cases h with
  | give _ _ hk => exact absurd ⟨_, hk⟩ hnone
  | move _ hn' _ hm' _ hk hfree howner =>
    exact ⟨_, hk, hfree, hm'.unique hm ▸ howner, hn.unique hn' ▸ s.giveSlot_onlyOwner ..⟩
  | keep h => exact absurd hfar (not_lt.2 ((h.no_give hsum hn).2 m hm))

theorem Arbitrates.keeps_slots (h : Arbitrates s d c u) (hrest : ArbiterRests s d c) (p : Place) : u.slot p = s.slot p := by
  cases h with
  | give hsum hn hk => exact absurd ⟨_, hk⟩ (hrest.no_give hsum hn).1
  | move hsum hn _ hm hfar => exact absurd hfar (not_lt.2 ((hrest.no_give hsum hn).2 _ hm))
  | keep => rfl

end Boundary

/-- SLOT_ARBITER off its boundaries, or again at one, changes nothing (R30). -/
theorem exec_slotArbiter_idle {s : State} {d c : Nat} (h : s.cycle % 16 ≠ 0 ∨ (s.core d c).lastArb = some s.cycle) :
    exec (.slotArbiter d c) s = .next s := by
  change execSlotArbiter d c s = _
  simp [execSlotArbiter, h]

theorem exec_slotArbiter_boundary {s : State} {d c : Nat} (h : s.cycle % 16 = 0)
    (hlast : (s.core d c).lastArb ≠ some s.cycle) : exec (.slotArbiter d c) s =
      .next ((s.arbitrate d c).modCore d c fun x => { x with lastArb := some s.cycle }) := by
  change execSlotArbiter d c s = _
  simp [execSlotArbiter, h, hlast]

end Sys2Proof.Machine

namespace Sys2Proof.Claims
open Sys2Proof.Machine

theorem slotArbiters : SlotArbiters := by
  intro s d c
  refine ⟨exec_slotArbiter_idle, fun hcycle hlast => ?_⟩
  have h := s.arbitrate_arbitrates d c
  exact ⟨_, exec_slotArbiter_boundary hcycle hlast, by simp, fun p => h.thread p, fun a => h.readByte a,
    fun _ hsum hn hu => h.gives_unowned hsum hn hu,
    fun _ _ hsum hn hnone hm hfar => h.moves_slot hsum hn hnone hm hfar, fun hrest => h.keeps_slots hrest⟩

/-- Settles O24: a launch fills its free slot, and the arbiter's boundary gives, moves or keeps as R30 says. -/
theorem slotsFill : Obligations.SlotsFill := ⟨launchFills, slotArbiters⟩

end Sys2Proof.Claims
end

section
/-! SUPPORT. The statements of 03_encoding_and_assembly.md: words written out bit by bit (R33, R35, R66, R74), and what a step adds
around the word it runs (R29, R31, R34, R37, R43, R87, R90, R362). -/

set_option Elab.async false

/-! ### Words written out bit by bit (R33, R35, R66, R74) -/

namespace Sys2Proof.Claims
open Sys2Proof.Machine

theorem decode_add_word : decode 0b00_0000_000001_00011_00001_00000_00010_00000000000000000000000000000000 =
    .ok (.pair ⟨false, 0⟩ (.add 3 1 2) .vnop) := by rfl

theorem decode_tdesc_word : decode 0xC000100200000000 = .ok (.long ⟨false, 0⟩ (.tdesc 1 4)) := by rfl

theorem decode_tzero_word : decode 0xC01000052C000000 = .ok (.long ⟨false, 0⟩ (.tzero 0 10 11)) := by rfl

theorem decode_writtenWords (x : Word × Bundle) (hx : x ∈ writtenWords) : decode x.1 = .ok x.2 := by
  obtain rfl | rfl | rfl : x = _ ∨ x = _ ∨ x = _ := by simpa only [writtenWords, List.mem_cons, List.not_mem_nil, or_false] using hx
  · exact decode_add_word
  · exact decode_tdesc_word
  · exact decode_tzero_word

end Sys2Proof.Claims

namespace Sys2Proof.Machine
open Sys2Proof.Claims

/-! ### Keyed lists whose values are mapped -/

section Keyed
variable {κ α : Type} [DecidableEq κ] {d : α} {k : κ}

theorem lookupD_map_value (f : κ → α → α) (hd : f k d = d) (l : List (κ × α)) :
    lookupD d k (l.map fun e => (e.1, f e.1 e.2)) = f k (lookupD d k l) := by
  induction l with
  | nil => exact hd.symm
  | cons e l ih =>
    obtain ⟨k', a⟩ := e
    by_cases h : k' = k
    · simp [lookupD, h]
    · simpa [lookupD, h] using ih

theorem exists_mem_of_lookupD_ne {l : List (κ × α)} (h : lookupD d k l ≠ d) : ∃ a, (k, a) ∈ l := by
  induction l with
  | nil => exact absurd rfl h
  | cons e l ih =>
    obtain ⟨k', a⟩ := e
    by_cases hk : k' = k
    · exact ⟨a, by simp [hk]⟩
    · obtain ⟨b, hb⟩ := ih (by simpa [lookupD, hk] using h)
      exact ⟨b, by simp [hb]⟩

end Keyed

/-- A slot that holds a thread is listed. -/
theorem State.mem_slots_of_thread {s : State} {p : Place} {t : Thread} (h : s.thread? p = some t) : ∃ x, (p, x) ∈ s.slots := by
  refine exists_mem_of_lookupD_ne (d := ({} : Slot)) fun he => ?_
  have hnone : s.thread? p = none := congrArg Slot.thread he
  simp [hnone] at h

/-! ### Steps that reach a page being walked (R362) -/

theorem State.walkCovers_iff (s : State) (ctx va : Nat) (w : Nat × Nat) : s.walkCovers ctx va w = true ↔ InPage s ctx va w := by
  unfold State.walkCovers State.pageOf InPage
  cases s.walk w.1 w.2 <;> simp [and_assoc]

theorem State.meetsWalk_of_no_walks (s : State) (f : State → Host.Outcome State Fault Refusal)
    (h : ∀ e ∈ s.dies, e.2.walks = []) : s.meetsWalk f = false := by
  have hwalking : s.walking = false := by
    rw [State.walking, List.any_eq_false]
    intro e he
    simp [h e he]
  simp [State.meetsWalk, hwalking]

theorem State.mem_misses {s : State} {d : Nat} {f : State → Host.Outcome State Fault Refusal} {w : Nat × Nat} :
    w ∈ s.misses d f ↔ ∃ c ∈ s.ctxs, ∃ q ∈ s.pages c.n, w = (c.n, q.1) ∧
      (∀ v ∈ (s.die d).walks ++ (s.die d).walkQueue, ¬ InPage s c.n q.1 v) ∧
      s.meets f (fun n => if n = d then [⟨c.n, q.1, q.2, 0⟩] else []) = true := by
  simp only [State.misses, List.mem_flatMap, List.mem_map, List.mem_filter, Bool.and_eq_true, Bool.not_eq_true',
    List.any_eq_false, State.walkCovers_iff, and_assoc, eq_comm (a := w)]
  refine exists_congr fun c => and_congr_right fun _ => exists_congr fun q => and_congr_right fun _ => ?_
  exact ⟨fun ⟨hout, hmeets, hw⟩ => ⟨hw, hout, hmeets⟩, fun ⟨hw, hout, hmeets⟩ => ⟨hout, hmeets, hw⟩⟩

/-- A die with the misses of a step behind those that wait, where every walk is busy. -/
def Die.queueing (x : Die) (ws : List (Nat × Nat)) : Die :=
  if x.walks.length < walkLimit then x else { x with walkQueue := x.walkQueue ++ ws }

theorem State.die_queueMisses (s : State) (f : State → Host.Outcome State Fault Refusal) (d : Nat) :
    (s.queueMisses f).die d = (s.die d).queueing (s.misses d f) := by
  have hdies : (s.queueMisses f).dies = s.dies.map fun e => (e.1, e.2.queueing (s.misses e.1 f)) := by
    refine List.map_congr_left fun e _ => ?_
    unfold Die.queueing
    split <;> rfl
  have hfresh : (Die.fresh s.fuses d).queueing (s.misses d f) = Die.fresh s.fuses d := if_pos (Nat.succ_pos _)
  rw [State.die, hdies]
  exact lookupD_map_value (fun n x => x.queueing (s.misses n f)) hfresh s.dies

/-! ### The slot a core issues from (R11, R29, R31) -/

theorem State.launching_eq_false {s : State} {d c : Nat} : s.launching d c = false ↔
    ∀ l ∈ s.launches, l.place.die = d → l.place.core = c → l.held = false → s.slotFree l.place = false := by
  simp [State.launching]

theorem State.nextSlot_eq_some_iff {s : State} {d c : Nat} {p : Place} : s.nextSlot d c = some p ↔
    (s.core d c).lastIssue ≠ some s.cycle ∧ s.launching d c = false ∧
    ∃ j, j < 16 ∧ p = ⟨d, c, ((s.core d c).issuePtr + 1 + j) % 16⟩ ∧ s.ready p = true ∧
      ∀ k, k < j → s.ready ⟨d, c, ((s.core d c).issuePtr + 1 + k) % 16⟩ = false := by
  by_cases hissued : (s.core d c).lastIssue = some s.cycle
  · simp [State.nextSlot, hissued]
  cases hlaunch : s.launching d c with
  | true => simp [State.nextSlot, hlaunch]
  | false =>
    simp only [State.nextSlot, hissued, hlaunch, Bool.or_false, decide_false, Bool.false_eq_true, if_false, slotOrder, List.map_map,
      List.find?_map, Option.map_eq_some_iff, List.find?_range_eq_some, ne_eq, not_false_iff, true_and]
    refine exists_congr fun j => ?_
    constructor
    · rintro ⟨⟨hr, hj, hk⟩, rfl⟩
      exact ⟨List.mem_range.1 hj, rfl, hr, by simpa using hk⟩
    · rintro ⟨hj, rfl, hr, hk⟩
      exact ⟨⟨hr, List.mem_range.2 hj, by simpa using hk⟩, rfl⟩

/-- A core's next slot is one of its own and holds a thread. -/
theorem State.nextSlot_thread {s : State} {d c : Nat} {p : Place} (h : s.nextSlot d c = some p) :
    p.die = d ∧ p.core = c ∧ ∃ t, s.thread? p = some t := by
  obtain ⟨-, -, j, -, rfl, hready, -⟩ := State.nextSlot_eq_some_iff.1 h
  refine ⟨rfl, rfl, Option.ne_none_iff_exists'.1 fun hnone => ?_⟩
  simp [State.ready, hnone] at hready

theorem State.issueMove_isNone {s : State} : s.issueMove = none ↔ ∀ d c, s.nextSlot d c = none := by
  have hnone : s.issueMove = none ↔ ∀ e ∈ s.slots, s.nextSlot e.1.die e.1.core = none := by
    rw [State.issueMove, List.findSome?_eq_none_iff]
    refine forall₂_congr fun e _ => ?_
    cases s.nextSlot e.1.die e.1.core <;> simp
  refine hnone.trans ⟨fun h d c => ?_, fun h e _ => h _ _⟩
  refine Option.eq_none_iff_forall_ne_some.2 fun p hp => ?_
  obtain ⟨rfl, rfl, t, ht⟩ := State.nextSlot_thread hp
  obtain ⟨x, hx⟩ := State.mem_slots_of_thread ht
  simp [h _ hx] at hp

theorem State.mayTick_iff {s : State} : s.mayTick = true ↔ ¬ Unfinished s := by
  simp only [State.mayTick, Bool.and_eq_true, Option.isNone_iff_eq_none, State.issueMove_isNone, Unfinished, not_or, not_exists,
    not_and, not_not, List.all_eq_true, Bool.or_eq_true, Bool.not_eq_true', Bool.not_eq_true]
  refine and_congr_right fun _ => forall₂_congr fun l _ => ?_
  cases l.held <;> simp

theorem State.core_takeTurn_same (s : State) (p : Place) : (s.takeTurn p).core p.die p.core =
    { s.core p.die p.core with issuePtr := p.slot, lastIssue := some s.cycle } :=
  State.core_modCore_same s p.die p.core fun x => { x with issuePtr := p.slot, lastIssue := some s.cycle }

theorem State.core_takeTurn_other (s : State) {p : Place} {d c : Nat} (h : (d, c) ≠ (p.die, p.core)) :
    (s.takeTurn p).core d c = s.core d c := State.core_setCore_other s h _

/-! ### A cycle passes (R333, R362) -/

/-- Where a die has a walk to spare, its queue of misses is as it was; no die's walks have changed. -/
def State.KeepsFreeQueues (s x : State) : Prop := ∀ d, (x.die d).walks = (s.die d).walks ∧
  ((s.die d).walks.length < walkLimit → (x.die d).walkQueue = (s.die d).walkQueue)

theorem State.keepsFreeQueues_append {s x : State} {d : Nat} (h : s.KeepsFreeQueues x) (hfull : x.walksFull d = true)
    (ws : List (Nat × Nat)) : s.KeepsFreeQueues (x.modDie d fun y => { y with walkQueue := y.walkQueue ++ ws }) := by
  intro e
  obtain ⟨hwalks, hqueue⟩ := h e
  by_cases hd : e = d
  · subst hd
    have hlimit : walkLimit ≤ (s.die e).walks.length := by simpa [State.walksFull, hwalks] using hfull
    simp [State.modDie, hwalks, hlimit.not_gt]
  · simpa [State.modDie, State.die_setDie_other _ hd] using h e

theorem State.keepsFreeQueues_queueFetches (s : State) : s.KeepsFreeQueues s.queueFetches := by
  refine foldl_inv (P := s.KeepsFreeQueues) _ ?_ _ _ fun d => ⟨rfl, fun _ => rfl⟩
  intro x e h
  cases e.2.thread with
  | none => exact h
  | some t =>
    dsimp only
    split
    · next hmiss =>
      simp only [Bool.and_eq_true] at hmiss
      exact State.keepsFreeQueues_append h hmiss.1.1.1 _
    · exact h

theorem State.passCycle_cycle (s : State) : s.passCycle.cycle = s.cycle + 1 := by
  unfold State.passCycle
  split <;> rfl

theorem State.passCycle_stepped (s : State) : s.passCycle.stepped = [] := by
  unfold State.passCycle
  split <;> rfl

/-- A cycle changes its count, the dies, and which blocks a step has been performed on. -/
theorem State.passCycle_frame (s : State) :
    { s.passCycle with cycle := s.cycle, dies := s.dies, stepped := s.stepped } = s := by
  have h : { s.queueFetches with cycle := s.cycle, dies := s.dies, stepped := s.stepped } = s :=
    congrArg (fun x : State => { x with cycle := s.cycle, stepped := s.stepped }) s.queueFetches_frame
  unfold State.passCycle
  split <;> exact h

/-- A die after the watchdogs of its keystones count a cycle. -/
def Die.countWatchdogs (x : Die) : Die := { x with keystones := x.keystones.map fun k => { k with since := k.since + 1 } }

theorem State.passCycle_walkQueue (s : State) (d : Nat) :
    (s.passCycle.die d).walkQueue = (s.queueFetches.die d).walkQueue := by
  have hcounted := congrArg Die.walkQueue (lookupD_map_value (k := d) (d := Die.fresh s.queueFetches.fuses d)
    (fun _ => Die.countWatchdogs) rfl s.queueFetches.dies)
  unfold State.passCycle
  split
  · exact hcounted
  · rfl

/-! ### The results due at a turn (R43) -/

theorem Thread.readS_writeS (t : Thread) (r k : BitVec 5) (x : Word) :
    (t.writeS r x).readS k = if k = r ∧ r ≠ 0 then x else t.readS k := by
  by_cases hr : r = 0#5
  · simp [Thread.writeS, hr]
  by_cases hk : k = r
  · simp [Thread.writeS, Thread.readS, hr, hk]
  · have hne : r.toNat ≠ k.toNat := fun h => hk (BitVec.eq_of_toNat_eq h.symm)
    simp [Thread.writeS, Thread.readS, hr, hk, hne]

theorem Thread.readV_writeV (t : Thread) (r k : BitVec 6) (x : VReg) :
    (t.writeV r x).readV k = if k = r then x else t.readV k := by
  by_cases hk : k = r
  · simp [Thread.writeV, Thread.readV, hk]
  · have hne : r.toNat ≠ k.toNat := fun h => hk (BitVec.eq_of_toNat_eq h.symm)
    simp [Thread.writeV, Thread.readV, hk, hne]

theorem Thread.writeS_frame (t : Thread) (r : BitVec 5) (x : Word) : { t.writeS r x with s := t.s } = t := by
  unfold Thread.writeS
  split <;> rfl

/-- Uniform results change the uniform registers alone. -/
theorem Thread.writeAll_frame (t : Thread) (rs : List (BitVec 5)) (xs : List Word) : { t.writeAll rs xs with s := t.s } = t := by
  induction rs generalizing t xs with
  | nil => rfl
  | cons r rs ih =>
    cases xs with
    | nil => rfl
    | cons x xs =>
      have hrest := congrArg (fun y : Thread => { y with s := t.s }) (ih (t.writeS r x) xs)
      exact hrest.trans (t.writeS_frame r x)

theorem Thread.readV_writeAll (t : Thread) (rs : List (BitVec 5)) (xs : List Word) (k : BitVec 6) :
    (t.writeAll rs xs).readV k = t.readV k := congrArg (·.readV k) (t.writeAll_frame rs xs)

theorem lane_eq_zero (v : VReg) {j : Nat} (h : 64 ≤ j) : lane v j = 0 := by
  refine BitVec.eq_of_getLsbD_eq fun k _ => ?_
  have hout : 2048 ≤ 32 * j + k := by omega
  simp [lane, BitVec.getLsbD_of_ge v _ hout]

/-- Lanes masked from one register over another, at every lane number. -/
theorem lane_maskLanes_lane (m : Word) (old v : VReg) (j : Nat) :
    lane (maskLanes m old (lane v)) j = if m.getLsbD j then lane v j else lane old j := by
  by_cases h : j < 64
  · exact lane_maskLanes m old (lane v) j h
  · have hj : 64 ≤ j := not_lt.1 h
    simp [lane_eq_zero _ hj]

section Result
variable (t : Thread) {g : Tag}

/-- The thread with an operation's vector result written. -/
def Thread.writeVector (t : Thread) (g : Tag) : Thread :=
  if g.hasV then t.writeV g.vd (maskLanes g.lanes (t.readV g.vd) (lane g.v)) else t

theorem Thread.lane_writeVector (r : BitVec 6) (j : Nat) : lane ((t.writeVector g).readV r) j =
    if g.hasV = true ∧ r = g.vd then (if g.lanes.getLsbD j then lane g.v j else lane (t.readV r) j) else lane (t.readV r) j := by
  by_cases hv : g.hasV = true
  · by_cases hr : r = g.vd
    · simp [Thread.writeVector, hv, hr, Thread.readV_writeV, lane_maskLanes_lane]
    · simp [Thread.writeVector, hv, hr, Thread.readV_writeV]
  · simp [Thread.writeVector, hv]

theorem Thread.readS_writeVector (k : BitVec 5) : (t.writeVector g).readS k = t.readS k := by
  unfold Thread.writeVector
  split <;> rfl

theorem Thread.writeVector_frame : { t.writeVector g with v := t.v } = t := by
  unfold Thread.writeVector
  split <;> rfl

theorem Thread.writeResult_of_registers (h : g.image = false) : t.writeResult g = (t.writeVector g).writeAll g.sds g.u := by
  simp [Thread.writeResult, h, Thread.writeVector]

theorem Thread.writeResult_frame (h : g.image = false) : { t.writeResult g with s := t.s, v := t.v } = t := by
  rw [t.writeResult_of_registers h]
  have huniform := congrArg (fun y : Thread => { y with s := t.s, v := t.v }) ((t.writeVector g).writeAll_frame g.sds g.u)
  have hvector := congrArg (fun y : Thread => { y with s := t.s }) (t.writeVector_frame (g := g))
  exact huniform.trans hvector

end Result

end Sys2Proof.Machine

/-! ### The start of a word's issue (R29, R34, R37, R63, R87, R90) -/

namespace Sys2Proof.Machine
open Sys2Proof.Claims

/-- The guard of a word (R34). -/
def wordGuard : Bundle → Guard
  | .pair g _ _ => g
  | .long g _ => g

theorem Thread.turn_ctx (t : Thread) (due : List Tag) : (t.turn due).ctx = t.ctx := by
  have hresult : ∀ (x : Thread) (g : Tag), x.ctx = t.ctx → (x.writeResult g).ctx = t.ctx := by
    intro x g hx
    cases himage : g.image with
    | true => simpa [Thread.writeResult, himage] using hx
    | false => exact (congrArg Thread.ctx (x.writeResult_frame himage)).trans hx
  exact foldl_inv (P := fun x : Thread => x.ctx = t.ctx) Thread.writeResult hresult due t rfl

section Issue
variable {s : State} {d c : Nat} {p : Place} {t : Thread}

theorem State.startIssue_idle (h : s.nextSlot d c = none) : s.startIssue d c = none := by
  simp [State.startIssue, h]

/-- A core's issue from a slot with a thread: the fetch, the decoding and the guard decide what it starts. -/
theorem State.startIssue_next (hnext : s.nextSlot d c = some p) (ht : s.thread? p = some t) : s.startIssue d c =
    match (acting s p t 0).fetch d t.ctx t.pc with
    | .error k => some ((acting s p t 0).precise { place := p, pc := t.pc, word := 0 } (t.turn (s.dueTags p t)) k t.pc, none)
    | .ok w => match decode w with
      | .error _ =>
        some ((acting s p t w).precise { place := p, pc := t.pc, word := w } (t.turn (s.dueTags p t)) causeIllegal w, none)
      | .ok b => some (acting s p t w, if (t.turn (s.dueTags p t)).guardTrue (wordGuard b) then some b else none) := by
  rw [← Thread.turn_ctx t (s.dueTags p t)]
  simp only [State.startIssue, hnext, ht]
  rfl

/-- A word that cannot be fetched traps as its fetch says (R87). -/
theorem State.startIssue_unfetched {k : BitVec 8} (hnext : s.nextSlot d c = some p) (ht : s.thread? p = some t)
    (hfetch : (acting s p t 0).fetch d t.ctx t.pc = .error k) : s.startIssue d c =
    some ((acting s p t 0).precise { place := p, pc := t.pc, word := 0 } (t.turn (s.dueTags p t)) k t.pc, none) := by
  simp only [State.startIssue_next hnext ht, hfetch]

end Issue

end Sys2Proof.Machine

namespace Sys2Proof.Claims
open Sys2Proof.Machine

section Reached
variable {s : State} {d c : Nat} {p : Place} {t : Thread} {w : Word} {b : Bundle}

theorem Reaches.startIssue_undecoded {e : Reject} (h : Reaches s d c p t w) (hw : decode w = .error e) : s.startIssue d c =
    some ((acting s p t w).precise { place := p, pc := t.pc, word := w } (t.turn (s.dueTags p t)) causeIllegal w, none) := by
  obtain ⟨hnext, ht, -, hfetch⟩ := h
  simp only [State.startIssue_next hnext ht, hfetch, hw]

theorem Reaches.startIssue_decoded (h : Reaches s d c p t w) (hw : decode w = .ok b) : s.startIssue d c =
    some (acting s p t w, if (t.turn (s.dueTags p t)).guardTrue (wordGuard b) then some b else none) := by
  obtain ⟨hnext, ht, -, hfetch⟩ := h
  simp only [State.startIssue_next hnext ht, hfetch, hw]

theorem Reaches.issueStep_of_guard_false (h : Reaches s d c p t w) (hw : decode w = .ok b)
    (hguard : (t.turn (s.dueTags p t)).guardTrue (wordGuard b) = false) :
    issueStep d c s = .next ((acting s p t w).finishIssue (acting s p t w).windows) := by
  simp [issueStep, h.startIssue_decoded hw, hguard]

theorem Reaches.issueStep_of_waits (h : Reaches s d c p t w) (hw : decode w = .ok b)
    (hguard : (t.turn (s.dueTags p t)).guardTrue (wordGuard b) = true) (hmeets : (acting s p t w).meetsWalk (runWord b) = true) :
    issueStep d c s =
      .next (((acting s p t w).queueMisses (runWord b)).holdForWalk.finishIssue (acting s p t w).windows) := by
  simp [issueStep, h.startIssue_decoded hw, hguard, hmeets]

theorem Reaches.issueStep_of_acts (h : Reaches s d c p t w) (hw : decode w = .ok b)
    (hguard : (t.turn (s.dueTags p t)).guardTrue (wordGuard b) = true) (hmeets : (acting s p t w).meetsWalk (runWord b) = false) :
    issueStep d c s = thenEnds (runWord b (acting s p t w)) (acting s p t w).windows := by
  simp only [issueStep, h.startIssue_decoded hw, hguard, hmeets, if_true, Bool.false_eq_true, if_false]
  rfl

end Reached

end Sys2Proof.Claims

namespace Sys2Proof.Machine

theorem runWord_pair_acts {g : Guard} {u v : Instr} {a b : State} (hv : exec v a = .next b) (hmoved : b.hasMoved = false) :
    runWord (.pair g u v) a = exec u b := by
  simp [runWord, hv, hmoved]

theorem runWord_pair_moved {g : Guard} {u v : Instr} {a b : State} (hv : exec v a = .next b) (hmoved : b.hasMoved = true) :
    runWord (.pair g u v) a = .next b := by
  simp [runWord, hv, hmoved]

/-! ### A move of the agenda (R150, R362; logs 1 and 13) -/

theorem step_of_agenda {s : State} {m : Move} {rest : List Move} (h : s.agenda = m :: rest) :
    step s = moveStep m { s with agenda := rest } := by
  simp only [step, h]

theorem step_of_issue {s : State} {d c : Nat} {rest : List Move} (h : s.agenda = .issue d c :: rest) :
    step s = issueStep d c { s with agenda := rest } := step_of_agenda h

theorem step_of_event {s : State} {i : Instr} {rest : List Move} (h : s.agenda = .event i :: rest) (hform : i.form = .event) :
    step s = runEvent i { s with agenda := rest } := (step_of_agenda h).trans (if_pos hform)

theorem runEvent_of_clear {i : Instr} {s : State} (h : s.meetsWalk (exec i) = false) : runEvent i s = exec i s := by
  unfold runEvent
  split
  · rfl
  · rfl
  · simp [h]

theorem runEvent_of_waits {i : Instr} {s : State} (h : s.meetsWalk (exec i) = true) (hwalk : ∀ d n a, i ≠ .pageWalk d n a)
    (hshoot : ∀ n a, i ≠ .shootdown n a) : runEvent i s = .next (s.queueMisses (exec i)) := by
  unfold runEvent
  split
  · exact absurd rfl (hwalk _ _ _)
  · exact absurd rfl (hshoot _ _)
  · simp [h]

end Sys2Proof.Machine

namespace Sys2Proof.Claims
open Sys2Proof.Machine

theorem resultsLand : ResultsLand := by
  intro t g
  refine ⟨?_, fun himage => ?_⟩
  · have htags : (t.turn []).tags = t.tags := by simp [Thread.turn]
    exact congrArg (fun l => { t with tags := l, hold := (t.turn []).hold }) htags
  have hS : ∀ k, (t.turn [g]).readS k = ((t.writeVector g).writeAll g.sds g.u).readS k := fun k =>
    congrArg (·.readS k) (t.writeResult_of_registers himage)
  have hV : ∀ r, (t.turn [g]).readV r = (t.writeVector g).readV r := fun r =>
    (congrArg (·.readV r) (t.writeResult_of_registers himage)).trans (Thread.readV_writeAll _ _ _ r)
  refine ⟨fun r => ?_, fun r x hsds hu k => ?_, fun hsds k => ?_, fun h => ?_, ?_⟩
  · funext j
    rw [hV, t.lane_writeVector]
    split <;> rfl
  · rw [hS, hsds, hu, ← t.readS_writeVector (g := g)]
    exact Thread.readS_writeS _ r k x
  · rw [hS, hsds]
    exact t.readS_writeVector k
  · simp [Thread.turn, eq_comm (a := g.req)]
  · exact congrArg (fun y : Thread => { y with tags := t.tags, hold := t.hold }) (t.writeResult_frame himage)

/-! ### The clauses of the step (R29, R31, R34, R37, R87, R362) -/

/-- A step's misses wait where every walk of their die is busy, and change nothing else (R362). -/
theorem queueMisses_waits (s : State) (f : State → Host.Outcome State Fault Refusal) (d : Nat) :
    ((s.die d).walks.length < 2048 → (s.queueMisses f).die d = s.die d) ∧
    (2048 ≤ (s.die d).walks.length → ∃ ws, (s.queueMisses f).die d = { s.die d with walkQueue := (s.die d).walkQueue ++ ws } ∧
      ∀ w, w ∈ ws ↔ ∃ c ∈ s.ctxs, ∃ q ∈ s.pages c.n, w = (c.n, q.1) ∧
        (∀ v ∈ (s.die d).walks ++ (s.die d).walkQueue, ¬ InPage s c.n q.1 v) ∧
        s.meets f (fun n => if n = d then [⟨c.n, q.1, q.2, 0⟩] else []) = true) := by
  rw [State.die_queueMisses]
  exact ⟨fun hfree => if_pos hfree, fun hfull => ⟨s.misses d f, if_neg hfull.not_gt, fun w => State.mem_misses⟩⟩

theorem passCycle_passes (s : State) : s.passCycle.cycle = s.cycle + 1 ∧ s.passCycle.stepped = [] ∧
    { s.passCycle with cycle := s.cycle, dies := s.dies, stepped := s.stepped } = s ∧
    ∀ d, (s.die d).walks.length < 2048 → (s.passCycle.die d).walkQueue = (s.die d).walkQueue :=
  ⟨s.passCycle_cycle, s.passCycle_stepped, s.passCycle_frame, fun d hfree =>
    (s.passCycle_walkQueue d).trans ((s.keepsFreeQueues_queueFetches d).2 hfree)⟩

section Clauses
variable {s : State} {d c : Nat} {p : Place} {t : Thread} {w : Word} {g : Guard}

theorem issueStep_idle (h : s.nextSlot d c = none) : issueStep d c s = .next s := by
  simp [issueStep, State.startIssue_idle h]

theorem issueStep_of_trap {u : State} (h : s.startIssue d c = some (u, none)) : ∃ ws, issueStep d c s = .next (u.finishIssue ws) :=
  ⟨u.windows, by simp only [issueStep, h]⟩

theorem Reaches.issueStep_of_undecoded {e : Reject} (h : Reaches s d c p t w) (hw : decode w = .error e) : ∃ ws,
    issueStep d c s = .next (((acting s p t w).precise { place := p, pc := t.pc, word := w } (t.turn (s.dueTags p t))
      causeIllegal w).finishIssue ws) :=
  issueStep_of_trap (h.startIssue_undecoded hw)

theorem issueStep_of_unfetched {k : BitVec 8} (hnext : s.nextSlot d c = some p) (ht : s.thread? p = some t)
    (hfetch : (acting s p t 0).fetch d t.ctx t.pc = .error k) : ∃ ws,
    issueStep d c s = .next (((acting s p t 0).precise { place := p, pc := t.pc, word := 0 } (t.turn (s.dueTags p t))
      k t.pc).finishIssue ws) :=
  issueStep_of_trap (State.startIssue_unfetched hnext ht hfetch)

/-- A pair word runs its uniform slot after its vector slot, which has not moved the thread (R37). -/
theorem Reaches.issueStep_of_pair_acts {u v : Instr} {b : State} (h : Reaches s d c p t w) (hw : decode w = .ok (.pair g u v))
    (hguard : (t.turn (s.dueTags p t)).guardTrue g = true) (hmeets : (acting s p t w).meetsWalk (runWord (.pair g u v)) = false)
    (hv : exec v (acting s p t w) = .next b) (hmoved : b.hasMoved = false) :
    issueStep d c s = thenEnds (exec u b) (acting s p t w).windows := by
  rw [h.issueStep_of_acts hw hguard hmeets, runWord_pair_acts hv hmoved]

theorem Reaches.issueStep_of_pair_moved {u v : Instr} {b : State} (h : Reaches s d c p t w) (hw : decode w = .ok (.pair g u v))
    (hguard : (t.turn (s.dueTags p t)).guardTrue g = true) (hmeets : (acting s p t w).meetsWalk (runWord (.pair g u v)) = false)
    (hv : exec v (acting s p t w) = .next b) (hmoved : b.hasMoved = true) :
    issueStep d c s = .next (b.finishIssue (acting s p t w).windows) := by
  rw [h.issueStep_of_acts hw hguard hmeets, runWord_pair_moved hv hmoved]
  rfl

end Clauses

theorem runEvent_acts {s : State} {i : Instr}
    (h : s.meetsWalk (exec i) = false ∨ (∃ d n a, i = .pageWalk d n a) ∨ ∃ n a, i = .shootdown n a) : runEvent i s = exec i s := by
  obtain hclear | ⟨d, n, a, rfl⟩ | ⟨n, a, rfl⟩ := h
  · exact runEvent_of_clear hclear
  · rfl
  · rfl

theorem stepRunsWords : StepRunsWords := by
  refine ⟨fun s f => s.meetsWalk_of_no_walks f, fun s f => ⟨s.queueMisses_frame f, queueMisses_waits s f⟩, fun s d c p => ?_,
    fun s p => ⟨s.core_takeTurn_same p, fun d c => s.core_takeTurn_other⟩, fun s rest => ?_⟩
  · rw [State.nextSlot_eq_some_iff, State.launching_eq_false]
  refine ⟨fun d c hagenda => ?_, fun i hagenda hform => ?_, fun x hagenda => step_of_agenda hagenda,
    fun hagenda hunfinished => ?_, fun hagenda hfinished => ?_⟩
  · rw [step_of_issue hagenda]
    refine ⟨issueStep_idle, fun p t w h => ⟨fun b hw hguard => ?_, fun g i hw => h.issueStep_of_acts hw, fun g u v hw hguard hmeets =>
        ⟨fun b => h.issueStep_of_pair_acts hw hguard hmeets, fun b => h.issueStep_of_pair_moved hw hguard hmeets⟩,
        fun b hw hguard => ?_, fun e => h.issueStep_of_undecoded⟩, fun p t k hnext ht _ => issueStep_of_unfetched hnext ht⟩
    · exact h.issueStep_of_waits hw hguard
    · exact h.issueStep_of_guard_false hw hguard
  · rw [step_of_event hagenda hform]
    exact ⟨runEvent_acts, runEvent_of_waits⟩
  · exact (step_of_agenda hagenda).trans (congrArg Host.Outcome.next (if_neg fun h => State.mayTick_iff.1 h hunfinished))
  · exact ⟨_, (step_of_agenda hagenda).trans (congrArg Host.Outcome.next (if_pos (State.mayTick_iff.2 hfinished))),
      passCycle_passes _⟩

end Sys2Proof.Claims

/-! ### The obligations -/

namespace Sys2Proof.Laws

/-- Settles O56: each word of the list decodes to what stands beside it. -/
theorem writtenWords : Obligations.WrittenWords := Claims.decode_writtenWords

/-- Settles O57: a step runs the decoded word, and the results due land in the thread. -/
theorem stepRunsWords : Obligations.StepRunsWords := ⟨Claims.stepRunsWords, Claims.resultsLand⟩

end Sys2Proof.Laws
end

section
/-! SUPPORT. The statements of 04_opcode_map.md: the encoding of every well-formed word is decoded as that word, and a word that
decodes is well formed and is the encoding of what it decodes to (R33 to R40, R63 to R75). -/

set_option Elab.async false

namespace Sys2Proof.Laws

/-! ### Every instruction's encoding is decoded as it -/

theorem encodes (i : Instr) : Encodes.Statement i := by
  cases i with
  | add => exact Encodes.add _ _ _
  | addi => exact Encodes.addi _ _ _
  | sub => exact Encodes.sub _ _ _
  | mul => exact Encodes.mul _ _ _
  | mulh => exact Encodes.mulh _ _ _
  | mulhu => exact Encodes.mulhu _ _ _
  | and => exact Encodes.and _ _ _
  | andi => exact Encodes.andi _ _ _
  | or => exact Encodes.or _ _ _
  | ori => exact Encodes.ori _ _ _
  | xor => exact Encodes.xor _ _ _
  | xori => exact Encodes.xori _ _ _
  | shl => exact Encodes.shl _ _ _
  | shli => exact Encodes.shli _ _ _
  | shr => exact Encodes.shr _ _ _
  | shri => exact Encodes.shri _ _ _
  | sra => exact Encodes.sra _ _ _
  | srai => exact Encodes.srai _ _ _
  | min => exact Encodes.min _ _ _
  | max => exact Encodes.max _ _ _
  | minu => exact Encodes.minu _ _ _
  | maxu => exact Encodes.maxu _ _ _
  | addx => exact Encodes.addx _ _ _ _
  | clz => exact Encodes.clz _ _
  | popc => exact Encodes.popc _ _
  | bext => exact Encodes.bext _ _ _
  | sext => exact Encodes.sext _ _ _
  | slt => exact Encodes.slt _ _ _
  | sltu => exact Encodes.sltu _ _ _
  | qeq => exact Encodes.qeq _ _ _
  | qne => exact Encodes.qne _ _ _
  | qlt => exact Encodes.qlt _ _ _
  | qltu => exact Encodes.qltu _ _ _
  | qle => exact Encodes.qle _ _ _
  | qleu => exact Encodes.qleu _ _ _
  | qeqi => exact Encodes.qeqi _ _ _
  | qlti => exact Encodes.qlti _ _ _
  | qand => exact Encodes.qand _ _ _
  | qor => exact Encodes.qor _ _ _
  | qxor => exact Encodes.qxor _ _ _
  | qnot => exact Encodes.qnot _ _
  | vadd => exact Encodes.vadd _ _ _ _ _ _ _
  | vsub => exact Encodes.vsub _ _ _ _ _ _ _
  | vmul => exact Encodes.vmul _ _ _ _ _
  | vmulh => exact Encodes.vmulh _ _ _ _ _
  | vmulhu => exact Encodes.vmulhu _ _ _ _ _
  | vand => exact Encodes.vand _ _ _ _
  | vor => exact Encodes.vor _ _ _ _
  | vxor => exact Encodes.vxor _ _ _ _
  | vshl => exact Encodes.vshl _ _ _ _ _
  | vshr => exact Encodes.vshr _ _ _ _ _
  | vsra => exact Encodes.vsra _ _ _ _ _
  | vmin => exact Encodes.vmin _ _ _ _ _
  | vmax => exact Encodes.vmax _ _ _ _ _
  | vminu => exact Encodes.vminu _ _ _ _ _
  | vmaxu => exact Encodes.vmaxu _ _ _ _ _
  | vsel => exact Encodes.vsel _ _ _ _
  | viota => exact Encodes.viota _ _
  | vfadd => exact Encodes.vfadd _ _ _ _ _ _
  | vfsub => exact Encodes.vfsub _ _ _ _ _ _
  | vfmul => exact Encodes.vfmul _ _ _ _ _ _
  | vfma => exact Encodes.vfma _ _ _ _ _ _
  | vfms => exact Encodes.vfms _ _ _ _ _ _
  | vfmin => exact Encodes.vfmin _ _ _ _ _ _
  | vfmax => exact Encodes.vfmax _ _ _ _ _ _
  | vfdiv => exact Encodes.vfdiv _ _ _ _ _ _
  | vfsqrt => exact Encodes.vfsqrt _ _ _ _ _
  | vfrsq => exact Encodes.vfrsq _ _ _ _ _
  | vfexp2 => exact Encodes.vfexp2 _ _ _ _ _
  | vflog2 => exact Encodes.vflog2 _ _ _ _ _
  | vfabs => exact Encodes.vfabs _ _ _ _
  | vfneg => exact Encodes.vfneg _ _ _ _
  | vcmpeq => exact Encodes.vcmpeq _ _ _ _ _
  | vcmplt => exact Encodes.vcmplt _ _ _ _ _ _
  | vcmple => exact Encodes.vcmple _ _ _ _ _ _
  | vfcmp => exact Encodes.vfcmp _ _ _ _ _ _
  | pand => exact Encodes.pand _ _ _
  | por => exact Encodes.por _ _ _
  | pandn => exact Encodes.pandn _ _ _
  | pxor => exact Encodes.pxor _ _ _
  | vcvt => exact Encodes.vcvt _ _ _ _
  | vcvtPair => exact Encodes.vcvtPair _ _ _ _ _
  | vdec => exact Encodes.vdec _ _ _ _ _ _
  | venc => exact Encodes.venc _ _ _ _ _ _
  | vshuf => exact Encodes.vshuf _ _ _ _
  | vroti => exact Encodes.vroti _ _ _ _
  | vscan => exact Encodes.vscan _ _ _ _
  | vcmprs => exact Encodes.vcmprs _ _ _
  | li => exact Encodes.li _ _
  | lih => exact Encodes.lih _ _
  | addil => exact Encodes.addil _ _ _
  | ld => exact Encodes.ld _ _ _ _ _
  | st => exact Encodes.st _ _ _ _
  | aadd => exact Encodes.aadd _ _ _ _ _ _
  | amin => exact Encodes.amin _ _ _ _ _ _
  | amax => exact Encodes.amax _ _ _ _ _ _
  | aand => exact Encodes.aand _ _ _ _ _ _
  | aor => exact Encodes.aor _ _ _ _ _ _
  | axch => exact Encodes.axch _ _ _ _ _ _
  | acas => exact Encodes.acas _ _ _ _ _ _
  | fence => exact Encodes.fence _ _
  | br => exact Encodes.br _
  | call => exact Encodes.call _ _
  | jr => exact Encodes.jr _
  | loop => exact Encodes.loop _ _ _
  | mfs => exact Encodes.mfs _ _
  | mts => exact Encodes.mts _ _
  | crset => exact Encodes.crset _ _
  | trapi => exact Encodes.trapi _
  | regset => exact Encodes.regset _ _
  | vld => exact Encodes.vld _ _ _ _ _
  | vst => exact Encodes.vst _ _ _ _
  | vlds => exact Encodes.vlds _ _ _ _ _ _ _
  | vsts => exact Encodes.vsts _ _ _ _ _ _
  | vgath => exact Encodes.vgath _ _ _ _ _ _ _
  | vscat => exact Encodes.vscat _ _ _ _ _ _
  | vpf => exact Encodes.vpf _ _
  | lda => exact Encodes.lda _ _ _ _ _ _ _
  | sta => exact Encodes.sta _ _ _ _
  | stad => exact Encodes.stad _ _ _ _ _
  | ldas => exact Encodes.ldas _ _ _
  | vtou => exact Encodes.vtou _ _ _ _ _
  | utov => exact Encodes.utov _ _ _
  | vred => exact Encodes.vred _ _ _ _
  | vuni => exact Encodes.vuni _ _ _ _
  | ptou => exact Encodes.ptou _ _
  | utop => exact Encodes.utop _ _
  | pany => exact Encodes.pany _ _
  | pall => exact Encodes.pall _ _
  | tdesc => exact Encodes.tdesc _ _
  | tzero => exact Encodes.tzero _ _ _
  | tmm => exact Encodes.tmm _ _ _
  | tmmr => exact Encodes.tmmr _ _ _ _
  | tdrain => exact Encodes.tdrain _ _ _
  | tcopy => exact Encodes.tcopy _ _ _ _
  | twait => exact Encodes.twait _
  | ttab => exact Encodes.ttab _ _
  | tcnv => exact Encodes.tcnv _ _
  | tqms => exact Encodes.tqms _ _ _ _
  | tlu => exact Encodes.tlu _
  | tsolv => exact Encodes.tsolv _ _
  | link => exact Encodes.link _ _
  | alloc => exact Encodes.alloc _ _ _
  | free => exact Encodes.free _
  | push => exact Encodes.push _ _
  | nld => exact Encodes.nld _ _ _ _
  | nst => exact Encodes.nst _ _ _
  | rulew => exact Encodes.rulew _ _
  | board => exact Encodes.board _ _ _ _
  | unboard => exact Encodes.unboard _
  | ringq => exact Encodes.ringq _ _ _ _
  | mig => exact Encodes.mig _
  | reds => exact Encodes.reds _ _ _
  | svc => exact Encodes.svc _
  | unop => exact Encodes.unop
  | vnop => exact Encodes.vnop
  | eret => exact Encodes.eret
  | yield => exact Encodes.yield
  | endThread => exact Encodes.endThread
  | halt => exact Encodes.halt
  | _ => exact ⟨rfl, rfl, rfl⟩

theorem decodeUniform_encodeUniform {i : Instr} (hform : i.form = .uniform) (hwf : i.wf = true) :
    decodeUniform (encodeUniform i) = some i := by
  have h := encodes i
  rw [Encodes.Statement, hform] at h
  exact h hwf

theorem decodeVector_encodeVector {i : Instr} (hform : i.form = .vector) (hwf : i.wf = true) :
    decodeVector (encodeVector i) = some i := by
  have h := encodes i
  rw [Encodes.Statement, hform] at h
  exact h hwf

theorem decodeClass_encodeLong {i : Instr} (hform : i.form = .long) (hwf : i.wf = true) (g : BitVec 4) :
    decodeClass (encodeLong i).1 ((encodeLong i).1 ++ (g ++ (encodeLong i).2)) = some i := by
  have h := encodes i
  rw [Encodes.Statement, hform] at h
  exact h hwf g

/-! ### The class and the guard of a word (R33, R34) -/

theorem class_word (c : BitVec 2) (g : BitVec 4) (y : BitVec 58) : (c ++ (g ++ y)).extractLsb' 62 2 = c := by
  simp (disch := decide) only [extract_high]
  exact extract_all _

theorem guardOf_word (c : BitVec 2) (g : Guard) (y : BitVec 58) : guardOf (c ++ (g.bits ++ y)) = g := by
  obtain ⟨neg, q⟩ := g
  have hneg : (c ++ ((⟨neg, q⟩ : Guard).bits ++ y)).getLsbD 61 = neg := by
    simp only [Guard.bits, bit1, BitVec.getLsbD_append]
    simp
  have hq : (c ++ ((⟨neg, q⟩ : Guard).bits ++ y)).extractLsb' 58 3 = q := by
    simp (disch := decide) only [Guard.bits, extract_low, extract_high]
    exact extract_all _
  rw [guardOf, hneg, hq]

theorem Guard.wf_iff {g : Guard} : g.wf = true ↔ g.bits ≠ 8#4 := by
  obtain ⟨neg, q⟩ := g
  revert neg q
  decide

theorem decode_of_guard_never {x : Word} (h : (guardOf x).wf = false) : decode x = .error .guardNever := by
  simp [decode, h]

theorem decode_pair_word {g : Guard} (hg : g.wf = true) (u : BitVec 26) (v : BitVec 32) :
    decode (0#2 ++ (g.bits ++ (u ++ v))) = pairOf g (decodeUniform u) (decodeVector v) := by
  have hu : (0#2 ++ (g.bits ++ (u ++ v))).extractLsb' 32 26 = u := by
    simp (disch := decide) only [extract_low, extract_high]
    exact extract_all _
  have hv : (0#2 ++ (g.bits ++ (u ++ v))).extractLsb' 0 32 = v := by
    simp (disch := decide) only [extract_low]
    exact extract_all _
  rw [decode, guardOf_word, if_pos hg, class_word, hu, hv]
  rfl

theorem decode_long_word {c : BitVec 2} {g : Guard} (hc : c ≠ 0) (hg : g.wf = true) (y : BitVec 58) :
    decode (c ++ (g.bits ++ y)) = longOf g (decodeClass c (c ++ (g.bits ++ y))) := by
  rw [decode, guardOf_word, if_pos hg, class_word]
  obtain rfl | rfl | rfl | rfl : c = 0 ∨ c = 1 ∨ c = 2 ∨ c = 3 := by revert c; decide
  · exact absurd rfl hc
  · rfl
  · rfl
  · rfl

theorem class_ne_zero {c : BitVec 2} {x : Word} {i : Instr} (h : decodeClass c x = some i) : c ≠ 0 := by
  rintro rfl
  cases h

/-- Settles O54: the slots of a pair word, or the long instruction, are decoded from their own bits of the encoding. -/
theorem roundTrip : Obligations.RoundTrip := by
  intro b hb
  cases b with
  | pair g u v =>
    simp only [Bundle.wf, Bool.and_eq_true, beq_iff_eq] at hb
    obtain ⟨⟨⟨⟨hg, hu⟩, hv⟩, huwf⟩, hvwf⟩ := hb
    rw [encode, decode_pair_word hg, decodeUniform_encodeUniform hu huwf, decodeVector_encodeVector hv hvwf]
    rfl
  | long g i =>
    simp only [Bundle.wf, Bool.and_eq_true, beq_iff_eq] at hb
    obtain ⟨⟨hg, hi⟩, hwf⟩ := hb
    have h := decodeClass_encodeLong hi hwf g.bits
    rw [encode, decode_long_word (class_ne_zero h) hg, h]
    rfl

/-! ### Words and fields put together from their parts -/

theorem append_eq_zero {m n : Nat} {a : BitVec m} {b : BitVec n} : a ++ b = 0#(m + n) ↔ a = 0#m ∧ b = 0#n := by
  constructor
  · intro h
    have ha := congrArg (·.extractLsb' n m) h
    have hb := congrArg (·.extractLsb' 0 n) h
    exact ⟨by simpa [BitVec.extractLsb'_append_eq_left] using ha, by simpa [BitVec.extractLsb'_append_eq_right] using hb⟩
  · rintro ⟨rfl, rfl⟩
    exact BitVec.zero_append_zero

theorem exists_append {m n : Nat} (x : BitVec (m + n)) : ∃ (a : BitVec m) (b : BitVec n), x = a ++ b := by
  refine ⟨x.extractLsb' n m, x.extractLsb' 0 n, ?_⟩
  rw [BitVec.extractLsb'_append_extractLsb'_eq_extractLsb' (by simp)]
  exact (extract_all x).symm

theorem exists_bit1 (x : BitVec 1) : ∃ b, x = bit1 b := ⟨x.getLsbD 0, by revert x; decide⟩

theorem exists_ofNat {w : Nat} (x : BitVec w) : ∃ n, x = .ofNat w n ∧ (BitVec.ofNat w n).toNat = n := ⟨x.toNat, by simp⟩

theorem exists_uSlot (x : BitVec 26) : ∃ op sd sa sh sb, x = uSlot op sd sa sh sb := by
  refine ⟨x.extractLsb' 20 6, x.extractLsb' 15 5, x.extractLsb' 10 5, x.extractLsb' 5 5, x.extractLsb' 0 5, ?_⟩
  simp (disch := rfl) only [uSlot, BitVec.extractLsb'_append_extractLsb'_eq_extractLsb']
  exact (extract_all x).symm

theorem exists_vSlot (x : BitVec 32) : ∃ op vd va vb pm mod, x = vSlot op vd va vb pm mod := by
  refine ⟨x.extractLsb' 25 7, x.extractLsb' 19 6, x.extractLsb' 13 6, x.extractLsb' 7 6, x.extractLsb' 4 3,
    x.extractLsb' 0 4, ?_⟩
  simp (disch := rfl) only [vSlot, BitVec.extractLsb'_append_extractLsb'_eq_extractLsb']
  exact (extract_all x).symm

theorem exists_uWord (x : BitVec 58) : ∃ op sd sa sb la w imm, x = uWord op sd sa sb la (bit1 w) imm := by
  obtain ⟨w, hw⟩ := exists_bit1 (x.extractLsb' 32 1)
  refine ⟨x.extractLsb' 52 6, x.extractLsb' 47 5, x.extractLsb' 42 5, x.extractLsb' 37 5, x.extractLsb' 33 4, w,
    x.extractLsb' 0 32, ?_⟩
  rw [← hw]
  simp (disch := rfl) only [uWord, BitVec.extractLsb'_append_extractLsb'_eq_extractLsb']
  exact (extract_all x).symm

theorem exists_vWord (x : BitVec 58) : ∃ op vd sa sx vb pm la sz sy imm, x = vWord op vd sa sx vb pm la sz sy imm := by
  refine ⟨x.extractLsb' 51 7, x.extractLsb' 45 6, x.extractLsb' 40 5, x.extractLsb' 35 5, x.extractLsb' 29 6,
    x.extractLsb' 26 3, x.extractLsb' 22 4, x.extractLsb' 20 2, x.extractLsb' 15 5, x.extractLsb' 0 15, ?_⟩
  simp (disch := rfl) only [vWord, BitVec.extractLsb'_append_extractLsb'_eq_extractLsb']
  exact (extract_all x).symm

theorem exists_tWord (x : BitVec 58) : ∃ op la fa fb fc s1 s2 s3 imm, x = tWord op la fa fb fc s1 s2 s3 imm := by
  refine ⟨x.extractLsb' 52 6, x.extractLsb' 48 4, x.extractLsb' 44 4, x.extractLsb' 40 4, x.extractLsb' 36 4,
    x.extractLsb' 31 5, x.extractLsb' 26 5, x.extractLsb' 21 5, x.extractLsb' 0 21, ?_⟩
  simp (disch := rfl) only [tWord, BitVec.extractLsb'_append_extractLsb'_eq_extractLsb']
  exact (extract_all x).symm

theorem exists_word (x : Word) : ∃ (c : BitVec 2) (g : Guard) (y : BitVec 58), x = c ++ (g.bits ++ y) := by
  obtain ⟨c, z, rfl⟩ := exists_append (m := 2) (n := 62) x
  obtain ⟨k, y, rfl⟩ := exists_append (m := 4) (n := 58) z
  obtain ⟨b, q, rfl⟩ := exists_append (m := 1) (n := 3) k
  obtain ⟨neg, rfl⟩ := exists_bit1 b
  exact ⟨c, ⟨neg, q⟩, y, rfl⟩

/-! ### Fields that are not used, and fields narrower than their place (R36, R63) -/

theorem uSlot_imm (op : BitVec 6) (sd sa sh sb : BitVec 5) : (uSlot op sd sa sh sb).extractLsb' 0 10 = sh ++ sb := by
  simp (disch := decide) only [uSlot, extract_low]
  exact extract_all _

theorem shift_append_eq_zero {sh sb : BitVec 5} : sh ++ sb = 0#10 ↔ sh = 0#5 ∧ sb = 0#5 := append_eq_zero

theorem uSlot_low_eq_zero {op : BitVec 6} {sd sa sh sb : BitVec 5} : (uSlot op sd sa sh sb).extractLsb' 0 20 = 0#20 ↔
    sd = 0#5 ∧ sa = 0#5 ∧ sh = 0#5 ∧ sb = 0#5 := by
  simp (disch := decide) only [uSlot, extract_low]
  rw [extract_all, append_eq_zero (m := 5) (n := 15), append_eq_zero (m := 5) (n := 10), append_eq_zero]

theorem vSlot_low_eq_zero {op : BitVec 7} {vd va vb : BitVec 6} {pm : BitVec 3} {mod : BitVec 4} :
    (vSlot op vd va vb pm mod).extractLsb' 0 25 = 0#25 ↔ vd = 0#6 ∧ va = 0#6 ∧ vb = 0#6 ∧ pm = 0#3 ∧ mod = 0#4 := by
  simp (disch := decide) only [vSlot, extract_low]
  rw [extract_all, append_eq_zero (m := 6) (n := 19), append_eq_zero (m := 6) (n := 13), append_eq_zero (m := 6) (n := 7),
    append_eq_zero]

theorem tWord_low_eq_zero {c : BitVec 2} {g : BitVec 4} {op : BitVec 6} {la fa fb fc : BitVec 4} {s1 s2 s3 : BitVec 5}
    {imm : BitVec 21} : (c ++ (g ++ tWord op la fa fb fc s1 s2 s3 imm)).extractLsb' 0 52 = 0#52 ↔
      la = 0#4 ∧ fa = 0#4 ∧ fb = 0#4 ∧ fc = 0#4 ∧ s1 = 0#5 ∧ s2 = 0#5 ∧ s3 = 0#5 ∧ imm = 0#21 := by
  simp (disch := decide) only [tWord, extract_low]
  rw [extract_all, append_eq_zero (m := 4) (n := 48), append_eq_zero (m := 4) (n := 44), append_eq_zero (m := 4) (n := 40),
    append_eq_zero (m := 4) (n := 36), append_eq_zero (m := 5) (n := 31), append_eq_zero (m := 5) (n := 26), append_eq_zero]

theorem high_eq_zero_iff {m n : Nat} {x : BitVec (m + n)} : x.extractLsb' n m = 0#m ↔ ∃ y : BitVec n, x = 0#m ++ y := by
  constructor
  · intro h
    obtain ⟨a, y, rfl⟩ := exists_append x
    rw [BitVec.extractLsb'_append_eq_left] at h
    exact ⟨y, h ▸ rfl⟩
  · rintro ⟨y, rfl⟩
    exact BitVec.extractLsb'_append_eq_left

theorem qOk_iff : ∀ {r : BitVec 5}, qOk r = true ↔ ∃ q, r = q5 q := by decide

theorem pOk_iff : ∀ {r : BitVec 6}, pOk r = true ↔ ∃ p, r = p6 p := by decide

theorem wide2_high_iff {f : BitVec 4} : f.extractLsb' 2 2 = 0#2 ↔ ∃ a : BitVec 2, f = 0#2 ++ a := high_eq_zero_iff (m := 2)

theorem wide3_high_iff {f : BitVec 4} : f.extractLsb' 3 1 = 0#1 ↔ ∃ k : BitVec 3, f = 0#1 ++ k := high_eq_zero_iff (m := 1)

theorem wide6_high_iff {imm : BitVec 21} : imm.extractLsb' 6 15 = 0#15 ↔ ∃ v : BitVec 6, imm = 0#15 ++ v :=
  high_eq_zero_iff (m := 15)

theorem red_high_iff {imm : BitVec 15} : imm.extractLsb' 4 11 = 0#11 ↔ ∃ c : BitVec 4, imm = 0#11 ++ c :=
  high_eq_zero_iff (m := 11)

theorem uni_high_iff {imm : BitVec 15} : imm.extractLsb' 3 12 = 0#12 ↔ ∃ q : BitVec 3, imm = 0#12 ++ q :=
  high_eq_zero_iff (m := 12)

theorem vtou_high_iff {imm : BitVec 15} :
    imm.extractLsb' 7 8 = 0#8 ↔ ∃ (low : Bool) (e : BitVec 6), imm = 0#8 ++ (bit1 low ++ e) := by
  refine (high_eq_zero_iff (m := 8) (n := 7)).trans ⟨fun ⟨y, hy⟩ => ?_, fun ⟨low, e, h⟩ => ⟨_, h⟩⟩
  obtain ⟨b, e, rfl⟩ := exists_append (m := 1) (n := 6) y
  obtain ⟨low, rfl⟩ := exists_bit1 b
  exact ⟨low, e, hy⟩

theorem fence_high_iff {imm : BitVec 32} :
    imm.extractLsb' 7 25 = 0#25 ↔ ∃ (c : BitVec 5) (k : BitVec 2), imm = 0#25 ++ (c ++ k) := by
  refine (high_eq_zero_iff (m := 25) (n := 7)).trans ⟨fun ⟨y, hy⟩ => ?_, fun ⟨c, k, h⟩ => ⟨_, h⟩⟩
  obtain ⟨c, k, rfl⟩ := exists_append (m := 5) (n := 2) y
  exact ⟨c, k, hy⟩

theorem lda_low_iff {imm : BitVec 15} :
    imm.extractLsb' 0 6 = 0#6 ↔ ∃ (w : Bool) (lag : BitVec 8), imm = bit1 w ++ (lag ++ 0#6) := by
  constructor
  · intro h
    obtain ⟨b, y, rfl⟩ := exists_append (m := 1) (n := 14) imm
    obtain ⟨lag, z, rfl⟩ := exists_append (m := 8) (n := 6) y
    obtain ⟨w, rfl⟩ := exists_bit1 b
    simp (disch := decide) only [extract_low, extract_all] at h
    exact ⟨w, lag, h ▸ rfl⟩
  · rintro ⟨w, lag, rfl⟩
    exact lda_low _ _

/-! ### Codes and the mod field (R69 to R72) -/

theorem bit1_false : bit1 false = 0#1 := rfl

theorem esizeOf_eq_some {c : BitVec 2} {z : ESize} : esizeOf c = some z ↔ c = z.code :=
  ⟨by revert c z; decide, fun h => h ▸ esizeOf_code z⟩

theorem redOf_eq_some {c : BitVec 4} {op : RedOp} : redOf c = some op ↔ c = op.code :=
  ⟨by revert c op; decide, fun h => h ▸ redOf_code op⟩

section Mod
variable {m : BitVec 4}

theorem mod_saturate (h1 : m.getLsbD 1 = false) :
    (widthOf (m.getLsbD 3)).code ++ (bit1 (m.getLsbD 2) ++ (0#1 ++ bit1 (m.getLsbD 0))) = m := by
  revert m; decide

theorem mod_unsigned (h1 : m.getLsbD 1 = false) (h0 : m.getLsbD 0 = false) :
    (widthOf (m.getLsbD 3)).code ++ (bit1 (m.getLsbD 2) ++ 0#2) = m := by
  revert m; decide

theorem mod_width (h2 : m.getLsbD 2 = false) (h1 : m.getLsbD 1 = false) (h0 : m.getLsbD 0 = false) :
    (widthOf (m.getLsbD 3)).code ++ 0#3 = m := by
  revert m; decide

theorem mod_vdec : bit1 (m.getLsbD 3) ++ (bit1 (m.getLsbD 2) ++ m.extractLsb' 0 2) = m := by
  revert m; decide

theorem mod_venc (h0 : m.getLsbD 0 = false) :
    bit1 (m.getLsbD 3) ++ (bit1 (m.getLsbD 2) ++ (bit1 (m.getLsbD 1) ++ 0#1)) = m := by
  revert m; decide

variable {t : FTyp} (ht : ftypOf (m.extractLsb' 2 2) = some t)
include ht

theorem mod_rounding : t.code ++ (rmodeOf (m.extractLsb' 0 2)).code = m := by
  revert m t; decide

theorem mod_condition : t.code ++ (fcondOf (m.extractLsb' 0 2)).code = m := by
  revert m t; decide

theorem mod_ftype (h1 : m.getLsbD 1 = false) (h0 : m.getLsbD 0 = false) : t.code ++ 0#2 = m := by
  revert m t; decide

end Mod

/-! ### What a decoder answers -/

/-- Every instruction that `o` may be has the form `f`, is within its limits, and has the bits `x` as its encoding. -/
def Sound {α : Type} (f : Form) (enc : Instr → α) (x : α) (o : Option Instr) : Prop :=
  ∀ i, o = some i → i.form = f ∧ i.wf = true ∧ enc i = x

section Sound
variable {α β : Type} {f : Form} {enc : Instr → α} {x : α}

theorem sound_none : Sound f enc x none := by simp [Sound]

theorem sound_some {i : Instr} : Sound f enc x (some i) ↔ i.form = f ∧ i.wf = true ∧ enc i = x := by simp [Sound]

theorem sound_whenOk {b : Bool} {i : Instr} :
    Sound f enc x (whenOk b i) ↔ (b = true → i.form = f ∧ i.wf = true ∧ enc i = x) := by
  cases b <;> simp [whenOk, sound_some, sound_none]

theorem sound_bind {o : Option β} {k : β → Option Instr} :
    Sound f enc x (o.bind k) ↔ ∀ t, o = some t → Sound f enc x (k t) := by
  cases o <;> simp [sound_none]

theorem sound_map {o : Option β} {k : β → Instr} :
    Sound f enc x (o.map k) ↔ ∀ t, o = some t → (k t).form = f ∧ (k t).wf = true ∧ enc (k t) = x := by
  cases o <;> simp [sound_none, sound_some]

end Sound

/-! ### Each decoder answers nothing but what its bits encode

Each proof splits on the opcode. In a row of the table the decoder's condition makes every unused field zero, which is what the
encoder writes there, and says the limits. -/

theorem decodeUniform_sound (op : BitVec 6) (sd sa sh sb : BitVec 5) :
    Sound .uniform encodeUniform (uSlot op sd sa sh sb) (decodeUniform (uSlot op sd sa sh sb)) := by
  obtain ⟨n, rfl, hn⟩ := exists_ofNat op
  simp only [decodeUniform, uSlot_op, uSlot_sd, uSlot_sa, uSlot_sh, uSlot_sb, uSlot_imm, hn]
  split
  all_goals
    simp +contextual only [sound_whenOk, sound_some, sound_none, Instr.form, Instr.wf, qOk_iff, qIdx_q5, uSlot_low_eq_zero,
      shift_append_eq_zero, Bool.and_eq_true, beq_iff_eq, decide_eq_true_eq, and_imp, BitVec.ofNat_eq_ofNat, true_and,
      forall_exists_index]
  all_goals
    intros
    rfl

theorem decodeConvert_sound (vd va vb : BitVec 6) (pm : BitVec 3) (mod : BitVec 4) :
    Sound .vector encodeVector (vSlot 40 vd va vb pm mod) (decodeConvert vd va vb pm mod) := by
  obtain ⟨n, rfl, hn⟩ := exists_ofNat mod
  simp only [decodeConvert, hn]
  split
  all_goals
    simp +contextual only [sound_whenOk, sound_some, sound_none, Instr.form, Instr.wf, beq_iff_eq, BitVec.ofNat_eq_ofNat,
      true_and]
  all_goals
    intros
    rfl

theorem decodeScan_sound (vd va vb : BitVec 6) (pm : BitVec 3) (mod : BitVec 4) :
    Sound .vector encodeVector (vSlot 45 vd va vb pm mod) (decodeScan vd va vb pm mod) := by
  obtain ⟨n, rfl, hn⟩ := exists_ofNat mod
  simp only [decodeScan, hn]
  split
  all_goals
    simp +contextual only [sound_whenOk, sound_none, Instr.form, Instr.wf, beq_iff_eq, BitVec.ofNat_eq_ofNat, true_and]
  all_goals
    intros
    rfl

theorem decodeVector_sound (op : BitVec 7) (vd va vb : BitVec 6) (pm : BitVec 3) (mod : BitVec 4) :
    Sound .vector encodeVector (vSlot op vd va vb pm mod) (decodeVector (vSlot op vd va vb pm mod)) := by
  obtain ⟨n, rfl, hn⟩ := exists_ofNat op
  simp only [decodeVector, vSlot_op, vSlot_vd, vSlot_va, vSlot_vb, vSlot_pm, vSlot_mod, hn]
  split
  case h_41 => exact decodeConvert_sound vd va vb pm mod
  case h_46 => exact decodeScan_sound vd va vb pm mod
  -- `vfabs` and `vfneg` do not round
  case h_31 | h_32 =>
    simp only [sound_bind, sound_whenOk, Bool.and_eq_true, beq_iff_eq, Bool.not_eq_true']
    rintro t ht ⟨⟨rfl, h1⟩, h0⟩
    rw [← mod_ftype ht h1 h0]
    exact ⟨rfl, rfl, rfl⟩
  all_goals
    simp +contextual only [sound_whenOk, sound_none, sound_bind, sound_map, Instr.form, Instr.wf, encodeVector, pOk_iff, pIdx_p6,
      vSlot_low_eq_zero, mod_saturate, mod_unsigned, mod_width, mod_vdec, mod_venc, mod_rounding, mod_condition,
      Bool.and_eq_true, beq_iff_eq, Bool.not_eq_true', and_imp, BitVec.ofNat_eq_ofNat, and_self, implies_true,
      forall_exists_index]

theorem decodeFence_sound {ok : Bool} {kind : BitVec 2} {course : BitVec 5} {x : BitVec 2 × BitVec 58}
    (h : ∀ k : FenceKind, k.code = kind → ok = true → encodeLong (.fence k course) = x) :
    Sound .long encodeLong x (decodeFence ok kind course) := by
  obtain ⟨n, rfl, hn⟩ := exists_ofNat kind
  simp only [decodeFence, hn]
  split
  · exact sound_whenOk.2 fun hok => ⟨rfl, rfl, h .acq rfl hok⟩
  · exact sound_whenOk.2 fun hok => ⟨rfl, rfl, h .rel rfl hok⟩
  · exact sound_whenOk.2 fun hok => ⟨rfl, rfl, h .full rfl hok⟩
  · exact sound_none

theorem decodeU_sound (g : BitVec 4) (op : BitVec 6) (sd sa sb : BitVec 5) (la : BitVec 4) (w : Bool) (imm : BitVec 32) :
    Sound .long encodeLong (1#2, uWord op sd sa sb la (bit1 w) imm)
      (decodeU (1#2 ++ (g ++ uWord op sd sa sb la (bit1 w) imm))) := by
  obtain ⟨n, rfl, hn⟩ := exists_ofNat op
  simp only [decodeU, uWord_op, uWord_sd, uWord_sa, uWord_sb, uWord_la, uWord_x, uWord_imm, bit1_get, hn]
  split
  -- `fence`, whose immediate holds a kind and a course
  case h_13 =>
    refine decodeFence_sound fun k hk hok => ?_
    simp only [Bool.and_eq_true, beq_iff_eq, Bool.not_eq_true', BitVec.ofNat_eq_ofNat, fence_high_iff] at hok
    obtain ⟨⟨⟨⟨⟨rfl, rfl⟩, rfl⟩, rfl⟩, rfl⟩, course, kind, rfl⟩ := hok
    rw [fence_kind] at hk
    rw [fence_course, ← hk]
    rfl
  all_goals
    simp +contextual only [sound_whenOk, sound_some, sound_none, Instr.form, Instr.wf, bit1_false, Bool.and_eq_true, beq_iff_eq,
      Bool.not_eq_true', decide_eq_true_eq, and_imp, BitVec.ofNat_eq_ofNat, true_and]
  all_goals
    intros
    rfl

theorem decodeV_sound (g : BitVec 4) (op : BitVec 7) (vd : BitVec 6) (sa sx : BitVec 5) (vb : BitVec 6) (pm : BitVec 3)
    (la : BitVec 4) (sz : BitVec 2) (sy : BitVec 5) (imm : BitVec 15) :
    Sound .long encodeLong (2#2, vWord op vd sa sx vb pm la sz sy imm)
      (decodeV (2#2 ++ (g ++ vWord op vd sa sx vb pm la sz sy imm))) := by
  obtain ⟨n, rfl, hn⟩ := exists_ofNat op
  simp only [decodeV, vWord_op, vWord_vd, vWord_sa, vWord_sx, vWord_vb, vWord_pm, vWord_la, vWord_sz, vWord_sy, vWord_imm, hn]
  split
  -- `vred`, whose immediate holds the code of a reduction
  case h_14 =>
    simp only [sound_bind, sound_whenOk, redOf_eq_some, Bool.and_eq_true, beq_iff_eq, BitVec.ofNat_eq_ofNat, red_high_iff]
    rintro r hr ⟨⟨⟨⟨⟨rfl, rfl⟩, rfl⟩, rfl⟩, rfl⟩, code, rfl⟩
    rw [red_low] at hr
    rw [hr]
    exact ⟨rfl, rfl, rfl⟩
  all_goals
    simp +contextual only [sound_whenOk, sound_none, sound_bind, esizeOf_eq_some, Instr.form, Instr.wf, pOk_iff, pIdx_p6,
      qOk_iff, qIdx_q5, vtou_high_iff, vtou_lane, vtou_bit, bit1_get, uni_high_iff, uni_low, lda_low_iff, lda_wait, lda_lag,
      Bool.and_eq_true, beq_iff_eq, and_imp, BitVec.ofNat_eq_ofNat, true_and, forall_exists_index]
  all_goals
    intros
    rfl

theorem decodeT_sound (g : BitVec 4) (op : BitVec 6) (la fa fb fc : BitVec 4) (s1 s2 s3 : BitVec 5) (imm : BitVec 21) :
    Sound .long encodeLong (3#2, tWord op la fa fb fc s1 s2 s3 imm)
      (decodeT (3#2 ++ (g ++ tWord op la fa fb fc s1 s2 s3 imm))) := by
  obtain ⟨n, rfl, hn⟩ := exists_ofNat op
  simp only [decodeT, tWord_op, tWord_la, tWord_fa, tWord_fb, tWord_fc, tWord_s1, tWord_s2, tWord_s3, tWord_imm, hn]
  split
  all_goals
    simp +contextual only [sound_whenOk, sound_none, Instr.form, Instr.wf, wide2_high_iff, wide2_low, wide3_high_iff, wide3_low,
      wide6_high_iff, wide6_low, tWord_low_eq_zero, Bool.and_eq_true, beq_iff_eq, decide_eq_true_eq, and_imp,
      BitVec.ofNat_eq_ofNat, true_and, forall_exists_index]
  all_goals
    intros
    rfl

theorem decodeClass_sound (c : BitVec 2) (g : BitVec 4) (y : BitVec 58) :
    Sound .long encodeLong (c, y) (decodeClass c (c ++ (g ++ y))) := by
  obtain rfl | rfl | rfl | rfl : c = 0 ∨ c = 1 ∨ c = 2 ∨ c = 3 := by revert c; decide
  · exact sound_none
  · obtain ⟨op, sd, sa, sb, la, w, imm, rfl⟩ := exists_uWord y
    exact decodeU_sound g op sd sa sb la w imm
  · obtain ⟨op, vd, sa, sx, vb, pm, la, sz, sy, imm, rfl⟩ := exists_vWord y
    exact decodeV_sound g op vd sa sx vb pm la sz sy imm
  · obtain ⟨op, la, fa, fb, fc, s1, s2, s3, imm, rfl⟩ := exists_tWord y
    exact decodeT_sound g op la fa fb fc s1 s2 s3 imm

/-! ### A word that decodes (R34, R36, R63) -/

theorem pairOf_eq_ok {g : Guard} {u v : Option Instr} {b : Bundle} (h : pairOf g u v = .ok b) :
    ∃ i j, u = some i ∧ v = some j ∧ b = .pair g i j := by
  cases u with
  | none => cases h
  | some i =>
    cases v with
    | none => cases h
    | some j =>
      cases h
      exact ⟨i, j, rfl, rfl, rfl⟩

theorem longOf_eq_ok {g : Guard} {o : Option Instr} {b : Bundle} (h : longOf g o = .ok b) :
    ∃ i, o = some i ∧ b = .long g i := by
  cases o with
  | none => cases h
  | some i =>
    cases h
    exact ⟨i, rfl, rfl⟩

theorem guard_wf_of_decode {x : Word} {b : Bundle} (h : decode x = .ok b) : (guardOf x).wf = true := by
  by_contra hg
  rw [decode_of_guard_never (by simpa using hg)] at h
  cases h

theorem oneMeaning_pair {g : Guard} (hg : g.wf = true) {u : BitVec 26} {v : BitVec 32} {b : Bundle}
    (h : decode (0#2 ++ (g.bits ++ (u ++ v))) = .ok b) : b.wf = true ∧ encode b = 0#2 ++ (g.bits ++ (u ++ v)) := by
  rw [decode_pair_word hg] at h
  obtain ⟨i, j, hi, hj, rfl⟩ := pairOf_eq_ok h
  obtain ⟨op, sd, sa, sh, sb, rfl⟩ := exists_uSlot u
  obtain ⟨op', vd, va, vb, pm, mod, rfl⟩ := exists_vSlot v
  obtain ⟨hiform, hiwf, hienc⟩ := decodeUniform_sound _ _ _ _ _ i hi
  obtain ⟨hjform, hjwf, hjenc⟩ := decodeVector_sound _ _ _ _ _ _ j hj
  exact ⟨by simp [Bundle.wf, hg, hiform, hiwf, hjform, hjwf], by rw [encode, hienc, hjenc]⟩

theorem oneMeaning_long {c : BitVec 2} (hc : c ≠ 0) {g : Guard} (hg : g.wf = true) {y : BitVec 58} {b : Bundle}
    (h : decode (c ++ (g.bits ++ y)) = .ok b) : b.wf = true ∧ encode b = c ++ (g.bits ++ y) := by
  rw [decode_long_word hc hg] at h
  obtain ⟨i, hi, rfl⟩ := longOf_eq_ok h
  obtain ⟨hform, hwf, henc⟩ := decodeClass_sound c g.bits y i hi
  exact ⟨by simp [Bundle.wf, hg, hform, hwf], by rw [encode, henc]⟩

theorem decode_oneMeaning : Claims.OneMeaning := by
  intro x b h
  have hg := guard_wf_of_decode h
  obtain ⟨c, g, y, rfl⟩ := exists_word x
  rw [guardOf_word] at hg
  by_cases hc : c = 0
  · subst hc
    obtain ⟨u, v, rfl⟩ := exists_append (m := 26) (n := 32) y
    exact oneMeaning_pair hg h
  · exact oneMeaning_long hc hg h

theorem decode_guardNever : Claims.GuardNever := by
  intro x h
  apply decode_of_guard_never
  obtain ⟨c, g, y, rfl⟩ := exists_word x
  have hbits : (c ++ (g.bits ++ y)).extractLsb' 58 4 = g.bits := by
    simp (disch := decide) only [extract_low, extract_high]
    exact extract_all _
  have hnever : g.bits = 8#4 := by
    apply BitVec.eq_of_toNat_eq
    rw [← hbits, BitVec.extractLsb'_toNat, Nat.shiftRight_eq_div_pow]
    exact h
  rw [guardOf_word]
  exact Bool.eq_false_iff.2 fun hwf => Guard.wf_iff.1 hwf hnever

/-- Settles O55: each decoder answers only what its bits encode, so a word that decodes is the encoding of its slots. -/
theorem oneMeaning : Obligations.OneMeaning := ⟨decode_oneMeaning, decode_guardNever⟩

end Sys2Proof.Laws
end

section
/-! SUPPORT. The statements of 05_uniform_and_control.md: the uniform slot (R79 to R85), branches, loops and the end of an issue
cycle (R86 to R90), system registers (R93, R94), returns from traps (R95, R96, R350), what holds a thread (R97, R142, R343), `end`
(R231), courses (R99) and services (R344). -/

set_option Elab.async false

namespace Sys2Proof.Machine
open Sys2Proof.Claims

/-! ### The word in its issue cycle and its thread -/

section Current
variable {s : State} {i : Issue} {t : Thread}

theorem State.current_eq_some : s.current = some (i, t) ↔ s.cur = some i ∧ s.thread? i.place = some t := by
  unfold State.current
  cases s.cur with
  | none => simp
  | some j =>
    dsimp only
    constructor
    · intro h
      split at h
      · simp at h
      · next x hx => cases h; exact ⟨rfl, hx⟩
    · rintro ⟨h, ht⟩
      cases h
      simp [ht]

theorem State.word_of_current (h : s.current = some (i, t)) (f : Issue → Thread → State) : s.word f = .next (f i t) := by
  simp only [State.word, h]

theorem State.wordRegs_of_current (h : s.current = some (i, t)) (f : Thread → Thread) :
    s.wordRegs f = .next (s.setThread i.place (f t)) := State.word_of_current h _

end Current

theorem putKey_lookupD {κ α : Type} [DecidableEq κ] {d : α} {k : κ} {l : List (κ × α)} (h : lookupD d k l ≠ d) :
    putKey k (lookupD d k l) l = l := by
  induction l with
  | nil => exact absurd rfl h
  | cons e r ih =>
    obtain ⟨k', a⟩ := e
    by_cases hk : k' = k
    · simp [putKey, lookupD, hk]
    · simp only [lookupD, hk, if_false] at h ⊢
      simp [putKey, hk, ih h]

/-- A slot rewritten with the thread it holds is as it was. -/
theorem State.setThread_self {s : State} {p : Place} {t : Thread} (h : s.thread? p = some t) : s.setThread p t = s := by
  have hne : s.slot p ≠ {} := fun he => by simp [State.thread?, he] at h
  have hslot : { s.slot p with thread := some t } = s.slot p := by rw [← h]; rfl
  unfold State.setThread State.setSlot
  rw [hslot]
  exact congrArg (fun l => { s with slots := l }) (putKey_lookupD hne)

/-! ### What lands in a thread -/

theorem State.stay_cur_of {s : State} {i : Issue} (h : s.cur = some i) : s.stay.cur = some { i with moved := true } := by
  simp only [State.stay, h, Option.map_some]

theorem State.jump_cur_of {s : State} {i : Issue} (h : s.cur = some i) (a : Word) : (s.jump a).cur = some { i with next := some a } := by
  simp only [State.jump, h, Option.map_some]

theorem State.onlyThread_setThread (s : State) (p : Place) (t : Thread) : OnlyThread s (s.setThread p t) p :=
  ⟨rfl, fun _ hr => State.slot_setThread_other s hr t, by simp [State.setThread], fun _ => rfl⟩

theorem lands_setThread (s : State) (p : Place) (t : Thread) : Lands s p (.next (s.setThread p t)) t :=
  ⟨_, rfl, State.thread_setThread_same s p t, rfl, s.onlyThread_setThread p t⟩

section Flow
variable {s : State} {i : Issue} (hcur : s.cur = some i) (t : Thread)
include hcur

theorem landsAt_setThread (a : Word) : LandsAt s i (.next ((s.setThread i.place t).jump a)) t a :=
  ⟨_, rfl, State.thread_setThread_same s i.place t, State.jump_cur_of hcur a, s.onlyThread_setThread i.place t⟩

theorem landsStaying_setThread : LandsStaying s i (.next (s.setThread i.place t).stay) t :=
  ⟨_, rfl, State.thread_setThread_same s i.place t, State.stay_cur_of hcur, s.onlyThread_setThread i.place t⟩

end Flow

theorem landsAt_jump {s : State} {i : Issue} {t : Thread} (h : s.current = some (i, t)) (a : Word) :
    LandsAt s i (.next (s.jump a)) t a := by
  obtain ⟨hcur, ht⟩ := State.current_eq_some.1 h
  have hland := landsAt_setThread hcur t a
  rwa [State.setThread_self ht] at hland

/-! ### Writes of a uniform register or predicate (R41) -/

theorem Thread.writeS_wroteS (t : Thread) (r : BitVec 5) (x : Word) : WroteS t (t.writeS r x) r x :=
  ⟨fun k => t.readS_writeS r k x, t.writeS_frame r x⟩

theorem Thread.readQ_writeQ (t : Thread) (r k : BitVec 3) (b : Bool) :
    (t.writeQ r b).readQ k = if k = r ∧ r ≠ 0 then b else t.readQ k := by
  by_cases hr : r = 0#3
  · simp [Thread.writeQ, hr]
  by_cases hk : k = r
  · simp [Thread.writeQ, Thread.readQ, hr, hk]
  · have hne : r.toNat ≠ k.toNat := fun h => hk (BitVec.eq_of_toNat_eq h.symm)
    simp [Thread.writeQ, Thread.readQ, hr, hk, hne]

theorem Thread.writeQ_wroteQ (t : Thread) (r : BitVec 3) (b : Bool) : WroteQ t (t.writeQ r b) r b :=
  ⟨fun k => t.readQ_writeQ r k b, by unfold Thread.writeQ; split <;> rfl⟩

section Results
variable {s : State} {i : Issue} {t : Thread} (h : s.current = some (i, t))
include h

theorem State.toS_of_current (sd : BitVec 5) (f : Thread → Word) :
    s.toS sd f = .next (s.setThread i.place (t.writeS sd (f t))) := State.wordRegs_of_current h _

theorem State.toQ_of_current (qd : BitVec 3) (f : Thread → Bool) :
    s.toQ qd f = .next (s.setThread i.place (t.writeQ qd (f t))) := State.wordRegs_of_current h _

theorem State.toS_lands (sd : BitVec 5) (f : Thread → Word) :
    ∃ t', WroteS t t' sd (f t) ∧ Lands s i.place (s.toS sd f) t' :=
  ⟨_, t.writeS_wroteS sd (f t), State.toS_of_current h sd f ▸ lands_setThread s i.place _⟩

theorem State.toQ_lands (qd : BitVec 3) (f : Thread → Bool) :
    ∃ t', WroteQ t t' qd (f t) ∧ Lands s i.place (s.toQ qd f) t' :=
  ⟨_, t.writeQ_wroteQ qd (f t), State.toQ_of_current h qd f ▸ lands_setThread s i.place _⟩

end Results

end Sys2Proof.Machine

namespace Sys2Proof.Machine
open Sys2Proof.Claims

/-! ### The uniform operations as exact numbers (R80 to R85) -/

theorem shAmt_eq (b : Word) : shAmt b = b.toNat % 64 := by simp [shAmt, bits]

theorem zx_toNat {n : Nat} (h : n ≤ 64) (x : BitVec n) : (zx x).toNat = x.toNat := BitVec.toNat_setWidth_of_le h

theorem sx_toInt {n : Nat} (h : n ≤ 64) (x : BitVec n) : (sx x).toInt = x.toInt := BitVec.toInt_signExtend_of_le h

theorem add_eq_ofInt (a b : Word) : a + b = BitVec.ofInt 64 (a.toInt + b.toInt) := by simp [BitVec.ofInt_add]

theorem sub_eq_ofInt (a b : Word) : a - b = BitVec.ofInt 64 (a.toInt - b.toInt) := by
  apply BitVec.eq_of_toInt_eq
  simp [BitVec.toInt_sub]

theorem mul_eq_ofInt (a b : Word) : a * b = BitVec.ofInt 64 (a.toInt * b.toInt) := by simp [BitVec.ofInt_mul]

theorem eq_ofNat_of_toNat {a : Word} {n : Nat} (h : a.toNat = n) : a = BitVec.ofNat 64 n := by subst h; simp

theorem shl_eq_ofNat (a : Word) (k : Nat) : a <<< k = BitVec.ofNat 64 (a.toNat * 2 ^ k) := by
  apply BitVec.eq_of_toNat_eq
  simp [Nat.shiftLeft_eq]

theorem shr_eq_ofNat (a : Word) (k : Nat) : a >>> k = BitVec.ofNat 64 (a.toNat / 2 ^ k) :=
  eq_ofNat_of_toNat (by simp [Nat.shiftRight_eq_div_pow])

theorem sshiftRight_eq_ofInt (a : Word) (k : Nat) : a.sshiftRight k = BitVec.ofInt 64 (a.toInt / 2 ^ k) := by
  have h : (a.sshiftRight k).toInt = a.toInt / 2 ^ k := by simp [BitVec.toInt_sshiftRight, Int.shiftRight_eq_div_pow]
  rw [← h, BitVec.ofInt_toInt]

theorem sMin_eq_ofInt (a b : Word) :
    sMinMax false 64 a b = BitVec.ofInt 64 (if a.toInt < b.toInt then a.toInt else b.toInt) := by
  apply BitVec.eq_of_toInt_eq
  unfold sMinMax
  split <;> split <;> simp_all <;> omega

theorem sMax_eq_ofInt (a b : Word) :
    sMinMax true 64 a b = BitVec.ofInt 64 (if a.toInt < b.toInt then b.toInt else a.toInt) := by
  apply BitVec.eq_of_toInt_eq
  unfold sMinMax
  split <;> split <;> simp_all <;> omega

theorem uMin_eq_ofNat (a b : Word) :
    uMinMax false 64 a b = BitVec.ofNat 64 (if a.toNat < b.toNat then a.toNat else b.toNat) := by
  apply eq_ofNat_of_toNat
  unfold uMinMax
  split <;> split <;> simp_all <;> omega

theorem uMax_eq_ofNat (a b : Word) :
    uMinMax true 64 a b = BitVec.ofNat 64 (if a.toNat < b.toNat then b.toNat else a.toNat) := by
  apply eq_ofNat_of_toNat
  unfold uMinMax
  split <;> split <;> simp_all <;> omega

theorem boolWord_eq_one (p : Prop) [Decidable p] : boolWord (decide p) = one p := by simp [boolWord, one]

theorem addx_eq_ofNat (a b : Word) (k : Nat) : a + b <<< k = BitVec.ofNat 64 (a.toNat + b.toNat * 2 ^ k) := by
  apply BitVec.eq_of_toNat_eq
  simp [Nat.shiftLeft_eq, BitVec.toNat_add]

theorem bitExtract_eq_ofNat (a b : Word) : bitExtract a b = BitVec.ofNat 64
    (a.toNat / 2 ^ (b.toNat % 64) % 2 ^ (if 64 < b.toNat / 256 % 128 then 64 else b.toNat / 256 % 128)) := by
  have hwidth : (bits b 8 7).toNat = b.toNat / 256 % 128 := by simp [bits, Nat.shiftRight_eq_div_pow]
  have hmin : min (b.toNat / 256 % 128) 64 = if 64 < b.toNat / 256 % 128 then 64 else b.toNat / 256 % 128 := by
    split <;> omega
  simp only [bitExtract, w64, shAmt_eq, hwidth, hmin, BitVec.toNat_ushiftRight, Nat.shiftRight_eq_div_pow]

/-- A number scaled by a power of two, brought into the signed range that is scaled alike. -/
theorem bmod_scale (x : Int) (k n : Nat) : (x * 2 ^ k).bmod (2 ^ (n + 1 + k)) = x.bmod (2 ^ (n + 1)) * 2 ^ k := by
  have hpos : (0 : Int) < 2 ^ k := by positivity
  obtain ⟨hlo, hhi, hdvd⟩ := (Int.bmod_eq_iff (a := x) (b := 2 ^ (n + 1)) (by positivity)).1 rfl
  refine (Int.bmod_eq_iff (by positivity)).2 ?_
  push_cast [pow_succ, pow_add] at hlo hhi hdvd ⊢
  have hhalf : ∀ y : Int, y * 2 / 2 = y := fun y => by omega
  have hhalf' : ∀ y : Int, (y * 2 + 1) / 2 = y := fun y => by omega
  rw [show (2 : Int) ^ n * 2 * 2 ^ k = 2 ^ n * 2 ^ k * 2 by ring, hhalf, hhalf']
  rw [hhalf] at hlo
  rw [hhalf'] at hhi
  refine ⟨by nlinarith, by nlinarith, ?_⟩
  obtain ⟨c, hc⟩ := hdvd
  exact ⟨c, by rw [← sub_mul, hc]; ring⟩

theorem signFrom_eq_ofInt (a : Word) (n : Nat) : signFrom a n = BitVec.ofInt 64 ((a.toNat : Int).bmod (2 ^ n)) := by
  unfold signFrom
  obtain rfl | hn | hn : n = 0 ∨ 64 ≤ n ∨ 0 < n ∧ n < 64 := by omega
  · simp
  · have hdvd : 2 ^ 64 ∣ 2 ^ n := Nat.pow_dvd_pow 2 hn
    apply BitVec.eq_of_toInt_eq
    rw [BitVec.toInt_ofInt, Int.bmod_bmod_of_dvd hdvd, ← BitVec.toInt_eq_toNat_bmod, Nat.sub_eq_zero_of_le hn]
    simp
  · obtain ⟨hpos, hlt⟩ := hn
    have hscale := bmod_scale a.toNat (64 - n) (n - 1)
    rw [show n - 1 + 1 + (64 - n) = 64 by omega, show n - 1 + 1 = n by omega] at hscale
    rw [sshiftRight_eq_ofInt, BitVec.toInt_shiftLeft, Nat.shiftLeft_eq]
    rw [Nat.cast_mul, Nat.cast_pow, Nat.cast_ofNat, hscale, Int.mul_ediv_cancel _ (by positivity)]

theorem bitLen_le_iff {n j : Nat} : bitLen n ≤ j ↔ n < 2 ^ j := by
  unfold bitLen
  split
  next h => simp [h]
  next h => exact Nat.log2_lt h

theorem countP_range_ge (k n : Nat) : (List.range n).countP (fun j => decide (k ≤ j)) = n - k := by
  induction n with
  | zero => simp
  | succ n ih =>
    rw [List.range_succ, List.countP_append, ih, List.countP_singleton]
    by_cases h : k ≤ n <;> simp [h] <;> omega

theorem leadingZeros_eq_countP (a : Word) : leadingZeros a = (List.range 64).countP fun j => decide (a.toNat < 2 ^ j) := by
  simp only [leadingZeros, ← bitLen_le_iff, countP_range_ge]

theorem onesBelow_eq_countP (a : Word) (n : Nat) : onesBelow a n = (List.range n).countP fun j => a.getLsbD j := by
  induction n with
  | zero => rfl
  | succ n ih => rw [onesBelow, ih, List.range_succ, List.countP_append, List.countP_singleton]

theorem lih_eq_ofNat (a : Word) (imm : BitVec 32) :
    imm ++ bits a 0 32 = BitVec.ofNat 64 (imm.toNat * 2 ^ 32 + a.toNat % 2 ^ 32) := by
  apply eq_ofNat_of_toNat
  have hlow : (bits a 0 32).toNat = a.toNat % 2 ^ 32 := by simp [bits]
  rw [BitVec.toNat_append, hlow, ← Nat.shiftLeft_add_eq_or_of_lt (Nat.mod_lt _ (by decide)), Nat.shiftLeft_eq]

/-! ### The forms of the uniform slot -/

section Forms
variable {ins : Instr} (s : State)

theorem State.toS_congr (s : State) (sd : BitVec 5) {f g : Thread → Word} (h : ∀ t, f t = g t) : s.toS sd f = s.toS sd g :=
  congrArg (s.toS sd) (funext h)

theorem State.toQ_congr (s : State) (qd : BitVec 3) {f g : Thread → Bool} (h : ∀ t, f t = g t) : s.toQ qd f = s.toQ qd g :=
  congrArg (s.toQ qd) (funext h)

theorem exec_registerForm {sd : BitVec 5} {f : Thread → Word} (h : registerForm ins = some (sd, f)) :
    exec ins s = s.toS sd f := by
  unfold registerForm at h
  split at h <;> cases h
  next => exact s.toS_congr _ fun _ => add_eq_ofInt _ _
  next => exact s.toS_congr _ fun _ => sub_eq_ofInt _ _
  next => exact s.toS_congr _ fun _ => mul_eq_ofInt _ _
  next => rfl
  next => rfl
  next => exact s.toS_congr _ fun _ => eq_ofNat_of_toNat (BitVec.toNat_and _ _)
  next => exact s.toS_congr _ fun _ => eq_ofNat_of_toNat (BitVec.toNat_or _ _)
  next => exact s.toS_congr _ fun _ => eq_ofNat_of_toNat (BitVec.toNat_xor _ _)
  next => exact s.toS_congr _ fun _ => shAmt_eq _ ▸ shl_eq_ofNat _ _
  next => exact s.toS_congr _ fun _ => shAmt_eq _ ▸ shr_eq_ofNat _ _
  next => exact s.toS_congr _ fun _ => shAmt_eq _ ▸ sshiftRight_eq_ofInt _ _
  next => exact s.toS_congr _ fun _ => sMin_eq_ofInt _ _
  next => exact s.toS_congr _ fun _ => sMax_eq_ofInt _ _
  next => exact s.toS_congr _ fun _ => uMin_eq_ofNat _ _
  next => exact s.toS_congr _ fun _ => uMax_eq_ofNat _ _
  next => exact s.toS_congr _ fun _ => boolWord_eq_one _
  next => exact s.toS_congr _ fun _ => boolWord_eq_one _
  next => exact s.toS_congr _ fun _ => addx_eq_ofNat _ _ _
  next => exact s.toS_congr _ fun _ => bitExtract_eq_ofNat _ _

/-- An immediate of ten bits gives its own low six bits as a shift amount (R81). -/
theorem shAmt_zx (imm : BitVec 10) : shAmt (zx imm) = imm.toNat % 64 := by rw [shAmt_eq, zx_toNat (by decide)]

theorem add_sx_eq_ofInt {n : Nat} (hn : n ≤ 64) (a : Word) (imm : BitVec n) :
    a + sx imm = BitVec.ofInt 64 (a.toInt + imm.toInt) := by rw [add_eq_ofInt, sx_toInt hn]

theorem exec_immediateForm {sd : BitVec 5} {f : Thread → Word} (h : immediateForm ins = some (sd, f)) :
    exec ins s = s.toS sd f := by
  have ten {imm : BitVec 10} : (zx imm).toNat = imm.toNat := zx_toNat (by decide) imm
  unfold immediateForm at h
  split at h <;> cases h
  next => exact s.toS_congr _ fun _ => add_sx_eq_ofInt (by decide) _ _
  next => exact s.toS_congr _ fun _ => eq_ofNat_of_toNat ((BitVec.toNat_and _ _).trans (congrArg (_ &&& ·) ten))
  next => exact s.toS_congr _ fun _ => eq_ofNat_of_toNat ((BitVec.toNat_or _ _).trans (congrArg (_ ||| ·) ten))
  next => exact s.toS_congr _ fun _ => eq_ofNat_of_toNat ((BitVec.toNat_xor _ _).trans (congrArg (_ ^^^ ·) ten))
  next => exact s.toS_congr _ fun _ => shAmt_zx _ ▸ shl_eq_ofNat _ _
  next => exact s.toS_congr _ fun _ => shAmt_zx _ ▸ shr_eq_ofNat _ _
  next => exact s.toS_congr _ fun _ => shAmt_zx _ ▸ sshiftRight_eq_ofInt _ _
  next => exact s.toS_congr _ fun _ => signFrom_eq_ofInt _ _
  next => exact s.toS_congr _ fun _ => congrArg w64 (leadingZeros_eq_countP _)
  next => exact s.toS_congr _ fun _ => congrArg w64 (onesBelow_eq_countP _ _)
  next => rfl
  next => exact s.toS_congr _ fun _ => lih_eq_ofNat _ _
  next => exact s.toS_congr _ fun _ => add_sx_eq_ofInt (by decide) _ _

theorem bne_eq_decide (a b : Word) : (a != b) = decide (a.toNat ≠ b.toNat) := by
  rw [Bool.eq_iff_iff]
  simp [BitVec.toNat_inj]

theorem slt_sx_eq_decide (a : Word) (imm : BitVec 10) : a.slt (sx imm) = decide (a.toInt < imm.toInt) := by
  rw [BitVec.slt, sx_toInt (by decide)]

theorem exec_predicateForm {qd : BitVec 3} {f : Thread → Bool} (h : predicateForm ins = some (qd, f)) :
    exec ins s = s.toQ qd f := by
  have eq_iff (a b : Word) : a = b ↔ a.toNat = b.toNat := BitVec.toNat_inj.symm
  have eq_sx_iff (a : Word) (imm : BitVec 10) : a = sx imm ↔ a.toInt = imm.toInt := by
    rw [← sx_toInt (by decide) imm, BitVec.toInt_inj]
  unfold predicateForm at h
  split at h <;> cases h
  next => exact s.toQ_congr _ fun _ => decide_eq_decide.2 (eq_iff _ _)
  next => exact s.toQ_congr _ fun _ => bne_eq_decide _ _
  next => rfl
  next => rfl
  next => rfl
  next => rfl
  next => exact s.toQ_congr _ fun _ => decide_eq_decide.2 (eq_sx_iff _ _)
  next => exact s.toQ_congr _ fun _ => slt_sx_eq_decide _ _
  next => rfl
  next => rfl
  next => exact s.toQ_congr _ fun _ => Bool.bne_eq_xor ▸ rfl
  next => rfl

end Forms
end Sys2Proof.Machine

namespace Sys2Proof.Claims
open Sys2Proof.Machine

theorem uniformRegisterForms : UniformRegisterForms := fun s _ _ _ sd f h hform =>
  exec_registerForm s hform ▸ State.toS_lands h sd f

theorem uniformImmediateForms : UniformImmediateForms := fun s _ _ _ sd f h hform =>
  exec_immediateForm s hform ▸ State.toS_lands h sd f

theorem uniformPredicates : UniformPredicates := fun s _ _ _ qd f h hform =>
  exec_predicateForm s hform ▸ State.toQ_lands h qd f

/-- Settles O1: each form runs as its table's value, written to the destination alone. -/
theorem uniformSlot : Obligations.UniformSlot := ⟨uniformRegisterForms, uniformImmediateForms, uniformPredicates⟩

end Sys2Proof.Claims

namespace Sys2Proof.Machine
open Sys2Proof.Claims

/-! ### Branches and loops (R86, R88 to R90) -/

theorem and_mask48_toNat (a : Word) : (a &&& 0x0000FFFFFFFFFFFF).toNat = a.toNat % 2 ^ 48 :=
  Nat.and_two_pow_sub_one_eq_mod a.toNat 48

theorem branchTarget_eq (pc : Word) (imm : BitVec 32) :
    branchTarget pc imm = BitVec.ofNat 64 ((((pc.toNat : Int) + imm.toInt) % 2 ^ 48).toNat) := by
  apply eq_ofNat_of_toNat
  have hsum : ((pc + sx imm).toNat : Int) % 2 ^ 48 = (pc.toNat + imm.toInt) % 2 ^ 48 := by
    rw [← sx_toInt (by decide) imm, BitVec.toNat_add, BitVec.toInt_eq_toNat_cond]
    split <;> push_cast <;> omega
  rw [branchTarget, and_mask48_toNat, ← hsum]
  rfl

theorem low3_eq_zero_iff (a : Word) : bits a 0 3 = 0 ↔ a.toNat % 8 = 0 := by
  simp [bits, ← BitVec.toNat_inj]

theorem high16_eq_zero_iff (a : Word) : bits a 48 16 = 0 ↔ a.toNat < 2 ^ 48 := by
  have := a.isLt
  simp [bits, ← BitVec.toNat_inj, Nat.shiftRight_eq_div_pow]
  omega

section Target
variable {a : Word}

theorem targetTrap_of_misaligned (h : a.toNat % 8 ≠ 0) : targetTrap a = some causeAlign := by
  rw [targetTrap, if_pos (mt (low3_eq_zero_iff a).1 h)]

theorem targetTrap_of_high (h8 : a.toNat % 8 = 0) (h48 : 2 ^ 48 ≤ a.toNat) : targetTrap a = some causeProt := by
  rw [targetTrap, if_neg (not_not.2 ((low3_eq_zero_iff a).2 h8)), if_pos (mt (high16_eq_zero_iff a).1 (not_lt.2 h48))]

theorem targetTrap_of_word (h8 : a.toNat % 8 = 0) (h48 : a.toNat < 2 ^ 48) : targetTrap a = none := by
  rw [targetTrap, if_neg (not_not.2 ((low3_eq_zero_iff a).2 h8)), if_neg (not_not.2 ((high16_eq_zero_iff a).2 h48))]

end Target

theorem bits_3_45_toNat (a : Word) : (bits a 3 45).toNat = loopBits a := by
  simp [bits, loopBits, Nat.shiftRight_eq_div_pow]

theorem loopBits_beq (a b : Word) : (bits a 3 45 == bits b 3 45) = decide (loopBits a = loopBits b) := by
  simp [beq_eq_decide, ← BitVec.toNat_inj, bits_3_45_toNat]

theorem SysRegs.loopBack_eq_loopCheck (r : SysRegs) (pc : Word) : r.loopBack pc = loopCheck r pc := by
  simp [SysRegs.loopBack, loopCheck, SysRegs.lc, SysRegs.le, loopBits_beq]

/-- A word address below 2^48 keeps all its bits as a loop address (R88). -/
theorem and_loopMask_of_word {a : Word} (h8 : a.toNat % 8 = 0) (h48 : a.toNat < 2 ^ 48) : a &&& 0x0000FFFFFFFFFFF8 = a := by
  apply BitVec.eq_of_toNat_eq
  have hshift : a.toNat = (a.toNat / 8) <<< 3 := by rw [Nat.shiftLeft_eq]; omega
  have hlow : a.toNat / 8 % 2 ^ 45 = a.toNat / 8 := Nat.mod_eq_of_lt (by omega)
  calc a.toNat &&& 0x0000FFFFFFFFFFF8
    _ = (a.toNat / 8) <<< 3 &&& (2 ^ 45 - 1) <<< 3 := by rw [← hshift]; rfl
    _ = (a.toNat / 8 &&& (2 ^ 45 - 1)) <<< 3 := (Nat.shiftLeft_and_distrib ..).symm
    _ = a.toNat := by rw [Nat.and_two_pow_sub_one_eq_mod, hlow, ← hshift]

theorem and_mask48_of_lt {a : Word} (h48 : a.toNat < 2 ^ 48) : a &&& 0x0000FFFFFFFFFFFF = a :=
  BitVec.eq_of_toNat_eq ((and_mask48_toNat a).trans (Nat.mod_eq_of_lt h48))

theorem sx_eq_zx_of_pos {imm : BitVec 32} (h : 0 < imm.toInt) : sx imm = zx imm := by
  refine BitVec.signExtend_eq_setWidth_of_msb_false ?_
  rw [BitVec.msb_eq_toInt]
  exact decide_eq_false (by omega)

end Sys2Proof.Machine

namespace Sys2Proof.Claims
open Sys2Proof.Machine

theorem branches : Branches := by
  intro s i t h target
  have hcur := (State.current_eq_some.1 h).1
  have htarget : ∀ imm, branchTarget i.pc imm = target imm := branchTarget_eq i.pc
  refine ⟨fun imm => ?_, fun sd imm => ?_, fun sa => ?_⟩
  · change LandsAt s i (execBr imm s) t _
    rw [← htarget, execBr, State.word_of_current h]
    exact landsAt_jump h _
  · change ∃ t', _ ∧ LandsAt s i (execCall sd imm s) t' _
    rw [← htarget, execCall, State.word_of_current h]
    exact ⟨_, t.writeS_wroteS sd (i.pc + 8), landsAt_setThread hcur _ _⟩
  · intro a
    have hexec : exec (.jr sa) s = .next (match targetTrap a with
        | some c => s.precise i t c a
        | none => s.jump a) := State.word_of_current h _
    rw [hexec]
    refine ⟨fun hodd => ?_, fun h8 h48 => ?_, fun h8 h48 => ?_⟩
    · rw [targetTrap_of_misaligned hodd]
    · rw [targetTrap_of_high h8 h48]
    · rw [targetTrap_of_word h8 h48]
      exact landsAt_jump h a

end Sys2Proof.Claims

namespace Sys2Proof.Machine
open Sys2Proof.Claims

/-- The loop registers as a `loop` word at an aligned address sets them: no bit of its addresses is lost (R88, R89). -/
theorem SysRegs.setLoop_of_words (r : SysRegs) (n : Bool) (c : Word) {ls le : Word} (hls : ls &&& 0x0000FFFFFFFFFFF8 = ls)
    (hle : le &&& 0x0000FFFFFFFFFFF8 = le) : r.setLoop n c ls le =
    if n then { r with lc1 := c, ls1 := ls, le1 := le } else { r with lc0 := c, ls0 := ls, le0 := le } := by
  simp only [SysRegs.setLoop, hls, hle]

section Loop
variable {s : State} {i : Issue} {t : Thread} (n : Bool) (sa : BitVec 5) (imm : BitVec 32) (h : s.current = some (i, t))
include h

theorem exec_loop_active (hactive : t.sys.lc n ≠ 0) :
    exec (.loop n sa imm) s = .next (s.precise i t causeLoop (t.sys.le n)) := by
  change execLoop n sa imm s = _
  rw [execLoop, State.word_of_current h, if_pos hactive]

/-- A `loop` whose loop is idle sets its registers, and goes past its body when the count is 0 (R89). -/
theorem exec_loop_idle (hidle : t.sys.lc n = 0) (hpos : 0 < imm.toInt) (hend : (i.pc + zx imm + 8).toNat < 2 ^ 48) :
    let t' := { t with sys := t.sys.setLoop n (t.readS sa) (i.pc + 8) (i.pc + zx imm) }
    if t.readS sa = 0 then LandsAt s i (exec (.loop n sa imm) s) t' (i.pc + zx imm + 8)
    else Lands s i.place (exec (.loop n sa imm) s) t' := by
  intro t'
  have hexec : exec (.loop n sa imm) s = .next (
      if t.readS sa = 0 then (s.setThread i.place t').jump (i.pc + zx imm + 8) else s.setThread i.place t') := by
    change execLoop n sa imm s = _
    rw [execLoop, State.word_of_current h, if_neg (not_not.2 hidle), sx_eq_zx_of_pos hpos, and_mask48_of_lt hend]
  rw [hexec]
  split
  · exact landsAt_setThread (State.current_eq_some.1 h).1 t' _
  · exact lands_setThread s i.place t'

end Loop

end Sys2Proof.Machine

namespace Sys2Proof.Claims
open Sys2Proof.Machine

theorem loopWord : LoopWord := by
  intro s i t sa imm h hpc8 hpc48 himm8 hpos hend
  have hbody : (i.pc + zx imm).toNat = i.pc.toNat + imm.toNat := by
    rw [BitVec.toNat_add, zx_toNat (by decide)]
    omega
  have hfirst : (i.pc + 8).toNat = i.pc.toNat + 8 := by
    rw [BitVec.toNat_add]
    exact Nat.mod_eq_of_lt (by simp; omega)
  have hafter : (i.pc + zx imm + 8).toNat < 2 ^ 48 := by
    rw [BitVec.toNat_add, hbody]
    exact (Nat.mod_le _ _).trans_lt (by simpa using hend)
  have hset := fun n => t.sys.setLoop_of_words n (t.readS sa) (and_loopMask_of_word (a := i.pc + 8) (by omega) (by omega))
    (and_loopMask_of_word (a := i.pc + zx imm) (by omega) (by omega))
  have hidle := fun n hlc => hset n ▸ exec_loop_idle n sa imm h hlc hpos hafter
  exact ⟨exec_loop_active false sa imm h, hidle false, exec_loop_active true sa imm h, hidle true⟩

end Sys2Proof.Claims

/-! ### The end of an issue cycle (R8, R43, R90) -/

namespace Sys2Proof.Machine
open Sys2Proof.Claims

section Ends
variable {s : State} {i : Issue} {t : Thread} (ws : List Nat) (h : s.current = some (i, t))
include h

theorem State.finishIssue_moved (hmoved : i.moved = true) : s.finishIssue ws = { s with cur := none } := by
  simp [State.finishIssue, h, hmoved]

theorem State.finishIssue_acted (hmoved : i.moved = false) :
    s.finishIssue ws = { s.setThread i.place (t.advance i ws) with cur := none } := by
  simp [State.finishIssue, h, hmoved]

theorem State.finishIssue_onlyThread : OnlyThread s (s.finishIssue ws) i.place := by
  cases hmoved : i.moved with
  | true =>
    rw [State.finishIssue_moved ws h hmoved]
    exact ⟨rfl, fun _ _ => rfl, rfl, fun _ => rfl⟩
  | false =>
    rw [State.finishIssue_acted ws h hmoved]
    exact s.onlyThread_setThread i.place _

theorem State.finishIssue_cur : (s.finishIssue ws).cur = none := by
  cases hmoved : i.moved with
  | true => rw [State.finishIssue_moved ws h hmoved]
  | false => rw [State.finishIssue_acted ws h hmoved]

theorem State.finishIssue_thread (hmoved : i.moved = false) : (s.finishIssue ws).thread? i.place = some (t.advance i ws) := by
  rw [State.finishIssue_acted ws h hmoved]
  exact State.thread_setThread_same s i.place _

end Ends

end Sys2Proof.Machine

namespace Sys2Proof.Claims
open Sys2Proof.Machine

theorem issueEnds : IssueEnds := by
  intro s i t ws h u tags
  obtain ⟨-, ht⟩ := State.current_eq_some.1 h
  have htags : (t.tags.map fun g =>
      if ws.contains g.req then { g with count := g.count - 1 }
      else if g.la = 0 && !g.frozen && g.pc = i.pc && g.undo.isNone then { g with undo := some (t.sys.lc0, t.sys.lc1, ws) }
      else g) = tags := by
    simp [tags, and_assoc]
  refine ⟨State.finishIssue_cur ws h, State.finishIssue_onlyThread ws h, fun hmoved => ?_, fun hmoved a hnext => ?_,
    fun hmoved hnext => ?_⟩
  · rw [show u = _ from State.finishIssue_moved ws h hmoved]
    exact ht
  · rw [State.finishIssue_thread ws h hmoved]
    simp only [Thread.advance, hnext, htags]
  · rw [State.finishIssue_thread ws h hmoved]
    simp only [Thread.advance, hnext, htags, SysRegs.loopBack_eq_loopCheck]

/-- Settles O13: targets and loop addresses lose no bits, and an issue cycle ends with the loop-back check. -/
theorem controlFlow : Obligations.ControlFlow := ⟨branches, loopWord, issueEnds⟩

end Sys2Proof.Claims

namespace Sys2Proof.Machine
open Sys2Proof.Claims

/-! ### System registers (R76, R93, R94) -/

/-- The indices of R76's table, but for the history and TRAPSAVE. -/
def sysIndices : List Nat :=
  [0x00, 0x01, 0x02, 0x03, 0x04, 0x05, 0x06, 0x07, 0x08, 0x09, 0x0A, 0x0B, 0x0C, 0x0D, 0x0E, 0x0F, 0x10, 0x11, 0x12, 0x13, 0x15, 0x16,
   0x17, 0x18, 0x19, 0x1A, 0x1B, 0x1C, 0x1D, 0x1E, 0x20, 0x21]

theorem State.whereReg_eq (s : State) {p : Place} (hgen : (s.slot p).gen < 64) (hslot : p.slot < 16) (hcore : p.core < 16)
    (hdie : p.die < 672) : s.whereReg p =
      w64 ((p.die / 24) * 2 ^ 35 + (p.die % 24) * 2 ^ 30 + p.die * 2 ^ 14 + p.core * 2 ^ 10 + p.slot * 2 ^ 6 + (s.slot p).gen) := by
  have hwid : zx (s.widAt p) = w64 (p.die * 2 ^ 14 + p.core * 2 ^ 10 + p.slot * 2 ^ 6 + (s.slot p).gen) := by
    apply BitVec.eq_of_toNat_eq
    rw [zx_toNat (by decide), State.widAt, writerId, w64, BitVec.toNat_ofNat, BitVec.toNat_ofNat]
    omega
  simp only [State.whereReg, hwid, dieX, dieY, w64, ← BitVec.ofNat_add, Nat.add_assoc]

theorem State.readSys_history (s : State) (p : Place) (t : Thread) {k : Nat} (hk : k < 32) :
    s.readSys p t (0x40 + k) = t.sys.history.toList.getD k 0 := by
  obtain ⟨n, hn⟩ : ∃ n, n = 0x40 + k := ⟨_, rfl⟩
  rw [← hn]
  unfold State.readSys
  split
  case h_34 =>
    have hrange : (0x40 ≤ n && n ≤ 0x5F) = true := by simp; omega
    rw [if_pos hrange, hn, Nat.add_sub_cancel_left]
  all_goals omega

theorem boolWord_eq_ite (b : Bool) : boolWord b = if b = true then 1 else 0 := rfl

theorem zx_eq_w64 {n : Nat} (hn : n ≤ 64) (x : BitVec n) : zx x = w64 x.toNat := eq_ofNat_of_toNat (zx_toNat hn x)

/-- R76's table is what `mfs` reads at its indices. -/
theorem sysTable_eq (s : State) {p : Place} (t : Thread) (hgen : (s.slot p).gen < 64) (hslot : p.slot < 16)
    (hcore : p.core < 16) (hdie : p.die < 672) :
    sysTable s p t = (sysIndices ++ (List.range 32).map (0x40 + ·)).map fun n => (n, s.readSys p t n) := by
  rw [List.map_append, List.map_map]
  refine congrArg₂ (· ++ ·) ?_ (List.map_congr_left fun k hk => ?_)
  · simp only [sysIndices, List.map_cons, List.map_nil, State.readSys, s.whereReg_eq hgen hslot hcore hdie, Core.capOf,
      boolWord_eq_ite, zx_eq_w64 (show 2 ≤ 64 by decide)]
  · exact congrArg (Prod.mk _) (s.readSys_history p t (List.mem_range.1 hk)).symm

theorem sysIndices_bound : ∀ n ∈ sysIndices ++ (List.range 32).map (0x40 + ·), n ≠ 0x14 ∧ n < 2 ^ 32 := by decide

section Registers
variable {s : State} {i : Issue} {t : Thread} (h : s.current = some (i, t))
include h

theorem exec_mfs_trapsave (sd : BitVec 5) (hpriv : t.priv = false) :
    exec (.mfs sd 0x14) s = .next (s.precise i t causePriv 0x14) := by
  change execMfs sd 0x14 s = _
  rw [execMfs, State.word_of_current h, if_pos (by simp [hpriv])]

/-- `mfs` writes what its register reads, unless that is TRAPSAVE outside a PREEMPT handler (R93). -/
theorem exec_mfs_lands (sd : BitVec 5) (idx : BitVec 32) (hok : idx ≠ 0x14 ∨ t.priv = true) :
    ∃ t', WroteS t t' sd (s.readSys i.place t idx.toNat) ∧ Lands s i.place (exec (.mfs sd idx) s) t' := by
  have hexec : exec (.mfs sd idx) s = .next (s.setThread i.place (t.writeS sd (s.readSys i.place t idx.toNat))) := by
    change execMfs sd idx s = _
    rw [execMfs, State.word_of_current h, if_neg (by simpa [or_iff_not_imp_left] using hok)]
  exact ⟨_, t.writeS_wroteS sd _, hexec ▸ lands_setThread s i.place _⟩

theorem exec_mts_trapsave (sa : BitVec 5) (hpriv : t.priv = false) :
    exec (.mts sa 0x14) s = .next (s.precise i t causePriv 0x14) := by
  change execMts sa 0x14 s = _
  rw [execMts, State.word_of_current h, if_pos (by simp [hpriv])]

theorem exec_mts_lands (sa : BitVec 5) (idx : BitVec 32) (hok : idx ≠ 0x14 ∨ t.priv = true) (hcap : idx ≠ 0x16) :
    Lands s i.place (exec (.mts sa idx) s) { t with sys := t.sys.write idx.toNat (t.readS sa) } := by
  have hexec : exec (.mts sa idx) s = .next (s.setThread i.place { t with sys := t.sys.write idx.toNat (t.readS sa) }) := by
    change execMts sa idx s = _
    rw [execMts, State.word_of_current h, if_neg (by simpa [or_iff_not_imp_left] using hok), if_neg hcap]
  exact hexec ▸ lands_setThread s i.place _

theorem exec_mts_hodcap (sa : BitVec 5) : exec (.mts sa 0x16) s = .next (s.modCore i.place.die i.place.core fun x =>
    { x with hodcap := putKey t.ctx (clampCap (t.readS sa)) x.hodcap }) := by
  change execMts sa 0x16 s = _
  rw [execMts, State.word_of_current h]
  rfl

end Registers

theorem clampCap_bounds (x : Word) : 1 ≤ clampCap x ∧ clampCap x ≤ 1024 := by
  unfold clampCap
  dsimp only
  split <;> omega

theorem clampCap_of_bounds {x : Word} (hlo : 1 ≤ x.toNat) (hhi : x.toNat ≤ 1024) : clampCap x = x.toNat := by
  have hbits : (bits x 0 11).toNat = x.toNat := by
    rw [bits, BitVec.extractLsb'_toNat, Nat.shiftRight_zero]
    exact Nat.mod_eq_of_lt (by omega)
  simp only [clampCap, hbits]
  split <;> omega

theorem and_allOnes64 (x : Word) : x &&& 0xFFFFFFFFFFFFFFFF = x := BitVec.and_allOnes

/-- A register that `mts` writes keeps its bits (R9, R94). -/
theorem readSys_write_same (s : State) (p : Place) (t : Thread) (x : Word) {e : Nat × Word} (he : e ∈ writableMask) :
    s.readSys p { t with sys := t.sys.write e.1 x } e.1 = x &&& e.2 := by
  simp only [writableMask, List.mem_cons, List.not_mem_nil, or_false] at he
  rcases he with rfl | rfl | rfl | rfl | rfl | rfl | rfl | rfl | rfl | rfl | rfl | rfl | rfl | rfl | rfl <;>
    simp only [State.readSys, SysRegs.write, and_allOnes64]

/-- Every register but the one that `mts` writes reads as before (R94). -/
theorem readSys_write_other (s : State) (p : Place) (t : Thread) (x : Word) {e : Nat × Word} (he : e ∈ writableMask) {k : Nat}
    (hk : k ≠ e.1) : s.readSys p { t with sys := t.sys.write e.1 x } k = s.readSys p t k := by
  simp only [writableMask, List.mem_cons, List.not_mem_nil, or_false] at he
  rcases he with rfl | rfl | rfl | rfl | rfl | rfl | rfl | rfl | rfl | rfl | rfl | rfl | rfl | rfl | rfl <;>
    (unfold State.readSys; split <;> simp [SysRegs.write] at hk ⊢)

theorem writableMask_bound : ∀ e ∈ writableMask, BitVec.ofNat 32 e.1 ≠ 0x14 ∧ BitVec.ofNat 32 e.1 ≠ 0x16 ∧ e.1 < 2 ^ 32 := by
  decide

end Sys2Proof.Machine

namespace Sys2Proof.Claims
open Sys2Proof.Machine

theorem readSystemRegister : ReadSystemRegister := by
  intro s i t sd h hgen hslot hcore hdie
  refine ⟨fun e he => ?_, exec_mfs_trapsave h sd, fun hpriv => exec_mfs_lands h sd 0x14 (.inr hpriv)⟩
  rw [sysTable_eq s t hgen hslot hcore hdie] at he
  obtain ⟨n, hn, rfl⟩ := List.mem_map.1 he
  obtain ⟨hne, hlt⟩ := sysIndices_bound n hn
  have hidx : (BitVec.ofNat 32 n).toNat = n := Nat.mod_eq_of_lt hlt
  have hland := exec_mfs_lands h sd (BitVec.ofNat 32 n) (.inl fun he => hne (hidx ▸ congrArg BitVec.toNat he))
  rwa [hidx] at hland

theorem writeSystemRegister : WriteSystemRegister := by
  intro s i t sa h x
  refine ⟨fun e he => ?_, exec_mts_trapsave h sa, fun hpriv => exec_mts_lands h sa 0x14 (.inr hpriv) (by decide), ?_⟩
  · obtain ⟨hsave, hcap, hlt⟩ := writableMask_bound e he
    have hidx : (BitVec.ofNat 32 e.1).toNat = e.1 := Nat.mod_eq_of_lt hlt
    have hland := exec_mts_lands h sa (BitVec.ofNat 32 e.1) (.inl hsave) hcap
    rw [hidx] at hland
    exact ⟨_, hland, rfl, readSys_write_same s i.place t x he, fun k hk => readSys_write_other s i.place t x he hk⟩
  · obtain ⟨hlo, hhi⟩ := clampCap_bounds x
    refine ⟨_, exec_mts_hodcap h sa, rfl, fun d c hdc => State.core_setCore_other s hdc _, ?_, fun k hk => ?_, ?_⟩
    · rw [State.core_modCore_same]
    · rw [State.core_modCore_same]
      exact lookupD_putKey_other _ hk _ _
    · rw [State.core_modCore_same, lookupD_putKey_same]
      exact ⟨hlo, hhi, clampCap_of_bounds⟩

/-- Settles O14: a system register reads as R76's table says, and a write keeps its own bits alone. -/
theorem systemRegisters : Obligations.SystemRegisters := ⟨readSystemRegister, writeSystemRegister⟩

end Sys2Proof.Claims

namespace Sys2Proof.Machine
open Sys2Proof.Claims

/-! ### What holds a thread (R97, R142, R159, R343) -/

theorem Out.keepsRelease_iff (o : Out) (course : BitVec 128) (masks : List (BitVec 16)) :
    o.keepsRelease course masks = true ↔ releaseWaits o course masks := by
  unfold Out.keepsRelease releaseWaits
  cases o.cls <;> cases o.core <;> simp

theorem Out.keepsAcquire_iff (o : Out) : o.keepsAcquire = true ↔ acquireWaits o := by
  unfold Out.keepsAcquire acquireWaits
  cases o.cls <;> simp

/-- A fence is complete once no earlier access of its thread keeps the release or the acquire it is waiting (R159). -/
theorem State.fenceDone_iff (s : State) (uid : Nat) (rel acq : Bool) (course : BitVec 128) (masks : List (BitVec 16))
    (upto : Nat) : s.fenceDone uid rel acq course masks upto = true ↔ ∀ o ∈ s.outs, o.owner = uid → o.req < upto →
      (rel = true → ¬ releaseWaits o course masks) ∧ (acq = true → ¬ acquireWaits o) := by
  simp only [State.fenceDone, List.all_eq_true, ← Out.keepsRelease_iff, ← Out.keepsAcquire_iff, Bool.not_eq_true',
    Bool.and_eq_false_imp, Bool.and_eq_true, decide_eq_true_eq, Bool.or_eq_false_iff, Bool.not_eq_true, and_imp]

theorem State.ready_of_halted {s : State} {p : Place} {t : Thread} (ht : s.thread? p = some t) (h : t.halted = true) :
    s.ready p = false := by
  simp [State.ready, State.unheld, ht, h]

/-- The other slots of a core that are ready as a `yield` issues (R97). -/
def State.readyOthers (s : State) (p : Place) : List Nat :=
  (List.range 16).filter fun k => k ≠ p.slot && s.ready ⟨p.die, p.core, k⟩

theorem State.mem_readyOthers {s : State} {p : Place} {k : Nat} :
    k ∈ s.readyOthers p ↔ k < 16 ∧ k ≠ p.slot ∧ s.ready ⟨p.die, p.core, k⟩ = true := by
  simp [State.readyOthers]

/-- The hold of a `fence` with the course entry it reads (R142, R159). -/
def State.fenceHold (s : State) (p : Place) (t : Thread) (k : FenceKind) (e : BitVec 5) : Hold :=
  let c := s.courseOf p.die t.ctx e.toNat
  .fence (k != .acq) (k != .rel) c.1 c.2 s.nextId

section Holding
variable {s : State} {i : Issue} {t : Thread} (h : s.current = some (i, t))
include h

theorem exec_fence (k : FenceKind) (e : BitVec 5) :
    exec (.fence k e) s = .next (s.setThread i.place { t with hold := s.fenceHold i.place t k e }) := State.word_of_current h _

theorem exec_yield :
    exec .yield s = .next (s.setThread i.place { t with hold := .yielded (s.cycle + 16) (s.readyOthers i.place) }) :=
  State.word_of_current h _

theorem exec_halt : exec .halt s = .next (s.setThread i.place { t with halted := true }) := State.wordRegs_of_current h _

end Holding

theorem exec_yieldRelease {s : State} {p : Place} {t : Thread} {c : Nat} {ks : List Nat} (ht : s.thread? p = some t)
    (hhold : t.hold = .yielded c ks) : exec (.yieldRelease p) s =
    .next (if c ≤ s.cycle ∧ ∀ k ∈ ks, s.thread? ⟨p.die, p.core, k⟩ = none then s.setThread p { t with hold := .none } else s) := by
  change execYieldRelease p s = _
  simp only [execYieldRelease, ht, hhold, Bool.and_eq_true, decide_eq_true_eq, List.all_eq_true, Option.isNone_iff_eq_none]
  exact (apply_ite _ _ _ _).symm

end Sys2Proof.Machine

namespace Sys2Proof.Claims
open Sys2Proof.Machine

theorem fenceYieldHalt : FenceYieldHalt := by
  intro s i t h
  refine ⟨fun k e => ⟨{ t with hold := s.fenceHold i.place t k e }, _, rfl, exec_fence h k e ▸ lands_setThread s i.place _,
      exec_fence h k e, fun w => ?_⟩,
    ⟨_, exec_yield h ▸ lands_setThread s i.place _, fun k => State.mem_readyOthers⟩,
    exec_halt h ▸ lands_setThread s i.place _, fun u hu => ?_⟩
  · refine (w.fenceDone_iff t.uid (k != .acq) (k != .rel) _ _ s.nextId).trans ?_
    simp only [bne_iff_ne]
  · cases (exec_halt h).symm.trans hu
    exact State.ready_of_halted (State.thread_setThread_same s i.place _) rfl

theorem yieldReleases : YieldReleases := by
  intro s p t c ks ht hhold due
  rw [exec_yieldRelease ht hhold]
  refine ⟨fun hdue => ⟨_, congrArg _ (if_pos hdue), State.thread_setThread_same s p _, s.onlyThread_setThread p _⟩,
    fun hdue => congrArg _ (if_neg hdue)⟩

/-- Settles O16: a fence's hold, a yield's and a halt's end as their rules say. -/
theorem heldThreads : Obligations.HeldThreads := ⟨fenceYieldHalt, yieldReleases⟩

end Sys2Proof.Claims

namespace Sys2Proof.Machine
open Sys2Proof.Claims

/-! ### Leaving a slot (R25, R182, R231, R350) -/

theorem genAfter_of_none_away (g n : Nat) : genAfter [] g (n + 1) = some (nextGen g) := by simp [genAfter]

theorem nextGen_eq (g : Nat) : nextGen g = if g < 63 then g + 1 else 1 := by
  unfold nextGen
  split <;> split <;> omega

section FreeSlot
variable (s : State) (p : Place)

theorem State.freeSlot_thread : (s.freeSlot p).thread? p = none := by
  unfold State.freeSlot State.thread?
  dsimp only
  split
  · rw [State.slot_setSlot_same]
  · exact congrArg Slot.thread (State.slot_setSlot_same s p _)

theorem State.freeSlot_slot_other {r : Place} (hr : r ≠ p) : (s.freeSlot p).slot r = s.slot r := by
  unfold State.freeSlot
  dsimp only
  split
  · exact State.slot_setSlot_other s hr _
  · exact State.slot_setSlot_other s hr _

theorem State.freeSlot_frame : { s.freeSlot p with slots := s.slots, mgmt := s.mgmt } = s := by
  unfold State.freeSlot
  dsimp only
  split <;> rfl

theorem State.freeSlot_gen (h : (s.slot p).heldAway = []) : ((s.freeSlot p).slot p).gen = nextGen (s.slot p).gen := by
  simp only [State.freeSlot, h, genAfter_of_none_away, State.slot_setSlot_same]

theorem State.freeSlot_cur : (s.freeSlot p).cur = s.cur := congrArg (·.cur) (s.freeSlot_frame p)

theorem State.freeSlot_stopped : (s.freeSlot p).stopped = s.stopped := congrArg (·.stopped) (s.freeSlot_frame p)

end FreeSlot

/-- Two states that differ in what is logged, told, counted or kept of a thread that leaves, and in nothing else. -/
def State.LogsOnly (s x : State) : Prop := { x with bar0 := s.bar0, mgmt := s.mgmt, accs := s.accs } = s

theorem State.LogsOnly.trans {s x y : State} (hx : s.LogsOnly x) (hy : x.LogsOnly y) : s.LogsOnly y := by
  have hy' := congrArg (fun z : State => { z with bar0 := s.bar0, mgmt := s.mgmt, accs := s.accs }) hy
  exact hy'.trans hx

theorem State.LogsOnly.foldl {α : Type} {f : State → α → State} (hf : ∀ (x : State) a, x.LogsOnly (f x a)) (s : State) (l : List α) :
    s.LogsOnly (l.foldl f s) := foldl_inv (P := s.LogsOnly) f (fun x a h => h.trans (hf x a)) l s rfl

section Agree
variable {s x : State} (h : s.LogsOnly x) (p : Place)
include h

theorem State.LogsOnly.slot : x.slot p = s.slot p := congrArg (·.slot p) h

theorem State.LogsOnly.cur : x.cur = s.cur := congrArg (·.cur) h

theorem State.LogsOnly.stopped : x.stopped = s.stopped := congrArg (·.stopped) h

end Agree

theorem State.faultRecord_logsOnly (s : State) (ctx kind : Nat) (cause : BitVec 8) (writer : BitVec 24) (pc info : Word) :
    s.LogsOnly (s.faultRecord ctx kind cause writer pc info) := rfl

theorem State.tell_logsOnly (s : State) (e : MgmtEvent) : s.LogsOnly (s.tell e) := rfl

theorem State.finishCmd_logsOnly (s : State) (code status : BitVec 8) : s.LogsOnly (s.finishCmd code status) := by
  unfold State.finishCmd
  split <;> rfl

/-- The stop notice that a stopping thread leaves due (R182, R231). -/
def State.dueStop (s : State) (p : Place) (t : Thread) : List Stopped :=
  if t.stampedNow = true ∨ t.stampedAny = true then [⟨t.uid, t.former ++ [s.widAt p], t.ctx, p.die⟩] else []

/-- The state after a thread's late faults are recorded and its notices are told to management, as it stops (R231). -/
def State.reportStop (s : State) (p : Place) (t : Thread) : State :=
  t.notices.foldl (fun (x : State) _ => x.tell (.noticeDiscarded (s.widAt p)))
    (t.lateFaults.foldl (fun (x : State) f => x.faultRecord t.ctx 2 (bits f.1 0 8) (s.widAt p) 0 f.2.1) s)

theorem State.reportStop_logsOnly (s : State) (p : Place) (t : Thread) : s.LogsOnly (s.reportStop p t) :=
  (State.LogsOnly.foldl (fun x _ => x.faultRecord_logsOnly ..) s t.lateFaults).trans
    (State.LogsOnly.foldl (fun x _ => x.tell_logsOnly _) _ t.notices)

/-- The state with the accumulators of a stopping thread kept while an operation of it runs (R231). -/
def State.keepAccs (s : State) (t : Thread) : State :=
  if s.ops.any fun o => o.owner = t.uid then { s with accs := s.accs ++ [(t.uid, t.acc)] } else s

theorem State.keepAccs_logsOnly (s : State) (t : Thread) : s.LogsOnly (s.keepAccs t) := by
  unfold State.keepAccs
  split <;> rfl

/-- The state with the command answered that waits for a thread to be pre-empted, if one does (R345). -/
def State.answerPreempt (s : State) (t : Thread) : State := if t.preempt.isSome then s.finishCmd 6 4 else s

theorem State.answerPreempt_logsOnly (s : State) (t : Thread) : s.LogsOnly (s.answerPreempt t) := by
  unfold State.answerPreempt
  split
  · exact s.finishCmd_logsOnly 6 4
  · rfl

/-- A thread that stops leaves its stop notice due, is logged and counted, and its slot is freed (R182, R231). -/
theorem State.stopThread_frees (s : State) (p : Place) (t : Thread) : ∃ x y, s.LogsOnly x ∧
    State.LogsOnly { x with stopped := x.stopped ++ s.dueStop p t } y ∧ s.stopThread p t = y.freeSlot p := by
  refine ⟨s.reportStop p t, _, s.reportStop_logsOnly p t,
    (State.keepAccs_logsOnly _ t).trans (State.answerPreempt_logsOnly _ t), ?_⟩
  have hdue (x : State) : (if t.stampedNow || t.stampedAny then
      { x with stopped := x.stopped ++ [Stopped.mk t.uid (t.former ++ [s.widAt p]) t.ctx p.die] } else x) =
      { x with stopped := x.stopped ++ s.dueStop p t } := by
    simp only [State.dueStop, Bool.or_eq_true]
    split
    · rfl
    · rw [List.append_nil]
  simp only [State.stopThread]
  rw [hdue]
  rfl

/-- What becomes of a slot whose thread has stopped (R25, R182, R231). -/
theorem State.stopThread_effect (s : State) (p : Place) (t : Thread) (haway : (s.slot p).heldAway = []) :
    (s.stopThread p t).thread? p = none ∧ ((s.stopThread p t).slot p).gen = nextGen (s.slot p).gen ∧
      (∀ r, r ≠ p → (s.stopThread p t).slot r = s.slot r) ∧ (s.stopThread p t).cur = s.cur ∧
      (s.stopThread p t).stopped = s.stopped ++ s.dueStop p t := by
  obtain ⟨x, y, hx, hy, heq⟩ := s.stopThread_frees p t
  have hslot : ∀ r, y.slot r = s.slot r := fun r => (hy.slot r).trans (hx.slot r)
  rw [heq]
  refine ⟨y.freeSlot_thread p, ?_, fun r hr => ?_, ?_, ?_⟩
  · rw [y.freeSlot_gen p (hslot p ▸ haway), hslot]
  · rw [y.freeSlot_slot_other p hr, hslot]
  · rw [y.freeSlot_cur, hy.cur]
    exact hx.cur
  · rw [y.freeSlot_stopped, hy.stopped]
    exact congrArg (· ++ _) hx.stopped

/-- The state with a slot's id held away while its live thread, which made a stamped store, is elsewhere (R185). -/
def State.holdAway (s : State) (p : Place) (t : Thread) : State :=
  if t.stampedNow then s.setSlot p { s.slot p with heldAway := (s.slot p).heldAway ++ [(s.slot p).gen] } else s

theorem State.holdAway_effect (s : State) (p : Place) (t : Thread) : (∀ r, r ≠ p → (s.holdAway p t).slot r = s.slot r) ∧
    (s.holdAway p t).cur = s.cur ∧ (s.holdAway p t).stopped = s.stopped := by
  unfold State.holdAway
  split
  · exact ⟨fun r hr => State.slot_setSlot_other s hr _, rfl, rfl⟩
  · exact ⟨fun _ _ => rfl, rfl, rfl⟩

theorem State.leaveAlive_eq (s : State) (p : Place) (t : Thread) :
    s.leaveAlive p t = ((s.holdAway p t).answerPreempt t).freeSlot p := rfl

/-- A live thread that leaves its slot leaves no stop notice due (R185, R350). -/
theorem State.leaveAlive_effect (s : State) (p : Place) (t : Thread) : (s.leaveAlive p t).thread? p = none ∧
    (∀ r, r ≠ p → (s.leaveAlive p t).slot r = s.slot r) ∧ (s.leaveAlive p t).cur = s.cur ∧
    (s.leaveAlive p t).stopped = s.stopped := by
  obtain ⟨hslot, hcur, hstopped⟩ := s.holdAway_effect p t
  have hlogs := (s.holdAway p t).answerPreempt_logsOnly t
  rw [State.leaveAlive_eq]
  refine ⟨State.freeSlot_thread _ p, fun r hr => ?_, ?_, ?_⟩
  · rw [State.freeSlot_slot_other _ p hr, hlogs.slot, hslot r hr]
  · rw [State.freeSlot_cur, hlogs.cur, hcur]
  · rw [State.freeSlot_stopped, hlogs.stopped, hstopped]

end Sys2Proof.Machine

namespace Sys2Proof.Claims
open Sys2Proof.Machine

theorem wordsWithoutEffect : WordsWithoutEffect := by
  intro s i t h
  have hself := State.setThread_self (State.current_eq_some.1 h).2
  have hregs : s.wordRegs (fun t => t) = .next s := (State.wordRegs_of_current h _).trans (congrArg _ hself)
  exact ⟨hregs, hregs, fun sa off => State.word_of_current h _⟩

theorem endWord : EndWord := by
  intro s i t h haway
  have hcur := (State.current_eq_some.1 h).1
  have hexec : exec .endThread s =
      .next (if t.priv then s.switchOut i.place t else s.stopThread i.place t).stay := State.word_of_current h _
  have hstay : ∀ {x : State}, x.cur = s.cur → x.stay.cur = some { i with moved := true } := fun hx =>
    State.stay_cur_of (hx.trans hcur)
  have hmem : ∀ {x : State}, x.mem = s.mem → ∀ a, x.stay.readByte a = s.readByte a := fun hx a =>
    congrArg (fun m => sparseRead unlisted m a) hx
  rw [hexec]
  cases hpriv : t.priv with
  | false =>
    obtain ⟨hthread, hgen, hslot, hcur', hstopped⟩ := s.stopThread_effect i.place t haway
    exact ⟨_, rfl, hstay hcur', hslot, hmem (s.stopThread_keeps i.place t).1,
      fun _ => ⟨hthread, hgen.trans (nextGen_eq _), hstopped⟩, nofun, nofun⟩
  | true =>
    refine ⟨_, rfl, ?_⟩
    rw [if_pos rfl]
    cases hsaved : s.saved t.uid with
    | true =>
      rw [State.switchOut, if_pos hsaved]
      obtain ⟨hthread, hslot, hcur', hstopped⟩ := s.leaveAlive_effect i.place t
      exact ⟨hstay hcur', hslot, hmem (s.leaveAlive_keeps i.place t).1, nofun, fun _ _ => ⟨hthread, hstopped⟩, nofun⟩
    | false =>
      rw [State.switchOut, if_neg (by simp [hsaved])]
      exact ⟨hstay rfl, fun r hr => State.slot_setThread_other s hr _, fun _ => rfl, nofun, nofun,
        fun _ _ => (State.thread_setThread_same s i.place { t with hold := .switch }).trans (by rw [hpriv])⟩

/-- Settles O26: the quiet words change nothing, and `end` frees its slot. -/
theorem quietWords : Obligations.QuietWords := ⟨wordsWithoutEffect, endWord⟩

end Sys2Proof.Claims

namespace Sys2Proof.Machine
open Sys2Proof.Claims

/-! ### Traps that are entered at once (R338) -/

theorem Thread.enter_entered (t : Thread) (cycle : Nat) (cause pc info : Word) :
    Entered cycle t (t.enter cycle cause pc info) cause pc info := ⟨rfl, rfl, rfl, rfl, rfl, rfl, rfl, rfl, rfl, rfl⟩

theorem State.raise_of_canEnter {s : State} {p : Place} {t : Thread} (h : CanEnter s p t) (cause pc info : Word) :
    s.raise p t cause pc info = s.setThread p (t.enter s.cycle cause pc info) := by
  obtain ⟨hpriv, hfirst, hsettled, hvec, w, hfetch⟩ := h
  simp [State.raise, State.enterTrap, hpriv, hfirst, hsettled, hvec, hfetch]

/-! ### What translation reads (R359 to R362) -/

/-- Two states whose page tables, cached leaves, context records and partitions are the same. -/
structure State.SameTables (s x : State) : Prop where
  mem : x.mem = s.mem
  errors : x.errors = s.errors
  bar0 : x.bar0 = s.bar0
  dies : x.dies = s.dies
  fuses : x.fuses = s.fuses
  cores : x.cores = s.cores

section Tables
variable {s x : State} (h : s.SameTables x)
include h

theorem State.SameTables.readNat (a n : Nat) : x.readNat a n = s.readNat a n := by
  have hbytes : x.readBytes a n = s.readBytes a n := by
    induction n generalizing a with
    | zero => rfl
    | succ n ih => simp only [State.readBytes, State.readByte, h.mem, ih]
  simp only [State.readNat, hbytes]

theorem State.SameTables.record (ctx word : Nat) : x.record ctx word = s.record ctx word := by
  simp only [State.record, h.bar0]

theorem State.SameTables.read64 (a : Nat) : x.read64 a = s.read64 a := congrArg w64 (h.readNat a 8)

theorem State.SameTables.badRange (a n : Nat) : x.badRange a n = s.badRange a n :=
  congrArg (fun l : List Nat => l.any fun e => a ≤ e && e < a + n) h.errors

theorem State.SameTables.walkFrom (va left table : Nat) : x.walkFrom va left table = s.walkFrom va left table := by
  induction left generalizing table with
  | zero => rfl
  | succ left ih => simp only [State.walkFrom, h.badRange, h.read64, ih]

theorem State.SameTables.leafOf (die ctx va : Nat) : x.leafOf die ctx va = s.leafOf die ctx va := by
  have hdie : x.die die = s.die die := by simp only [State.die, h.dies, h.fuses]
  have hwalk : x.walk ctx va = s.walk ctx va := by simp only [State.walk, h.record, h.walkFrom]
  simp only [State.leafOf, hdie, hwalk]

theorem State.SameTables.leafAddr (ctx : Nat) (e : Word) (off : Nat) : x.leafAddr ctx e off = s.leafAddr ctx e off := by
  have hset (set unit : Nat) : x.interleave ctx set unit = s.interleave ctx set unit := by
    simp only [State.interleave, h.readNat, h.record]
  simp only [State.leafAddr, hset]

theorem State.SameTables.partitionOk (ctx pa : Nat) : x.partitionOk ctx pa = s.partitionOk ctx pa := by
  simp only [State.partitionOk, State.core, h.cores]

theorem State.SameTables.translate (die ctx : Nat) (a : Access) (va : Word) :
    x.translate die ctx a va = s.translate die ctx a va := by
  simp only [State.translate, h.leafOf, h.leafAddr, h.partitionOk]

end Tables

/-! ### Withdrawn loads that are sent again (R45, R181; log 64) -/

/-- The request with which a withdrawn `lda` is sent again, unless its address no longer translates. -/
def State.ldaAgain (s : State) (p : Place) (t : Thread) (g : Tag) : Option Req :=
  match s.translate p.die t.ctx .stampedLoad g.addr with
  | .ok pa _ => some (s.request p t g.req pa (.lda g.addr pa g.iter g.lag g.wait))
  | .fail _ => none

/-- How a withdrawn `lda` stands once it has been sent again. -/
def State.ldaState (s : State) (p : Place) (t : Thread) (g : Tag) : TagState :=
  match s.translate p.die t.ctx .stampedLoad g.addr with
  | .ok _ _ => .waiting
  | .fail c => .trapped c g.addr

/-- The tags once an `lda` has been sent again: where its address no longer translates, its own ends in that trap. -/
def State.markAgain (s : State) (p : Place) (t : Thread) (g : Tag) (tags : List Tag) : List Tag :=
  match s.translate p.die t.ctx .stampedLoad g.addr with
  | .ok _ _ => tags
  | .fail c => modFirst (fun h => h.req = g.req) (fun h => { h with state := .trapped c g.addr }) tags

/-- The state with the blocks that are kept of saved threads replaced. -/
def State.withSaving (s : State) (l : List Saving) : State := { s with saving := l }

theorem State.translate_withSaving (s : State) (l : List Saving) (d n : Nat) (a : Access) (va : Word) :
    (s.withSaving l).translate d n a va = s.translate d n a va :=
  State.SameTables.translate ⟨rfl, rfl, rfl, rfl, rfl, rfl⟩ d n a va

theorem State.request_withSaving (s : State) (l : List Saving) (p : Place) (t : Thread) (n pa : Nat) (body : ReqBody) :
    (s.withSaving l).request p t n pa body = s.request p t n pa body := rfl

theorem State.ldaAgain_withSaving (s : State) (l : List Saving) (p : Place) (t : Thread) :
    (s.withSaving l).ldaAgain p t = s.ldaAgain p t := by
  funext g
  simp only [State.ldaAgain, State.translate_withSaving, State.request_withSaving]

theorem State.ldaState_withSaving (s : State) (l : List Saving) (p : Place) (t : Thread) :
    (s.withSaving l).ldaState p t = s.ldaState p t := by
  funext g
  simp only [State.ldaState, State.translate_withSaving]

/-- A state in which the loads `gs` of a thread have been sent again, the thread that stood as `u` holding their traps. -/
structure Resent (s : State) (p : Place) (t u : Thread) (gs : List Tag) (x : State) : Prop where
  frame : { x with slots := s.slots, sends := s.sends, outs := s.outs } = s
  others : ∀ r, r ≠ p → x.slot r = s.slot r
  slot : x.slot p = { s.slot p with thread := some { u with tags := gs.foldr (s.markAgain p t) u.tags } }
  sends : x.sends = gs.filterMap (s.ldaAgain p t) ++ s.sends
  outs : x.outs.Perm (s.outs ++ (gs.filterMap (s.ldaAgain p t)).map fun r => r.out .lda r.body.vaddr)

section Resend
variable {s x : State} {p : Place} {t u : Thread} {g : Tag} {gs : List Tag}

theorem resent_nil (s : State) (p : Place) (t u : Thread) : Resent s p t u [] (s.setThread p u) where
  frame := rfl
  others _ hr := State.slot_setThread_other s hr u
  slot := State.slot_setSlot_same s p _
  sends := rfl
  outs := by simp

theorem Resent.sameTables (h : Resent s p t u gs x) : s.SameTables x where
  mem := congrArg (·.mem) h.frame
  errors := congrArg (·.errors) h.frame
  bar0 := congrArg (·.bar0) h.frame
  dies := congrArg (·.dies) h.frame
  fuses := congrArg (·.fuses) h.frame
  cores := congrArg (·.cores) h.frame

theorem Resent.cur (h : Resent s p t u gs x) : x.cur = s.cur := congrArg (·.cur) h.frame

theorem Resent.widAt (h : Resent s p t u gs x) : x.widAt p = s.widAt p := by simp only [State.widAt, h.slot]

theorem Resent.request (h : Resent s p t u gs x) (n pa : Nat) (body : ReqBody) :
    x.request p t n pa body = s.request p t n pa body := by simp only [State.request, h.widAt]

theorem Resent.thread (h : Resent s p t u gs x) :
    x.thread? p = some { u with tags := gs.foldr (s.markAgain p t) u.tags } := congrArg Slot.thread h.slot

/-- One more load is sent again, ahead of those after it (R156, R188). -/
theorem Resent.resend (h : Resent s p t u gs x) (g : Tag) : Resent s p t u (g :: gs) (x.resend p t g) := by
  unfold State.resend
  rw [h.sameTables.translate]
  split
  next c hfail =>
    have hagain : s.ldaAgain p t g = none := by simp only [State.ldaAgain, hfail]
    rw [State.modThread, h.thread]
    exact {
      frame := h.frame
      others := fun r hr => (State.slot_setThread_other x hr _).trans (h.others r hr)
      slot := by simp [State.setThread, h.slot, State.markAgain, hfail]
      sends := by simpa [hagain] using h.sends
      outs := by simpa [hagain] using h.outs }
  next pa leaf hok =>
    have hagain : s.ldaAgain p t g = some (s.request p t g.req pa (.lda g.addr pa g.iter g.lag g.wait)) := by
      simp only [State.ldaAgain, hok]
    rw [h.request]
    exact {
      frame := h.frame
      others := h.others
      slot := h.slot.trans (by simp [State.markAgain, hok])
      sends := by simp [hagain, h.sends]
      outs := by
        rw [List.filterMap_cons_some hagain, List.map_cons]
        refine (h.outs.append_right _).trans ?_
        rw [List.append_assoc]
        exact .append_left _ (List.perm_append_singleton _ _) }

/-- The withdrawn loads of a list, the last first, are sent again. -/
theorem resent_foldl (s : State) (p : Place) (t u : Thread) (gs : List Tag) :
    Resent s p t u gs (gs.reverse.foldl (fun x g => x.resend p t g) (s.setThread p u)) := by
  rw [List.foldl_reverse]
  induction gs with
  | nil => exact resent_nil s p t u
  | cons g gs ih => exact ih.resend g

end Resend

/-! ### The tags of a thread that goes on -/

section Marks
variable (s : State) (p : Place) (t : Thread)

theorem State.markAgain_cons_other {g h : Tag} (hne : h.req ≠ g.req) (tags : List Tag) :
    s.markAgain p t g (h :: tags) = h :: s.markAgain p t g tags := by
  unfold State.markAgain
  split
  · rfl
  · simp [modFirst, hne]

theorem State.markAgain_cons_same {g h : Tag} (heq : h.req = g.req) (hwait : h.state = .waiting) (tags : List Tag) :
    s.markAgain p t g (h :: tags) = { h with state := s.ldaState p t g } :: tags := by
  unfold State.markAgain State.ldaState
  split
  · rw [← hwait]
  · simp [modFirst, heq]

theorem State.foldr_markAgain_cons {h : Tag} {gs : List Tag} (hne : ∀ g ∈ gs, h.req ≠ g.req) (tags : List Tag) :
    gs.foldr (s.markAgain p t) (h :: tags) = h :: gs.foldr (s.markAgain p t) tags := by
  induction gs with
  | nil => rfl
  | cons g gs ih =>
    rw [List.foldr_cons, ih fun g' hg' => hne g' (.tail g hg'), s.markAgain_cons_other p t (hne g (.head gs))]
    rfl

/-- The tag of a thread that goes on, before its withdrawn loads have been sent again: its count runs where `thaw` says so. -/
def Tag.awaiting (thaw : Bool) (g : Tag) : Tag :=
  { g with frozen := !thaw && g.frozen, state := if g.state == .withdrawn then .waiting else g.state }

/-- The tag once its withdrawn load has been sent again. -/
def State.goesOn (s : State) (p : Place) (t : Thread) (thaw : Bool) (g : Tag) : Tag :=
  { g with frozen := !thaw && g.frozen, state := if g.state = .withdrawn then s.ldaState p t g else g.state }

theorem State.goesOn_withSaving (l : List Saving) (thaw : Bool) :
    (s.withSaving l).goesOn p t thaw = s.goesOn p t thaw := by
  funext g
  simp only [State.goesOn, State.ldaState_withSaving]

theorem State.foldr_markAgain (thaw : Bool) {tags : List Tag} (hnodup : (tags.map (·.req)).Nodup) :
    (tags.filter fun g => g.state == .withdrawn).foldr (s.markAgain p t) (tags.map (Tag.awaiting thaw)) =
      tags.map (s.goesOn p t thaw) := by
  induction tags with
  | nil => rfl
  | cons g tags ih =>
    rw [List.map_cons, List.nodup_cons] at hnodup
    obtain ⟨hnew, hnodup⟩ := hnodup
    have hne : ∀ g' ∈ tags.filter fun g => g.state == .withdrawn, (g.awaiting thaw).req ≠ g'.req := fun g' hg' he =>
      hnew (List.mem_map.2 ⟨g', List.mem_of_mem_filter hg', he.symm⟩)
    rw [List.map_cons, List.map_cons, List.filter_cons]
    by_cases hstate : g.state = .withdrawn
    · have hsame := s.markAgain_cons_same p t (g := g) (h := g.awaiting thaw) rfl (by simp [Tag.awaiting, hstate])
      rw [if_pos (by simp [hstate]), List.foldr_cons, s.foldr_markAgain_cons p t hne, ih hnodup, hsame]
      simp [State.goesOn, Tag.awaiting, hstate]
    · rw [if_neg (by simp [hstate]), s.foldr_markAgain_cons p t hne, ih hnodup]
      simp [State.goesOn, Tag.awaiting, hstate]

end Marks

/-! ### `eret` (R96, R339, R350) -/

section Eret
variable {s : State} {i : Issue} {t : Thread} (h : s.current = some (i, t))
include h

theorem exec_trapi (imm : BitVec 32) : exec (.trapi imm) s = .next (s.precise i t causeSwtrap (sx imm)) := State.word_of_current h _

theorem exec_eret_trap {c : BitVec 8} (hpriv : t.priv = false) (htrap : targetTrap t.sys.trappc = some c) :
    exec .eret s = .next (s.precise i t c t.sys.trappc) := by
  change execEret s = _
  simp only [execEret, State.word_of_current h, hpriv, htrap, Bool.false_eq_true, if_false]

theorem exec_eret_returns (hpriv : t.priv = false) (h8 : t.sys.trappc.toNat % 8 = 0) (h48 : t.sys.trappc.toNat < 2 ^ 48) :
    exec .eret s = .next (s.returnTrap i t) := by
  change execEret s = _
  simp only [execEret, State.word_of_current h, hpriv, targetTrap_of_word h8 h48, Bool.false_eq_true, if_false]

theorem exec_eret_waits {v : Saving} (hpriv : t.priv = true) (hfind : s.saving.find? (fun v => v.uid = t.uid) = some v)
    (hopen : v.complete = false) : exec .eret s = .next (s.setThread i.place { t with hold := .saving }).stay := by
  change execEret s = _
  simp [execEret, State.word_of_current h, hpriv, hfind, hopen, State.wait]

/-- The thread that `eret` in a PREEMPT handler loads from its block, with what the slot's thread keeps (R351). -/
def State.reloaded (s : State) (t : Thread) (v : Saving) : Thread :=
  { s.threadOfBlock v none t.sys.trapsave with
    stampedNow := t.stampedNow, stampedAny := t.stampedAny, preempt := t.preempt, debugDue := t.debugDue }

theorem exec_eret_reloads {v : Saving} (hpriv : t.priv = true) (hfind : s.saving.find? (fun v => v.uid = t.uid) = some v)
    (hdone : v.complete = true) : exec .eret s =
    .next ((s.withSaving (dropFirst (fun x => x.uid = t.uid) s.saving)).installThread i.place (s.reloaded t v)).stay := by
  change execEret s = _
  simp only [execEret, State.word_of_current h, hpriv, hfind, hdone, if_true, Bool.not_true, Bool.false_eq_true, if_false]
  rfl

end Eret

/-- The thread outside PRIV goes on, its withdrawn loads sent again (R45, R96). -/
theorem State.resumeTags_resent (s : State) (p : Place) (t : Thread) :
    Resent s p t { t with tags := t.tags.map (Tag.awaiting true) } (t.tags.filter fun g => g.state == .withdrawn)
      (s.resumeTags p t) := resent_foldl ..

/-- The thread loaded from its block goes on, its withdrawn loads sent again (R181, R351). -/
theorem State.installThread_resent (s : State) (p : Place) (t : Thread) :
    Resent s p t { t with tags := t.tags.map (Tag.awaiting false) } (t.tags.filter fun g => g.state == .withdrawn)
      (s.installThread p t) := resent_foldl ..

section NoneWithdrawn
variable {tags : List Tag} (h : ∀ g ∈ tags, g.state ≠ .withdrawn)
include h

theorem filter_withdrawn_of_none : (tags.filter fun g => g.state == .withdrawn) = [] :=
  List.filter_eq_nil_iff.2 fun g hg => by simpa using h g hg

theorem map_awaiting_of_none (thaw : Bool) :
    tags.map (Tag.awaiting thaw) = tags.map fun g => { g with frozen := !thaw && g.frozen } :=
  List.map_congr_left fun g hg => by simp [Tag.awaiting, h g hg]

end NoneWithdrawn

theorem State.resumeTags_of_none {s : State} {p : Place} {t : Thread} (h : ∀ g ∈ t.tags, g.state ≠ .withdrawn) :
    s.resumeTags p t = s.setThread p { t with tags := t.tags.map fun g => { g with frozen := false } } := by
  have hfold : s.resumeTags p t = (t.tags.filter fun g => g.state == .withdrawn).reverse.foldl (fun x g => x.resend p t g)
    (s.setThread p { t with tags := t.tags.map (Tag.awaiting true) }) := rfl
  rw [hfold, filter_withdrawn_of_none h, map_awaiting_of_none h]
  rfl

theorem State.installThread_of_none {s : State} {p : Place} {t : Thread} (h : ∀ g ∈ t.tags, g.state ≠ .withdrawn) :
    s.installThread p t = s.setThread p t := by
  have hfold : s.installThread p t = (t.tags.filter fun g => g.state == .withdrawn).reverse.foldl (fun x g => x.resend p t g)
    (s.setThread p { t with tags := t.tags.map (Tag.awaiting false) }) := rfl
  rw [hfold, filter_withdrawn_of_none h, map_awaiting_of_none h, List.map_id'']
  · rfl
  · exact fun _ => rfl

/-! ### What a thread holds once it is loaded from its block (R347, R351) -/

section Block
variable (s : State) (v : Saving) (acc : Option (Vector Acc 4)) (trapsave : Word)

theorem State.threadOfBlock_pc : (s.threadOfBlock v acc trapsave).pc.toNat = (s.blockRead v 0).toNat % 2 ^ 48 :=
  and_mask48_toNat _

theorem State.threadOfBlock_readS {k : BitVec 5} (hk : k ≠ 0) :
    (s.threadOfBlock v acc trapsave).readS k = s.blockRead v (0x100 + 8 * k.toNat) := by
  have hn : k.toFin ≠ 0 := fun e => hk (BitVec.eq_of_toFin_eq e)
  rw [Thread.readS, if_neg hk]
  simp [State.threadOfBlock, hn]

theorem State.threadOfBlock_readP {k : BitVec 3} (hk : k ≠ 0) :
    (s.threadOfBlock v acc trapsave).readP k = s.blockRead v (0x300 + 8 * k.toNat) := by
  have hn : k.toFin ≠ 0 := fun e => hk (BitVec.eq_of_toFin_eq e)
  rw [Thread.readP, if_neg hk]
  simp [State.threadOfBlock, hn]

theorem State.threadOfBlock_readQ {k : BitVec 3} (hk : k ≠ 0) :
    (s.threadOfBlock v acc trapsave).readQ k = (s.blockRead v 0x300).getLsbD k.toNat := by
  rw [Thread.readQ, if_neg hk]
  simp [State.threadOfBlock]

theorem sysOfBlock_trap (ws hist : List Word) : (sysOfBlock ws hist trapsave).trapcause = ws.getD 0x11 0 &&& 0x1FFFFFFFFFFFF1FF ∧
    (sysOfBlock ws hist trapsave).trappc = ws.getD 0x12 0 ∧ (sysOfBlock ws hist trapsave).trapinfo = ws.getD 0x13 0 :=
  ⟨rfl, rfl, rfl⟩

theorem State.threadOfBlock_trap : (s.threadOfBlock v acc trapsave).sys.trapcause = s.blockRead v 0x288 &&& 0x1FFFFFFFFFFFF1FF ∧
    (s.threadOfBlock v acc trapsave).sys.trappc = s.blockRead v 0x290 ∧
    (s.threadOfBlock v acc trapsave).sys.trapinfo = s.blockRead v 0x298 := sysOfBlock_trap trapsave (s.blockList v 0x200 32) _

end Block

end Sys2Proof.Machine

namespace Sys2Proof.Claims
open Sys2Proof.Machine

theorem softwareTrapAndReturn : SoftwareTrapAndReturn := by
  intro s i t h
  have hcur := (State.current_eq_some.1 h).1
  refine ⟨fun imm henter => ⟨_, t.enter_entered .., ?_⟩, fun hpriv => ?_⟩
  · rw [exec_trapi h, State.precise, State.raise_of_canEnter henter]
    exact landsStaying_setThread hcur _
  intro a
  refine ⟨fun hodd => exec_eret_trap h hpriv (targetTrap_of_misaligned hodd),
    fun h8 h48 => exec_eret_trap h hpriv (targetTrap_of_high h8 h48), fun h8 h48 hnone => ?_, fun h8 h48 hnodup => ?_⟩
  · rw [exec_eret_returns h hpriv h8 h48, State.returnTrap,
      State.resumeTags_of_none (t := { t with hs := false }) hnone]
    exact landsAt_setThread hcur _ a
  · rw [exec_eret_returns h hpriv h8 h48, State.returnTrap]
    have hres := s.resumeTags_resent i.place { t with hs := false }
    intro at_ again
    refine ⟨_, rfl, State.jump_cur_of (hres.cur.trans hcur) a, congrArg (fun x : State => { x with cur := s.cur }) hres.frame,
      hres.others, hres.sends, hres.outs, hres.thread.trans ?_⟩
    exact congrArg (fun l => some { t with hs := false, tags := l }) (s.foldr_markAgain i.place t true hnodup)

theorem preemptReturn : PreemptReturn := by
  intro s i t pre post v h hpriv hfirst
  have hcur := (State.current_eq_some.1 h).1
  have huid : ∀ x : Saving, decide (x.uid = t.uid) = true ↔ x.uid = t.uid := fun x => decide_eq_true_iff
  have hfind := find?_of_firstOf huid hfirst
  have hdrop := dropFirst_of_firstOf huid hfirst
  refine ⟨fun hopen => ?_, fun hdone => ?_, fun hdone => ?_⟩
  · rw [exec_eret_waits h hpriv hfind hopen]
    exact landsStaying_setThread hcur _
  · intro b hnone
    rw [exec_eret_reloads h hpriv hfind hdone, State.installThread_of_none (t := s.reloaded t v) hnone, hdrop]
    obtain ⟨hcause, hpc, hinfo⟩ := s.threadOfBlock_trap v none t.sys.trapsave
    exact ⟨_, s.reloaded t v, rfl, rfl, State.thread_setThread_same _ i.place _, rfl, hfirst.2.1, s.threadOfBlock_pc v none t.sys.trapsave,
      fun _ => s.threadOfBlock_readS v none t.sys.trapsave, fun _ => s.threadOfBlock_readP v none t.sys.trapsave, fun _ => s.threadOfBlock_readQ v none t.sys.trapsave, rfl, rfl, rfl,
      hcause, hpc, hinfo, rfl, rfl, State.stay_cur_of hcur, fun r hr => State.slot_setThread_other _ hr _, fun _ => rfl⟩
  · intro b hnodup at_ again
    rw [exec_eret_reloads h hpriv hfind hdone, hdrop]
    have hres := (s.withSaving (pre ++ post)).installThread_resent i.place (s.reloaded t v)
    have hsends := hres.sends
    have houts := hres.outs
    have htags := (s.withSaving (pre ++ post)).foldr_markAgain i.place (s.reloaded t v) false hnodup
    rw [State.ldaAgain_withSaving] at hsends houts
    rw [State.goesOn_withSaving] at htags
    refine ⟨_, rfl, State.stay_cur_of (hres.cur.trans hcur),
      congrArg (fun x : State => { x with cur := s.cur, saving := s.saving }) hres.frame,
      hres.others, hsends, houts, hres.thread.trans ?_⟩
    exact congrArg (fun l => some { s.reloaded t v with tags := l }) htags

/-- Settles O15: a trap and a return move the thread, and what was withdrawn is sent again in its order. -/
theorem trapReturns : Obligations.TrapReturns := ⟨softwareTrapAndReturn, preemptReturn⟩

end Sys2Proof.Claims

namespace Sys2Proof.Machine
open Sys2Proof.Claims

/-! ### Words of an image sent for as a plain load (R129 to R131, R162; log 17) -/

theorem State.stay_stay (s : State) : s.stay.stay = s.stay := by
  unfold State.stay
  cases s.cur <;> rfl

/-- Undoing `stay` where the flow had not moved. -/
theorem State.stay_withCur {s x : State} (h : x.cur = s.cur) : { x.stay with cur := s.cur } = x := by
  rw [← h]
  rfl

section Checks
variable {s : State} {i : Issue} {t : Thread} {a : Access} {size : Nat}

theorem State.checkElems_of_passes {las : List (Nat × Word)} {es : List Elem} (h : List.Forall₂ (Passes s i t a size) las es) :
    s.checkElems i.place.die t.ctx a size las = .ok es := by
  induction h with
  | nil => rfl
  | @cons x e _ _ hx _ ih =>
    obtain ⟨hlane, hvaddr, hsize, leaf, hcheck⟩ := hx
    simp only [State.checkElems, hcheck, ih]
    rw [← hlane, ← hvaddr, ← hsize]

theorem State.checkElems_of_fail {pre post : List (Nat × Word)} {es : List Elem} {l : Nat} {va : Word} {c : BitVec 8}
    (h : List.Forall₂ (Passes s i t a size) pre es) (hfail : s.check i.place.die t.ctx a va size = .fail c) :
    s.checkElems i.place.die t.ctx a size (pre ++ (l, va) :: post) = .error (c, va) := by
  induction h with
  | nil => simp only [List.nil_append, State.checkElems, hfail]
  | cons hx _ ih =>
    obtain ⟨_, _, _, leaf, hcheck⟩ := hx
    simp only [List.cons_append, State.checkElems, hcheck, ih]

theorem State.plainLoad_of_fail {las : List (Nat × Word)} {c : BitVec 8} {va : Word} (g : Nat → Tag)
    (h : s.checkElems i.place.die t.ctx a size las = .error (c, va)) : s.plainLoad i t a size las g = s.precise i t c va := by
  simp only [State.plainLoad, h]

theorem State.plainLoad_of_far {las : List (Nat × Word)} {e : Elem} {es : List Elem} (g : Nat → Tag)
    (h : s.checkElems i.place.die t.ctx a size las = .ok (e :: es)) (hfar : paSpace e.paddr = 1 ∧ paHome e.paddr ≠ i.place.die) :
    s.plainLoad i t a size las g = s.startMigration i t (paHome e.paddr) (paCore e.paddr) i.pc t.sys.lc0 t.sys.lc1 := by
  simp [State.plainLoad, h, hfar]

theorem State.plainLoad_of_near {las : List (Nat × Word)} {e : Elem} {es : List Elem} (g : Nat → Tag)
    (h : s.checkElems i.place.die t.ctx a size las = .ok (e :: es))
    (hnear : ¬ (paSpace e.paddr = 1 ∧ paHome e.paddr ≠ i.place.die)) :
    s.plainLoad i t a size las g = s.openLoad i t g (e :: es) := by
  simp only [State.plainLoad, h]
  exact if_neg (by simpa using hnear)

end Checks

theorem State.foldl_addReq {α : Type} (r : α → Req) (c : OutClass) (va : α → Word) (l : List α) (s : State) :
    l.foldl (fun x a => x.addReq (r a) c (va a)) s =
      { s with sends := s.sends ++ l.map r, outs := s.outs ++ l.map fun a => (r a).out c (va a) } := by
  induction l generalizing s with
  | nil => simp
  | cons a l ih =>
    rw [List.foldl_cons, ih]
    simp [State.addReq]

/-- The request of a load for one group of its elements. -/
def State.loadReq (s : State) (i : Issue) (t : Thread) (ordered : Bool) (e : List Elem) : Req :=
  { s.request i.place t s.nextId (groupPa e) (.load e) with ordered }

theorem State.loadReq_asksHome (s : State) (i : Issue) (t : Thread) (ordered : Bool) (e : List Elem) :
    AsksHome s i.place t (groupPa e) ordered (.load e) (s.loadReq i t ordered e) :=
  ⟨rfl, rfl, rfl, rfl, rfl, rfl, rfl, rfl, rfl, rfl, rfl, rfl, rfl, rfl⟩

/-- The tag of a load of `parts` groups as it opens. -/
def loadTag (i : Issue) (t : Thread) (g : Tag) (parts : Nat) : Tag := { g with parts, now := t.reissue == some i.pc, first := t.firstWord }

/-- The thread with a load of `parts` groups opened. -/
def openedLoad (i : Issue) (t : Thread) (g : Tag) (parts : Nat) : Thread := { t with tags := t.tags ++ [loadTag i t g parts] }

section OpenLoad
variable (s : State) (i : Issue) (t : Thread) (g : Nat → Tag) (es : List Elem)

/-- What a load sends: one request for each group of its elements. -/
def State.loadSends (ordered : Bool) : List (List Elem × Req) := (groupsOf es).map fun e => (e, s.loadReq i t ordered e)

theorem State.openLoad_eq : s.openLoad i t g es =
    let rs := s.loadSends i t es (g s.nextId).ordered
    { s.setThread i.place (openedLoad i t (g s.nextId) (groupsOf es).length) with
      nextId := s.nextId + 1
      sends := s.sends ++ rs.map fun r => r.2
      outs := s.outs ++ rs.map fun r => r.2.out .load (groupAddr r.1) } := by
  simp only [State.openLoad, State.foldl_addReq, State.loadSends, List.map_map]
  rfl

theorem State.openLoad_sends : Sends s i.place (.next (s.openLoad i t g es))
    (openedLoad i t (g s.nextId) (groupsOf es).length)
    ((s.loadSends i t es (g s.nextId).ordered).map fun r => (r.2, .load, groupAddr r.1)) := by
  obtain ⟨-, hother, hslot, -⟩ := s.onlyThread_setThread i.place
    (openedLoad i t (g s.nextId) (groupsOf es).length)
  refine ⟨_, rfl, ?_⟩
  rw [State.openLoad_eq]
  refine ⟨State.thread_setThread_same s i.place _, rfl, rfl, ?_, ?_, hother, hslot, rfl, fun _ => rfl⟩
  · simp only [List.map_map]; rfl
  · simp only [List.map_map]; rfl

end OpenLoad

/-- The tag with which words of an image are sent for, until it is opened. -/
def imageTag (i : Issue) (vas : List Word) (ordered : Bool) (n : Nat) : Tag :=
  { openTag i n 0 with u := vas.map fun _ => 0, image := true, ordered, addr := vas.headD 0 }

theorem State.fetchWords_eq (s : State) (i : Issue) (t : Thread) (vas : List Word) (ordered : Bool) :
    s.fetchWords i t vas ordered =
      (s.plainLoad i t .load 8 (vas.mapIdx fun k va => (k, va)) (imageTag i vas ordered)).stay := rfl

section Fetch
variable {s : State} {i : Issue} {t : Thread} (h : s.current = some (i, t))
include h

theorem State.fetchWords_fetches (vas : List Word) (ordered : Bool) :
    Fetches s i t vas ordered (.next (s.fetchWords i t vas ordered)) := by
  obtain ⟨hcur, -⟩ := State.current_eq_some.1 h
  rw [State.fetchWords_eq]
  refine ⟨fun pre l va post c es helems hpre hfail => ?_, fun e es hall => ⟨fun hfar => ?_, fun hnear => ?_⟩⟩
  · rw [helems, State.plainLoad_of_fail _ (State.checkElems_of_fail hpre hfail)]
    exact congrArg _ (State.stay_stay _)
  · rw [State.plainLoad_of_far _ (State.checkElems_of_passes hall) hfar]
    simp only [State.startMigration, State.stay_stay]
    refine ⟨_, ?_, ?_, ?_, landsStaying_setThread hcur _⟩ <;> rfl
  · rw [State.plainLoad_of_near _ (State.checkElems_of_passes hall) hnear]
    have hflow : (s.openLoad i t (imageTag i vas ordered) (e :: es)).cur = s.cur := by rw [State.openLoad_eq]; rfl
    refine ⟨_, openedLoad i t (imageTag i vas ordered s.nextId) (groupsOf (e :: es)).length, _, s.loadSends i t (e :: es) ordered, rfl,
      State.stay_cur_of (hflow.trans hcur), ?sends, ?groups, ?requests, rfl, rfl, rfl, rfl, rfl, rfl, rfl, rfl, rfl, rfl, rfl, rfl,
      rfl, rfl, rfl⟩
    case sends =>
      rw [State.stay_withCur hflow]
      exact s.openLoad_sends i t (imageTag i vas ordered) (e :: es)
    case groups =>
      simp only [State.loadSends, List.map_map]
      exact List.map_id _
    case requests =>
      intro r hr
      obtain ⟨e', -, rfl⟩ := List.mem_map.1 hr
      exact s.loadReq_asksHome i t ordered e'

end Fetch

section Run
variable {s : State} {i : Issue} {t : Thread}

theorem State.readable_iff_near {va : Word} : s.readable i t va = true ↔ Near s i t va := by
  unfold State.readable Near
  cases s.check i.place.die t.ctx .load va 8 with
  | fail c => simp
  | ok pa leaf => simp [-not_and, not_and_or]

/-- The element at which a `takeWhile` stops fails its test. -/
theorem not_of_getElem?_length_takeWhile {α : Type} {f : α → Bool} {l : List α} {a : α} (h : l[(l.takeWhile f).length]? = some a) :
    f a = false := by
  induction l with
  | nil => simp at h
  | cons b l ih =>
    cases hb : f b with
    | true => exact ih (by simpa [hb] using h)
    | false =>
      have hab : b = a := by simpa [hb] using h
      exact hab ▸ hb

theorem State.fetchRun_fetchesOn (h : s.current = some (i, t)) {vas : List Word} (hne : vas ≠ []) :
    FetchesOn s i t vas (.next (s.fetchRun i t vas)) := by
  obtain ⟨v, rest, rfl⟩ := List.exists_cons_of_ne_nil hne
  by_cases hv : s.readable i t v = true
  · have hrun : (v :: rest).takeWhile (s.readable i t) = (v :: rest).take ((v :: rest).takeWhile (s.readable i t)).length :=
      List.prefix_iff_eq_take.1 (List.takeWhile_prefix _)
    refine ⟨((v :: rest).takeWhile (s.readable i t)).length, by simp [hv], (List.takeWhile_prefix _).length_le, ?_, ?_, ?_, ?_⟩
    · intro va hva _
      rw [← hrun] at hva
      exact State.readable_iff_near.1 (List.mem_takeWhile_imp hva)
    · intro va hva hnot
      cases hva
      exact absurd (State.readable_iff_near.1 hv) hnot
    · intro va wb _ _ hwb hnear
      have hstop := not_of_getElem?_length_takeWhile hwb
      rw [State.readable_iff_near.2 hnear] at hstop
      cases hstop
    · rw [← hrun]
      have hfetch := State.fetchWords_fetches h ((v :: rest).takeWhile (s.readable i t)) true
      simpa [State.fetchRun, hv] using hfetch
  · refine ⟨1, le_rfl, by simp, fun _ _ hlt => absurd hlt (by decide), fun _ _ _ => rfl, ?_, ?_⟩
    · intro va wb hva hnear
      cases hva
      exact absurd (State.readable_iff_near.2 hnear) hv
    · have hfetch := State.fetchWords_fetches h ((v :: rest).take 1) true
      simpa [State.fetchRun, hv] using hfetch

end Run

end Sys2Proof.Machine

namespace Sys2Proof.Machine
open Sys2Proof.Claims

/-! ### Course entries (R99, R161, R162) -/

theorem extractLsb'_toNat_eq_field (c : BitVec 128) (lo n : Nat) : (c.extractLsb' lo n).toNat = field c lo n := by
  rw [BitVec.extractLsb'_toNat, Nat.shiftRight_eq_div_pow]
  rfl

theorem courseOk_iff (c : BitVec 128) : courseOk c = true ↔ CourseOk c := by
  simp only [courseOk, extractLsb'_toNat_eq_field, CourseOk]
  by_cases hbox : field c 0 2 = 1
  · simp [hbox]
    tauto
  · by_cases hmap : field c 0 2 = 2
    · simp [hmap, and_assoc]
    · simp [hbox, hmap]

theorem isBox_iff (c : BitVec 128) : c.extractLsb' 0 2 = 1 ↔ field c 0 2 = 1 := by
  rw [← extractLsb'_toNat_eq_field, ← BitVec.toNat_inj]
  rfl

theorem mapMasks_length (ws : List Word) : (mapMasks ws).length = 4 * ws.length := by
  induction ws with
  | nil => rfl
  | cons w ws ih =>
    have hcons : mapMasks (w :: ws) = [bits w 0 16, bits w 16 16, bits w 32 16, bits w 48 16] ++ mapMasks ws := rfl
    simp only [hcons, List.length_append, List.length_cons, List.length_nil, ih]
    omega

theorem bits16_eq (w : Word) (j : Nat) : bits w (16 * j) 16 = BitVec.ofNat 16 (w.toNat / 2 ^ (16 * j)) := by
  apply BitVec.eq_of_toNat_eq
  simp [bits, Nat.shiftRight_eq_div_pow]

theorem mapMasks_getElem? (ws : List Word) {k : Nat} (hk : k < 4 * ws.length) :
    (mapMasks ws)[k]? = some (BitVec.ofNat 16 ((ws.getD (k / 4) 0).toNat / 2 ^ (16 * (k % 4)))) := by
  induction ws generalizing k with
  | nil => simp at hk
  | cons w ws ih =>
    have hcons : mapMasks (w :: ws) = (List.range 4).map (fun j => bits w (16 * j) 16) ++ mapMasks ws := rfl
    rw [hcons]
    by_cases h4 : k < 4
    · rw [List.getElem?_append_left (by simpa using h4), List.getElem?_map, List.getElem?_range h4, Nat.div_eq_of_lt h4,
        Nat.mod_eq_of_lt h4]
      exact congrArg some (bits16_eq w k)
    · obtain ⟨j, rfl⟩ := Nat.exists_eq_add_of_le (Nat.not_lt.1 h4)
      rw [List.getElem?_append_right (by simp), List.length_map, List.length_range, Nat.add_sub_cancel_left,
        ih (by simp only [List.length_cons] at hk; omega)]
      have hdiv : (4 + j) / 4 = j / 4 + 1 := by omega
      rw [hdiv, Nat.add_mod_left, List.getD_cons_succ]

section Find
variable {α : Type} {f keep : α → Bool} {a : α}

theorem find?_filter_append_of_dropped (hkeep : ∀ x, f x = true → keep x = false) (ha : f a = true) (l : List α) :
    (l.filter keep ++ [a]).find? f = some a := by
  have hnone : (l.filter keep).find? f = none := List.find?_eq_none.2 fun x hx hf => by
    have hk := hkeep x hf
    rw [(List.mem_filter.1 hx).2] at hk
    cases hk
  rw [List.find?_append, hnone]
  simp [ha]

theorem find?_filter_append_of_kept (hkeep : ∀ x, f x = true → keep x = true) (ha : f a = false) (l : List α) :
    (l.filter keep ++ [a]).find? f = l.find? f := by
  have hboth : (fun x => keep x && f x) = f := by
    funext x
    cases hf : f x with
    | false => simp
    | true => simp [hkeep x hf]
  simp [List.find?_append, List.find?_filter, ha, hboth]

end Find

section SetCourse
variable (s : State) (d n e : Nat) (c : BitVec 128) (masks : List (BitVec 16))

theorem State.courseOf_setCourse_same : (s.setCourse d n e c masks).courseOf d n e = (c, masks) := by
  unfold State.courseOf State.setCourse State.modDie
  rw [State.die_setDie_same, find?_filter_append_of_dropped (by simp) (by simp)]

theorem State.courseOf_setCourse_other {d' n' e' : Nat} (hne : (d', n', e') ≠ (d, n, e)) :
    (s.setCourse d n e c masks).courseOf d' n' e' = s.courseOf d' n' e' := by
  unfold State.courseOf State.setCourse State.modDie
  by_cases hd : d' = d
  · subst hd
    have hkey : n' = n → e' ≠ e := fun hn he => hne (by rw [hn, he])
    rw [State.die_setDie_same, find?_filter_append_of_kept]
    · rintro ⟨m, k, c', ms⟩ hx
      obtain ⟨rfl, rfl⟩ : m = n' ∧ k = e' := by simpa using hx
      simpa [imp_iff_not_or] using hkey
    · simpa using fun hn he => hkey hn.symm he.symm
  · rw [State.die_setDie_other s hd]

end SetCourse

theorem State.mem_inService {s : State} {d : Nat} : d ∈ s.inService ↔ isLamp d = true ∧ (s.die d).outOfService = false := by
  have hdie (hlamp : isLamp d = true) : d < Config.dies := by
    simp only [isLamp, Bool.and_eq_true, decide_eq_true_eq] at hlamp
    exact hlamp.1
  simp only [State.inService, lampDies, List.mem_filter, List.mem_range, Bool.not_eq_true']
  exact ⟨fun ⟨⟨_, hlamp⟩, hout⟩ => ⟨hlamp, hout⟩, fun ⟨hlamp, hout⟩ => ⟨⟨hdie hlamp, hlamp⟩, hout⟩⟩

/-- The state in which a `crset` has replaced its own die's copy and waits for the other lamp dies in service (R99). -/
def State.crsetDone (s : State) (i : Issue) (t : Thread) (e : Nat) (c : BitVec 128) (masks : List (BitVec 16)) : State :=
  (s.setThread i.place { t with hold := .crset e (s.inService.filter (· ≠ i.place.die)) }).setCourse i.place.die t.ctx e c masks

theorem State.crsetDone_courseSet (s : State) (i : Issue) (t : Thread) (e : Nat) (c : BitVec 128) (masks : List (BitVec 16)) :
    CourseSet s i t e c masks (.next (s.crsetDone i t e c masks)) := by
  refine ⟨_, s.inService.filter (· ≠ i.place.die), rfl, fun d => ?_, State.thread_setThread_same s i.place _,
    State.courseOf_setCourse_same .., fun d n k hne => State.courseOf_setCourse_other _ _ _ _ _ _ hne,
    fun r hr => State.slot_setThread_other s hr _, rfl⟩
  rw [List.mem_filter, State.mem_inService, decide_eq_true_eq, and_assoc]

section Crset
variable {s : State} {i : Issue} {t : Thread} (h : s.current = some (i, t)) (sa : BitVec 5) (e : BitVec 32)
include h

theorem exec_crset_align (halign : (t.readS sa).toNat % 16 ≠ 0) :
    exec (.crset sa e) s = .next (s.precise i t causeAlign (t.readS sa)) :=
  (State.word_of_current h _).trans (by rw [if_pos halign])

theorem exec_crset_fetches (halign : (t.readS sa).toNat % 16 = 0) (himage : t.image.length < 2) :
    exec (.crset sa e) s = .next (s.fetchWords i t (imageAddrs (t.readS sa) 2) false) := by
  refine (State.word_of_current h _).trans ?_
  rw [if_neg (not_not.2 halign)]
  match hws : t.image, himage with
  | [], _ => rfl
  | [_], _ => rfl

variable {w0 w1 : Word} {ms : List Word} (halign : (t.readS sa).toNat % 16 = 0) (himage : t.image = w0 :: w1 :: ms)
include halign himage

theorem exec_crset_read : exec (.crset sa e) s = .next (
    if courseOk (w1 ++ w0) = false then s.precise i t causeIllegal i.word
    else if (w1 ++ w0).extractLsb' 0 2 = 1 then s.crsetDone i t e.toNat (w1 ++ w0) []
    else if ms.length < 84 then s.fetchRun i t ((imageAddrs w1 84).drop ms.length)
    else s.crsetDone i t e.toNat (w1 ++ w0) (mapMasks ms)) := by
  refine (State.word_of_current h _).trans (congrArg _ ?_)
  rw [if_neg (not_not.2 halign)]
  split
  · next v0 v1 ns hread =>
    obtain ⟨rfl, rfl, rfl⟩ : v0 = w0 ∧ v1 = w1 ∧ ns = ms := by simpa using hread.symm.trans himage
    simp only [Bool.not_eq_true']
    rfl
  · next hshort => exact absurd himage (hshort w0 w1 ms)

theorem exec_crset_illegal (hbad : ¬ CourseOk (w1 ++ w0)) :
    exec (.crset sa e) s = .next (s.precise i t causeIllegal i.word) := by
  rw [exec_crset_read h sa e halign himage, if_pos (Bool.eq_false_iff.2 (mt (courseOk_iff _).1 hbad))]

theorem exec_crset_box (hok : CourseOk (w1 ++ w0)) (hbox : field (w1 ++ w0) 0 2 = 1) :
    exec (.crset sa e) s = .next (s.crsetDone i t e.toNat (w1 ++ w0) []) := by
  rw [exec_crset_read h sa e halign himage, (courseOk_iff _).2 hok, if_neg (by decide), if_pos ((isBox_iff _).2 hbox)]

theorem exec_crset_map (hok : CourseOk (w1 ++ w0)) (hmap : field (w1 ++ w0) 0 2 = 2) : exec (.crset sa e) s =
    .next (if ms.length < 84 then s.fetchRun i t ((imageAddrs w1 84).drop ms.length)
      else s.crsetDone i t e.toNat (w1 ++ w0) (mapMasks ms)) := by
  have hbox : ¬ field (w1 ++ w0) 0 2 = 1 := by omega
  rw [exec_crset_read h sa e halign himage, (courseOk_iff _).2 hok, if_neg (by decide), if_neg (mt (isBox_iff _).1 hbox)]

end Crset

/-- The `crset` of a slot's thread that waits for a die to copy its entry, with its place, entry and dies. -/
def waitsForCopy (die : Nat) (x : Place × Slot) : Option (Place × Thread × Nat × List Nat) :=
  x.2.thread.bind fun t => match t.hold with
    | .crset e ds => if ds.contains die then some (x.1, t, e, ds) else none
    | _ => none

theorem waitsForCopy_eq_some {die : Nat} {x : Place × Slot} {r : Place × Thread × Nat × List Nat} :
    waitsForCopy die x = some r ↔ ∃ t e ds, x.2.thread = some t ∧ t.hold = .crset e ds ∧ die ∈ ds ∧ (x.1, t, e, ds) = r := by
  unfold waitsForCopy
  constructor
  · intro hr
    obtain ⟨t, ht, hw⟩ := Option.bind_eq_some_iff.1 hr
    split at hw
    · next e ds hold =>
      obtain ⟨hmem, rfl⟩ : die ∈ ds ∧ (x.1, t, e, ds) = r := by simpa using hw
      exact ⟨t, e, ds, ht, hold, hmem, rfl⟩
    · cases hw
  · rintro ⟨t, e, ds, ht, hold, hmem, rfl⟩
    simp [ht, hold, hmem]

theorem exec_courseEntryCopy {s : State} {die : Nat} {p : Place} {t : Thread} {e : Nat} {ds : List Nat}
    (h : s.slots.findSome? (waitsForCopy die) = some (p, t, e, ds)) : exec (.courseEntryCopy die) s =
      .next ((s.setThread p { t with hold := .crset e (ds.filter (· ≠ die)) }).setCourse die t.ctx e
        (s.courseOf p.die t.ctx e).1 (s.courseOf p.die t.ctx e).2) := by
  have hexec : exec (.courseEntryCopy die) s = match s.slots.findSome? (waitsForCopy die) with
      | none => .next s
      | some (p, t, e, ds) => .next ((s.setThread p { t with hold := .crset e (ds.filter (· ≠ die)) }).setCourse die t.ctx e
          (s.courseOf p.die t.ctx e).1 (s.courseOf p.die t.ctx e).2) := rfl
  rw [hexec, h]

/-! ### Services (R344, R375) -/

section Svc
variable {s : State} {i : Issue} {t : Thread} (h : s.current = some (i, t)) (e : BitVec 21)
include h

theorem exec_svc_refused (hrefused : (s.record t.ctx 8).toNat / 2 ^ 16 % 2 ^ 11 ≤ e.toNat) :
    exec (.svc e) s = .next (s.tell (.svcRefused t.ctx e.toNat)) := by
  refine (State.word_of_current h _).trans (congrArg _ (if_pos ?_))
  simpa [bits, Nat.shiftRight_eq_div_pow] using hrefused

theorem exec_svc_raised (hraised : e.toNat < (s.record t.ctx 8).toNat / 2 ^ 16 % 2 ^ 11) : exec (.svc e) s =
    .next { s with bar0 := { s.bar0 with
      services := putKey t.ctx (w64 (2 ^ 63 + t.ctx * 2 ^ 40 + (s.widAt i.place).toNat * 2 ^ 16 + e.toNat), i.pc,
        if (s.serviceOf t.ctx).2.2.1 = 0xFFFFFFFF then (s.serviceOf t.ctx).2.2.1 else (s.serviceOf t.ctx).2.2.1 + 1,
        w64 s.cycle) s.bar0.services
      msix := s.bar0.msix ++ [(s.record t.ctx 8).toNat % 2 ^ 11 + e.toNat] } } := by
  have hbase : (bits (s.record t.ctx 8) 0 11).toNat = (s.record t.ctx 8).toNat % 2 ^ 11 := by simp [bits]
  rw [← hbase]
  refine (State.word_of_current h _).trans (congrArg _ (if_neg ?_))
  simpa [bits, Nat.shiftRight_eq_div_pow] using hraised

end Svc

end Sys2Proof.Machine

namespace Sys2Proof.Claims
open Sys2Proof.Machine

theorem courseEntries : CourseEntries := by
  refine ⟨fun s i t sa e h => ⟨exec_crset_align h sa e, fun halign himage => ?_, fun w0 w1 ms halign himage => ⟨?_, ?_, ?_, ?_⟩⟩, ?_⟩
  · rw [exec_crset_fetches h sa e halign himage]
    exact State.fetchWords_fetches h _ false
  · exact exec_crset_illegal h sa e halign himage
  · intro hok hbox
    rw [exec_crset_box h sa e halign himage hok hbox]
    exact s.crsetDone_courseSet i t e.toNat _ _
  · intro hok hmap hlen
    rw [exec_crset_map h sa e halign himage hok hmap, if_pos hlen]
    refine State.fetchRun_fetchesOn h (List.ne_nil_of_length_pos ?_)
    simp only [imageAddrs, List.length_drop, List.length_map, List.length_range]
    omega
  · intro hok hmap hlen
    refine ⟨mapMasks ms, by rw [mapMasks_length, hlen], fun k hk => mapMasks_getElem? ms (by omega), ?_⟩
    rw [exec_crset_map h sa e halign himage hok hmap, if_neg (by omega)]
    exact s.crsetDone_courseSet i t e.toNat _ _
  · intro s die p x t e ds pre post ⟨hslots, ⟨t', e', ds', ht', hold', hmem⟩, hpre⟩ hx hold ht
    obtain rfl : t' = t := Option.some.inj (ht'.symm.trans hx)
    obtain ⟨rfl, rfl⟩ : e' = e ∧ ds' = ds := by simpa using hold'.symm.trans hold
    have hfind : s.slots.findSome? (waitsForCopy die) = some (p, t', e', ds') := by
      refine List.findSome?_eq_some_iff.2 ⟨pre, (p, x), post, hslots, waitsForCopy_eq_some.2 ⟨_, _, _, hx, hold, hmem, rfl⟩, ?_⟩
      refine fun y hy => Option.eq_none_iff_forall_ne_some.2 fun r hr => hpre y hy ?_
      obtain ⟨u, n, ks, hu, hn, hk, -⟩ := waitsForCopy_eq_some.1 hr
      exact ⟨u, n, ks, hu, hn, hk⟩
    exact ⟨_, exec_courseEntryCopy hfind, State.courseOf_setCourse_same .., fun d n k => State.courseOf_setCourse_other _ _ _ _ _ _,
      State.thread_setThread_same s p _, fun r hr => State.slot_setThread_other s hr _, rfl⟩

theorem serviceWord : ServiceWord := by
  intro s i t e h
  refine ⟨exec_svc_refused h e, fun hraised => ⟨_, exec_svc_raised h e hraised, rfl, rfl, rfl, fun c hc => ?_, ?_⟩⟩
  · exact lookupD_putKey_other _ hc _ _
  · refine (lookupD_putKey_same _ _ _ _).trans ?_
    split
    · next hfull => rw [hfull]; rfl
    · rfl

/-- Settles O51: `crset` branch by branch on what its image holds, its words fetched as one plain load; the copy step takes the first
`crset` that waits for its die; `svc` by its event against the context's count. -/
theorem systemWords : Obligations.SystemWords := ⟨courseEntries, serviceWord⟩

end Sys2Proof.Claims
end

section
/-! SUPPORT. What lands in vector registers and lane predicates, and the integer and floating-point lane operations
of 06_vector_lanes.md read lane by lane (R100 to R105, R112, R113, R125, R107). -/
set_option Elab.async false

namespace Sys2Proof.Machine
open Sys2Proof.Claims

/-! ### What lands in a vector register or a lane predicate -/

theorem Thread.writeV_frame (t : Thread) (r : BitVec 6) (x : VReg) : { t.writeV r x with v := t.v } = t := rfl

theorem Thread.readV_writeV_same (t : Thread) (r : BitVec 6) (x : VReg) : (t.writeV r x).readV r = x := by
  rw [t.readV_writeV, if_pos rfl]

theorem Thread.readV_writeV_other (t : Thread) {r k : BitVec 6} (hk : k ≠ r) (x : VReg) : (t.writeV r x).readV k = t.readV k := by
  rw [t.readV_writeV, if_neg hk]

theorem Thread.readP_writeP_same (t : Thread) {r : BitVec 3} (hr : r ≠ 0) (x : Word) : (t.writeP r x).readP r = x := by
  simp only [Thread.writeP, Thread.readP, if_neg hr, Vector.getElem_set_self]

theorem Thread.readP_writeP_other (t : Thread) {r k : BitVec 3} (hk : k ≠ r) (x : Word) : (t.writeP r x).readP k = t.readP k := by
  have hne : r.toNat ≠ k.toNat := fun h => hk (BitVec.eq_of_toNat_eq h.symm)
  by_cases hr : r = 0
  · rw [Thread.writeP, if_pos hr]
  · simp only [Thread.writeP, Thread.readP, if_neg hr, Vector.getElem_set_ne _ _ hne]

theorem Thread.writeP_frame (t : Thread) (r : BitVec 3) (x : Word) : { t.writeP r x with p := t.p } = t := by
  unfold Thread.writeP
  split <;> rfl

/-- A lane predicate built bit by bit, written to its register (R41). -/
theorem Thread.writeP_wroteP (t : Thread) (r : BitVec 3) {x : Word} {f : Nat → Bool} (hx : ∀ j, j < 64 → x.getLsbD j = f j) :
    WroteP t (t.writeP r x) r f :=
  ⟨fun _ hk => t.readP_writeP_other hk x, fun hr j hj => by rw [t.readP_writeP_same hr, hx j hj], rfl, t.writeP_frame r x⟩

section Results
variable {s : State} {i : Issue} {t : Thread} (h : s.current = some (i, t))
include h

theorem State.wordRegs_lands (f : Thread → Thread) : Lands s i.place (s.wordRegs f) (f t) :=
  State.wordRegs_of_current h f ▸ lands_setThread s i.place (f t)

theorem State.toP_lands (pd : BitVec 3) (f : Thread → Word) {g : Nat → Bool} (hg : ∀ j, j < 64 → (f t).getLsbD j = g j) :
    ∃ t', Lands s i.place (s.toP pd f) t' ∧ WroteP t t' pd g :=
  ⟨_, State.wordRegs_lands h _, t.writeP_wroteP pd hg⟩

end Results

/-! ### The elements of a lane (R100) -/

/-- Element `e` of a lane, of `n` bits. -/
def laneElem (n : Nat) (x : BitVec 32) (e : Nat) : BitVec n := x.extractLsb' (n * e) n

theorem elem_eq_laneElem {n e : Nat} (v : VReg) (j : Nat) (h : n * e + n ≤ 32) : elem n v j e = (laneElem n (lane v j) e).toNat := by
  have hsplit : 2 ^ 32 = 2 ^ (n * e) * 2 ^ (32 - n * e) := by rw [← pow_add]; congr 1; omega
  have hdvd : 2 ^ n ∣ 2 ^ (32 - n * e) := Nat.pow_dvd_pow 2 (by omega)
  simp only [elem, laneElem, lane, BitVec.extractLsb'_toNat, Nat.shiftRight_eq_div_pow, pow_add]
  rw [hsplit, Nat.mod_mul_right_div_self, Nat.mod_mod_of_dvd _ hdvd, Nat.div_div_eq_div_mul]

theorem elem32 (v : VReg) (j : Nat) : elem 32 v j 0 = (lane v j).toNat := by
  rw [elem_eq_laneElem v j (by decide)]
  simp [laneElem]

theorem elem16_lo (v : VReg) (j : Nat) : elem 16 v j 0 = (lo16 (lane v j)).toNat := elem_eq_laneElem v j (by decide)

theorem elem16_hi (v : VReg) (j : Nat) : elem 16 v j 1 = (hi16 (lane v j)).toNat := elem_eq_laneElem v j (by decide)

@[simp] theorem lo16_append (x y : BitVec 16) : lo16 (x ++ y) = y := BitVec.extractLsb'_append_eq_right

@[simp] theorem hi16_append (x y : BitVec 16) : hi16 (x ++ y) = x := BitVec.extractLsb'_append_eq_left

/-! ### Integer elements as exact numbers (R104, R105) -/

theorem ofInt_toNat_cast (n : Nat) (z : Int) : ((BitVec.ofInt n z).toNat : Int) = z % 2 ^ n := by
  have hpos : (0 : Int) < 2 ^ n := by positivity
  rw [BitVec.toNat_ofInt]
  push_cast
  exact Int.toNat_of_nonneg (Int.emod_nonneg _ hpos.ne')

theorem sE_toNat {n : Nat} (x : BitVec n) : sE n x.toNat = x.toInt := by
  rw [sE, BitVec.toInt_eq_toNat_bmod]

theorem toInt_emod {n : Nat} (x : BitVec n) : x.toInt % 2 ^ n = x.toNat := by
  rw [← ofInt_toNat_cast, BitVec.ofInt_toInt]

/-- An element operation gives the low bits of the exact value `f` of its raw operands. -/
def ElementIs {n : Nat} (g : BitVec n → BitVec n → BitVec n) (f : Nat → Nat → Int) : Prop :=
  ∀ x y, ((g x y).toNat : Int) = f x.toNat y.toNat % 2 ^ n

theorem elementIs_ofInt {n : Nat} {g : BitVec n → BitVec n → BitVec n} {f : Nat → Nat → Int}
    (h : ∀ x y, g x y = BitVec.ofInt n (f x.toNat y.toNat)) : ElementIs g f := fun x y => by rw [h, ofInt_toNat_cast]

theorem elementIs_toNat {n : Nat} {g : BitVec n → BitVec n → BitVec n} {f : Nat → Nat → Nat}
    (h : ∀ x y, (g x y).toNat = f x.toNat y.toNat % 2 ^ n) : ElementIs g fun x y => (f x y : Nat) := fun x y => by
  rw [h]
  push_cast
  rfl

theorem elementIs_toInt {n : Nat} {g : BitVec n → BitVec n → BitVec n} {f : Nat → Nat → Int}
    (h : ∀ x y, (g x y).toInt = f x.toNat y.toNat) : ElementIs g f := fun x y => by rw [← toInt_emod, h]

theorem clamp_eq_max_min {lo hi : Int} (h : lo ≤ hi) (x : Int) : clamp lo hi x = max lo (min hi x) := by
  unfold clamp
  split <;> [skip; split] <;> omega

/-- R105: the stored sum or difference is its exact value, wrapped or clamped. -/
theorem satStore_eq_ofInt (uns sat : Bool) (n : Nat) (a b : Int) : satStore uns sat n a b = BitVec.ofInt n (satInt uns sat n a b) := by
  have hpos : (0 : Int) < 2 ^ n := by positivity
  have hhalf : (0 : Int) < 2 ^ (n - 1) := by positivity
  cases sat <;> cases uns
  · rfl
  · rfl
  · exact congrArg (BitVec.ofInt n) (clamp_eq_max_min (lo := -(2 ^ (n - 1))) (by omega) a)
  · exact congrArg (BitVec.ofInt n) (clamp_eq_max_min (lo := 0) (by omega) b)

theorem elementIs_add (uns sat : Bool) (n : Nat) : ElementIs (elemAdd uns sat n) fun x y => satInt uns sat n (sE n x + sE n y) (x + y) :=
  elementIs_ofInt fun x y => by rw [sE_toNat, sE_toNat]; exact satStore_eq_ofInt ..

theorem elementIs_sub (uns sat : Bool) (n : Nat) :
    ElementIs (elemSub uns sat n) fun x y => satInt uns sat n (sE n x - sE n y) ((x : Int) - y) :=
  elementIs_ofInt fun x y => by rw [sE_toNat, sE_toNat]; exact satStore_eq_ofInt ..

theorem elementIs_mul (n : Nat) : ElementIs (n := n) (fun x y => x * y) fun x y => sE n x * sE n y :=
  elementIs_ofInt fun x y => by rw [sE_toNat, sE_toNat, BitVec.ofInt_mul, BitVec.ofInt_toInt, BitVec.ofInt_toInt]

theorem elementIs_mulH (n : Nat) : ElementIs (elemMulH n) fun x y => sE n x * sE n y / 2 ^ n :=
  elementIs_ofInt fun x y => by rw [sE_toNat, sE_toNat, elemMulH]

theorem elementIs_mulHU (n : Nat) : ElementIs (elemMulHU n) fun x y => ((x * y / 2 ^ n : Nat) : Int) :=
  elementIs_toNat fun _ _ => BitVec.toNat_ofNat ..

theorem elementIs_shl (n : Nat) : ElementIs (n := n) (fun x y => x <<< elemShift y) fun x y => ((x * 2 ^ (y % n) : Nat) : Int) :=
  elementIs_toNat fun x y => by rw [BitVec.toNat_shiftLeft, Nat.shiftLeft_eq, elemShift]

theorem elementIs_shr (n : Nat) : ElementIs (n := n) (fun x y => x >>> elemShift y) fun x y => ((x / 2 ^ (y % n) : Nat) : Int) :=
  elementIs_toNat fun x y => by
    rw [BitVec.toNat_ushiftRight, Nat.shiftRight_eq_div_pow, elemShift, Nat.mod_eq_of_lt ((Nat.div_le_self ..).trans_lt x.isLt)]

theorem elementIs_sra (n : Nat) : ElementIs (n := n) (fun x y => x.sshiftRight (elemShift y)) fun x y => sE n x / 2 ^ (y % n) :=
  elementIs_toInt fun x y => by
    simp only [sE_toNat, BitVec.toInt_sshiftRight, Int.shiftRight_eq_div_pow, elemShift]
    push_cast
    rfl

theorem elementIs_sMin (n : Nat) : ElementIs (sMinMax false n) fun x y => min (sE n x) (sE n y) :=
  elementIs_toInt fun x y => by
    rw [sE_toNat, sE_toNat, sMinMax]
    split <;> simp_all
    omega

theorem elementIs_sMax (n : Nat) : ElementIs (sMinMax true n) fun x y => max (sE n x) (sE n y) :=
  elementIs_toInt fun x y => by
    rw [sE_toNat, sE_toNat, sMinMax]
    split <;> simp_all
    omega

theorem elementIs_uMin (n : Nat) : ElementIs (uMinMax false n) fun x y => ((min x y : Nat) : Int) :=
  elementIs_toNat fun x y => by
    rw [Nat.mod_eq_of_lt (by omega), uMinMax]
    split <;> simp_all
    omega

theorem elementIs_uMax (n : Nat) : ElementIs (uMinMax true n) fun x y => ((max x y : Nat) : Int) :=
  elementIs_toNat fun x y => by
    rw [Nat.mod_eq_of_lt (by omega), uMinMax]
    split <;> simp_all
    omega

/-! ### Integer lane operations (R104) -/

/-- A lane operation gives each element of `n` bits the low bits of the exact value `f`. -/
def LaneIs (n : Nat) (F : BitVec 32 → BitVec 32 → BitVec 32) (f : Nat → Nat → Int) : Prop :=
  ∀ x y e, e < 32 / n → ((laneElem n (F x y) e).toNat : Int) = f (laneElem n x e).toNat (laneElem n y e).toNat % 2 ^ n

theorem laneElem_whole (x : BitVec 32) : laneElem 32 x 0 = x := by simp [laneElem]

theorem laneIs_whole {F : BitVec 32 → BitVec 32 → BitVec 32} {f : Nat → Nat → Int} (h : ElementIs F f) : LaneIs 32 F f := by
  intro x y e he
  obtain rfl : e = 0 := by omega
  simp only [laneElem_whole]
  exact h x y

theorem laneIs_perWidth (w : Width) {g : (n : Nat) → BitVec n → BitVec n → BitVec n} {f : Nat → Nat → Nat → Int}
    (h : ∀ n, ElementIs (g n) (f n)) : LaneIs (widthBits w) (perWidth w g) (f (widthBits w)) := by
  cases w with
  | w32 => exact laneIs_whole (h 32)
  | w16 =>
    intro x y e he
    obtain rfl | rfl : e = 0 ∨ e = 1 := by change e < 2 at he; omega
    · exact (congrArg (fun b : BitVec 16 => (b.toNat : Int)) (lo16_append _ _)).trans (h 16 (lo16 x) (lo16 y))
    · exact (congrArg (fun b : BitVec 16 => (b.toNat : Int)) (hi16_append _ _)).trans (h 16 (hi16 x) (hi16 y))

theorem exec_integerLanes (s : State) {ins : Instr} {vd va vb : BitVec 6} {pm : BitVec 3} {n : Nat} {f : Nat → Nat → Nat → Int}
    (h : integerLanes ins = some (vd, va, vb, pm, n, f)) : ∃ F, exec ins s = s.opV vd va vb pm F ∧ LaneIs n F (f n) := by
  unfold integerLanes at h
  split at h <;> cases h <;> refine ⟨_, rfl, ?_⟩
  next uns sat => exact laneIs_perWidth _ (elementIs_add uns sat)
  next uns sat => exact laneIs_perWidth _ (elementIs_sub uns sat)
  next => exact laneIs_perWidth _ elementIs_mul
  next => exact laneIs_perWidth _ elementIs_mulH
  next => exact laneIs_perWidth _ elementIs_mulHU
  next => exact laneIs_whole (elementIs_toNat fun x y => (BitVec.toNat_and x y).trans (Nat.mod_eq_of_lt (x &&& y).isLt).symm)
  next => exact laneIs_whole (elementIs_toNat fun x y => (BitVec.toNat_or x y).trans (Nat.mod_eq_of_lt (x ||| y).isLt).symm)
  next => exact laneIs_whole (elementIs_toNat fun x y => (BitVec.toNat_xor x y).trans (Nat.mod_eq_of_lt (x ^^^ y).isLt).symm)
  next => exact laneIs_perWidth _ elementIs_shl
  next => exact laneIs_perWidth _ elementIs_shr
  next => exact laneIs_perWidth _ elementIs_sra
  next => exact laneIs_perWidth _ elementIs_sMin
  next => exact laneIs_perWidth _ elementIs_sMax
  next => exact laneIs_perWidth _ elementIs_uMin
  next => exact laneIs_perWidth _ elementIs_uMax

theorem integerLanes_bits {ins : Instr} {vd va vb : BitVec 6} {pm : BitVec 3} {n : Nat} {f : Nat → Nat → Nat → Int}
    (h : integerLanes ins = some (vd, va, vb, pm, n, f)) : n = 16 ∨ n = 32 := by
  have hw (w : Width) : widthBits w = 16 ∨ widthBits w = 32 := by cases w <;> simp [widthBits]
  unfold integerLanes at h
  split at h <;> cases h
  case h_6 | h_7 | h_8 => exact .inr rfl
  all_goals exact hw _

end Sys2Proof.Machine
end

section
namespace Sys2Proof.Laws
open Sys2Proof.Machine Sys2Proof.Claims

/-- Settles O2: each operation of the table acts on the elements of a lane as its exact value says, and is written under the mask. -/
theorem integerLanes : Obligations.IntegerLanes := by
  intro s i t ins vd va vb pm n f h hform
  obtain ⟨F, hexec, hF⟩ := exec_integerLanes s hform
  rw [hexec]
  refine ⟨_, State.wordRegs_lands h _, t.writeV_frame .., fun k hk => t.readV_writeV_other hk _, fun j hj => ?_⟩
  rw [t.readV_writeV_same]
  refine ⟨fun hoff => by rw [lane_maskLanes _ _ _ j hj, hoff]; rfl, fun hon e he => ?_⟩
  have hfit : n * e + n ≤ 32 := by
    obtain rfl | rfl := integerLanes_bits hform <;> omega
  simp only [elem_eq_laneElem _ j hfit, lane_maskLanes _ _ _ j hj, if_pos hon]
  exact hF _ _ e he

end Sys2Proof.Laws
end
section
namespace Sys2Proof.Machine
open Sys2Proof.Claims

/-! ### Integer compares and lane predicates (R112, R113) -/

/-- The test of a lane is the test of all its elements (R112). -/
theorem testWidth_eq_all (w : Width) {g : (n : Nat) → BitVec n → BitVec n → Bool} {f : Nat → Nat → Nat → Bool}
    (h : ∀ n x y, g n x y = f n x.toNat y.toNat) (x y : VReg) (j : Nat) :
    testWidth w g (lane x j) (lane y j) =
      (List.range (32 / widthBits w)).all fun e => f (widthBits w) (elem (widthBits w) x j e) (elem (widthBits w) y j e) := by
  cases w with
  | w32 =>
    change g 32 _ _ = ([0].all fun e => f 32 (elem 32 x j e) (elem 32 y j e))
    simp [elem32, h]
  | w16 =>
    change (g 16 _ _ && g 16 _ _) = ([0, 1].all fun e => f 16 (elem 16 x j e) (elem 16 y j e))
    simp [elem16_lo, elem16_hi, h, Bool.and_comm]

theorem exec_integerTest (s : State) {ins : Instr} {pd : BitVec 3} {va vb : BitVec 6} {pm : BitVec 3} {n : Nat}
    {f : Nat → Nat → Nat → Bool} (h : integerTest ins = some (pd, va, vb, pm, n, f)) :
    ∃ w g, n = widthBits w ∧ exec ins s = s.cmpV pd va vb pm (testWidth w g) ∧ ∀ n x y, g n x y = f n x.toNat y.toNat := by
  unfold integerTest at h
  split at h <;> cases h <;> refine ⟨_, _, rfl, rfl, fun n x y => ?_⟩
  case h_1 => exact (beq_eq_decide x y).trans (decide_eq_decide.2 BitVec.toNat_inj.symm)
  case h_2 uns => simp only [elemLt, sE_toNat]
  case h_3 uns => simp only [elemLe, sE_toNat]

theorem exec_lanePredicate (s : State) {ins : Instr} {pd : BitVec 3} {f : Thread → Nat → Bool}
    (h : lanePredicate ins = some (pd, f)) : ∃ g, exec ins s = s.toP pd g ∧ ∀ t j, j < 64 → (g t).getLsbD j = f t j := by
  unfold lanePredicate at h
  split at h <;> cases h <;> refine ⟨_, rfl, fun t j hj => ?_⟩
  case h_1 => exact BitVec.getLsbD_and
  case h_2 => exact BitVec.getLsbD_or
  case h_3 => rw [BitVec.getLsbD_and, BitVec.getLsbD_not, decide_eq_true hj, Bool.true_and]
  case h_4 => exact BitVec.getLsbD_xor
  case h_5 => rfl

end Sys2Proof.Machine

namespace Sys2Proof.Claims
open Sys2Proof.Machine

theorem integerCompares : IntegerCompares := by
  intro s i t ins pd va vb pm n f h hform
  obtain ⟨w, g, rfl, hexec, hg⟩ := exec_integerTest s hform
  rw [hexec]
  refine State.toP_lands h pd _ fun j hj => ?_
  rw [getLsbD_ofBits _ j hj, testWidth_eq_all w hg]

theorem lanePredicates : LanePredicates := by
  intro s i t ins pd f h hform
  obtain ⟨g, hexec, hg⟩ := exec_lanePredicate s hform
  exact hexec ▸ State.toP_lands h pd g (hg t)

/-- Settles O3: a lane's test is the test of its elements, and a predicate is written bit by bit. -/
theorem laneComparisons : Obligations.LaneComparisons := ⟨integerCompares, lanePredicates⟩

end Sys2Proof.Claims

namespace Sys2Proof.Machine
open Sys2Proof.Claims

/-! ### Lane results with indications (R101, R102) -/

theorem indAll_filter_map (p : Nat → Bool) (f : Nat → Ind) (l : List Nat) :
    indAll ((l.filter p).map f) = l.foldr (fun j acc => (if p j then f j else 0) ||| acc) 0 := by
  induction l with
  | nil => rfl
  | cons j l ih =>
    rw [List.foldr_cons, ← ih, List.filter_cons]
    cases p j
    · exact BitVec.zero_or.symm
    · rfl

/-- The indications merged over the active lanes (R102). -/
theorem laneInds_eq_anyInd (m : Word) (f : Nat → Ind) : laneInds m f = anyInd m f := indAll_filter_map _ f _

/-- A word that writes the lanes `f` under a mask and merges their indications does so and nothing else. -/
theorem State.toVF_lands {s : State} {i : Issue} {t : Thread} (h : s.current = some (i, t)) (vd : BitVec 6) (pm : BitVec 3)
    (f : Thread → Nat → LaneRes) :
    ∃ t', Lands s i.place (s.toVF vd fun t => maskRes (t.readP pm) (t.readV vd) (f t)) t' ∧
      WroteVF t t' vd (masked t pm vd fun j => (f t j).1) (anyInd (t.readP pm) fun j => (f t j).2) := by
  refine ⟨_, State.wordRegs_lands h _, fun k hk => t.readV_writeV_other hk _, fun j hj => ?_, ?_, rfl⟩
  · exact (congrArg (lane · j) (t.readV_writeV_same vd _)).trans (lane_maskLanes _ _ _ j hj)
  · rw [← laneInds_eq_anyInd]
    rfl

/-- A floating-point operation on a lane is the operation on its elements (R100). -/
theorem perType_eq_laneF (ty : FTyp) (f : Fmt → Nat → Nat → Nat → Nat × Ind) (t : Thread) (va vb vd : BitVec 6) (j : Nat) :
    perType ty f (lane (t.readV va) j) (lane (t.readV vb) j) (lane (t.readV vd) j) = laneF ty f t va vb vd j := by
  cases ty with
  | f32 => simp only [perType, laneF, typeBits, elem32, if_true, fmtOf]
  | f16 | bf16 =>
    simp only [perType, laneF, typeBits, elem16_lo, elem16_hi, reduceCtorEq, if_false]
    rw [BitVec.or_comm]

theorem exec_floatLanes (s : State) {ins : Instr} {vd va vb : BitVec 6} {pm : BitVec 3} {ty : FTyp}
    {f : Fmt → Nat → Nat → Nat → Nat × Ind} (h : floatLanes ins = some (vd, va, vb, pm, ty, f)) :
    exec ins s = s.toVF vd fun t => maskRes (t.readP pm) (t.readV vd) (laneF ty f t va vb vd) := by
  have hop : exec ins s = s.opF vd va vb pm ty f := by
    unfold floatLanes at h
    split at h <;> cases h <;> rfl
  rw [hop, State.opF]
  simp only [perType_eq_laneF]

end Sys2Proof.Machine

namespace Sys2Proof.Laws
open Sys2Proof.Machine Sys2Proof.Claims

/-- Settles O6: each word of the table runs its element's operation lane by lane, and merges what its active lanes raise. -/
theorem floatLanes : Obligations.FloatLanes := by
  intro s i t ins vd va vb pm ty f h hform
  exact exec_floatLanes s hform ▸ State.toVF_lands h vd pm fun t => laneF ty f t va vb vd

end Sys2Proof.Laws
end

section
/-! SUPPORT. The values of a binary format as a function of the magnitude bits (R275), for 06_vector_lanes.md. -/
set_option Elab.async false
namespace Sys2Proof.Machine
open Sys2Proof.Claims

/-! ### The values of a format, in units of its least subnormal (R275) -/

/-- A format with at least two exponent bits and a fraction, whose finite values lie below the 2^1000 that stands for an infinity. -/
structure Fmt.Ok (f : Fmt) : Prop where
  two_le_w : 2 ≤ f.w
  one_le_m : 1 ≤ f.m
  bias_lt : f.bias < 999

theorem isFormat_ok {f : Fmt} (h : isFormat f) : f.Ok := by
  rcases h with rfl | rfl | rfl | rfl <;> exact ⟨by decide, by decide, by decide⟩

theorem isLaneFormat_isFormat {f : Fmt} (h : isLaneFormat f) : isFormat f := by
  rcases h with rfl | rfl | rfl
  · exact .inl rfl
  · exact .inr (.inl rfl)
  · exact .inr (.inr (.inl rfl))

theorem isLaneFormat_ok {f : Fmt} (h : isLaneFormat f) : f.Ok := isFormat_ok (isLaneFormat_isFormat h)

/-- The magnitude bits `g` as a multiple of the least subnormal. -/
def Fmt.units (f : Fmt) (g : Nat) : Nat :=
  if g / 2 ^ f.m = 0 then g % 2 ^ f.m else (g % 2 ^ f.m + 2 ^ f.m) * 2 ^ (g / 2 ^ f.m - 1)

/-- Significand `y` at `L` places above the least subnormal, in the form every finite value has: normalised, or a subnormal. -/
def Fmt.Placed (f : Fmt) (L y : Nat) : Prop := L = 0 ∨ 2 ^ f.m ≤ y

theorem Fmt.exists_placed (f : Fmt) (g : Nat) : ∃ L y, g = L * 2 ^ f.m + y ∧ f.Placed L y ∧ y < 2 ^ (f.m + 1) := by
  have hpos : 0 < 2 ^ f.m := by positivity
  have hr := Nat.mod_lt g hpos
  have hg := Nat.div_add_mod' g (2 ^ f.m)
  cases he : g / 2 ^ f.m with
  | zero => exact ⟨0, g % 2 ^ f.m, by rw [he] at hg; omega, .inl rfl, by rw [pow_succ]; omega⟩
  | succ L =>
    refine ⟨L, g % 2 ^ f.m + 2 ^ f.m, ?_, .inr (by omega), by rw [pow_succ]; omega⟩
    rw [he, Nat.succ_mul] at hg
    omega

theorem Fmt.units_placed (f : Fmt) {L y : Nat} (h : f.Placed L y) (hy : y ≤ 2 ^ (f.m + 1)) : f.units (L * 2 ^ f.m + y) = y * 2 ^ L := by
  have hpos : 0 < 2 ^ f.m := by positivity
  have hdiv {E r : Nat} (hr : r < 2 ^ f.m) : (E * 2 ^ f.m + r) / 2 ^ f.m = E := by
    rw [Nat.mul_comm, Nat.mul_add_div hpos, Nat.div_eq_of_lt hr, Nat.add_zero]
  have hmod {E r : Nat} (hr : r < 2 ^ f.m) : (E * 2 ^ f.m + r) % 2 ^ f.m = r := by
    rw [Nat.mul_add_mod_self_right, Nat.mod_eq_of_lt hr]
  obtain hlt | ⟨r, rfl, hr⟩ | rfl : y < 2 ^ f.m ∨ (∃ r, y = 2 ^ f.m + r ∧ r < 2 ^ f.m) ∨ y = 2 ^ (f.m + 1) := by
    rw [pow_succ] at hy ⊢
    by_cases hlt : y < 2 ^ f.m
    · exact .inl hlt
    · by_cases heq : y = 2 ^ f.m * 2
      · exact .inr (.inr heq)
      · exact .inr (.inl ⟨y - 2 ^ f.m, by omega, by omega⟩)
  · obtain rfl : L = 0 := h.resolve_right (by omega)
    simp [units, Nat.mod_eq_of_lt hlt, Nat.div_eq_of_lt hlt]
  · rw [show L * 2 ^ f.m + (2 ^ f.m + r) = (L + 1) * 2 ^ f.m + r by ring, units, hdiv hr, hmod hr, if_neg L.succ_ne_zero]
    rw [Nat.add_sub_cancel, Nat.add_comm]
  · rw [show L * 2 ^ f.m + 2 ^ (f.m + 1) = (L + 2) * 2 ^ f.m + 0 by ring, units, hdiv hpos, hmod hpos, if_neg (by omega)]
    rw [show L + 2 - 1 = L + 1 by omega]
    ring

theorem Fmt.units_lt_succ (f : Fmt) (g : Nat) : f.units g < f.units (g + 1) := by
  obtain ⟨L, y, rfl, hp, hy⟩ := f.exists_placed g
  have hp' : f.Placed L (y + 1) := hp.imp_right fun h => by omega
  rw [Nat.add_assoc, f.units_placed hp hy.le, f.units_placed hp' hy]
  have : 0 < 2 ^ L := by positivity
  nlinarith

theorem Fmt.units_strictMono (f : Fmt) : StrictMono f.units := strictMono_nat_of_lt_succ f.units_lt_succ

@[simp] theorem Fmt.units_zero (f : Fmt) : f.units 0 = 0 := by simp [units]


theorem Fmt.infMag_eq (f : Fmt) (h : f.Ok) : f.infMag = (2 ^ f.w - 2) * 2 ^ f.m + 2 ^ f.m := by
  have hw : 2 ^ 2 ≤ 2 ^ f.w := Nat.pow_le_pow_right (by decide) h.two_le_w
  rw [infMag, ← Nat.succ_mul]
  congr 1
  omega

theorem Fmt.signBit_eq (f : Fmt) (h : f.Ok) : f.signBit = f.infMag + 2 ^ f.m := by
  have hw : 2 ^ 2 ≤ 2 ^ f.w := Nat.pow_le_pow_right (by decide) h.two_le_w
  rw [f.infMag_eq h, signBit, pow_add, ← Nat.succ_mul, ← Nat.succ_mul]
  congr 1
  omega

theorem Fmt.bias_eq (f : Fmt) (h : f.Ok) : 2 ^ f.w - 2 = 2 * f.bias ∧ 1 ≤ f.bias := by
  obtain ⟨k, hk⟩ := Nat.exists_eq_add_of_le h.two_le_w
  rw [bias, hk, show 2 + k = k + 1 + 1 by omega, pow_succ, Nat.add_sub_cancel, pow_succ]
  have : 1 ≤ 2 ^ k := Nat.one_le_two_pow
  omega

theorem Fmt.units_infMag (f : Fmt) (h : f.Ok) : f.units f.infMag = 2 ^ (2 * f.bias + f.m) := by
  rw [f.infMag_eq h, f.units_placed (.inr le_rfl) (Nat.pow_le_pow_right (by decide) (by omega)), (f.bias_eq h).1, pow_add, Nat.mul_comm]

section Value
variable (K : Type) [Field K] [LinearOrder K] [IsStrictOrderedRing K]

/-- The real value of magnitude bits. At those of an infinity it is the next power of two past the finite values. -/
def Fmt.magVal (f : Fmt) (g : Nat) : K := (f.units g : K) * 2 ^ f.emin

@[simp] theorem Fmt.magVal_zero (f : Fmt) : f.magVal K 0 = 0 := by simp [magVal]

theorem Fmt.magVal_strictMono (f : Fmt) : StrictMono (f.magVal K) := fun _ _ h =>
  mul_lt_mul_of_pos_right (Nat.cast_lt.2 (f.units_strictMono h)) (by positivity)

theorem Fmt.magVal_nonneg (f : Fmt) (g : Nat) : 0 ≤ f.magVal K g := by unfold magVal; positivity

theorem Fmt.magVal_infMag (f : Fmt) (h : f.Ok) : f.magVal K f.infMag = 2 ^ ((f.bias : Int) + 1) := by
  rw [magVal, f.units_infMag h, emin]
  push_cast
  rw [← zpow_natCast, ← zpow_add₀ two_ne_zero]
  congr 1
  push_cast
  ring

theorem Fmt.magVal_placed (f : Fmt) {L y : Nat} (h : f.Placed L y) (hy : y ≤ 2 ^ (f.m + 1)) :
    f.magVal K (L * 2 ^ f.m + y) = y * 2 ^ (f.emin + L) := by
  rw [magVal, f.units_placed h hy, zpow_add₀ two_ne_zero, zpow_natCast]
  push_cast
  ring

end Value

/-! ### The number a pattern holds (R275) -/

theorem Fmt.num_of_mag_lt (f : Fmt) {x : Nat} (hx : f.mag x < f.infMag) :
    ∃ L y, f.mag x = L * 2 ^ f.m + y ∧ f.Placed L y ∧ y < 2 ^ (f.m + 1) ∧
      f.num x = if y = 0 then .zero (f.neg x) else .fin (f.neg x) y (f.emin + L) := by
  have hpos : 0 < 2 ^ f.m := by positivity
  have hr := Nat.mod_lt (f.mag x) hpos
  have hg := Nat.div_add_mod' (f.mag x) (2 ^ f.m)
  have he : f.mag x / 2 ^ f.m ≠ 2 ^ f.w - 1 := by
    refine (Nat.div_lt_of_lt_mul ?_).ne
    rw [Nat.mul_comm]
    exact hx
  simp only [num, if_neg he]
  cases hE : f.mag x / 2 ^ f.m with
  | zero =>
    rw [hE] at hg
    exact ⟨0, f.mag x % 2 ^ f.m, by omega, .inl rfl, by rw [pow_succ]; omega, by simp⟩
  | succ L =>
    rw [hE, Nat.succ_mul] at hg
    refine ⟨L, f.mag x % 2 ^ f.m + 2 ^ f.m, by omega, .inr (by omega), by rw [pow_succ]; omega, ?_⟩
    rw [if_neg L.succ_ne_zero, if_neg (by omega), Nat.add_sub_cancel]

theorem Fmt.num_of_mag_eq (f : Fmt) {x : Nat} (hx : f.mag x = f.infMag) : f.num x = .inf (f.neg x) := by
  have hpos : 0 < 2 ^ f.m := by positivity
  simp only [num, hx, infMag, Nat.mul_div_cancel _ hpos, Nat.mul_mod_left, if_true]

theorem Fmt.num_of_lt_mag (f : Fmt) (h : f.Ok) {x : Nat} (hx : f.infMag < f.mag x) :
    f.num x = .nan (decide (f.mag x - f.infMag < 2 ^ (f.m - 1))) := by
  have hpos : 0 < 2 ^ f.m := by positivity
  have hlt : f.mag x < f.signBit := Nat.mod_lt _ (by unfold signBit; positivity)
  obtain ⟨r, hr⟩ := Nat.exists_eq_add_of_lt hx
  have hr' : r + 1 < 2 ^ f.m := by rw [f.signBit_eq h] at hlt; omega
  have hx' : f.mag x = 2 ^ f.m * (2 ^ f.w - 1) + (r + 1) := by rw [hr, infMag, Nat.mul_comm]; rfl
  have hdiv : f.mag x / 2 ^ f.m = 2 ^ f.w - 1 := by rw [hx', Nat.mul_add_div hpos, Nat.div_eq_of_lt hr', Nat.add_zero]
  have hmod : f.mag x % 2 ^ f.m = r + 1 := by rw [hx', Nat.mul_add_mod, Nat.mod_eq_of_lt hr']
  simp only [num, hdiv, hmod, if_true, if_neg r.succ_ne_zero]
  rw [show f.mag x - f.infMag = r + 1 by omega]

/-- A pattern is a finite number, an infinity or a NaN, by its magnitude bits. -/
theorem Fmt.num_cases (f : Fmt) (h : f.Ok) (x : Nat) :
    f.mag x < f.infMag ∧ finite (f.num x) ∨ f.mag x = f.infMag ∧ f.num x = .inf (f.neg x) ∨
      f.infMag < f.mag x ∧ ∃ b, f.num x = .nan b := by
  obtain hlt | heq | hgt := lt_trichotomy (f.mag x) f.infMag
  · obtain ⟨L, y, -, -, -, hnum⟩ := f.num_of_mag_lt hlt
    refine .inl ⟨hlt, ?_⟩
    rw [hnum]
    split <;> exact fun b => ⟨nofun, nofun⟩
  · exact .inr (.inl ⟨heq, f.num_of_mag_eq heq⟩)
  · exact .inr (.inr ⟨hgt, _, f.num_of_lt_mag h hgt⟩)

theorem Fmt.finite_num_iff (f : Fmt) (h : f.Ok) (x : Nat) : finite (f.num x) ↔ f.mag x < f.infMag := by
  obtain ⟨hlt, hfin⟩ | ⟨heq, hnum⟩ | ⟨hgt, b, hnum⟩ := f.num_cases h x
  · exact ⟨fun _ => hlt, fun _ => hfin⟩
  · exact ⟨fun hf => absurd hnum (hf _).2, fun hlt => absurd heq hlt.ne⟩
  · exact ⟨fun hf => absurd hnum (hf _).1, fun hlt => absurd hlt hgt.le.not_gt⟩

/-- The sign of a value as a factor. -/
def sgn (K : Type) [Field K] (neg : Bool) : K := if neg then -1 else 1

theorem Fmt.realOf_num_cast (K : Type) [Field K] [LinearOrder K] [IsStrictOrderedRing K] (f : Fmt) {x : Nat}
    (hx : f.mag x < f.infMag) : (realOf (f.num x) : K) = sgn K (f.neg x) * f.magVal K (f.mag x) := by
  obtain ⟨L, y, hmag, hp, hy, hnum⟩ := f.num_of_mag_lt hx
  rw [hnum, hmag, f.magVal_placed K hp hy.le]
  split
  next h0 => simp [realOf, h0]
  next =>
    simp only [realOf, sgn]
    split <;> push_cast <;> ring

theorem Fmt.realOf_num (f : Fmt) {x : Nat} (hx : f.mag x < f.infMag) :
    realOf (f.num x) = sgn ℚ (f.neg x) * f.magVal ℚ (f.mag x) := f.realOf_num_cast ℚ hx

theorem Fmt.infMag_lt_signBit (f : Fmt) (h : f.Ok) : f.infMag < f.signBit := by
  have : 0 < 2 ^ f.m := by positivity
  rw [f.signBit_eq h]
  omega

theorem Fmt.infMag_pos (f : Fmt) (h : f.Ok) : 0 < f.infMag := by
  have : 0 < 2 ^ f.m := by positivity
  rw [f.infMag_eq h]
  omega

section Signed
variable (f : Fmt) (neg : Bool) {g : Nat} (hg : g < f.signBit)
include hg

theorem Fmt.mag_signed : f.mag (f.signed neg g) = g := by
  cases neg <;> simp [mag, signed, Nat.mod_eq_of_lt hg]

theorem Fmt.neg_signed : f.neg (f.signed neg g) = neg := by
  have hpos : 0 < f.signBit := by omega
  cases neg <;> simp [Fmt.neg, signed, Nat.div_eq_of_lt hg, Nat.add_div_right _ hpos]

theorem Fmt.signed_lt : f.signed neg g < 2 * f.signBit := by
  unfold signed
  split <;> omega

end Signed

end Sys2Proof.Machine
end

section
/-! SUPPORT. What `round` picks among the magnitudes of a format: the cell of the exact value, and its end by the mode (R276). -/
set_option Elab.async false
namespace Sys2Proof.Machine
open Sys2Proof.Claims

/-! ### Rounding to a multiple of a power of two (R276) -/

section Neighbours
variable {K : Type} [LinearOrder K]

/-- Whether a mode takes a magnitude `X` to the upper one of its neighbours, `lo` being the lower one and `mid` the midpoint. -/
def goesUp (r : RMode) (neg : Bool) (odd : Prop) (lo mid X : K) : Prop :=
  match r with
  | .rne => mid < X ∨ mid = X ∧ odd
  | .rz => False
  | .rup => lo < X ∧ neg = false
  | .rdn => lo < X ∧ neg = true

theorem goesUp.lo_lt {r : RMode} {neg : Bool} {odd : Prop} {lo mid X : K} (h : goesUp r neg odd lo mid X) (hmid : lo < mid) : lo < X := by
  cases r with
  | rne => exact h.elim hmid.trans fun h => h.1 ▸ hmid
  | rz => exact h.elim
  | rup | rdn => exact h.1

theorem Fmt.overflowed_of_goesUp (f : Fmt) {r : RMode} {neg : Bool} {odd : Prop} {lo mid X : K}
    (h : goesUp r neg odd lo mid X) : f.overflowed r neg = f.infMag := by
  cases r with
  | rne => rfl
  | rz => exact h.elim
  | rup => exact if_neg (by simp [h.2])
  | rdn => exact if_pos h.2

theorem Fmt.overflowed_of_not_goesUp (f : Fmt) {r : RMode} {neg : Bool} {odd : Prop} {lo mid X : K}
    (h : ¬ goesUp r neg odd lo mid X) (hlo : lo < X) (hmid : mid < X) :
    f.overflowed r neg = f.infMag - 1 := by
  cases r with
  | rne => exact absurd (.inl hmid) h
  | rz => rfl
  | rup => exact if_pos (by simpa [goesUp, hlo] using h)
  | rdn => exact if_neg (by simpa [goesUp, hlo] using h)

end Neighbours

section Rounding
variable {K : Type} [Field K] [LinearOrder K]

/-- `u` is the magnitude `X` rounded to a multiple of `2^L`, `q` being the multiple at or below it. -/
structure RoundedAt (r : RMode) (neg : Bool) (X : K) (L : Int) (q : Nat) (u : Nat × Bool) : Prop where
  le : (q : K) * 2 ^ L ≤ X
  lt : X < (q + 1 : K) * 2 ^ L
  inexact : u.2 = true ↔ (q : K) * 2 ^ L < X
  up : goesUp r neg (q % 2 = 1) ((q : K) * 2 ^ L) ((2 * q + 1 : K) * 2 ^ (L - 1)) X → u.1 = q + 1
  down : ¬ goesUp r neg (q % 2 = 1) ((q : K) * 2 ^ L) ((2 * q + 1 : K) * 2 ^ (L - 1)) X → u.1 = q

/-- Two magnitudes are equal, or lie strictly between the same neighbouring multiples of `2^e`. -/
def SameCell (e : Int) (X Y : K) : Prop :=
  X = Y ∨ ∃ a : Nat, (a : K) * 2 ^ e < X ∧ X < (a + 1) * 2 ^ e ∧ (a : K) * 2 ^ e < Y ∧ Y < (a + 1) * 2 ^ e

theorem SameCell.symm {e : Int} {X Y : K} (h : SameCell e X Y) : SameCell e Y X :=
  h.imp Eq.symm fun ⟨a, h1, h2, h3, h4⟩ => ⟨a, h3, h4, h1, h2⟩

variable [IsStrictOrderedRing K]

theorem two_zpow_pred (L : Int) : (2 : K) ^ L = 2 * 2 ^ (L - 1) := by
  rw [zpow_sub_one₀ two_ne_zero]
  field_simp

/-- A multiple of `2^L` lies below the midpoint to the next one. -/
theorem mul_two_zpow_lt_mid (q : K) (L : Int) : q * 2 ^ L < (2 * q + 1) * 2 ^ (L - 1) := by
  have : (0 : K) < 2 ^ (L - 1) := by positivity
  rw [two_zpow_pred L]
  linarith

theorem two_zpow_sub_toNat {e L : Int} (h : e ≤ L) : (2 : K) ^ L = 2 ^ (L - e).toNat * 2 ^ e := by
  rw [← zpow_natCast, ← zpow_add₀ two_ne_zero]
  congr 1
  omega

theorem goesUp_roundUp (r : RMode) (neg : Bool) (q rem k : Nat) {c : K} (hc : 0 < c) :
    goesUp r neg (q % 2 = 1) ((q : K) * 2 ^ k * c) ((q * 2 ^ k + 2 ^ k / 2) * c) ((q * 2 ^ k + rem) * c) ↔
      roundUp r neg q rem k = true := by
  have hmid : (q * 2 ^ k + 2 ^ k / 2 : K) * c < (q * 2 ^ k + rem) * c ↔ 2 ^ k < 2 * rem := by
    rw [mul_lt_mul_iff_left₀ hc, add_lt_add_iff_left, div_lt_iff₀' two_pos]
    exact_mod_cast Iff.rfl
  have hmid' : (q * 2 ^ k + 2 ^ k / 2 : K) * c = (q * 2 ^ k + rem) * c ↔ 2 ^ k = 2 * rem := by
    rw [mul_left_inj' hc.ne', add_right_inj, div_eq_iff two_ne_zero, mul_comm (rem : K)]
    exact_mod_cast Iff.rfl
  have hlo : (q : K) * 2 ^ k * c < (q * 2 ^ k + rem) * c ↔ 0 < rem := by
    rw [mul_lt_mul_iff_left₀ hc, lt_add_iff_pos_right, Nat.cast_pos]
  cases r <;> simp [goesUp, roundUp, hmid, hmid', hlo]

/-- `roundAt` rounds the exact value that it is given. -/
theorem roundedAt_roundAt (r : RMode) (neg : Bool) (mant : Nat) (exp L : Int) :
    ∃ q, RoundedAt r neg ((mant : K) * 2 ^ exp) L q (roundAt r neg mant exp L) := by
  unfold roundAt
  split
  next hle =>
    have hX : (mant : K) * 2 ^ exp = (mant * 2 ^ (exp - L).toNat : Nat) * 2 ^ L := by
      rw [two_zpow_sub_toNat hle]
      push_cast
      ring
    have hpos : (0 : K) < 2 ^ L := by positivity
    refine ⟨mant * 2 ^ (exp - L).toNat, hX.ge, by rw [hX]; linarith, by simp [hX], fun hup => ?_, fun _ => rfl⟩
    rw [hX] at hup
    exact absurd (hup.lo_lt (mul_two_zpow_lt_mid _ L)) (lt_irrefl _)
  next hgt =>
    obtain ⟨k, hk⟩ : ∃ k, k = (L - exp).toNat := ⟨_, rfl⟩
    have hL : (2 : K) ^ L = 2 ^ k * 2 ^ exp := hk ▸ two_zpow_sub_toNat (by omega)
    have hL' : (2 : K) ^ (L - 1) = 2 ^ k / 2 * 2 ^ exp := by
      have := two_zpow_pred (K := K) L
      rw [hL] at this
      linarith
    have hc : (0 : K) < 2 ^ exp := by positivity
    obtain ⟨q, hq⟩ : ∃ q, q = mant / 2 ^ k := ⟨_, rfl⟩
    obtain ⟨rem, hrem⟩ : ∃ rem, rem = mant % 2 ^ k := ⟨_, rfl⟩
    have hmant : mant = q * 2 ^ k + rem := by rw [hq, hrem, Nat.div_add_mod']
    have hX : (mant : K) * 2 ^ exp = (q * 2 ^ k + rem) * 2 ^ exp := by rw [hmant]; push_cast; ring
    have hremlt : (rem : K) < 2 ^ k := by exact_mod_cast hrem ▸ Nat.mod_lt mant (by positivity)
    have hlo : (q : K) * 2 ^ L = q * 2 ^ k * 2 ^ exp := by rw [hL]; ring
    have hmid : (2 * q + 1 : K) * 2 ^ (L - 1) = (q * 2 ^ k + 2 ^ k / 2) * 2 ^ exp := by rw [hL']; ring
    simp only [← hk, ← hq, ← hrem]
    refine ⟨q, ?_, ?_, ?_, ?_, ?_⟩
    · rw [hlo, hX]
      exact mul_le_mul_of_nonneg_right (le_add_of_nonneg_right (Nat.cast_nonneg _)) hc.le
    · rw [hL, hX, ← mul_assoc]
      exact mul_lt_mul_of_pos_right (by linarith) hc
    · rw [hlo, hX, mul_lt_mul_iff_left₀ hc, lt_add_iff_pos_right, Nat.cast_pos, decide_eq_true_eq, Nat.pos_iff_ne_zero]
    · rw [hlo, hmid, hX, goesUp_roundUp r neg q rem k hc]
      exact fun hup => if_pos hup
    · rw [hlo, hmid, hX, goesUp_roundUp r neg q rem k hc]
      exact fun hdown => if_neg hdown

namespace SameCell
variable {e : Int} {X Y : K} (h : SameCell e X Y)
include h

theorem mul_lt (n : Nat) (hn : (n : K) * 2 ^ e < X) : (n : K) * 2 ^ e < Y := by
  obtain rfl | ⟨a, -, hX, hY, -⟩ := h
  · exact hn
  · have hc : (0 : K) < 2 ^ e := by positivity
    have hna : n < a + 1 := by exact_mod_cast lt_of_mul_lt_mul_right (hn.trans hX) hc.le
    have : (n : K) ≤ a := by exact_mod_cast Nat.lt_succ_iff.1 hna
    exact (mul_le_mul_of_nonneg_right this hc.le).trans_lt hY

theorem mul_le (n : Nat) (hn : (n : K) * 2 ^ e ≤ X) : (n : K) * 2 ^ e ≤ Y := by
  obtain rfl | ⟨a, -, hX, hY, -⟩ := h
  · exact hn
  · have hc : (0 : K) < 2 ^ e := by positivity
    have hna : n < a + 1 := by exact_mod_cast lt_of_mul_lt_mul_right (hn.trans_lt hX) hc.le
    have : (n : K) ≤ a := by exact_mod_cast Nat.lt_succ_iff.1 hna
    exact (mul_le_mul_of_nonneg_right this hc.le).trans hY.le

theorem mul_lt_iff (n : Nat) : (n : K) * 2 ^ e < X ↔ (n : K) * 2 ^ e < Y := ⟨h.mul_lt n, h.symm.mul_lt n⟩

theorem mul_le_iff (n : Nat) : (n : K) * 2 ^ e ≤ X ↔ (n : K) * 2 ^ e ≤ Y := ⟨h.mul_le n, h.symm.mul_le n⟩

/-- The same comparisons with the multiples of a larger power. -/
theorem lt_iff {L : Int} (hL : e ≤ L) (n : Nat) : (n : K) * 2 ^ L < X ↔ (n : K) * 2 ^ L < Y := by
  have := h.mul_lt_iff (n * 2 ^ (L - e).toNat)
  rwa [Nat.cast_mul, mul_assoc, Nat.cast_pow, Nat.cast_ofNat, ← two_zpow_sub_toNat hL] at this

theorem le_iff {L : Int} (hL : e ≤ L) (n : Nat) : (n : K) * 2 ^ L ≤ X ↔ (n : K) * 2 ^ L ≤ Y := by
  have := h.mul_le_iff (n * 2 ^ (L - e).toNat)
  rwa [Nat.cast_mul, mul_assoc, Nat.cast_pow, Nat.cast_ofNat, ← two_zpow_sub_toNat hL] at this

theorem goesUp_iff {L : Int} (hL : e + 1 ≤ L) (r : RMode) (neg : Bool) (odd : Prop) (q : Nat) :
    goesUp r neg odd ((q : K) * 2 ^ L) ((2 * q + 1) * 2 ^ (L - 1)) X ↔ goesUp r neg odd ((q : K) * 2 ^ L) ((2 * q + 1) * 2 ^ (L - 1)) Y := by
  have hlo := h.lt_iff (L := L) (by omega) q
  have hmid := h.lt_iff (L := L - 1) (by omega) (2 * q + 1)
  have hmid' := h.le_iff (L := L - 1) (by omega) (2 * q + 1)
  push_cast at hmid hmid'
  cases r with
  | rne => simp only [goesUp, eq_iff_le_not_lt, hmid, hmid']
  | rz => rfl
  | rup | rdn => simp only [goesUp, hlo]

/-- Two magnitudes in a cell of `2^e` round alike to the multiples of `2^(e + 1)` and of larger powers. -/
theorem roundedAt {L : Int} (hL : e + 1 ≤ L) {r : RMode} {neg : Bool} {q : Nat} {u : Nat × Bool} (hX : RoundedAt r neg X L q u) :
    RoundedAt r neg Y L q u := by
  have hlt := h.le_iff (L := L) (by omega) (q + 1)
  push_cast at hlt
  have hup := h.goesUp_iff hL r neg (q % 2 = 1) q
  exact ⟨(h.le_iff (by omega) q).1 hX.le, not_le.1 fun hle => hX.lt.not_ge (hlt.2 hle), hX.inexact.trans (h.lt_iff (by omega) q),
    fun hy => hX.up (hup.2 hy), fun hy => hX.down fun hx => hy (hup.1 hx)⟩

end SameCell


theorem RoundedAt.unique {r : RMode} {neg : Bool} {X : K} {L : Int} {q q' : Nat} {u u' : Nat × Bool} (h : RoundedAt r neg X L q u)
    (h' : RoundedAt r neg X L q' u') : q = q' := by
  have hc : (0 : K) < 2 ^ L := by positivity
  have h1 : q < q' + 1 := by exact_mod_cast lt_of_mul_lt_mul_right (h.le.trans_lt h'.lt) hc.le
  have h2 : q' < q + 1 := by exact_mod_cast lt_of_mul_lt_mul_right (h'.le.trans_lt h.lt) hc.le
  omega

/-! ### What an exact magnitude rounds to in a format (R276) -/

/-- Whether a magnitude, rounded to the fraction of the format with an unbounded exponent, is at least `2^k`. -/
def Fmt.Reaches (f : Fmt) (r : RMode) (neg : Bool) (k : Int) (X : K) : Prop :=
  2 ^ k ≤ X ∨ goesUp r neg True ((2 ^ (f.m + 1) - 1) * 2 ^ (k - f.m - 1)) ((2 ^ (f.m + 2) - 1) * 2 ^ (k - f.m - 2)) X

/-- `g` is the greatest finite magnitude at or below `X`. -/
structure Fmt.Lower (f : Fmt) (X : K) (g : Nat) : Prop where
  lt_infMag : g < f.infMag
  le : f.magVal K g ≤ X
  lt : X < f.magVal K (g + 1) ∨ g + 1 = f.infMag

/-- `z` is what the magnitude `X` rounds to: its lower neighbour `g` or the next magnitude, which is that of an infinity past the last
finite one. -/
structure Fmt.RoundsMag (f : Fmt) (r : RMode) (neg : Bool) (X : K) (g : Nat) (z : Nat × Ind) : Prop extends f.Lower X g where
  up : goesUp r neg (g % 2 = 1) (f.magVal K g) ((f.magVal K g + f.magVal K (g + 1)) / 2) X → z.1 = f.signed neg (g + 1)
  down : ¬ goesUp r neg (g % 2 = 1) (f.magVal K g) ((f.magVal K g + f.magVal K (g + 1)) / 2) X → z.1 = f.signed neg g
  inexact : z.2 &&& indInexact ≠ 0 ↔ f.magVal K g < X
  overflow : z.2 &&& indOverflow ≠ 0 ↔ f.Reaches r neg (f.bias + 1) X
  underflow : z.2 &&& indUnderflow ≠ 0 ↔ f.magVal K g < X ∧ ¬ f.Reaches r neg (1 - f.bias) X
  other : z.2 &&& ~~~(indInexact ||| indOverflow ||| indUnderflow) = 0

/-- The result of `Fmt.round` from its two roundings, with an unbounded exponent and at the place the format has. -/
def Fmt.pack (f : Fmt) (r : RMode) (neg : Bool) (eU : Int) (u y : Nat × Bool) : Nat × Ind :=
  let top : Int := if u.1 = 2 ^ (f.m + 1) then eU + f.m + 1 else eU + f.m
  if (f.bias : Int) < top then (f.signed neg (f.overflowed r neg), indOverflow ||| indInexact)
  else (f.signed neg ((max eU f.emin - f.emin).toNat * 2 ^ f.m + y.1),
    indIf y.2 indInexact ||| indIf (y.2 && u.1 ≠ 0 && top < 1 - (f.bias : Int)) indUnderflow)

theorem Fmt.round_eq_pack (f : Fmt) (r : RMode) (neg : Bool) (mant : Nat) (exp : Int) :
    f.round r neg mant exp =
      (let eU := exp + bitLen mant - (f.m + 1)
       f.pack r neg eU (roundAt r neg mant exp eU) (roundAt r neg mant exp (max eU f.emin))) := rfl

section Pack
variable {f : Fmt} (hf : f.Ok) {r : RMode} {neg : Bool} {X : K} {eU : Int} {q p : Nat} {u y : Nat × Bool}
  (hlo : 2 ^ (eU + f.m) ≤ X) (hhi : X < 2 ^ (eU + f.m + 1)) (hu : RoundedAt r neg X eU q u)
  (hy : RoundedAt r neg X (max eU f.emin) p y)

include hlo hhi hu in
/-- The unbounded rounding has its full significand. -/
theorem RoundedAt.full : 2 ^ f.m ≤ q ∧ q < 2 ^ (f.m + 1) := by
  have hc : (0 : K) < 2 ^ eU := by positivity
  have e1 : (2 : K) ^ (eU + f.m) = (2 ^ f.m : Nat) * 2 ^ eU := by
    rw [zpow_add₀ two_ne_zero, zpow_natCast, mul_comm]
    push_cast
    rfl
  have e2 : (2 : K) ^ (eU + f.m + 1) = (2 ^ (f.m + 1) : Nat) * 2 ^ eU := by
    rw [add_assoc, zpow_add₀ two_ne_zero, ← Nat.cast_succ, zpow_natCast, mul_comm]
    push_cast
    rfl
  constructor
  · have : 2 ^ f.m < q + 1 := by exact_mod_cast lt_of_mul_lt_mul_right (e1 ▸ hlo.trans_lt hu.lt) hc.le
    omega
  · exact_mod_cast lt_of_mul_lt_mul_right (e2 ▸ hu.le.trans_lt hhi) hc.le

include hlo hhi hu in
/-- What the unbounded rounding reaches is told by whether it carries into the next power of two. -/
theorem RoundedAt.reaches_iff (k : Int) : f.Reaches r neg k X ↔ k ≤ if u.1 = 2 ^ (f.m + 1) then eU + f.m + 1 else eU + f.m := by
  obtain ⟨hq, hq'⟩ := hu.full hlo hhi
  have hu1 : u.1 ≤ q + 1 := by
    by_cases hg : goesUp r neg (q % 2 = 1) ((q : K) * 2 ^ eU) ((2 * q + 1 : K) * 2 ^ (eU - 1)) X
    · exact (hu.up hg).le
    · exact (hu.down hg).le.trans q.le_succ
  have hmid (L : Int) : (2 ^ (f.m + 1) - 1 : K) * 2 ^ L < (2 ^ (f.m + 2) - 1) * 2 ^ (L - 1) := by
    convert mul_two_zpow_lt_mid (2 ^ (f.m + 1) - 1 : K) L using 2
    ring
  obtain hk | rfl | hk : k ≤ eU + f.m ∨ k = eU + f.m + 1 ∨ eU + f.m + 2 ≤ k := by omega
  · exact iff_of_true (.inl ((zpow_le_zpow_right₀ one_le_two hk).trans hlo)) (by split <;> omega)
  · have hne : ¬ (2 : K) ^ (eU + f.m + 1) ≤ X := not_le.2 hhi
    have e1 : eU + f.m + 1 - f.m - 1 = eU := by ring
    have e2 : eU + f.m + 1 - f.m - 2 = eU - 1 := by ring
    rw [Fmt.Reaches, or_iff_right hne, e1, e2]
    by_cases htop : q + 1 = 2 ^ (f.m + 1)
    · have hqK : (q : K) = 2 ^ (f.m + 1) - 1 := eq_sub_of_add_eq (by exact_mod_cast htop)
      have hmid : (2 * q + 1 : K) = 2 ^ (f.m + 2) - 1 := by rw [hqK]; ring
      have hodd : (q % 2 = 1) = True := by rw [pow_succ] at htop; exact eq_true (by omega)
      rw [← hqK, ← hmid, ← hodd]
      by_cases hg : goesUp r neg (q % 2 = 1) ((q : K) * 2 ^ eU) ((2 * q + 1 : K) * 2 ^ (eU - 1)) X
      · rw [hu.up hg, if_pos htop]
        exact iff_of_true hg le_rfl
      · rw [hu.down hg, if_neg (by omega)]
        exact iff_of_false hg (by omega)
    · rw [if_neg (by omega)]
      refine iff_of_false (fun hg => ?_) (by omega)
      have hle : (q + 1 : K) ≤ 2 ^ (f.m + 1) - 1 := le_sub_iff_add_le.2 (by exact_mod_cast (by omega : q + 1 + 1 ≤ 2 ^ (f.m + 1)))
      exact (hg.lo_lt (hmid eU)).not_ge (hu.lt.le.trans (mul_le_mul_of_nonneg_right hle (by positivity)))
  · have hle : (2 : K) ^ (eU + f.m + 1) ≤ 2 ^ (k - 1) := zpow_le_zpow_right₀ one_le_two (by omega)
    have hlo' : (2 : K) ^ (k - 1) ≤ (2 ^ (f.m + 1) - 1) * 2 ^ (k - f.m - 1) := by
      have e : (2 : K) ^ (k - 1) = 2 ^ f.m * 2 ^ (k - f.m - 1) := by
        rw [← zpow_natCast, ← zpow_add₀ two_ne_zero]
        congr 1
        ring
      have : (1 : K) ≤ 2 ^ f.m := one_le_pow₀ one_le_two
      rw [e]
      exact mul_le_mul_of_nonneg_right (by rw [pow_succ]; linarith) (by positivity)
    refine iff_of_false (not_or.2 ⟨fun hX => ?_, fun hg => ?_⟩) (by split <;> omega)
    · exact (hhi.trans_le (hle.trans (zpow_le_zpow_right₀ one_le_two (by omega)))).not_ge hX
    · have hlt := hg.lo_lt (by convert hmid (k - f.m - 1) using 3; ring)
      exact (hhi.trans_le (hle.trans hlo')).not_gt hlt

theorem ind_flags (a b : Bool) : 
    ((indIf a indInexact ||| indIf b indUnderflow) &&& indInexact ≠ 0 ↔ a = true) ∧
    (indIf a indInexact ||| indIf b indUnderflow) &&& indOverflow = 0 ∧
    ((indIf a indInexact ||| indIf b indUnderflow) &&& indUnderflow ≠ 0 ↔ b = true) ∧
    (indIf a indInexact ||| indIf b indUnderflow) &&& ~~~(indInexact ||| indOverflow ||| indUnderflow) = 0 := by
  revert a b
  decide

theorem ind_overflowed : (indOverflow ||| indInexact) &&& indInexact ≠ 0 ∧ (indOverflow ||| indInexact) &&& indOverflow ≠ 0 ∧
    ¬ (indOverflow ||| indInexact) &&& indUnderflow ≠ 0 ∧
    (indOverflow ||| indInexact) &&& ~~~(indInexact ||| indOverflow ||| indUnderflow) = 0 := by decide

include hf hlo in
/-- A magnitude past the finite values. -/
theorem Fmt.roundsMag_pack_past (hbig : (f.bias : Int) < eU + f.m) :
    f.RoundsMag r neg X (f.infMag - 1) (f.pack r neg eU u y) := by
  have hpos := f.infMag_pos hf
  have hreach (k : Int) (hk : k ≤ f.bias + 1) : f.Reaches r neg k X :=
    .inl ((zpow_le_zpow_right₀ one_le_two (by omega)).trans hlo)
  have hinf : f.magVal K f.infMag ≤ X := by
    rw [f.magVal_infMag K hf]
    exact (zpow_le_zpow_right₀ one_le_two (by omega)).trans hlo
  have hlast : f.magVal K (f.infMag - 1) < f.magVal K f.infMag := f.magVal_strictMono K (by omega)
  have hpack : f.pack r neg eU u y = (f.signed neg (f.overflowed r neg), indOverflow ||| indInexact) := by
    rw [pack, if_pos (by split <;> omega)]
  have hsucc : f.infMag - 1 + 1 = f.infMag := by omega
  obtain ⟨hinexact, hoverflow, hunderflow, hother⟩ := ind_overflowed
  rw [hpack]
  refine ⟨⟨by omega, hlast.le.trans hinf, .inr hsucc⟩, fun hg => ?_, fun hg => ?_, ?_, ?_, ?_, hother⟩
  · rw [f.overflowed_of_goesUp hg, hsucc]
  · rw [hsucc] at hg
    rw [f.overflowed_of_not_goesUp hg (by linarith) (by linarith)]
  · exact iff_of_true hinexact (by linarith)
  · exact iff_of_true hoverflow (hreach _ le_rfl)
  · have := (f.bias_eq hf).2
    exact iff_of_false hunderflow fun h => h.2 (hreach _ (by omega))

include hf hlo hhi hu hy in
/-- A magnitude below the next power of two past the finite values. -/
theorem Fmt.roundsMag_pack_within (hle : eU + f.m ≤ f.bias) : ∃ g, f.RoundsMag r neg X g (f.pack r neg eU u y) := by
  obtain ⟨hq, hq'⟩ := hu.full hlo hhi
  have hm := hf.one_le_m
  have hb := (f.bias_eq hf).2
  obtain ⟨L, hL⟩ : ∃ L, L = max eU f.emin := ⟨_, rfl⟩
  obtain ⟨d, hd⟩ : ∃ d, d = (L - f.emin).toNat := ⟨_, rfl⟩
  have hLd : f.emin + d = L := by omega
  rw [← hL] at hy
  have hplace : f.Placed d p := by
    by_cases he : L = eU
    · subst he
      exact .inr (hy.full hlo hhi).1
    · exact .inl (by omega)
  have hp : p < 2 ^ (f.m + 1) := by
    have hc : (0 : K) < 2 ^ L := by positivity
    have hX : X < (2 ^ (f.m + 1) : Nat) * 2 ^ L := by
      refine hhi.trans_le ?_
      rw [Nat.cast_pow, Nat.cast_ofNat, ← zpow_natCast, ← zpow_add₀ two_ne_zero]
      exact zpow_le_zpow_right₀ one_le_two (by push_cast; omega)
    exact_mod_cast lt_of_mul_lt_mul_right (hy.le.trans_lt hX) hc.le
  have hval : f.magVal K (d * 2 ^ f.m + p) = p * 2 ^ L := by rw [f.magVal_placed K hplace hp.le, hLd]
  have hval' : f.magVal K (d * 2 ^ f.m + p + 1) = (p + 1) * 2 ^ L := by
    rw [Nat.add_assoc, f.magVal_placed K (hplace.imp_right fun h => by omega) hp, hLd]
    push_cast
    rfl
  have hmid : (f.magVal K (d * 2 ^ f.m + p) + f.magVal K (d * 2 ^ f.m + p + 1)) / 2 = (2 * p + 1) * 2 ^ (L - 1) := by
    rw [hval, hval', two_zpow_pred L]
    ring
  have hodd : (d * 2 ^ f.m + p) % 2 = 1 ↔ p % 2 = 1 := by
    obtain ⟨k, hk⟩ := Nat.exists_eq_add_of_le hm
    rw [hk, pow_add, pow_one, Nat.mul_left_comm, Nat.mul_add_mod]
  have hinf : f.magVal K f.infMag = 2 ^ ((f.bias : Int) + 1) := f.magVal_infMag K hf
  have hmono := f.magVal_strictMono K
  have hlt : d * 2 ^ f.m + p < f.infMag := by
    rw [← hmono.lt_iff_lt, hinf, hval]
    exact hy.le.trans_lt (hhi.trans_le (zpow_le_zpow_right₀ one_le_two (by omega)))
  obtain ⟨top, htop⟩ : ∃ top, top = if u.1 = 2 ^ (f.m + 1) then eU + f.m + 1 else eU + f.m := ⟨_, rfl⟩
  have hreach (k : Int) : f.Reaches r neg k X ↔ k ≤ top := htop ▸ hu.reaches_iff hlo hhi k
  refine ⟨d * 2 ^ f.m + p, ?_⟩
  by_cases hover : (f.bias : Int) < top
  · have hcarry : u.1 = 2 ^ (f.m + 1) := by by_contra hne; rw [if_neg hne] at htop; omega
    have hLe : L = eU := by
      rw [if_pos hcarry] at htop
      rw [hL, Fmt.emin]
      omega
    have hpq : p = q := by rw [hLe] at hy; exact hy.unique hu
    have hup : goesUp r neg (p % 2 = 1) ((p : K) * 2 ^ L) ((2 * p + 1 : K) * 2 ^ (L - 1)) X := by
      rw [hLe, hpq]
      by_contra hg
      exact absurd (hu.down hg) (by omega)
    have hq1 : p + 1 = 2 ^ (f.m + 1) := by
      rw [hLe, hpq] at hup
      rw [hpq, ← hu.up hup, hcarry]
    have hlast : d * 2 ^ f.m + p + 1 = f.infMag := by
      refine hmono.injective ?_
      have hpK : (p + 1 : K) = 2 ^ (f.m + 1) := by exact_mod_cast hq1
      rw [hval', hinf, hpK, ← zpow_natCast, ← zpow_add₀ two_ne_zero]
      congr 1
      rw [if_pos hcarry] at htop
      push_cast
      omega
    have hpack : f.pack r neg eU u y = (f.signed neg f.infMag, indOverflow ||| indInexact) := by
      rw [pack, ← htop, if_pos hover, f.overflowed_of_goesUp hup]
    obtain ⟨hinexact, hoverflow, hunderflow, hother⟩ := ind_overflowed
    rw [hpack]
    refine ⟨⟨hlt, hval ▸ hy.le, .inr hlast⟩, fun _ => by rw [hlast], fun hg => ?_, ?_, ?_, ?_, hother⟩
    · rw [hodd, hmid, hval] at hg
      exact absurd hup hg
    · rw [hval]
      exact iff_of_true hinexact (hup.lo_lt (mul_two_zpow_lt_mid _ L))
    · rw [hreach]
      exact iff_of_true hoverflow (by omega)
    · rw [hreach]
      exact iff_of_false hunderflow fun h => h.2 (by omega)
  · have hu0 : u.1 ≠ 0 := by
      have hpos : 0 < 2 ^ f.m := by positivity
      by_cases hg : goesUp r neg (q % 2 = 1) ((q : K) * 2 ^ eU) ((2 * q + 1 : K) * 2 ^ (eU - 1)) X
      · rw [hu.up hg]; omega
      · rw [hu.down hg]; omega
    have hpack : f.pack r neg eU u y = (f.signed neg (d * 2 ^ f.m + y.1),
        indIf y.2 indInexact ||| indIf (y.2 && u.1 ≠ 0 && top < 1 - (f.bias : Int)) indUnderflow) := by
      rw [pack, ← htop, if_neg hover, ← hL, ← hd]
    obtain ⟨hinexact, hoverflow, hunderflow, hother⟩ := ind_flags y.2 (y.2 && u.1 ≠ 0 && top < 1 - (f.bias : Int))
    rw [hpack]
    refine ⟨⟨hlt, hval ▸ hy.le, .inl (hval' ▸ hy.lt)⟩, fun hg => ?_, fun hg => ?_, ?_, ?_, ?_, hother⟩
    · rw [hodd, hmid, hval] at hg
      rw [hy.up hg, Nat.add_assoc]
    · rw [hodd, hmid, hval] at hg
      rw [hy.down hg]
    · rw [hinexact, hy.inexact, hval]
    · rw [hreach]
      exact iff_of_false (not_not.2 hoverflow) (by omega)
    · rw [hunderflow, hreach, hval, ← hy.inexact]
      simp only [ne_eq, hu0, not_false_eq_true, decide_true, Bool.and_true, Bool.and_eq_true, decide_eq_true_eq, not_le]

end Pack

/-- A significand and an exponent stand for the magnitude `X`: exactly, or as the odd neighbour of a cell that holds `X`, with at least
two bits below the last place of the format. -/
def Fmt.Stands (f : Fmt) (mant : Nat) (exp : Int) (X : K) : Prop :=
  X = mant * 2 ^ exp ∨ ∃ e, SameCell e X (mant * 2 ^ exp) ∧ e + 1 ≤ exp + bitLen mant - (f.m + 1)

theorem bitLen_bounds {n : Nat} (h : 0 < n) : 2 ^ (bitLen n - 1) ≤ n ∧ n < 2 ^ bitLen n ∧ 1 ≤ bitLen n := by
  have hb : bitLen n = Nat.log2 n + 1 := if_neg h.ne'
  rw [hb, Nat.add_sub_cancel]
  exact ⟨Nat.log2_self_le h.ne', Nat.lt_log2_self, by omega⟩

/-- `Fmt.round` rounds every magnitude that its significand and exponent stand for. -/
theorem Fmt.roundsMag_round {f : Fmt} (hf : f.Ok) (r : RMode) (neg : Bool) {mant : Nat} (exp : Int) (hmant : 0 < mant) {X : K}
    (h : f.Stands mant exp X) : ∃ g, f.RoundsMag r neg X g (f.round r neg mant exp) := by
  obtain ⟨hb, hb', hb1⟩ := bitLen_bounds hmant
  obtain ⟨eU, heU⟩ : ∃ eU, eU = exp + bitLen mant - (f.m + 1) := ⟨_, rfl⟩
  have hc : (0 : K) < 2 ^ exp := by positivity
  have hcell : ∃ e, SameCell e X (mant * 2 ^ exp) ∧ e + 1 ≤ eU := by
    obtain rfl | ⟨e, hcell, he⟩ := h
    · exact ⟨eU - 1, .inl rfl, by omega⟩
    · exact ⟨e, hcell, heU ▸ he⟩
  obtain ⟨e, hcell, he⟩ := hcell
  have hlo : (2 : K) ^ (eU + f.m) ≤ X := by
    have := (hcell.le_iff (L := eU + f.m) (by omega) 1).2 (by
      rw [Nat.cast_one, one_mul, show eU + f.m = (bitLen mant - 1 : Nat) + exp by omega, zpow_add₀ two_ne_zero, zpow_natCast]
      exact mul_le_mul_of_nonneg_right (by exact_mod_cast hb) hc.le)
    rwa [Nat.cast_one, one_mul] at this
  have hhi : X < 2 ^ (eU + f.m + 1) := by
    refine not_le.1 fun hX => ?_
    have := (hcell.le_iff (L := eU + f.m + 1) (by omega) 1).1 (by rwa [Nat.cast_one, one_mul])
    rw [Nat.cast_one, one_mul, show eU + f.m + 1 = bitLen mant + exp by omega, zpow_add₀ two_ne_zero, zpow_natCast] at this
    have := le_of_mul_le_mul_right this hc
    exact hb'.not_ge (by exact_mod_cast this)
  obtain ⟨q, hq⟩ := roundedAt_roundAt (K := K) r neg mant exp eU
  obtain ⟨p, hp⟩ := roundedAt_roundAt (K := K) r neg mant exp (max eU f.emin)
  have hu := hcell.symm.roundedAt he hq
  have hy := hcell.symm.roundedAt (he.trans (le_max_left ..)) hp
  rw [f.round_eq_pack, ← heU]
  by_cases hbig : (f.bias : Int) < eU + f.m
  · exact ⟨_, roundsMag_pack_past hf hlo hbig⟩
  · exact roundsMag_pack_within hf hlo hhi hu hy (not_lt.1 hbig)

end Rounding
end Sys2Proof.Machine
end

section
/-! SUPPORT. From the magnitude that `round` picks to the statement's rounded value and indications (R276). -/
set_option Elab.async false
namespace Sys2Proof.Machine
open Sys2Proof.Claims

/-! ### The rounded magnitude among the magnitudes of the format -/

section Order
variable {K : Type} [Field K] [LinearOrder K] [IsStrictOrderedRing K] {f : Fmt} {r : RMode} {neg : Bool} {X : K} {g : Nat} {z : Nat × Ind}

theorem Fmt.magVal_lt_succ (K : Type) [Field K] [LinearOrder K] [IsStrictOrderedRing K] (f : Fmt) (g : Nat) :
    f.magVal K g < f.magVal K (g + 1) := f.magVal_strictMono K g.lt_succ_self

theorem Fmt.goesUp_lt {odd : Prop} (hg : goesUp r neg odd (f.magVal K g) ((f.magVal K g + f.magVal K (g + 1)) / 2) X) :
    f.magVal K g < X := hg.lo_lt (by linarith [f.magVal_lt_succ K g])

omit [IsStrictOrderedRing K] in
/-- The result is one of the two neighbours. -/
theorem Fmt.RoundsMag.exists_mag (h : f.RoundsMag r neg X g z) : ∃ k, z.1 = f.signed neg k ∧ (k = g ∨ k = g + 1) ∧
    (goesUp r neg (g % 2 = 1) (f.magVal K g) ((f.magVal K g + f.magVal K (g + 1)) / 2) X ↔ k = g + 1) := by
  by_cases hg : goesUp r neg (g % 2 = 1) (f.magVal K g) ((f.magVal K g + f.magVal K (g + 1)) / 2) X
  · exact ⟨g + 1, h.up hg, .inr rfl, iff_of_true hg rfl⟩
  · exact ⟨g, h.down hg, .inl rfl, iff_of_false hg g.lt_succ_self.ne⟩

/-- The finite magnitudes at or below `X` do not exceed the lower neighbour. -/
theorem Fmt.Lower.le_of_magVal_le (h : f.Lower X g) {k : Nat} (hk : k < f.infMag) (hX : f.magVal K k ≤ X) : k ≤ g := by
  by_contra hlt
  obtain hX' | htop := h.lt
  · exact (hX.trans_lt hX').not_ge ((f.magVal_strictMono K).monotone (by omega))
  · omega

/-- A magnitude above `X` is at least the upper neighbour. -/
theorem Fmt.Lower.succ_le_of_lt_magVal (h : f.Lower X g) {k : Nat} (hX : X < f.magVal K k) : g + 1 ≤ k := by
  by_contra hle
  exact (h.le.trans_lt hX).not_ge ((f.magVal_strictMono K).monotone (by omega))

/-- `j` is the least magnitude, finite or that of an infinity, at or above `X`. -/
def Fmt.Upper (f : Fmt) (X : K) (g j : Nat) : Prop := j = g ∧ X = f.magVal K g ∨ j = g + 1 ∧ f.magVal K g < X

theorem Fmt.Lower.upper_le (h : f.Lower X g) {j k : Nat} (hj : f.Upper X g j) (hk : k < f.infMag) (hX : X ≤ f.magVal K k) : j ≤ k := by
  obtain ⟨rfl, rfl⟩ | ⟨rfl, hlt⟩ := hj
  · exact (f.magVal_strictMono K).le_iff_le.1 hX
  · refine h.succ_le_of_lt_magVal (hX.lt_of_ne fun he => ?_)
    have := h.le_of_magVal_le hk he.ge
    exact (he ▸ hlt).not_ge ((f.magVal_strictMono K).monotone this)

section Nearest
variable (h : f.RoundsMag .rne neg X g z) {j : Nat} (hz : z.1 = f.signed neg j) (hj : j = g ∨ j = g + 1) (hlt : j < f.infMag)
  (hup : goesUp .rne neg (g % 2 = 1) (f.magVal K g) ((f.magVal K g + f.magVal K (g + 1)) / 2) X ↔ j = g + 1)
include h hj hlt hup

/-- RNE takes a finite magnitude to a nearest one. -/
theorem Fmt.RoundsMag.nearest {k : Nat} (hk : k < f.infMag) : |f.magVal K j - X| ≤ |f.magVal K k - X| := by
  have hmono := (f.magVal_strictMono K).monotone
  have hg := h.le
  obtain hkg | hkg : k ≤ g ∨ g + 1 ≤ k := by omega
  · have h1 := hmono hkg
    rw [abs_of_nonpos (sub_nonpos.2 (h1.trans hg))]
    obtain rfl | rfl := hj
    · rw [abs_of_nonpos (sub_nonpos.2 hg)]
      linarith
    · have hX := h.lt.resolve_right hlt.ne
      have hmid : (f.magVal K g + f.magVal K (g + 1)) / 2 ≤ X := (hup.2 rfl).elim le_of_lt fun h => h.1.le
      rw [abs_of_pos (sub_pos.2 hX)]
      linarith
  · have h1 := hmono hkg
    have hX := h.lt.resolve_right (by omega)
    rw [abs_of_pos (sub_pos.2 (hX.trans_le h1))]
    obtain rfl | rfl := hj
    · have hmid : X ≤ (f.magVal K j + f.magVal K (j + 1)) / 2 := not_lt.1 fun hlt => absurd (hup.1 (.inl hlt)) j.lt_succ_self.ne
      rw [abs_of_nonpos (sub_nonpos.2 hg)]
      linarith
    · rw [abs_of_pos (sub_pos.2 hX)]
      linarith

/-- Where another magnitude is as near, RNE has taken the even one. -/
theorem Fmt.RoundsMag.even_of_tie {k : Nat} (hk : k < f.infMag) (hne : k ≠ j) (htie : |f.magVal K j - X| = |f.magVal K k - X|) :
    j % 2 = 0 := by
  have hmono := f.magVal_strictMono K
  have hg := h.le
  obtain rfl | rfl := hj
  · have hdown : ¬ goesUp .rne neg (j % 2 = 1) (f.magVal K j) ((f.magVal K j + f.magVal K (j + 1)) / 2) X :=
      fun hd => absurd (hup.1 hd) j.lt_succ_self.ne
    rw [abs_of_nonpos (sub_nonpos.2 hg)] at htie
    obtain hkg | hkg : k < j ∨ j + 1 ≤ k := by omega
    · have h1 := hmono hkg
      rw [abs_of_neg (sub_neg.2 (h1.trans_le hg))] at htie
      linarith
    · have h1 := hmono.monotone hkg
      have hX := h.lt.resolve_right (by omega)
      rw [abs_of_pos (sub_pos.2 (hX.trans_le h1))] at htie
      have hmid : (f.magVal K j + f.magVal K (j + 1)) / 2 = X := le_antisymm (by linarith) (not_lt.1 fun hlt => hdown (.inl hlt))
      have : ¬ j % 2 = 1 := fun hodd => hdown (.inr ⟨hmid, hodd⟩)
      omega
  · have hX := h.lt.resolve_right hlt.ne
    rw [abs_of_pos (sub_pos.2 hX)] at htie
    obtain hkg | hkg : k ≤ g ∨ g + 1 < k := by omega
    · have h1 := hmono.monotone hkg
      rw [abs_of_nonpos (sub_nonpos.2 (h1.trans hg))] at htie
      obtain hmid | ⟨-, hodd⟩ := hup.2 rfl
      · linarith
      · omega
    · have h1 := hmono hkg
      rw [abs_of_pos (sub_pos.2 (hX.trans h1))] at htie
      linarith

end Nearest

/-! ### The thresholds of overflow and underflow (R276) -/

theorem Fmt.reaches_iff (f : Fmt) (r : RMode) (neg : Bool) (k : Int) (X : K) : f.Reaches r neg k X ↔
    (r = .rne → (2 - 2 ^ (-((f.m : Int) + 1))) * 2 ^ (k - 1) ≤ X) ∧
    ((r = .rup ∧ neg = false ∨ r = .rdn ∧ neg = true) → (2 - 2 ^ (-(f.m : Int))) * 2 ^ (k - 1) < X) ∧
    (r ≠ .rne → ¬ (r = .rup ∧ neg = false ∨ r = .rdn ∧ neg = true) → 2 ^ k ≤ X) := by
  have hk : (2 : K) ^ k = 2 * 2 ^ (k - 1) := two_zpow_pred k
  have hpos : (0 : K) < 2 ^ (k - 1) := by positivity
  have hm : (0 : K) < 2 ^ (-(f.m : Int)) := by positivity
  have hm1 : (2 : K) ^ (-(f.m : Int)) = 2 * 2 ^ (-((f.m : Int) + 1)) := by rw [two_zpow_pred]; congr 2; ring
  have e1 : (2 ^ (f.m + 1) - 1) * 2 ^ (k - f.m - 1) = (2 - 2 ^ (-(f.m : Int))) * (2 : K) ^ (k - 1) := by
    rw [show k - f.m - 1 = k - 1 + -(f.m : Int) by ring, zpow_add₀ two_ne_zero, zpow_neg, zpow_natCast, pow_succ]
    field_simp
  have e2 : (2 ^ (f.m + 2) - 1) * 2 ^ (k - f.m - 2) = (2 - 2 ^ (-((f.m : Int) + 1))) * (2 : K) ^ (k - 1) := by
    rw [show k - f.m - 2 = k - 1 + -((f.m : Int) + 1) by ring, zpow_add₀ two_ne_zero, zpow_neg, ← Nat.cast_succ, zpow_natCast, pow_succ, pow_succ]
    field_simp
  have hle1 : (2 - 2 ^ (-(f.m : Int))) * (2 : K) ^ (k - 1) < 2 ^ k := by nlinarith
  have hle2 : (2 - 2 ^ (-((f.m : Int) + 1))) * (2 : K) ^ (k - 1) < 2 ^ k := by nlinarith
  rw [Reaches, e1, e2]
  cases r with
  | rne =>
    simp only [goesUp, and_true, ← le_iff_lt_or_eq, reduceCtorEq, false_and, or_self, IsEmpty.forall_iff, true_imp_iff, ne_eq,
      not_true_eq_false]
    exact or_iff_right_of_imp hle2.le.trans
  | rz => simp [goesUp]
  | rup =>
    cases neg
    · simpa [goesUp] using hle1.trans_le
    · simp [goesUp]
  | rdn =>
    cases neg
    · simp [goesUp]
    · simpa [goesUp] using hle1.trans_le

/-! ### Signed values -/

theorem sgn_mul_abs (K : Type) [Field K] [LinearOrder K] [IsStrictOrderedRing K] (x : K) : sgn K (decide (x < 0)) * |x| = x := by
  by_cases hx : x < 0
  · simp [sgn, hx, abs_of_neg hx]
  · simp [sgn, hx, abs_of_nonneg (not_lt.1 hx)]

omit [IsStrictOrderedRing K] in
theorem abs_sgn_mul (b : Bool) (x : K) : |sgn K b * x| = |x| := by
  cases b <;> simp [sgn]

/-- Magnitudes are no farther apart than the signed values. -/
theorem abs_sub_le_abs_sgn_sub (b c : Bool) {x y : K} (hx : 0 ≤ x) (hy : 0 ≤ y) : |x - y| ≤ |sgn K b * x - sgn K c * y| := by
  have := abs_abs_sub_abs_le (sgn K b * x) (sgn K c * y)
  rwa [abs_sgn_mul, abs_sgn_mul, abs_of_nonneg hx, abs_of_nonneg hy] at this

omit [IsStrictOrderedRing K] in
theorem abs_sgn_sub (b : Bool) (x y : K) : |sgn K b * x - sgn K b * y| = |x - y| := by rw [← mul_sub, abs_sgn_mul]

end Order

/-- A pattern that is no NaN is a finite value, known by its sign and magnitude bits, or an infinity. -/
theorem Fmt.num_cases_of_not_nan {f : Fmt} (hf : f.Ok) {q : Nat} (h : ∀ b, f.num q ≠ .nan b) :
    f.mag q < f.infMag ∧ finite (f.num q) ∨ f.num q = .inf (f.neg q) := by
  obtain hfin | hinf | ⟨-, b, hnan⟩ := f.num_cases hf q
  · exact .inl hfin
  · exact .inr hinf.2
  · exact absurd hnan (h b)

theorem atMost_of_finite {n : Machine.Num} (h : finite n) (x : ℚ) : atMost n x ↔ realOf n ≤ x := by
  cases n with
  | nan b => exact absurd rfl (h b).1
  | inf b => exact absurd rfl (h b).2
  | zero b => rfl
  | fin b m e => rfl

/-- The finite values lie within the numbers that stand for the infinities. -/
theorem Fmt.magVal_lt_big {f : Fmt} (hf : f.Ok) {k : Nat} (hk : k < f.infMag) : f.magVal ℚ k < 2 ^ 1000 := by
  have h1 := f.magVal_strictMono ℚ hk
  rw [f.magVal_infMag ℚ hf] at h1
  refine h1.trans_le ?_
  rw [← zpow_natCast]
  exact zpow_le_zpow_right₀ one_le_two (by have := hf.bias_lt; omega)

theorem Fmt.infMag_even {f : Fmt} (hf : f.Ok) : f.infMag % 2 = 0 := by
  obtain ⟨k, hk⟩ := Nat.exists_eq_add_of_le hf.one_le_m
  rw [infMag, hk, pow_add, pow_one, Nat.mul_left_comm, Nat.mul_mod_right]

theorem Fmt.signBit_even {f : Fmt} (hf : f.Ok) : f.signBit % 2 = 0 := by
  obtain ⟨k, hk⟩ := Nat.exists_eq_add_of_le hf.one_le_m
  rw [signBit, hk, ← Nat.add_assoc, Nat.add_right_comm, pow_succ, Nat.mul_mod_left]

theorem Fmt.signed_mod_two {f : Fmt} (hf : f.Ok) (neg : Bool) (k : Nat) : f.signed neg k % 2 = k % 2 := by
  have := f.signBit_even hf
  unfold signed
  split <;> omega

/-- The largest finite value. -/
theorem Fmt.magVal_last (K : Type) [Field K] [LinearOrder K] [IsStrictOrderedRing K] {f : Fmt} (hf : f.Ok) :
    f.magVal K (f.infMag - 1) = (2 - 2 ^ (-(f.m : Int))) * 2 ^ f.bias := by
  obtain ⟨hw, hb⟩ := f.bias_eq hf
  have hm : 2 ≤ 2 ^ (f.m + 1) := Nat.le_self_pow (by omega) 2
  have hmag : f.infMag - 1 = (2 * f.bias - 1) * 2 ^ f.m + (2 ^ (f.m + 1) - 1) := by
    have : 2 * f.bias * 2 ^ f.m = (2 * f.bias - 1) * 2 ^ f.m + 2 ^ f.m := by
      rw [← Nat.succ_mul]
      congr 1
      omega
    rw [f.infMag_eq hf, hw, this]
    omega
  have hplaced : f.Placed (2 * f.bias - 1) (2 ^ (f.m + 1) - 1) := .inr (by rw [pow_succ]; have := Nat.one_le_two_pow (n := f.m); omega)
  have hexp : f.emin + (2 * f.bias - 1 : Nat) = f.bias + -(f.m : Int) := by
    rw [emin]
    omega
  rw [hmag, f.magVal_placed K hplaced (Nat.sub_le _ _), hexp, zpow_add₀ two_ne_zero, zpow_neg, zpow_natCast, zpow_natCast,
    Nat.cast_sub (by omega), pow_succ]
  push_cast
  field_simp

theorem Fmt.magVal_last_mid {f : Fmt} (hf : f.Ok) : (f.magVal ℚ (f.infMag - 1) + f.magVal ℚ f.infMag) / 2 = rneLimit f := by
  have hm1 : (2 : ℚ) ^ (-(f.m : Int)) = 2 * 2 ^ (-((f.m : Int) + 1)) := by rw [two_zpow_pred]; congr 2; ring
  rw [f.magVal_last ℚ hf, f.magVal_infMag ℚ hf, rneLimit, ← Nat.cast_succ, zpow_natCast, hm1, pow_succ]
  ring

/-! ### The rounded value of an exact one (R276) -/

section Signed
variable {f : Fmt} (hf : f.Ok)
include hf

theorem Fmt.finite_signed_cast (K : Type) [Field K] [LinearOrder K] [IsStrictOrderedRing K] (neg : Bool) {k : Nat} (hk : k < f.infMag) :
    finite (f.num (f.signed neg k)) ∧ (realOf (f.num (f.signed neg k)) : K) = sgn K neg * f.magVal K k := by
  have hk' := hk.trans (f.infMag_lt_signBit hf)
  refine ⟨(f.finite_num_iff hf _).2 (by rwa [f.mag_signed neg hk']), ?_⟩
  rw [f.realOf_num_cast K (by rwa [f.mag_signed neg hk']), f.mag_signed neg hk', f.neg_signed neg hk']

theorem Fmt.finite_signed (neg : Bool) {k : Nat} (hk : k < f.infMag) :
    finite (f.num (f.signed neg k)) ∧ realOf (f.num (f.signed neg k)) = sgn ℚ neg * f.magVal ℚ k := f.finite_signed_cast hf ℚ neg hk

theorem Fmt.num_signed_infMag (neg : Bool) : f.num (f.signed neg f.infMag) = .inf neg := by
  have hlt := f.infMag_lt_signBit hf
  rw [f.num_of_mag_eq (f.mag_signed neg hlt), f.neg_signed neg hlt]

/-- A finite result of RNE is a nearest finite value, and where another is as near it has an even fraction. -/
theorem Fmt.RoundsMag.nearest_value {K : Type} [Field K] [LinearOrder K] [IsStrictOrderedRing K] {x : K} (hx : x ≠ 0) {g : Nat}
    {z : Nat × Ind} (h : f.RoundsMag .rne (decide (x < 0)) |x| g z) (hfin : finite (f.num z.1)) :
    (∀ {q}, finite (f.num q) → |(realOf (f.num z.1) : K) - x| ≤ |(realOf (f.num q) : K) - x|) ∧
      ∀ {q}, finite (f.num q) → realOf (f.num q) ≠ realOf (f.num z.1) →
        |(realOf (f.num z.1) : K) - x| = |(realOf (f.num q) : K) - x| → z.1 % 2 = 0 := by
  obtain ⟨j, hz, hj, hup⟩ := h.exists_mag
  have hlt : j < f.infMag := by
    have := h.lt_infMag
    refine lt_of_le_of_ne (by omega) fun he => ?_
    rw [hz, he, f.num_signed_infMag hf] at hfin
    exact (hfin _).2 rfl
  have hxs := sgn_mul_abs K x
  obtain ⟨neg, hneg⟩ : ∃ neg, neg = decide (x < 0) := ⟨_, rfl⟩
  obtain ⟨-, hval⟩ := f.finite_signed_cast hf K neg hlt
  rw [← hneg] at h hxs hz hup
  rw [hz]
  have hdist : |(realOf (f.num (f.signed neg j)) : K) - x| = abs (f.magVal K j - |x|) := by
    rw [hval, ← abs_sgn_sub neg (f.magVal K j), hxs]
  have hfar {q : Nat} (hq : f.mag q < f.infMag) : abs (f.magVal K (f.mag q) - |x|) ≤ |(realOf (f.num q) : K) - x| := by
    have := abs_sub_le_abs_sgn_sub (f.neg q) neg (f.magVal_nonneg K (f.mag q)) (abs_nonneg x)
    rwa [← f.realOf_num_cast K hq, hxs] at this
  refine ⟨fun hq => ?_, fun {q} hq hne htie => ?_⟩
  · have hk := (f.finite_num_iff hf _).1 hq
    exact hdist.trans_le ((h.nearest hj hlt hup hk).trans (hfar hk))
  · have hk := (f.finite_num_iff hf q).1 hq
    rw [f.signed_mod_two hf]
    refine h.even_of_tie hj hlt hup hk (fun he => ?_) (le_antisymm (h.nearest hj hlt hup hk) (hdist ▸ htie ▸ hfar hk))
    have hvalq := f.realOf_num_cast K hk
    rw [he] at hvalq
    obtain hpos | hflip : sgn K (f.neg q) = sgn K neg ∨ sgn K (f.neg q) = -sgn K neg := by
      cases f.neg q <;> cases neg <;> simp [sgn]
    · exact hne (by exact_mod_cast hvalq.trans (hpos ▸ hval.symm))
    · rw [hflip, neg_mul, ← hval] at hvalq
      rw [hvalq] at htie
      obtain h0 | h0 := abs_eq_abs.1 htie
      · have h0 : (realOf (f.num (f.signed neg j)) : K) = 0 := by linarith
        rw [h0, neg_zero] at hvalq
        exact hne (by exact_mod_cast hvalq.trans h0.symm)
      · exact hx (by linarith)

end Signed

section Rounded
variable {f : Fmt} (hf : f.Ok) {r : RMode} {x : ℚ} (hx : x ≠ 0) {g : Nat} {z : Nat × Ind}

/-- The value of a finite pattern is its magnitude or the negative of it. -/
theorem Fmt.realOf_num_cases {q : Nat} (hq : f.mag q < f.infMag) :
    realOf (f.num q) = f.magVal ℚ (f.mag q) ∨ realOf (f.num q) = -f.magVal ℚ (f.mag q) := by
  rw [f.realOf_num hq, sgn]
  split
  · exact .inr (neg_one_mul _)
  · exact .inl (one_mul _)

theorem Fmt.abs_realOf_num {q : Nat} (hq : f.mag q < f.infMag) : |realOf (f.num q)| = f.magVal ℚ (f.mag q) := by
  rw [f.realOf_num hq, abs_sgn_mul, abs_of_nonneg (f.magVal_nonneg ℚ _)]

section Directed
include hf

theorem Fmt.RoundsMag.roundsTo_rz (h : f.RoundsMag .rz (decide (x < 0)) |x| g z) : roundsTo f .rz x z.1 := by
  obtain ⟨hfin, hval⟩ := f.finite_signed hf (decide (x < 0)) h.lt_infMag
  have habs : |realOf (f.num (f.signed (decide (x < 0)) g))| = f.magVal ℚ g := by
    rw [hval, abs_sgn_mul, abs_of_nonneg (f.magVal_nonneg ℚ g)]
  rw [h.down id]
  refine ⟨hfin, habs.trans_le h.le, fun q _ hnan hq hX => ?_⟩
  have hk := (f.finite_num_iff hf q).1 hq
  rw [abs_realOf_num hk] at hX
  rw [habs, abs_realOf_num hk]
  exact (f.magVal_strictMono ℚ).monotone (h.le_of_magVal_le hk hX)

/-- Rounded down, a value above zero is its lower neighbour. -/
theorem Fmt.Lower.roundsTo_rdn_of_nonneg (h : f.Lower x g) : roundsTo f .rdn x (f.signed false g) := by
  obtain ⟨hfin, hval⟩ := f.finite_signed hf false h.lt_infMag
  replace hval : realOf (f.num (f.signed false g)) = f.magVal ℚ g := hval.trans (one_mul _)
  refine ⟨(atMost_of_finite hfin x).2 (hval.trans_le h.le), fun q _ hnan hq => ?_⟩
  rw [hval]
  obtain ⟨hk, hqfin⟩ | hinf := f.num_cases_of_not_nan hf hnan
  · rw [atMost_of_finite hqfin] at hq
    obtain hval' | hval' := f.realOf_num_cases hk
    · rw [hval'] at hq ⊢
      exact (f.magVal_strictMono ℚ).monotone (h.le_of_magVal_le hk hq)
    · rw [hval']
      exact (neg_nonpos.2 (f.magVal_nonneg ℚ _)).trans (f.magVal_nonneg ℚ g)
  · rw [hinf] at hq ⊢
    rw [show f.neg q = true from hq]
    exact (show -2 ^ 1000 ≤ (0 : ℚ) by norm_num).trans (f.magVal_nonneg ℚ g)

/-- Rounded down, a negative value is the upper neighbour of its magnitude. -/
theorem Fmt.Lower.roundsTo_rdn_of_neg (h : f.Lower (-x) g) (hneg : x < 0) {j : Nat} (hj : f.Upper (-x) g j) :
    roundsTo f .rdn x (f.signed true j) := by
  have hjle : j ≤ f.infMag := by
    have := h.lt_infMag
    obtain ⟨rfl, -⟩ | ⟨rfl, -⟩ := hj <;> omega
  have hjX : j = f.infMag ∨ -x ≤ f.magVal ℚ j := by
    obtain ⟨rfl, he⟩ | ⟨rfl, -⟩ := hj
    · exact .inr he.le
    · exact h.lt.symm.imp_right le_of_lt
  obtain hlt | rfl := hjle.lt_or_eq
  · obtain ⟨hfin, hval⟩ := f.finite_signed hf true hlt
    replace hval : realOf (f.num (f.signed true j)) = -f.magVal ℚ j := hval.trans (neg_one_mul _)
    refine ⟨(atMost_of_finite hfin x).2 ?_, fun q _ hnan hq => ?_⟩
    · have := hjX.resolve_left hlt.ne
      linarith
    rw [hval]
    obtain ⟨hk, hqfin⟩ | hinf := f.num_cases_of_not_nan hf hnan
    · rw [atMost_of_finite hqfin] at hq
      have hmag : -x ≤ f.magVal ℚ (f.mag q) := by
        rw [← abs_realOf_num hk]
        exact (neg_le_neg hq).trans (neg_le_abs _)
      have := (f.magVal_strictMono ℚ).monotone (h.upper_le hj hk hmag)
      obtain hval' | hval' := f.realOf_num_cases hk
      · have := f.magVal_nonneg ℚ (f.mag q)
        linarith
      · linarith
    · rw [hinf] at hq ⊢
      rw [show f.neg q = true from hq]
      exact neg_le_neg (magVal_lt_big hf hlt).le
  · have hnum := f.num_signed_infMag hf true
    refine ⟨hnum ▸ rfl, fun q _ hnan hq => ?_⟩
    obtain ⟨hk, hqfin⟩ | hinf := f.num_cases_of_not_nan hf hnan
    · rw [atMost_of_finite hqfin] at hq
      have hmag : -x ≤ f.magVal ℚ (f.mag q) := by
        rw [← abs_realOf_num hk]
        exact (neg_le_neg hq).trans (neg_le_abs _)
      exact absurd (h.upper_le hj hk hmag) (by omega)
    · rw [hinf] at hq ⊢
      rw [show f.neg q = true from hq, hnum]

/-! Rounding up is rounding down with every sign inverted. -/

omit hf in
theorem Fmt.num_flip (b : Bool) {k : Nat} (hk : k < f.signBit) : f.num (f.signed (!b) k) = (f.num (f.signed b k)).flip := by
  simp only [num, f.mag_signed _ hk, f.neg_signed _ hk]
  split_ifs <;> rfl

omit hf in
theorem realOf_flip (n : Machine.Num) : realOf n.flip = -realOf n := by
  cases n with
  | nan b => exact neg_zero.symm
  | inf b => cases b <;> simp [Num.flip, realOf]
  | zero b => exact neg_zero.symm
  | fin b m e => cases b <;> simp [Num.flip, realOf]

omit hf in
theorem atMost_flip (n : Machine.Num) (x : ℚ) : atMost n.flip (-x) ↔ atLeast n x := by
  cases n with
  | nan b => rfl
  | inf b => cases b <;> simp [Num.flip, atMost, atLeast]
  | zero b => exact neg_nonneg
  | fin b m e =>
    change realOf (Num.flip (.fin b m e)) ≤ -x ↔ x ≤ realOf (.fin b m e)
    rw [realOf_flip, neg_le_neg_iff]

omit hf in
theorem Fmt.roundsTo_rup_of_rdn {b : Bool} {k : Nat} (hk : k < f.signBit) (h : roundsTo f .rdn (-x) (f.signed (!b) k)) :
    roundsTo f .rup x (f.signed b k) := by
  obtain ⟨hy, hall⟩ := h
  rw [f.num_flip b hk] at hy hall
  refine ⟨(atMost_flip _ x).1 hy, fun q _ hnan hq => ?_⟩
  have hmag : f.mag q < f.signBit := Nat.mod_lt _ (by unfold signBit; positivity)
  have hnum : f.num q = f.num (f.signed (f.neg q) (f.mag q)) := by
    simp only [num, f.mag_signed _ hmag, f.neg_signed _ hmag]
  have hflip := f.num_flip (f.neg q) hmag
  rw [← hnum] at hflip
  have := hall _ (f.signed_lt _ hmag) (fun c hc => ?_) (hflip ▸ (atMost_flip _ x).2 hq)
  · rw [hflip, realOf_flip, realOf_flip] at this
    exact neg_le_neg_iff.1 this
  · rw [hflip] at hc
    refine hnan c ?_
    cases hn : f.num q with
    | nan d => rw [hn] at hc; exact hc
    | inf d | zero d | fin d m e => rw [hn] at hc; cases hc

theorem Fmt.RoundsMag.roundsTo_rdn (h : f.RoundsMag .rdn (decide (x < 0)) |x| g z) : roundsTo f .rdn x z.1 := by
  obtain ⟨j, hz, hj, hup⟩ := h.exists_mag
  by_cases hneg : x < 0
  · have hL := h.toLower
    rw [abs_of_neg hneg] at hL hup
    rw [hz, decide_eq_true hneg]
    refine hL.roundsTo_rdn_of_neg hf hneg ?_
    simp only [goesUp, decide_eq_true hneg, and_true] at hup
    obtain rfl | rfl := hj
    · exact .inl ⟨rfl, le_antisymm (not_lt.1 fun hlt => absurd (hup.1 hlt) j.lt_succ_self.ne) hL.le⟩
    · exact .inr ⟨rfl, hup.2 rfl⟩
  · have hL := h.toLower
    rw [abs_of_nonneg (not_lt.1 hneg)] at hL
    rw [h.down fun hg => hneg (of_decide_eq_true hg.2), decide_eq_false hneg]
    exact hL.roundsTo_rdn_of_nonneg hf

include hx in
theorem Fmt.RoundsMag.roundsTo_rup (h : f.RoundsMag .rup (decide (x < 0)) |x| g z) : roundsTo f .rup x z.1 := by
  obtain ⟨j, hz, hj, hup⟩ := h.exists_mag
  have hinf := f.infMag_lt_signBit hf
  have hg := h.lt_infMag
  have hL := h.toLower
  rw [hz]
  refine f.roundsTo_rup_of_rdn (by omega) ?_
  by_cases hneg : x < 0
  · have hdown : ¬ goesUp .rup (decide (x < 0)) (g % 2 = 1) (f.magVal ℚ g) ((f.magVal ℚ g + f.magVal ℚ (g + 1)) / 2) |x| :=
      fun hg => of_decide_eq_false hg.2 hneg
    obtain rfl := hj.resolve_right (mt hup.2 hdown)
    rw [abs_of_neg hneg] at hL
    rw [decide_eq_true hneg]
    exact hL.roundsTo_rdn_of_nonneg hf
  · have hpos : 0 < x := lt_of_le_of_ne (not_lt.1 hneg) hx.symm
    rw [abs_of_pos hpos, ← neg_neg x] at hL
    rw [decide_eq_false hneg]
    refine hL.roundsTo_rdn_of_neg hf (neg_neg_iff_pos.2 hpos) ?_
    rw [abs_of_pos hpos] at hup
    simp only [goesUp, decide_eq_false hneg, and_true] at hup
    rw [neg_neg] at hL ⊢
    obtain rfl | rfl := hj
    · exact .inl ⟨rfl, le_antisymm (not_lt.1 fun hlt => absurd (hup.1 hlt) j.lt_succ_self.ne) hL.le⟩
    · exact .inr ⟨rfl, hup.2 rfl⟩

end Directed

/-! To nearest: an infinity from the limit on, else a nearest finite value, with an even fraction on a tie. -/

include hf in
theorem Fmt.RoundsMag.roundsTo_rne_inf (h : f.RoundsMag .rne (decide (x < 0)) |x| g z) (hlim : rneLimit f ≤ |x|) :
    f.num z.1 = .inf (decide (x < 0)) := by
  have hpos := f.infMag_pos hf
  have heven := f.infMag_even hf
  have hsucc : f.infMag - 1 + 1 = f.infMag := by omega
  have hmid := f.magVal_last_mid hf
  have hlast : f.infMag - 1 ≤ g := h.le_of_magVal_le (by omega) (by
    have := f.magVal_strictMono ℚ (show f.infMag - 1 < f.infMag by omega)
    linarith)
  have hg : g + 1 = f.infMag := by have := h.lt_infMag; omega
  obtain rfl : g = f.infMag - 1 := by omega
  have hup : goesUp .rne (decide (x < 0)) ((f.infMag - 1) % 2 = 1) (f.magVal ℚ (f.infMag - 1))
      ((f.magVal ℚ (f.infMag - 1) + f.magVal ℚ (f.infMag - 1 + 1)) / 2) |x| := by
    rw [hsucc, hmid]
    exact hlim.lt_or_eq.imp_right fun he => ⟨he, by omega⟩
  rw [h.up hup, hg, f.num_signed_infMag hf]

include hf in
theorem Fmt.RoundsMag.finite_of_lt_limit (h : f.RoundsMag .rne (decide (x < 0)) |x| g z) (hlim : |x| < rneLimit f) :
    finite (f.num z.1) := by
  obtain ⟨j, hz, hj, hup⟩ := h.exists_mag
  rw [hz]
  refine (f.finite_signed hf _ ?_).1
  have hg := h.lt_infMag
  by_contra hge
  have htop : g + 1 = f.infMag := by omega
  have hlast : g = f.infMag - 1 := by omega
  have := f.magVal_last_mid hf
  obtain hmid | ⟨hmid, -⟩ := hup.2 (by omega) <;> rw [htop, hlast] at hmid <;> linarith

include hf hx in
theorem Fmt.RoundsMag.roundsTo_rne (h : f.RoundsMag .rne (decide (x < 0)) |x| g z) : roundsTo f .rne x z.1 := by
  by_cases hlim : rneLimit f ≤ |x|
  · simp only [roundsTo, if_pos hlim]
    exact h.roundsTo_rne_inf hf hlim
  · have hfin := h.finite_of_lt_limit hf (not_le.1 hlim)
    obtain ⟨hnear, heven⟩ := h.nearest_value hf hx hfin
    simp only [Rat.cast_id] at hnear heven
    simp only [roundsTo, if_neg hlim]
    exact ⟨hfin, fun q _ _ hq => hnear hq, fun ⟨q, _, hq, hne, htie⟩ => heven hq hne htie⟩

include hf hx in
theorem Fmt.RoundsMag.roundsTo (h : f.RoundsMag r (decide (x < 0)) |x| g z) : Claims.roundsTo f r x z.1 := by
  cases r with
  | rne => exact h.roundsTo_rne hf hx
  | rz => exact h.roundsTo_rz hf
  | rup => exact h.roundsTo_rup hf hx
  | rdn => exact h.roundsTo_rdn hf

/-- A result is exact when its magnitude has not been moved. -/
theorem Fmt.RoundsMag.exact_iff {f : Fmt} (hf : f.Ok) {K : Type} [Field K] [LinearOrder K] [IsStrictOrderedRing K] {x : K} {g : Nat}
    {z : Nat × Ind} (h : f.RoundsMag r (decide (x < 0)) |x| g z) :
    finite (f.num z.1) ∧ (realOf (f.num z.1) : K) = x ↔ ¬ f.magVal K g < |x| := by
  have hxs := sgn_mul_abs K x
  obtain ⟨neg, hneg⟩ : ∃ neg, neg = decide (x < 0) := ⟨_, rfl⟩
  rw [← hneg] at h hxs
  constructor
  · rintro ⟨hfin, hval⟩ hlt
    obtain ⟨j, hz, hj, -⟩ := h.exists_mag
    have hjlt : j < f.infMag := by
      have := h.lt_infMag
      refine lt_of_le_of_ne (by omega) fun he => ?_
      rw [hz, he, f.num_signed_infMag hf] at hfin
      exact (hfin _).2 rfl
    rw [hz, (f.finite_signed_cast hf K neg hjlt).2] at hval
    have hmag : f.magVal K j = |x| := by
      rw [← hval, abs_sgn_mul, abs_of_nonneg (f.magVal_nonneg K j)]
    obtain rfl | rfl := hj
    · exact hlt.ne hmag
    · exact (h.lt.resolve_right hjlt.ne).ne' hmag
  · intro hle
    have he : f.magVal K g = |x| := le_antisymm h.le (not_lt.1 hle)
    obtain ⟨hfin, hval⟩ := f.finite_signed_cast hf K neg h.lt_infMag
    rw [h.down fun hg => hle (Fmt.goesUp_lt hg)]
    exact ⟨hfin, by rw [hval, he, hxs]⟩

theorem Fmt.reaches_overflow_iff (f : Fmt) (r : RMode) {x : ℚ} (hx : x ≠ 0) :
    f.Reaches r (decide (x < 0)) (f.bias + 1) |x| ↔ overflows f r x := by
  have hpos : 0 < x ↔ ¬ x < 0 := ⟨fun h => h.le.not_gt, fun h => lt_of_le_of_ne (not_lt.1 h) hx.symm⟩
  rw [f.reaches_iff, overflows, rneLimit, roundsAway, add_sub_cancel_right, zpow_natCast, ← zpow_natCast (2 : ℚ) (f.bias + 1)]
  simp only [decide_eq_false_iff_not, decide_eq_true_eq, hpos, Nat.cast_add, Nat.cast_one]

theorem Fmt.not_reaches_normal_iff (f : Fmt) (r : RMode) {x : ℚ} (hx : x ≠ 0) :
    ¬ f.Reaches r (decide (x < 0)) (1 - f.bias) |x| ↔ isTiny f r x := by
  have hpos : 0 < x ↔ ¬ x < 0 := ⟨fun h => h.le.not_gt, fun h => lt_of_le_of_ne (not_lt.1 h) hx.symm⟩
  have hu : (2 : ℚ) ^ (1 - (f.bias : Int)) = 2 * 2 ^ (-(f.bias : Int)) := by rw [two_zpow_pred]; congr 2; ring
  rw [f.reaches_iff, isTiny, roundsAway, show 1 - (f.bias : Int) - 1 = -(f.bias : Int) by ring, hu]
  simp only [decide_eq_false_iff_not, decide_eq_true_eq, ← hpos]
  by_cases h1 : r = .rne
  · subst h1
    simp
  · by_cases h2 : r = .rup ∧ 0 < x ∨ r = .rdn ∧ x < 0 <;> simp [h1, h2]

include hf in
/-- A rounded magnitude, with the sign of its value, is what R276 asks of that value. -/
theorem Fmt.RoundsMag.rounded (hx : x ≠ 0) (h : f.RoundsMag r (decide (x < 0)) |x| g z) (zeroNeg : Bool) : Rounded f r x zeroNeg z := by
  obtain ⟨j, hz, hj, -⟩ := h.exists_mag
  have hj' : j < f.signBit := by
    have := h.lt_infMag
    have := f.infMag_lt_signBit hf
    omega
  have hexact := h.exact_iff hf
  simp only [Rat.cast_id] at hexact
  rw [Rounded, if_neg hx]
  refine ⟨hz ▸ f.signed_lt _ hj', hz ▸ f.neg_signed _ hj', h.roundsTo hf hx, ?_, ?_, ?_, h.other⟩
  · rw [h.inexact, hexact, not_not]
  · rw [h.overflow, f.reaches_overflow_iff r hx]
  · rw [h.underflow, f.not_reaches_normal_iff r hx, hexact, not_not]

include hf in
/-- `Fmt.round` of a significand and an exponent that stand for the magnitude of a value rounds that value. -/
theorem Fmt.rounded_round (hx : x ≠ 0) {neg : Bool} (hneg : neg = decide (x < 0)) {mant : Nat} {exp : Int} (hmant : 0 < mant)
    (h : f.Stands mant exp |x|) (zeroNeg : Bool) : Rounded f r x zeroNeg (f.round r neg mant exp) := by
  subst hneg
  obtain ⟨g, hg⟩ := f.roundsMag_round hf r (decide (x < 0)) exp hmant h
  exact hg.rounded hf hx zeroNeg

end Rounded

end Sys2Proof.Machine
end

section
/-! SUPPORT. Sums, products, fused products and quotients of finite operands are rounded once (R107, R108). -/
set_option Elab.async false
namespace Sys2Proof.Machine
open Sys2Proof.Claims

/-! ### Values with their signs, and the exact operations on them -/

/-- A number that is finite holds a sign and a rational value; a zero has a sign too. -/
def Num.Holds (n : Machine.Num) (b : Bool) (x : ℚ) : Prop :=
  n = .zero b ∧ x = 0 ∨ ∃ m e, 0 < m ∧ n = .fin b m e ∧ x = sgn ℚ b * (m * 2 ^ e)

theorem sgn_mul_sgn (b c : Bool) : sgn ℚ b * sgn ℚ c = sgn ℚ (b != c) := by cases b <;> cases c <;> simp [sgn]

theorem sgn_not (b : Bool) : sgn ℚ (!b) = -sgn ℚ b := by cases b <;> simp [sgn]

theorem sgn_ne_zero (b : Bool) : sgn ℚ b ≠ 0 := by cases b <;> simp [sgn]

theorem realOf_fin (b : Bool) (m : Nat) (e : Int) : realOf (.fin b m e) = sgn ℚ b * (m * 2 ^ e) := mul_assoc ..

/-- A nonzero value with its sign as a magnitude. -/
theorem sgn_mul_pos {b : Bool} {y : ℚ} (hy : 0 < y) : sgn ℚ b * y ≠ 0 ∧ b = decide (sgn ℚ b * y < 0) ∧ |sgn ℚ b * y| = y := by
  refine ⟨mul_ne_zero (sgn_ne_zero b) hy.ne', ?_, by rw [abs_sgn_mul, abs_of_pos hy]⟩
  cases b
  · simpa [sgn] using hy.le
  · simpa [sgn] using hy

theorem Fmt.holds_num {f : Fmt} (hf : f.Ok) {a : Nat} (h : finite (f.num a)) : (f.num a).Holds (f.neg a) (realOf (f.num a)) := by
  obtain ⟨L, y, -, -, -, hnum⟩ := f.num_of_mag_lt ((f.finite_num_iff hf a).1 h)
  rw [hnum]
  split
  next => exact .inl ⟨rfl, rfl⟩
  next hy => exact .inr ⟨y, _, Nat.pos_of_ne_zero hy, rfl, realOf_fin ..⟩

namespace Num.Holds
variable {n n' : Machine.Num} {b b' : Bool} {x x' : ℚ}

theorem flip (h : n.Holds b x) : n.flip.Holds (!b) (-x) := by
  obtain ⟨rfl, rfl⟩ | ⟨m, e, hm, rfl, rfl⟩ := h
  · exact .inl ⟨rfl, neg_zero⟩
  · exact .inr ⟨m, e, hm, rfl, by rw [sgn_not, neg_mul]⟩

theorem mul (h : n.Holds b x) (h' : n'.Holds b' x') : ∃ p, n.mul n' = some p ∧ p.Holds (b != b') (x * x') := by
  obtain ⟨rfl, rfl⟩ | ⟨m, e, hm, rfl, rfl⟩ := h
  · obtain ⟨rfl, rfl⟩ | ⟨m', e', hm', rfl, rfl⟩ := h' <;> exact ⟨_, rfl, .inl ⟨rfl, zero_mul _⟩⟩
  · obtain ⟨rfl, rfl⟩ | ⟨m', e', hm', rfl, rfl⟩ := h'
    · exact ⟨_, rfl, .inl ⟨rfl, mul_zero _⟩⟩
    · refine ⟨_, rfl, .inr ⟨_, _, Nat.mul_pos hm hm', rfl, ?_⟩⟩
      rw [zpow_add₀ two_ne_zero, ← sgn_mul_sgn]
      push_cast
      ring

end Num.Holds

/-! ### Exact results, rounded once (R107, R108) -/

section Once
variable {f : Fmt} (hf : f.Ok) (r : RMode)
include hf

/-- A significand and an exponent round to the value that they are. -/
theorem Fmt.rounded_round_exact (neg : Bool) {mant : Nat} (exp : Int) (hmant : 0 < mant) (zeroNeg : Bool) :
    Rounded f r (sgn ℚ neg * (mant * 2 ^ exp)) zeroNeg (f.round r neg mant exp) := by
  have hpos : (0 : ℚ) < mant * 2 ^ exp := by positivity
  obtain ⟨hne, hneg, habs⟩ := sgn_mul_pos (b := neg) hpos
  exact f.rounded_round hf hne hneg hmant (.inl habs) zeroNeg

theorem Fmt.rounded_roundInt (x e : Int) (zeroNeg : Bool) : Rounded f r (x * 2 ^ e) zeroNeg (f.roundInt r x e zeroNeg) := by
  unfold roundInt
  split
  next h0 => rw [h0, Rounded, if_pos (by simp)]
  next h0 =>
    have hx : (x : ℚ) * 2 ^ e = sgn ℚ (decide (x < 0)) * ((x.natAbs : Nat) * 2 ^ e) := by
      rw [← mul_assoc, Nat.cast_natAbs, Int.cast_abs]
      congr 1
      by_cases hneg : x < 0
      · simp [sgn, hneg, abs_of_neg (show (x : ℚ) < 0 by exact_mod_cast hneg)]
      · simp [sgn, hneg, abs_of_nonneg (show (0 : ℚ) ≤ x by exact_mod_cast not_lt.1 hneg)]
    rw [hx]
    exact f.rounded_round_exact hf r _ e (Int.natAbs_pos.2 h0) zeroNeg

theorem Fmt.rounded_roundNum {n : Machine.Num} {b : Bool} {x : ℚ} (h : n.Holds b x) : Rounded f r x b (f.roundNum r n) := by
  obtain ⟨rfl, rfl⟩ | ⟨m, e, hm, rfl, rfl⟩ := h
  · rw [Rounded, if_pos rfl]
    rfl
  · exact f.rounded_round_exact hf r b e hm b

omit hf in
theorem atExp_eq (b : Bool) (m : Nat) {e lo : Int} (h : lo ≤ e) : (atExp b m e lo : ℚ) * 2 ^ lo = sgn ℚ b * (m * 2 ^ e) := by
  have hsplit := two_zpow_sub_toNat (K := ℚ) h
  cases b
  · simp [atExp, sgn, mul_assoc, ← hsplit]
  · simp [atExp, sgn, mul_assoc, ← hsplit]

/-- The sign of an exact zero sum (R107). -/
def zeroSumNeg (r : RMode) (x y : ℚ) (b c : Bool) : Bool := if x = 0 ∧ y = 0 ∧ b = c then b else decide (r = .rdn)

theorem Fmt.rounded_addNum {n n' : Machine.Num} {b b' : Bool} {x x' : ℚ} (h : n.Holds b x) (h' : n'.Holds b' x') :
    Rounded f r (x + x') (zeroSumNeg r x x' b b') (f.addNum r n n') := by
  obtain ⟨rfl, rfl⟩ | ⟨m, e, hm, rfl, rfl⟩ := h <;> obtain ⟨rfl, rfl⟩ | ⟨m', e', hm', rfl, rfl⟩ := h'
  · have hsign : zeroSumNeg r 0 0 b b' = if b = b' then b else r == .rdn := by simp [zeroSumNeg, beq_eq_decide]
    rw [Rounded, if_pos (add_zero 0), hsign]
    rfl
  · rw [zero_add]
    exact f.rounded_round_exact hf r b' e' hm' _
  · rw [add_zero]
    exact f.rounded_round_exact hf r b e hm _
  · have hne : sgn ℚ b * (m * 2 ^ e) ≠ 0 := mul_ne_zero (sgn_ne_zero b) (by positivity)
    have hsign : zeroSumNeg r (sgn ℚ b * (m * 2 ^ e)) (sgn ℚ b' * (m' * 2 ^ e')) b b' = (r == .rdn) := by
      rw [zeroSumNeg, if_neg fun h => hne h.1, beq_eq_decide]
    have := f.rounded_roundInt hf r (atExp b m e (min e e') + atExp b' m' e' (min e e')) (min e e') (r == .rdn)
    rw [Int.cast_add, add_mul, atExp_eq b m (min_le_left ..), atExp_eq b' m' (min_le_right ..)] at this
    rw [hsign]
    exact this

end Once

/-! ### The first NaN of the operands (R107) -/

theorem Fmt.firstNaN_eq_none {f : Fmt} {xs : List Nat} (h : ∀ x ∈ xs, f.isNaN x = false) : f.firstNaN xs = none := by
  have hfind : xs.find? f.isNaN = none := List.find?_eq_none.2 fun x hx => by simp [h x hx]
  rw [firstNaN, hfind]

theorem Fmt.isNaN_eq_false_iff (f : Fmt) (x : Nat) : f.isNaN x = false ↔ ∀ b, f.num x ≠ .nan b := by
  unfold isNaN
  cases f.num x <;> simp

theorem Fmt.isNaN_of_finite {f : Fmt} {x : Nat} (h : finite (f.num x)) : f.isNaN x = false :=
  (f.isNaN_eq_false_iff x).2 fun b => (h b).1

section Operations
variable (f : Fmt) (r : RMode) {a b c : Nat} (ha : f.isNaN a = false) (hb : f.isNaN b = false) (hc : f.isNaN c = false)

include ha hb in
theorem Fmt.firstNaN_two : f.firstNaN [a, b] = none := firstNaN_eq_none (by simp [ha, hb])

include ha hb in
theorem Fmt.add_of_not_nan : f.add r a b = f.addNum r (f.num a) (f.num b) := by rw [add, f.firstNaN_two ha hb]

include ha hb in
theorem Fmt.sub_of_not_nan : f.sub r a b = f.addNum r (f.num a) (f.num b).flip := by rw [sub, f.firstNaN_two ha hb]

include ha hb in
theorem Fmt.mul_of_not_nan : f.mul r a b = match (f.num a).mul (f.num b) with
    | none => f.invalid
    | some p => f.roundNum r p := by rw [mul, f.firstNaN_two ha hb] <;> rfl

include ha hb hc in
theorem Fmt.fma_of_not_nan (neg : Bool) : f.fma r a b c neg = match (f.num a).mul (f.num b) with
    | none => f.invalid
    | some p => f.addNum r p (if neg then (f.num c).flip else f.num c) := by
  rw [fma, firstNaN_eq_none (by simp [ha, hb, hc])] <;> rfl

end Operations

/-! ### Quotients -/

/-- A significand with its rest marked stands for the magnitude, when it has two bits to spare. -/
theorem Fmt.stands_jam {K : Type} [Field K] [LinearOrder K] [IsStrictOrderedRing K] (f : Fmt) {exact : Bool} {a : Nat} {e : Int} {X : K}
    (hX : exact = true → X = a * 2 ^ e) (hcell : exact = false → (a : K) * 2 ^ e < X ∧ X < (a + 1) * 2 ^ e) (ha : 2 ^ (f.m + 1) ≤ a) :
    0 < (jam exact a e).1 ∧ f.Stands (jam exact a e).1 (jam exact a e).2 X := by
  have hpos : 0 < 2 ^ (f.m + 1) := by positivity
  cases exact with
  | true => exact ⟨by change 0 < a; omega, .inl (hX rfl)⟩
  | false =>
    obtain ⟨hlo, hhi⟩ := hcell rfl
    have hc : (0 : K) < 2 ^ (e - 1) := by positivity
    have he := two_zpow_pred (K := K) e
    refine ⟨Nat.succ_pos _, .inr ⟨e, .inr ⟨a, hlo, hhi, ?_, ?_⟩, ?_⟩⟩
    · change (a : K) * 2 ^ e < (2 * a + 1 : Nat) * 2 ^ (e - 1)
      push_cast
      exact mul_two_zpow_lt_mid _ e
    · change ((2 * a + 1 : Nat) : K) * 2 ^ (e - 1) < (a + 1) * 2 ^ e
      rw [he]
      push_cast
      linarith
    · change e + 1 ≤ e - 1 + bitLen (2 * a + 1) - (f.m + 1)
      have : ¬ bitLen (2 * a + 1) ≤ f.m + 2 := by
        rw [bitLen_le_iff, pow_succ]
        omega
      omega

/-- The jammed quotient of two significands stands for the quotient of their values. -/
theorem Fmt.stands_divBits (f : Fmt) {m m' : Nat} (hm : 0 < m) (hm' : 0 < m') (e e' : Int) :
    0 < (divBits f m m').1 ∧
      f.Stands (divBits f m m').1 ((divBits f m m').2 + e - e') ((m * 2 ^ e / (m' * 2 ^ e') : ℚ)) := by
  obtain ⟨k, hk⟩ : ∃ k, k = bitLen m' + f.m + 4 := ⟨_, rfl⟩
  obtain ⟨q, hq⟩ : ∃ q, q = m * 2 ^ k / m' := ⟨_, rfl⟩
  have hbits : divBits f m m' = jam (m * 2 ^ k % m' = 0) q (-(k : Int)) := by rw [hq, hk]; rfl
  have hjam (E : Int) (b : Bool) : (jam b q (-(k : Int))).2 + e - e' = (jam b q (-(k : Int) + e - e')).2 ∧
      (jam b q (-(k : Int))).1 = (jam b q (-(k : Int) + e - e')).1 := by
    cases b
    · exact ⟨by simp only [jam]; split <;> ring, rfl⟩
    · exact ⟨rfl, rfl⟩
  have hm'K : (0 : ℚ) < m' := by exact_mod_cast hm'
  have hX : (m * 2 ^ e / (m' * 2 ^ e') : ℚ) = (m * 2 ^ k / m') * 2 ^ (-(k : Int) + e - e') := by
    rw [zpow_sub₀ two_ne_zero, zpow_add₀ two_ne_zero, zpow_neg, zpow_natCast]
    field_simp
  have hc : (0 : ℚ) < 2 ^ (-(k : Int) + e - e') := by positivity
  have hdivmod : m * 2 ^ k = m' * q + m * 2 ^ k % m' := by rw [hq, Nat.div_add_mod]
  have hbig : 2 ^ (f.m + 1) ≤ q := by
    rw [hq, Nat.le_div_iff_mul_le hm']
    calc 2 ^ (f.m + 1) * m' ≤ 2 ^ (f.m + 1) * 2 ^ bitLen m' := Nat.mul_le_mul_left _ (bitLen_bounds hm').2.1.le
      _ = 2 ^ (f.m + 1 + bitLen m') := (pow_add ..).symm
      _ ≤ 2 ^ k := Nat.pow_le_pow_right (by decide) (by omega)
      _ ≤ m * 2 ^ k := Nat.le_mul_of_pos_left _ hm
  rw [hbits, (hjam 0 _).1, (hjam 0 _).2, hX]
  refine f.stands_jam (fun hex => ?_) (fun hne => ?_) hbig
  · have : (m * 2 ^ k : ℚ) = m' * q := by exact_mod_cast (of_decide_eq_true hex) ▸ hdivmod
    rw [this, mul_div_cancel_left₀ _ hm'K.ne']
  · have hrem : 0 < m * 2 ^ k % m' := Nat.pos_of_ne_zero (of_decide_eq_false hne)
    have hrem' := Nat.mod_lt (m * 2 ^ k) hm'
    have hlo : m' * q < m * 2 ^ k := by omega
    have hhi : m * 2 ^ k < m' * (q + 1) := by rw [Nat.mul_succ]; omega
    constructor
    · refine mul_lt_mul_of_pos_right ?_ hc
      rw [lt_div_iff₀ hm'K, mul_comm]
      exact_mod_cast hlo
    · refine mul_lt_mul_of_pos_right ?_ hc
      rw [div_lt_iff₀ hm'K]
      exact_mod_cast hhi.trans_eq (Nat.mul_comm ..)

section Div
variable {f : Fmt} (hf : f.Ok) (r : RMode) {a b : Nat}

theorem Fmt.div_of_not_nan (f : Fmt) (r : RMode) {a b : Nat} (ha : f.isNaN a = false) (hb : f.isNaN b = false) :
    f.div r a b = match f.num a, f.num b with
      | .inf _, .inf _ => f.invalid
      | .zero _, .zero _ => f.invalid
      | .inf n, _ => (f.signed (n != f.neg b) f.infMag, 0)
      | .zero n, _ => (f.signed (n != f.neg b) 0, 0)
      | .fin n _ _, .inf k => (f.signed (n != k) 0, 0)
      | .fin n _ _, .zero k => (f.signed (n != k) f.infMag, indDivZero)
      | .fin n m e, .fin k m' e' => f.round r (n != k) (divBits f m m').1 ((divBits f m m').2 + e - e')
      | _, _ => f.invalid := by
  rw [div, f.firstNaN_two ha hb] <;> rfl

include hf in
theorem Fmt.rounded_div (ha : finite (f.num a)) (hb : finite (f.num b)) (hy : realOf (f.num b) ≠ 0) :
    Rounded f r (realOf (f.num a) / realOf (f.num b)) (f.neg a != f.neg b) (f.div r a b) := by
  rw [f.div_of_not_nan r (isNaN_of_finite ha) (isNaN_of_finite hb)]
  obtain ⟨-, hzero⟩ | ⟨m', e', hm', hnb, hvb⟩ := holds_num hf hb
  · exact absurd hzero hy
  rw [hvb]
  obtain ⟨hna, hva⟩ | ⟨m, e, hm, hna, hva⟩ := holds_num hf ha
  · rw [hva, hna, hnb, Rounded, if_pos (zero_div _)]
  · obtain ⟨hpos, hstands⟩ := f.stands_divBits hm hm' e e'
    have hX : (0 : ℚ) < m * 2 ^ e / (m' * 2 ^ e') := by positivity
    have hquot : sgn ℚ (f.neg a) * (m * 2 ^ e) / (sgn ℚ (f.neg b) * (m' * 2 ^ e')) =
        sgn ℚ (f.neg a != f.neg b) * (m * 2 ^ e / (m' * 2 ^ e')) := by
      have hinv : (sgn ℚ (f.neg b))⁻¹ = sgn ℚ (f.neg b) := by cases f.neg b <;> simp [sgn]
      rw [← sgn_mul_sgn, div_eq_mul_inv, mul_inv, hinv]
      ring
    obtain ⟨hne, hneg, habs⟩ := sgn_mul_pos (b := f.neg a != f.neg b) hX
    rw [hva, hna, hnb, hquot]
    exact f.rounded_round hf hne hneg hpos (habs.symm ▸ hstands) _

end Div

end Sys2Proof.Machine

namespace Sys2Proof.Claims
open Sys2Proof.Machine

theorem finiteResults : FiniteResults := by
  intro f r a b c hlane ha hb hc x y w zero
  have hf := isLaneFormat_ok hlane
  have hna := Fmt.isNaN_of_finite ha
  have hnb := Fmt.isNaN_of_finite hb
  have hA := f.holds_num hf ha
  have hB := f.holds_num hf hb
  have hC := f.holds_num hf hc
  obtain ⟨p, hp, hP⟩ := hA.mul hB
  refine ⟨?_, ?_, ?_, fun hy => f.rounded_div hf r ha hb hy, fun neg => ?_⟩
  · rw [f.add_of_not_nan r hna hnb]
    exact f.rounded_addNum hf r hA hB
  · rw [f.sub_of_not_nan r hna hnb, sub_eq_add_neg]
    have hzero : zero x y (f.neg a) (!f.neg b) = zeroSumNeg r x (-y) (f.neg a) (!f.neg b) := by simp [zero, zeroSumNeg]
    rw [hzero]
    exact f.rounded_addNum hf r hA hB.flip
  · rw [f.mul_of_not_nan r hna hnb, hp]
    exact f.rounded_roundNum hf r hP
  · rw [f.fma_of_not_nan r hna hnb (Fmt.isNaN_of_finite hc), hp]
    cases neg with
    | false =>
      have hzero : zero (x * y) w (f.neg a != f.neg b) (f.neg c != false) =
          zeroSumNeg r (x * y) w (f.neg a != f.neg b) (f.neg c) := by simp [zero, zeroSumNeg]
      rw [hzero]
      exact f.rounded_addNum hf r hP hC
    | true =>
      have hzero : zero (x * y) w (f.neg a != f.neg b) (f.neg c != true) =
          zeroSumNeg r (x * y) (-w) (f.neg a != f.neg b) (!f.neg c) := by simp [zero, zeroSumNeg]
      rw [hzero]
      exact f.rounded_addNum hf r hP hC.flip

end Sys2Proof.Claims
end

section
/-! SUPPORT. NaN, special and infinite operands, minimum and maximum, and the order of the values (R107, R109, R110). -/
set_option Elab.async false
namespace Sys2Proof.Machine
open Sys2Proof.Claims

/-! ### NaN operands (R107, R110) -/

section NaN
variable (f : Fmt) (r : RMode) (a b c : Nat)

theorem Fmt.firstNaN_of_nan (h : f.isNaN a = true) : f.firstNaN [a] = some (f.quiet a, indIf (f.isSNaN a) indInvalid) := by
  simp [firstNaN, h]

theorem Fmt.firstNaN_two_of_nan (h : f.isNaN a = true ∨ f.isNaN b = true) :
    f.firstNaN [a, b] = some (f.quiet (if f.isNaN a then a else b), indIf (f.isSNaN a || f.isSNaN b) indInvalid) := by
  cases hna : f.isNaN a with
  | true => simp [firstNaN, hna]
  | false => simp [firstNaN, hna, h.resolve_left (by simp [hna])]

theorem Fmt.firstNaN_three_of_nan (h : f.isNaN a = true ∨ f.isNaN b = true ∨ f.isNaN c = true) :
    f.firstNaN [a, b, c] = some (f.quiet (if f.isNaN a then a else if f.isNaN b then b else c),
      indIf (f.isSNaN a || f.isSNaN b || f.isSNaN c) indInvalid) := by
  cases hna : f.isNaN a with
  | true => simp [firstNaN, hna, Bool.or_assoc]
  | false =>
    cases hnb : f.isNaN b with
    | true => simp [firstNaN, hna, hnb, Bool.or_assoc]
    | false => simp [firstNaN, hna, hnb, Bool.or_assoc, (h.resolve_left (by simp [hna])).resolve_left (by simp [hnb])]

/-- The product 0 × ∞, in either order. -/
def zeroTimesInf (x y : Machine.Num) : Prop :=
  (x = .zero true ∨ x = .zero false) ∧ (y = .inf true ∨ y = .inf false) ∨
    (x = .inf true ∨ x = .inf false) ∧ (y = .zero true ∨ y = .zero false)

theorem Fmt.zeroInf_iff : (!f.isNaN a && !f.isNaN b && ((f.num a).mul (f.num b)).isNone) = true ↔ zeroTimesInf (f.num a) (f.num b) := by
  unfold isNaN zeroTimesInf
  cases f.num a <;> cases f.num b <;> simp [Num.mul]

theorem indIf_or (p q : Bool) (i : Ind) : indIf p i ||| indIf q i = indIf (p || q) i := by
  cases p <;> cases q <;> simp [indIf]

theorem indIf_invalid (p : Bool) : (indIf p indInvalid = 0 ∨ indIf p indInvalid = indInvalid) ∧ (indIf p indInvalid = indInvalid ↔ p = true) := by
  revert p
  decide

theorem Fmt.fma_of_nan (neg : Bool) (h : f.isNaN a = true ∨ f.isNaN b = true ∨ f.isNaN c = true) :
    f.fma r a b c neg = (f.quiet (if f.isNaN a then a else if f.isNaN b then b else c),
      indIf (f.isSNaN a || f.isSNaN b || f.isSNaN c || (!f.isNaN a && !f.isNaN b && ((f.num a).mul (f.num b)).isNone)) indInvalid) := by
  rw [fma, f.firstNaN_three_of_nan a b c h]
  exact congrArg (Prod.mk _) (indIf_or ..)

end NaN

end Sys2Proof.Machine

namespace Sys2Proof.Claims
open Sys2Proof.Machine

theorem nanOperands : NaNOperands := by
  intro f r a b c _ bad zeroInf
  refine ⟨fun h => ⟨?_, fun big => ?_⟩, fun h => ?_, fun neg h => ?_⟩
  · have hfirst := f.firstNaN_two_of_nan a b h
    refine ⟨?_, ?_, ?_, ?_⟩
    · rw [Fmt.add, hfirst]; rfl
    · rw [Fmt.sub, hfirst]; rfl
    · rw [Fmt.mul, hfirst]; rfl
    · rw [Fmt.div, hfirst]; rfl
  · change (if f.isNaN a && f.isNaN b then _ else _) = _
    cases hna : f.isNaN a with
    | true => cases f.isNaN b <;> rfl
    | false =>
      rw [h.resolve_left (by simp [hna])]
      rfl
  · have hfirst := f.firstNaN_of_nan a h
    refine ⟨?_, ?_, ?_, ?_⟩
    · rw [Fmt.sqrt, hfirst]; rfl
    · rw [Fmt.rsq, hfirst]; rfl
    · rw [Fmt.exp2, hfirst]; rfl
    · rw [Fmt.log2, hfirst]; rfl
  · rw [f.fma_of_nan r a b c neg h]
    obtain ⟨hval, hiff⟩ := indIf_invalid (f.isSNaN a || f.isSNaN b || f.isSNaN c ||
      (!f.isNaN a && !f.isNaN b && ((f.num a).mul (f.num b)).isNone))
    refine ⟨rfl, hval, hiff.trans ?_⟩
    rw [Bool.or_eq_true, f.zeroInf_iff]
    simp only [Bool.or_eq_true, or_assoc]
    rfl

end Sys2Proof.Claims

namespace Sys2Proof.Machine
open Sys2Proof.Claims

/-! ### Special operands (R109) -/

section Special
variable (f : Fmt) (r : RMode) {a : Nat} (ha : f.isNaN a = false)
include ha

theorem Fmt.sqrt_of_not_nan : f.sqrt r a = match f.num a with
    | .zero n => (f.signed n 0, 0)
    | .inf false => (f.infMag, 0)
    | .fin false m e =>
      let p := evenExp m e
      let k := f.m + 4
      let q := isqrt (p.1 * 2 ^ (2 * k))
      let j := jam (q * q = p.1 * 2 ^ (2 * k)) q (p.2 / 2 - k)
      f.round r false j.1 j.2
    | _ => f.invalid := by
  rw [sqrt, firstNaN_eq_none (by simpa using ha)] <;> rfl

theorem Fmt.rsq_of_not_nan : f.rsq r a = match f.num a with
    | .zero n => (f.signed n f.infMag, indDivZero)
    | .inf false => (0, 0)
    | .fin false m e =>
      let p := evenExp m e
      let k := bitLen p.1 + f.m + 6
      let q := isqrt (2 ^ (2 * k) / p.1)
      let j := jam (q * q * p.1 = 2 ^ (2 * k)) q (-(p.2 / 2) - k)
      f.round r false j.1 j.2
    | _ => f.invalid := by
  rw [rsq, firstNaN_eq_none (by simpa using ha)] <;> rfl

theorem Fmt.exp2_of_not_nan : f.exp2 r a = match f.num a with
    | .inf true => (0, 0)
    | .inf false => (f.infMag, 0)
    | .zero _ => f.round r false 1 0
    | .fin n m e => f.round r false (exp2Bits n m e).1 (exp2Bits n m e).2
    | .nan _ => f.invalid := by
  rw [exp2, firstNaN_eq_none (by simpa using ha)] <;> rfl

theorem Fmt.log2_of_not_nan : f.log2 r a = match f.num a with
    | .zero _ => (f.signed true f.infMag, indDivZero)
    | .inf false => (f.infMag, 0)
    | .fin false m e =>
      let n : Int := e + bitLen m - 1
      if m = 2 ^ (bitLen m - 1) then f.roundInt r n 0 false
      else
        let v : Int := n * 2 ^ 256 + log2Fixed (m * 2 ^ (257 - bitLen m))
        let j := if 0 ≤ v then jam false v.toNat (-256) else jam false (v.natAbs - 1) (-256)
        f.round r (v < 0) j.1 j.2
    | _ => f.invalid := by
  rw [log2, firstNaN_eq_none (by simpa using ha)] <;> rfl

end Special

/-- One, rounded, is itself. -/
theorem Fmt.round_one {f : Fmt} (hf : isLaneFormat f) (r : RMode) : f.round r false 1 0 = (f.bias * 2 ^ f.m, 0) := by
  rcases hf with rfl | rfl | rfl <;> cases r <;> decide +kernel

/-- The pattern of one has the logarithm +0. -/
theorem Fmt.log2_one {f : Fmt} (hf : isLaneFormat f) (r : RMode) : f.log2 r (f.bias * 2 ^ f.m) = (0, 0) := by
  rcases hf with rfl | rfl | rfl <;> cases r <;> decide +kernel

end Sys2Proof.Machine

namespace Sys2Proof.Claims
open Sys2Proof.Machine

theorem specialOperands : SpecialOperands := by
  intro f r a b c hlane ha hb hc inv inf
  have hadd := f.add_of_not_nan r ha hb
  have hsub := f.sub_of_not_nan r ha hb
  have hmul := f.mul_of_not_nan r ha hb
  have hdiv := f.div_of_not_nan r ha hb
  have hfma := f.fma_of_not_nan r ha hb hc
  have hsqrt := f.sqrt_of_not_nan r ha
  have hrsq := f.rsq_of_not_nan r ha
  have hexp2 := f.exp2_of_not_nan r ha
  have hlog2 := f.log2_of_not_nan r ha
  refine ⟨?_, ?_, ?_, ?_, ?_, ?_, ?_, ?_, ?_, ?_, ?_, ?_⟩
  · intro n hA hB
    rw [hadd, hA, hB]
    exact if_neg (by cases n <;> decide)
  · intro n hA hB
    rw [hsub, hA, hB]
    exact if_neg (by cases n <;> decide)
  · rintro n k (⟨hA, hB⟩ | ⟨hA, hB⟩)
    all_goals
      rw [hA, hB] at hmul hfma
      exact ⟨hmul, hfma⟩
  · intro p l neg hP hC hne
    rw [hfma, hP, hC]
    cases neg <;> exact if_neg (by simpa using hne)
  · rintro n k (⟨hA, hB⟩ | ⟨hA, hB⟩) <;> rw [hdiv, hA, hB] <;> rfl
  · intro n m e k hA hB
    rw [hdiv, hA, hB]
  · intro hA
    rw [hsqrt, hA]
  · rintro (hA | ⟨m, e, hA⟩)
    all_goals
      rw [hA] at hsqrt hrsq hlog2
      exact ⟨hsqrt, hrsq, hlog2⟩
  · intro n hA
    rw [hA] at hrsq hlog2 hexp2
    exact ⟨hrsq, hlog2, hexp2.trans (Fmt.round_one hlane r)⟩
  · intro hA
    rw [hA] at hrsq hlog2 hexp2
    exact ⟨hrsq, hexp2, hlog2⟩
  · intro hA
    rw [hexp2, hA]
  · rintro rfl
    exact Fmt.log2_one hlane r

end Sys2Proof.Claims

namespace Sys2Proof.Machine
open Sys2Proof.Claims

/-! ### Infinite operands (R107) -/

/-- The sign that a number shows; a NaN's is not shown. -/
def Num.sign : Machine.Num → Option Bool
  | .nan _ => none
  | .inf b => some b
  | .zero b => some b
  | .fin b _ _ => some b

theorem Fmt.neg_of_sign (f : Fmt) {x : Nat} {b : Bool} (h : (f.num x).sign = some b) : f.neg x = b := by
  unfold num at h
  dsimp only at h
  split_ifs at h <;> simp [Num.sign] at h <;> exact h

section Infinite
variable (f : Fmt) (r : RMode)

theorem Fmt.addNum_inf_left {n : Bool} {y : Machine.Num} (hy : y ≠ .inf (!n)) (hnan : ∀ b, y ≠ .nan b) :
    f.addNum r (.inf n) y = (f.signed n f.infMag, 0) := by
  cases y with
  | nan b => exact absurd rfl (hnan b)
  | inf k => exact if_pos (by cases n <;> cases k <;> simp_all)
  | zero k | fin k m e => rfl

theorem Fmt.addNum_inf_right {n : Bool} {x : Machine.Num} (hx : x ≠ .inf (!n)) (hnan : ∀ b, x ≠ .nan b) :
    f.addNum r x (.inf n) = (f.signed n f.infMag, 0) := by
  cases x with
  | nan b => exact absurd rfl (hnan b)
  | inf k =>
    obtain rfl : k = n := by cases n <;> cases k <;> simp_all
    exact if_pos rfl
  | zero k | fin k m e => rfl

theorem Num.flip_ne_nan {y : Machine.Num} (hnan : ∀ b, y ≠ .nan b) (b : Bool) : y.flip ≠ .nan b := by
  cases y with
  | nan c => exact absurd rfl (hnan c)
  | inf k | zero k | fin k m e => exact nofun

theorem Num.flip_eq_inf {y : Machine.Num} {n : Bool} : y.flip = .inf n ↔ y = .inf (!n) := by
  cases y <;> simp [Num.flip]

theorem Num.mul_inf {n k : Bool} {y : Machine.Num} (hsign : y.sign = some k) (hy : ∀ b, y ≠ .zero b) :
    (Num.inf n).mul y = some (.inf (n != k)) ∧ y.mul (.inf n) = some (.inf (n != k)) := by
  cases y with
  | nan b => cases hsign
  | inf b =>
    cases hsign
    exact ⟨rfl, congrArg (fun b => some (Num.inf b)) bne_comm⟩
  | zero b => exact absurd rfl (hy b)
  | fin b m e =>
    cases hsign
    exact ⟨rfl, congrArg (fun b => some (Num.inf b)) bne_comm⟩

theorem Num.sign_isSome {y : Machine.Num} (hnan : ∀ b, y ≠ .nan b) : ∃ k, y.sign = some k := by
  cases y with
  | nan b => exact absurd rfl (hnan b)
  | inf k | zero k | fin k m e => exact ⟨k, rfl⟩

end Infinite

end Sys2Proof.Machine

namespace Sys2Proof.Claims
open Sys2Proof.Machine

theorem infiniteOperands : InfiniteOperands := by
  intro f r a b c hlane ha hb hc inf
  have hA := (f.isNaN_eq_false_iff a).1 ha
  have hB := (f.isNaN_eq_false_iff b).1 hb
  have hC := (f.isNaN_eq_false_iff c).1 hc
  obtain ⟨k, hk⟩ := Num.sign_isSome hB
  have hneg := f.neg_of_sign hk
  refine ⟨fun n hn hne => ⟨?_, ?_⟩, fun n hn hne => ⟨?_, ?_⟩, fun n hn hne => ?_, fun n hn hfin => ?_, fun p neg hp hne => ?_,
    fun l neg hfa hfb hl => ?_, fun hn => ?_⟩
  · rw [f.add_of_not_nan r ha hb, hn]
    exact f.addNum_inf_left r hne hB
  · rw [f.add_of_not_nan r hb ha, hn]
    exact f.addNum_inf_right r hne hB
  · rw [f.sub_of_not_nan r ha hb, hn]
    exact f.addNum_inf_left r (by rwa [ne_eq, Num.flip_eq_inf, Bool.not_not]) (Num.flip_ne_nan hB)
  · rw [f.sub_of_not_nan r hb ha, hn]
    exact f.addNum_inf_right r (by rwa [Bool.not_not]) hB
  · obtain ⟨hab, hba⟩ := Num.mul_inf (n := n) hk hne
    rw [f.mul_of_not_nan r ha hb, f.mul_of_not_nan r hb ha, hn, hab, hba, hneg]
    exact ⟨rfl, rfl⟩
  · rw [f.div_of_not_nan r ha hb, f.div_of_not_nan r hb ha, hn, hneg]
    have hna := f.neg_of_sign (x := a) (b := n) (by rw [hn]; rfl)
    cases hnb : f.num b with
    | nan d => exact absurd hnb (hfin d).1
    | inf d => exact absurd hnb (hfin d).2
    | zero d =>
      obtain rfl : d = k := by rw [hnb] at hk; exact Option.some.inj hk
      rw [hna]
      exact ⟨rfl, congrArg (fun s => (f.signed s 0, (0 : Ind))) bne_comm⟩
    | fin d m e =>
      obtain rfl : d = k := by rw [hnb] at hk; exact Option.some.inj hk
      exact ⟨rfl, congrArg (fun s => (f.signed s 0, (0 : Ind))) bne_comm⟩
  · rw [f.fma_of_not_nan r ha hb hc, hp]
    cases neg with
    | false => exact f.addNum_inf_left r (by simpa using hne) hC
    | true => exact f.addNum_inf_left r (by rw [if_pos rfl, ne_eq, Num.flip_eq_inf]; simpa using hne) (Num.flip_ne_nan hC)
  · have hfin : ∀ d, f.num a ≠ .inf d := fun d => (hfa d).2
    obtain ⟨p, hp, hP⟩ := (f.holds_num (isLaneFormat_ok hlane) hfa).mul (f.holds_num (isLaneFormat_ok hlane) hfb)
    have hpfin : finite p := by
      obtain ⟨rfl, -⟩ | ⟨m, e, -, rfl, -⟩ := hP <;> exact fun d => ⟨nofun, nofun⟩
    rw [f.fma_of_not_nan r ha hb hc, hp, hl]
    cases neg with
    | false => simpa [inf] using f.addNum_inf_right r (hpfin _).2 fun d => (hpfin d).1
    | true => simpa [inf, Num.flip] using f.addNum_inf_right r (hpfin _).2 fun d => (hpfin d).1
  · rw [f.sqrt_of_not_nan r ha, hn]
    rfl

end Sys2Proof.Claims

namespace Sys2Proof.Machine
open Sys2Proof.Claims

/-! ### Order of the values (R110, R112) -/

/-- The magnitude that a pattern's number has as a real, that of an infinity being beyond every finite one. -/
def Fmt.extVal (f : Fmt) (k : Nat) : ℚ := if k = f.infMag then 2 ^ 1000 else f.magVal ℚ k

section Compare
variable {f : Fmt} (hf : f.Ok)

theorem Fmt.extVal_nonneg (f : Fmt) (k : Nat) : 0 ≤ f.extVal k := by
  unfold extVal
  split
  · positivity
  · exact f.magVal_nonneg ℚ k

include hf in
theorem Fmt.extVal_lt {i j : Nat} (hj : j ≤ f.infMag) (hij : i < j) : f.extVal i < f.extVal j := by
  rw [extVal, if_neg (by omega), extVal]
  split
  next => exact f.magVal_lt_big hf (by omega)
  next => exact f.magVal_strictMono ℚ hij

include hf in
theorem Fmt.extVal_zero : f.extVal 0 = 0 := by
  rw [extVal, if_neg (f.infMag_pos hf).ne, f.magVal_zero ℚ]

/-- The real value with a key. -/
def Fmt.keyVal (f : Fmt) (k : Int) : ℚ := sgn ℚ (decide (k < 0)) * f.extVal k.natAbs

include hf in
theorem Fmt.keyVal_lt {i j : Int} (hi : i.natAbs ≤ f.infMag) (hj : j.natAbs ≤ f.infMag) (hij : i < j) : f.keyVal i < f.keyVal j := by
  have hpos {k : Nat} (hk : k ≤ f.infMag) (h0 : 0 < k) : 0 < f.extVal k := f.extVal_zero hf ▸ f.extVal_lt hf hk h0
  have hi0 := f.extVal_nonneg i.natAbs
  have hj0 := f.extVal_nonneg j.natAbs
  by_cases hin : i < 0
  · have := hpos hi (by omega)
    by_cases hjn : j < 0
    · have := f.extVal_lt hf hi (show j.natAbs < i.natAbs by omega)
      simpa [keyVal, sgn, hin, hjn] using this
    · simp only [keyVal, sgn, hin, hjn, decide_true, decide_false, if_true, Bool.false_eq_true, if_false]
      linarith
  · have := f.extVal_lt hf hj (show i.natAbs < j.natAbs by omega)
    simpa [keyVal, sgn, hin, show ¬ j < 0 by omega] using this

theorem Fmt.realKey_natAbs (f : Fmt) (x : Nat) : (f.realKey x).natAbs = f.mag x := by
  unfold realKey
  split <;> simp

include hf

theorem Fmt.mag_le_infMag {x : Nat} (hx : f.isNaN x = false) : f.mag x ≤ f.infMag := by
  obtain ⟨hlt, -⟩ | ⟨heq, -⟩ | ⟨-, b, hnan⟩ := f.num_cases hf x
  · exact hlt.le
  · exact heq.le
  · exact absurd hnan ((f.isNaN_eq_false_iff x).1 hx b)

/-- The real value of a number that is no NaN is told by its key. -/
theorem Fmt.realOf_eq_keyVal {x : Nat} (hx : f.isNaN x = false) : realOf (f.num x) = f.keyVal (f.realKey x) := by
  have hkey : f.keyVal (f.realKey x) = sgn ℚ (f.neg x) * f.extVal (f.mag x) := by
    rw [keyVal, f.realKey_natAbs]
    by_cases h0 : f.mag x = 0
    · rw [h0, f.extVal_zero hf, mul_zero, mul_zero]
    · congr 2
      unfold realKey
      cases f.neg x
      · exact decide_eq_false (by rw [if_neg Bool.false_ne_true]; omega)
      · exact decide_eq_true (by rw [if_pos rfl]; omega)
  rw [hkey, extVal]
  obtain ⟨hlt, -⟩ | ⟨heq, hnum⟩ | ⟨-, b, hnan⟩ := f.num_cases hf x
  · rw [if_neg hlt.ne]
    exact f.realOf_num hlt
  · rw [if_pos heq, hnum]
    cases f.neg x <;> simp [realOf, sgn]
  · exact absurd hnan ((f.isNaN_eq_false_iff x).1 hx b)

section Two
variable {a b : Nat} (ha : f.isNaN a = false) (hb : f.isNaN b = false)
include ha hb

theorem Fmt.realOf_lt_iff : realOf (f.num a) < realOf (f.num b) ↔ f.realKey a < f.realKey b := by
  have hi := (f.realKey_natAbs a).trans_le (mag_le_infMag hf ha)
  have hj := (f.realKey_natAbs b).trans_le (mag_le_infMag hf hb)
  rw [realOf_eq_keyVal hf ha, realOf_eq_keyVal hf hb]
  refine ⟨fun h => ?_, f.keyVal_lt hf hi hj⟩
  by_contra hle
  obtain hlt | heq := (not_lt.1 hle).lt_or_eq
  · exact h.not_gt (f.keyVal_lt hf hj hi hlt)
  · exact h.ne' (congrArg f.keyVal heq)

theorem Fmt.realOf_eq_iff : realOf (f.num a) = realOf (f.num b) ↔ f.realKey a = f.realKey b := by
  have hab := f.realOf_lt_iff hf ha hb
  have hba := f.realOf_lt_iff hf hb ha
  constructor
  · exact fun h => le_antisymm (not_lt.1 fun hlt => (hba.2 hlt).ne' h) (not_lt.1 fun hlt => (hab.2 hlt).ne h)
  · exact fun h => le_antisymm (not_lt.1 fun hlt => (hba.1 hlt).ne' h) (not_lt.1 fun hlt => (hab.1 hlt).ne h)

omit ha hb in
theorem Fmt.num_eq_zero_iff (x : Nat) (b : Bool) : f.num x = .zero b ↔ f.mag x = 0 ∧ f.neg x = b := by
  constructor
  · intro h
    refine ⟨?_, f.neg_of_sign (by rw [h]; rfl)⟩
    obtain ⟨hlt, -⟩ | ⟨-, hnum⟩ | ⟨-, c, hnum⟩ := f.num_cases hf x
    · obtain ⟨L, y, hmag, hp, -, hnum⟩ := f.num_of_mag_lt hlt
      rw [h] at hnum
      split at hnum
      next hy =>
        have hpos : 0 < 2 ^ f.m := by positivity
        obtain rfl : L = 0 := hp.resolve_right (by omega)
        simpa [hy] using hmag
      next => cases hnum
    · rw [h] at hnum; cases hnum
    · rw [h] at hnum; cases hnum
  · rintro ⟨hmag, hneg⟩
    have hw : 0 ≠ 2 ^ f.w - 1 := by
      have := Nat.pow_le_pow_right (show 0 < 2 by decide) hf.two_le_w
      omega
    simp [num, hmag, hneg, hw]

/-- R281's order is that of the keys. -/
theorem Fmt.before_iff : before (f.num a) (f.num b) ↔ f.key a < f.key b := by
  rw [before, f.realOf_lt_iff hf ha hb, f.num_eq_zero_iff hf, f.num_eq_zero_iff hf]
  unfold realKey key
  cases f.neg a <;> cases f.neg b <;> simp <;> omega

end Two

end Compare

theorem Fmt.isSNaN_of_not_nan (f : Fmt) {x : Nat} (h : f.isNaN x = false) : f.isSNaN x = false := by
  unfold isNaN at h
  unfold isSNaN
  cases hx : f.num x <;> simp_all

theorem Fmt.minMax_of_not_nan (f : Fmt) (big : Bool) {a b : Nat} (ha : f.isNaN a = false) (hb : f.isNaN b = false) :
    f.minMax big a b = (if (decide (f.key a ≤ f.key b) != big) = true then a else b, 0) := by
  simp only [minMax, ha, hb, f.isSNaN_of_not_nan ha, f.isSNaN_of_not_nan hb, Bool.and_self, Bool.or_self, Bool.false_eq_true, if_false]
  split <;> rfl

end Sys2Proof.Machine

namespace Sys2Proof.Claims
open Sys2Proof.Machine

theorem minMaxResults : MinMaxResults := by
  intro f a b hlane ha hb
  have hf := isLaneFormat_ok hlane
  rw [f.minMax_of_not_nan false ha hb, f.minMax_of_not_nan true ha hb]
  by_cases hle : f.key a ≤ f.key b
  · refine ⟨⟨a, by simp [hle], .inl rfl, ?_, ?_⟩, b, by simp [hle], .inr rfl, ?_, ?_⟩
    · rw [Fmt.before_iff hf ha ha]; omega
    · rw [Fmt.before_iff hf hb ha]; omega
    · rw [Fmt.before_iff hf hb ha]; omega
    · rw [Fmt.before_iff hf hb hb]; omega
  · refine ⟨⟨b, by simp [hle], .inr rfl, ?_, ?_⟩, a, by simp [hle], .inl rfl, ?_, ?_⟩
    · rw [Fmt.before_iff hf ha hb]; omega
    · rw [Fmt.before_iff hf hb hb]; omega
    · rw [Fmt.before_iff hf ha ha]; omega
    · rw [Fmt.before_iff hf ha hb]; omega

end Sys2Proof.Claims
end

section
/-! SUPPORT. The square root and its reciprocal are rounded once (R108). -/
set_option Elab.async false
namespace Sys2Proof.Machine
open Sys2Proof.Claims

/-! ### Real magnitudes well within the range of a format -/

section Real
variable {f : Fmt} (hf : f.Ok) {r : RMode} {X : ℝ} {g : Nat} {z : Nat × Ind}

/-- A magnitude below `2^(k - 1)` does not reach `2^k`. -/
theorem Fmt.not_reaches_of_lt {K : Type} [Field K] [LinearOrder K] [IsStrictOrderedRing K] (f : Fmt) (r : RMode) (neg : Bool) {k : Int} {X : K}
    (h : X < 2 ^ (k - 1)) : ¬ f.Reaches r neg k X := by
  have hpos : (0 : K) < 2 ^ (k - 1) := by positivity
  have hk : (2 : K) ^ k = 2 * 2 ^ (k - 1) := two_zpow_pred k
  have hm (j : Int) (hj : j ≤ 0) : (2 : K) ^ (k - 1) ≤ (2 - 2 ^ j) * 2 ^ (k - 1) := by
    have : (2 : K) ^ j ≤ 1 := zpow_le_one_of_nonpos₀ one_le_two hj
    nlinarith
  rw [f.reaches_iff]
  rintro ⟨hne, haway, htoward⟩
  by_cases h1 : r = .rne
  · exact (h.trans_le (hm (-(f.m + 1)) (by omega))).not_ge (hne h1)
  · by_cases h2 : r = .rup ∧ neg = false ∨ r = .rdn ∧ neg = true
    · exact (h.trans_le (hm (-f.m) (by omega))).not_gt (haway h2)
    · exact absurd (htoward h1 h2) (by linarith)

theorem Fmt.realOf_num_cast_cases {q : Nat} (hq : f.mag q < f.infMag) :
    (realOf (f.num q) : ℝ) = f.magVal ℝ (f.mag q) ∨ (realOf (f.num q) : ℝ) = -f.magVal ℝ (f.mag q) := by
  rw [f.realOf_num_cast ℝ hq, sgn]
  split
  · exact .inr (neg_one_mul _)
  · exact .inl (one_mul _)

theorem ind_eq_of_inexact_alone : ∀ i : Ind, i &&& indOverflow = 0 → i &&& indUnderflow = 0 →
    i &&& ~~~(indInexact ||| indOverflow ||| indUnderflow) = 0 → i = if i &&& indInexact ≠ 0 then indInexact else 0 := by decide

section Within
variable (h : f.RoundsMag r false X g z) (hlo : 2 ^ (1 - (f.bias : Int)) ≤ X) (hhi : X < 2 ^ f.bias)
include hf h hhi

/-- Its result is a finite value that is not negative. -/
theorem Fmt.RoundsMag.exists_mag_lt : ∃ j, z.1 = f.signed false j ∧ j < f.infMag ∧ (j = g ∨ j = g + 1) ∧
    (goesUp r false (g % 2 = 1) (f.magVal ℝ g) ((f.magVal ℝ g + f.magVal ℝ (g + 1)) / 2) X ↔ j = g + 1) := by
  obtain ⟨j, hz, hj, hup⟩ := h.exists_mag
  refine ⟨j, hz, ?_, hj, hup⟩
  have hpos := f.infMag_pos hf
  have hlast : (2 : ℝ) ^ f.bias ≤ f.magVal ℝ (f.infMag - 1) := by
    have hm : (2 : ℝ) ^ (-(f.m : Int)) ≤ 1 := zpow_le_one_of_nonpos₀ one_le_two (by omega)
    have hb : (0 : ℝ) < 2 ^ f.bias := by positivity
    rw [f.magVal_last ℝ hf]
    nlinarith
  have hg : g < f.infMag - 1 := (f.magVal_strictMono ℝ).lt_iff_lt.1 (h.le.trans_lt (hhi.trans_le hlast))
  omega

include hlo in
/-- It raises inexact alone, exactly when it differs. -/
theorem Fmt.RoundsMag.ind_eq : z.2 = if (realOf (f.num z.1) : ℝ) = X then 0 else indInexact := by
  have hX : 0 < X := lt_of_lt_of_le (by positivity) hlo
  obtain ⟨j, hz, hjlt, -⟩ := h.exists_mag_lt hf hhi
  have hfin : finite (f.num z.1) := hz ▸ (f.finite_signed hf false hjlt).1
  have hover : z.2 &&& indOverflow = 0 := by
    refine not_not.1 fun hne => f.not_reaches_of_lt r false ?_ (h.overflow.1 hne)
    rwa [add_sub_cancel_right, zpow_natCast]
  have hunder : z.2 &&& indUnderflow = 0 := not_not.1 fun hne => (h.underflow.1 hne).2 (.inl hlo)
  have hexact : (realOf (f.num z.1) : ℝ) = X ↔ ¬ f.magVal ℝ g < X := by
    have hX' : decide (X < 0) = false := decide_eq_false hX.le.not_gt
    have := Fmt.RoundsMag.exact_iff hf (x := X) (g := g) (z := z) (r := r) (by rwa [hX', abs_of_pos hX])
    rwa [abs_of_pos hX, and_iff_right hfin] at this
  have hinexact := h.inexact
  rw [ind_eq_of_inexact_alone z.2 hover hunder h.other]
  by_cases hlt : f.magVal ℝ g < X
  · rw [if_pos (hinexact.2 hlt), if_neg (mt hexact.1 (not_not.2 hlt))]
  · rw [if_neg (mt hinexact.1 hlt), if_pos (hexact.2 hlt)]

/-- It is what R276 asks of the real magnitude. -/
theorem Fmt.RoundsMag.roundsToReal (hX : 0 < X) : Claims.roundsToReal f r X z.1 := by
  obtain ⟨j, hz, hjlt, hj, hup⟩ := h.exists_mag_lt hf hhi
  have hmono := (f.magVal_strictMono ℝ).monotone
  obtain ⟨hfin, hval⟩ := f.finite_signed_cast hf ℝ false hjlt
  replace hval : (realOf (f.num (f.signed false j)) : ℝ) = f.magVal ℝ j := hval.trans (one_mul _)
  have hlow {q : Nat} (hq : f.mag q < f.infMag) (hle : (realOf (f.num q) : ℝ) ≤ X) : (realOf (f.num q) : ℝ) ≤ f.magVal ℝ g := by
    obtain hv | hv := f.realOf_num_cast_cases hq <;> rw [hv] at hle ⊢
    · exact hmono (h.le_of_magVal_le hq hle)
    · exact (neg_nonpos.2 (f.magVal_nonneg ℝ _)).trans (f.magVal_nonneg ℝ g)
  have hlow' {q : Nat} (hq : f.mag q < f.infMag) (hle : |(realOf (f.num q) : ℝ)| ≤ X) : |(realOf (f.num q) : ℝ)| ≤ f.magVal ℝ g := by
    have habs : |(realOf (f.num q) : ℝ)| = f.magVal ℝ (f.mag q) := by
      rw [f.realOf_num_cast ℝ hq, abs_sgn_mul, abs_of_nonneg (f.magVal_nonneg ℝ _)]
    rw [habs] at hle ⊢
    exact hmono (h.le_of_magVal_le hq hle)
  refine ⟨hz ▸ hfin, ?_⟩
  cases r with
  | rdn =>
    obtain rfl : j = g := hj.resolve_right (mt hup.2 fun hg => Bool.false_ne_true hg.2)
    rw [hz, hval]
    exact ⟨h.le, fun q _ hq => hlow ((f.finite_num_iff hf q).1 hq)⟩
  | rz =>
    obtain rfl : j = g := hj.resolve_right (mt hup.2 id)
    rw [hz, hval, abs_of_nonneg (f.magVal_nonneg ℝ j), abs_of_pos hX]
    exact ⟨h.le, fun q _ hq => hlow' ((f.finite_num_iff hf q).1 hq)⟩
  | rup =>
    have hupper : f.Upper X g j := by
      simp only [goesUp, and_true] at hup
      obtain rfl | rfl := hj
      · exact .inl ⟨rfl, le_antisymm (not_lt.1 fun hlt => absurd (hup.1 hlt) j.lt_succ_self.ne) h.le⟩
      · exact .inr ⟨rfl, hup.2 rfl⟩
    rw [hz, hval]
    refine ⟨?_, fun q _ hq hle => ?_⟩
    · obtain ⟨rfl, he⟩ | ⟨rfl, -⟩ := hupper
      · exact he.le
      · exact (h.lt.resolve_right hjlt.ne).le
    · have hk := (f.finite_num_iff hf q).1 hq
      obtain hv | hv := f.realOf_num_cast_cases hk <;> rw [hv] at hle ⊢
      · exact hmono (h.upper_le hupper hk hle)
      · have := f.magVal_nonneg ℝ (f.mag q)
        linarith
  | rne =>
    have hX' : decide (X < 0) = false := decide_eq_false hX.le.not_gt
    obtain ⟨hnear, heven⟩ := Fmt.RoundsMag.nearest_value hf hX.ne' (g := g) (z := z) (by rwa [hX', abs_of_pos hX]) (hz ▸ hfin)
    exact ⟨fun q _ hq => hnear hq, fun ⟨q, _, hq, hne, htie⟩ => heven hq hne htie⟩

end Within

end Real

/-! ### Integer square roots -/

theorem isqrtFrom_spec (n : Nat) : ∀ k r, r * r ≤ n → n < (r + 2 ^ k) * (r + 2 ^ k) →
    isqrtFrom n k r * isqrtFrom n k r ≤ n ∧ n < (isqrtFrom n k r + 1) * (isqrtFrom n k r + 1)
  | 0, _, hlo, hhi => ⟨hlo, hhi⟩
  | k + 1, r, hlo, hhi => by
    rw [isqrtFrom]
    split
    next hle => exact isqrtFrom_spec n k _ hle (by rwa [Nat.add_assoc, ← Nat.two_mul, ← pow_succ'])
    next hgt => exact isqrtFrom_spec n k r hlo (not_le.1 hgt)

theorem isqrt_eq_sqrt (n : Nat) : isqrt n = Nat.sqrt n := by
  have hn : n < 2 ^ bitLen n := bitLen_le_iff.1 le_rfl
  have hbits : n < (0 + 2 ^ (bitLen n / 2 + 1)) * (0 + 2 ^ (bitLen n / 2 + 1)) := by
    rw [Nat.zero_add, ← pow_add]
    exact hn.trans_le (Nat.pow_le_pow_right (by decide) (by omega))
  obtain ⟨hlo, hhi⟩ := isqrtFrom_spec n _ 0 (Nat.zero_le n) hbits
  exact Nat.eq_sqrt.2 ⟨hlo, hhi⟩

/-- A real root between two integers, from their squares. -/
theorem sqrt_mem_Ioo {a : Nat} {y : ℝ} (hlo : (a * a : Nat) < y) (hhi : y < ((a + 1) * (a + 1) : Nat)) : (a : ℝ) < √y ∧ √y < a + 1 := by
  constructor
  · exact (Real.lt_sqrt a.cast_nonneg).2 (by push_cast at hlo; rwa [sq])
  · exact (Real.sqrt_lt' (by positivity)).2 (by push_cast at hhi; rwa [sq])

theorem evenExp_spec (m : Nat) (e : Int) (hm : 0 < m) : 0 < (evenExp m e).1 ∧ (evenExp m e).2 % 2 = 0 ∧
    ((evenExp m e).1 : ℝ) * 2 ^ (evenExp m e).2 = m * 2 ^ e := by
  unfold evenExp
  split
  next h => exact ⟨hm, h, rfl⟩
  next h =>
    refine ⟨by dsimp only; omega, by dsimp only; omega, ?_⟩
    have := two_zpow_pred (K := ℝ) e
    push_cast
    rw [this]
    ring

theorem sqrt_two_zpow_two_mul (k : Int) : √((2 : ℝ) ^ (2 * k)) = 2 ^ k := by
  rw [two_mul, zpow_add₀ two_ne_zero, Real.sqrt_mul_self (by positivity)]

section Roots
variable (f : Fmt) {p : Nat} {e : Int} (hp : 0 < p) (heven : e % 2 = 0)
include hp heven

/-- The jammed root stands for the root of a significand with an even exponent. -/
theorem Fmt.stands_sqrt {N : Nat} (hN : N = p * 2 ^ (2 * (f.m + 4))) :
    0 < (jam (isqrt N * isqrt N = N) (isqrt N) (e / 2 - (f.m + 4 : Nat))).1 ∧
      f.Stands (jam (isqrt N * isqrt N = N) (isqrt N) (e / 2 - (f.m + 4 : Nat))).1
        (jam (isqrt N * isqrt N = N) (isqrt N) (e / 2 - (f.m + 4 : Nat))).2 √((p * 2 ^ e : ℝ)) := by
  have hX : √((p * 2 ^ e : ℝ)) = √(N : ℝ) * 2 ^ (e / 2 - (f.m + 4 : Nat)) := by
    have he : 2 * (e / 2) = e := by omega
    have hscale : (p * 2 ^ e : ℝ) = N * 2 ^ (2 * (e / 2 - (f.m + 4 : Nat))) := by
      rw [hN, mul_sub, he, zpow_sub₀ two_ne_zero]
      push_cast
      rw [← zpow_natCast (2 : ℝ) (2 * (f.m + 4))]
      push_cast
      field_simp
    rw [hscale, Real.sqrt_mul N.cast_nonneg, sqrt_two_zpow_two_mul]
  have hc : (0 : ℝ) < 2 ^ (e / 2 - (f.m + 4 : Nat)) := by positivity
  rw [hX, isqrt_eq_sqrt]
  refine f.stands_jam (fun hex => ?_) (fun hne => ?_) ?_
  · have : (N : ℝ) = N.sqrt * N.sqrt := by exact_mod_cast (of_decide_eq_true hex).symm
    rw [this, Real.sqrt_mul_self (Nat.cast_nonneg _)]
  · have hlo : N.sqrt * N.sqrt < N := lt_of_le_of_ne N.sqrt_le (of_decide_eq_false hne)
    obtain ⟨h1, h2⟩ := sqrt_mem_Ioo (y := N) (by exact_mod_cast hlo) (by exact_mod_cast N.lt_succ_sqrt)
    exact ⟨mul_lt_mul_of_pos_right h1 hc, mul_lt_mul_of_pos_right h2 hc⟩
  · rw [Nat.le_sqrt, hN, ← pow_add]
    exact (Nat.pow_le_pow_right (by decide) (by omega)).trans (Nat.le_mul_of_pos_left _ hp)

/-- The jammed reciprocal root stands for the reciprocal of that root. -/
theorem Fmt.stands_rsq {k q : Nat} (hk : k = bitLen p + f.m + 6) (hq : q = isqrt (2 ^ (2 * k) / p)) :
    0 < (jam (q * q * p = 2 ^ (2 * k)) q (-(e / 2) - k)).1 ∧
      f.Stands (jam (q * q * p = 2 ^ (2 * k)) q (-(e / 2) - k)).1 (jam (q * q * p = 2 ^ (2 * k)) q (-(e / 2) - k)).2
        (1 / √((p * 2 ^ e : ℝ))) := by
  have hpR : (0 : ℝ) < p := by exact_mod_cast hp
  have hX : 1 / √((p * 2 ^ e : ℝ)) = √((2 ^ (2 * k) / p : ℝ)) * 2 ^ (-(e / 2) - k : Int) := by
    have he : 2 * (-(e / 2) - k) = -e - 2 * k := by omega
    have hscale : (p * 2 ^ e : ℝ)⁻¹ = 2 ^ (2 * k) / p * 2 ^ (2 * (-(e / 2) - k)) := by
      rw [he, zpow_sub₀ two_ne_zero, zpow_neg, ← zpow_natCast (2 : ℝ) (2 * k)]
      push_cast
      field_simp
    rw [one_div, ← Real.sqrt_inv, hscale, Real.sqrt_mul (by positivity), sqrt_two_zpow_two_mul]
  have hc : (0 : ℝ) < 2 ^ (-(e / 2) - k : Int) := by positivity
  rw [isqrt_eq_sqrt] at hq
  rw [hX]
  refine f.stands_jam (fun hex => ?_) (fun hne => ?_) ?_
  · have : (2 ^ (2 * k) / p : ℝ) = q * q := by
      rw [div_eq_iff hpR.ne']
      exact_mod_cast (of_decide_eq_true hex).symm
    rw [this, Real.sqrt_mul_self q.cast_nonneg]
  · have hle : q * q * p ≤ 2 ^ (2 * k) := (Nat.le_div_iff_mul_le hp).1 (hq ▸ Nat.sqrt_le _)
    have hlo : q * q * p < 2 ^ (2 * k) := lt_of_le_of_ne hle (of_decide_eq_false hne)
    have hhi : 2 ^ (2 * k) < (q + 1) * (q + 1) * p := (Nat.div_lt_iff_lt_mul hp).1 (hq ▸ Nat.lt_succ_sqrt _)
    obtain ⟨h1, h2⟩ := sqrt_mem_Ioo (a := q) (y := 2 ^ (2 * k) / p) ((lt_div_iff₀ hpR).2 (by exact_mod_cast hlo))
      ((div_lt_iff₀ hpR).2 (by exact_mod_cast hhi))
    exact ⟨mul_lt_mul_of_pos_right h1 hc, mul_lt_mul_of_pos_right h2 hc⟩
  · rw [hq, Nat.le_sqrt, Nat.le_div_iff_mul_le hp, ← pow_add]
    calc 2 ^ (f.m + 1 + (f.m + 1)) * p ≤ 2 ^ (f.m + 1 + (f.m + 1)) * 2 ^ bitLen p := Nat.mul_le_mul_left _ (bitLen_bounds hp).2.1.le
      _ = 2 ^ (f.m + 1 + (f.m + 1) + bitLen p) := (pow_add ..).symm
      _ ≤ 2 ^ (2 * k) := Nat.pow_le_pow_right (by decide) (by omega)

end Roots

/-! ### Square roots and their reciprocals (R108) -/

theorem isLaneFormat_bounds {f : Fmt} (h : isLaneFormat f) : f.m + 1 ≤ f.bias ∧ 3 ≤ f.bias := by
  rcases h with rfl | rfl | rfl <;> decide

/-- The least and the largest of the positive finite values. -/
theorem Fmt.realOf_bounds {f : Fmt} (hf : f.Ok) {a : Nat} (hfin : finite (f.num a)) (hpos : 0 < realOf (f.num a)) :
    (2 : ℝ) ^ f.emin ≤ realOf (f.num a) ∧ (realOf (f.num a) : ℝ) < 2 ^ ((f.bias : Int) + 1) := by
  have hk := (f.finite_num_iff hf a).1 hfin
  have hposR : (0 : ℝ) < realOf (f.num a) := by exact_mod_cast hpos
  have hval : (realOf (f.num a) : ℝ) = f.magVal ℝ (f.mag a) := by
    obtain hv | hv := f.realOf_num_cast_cases hk
    · exact hv
    · have := f.magVal_nonneg ℝ (f.mag a)
      linarith
  rw [hval] at hposR ⊢
  have hmag : 0 < f.mag a := by
    refine Nat.pos_of_ne_zero fun h0 => ?_
    rw [h0, f.magVal_zero ℝ] at hposR
    exact lt_irrefl _ hposR
  have hone : f.magVal ℝ 1 = 2 ^ f.emin := by
    have := f.magVal_placed ℝ (L := 0) (y := 1) (.inl rfl) (Nat.one_le_two_pow)
    simpa using this
  refine ⟨?_, f.magVal_infMag ℝ hf ▸ f.magVal_strictMono ℝ hk⟩
  rw [← hone]
  exact (f.magVal_strictMono ℝ).monotone hmag

/-- What a positive real magnitude in the middle of the range rounds to, as R108 asks of a root. -/
theorem Fmt.root_result {f : Fmt} (hf : f.Ok) (r : RMode) {X : ℝ} (hlo : 2 ^ (1 - (f.bias : Int)) ≤ X) (hhi : X < 2 ^ f.bias)
    {mant : Nat} {exp : Int} (h : 0 < mant ∧ f.Stands mant exp X) :
    let z := f.round r false mant exp
    z.1 < f.signBit ∧ roundsToReal f r X z.1 ∧ 0 ≤ realOf (f.num z.1) ∧
      z.2 = if (realOf (f.num z.1) : ℝ) = X then 0 else indInexact := by
  obtain ⟨g, hg⟩ := f.roundsMag_round hf r false exp h.1 h.2
  obtain ⟨j, hz, hj, -⟩ := hg.exists_mag_lt hf hhi
  have hval := (f.finite_signed hf false hj).2
  refine ⟨?_, hg.roundsToReal hf hhi (lt_of_lt_of_le (by positivity) hlo), ?_, hg.ind_eq hf hlo hhi⟩
  · rw [hz]
    exact hj.trans (f.infMag_lt_signBit hf)
  · rw [hz, hval]
    exact mul_nonneg zero_le_one (f.magVal_nonneg ℚ j)

/-- The root of a finite positive value and the reciprocal of it lie in the middle of the range. -/
theorem Fmt.root_bounds {f : Fmt} (hm : f.m + 1 ≤ f.bias) (hb : 3 ≤ f.bias) {x : ℝ} (hlo : (2 : ℝ) ^ f.emin ≤ x)
    (hhi : x < 2 ^ ((f.bias : Int) + 1)) :
    (2 ^ (1 - (f.bias : Int)) ≤ √x ∧ √x < 2 ^ f.bias) ∧ 2 ^ (1 - (f.bias : Int)) ≤ 1 / √x ∧ 1 / √x < 2 ^ f.bias := by
  have hx : 0 < x := lt_of_lt_of_le (by positivity) hlo
  have hroot := Real.sqrt_pos.2 hx
  have hge {k : Int} (hk : 2 * k ≤ f.emin) : (2 : ℝ) ^ k ≤ √x := by
    rw [← sqrt_two_zpow_two_mul]
    exact Real.sqrt_le_sqrt ((zpow_le_zpow_right₀ one_le_two hk).trans hlo)
  have hlt {k : Int} (hk : (f.bias : Int) + 1 ≤ 2 * k) : √x < 2 ^ k := by
    rw [← sqrt_two_zpow_two_mul]
    exact Real.sqrt_lt_sqrt hx.le (hhi.trans_le (zpow_le_zpow_right₀ one_le_two hk))
  rw [Fmt.emin] at hge
  rw [← zpow_natCast (2 : ℝ) f.bias]
  refine ⟨⟨hge (by omega), hlt (by omega)⟩, ?_, ?_⟩
  · rw [le_div_iff₀ hroot, ← le_div_iff₀' (by positivity), one_div, ← zpow_neg]
    exact (hlt (by omega)).le
  · rw [div_lt_iff₀ hroot, ← div_lt_iff₀' (by positivity), one_div, ← zpow_neg]
    refine lt_of_lt_of_le ?_ (hge (k := 1 - f.bias) (by omega))
    exact zpow_lt_zpow_right₀ one_lt_two (by omega)

theorem eq_sqrt_iff {x y : ℚ} (hx : 0 ≤ x) (hy : 0 ≤ y) : (y : ℝ) = √(x : ℝ) ↔ y * y = x := by
  rw [eq_comm, Real.sqrt_eq_iff_mul_self_eq (by exact_mod_cast hx) (by exact_mod_cast hy)]
  norm_cast
  exact eq_comm

theorem eq_inv_sqrt_iff {x y : ℚ} (hx : 0 < x) (hy : 0 ≤ y) : (y : ℝ) = 1 / √(x : ℝ) ↔ y * y * x = 1 := by
  have hinv : 1 / √(x : ℝ) = √((x⁻¹ : ℚ) : ℝ) := by rw [one_div, ← Real.sqrt_inv, Rat.cast_inv]
  rw [hinv, eq_sqrt_iff (inv_nonneg.2 hx.le) hy, mul_eq_one_iff_eq_inv₀ hx.ne']

end Sys2Proof.Machine

namespace Sys2Proof.Claims
open Sys2Proof.Machine

theorem rootResults : RootResults := by
  intro f r a hlane hfin hpos x s q
  have hf := isLaneFormat_ok hlane
  obtain ⟨hm, hb⟩ := isLaneFormat_bounds hlane
  obtain ⟨hxlo, hxhi⟩ := f.realOf_bounds hf hfin hpos
  have hxR : (0 : ℝ) < x := by exact_mod_cast hpos
  have hnan := Fmt.isNaN_of_finite hfin
  obtain ⟨n, m, e, hmant, hnum, hval⟩ : ∃ n m e, 0 < m ∧ f.num a = .fin n m e ∧ x = sgn ℚ n * (m * 2 ^ e) := by
    obtain ⟨-, h0⟩ | ⟨m, e, hm, hn, hv⟩ := f.holds_num hf hfin
    · exact absurd h0 hpos.ne'
    · exact ⟨_, m, e, hm, hn, hv⟩
  obtain rfl : n = false := by
    cases n with
    | false => rfl
    | true =>
      have : (0 : ℚ) < m * 2 ^ e := by positivity
      have : x < 0 := by rw [hval]; simpa [sgn] using this
      exact absurd hpos this.not_gt
  obtain ⟨hp, heven, hpval⟩ := evenExp_spec m e hmant
  have hx : (x : ℝ) = (evenExp m e).1 * 2 ^ (evenExp m e).2 := by
    rw [hpval, hval]
    simp [sgn]
  have hs : s = _ := (f.sqrt_of_not_nan r hnan).trans (by rw [hnum])
  have hq : q = _ := (f.rsq_of_not_nan r hnan).trans (by rw [hnum])
  have hstandsS := f.stands_sqrt hp heven rfl
  have hstandsQ := f.stands_rsq hp heven rfl rfl
  rw [← hx] at hstandsS hstandsQ
  obtain ⟨⟨hslo, hshi⟩, hqlo, hqhi⟩ := f.root_bounds hm hb hxlo hxhi
  obtain ⟨hs1, hs2, hs3, hs4⟩ := f.root_result hf r hslo hshi hstandsS
  obtain ⟨hq1, hq2, hq3, hq4⟩ := f.root_result hf r hqlo hqhi hstandsQ
  rw [hs, hq]
  exact ⟨hs1, hs2, hs4.trans (if_congr (eq_sqrt_iff hpos.le hs3) rfl rfl), hq1, hq2,
    hq4.trans (if_congr (eq_inv_sqrt_iff hpos hq3) rfl rfl)⟩

end Sys2Proof.Claims
end

section
/-! SUPPORT. The exponential and the logarithm in fixed point lie near the exact values (R108, log 9). -/
set_option Elab.async false
namespace Sys2Proof.Machine
open Sys2Proof.Claims

/-! ### ln 2 in fixed point (log 9) -/

/-- `ln2Fixed` as a real number. -/
noncomputable def ln2 : ℝ := ln2Fixed / 2 ^ 256

theorem ln2_near : |ln2 - Real.log 2| ≤ 2 / 10 ^ 10 := by
  have hfrac : |ln2 - 287209 / 414355| ≤ 1 / 10 ^ 10 := by
    rw [ln2, ln2Fixed, abs_le]
    constructor <;> norm_num
  have hlog := Real.log_two_near_10
  rw [abs_sub_comm] at hlog
  calc |ln2 - Real.log 2| ≤ |ln2 - 287209 / 414355| + |287209 / 414355 - Real.log 2| := abs_sub_le _ _ _
    _ ≤ 2 / 10 ^ 10 := by linarith

theorem ln2_bounds : 69 / 100 < ln2 ∧ ln2 < 7 / 10 := by
  rw [ln2, ln2Fixed]
  constructor <;> norm_num

/-! ### The exponential series in fixed point -/

/-- A truncated quotient lies within 1 below the exact one. -/
theorem nat_div_cast_bounds (a b : Nat) (hb : 0 < b) : ((a / b : Nat) : ℝ) ≤ a / b ∧ (a : ℝ) / b - 1 < (a / b : Nat) := by
  have hbR : (0 : ℝ) < b := by exact_mod_cast hb
  refine ⟨Nat.cast_div_le, ?_⟩
  rw [sub_lt_iff_lt_add, div_lt_iff₀ hbR]
  have : a < (a / b + 1) * b := Nat.lt_mul_of_div_lt (Nat.lt_succ_self _) hb
  exact_mod_cast this

/-- Term `i` of the exponential series at `Y`. -/
noncomputable def expTerm (Y : ℝ) (i : Nat) : ℝ := Y ^ i / i.factorial

theorem expTerm_succ (Y : ℝ) (i : Nat) : expTerm Y (i + 1) = expTerm Y i * Y / (i + 1) := by
  have : (i.factorial : ℝ) ≠ 0 := by exact_mod_cast i.factorial_ne_zero
  rw [expTerm, expTerm, pow_succ, Nat.factorial_succ]
  push_cast
  field_simp

/-- The series sums its terms, each too small by at most its number, so the sum by at most `n (i + n)`. -/
theorem expSeries_bounds {y : Nat} {Y : ℝ} (hY : Y = y / 2 ^ 256) (hY1 : Y ≤ 1) : ∀ n i term : Nat,
    (term : ℝ) ≤ 2 ^ 256 * expTerm Y i → 2 ^ 256 * expTerm Y i - i ≤ term →
    (expSeries y n (i + 1) term : ℝ) ≤ 2 ^ 256 * ∑ j ∈ Finset.range (n + 1), expTerm Y (i + j) ∧
      2 ^ 256 * ∑ j ∈ Finset.range (n + 1), expTerm Y (i + j) - (n + 1) * (i + n) ≤ expSeries y n (i + 1) term
  | 0, i, term, hhi, hlo => by
    simp only [expSeries, zero_add, Finset.sum_range_one, add_zero]
    push_cast
    exact ⟨hhi, by linarith⟩
  | n + 1, i, term, hhi, hlo => by
    have hY0 : 0 ≤ Y := by rw [hY]; positivity
    have hi : (0 : ℝ) < i + 1 := by positivity
    have hexact : (term * y : ℝ) / (2 ^ 256 * (i + 1)) = term * Y / (i + 1) := by
      rw [hY]
      field_simp
    obtain ⟨hle, hlt⟩ := nat_div_cast_bounds (term * y) (2 ^ 256 * (i + 1)) (by positivity)
    simp only [Nat.cast_mul, Nat.cast_pow, Nat.cast_ofNat, Nat.cast_add, Nat.cast_one, hexact] at hle hlt
    have hterm : 2 ^ 256 * expTerm Y (i + 1) = (2 ^ 256 * expTerm Y i) * Y / (i + 1) := by
      rw [expTerm_succ]
      ring
    have hup : ((term * y / (2 ^ 256 * (i + 1)) : Nat) : ℝ) ≤ 2 ^ 256 * expTerm Y (i + 1) := by
      refine hle.trans ?_
      rw [hterm]
      gcongr
    have hdown : 2 ^ 256 * expTerm Y (i + 1) - (i + 1 : Nat) ≤ (term * y / (2 ^ 256 * (i + 1)) : Nat) := by
      have hstep : (2 ^ 256 * expTerm Y i - term) * Y / (i + 1) ≤ i := by
        rw [div_le_iff₀ hi]
        have : (i : ℝ) * 1 ≤ i * (i + 1) := by gcongr; linarith [i.cast_nonneg (α := ℝ)]
        nlinarith [i.cast_nonneg (α := ℝ)]
      have hsplit : (2 ^ 256 * expTerm Y i - term) * Y / (i + 1) = 2 ^ 256 * expTerm Y (i + 1) - term * Y / (i + 1) := by
        rw [hterm]
        ring
      push_cast
      linarith
    obtain ⟨ihhi, ihlo⟩ := expSeries_bounds hY hY1 n (i + 1) _ hup hdown
    have hsum : ∑ j ∈ Finset.range (n + 1 + 1), expTerm Y (i + j) =
        expTerm Y i + ∑ j ∈ Finset.range (n + 1), expTerm Y (i + 1 + j) := by
      rw [Finset.sum_range_succ', add_comm, add_zero]
      simp only [add_assoc, add_comm 1]
    rw [expSeries, Nat.div_div_eq_div_mul, hsum]
    push_cast at ihhi ihlo ⊢
    constructor <;> nlinarith [i.cast_nonneg (α := ℝ), n.cast_nonneg (α := ℝ)]

theorem le_expSeries (y : Nat) : ∀ n i term : Nat, term ≤ expSeries y n i term
  | 0, _, _ => le_rfl
  | _ + 1, _, _ => Nat.le_add_right _ _

theorem le_exp2Fixed (fr : Nat) : 2 ^ 256 ≤ exp2Fixed fr := le_expSeries ..

/-- The first 71 terms of the exponential series give it to twelve places below 1. -/
theorem exp_near_sum {Y : ℝ} (h0 : 0 ≤ Y) (h1 : Y ≤ 1) :
    ∑ j ∈ Finset.range 71, expTerm Y (0 + j) ≤ Real.exp Y ∧ Real.exp Y ≤ ∑ j ∈ Finset.range 71, expTerm Y (0 + j) + 1 / 10 ^ 12 := by
  simp only [zero_add, expTerm]
  refine ⟨Real.sum_le_exp_of_nonneg h0 71, (Real.exp_bound' h0 h1 (by decide : 0 < 71)).trans (add_le_add le_rfl ?_)⟩
  have hpow : Y ^ 71 ≤ 1 := pow_le_one₀ h0 h1
  have hfact : ((10 ^ 12 * 72 : Nat) : ℝ) ≤ (Nat.factorial 71 * 71 : Nat) := by
    exact_mod_cast (by decide +kernel : 10 ^ 12 * 72 ≤ Nat.factorial 71 * 71)
  push_cast at hfact ⊢
  rw [div_le_div_iff₀ (by positivity) (by positivity)]
  nlinarith

theorem two_rpow_eq_exp (x : ℝ) : (2 : ℝ) ^ x = Real.exp (x * Real.log 2) := by
  rw [Real.rpow_def_of_pos two_pos, mul_comm]

/-- The argument of the series is the natural logarithm of the power to be found, to ten places. -/
theorem exp2Fixed_arg {fr : Nat} {φ Y : ℝ} (hφ : φ = fr / 2 ^ 256) (hφ1 : φ ≤ 1) (hY : Y = (fr * ln2Fixed / 2 ^ 256 : Nat) / 2 ^ 256) :
    0 ≤ Y ∧ Y ≤ 1 ∧ |Y - φ * Real.log 2| ≤ 21 / 10 ^ 11 := by
  obtain ⟨y, hy⟩ : ∃ y, y = fr * ln2Fixed / 2 ^ 256 := ⟨_, rfl⟩
  rw [← hy] at hY
  have hP : (10 : ℝ) ^ 30 ≤ 2 ^ 256 := by norm_num
  have hφ0 : 0 ≤ φ := by rw [hφ]; positivity
  have hY0 : 0 ≤ Y := by rw [hY]; positivity
  have hpos : (0 : ℝ) < 2 ^ 256 := by positivity
  have hYφ : |Y - φ * ln2| ≤ 1 / 10 ^ 30 ∧ Y - φ * ln2 ≤ 0 := by
    obtain ⟨hle, hlt⟩ := nat_div_cast_bounds (fr * ln2Fixed) (2 ^ 256) (by positivity)
    simp only [← hy, Nat.cast_mul, Nat.cast_pow, Nat.cast_ofNat] at hle hlt
    have hexact : (fr * ln2Fixed / 2 ^ 256 : ℝ) = 2 ^ 256 * (φ * ln2) := by
      rw [hφ, ln2]
      field_simp
    have hyY : (y : ℝ) = 2 ^ 256 * Y := by rw [hY]; field_simp
    rw [hexact, hyY] at hle hlt
    have h1 : Y - φ * ln2 ≤ 0 := by nlinarith
    have h2 : (2 : ℝ) ^ 256 * (φ * ln2 - Y) < 1 := by linarith
    rw [abs_of_nonpos h1, le_div_iff₀ (by positivity)]
    exact ⟨by nlinarith, h1⟩
  have hmul : |φ * ln2 - φ * Real.log 2| ≤ 2 / 10 ^ 10 := by
    rw [← mul_sub, abs_mul, abs_of_nonneg hφ0]
    exact (mul_le_of_le_one_left (abs_nonneg _) hφ1).trans ln2_near
  refine ⟨hY0, ?_, (abs_sub_le Y (φ * ln2) _).trans ((add_le_add hYφ.1 hmul).trans (by norm_num))⟩
  have : φ * ln2 ≤ 1 * ln2 := mul_le_mul_of_nonneg_right hφ1 (by linarith [ln2_bounds.1])
  linarith [ln2_bounds.2, hYφ.2]

theorem expTerm_zero (Y : ℝ) : expTerm Y 0 = 1 := by simp [expTerm]

/-- A sum in 256 fraction bits that lies within 10^6 of the series gives the exponential to eleven places. -/
theorem near_exp_of_bounds {E Y : ℝ} (h0 : 0 ≤ Y) (h1 : Y ≤ 1) (hhi : E ≤ 2 ^ 256 * ∑ j ∈ Finset.range 71, expTerm Y (0 + j))
    (hlo : 2 ^ 256 * ∑ j ∈ Finset.range 71, expTerm Y (0 + j) - 10 ^ 6 ≤ E) : |E / 2 ^ 256 - Real.exp Y| ≤ 1 / 10 ^ 11 := by
  have hpos : (0 : ℝ) < 2 ^ 256 := by positivity
  have hP : (10 : ℝ) ^ 30 ≤ 2 ^ 256 := by norm_num
  obtain ⟨hsum, hsum'⟩ := exp_near_sum h0 h1
  have hlow : Real.exp Y - 2 / 10 ^ 12 ≤ E / 2 ^ 256 := by
    rw [le_div_iff₀ hpos]
    nlinarith
  have hhigh : E / 2 ^ 256 ≤ Real.exp Y := by
    rw [div_le_iff₀ hpos, mul_comm]
    exact hhi.trans (mul_le_mul_of_nonneg_left hsum hpos.le)
  rw [abs_le]
  constructor <;> linarith

theorem expSeries_near {y one : Nat} {Y : ℝ} (hY : Y = y / 2 ^ 256) (hY1 : Y ≤ 1) (hone : (one : ℝ) = 2 ^ 256) :
    |(expSeries y 70 1 one : ℝ) / 2 ^ 256 - Real.exp Y| ≤ 1 / 10 ^ 11 := by
  have hY0 : 0 ≤ Y := by rw [hY]; positivity
  have hterm : (one : ℝ) = 2 ^ 256 * expTerm Y 0 := by rw [expTerm_zero, mul_one, hone]
  obtain ⟨hhi, hlo⟩ := expSeries_bounds hY hY1 70 0 one hterm.le (by rw [hterm, Nat.cast_zero, sub_zero])
  rw [zero_add, show 70 + 1 = 71 from rfl] at hhi hlo
  refine near_exp_of_bounds hY0 hY1 hhi (le_trans ?_ hlo)
  exact sub_le_sub_left (by norm_num) _

theorem exp2Fixed_series {fr : Nat} {Y : ℝ} (hY : Y = (fr * ln2Fixed / 2 ^ 256 : Nat) / 2 ^ 256) (hY1 : Y ≤ 1) :
    |(exp2Fixed fr : ℝ) / 2 ^ 256 - Real.exp Y| ≤ 1 / 10 ^ 11 := by
  rw [exp2Fixed]
  exact expSeries_near hY hY1 (by rw [Nat.cast_pow, Nat.cast_ofNat])

/-- `exp2Fixed` is the power of two of its fraction to within 5 · 10^−10 of it. -/
theorem exp2Fixed_near {fr : Nat} {φ : ℝ} (hφ : φ = fr / 2 ^ 256) (h : fr < 2 ^ 256) :
    |(exp2Fixed fr : ℝ) / 2 ^ 256 - 2 ^ φ| ≤ 2 ^ φ * (5 / 10 ^ 10) := by
  have hφ0 : 0 ≤ φ := by rw [hφ]; positivity
  have hφ1 : φ ≤ 1 := by
    rw [hφ, div_le_one (by positivity)]
    exact_mod_cast h.le
  obtain ⟨Y, hY⟩ : ∃ Y : ℝ, Y = (fr * ln2Fixed / 2 ^ 256 : Nat) / 2 ^ 256 := ⟨_, rfl⟩
  obtain ⟨hY0, hY1, harg⟩ := exp2Fixed_arg hφ hφ1 hY
  have hseries := exp2Fixed_series hY hY1
  obtain ⟨t, ht⟩ : ∃ t, t = φ * Real.log 2 := ⟨_, rfl⟩
  rw [two_rpow_eq_exp, ← ht]
  rw [← ht] at harg
  have hexp1 : 1 ≤ Real.exp t := Real.one_le_exp (ht ▸ mul_nonneg hφ0 (Real.log_nonneg one_le_two))
  have hmove : |Real.exp Y - Real.exp t| ≤ Real.exp t * (42 / 10 ^ 11) := by
    have hsplit : Real.exp Y - Real.exp t = Real.exp t * (Real.exp (Y - t) - 1) := by rw [Real.exp_sub]; field_simp
    have hsmall : |Y - t| ≤ 1 := harg.trans (by norm_num)
    rw [hsplit, abs_mul, abs_of_pos (Real.exp_pos t)]
    refine mul_le_mul_of_nonneg_left ((Real.abs_exp_sub_one_le hsmall).trans ?_) (Real.exp_pos t).le
    linarith
  refine (abs_sub_le _ (Real.exp Y) _).trans ((add_le_add hseries hmove).trans ?_)
  nlinarith

end Sys2Proof.Machine
end

section
/-! SUPPORT. The logarithm in fixed point lies near the exact one (R108, log 9). -/
set_option Elab.async false
namespace Sys2Proof.Machine
open Sys2Proof.Claims

/-! ### The series of the inverse hyperbolic tangent in fixed point -/

/-- Term `i` of the series of the inverse hyperbolic tangent at `Z`. -/
noncomputable def atanhTerm (Z : ℝ) (i : Nat) : ℝ := Z ^ (2 * i + 1) / (2 * i + 1)

section AtanhSeries
variable {z2 : Nat} {S Z : ℝ} (hS : S = 2 ^ 256) (hZ0 : 0 ≤ Z) (hZ1 : Z ≤ 1) (hhi2 : (z2 : ℝ) ≤ S * Z ^ 2)
  (hlo2 : S * Z ^ 2 - 1 ≤ z2)
include hS hZ0 hZ1 hhi2 hlo2

/-- A power of the argument, carried in fixed point from one term to the next, loses at most 2. -/
theorem atanhPower_bounds {p i : Nat} (hhi : (p : ℝ) ≤ S * Z ^ (2 * i + 1)) (hlo : S * Z ^ (2 * i + 1) - 2 * i ≤ p) :
    ((p * z2 / 2 ^ 256 : Nat) : ℝ) ≤ S * Z ^ (2 * (i + 1) + 1) ∧
      S * Z ^ (2 * (i + 1) + 1) - 2 * (i + 1 : Nat) ≤ (p * z2 / 2 ^ 256 : Nat) := by
  have hpos : 0 < S := by rw [hS]; positivity
  obtain ⟨hle, hlt⟩ := nat_div_cast_bounds (p * z2) (2 ^ 256) (by positivity)
  simp only [Nat.cast_mul, Nat.cast_pow, Nat.cast_ofNat, ← hS] at hle hlt
  have hpS : (p : ℝ) ≤ S := hhi.trans (mul_le_of_le_one_right hpos.le (pow_le_one₀ hZ0 hZ1))
  have hp0 : (0 : ℝ) ≤ p := p.cast_nonneg
  have hpow : S * Z ^ (2 * (i + 1) + 1) = S * Z ^ (2 * i + 1) * Z ^ 2 := by ring
  have hsq : Z ^ 2 ≤ 1 := pow_le_one₀ hZ0 hZ1
  have hsq0 : 0 ≤ Z ^ 2 := by positivity
  rw [hpow]
  constructor
  · refine hle.trans ?_
    rw [div_le_iff₀ hpos]
    calc (p : ℝ) * z2 ≤ S * Z ^ (2 * i + 1) * (S * Z ^ 2) := by gcongr
      _ = S * Z ^ (2 * i + 1) * Z ^ 2 * S := by ring
  · have h1 : p * Z ^ 2 - 1 ≤ p * z2 / S := by
      rw [le_div_iff₀ hpos]
      nlinarith
    have h2 : (S * Z ^ (2 * i + 1) - 2 * i) * Z ^ 2 ≤ p * Z ^ 2 := by gcongr
    have h3 : (2 * i : ℝ) * Z ^ 2 ≤ 2 * i := mul_le_of_le_one_right (by positivity) hsq
    push_cast
    linarith

/-- The series sums its terms, each too small by at most 2. -/
theorem atanhSeries_bounds : ∀ n i p : Nat, (p : ℝ) ≤ S * Z ^ (2 * i + 1) → S * Z ^ (2 * i + 1) - 2 * i ≤ p →
      (atanhSeries z2 n i p : ℝ) ≤ S * ∑ j ∈ Finset.range n, atanhTerm Z (i + j) ∧
        S * ∑ j ∈ Finset.range n, atanhTerm Z (i + j) - 2 * n ≤ atanhSeries z2 n i p
  | 0, i, p, _, _ => by simp [atanhSeries]
  | n + 1, i, p, hhi, hlo => by
    have hi : (0 : ℝ) < 2 * i + 1 := by positivity
    obtain ⟨hup, hdown⟩ := atanhPower_bounds hS hZ0 hZ1 hhi2 hlo2 hhi hlo
    obtain ⟨ihhi, ihlo⟩ := atanhSeries_bounds n (i + 1) _ hup hdown
    obtain ⟨hle, hlt⟩ := nat_div_cast_bounds p (2 * i + 1) (by omega)
    push_cast at hle hlt
    have hterm : S * Z ^ (2 * i + 1) / (2 * i + 1) = S * atanhTerm Z i := by rw [atanhTerm, mul_div_assoc]
    have hfirst : (p : ℝ) / (2 * i + 1) ≤ S * atanhTerm Z i := by
      rw [← hterm]
      gcongr
    have hfirst' : S * atanhTerm Z i - 1 ≤ p / (2 * i + 1) := by
      rw [← hterm, le_div_iff₀ hi, sub_mul, div_mul_cancel₀ _ hi.ne']
      linarith
    have hsum : ∑ j ∈ Finset.range (n + 1), atanhTerm Z (i + j) =
        atanhTerm Z i + ∑ j ∈ Finset.range n, atanhTerm Z (i + 1 + j) := by
      rw [Finset.sum_range_succ', add_comm, add_zero]
      simp only [add_assoc, add_comm 1]
    rw [atanhSeries, hsum, mul_add]
    push_cast at ihhi ihlo ⊢
    constructor <;> linarith

end AtanhSeries

/-- The first 90 terms of the series give half of the logarithm to twelve places for an argument below 1/2. -/
theorem log_near_sum {Z : ℝ} (h0 : 0 ≤ Z) (h1 : Z ≤ 1 / 2) :
    ∑ j ∈ Finset.range 90, atanhTerm Z (0 + j) ≤ 1 / 2 * Real.log ((1 + Z) / (1 - Z)) ∧
      1 / 2 * Real.log ((1 + Z) / (1 - Z)) ≤ ∑ j ∈ Finset.range 90, atanhTerm Z (0 + j) + 1 / 10 ^ 12 := by
  have hlt : Z < 1 := by linarith
  simp only [zero_add, atanhTerm]
  refine ⟨Real.sum_range_le_log_div h0 hlt 90, (Real.log_div_le_sum_range_add h0 hlt 90).trans (add_le_add le_rfl ?_)⟩
  have hpow : Z ^ (2 * 90 + 1) ≤ (1 / 2) ^ (2 * 90 + 1) := pow_le_pow_left₀ h0 h1 _
  have hsq : Z ^ 2 ≤ (1 / 2) ^ 2 := pow_le_pow_left₀ h0 h1 _
  rw [div_le_iff₀ (by linarith)]
  refine hpow.trans (le_trans ?_ (mul_le_mul_of_nonneg_left (sub_le_sub_left hsq 1) (by positivity)))
  norm_num

/-- The logarithm of a quotient moves little with its argument. -/
theorem log_quotient_near {Z ζ δ : ℝ} (h0 : 0 ≤ Z) (hle : Z ≤ ζ) (hδ : ζ - Z ≤ δ) (h1 : ζ ≤ 1 / 2) :
    Real.log ((1 + Z) / (1 - Z)) ≤ Real.log ((1 + ζ) / (1 - ζ)) ∧
      Real.log ((1 + ζ) / (1 - ζ)) ≤ Real.log ((1 + Z) / (1 - Z)) + 4 * δ := by
  have hZ : 0 < 1 - Z := by linarith
  have hζ : 0 < 1 - ζ := by linarith
  have hposZ : 0 < (1 + Z) / (1 - Z) := div_pos (by linarith) hZ
  have hposζ : 0 < (1 + ζ) / (1 - ζ) := div_pos (by linarith) hζ
  constructor
  · refine Real.log_le_log hposZ ?_
    gcongr
    linarith
  · have hdiff : Real.log ((1 + ζ) / (1 - ζ)) - Real.log ((1 + Z) / (1 - Z)) ≤ (1 + ζ) / (1 - ζ) / ((1 + Z) / (1 - Z)) - 1 := by
      rw [← Real.log_div hposζ.ne' hposZ.ne']
      exact Real.log_le_sub_one_of_pos (div_pos hposζ hposZ)
    have hratio : (1 + ζ) / (1 - ζ) / ((1 + Z) / (1 - Z)) - 1 ≤ 4 * δ := by
      rw [div_div_div_eq, div_sub_one (by positivity), div_le_iff₀ (by positivity)]
      nlinarith [mul_nonneg h0 hζ.le]
    linarith

/-! ### The logarithm of a significand -/

/-- The argument of the series for a significand, and its square, in fixed point. -/
theorem log2Fixed_arg {W z : Nat} {S ω : ℝ} (hS : S = 2 ^ 256) (hω : ω = W / S) (h1 : 1 ≤ ω) (hz : z = (W - 2 ^ 256) * 2 ^ 256 / (W + 2 ^ 256)) :
    (z : ℝ) / S ≤ (ω - 1) / (ω + 1) ∧ (ω - 1) / (ω + 1) - z / S ≤ 1 / S := by
  have hpos : 0 < S := by rw [hS]; positivity
  have hWS : (W : ℝ) = S * ω := by rw [hω]; field_simp
  have hW : 2 ^ 256 ≤ W := by
    have : S ≤ W := by rw [hWS]; nlinarith
    rw [hS] at this
    exact_mod_cast this
  obtain ⟨hle, hlt⟩ := nat_div_cast_bounds ((W - 2 ^ 256) * 2 ^ 256) (W + 2 ^ 256) (by positivity)
  rw [← hz] at hle hlt
  simp only [Nat.cast_mul, Nat.cast_sub hW, Nat.cast_add, Nat.cast_pow, Nat.cast_ofNat, ← hS, hWS] at hle hlt
  have hexact : (S * ω - S) * S / (S * ω + S) = S * ((ω - 1) / (ω + 1)) := by
    field_simp
  rw [hexact] at hle hlt
  rw [div_le_iff₀ hpos, sub_le_iff_le_add, ← add_div, le_div_iff₀ hpos]
  constructor <;> linarith

theorem log2Fixed_series {W : Nat} {S ω : ℝ} (hS : S = 2 ^ 256) (hω : ω = W / S) (h1 : 1 ≤ ω) (h2 : ω < 2) {z : Nat}
    (hz : z = (W - 2 ^ 256) * 2 ^ 256 / (W + 2 ^ 256)) :
    |2 * (atanhSeries (z * z / 2 ^ 256) 90 0 z : ℝ) / S - Real.log ω| ≤ 1 / 10 ^ 11 := by
  have hP : (10 : ℝ) ^ 30 ≤ S := by rw [hS]; norm_num
  have hpos : 0 < S := lt_of_lt_of_le (by positivity) hP
  obtain ⟨hzle, hznear⟩ := log2Fixed_arg hS hω h1 hz
  obtain ⟨Z, hZ⟩ : ∃ Z, Z = (z : ℝ) / S := ⟨_, rfl⟩
  have hzS : (z : ℝ) = S * Z := by rw [hZ]; field_simp
  have hZ0 : 0 ≤ Z := by rw [hZ]; positivity
  have hζ : (ω - 1) / (ω + 1) ≤ 1 / 2 := by
    rw [div_le_div_iff₀ (by linarith) (by norm_num)]
    linarith
  have hω' : (1 + (ω - 1) / (ω + 1)) / (1 - (ω - 1) / (ω + 1)) = ω := by
    have : ω + 1 ≠ 0 := by linarith
    field_simp
    ring
  rw [← hZ] at hzle hznear
  obtain ⟨hsq, hsq'⟩ := nat_div_cast_bounds (z * z) (2 ^ 256) (by positivity)
  simp only [Nat.cast_mul, Nat.cast_pow, Nat.cast_ofNat, ← hS, hzS] at hsq hsq'
  have hsqS : S * Z * (S * Z) / S = S * Z ^ 2 := by field_simp
  rw [hsqS] at hsq hsq'
  obtain ⟨hhi, hlo⟩ := atanhSeries_bounds hS hZ0 (by linarith) hsq hsq'.le 90 0 z (by simp [hzS]) (by simp [hzS])
  obtain ⟨hlog, hlog'⟩ := log_near_sum hZ0 (hzle.trans hζ)
  obtain ⟨hmove, hmove'⟩ := log_quotient_near hZ0 hzle hznear hζ
  rw [hω'] at hmove hmove'
  obtain ⟨A, hA⟩ : ∃ A : ℝ, A = (atanhSeries (z * z / 2 ^ 256) 90 0 z : ℝ) := ⟨_, rfl⟩
  rw [← hA] at hhi hlo ⊢
  have hhigh : A / S ≤ ∑ j ∈ Finset.range 90, atanhTerm Z (0 + j) := by
    rw [div_le_iff₀ hpos]
    linarith
  have hlow : ∑ j ∈ Finset.range 90, atanhTerm Z (0 + j) - 1 / 10 ^ 12 ≤ A / S := by
    rw [le_div_iff₀ hpos]
    push_cast at hlo
    nlinarith
  have hinv : 4 * (1 / S) ≤ 1 / 10 ^ 12 := by
    rw [mul_one_div, div_le_div_iff₀ hpos (by positivity)]
    linarith
  rw [mul_div_assoc, abs_le]
  constructor <;> linarith

/-- A truncated division by `ln2Fixed` is a division by `ln2`. -/
theorem div_ln2Fixed_near {A L : Nat} {S : ℝ} (hS : S = 2 ^ 256) (hL : L = 2 * A * 2 ^ 256 / ln2Fixed) :
    |(L : ℝ) / S - 2 * A / S / ln2| ≤ 1 / 10 ^ 12 := by
  have hP : (10 : ℝ) ^ 30 ≤ S := by rw [hS]; norm_num
  have hpos : 0 < S := lt_of_lt_of_le (by positivity) hP
  have hln : 0 < ln2 := by linarith [ln2_bounds.1]
  have hfix : (ln2Fixed : ℝ) = S * ln2 := by rw [ln2, hS]; field_simp
  obtain ⟨hle, hlt⟩ := nat_div_cast_bounds (2 * A * 2 ^ 256) ln2Fixed (by rw [ln2Fixed]; norm_num)
  simp only [← hL, Nat.cast_mul, Nat.cast_pow, Nat.cast_ofNat, ← hS, hfix] at hle hlt
  have hexact : 2 * (A : ℝ) * S / (S * ln2) = S * (2 * A / S / ln2) := by field_simp
  rw [hexact] at hle hlt
  have hhigh : (L : ℝ) / S ≤ 2 * A / S / ln2 := by
    rw [div_le_iff₀ hpos]
    linarith
  have hlow : 2 * A / S / ln2 - 1 / 10 ^ 12 ≤ (L : ℝ) / S := by
    rw [le_div_iff₀ hpos]
    nlinarith
  rw [abs_le]
  constructor <;> linarith

/-- A logarithm divided by `ln2` is one to the base 2. -/
theorem log_div_ln2_near {T ω : ℝ} (h1 : 1 ≤ ω) (h2 : ω < 2) (hT : |T - Real.log ω| ≤ 1 / 10 ^ 11) :
    |T / ln2 - Real.logb 2 ω| ≤ 4 / 10 ^ 10 := by
  obtain ⟨hln, hln'⟩ := ln2_bounds
  have hlnpos : 0 < ln2 := by linarith
  have hnear := abs_le.1 ln2_near
  have hlog0 : 0 ≤ Real.log ω := Real.log_nonneg h1
  have hlog1 : Real.log ω ≤ Real.log 2 := Real.log_le_log (by linarith) h2.le
  have hlog2 : 0 < Real.log 2 := Real.log_pos one_lt_two
  have hsum : |T / ln2 - Real.log ω / ln2| ≤ 2 / 10 ^ 11 := by
    rw [← sub_div, abs_div, abs_of_pos hlnpos, div_le_iff₀ hlnpos]
    linarith
  have hbase : |Real.log ω / ln2 - Real.logb 2 ω| ≤ 3 / 10 ^ 10 := by
    have hsplit : Real.log ω / ln2 - Real.log ω / Real.log 2 = Real.log ω / Real.log 2 * ((Real.log 2 - ln2) / ln2) := by
      field_simp
    have hone : Real.log ω / Real.log 2 ≤ 1 := (div_le_one hlog2).2 hlog1
    have hquot : |(Real.log 2 - ln2) / ln2| ≤ 3 / 10 ^ 10 := by
      rw [abs_div, abs_of_pos hlnpos, div_le_iff₀ hlnpos, abs_le]
      constructor <;> linarith
    rw [Real.logb, hsplit, abs_mul, abs_of_nonneg (by positivity)]
    exact (mul_le_of_le_one_left (abs_nonneg _) hone).trans hquot
  exact (abs_sub_le _ (Real.log ω / ln2) _).trans ((add_le_add hsum hbase).trans (by norm_num))

/-- `log2Fixed` is the logarithm to the base 2 of its significand to within 5 · 10^−10. -/
theorem log2Fixed_near {W : Nat} {ω : ℝ} (hω : ω = W / 2 ^ 256) (h1 : 1 ≤ ω) (h2 : ω < 2) :
    |(log2Fixed W : ℝ) / 2 ^ 256 - Real.logb 2 ω| ≤ 5 / 10 ^ 10 := by
  obtain ⟨S, hS⟩ : ∃ S : ℝ, S = 2 ^ 256 := ⟨_, rfl⟩
  obtain ⟨z, hz⟩ : ∃ z, z = (W - 2 ^ 256) * 2 ^ 256 / (W + 2 ^ 256) := ⟨_, rfl⟩
  have hseries := log2Fixed_series hS (hS ▸ hω) h1 h2 hz
  have hL : log2Fixed W = 2 * atanhSeries (z * z / 2 ^ 256) 90 0 z * 2 ^ 256 / ln2Fixed := by rw [log2Fixed, hz]
  rw [← hS]
  exact (abs_sub_le _ _ _).trans ((add_le_add (div_ln2Fixed_near hS hL) (log_div_ln2_near h1 h2 hseries)).trans (by norm_num))

end Sys2Proof.Machine
end

section
/-! SUPPORT. Values past and below the finite ones, and the exponential rounded from its fixed-point value (R108, R109, log 9). -/
set_option Elab.async false
namespace Sys2Proof.Machine
open Sys2Proof.Claims

/-! ### Values past the finite ones, and values too small to see -/

section Far
variable {f : Fmt} (hf : f.Ok)

/-- A significand with an exponent lies between neighbouring powers of two. -/
theorem mul_two_zpow_bounds {m : Nat} (hm : 0 < m) (e : Int) :
    (2 : ℚ) ^ (e + bitLen m - 1) ≤ m * 2 ^ e ∧ (m : ℚ) * 2 ^ e < 2 ^ (e + bitLen m) := by
  obtain ⟨hlo, hhi, h1⟩ := bitLen_bounds hm
  have hc : (0 : ℚ) < 2 ^ e := by positivity
  rw [show e + bitLen m - 1 = (bitLen m - 1 : Nat) + e by omega, add_comm e, zpow_add₀ two_ne_zero, zpow_add₀ two_ne_zero, zpow_natCast,
    zpow_natCast]
  exact ⟨mul_le_mul_of_nonneg_right (by exact_mod_cast hlo) hc.le, mul_lt_mul_of_pos_right (by exact_mod_cast hhi) hc⟩

theorem Fmt.overflowed_false (f : Fmt) (r : RMode) : f.overflowed r false = if r = .rz ∨ r = .rdn then f.infMag - 1 else f.infMag := by
  cases r <;> rfl

theorem Fmt.pack_past (f : Fmt) (r : RMode) (neg : Bool) {eU : Int} (u y : Nat × Bool) (h : (f.bias : Int) < eU + f.m) :
    f.pack r neg eU u y = (f.signed neg (f.overflowed r neg), indOverflow ||| indInexact) := by
  rw [pack, if_pos (by split <;> omega)]

theorem Fmt.round_of_big (f : Fmt) (r : RMode) (neg : Bool) {mant : Nat} {exp : Int} (h : (2 : ℚ) ^ ((f.bias : Int) + 1) ≤ mant * 2 ^ exp) :
    f.round r neg mant exp = (f.signed neg (f.overflowed r neg), indOverflow ||| indInexact) := by
  have hmant : 0 < mant := by
    refine Nat.pos_of_ne_zero fun h0 => ?_
    have : (0 : ℚ) < 2 ^ ((f.bias : Int) + 1) := by positivity
    rw [h0, Nat.cast_zero, zero_mul] at h
    exact this.not_ge h
  have hlt := (zpow_lt_zpow_iff_right₀ (one_lt_two (α := ℚ))).1 (h.trans_lt (mul_two_zpow_bounds hmant exp).2)
  rw [f.round_eq_pack]
  exact f.pack_past r neg _ _ (by omega)

include hf

theorem Fmt.RoundsMag.rounded_of_pos {r : RMode} {x : ℚ} (hx : 0 < x) {g : Nat} {z : Nat × Ind} (h : f.RoundsMag r false x g z)
    (zeroNeg : Bool) : Rounded f r x zeroNeg z := by
  refine Fmt.RoundsMag.rounded hf hx.ne' (g := g) ?_ zeroNeg
  rwa [decide_eq_false hx.le.not_gt, abs_of_pos hx]

theorem Fmt.rounded_of_big (r : RMode) {x : ℚ} (h : (2 : ℚ) ^ ((f.bias : Int) + 1) ≤ x) (zeroNeg : Bool) :
    Rounded f r x zeroNeg (f.signed false (f.overflowed r false), indOverflow ||| indInexact) := by
  have hpast : (f.bias : Int) < (f.bias + 1 - f.m) + f.m := by omega
  have hlo : (2 : ℚ) ^ ((f.bias : Int) + 1 - f.m + f.m) ≤ x := by rwa [sub_add_cancel]
  have := f.roundsMag_pack_past hf (r := r) (neg := false) (u := (0, false)) (y := (0, false)) hlo hpast
  rw [f.pack_past r false _ _ hpast] at this
  exact this.rounded_of_pos hf (lt_of_lt_of_le (by positivity) h) zeroNeg

omit hf in
/-- All magnitudes below half of the least one round alike. -/
theorem Fmt.RoundsMag.congr_small {X Y : ℚ} (hX : 0 < X) (hX' : X < 2 ^ (f.emin - 1)) (hY : 0 < Y) (hY' : Y < 2 ^ (f.emin - 1))
    {r : RMode} {neg : Bool} {g : Nat} {z : Nat × Ind} (h : f.RoundsMag r neg X g z) : f.RoundsMag r neg Y g z := by
  have hhalf : (2 : ℚ) ^ f.emin = 2 * 2 ^ (f.emin - 1) := two_zpow_pred _
  have hone : f.magVal ℚ 1 = 2 ^ f.emin := by
    have := f.magVal_placed ℚ (L := 0) (y := 1) (.inl rfl) Nat.one_le_two_pow
    simpa using this
  obtain rfl : g = 0 := by
    have : f.magVal ℚ g < f.magVal ℚ 1 := by
      rw [hone]
      exact h.le.trans_lt (by linarith)
    exact Nat.lt_one_iff.1 ((f.magVal_strictMono ℚ).lt_iff_lt.1 this)
  have hreach (Z : ℚ) (hZ : Z < 2 ^ (f.emin - 1)) (k : Int) (hk : f.emin ≤ k) : ¬ f.Reaches r neg k Z :=
    f.not_reaches_of_lt r neg (hZ.trans_le (zpow_le_zpow_right₀ one_le_two (by omega)))
  have hup : goesUp r neg (0 % 2 = 1) (f.magVal ℚ 0) ((f.magVal ℚ 0 + f.magVal ℚ (0 + 1)) / 2) Y ↔
      goesUp r neg (0 % 2 = 1) (f.magVal ℚ 0) ((f.magVal ℚ 0 + f.magVal ℚ (0 + 1)) / 2) X := by
    rw [f.magVal_zero ℚ, zero_add, zero_add, hone]
    cases r with
    | rne => exact iff_of_false (by rintro (h | ⟨h, -⟩) <;> linarith) (by rintro (h | ⟨h, -⟩) <;> linarith)
    | rz => exact Iff.rfl
    | rup | rdn => exact and_congr_left fun _ => iff_of_true hY hX
  have hb : f.emin ≤ f.bias + 1 ∧ f.emin ≤ 1 - f.bias := by
    rw [emin]
    omega
  refine ⟨⟨h.lt_infMag, ?_, .inl ?_⟩, fun hg => h.up (hup.1 hg), fun hg => h.down (mt hup.2 hg), ?_, ?_, ?_, h.other⟩
  · rw [f.magVal_zero ℚ]
    exact hY.le
  · rw [zero_add, hone]
    linarith
  · rw [h.inexact, f.magVal_zero ℚ]
    exact iff_of_true hX hY
  · rw [h.overflow]
    exact iff_of_false (hreach X hX' _ hb.1) (hreach Y hY' _ hb.1)
  · rw [h.underflow, f.magVal_zero ℚ]
    exact and_congr (iff_of_true hX hY) (not_congr (iff_of_false (hreach X hX' _ hb.2) (hreach Y hY' _ hb.2)))

/-- An odd significand of more bits than the format has is no value of it. -/
theorem Fmt.round_inexact_of_odd (r : RMode) (neg : Bool) {mant : Nat} (exp : Int) (hodd : mant % 2 = 1) (hbig : 2 ^ (f.m + 1) ≤ mant) :
    (f.round r neg mant exp).2 &&& indInexact ≠ 0 := by
  obtain ⟨g, hg⟩ := f.roundsMag_round hf r neg exp (lt_of_lt_of_le (by positivity) hbig) (X := (mant : ℚ) * 2 ^ exp) (.inl rfl)
  refine hg.inexact.2 (lt_of_le_of_ne hg.le fun heq => ?_)
  obtain ⟨L, y, rfl, hp, hy⟩ := f.exists_placed g
  rw [f.magVal_placed ℚ hp hy.le] at heq
  obtain hle | hlt := le_or_gt (f.emin + L) exp
  · rw [two_zpow_sub_toNat hle, ← mul_assoc] at heq
    have hyeq : (y : ℚ) = mant * 2 ^ (exp - (f.emin + L)).toNat := mul_right_cancel₀ (by positivity) heq
    have : mant * 1 ≤ mant * 2 ^ (exp - (f.emin + L)).toNat := Nat.mul_le_mul_left _ Nat.one_le_two_pow
    have : y = mant * 2 ^ (exp - (f.emin + L)).toNat := by exact_mod_cast hyeq
    omega
  · rw [two_zpow_sub_toNat hlt.le, ← mul_assoc] at heq
    have hmeq : (y : ℚ) * 2 ^ (f.emin + L - exp).toNat = mant := mul_right_cancel₀ (by positivity) heq
    obtain ⟨k, hk⟩ : ∃ k, (f.emin + L - exp).toNat = k + 1 := ⟨(f.emin + L - exp).toNat - 1, by omega⟩
    rw [hk, pow_succ, ← mul_assoc] at hmeq
    have : y * 2 ^ k * 2 = mant := by exact_mod_cast hmeq
    omega

end Far

/-! ### What R108 asks of an exponential -/

/-- What the statement says of the exponential of `x`. -/
def Fmt.ExpResult (f : Fmt) (r : RMode) (x : ℚ) (z : Nat × Ind) : Prop :=
  (∀ k : ℤ, x = k → Rounded f r ((2 : ℚ) ^ k) false z) ∧
  (f.bias + 1 ≤ x → z = (if r = .rz ∨ r = .rdn then f.infMag - 1 else f.infMag, indOverflow ||| indInexact)) ∧
  ((∀ k : ℤ, x ≠ k) → ∃ y : ℚ, |(y : ℝ) - (2 : ℝ) ^ (x : ℝ)| < (2 : ℝ) ^ (x : ℝ) / 2 ^ 30 ∧
    Rounded f r y false z ∧ z.2 &&& indInexact ≠ 0)

section ExpResult
variable {f : Fmt} (hf : f.Ok) (r : RMode) {x : ℚ}

theorem two_rpow_le_of_le {k : Int} {x : ℚ} (h : (k : ℚ) ≤ x) : (2 : ℝ) ^ k ≤ (2 : ℝ) ^ (x : ℝ) := by
  rw [← Real.rpow_intCast]
  exact Real.rpow_le_rpow_of_exponent_le one_le_two (by exact_mod_cast h)

theorem two_rpow_lt_of_lt {k : Int} {x : ℚ} (h : x < (k : ℚ)) : (2 : ℝ) ^ (x : ℝ) < (2 : ℝ) ^ k := by
  rw [← Real.rpow_intCast]
  exact Real.rpow_lt_rpow_of_exponent_lt one_lt_two (by exact_mod_cast h)

include hf

theorem Fmt.expResult_of_big (h : f.bias + 1 ≤ x) {mant : Nat} {exp : Int} (hbig : (2 : ℚ) ^ ((f.bias : Int) + 1) ≤ mant * 2 ^ exp) :
    f.ExpResult r x (f.round r false mant exp) := by
  rw [f.round_of_big r false hbig]
  refine ⟨fun k hk => f.rounded_of_big hf r (zpow_le_zpow_right₀ one_le_two (by rw [hk] at h; exact_mod_cast h)) false,
    fun _ => by rw [f.overflowed_false]; rfl, fun _ => ?_⟩
  have hpos : (0 : ℝ) < 2 ^ (x : ℝ) := by positivity
  obtain ⟨y, hlo, hhi⟩ := exists_rat_btwn (lt_add_of_pos_right ((2 : ℝ) ^ (x : ℝ)) (div_pos hpos (show (0 : ℝ) < 2 ^ 30 by positivity)))
  refine ⟨y, abs_lt.2 ⟨?_, ?_⟩, f.rounded_of_big hf r ?_ false, ind_overflowed.1⟩
  · have := div_pos hpos (show (0 : ℝ) < 2 ^ 30 by positivity)
    linarith
  · linarith
  · have := (two_rpow_le_of_le (k := (f.bias : Int) + 1) (x := x) (by exact_mod_cast h)).trans hlo.le
    exact_mod_cast this

theorem Fmt.expResult_of_small (h : x < f.emin - 1) {mant : Nat} {exp : Int} (hmant : 0 < mant) (hsmall : (mant : ℚ) * 2 ^ exp < 2 ^ (f.emin - 1)) :
    f.ExpResult r x (f.round r false mant exp) := by
  obtain ⟨g, hg⟩ := f.roundsMag_round hf r false exp hmant (X := (mant : ℚ) * 2 ^ exp) (.inl rfl)
  have hround {Y : ℚ} (hY : 0 < Y) (hY' : Y < 2 ^ (f.emin - 1)) : f.RoundsMag r false Y g (f.round r false mant exp) :=
    hg.congr_small (by positivity) hsmall hY hY'
  have hrounded {Y : ℚ} (hY : 0 < Y) (hY' : Y < 2 ^ (f.emin - 1)) : Rounded f r Y false (f.round r false mant exp) :=
    (hround hY hY').rounded_of_pos hf hY false
  have hx0 : x < 0 := by
    have : f.emin ≤ 1 := by
      rw [emin]
      omega
    have : (f.emin : ℚ) ≤ 1 := by exact_mod_cast this
    linarith
  refine ⟨fun k hk => hrounded (by positivity) ?_, fun hb => ?_, fun _ => ?_⟩
  · refine zpow_lt_zpow_right₀ one_lt_two ?_
    rw [hk] at h
    exact_mod_cast h
  · have : (0 : ℚ) ≤ f.bias := f.bias.cast_nonneg
    linarith
  · have hpos : (0 : ℝ) < 2 ^ (x : ℝ) := by positivity
    have hgap := div_pos hpos (show (0 : ℝ) < 2 ^ 30 by positivity)
    have hgap' : (2 : ℝ) ^ (x : ℝ) / 2 ^ 30 < 2 ^ (x : ℝ) := div_lt_self hpos (by norm_num)
    obtain ⟨y, hlo, hhi⟩ := exists_rat_btwn (sub_lt_self ((2 : ℝ) ^ (x : ℝ)) hgap)
    have hy : 0 < y := by
      have : (0 : ℝ) < y := by linarith
      exact_mod_cast this
    have hy' : y < 2 ^ (f.emin - 1) := by
      have := hhi.trans (two_rpow_lt_of_lt (k := f.emin - 1) (x := x) (by exact_mod_cast h))
      rw [← Rat.cast_lt (K := ℝ)]
      push_cast
      exact this
    refine ⟨y, abs_lt.2 ⟨by linarith, by linarith⟩, hrounded hy hy', (hround hy hy').inexact.2 ?_⟩
    refine lt_of_le_of_ne (hround hy hy').le fun heq => ?_
    have := (hround (half_pos hy) (by linarith)).le
    linarith

theorem Fmt.expResult_of_int {k : Int} (hk : x = k) (h : x < f.bias + 1) : f.ExpResult r x (f.round r false 1 k) := by
  refine ⟨fun j hj => ?_, fun hb => absurd h hb.not_gt, fun hne => absurd hk (hne k)⟩
  obtain rfl : k = j := by
    rw [hk] at hj
    exact_mod_cast hj
  have := f.rounded_round_exact hf r false k one_pos false
  rwa [Nat.cast_one, one_mul, sgn, if_neg Bool.false_ne_true, one_mul] at this

theorem Fmt.expResult_of_near (hx : ∀ k : ℤ, x ≠ k) (h : x < f.bias + 1) {mant : Nat} {exp : Int} (hodd : mant % 2 = 1)
    (hbig : 2 ^ (f.m + 1) ≤ mant) (hnear : |(mant : ℝ) * 2 ^ exp - (2 : ℝ) ^ (x : ℝ)| < (2 : ℝ) ^ (x : ℝ) / 2 ^ 30) :
    f.ExpResult r x (f.round r false mant exp) := by
  refine ⟨fun j hj => absurd hj (hx j), fun hb => absurd h hb.not_gt, fun _ => ⟨mant * 2 ^ exp, ?_, ?_, ?_⟩⟩
  · push_cast
    exact hnear
  · have := f.rounded_round_exact hf r false exp (lt_of_lt_of_le (by positivity) hbig) false
    rwa [sgn, if_neg Bool.false_ne_true, one_mul] at this
  · exact f.round_inexact_of_odd hf r false exp hodd hbig

end ExpResult

end Sys2Proof.Machine
end

section
/-! SUPPORT. The exponential and the logarithm of a finite operand (R108, R109, log 9). -/
set_option Elab.async false
namespace Sys2Proof.Machine
open Sys2Proof.Claims

/-! ### The exponential by the size of its operand -/

theorem exp2Bits_far {m : Nat} {e : Int} (n : Bool) (h : 11 < e + bitLen m) : exp2Bits n m e = (2049, if n then -4097 else 4095) := by
  rw [exp2Bits, if_pos h]
  cases n <;> rfl

theorem exp2Bits_near {m : Nat} {e : Int} (n : Bool) (h : e + bitLen m < -60) : exp2Bits n m e = (if n then 2 ^ 63 - 1 else 2 ^ 63 + 1, -63) := by
  rw [exp2Bits, if_neg (by omega), if_pos h]
  cases n <;> rfl

theorem exp2Bits_mid {m : Nat} {e : Int} (n : Bool) (h : ¬ 11 < e + bitLen m) (h' : ¬ e + bitLen m < -60) :
    exp2Bits n m e = if (atExp n m e (-256) % 2 ^ 256).toNat = 0 then (1, atExp n m e (-256) / 2 ^ 256)
      else (2 * exp2Fixed (atExp n m e (-256) % 2 ^ 256).toNat + 1, atExp n m e (-256) / 2 ^ 256 - 256 - 1) := by
  rw [exp2Bits, if_neg h, if_neg h']
  rfl

theorem isLaneFormat_limits {f : Fmt} (h : isLaneFormat f) : f.m + 1 ≤ 24 ∧ f.bias ≤ 127 ∧ -149 ≤ f.emin := by
  rcases h with rfl | rfl | rfl <;> decide

section Exp
variable {f : Fmt} (hlane : isLaneFormat f) (r : RMode) (n : Bool) {m : Nat} (hm : 0 < m) {e : Int}
include hlane hm

theorem Fmt.expResult_far (h : 11 < e + bitLen m) : f.ExpResult r (sgn ℚ n * (m * 2 ^ e)) (f.round r false (exp2Bits n m e).1 (exp2Bits n m e).2) := by
  have hf := isLaneFormat_ok hlane
  obtain ⟨-, hbias, hemin⟩ := isLaneFormat_limits hlane
  have hlarge : (2 : ℚ) ^ (11 : Int) ≤ m * 2 ^ e :=
    (zpow_le_zpow_right₀ one_le_two (by omega)).trans (mul_two_zpow_bounds hm e).1
  norm_num at hlarge
  rw [exp2Bits_far n h]
  cases n with
  | false =>
    have hb : (f.bias : ℚ) ≤ 127 := by exact_mod_cast hbias
    rw [sgn, if_neg Bool.false_ne_true, one_mul]
    refine f.expResult_of_big hf r (by linarith) ?_
    calc (2 : ℚ) ^ ((f.bias : Int) + 1) ≤ 2 ^ (4095 : Int) := zpow_le_zpow_right₀ one_le_two (by omega)
      _ ≤ (2049 : Nat) * 2 ^ (4095 : Int) := le_mul_of_one_le_left (by positivity) (by norm_num)
  | true =>
    have he : (-149 : ℚ) ≤ f.emin := by exact_mod_cast hemin
    rw [sgn, if_pos rfl, neg_one_mul]
    refine f.expResult_of_small hf r (by linarith) (by decide) ?_
    calc ((2049 : Nat) : ℚ) * 2 ^ (-4097 : Int) < 2 ^ (12 : Int) * 2 ^ (-4097 : Int) :=
          mul_lt_mul_of_pos_right (by norm_num) (by positivity)
      _ = 2 ^ (-4085 : Int) := by rw [← zpow_add₀ two_ne_zero]; rfl
      _ ≤ 2 ^ (f.emin - 1) := zpow_le_zpow_right₀ one_le_two (by omega)

omit hlane hm in
theorem two_rpow_near_one {x : ℝ} (h : |x| ≤ 1 / 2 ^ 60) : |(2 : ℝ) ^ x - 1| ≤ 1 / 2 ^ 59 := by
  have hlog : |Real.log 2| ≤ 1 := by
    rw [abs_of_pos (Real.log_pos one_lt_two)]
    linarith [Real.log_two_lt_d9]
  have harg : |x * Real.log 2| ≤ 1 / 2 ^ 60 := by
    rw [abs_mul]
    exact (mul_le_of_le_one_right (abs_nonneg _) hlog).trans h
  rw [two_rpow_eq_exp]
  refine (Real.abs_exp_sub_one_le (harg.trans (by norm_num))).trans ?_
  linarith

theorem Fmt.expResult_near (h : e + bitLen m < -60) :
    f.ExpResult r (sgn ℚ n * (m * 2 ^ e)) (f.round r false (exp2Bits n m e).1 (exp2Bits n m e).2) := by
  have hf := isLaneFormat_ok hlane
  obtain ⟨hm24, -, -⟩ := isLaneFormat_limits hlane
  obtain ⟨x, hx⟩ : ∃ x, x = sgn ℚ n * (m * 2 ^ e) := ⟨_, rfl⟩
  have hmag : (0 : ℚ) < m * 2 ^ e := by positivity
  have habs : |x| ≤ 1 / 2 ^ 60 := by
    rw [hx, abs_sgn_mul, abs_of_pos hmag]
    refine (mul_two_zpow_bounds hm e).2.le.trans ((zpow_le_zpow_right₀ one_le_two (show e + bitLen m ≤ -60 by omega)).trans ?_)
    norm_num
  have hne : x ≠ 0 := hx ▸ (sgn_mul_pos hmag).1
  have hint (k : ℤ) : x ≠ k := by
    rintro rfl
    have : |(k : ℚ)| < 1 := habs.trans_lt (by norm_num)
    rw [← Int.cast_abs, ← Int.cast_one, Int.cast_lt, Int.abs_lt_one_iff] at this
    exact hne (by rw [this, Int.cast_zero])
  have hbig : 2 ^ (f.m + 1) ≤ 2 ^ 63 - 1 := (Nat.pow_le_pow_right (by decide) hm24).trans (by decide)
  have hpow := two_rpow_near_one (x := x) (by rw [← Rat.cast_abs]; exact (Rat.cast_le.2 habs).trans (by norm_num))
  have hsmall : x < f.bias + 1 := by
    have : (0 : ℚ) ≤ f.bias := f.bias.cast_nonneg
    have := (le_abs_self x).trans habs
    norm_num at this
    linarith
  obtain ⟨P, hP⟩ : ∃ P : ℝ, P = (2 : ℝ) ^ (x : ℝ) := ⟨_, rfl⟩
  rw [← hP] at hpow
  have hPlow : 1 - 1 / 2 ^ 59 ≤ P := by linarith [(abs_le.1 hpow).1]
  have hnear {y : ℝ} (hy : |y - 1| = 1 / 2 ^ 63) : |y - P| < P / 2 ^ 30 := by
    refine (abs_sub_le y 1 P).trans_lt ?_
    rw [hy, abs_sub_comm]
    norm_num at hpow hPlow ⊢
    linarith
  rw [exp2Bits_near n h, ← hx]
  cases n with
  | false =>
    refine f.expResult_of_near hf r hint hsmall (by decide) (hbig.trans (by decide)) (hP ▸ hnear ?_)
    norm_num
  | true =>
    refine f.expResult_of_near hf r hint hsmall (by decide) hbig (hP ▸ hnear ?_)
    norm_num [abs_of_neg]

omit hlane hm in
/-- A power near its exact value stays near when scaled, and when half of its last place is added. -/
theorem scaled_near {E S p q : ℝ} (hS : 10 ^ 30 ≤ S) (hq : 0 < q) (hp : 1 ≤ p) (h : |E / S - p| ≤ p * (5 / 10 ^ 10)) :
    |(2 * E + 1) * (q / (2 * S)) - q * p| < q * p / 2 ^ 30 := by
  have hSpos : 0 < S := lt_of_lt_of_le (by positivity) hS
  have hvalue : (2 * E + 1) * (q / (2 * S)) - q * p = q * (E / S - p + 1 / (2 * S)) := by
    field_simp
    ring
  have hhalf : 1 / (2 * S) ≤ 1 / 10 ^ 12 := by
    rw [div_le_div_iff₀ (by positivity) (by positivity)]
    linarith
  rw [hvalue, abs_mul, abs_of_pos hq, mul_div_assoc]
  refine mul_lt_mul_of_pos_left ((abs_add_le _ _).trans_lt ?_) hq
  rw [abs_of_pos (by positivity : 0 < 1 / (2 * S))]
  norm_num at hhalf h ⊢
  linarith

omit hlane hm in
/-- The power of two of an integer and a fraction in fixed point. -/
theorem exp2Fixed_scaled {fr : Nat} (hfr : fr < 2 ^ 256) (k : Int) {x : ℝ} (hx : x = k + fr / 2 ^ 256) :
    |((2 * exp2Fixed fr + 1 : Nat) : ℝ) * 2 ^ (k - 256 - 1) - (2 : ℝ) ^ x| < (2 : ℝ) ^ x / 2 ^ 30 := by
  obtain ⟨φ, hφ⟩ : ∃ φ : ℝ, φ = fr / 2 ^ 256 := ⟨_, rfl⟩
  have hp : 1 ≤ (2 : ℝ) ^ φ := Real.one_le_rpow one_le_two (by rw [hφ]; positivity)
  have hq : (0 : ℝ) < 2 ^ k := by positivity
  have hpow : (2 : ℝ) ^ x = 2 ^ k * 2 ^ φ := by rw [hx, ← hφ, Real.rpow_add two_pos, Real.rpow_intCast]
  have hscale : (2 : ℝ) ^ (k - 256 - 1) = 2 ^ k / (2 * 2 ^ 256) := by
    rw [zpow_sub₀ two_ne_zero, zpow_sub₀ two_ne_zero, zpow_one, div_div, mul_comm]
    rfl
  rw [hpow, hscale, Nat.cast_add, Nat.cast_mul, Nat.cast_ofNat, Nat.cast_one]
  exact scaled_near (by norm_num) hq hp (exp2Fixed_near hφ hfr)

omit hlane hm in
/-- A value in fixed point is its integer part and its fraction. -/
theorem fixed_split {x : ℚ} {X k : Int} {fr : Nat} (hX : X * 2 ^ (-256 : Int) = x) (hsplit : X = k * 2 ^ 256 + fr) : x = k + fr / 2 ^ 256 := by
  obtain ⟨S, hS⟩ : ∃ S : Nat, S = 2 ^ 256 := ⟨_, rfl⟩
  have hS0 : (S : ℚ) ≠ 0 := by
    rw [hS]
    positivity
  have hSq : (2 : ℚ) ^ 256 = S := by rw [hS, Nat.cast_pow, Nat.cast_ofNat]
  have hSz : (2 : ℤ) ^ 256 = S := by rw [hS, Nat.cast_pow, Nat.cast_ofNat]
  have hinv : (2 : ℚ) ^ (-256 : Int) = (S : ℚ)⁻¹ := by
    rw [zpow_neg, ← hSq]
    rfl
  rw [← hX, hsplit, hinv, hSq, hSz]
  push_cast
  field_simp

omit hm in
theorem Fmt.expResult_mid (he : -256 ≤ e) (h : ¬ 11 < e + bitLen m) (h' : ¬ e + bitLen m < -60) :
    f.ExpResult r (sgn ℚ n * (m * 2 ^ e)) (f.round r false (exp2Bits n m e).1 (exp2Bits n m e).2) := by
  have hf := isLaneFormat_ok hlane
  obtain ⟨hm24, -, -⟩ := isLaneFormat_limits hlane
  obtain ⟨X, hX⟩ : ∃ X, X = atExp n m e (-256) := ⟨_, rfl⟩
  obtain ⟨k, hk⟩ : ∃ k, k = X / 2 ^ 256 := ⟨_, rfl⟩
  obtain ⟨fr, hfr⟩ : ∃ fr, fr = (X % 2 ^ 256).toNat := ⟨_, rfl⟩
  have hXval := atExp_eq n m he
  rw [← hX] at hXval
  obtain ⟨x, hx⟩ : ∃ x, x = sgn ℚ n * (m * 2 ^ e) := ⟨_, rfl⟩
  have hsplit : X = k * 2 ^ 256 + fr ∧ fr < 2 ^ 256 := by omega
  have hxk : x = k + fr / 2 ^ 256 := hx ▸ fixed_split hXval hsplit.1
  rw [exp2Bits_mid n h h', ← hX, ← hk, ← hfr, ← hx]
  have hfrac : (fr : ℚ) / 2 ^ 256 < 1 := by
    rw [div_lt_one (by positivity)]
    exact_mod_cast hsplit.2
  have hfrac0 : (0 : ℚ) ≤ fr / 2 ^ 256 := by positivity
  have hfloor (hb : f.bias + 1 ≤ x) : (f.bias : Int) + 1 ≤ k := by
    have : ((f.bias : Int) + 1 : ℚ) < k + 1 := by
      push_cast
      linarith
    have : (f.bias : Int) + 1 < k + 1 := by exact_mod_cast this
    omega
  split
  next h0 =>
    rw [h0, Nat.cast_zero, zero_div, add_zero] at hxk
    obtain hb | hb := le_or_gt (f.bias + 1 : ℚ) x
    · refine f.expResult_of_big hf r hb ?_
      rw [Nat.cast_one, one_mul]
      exact zpow_le_zpow_right₀ one_le_two (hfloor hb)
    · exact f.expResult_of_int hf r hxk hb
  next h0 =>
    have hE := le_exp2Fixed fr
    obtain hb | hb := le_or_gt (f.bias + 1 : ℚ) x
    · refine f.expResult_of_big hf r hb ?_
      have hEq : (2 : ℚ) ^ (257 : Int) ≤ (2 * exp2Fixed fr + 1 : Nat) := by
        have : 2 ^ 257 ≤ 2 * exp2Fixed fr + 1 := by omega
        exact_mod_cast this
      calc (2 : ℚ) ^ ((f.bias : Int) + 1) ≤ 2 ^ (257 + (k - 256 - 1)) := zpow_le_zpow_right₀ one_le_two (by have := hfloor hb; omega)
        _ = 2 ^ (257 : Int) * 2 ^ (k - 256 - 1) := zpow_add₀ two_ne_zero ..
        _ ≤ (2 * exp2Fixed fr + 1 : Nat) * 2 ^ (k - 256 - 1) := mul_le_mul_of_nonneg_right hEq (by positivity)
    · refine f.expResult_of_near hf r (fun j hj => ?_) hb (by omega) ?_ (exp2Fixed_scaled hsplit.2 k (by rw [hxk]; push_cast; rfl))
      · have hpos : (0 : ℚ) < fr / 2 ^ 256 := by
          have : 0 < fr := Nat.pos_of_ne_zero h0
          positivity
        have h1 : (k : ℚ) < j := by linarith
        have h2 : (j : ℚ) < k + 1 := by linarith
        have h1' : k < j := by exact_mod_cast h1
        have h2' : j < k + 1 := by exact_mod_cast h2
        omega
      · have : 2 ^ (f.m + 1) ≤ 2 ^ 256 := Nat.pow_le_pow_right (by decide) (by omega)
        omega

/-- The exponential of a finite nonzero value. -/
theorem Fmt.expResult (he : f.emin ≤ e) :
    f.ExpResult r (sgn ℚ n * (m * 2 ^ e)) (f.round r false (exp2Bits n m e).1 (exp2Bits n m e).2) := by
  obtain ⟨-, -, hemin⟩ := isLaneFormat_limits hlane
  by_cases h : 11 < e + bitLen m
  · exact f.expResult_far hlane r n hm h
  · by_cases h' : e + bitLen m < -60
    · exact f.expResult_near hlane r n hm h'
    · exact f.expResult_mid hlane r n (by omega) h h'

end Exp

end Sys2Proof.Machine
end

section
/-! SUPPORT. The logarithm of a finite operand, and the whole of R107 to R110 for floating-point results (R108, R109, log 9). -/
set_option Elab.async false
namespace Sys2Proof.Machine
open Sys2Proof.Claims

/-! ### The logarithm of a significand, and its place between 0 and 1 -/

/-- A significand of at most 24 bits that is no power of two, as a number between 1 and 2 in fixed point. -/
theorem significand_bounds {m : Nat} (hm : 0 < m) (hne : m ≠ 2 ^ (bitLen m - 1)) (hb : bitLen m ≤ 24) {ω : ℝ}
    (hω : ω = (m * 2 ^ (257 - bitLen m) : Nat) / 2 ^ 256) : ω = m / 2 ^ (bitLen m - 1) ∧ 1 + 1 / 2 ^ 23 ≤ ω ∧ ω ≤ 2 - 1 / 2 ^ 23 := by
  obtain ⟨hlo, hhi, h1⟩ := bitLen_bounds hm
  obtain ⟨c, hc⟩ : ∃ c, bitLen m = c + 1 := ⟨bitLen m - 1, by omega⟩
  rw [hc] at hlo hhi hne hω ⊢
  rw [Nat.add_sub_cancel] at hlo hne ⊢
  have hpos : (0 : ℝ) < 2 ^ c := by positivity
  have hval : ω = m / 2 ^ c := by
    have hsplit : (2 : ℝ) ^ 256 = 2 ^ (256 - c) * 2 ^ c := by rw [← pow_add]; congr 1; omega
    rw [hω, show 257 - (c + 1) = 256 - c by omega, hsplit, Nat.cast_mul, Nat.cast_pow, Nat.cast_ofNat]
    field_simp
  have hgap : (1 : ℝ) / 2 ^ 23 ≤ 1 / 2 ^ c := one_div_le_one_div_of_le hpos (pow_le_pow_right₀ one_le_two (by omega))
  have hlow : (2 : ℝ) ^ c + 1 ≤ m := by exact_mod_cast lt_of_le_of_ne hlo (Ne.symm hne)
  have hhigh : (m : ℝ) + 1 ≤ 2 * 2 ^ c := by
    rw [pow_succ, Nat.mul_comm] at hhi
    exact_mod_cast hhi
  refine ⟨hval, ?_, ?_⟩
  · calc (1 : ℝ) + 1 / 2 ^ 23 ≤ 1 + 1 / 2 ^ c := by linarith
      _ = (2 ^ c + 1) / 2 ^ c := by field_simp
      _ ≤ ω := by rw [hval]; gcongr
  · calc ω ≤ (2 * 2 ^ c - 1) / 2 ^ c := by rw [hval]; gcongr; linarith
      _ = 2 - 1 / 2 ^ c := by field_simp
      _ ≤ 2 - 1 / 2 ^ 23 := by linarith

theorem one_sub_inv_le_logb {t : ℝ} (ht : 1 ≤ t) : 1 - t⁻¹ ≤ Real.logb 2 t := by
  have hlog2 : 0 < Real.log 2 := Real.log_pos one_lt_two
  have hle : Real.log 2 ≤ 1 := by linarith [Real.log_two_lt_d9]
  refine (Real.one_sub_inv_le_log_of_pos (by linarith)).trans ?_
  rw [Real.logb, le_div_iff₀ hlog2]
  exact mul_le_of_le_one_right (Real.log_nonneg ht) hle

theorem logb_significand_bounds {ω : ℝ} (hlo : 1 + 1 / 2 ^ 23 ≤ ω) (hhi : ω ≤ 2 - 1 / 2 ^ 23) :
    1 / 2 ^ 24 ≤ Real.logb 2 ω ∧ Real.logb 2 ω ≤ 1 - 1 / 2 ^ 24 := by
  have hω : 0 < ω := by linarith [show (0 : ℝ) ≤ 1 / 2 ^ 23 by positivity]
  norm_num at hlo hhi
  have h1 := one_sub_inv_le_logb (t := ω) (by linarith)
  have h2 := one_sub_inv_le_logb (t := 2 / ω) (by rw [le_div_iff₀ hω]; linarith)
  rw [Real.logb_div two_ne_zero hω.ne', Real.logb_self_eq_one one_lt_two, inv_div] at h2
  have hinv : ω⁻¹ ≤ 1 - 1 / 2 ^ 24 := by
    rw [inv_le_comm₀ hω (by norm_num)]
    refine le_trans ?_ hlo
    norm_num
  constructor
  · linarith
  · norm_num at h2 ⊢
    linarith

/-- The fixed-point logarithm of such a significand lies well inside 0 to 1. -/
theorem log2Fixed_bounds {W : Nat} {ω : ℝ} (hω : ω = W / 2 ^ 256) (hlo : 1 + 1 / 2 ^ 23 ≤ ω) (hhi : ω ≤ 2 - 1 / 2 ^ 23) :
    2 ^ 231 ≤ log2Fixed W ∧ log2Fixed W + 2 ^ 231 ≤ 2 ^ 256 := by
  have hgap : (0 : ℝ) < 1 / 2 ^ 23 := by positivity
  have hnear := abs_le.1 (log2Fixed_near hω (by linarith) (by linarith))
  obtain ⟨hb1, hb2⟩ := logb_significand_bounds hlo hhi
  generalize log2Fixed W = L at *
  obtain ⟨T, hT⟩ : ∃ T : Nat, T = 2 ^ 231 := ⟨_, rfl⟩
  have hsplit : (2 : Nat) ^ 256 = 2 ^ 25 * T := by rw [hT, ← pow_add]
  have hsplitR : (2 : ℝ) ^ 256 = 2 ^ 25 * T := by rw [hT, Nat.cast_pow, Nat.cast_ofNat, ← pow_add]
  have hTpos : (0 : ℝ) < T := by
    rw [hT]
    positivity
  have hlow : (1 : ℝ) / 2 ^ 25 ≤ L / (2 ^ 25 * T) := by
    rw [← hsplitR]
    norm_num at hnear hb1 ⊢
    linarith
  have hhigh : L / (2 ^ 25 * T) ≤ 1 - (1 : ℝ) / 2 ^ 25 := by
    rw [← hsplitR]
    norm_num at hnear hb2 ⊢
    linarith
  rw [le_div_iff₀ (by positivity)] at hlow
  rw [div_le_iff₀ (by positivity)] at hhigh
  rw [← hT, hsplit]
  constructor
  · have : (T : ℝ) ≤ L := by linarith
    exact_mod_cast this
  · have : (L : ℝ) + T ≤ 2 ^ 25 * T := by linarith
    exact_mod_cast this

/-! ### What R108 asks of a logarithm -/

/-- What the statement says of the logarithm of `x`. -/
def Fmt.LogResult (f : Fmt) (r : RMode) (x : ℚ) (z : Nat × Ind) : Prop :=
  (∀ k : ℤ, x = (2 : ℚ) ^ k → Rounded f r k false z) ∧
  (0 < x → (∀ k : ℤ, x ≠ (2 : ℚ) ^ k) → ∃ y : ℚ, |(y : ℝ) - Real.logb 2 (x : ℝ)| < max 1 |Real.logb 2 (x : ℝ)| / 2 ^ 30 ∧
    Rounded f r y false z ∧ z.2 &&& indInexact ≠ 0)

/-- The significand and exponent of a logarithm in fixed point, half of the last place added. -/
theorem log2_jam (v : Int) : (if 0 ≤ v then jam false v.toNat (-256) else jam false (v.natAbs - 1) (-256)) = ((2 * v + 1).natAbs, -257) := by
  have hjam (a : Nat) : jam false a (-256) = (2 * a + 1, -257) := rfl
  split
  next h => rw [hjam, Prod.mk.injEq]; omega
  next h => rw [hjam, Prod.mk.injEq]; omega

theorem Fmt.round_fixed_eq_roundInt (f : Fmt) (r : RMode) (v : Int) :
    f.round r (v < 0) (2 * v + 1).natAbs (-257) = f.roundInt r (2 * v + 1) (-257) false := by
  rw [roundInt, if_neg (by omega)]
  congr 1
  exact decide_eq_decide.2 (by omega)

/-- The value of a logarithm in fixed point, near the exact one. -/
theorem log_value_near {v N : Int} {L : Nat} (hv : v = N * 2 ^ 256 + L) {l lx : ℝ} (hl : |(L : ℝ) / 2 ^ 256 - l| ≤ 5 / 10 ^ 10) (hlx : lx = N + l) :
    |(((2 * v + 1 : Int) * 2 ^ (-257 : Int) : ℚ) : ℝ) - lx| < max 1 |lx| / 2 ^ 30 := by
  obtain ⟨S, hS⟩ : ∃ S : Nat, S = 2 ^ 256 := ⟨_, rfl⟩
  have hSr : (2 : ℝ) ^ 256 = S := by rw [hS, Nat.cast_pow, Nat.cast_ofNat]
  have hSz : (2 : ℤ) ^ 256 = S := by rw [hS, Nat.cast_pow, Nat.cast_ofNat]
  have hSbig : (10 : ℝ) ^ 30 ≤ S := by
    rw [← hSr]
    norm_num
  have hSpos : (0 : ℝ) < S := lt_of_lt_of_le (by positivity) hSbig
  have hinv : (2 : ℝ) ^ (-257 : Int) = 1 / (2 * S) := by
    rw [← hSr, ← pow_succ', zpow_neg, one_div]
    rfl
  have hvalue : (((2 * v + 1 : Int) * 2 ^ (-257 : Int) : ℚ) : ℝ) = N + (L / S + 1 / (2 * S)) := by
    rw [Rat.cast_mul, Rat.cast_zpow, Rat.cast_ofNat, hinv, hv, hSz]
    push_cast
    field_simp
    ring
  have hhalf : 1 / (2 * (S : ℝ)) ≤ 1 / 10 ^ 12 := by
    rw [div_le_div_iff₀ (by positivity) (by positivity)]
    linarith
  rw [hSr] at hl
  have habs : |N + ((L : ℝ) / S + 1 / (2 * S)) - (N + l)| ≤ |(L : ℝ) / S - l| + 1 / (2 * S) := by
    rw [show N + ((L : ℝ) / S + 1 / (2 * S)) - (N + l) = L / S - l + 1 / (2 * S) by ring]
    exact (abs_add_le _ _).trans_eq (by rw [abs_of_pos (by positivity : 0 < 1 / (2 * (S : ℝ)))])
  have hmax : (1 : ℝ) ≤ max 1 |lx| := le_max_left ..
  rw [hvalue]
  rw [← hlx] at habs
  generalize 1 / (2 * (S : ℝ)) = u at *
  generalize |N + ((L : ℝ) / S + u) - lx| = t at *
  norm_num at hl hhalf ⊢
  linarith

section Log
variable {f : Fmt} (hlane : isLaneFormat f) (r : RMode) {m : Nat} (hm : 0 < m) (hmbits : m < 2 ^ (f.m + 1)) (e : Int)
include hlane hm hmbits

omit hmbits in
theorem Fmt.logResult_of_power (h : m = 2 ^ (bitLen m - 1)) : f.LogResult r (m * 2 ^ e) (f.roundInt r (e + bitLen m - 1) 0 false) := by
  have hf := isLaneFormat_ok hlane
  have h1 := (bitLen_bounds hm).2.2
  have hx : (m : ℚ) * 2 ^ e = 2 ^ (e + bitLen m - 1) := by
    conv_lhs => rw [h]
    rw [Nat.cast_pow, Nat.cast_ofNat, ← zpow_natCast, ← zpow_add₀ two_ne_zero]
    congr 1
    omega
  refine ⟨fun k hk => ?_, fun _ hne => absurd hx (hne _)⟩
  have hN : e + bitLen m - 1 = k := zpow_right_injective₀ two_pos (by norm_num) (hx.symm.trans hk)
  have := f.rounded_roundInt hf r k 0 false
  rw [zpow_zero, mul_one] at this
  rwa [hN]

theorem Fmt.logResult_of_not_power (h : m ≠ 2 ^ (bitLen m - 1)) {v : Int}
    (hv : v = (e + bitLen m - 1) * 2 ^ 256 + log2Fixed (m * 2 ^ (257 - bitLen m))) :
    f.LogResult r (m * 2 ^ e) (f.round r (v < 0) (2 * v + 1).natAbs (-257)) := by
  have hf := isLaneFormat_ok hlane
  obtain ⟨hm24, -, -⟩ := isLaneFormat_limits hlane
  have hb : bitLen m ≤ 24 := (bitLen_le_iff.2 hmbits).trans hm24
  obtain ⟨hblo, hbhi, h1⟩ := bitLen_bounds hm
  obtain ⟨ω, hω⟩ : ∃ ω : ℝ, ω = (m * 2 ^ (257 - bitLen m) : Nat) / 2 ^ 256 := ⟨_, rfl⟩
  obtain ⟨hωm, hωlo, hωhi⟩ := significand_bounds hm h hb hω
  have hgap : (0 : ℝ) < 1 / 2 ^ 23 := by positivity
  have hnear := log2Fixed_near hω (by linarith) (by linarith)
  obtain ⟨hLlo, hLhi⟩ := log2Fixed_bounds hω hωlo hωhi
  generalize log2Fixed (m * 2 ^ (257 - bitLen m)) = L at *
  refine ⟨fun k hk => ?_, fun hx _ => ⟨(2 * v + 1 : Int) * 2 ^ (-257 : Int), ?_, ?_, ?_⟩⟩
  · obtain ⟨hlo, hhi⟩ := mul_two_zpow_bounds hm e
    rw [hk] at hlo hhi
    have h2 := (zpow_lt_zpow_iff_right₀ (one_lt_two (α := ℚ))).1 hhi
    have h3 := (zpow_le_zpow_iff_right₀ (one_lt_two (α := ℚ))).1 hlo
    obtain rfl : k = (bitLen m - 1 : Nat) + e := by omega
    rw [zpow_add₀ two_ne_zero, zpow_natCast] at hk
    have := mul_right_cancel₀ (by positivity) hk
    exact absurd (by exact_mod_cast this) h
  · refine log_value_near hv hnear ?_
    have hωpos : 0 < ω := by linarith
    have hxω : ((m * 2 ^ e : ℚ) : ℝ) = 2 ^ ((e + bitLen m - 1 : Int) : ℝ) * ω := by
      rw [hωm, Real.rpow_intCast, show e + bitLen m - 1 = (bitLen m - 1 : Nat) + e by omega, zpow_add₀ two_ne_zero, zpow_natCast]
      push_cast
      field_simp
    rw [hxω, Real.logb_mul (by positivity) hωpos.ne', Real.logb_rpow two_pos (by norm_num)]
  · rw [f.round_fixed_eq_roundInt]
    exact f.rounded_roundInt hf r _ _ _
  · refine f.round_inexact_of_odd hf r _ _ (by omega) ?_
    have h24 : 2 ^ (f.m + 1) ≤ 2 ^ 24 := Nat.pow_le_pow_right (by decide) hm24
    refine h24.trans ?_
    clear hnear hω hωm
    obtain h0 | h0 := le_or_gt 0 (e + bitLen m - 1) <;> omega

end Log

/-- The parts of a finite nonzero operand. -/
theorem Fmt.fin_of_finite {f : Fmt} (hf : f.Ok) {a : Nat} (h : finite (f.num a)) (hne : realOf (f.num a) ≠ 0) :
    ∃ n m e, f.num a = .fin n m e ∧ 0 < m ∧ m < 2 ^ (f.m + 1) ∧ f.emin ≤ e := by
  obtain ⟨L, y, -, -, hy, hnum⟩ := f.num_of_mag_lt ((f.finite_num_iff hf a).1 h)
  rw [hnum] at hne
  split at hne
  next => exact absurd rfl hne
  next h0 => exact ⟨_, y, _, hnum.trans (if_neg h0), Nat.pos_of_ne_zero h0, hy, by omega⟩

theorem Fmt.log2_of_fin {f : Fmt} {r : RMode} {a m : Nat} {e v : Int} (hnum : f.num a = .fin false m e)
    (hv : v = (e + bitLen m - 1) * 2 ^ 256 + log2Fixed (m * 2 ^ (257 - bitLen m))) :
    f.log2 r a = if m = 2 ^ (bitLen m - 1) then f.roundInt r (e + bitLen m - 1) 0 false
      else f.round r (v < 0) (2 * v + 1).natAbs (-257) := by
  have hnan : f.isNaN a = false := (f.isNaN_eq_false_iff a).2 fun b hb => by rw [hnum] at hb; cases hb
  rw [f.log2_of_not_nan r hnan, hnum]
  simp only [← hv, log2_jam]

end Sys2Proof.Machine

namespace Sys2Proof.Claims
open Sys2Proof.Machine

theorem powerAndLog : PowerAndLog := by
  intro f r a hlane hfin hne x
  have hf := isLaneFormat_ok hlane
  have hnan := Fmt.isNaN_of_finite hfin
  obtain ⟨n, m, e, hnum, hm, hmbits, he⟩ := Fmt.fin_of_finite hf hfin hne
  have hx : x = sgn ℚ n * (m * 2 ^ e) := by rw [← realOf_fin, ← hnum]
  have hexp : f.ExpResult r x (f.exp2 r a) := by
    rw [f.exp2_of_not_nan r hnan, hnum, hx]
    exact f.expResult hlane r n hm he
  have hlog : f.LogResult r x (f.log2 r a) := by
    cases n with
    | false =>
      rw [Fmt.log2_of_fin hnum rfl, hx, sgn, if_neg Bool.false_ne_true, one_mul]
      split
      next h => exact f.logResult_of_power hlane r hm e h
      next h => exact f.logResult_of_not_power hlane r hm hmbits e h rfl
    | true =>
      have hneg : x < 0 := by
        rw [hx, sgn, if_pos rfl, neg_one_mul]
        exact neg_neg_of_pos (by positivity)
      refine ⟨fun k hk => ?_, fun hpos => absurd hpos hneg.not_gt⟩
      have : (0 : ℚ) < 2 ^ k := by positivity
      linarith
  obtain ⟨hint, hbig, hnear⟩ := hexp
  obtain ⟨hpow, hlognear⟩ := hlog
  exact ⟨hint, hpow, hbig, hnear, hlognear⟩

/-- Settles O10: the special operands by cases on the numbers they are, and every finite result from `Fmt.round`, which rounds
each magnitude that its significand stands for; exponentials and logarithms by bounds on their series in fixed point. -/
theorem floatSpecials : Obligations.FloatSpecials :=
  ⟨nanOperands, specialOperands, finiteResults, infiniteOperands, rootResults, minMaxResults, powerAndLog⟩

end Sys2Proof.Claims
end

section
/-! SUPPORT. Floating-point compares, and the conversions between lane formats and integers (R112, R114). -/
set_option Elab.async false
namespace Sys2Proof.Machine
open Sys2Proof.Claims

/-! ### Indications that are invalid or nothing -/

/-- An indication is invalid alone when `P` holds, and nothing otherwise. -/
def OnlyInvalid (i : Ind) (P : Prop) : Prop := (i = 0 ∨ i = indInvalid) ∧ (i = indInvalid ↔ P)

theorem onlyInvalid_indIf {p : Bool} {P : Prop} (h : p = true ↔ P) : OnlyInvalid (indIf p indInvalid) P :=
  ⟨(indIf_invalid p).1, (indIf_invalid p).2.trans h⟩

theorem OnlyInvalid.congr {i : Ind} {P Q : Prop} (h : OnlyInvalid i P) (hPQ : P ↔ Q) : OnlyInvalid i Q := ⟨h.1, h.2.trans hPQ⟩

theorem OnlyInvalid.or {i j : Ind} {P Q : Prop} (h : OnlyInvalid i P) (h' : OnlyInvalid j Q) : OnlyInvalid (i ||| j) (P ∨ Q) := by
  obtain ⟨hi, hP⟩ := h
  obtain ⟨hj, hQ⟩ := h'
  rw [OnlyInvalid, ← hP, ← hQ]
  obtain rfl | rfl := hi <;> obtain rfl | rfl := hj <;> decide

/-- The active lanes merge to invalid exactly when one of them raises it (R102). -/
theorem onlyInvalid_anyInd (m : Word) {f : Nat → Ind} {P : Nat → Prop} (h : ∀ j, j < 64 → OnlyInvalid (f j) (P j)) :
    OnlyInvalid (anyInd m f) (∃ j, j < 64 ∧ m.getLsbD j = true ∧ P j) := by
  have hfold : ∀ l : List Nat, (∀ j ∈ l, OnlyInvalid (f j) (P j)) →
      OnlyInvalid (l.foldr (fun j acc => (if m.getLsbD j then f j else 0) ||| acc) 0) (∃ j ∈ l, m.getLsbD j = true ∧ P j) := by
    intro l hl
    induction l with
    | nil => exact ⟨.inl rfl, by simp [indInvalid]⟩
    | cons j l ih =>
      have hhead : OnlyInvalid (if m.getLsbD j then f j else 0) (m.getLsbD j = true ∧ P j) := by
        split
        next hon => exact (hl j List.mem_cons_self).congr (by rw [hon, eq_self_iff_true, true_and])
        next hoff => exact ⟨.inl rfl, iff_of_false (by decide) fun hP => hoff hP.1⟩
      rw [List.foldr_cons]
      exact (hhead.or (ih fun k hk => hl k (List.mem_cons_of_mem j hk))).congr (by simp)
  exact (hfold _ fun j hj => h j (List.mem_range.1 hj)).congr (by simp)

/-! ### Floating-point compares (R112) -/

theorem Fmt.isNaN_iff (f : Fmt) (x : Nat) : f.isNaN x = true ↔ ∃ b, f.num x = .nan b := by
  rw [← Bool.not_eq_false, f.isNaN_eq_false_iff]
  push Not
  rfl

theorem Fmt.isSNaN_iff (f : Fmt) (x : Nat) : f.isSNaN x = true ↔ f.num x = .nan true := by
  unfold isSNaN
  cases f.num x <;> simp

section Compare
variable {f : Fmt} (hf : f.Ok) (c : FCond) (a b : Nat)

theorem Fmt.unordered_iff : (f.isNaN a || f.isNaN b) = true ↔ (∃ g, f.num a = .nan g) ∨ ∃ g, f.num b = .nan g := by
  rw [Bool.or_eq_true, f.isNaN_iff, f.isNaN_iff]

theorem Fmt.ordered_iff : (f.isNaN a || f.isNaN b) = false ↔ (∀ g, f.num a ≠ .nan g) ∧ ∀ g, f.num b ≠ .nan g := by
  rw [Bool.or_eq_false_iff, f.isNaN_eq_false_iff, f.isNaN_eq_false_iff]

include hf in
/-- The test of one pair compares the values as real numbers. -/
theorem Fmt.cmp_test : (f.cmp c a b).1 = true ↔ floatTest c (f.num a) (f.num b) := by
  have hord (p : Bool) (P : Prop) (h : f.isNaN a = false → f.isNaN b = false → (p = true ↔ P)) :
      (!(f.isNaN a || f.isNaN b) && p) = true ↔ (∀ g, f.num a ≠ .nan g) ∧ (∀ g, f.num b ≠ .nan g) ∧ P := by
    rw [Bool.and_eq_true, Bool.not_eq_true', f.ordered_iff, and_assoc]
    refine and_congr_right fun ha => and_congr_right fun hb => ?_
    exact h ((f.isNaN_eq_false_iff a).2 ha) ((f.isNaN_eq_false_iff b).2 hb)
  cases c with
  | eq => exact hord _ _ fun ha hb => beq_iff_eq.trans (f.realOf_eq_iff hf ha hb).symm
  | lt => exact hord _ _ fun ha hb => decide_eq_true_iff.trans (f.realOf_lt_iff hf ha hb).symm
  | le => exact hord _ _ fun ha hb => decide_eq_true_iff.trans (by rw [← not_lt, ← not_lt, f.realOf_lt_iff hf hb ha])
  | un => exact f.unordered_iff a b

theorem Fmt.cmp_invalid : OnlyInvalid (f.cmp c a b).2 (floatTestInvalid c (f.num a) (f.num b)) := by
  have hsig : (f.isSNaN a || f.isSNaN b) = true ↔ f.num a = .nan true ∨ f.num b = .nan true := by
    rw [Bool.or_eq_true, f.isSNaN_iff, f.isSNaN_iff]
  cases c with
  | eq | un => exact onlyInvalid_indIf hsig
  | lt | le => exact onlyInvalid_indIf (f.unordered_iff a b)

end Compare

theorem fmtOf_ok (ty : FTyp) : (fmtOf ty).Ok := by
  cases ty <;> exact ⟨by decide, by decide, by decide⟩

theorem forall_lt_one_iff {P : Nat → Prop} : (∀ e, e < 1 → P e) ↔ P 0 := by simp

theorem exists_lt_one_iff {P : Nat → Prop} : (∃ e, e < 1 ∧ P e) ↔ P 0 := by simp

theorem forall_lt_two_iff {P : Nat → Prop} : (∀ e, e < 2 → P e) ↔ P 1 ∧ P 0 := by
  rw [Nat.forall_lt_succ_right, forall_lt_one_iff, and_comm]

theorem exists_lt_two_iff {P : Nat → Prop} : (∃ e, e < 2 ∧ P e) ↔ P 1 ∨ P 0 := by
  rw [Nat.exists_lt_succ_right, exists_lt_one_iff, or_comm]

section Lane
variable (ty : FTyp) (c : FCond) (x y : VReg) (j : Nat)

/-- The test of a lane is that of all its elements. -/
theorem fcmpLane_test : (fcmpLane ty c (lane x j) (lane y j)).1 = true ↔
    ∀ e, e < 32 / typeBits ty → floatTest c (elemNum ty x j e) (elemNum ty y j e) := by
  cases ty with
  | f32 =>
    refine (fp32.cmp_test (fmtOf_ok .f32) c _ _).trans ?_
    rw [show 32 / typeBits .f32 = 1 from rfl, forall_lt_one_iff, elemNum, elemNum, typeBits, elem32, elem32]
    rfl
  | f16 | bf16 =>
    refine Bool.and_eq_true_iff.trans (Iff.trans ?_ forall_lt_two_iff.symm)
    rw [Fmt.cmp_test (fmtOf_ok _), Fmt.cmp_test (fmtOf_ok _)]
    simp only [elemNum, typeBits, elem16_lo, elem16_hi]

theorem fcmpLane_invalid : OnlyInvalid (fcmpLane ty c (lane x j) (lane y j)).2
    (∃ e, e < 32 / typeBits ty ∧ floatTestInvalid c (elemNum ty x j e) (elemNum ty y j e)) := by
  cases ty with
  | f32 =>
    refine (fp32.cmp_invalid c _ _).congr ?_
    rw [show 32 / typeBits .f32 = 1 from rfl, exists_lt_one_iff, elemNum, elemNum, typeBits, elem32, elem32]
    rfl
  | f16 | bf16 =>
    refine ((Fmt.cmp_invalid c _ _).or (Fmt.cmp_invalid c _ _)).congr (Iff.trans ?_ exists_lt_two_iff.symm)
    simp only [elemNum, typeBits, elem16_lo, elem16_hi]

end Lane

end Sys2Proof.Machine

namespace Sys2Proof.Claims
open Sys2Proof.Machine

theorem floatCompares : FloatCompares := by
  intro s i t pd va vb pm ty c h
  have hlane (j : Nat) := fcmpLane_invalid ty c (t.readV va) (t.readV vb) j
  have hind := onlyInvalid_anyInd (t.readP pm) fun j _ => hlane j
  refine ⟨_, _, _, _, t.writeP_wroteP pd fun j hj => getLsbD_ofBits _ j hj, rfl, State.wordRegs_lands h _, fun j _ => ?_, ?_, ?_⟩
  · rw [Bool.and_eq_true, fcmpLane_test]
  · rw [laneInds_eq_anyInd]
    exact hind.1
  · rw [laneInds_eq_anyInd, hind.2]
    constructor
    · rintro ⟨j, hj, hon, e, he, hbad⟩
      exact ⟨j, e, hj, he, hon, hbad⟩
    · rintro ⟨j, e, hj, he, hon, hbad⟩
      exact ⟨j, hj, hon, e, he, hbad⟩

theorem conversions : Conversions := fun _ _ _ vd va vb pm h =>
  ⟨fun c => State.toVF_lands h vd pm fun t j => convertLane c (lane (t.readV va) j),
    fun c => State.toVF_lands h vd pm fun t j => convertPair c (lane (t.readV va) j) (lane (t.readV vb) j)⟩

end Sys2Proof.Claims
end

section
/-! SUPPORT. The conversion codes: values of a narrower format widened exactly, pairs narrowed, and numbers rounded to integers (R114). -/
set_option Elab.async false
namespace Sys2Proof.Machine
open Sys2Proof.Claims

/-! ### A NaN carried to another format (R107, R114) -/

section Carried
variable {g : Fmt} (hg : g.Ok)
include hg

theorem Fmt.infMag_signBit_halves : ∃ A B P, P = 2 ^ (g.m - 1) ∧ 0 < P ∧ 2 ^ g.m = 2 * P ∧ g.infMag = 2 * A * P ∧ g.signBit = 2 * B * P := by
  obtain ⟨p, hp⟩ : ∃ p, g.m = p + 1 := ⟨g.m - 1, by have := hg.one_le_m; omega⟩
  refine ⟨2 ^ g.w - 1, 2 ^ g.w, 2 ^ p, by rw [hp, Nat.add_sub_cancel], by positivity, by rw [hp, pow_succ'], ?_, ?_⟩
  · rw [infMag, hp, pow_succ']
    ring
  · rw [signBit, hp, pow_add, pow_succ']
    ring

/-- The most significant fraction bit set, whether it was or not. -/
theorem Fmt.quiet_signed {neg : Bool} {k : Nat} (hk : k < 2 ^ g.m) :
    g.quiet (g.signed neg (g.infMag + k)) = g.signed neg (g.infMag + 2 ^ (g.m - 1) + k % 2 ^ (g.m - 1)) := by
  obtain ⟨A, B, P, hP, hpos, hm, hinf, hsign⟩ := Fmt.infMag_signBit_halves hg
  obtain ⟨C, hC⟩ : ∃ C, ∀ j, g.signed neg (g.infMag + j) = P * (2 * C) + j := by
    cases neg with
    | false =>
      refine ⟨A, fun j => ?_⟩
      rw [signed, if_neg Bool.false_ne_true, hinf]
      ring
    | true =>
      refine ⟨A + B, fun j => ?_⟩
      rw [signed, if_pos rfl, hinf, hsign]
      ring
  rw [hm] at hk
  rw [Nat.add_assoc, hC, hC, quiet, ← hP, Nat.mul_add_div hpos]
  have hdiv := Nat.div_add_mod k P
  have hq := Nat.div_lt_of_lt_mul (show k < P * 2 by omega)
  generalize k / P = q at *
  interval_cases q
  · rw [if_neg (by omega)]
    omega
  · rw [if_pos (by omega)]
    omega

theorem nanTo_eq_carriedNaN (f : Fmt) (x : Nat) : nanTo f g x = carriedNaN f g x := by
  have hfr : x % 2 ^ f.m < 2 ^ f.m := Nat.mod_lt _ (by positivity)
  refine Fmt.quiet_signed hg ?_
  split
  next h =>
    refine Nat.div_lt_of_lt_mul ?_
    rw [← pow_add, Nat.sub_add_cancel h.le]
    exact hfr
  next h =>
    rw [show 2 ^ g.m = 2 ^ f.m * 2 ^ (g.m - f.m) by rw [← pow_add]; congr 1; omega]
    exact Nat.mul_lt_mul_of_pos_right hfr (by positivity)

theorem carriedNaN_lt (f : Fmt) (x : Nat) : carriedNaN f g x < 2 * g.signBit := by
  refine g.signed_lt _ ?_
  obtain ⟨p, hp⟩ : ∃ p, g.m = p + 1 := ⟨g.m - 1, by have := hg.one_le_m; omega⟩
  have hmod {k : Nat} : k % 2 ^ (g.m - 1) < 2 ^ (g.m - 1) := Nat.mod_lt _ (by positivity)
  rw [g.signBit_eq hg, Nat.add_assoc]
  refine Nat.add_lt_add_left ?_ _
  rw [hp, Nat.add_sub_cancel] at hmod ⊢
  rw [pow_succ']
  have := @hmod (if g.m < f.m then x % 2 ^ f.m / 2 ^ (f.m - g.m) else x % 2 ^ f.m * 2 ^ (g.m - f.m))
  rw [hp] at this
  omega

end Carried

/-! ### A value that the format holds -/

section Held
variable {f : Fmt} (hf : f.Ok)
include hf

/-- A magnitude whose significand and exponent fit the format is one of its magnitudes. -/
theorem Fmt.exists_magVal_eq {m : Nat} {e : Int} (hm : 0 < m) (hmbits : m < 2 ^ (f.m + 1)) (he : f.emin ≤ e)
    (hlt : (m : ℚ) * 2 ^ e < 2 ^ ((f.bias : Int) + 1)) : ∃ k, k < f.infMag ∧ f.magVal ℚ k = m * 2 ^ e := by
  obtain ⟨hlo, hhi, h1⟩ := bitLen_bounds hm
  have hb : bitLen m ≤ f.m + 1 := bitLen_le_iff.2 hmbits
  obtain ⟨s, hs⟩ : ∃ s, s = min (f.m + 1 - bitLen m) (e - f.emin).toNat := ⟨_, rfl⟩
  obtain ⟨L, hL⟩ : ∃ L, L = (e - f.emin).toNat - s := ⟨_, rfl⟩
  have hbits : m * 2 ^ s < 2 ^ (f.m + 1) := by
    calc m * 2 ^ s < 2 ^ bitLen m * 2 ^ s := Nat.mul_lt_mul_of_pos_right hhi (by positivity)
      _ = 2 ^ (bitLen m + s) := (pow_add ..).symm
      _ ≤ 2 ^ (f.m + 1) := Nat.pow_le_pow_right (by decide) (by omega)
  have hplaced : f.Placed L (m * 2 ^ s) := by
    obtain h0 | hfull : L = 0 ∨ s = f.m + 1 - bitLen m := by omega
    · exact .inl h0
    · refine .inr ?_
      calc 2 ^ f.m = 2 ^ (bitLen m - 1) * 2 ^ s := by rw [← pow_add]; congr 1; omega
        _ ≤ m * 2 ^ s := Nat.mul_le_mul_right _ hlo
  have hval : f.magVal ℚ (L * 2 ^ f.m + m * 2 ^ s) = m * 2 ^ e := by
    rw [f.magVal_placed ℚ hplaced hbits.le, show e = (s : Int) + (f.emin + L) by omega, zpow_add₀ two_ne_zero (s : Int), zpow_natCast]
    push_cast
    ring
  refine ⟨_, (f.magVal_strictMono ℚ).lt_iff_lt.1 ?_, hval⟩
  rw [hval, f.magVal_infMag ℚ hf]
  exact hlt

/-- A magnitude of the format rounds to itself and raises nothing. -/
theorem Fmt.RoundsMag.of_magVal {neg : Bool} {g k : Nat} {z : Nat × Ind} (hk : k < f.infMag)
    (h : f.RoundsMag .rne neg (f.magVal ℚ k) g z) : z = (f.signed neg k, 0) := by
  obtain rfl : g = k := le_antisymm ((f.magVal_strictMono ℚ).le_iff_le.1 h.le) (h.le_of_magVal_le hk le_rfl)
  have hlt := f.magVal_lt_succ ℚ g
  have hstay : ¬ goesUp .rne neg (g % 2 = 1) (f.magVal ℚ g) ((f.magVal ℚ g + f.magVal ℚ (g + 1)) / 2) (f.magVal ℚ g) := by
    rintro (hup | ⟨hup, -⟩) <;> linarith
  have hover : ¬ f.Reaches .rne neg (f.bias + 1) (f.magVal ℚ g) := by
    rw [f.reaches_iff]
    rintro ⟨hlim, -, -⟩
    have hlast : f.magVal ℚ g ≤ f.magVal ℚ (f.infMag - 1) := (f.magVal_strictMono ℚ).monotone (by omega)
    have hmid := f.magVal_last_mid hf
    have hlt := f.magVal_lt_succ ℚ (f.infMag - 1)
    rw [Nat.sub_add_cancel (by omega)] at hlt
    have : rneLimit f ≤ f.magVal ℚ g := by
      have := hlim rfl
      rwa [add_sub_cancel_right, zpow_natCast] at this
    linarith
  have hinexact := not_not.1 (mt h.inexact.1 (lt_irrefl _))
  have hoverflow := not_not.1 (mt h.overflow.1 hover)
  have hunderflow := not_not.1 (mt h.underflow.1 fun hu => lt_irrefl _ hu.1)
  refine Prod.ext (h.down hstay) ?_
  have := ind_eq_of_inexact_alone z.2 hoverflow hunderflow h.other
  rwa [hinexact, if_neg (not_not.2 rfl)] at this

/-- A value that the format holds rounds to itself and raises nothing. -/
theorem Fmt.round_held (neg : Bool) {m : Nat} {e : Int} (hm : 0 < m) (hmbits : m < 2 ^ (f.m + 1)) (he : f.emin ≤ e)
    (hlt : (m : ℚ) * 2 ^ e < 2 ^ ((f.bias : Int) + 1)) :
    ∃ k, k < f.infMag ∧ f.magVal ℚ k = m * 2 ^ e ∧ f.round .rne neg m e = (f.signed neg k, 0) := by
  obtain ⟨k, hk, hval⟩ := Fmt.exists_magVal_eq hf hm hmbits he hlt
  obtain ⟨g, hg⟩ := f.roundsMag_round hf .rne neg e hm (.inl hval)
  exact ⟨k, hk, hval, hg.of_magVal hf hk⟩

end Held

end Sys2Proof.Machine
end

section
/-! SUPPORT. The conversions of R114, code by code. -/
set_option Elab.async false
namespace Sys2Proof.Machine
open Sys2Proof.Claims

theorem lo16_toNat (x : BitVec 32) : (lo16 x).toNat = x.toNat % 2 ^ 16 := by
  rw [lo16, BitVec.extractLsb'_toNat, Nat.shiftRight_zero]

theorem hi16_toNat (x : BitVec 32) : (hi16 x).toNat = x.toNat / 2 ^ 16 := by
  rw [hi16, BitVec.extractLsb'_toNat, Nat.shiftRight_eq_div_pow]
  omega

/-! ### A value of one format converted to another -/

theorem lt_of_rounded {f : Fmt} {r : RMode} {x : ℚ} {zeroNeg : Bool} {z : Nat × Ind} (h : Rounded f r x zeroNeg z) : z.1 < 2 * f.signBit := by
  have hpos : 0 < f.signBit := by unfold Fmt.signBit; positivity
  rw [Rounded] at h
  split at h
  · rw [h]
    exact f.signed_lt zeroNeg hpos
  · exact h.1

section Convert
variable {f g : Fmt} {x : Nat}

theorem convertFmt_of_nan (hg : g.Ok) (r : RMode) (h : f.isNaN x = true) :
    convertFmt f g r x = (carriedNaN f g x, if f.isSNaN x then indInvalid else 0) := by
  rw [convertFmt, if_pos h, nanTo_eq_carriedNaN hg, indIf]

theorem convertFmt_of_not_nan (r : RMode) (h : f.isNaN x = false) : convertFmt f g r x = g.roundNum r (f.num x) :=
  if_neg (by rw [h]; exact Bool.false_ne_true)

/-- A finite value of a narrower format is one of the wider format, and rounds to itself. -/
theorem Fmt.roundNum_wider (hf : f.Ok) (hg : g.Ok) (hm : f.m ≤ g.m) (hbias : f.bias ≤ g.bias) (hemin : g.emin ≤ f.emin)
    (hfin : f.mag x < f.infMag) : ∃ k, k < g.infMag ∧ realOf (f.num x) = sgn ℚ (f.neg x) * g.magVal ℚ k ∧
      g.roundNum .rne (f.num x) = (g.signed (f.neg x) k, 0) := by
  obtain ⟨L, y, hmag, hp, hy, hnum⟩ := f.num_of_mag_lt hfin
  have hval := f.magVal_placed ℚ hp hy.le
  rw [← hmag] at hval
  rw [f.realOf_num hfin, hval, hnum]
  split
  next h0 => exact ⟨0, g.infMag_pos hg, by rw [h0, g.magVal_zero ℚ]; simp, rfl⟩
  next h0 =>
    have hlt : (y : ℚ) * 2 ^ (f.emin + L) < 2 ^ ((g.bias : Int) + 1) := by
      rw [← hval]
      calc f.magVal ℚ (f.mag x) < f.magVal ℚ f.infMag := f.magVal_strictMono ℚ hfin
        _ = 2 ^ ((f.bias : Int) + 1) := f.magVal_infMag ℚ hf
        _ ≤ 2 ^ ((g.bias : Int) + 1) := zpow_le_zpow_right₀ one_le_two (by omega)
    obtain ⟨k, hk, hkval, hround⟩ := Fmt.round_held hg (f.neg x) (Nat.pos_of_ne_zero h0)
      (hy.trans_le (Nat.pow_le_pow_right (by decide) (by omega))) (show g.emin ≤ f.emin + L by omega) hlt
    exact ⟨k, hk, by rw [hkval], hround⟩

/-- A value of a narrower format is converted exactly, its sign kept. -/
theorem convertFmt_wider (hf : f.Ok) (hg : g.Ok) (hm : f.m ≤ g.m) (hbias : f.bias ≤ g.bias) (hemin : g.emin ≤ f.emin)
    (h : f.isNaN x = false) : let z := convertFmt f g .rne x
      g.isNaN z.1 = false ∧ realOf (g.num z.1) = realOf (f.num x) ∧ g.neg z.1 = f.neg x ∧ z.2 = 0 ∧ z.1 < 2 * g.signBit := by
  have hlt := g.infMag_lt_signBit hg
  rw [convertFmt_of_not_nan .rne h]
  obtain ⟨hfin, -⟩ | ⟨-, hinf⟩ | ⟨-, b, hnan⟩ := f.num_cases hf x
  · obtain ⟨k, hk, hval, hround⟩ := Fmt.roundNum_wider hf hg hm hbias hemin hfin
    obtain ⟨hfin', hval'⟩ := g.finite_signed hg (f.neg x) hk
    rw [hround]
    exact ⟨Fmt.isNaN_of_finite hfin', hval'.trans hval.symm, g.neg_signed _ (hk.trans hlt), rfl, g.signed_lt _ (hk.trans hlt)⟩
  · have hnum := g.num_signed_infMag hg (f.neg x)
    rw [hinf]
    refine ⟨(g.isNaN_eq_false_iff _).2 fun b hb => ?_, congrArg realOf hnum, g.neg_signed _ hlt, rfl, g.signed_lt _ hlt⟩
    cases hnum.symm.trans hb
  · exact absurd hnan ((f.isNaN_eq_false_iff x).1 h b)

/-- What a half of a lane is converted to. -/
theorem convertFmt_half (hf : f.Ok) (hm : f.m ≤ fp32.m) (hbias : f.bias ≤ fp32.bias) (hemin : fp32.emin ≤ f.emin) :
    let z : LaneRes := (BitVec.ofNat 32 (convertFmt f fp32 .rne x).1, (convertFmt f fp32 .rne x).2)
    if f.isNaN x then z = (BitVec.ofNat 32 (carriedNaN f fp32 x), if f.isSNaN x then indInvalid else 0)
    else fp32.isNaN z.1.toNat = false ∧ realOf (fp32.num z.1.toNat) = realOf (f.num x) ∧ fp32.neg z.1.toNat = f.neg x ∧ z.2 = 0 := by
  have hok : fp32.Ok := fmtOf_ok .f32
  intro z
  split
  next h => exact Prod.ext (congrArg (BitVec.ofNat 32 ·.1) (convertFmt_of_nan hok .rne h)) (congrArg (·.2) (convertFmt_of_nan hok .rne h))
  next h =>
    obtain ⟨hnan, hval, hneg, hind, hlt⟩ := convertFmt_wider hf hok hm hbias hemin (Bool.not_eq_true _ ▸ h)
    have hmod : z.1.toNat = (convertFmt f fp32 .rne x).1 :=
      (BitVec.toNat_ofNat ..).trans (Nat.mod_eq_of_lt hlt)
    rw [hmod]
    exact ⟨hnan, hval, hneg, hind⟩

/-- An FP32 value narrowed to a format, and the bits it takes. -/
theorem narrowed_convertFmt (hg : g.Ok) (x : BitVec 32) :
    Narrowed g x (convertFmt fp32 g .rne x.toNat) ∧ (convertFmt fp32 g .rne x.toNat).1 < 2 * g.signBit := by
  have hok : fp32.Ok := fmtOf_ok .f32
  have hinf (n : Bool) (h : fp32.num x.toNat = .inf n) : convertFmt fp32 g .rne x.toNat = (g.signed n g.infMag, 0) := by
    rw [convertFmt_of_not_nan .rne ((fp32.isNaN_eq_false_iff _).2 fun b hb => by cases h.symm.trans hb), h]
    rfl
  have hfin (h : finite (fp32.num x.toNat)) : Rounded g .rne (realOf (fp32.num x.toNat)) (fp32.neg x.toNat) (convertFmt fp32 g .rne x.toNat) := by
    rw [convertFmt_of_not_nan .rne (Fmt.isNaN_of_finite h)]
    exact g.rounded_roundNum hg .rne (fp32.holds_num hok h)
  have hnan (b : Bool) (h : fp32.num x.toNat = .nan b) :
      convertFmt fp32 g .rne x.toNat = (carriedNaN fp32 g x.toNat, if b then indInvalid else 0) := by
    rw [convertFmt_of_nan hg .rne ((fp32.isNaN_iff _).2 ⟨b, h⟩), Fmt.isSNaN, h]
  refine ⟨⟨hnan, hinf, hfin⟩, ?_⟩
  obtain ⟨-, h⟩ | ⟨-, h⟩ | ⟨-, b, h⟩ := fp32.num_cases hok x.toNat
  · exact lt_of_rounded (hfin h)
  · rw [hinf _ h]
    exact g.signed_lt _ (g.infMag_lt_signBit hg)
  · rw [hnan b h]
    exact carriedNaN_lt hg fp32 x.toNat

end Convert

/-- A result of a 16-bit format fits the half that it is put in. -/
theorem narrowed_ofNat16 {g : Fmt} (hg : g.Ok) (h16 : 2 * g.signBit = 2 ^ 16) (x : BitVec 32) :
    Narrowed g x ((BitVec.ofNat 16 (convertFmt fp32 g .rne x.toNat).1).toNat, (convertFmt fp32 g .rne x.toNat).2) := by
  obtain ⟨hn, hlt⟩ := narrowed_convertFmt hg x
  rwa [BitVec.toNat_ofNat, Nat.mod_eq_of_lt (h16 ▸ hlt)]

/-! ### Numbers rounded to integers (R114) -/

section ToInt
variable (lo hi : Int) (n : Bool) (m : Nat) (e : Int)

/-- A rounded number is held to its bounds, and marked inexact when it differs. -/
theorem numToInt_fin (r : RMode) {q : Int} (hq : q = if n then -((roundAt r n m e 0).1 : Int) else (roundAt r n m e 0).1)
    (hind : (roundAt r n m e 0).2 = true ↔ (q : ℚ) ≠ realOf (.fin n m e)) :
    numToInt r lo hi (.fin n m e) = if q < lo then (lo, indInvalid) else if hi < q then (hi, indInvalid)
      else (q, if (q : ℚ) = realOf (.fin n m e) then 0 else indInexact) := by
  simp only [numToInt, ← hq]
  congr 2
  by_cases h : (q : ℚ) = realOf (.fin n m e)
  · rw [if_pos h, Bool.eq_false_iff.2 fun hb => hind.1 hb h]
    rfl
  · rw [if_neg h, hind.2 h]
    rfl

theorem sgn_mul_intCast (v : Nat) : ((if n then -(v : Int) else v : Int) : ℚ) = sgn ℚ n * v := by
  cases n <;> simp [sgn]

theorem sgn_mul_eq_iff {x y : ℚ} : sgn ℚ n * x = sgn ℚ n * y ↔ x = y := mul_right_inj' (sgn_ne_zero n)

/-- The truncated magnitude, and whether it is the number. -/
theorem roundAt_rz : (roundAt .rz n m e 0).1 = ⌊(m : ℚ) * 2 ^ e⌋ ∧
    ((roundAt .rz n m e 0).2 = true ↔ ((roundAt .rz n m e 0).1 : ℚ) ≠ m * 2 ^ e) := by
  obtain ⟨q, hq⟩ := roundedAt_roundAt (K := ℚ) .rz n m e 0
  have hle := hq.le
  have hlt := hq.lt
  rw [zpow_zero, mul_one] at hle hlt
  rw [hq.down id, hq.inexact, zpow_zero, mul_one]
  exact ⟨(Int.floor_eq_iff.2 ⟨hle, hlt⟩).symm, fun h => h.ne, lt_of_le_of_ne hle⟩

/-- The nearest magnitude, an even one on a tie, and whether it is the number. -/
theorem roundAt_rne : |((roundAt .rne n m e 0).1 : ℚ) - m * 2 ^ e| ≤ 1 / 2 ∧
    (|((roundAt .rne n m e 0).1 : ℚ) - m * 2 ^ e| = 1 / 2 → (roundAt .rne n m e 0).1 % 2 = 0) ∧
    ((roundAt .rne n m e 0).2 = true ↔ ((roundAt .rne n m e 0).1 : ℚ) ≠ m * 2 ^ e) := by
  obtain ⟨q, hq⟩ := roundedAt_roundAt (K := ℚ) .rne n m e 0
  obtain ⟨X, hX⟩ : ∃ X : ℚ, X = m * 2 ^ e := ⟨_, rfl⟩
  have hle := hq.le
  have hlt := hq.lt
  have hup := hq.up
  have hdown := hq.down
  have hmid : (2 * (q : ℚ) + 1) * 2 ^ ((0 : Int) - 1) = q + 1 / 2 := by
    rw [zero_sub, zpow_neg_one]
    ring
  rw [hmid] at hup hdown
  rw [hq.inexact]
  rw [← hX] at hle hlt hup hdown ⊢
  simp only [zpow_zero, mul_one] at hle hlt hup hdown ⊢
  by_cases hgo : goesUp .rne n (q % 2 = 1) (q : ℚ) (q + 1 / 2) X
  · rw [hup hgo]
    push_cast
    rw [abs_of_pos (by linarith)]
    obtain hgt | ⟨heq, hodd⟩ := hgo
    · exact ⟨by linarith, fun h => by linarith, fun _ => by linarith, fun _ => by linarith⟩
    · exact ⟨by linarith, fun _ => by omega, fun _ => by linarith, fun _ => by linarith⟩
  · rw [hdown hgo, abs_of_nonpos (by linarith)]
    have hbelow : X ≤ q + 1 / 2 := not_lt.1 fun h => hgo (.inl h)
    refine ⟨by linarith, fun h => ?_, fun h => h.ne, lt_of_le_of_ne hle⟩
    have hodd : ¬ q % 2 = 1 := fun hodd => hgo (.inr ⟨by linarith, hodd⟩)
    omega

end ToInt

end Sys2Proof.Machine

namespace Sys2Proof.Claims
open Sys2Proof.Machine

theorem toInteger : ToInteger := by
  intro lo hi x _ _ _ _
  refine ⟨fun r => ⟨?_, ?_, ?_⟩, ?_⟩
  · rintro b rfl
    rfl
  · rintro n rfl
    rfl
  · rintro n rfl
    rfl
  rintro n m e rfl
  have hpos : (0 : ℚ) ≤ m * 2 ^ e := by positivity
  refine ⟨?_, ?_⟩
  · obtain ⟨hval, hind⟩ := roundAt_rz n m e
    refine numToInt_fin lo hi n m e .rz ?_ ?_
    · rw [realOf_fin, abs_sgn_mul, abs_of_nonneg hpos, ← hval]
      cases n <;> simp
    · have hq : ((⌊|realOf (.fin n m e)|⌋ * (if n = true then -1 else 1) : Int) : ℚ) = sgn ℚ n * (roundAt .rz n m e 0).1 := by
        rw [realOf_fin, abs_sgn_mul, abs_of_nonneg hpos, ← hval]
        cases n <;> simp [sgn]
      rw [hq, realOf_fin, Ne, sgn_mul_eq_iff, hind]
  · obtain ⟨hnear, htie, hind⟩ := roundAt_rne n m e
    have hq := sgn_mul_intCast n (roundAt .rne n m e 0).1
    refine ⟨_, ?_, ?_, numToInt_fin lo hi n m e .rne rfl ?_⟩
    · rw [hq, realOf_fin, abs_sgn_sub]
      exact hnear
    · rw [hq, realOf_fin, abs_sgn_sub]
      intro h
      have := htie h
      split <;> omega
    · rw [hq, realOf_fin, Ne, sgn_mul_eq_iff, hind]

theorem conversionCodes : ConversionCodes := by
  have hok : fp32.Ok := fmtOf_ok .f32
  have hint (x : Int) : Rounded fp32 .rne x false ((BitVec.ofNat 32 (fp32.ofInt .rne x).1).toNat, (fp32.ofInt .rne x).2) := by
    have h := fp32.rounded_roundInt hok .rne x 0 false
    rw [zpow_zero, mul_one] at h
    have hlt : (fp32.roundInt .rne x 0 false).1 < 2 ^ 32 := lt_of_rounded h
    rwa [BitVec.toNat_ofNat, Fmt.ofInt, Nat.mod_eq_of_lt hlt]
  refine ⟨fun x => ⟨hint _, hint _, fun e he => ?_, fun e he => ?_⟩, fun c x y => ?_⟩
  · simp only [integerCodes, List.mem_cons, List.not_mem_nil, or_false] at he
    obtain rfl | rfl | rfl | rfl := he <;> rfl
  · simp only [halfCodes, ← lo16_toNat, ← hi16_toNat, List.mem_cons, List.not_mem_nil, or_false] at he
    have h16 (y : Nat) := convertFmt_half (x := y) (fmtOf_ok .f16) (by decide) (by decide) (by decide)
    have hb16 (y : Nat) := convertFmt_half (x := y) (fmtOf_ok .bf16) (by decide) (by decide) (by decide)
    obtain rfl | rfl | rfl | rfl := he
    · exact h16 _
    · exact h16 _
    · exact hb16 _
    · exact hb16 _
  · cases c with
    | toF16 =>
      refine ⟨_, _, rfl, ?_, ?_⟩
      · rw [← lo16_toNat]
        exact (congrArg (fun b : BitVec 16 => Narrowed fp16 x (b.toNat, _)) (lo16_append _ _)).mpr (narrowed_ofNat16 (fmtOf_ok .f16) rfl x)
      · rw [← hi16_toNat]
        exact (congrArg (fun b : BitVec 16 => Narrowed fp16 y (b.toNat, _)) (hi16_append _ _)).mpr (narrowed_ofNat16 (fmtOf_ok .f16) rfl y)
    | toBf16 =>
      refine ⟨_, _, rfl, ?_, ?_⟩
      · rw [← lo16_toNat]
        exact (congrArg (fun b : BitVec 16 => Narrowed bf16 x (b.toNat, _)) (lo16_append _ _)).mpr (narrowed_ofNat16 (fmtOf_ok .bf16) rfl x)
      · rw [← hi16_toNat]
        exact (congrArg (fun b : BitVec 16 => Narrowed bf16 y (b.toNat, _)) (hi16_append _ _)).mpr (narrowed_ofNat16 (fmtOf_ok .bf16) rfl y)

/-- Settles O7: a lane's compare is that of its elements; a narrower format's values lie among a wider one's magnitudes, so they are
converted exactly; a wider one's are rounded by `Fmt.round`, and numbers to integers by `roundAt` at the units. -/
theorem floatFormats : Obligations.FloatFormats := ⟨floatCompares, conversions, conversionCodes, toInteger⟩

end Sys2Proof.Claims
end

section
/-! SUPPORT. Codes of the lanes: read through a table, and put at their bytes or nibbles (R115, R116). -/
set_option Elab.async false
namespace Sys2Proof.Machine
open Sys2Proof.Claims

/-! ### Codes at their places in a register (R116) -/

/-- Digit `k` of `w` bits of a register. -/
def digit (w k : Nat) (v : VReg) : Nat := v.toNat / 2 ^ (w * k) % 2 ^ w

/-- The register with a code of `w` bits at place `j`. -/
def putCode (w j c : Nat) (v : VReg) : VReg :=
  (v &&& ~~~(BitVec.ofNat 2048 ((2 ^ w - 1) * 2 ^ (w * j)))) ||| BitVec.ofNat 2048 (c % 2 ^ w * 2 ^ (w * j))

theorem digit_testBit {w k i : Nat} (v : VReg) : (digit w k v).testBit i = (decide (i < w) && v.getLsbD (w * k + i)) := by
  rw [digit, Nat.testBit_mod_two_pow, Nat.testBit_div_two_pow, Nat.add_comm i, BitVec.testBit_toNat]

theorem getLsbD_putCode {w j c n : Nat} (v : VReg) (hn : n < 2048) : (putCode w j c v).getLsbD n =
    if w * j ≤ n ∧ n < w * j + w then c.testBit (n - w * j) else v.getLsbD n := by
  have hmask : (BitVec.ofNat 2048 ((2 ^ w - 1) * 2 ^ (w * j))).getLsbD n = decide (w * j ≤ n ∧ n < w * j + w) := by
    rw [BitVec.getLsbD_ofNat, Nat.testBit_mul_two_pow, Nat.testBit_two_pow_sub_one, decide_eq_true hn, Bool.true_and, ← Bool.decide_and,
      decide_eq_decide]
    omega
  have hcode : (BitVec.ofNat 2048 (c % 2 ^ w * 2 ^ (w * j))).getLsbD n =
      (decide (w * j ≤ n ∧ n < w * j + w) && c.testBit (n - w * j)) := by
    rw [BitVec.getLsbD_ofNat, Nat.testBit_mul_two_pow, Nat.testBit_mod_two_pow, decide_eq_true hn, Bool.true_and, ← Bool.and_assoc,
      ← Bool.decide_and]
    congr 1
    rw [decide_eq_decide]
    omega
  rw [putCode, BitVec.getLsbD_or, BitVec.getLsbD_and, BitVec.getLsbD_not, hmask, hcode, decide_eq_true hn, Bool.true_and]
  split
  next h => rw [decide_eq_true h, Bool.not_true, Bool.and_false, Bool.false_or, Bool.true_and]
  next h => rw [decide_eq_false h, Bool.not_false, Bool.and_true, Bool.false_and, Bool.or_false]

theorem digit_putCode {w j k c : Nat} (v : VReg) (hk : w * k + w ≤ 2048) :
    digit w k (putCode w j c v) = if k = j then c % 2 ^ w else digit w k v := by
  refine Nat.eq_of_testBit_eq fun i => ?_
  by_cases hi : i < w
  · rw [digit_testBit, getLsbD_putCode v (by omega), decide_eq_true hi, Bool.true_and]
    by_cases hkj : k = j
    · rw [if_pos hkj, hkj, if_pos (by omega), Nat.testBit_mod_two_pow, decide_eq_true hi, Bool.true_and, Nat.add_sub_cancel_left]
    · have hout : ¬ (w * j ≤ w * k + i ∧ w * k + i < w * j + w) := by
        obtain hlt | hlt := Nat.lt_or_gt_of_ne hkj
        · have := Nat.mul_le_mul_left w (Nat.succ_le_of_lt hlt)
          rw [Nat.mul_succ] at this
          omega
        · have := Nat.mul_le_mul_left w (Nat.succ_le_of_lt hlt)
          rw [Nat.mul_succ] at this
          omega
      rw [if_neg hkj, if_neg hout, digit_testBit, decide_eq_true hi, Bool.true_and]
  · rw [digit_testBit, decide_eq_false hi, Bool.false_and]
    split
    · rw [Nat.testBit_mod_two_pow, decide_eq_false hi, Bool.false_and]
    · rw [digit_testBit, decide_eq_false hi, Bool.false_and]

/-- The bits of a code. -/
def codeBits (c4 : Bool) : Nat := if c4 then 4 else 8

theorem placeCodes_cons (c4 : Bool) (v : VReg) (j c : Nat) (l : List (Nat × Nat)) :
    placeCodes c4 v ((j, c) :: l) = placeCodes c4 (putCode (codeBits c4) j c v) l := rfl

theorem digit_placeCodes_not_mem {c4 : Bool} {k : Nat} (hk : codeBits c4 * k + codeBits c4 ≤ 2048) :
    ∀ (l : List (Nat × Nat)) (v : VReg), k ∉ l.map (·.1) → digit (codeBits c4) k (placeCodes c4 v l) = digit (codeBits c4) k v
  | [], _, _ => rfl
  | (j, c) :: l, v, hl => by
    rw [List.map_cons, List.mem_cons, not_or] at hl
    rw [placeCodes_cons, digit_placeCodes_not_mem hk l _ hl.2, digit_putCode v hk, if_neg hl.1]

theorem digit_placeCodes_mem {c4 : Bool} {k c : Nat} (hk : codeBits c4 * k + codeBits c4 ≤ 2048) {l : List (Nat × Nat)} {v : VReg}
    (hnodup : (l.map (·.1)).Nodup) (hmem : (k, c) ∈ l) : digit (codeBits c4) k (placeCodes c4 v l) = c % 2 ^ codeBits c4 := by
  induction l generalizing v with
  | nil => cases hmem
  | cons p l ih =>
    obtain ⟨j, c'⟩ := p
    rw [List.map_cons, List.nodup_cons] at hnodup
    rw [placeCodes_cons]
    obtain heq | hmem := List.mem_cons.1 hmem
    · cases heq
      rw [digit_placeCodes_not_mem hk l _ hnodup.1, digit_putCode v hk, if_pos rfl]
    · exact ih hnodup.2 hmem

/-! ### The codes of the active lanes -/

section Encode
variable (img : Image) (inf : Bool) (va : VReg)

/-- The code of lane `j`, with its indications. -/
def laneCode (j : Nat) : Option (Nat × Ind) := img.encode (fp32.num (lane va j).toNat) inf

theorem encodeLanes_ind (l : List Nat) :
    (encodeLanes img inf va l).2 = indAll (l.map fun j => ((laneCode img inf va j).map (·.2)).getD 0) := by
  induction l with
  | nil => rfl
  | cons j l ih =>
    rw [List.map_cons, indAll, ← ih, encodeLanes]
    unfold laneCode
    cases img.encode (fp32.num (lane va j).toNat) inf with
    | none => exact BitVec.zero_or.symm
    | some z => rfl

theorem mem_encodeLanes (k c : Nat) (l : List Nat) :
    (k, c) ∈ (encodeLanes img inf va l).1 ↔ k ∈ l ∧ (laneCode img inf va k).map (·.1) = some c := by
  induction l with
  | nil => simp [encodeLanes]
  | cons j l ih =>
    have hhead (z : Option (Nat × Ind)) (hz : laneCode img inf va j = z) : (k, c) ∈ (encodeLanes img inf va (j :: l)).1 ↔
        (k = j ∧ z.map (·.1) = some c) ∨ (k, c) ∈ (encodeLanes img inf va l).1 := by
      rw [encodeLanes, ← laneCode, hz]
      cases z with
      | none => simp
      | some z => simp [eq_comm]
    rw [hhead _ rfl, ih, List.mem_cons]
    constructor
    · rintro (⟨rfl, h⟩ | ⟨hk, h⟩)
      · exact ⟨.inl rfl, h⟩
      · exact ⟨.inr hk, h⟩
    · rintro ⟨rfl | hk, h⟩
      · exact .inl ⟨rfl, h⟩
      · exact .inr ⟨hk, h⟩

theorem encodeLanes_keys_sublist (l : List Nat) : ((encodeLanes img inf va l).1.map (·.1)).Sublist l := by
  induction l with
  | nil => exact List.Sublist.slnil
  | cons j l ih =>
    rw [encodeLanes]
    split
    · exact ih.cons_cons j
    · exact ih.cons j

theorem mem_activeLanes (m : Word) (k : Nat) : k ∈ activeLanes m ↔ k < 64 ∧ m.getLsbD k = true := by
  rw [activeLanes, List.mem_filter, laneIdx, List.mem_range]

theorem nodup_activeLanes (m : Word) : (activeLanes m).Nodup := List.Nodup.filter _ List.nodup_range

/-- Each active lane's code is at its place; every other place keeps its bits. -/
theorem digit_placeCodes_encodeLanes (c4 : Bool) (m : Word) (v : VReg) {k : Nat} (hk : codeBits c4 * k + codeBits c4 ≤ 2048) :
    digit (codeBits c4) k (placeCodes c4 v (encodeLanes img inf va (activeLanes m)).1) =
      if k < 64 ∧ m.getLsbD k = true ∧ (laneCode img inf va k).isSome = true then
        ((laneCode img inf va k).map (·.1)).getD 0 % 2 ^ codeBits c4
      else digit (codeBits c4) k v := by
  have hnodup := (encodeLanes_keys_sublist img inf va (activeLanes m)).nodup (nodup_activeLanes m)
  split
  next h =>
    obtain ⟨h64, hon, hsome⟩ := h
    obtain ⟨z, hz⟩ := Option.isSome_iff_exists.1 hsome
    refine digit_placeCodes_mem hk hnodup ((mem_encodeLanes ..).2 ⟨(mem_activeLanes m k).2 ⟨h64, hon⟩, ?_⟩)
    rw [hz]
    rfl
  next h =>
    refine digit_placeCodes_not_mem hk _ v fun hmem => h ?_
    obtain ⟨⟨k', c⟩, hpair, hkey⟩ := List.mem_map.1 hmem
    obtain rfl : k' = k := hkey
    obtain ⟨hact, hcode⟩ := (mem_encodeLanes ..).1 hpair
    obtain ⟨h64, hon⟩ := (mem_activeLanes m _).1 hact
    obtain ⟨z, hz, -⟩ := Option.map_eq_some_iff.1 hcode
    exact ⟨h64, hon, Option.isSome_iff_exists.2 ⟨z, hz⟩⟩

end Encode

end Sys2Proof.Machine

namespace Sys2Proof.Claims
open Sys2Proof.Machine

theorem decodeCodes : DecodeCodes := by
  intro s i t vd va pm c4 t1 g h
  have hexec := State.word_of_current h fun i t => s.setThread i.place (t.writeV vd (maskLanes (t.readP pm) (t.readV vd) fun j =>
    entryFp32 ((s.tableOf i.place t c4 t1).entry (decCode c4 g (t.readV va) j))))
  refine ⟨_, hexec ▸ lands_setThread s i.place _, fun k hk => t.readV_writeV_other hk _, fun j hj => ?_, t.writeV_frame ..⟩
  rw [t.readV_writeV_same, lane_maskLanes _ _ _ j hj]
  rfl

theorem encodeCodes : EncodeCodes := by
  intro s i t vd va pm c4 t1 inf h img nan code
  have hnone (j : Nat) : (0 : Word).getLsbD j = false := BitVec.getLsbD_zero
  have hbit (j : Nat) (hj : j < 64) (hno : img.hasNaN = false) : (noCodes img (t.readP pm) (t.readV va)).getLsbD j = nan j := by
    rw [noCodes, getLsbD_ofBits _ j hj, hno, Bool.not_false, Bool.and_true]
  have hexec : exec (.venc vd va pm c4 t1 inf) s = .next (if noCodes img (t.readP pm) (t.readV va) ≠ 0 then
      (s.raise i.place t (trapCause causeTile 5 false 0) i.pc (noCodes img (t.readP pm) (t.readV va))).stay
    else s.setThread i.place ((t.writeV vd (placeCodes c4 (t.readV vd) (encodeLanes img inf (t.readV va) (activeLanes (t.readP pm))).1)).mergeFlags
      (encodeLanes img inf (t.readV va) (activeLanes (t.readP pm))).2)) := State.word_of_current h _
  rw [hexec]
  refine ⟨fun hno ⟨j, hj, hnan⟩ => ⟨_, fun j hj => hbit j hj hno, ?_⟩, fun hcodes => ?_⟩
  · rw [if_pos fun h0 => ?_]
    have := hbit j hj hno
    rw [h0, hnan, hnone] at this
    exact Bool.false_ne_true this
  · have hzero : noCodes img (t.readP pm) (t.readV va) = 0 := by
      refine BitVec.eq_of_getLsbD_eq fun j hj => ?_
      rw [noCodes, getLsbD_ofBits _ j hj, hnone]
      obtain hhas | hreal := hcodes
      · rw [hhas, Bool.not_true, Bool.and_false, Bool.false_and]
      · rw [Bool.and_right_comm]
        exact (congrArg (· && !img.hasNaN) (hreal j hj)).trans (Bool.false_and _)
    rw [hzero, if_neg (not_not.2 rfl)]
    refine ⟨_, lands_setThread s i.place _, fun k hk => t.readV_writeV_other hk _, ?_, rfl, fun j hj => ?_⟩
    · rw [← laneInds_eq_anyInd, laneInds]
      exact congrArg (fun ind : Ind => { t.sys with flags := t.sys.flags ||| zx ind }) (encodeLanes_ind img inf (t.readV va) _)
    · have hplace : codeBits c4 * j + codeBits c4 ≤ 2048 := by
        unfold codeBits
        cases c4 with
        | true =>
          change j < 512 at hj
          change 4 * j + 4 ≤ 2048
          omega
        | false =>
          change j < 256 at hj
          change 8 * j + 8 ≤ 2048
          omega
      exact (congrArg (digit (codeBits c4) j) (t.readV_writeV_same vd _)).trans
        (digit_placeCodes_encodeLanes img inf (t.readV va) c4 (t.readP pm) (t.readV vd) hplace)

end Sys2Proof.Claims
end

section
/-! SUPPORT. The order of R281 on the values of a table, in integers (R281, R284). -/
set_option Elab.async false
namespace Sys2Proof.Machine
open Sys2Proof.Claims

/-! ### First and last positions in a list -/

theorem lastPos_none {p : Int → Bool} {l : List Int} {i : Nat} (h : lastPos p l i = none) : ∀ m < l.length, p (l.getD m 0) = false := by
  induction l generalizing i with
  | nil => exact fun m hm => absurd hm (Nat.not_lt_zero m)
  | cons a l ih =>
    rw [lastPos] at h
    split at h
    next => cases h
    next hrest =>
      split at h
      next => cases h
      next ha =>
        rintro (_ | m) hm
        · exact Bool.eq_false_iff.2 ha
        · exact ih hrest m (Nat.lt_of_succ_lt_succ hm)

theorem lastPos_some {p : Int → Bool} {l : List Int} {i j : Nat} (h : lastPos p l i = some j) :
    ∃ k, j = i + k ∧ k < l.length ∧ p (l.getD k 0) = true ∧ ∀ m, k < m → m < l.length → p (l.getD m 0) = false := by
  induction l generalizing i with
  | nil => cases h
  | cons a l ih =>
    rw [lastPos] at h
    split at h
    next j' hrest =>
      cases h
      obtain ⟨k, hj, hk, hp, hlast⟩ := ih hrest
      refine ⟨k + 1, by omega, Nat.succ_lt_succ hk, hp, ?_⟩
      rintro (_ | m) hm hlen
      · omega
      · exact hlast m (by omega) (Nat.lt_of_succ_lt_succ hlen)
    next hrest =>
      split at h
      next ha =>
        cases h
        refine ⟨0, rfl, Nat.succ_pos _, ha, ?_⟩
        rintro (_ | m) hm hlen
        · omega
        · exact lastPos_none hrest m (Nat.lt_of_succ_lt_succ hlen)
      next => cases h

theorem firstPos_none {p : Int → Bool} {l : List Int} {i : Nat} (h : firstPos p l i = none) : ∀ m < l.length, p (l.getD m 0) = false := by
  induction l generalizing i with
  | nil => exact fun m hm => absurd hm (Nat.not_lt_zero m)
  | cons a l ih =>
    rw [firstPos] at h
    split at h
    next => cases h
    next ha =>
      rintro (_ | m) hm
      · exact Bool.eq_false_iff.2 ha
      · exact ih h m (Nat.lt_of_succ_lt_succ hm)

theorem firstPos_some {p : Int → Bool} {l : List Int} {i j : Nat} (h : firstPos p l i = some j) :
    ∃ k, j = i + k ∧ k < l.length ∧ p (l.getD k 0) = true ∧ ∀ m < k, p (l.getD m 0) = false := by
  induction l generalizing i with
  | nil => cases h
  | cons a l ih =>
    rw [firstPos] at h
    split at h
    next ha =>
      cases h
      exact ⟨0, rfl, Nat.succ_pos _, ha, fun m hm => absurd hm (Nat.not_lt_zero m)⟩
    next ha =>
      obtain ⟨k, hj, hk, hp, hfirst⟩ := ih h
      refine ⟨k + 1, by omega, Nat.succ_lt_succ hk, hp, ?_⟩
      rintro (_ | m) hm
      · exact Bool.eq_false_iff.2 ha
      · exact hfirst m (by omega)

theorem pairwise_of_ascends : ∀ {l : List Int}, ascends l = true → l.Pairwise (· < ·)
  | [], _ => List.Pairwise.nil
  | [a], _ => List.pairwise_singleton ..
  | a :: b :: l, h => by
    rw [ascends, Bool.and_eq_true, decide_eq_true_eq] at h
    have hrest := pairwise_of_ascends h.2
    refine List.pairwise_cons.2 ⟨fun c hc => ?_, hrest⟩
    obtain rfl | hc := List.mem_cons.1 hc
    · exact h.1
    · exact h.1.trans ((List.pairwise_cons.1 hrest).1 c hc)

/-! ### Numbers ranked by an integer (R281) -/

/-- A finite number within the range of the formats, whose value at the common scale is an integer. -/
structure Num.Small (x : Machine.Num) : Prop where
  finite : Claims.finite x
  bound : |realOf x| < 2 ^ 128
  scaled : (x.scaled : ℚ) = realOf x * 2 ^ 640
  zero : realOf x = 0 → ∃ b, x = .zero b

/-- A number that the order of R281 ranks by an integer. -/
def Num.Ranked (x : Machine.Num) : Prop := x.Small ∨ ∃ b, x = .inf b

theorem Fmt.ranked_num {f : Fmt} (hf : f.Ok) (hbias : f.bias + 1 ≤ 128) (hemin : -640 ≤ f.emin) {x : Nat} (h : f.isNaN x = false) :
    (f.num x).Ranked := by
  obtain ⟨hlt, hfin⟩ | ⟨-, hinf⟩ | ⟨-, b, hnan⟩ := f.num_cases hf x
  · refine .inl ⟨hfin, ?_, ?_, ?_⟩
    · rw [f.abs_realOf_num hlt]
      calc f.magVal ℚ (f.mag x) < f.magVal ℚ f.infMag := f.magVal_strictMono ℚ hlt
        _ = 2 ^ (f.bias + 1) := by rw [f.magVal_infMag ℚ hf, ← Nat.cast_succ, zpow_natCast]
        _ ≤ 2 ^ 128 := pow_le_pow_right₀ one_le_two hbias
    · obtain ⟨L, y, -, -, -, hnum⟩ := f.num_of_mag_lt hlt
      rw [hnum]
      split
      next => simp [Num.scaled, realOf]
      next =>
        have hat := atExp_eq (f.neg x) y (show -640 ≤ f.emin + L by omega)
        have hscale : (2 : ℚ) ^ (-640 : Int) * 2 ^ 640 = 1 := by
          rw [zpow_neg]
          exact inv_mul_cancel₀ (pow_ne_zero 640 two_ne_zero)
        rw [realOf_fin, ← hat, mul_assoc, hscale, mul_one]
        rfl
    · intro h0
      obtain ⟨L, y, -, -, -, hnum⟩ := f.num_of_mag_lt hlt
      by_cases hy : y = 0
      · exact ⟨_, hnum.trans (if_pos hy)⟩
      · rw [hnum, if_neg hy, realOf_fin] at h0
        have hpos : (0 : ℚ) < y * 2 ^ (f.emin + L) := by
          have : 0 < y := Nat.pos_of_ne_zero hy
          positivity
        exact absurd h0 (mul_ne_zero (sgn_ne_zero _) hpos.ne')
  · exact .inr ⟨_, hinf⟩
  · exact absurd hnan ((f.isNaN_eq_false_iff x).1 h b)

theorem Num.Small.scaled_bound {x : Machine.Num} (h : x.Small) : |x.scaled| < 2 ^ 768 := by
  have hpos : (0 : ℚ) < 2 ^ 640 := pow_pos two_pos 640
  rw [← Int.cast_lt (R := ℚ), Int.cast_abs, h.scaled, abs_mul, abs_of_pos hpos, Int.cast_pow, Int.cast_ofNat, show 768 = 128 + 640 from rfl,
    pow_add]
  exact mul_lt_mul_of_pos_right h.bound hpos

section Bounds
variable {x : Machine.Num} (h : x.Small)
include h

theorem Num.Small.scaled_lt_inf : -2 ^ 2000 < x.scaled ∧ x.scaled < 2 ^ 2000 := by
  have hlt : (2 : Int) ^ 768 < 2 ^ 2000 := pow_lt_pow_right₀ one_lt_two (by decide)
  obtain ⟨hlo, hhi⟩ := abs_lt.1 h.scaled_bound
  exact ⟨(neg_lt_neg hlt).trans hlo, hhi.trans hlt⟩

theorem Num.Small.realOf_lt_inf : -2 ^ 1000 < realOf x ∧ realOf x < 2 ^ 1000 := by
  have hlt : (2 : ℚ) ^ 128 < 2 ^ 1000 := pow_lt_pow_right₀ one_lt_two (by decide)
  obtain ⟨hlo, hhi⟩ := abs_lt.1 h.bound
  exact ⟨(neg_lt_neg hlt).trans hlo, hhi.trans hlt⟩

end Bounds

section Order
variable {x y : Machine.Num} (hx : x.Ranked) (hy : y.Ranked)
include hx hy

/-- Numbers at the common scale compare as they do as real numbers. -/
theorem Num.scaled_lt_iff : x.scaled < y.scaled ↔ realOf x < realOf y := by
  have hQ : (0 : Int) < 2 ^ 2000 := pow_pos two_pos 2000
  have hR : (0 : ℚ) < 2 ^ 1000 := pow_pos two_pos 1000
  obtain hx | ⟨b, rfl⟩ := hx
  · obtain ⟨hslo, hshi⟩ := hx.scaled_lt_inf
    obtain ⟨hrlo, hrhi⟩ := hx.realOf_lt_inf
    obtain hy | ⟨c, rfl⟩ := hy
    · rw [← Int.cast_lt (R := ℚ), hx.scaled, hy.scaled]
      exact mul_lt_mul_iff_of_pos_right (pow_pos two_pos 640)
    · cases c with
      | false => exact iff_of_true hshi hrhi
      | true => exact iff_of_false hslo.not_gt hrlo.not_gt
  · obtain hy | ⟨c, rfl⟩ := hy
    · obtain ⟨hslo, hshi⟩ := hy.scaled_lt_inf
      obtain ⟨hrlo, hrhi⟩ := hy.realOf_lt_inf
      cases b with
      | false => exact iff_of_false hshi.not_gt hrhi.not_gt
      | true => exact iff_of_true hslo hrlo
    · cases b <;> cases c
      · exact iff_of_false (lt_irrefl _) (lt_irrefl _)
      · exact iff_of_false (neg_lt_self hQ).not_gt (neg_lt_self hR).not_gt
      · exact iff_of_true (neg_lt_self hQ) (neg_lt_self hR)
      · exact iff_of_false (lt_irrefl _) (lt_irrefl _)

theorem Num.scaled_eq_iff : x.scaled = y.scaled ↔ realOf x = realOf y := by
  have hxy := Num.scaled_lt_iff hx hy
  have hyx := Num.scaled_lt_iff hy hx
  rw [le_antisymm_iff, le_antisymm_iff, ← not_lt, ← not_lt, ← not_lt, ← not_lt, hxy, hyx]

omit hx hy in
theorem Num.orderKey_eq (h : x ≠ .zero true) : x.orderKey = 2 * x.scaled := by
  cases x with
  | zero b =>
    cases b with
    | false => rfl
    | true => exact absurd rfl h
  | _ => rfl

/-- The integer keys compare as R281's order does. -/
theorem Num.orderKey_lt_iff : x.orderKey < y.orderKey ↔ before x y := by
  have hlt := Num.scaled_lt_iff hx hy
  by_cases h0 : x = .zero true
  · subst h0
    by_cases h1 : y = .zero true
    · subst h1
      exact iff_of_false (lt_irrefl _) (by rintro (h | ⟨-, h⟩) <;> [exact lt_irrefl _ h; cases h])
    · have hge : ¬ y.scaled < (Num.zero true).scaled ↔ ¬ realOf y < realOf (.zero true) := not_congr (Num.scaled_lt_iff hy hx)
      have hkey : (Num.zero true).orderKey < y.orderKey ↔ ¬ y.scaled < (Num.zero true).scaled := by
        rw [Num.orderKey_eq h1]
        change -1 < 2 * y.scaled ↔ ¬ y.scaled < 0
        omega
      rw [hkey, hge, not_lt, le_iff_lt_or_eq, before, and_iff_right rfl]
      refine or_congr_right ⟨fun heq => ?_, fun h => by rw [h]; rfl⟩
      obtain hy | ⟨b, rfl⟩ := hy
      · obtain ⟨b, rfl⟩ := hy.zero heq.symm
        cases b with
        | false => rfl
        | true => exact absurd rfl h1
      · have hR : (2 : ℚ) ^ 1000 ≠ 0 := pow_ne_zero 1000 two_ne_zero
        cases b with
        | false => exact absurd heq.symm hR
        | true => exact absurd heq.symm (neg_ne_zero.2 hR)
  · rw [before, Num.orderKey_eq h0]
    by_cases h1 : y = .zero true
    · subst h1
      have hkey : 2 * x.scaled < (Num.zero true).orderKey ↔ x.scaled < (Num.zero true).scaled := by
        change 2 * x.scaled < -1 ↔ x.scaled < 0
        omega
      rw [hkey, hlt]
      exact (or_iff_left fun h => h0 h.1).symm
    · rw [Num.orderKey_eq h1, or_iff_left fun h => h0 h.1, ← hlt]
      omega

theorem Num.orderKey_eq_iff : x.orderKey = y.orderKey ↔ ¬ before x y ∧ ¬ before y x := by
  rw [← Num.orderKey_lt_iff hx hy, ← Num.orderKey_lt_iff hy hx]
  omega

/-- A number before another is at most it as a real number. -/
theorem Num.realOf_le_of_orderKey_le (h : x.orderKey ≤ y.orderKey) : realOf x ≤ realOf y := by
  refine not_lt.1 fun hlt => h.not_gt ?_
  exact (Num.orderKey_lt_iff hy hx).2 (.inl hlt)

end Order

/-- Two small numbers are nearer to each other than to an infinity. -/
theorem abs_sub_lt_of_bounds {K : Type} [CommRing K] [LinearOrder K] [IsStrictOrderedRing K] {x u P R : K} (hx : |x| < P) (hu : |u| < P)
    (hR : 4 * P ≤ R) (b : Bool) : |x - u| < |x - if b then -R else R| := by
  obtain ⟨hx1, hx2⟩ := abs_lt.1 hx
  obtain ⟨hu1, hu2⟩ := abs_lt.1 hu
  have hnear : |x - u| < 2 * P := abs_lt.2 ⟨by linarith, by linarith⟩
  cases b with
  | true =>
    have := le_abs_self (x - -R)
    exact hnear.trans_le (le_trans (by linarith) this)
  | false =>
    have := neg_le_abs (x - R)
    exact hnear.trans_le (le_trans (by linarith) this)

/-- Distances from a small number compare at the common scale as they do as real numbers. -/
theorem Num.dist_lt_iff {x u w : Machine.Num} (hx : x.Small) (hu : u.Ranked) (hw : w.Ranked) (hfin : finite u ∨ finite w) :
    (x.scaled - u.scaled).natAbs < (x.scaled - w.scaled).natAbs ↔ |realOf x - realOf u| < |realOf x - realOf w| := by
  have hQ : (4 : Int) * 2 ^ 768 ≤ 2 ^ 2000 := by
    rw [show (4 : Int) = 2 ^ 2 by rfl, ← pow_add]
    exact pow_le_pow_right₀ one_le_two (by decide)
  have hR : (4 : ℚ) * 2 ^ 128 ≤ 2 ^ 1000 := by
    rw [show (4 : ℚ) = 2 ^ 2 by norm_num, ← pow_add]
    exact pow_le_pow_right₀ one_le_two (by decide)
  have hfar {u : Machine.Num} (hu : u.Small) (b : Bool) : |x.scaled - u.scaled| < |x.scaled - (Num.inf b).scaled| ∧
      |realOf x - realOf u| < |realOf x - realOf (.inf b)| :=
    ⟨abs_sub_lt_of_bounds hx.scaled_bound hu.scaled_bound hQ b, abs_sub_lt_of_bounds hx.bound hu.bound hR b⟩
  rw [← Nat.cast_lt (α := Int), Int.natCast_natAbs, Int.natCast_natAbs]
  obtain hu | ⟨b, rfl⟩ := hu
  · obtain hw | ⟨c, rfl⟩ := hw
    · have hpos : (0 : ℚ) < 2 ^ 640 := pow_pos two_pos 640
      rw [← Int.cast_lt (R := ℚ), Int.cast_abs, Int.cast_abs, Int.cast_sub, Int.cast_sub, hx.scaled, hu.scaled, hw.scaled, ← sub_mul,
        ← sub_mul, abs_mul, abs_mul, abs_of_pos hpos]
      exact mul_lt_mul_iff_of_pos_right hpos
    · obtain ⟨hs, hr⟩ := hfar hu c
      exact iff_of_true hs hr
  · obtain hw | ⟨c, rfl⟩ := hw
    · obtain ⟨hs, hr⟩ := hfar hw b
      exact iff_of_false hs.not_gt hr.not_gt
    · obtain h | h := hfin
      · exact absurd rfl (h b).2
      · exact absurd rfl (h c).2

end Sys2Proof.Machine
end

section
/-! SUPPORT. The list position that encoding chooses (R281, R284). -/
set_option Elab.async false
namespace Sys2Proof.Machine
open Sys2Proof.Claims

/-! ### The order list of a well-formed table (R281) -/

/-- The keys of the listed values. -/
def Image.keys (t : Image) : List Int := t.list.map fun c => (t.value c).orderKey

theorem Image.length_keys (t : Image) : t.keys.length = t.list.length := List.length_map ..

theorem Image.getD_keys (t : Image) {j : Nat} (hj : j < t.list.length) : t.keys.getD j 0 = (codeVal t j).orderKey := by
  simp only [keys, codeVal, List.getD_eq_getElem?_getD, List.getElem?_map, List.getElem?_eq_getElem hj, Option.map_some, Option.getD_some]

/-- The listed values are ranked, strictly ascend, and are not all infinite. -/
structure Image.Ordered (t : Image) : Prop where
  ranked : ∀ j < t.list.length, (codeVal t j).Ranked
  lt : ∀ i j, i < j → j < t.list.length → (codeVal t i).orderKey < (codeVal t j).orderKey
  finite : ∃ j < t.list.length, Claims.finite (codeVal t j)

theorem Image.codeVal_eq (t : Image) {j : Nat} (hj : j < t.list.length) : codeVal t j = t.value t.list[j] := by
  rw [codeVal, List.getD_eq_getElem _ _ hj]

theorem Image.ok_ordered {t : Image} (h : t.ok = true) : t.Ordered := by
  have hok : e8m10.Ok := ⟨by decide, by decide, by decide⟩
  simp only [Image.ok, Bool.and_eq_true] at h
  obtain ⟨⟨⟨⟨-, hnan⟩, hasc⟩, hany⟩, -⟩ := h
  have hrank (j : Nat) (hj : j < t.list.length) : (codeVal t j).Ranked := by
    have hno := List.all_eq_true.1 hnan _ (List.getElem_mem hj)
    rw [t.codeVal_eq hj]
    exact e8m10.ranked_num hok (by decide) (by decide) (by simpa using hno)
  refine ⟨hrank, fun i j hij hj => ?_, ?_⟩
  · have hpair := List.pairwise_iff_getElem.1 (pairwise_of_ascends hasc) i j (by rw [List.length_map]; omega) (by rwa [List.length_map]) hij
    rw [List.getElem_map, List.getElem_map] at hpair
    rwa [t.codeVal_eq (hij.trans hj), t.codeVal_eq hj]
  · obtain ⟨c, hc, hfin⟩ := List.any_eq_true.1 hany
    obtain ⟨j, hj, rfl⟩ := List.getElem_of_mem hc
    refine ⟨j, hj, ?_⟩
    obtain hs | ⟨b, hb⟩ := hrank j hj
    · exact hs.finite
    · rw [← t.codeVal_eq hj, hb] at hfin
      cases hfin

/-! ### The outermost finite values -/

/-- Whether a key is that of a finite number. -/
def isFinKey (k : Int) : Bool := -(2 ^ 2000) < k && k < 2 ^ 2000

theorem isFinKey_iff {x : Machine.Num} (hx : x.Ranked) : isFinKey x.orderKey = true ↔ finite x := by
  have hQ : (0 : Int) < 2 ^ 2000 := pow_pos two_pos 2000
  rw [isFinKey, Bool.and_eq_true, decide_eq_true_eq, decide_eq_true_eq]
  obtain hx | ⟨b, rfl⟩ := hx
  · have hlt : (2 : Int) * 2 ^ 768 < 2 ^ 2000 := by
      rw [← pow_succ']
      exact pow_lt_pow_right₀ one_lt_two (by decide)
    obtain ⟨hlo, hhi⟩ := abs_lt.1 hx.scaled_bound
    refine iff_of_true ?_ hx.finite
    generalize (2 : Int) ^ 2000 = Q at *
    generalize (2 : Int) ^ 768 = P at *
    by_cases h0 : x = .zero true
    · subst h0
      change -Q < -1 ∧ -1 < Q
      omega
    · rw [Num.orderKey_eq h0]
      omega
  · refine iff_of_false ?_ fun h => (h b).2 rfl
    generalize hQ' : (2 : Int) ^ 2000 = Q at *
    have hkey : (Num.inf b).orderKey = 2 * if b then -Q else Q := by rw [← hQ']; rfl
    rw [hkey]
    split <;> omega

section Ends
variable (t : Image)

/-- The position of the last finite value. -/
def Image.top : Nat := (lastPos isFinKey t.keys 0).getD 0

/-- The position of the first finite value. -/
def Image.bot : Nat := (firstPos isFinKey t.keys 0).getD 0

variable {t} (ht : t.Ordered)
include ht

theorem Image.Ordered.isFinKey_iff {j : Nat} (hj : j < t.list.length) : isFinKey (t.keys.getD j 0) = true ↔ Claims.finite (codeVal t j) := by
  rw [t.getD_keys hj, Machine.isFinKey_iff (ht.ranked j hj)]

theorem Image.Ordered.small {j : Nat} (hj : j < t.list.length) (h : Claims.finite (codeVal t j)) : (codeVal t j).Small := by
  obtain hs | ⟨b, hb⟩ := ht.ranked j hj
  · exact hs
  · exact absurd hb (h b).2

theorem Image.Ordered.key_le {i j : Nat} (hij : i ≤ j) (hj : j < t.list.length) : (codeVal t i).orderKey ≤ (codeVal t j).orderKey := by
  obtain rfl | hlt := hij.eq_or_lt
  · exact le_rfl
  · exact (ht.lt i j hlt hj).le

theorem Image.Ordered.realOf_le {i j : Nat} (hij : i ≤ j) (hj : j < t.list.length) : realOf (codeVal t i) ≤ realOf (codeVal t j) :=
  Num.realOf_le_of_orderKey_le (ht.ranked i (hij.trans_lt hj)) (ht.ranked j hj) (ht.key_le hij hj)

/-- Past the last finite value the list holds +∞ alone. -/
theorem Image.Ordered.top_spec : t.top < t.list.length ∧ Claims.finite (codeVal t t.top) ∧
    ∀ j, t.top < j → j < t.list.length → codeVal t j = .inf false := by
  obtain ⟨j0, hj0, hfin0⟩ := ht.finite
  cases h : lastPos isFinKey t.keys 0 with
  | none =>
    have := lastPos_none h j0 (t.length_keys.symm ▸ hj0)
    rw [(ht.isFinKey_iff hj0).2 hfin0] at this
    cases this
  | some k =>
    obtain ⟨k', hk', hlen, hp, hlast⟩ := lastPos_some h
    obtain rfl : t.top = k' := by rw [Image.top, h, Option.getD_some, hk', Nat.zero_add]
    rw [t.length_keys] at hlen hlast
    have hfin := (ht.isFinKey_iff hlen).1 hp
    refine ⟨hlen, hfin, fun j hj hjn => ?_⟩
    obtain hs | ⟨b, hb⟩ := ht.ranked j hjn
    · have := hlast j hj hjn
      rw [(ht.isFinKey_iff hjn).2 hs.finite] at this
      cases this
    · cases b with
      | false => exact hb
      | true =>
        have hle := ht.realOf_le hj.le hjn
        rw [hb] at hle
        exact absurd (ht.small hlen hfin).realOf_lt_inf.1 hle.not_gt

/-- Before the first finite value the list holds −∞ alone. -/
theorem Image.Ordered.bot_spec : t.bot < t.list.length ∧ Claims.finite (codeVal t t.bot) ∧ ∀ j < t.bot, codeVal t j = .inf true := by
  obtain ⟨j0, hj0, hfin0⟩ := ht.finite
  cases h : firstPos isFinKey t.keys 0 with
  | none =>
    have := firstPos_none h j0 (t.length_keys.symm ▸ hj0)
    rw [(ht.isFinKey_iff hj0).2 hfin0] at this
    cases this
  | some k =>
    obtain ⟨k', hk', hlen, hp, hfirst⟩ := firstPos_some h
    obtain rfl : t.bot = k' := by rw [Image.bot, h, Option.getD_some, hk', Nat.zero_add]
    rw [t.length_keys] at hlen
    have hfin := (ht.isFinKey_iff hlen).1 hp
    refine ⟨hlen, hfin, fun j hj => ?_⟩
    have hjn := hj.trans hlen
    obtain hs | ⟨b, hb⟩ := ht.ranked j hjn
    · have := hfirst j hj
      rw [(ht.isFinKey_iff hjn).2 hs.finite] at this
      cases this
    · cases b with
      | true => exact hb
      | false =>
        have hle := ht.realOf_le hj.le hlen
        rw [hb] at hle
        exact absurd (ht.small hlen hfin).realOf_lt_inf.2 hle.not_gt

theorem Image.Ordered.le_top {j : Nat} (hj : j < t.list.length) (hfin : Claims.finite (codeVal t j)) : j ≤ t.top :=
  not_lt.1 fun h => (hfin false).2 (ht.top_spec.2.2 j h hj)

theorem Image.Ordered.bot_le {j : Nat} (hfin : Claims.finite (codeVal t j)) : t.bot ≤ j :=
  not_lt.1 fun h => (hfin true).2 (ht.bot_spec.2.2 j h)

/-- +∞ is listed exactly when something follows the last finite value. -/
theorem Image.Ordered.inf_listed : (∃ j < t.list.length, codeVal t j = .inf false) ↔ t.top + 1 < t.list.length := by
  obtain ⟨hlen, hfin, hpast⟩ := ht.top_spec
  refine ⟨fun ⟨j, hj, hinf⟩ => ?_, fun h => ⟨_, h, hpast _ (Nat.lt_succ_self _) h⟩⟩
  have hlt : t.top < j := by
    refine not_le.1 fun hle => ?_
    have hval := ht.realOf_le hle hlen
    rw [hinf] at hval
    exact (ht.small hlen hfin).realOf_lt_inf.2.not_ge hval
  omega

theorem Image.Ordered.neg_inf_listed : (∃ j < t.list.length, codeVal t j = .inf true) ↔ 0 < t.bot := by
  obtain ⟨hlen, hfin, hbefore⟩ := ht.bot_spec
  refine ⟨fun ⟨j, hj, hinf⟩ => ?_, fun h => ⟨0, by omega, hbefore 0 h⟩⟩
  refine Nat.pos_of_ne_zero fun h0 => ?_
  have hval := ht.realOf_le (Nat.zero_le j |> h0.le.trans) hj
  rw [hinf] at hval
  exact (ht.small hlen hfin).realOf_lt_inf.1.not_ge hval

end Ends

/-! ### The position chosen (R284) -/

/-- The position for a value within the finite ones of the table. -/
def Image.innerPos (t : Image) (x : Machine.Num) : Nat :=
  match firstPos (· == x.orderKey) t.keys 0 with
  | some i => i
  | none =>
    match lastPos (· < x.orderKey) t.keys 0, firstPos (x.orderKey < ·) t.keys 0 with
    | some a, some b =>
      let da := (x.scaled - (codeVal t a).scaled).natAbs
      let db := (x.scaled - (codeVal t b).scaled).natAbs
      if da < db then a else if db < da then b else if a % 2 = 0 then a else b
    | some a, none => a
    | none, some b => b
    | none, none => 0

/-- The position for a value, and whether it overflows. -/
def Image.encodePos (t : Image) (x : Machine.Num) (inf : Bool) : Nat × Bool :=
  if (codeVal t t.top).scaled < x.scaled then
    (if inf && t.top + 1 < t.list.length then t.top + 1 else t.top, !(inf && t.top + 1 < t.list.length && x == .inf false))
  else if x.scaled < (codeVal t t.bot).scaled then
    (if inf && 0 < t.bot then t.bot - 1 else t.bot, !(inf && 0 < t.bot && x == .inf true))
  else (t.innerPos x, false)

theorem Image.encode_eq (t : Image) {x : Machine.Num} (hx : ∀ b, x ≠ .nan b) (inf : Bool) :
    t.encode x inf = some (t.pick x (t.encodePos x inf).1 (indIf (t.encodePos x inf).2 indOverflow)) := by
  have hinner : (match firstPos (· == x.orderKey) t.keys 0 with
      | some i => some (t.pick x i 0)
      | none =>
        match lastPos (· < x.orderKey) t.keys 0, firstPos (x.orderKey < ·) t.keys 0 with
        | some a, some b =>
          let da := (x.scaled - (t.value (t.list.getD a 0)).scaled).natAbs
          let db := (x.scaled - (t.value (t.list.getD b 0)).scaled).natAbs
          some (t.pick x (if da < db then a else if db < da then b else if a % 2 = 0 then a else b) 0)
        | some a, none => some (t.pick x a 0)
        | none, some b => some (t.pick x b 0)
        | none, none => some (t.pick x 0 0)) = some (t.pick x (t.innerPos x) 0) := by
    unfold innerPos
    cases firstPos (· == x.orderKey) t.keys 0 with
    | some i => rfl
    | none => cases lastPos (· < x.orderKey) t.keys 0 <;> cases firstPos (x.orderKey < ·) t.keys 0 <;> rfl
  have hpos : t.encode x inf = if (codeVal t t.top).scaled < x.scaled then
      some (t.pick x (if inf && t.top + 1 < t.keys.length then t.top + 1 else t.top)
        (indIf (!(inf && t.top + 1 < t.keys.length && x == .inf false)) indOverflow))
    else if x.scaled < (codeVal t t.bot).scaled then
      some (t.pick x (if inf && 0 < t.bot then t.bot - 1 else t.bot) (indIf (!(inf && 0 < t.bot && x == .inf true)) indOverflow))
    else some (t.pick x (t.innerPos x) 0) := by
    rw [← hinner]
    cases x with
    | nan b => exact absurd rfl (hx b)
    | _ => rfl
  rw [hpos, t.length_keys, encodePos]
  split
  · rfl
  · split <;> rfl

end Sys2Proof.Machine
end

section
/-! SUPPORT. The position chosen is the one that R284 asks for (R281, R284). -/
set_option Elab.async false
namespace Sys2Proof.Machine
open Sys2Proof.Claims

/-! ### A value outside the finite ones of the table -/

section Outside
variable {t : Image} (ht : t.Ordered) {x : Machine.Num} (hx : x.Ranked) (inf : Bool)
include ht hx

theorem Image.Ordered.top_lt_iff : (codeVal t t.top).scaled < x.scaled ↔ realOf (codeVal t t.top) < realOf x :=
  Num.scaled_lt_iff (ht.ranked _ ht.top_spec.1) hx

theorem Image.Ordered.lt_bot_iff : x.scaled < (codeVal t t.bot).scaled ↔ realOf x < realOf (codeVal t t.bot) :=
  Num.scaled_lt_iff hx (ht.ranked _ ht.bot_spec.1)

omit hx in
theorem Image.Ordered.below_all_iff : (∀ j < t.list.length, Claims.finite (codeVal t j) → realOf (codeVal t j) < realOf x) ↔
    realOf (codeVal t t.top) < realOf x := by
  obtain ⟨hlen, hfin, -⟩ := ht.top_spec
  exact ⟨fun h => h _ hlen hfin, fun h j hj hf => (ht.realOf_le (ht.le_top hj hf) hlen).trans_lt h⟩

omit hx in
theorem Image.Ordered.above_all_iff : (∀ j < t.list.length, Claims.finite (codeVal t j) → realOf x < realOf (codeVal t j)) ↔
    realOf x < realOf (codeVal t t.bot) := by
  obtain ⟨hlen, hfin, -⟩ := ht.bot_spec
  exact ⟨fun h => h _ hlen hfin, fun h j hj hf => h.trans_le (ht.realOf_le (ht.bot_le hf) hj)⟩

omit hx in
theorem Image.Ordered.bot_le_top : realOf (codeVal t t.bot) ≤ realOf (codeVal t t.top) :=
  ht.realOf_le (ht.bot_le ht.top_spec.2.1) ht.top_spec.1

omit hx in
/-- A value past the last finite one goes to +∞, where that is asked for and listed, and else to the last finite one. -/
theorem Image.Ordered.encodesTo_above (h : realOf (codeVal t t.top) < realOf x) :
    encodesTo t x inf (if inf && t.top + 1 < t.list.length then t.top + 1 else t.top) := by
  obtain ⟨hlen, hfin, hpast⟩ := ht.top_spec
  have hnotabove : ¬ ∀ j < t.list.length, Claims.finite (codeVal t j) → realOf x < realOf (codeVal t j) := fun hall => by
    have := ht.above_all_iff.1 hall
    linarith [ht.bot_le_top]
  have hnotwithin : ¬ ∃ j < t.list.length, Claims.finite (codeVal t j) ∧ realOf x ≤ realOf (codeVal t j) := fun ⟨j, hj, hf, hle⟩ =>
    (ht.below_all_iff.2 h j hj hf).not_ge hle
  have hends := ht.inf_listed
  by_cases he : inf = true ∧ t.top + 1 < t.list.length
  · rw [if_pos (by simpa using he)]
    have hinf := hpast _ (Nat.lt_succ_self _) he.2
    exact ⟨he.2, fun _ => ⟨fun _ _ => hinf, fun hno => absurd ⟨he.1, hends.2 he.2⟩ hno⟩, fun hall => absurd hall hnotabove,
      fun hw => absurd hw hnotwithin⟩
  · rw [if_neg (by simpa using he)]
    exact ⟨hlen, fun _ => ⟨fun hinf hlisted => absurd ⟨hinf, hends.1 hlisted⟩ he,
      fun _ => ⟨hfin, fun j hj hf => ht.realOf_le (ht.le_top hj hf) hlen⟩⟩,
      fun hall => absurd hall hnotabove, fun hw => absurd hw hnotwithin⟩

omit hx in
/-- A value before the first finite one goes to −∞, where that is asked for and listed, and else to the first finite one. -/
theorem Image.Ordered.encodesTo_below (h : realOf x < realOf (codeVal t t.bot)) :
    encodesTo t x inf (if inf && 0 < t.bot then t.bot - 1 else t.bot) := by
  obtain ⟨hlen, hfin, hbefore⟩ := ht.bot_spec
  have hnotbelow : ¬ ∀ j < t.list.length, Claims.finite (codeVal t j) → realOf (codeVal t j) < realOf x := fun hall => by
    have := ht.below_all_iff.1 hall
    linarith [ht.bot_le_top]
  have hnotwithin : ¬ ∃ j < t.list.length, Claims.finite (codeVal t j) ∧ realOf (codeVal t j) ≤ realOf x := fun ⟨j, hj, hf, hle⟩ =>
    (ht.above_all_iff.2 h j hj hf).not_ge hle
  have hends := ht.neg_inf_listed
  by_cases he : inf = true ∧ 0 < t.bot
  · rw [if_pos (by simpa using he)]
    have hinf := hbefore (t.bot - 1) (by omega)
    exact ⟨by omega, fun hall => absurd hall hnotbelow, fun _ => ⟨fun _ _ => hinf, fun hno => absurd ⟨he.1, hends.2 he.2⟩ hno⟩,
      fun _ hw => absurd hw hnotwithin⟩
  · rw [if_neg (by simpa using he)]
    exact ⟨hlen, fun hall => absurd hall hnotbelow, fun _ => ⟨fun hinf hlisted => absurd ⟨hinf, hends.1 hlisted⟩ he,
      fun _ => ⟨hfin, fun j hj hf => ht.realOf_le (ht.bot_le hf) hj⟩⟩, fun _ hw => absurd hw hnotwithin⟩

end Outside

/-! ### A value within the finite ones of the table -/

section Within
variable {t : Image} (ht : t.Ordered) {x : Machine.Num}

section Below
variable (hx : x.Ranked) {a b j : Nat}
include ht hx

/-- Of the positions below a value, the last is nearest to it. -/
theorem Image.Ordered.dist_below (ha : a < t.list.length) (hax : (codeVal t a).orderKey < x.orderKey) (hja : j ≤ a) :
    |realOf x - realOf (codeVal t a)| ≤ |realOf x - realOf (codeVal t j)| ∧
      (|realOf x - realOf (codeVal t j)| = |realOf x - realOf (codeVal t a)| → realOf (codeVal t j) = realOf (codeVal t a)) := by
  have h1 := ht.realOf_le hja ha
  have h2 := Num.realOf_le_of_orderKey_le (ht.ranked a ha) hx hax.le
  rw [abs_of_nonneg (sub_nonneg.2 h2), abs_of_nonneg (sub_nonneg.2 (h1.trans h2))]
  exact ⟨by linarith, fun h => by linarith⟩

/-- Of the positions above a value, the first is nearest to it. -/
theorem Image.Ordered.dist_above (hj : j < t.list.length) (hxb : x.orderKey < (codeVal t b).orderKey) (hbj : b ≤ j) :
    |realOf x - realOf (codeVal t b)| ≤ |realOf x - realOf (codeVal t j)| ∧
      (|realOf x - realOf (codeVal t j)| = |realOf x - realOf (codeVal t b)| → realOf (codeVal t j) = realOf (codeVal t b)) := by
  have h1 := ht.realOf_le hbj hj
  have h2 := Num.realOf_le_of_orderKey_le hx (ht.ranked b (hbj.trans_lt hj)) hxb.le
  rw [abs_of_nonpos (sub_nonpos.2 h2), abs_of_nonpos (sub_nonpos.2 (h2.trans h1))]
  exact ⟨by linarith, fun h => by linarith⟩

end Below

/-- `k` is a neighbour of `x`, a nearest position to it, and the even one of two. -/
structure Image.Nearest (t : Image) (x : Machine.Num) (k : Nat) : Prop where
  lt : k < t.list.length
  beside : (codeVal t k).orderKey < x.orderKey ∧ (∀ j < t.list.length, (codeVal t j).orderKey < x.orderKey → j ≤ k) ∨
    x.orderKey < (codeVal t k).orderKey ∧ ∀ j < t.list.length, x.orderKey < (codeVal t j).orderKey → k ≤ j
  nearest : ∀ j < t.list.length, |realOf x - realOf (codeVal t k)| ≤ |realOf x - realOf (codeVal t j)|
  even : (∃ j < t.list.length, realOf (codeVal t j) ≠ realOf (codeVal t k) ∧
    |realOf x - realOf (codeVal t j)| = |realOf x - realOf (codeVal t k)|) → k % 2 = 0

section Choice
variable (hx : x.Ranked) (hne : ∀ j < t.list.length, (codeVal t j).orderKey ≠ x.orderKey)
include ht hx hne

/-- The last position below a value with none above it. -/
theorem Image.Ordered.nearest_of_last {a : Nat} (ha : a < t.list.length) (hax : (codeVal t a).orderKey < x.orderKey)
    (hlast : ∀ j < t.list.length, (codeVal t j).orderKey < x.orderKey → j ≤ a)
    (hnone : ∀ j < t.list.length, ¬ x.orderKey < (codeVal t j).orderKey) : t.Nearest x a := by
  have hle (j : Nat) (hj : j < t.list.length) : j ≤ a := hlast j hj (lt_of_le_of_ne (not_lt.1 (hnone j hj)) (hne j hj))
  refine ⟨ha, .inl ⟨hax, hlast⟩, fun j hj => (ht.dist_below hx ha hax (hle j hj)).1, ?_⟩
  rintro ⟨j, hj, hval, htie⟩
  exact absurd ((ht.dist_below hx ha hax (hle j hj)).2 htie) hval

/-- The first position above a value with none below it. -/
theorem Image.Ordered.nearest_of_first {b : Nat} (hb : b < t.list.length) (hxb : x.orderKey < (codeVal t b).orderKey)
    (hfirst : ∀ j < t.list.length, x.orderKey < (codeVal t j).orderKey → b ≤ j)
    (hnone : ∀ j < t.list.length, ¬ (codeVal t j).orderKey < x.orderKey) : t.Nearest x b := by
  have hle (j : Nat) (hj : j < t.list.length) : b ≤ j := hfirst j hj (lt_of_le_of_ne (not_lt.1 (hnone j hj)) (hne j hj).symm)
  refine ⟨hb, .inr ⟨hxb, hfirst⟩, fun j hj => (ht.dist_above hx hj hxb (hle j hj)).1, ?_⟩
  rintro ⟨j, hj, hval, htie⟩
  exact absurd ((ht.dist_above hx hj hxb (hle j hj)).2 htie) hval

/-- Of two neighbours the nearer one, and of two equally near the even one. -/
theorem Image.Ordered.nearest_of_two {a b : Nat} (ha : a < t.list.length) (hax : (codeVal t a).orderKey < x.orderKey)
    (hlast : ∀ j < t.list.length, (codeVal t j).orderKey < x.orderKey → j ≤ a) (hb : b < t.list.length)
    (hxb : x.orderKey < (codeVal t b).orderKey) (hfirst : ∀ j < t.list.length, x.orderKey < (codeVal t j).orderKey → b ≤ j)
    {da db : Nat} (hab : da < db ↔ |realOf x - realOf (codeVal t a)| < |realOf x - realOf (codeVal t b)|)
    (hba : db < da ↔ |realOf x - realOf (codeVal t b)| < |realOf x - realOf (codeVal t a)|) :
    t.Nearest x (if da < db then a else if db < da then b else if a % 2 = 0 then a else b) := by
  have hside (j : Nat) (hj : j < t.list.length) : j ≤ a ∨ b ≤ j :=
    (lt_or_gt_of_ne (hne j hj)).imp (hlast j hj) (hfirst j hj)
  have hdist (j : Nat) (hj : j < t.list.length) : |realOf x - realOf (codeVal t a)| ≤ |realOf x - realOf (codeVal t j)| ∨
      |realOf x - realOf (codeVal t b)| ≤ |realOf x - realOf (codeVal t j)| :=
    (hside j hj).imp (fun h => (ht.dist_below hx ha hax h).1) (fun h => (ht.dist_above hx hj hxb h).1)
  have heven : b = a + 1 := by
    have hlt : a < b := not_le.1 fun hle => ((ht.key_le hle ha).trans_lt hax).not_gt hxb
    obtain h | h := hside (a + 1) (by omega) <;> omega
  split
  next hlt =>
    have hlt := hab.1 hlt
    refine ⟨ha, .inl ⟨hax, hlast⟩, fun j hj => (hdist j hj).elim id hlt.le.trans, ?_⟩
    rintro ⟨j, hj, hval, htie⟩
    obtain h | h := hside j hj
    · exact absurd ((ht.dist_below hx ha hax h).2 htie) hval
    · exact absurd (hlt.trans_le (ht.dist_above hx hj hxb h).1) htie.not_gt
  next hnlt =>
    have hnlt := mt hab.2 hnlt
    split
    next hlt =>
      have hlt := hba.1 hlt
      refine ⟨hb, .inr ⟨hxb, hfirst⟩, fun j hj => (hdist j hj).elim hlt.le.trans id, ?_⟩
      rintro ⟨j, hj, hval, htie⟩
      obtain h | h := hside j hj
      · exact absurd (hlt.trans_le (ht.dist_below hx ha hax h).1) htie.not_gt
      · exact absurd ((ht.dist_above hx hj hxb h).2 htie) hval
    next hngt =>
      have hngt := mt hba.2 hngt
      split
      next hpar => exact ⟨ha, .inl ⟨hax, hlast⟩, fun j hj => (hdist j hj).elim id (not_lt.1 hngt).trans, fun _ => hpar⟩
      next hpar => exact ⟨hb, .inr ⟨hxb, hfirst⟩, fun j hj => (hdist j hj).elim (not_lt.1 hnlt).trans id, fun _ => by omega⟩

end Choice

include ht

omit ht in
/-- A position with the key of `x` is the one chosen. -/
theorem Image.innerPos_same (h : ∃ j < t.list.length, (codeVal t j).orderKey = x.orderKey) :
    t.innerPos x < t.list.length ∧ (codeVal t (t.innerPos x)).orderKey = x.orderKey := by
  obtain ⟨j, hj, hkey⟩ := h
  unfold innerPos
  cases hs : firstPos (· == x.orderKey) t.keys 0 with
  | none =>
    have := firstPos_none hs j (t.length_keys.symm ▸ hj)
    rw [t.getD_keys hj, hkey, beq_self_eq_true] at this
    cases this
  | some i =>
    obtain ⟨k, rfl, hk, hp, -⟩ := firstPos_some hs
    rw [t.length_keys] at hk
    rw [t.getD_keys hk] at hp
    rw [Nat.zero_add]
    exact ⟨hk, beq_iff_eq.1 hp⟩

/-- With no such position the one chosen is the nearest. -/
theorem Image.Ordered.innerPos_nearest (hx : x.Small) (hne : ∀ j < t.list.length, (codeVal t j).orderKey ≠ x.orderKey) :
    t.Nearest x (t.innerPos x) := by
  have hxr : x.Ranked := .inl hx
  have hlast {a : Nat} (h : lastPos (· < x.orderKey) t.keys 0 = some a) : a < t.list.length ∧ (codeVal t a).orderKey < x.orderKey ∧
      ∀ j < t.list.length, (codeVal t j).orderKey < x.orderKey → j ≤ a := by
    obtain ⟨k, rfl, hk, hp, hafter⟩ := lastPos_some h
    rw [t.length_keys] at hk hafter
    rw [t.getD_keys hk, decide_eq_true_eq] at hp
    rw [Nat.zero_add]
    refine ⟨hk, hp, fun j hj hjx => not_lt.1 fun hlt => ?_⟩
    have := hafter j hlt hj
    rw [t.getD_keys hj, decide_eq_false_iff_not] at this
    exact this hjx
  have hfirst {b : Nat} (h : firstPos (x.orderKey < ·) t.keys 0 = some b) : b < t.list.length ∧ x.orderKey < (codeVal t b).orderKey ∧
      ∀ j < t.list.length, x.orderKey < (codeVal t j).orderKey → b ≤ j := by
    obtain ⟨k, rfl, hk, hp, hbefore⟩ := firstPos_some h
    rw [t.length_keys] at hk
    rw [t.getD_keys hk, decide_eq_true_eq] at hp
    rw [Nat.zero_add]
    refine ⟨hk, hp, fun j hj hjx => not_lt.1 fun hlt => ?_⟩
    have := hbefore j hlt
    rw [t.getD_keys hj, decide_eq_false_iff_not] at this
    exact this hjx
  have hnolast (h : lastPos (· < x.orderKey) t.keys 0 = none) (j : Nat) (hj : j < t.list.length) : ¬ (codeVal t j).orderKey < x.orderKey := by
    have := lastPos_none h j (t.length_keys.symm ▸ hj)
    rwa [t.getD_keys hj, decide_eq_false_iff_not] at this
  have hnofirst (h : firstPos (x.orderKey < ·) t.keys 0 = none) (j : Nat) (hj : j < t.list.length) : ¬ x.orderKey < (codeVal t j).orderKey := by
    have := firstPos_none h j (t.length_keys.symm ▸ hj)
    rwa [t.getD_keys hj, decide_eq_false_iff_not] at this
  unfold innerPos
  cases hs : firstPos (· == x.orderKey) t.keys 0 with
  | some i =>
    obtain ⟨k, -, hk, hp, -⟩ := firstPos_some hs
    rw [t.length_keys] at hk
    rw [t.getD_keys hk] at hp
    exact absurd (beq_iff_eq.1 hp) (hne k hk)
  | none =>
    cases hl : lastPos (· < x.orderKey) t.keys 0 with
    | some a =>
      obtain ⟨ha, hax, hla⟩ := hlast hl
      cases hr : firstPos (x.orderKey < ·) t.keys 0 with
      | some b =>
        obtain ⟨hb, hxb, hfb⟩ := hfirst hr
        have hfin : Claims.finite (codeVal t a) ∨ Claims.finite (codeVal t b) := by
          obtain ⟨j, hj, hfin⟩ := ht.finite
          have hjs := ht.small hj hfin
          obtain h | h := lt_or_gt_of_ne (hne j hj)
          · obtain hs | ⟨c, hc⟩ := ht.ranked a ha
            · exact .inl hs.finite
            · have h1 := ht.realOf_le (hla j hj h) ha
              have h2 := Num.realOf_le_of_orderKey_le (ht.ranked a ha) hxr hax.le
              rw [hc] at h1 h2
              cases c with
              | false => exact absurd hx.realOf_lt_inf.2 h2.not_gt
              | true => exact absurd hjs.realOf_lt_inf.1 h1.not_gt
          · obtain hs | ⟨c, hc⟩ := ht.ranked b hb
            · exact .inr hs.finite
            · have h1 := ht.realOf_le (hfb j hj h) hj
              have h2 := Num.realOf_le_of_orderKey_le hxr (ht.ranked b hb) hxb.le
              rw [hc] at h1 h2
              cases c with
              | false => exact absurd hjs.realOf_lt_inf.2 h1.not_gt
              | true => exact absurd hx.realOf_lt_inf.1 h2.not_gt
        exact ht.nearest_of_two hxr hne ha hax hla hb hxb hfb (Num.dist_lt_iff hx (ht.ranked a ha) (ht.ranked b hb) hfin)
          (Num.dist_lt_iff hx (ht.ranked b hb) (ht.ranked a ha) hfin.symm)
      | none => exact ht.nearest_of_last hxr hne ha hax hla (hnofirst hr)
    | none =>
      cases hr : firstPos (x.orderKey < ·) t.keys 0 with
      | some b =>
        obtain ⟨hb, hxb, hfb⟩ := hfirst hr
        exact ht.nearest_of_first hxr hne hb hxb hfb (hnolast hl)
      | none =>
        obtain ⟨j, hj, -⟩ := ht.finite
        exact absurd ((not_lt.1 (hnofirst hr j hj)).antisymm (not_lt.1 (hnolast hl j hj))) (hne j hj)

/-- A value within the finite ones of the table goes to itself, where it is listed, and else to the nearest position. -/
theorem Image.Ordered.encodesTo_inner (hx : x.Ranked) (inf : Bool) (hlo : realOf (codeVal t t.bot) ≤ realOf x)
    (hhi : realOf x ≤ realOf (codeVal t t.top)) : encodesTo t x inf (t.innerPos x) := by
  have hsmall : x.Small := by
    obtain hs | ⟨b, rfl⟩ := hx
    · exact hs
    · cases b with
      | false => exact absurd (ht.small ht.top_spec.1 ht.top_spec.2.1).realOf_lt_inf.2 hhi.not_gt
      | true => exact absurd (ht.small ht.bot_spec.1 ht.bot_spec.2.1).realOf_lt_inf.1 hlo.not_gt
  have hsame (j : Nat) (hj : j < t.list.length) : (codeVal t j).orderKey = x.orderKey ↔
      ¬ before (codeVal t j) x ∧ ¬ before x (codeVal t j) := Num.orderKey_eq_iff (ht.ranked j hj) hx
  have hkey {i j : Nat} (hi : i < t.list.length) (hj : j < t.list.length) : before (codeVal t i) (codeVal t j) ↔
      (codeVal t i).orderKey < (codeVal t j).orderKey := (Num.orderKey_lt_iff (ht.ranked i hi) (ht.ranked j hj)).symm
  have hkeyx {j : Nat} (hj : j < t.list.length) : before (codeVal t j) x ↔ (codeVal t j).orderKey < x.orderKey :=
    (Num.orderKey_lt_iff (ht.ranked j hj) hx).symm
  have hxkey {j : Nat} (hj : j < t.list.length) : before x (codeVal t j) ↔ x.orderKey < (codeVal t j).orderKey :=
    (Num.orderKey_lt_iff hx (ht.ranked j hj)).symm
  have hout1 : ¬ ∀ j < t.list.length, Claims.finite (codeVal t j) → realOf (codeVal t j) < realOf x := fun h =>
    (ht.below_all_iff.1 h).not_ge hhi
  have hout2 : ¬ ∀ j < t.list.length, Claims.finite (codeVal t j) → realOf x < realOf (codeVal t j) := fun h =>
    (ht.above_all_iff.1 h).not_ge hlo
  by_cases h : ∃ j < t.list.length, (codeVal t j).orderKey = x.orderKey
  · obtain ⟨hlen, heq⟩ := Image.innerPos_same h
    refine ⟨hlen, fun hall => absurd hall hout1, fun hall => absurd hall hout2, fun _ _ => ⟨fun _ => (hsame _ hlen).1 heq, fun hno => ?_⟩⟩
    exact absurd ((hsame _ hlen).1 heq) (hno _ hlen)
  · have hn := ht.innerPos_nearest hsmall fun j hj hj' => h ⟨j, hj, hj'⟩
    refine ⟨hn.lt, fun hall => absurd hall hout1, fun hall => absurd hall hout2,
      fun _ _ => ⟨fun ⟨j, hj, hj'⟩ => ?_, fun _ => ⟨fun j hj => ?_, hn.nearest, hn.even⟩⟩⟩
    · exact absurd ⟨j, hj, (hsame j hj).2 hj'⟩ h
    · rw [hkey hn.lt hj, hkeyx hj, hxkey hj, hkey hj hn.lt]
      obtain ⟨hkx, hlast⟩ | ⟨hxk, hfirst⟩ := hn.beside
      · refine ⟨fun hb => hb.1.not_ge (ht.key_le (hlast j hj hb.2) hn.lt), fun hb => ?_⟩
        exact (hkx.trans (hb.1.trans hb.2)).false
      · refine ⟨fun hb => ?_, fun hb => hb.2.not_ge (ht.key_le (hfirst j hj hb.1) hj)⟩
        exact (hxk.trans (hb.1.trans hb.2)).false

end Within

end Sys2Proof.Machine

namespace Sys2Proof.Claims
open Sys2Proof.Machine

theorem not_beq_iff {inf : Bool} (hinf : inf = true) {x y : Machine.Num} : (!(x == y)) = true ↔ ¬ (inf = true ∧ y = x) := by
  rw [Bool.not_eq_true', beq_eq_false_iff_ne, and_iff_right hinf]
  exact not_congr eq_comm

/-- The position and the overflow are what R284 asks for. -/
theorem encodePos_spec {t : Image} (ht : t.Ordered) {x : Machine.Num} (hx : x.Ranked) (inf : Bool) :
    encodesTo t x inf (t.encodePos x inf).1 ∧ ((t.encodePos x inf).2 = true ↔
      ((∀ j < t.list.length, finite (codeVal t j) → realOf (codeVal t j) < realOf x) ∨
        ∀ j < t.list.length, finite (codeVal t j) → realOf x < realOf (codeVal t j)) ∧
      ¬ (inf = true ∧ codeVal t (t.encodePos x inf).1 = x)) := by
  obtain ⟨htlen, htfin, htpast⟩ := ht.top_spec
  obtain ⟨hblen, hbfin, hbbefore⟩ := ht.bot_spec
  rw [ht.below_all_iff, ht.above_all_iff, Image.encodePos]
  by_cases habove : realOf (codeVal t t.top) < realOf x
  · rw [if_pos ((ht.top_lt_iff hx).2 habove)]
    refine ⟨ht.encodesTo_above inf habove, ?_⟩
    rw [and_iff_right (Or.inl habove)]
    by_cases he : inf = true ∧ t.top + 1 < t.list.length
    · have hends : (inf && decide (t.top + 1 < t.list.length)) = true := by simpa using he
      rw [hends, if_pos rfl, htpast _ (Nat.lt_succ_self _) he.2, Bool.true_and]
      exact not_beq_iff he.1
    · have hne : codeVal t t.top ≠ x := fun h => habove.ne (congrArg realOf h)
      have hends : (inf && decide (t.top + 1 < t.list.length)) = false := by simpa using he
      simp [hends, hne]
  · rw [if_neg (mt (ht.top_lt_iff hx).1 habove)]
    by_cases hbelow : realOf x < realOf (codeVal t t.bot)
    · rw [if_pos ((ht.lt_bot_iff hx).2 hbelow)]
      refine ⟨ht.encodesTo_below inf hbelow, ?_⟩
      rw [and_iff_right (Or.inr hbelow)]
      by_cases he : inf = true ∧ 0 < t.bot
      · have hends : (inf && decide (0 < t.bot)) = true := by simpa using he
        rw [hends, if_pos rfl, hbbefore (t.bot - 1) (by omega), Bool.true_and]
        exact not_beq_iff he.1
      · have hne : codeVal t t.bot ≠ x := fun h => hbelow.ne' (congrArg realOf h)
        have hends : (inf && decide (0 < t.bot)) = false := by simpa using he
        simp [hends, hne]
    · rw [if_neg (mt (ht.lt_bot_iff hx).1 hbelow)]
      refine ⟨ht.encodesTo_inner hx inf (not_lt.1 hbelow) (not_lt.1 habove), iff_of_false Bool.false_ne_true fun h => ?_⟩
      exact h.1.elim habove hbelow

theorem code_flags (o i : Bool) : (indIf o indOverflow ||| indIf i indInexact) &&& indInexact ≠ 0 ↔ i = true := by
  cases o <;> cases i <;> decide

theorem code_overflow (o i : Bool) : (indIf o indOverflow ||| indIf i indInexact) &&& indOverflow ≠ 0 ↔ o = true := by
  cases o <;> cases i <;> decide

theorem code_other (o i : Bool) : (indIf o indOverflow ||| indIf i indInexact) &&& ~~~(indInexact ||| indOverflow) = 0 := by
  cases o <;> cases i <;> decide

theorem encodeChooses : EncodeChooses := by
  intro t p inf hok x n
  have ht := Image.ok_ordered hok
  refine ⟨fun sg hx => by rw [hx]; rfl, fun hx => ?_⟩
  have hfp32 : fp32.Ok := fmtOf_ok .f32
  have hrank : x.Ranked := fp32.ranked_num hfp32 (by decide) (by decide) ((fp32.isNaN_eq_false_iff _).2 hx)
  obtain ⟨hto, hover⟩ := encodePos_spec ht hrank inf
  refine ⟨_, _, hto, t.encode_eq hx inf, ?_, ?_, code_other _ _⟩
  · rw [code_flags, decide_eq_true_eq]
    exact not_congr (Num.scaled_eq_iff (ht.ranked _ hto.1) hrank)
  · rw [code_overflow]
    exact hover

/-- Settles O8: codes are read and put at their places bit by bit; the integer keys of a table order its values as R281 does, and
the positions that encoding finds by them are the ones that R284 asks for. -/
theorem tableCodes : Obligations.TableCodes := ⟨decodeCodes, encodeCodes, encodeChooses⟩

end Sys2Proof.Claims
end

section
/-! SUPPORT. The memory words as they are issued (07_memory_instructions.md): the groups of an access (R131), plain loads and `regset`
(R98, R129 to R134), stores (R133 to R135), atomics (R137), and stamped accesses (R12, R13, R139, R140). -/
set_option Elab.async false
namespace Sys2Proof.Machine
open Sys2Proof.Claims

/-! ### The groups of an access (R131) -/

theorem blockOf_eq_iff (a b : Nat) : blockOf a = blockOf b ↔ a / 256 = b / 256 := by
  unfold blockOf
  omega

/-- The first element of a group lies in the block of an address. -/
def InBlock (g : List Elem) (a : Nat) : Prop := ∃ x, g.head? = some x ∧ x.paddr / 256 = a / 256

theorem inBlock_iff_test (g : List Elem) (e : Elem) :
    (g.head?.map fun x => blockOf x.paddr) = some (blockOf e.paddr) ↔ InBlock g e.paddr := by
  simp only [Option.map_eq_some_iff, blockOf_eq_iff, InBlock]

theorem groupPa_of_head {g : List Elem} {x : Elem} (h : g.head? = some x) : groupPa g = x.paddr := by
  simp only [groupPa, h, Option.map_some, Option.getD_some]

theorem inBlock_iff {g : List Elem} (hne : g ≠ []) (a : Nat) : InBlock g a ↔ groupPa g / 256 = a / 256 := by
  obtain ⟨x, r, rfl⟩ := List.exists_cons_of_ne_nil hne
  simp [InBlock, groupPa]

/-- An element begins a group of its own after the others, or joins the group of its block. -/
theorem addGroup_cases (e : Elem) (gs : List (List Elem)) :
    ((∀ g ∈ gs, ¬ InBlock g e.paddr) ∧ addGroup e gs = gs ++ [[e]]) ∨
    ∃ pre g post, gs = pre ++ g :: post ∧ InBlock g e.paddr ∧ addGroup e gs = pre ++ (g ++ [e]) :: post := by
  induction gs with
  | nil => exact .inl ⟨by simp, rfl⟩
  | cons g r ih =>
    by_cases hg : InBlock g e.paddr
    · exact .inr ⟨[], g, r, rfl, hg, by rw [addGroup, if_pos ((inBlock_iff_test g e).2 hg), List.nil_append]⟩
    · have hadd : addGroup e (g :: r) = g :: addGroup e r := by rw [addGroup, if_neg (mt (inBlock_iff_test g e).1 hg)]
      obtain ⟨hnone, hr⟩ | ⟨pre, g', post, rfl, hin, hr⟩ := ih
      · exact .inl ⟨List.forall_mem_cons.2 ⟨hg, hnone⟩, by rw [hadd, hr, List.cons_append]⟩
      · exact .inr ⟨g :: pre, g', post, rfl, hin, by rw [hadd, hr, List.cons_append]⟩

theorem groupsOf_concat (es : List Elem) (e : Elem) : groupsOf (es ++ [e]) = addGroup e (groupsOf es) := List.foldl_concat ..

/-- What R131 asks of the groups of an access. -/
structure IsGrouping (es : List Elem) (gs : List (List Elem)) : Prop where
  perm : gs.flatten.Perm es
  group : ∀ g ∈ gs, g ≠ [] ∧ g.Sublist es ∧ ∀ e ∈ g, e.paddr / 256 = groupPa g / 256
  apart : gs.Pairwise fun g h => groupPa g / 256 ≠ groupPa h / 256
  firsts : (gs.filterMap List.head?).Sublist es

section Grouping
variable {es : List Elem} {gs : List (List Elem)} (h : IsGrouping es gs) (e : Elem)
include h

/-- A group of the elements before is one of the elements with another after them. -/
theorem IsGrouping.group_concat {g : List Elem} (hg : g ∈ gs) :
    g ≠ [] ∧ g.Sublist (es ++ [e]) ∧ ∀ x ∈ g, x.paddr / 256 = groupPa g / 256 := by
  obtain ⟨hne, hsub, hblock⟩ := h.group g hg
  exact ⟨hne, hsub.trans (List.sublist_append_left ..), hblock⟩

theorem IsGrouping.beginGroup (hnone : ∀ g ∈ gs, ¬ InBlock g e.paddr) : IsGrouping (es ++ [e]) (gs ++ [[e]]) where
  perm := by simpa using h.perm.append_right [e]
  group := by
    rw [List.forall_mem_append, List.forall_mem_singleton]
    exact ⟨fun g hg => h.group_concat e hg, by simp, List.sublist_append_right .., by simp [groupPa]⟩
  apart := by
    refine List.pairwise_append.2 ⟨h.apart, List.pairwise_singleton .., fun g hg g' hg' => ?_⟩
    obtain rfl := List.mem_singleton.1 hg'
    exact mt (inBlock_iff (h.group g hg).1 e.paddr).2 (hnone g hg)
  firsts := by simpa using h.firsts

end Grouping

theorem IsGrouping.joinGroup {es pre post g} (h : IsGrouping es (pre ++ g :: post)) (e : Elem) (hin : InBlock g e.paddr) :
    IsGrouping (es ++ [e]) (pre ++ (g ++ [e]) :: post) := by
  obtain ⟨x, hx, hblock⟩ := hin
  have hhead : (g ++ [e]).head? = some x := by simp [hx]
  have hpa : groupPa (g ++ [e]) = groupPa g := by rw [groupPa_of_head hhead, groupPa_of_head hx]
  refine ⟨?perm, ?group, ?apart, ?firsts⟩
  case perm =>
    have hmove : (pre.flatten ++ (g ++ [e] ++ post.flatten)).Perm (pre.flatten ++ (g ++ post.flatten) ++ [e]) := by
      rw [List.append_assoc, List.append_assoc, List.append_assoc]
      exact (List.perm_append_comm.append_left g).append_left _
    simpa using hmove.trans (by simpa using h.perm.append_right [e])
  case group =>
    intro g' hg'
    rw [List.mem_append, List.mem_cons] at hg'
    obtain hg' | rfl | hg' := hg'
    · exact h.group_concat e (List.mem_append_left _ hg')
    · obtain ⟨_, hsub, hall⟩ := h.group g (by simp)
      refine ⟨by simp, hsub.append (List.Sublist.refl _), ?_⟩
      rw [hpa, List.forall_mem_append, List.forall_mem_singleton]
      exact ⟨hall, by rw [groupPa_of_head hx, hblock]⟩
    · exact h.group_concat e (by simp [hg'])
  case apart => simpa only [List.pairwise_append, List.pairwise_cons, List.forall_mem_cons, hpa] using h.apart
  case firsts =>
    have hsame : (pre ++ (g ++ [e]) :: post).filterMap List.head? = (pre ++ g :: post).filterMap List.head? := by
      simp [List.filterMap_append, hx]
    exact hsame ▸ h.firsts.trans (List.sublist_append_left ..)

theorem groupsOf_isGrouping (es : List Elem) : IsGrouping es (groupsOf es) := by
  induction es using List.reverseRecOn with
  | nil => exact ⟨.refl _, by simp [groupsOf], .nil, .slnil⟩
  | append_singleton es e ih =>
    rw [groupsOf_concat]
    obtain ⟨hnone, hadd⟩ | ⟨pre, g, post, hgs, hin, hadd⟩ := addGroup_cases e (groupsOf es)
    · rw [hadd]
      exact ih.beginGroup e hnone
    · rw [hadd]
      exact (hgs ▸ ih).joinGroup e hin

/-! ### Addresses and values (R4, R13, R127) -/

theorem plus_eq_add (t : Thread) (sa : BitVec 5) (off : Int) : plus t sa off = t.readS sa + BitVec.ofInt 64 off := by
  simp [plus, uA, BitVec.ofInt_add]

theorem plus_add (t : Thread) (sa : BitVec 5) (a b : Int) : plus t sa (a + b) = plus t sa a + BitVec.ofInt 64 b := by
  rw [plus_eq_add, plus_eq_add, BitVec.ofInt_add, BitVec.add_assoc]

/-- A register and a sign-extended field. -/
theorem readS_add_sx {n : Nat} (t : Thread) (sa : BitVec 5) (off : BitVec n) : t.readS sa + sx off = plus t sa off.toInt :=
  (plus_eq_add t sa off.toInt).symm

theorem ofInt_natCast_eq_w64 (n : Nat) : BitVec.ofInt 64 n = w64 n := BitVec.ofInt_natCast ..

section LaneAddresses
variable (t : Thread) (sa : BitVec 5) (off : BitVec 15)

theorem unitAddr_eq : unitAddr (t.vAddr sa off) = fun j : Nat => plus t sa (off.toInt + 4 * j) := by
  funext j
  rw [plus_add, ← readS_add_sx, unitAddr, ← ofInt_natCast_eq_w64, Nat.cast_mul]
  rfl

theorem strideAddr_eq (sx : BitVec 5) :
    strideAddr (t.vAddr sa off) (t.readS sx) = fun j : Nat => plus t sa (off.toInt + j * sA t sx) := by
  funext j
  rw [plus_add, ← readS_add_sx, strideAddr, BitVec.ofInt_mul, ofInt_natCast_eq_w64, sA, BitVec.ofInt_toInt]
  rfl

theorem indexAddr_eq (vb : VReg) :
    indexAddr (t.vAddr sa off) vb = fun j => plus t sa (off.toInt + (lane vb j).toInt) := by
  funext j
  rw [plus_add, ← readS_add_sx]
  rfl

end LaneAddresses

theorem laneAddrs_eq (t : Thread) (pm : BitVec 3) (f : Nat → Word) : laneAddrs (t.readP pm) f = perLane t pm f := by
  unfold laneAddrs activeLanes perLane laneIdx
  induction List.range 64 with
  | nil => rfl
  | cons j l ih => by_cases hj : (t.readP pm).getLsbD j = true <;> simp [hj, ih]

theorem esizeBytes_eq (z : ESize) : esizeBytes z = eBytes z := by cases z <;> rfl

theorem lane_mod (v : VReg) : (fun j => (lane v j).toNat % 2 ^ (8 * 4)) = fun j => (lane v j).toNat :=
  funext fun j => Nat.mod_eq_of_lt (lane v j).isLt

theorem Thread.stampArg_eq (t : Thread) (r : BitVec 5) :
    t.stampArg r = BitVec.ofNat 32 (if r = 0 then t.sys.iter.toNat else uA t r) := by
  unfold Thread.stampArg
  split <;> rfl

theorem bytesOf_eq_map (n x : Nat) : bytesOf n x = (List.range n).map fun k => BitVec.ofNat 8 (x / 2 ^ (8 * k)) := by
  induction n generalizing x with
  | zero => rfl
  | succ n ih =>
    have hbyte (k : Nat) : x / 256 / 2 ^ (8 * k) = x / 2 ^ (8 * (k + 1)) := by
      rw [Nat.div_div_eq_div_mul, Nat.mul_succ, Nat.pow_add, Nat.mul_comm]
    rw [bytesOf, ih, List.range_succ_eq_map, List.map_cons, List.map_map]
    simp [Function.comp_def, hbyte]

theorem groupBytes_eq (f : Nat → Nat) (g : List Elem) : groupBytes f g = storedBytes f g := by
  unfold groupBytes storedBytes
  refine congrArg (g.flatMap ·) (funext fun e => ?_)
  rw [bytesOf_eq_map]
  exact List.ext_getElem (by simp) fun k _ _ => by simp

/-! ### Requests and operations as they are sent and opened (R43, R131, R151) -/

/-- The state in which requests stand at the tail of their send list, kept until they are answered, under the next number. -/
def State.sent (s : State) (p : Place) (t' : Thread) (rs : List Sent) : State :=
  { s.setThread p t' with
    nextId := s.nextId + 1
    sends := s.sends ++ rs.map fun r => r.1
    outs := s.outs ++ rs.map fun r => r.1.out r.2.1 r.2.2 }

theorem State.sent_sends (s : State) (p : Place) (t' : Thread) (rs : List Sent) : Sends s p (.next (s.sent p t' rs)) t' rs := by
  obtain ⟨-, hother, hslot, -⟩ := s.onlyThread_setThread p t'
  exact ⟨_, rfl, State.thread_setThread_same s p t', rfl, rfl, rfl, rfl, hother, hslot, rfl, fun _ => rfl⟩

theorem State.request_asksHome (s : State) (p : Place) (t : Thread) (pa : Nat) (body : ReqBody) :
    AsksHome s p t pa false body (s.request p t s.nextId pa body) :=
  ⟨rfl, rfl, rfl, rfl, rfl, rfl, rfl, rfl, rfl, rfl, rfl, rfl, rfl, rfl⟩

/-- The tag of an operation as it opens, with its destinations. -/
def operationTag (i : Issue) (n la parts : Nat) (now ordered : Bool) (vec : Option (BitVec 6 × Word)) (sds : List (BitVec 5)) : Tag :=
  { openTag i n la with
    hasV := vec.isSome, vd := (vec.map (·.1)).getD 0, lanes := (vec.map (·.2)).getD 0, sds, u := sds.map fun _ => 0, parts, now, ordered }

theorem opened_operationTag (s : State) (i : Issue) (t : Thread) (la parts : Nat) (now ordered : Bool)
    (vec : Option (BitVec 6 × Word)) (sds : List (BitVec 5)) :
    Opened s i t (t.addTag (operationTag i s.nextId la parts now ordered vec sds)) now la parts vec sds := by
  refine ⟨_, rfl, rfl, rfl, rfl, rfl, rfl, rfl, rfl, rfl, rfl, rfl, rfl, rfl, rfl, rfl, ?_⟩
  cases vec with
  | none => rfl
  | some x => exact ⟨rfl, rfl, rfl⟩

/-! ### Plain loads (R129 to R134, R232) -/

/-- The tag that a load opens, but for its groups and whether it issues again. -/
def loadFormTag (f : LoadForm) (i : Issue) (ordered : Bool) (n : Nat) : Tag := operationTag i n f.la 0 false ordered f.vec f.sds

section Load
variable {s : State} {i : Issue} {t : Thread} {e : Elem} {es : List Elem} {a : Access} {size : Nat} {las : List (Nat × Word)}

/-- The first element that fails its checks traps. -/
theorem State.plainLoad_traps (g : Nat → Tag) {pre post : List (Nat × Word)} {l : Nat} {va : Word} {c : BitVec 8}
    (hpre : List.Forall₂ (Passes s i t a size) pre es) (hfail : s.check i.place.die t.ctx a va size = .fail c) :
    s.plainLoad i t a size (pre ++ (l, va) :: post) g = s.precise i t c va :=
  State.plainLoad_of_fail g (State.checkElems_of_fail hpre hfail)

/-- An access whose lowest element lies in another lamp die's scratchpad sends its thread there. -/
theorem State.plainLoad_migrates (h : s.current = some (i, t)) (g : Nat → Tag)
    (hall : List.Forall₂ (Passes s i t a size) las (e :: es)) (hfar : paSpace e.paddr = 1 ∧ paHome e.paddr ≠ i.place.die) :
    ∃ t', { t' with hold := t.hold, migration := t.migration } = t ∧ t'.hold = .migrate ∧
      t'.migration = some ⟨paHome e.paddr, paCore e.paddr, i.pc, t.sys.lc0, t.sys.lc1, .waiting⟩ ∧
      LandsStaying s i (.next (s.plainLoad i t a size las g)) t' := by
  rw [State.plainLoad_of_far g (State.checkElems_of_passes hall) hfar]
  refine ⟨_, ?_, ?_, ?_, landsStaying_setThread (State.current_eq_some.1 h).1 _⟩ <;> rfl

/-- Any other access opens its operation and sends one request for each group. -/
theorem State.plainLoad_opens (f : LoadForm) (ordered : Bool)
    (hall : List.Forall₂ (Passes s i t f.access f.size) f.elems (e :: es))
    (hnear : ¬ (paSpace e.paddr = 1 ∧ paHome e.paddr ≠ i.place.die)) :
    ∃ (t' : Thread) (rs : List (List Elem × Req)),
      Sends s i.place (.next (s.plainLoad i t f.access f.size f.elems (loadFormTag f i ordered))) t'
        (rs.map fun r => (r.2, .load, groupAddr r.1)) ∧
      Opened s i t t' (decide (t.reissue = some i.pc)) f.la (groupsOf (e :: es)).length f.vec f.sds ∧
      rs.map (·.1) = groupsOf (e :: es) ∧ ∀ r ∈ rs, AsksHome s i.place t (groupPa r.1) ordered (.load r.1) r.2 := by
  rw [State.plainLoad_of_near _ (State.checkElems_of_passes hall) hnear]
  refine ⟨_, _, s.openLoad_sends i t (loadFormTag f i ordered) (e :: es), ?opened, ?groups, ?requests⟩
  case opened =>
    rw [← beq_eq_decide]
    exact opened_operationTag s i t f.la (groupsOf (e :: es)).length (t.reissue == some i.pc) ordered f.vec f.sds
  case groups =>
    simp only [State.loadSends, List.map_map]
    exact List.map_id _
  case requests =>
    intro r hr
    obtain ⟨e', -, rfl⟩ := List.mem_map.1 hr
    exact s.loadReq_asksHome i t ordered e'

end Load

/-- The loads are all one operation on their forms. -/
theorem exec_loadForm {s : State} {i : Issue} {t : Thread} {ins : Instr} {f : LoadForm} (h : s.current = some (i, t))
    (hform : loadForm t ins = some f) :
    exec ins s = .next (s.plainLoad i t f.access f.size f.elems (loadFormTag f i false)) := by
  unfold loadForm at hform
  split at hform <;> cases hform
  case h_1 sd sa la w4 imm => exact readS_add_sx t sa imm ▸ State.word_of_current h _
  case h_2 s1 sd la off => exact readS_add_sx t s1 off ▸ State.word_of_current h _
  case h_3 vd sa pm la off => exact unitAddr_eq t sa off ▸ laneAddrs_eq t pm _ ▸ State.word_of_current h _
  case h_4 vd sa sx pm la z off =>
    exact esizeBytes_eq z ▸ strideAddr_eq t sa off sx ▸ laneAddrs_eq t pm _ ▸ State.word_of_current h _
  case h_5 vd sa vb pm la z off =>
    exact esizeBytes_eq z ▸ indexAddr_eq t sa off (t.readV vb) ▸ laneAddrs_eq t pm _ ▸ State.word_of_current h _

/-! ### `regset` (R98) -/

section RegisterSet
variable {mask : BitVec 32}

theorem maskRegs_eq (h0 : mask.getLsbD 0 = false) : maskRegs mask = (List.range 32).filter fun k => mask.getLsbD k := by
  refine List.filter_congr fun k _ => ?_
  obtain rfl | hk := eq_or_ne k 0
  · rw [h0, Bool.and_false]
  · simp [hk]

theorem maskRegs_isEmpty (h0 : mask.getLsbD 0 = false) : (maskRegs mask).isEmpty = true ↔ mask = 0 := by
  rw [maskRegs_eq h0, List.isEmpty_iff, List.filter_eq_nil_iff]
  refine ⟨fun h => BitVec.eq_of_getLsbD_eq fun k hk => ?_, fun h => by simp [h]⟩
  simpa using h k (List.mem_range.2 hk)

/-- The form of a `regset` that loads the registers `rs`. -/
def regsetForm (t : Thread) (sa : BitVec 5) (rs : List Nat) : LoadForm where
  access := .load
  size := 8
  la := 0
  elems := (List.range rs.length).map fun k => (k, plus t sa (8 * rs.getD k 0))
  vec := none
  sds := rs.map (BitVec.ofNat 5)

theorem regset_elems (t : Thread) (sa : BitVec 5) (rs : List Nat) :
    (rs.mapIdx fun k j => (k, t.readS sa + w64 (8 * j))) = (regsetForm t sa rs).elems := by
  refine List.ext_getElem (by simp [regsetForm]) fun k hk _ => ?_
  have hlt : k < rs.length := by simpa using hk
  simp [regsetForm, hlt, plus_eq_add, ← ofInt_natCast_eq_w64]

/-- The tag that a `regset` opens. -/
theorem regset_tag (i : Issue) (t : Thread) (sa : BitVec 5) (rs : List Nat) : loadFormTag (regsetForm t sa rs) i true = fun n =>
    { openTag i n 0 with sds := rs.map (BitVec.ofNat 5), u := rs.map fun _ => 0, ordered := true } := by
  simp only [funext_iff, loadFormTag, operationTag, regsetForm, List.map_map]
  exact fun _ => rfl

variable {s : State} {i : Issue} {t : Thread} (h : s.current = some (i, t)) (sa : BitVec 5) (h0 : mask.getLsbD 0 = false)
include h h0

theorem exec_regset_empty (hm : mask = 0) : exec (.regset sa mask) s = .next s := by
  refine (State.word_of_current h _).trans (congrArg _ ?_)
  exact if_pos ((maskRegs_isEmpty h0).2 hm)

theorem exec_regset_misaligned (hm : mask ≠ 0) (hbase : uA t sa % 8 ≠ 0) :
    exec (.regset sa mask) s = .next (s.precise i t causeAlign (t.readS sa)) := by
  refine (State.word_of_current h _).trans (congrArg _ ?_)
  exact (if_neg (mt (maskRegs_isEmpty h0).1 hm)).trans (if_pos hbase)

theorem exec_regset_aligned (hm : mask ≠ 0) (hbase : uA t sa % 8 = 0) :
    let f := regsetForm t sa ((List.range 32).filter fun k => mask.getLsbD k)
    exec (.regset sa mask) s = .next (s.plainLoad i t f.access f.size f.elems (loadFormTag f i true)) := by
  refine (State.word_of_current h _).trans (congrArg _ ?_)
  refine ((if_neg (mt (maskRegs_isEmpty h0).1 hm)).trans (if_neg (not_not.2 hbase))).trans ?_
  rw [regset_elems, maskRegs_eq h0, regset_tag]
  rfl

end RegisterSet

end Sys2Proof.Machine

namespace Sys2Proof.Claims
open Sys2Proof.Machine

theorem groupsPartition : GroupsPartition := fun es =>
  have h := groupsOf_isGrouping es
  ⟨h.perm, h.group, h.apart, h.firsts⟩

theorem loadsIssue : LoadsIssue := by
  intro s i t ins f h hform
  rw [exec_loadForm h hform]
  refine ⟨fun hnone => ?_, fun pre l va post c es helems hpre hfail => ?_, fun e es hall => ⟨fun hfar => ?_, fun hnear => ?_⟩⟩
  · rw [hnone]
    rfl
  · rw [helems, State.plainLoad_traps _ hpre hfail]
  · exact State.plainLoad_migrates h _ hall hfar
  · exact State.plainLoad_opens f false hall hnear

theorem registerSetIssue : RegisterSetIssue := by
  intro s i t sa mask h h0
  refine ⟨exec_regset_empty h sa h0, exec_regset_misaligned h sa h0, fun hm hbase => ?_⟩
  rw [exec_regset_aligned h sa h0 hm hbase]
  refine ⟨fun pre l va post c es helems hpre hfail => ?_, fun e es hall hspace hhome => ?_, fun e es hall hnear => ?_⟩
  · exact congrArg _ ((congrArg (s.plainLoad i t .load 8 · _) helems).trans (State.plainLoad_traps _ hpre hfail))
  · exact State.plainLoad_migrates h _ hall ⟨hspace, hhome⟩
  · exact State.plainLoad_opens (regsetForm t sa _) true hall hnear

/-- Settles O17: the groups by adding the elements one after another; every load, and `regset`, by its form, which the one plain load
checks, migrates or opens. -/
theorem plainLoads : Obligations.PlainLoads := ⟨groupsPartition, loadsIssue, registerSetIssue⟩

end Sys2Proof.Claims

namespace Sys2Proof.Machine
open Sys2Proof.Claims

/-! ### Plain stores (R129, R131, R133 to R135, R232) -/

theorem State.foldl_addReq_classes {α : Type} (r : α → Req) (c : α → OutClass) (va : α → Word) (l : List α) (s : State) :
    l.foldl (fun x a => x.addReq (r a) (c a) (va a)) s =
      { s with sends := s.sends ++ l.map r, outs := s.outs ++ l.map fun a => (r a).out (c a) (va a) } := by
  induction l generalizing s with
  | nil => simp
  | cons a l ih =>
    rw [List.foldl_cons, ih]
    simp [State.addReq]

theorem storeClass_eq (p : Place) (pa : Nat) : storeClass p pa =
    if paSpace pa = 1 ∧ (paHome pa, paCore pa) ≠ (p.die, p.core) then OutClass.remoteStore else OutClass.store := by
  simp [storeClass, imp_iff_not_or]

section Store
variable {s : State} {i : Issue} {t : Thread} {es : List Elem} {a : Access} {size : Nat} {las : List (Nat × Word)}

theorem State.plainStore_traps (f : Nat → Nat) {pre post : List (Nat × Word)} {l : Nat} {va : Word} {c : BitVec 8}
    (hpre : List.Forall₂ (Passes s i t a size) pre es) (hfail : s.check i.place.die t.ctx a va size = .fail c) :
    s.plainStore i t a size (pre ++ (l, va) :: post) f = s.precise i t c va := by
  simp only [State.plainStore, State.checkElems_of_fail hpre hfail]

/-- What a store sends: one request for each group of its elements, with the bytes to store. -/
def State.storeSends (s : State) (i : Issue) (t : Thread) (f : Nat → Nat) (es : List Elem) : List (List Elem × Req) :=
  (groupsOf es).map fun g => (g, s.request i.place t s.nextId (groupPa g) (.store (groupAddr g) (storedBytes f g)))

theorem State.plainStore_eq_sent (h : s.current = some (i, t)) (f : Nat → Nat) (hall : List.Forall₂ (Passes s i t a size) las es) :
    s.plainStore i t a size las f = s.sent i.place t ((s.storeSends i t f es).map fun r => (r.2,
      if paSpace (groupPa r.1) = 1 ∧ (paHome (groupPa r.1), paCore (groupPa r.1)) ≠ (i.place.die, i.place.core) then
        OutClass.remoteStore else OutClass.store, groupAddr r.1)) := by
  simp only [State.plainStore, State.checkElems_of_passes hall, State.foldl_addReq_classes, State.sent,
    State.setThread_self (State.current_eq_some.1 h).2, State.storeSends, List.map_map, storeClass_eq, groupBytes_eq]
  rfl

/-- A store whose elements all pass sends its requests and changes nothing of its thread. -/
theorem State.plainStore_sends (h : s.current = some (i, t)) (f : Nat → Nat) (hall : List.Forall₂ (Passes s i t a size) las es) :
    ∃ rs : List (List Elem × Req), Sends s i.place (.next (s.plainStore i t a size las f)) t (rs.map fun r => (r.2,
        if paSpace (groupPa r.1) = 1 ∧ (paHome (groupPa r.1), paCore (groupPa r.1)) ≠ (i.place.die, i.place.core) then
          OutClass.remoteStore else OutClass.store, groupAddr r.1)) ∧
      rs.map (·.1) = groupsOf es ∧
      ∀ r ∈ rs, AsksHome s i.place t (groupPa r.1) false (.store (groupAddr r.1) (storedBytes f r.1)) r.2 := by
  rw [State.plainStore_eq_sent h f hall]
  refine ⟨_, s.sent_sends i.place t _, ?groups, ?requests⟩
  case groups =>
    simp only [State.storeSends, List.map_map]
    exact List.map_id _
  case requests =>
    intro r hr
    obtain ⟨g, -, rfl⟩ := List.mem_map.1 hr
    exact s.request_asksHome i.place t _ _

end Store

/-- The stores are all one operation on their forms. -/
theorem exec_storeForm {s : State} {i : Issue} {t : Thread} {ins : Instr} {f : StoreForm} (h : s.current = some (i, t))
    (hform : storeForm t ins = some f) : exec ins s = .next (s.plainStore i t f.access f.size f.elems f.value) := by
  unfold storeForm at hform
  split at hform <;> cases hform
  case h_1 sa sb w4 imm => exact readS_add_sx t sa imm ▸ State.word_of_current h _
  case h_2 s1 s2 off => exact readS_add_sx t s1 off ▸ State.word_of_current h _
  case h_3 vd sa pm off =>
    exact lane_mod (t.readV vd) ▸ unitAddr_eq t sa off ▸ laneAddrs_eq t pm _ ▸ State.word_of_current h _
  case h_4 vd sa sx pm z off =>
    exact esizeBytes_eq z ▸ strideAddr_eq t sa off sx ▸ laneAddrs_eq t pm _ ▸ State.word_of_current h _
  case h_5 vd sa vb pm z off =>
    exact esizeBytes_eq z ▸ indexAddr_eq t sa off (t.readV vb) ▸ laneAddrs_eq t pm _ ▸ State.word_of_current h _

/-! ### Atomics (R137) -/

section Atomic
variable {s : State} {i : Issue} {t : Thread} (op : AtomicOp) (sd sa sb : BitVec 5) (la : BitVec 4) (w4 : Bool) (imm : BitVec 32)

theorem State.atomic_of_fail {c : BitVec 8}
    (hfail : s.check i.place.die t.ctx .atomic (plus t sa imm.toInt) (uBytes w4) = .fail c) :
    s.atomic i t op sd sa sb la w4 imm = s.precise i t c (plus t sa imm.toInt) := by
  rw [← readS_add_sx] at hfail ⊢
  have hcheck : s.check i.place.die t.ctx .atomic (t.uAddr sa imm) (uSize w4) = .fail c := hfail
  simp only [State.atomic, hcheck]
  rfl

theorem State.atomic_of_ok {pa : Nat} {leaf : Word}
    (hok : s.check i.place.die t.ctx .atomic (plus t sa imm.toInt) (uBytes w4) = .ok pa leaf) :
    s.atomic i t op sd sa sb la w4 imm =
      s.sent i.place (t.addTag (operationTag i s.nextId la.toNat 1 false false none [sd]))
        [(s.request i.place t s.nextId pa (.atomic op (uBytes w4) (plus t sa imm.toInt) pa
          (BitVec.ofNat 64 (uA t sb % 2 ^ (8 * uBytes w4))) (BitVec.ofNat 64 (uA t sd % 2 ^ (8 * uBytes w4)))),
          .atomic, plus t sa imm.toInt)] := by
  rw [← readS_add_sx] at hok ⊢
  have hcheck : s.check i.place.die t.ctx .atomic (t.uAddr sa imm) (uSize w4) = .ok pa leaf := hok
  simp only [State.atomic, hcheck]
  rfl

end Atomic

/-- The atomics are all one operation. -/
theorem exec_atomicForm {s : State} {i : Issue} {t : Thread} {ins : Instr} {op : AtomicOp} {sd sa sb : BitVec 5} {la size : Nat}
    {off : Int} (h : s.current = some (i, t)) (hform : atomicForm ins = some (op, sd, sa, sb, la, size, off)) :
    ∃ (n : BitVec 4) (w4 : Bool) (imm : BitVec 32), la = n.toNat ∧ size = uBytes w4 ∧ off = imm.toInt ∧
      exec ins s = .next (s.atomic i t op sd sa sb n w4 imm) := by
  unfold atomicForm at hform
  split at hform <;> cases hform <;> exact ⟨_, _, _, rfl, rfl, rfl, State.word_of_current h _⟩

/-! ### Stamped accesses (R12, R13, R139, R140) -/

section StampedLoad
variable {s : State} {i : Issue} {t : Thread} (h : s.current = some (i, t))
include h

section Lda
variable (vd : BitVec 6) (sa sx sy : BitVec 5) (la : BitVec 4) (wait : Bool) (lag : BitVec 8)

theorem exec_lda_of_fail {c : BitVec 8} (hfail : s.check i.place.die t.ctx .stampedLoad (t.readS sa) 256 = .fail c) :
    exec (.lda vd sa sx sy la wait lag) s = .next (s.precise i t c (t.readS sa)) := by
  refine (State.word_of_current h _).trans ?_
  simp only [hfail]

/-- The tag that an `lda` opens. -/
def ldaTag (i : Issue) (t : Thread) (n : Nat) : Tag :=
  { operationTag i n la.toNat 1 false false (some (vd, BitVec.allOnes 64)) [sy] with
    isLda := true, addr := t.readS sa, iter := BitVec.ofNat 32 (uA t sx), lag, wait }

theorem exec_lda_of_ok {pa : Nat} {leaf : Word} (hok : s.check i.place.die t.ctx .stampedLoad (t.readS sa) 256 = .ok pa leaf) :
    exec (.lda vd sa sx sy la wait lag) s = .next (s.sent i.place (t.addTag (ldaTag vd sa sx sy la wait lag i t s.nextId))
      [(s.request i.place t s.nextId pa (.lda (t.readS sa) pa (BitVec.ofNat 32 (uA t sx)) lag wait), .lda, t.readS sa)]) := by
  refine (State.word_of_current h _).trans ?_
  simp only [hok]
  rfl

end Lda

section Ldas
variable (sa sy : BitVec 5) (la : BitVec 4)

theorem exec_ldas_of_fail {c : BitVec 8} (hfail : s.check i.place.die t.ctx .stampedLoad (t.readS sa) 256 = .fail c) :
    exec (.ldas sa sy la) s = .next (s.precise i t c (t.readS sa)) := by
  refine (State.word_of_current h _).trans ?_
  simp only [hfail]

theorem exec_ldas_of_ok {pa : Nat} {leaf : Word} (hok : s.check i.place.die t.ctx .stampedLoad (t.readS sa) 256 = .ok pa leaf) :
    exec (.ldas sa sy la) s = .next (s.sent i.place (t.addTag (operationTag i s.nextId la.toNat 1 false false none [sy]))
      [(s.request i.place t s.nextId pa (.ldas (t.readS sa) pa), .ldas, t.readS sa)]) := by
  refine (State.word_of_current h _).trans ?_
  simp only [hok]
  rfl

end Ldas

theorem exec_sta (vd : BitVec 6) (sa sx : BitVec 5) (off : BitVec 15) : exec (.sta vd sa sx off) s =
    .next (s.stampedStore i t (plus t sa off.toInt) fun pa => .sta (plus t sa off.toInt) pa
      (BitVec.ofNat 32 (if sx = 0 then t.sys.iter.toNat else uA t sx)) (t.readV vd)) :=
  t.stampArg_eq sx ▸ readS_add_sx t sa off ▸ State.word_of_current h _

theorem exec_stad (vd : BitVec 6) (sa sx : BitVec 5) (pm : BitVec 3) (off : BitVec 15) : exec (.stad vd sa sx pm off) s =
    .next (s.stampedStore i t (plus t sa off.toInt) fun pa => .stad (plus t sa off.toInt) pa
      (BitVec.ofNat 32 (if sx = 0 then t.sys.iter.toNat else uA t sx)) (t.readV vd) (t.readP pm)) :=
  t.stampArg_eq sx ▸ readS_add_sx t sa off ▸ State.word_of_current h _

end StampedLoad

section StampedStore
variable {s : State} {i : Issue} {t : Thread} {a : Word} (body : Nat → ReqBody)

theorem State.stampedStore_of_fail {c : BitVec 8} (hfail : s.check i.place.die t.ctx .stampedStore a 256 = .fail c) :
    s.stampedStore i t a body = s.precise i t c a := by
  simp only [State.stampedStore, hfail]

theorem State.stampedStore_of_ok {pa : Nat} {leaf : Word} (hok : s.check i.place.die t.ctx .stampedStore a 256 = .ok pa leaf) :
    s.stampedStore i t a body =
      s.sent i.place { t with stampedNow := true } [(s.request i.place t s.nextId pa (body pa), .stamped, a)] := by
  simp only [State.stampedStore, hok]
  rfl

/-- A stamped store that passes its checks marks its thread and sends its request. -/
theorem State.stampedStore_sends {pa : Nat} {leaf : Word} (hok : s.check i.place.die t.ctx .stampedStore a 256 = .ok pa leaf) :
    ∃ r, Sends s i.place (.next (s.stampedStore i t a body)) { t with stampedNow := true } [(r, .stamped, a)] ∧
      AsksHome s i.place t pa false (body pa) r := by
  rw [State.stampedStore_of_ok body hok]
  exact ⟨_, s.sent_sends i.place _ _, s.request_asksHome i.place t pa _⟩

end StampedStore

end Sys2Proof.Machine

namespace Sys2Proof.Claims
open Sys2Proof.Machine

theorem storesIssue : StoresIssue := by
  intro s i t ins f h hform
  rw [exec_storeForm h hform]
  refine ⟨fun pre l va post c es helems hpre hfail => ?_, fun es hall => State.plainStore_sends h f.value hall⟩
  rw [helems, State.plainStore_traps _ hpre hfail]

theorem atomicsIssue : AtomicsIssue := by
  intro s i t ins op sd sa sb la size off h hform
  obtain ⟨n, w4, imm, rfl, rfl, rfl, hexec⟩ := exec_atomicForm h hform
  rw [hexec]
  refine ⟨fun c hfail => congrArg _ (State.atomic_of_fail op sd sa sb n w4 imm hfail), fun pa leaf hok => ?_⟩
  rw [State.atomic_of_ok op sd sa sb n w4 imm hok]
  exact ⟨_, _, s.sent_sends i.place _ _, opened_operationTag s i t n.toNat 1 false false none [sd], s.request_asksHome i.place t pa _⟩

theorem stampedIssue : StampedIssue := by
  intro s i t h
  refine ⟨fun vd sa sx sy la wait lag => ⟨fun c => exec_lda_of_fail h vd sa sx sy la wait lag, fun pa leaf hok => ?lda⟩,
    fun sa sy la => ⟨fun c => exec_ldas_of_fail h sa sy la, fun pa leaf hok => ?ldas⟩,
    fun vd sa sx off => ?sta, fun vd sa sx pm off => ?stad⟩
  case lda =>
    rw [exec_lda_of_ok h vd sa sx sy la wait lag hok]
    exact ⟨_, _, _, s.sent_sends i.place _ _, s.request_asksHome i.place t pa _, rfl, rfl, rfl, rfl, rfl, rfl, rfl, rfl, rfl, rfl, rfl, rfl⟩
  case ldas =>
    rw [exec_ldas_of_ok h sa sy la hok]
    exact ⟨_, _, s.sent_sends i.place _ _, opened_operationTag s i t la.toNat 1 false false none [sy], s.request_asksHome i.place t pa _⟩
  case sta =>
    rw [exec_sta h vd sa sx off]
    exact ⟨fun c hfail => congrArg _ (State.stampedStore_of_fail _ hfail), fun pa leaf => State.stampedStore_sends _⟩
  case stad =>
    rw [exec_stad h vd sa sx pm off]
    exact ⟨fun c hfail => congrArg _ (State.stampedStore_of_fail _ hfail), fun pa leaf => State.stampedStore_sends _⟩

end Sys2Proof.Claims

namespace Sys2Proof.Laws

/-- Settles O18: every store by its form, which the one plain store checks and sends; atomics and stamped words by the one check they
make and the one request they send. -/
theorem storesIssue : Obligations.StoresIssue := ⟨Claims.storesIssue, Claims.atomicsIssue, Claims.stampedIssue⟩

end Sys2Proof.Laws
end

section
/-! SUPPORT. The statements of 09_ordering_machine.md. How a request leaves its send list and reaches its home (R152, R153). -/

set_option Elab.async false

namespace Sys2Proof.Machine
open Sys2Proof.Claims

/-! ### Requests on their way, in inbound logs, and waits in monitors -/

/-- Whether an answer brings back, as "retry", a request that passes a test. -/
def Resp.bringsBack (q : Req → Bool) (x : Resp) : Bool :=
  match x.body with
  | .retry y => q y
  | _ => false

theorem Resp.bringsBack_iff (q : Req → Bool) (x : Resp) : x.bringsBack q = true ↔ ∃ y, x.body = .retry y ∧ q y = true := by
  unfold Resp.bringsBack
  cases x.body <;> simp

/-- Whether an entry of an inbound log is a request that passes a test. -/
def LogItem.isReq (q : Req → Bool) : LogItem → Bool
  | .req r => q r
  | _ => false

theorem LogItem.any_isReq_iff (q : Req → Bool) (l : List LogItem) :
    l.any (LogItem.isReq q) = true ↔ ∃ r, LogItem.req r ∈ l ∧ q r = true := by
  rw [List.any_eq_true]
  constructor
  · rintro ⟨x, hx, h⟩
    cases x with
    | req r => exact ⟨r, hx, h⟩
    | record => cases h
  · rintro ⟨r, hr, h⟩
    exact ⟨.req r, hr, h⟩

/-- Whether a request that passes a test is sent and not performed: the test form of `OnItsWay`. -/
def State.onItsWay (s : State) (q : Req → Bool) : Bool := s.chans.any q || s.arrivals.any q || s.resps.any (Resp.bringsBack q)

theorem State.onItsWay_iff (s : State) {q : Req → Bool} {P : Req → Prop} (h : ∀ x, q x = true ↔ P x) :
    s.onItsWay q = true ↔ OnItsWay s P := by
  simp only [State.onItsWay, OnItsWay, Bool.or_eq_true, List.any_eq_true, Resp.bringsBack_iff, h, List.mem_append, or_and_right,
    exists_or]

theorem monitored_iff (s : State) (owner req : Nat) :
    (s.dies.any fun d => d.2.monitor.any fun m => m.owner = owner && m.req = req) = true ↔ Monitored s owner req := by
  simp only [Monitored, List.any_eq_true, Bool.and_eq_true, decide_eq_true_eq]

theorem Req.isWait_iff (r : Req) : r.isWait = true ↔ ∃ a b c d, r.body = .lda a b c d true := by
  unfold Req.isWait
  cases r.body <;> simp

theorem Req.isWrite_eq_false_iff (r : Req) :
    r.isWrite = false ↔ (∀ a b, r.body ≠ .store a b) ∧ ∀ a b, r.body ≠ .merge a b := by
  unfold Req.isWrite
  cases r.body <;> simp

/-! ### When a request may be sent (R152, R158, R180, R184, R203, R320) -/

section MayGo
variable (s : State) (r : Req)

theorem State.zeroAhead_iff : s.zeroAhead r = true ↔ ZeroAhead s r := by
  cases hengine : r.engine <;> simp [State.zeroAhead, ZeroAhead, hengine, or_and_right, exists_or, and_assoc]

/-- The test of an earlier wait of the request's thread to its home. -/
def Req.waitBefore (q : Req) : Bool := q.owner = r.owner && q.dest = r.dest && q.req < r.req && q.isWait

theorem State.waitSent_eq : s.waitSent r = (s.onItsWay r.waitBefore ||
    s.outs.any fun o => o.owner = r.owner && o.dest = r.dest && o.req < r.req && o.cls == .lda && !o.accepted &&
      (s.dies.any fun d => d.2.monitor.any fun m => m.owner = r.owner && m.req = o.req)) := rfl

theorem State.waitSent_iff : s.waitSent r = true ↔ WaitAhead s r := by
  have hearly (q : Req) : r.waitBefore q = true ↔
      q.owner = r.owner ∧ q.dest = r.dest ∧ q.req < r.req ∧ ∃ a b c d, q.body = .lda a b c d true := by
    simp [Req.waitBefore, Req.isWait_iff, and_assoc]
  rw [State.waitSent_eq, Bool.or_eq_true, s.onItsWay_iff hearly, List.any_eq_true]
  simp only [Bool.and_eq_true, monitored_iff, decide_eq_true_eq, beq_iff_eq, Bool.not_eq_true', and_assoc]
  rfl

/-- The test of an earlier request of the request's thread. -/
def Req.before (q : Req) : Bool := q.owner = r.owner && q.req < r.req

theorem Req.before_iff (q : Req) : r.before q = true ↔ q.owner = r.owner ∧ q.req < r.req := by simp [Req.before]

theorem State.unperformed_eq : s.unperformed r.owner r.req = (s.sends.any r.before || s.chans.any r.before ||
    s.arrivals.any r.before || s.logged.any (LogItem.isReq fun q => !q.isWrite && r.before q) ||
    s.resps.any (Resp.bringsBack r.before) ||
    (s.dies.any fun d => d.2.monitor.any fun m => m.owner = r.owner && m.req < r.req &&
      !(s.outs.any fun o => o.owner = r.owner ∧ o.req = m.req ∧ o.accepted))) := rfl

/-- A wait of the thread numbered below the request whose acceptance is not delivered, as the monitors list it. -/
theorem monitored_unaccepted_iff : (s.dies.any fun d => d.2.monitor.any fun m => m.owner = r.owner && m.req < r.req &&
      !(s.outs.any fun o => o.owner = r.owner ∧ o.req = m.req ∧ o.accepted)) = true ↔
    ∃ n, n < r.req ∧ Monitored s r.owner n ∧ ¬ ∃ o ∈ s.outs, o.owner = r.owner ∧ o.req = n ∧ o.accepted = true := by
  simp only [List.any_eq_true, Bool.and_eq_true, decide_eq_true_eq, Bool.not_eq_true', List.any_eq_false, Monitored]
  constructor
  · rintro ⟨d, hd, m, hm, ⟨howner, hreq⟩, hout⟩
    exact ⟨m.req, hreq, ⟨d, hd, m, hm, howner, rfl⟩, fun ⟨o, ho, h⟩ => hout o ho h⟩
  · rintro ⟨n, hreq, ⟨d, hd, m, hm, howner, rfl⟩, hout⟩
    exact ⟨d, hd, m, hm, ⟨howner, hreq⟩, fun o ho h => hout ⟨o, ho, h⟩⟩

theorem State.stampedHeld_iff : (s.unperformed r.owner r.req || s.clearDue r.wid) = true ↔ StampedHeld s r := by
  have hway := s.onItsWay_iff (q := r.before) r.before_iff
  simp only [State.onItsWay, Bool.or_eq_true] at hway
  have hsends : s.sends.any r.before = true ↔ ∃ q ∈ s.sends, q.owner = r.owner ∧ q.req < r.req := by
    simp only [List.any_eq_true, Req.before_iff]
  have hlogged : s.logged.any (LogItem.isReq fun q => !q.isWrite && r.before q) = true ↔ ∃ q, LogItem.req q ∈ s.logged ∧
      q.owner = r.owner ∧ q.req < r.req ∧ (∀ a b, q.body ≠ .store a b) ∧ ∀ a b, q.body ≠ .merge a b := by
    simp only [LogItem.any_isReq_iff, Bool.and_eq_true, Bool.not_eq_true', Req.isWrite_eq_false_iff, Req.before_iff]
    exact exists_congr fun q => and_congr_right fun _ => and_comm.trans and_assoc
  have hclear : s.clearDue r.wid = true ↔ widGen r.wid ∈ (s.slot (widPlace r.wid)).noticed := by
    simp only [State.clearDue, List.contains_iff_mem]
  rw [State.unperformed_eq]
  simp only [Bool.or_eq_true, monitored_unaccepted_iff, hlogged, hclear, StampedHeld, ← hway, ← hsends, or_assoc, or_left_comm]

/-- The test of another group of the request's word. -/
def Req.sameWord (q : Req) : Bool := q.owner = r.owner && q.req = r.req

theorem State.inTurn_eq : s.inTurn r = (!r.ordered || ((s.sends.find? r.sameWord).all (·.dest = r.dest) &&
    !s.chans.any r.sameWord && !s.arrivals.any r.sameWord && !s.logged.any (LogItem.isReq r.sameWord))) := rfl

theorem State.inTurn_iff : s.inTurn r = true ↔ (r.ordered = true → TurnCome s r) := by
  have hsame : r.sameWord = fun q => decide (q.owner = r.owner ∧ q.req = r.req) := by
    funext q
    simp [Req.sameWord]
  have hlogged : s.logged.any (LogItem.isReq r.sameWord) = false ↔
      ∀ q, LogItem.req q ∈ s.logged → ¬ (q.owner = r.owner ∧ q.req = r.req) := by
    rw [← Bool.not_eq_true, LogItem.any_isReq_iff]
    simp [Req.sameWord]
  cases hordered : r.ordered with
  | false => simp [State.inTurn_eq, hordered]
  | true =>
    simp only [State.inTurn_eq, hordered, Bool.not_true, Bool.false_or, Bool.and_eq_true, Bool.not_eq_true', hlogged]
    simp only [Option.all_eq_true, List.any_eq_false, TurnCome, hsame, decide_eq_true_eq, forall_const, List.mem_append,
      or_imp, forall_and, and_assoc]

/-- Whether the wait after a "retry" is over (R152). -/
def State.waited : Bool :=
  match r.notBefore with
  | some c => c ≤ s.cycle
  | none => true

theorem State.waited_iff : s.waited r = true ↔ ∀ c, r.notBefore = some c → c ≤ s.cycle := by
  unfold State.waited
  cases r.notBefore <;> simp

theorem State.maySend_eq : s.maySend r = (s.routeClear r.src r.dest && !s.zeroAhead r && (r.engine ||
    (!(r.isStamped && (s.unperformed r.owner r.req || s.clearDue r.wid)) && !s.waitSent r && s.waited r && s.inTurn r))) := rfl

theorem State.maySend_iff : s.maySend r = true ↔ MayGo s r := by
  have hstamped : (!(r.isStamped && (s.unperformed r.owner r.req || s.clearDue r.wid))) = true ↔
      (r.isStamped = true → ¬ StampedHeld s r) := by
    rw [← s.stampedHeld_iff]
    cases r.isStamped <;> simp
  rw [State.maySend_eq, MayGo, ← s.zeroAhead_iff, ← s.waitSent_iff, ← s.inTurn_iff, ← s.waited_iff, ← hstamped]
  simp only [Bool.and_eq_true, Bool.or_eq_true, Bool.not_eq_true', Bool.not_eq_true, and_assoc, and_left_comm]

end MayGo

/-! ### The head of a list moves on -/

section Sends
variable {s : State} {owner e : Nat} {pre post : List Req} {r : Req}

/-- The state in which the oldest request of a send list has left it for its channel. -/
def State.departed (s : State) (e : Nat) (pre post : List Req) (r : Req) : State :=
  { s with sends := pre ++ post, chans := s.chans ++ [{ r with notBefore := none, hops := s.hops r.src e, sentAt := s.cycle }] }

theorem State.sendFirst_of_firstOf (h : FirstOf (fun q => q.owner = owner ∧ q.dest = e) s.sends pre r post) (retried : Bool) :
    s.sendFirst owner e retried = if s.maySend r = true ∧ r.notBefore.isSome = retried then s.departed e pre post r else s := by
  have hfind := find?_of_firstOf (q := fun q : Req => decide (q.owner = owner ∧ q.dest = e)) (fun q => decide_eq_true_iff) h
  have hdrop := dropFirst_of_firstOf (q := fun q : Req => decide (q.owner = owner) && decide (q.dest = e)) (fun q => by simp) h
  simp only [State.sendFirst, hfind, hdrop, Bool.and_eq_true, beq_iff_eq]
  rfl

end Sends

end Sys2Proof.Machine

namespace Sys2Proof.Claims
open Sys2Proof.Machine

theorem sendRules : SendRules := by
  intro s owner e pre post r h
  have hsend : exec (.send owner e) s =
      .next (if s.maySend r = true ∧ r.notBefore.isSome = false then s.departed e pre post r else s) := congrArg _ (State.sendFirst_of_firstOf h false)
  have hretry : exec (.monitorRetry owner e) s =
      .next (if s.maySend r = true ∧ r.notBefore.isSome = true then s.departed e pre post r else s) := congrArg _ (State.sendFirst_of_firstOf h true)
  rw [← s.maySend_iff, hsend, hretry]
  refine ⟨fun hgo hnone => ?fresh, fun hgo hsome => ?retried, fun hstay => ?stays⟩
  case fresh => simp [hgo, hnone, State.departed]
  case retried => simp [hgo, Option.isSome_iff_ne_none.2 hsome, State.departed]
  case stays => simp [hstay]

theorem deliverRule : DeliverRule := by
  intro s d e engine pre post r h
  have htest (q : Req) : (decide (q.src = d) && decide (q.dest = e) && decide (q.engine = engine)) = true ↔
      q.src = d ∧ q.dest = e ∧ q.engine = engine := by simp [and_assoc]
  change execDeliver d e engine s = _
  simp only [execDeliver, find?_of_firstOf htest h, dropFirst_of_firstOf htest h]
  split <;> rfl

end Sys2Proof.Claims

namespace Sys2Proof.Laws

/-- Settles O20: the tests of SEND are the conditions of R152 one by one, and the head of a list is the first that passes its test. -/
theorem requestsTravel : Obligations.RequestsTravel := ⟨Claims.sendRules, Claims.deliverRule⟩

end Sys2Proof.Laws
end

section
/-! SUPPORT. The statements of 09_ordering_machine.md. What plain loads, stores, atomics and `ldas` do at their home (R131,
R137, R138, R140, R146, R154). -/

set_option Elab.async false

namespace Sys2Proof.Machine
open Sys2Proof.Claims

/-! ### Bytes and numbers (R1) -/

theorem ofBytes_bytesOf (n x : Nat) : ofBytes (bytesOf n x) = x % 2 ^ (8 * n) := by
  induction n generalizing x with
  | zero => simp [bytesOf, ofBytes, Nat.mod_one]
  | succ n ih =>
    have hpow : 2 ^ (8 * (n + 1)) = 256 * 2 ^ (8 * n) := by rw [Nat.mul_succ, Nat.pow_add, Nat.mul_comm]
    rw [bytesOf, ofBytes, ih, hpow, Nat.mod_mul, BitVec.toNat_ofNat]

theorem ofBytes_lt (l : List Byte) : ofBytes l < 2 ^ (8 * l.length) := by
  induction l with
  | nil => simp [ofBytes]
  | cons b l ih =>
    have hpow : 2 ^ (8 * (l.length + 1)) = 256 * 2 ^ (8 * l.length) := by rw [Nat.mul_succ, Nat.pow_add, Nat.mul_comm]
    have hb : b.toNat < 256 := b.isLt
    rw [ofBytes, List.length_cons, hpow]
    omega

theorem bytesOf_length (n x : Nat) : (bytesOf n x).length = n := by
  rw [bytesOf_eq_map, List.length_map, List.length_range]

theorem State.readBytes_length (s : State) (a n : Nat) : (s.readBytes a n).length = n := by
  induction n generalizing a with
  | zero => rfl
  | succ n ih => simp [State.readBytes, ih]

theorem State.readNat_lt (s : State) (a n : Nat) : s.readNat a n < 2 ^ (8 * n) := by
  simpa [State.readNat, State.readBytes_length] using ofBytes_lt (s.readBytes a n)

/-- What stands where bytes were written from an address upward. -/
theorem State.readBytes_writeBytes (s : State) (a : Nat) (l : List Byte) (h : s.stored) :
    (s.writeBytes a l).readBytes a l.length = l := by
  induction l generalizing s a with
  | nil => rfl
  | cons b l ih =>
    have hfirst : ((s.writeByte a b).writeBytes (a + 1) l).readByte a = b := by
      rw [State.readByte_writeBytes_outside l _ _ _ (Or.inl (Nat.lt_succ_self a)), State.readByte_writeByte_same s a b h]
    rw [List.length_cons, State.readBytes, State.writeBytes, hfirst, ih _ _ (State.writeByte_stored s a b h)]

theorem State.readNat_writeNat (s : State) (a n x : Nat) (h : s.stored) : (s.writeNat a n x).readNat a n = x % 2 ^ (8 * n) := by
  have hbytes := s.readBytes_writeBytes a (bytesOf n x) h
  rw [bytesOf_length] at hbytes
  rw [State.readNat, State.writeNat, hbytes, ofBytes_bytesOf]

theorem State.readByte_writeNat_outside (s : State) {a n b : Nat} (x : Nat) (h : b < a ∨ a + n ≤ b) :
    (s.writeNat a n x).readByte b = s.readByte b :=
  State.readByte_writeBytes_outside _ s a b (by rwa [bytesOf_length])

/-! ### What a write of memory leaves alone -/

/-- The state `x` is `s` but for the contents of memory, the errors there and what management is told. -/
def State.MemoryOnly (s x : State) : Prop := { x with mem := s.mem, errors := s.errors, mgmt := s.mgmt } = s

theorem State.MemoryOnly.refl (s : State) : s.MemoryOnly s := rfl

theorem State.MemoryOnly.trans {s x y : State} (h : s.MemoryOnly x) (h' : x.MemoryOnly y) : s.MemoryOnly y := by
  unfold State.MemoryOnly at h h' ⊢
  exact (congrArg (fun z : State => { z with mem := s.mem, errors := s.errors, mgmt := s.mgmt }) h').trans h

theorem State.MemoryOnly.sideband {s x : State} (h : s.MemoryOnly x) (a : Nat) : x.sideband a = s.sideband a :=
  congrArg (·.sideband a) h

theorem State.MemoryOnly.die {s x : State} (h : s.MemoryOnly x) (d : Nat) : x.die d = s.die d := congrArg (·.die d) h

theorem State.tell_memoryOnly (s : State) (e : MgmtEvent) : s.MemoryOnly (s.tell e) := rfl

theorem State.writeByte_memoryOnly (s : State) (a : Nat) (b : Byte) : s.MemoryOnly (s.writeByte a b) := rfl

theorem State.writePairs_memoryOnly (s : State) (l : List (Nat × Byte)) : s.MemoryOnly (s.writePairs l) := by
  induction l generalizing s with
  | nil => rfl
  | cons x l ih => exact (s.writeByte_memoryOnly x.1 x.2).trans (ih _)

theorem State.writeBytes_memoryOnly (s : State) (a : Nat) (l : List Byte) : s.MemoryOnly (s.writeBytes a l) := by
  induction l generalizing s a with
  | nil => rfl
  | cons b l ih => exact (s.writeByte_memoryOnly a b).trans (ih _ _)

theorem State.writePairs_mgmt (s : State) (l : List (Nat × Byte)) : (s.writePairs l).mgmt = s.mgmt := by
  induction l generalizing s with
  | nil => rfl
  | cons x l ih => exact ih _

theorem State.writeBytes_mgmt (s : State) (a : Nat) (l : List Byte) : (s.writeBytes a l).mgmt = s.mgmt := by
  induction l generalizing s a with
  | nil => rfl
  | cons b l ih => exact ih _ _

/-! ### The step of a request at its home (R154) -/

section Home
variable {s : State} {e : Nat} {pre post : List Req} {r : Req}

/-- The state in which the head of an arrival queue is taken and its block has had its step. -/
def State.taken (s : State) (pre post : List Req) (r : Req) : State :=
  { s with arrivals := pre ++ post, stepped := r.block :: s.stepped }

theorem State.taken_sameTables (s : State) (pre post : List Req) (r : Req) : s.SameTables (s.taken pre post r) :=
  ⟨rfl, rfl, rfl, rfl, rfl, rfl⟩

theorem State.answer_sameTables (s : State) (r : Req) (b : RespBody) : s.SameTables (s.answer r b) :=
  ⟨rfl, rfl, rfl, rfl, rfl, rfl⟩

theorem State.performHead_of_firstOf (h : FirstOf (fun q => q.dest = e) s.arrivals pre r post) (hin : s.evictedAt r = false)
    (kind : ReqBody → Bool) :
    s.performHead e kind = if kind r.body = true ∧ r.block ∉ s.stepped then (s.taken pre post r).perform r else s := by
  have hhead : s.arrival e = some r := find?_of_firstOf (q := fun q : Req => decide (q.dest = e)) (fun q => decide_eq_true_iff) h
  have hrest : dropFirst (fun q : Req => decide (q.dest = e)) s.arrivals = pre ++ post :=
    dropFirst_of_firstOf (fun q => decide_eq_true_iff) h
  have htaken : { s with stepped := r.block :: s.stepped }.popArrival e = s.taken pre post r := by
    simp only [State.popArrival, hrest, State.taken]
  simp [State.performHead, hhead, hin, htaken]

/-- An answer given at the home, memory and what management is told having changed alone, is the performance of the request. -/
theorem performs_answer {x : State} (hx : (s.taken pre post r).MemoryOnly x) (b : RespBody) :
    Performs s e pre post r (.next (x.answer r b)) [reply s r b] (x.answer r b) := by
  have hresps : x.resps = s.resps := congrArg (·.resps) hx
  have hcycle : x.cycle = s.cycle := congrArg (·.cycle) hx
  refine ⟨rfl, congrArg (·.arrivals) hx, ?_, congrArg (·.stepped) hx, ?_, fun d _ => hx.die d, ?_⟩
  · simp only [State.answer, hresps, hcycle, reply]
  · exact congrArg (fun y : State => { y with
      arrivals := s.arrivals, resps := s.resps, mem := s.mem, errors := s.errors, side := s.side, dies := s.dies,
      mgmt := s.mgmt, stepped := s.stepped }) hx
  · exact congrArg (fun y : Die => { y with monitor := (s.die e).monitor }) (hx.die e)

end Home

/-! ### Loads (R131, R146, R308) -/

section Load
variable {s : State} {es : List Elem}

theorem foldl_lowest (l : List Elem) (a : Word) : (l.foldl (fun a e => if e.vaddr < a then e.vaddr else a) a).toNat =
    l.foldl (fun n y => min n y.vaddr.toNat) a.toNat := by
  induction l generalizing a with
  | nil => rfl
  | cons y l ih =>
    have hmin : (if y.vaddr < a then y.vaddr else a).toNat = min a.toNat y.vaddr.toNat := by
      split
      case isTrue hlt => exact (Nat.min_eq_right (Nat.le_of_lt hlt)).symm
      case isFalse hge => exact (Nat.min_eq_left (Nat.le_of_not_lt hge)).symm
    rw [List.foldl_cons, List.foldl_cons, ih, hmin]

theorem lowestAddr_cons (x : Elem) (xs : List Elem) :
    lowestAddr (x :: xs) = BitVec.ofNat 64 ((x :: xs).foldl (fun n y => min n y.vaddr.toNat) x.vaddr.toNat) := by
  rw [← foldl_lowest, BitVec.ofNat_toNat, BitVec.setWidth_eq]
  rfl

theorem State.loadGroup_of_good (engine : Bool) (h : (es.filter fun x => s.badRange x.paddr x.size) = []) :
    s.loadGroup engine es = .values (s.elemValues es) := by
  simp only [State.loadGroup, h]

theorem State.loadGroup_of_bad (engine : Bool) {x : Elem} {xs : List Elem}
    (h : (es.filter fun x => s.badRange x.paddr x.size) = x :: xs) : s.loadGroup engine es =
      if engine then .part (s.elemValues (es.filter fun e => !s.badRange e.paddr e.size)) causeMcheck (lowestAddr (x :: xs))
      else .trap x.lane causeMcheck x.vaddr := by
  simp only [State.loadGroup, h]

theorem State.SameTables.loadGroup {x : State} (h : s.SameTables x) (engine : Bool) :
    x.loadGroup engine es = s.loadGroup engine es := by
  simp only [State.loadGroup, State.elemValues, h.badRange, h.readNat]

end Load

/-! ### Stores (R138, R146) -/

theorem find?_reverse_cons {α : Type} (p : α → Bool) (x : α) (l : List α) :
    (x :: l).reverse.find? p = (l.reverse.find? p).or (if p x then some x else none) := by
  rw [List.reverse_cons, List.find?_append]
  cases hx : p x <;> simp [hx]

section Store
variable (s : State)

theorem lastAt_cons (x : Nat × Byte) (l : List (Nat × Byte)) (a : Nat) :
    lastAt (x :: l) a = (lastAt l a).or (if x.1 = a then some x.2 else none) := by
  rw [lastAt, find?_reverse_cons, lastAt]
  by_cases hx : x.1 = a <;> cases l.reverse.find? (fun b => b.1 = a) <;> simp [hx]

/-- Of the bytes written to an address the last one stands. -/
theorem State.readByte_writePairs (l : List (Nat × Byte)) (h : s.stored) (a : Nat) :
    (s.writePairs l).readByte a = (lastAt l a).getD (s.readByte a) := by
  induction l generalizing s with
  | nil => rfl
  | cons x l ih =>
    have hfirst : (s.writeByte x.1 x.2).readByte a = (if x.1 = a then some x.2 else none).getD (s.readByte a) := by
      by_cases hx : x.1 = a
      · simp [← hx, State.readByte_writeByte_same s x.1 x.2 h]
      · simp [hx, State.readByte_writeByte_other s (Ne.symm hx)]
    rw [State.writePairs, ih _ (State.writeByte_stored s _ _ h), lastAt_cons, hfirst]
    cases lastAt l a <;> simp

theorem State.subWordError_iff (bs : List (Nat × Byte)) : s.subWordError bs = true ↔ PartInError s bs := by
  simp only [State.subWordError, PartInError, List.any_eq_true, Bool.and_eq_true, Bool.not_eq_true', List.all_eq_false,
    List.mem_range, decide_eq_true_eq, not_exists, not_and, ne_eq]

theorem State.storeGroup_eq (bs : List (Nat × Byte)) : s.storeGroup bs = if s.subWordError bs then
    (s.writePairs bs).tell (.homeReadError ((bs.head?.map (·.1)).getD 0)) else s.writePairs bs := rfl

theorem State.storeGroup_memoryOnly (bs : List (Nat × Byte)) : s.MemoryOnly (s.storeGroup bs) := by
  rw [State.storeGroup_eq]
  split
  · exact (s.writePairs_memoryOnly bs).trans (State.tell_memoryOnly _ _)
  · exact s.writePairs_memoryOnly bs

theorem State.readByte_storeGroup (bs : List (Nat × Byte)) (a : Nat) :
    (s.storeGroup bs).readByte a = (s.writePairs bs).readByte a := by
  rw [State.storeGroup_eq]
  split <;> rfl

theorem State.storeGroup_told (bs : List (Nat × Byte)) :
    Told s (s.storeGroup bs) (PartInError s bs) ((bs.head?.map (·.1)).getD 0) := by
  rw [← s.subWordError_iff bs]
  cases hbad : s.subWordError bs <;> simp [Told, State.storeGroup_eq, State.tell, State.writePairs_mgmt, hbad]

/-! ### Nibble writes (R298) -/

/-- One nibble write put to the bytes that those before it leave. -/
def State.mergeByte (acc : List (Nat × Byte)) (b : Nat × Byte × Byte) : List (Nat × Byte) :=
  putKey b.1 ((lookupD (s.readByte b.1) b.1 acc &&& ~~~b.2.2) ||| (b.2.1 &&& b.2.2)) acc

theorem mem_keys_putKey {κ α : Type} [DecidableEq κ] {k j : κ} {x : α} {l : List (κ × α)}
    (h : j ∈ (putKey k x l).map (·.1)) : j = k ∨ j ∈ l.map (·.1) := by
  induction l with
  | nil => simpa [putKey] using h
  | cons e l ih =>
    by_cases he : e.1 = k
    · rw [putKey, if_pos he, List.map_cons, List.mem_cons] at h
      exact h.imp_right (List.mem_cons_of_mem _)
    · rw [putKey, if_neg he, List.map_cons, List.mem_cons] at h
      obtain rfl | h := h
      · exact .inr List.mem_cons_self
      · exact (ih h).imp_right (List.mem_cons_of_mem _)

theorem putKey_nodup {κ α : Type} [DecidableEq κ] (k : κ) (x : α) {l : List (κ × α)} (h : (l.map (·.1)).Nodup) :
    ((putKey k x l).map (·.1)).Nodup := by
  induction l with
  | nil => simp [putKey]
  | cons e l ih =>
    obtain ⟨hnot, hrest⟩ := List.nodup_cons.1 h
    by_cases he : e.1 = k
    · rw [putKey, if_pos he]
      exact List.nodup_cons.2 ⟨he ▸ hnot, hrest⟩
    · rw [putKey, if_neg he]
      exact List.nodup_cons.2 ⟨fun hin => (mem_keys_putKey hin).elim he hnot, ih hrest⟩

theorem State.mergeBytes_nodup (bs : List (Nat × Byte × Byte)) : ((s.mergeBytes bs).map (·.1)).Nodup :=
  foldl_inv (P := fun acc : List (Nat × Byte) => (acc.map (·.1)).Nodup) s.mergeByte (fun _ _ h => putKey_nodup _ _ h) bs []
    List.nodup_nil

/-- The byte that nibble writes leave at an address: each takes effect on what those before it leave there. -/
theorem State.lookupD_foldl_mergeByte (bs : List (Nat × Byte × Byte)) (acc : List (Nat × Byte)) (a : Nat) :
    lookupD (s.readByte a) a (bs.foldl s.mergeByte acc) =
      (bs.filter fun b => b.1 = a).foldl (fun x b => (x &&& ~~~b.2.2) ||| (b.2.1 &&& b.2.2)) (lookupD (s.readByte a) a acc) := by
  induction bs generalizing acc with
  | nil => rfl
  | cons b bs ih =>
    rw [List.foldl_cons, ih]
    by_cases hb : b.1 = a
    · subst hb
      simp [State.mergeByte]
    · simp [State.mergeByte, hb, lookupD_putKey_other _ (Ne.symm hb)]

/-- Where each address is written once, the one byte written to an address stands. -/
theorem lastAt_of_nodup {l : List (Nat × Byte)} (h : (l.map (·.1)).Nodup) (z : Byte) (a : Nat) :
    (lastAt l a).getD z = lookupD z a l := by
  induction l with
  | nil => rfl
  | cons x l ih =>
    obtain ⟨hnot, hrest⟩ := List.nodup_cons.1 h
    have ih := ih hrest
    by_cases hx : x.1 = a
    · have hnone : lastAt l a = none := by
        simp only [lastAt, Option.map_eq_none_iff, List.find?_eq_none, List.mem_reverse, decide_eq_true_eq]
        exact fun y hy hya => hnot (List.mem_map.2 ⟨y, hy, hya.trans hx.symm⟩)
      simp [lastAt_cons, hnone, lookupD, hx]
    · simpa [lastAt_cons, lookupD, hx] using ih

theorem State.readByte_merge (bs : List (Nat × Byte × Byte)) (h : s.stored) (a : Nat) :
    (s.storeGroup (s.mergeBytes bs)).readByte a =
      (bs.filter fun b => b.1 = a).foldl (fun x b => (x &&& ~~~b.2.2) ||| (b.2.1 &&& b.2.2)) (s.readByte a) := by
  rw [State.readByte_storeGroup, State.readByte_writePairs s _ h, lastAt_of_nodup (s.mergeBytes_nodup bs)]
  exact s.lookupD_foldl_mergeByte bs [] a

end Store

/-! ### Atomics (R137, R146) -/

section Atomic
variable {op : AtomicOp} {n : Nat}

/-- An element of 4 or 8 bytes, as R137's signed comparisons read it. -/
theorem signed_eq_sE {x : Nat} (hn : n = 4 ∨ n = 8) (hx : x < 2 ^ (8 * n)) :
    (if x < 2 ^ (8 * n) / 2 then (x : Int) else (x : Int) - (2 ^ (8 * n) : Nat)) = sE (8 * n) x := by
  obtain rfl | rfl := hn <;> simp only [sE, Int.bmod] <;> norm_num at hx ⊢ <;> omega

theorem sE_injective {x y : Nat} (hn : n = 4 ∨ n = 8) (hx : x < 2 ^ (8 * n)) (hy : y < 2 ^ (8 * n))
    (h : sE (8 * n) x = sE (8 * n) y) : x = y := by
  rw [← signed_eq_sE hn hx, ← signed_eq_sE hn hy] at h
  obtain rfl | rfl := hn <;> norm_num at hx hy h <;> omega

theorem atomicValue_lt {old b : Nat} (cmp : Nat) (hold : old < 2 ^ (8 * n)) (hb : b < 2 ^ (8 * n)) :
    atomicValue op n old b cmp < 2 ^ (8 * n) := by
  cases op with
  | add => exact Nat.mod_lt _ (by positivity)
  | and => exact Nat.and_lt_two_pow old hb
  | or => exact Nat.or_lt_two_pow hold hb
  | xch => exact hb
  | min | max | cas =>
    simp only [atomicValue]
    split <;> assumption

/-- The value an atomic writes is R137's. -/
theorem atomicNew_toNat {old : Nat} {b cmp : Word} (hn : n = 4 ∨ n = 8) (hold : old < 2 ^ (8 * n)) (hb : b.toNat < 2 ^ (8 * n)) :
    (atomicNew op n (w64 old) b cmp).toNat = atomicValue op n old b.toNat cmp.toNat := by
  have hwide : 2 ^ (8 * n) ≤ 2 ^ 64 := Nat.pow_le_pow_right (by norm_num) (by omega)
  have hw {x : Nat} (hx : x < 2 ^ (8 * n)) : (w64 x).toNat = x := Nat.mod_eq_of_lt (hx.trans_le hwide)
  have hsold := signed_eq_sE hn hold
  have hsb := signed_eq_sE hn hb
  cases op with
  | add => simp only [atomicNew, atomicValue, hw hold, hw (Nat.mod_lt (old + b.toNat) (Nat.two_pow_pos (8 * n)))]
  | min => simp only [atomicNew, atomicValue, hw hold, hsold, hsb, apply_ite BitVec.toNat]
  | max =>
    simp only [atomicNew, atomicValue, hw hold, hsold, hsb, apply_ite BitVec.toNat]
    obtain hlt | heq | hgt := lt_trichotomy (sE (8 * n) old) (sE (8 * n) b.toNat)
    · rw [if_pos hlt.le, if_neg (not_le.2 hlt)]
    · rw [if_pos heq.le, if_pos heq.ge, sE_injective hn hold hb heq]
    · rw [if_neg (not_le.2 hgt), if_pos hgt.le]
  | and => simp only [atomicNew, atomicValue, BitVec.toNat_and, hw hold]
  | or => simp only [atomicNew, atomicValue, BitVec.toNat_or, hw hold]
  | xch => rfl
  | cas =>
    have heq : w64 old = cmp ↔ old = cmp.toNat := by rw [← BitVec.toNat_inj, hw hold]
    simp only [atomicNew, atomicValue, heq, apply_ite BitVec.toNat, hw hold]

end Atomic

section AtomicStep
variable (s : State) (op : AtomicOp) (n pa : Nat) (b cmp : Word)

/-- The state in which an error found at an atomic's element is told to management (R146; log 68). -/
def State.tellBad : State := if s.badRange pa n then s.tell (.homeReadError pa) else s

/-- The state in which an atomic has written its element, where it writes one. -/
def State.atomicStep : State :=
  if op = .cas ∧ w64 (s.readNat pa n) ≠ cmp then s.tellBad n pa
  else (s.tellBad n pa).writeNat pa n (atomicNew op n (w64 (s.readNat pa n)) b cmp).toNat

theorem State.tellBad_memoryOnly : s.MemoryOnly (s.tellBad n pa) := by
  unfold State.tellBad
  split <;> rfl

theorem State.tellBad_sameTables : s.SameTables (s.tellBad n pa) := by
  unfold State.tellBad
  split <;> exact ⟨rfl, rfl, rfl, rfl, rfl, rfl⟩

theorem State.tellBad_told : Told s (s.tellBad n pa) (s.badRange pa n = true) pa := by
  cases hbad : s.badRange pa n <;> simp [Told, State.tellBad, State.tell, hbad]

theorem State.atomicStep_memoryOnly : s.MemoryOnly (s.atomicStep op n pa b cmp) := by
  unfold State.atomicStep
  split
  · exact s.tellBad_memoryOnly n pa
  · exact (s.tellBad_memoryOnly n pa).trans (State.writeBytes_memoryOnly _ pa _)

theorem State.atomicStep_told : Told s (s.atomicStep op n pa b cmp) (s.badRange pa n = true) pa := by
  have hmgmt : (s.atomicStep op n pa b cmp).mgmt = (s.tellBad n pa).mgmt := by
    unfold State.atomicStep
    split
    · rfl
    · exact State.writeBytes_mgmt _ pa _
  rw [Told, hmgmt]
  exact s.tellBad_told n pa

theorem State.readByte_atomicStep_outside {a : Nat} (h : a < pa ∨ pa + n ≤ a) :
    (s.atomicStep op n pa b cmp).readByte a = s.readByte a := by
  have htold : (s.tellBad n pa).readByte a = s.readByte a := congrArg (sparseRead unlisted · a) (s.tellBad_sameTables n pa).mem
  unfold State.atomicStep
  split
  · exact htold
  · exact (State.readByte_writeNat_outside _ _ h).trans htold

theorem State.readNat_atomicStep (h : s.stored) (hn : n = 4 ∨ n = 8) (hb : b.toNat < 2 ^ (8 * n)) :
    (s.atomicStep op n pa b cmp).readNat pa n = atomicValue op n (s.readNat pa n) b.toNat cmp.toNat := by
  have hold := s.readNat_lt pa n
  have hwide : 2 ^ (8 * n) ≤ 2 ^ 64 := Nat.pow_le_pow_right (by norm_num) (by omega)
  unfold State.atomicStep
  split
  case isTrue hkept =>
    obtain ⟨rfl, hne⟩ := hkept
    have hne : s.readNat pa n ≠ cmp.toNat := fun heq => hne (by rw [heq, w64, BitVec.ofNat_toNat, BitVec.setWidth_eq])
    rw [(s.tellBad_sameTables n pa).readNat, atomicValue, if_neg hne]
  case isFalse =>
    have hside : (s.tellBad n pa).side = s.side := congrArg (·.side) (s.tellBad_memoryOnly n pa)
    have hstored : (s.tellBad n pa).stored := State.stored_of_same (s.tellBad_sameTables n pa).mem hside h
    rw [State.readNat_writeNat _ _ _ _ hstored, atomicNew_toNat hn hold hb, Nat.mod_eq_of_lt (atomicValue_lt _ hold hb)]

end AtomicStep

/-! ### What each step performs -/

section Perform
variable {s : State} {e : Nat} {pre post : List Req} {r : Req} (h : FirstOf (fun q => q.dest = e) s.arrivals pre r post)
  (hin : s.evictedAt r = false) (hfirst : r.block ∉ s.stepped)
include h hin hfirst

theorem exec_loadPerform {es : List Elem} (hbody : r.body = .load es) : exec (.loadPerform e) s =
    .next ((s.taken pre post r).answer r (s.loadGroup r.engine es)) := by
  refine congrArg _ ((State.performHead_of_firstOf h hin _).trans ?_)
  rw [if_pos ⟨by rw [hbody], hfirst⟩, State.perform, hbody]
  exact congrArg ((s.taken pre post r).answer r) ((s.taken_sameTables pre post r).loadGroup r.engine)

theorem exec_storePerform {va : Word} {bs : List (Nat × Byte)} (hbody : r.body = .store va bs) : exec (.storePerform e) s =
    .next (((s.taken pre post r).storeGroup bs).answer r .ack) := by
  refine congrArg _ ((State.performHead_of_firstOf h hin _).trans ?_)
  rw [if_pos ⟨by rw [hbody], hfirst⟩, State.perform, hbody]

theorem exec_storePerform_merge {va : Word} {bs : List (Nat × Byte × Byte)} (hbody : r.body = .merge va bs) :
    exec (.storePerform e) s = .next (((s.taken pre post r).storeGroup ((s.taken pre post r).mergeBytes bs)).answer r .ack) := by
  refine congrArg _ ((State.performHead_of_firstOf h hin _).trans ?_)
  rw [if_pos ⟨by rw [hbody], hfirst⟩, State.perform, hbody]

theorem exec_atomicPerform {op : AtomicOp} {n pa : Nat} {va b cmp : Word} (hbody : r.body = .atomic op n va pa b cmp) :
    exec (.atomicPerform e) s =
      .next (((s.taken pre post r).atomicStep op n pa b cmp).answer r (.old (w64 (s.readNat pa n)))) := by
  refine congrArg _ ((State.performHead_of_firstOf h hin _).trans ?_)
  rw [if_pos ⟨by rw [hbody], hfirst⟩, State.perform, hbody]
  simp only [State.atomicStep, Bool.and_eq_true, decide_eq_true_eq, (s.taken_sameTables pre post r).readNat]
  rfl

theorem exec_ldasPerform {va : Word} {pa : Nat} (hbody : r.body = .ldas va pa) : exec (.ldasPerform e) s =
    .next ((s.taken pre post r).answer r (.values [(0, BitVec.ofNat 64 (s.sideband pa).toNat)])) := by
  refine congrArg _ ((State.performHead_of_firstOf h hin _).trans ?_)
  rw [if_pos ⟨by rw [hbody], hfirst⟩, State.perform, hbody, BitVec.ofNat_toNat]
  rfl

end Perform

end Sys2Proof.Machine

namespace Sys2Proof.Laws
open Sys2Proof.Machine Sys2Proof.Claims

/-- Settles O21: each kind of request is performed by the head's one step, and changes the bytes it writes. -/
theorem plainPerforms : Obligations.PlainPerforms := by
  intro s e pre post r hstored h hin
  refine ⟨fun hagain => ?again, fun hfirst => ⟨fun es hbody => ?load, fun va bs hbody => ?store, fun va bs hbody => ?merge,
    fun op n va pa b cmp hbody hn hb _ => ?atomic, fun va pa hbody => ?ldas⟩⟩
  case again =>
    have hstays (kind : ReqBody → Bool) : (.next (s.performHead e kind) : Host.Outcome State Fault Refusal) = .next s :=
      congrArg _ ((State.performHead_of_firstOf h hin kind).trans (if_neg fun hfirst => hfirst.2 hagain))
    simp only [List.forall_mem_cons]
    exact ⟨hstays _, hstays _, hstays _, hstays _, hstays _, hstays _, hstays _, by simp⟩
  case load =>
    rw [exec_loadPerform h hin hfirst hbody]
    refine ⟨(s.taken pre post r).answer r (s.loadGroup r.engine es), ⟨fun _ => rfl, fun _ => rfl, rfl⟩, rfl, ?_⟩
    cases hbad : es.filter fun x => s.badRange x.paddr x.size with
    | nil =>
      rw [State.loadGroup_of_good _ hbad]
      simp only [hbad]
      exact performs_answer (.refl _) _
    | cons x xs =>
      rw [State.loadGroup_of_bad _ hbad, lowestAddr_cons]
      simp only [hbad]
      exact performs_answer (.refl _) _
  case store =>
    rw [exec_storePerform h hin hfirst hbody]
    have honly := (s.taken pre post r).storeGroup_memoryOnly bs
    refine ⟨_, performs_answer honly .ack, fun a => ?_, honly.sideband, congrArg Die.monitor (honly.die e),
      (s.taken pre post r).storeGroup_told bs⟩
    exact (State.readByte_storeGroup _ bs a).trans ((s.taken pre post r).readByte_writePairs bs hstored a)
  case merge =>
    rw [exec_storePerform_merge h hin hfirst hbody]
    have honly := (s.taken pre post r).storeGroup_memoryOnly ((s.taken pre post r).mergeBytes bs)
    exact ⟨_, performs_answer honly .ack, (s.taken pre post r).readByte_merge bs hstored, honly.sideband,
      congrArg Die.monitor (honly.die e)⟩
  case atomic =>
    rw [exec_atomicPerform h hin hfirst hbody]
    have honly := (s.taken pre post r).atomicStep_memoryOnly op n pa b cmp
    refine ⟨_, performs_answer honly _, ?_, fun a => (s.taken pre post r).readByte_atomicStep_outside op n pa b cmp,
      honly.sideband, congrArg Die.monitor (honly.die e), (s.taken pre post r).atomicStep_told op n pa b cmp⟩
    rw [(State.answer_sameTables _ r _).readNat, (s.taken pre post r).readNat_atomicStep op n pa b cmp hstored hn hb,
      (s.taken_sameTables pre post r).readNat]
  case ldas =>
    rw [exec_ldasPerform h hin hfirst hbody]
    exact ⟨(s.taken pre post r).answer r (.values [(0, BitVec.ofNat 64 (s.sideband pa).toNat)]),
      ⟨fun _ => rfl, fun _ => rfl, rfl⟩, rfl, performs_answer (.refl _) _⟩

end Sys2Proof.Laws
end

section
/-! SUPPORT. The statements of 09_ordering_machine.md. How an answer reaches its thread, and a regress notice its queue (R98,
R146, R155, R178, R321, R347). -/

set_option Elab.async false

namespace Sys2Proof.Machine
open Sys2Proof.Claims

/-! ### Lists of which one entry goes or changes -/

section Lists
variable {α : Type} {P : α → Prop} {p : α → Bool} {l pre post : List α} {x : α}

theorem dropFirst_eq_eraseIdx (p : α → Bool) (l : List α) : dropFirst p l = l.eraseIdx (l.findIdx p) := by
  induction l with
  | nil => rfl
  | cons y l ih => cases hy : p y <;> simp [dropFirst, List.findIdx_cons, hy, ih]

theorem modFirst_of_firstOf (hp : ∀ y, p y = true ↔ P y) (h : FirstOf P l pre x post) (f : α → α) :
    modFirst p f l = pre ++ f x :: post := by
  obtain ⟨rfl, hx, hpre⟩ := h
  have hx : p x = true := (hp x).2 hx
  induction pre with
  | nil => simp [modFirst, hx]
  | cons y pre ih =>
    have hy : ¬ p y = true := mt (hp y).1 (hpre y (by simp))
    simp [modFirst, hy, ih fun z hz => hpre z (by simp [hz])]

theorem getElem?_modFirst (p : α → Bool) (f : α → α) (l : List α) (n : Nat) :
    (modFirst p f l)[n]? = if n = l.findIdx p then l[n]?.map f else l[n]? := by
  induction l generalizing n with
  | nil => simp [modFirst]
  | cons y l ih =>
    cases hy : p y <;> cases n <;> simp [modFirst, List.findIdx_cons, hy, ih]

end Lists

/-! ### Values put to an open operation (R43, R98) -/

section Values
variable (g : Tag) (vs : List (Nat × Word))

/-- A lane register with the lane values of an answer written one after another. -/
def putLanes (v : VReg) (vs : List (Nat × Word)) : VReg :=
  vs.foldl (fun v x => maskLanes (w64 (2 ^ x.1)) v fun _ => bits x.2 0 32) v

theorem putLanes_cons (v : VReg) (x : Nat × Word) (vs : List (Nat × Word)) :
    putLanes v (x :: vs) = putLanes (maskLanes (w64 (2 ^ x.1)) v fun _ => bits x.2 0 32) vs := by
  rw [putLanes, List.foldl_cons, putLanes]

theorem foldl_putValue_lanes (hv : g.hasV = true) : vs.foldl Tag.putValue g = { g with v := putLanes g.v vs } := by
  induction vs generalizing g with
  | nil => rfl
  | cons x vs ih =>
    rw [List.foldl_cons, Tag.putValue, if_pos hv, putLanes_cons]
    exact ih _ hv

theorem lane_putLanes (v : VReg) {j : Nat} (hj : j < 64) : lane (putLanes v vs) j =
    ((vs.reverse.find? fun x => x.1 = j).map fun x => BitVec.ofNat 32 x.2.toNat).getD (lane v j) := by
  induction vs generalizing v with
  | nil => rfl
  | cons x vs ih =>
    have hbit : (w64 (2 ^ x.1)).getLsbD j = decide (x.1 = j) := by
      simp only [w64, BitVec.getLsbD_ofNat, hj, Nat.testBit_two_pow, decide_true, Bool.true_and]
    have hfirst : lane (maskLanes (w64 (2 ^ x.1)) v fun _ => bits x.2 0 32) j =
        if x.1 = j then BitVec.ofNat 32 x.2.toNat else lane v j := by
      rw [lane_maskLanes _ _ _ _ hj, hbit]
      simp only [decide_eq_true_eq]
      rfl
    rw [putLanes_cons, ih, hfirst, find?_reverse_cons]
    cases vs.reverse.find? fun x => x.1 = j with
    | some y => rfl
    | none => by_cases hx : x.1 = j <;> simp [hx]

/-- Uniform results with the values of an answer written one after another. -/
def putWords (u : List Word) (vs : List (Nat × Word)) : List Word := vs.foldl (fun u x => u.set x.1 x.2) u

theorem foldl_putValue_words (hv : g.hasV = false) : vs.foldl Tag.putValue g = { g with u := putWords g.u vs } := by
  induction vs generalizing g with
  | nil => rfl
  | cons x vs ih =>
    rw [List.foldl_cons, Tag.putValue, if_neg (by simp [hv])]
    exact ih _ hv

theorem putWords_eq (u : List Word) : putWords u vs =
    (List.range u.length).map fun k => ((vs.reverse.find? fun x => x.1 = k).map (·.2)).getD (u.getD k 0) := by
  induction vs generalizing u with
  | nil =>
    refine List.ext_getElem (by simp [putWords]) fun k hk _ => ?_
    have hk : k < u.length := hk
    simp [putWords, hk]
  | cons x vs ih =>
    rw [putWords, List.foldl_cons, ← putWords, ih, List.length_set]
    refine List.map_congr_left fun k hk => ?_
    have hk : k < u.length := List.mem_range.1 hk
    rw [find?_reverse_cons]
    cases vs.reverse.find? fun x => x.1 = k with
    | some y => rfl
    | none => by_cases hx : x.1 = k <;> simp [hx, List.getD, hk]

/-- An answer counted: with the last group the operation is ready, or ends in the trap kept. -/
theorem Tag.answered_of_waiting {g : Tag} (h : g.state = .waiting) :
    g.answered = { g with parts := g.parts - 1, state := afterGroup g g.fault } := by
  by_cases hparts : g.parts ≤ 1 <;> cases hfault : g.fault <;> simp [Tag.answered, afterGroup, h, hparts, hfault]

end Values

/-! ### The registers of a `regset` (R98) -/

section LoadSet
variable {t : Thread} {before after : List Tag} {g : Tag}

/-- Whether an operation is a `regset` all of whose words have come. -/
def Tag.whole (g : Tag) : Bool := g.ordered && !g.image && g.state == .ready

theorem Thread.loadSet_eq (t : Thread) : t.loadSet =
    { (t.tags.filter Tag.whole).foldl (fun (u : Thread) g => u.writeAll g.sds g.u) t with
      tags := t.tags.filter fun g => !g.whole } := rfl

theorem Tag.whole_eq_false_iff (g : Tag) : g.whole = false ↔ (g.ordered = true → g.image = false → g.state ≠ .ready) := by
  unfold Tag.whole
  cases g.ordered <;> cases g.image <;> simp

theorem filter_whole_eq_nil {l : List Tag} (h : ∀ x ∈ l, x.whole = false) : l.filter Tag.whole = [] := by
  simpa [List.filter_eq_nil_iff] using h

theorem filter_not_whole_eq_self {l : List Tag} (h : ∀ x ∈ l, x.whole = false) : (l.filter fun x => !x.whole) = l := by
  simpa [List.filter_eq_self] using h

theorem Thread.loadSet_of_none (h : ∀ x ∈ t.tags, x.whole = false) : t.loadSet = t := by
  rw [Thread.loadSet_eq, filter_whole_eq_nil h, filter_not_whole_eq_self h]
  rfl

theorem Thread.writeS_withTags (t : Thread) (l : List Tag) (r : BitVec 5) (x : Word) :
    { t with tags := l }.writeS r x = { t.writeS r x with tags := l } := by
  unfold Thread.writeS
  split <;> rfl

theorem Thread.writeAll_withTags (t : Thread) (l : List Tag) (rs : List (BitVec 5)) (xs : List Word) :
    { t with tags := l }.writeAll rs xs = { t.writeAll rs xs with tags := l } := by
  induction rs generalizing t xs with
  | nil => rfl
  | cons r rs ih =>
    cases xs with
    | nil => rfl
    | cons x xs => rw [Thread.writeAll, Thread.writeAll, Thread.writeS_withTags, ih]

theorem Thread.loadSet_of_one (hone : g.whole = true) (hrest : ∀ x ∈ before ++ after, x.whole = false) :
    { t with tags := before ++ g :: after }.loadSet = { t with tags := before ++ after }.writeAll g.sds g.u := by
  have hbefore : ∀ x ∈ before, x.whole = false := fun x hx => hrest x (List.mem_append_left _ hx)
  have hafter : ∀ x ∈ after, x.whole = false := fun x hx => hrest x (List.mem_append_right _ hx)
  have hin : (before ++ g :: after).filter Tag.whole = [g] := by
    rw [List.filter_append, List.filter_cons, if_pos hone, filter_whole_eq_nil hbefore, filter_whole_eq_nil hafter]
    rfl
  have hout : ((before ++ g :: after).filter fun x => !x.whole) = before ++ after := by
    rw [List.filter_append, List.filter_cons, if_neg (by simp [hone]), filter_not_whole_eq_self hbefore,
      filter_not_whole_eq_self hafter]
  rw [Thread.loadSet_eq, hin, hout, Thread.writeAll_withTags]
  simp only [List.foldl_cons, List.foldl_nil, Thread.writeAll_withTags]

end LoadSet

/-! ### The thread an answer is delivered to (R155, R321) -/

section Took
variable {s y : State} {p : Place} {pre post : List Resp} {ended : List Out} {r : Resp} {t : Thread}

/-- In `y` an answer is taken and its access is over, the thread at `p` is `t`, and nothing else differs from `s`. -/
structure State.Took (s : State) (p : Place) (pre post : List Resp) (ended : List Out) (y : State) (t : Thread) : Prop where
  thread : y.thread? p = some t
  resps : y.resps = pre ++ post
  outs : y.outs = ended
  frame : { y with slots := s.slots, resps := s.resps, outs := s.outs } = s
  here : { y.slot p with thread := (s.slot p).thread } = s.slot p
  others : ∀ q, q ≠ p → y.slot q = s.slot q

theorem State.Took.setThread (h : s.Took p pre post ended y t) (t' : Thread) : s.Took p pre post ended (y.setThread p t') t' where
  thread := State.thread_setThread_same y p t'
  resps := h.resps
  outs := h.outs
  frame := h.frame
  here := by
    rw [State.setThread, State.slot_setSlot_same]
    exact h.here
  others q hq := (State.slot_setThread_other y hq t').trans (h.others q hq)

theorem State.modThread_of_thread (h : y.thread? p = some t) (f : Thread → Thread) : y.modThread p f = y.setThread p (f t) := by
  simp only [State.modThread, h]

theorem State.Took.modThread (h : s.Took p pre post ended y t) (f : Thread → Thread) :
    s.Took p pre post ended (y.modThread p f) (f t) :=
  State.modThread_of_thread h.thread f ▸ h.setThread (f t)

/-- The operation an answer is for changes, the first of its thread under the answer's number. -/
theorem State.Took.modTag (h : s.Took p pre post ended y t) {n : Nat} {before after : List Tag} {g g' : Tag}
    (hg : FirstOf (fun x => x.req = n) t.tags before g after) {f : Tag → Tag} (hf : f g = g') :
    s.Took p pre post ended (y.modTag p n f) { t with tags := before ++ g' :: after } :=
  hf ▸ modFirst_of_firstOf (fun _ => decide_eq_true_iff) hg f ▸ h.modThread _

/-- With LAT and HOPS written the answer is delivered. -/
theorem State.Took.delivered (h : s.Took p pre post ended y t) (r : Resp) :
    Delivered s p pre post ended r (.next (y.figures p r)) t := by
  have hcycle : y.cycle = s.cycle := congrArg (·.cycle) h.frame
  have hfig : ∃ t', s.Took p pre post ended (y.figures p r) t' ∧ Figured s p r t t' := by
    unfold State.figures Figured
    split
    · exact ⟨t, h, rfl⟩
    · refine ⟨_, h.modThread _, ?_⟩
      rw [State.linkCycles, hcycle]
      rfl
  obtain ⟨t', h', hfigured⟩ := hfig
  exact ⟨_, t', rfl, h'.thread, hfigured, h'.resps, h'.outs, h'.frame, h'.here, h'.others⟩

end Took

/-! ### The head of a response queue (R155, R320) -/

section Respond
variable {s : State} {e d : Nat} {pre post : List Resp} {r : Resp} {p : Place} {t : Thread}

/-- What is outstanding once an access is over: the first that an answer of the home `e` is for is gone. -/
def State.outsAfter (s : State) (r : Resp) (e : Nat) : List Out :=
  s.outs.eraseIdx (s.outs.findIdx fun o => o.owner = r.owner && o.req = r.req && o.dest = e)

/-- The state in which the head of a response queue is taken. -/
def State.headTaken (s : State) (pre post : List Resp) : State := { s with resps := pre ++ post }

/-- The state in which the head of a response queue is taken and its access is over. -/
def State.accessEnded (s : State) (e : Nat) (pre post : List Resp) (r : Resp) : State :=
  { s with resps := pre ++ post, outs := s.outsAfter r e }

variable (h : FirstOf (fun q => q.src = e ∧ q.dest = d) s.resps pre r post)
include h

theorem State.popResp_of_firstOf : s.popResp e d = s.headTaken pre post := by
  have hrest : dropFirst (fun q : Resp => decide (q.src = e) && decide (q.dest = d)) s.resps = pre ++ post :=
    dropFirst_of_firstOf (fun q => by simp) h
  simp only [State.popResp, hrest, State.headTaken]

theorem State.dropOut_headTaken : (s.headTaken pre post).dropOut r = s.accessEnded e pre post r := by
  obtain ⟨hsrc, -⟩ := h.2.1
  simp only [State.dropOut, dropFirst_eq_eraseIdx, hsrc]
  rfl

theorem State.took_accessEnded (ht : s.thread? p = some t) :
    s.Took p pre post (s.outsAfter r e) ((s.headTaken pre post).dropOut r) t := by
  rw [State.dropOut_headTaken h]
  exact ⟨ht, rfl, rfl, rfl, rfl, fun _ _ => rfl⟩

variable (hgo : r.passed = true ∨ s.routeClear e d = true)
include hgo

theorem State.respHead_of_firstOf : s.respHead e d = some r := by
  have hfind : (s.resps.find? fun q => decide (q.src = e ∧ q.dest = d)) = some r :=
    find?_of_firstOf (fun q => decide_eq_true_iff) h
  simp only [State.respHead, hfind, Option.filter_some, Bool.or_eq_true, hgo, if_true]

theorem exec_respond_of_not_plain (hplain : r.body.plain = false) : exec (.respond e d) s = .next s := by
  change execRespond e d s = _
  simp only [execRespond, State.respHead_of_firstOf h hgo, hplain]
  rfl

variable (hfind : s.findThread r.owner = some (p, t))
include hfind

theorem exec_respond_of_plain {b : RespBody} (hbody : r.body = b) (hplain : b.plain = true) (hno : b ≠ .packetNo) :
    exec (.respond e d) s = .next ((s.headTaken pre post).deliverTo p r) := by
  have hfind' : (s.headTaken pre post).findThread r.owner = some (p, t) := hfind
  change execRespond e d s = _
  simp only [execRespond, State.respHead_of_firstOf h hgo, State.popResp_of_firstOf h, hbody, hplain, hno, hfind']
  rfl

variable (ht : s.thread? p = some t) {before after : List Tag} {g g' : Tag}
  (hg : FirstOf (fun x => x.req = r.req) t.tags before g after)
include ht hg

/-- An answer that changes the operation it is for and nothing else of its thread. -/
theorem respond_operation {b : RespBody} (hbody : r.body = b) (hplain : b.plain = true) (hno : b ≠ .packetNo) {f : Tag → Tag}
    (hdeliver : (s.headTaken pre post).deliverTo p r = (((s.headTaken pre post).dropOut r).modTag p r.req f).figures p r)
    (hf : f g = g') : Delivered s p pre post (s.outsAfter r e) r (exec (.respond e d) s)
      { t with tags := before ++ g' :: after } := by
  rw [exec_respond_of_plain h hgo hfind hbody hplain hno, hdeliver]
  exact ((State.took_accessEnded h ht).modTag hg hf).delivered r

/-- The values of a load, which may complete a `regset`. -/
theorem respond_values {vs : List (Nat × Word)} (hbody : r.body = .values vs) (hf : (vs.foldl Tag.putValue g).answered = g') :
    Delivered s p pre post (s.outsAfter r e) r (exec (.respond e d) s) { t with tags := before ++ g' :: after }.loadSet := by
  rw [exec_respond_of_plain h hgo hfind hbody rfl nofun]
  simp only [State.deliverTo, hbody]
  exact (((State.took_accessEnded h ht).modTag hg hf).modThread Thread.loadSet).delivered r

variable (hrest : ∀ x ∈ before ++ after, x.whole = false)
include hrest

/-- Values that do not complete a `regset` change their operation alone. -/
theorem respond_values_part {vs : List (Nat × Word)} (hbody : r.body = .values vs)
    (hf : (vs.foldl Tag.putValue g).answered = g') (hpart : g'.whole = false) :
    Delivered s p pre post (s.outsAfter r e) r (exec (.respond e d) s) { t with tags := before ++ g' :: after } := by
  have hnone : { t with tags := before ++ g' :: after }.loadSet = { t with tags := before ++ g' :: after } :=
    Thread.loadSet_of_none fun x hx => by
      obtain rfl | hx := List.mem_cons.1 (List.perm_middle.mem_iff.1 hx)
      · exact hpart
      · exact hrest x hx
  exact hnone ▸ respond_values h hgo hfind ht hg hbody hf

/-- Values that complete a `regset` write its registers. -/
theorem respond_values_whole {vs : List (Nat × Word)} (hbody : r.body = .values vs)
    (hf : (vs.foldl Tag.putValue g).answered = g') (hwhole : g'.whole = true) :
    Delivered s p pre post (s.outsAfter r e) r (exec (.respond e d) s)
      ({ t with tags := before ++ after }.writeAll g'.sds g'.u) :=
  Thread.loadSet_of_one hwhole hrest ▸ respond_values h hgo hfind ht hg hbody hf

end Respond

/-! ### Regress notices (R178, R347) -/

section Regress
variable {s : State} {e d : Nat} {pre post : List Resp} {r : Resp} {p : Place} {t : Thread} {va : Word} {w : BitVec 24}

theorem addNotice_eq (q : List Word) (a : Word) : addNotice q a = if q.length < 16 then q ++ [a]
    else (List.range q.length).map fun k => if k = 15 then q.getD k 0 ||| 1 else q.getD k 0 := by
  unfold addNotice
  split
  case isTrue => rfl
  case isFalse =>
    refine List.ext_getElem (by simp) fun k hk _ => ?_
    have hk : k < q.length := by simpa using hk
    simp [hk]

theorem State.accessEnded_sameTables (s : State) (e : Nat) (pre post : List Resp) (r : Resp) :
    s.SameTables (s.accessEnded e pre post r) := ⟨rfl, rfl, rfl, rfl, rfl, rfl⟩

theorem State.SameTables.blockRead {s x : State} (h : s.SameTables x) (v : Saving) (off : Nat) :
    x.blockRead v off = s.blockRead v off := by
  simp only [State.blockRead, State.blockPa, h.translate, h.read64]

theorem bits_low5_toNat (x : Word) : (bits x 0 5).toNat = x.toNat % 32 := by
  simp [bits, BitVec.extractLsb'_toNat]

/-- The state in which a notice is in the queue of its thread, saved or not, or is discarded and told to management. -/
def State.regressed (s : State) (owner : Nat) (va : Word) (w : BitVec 24) : State :=
  match s.blockOf owner with
  | some v => s.blockNotice v va
  | none =>
    match s.findThread owner with
    | some (p, _) =>
      if s.widAt p = w then s.modThread p fun t => { t with notices := addNotice t.notices va }
      else s.tell (.noticeDiscarded w)
    | none => s.tell (.noticeDiscarded w)

theorem exec_stampRegress (h : FirstOf (fun q => q.src = e ∧ q.dest = d) s.resps pre r post)
    (hgo : r.passed = true ∨ s.routeClear e d = true) (hbody : r.body = .regress va w) :
    exec (.stampRegress e d) s = .next ((s.accessEnded e pre post r).regressed r.owner va w) := by
  change execStampRegress e d s = _
  simp only [execStampRegress, State.respHead_of_firstOf h hgo, State.popResp_of_firstOf h, State.dropOut_headTaken h, hbody]
  unfold State.regressed
  cases (s.accessEnded e pre post r).blockOf r.owner with
  | some v => rfl
  | none =>
    cases (s.accessEnded e pre post r).findThread r.owner with
    | none => rfl
    | some x => exact (apply_ite Host.Outcome.next _ _ _).symm

theorem State.regressed_saved {v : Saving} (hsaved : s.blockOf r.owner = some v) :
    s.regressed r.owner va w = s.blockNotice v va := by
  simp only [State.regressed, hsaved]

theorem State.regressed_present (hsaved : s.blockOf r.owner = none) (hfind : s.findThread r.owner = some (p, t))
    (ht : s.thread? p = some t) (hw : s.widAt p = w) :
    s.regressed r.owner va w = s.setThread p { t with notices := addNotice t.notices va } := by
  simp only [State.regressed, hsaved, hfind, hw, if_true, State.modThread_of_thread ht]

theorem State.regressed_gone (hsaved : s.blockOf r.owner = none)
    (hgone : ∀ p t, s.findThread r.owner = some (p, t) → s.widAt p ≠ w) :
    s.regressed r.owner va w = s.tell (.noticeDiscarded w) := by
  cases hfind : s.findThread r.owner with
  | none => simp only [State.regressed, hsaved, hfind]
  | some x => simp only [State.regressed, hsaved, hfind, hgone x.1 x.2 hfind, if_false]

end Regress

end Sys2Proof.Machine

namespace Sys2Proof.Claims
open Sys2Proof.Machine

theorem respondRules : RespondRules := by
  intro s e d pre post r p t h hfind ht hgo
  refine ⟨fun hbody => ?ack, fun hbody => ?accepted, fun q hbody => ?retry, fun hbody => ?own,
    fun before g after hg hwait hothers => ?operation⟩
  case ack =>
    rw [exec_respond_of_plain h hgo hfind hbody rfl nofun]
    simp only [State.deliverTo, hbody, State.dropOut_headTaken h]
    rfl
  case accepted =>
    rw [exec_respond_of_plain h hgo hfind hbody rfl nofun]
    simp only [State.deliverTo, hbody]
    exact ⟨_, rfl, rfl, rfl, getElem?_modFirst _ _ _⟩
  case retry =>
    rw [exec_respond_of_plain h hgo hfind hbody rfl nofun]
    simp only [State.deliverTo, hbody]
    rfl
  case own =>
    refine exec_respond_of_not_plain h hgo ?_
    obtain ⟨va, w, hbody⟩ | ⟨a, b, c, k, i, hbody⟩ | hbody := hbody <;> rw [hbody] <;> rfl
  case operation =>
    have hrest : ∀ x ∈ before ++ after, x.whole = false := fun x hx => x.whole_eq_false_iff.2 (hothers x hx)
    refine ⟨fun vs hbody hv hordered => ?lanes, fun vs hbody hv => ?words, fun x hbody hv hlen hordered => ?old,
      fun b st hbody => ?block, fun l c info hbody => ?trap⟩
    case lanes =>
      refine ⟨putLanes g.v vs, fun j hj => lane_putLanes vs g.v hj, fun _ => ?_⟩
      refine respond_values_part h hgo hfind ht hg hrest hbody ?_ (by simp [Tag.whole, hordered])
      rw [foldl_putValue_lanes g vs hv]
      exact Tag.answered_of_waiting hwait
    case words =>
      have hput : (vs.foldl Tag.putValue g).answered =
          { g with u := putWords g.u vs, parts := g.parts - 1, state := afterGroup g g.fault } := by
        rw [foldl_putValue_words g vs hv]
        exact Tag.answered_of_waiting hwait
      rw [putWords_eq] at hput
      refine ⟨fun hpart => respond_values_part h hgo hfind ht hg hrest hbody hput ?_,
        fun hordered himage hready => respond_values_whole h hgo hfind ht hg hrest hbody hput ?_⟩
      · exact (Tag.whole_eq_false_iff _).2 fun hordered himage hready => hpart ⟨hordered, himage, hready⟩
      · have hready : afterGroup g g.fault = .ready := hready
        simp [Tag.whole, hordered, himage, hready]
    case old =>
      refine respond_operation h hgo hfind ht hg hbody rfl nofun (by simp only [State.deliverTo, hbody]; rfl) ?_
      have hu : g.u.set 0 x = [x] := by
        obtain ⟨y, hy⟩ := List.length_eq_one_iff.1 hlen
        rw [hy, List.set_cons_zero]
      rw [Tag.putValue, if_neg (by simp [hv]), hu]
      exact Tag.answered_of_waiting hwait
    case block =>
      refine respond_operation h hgo hfind ht hg hbody rfl nofun (by simp only [State.deliverTo, hbody]; rfl) ?_
      rw [BitVec.ofNat_toNat]
      exact Tag.answered_of_waiting hwait
    case trap =>
      refine respond_operation h hgo hfind ht hg hbody rfl nofun (by simp only [State.deliverTo, hbody]; rfl) ?_
      have hinfo : (if (g.image && !g.ordered) = true then g.addr else info) =
          if g.image = true ∧ g.ordered = false then g.addr else info := by
        cases g.image <;> cases g.ordered <;> rfl
      rw [Tag.trap, hinfo]
      exact Tag.answered_of_waiting hwait

theorem regressNotices : RegressNotices := by
  intro s e d pre post r va w h hgo hbody
  refine ⟨fun p t hsaved hfind ht hw => ?present, fun hsaved hgone => ?gone, fun v hsaved => ?saved⟩
  case present =>
    rw [← addNotice_eq, exec_stampRegress h hgo hbody]
    exact congrArg _ (State.regressed_present (s := s.accessEnded e pre post r) hsaved hfind ht hw)
  case gone =>
    rw [exec_stampRegress h hgo hbody]
    exact congrArg _ (State.regressed_gone (s := s.accessEnded e pre post r) hsaved hgone)
  case saved =>
    have hblock : (s.accessEnded e pre post r).regressed r.owner va w = (s.accessEnded e pre post r).blockNotice v va :=
      State.regressed_saved hsaved
    rw [exec_stampRegress h hgo hbody, hblock]
    simp only [State.blockNotice, (s.accessEnded_sameTables e pre post r).blockRead, bits_low5_toNat]
    exact ⟨fun hroom => congrArg _ (if_pos hroom), fun hfull => congrArg _ (if_neg (not_lt.2 hfull))⟩

end Sys2Proof.Claims

namespace Sys2Proof.Laws

/-- Settles O23: RESPOND changes the operation an answer is for as its kind of answer says, and STAMP_REGRESS finds the notice's
queue in a block, in a thread, or nowhere. -/
theorem respondRules : Obligations.RespondRules := ⟨Claims.respondRules, Claims.regressNotices⟩

end Sys2Proof.Laws
end

section
/-! SUPPORT. The statements of 09_ordering_machine.md. What a word leaves alone when it issues (R150, R151): each word's meaning
keeps memory and sideband, word by word in the order of the tables of its form. -/

set_option Elab.async false

namespace Sys2Proof.Machine

section Words
variable {i : Instr} (s : State)

theorem exec_uniform_keeps (h : i.form = .uniform) : OutKeeps s (exec i s) := by
  cases i with
  | unop => exact execUnop_keeps s
  | add sd sa sb => exact execAdd_keeps sd sa sb s
  | addi sd sa imm => exact execAddi_keeps sd sa imm s
  | sub sd sa sb => exact execSub_keeps sd sa sb s
  | mul sd sa sb => exact execMul_keeps sd sa sb s
  | mulh sd sa sb => exact execMulh_keeps sd sa sb s
  | mulhu sd sa sb => exact execMulhu_keeps sd sa sb s
  | and sd sa sb => exact execAnd_keeps sd sa sb s
  | andi sd sa imm => exact execAndi_keeps sd sa imm s
  | or sd sa sb => exact execOr_keeps sd sa sb s
  | ori sd sa imm => exact execOri_keeps sd sa imm s
  | xor sd sa sb => exact execXor_keeps sd sa sb s
  | xori sd sa imm => exact execXori_keeps sd sa imm s
  | shl sd sa sb => exact execShl_keeps sd sa sb s
  | shli sd sa imm => exact execShli_keeps sd sa imm s
  | shr sd sa sb => exact execShr_keeps sd sa sb s
  | shri sd sa imm => exact execShri_keeps sd sa imm s
  | sra sd sa sb => exact execSra_keeps sd sa sb s
  | srai sd sa imm => exact execSrai_keeps sd sa imm s
  | min sd sa sb => exact execMin_keeps sd sa sb s
  | max sd sa sb => exact execMax_keeps sd sa sb s
  | minu sd sa sb => exact execMinu_keeps sd sa sb s
  | maxu sd sa sb => exact execMaxu_keeps sd sa sb s
  | addx sd sa sb sh => exact execAddx_keeps sd sa sb sh s
  | clz sd sa => exact execClz_keeps sd sa s
  | popc sd sa => exact execPopc_keeps sd sa s
  | bext sd sa sb => exact execBext_keeps sd sa sb s
  | sext sd sa imm => exact execSext_keeps sd sa imm s
  | slt sd sa sb => exact execSlt_keeps sd sa sb s
  | sltu sd sa sb => exact execSltu_keeps sd sa sb s
  | qeq qd sa sb => exact execQeq_keeps qd sa sb s
  | qne qd sa sb => exact execQne_keeps qd sa sb s
  | qlt qd sa sb => exact execQlt_keeps qd sa sb s
  | qltu qd sa sb => exact execQltu_keeps qd sa sb s
  | qle qd sa sb => exact execQle_keeps qd sa sb s
  | qleu qd sa sb => exact execQleu_keeps qd sa sb s
  | qeqi qd sa imm => exact execQeqi_keeps qd sa imm s
  | qlti qd sa imm => exact execQlti_keeps qd sa imm s
  | qand qd qa qb => exact execQand_keeps qd qa qb s
  | qor qd qa qb => exact execQor_keeps qd qa qb s
  | qxor qd qa qb => exact execQxor_keeps qd qa qb s
  | qnot qd qa => exact execQnot_keeps qd qa s
  | _ => cases h

theorem exec_vector_keeps (h : i.form = .vector) : OutKeeps s (exec i s) := by
  cases i with
  | vnop => exact execVnop_keeps s
  | vadd vd va vb pm w uns sat => exact execVadd_keeps vd va vb pm w uns sat s
  | vsub vd va vb pm w uns sat => exact execVsub_keeps vd va vb pm w uns sat s
  | vmul vd va vb pm w => exact execVmul_keeps vd va vb pm w s
  | vmulh vd va vb pm w => exact execVmulh_keeps vd va vb pm w s
  | vmulhu vd va vb pm w => exact execVmulhu_keeps vd va vb pm w s
  | vand vd va vb pm => exact execVand_keeps vd va vb pm s
  | vor vd va vb pm => exact execVor_keeps vd va vb pm s
  | vxor vd va vb pm => exact execVxor_keeps vd va vb pm s
  | vshl vd va vb pm w => exact execVshl_keeps vd va vb pm w s
  | vshr vd va vb pm w => exact execVshr_keeps vd va vb pm w s
  | vsra vd va vb pm w => exact execVsra_keeps vd va vb pm w s
  | vmin vd va vb pm w => exact execVmin_keeps vd va vb pm w s
  | vmax vd va vb pm w => exact execVmax_keeps vd va vb pm w s
  | vminu vd va vb pm w => exact execVminu_keeps vd va vb pm w s
  | vmaxu vd va vb pm w => exact execVmaxu_keeps vd va vb pm w s
  | vsel vd va vb pm => exact execVsel_keeps vd va vb pm s
  | viota vd pm => exact execViota_keeps vd pm s
  | vfadd vd va vb pm t r => exact execVfadd_keeps vd va vb pm t r s
  | vfsub vd va vb pm t r => exact execVfsub_keeps vd va vb pm t r s
  | vfmul vd va vb pm t r => exact execVfmul_keeps vd va vb pm t r s
  | vfma vd va vb pm t r => exact execVfma_keeps vd va vb pm t r s
  | vfms vd va vb pm t r => exact execVfms_keeps vd va vb pm t r s
  | vfmin vd va vb pm t r => exact execVfmin_keeps vd va vb pm t r s
  | vfmax vd va vb pm t r => exact execVfmax_keeps vd va vb pm t r s
  | vfdiv vd va vb pm t r => exact execVfdiv_keeps vd va vb pm t r s
  | vfsqrt vd va pm t r => exact execVfsqrt_keeps vd va pm t r s
  | vfrsq vd va pm t r => exact execVfrsq_keeps vd va pm t r s
  | vfexp2 vd va pm t r => exact execVfexp2_keeps vd va pm t r s
  | vflog2 vd va pm t r => exact execVflog2_keeps vd va pm t r s
  | vfabs vd va pm t => exact execVfabs_keeps vd va pm t s
  | vfneg vd va pm t => exact execVfneg_keeps vd va pm t s
  | vcmpeq pd va vb pm w => exact execVcmpeq_keeps pd va vb pm w s
  | vcmplt pd va vb pm w uns => exact execVcmplt_keeps pd va vb pm w uns s
  | vcmple pd va vb pm w uns => exact execVcmple_keeps pd va vb pm w uns s
  | vfcmp pd va vb pm t c => exact execVfcmp_keeps pd va vb pm t c s
  | pand pd pa pb => exact execPand_keeps pd pa pb s
  | por pd pa pb => exact execPor_keeps pd pa pb s
  | pandn pd pa pb => exact execPandn_keeps pd pa pb s
  | pxor pd pa pb => exact execPxor_keeps pd pa pb s
  | vcvt vd va pm c => exact execVcvt_keeps vd va pm c s
  | vcvtPair vd va vb pm c => exact execVcvtPair_keeps vd va vb pm c s
  | vdec vd va pm c4 t1 grp => exact execVdec_keeps vd va pm c4 t1 grp s
  | venc vd va pm c4 t1 inf => exact execVenc_keeps vd va pm c4 t1 inf s
  | vshuf vd va vb pm => exact execVshuf_keeps vd va vb pm s
  | vroti vd va n pm => exact execVroti_keeps vd va n pm s
  | vscan vd va pm op => exact execVscan_keeps vd va pm op s
  | vcmprs vd va pm => exact execVcmprs_keeps vd va pm s
  | _ => cases h

theorem exec_long_keeps (h : i.form = .long) (hrulew : ∀ a b, i ≠ .rulew a b) (hboard : ∀ k a b c, i ≠ .board k a b c) :
    OutKeeps s (exec i s) := by
  cases i with
  | li sd imm => exact execLi_keeps sd imm s
  | lih sd imm => exact execLih_keeps sd imm s
  | addil sd sa imm => exact execAddil_keeps sd sa imm s
  | ld sd sa la w4 imm => exact execLd_keeps sd sa la w4 imm s
  | st sa sb w4 imm => exact execSt_keeps sa sb w4 imm s
  | aadd sd sa sb la w4 imm => exact execAadd_keeps sd sa sb la w4 imm s
  | amin sd sa sb la w4 imm => exact execAmin_keeps sd sa sb la w4 imm s
  | amax sd sa sb la w4 imm => exact execAmax_keeps sd sa sb la w4 imm s
  | aand sd sa sb la w4 imm => exact execAand_keeps sd sa sb la w4 imm s
  | aor sd sa sb la w4 imm => exact execAor_keeps sd sa sb la w4 imm s
  | axch sd sa sb la w4 imm => exact execAxch_keeps sd sa sb la w4 imm s
  | acas sd sa sb la w4 imm => exact execAcas_keeps sd sa sb la w4 imm s
  | fence k course => exact execFence_keeps k course s
  | br imm => exact execBr_keeps imm s
  | call sd imm => exact execCall_keeps sd imm s
  | jr sa => exact execJr_keeps sa s
  | loop n sa imm => exact execLoop_keeps n sa imm s
  | mfs sd idx => exact execMfs_keeps sd idx s
  | mts sa idx => exact execMts_keeps sa idx s
  | crset sa e => exact execCrset_keeps sa e s
  | trapi imm => exact execTrapi_keeps imm s
  | eret => exact execEret_keeps s
  | yield => exact execYield_keeps s
  | regset sa mask => exact execRegset_keeps sa mask s
  | vld vd sa pm la off => exact execVld_keeps vd sa pm la off s
  | vst vd sa pm off => exact execVst_keeps vd sa pm off s
  | vlds vd sa sx pm la z off => exact execVlds_keeps vd sa sx pm la z off s
  | vsts vd sa sx pm z off => exact execVsts_keeps vd sa sx pm z off s
  | vgath vd sa vb pm la z off => exact execVgath_keeps vd sa vb pm la z off s
  | vscat vd sa vb pm z off => exact execVscat_keeps vd sa vb pm z off s
  | vpf sa off => exact execVpf_keeps sa off s
  | lda vd sa sx sy la wait lag => exact execLda_keeps vd sa sx sy la wait lag s
  | sta vd sa sx off => exact execSta_keeps vd sa sx off s
  | stad vd sa sx pm off => exact execStad_keeps vd sa sx pm off s
  | ldas sa sy la => exact execLdas_keeps sa sy la s
  | vtou sy vd pm low e => exact execVtou_keeps sy vd pm low e s
  | utov vd sa pm => exact execUtov_keeps vd sa pm s
  | vred sy vd pm op => exact execVred_keeps sy vd pm op s
  | vuni sy qd vd pm => exact execVuni_keeps sy qd vd pm s
  | ptou sy pn => exact execPtou_keeps sy pn s
  | utop pd sa => exact execUtop_keeps pd sa s
  | pany qd pn => exact execPany_keeps qd pn s
  | pall qd pn => exact execPall_keeps qd pn s
  | tdesc d s1 => exact execTdesc_keeps d s1 s
  | tzero a s1 s2 => exact execTzero_keeps a s1 s2 s
  | tmm a da db => exact execTmm_keeps a da db s
  | tmmr a dx k s1 => exact execTmmr_keeps a dx k s1 s
  | tdrain a dc s1 => exact execTdrain_keeps a dc s1 s
  | tcopy ch s1 s2 s3 => exact execTcopy_keeps ch s1 s2 s3 s
  | twait s1 => exact execTwait_keeps s1 s
  | ttab t s1 => exact execTtab_keeps t s1 s
  | tcnv dd ds => exact execTcnv_keeps dd ds s
  | tqms dr da dx s1 => exact execTqms_keeps dr da dx s1 s
  | tlu dn => exact execTlu_keeps dn s
  | tsolv dl dv => exact execTsolv_keeps dl dv s
  | link s1 s2 => exact execLink_keeps s1 s2 s
  | alloc sd la n => exact execAlloc_keeps sd la n s
  | free s1 => exact execFree_keeps s1 s
  | push s1 s2 => exact execPush_keeps s1 s2 s
  | endThread => exact execEndThread_keeps s
  | nld s1 sd la off => exact execNld_keeps s1 sd la off s
  | nst s1 s2 off => exact execNst_keeps s1 s2 off s
  | rulew => exact absurd rfl (hrulew _ _)
  | board => exact absurd rfl (hboard _ _ _ _)
  | unboard k => exact execUnboard_keeps k s
  | ringq k sd la code => exact execRingq_keeps k sd la code s
  | mig s1 => exact execMig_keeps s1 s
  | reds s1 s2 v => exact execReds_keeps s1 s2 v s
  | halt => exact execHalt_keeps s
  | svc e => exact execSvc_keeps e s
  | _ => cases h

/-- No word but `rulew` and `board` writes memory or a sideband when it issues. -/
theorem exec_word_keeps (hword : i.form ≠ .event) (hrulew : ∀ a b, i ≠ .rulew a b) (hboard : ∀ k a b c, i ≠ .board k a b c) :
    OutKeeps s (exec i s) := by
  cases hform : i.form with
  | uniform => exact exec_uniform_keeps s hform
  | vector => exact exec_vector_keeps s hform
  | long => exact exec_long_keeps s hform hrulew hboard
  | event => exact absurd hform hword

end Words

end Sys2Proof.Machine

namespace Sys2Proof.Laws
open Sys2Proof.Machine

/-- Settles O60: each word's meaning has its own lemma, by the form it is of. -/
theorem wordsLeaveMemory : Obligations.WordsLeaveMemory := by
  intro i s u hword hrulew hboard hnext
  obtain ⟨hmem, hside⟩ := exec_word_keeps s hword hrulew hboard u hnext
  exact ⟨fun a => congrArg (sparseRead unlisted · a) hmem, fun a => congrArg (sparseRead 0 · a) hside⟩

end Sys2Proof.Laws
end

section
/-! SUPPORT. The statements of 10_stamped_memory.md. What a stamped load and a stamped store do at their home (R12, R13, R139,
R154, R156, R175, R176, R180). -/

set_option Elab.async false

namespace Sys2Proof.Machine
open Sys2Proof.Claims

/-! ### Stamps, writers and the tests of R175 (R6, R172, R175) -/

theorem serial_eq_stampDiff (a b : BitVec 32) : serial a b = stampDiff a b := by
  rw [serial, BitVec.toInt_sub, BitVec.toInt_eq_toNat_bmod, BitVec.toInt_eq_toNat_bmod, ← Int.sub_bmod, stampDiff]

theorem freshEnough_iff (lag : BitVec 8) (stamp iter : BitVec 32) :
    freshEnough lag stamp iter = true ↔ lag = 255 ∨ -(lag.toNat : Int) ≤ stampDiff stamp iter := by
  rw [freshEnough, serial_eq_stampDiff, Bool.or_eq_true, decide_eq_true_iff, decide_eq_true_iff]

theorem accepts_iff (new old : BitVec 32) : accepts new old = true ↔ 0 ≤ stampDiff new old := by
  rw [accepts, serial_eq_stampDiff, decide_eq_true_iff]

theorem State.writerOf_eq_ofNat (s : State) (a : Nat) : s.writerOf a = BitVec.ofNat 24 ((s.sideband a).toNat / 2 ^ 32) := by
  rw [State.writerOf, BitVec.extractLsb', Nat.shiftRight_eq_div_pow]

theorem toNat_writer_append_stamp (w : BitVec 24) (stamp : BitVec 32) : (w ++ stamp).toNat = w.toNat * 2 ^ 32 + stamp.toNat := by
  rw [BitVec.toNat_append, ← Nat.shiftLeft_add_eq_or_of_lt stamp.isLt, Nat.shiftLeft_eq]

theorem State.stampOf_setSide_same (s : State) (a : Nat) (stamp : BitVec 32) (w : BitVec 24) (h : s.stored) :
    (s.setSide a stamp w).stampOf a = stamp := by
  rw [State.stampOf, State.sideband_setSide_same s a stamp w h, BitVec.extractLsb'_append_eq_right]

/-! ### What a step at a home may change beside memory (R154) -/

/-- The state `x` is `s` but for memory, errors, sidebands, what management is told, and the monitor of the die `e`. -/
structure State.AtHome (s : State) (e : Nat) (x : State) : Prop where
  rest : { x with mem := s.mem, errors := s.errors, side := s.side, dies := s.dies, mgmt := s.mgmt } = s
  others : ∀ d, d ≠ e → x.die d = s.die d
  monitor : { x.die e with monitor := (s.die e).monitor } = s.die e

section AtHome
variable {s x : State} {e : Nat}

theorem State.MemoryOnly.atHome (h : s.MemoryOnly x) (e : Nat) : s.AtHome e x where
  rest := congrArg (fun y : State => { y with side := s.side, dies := s.dies }) h
  others d _ := h.die d
  monitor := congrArg (fun y : Die => { y with monitor := (s.die e).monitor }) (h.die e)

theorem State.AtHome.setSide (h : s.AtHome e x) (a : Nat) (stamp : BitVec 32) (w : BitVec 24) :
    s.AtHome e (x.setSide a stamp w) := ⟨h.rest, h.others, h.monitor⟩

theorem State.AtHome.modMonitor (h : s.AtHome e x) (f : List MonEntry → List MonEntry) :
    s.AtHome e (x.modDie e fun d => { d with monitor := f d.monitor }) where
  rest := h.rest
  others d hd := (State.die_setDie_other x hd _).trans (h.others d hd)
  monitor := by
    rw [State.modDie, State.die_setDie_same]
    exact h.monitor

/-- Answers given at the home after such a change are the performance of the request taken. -/
theorem State.AtHome.performs {pre post : List Req} {r : Req} (h : (s.taken pre post r).AtHome e x) (as : List Resp) :
    Performs s e pre post r (.next { x with resps := s.resps ++ as }) as { x with resps := s.resps ++ as } where
  left := rfl
  right := ⟨congrArg (·.arrivals) h.rest, rfl, congrArg (·.stepped) h.rest,
    congrArg (fun y : State => { y with arrivals := s.arrivals, resps := s.resps, stepped := s.stepped }) h.rest,
    h.others, h.monitor⟩

theorem State.AtHome.performs_answer {pre post : List Req} {r : Req} (h : (s.taken pre post r).AtHome e x) (b : RespBody) :
    Performs s e pre post r (.next (x.answer r b)) [reply s r b] (x.answer r b) := by
  have hresps : x.resps = s.resps := congrArg (·.resps) h.rest
  have hcycle : x.cycle = s.cycle := congrArg (·.cycle) h.rest
  have hanswer : x.answer r b = { x with resps := s.resps ++ [reply s r b] } := by rw [State.answer, hresps, hcycle, reply]
  rw [hanswer]
  exact h.performs _

end AtHome

/-! ### The answers to monitor entries (R154, R176, R182) -/

/-- The answer that the request of a monitor entry of the die `e` gets in a cycle. -/
def MonEntry.answer (m : MonEntry) (e cycle : Nat) (b : RespBody) : Resp :=
  ⟨m.req, m.owner, e, m.src, m.hops, m.lat, cycle, m.vaddr, b, false⟩

theorem State.foldl_answerEntry (e : Nat) (b : MonEntry → RespBody) (ms : List MonEntry) (s : State) :
    ms.foldl (fun (x : State) m => x.answerEntry e m (b m)) s =
      { s with resps := s.resps ++ ms.map fun m => m.answer e s.cycle (b m) } := by
  induction ms generalizing s with
  | nil => simp
  | cons m ms ih =>
    rw [List.foldl_cons, ih]
    simp [State.answerEntry, MonEntry.answer]

/-- Whether an entry is on a block and its bound is met by the block's stamp. -/
def State.boundMet (s : State) (pa : Nat) (m : MonEntry) : Bool := m.paddr = pa && freshEnough m.lag (s.stampOf pa) m.iter

theorem State.boundMet_iff (s : State) (pa : Nat) (m : MonEntry) : s.boundMet pa m = true ↔
    m.paddr = pa ∧ (m.lag = 255 ∨ -(m.lag.toNat : Int) ≤ stampDiff (s.stampOf pa) m.iter) := by
  rw [State.boundMet, Bool.and_eq_true, decide_eq_true_iff, freshEnough_iff]

theorem State.answerMet_eq (s : State) (e pa : Nat) : s.answerMet e pa =
    { s.modDie e (fun d => { d with monitor := d.monitor.filter fun m => !s.boundMet pa m }) with
      resps := s.resps ++ ((s.die e).monitor.filter (s.boundMet pa)).map fun m => m.answer e s.cycle (s.blockAnswer m.vaddr pa) } :=
  State.foldl_answerEntry e _ _ _

/-- The state in which the entries of a block whose bound is met are freed. -/
def State.released (s : State) (e pa : Nat) : State :=
  s.modDie e fun d => { d with monitor := d.monitor.filter fun m => !s.boundMet pa m }

/-! ### The block as an answer (R146, R154) -/

theorem State.readNat_setDie (s : State) (d : Nat) (x : Die) (a n : Nat) : (s.setDie d x).readNat a n = s.readNat a n := by
  have hbytes : (s.setDie d x).readBytes a n = s.readBytes a n := by
    induction n generalizing a with
    | zero => rfl
    | succ n ih => exact congrArg (s.readByte a :: ·) (ih (a + 1))
  rw [State.readNat, hbytes, State.readNat]

theorem blockReply_setDie (s : State) (d : Nat) (x : Die) (va : Word) (pa : Nat) :
    blockReply (s.setDie d x) va pa = blockReply s va pa := by
  rw [blockReply, State.readNat_setDie]
  rfl

theorem State.SameTables.blockReply {s x : State} (h : s.SameTables x) (hside : x.side = s.side) (va : Word) (pa : Nat) :
    blockReply x va pa = blockReply s va pa := by
  simp only [Claims.blockReply, h.badRange, h.readNat, State.sideband, hside]

/-! ### Answers to the requests that waited for a block (R154, R176) -/

theorem reply_congr {s x : State} (h : x.cycle = s.cycle) (r : Req) (b : RespBody) : reply x r b = reply s r b := by
  rw [reply, h, reply]

theorem State.answerMet_answer (s : State) (e pa : Nat) (r : Req) (b : RespBody) : (s.answer r b).answerMet e pa =
    { s.released e pa with
      resps := s.resps ++ reply s r b ::
        ((s.die e).monitor.filter (s.boundMet pa)).map fun m => m.answer e s.cycle (blockReply s m.vaddr pa) } := by
  have hblock (va : Word) : (s.answer r b).blockAnswer va pa = blockReply s va pa := (s.answer_sameTables r b).blockReply rfl va pa
  simp only [State.answerMet_eq, hblock]
  rw [State.answer, List.append_assoc, List.singleton_append]
  rfl

theorem blockReply_released (s : State) (e : Nat) (as : List Resp) (va : Word) (pa : Nat) :
    blockReply { s.released e pa with resps := as } va pa = blockReply s va pa := by
  have hsame : (s.released e pa).SameTables { s.released e pa with resps := as } := ⟨rfl, rfl, rfl, rfl, rfl, rfl⟩
  rw [hsame.blockReply rfl, State.released, State.modDie, blockReply_setDie]

/-! ### The monitor entry a waiting load may take (R156, R180) -/

/-- The monitor entry that a waiting load takes. -/
def Req.entry (r : Req) (va : Word) (pa : Nat) (it : BitVec 32) (lag : BitVec 8) (reserved : Bool) : MonEntry :=
  ⟨r.req, r.owner, r.wid, r.ctx, r.src, va, pa, it, lag, r.hops, r.lat, reserved⟩

section Entries
variable {d : Die} {retries : Nat}

theorem Die.monitorEntry_eq : d.monitorEntry retries =
    if (d.monitor.filter fun m => !m.reserved).length < 3840 then some false
    else if 4 ≤ retries ∧ (d.monitor.filter fun m => m.reserved).length < 256 then some true else none := by
  simp only [Die.monitorEntry, Bool.and_eq_true, decide_eq_true_eq]
  rfl

theorem Die.monitorEntry_of_room (h : (d.monitor.filter fun m => !m.reserved).length < 3840 ∨
      4 ≤ retries ∧ (d.monitor.filter fun m => m.reserved).length < 256) :
    d.monitorEntry retries = some (!decide ((d.monitor.filter fun m => !m.reserved).length < 3840)) := by
  rw [Die.monitorEntry_eq]
  split
  case isTrue hordinary => rw [decide_eq_true hordinary, Bool.not_true]
  case isFalse hnone => rw [if_pos (h.resolve_left hnone), decide_eq_false hnone, Bool.not_false]

theorem Die.monitorEntry_of_full (h : ¬ ((d.monitor.filter fun m => !m.reserved).length < 3840 ∨
      4 ≤ retries ∧ (d.monitor.filter fun m => m.reserved).length < 256)) : d.monitorEntry retries = none := by
  obtain ⟨hordinary, hreserved⟩ := not_or.1 h
  rw [Die.monitorEntry_eq, if_neg hordinary, if_neg hreserved]

end Entries

/-! ### A stamped load at its home (R12, R154, R156, R175, R176) -/

section StampedLoad
variable {s : State} {r : Req} {va : Word} {pa : Nat} {it : BitVec 32} {lag : BitVec 8} {wait : Bool}

theorem State.ldaStep_of_fresh (h : lag = 255 ∨ -(lag.toNat : Int) ≤ stampDiff (s.stampOf pa) it) :
    s.ldaStep r va pa it lag wait = s.answer r (blockReply s va pa) :=
  if_pos ((freshEnough_iff lag _ it).2 h)

variable (hstale : ¬ (lag = 255 ∨ -(lag.toNat : Int) ≤ stampDiff (s.stampOf pa) it))
include hstale

theorem State.ldaStep_of_unwaited : s.ldaStep r va pa it lag false = s.answer r (.trap 0 causeLag va) :=
  (if_neg (mt (freshEnough_iff lag _ it).1 hstale)).trans (if_pos rfl)

theorem State.ldaStep_of_stopped (hstopped : s.writerOf pa ≠ 0 ∧ s.writerOf pa ∈ (s.die r.dest).stopSet) :
    s.ldaStep r va pa it lag true = s.answer r (.trap 0 causeStopped va) := by
  rw [State.ldaStep, if_neg (mt (freshEnough_iff lag _ it).1 hstale)]
  exact (if_neg (by decide)).trans (if_pos (by simpa using hstopped))

variable (hwriter : ¬ (s.writerOf pa ≠ 0 ∧ s.writerOf pa ∈ (s.die r.dest).stopSet))
include hwriter

theorem State.ldaStep_of_entry {reserved : Bool} (hentry : (s.die r.dest).monitorEntry r.retries = some reserved) :
    s.ldaStep r va pa it lag true =
      (s.modDie r.dest fun d => { d with monitor := d.monitor ++ [r.entry va pa it lag reserved] }).answer r .accepted := by
  rw [State.ldaStep, if_neg (mt (freshEnough_iff lag _ it).1 hstale), hentry]
  exact (if_neg (by decide)).trans (if_neg (by simpa using hwriter))

theorem State.ldaStep_of_full (hentry : (s.die r.dest).monitorEntry r.retries = none) :
    s.ldaStep r va pa it lag true = s.answer r (.retry { r with retries := min (r.retries + 1) 7 }) := by
  rw [State.ldaStep, if_neg (mt (freshEnough_iff lag _ it).1 hstale), hentry]
  exact (if_neg (by decide)).trans (if_neg (by simpa using hwriter))

end StampedLoad

/-! ### The bytes of a stamped store (R13, R139) -/

theorem find?_eq_some_of_unique {α : Type} {p : α → Bool} {l : List α} {x : α} (hin : x ∈ l) (hx : p x = true)
    (hall : ∀ y ∈ l, p y = true → y = x) : l.find? p = some x := by
  obtain ⟨y, hy⟩ := Option.isSome_iff_exists.1 (List.find?_isSome.2 ⟨x, hin, hx⟩)
  rw [hy, hall y (List.mem_of_find?_eq_some hy) (List.find?_some hy)]

theorem lastAt_eq_none {l : List (Nat × Byte)} {a : Nat} (h : ∀ b, (a, b) ∉ l) : lastAt l a = none := by
  rw [lastAt, Option.map_eq_none_iff, List.find?_eq_none]
  rintro ⟨a', b⟩ hin heq
  obtain rfl : a' = a := of_decide_eq_true heq
  exact h b (List.mem_reverse.1 hin)

/-- Where the bytes written to an address are all the same, that byte stands. -/
theorem lastAt_eq_some {l : List (Nat × Byte)} {a : Nat} {b : Byte} (hin : (a, b) ∈ l) (hall : ∀ c, (a, c) ∈ l → c = b) :
    lastAt l a = some b := by
  have hlast : l.reverse.find? (fun y => y.1 = a) = some (a, b) := by
    refine find?_eq_some_of_unique (List.mem_reverse.2 hin) (decide_eq_true rfl) ?_
    rintro ⟨a', c⟩ hc heq
    obtain rfl : a' = a := of_decide_eq_true heq
    rw [hall c (List.mem_reverse.1 hc)]
  rw [lastAt, hlast, Option.map_some]

/-- The bytes that the active lanes of a stamped store write to a block. -/
def laneBytes (pa : Nat) (data : VReg) (lanes : Word) : List (Nat × Byte) :=
  (activeLanes lanes).flatMap fun j => (bytesOf 4 (lane data j).toNat).mapIdx fun k b => (pa + 4 * j + k, b)

theorem mem_laneBytes {pa : Nat} {data : VReg} {lanes : Word} {x : Nat × Byte} : x ∈ laneBytes pa data lanes ↔
    ∃ j k, j < 64 ∧ k < 4 ∧ lanes.getLsbD j = true ∧
      x = (pa + 4 * j + k, BitVec.ofNat 8 ((lane data j).toNat / 2 ^ (8 * k))) := by
  simp only [laneBytes, List.mem_flatMap, mem_activeLanes, List.mem_mapIdx, bytesOf_eq_map, List.length_map, List.length_range,
    List.getElem_map, List.getElem_range]
  constructor
  · rintro ⟨j, ⟨hj, hlane⟩, k, hk, rfl⟩
    exact ⟨j, k, hj, hk, hlane, rfl⟩
  · rintro ⟨j, k, hj, hk, hlane, rfl⟩
    exact ⟨j, ⟨hj, hlane⟩, k, hk, rfl⟩

section LaneBytes
variable (pa : Nat) (data : VReg) (lanes : Word)

theorem lastAt_laneBytes {j k : Nat} (hj : j < 64) (hk : k < 4) : lastAt (laneBytes pa data lanes) (pa + 4 * j + k) =
    if lanes.getLsbD j = true then some (BitVec.ofNat 8 ((lane data j).toNat / 2 ^ (8 * k))) else none := by
  have hplace {j' k' : Nat} {b c : Byte} (hk' : k' < 4) (h : (pa + 4 * j + k, b) = (pa + 4 * j' + k', c)) :
      j' = j ∧ k' = k ∧ b = c := by
    obtain ⟨ha, hb⟩ := Prod.mk.inj h
    exact ⟨by omega, by omega, hb⟩
  split
  case isTrue hlane =>
    refine lastAt_eq_some (mem_laneBytes.2 ⟨j, k, hj, hk, hlane, rfl⟩) fun c hc => ?_
    obtain ⟨j', k', -, hk', -, heq⟩ := mem_laneBytes.1 hc
    obtain ⟨rfl, rfl, hbyte⟩ := hplace hk' heq
    exact hbyte
  case isFalse hlane =>
    refine lastAt_eq_none fun c hc => ?_
    obtain ⟨j', k', -, hk', hlane', heq⟩ := mem_laneBytes.1 hc
    obtain ⟨rfl, -, -⟩ := hplace hk' heq
    exact hlane hlane'

theorem lastAt_laneBytes_outside {a : Nat} (h : a < pa ∨ pa + 256 ≤ a) : lastAt (laneBytes pa data lanes) a = none := by
  refine lastAt_eq_none fun b hb => ?_
  obtain ⟨j, k, hj, hk, -, heq⟩ := mem_laneBytes.1 hb
  obtain ⟨rfl, -⟩ := Prod.mk.inj heq
  omega

end LaneBytes

/-! ### A stamped store at its home (R13, R139, R154, R175, R176) -/

/-- The state in which a block's lanes are written, and its stamp and writer set. -/
def State.claimed (s : State) (pa : Nat) (stamp : BitVec 32) (data : VReg) (lanes : Word) (w : BitVec 24) : State :=
  (s.writePairs (laneBytes pa data lanes)).setSide pa stamp w

section Claimed
variable (s : State) (pa : Nat) (stamp : BitVec 32) (data : VReg) (lanes : Word) (w : BitVec 24)

theorem State.claimed_atHome (e : Nat) : s.AtHome e (s.claimed pa stamp data lanes w) :=
  ((s.writePairs_memoryOnly _).atHome e).setSide pa stamp w

theorem State.claimed_die (d : Nat) : (s.claimed pa stamp data lanes w).die d = s.die d :=
  (s.writePairs_memoryOnly (laneBytes pa data lanes)).die d

theorem State.claimed_resps : (s.claimed pa stamp data lanes w).resps = s.resps :=
  congrArg (·.resps) (s.claimed_atHome pa stamp data lanes w 0).rest

theorem State.claimed_cycle : (s.claimed pa stamp data lanes w).cycle = s.cycle :=
  congrArg (·.cycle) (s.claimed_atHome pa stamp data lanes w 0).rest

theorem State.readByte_claimed (h : s.stored) {j k : Nat} (hj : j < 64) (hk : k < 4) :
    (s.claimed pa stamp data lanes w).readByte (pa + 4 * j + k) =
      if lanes.getLsbD j = true then BitVec.ofNat 8 ((lane data j).toNat / 2 ^ (8 * k)) else s.readByte (pa + 4 * j + k) := by
  refine (s.readByte_writePairs _ h _).trans ?_
  rw [lastAt_laneBytes pa data lanes hj hk]
  split <;> rfl

theorem State.readByte_claimed_outside (h : s.stored) {a : Nat} (ha : a < pa ∨ pa + 256 ≤ a) :
    (s.claimed pa stamp data lanes w).readByte a = s.readByte a := by
  refine (s.readByte_writePairs _ h a).trans ?_
  rw [lastAt_laneBytes_outside pa data lanes ha, Option.getD_none]

theorem State.sideband_claimed_same (h : s.stored) : (s.claimed pa stamp data lanes w).sideband pa = w ++ stamp :=
  State.sideband_setSide_same _ pa stamp w (State.writePairs_stored _ s h)

theorem State.stampOf_claimed_same (h : s.stored) : (s.claimed pa stamp data lanes w).stampOf pa = stamp :=
  State.stampOf_setSide_same _ pa stamp w (State.writePairs_stored _ s h)

theorem State.boundMet_claimed_iff (h : s.stored) (m : MonEntry) : (s.claimed pa stamp data lanes w).boundMet pa m = true ↔
    m.paddr = pa ∧ (m.lag = 255 ∨ -(m.lag.toNat : Int) ≤ stampDiff stamp m.iter) := by
  rw [State.boundMet_iff, State.stampOf_claimed_same s pa stamp data lanes w h]

theorem State.sideband_claimed_other {a : Nat} (ha : a ≠ pa) : (s.claimed pa stamp data lanes w).sideband a = s.sideband a :=
  (State.sideband_setSide_other _ ha stamp w).trans ((s.writePairs_memoryOnly _).sideband a)

end Claimed

section StampedStore
variable {s : State} {r : Req} {va : Word} {pa : Nat} {stamp : BitVec 32} {data : VReg} {lanes : Word}

theorem State.staStep_of_older (h : stampDiff stamp (s.stampOf pa) < 0) :
    s.staStep r va pa stamp data lanes = s.answer r (.regress va r.wid) :=
  if_neg fun hok => absurd ((accepts_iff stamp _).1 hok) (not_le.2 h)

/-- The answers that a store which is accepted gives: its own, then those to the entries whose bound is met, in entry order. -/
def State.storeAnswers (s : State) (r : Req) (pa : Nat) (y : State) : List Resp :=
  reply s r .ack ::
    ((s.die r.dest).monitor.filter (y.boundMet pa)).map fun m => m.answer r.dest s.cycle (blockReply y m.vaddr pa)

/-- The state after a store which is accepted. -/
def State.storeAccepted (s : State) (r : Req) (pa : Nat) (y : State) : State :=
  { y.released r.dest pa with resps := s.resps ++ s.storeAnswers r pa y }

theorem State.staStep_of_accepted (h : 0 ≤ stampDiff stamp (s.stampOf pa)) :
    s.staStep r va pa stamp data lanes = s.storeAccepted r pa (s.claimed pa stamp data lanes r.wid) := by
  refine (if_pos ((accepts_iff stamp _).2 h)).trans ((State.answerMet_answer (s.claimed pa stamp data lanes r.wid) ..).trans ?_)
  rw [State.claimed_resps, State.claimed_cycle, reply_congr (State.claimed_cycle ..), State.claimed_die]
  rfl

theorem State.storeAccepted_monitor (y : State) :
    ((s.storeAccepted r pa y).die r.dest).monitor = (y.die r.dest).monitor.filter fun m => !y.boundMet pa m :=
  congrArg Die.monitor (State.die_setDie_same y r.dest _)

theorem State.readByte_storeAccepted (y : State) (a : Nat) : (s.storeAccepted r pa y).readByte a = y.readByte a := rfl

theorem State.sideband_storeAccepted (y : State) (a : Nat) : (s.storeAccepted r pa y).sideband a = y.sideband a := rfl

/-- The answers a store that is accepted gives read the block as it leaves it. -/
theorem performs_storeAccepted {pre post : List Req} {y : State} (h : (s.taken pre post r).AtHome r.dest y) :
    Performs s r.dest pre post r (.next ((s.taken pre post r).storeAccepted r pa y))
      (reply s r .ack :: ((s.die r.dest).monitor.filter (y.boundMet pa)).map fun m =>
        ⟨m.req, m.owner, r.dest, m.src, m.hops, m.lat, s.cycle, m.vaddr,
          blockReply ((s.taken pre post r).storeAccepted r pa y) m.vaddr pa, false⟩)
      ((s.taken pre post r).storeAccepted r pa y) := by
  have hblock (va : Word) : blockReply ((s.taken pre post r).storeAccepted r pa y) va pa = blockReply y va pa :=
    blockReply_released y r.dest _ va pa
  simp only [hblock]
  exact (h.modMonitor (·.filter fun m => !y.boundMet pa m)).performs _

end StampedStore

/-! ### What each step performs -/

section Perform
variable {s : State} {e : Nat} {pre post : List Req} {r : Req} (h : FirstOf (fun q => q.dest = e) s.arrivals pre r post)
  (hin : s.evictedAt r = false) (hfirst : r.block ∉ s.stepped) {va : Word} {pa : Nat}
include h hin hfirst

theorem exec_ldaPerform {it : BitVec 32} {lag : BitVec 8} {wait : Bool} (hbody : r.body = .lda va pa it lag wait) :
    exec (.ldaPerform e) s = .next ((s.taken pre post r).ldaStep r va pa it lag wait) := by
  refine congrArg _ ((State.performHead_of_firstOf h hin _).trans ?_)
  rw [if_pos ⟨by rw [hbody], hfirst⟩, State.perform, hbody]

theorem exec_staPerform {stamp : BitVec 32} {data : VReg} (hbody : r.body = .sta va pa stamp data) :
    exec (.staPerform e) s = .next ((s.taken pre post r).staStep r va pa stamp data (BitVec.allOnes 64)) := by
  refine congrArg _ ((State.performHead_of_firstOf h hin _).trans ?_)
  rw [if_pos ⟨by rw [hbody], hfirst⟩, State.perform, hbody]

theorem exec_stadPerform {stamp : BitVec 32} {data : VReg} {lanes : Word} (hbody : r.body = .stad va pa stamp data lanes) :
    exec (.stadPerform e) s = .next ((s.taken pre post r).staStep r va pa stamp data lanes) := by
  refine congrArg _ ((State.performHead_of_firstOf h hin _).trans ?_)
  rw [if_pos ⟨by rw [hbody], hfirst⟩, State.perform, hbody]

end Perform

end Sys2Proof.Machine

namespace Sys2Proof.Claims
open Sys2Proof.Machine

theorem stampedLoadPerform : StampedLoadPerform := by
  intro s e pre post r va pa it lag wait h hin hfirst hbody stamp writer fresh stopped ordinary reserved
  obtain rfl : r.dest = e := h.2.1
  have hstopped_iff : (s.taken pre post r).writerOf pa ≠ 0 ∧
      (s.taken pre post r).writerOf pa ∈ ((s.taken pre post r).die r.dest).stopSet ↔ stopped := by
    rw [State.writerOf_eq_ofNat]
    rfl
  rw [exec_ldaPerform h hin hfirst hbody]
  by_cases hfresh : fresh
  · rw [State.ldaStep_of_fresh (s := s.taken pre post r) hfresh, (s.taken_sameTables pre post r).blockReply rfl]
    exact ⟨_, _, performs_answer (.refl _) _, fun _ => rfl, fun _ => rfl, fun _ => ⟨rfl, rfl⟩, absurd hfresh, absurd hfresh,
      absurd hfresh, absurd hfresh⟩
  cases wait with
  | false =>
    rw [State.ldaStep_of_unwaited (s := s.taken pre post r) hfresh]
    exact ⟨_, _, performs_answer (.refl _) _, fun _ => rfl, fun _ => rfl, fun hf => absurd hf hfresh, fun _ _ => ⟨rfl, rfl⟩,
      nofun, nofun, nofun⟩
  | true =>
    by_cases hstopped : stopped
    · rw [State.ldaStep_of_stopped (s := s.taken pre post r) hfresh (hstopped_iff.2 hstopped)]
      exact ⟨_, _, performs_answer (.refl _) _, fun _ => rfl, fun _ => rfl, fun hf => absurd hf hfresh, nofun,
        fun _ _ _ => ⟨rfl, rfl⟩, fun _ _ => absurd hstopped, fun _ _ => absurd hstopped⟩
    have hwriter := mt hstopped_iff.1 hstopped
    by_cases hroom : ordinary ∨ reserved
    · rw [State.ldaStep_of_entry (s := s.taken pre post r) hfresh hwriter (Die.monitorEntry_of_room hroom)]
      have hhome := ((State.MemoryOnly.refl (s.taken pre post r)).atHome r.dest).modMonitor
        (· ++ [r.entry va pa it lag !decide ordinary])
      refine ⟨_, _, hhome.performs_answer .accepted, fun _ => rfl, fun _ => rfl, fun hf => absurd hf hfresh, nofun,
        fun _ _ hs => absurd hs hstopped, fun _ _ _ _ => ⟨rfl, ?_⟩, fun _ _ _ hn => absurd hroom hn⟩
      exact congrArg Die.monitor (State.die_setDie_same (s.taken pre post r) r.dest _)
    · rw [State.ldaStep_of_full (s := s.taken pre post r) hfresh hwriter (Die.monitorEntry_of_full hroom)]
      exact ⟨_, _, performs_answer (.refl _) _, fun _ => rfl, fun _ => rfl, fun hf => absurd hf hfresh, nofun,
        fun _ _ hs => absurd hs hstopped, fun _ _ _ hr => absurd hr hroom, fun _ _ _ _ => ⟨rfl, rfl⟩⟩

theorem stampedStorePerform : StampedStorePerform := by
  intro s e pre post r va pa stamp data lanes w o yes no hstored h hin hfirst hform old met
  obtain rfl : r.dest = e := h.2.1
  obtain ⟨rfl, rfl, rfl, rfl⟩ : o = .next ((s.taken pre post r).staStep r va pa stamp data lanes) ∧ w = r.wid ∧
      yes = .ack ∧ no = .regress va r.wid := by
    obtain ⟨hbody, rfl, hw, rfl, hyes, hno⟩ | ⟨hbody, hw, rfl, hyes, hno⟩ := hform
    · exact ⟨exec_staPerform h hin hfirst hbody, hw, hyes, hno⟩
    · exact ⟨exec_stadPerform h hin hfirst hbody, hw, hyes, hno⟩
  refine ⟨fun holder => ?older, fun haccepted => ?accepted⟩
  case older =>
    rw [State.staStep_of_older (s := s.taken pre post r) holder]
    exact ⟨(s.taken pre post r).answer r (.regress va r.wid), ⟨fun _ => rfl, fun _ => rfl, rfl⟩,
      performs_answer (.refl _) _⟩
  case accepted =>
    rw [State.staStep_of_accepted (s := s.taken pre post r) haccepted]
    have hmet := (s.taken pre post r).boundMet_claimed_iff pa stamp data lanes r.wid hstored
    refine ⟨_, (s.die r.dest).monitor.filter _, List.filter_sublist, fun m => ?_, fun m => ?_,
      performs_storeAccepted ((s.taken pre post r).claimed_atHome pa stamp data lanes r.wid r.dest),
      fun j k hj hk => ?_, fun a ha => ?_, ?_, fun a ha => ?_⟩
    · rw [List.mem_filter, hmet]
    · rw [State.storeAccepted_monitor, State.claimed_die, List.mem_filter, Bool.not_eq_true', ← Bool.not_eq_true, hmet]
      rfl
    · rw [State.readByte_storeAccepted, State.readByte_claimed (s.taken pre post r) pa stamp data lanes r.wid hstored hj hk]
      rfl
    · rw [State.readByte_storeAccepted, State.readByte_claimed_outside (s.taken pre post r) pa stamp data lanes r.wid hstored ha]
      rfl
    · rw [State.sideband_storeAccepted, State.sideband_claimed_same (s.taken pre post r) pa stamp data lanes r.wid hstored,
        toNat_writer_append_stamp]
    · rw [State.sideband_storeAccepted, State.sideband_claimed_other (s.taken pre post r) pa stamp data lanes r.wid ha]
      rfl

end Sys2Proof.Claims

namespace Sys2Proof.Laws

/-- Settles O22: a stamped load by the test that gives its answer first; a stamped store by the test of its stamp, and then by the
entries whose bound the stamp it leaves meets. -/
theorem stampedPerforms : Obligations.StampedPerforms := ⟨Claims.stampedLoadPerform, Claims.stampedStorePerform⟩

end Sys2Proof.Laws
end

section
/-! SUPPORT. The statements of 10_stamped_memory.md. How stop notices leave, are applied or deferred at the homes, and are cleared
(R15, R182, R184, R185, R187). -/

set_option Elab.async false

namespace Sys2Proof.Machine
open Sys2Proof.Claims

/-! ### A stopped thread's notice leaves (R15, R184) -/

section Marks
variable (s : State)

theorem State.markNoticed_of_mem {w : BitVec 24} (h : widGen w ∈ (s.slot (widPlace w)).noticed) : s.markNoticed w = s :=
  if_pos (List.contains_iff_mem.2 h)

theorem State.markNoticed_of_not_mem {w : BitVec 24} (h : widGen w ∉ (s.slot (widPlace w)).noticed) : s.markNoticed w =
    s.setSlot (widPlace w) { s.slot (widPlace w) with noticed := (s.slot (widPlace w)).noticed ++ [widGen w] } :=
  if_neg (mt List.contains_iff_mem.1 h)

/-- The state `u` is `s` but for more generations marked as having had a notice. -/
structure State.MarksMore (s u : State) : Prop where
  slot : ∀ p, Slot.unnoticed (u.slot p) = Slot.unnoticed (s.slot p)
  rest : { u with slots := s.slots } = s
  keeps : ∀ p g, g ∈ (s.slot p).noticed → g ∈ (u.slot p).noticed

theorem State.MarksMore.trans {s u v : State} (h : s.MarksMore u) (h' : u.MarksMore v) : s.MarksMore v where
  slot p := (h'.slot p).trans (h.slot p)
  rest := (congrArg (fun y : State => { y with slots := s.slots }) h'.rest).trans h.rest
  keeps p g hg := h'.keeps p g (h.keeps p g hg)

theorem State.markNoticed_marksMore (w : BitVec 24) : s.MarksMore (s.markNoticed w) := by
  by_cases hin : widGen w ∈ (s.slot (widPlace w)).noticed
  · rw [s.markNoticed_of_mem hin]
    exact ⟨fun _ => rfl, rfl, fun _ _ h => h⟩
  · rw [s.markNoticed_of_not_mem hin]
    refine ⟨fun p => ?slot, rfl, fun p g hg => ?keeps⟩
    case slot =>
      by_cases hp : p = widPlace w
      · rw [hp, State.slot_setSlot_same]
        rfl
      · rw [State.slot_setSlot_other s hp]
    case keeps =>
      by_cases hp : p = widPlace w
      · rw [hp, State.slot_setSlot_same]
        exact List.mem_append_left _ (hp ▸ hg)
      · rwa [State.slot_setSlot_other s hp]

theorem State.mem_noticed_markNoticed (w : BitVec 24) : widGen w ∈ ((s.markNoticed w).slot (widPlace w)).noticed := by
  by_cases hin : widGen w ∈ (s.slot (widPlace w)).noticed
  · rwa [s.markNoticed_of_mem hin]
  · rw [s.markNoticed_of_not_mem hin, State.slot_setSlot_same]
    exact List.mem_append_right _ List.mem_cons_self

theorem State.foldl_markNoticed_marksMore (ws : List (BitVec 24)) : s.MarksMore (ws.foldl State.markNoticed s) := by
  induction ws generalizing s with
  | nil => exact ⟨fun _ => rfl, rfl, fun _ _ h => h⟩
  | cons w ws ih => exact (s.markNoticed_marksMore w).trans (ih _)

theorem State.mem_noticed_foldl_markNoticed {ws : List (BitVec 24)} {w : BitVec 24} (h : w ∈ ws) :
    widGen w ∈ ((ws.foldl State.markNoticed s).slot (widPlace w)).noticed := by
  induction ws generalizing s with
  | nil => cases h
  | cons v ws ih =>
    obtain rfl | h := List.mem_cons.1 h
    · exact ((s.markNoticed w).foldl_markNoticed_marksMore ws).keeps _ _ (s.mem_noticed_markNoticed w)
    · exact ih _ h

end Marks

/-- The state in which a stopped thread's notice is on its way. -/
def State.noticeLeft (s : State) (pre post : List Stopped) (x : Stopped) : State :=
  { s with stopped := pre ++ post, notices := s.notices ++ [⟨x.ids, x.ctx, [], []⟩] }

section Send
variable {s : State} {uid : Nat} {pre post : List Stopped} {x : Stopped} (h : FirstOf (fun y => y.uid = uid) s.stopped pre x post)
include h

theorem execStopNoticeSend_of_firstOf : execStopNoticeSend uid s =
    if s.stampedPending uid then .next s else .next (x.ids.foldl State.markNoticed (s.noticeLeft pre post x)) := by
  have hhead : s.stopped.find? (fun y => decide (y.uid = uid)) = some x := find?_of_firstOf (fun _ => decide_eq_true_iff) h
  have hrest : dropFirst (fun y : Stopped => decide (y.uid = uid)) s.stopped = pre ++ post :=
    dropFirst_of_firstOf (fun _ => decide_eq_true_iff) h
  simp only [execStopNoticeSend, hhead, hrest, State.noticeLeft]

end Send

/-! ### Held-away marks (R185, R186) -/

theorem State.slot_pruneNotices (s : State) (p : Place) : s.pruneNotices.slot p = s.slot p := rfl

theorem Slot.clearMark_heldAway (x : Slot) (g : Nat) : (x.clearMark g).heldAway = x.heldAway.filter (· ≠ g) := by
  unfold Slot.clearMark
  dsimp only
  split <;> rfl

theorem execHeldAwayClear_of_one {s : State} {die n : Nat} {w : BitVec 24} {x : StopNotice} (hx : s.notices[n]? = some x)
    (hnew : die ∉ x.cleared) (hids : x.ids = [w]) (hdie : (widPlace w).die = die) : execHeldAwayClear die n s =
      .next ({ s with notices := s.notices.set n { x with cleared := x.cleared ++ [die] } }.setSlot (widPlace w)
        ((s.slot (widPlace w)).clearMark (widGen w))).pruneNotices := by
  have hmine : x.ids.filter (fun v => (widPlace v).die = die) = [w] := by rw [hids, List.filter_singleton, decide_eq_true hdie]; rfl
  simp only [execHeldAwayClear, hx, List.contains_iff_mem, if_neg hnew, hmine]
  rfl

/-! ### Clear notices (R184; log 23) -/

theorem State.noticePending_iff (s : State) (w : BitVec 24) : s.noticePending w = true ↔
    (∃ n ∈ s.notices, w ∈ n.ids ∧ ∃ d ∈ plinthDies, d ∉ n.applied ∧ (s.die d).outOfService = false) ∨
      ∃ e ∈ s.dies, ∃ n ∈ e.2.deferred, w ∈ n.ids := by
  simp only [State.noticePending, Bool.or_eq_true, List.any_eq_true, Bool.and_eq_true, List.contains_iff_mem, Bool.not_eq_true',
    List.all_eq_false, not_or, Bool.not_eq_true]

section Clear
variable {s : State} {p : Place} {g : Nat}

/-- A generation of a slot whose stamped store waits for the clear of its id. -/
def State.StoreHeld (s : State) (p : Place) (g : Nat) : Prop := ∃ r ∈ s.sends, r.isStamped = true ∧ r.wid = writerId p g

/-- When a generation's clear is due: its slot is in it, or a store of it waits, and no notice of its id is on its way. -/
def State.DueForClear (s : State) (p : Place) (g : Nat) : Prop :=
  (g = (s.slot p).gen ∨ s.StoreHeld p g) ∧ s.noticePending (writerId p g) = false

/-- The model's test of `DueForClear`. -/
def State.clearTest (s : State) (p : Place) (g : Nat) : Bool :=
  (g = (s.slot p).gen || s.sends.any fun r => r.isStamped && r.wid = writerId p g) && !s.noticePending (writerId p g)

theorem State.clearTest_iff : s.clearTest p g = true ↔ s.DueForClear p g := by
  simp [State.clearTest, State.DueForClear, State.StoreHeld]

theorem State.clearGen_eq : s.clearGen p =
    (((s.slot p).noticed.filter (· = (s.slot p).gen)).find? (s.clearTest p)).or ((s.slot p).noticed.find? (s.clearTest p)) :=
  List.find?_append

theorem State.clearGen_of_present (hgen : (s.slot p).gen ∈ (s.slot p).noticed)
    (hgone : s.noticePending (s.widAt p) = false) : s.clearGen p = some (s.slot p).gen := by
  have hfirst : ((s.slot p).noticed.filter (· = (s.slot p).gen)).find? (s.clearTest p) = some (s.slot p).gen :=
    find?_eq_some_of_unique (List.mem_filter.2 ⟨hgen, decide_eq_true rfl⟩) (State.clearTest_iff.2 ⟨.inl rfl, hgone⟩)
      fun g hg _ => of_decide_eq_true (List.mem_filter.1 hg).2
  rw [State.clearGen_eq, hfirst, Option.some_or]

variable (hnot : ¬ ((s.slot p).gen ∈ (s.slot p).noticed ∧ s.noticePending (s.widAt p) = false))
include hnot

/-- Where the present generation is not due, the first of the others that is. -/
theorem State.clearGen_of_not_present : s.clearGen p = (s.slot p).noticed.find? (s.clearTest p) := by
  have hpresent : ((s.slot p).noticed.filter (· = (s.slot p).gen)).find? (s.clearTest p) = none := by
    rw [List.find?_eq_none]
    intro g hg htest
    obtain ⟨hin, heq⟩ := List.mem_filter.1 hg
    obtain rfl := of_decide_eq_true heq
    exact hnot ⟨hin, (State.clearTest_iff.1 htest).2⟩
  rw [State.clearGen_eq, hpresent, Option.none_or]

theorem State.dueForClear_iff_of_not_present (hin : g ∈ (s.slot p).noticed) :
    s.DueForClear p g ↔ s.StoreHeld p g ∧ s.noticePending (writerId p g) = false := by
  refine ⟨fun ⟨hwhy, hgone⟩ => ⟨hwhy.resolve_left ?_, hgone⟩, fun ⟨hheld, hgone⟩ => ⟨.inr hheld, hgone⟩⟩
  rintro rfl
  exact hnot ⟨hin, hgone⟩

theorem State.clearGen_of_earlier {pre post : List Nat}
    (h : FirstOf (fun k => s.StoreHeld p k ∧ s.noticePending (writerId p k) = false) (s.slot p).noticed pre g post) :
    s.clearGen p = some g := by
  obtain ⟨hlist, hg, hpre⟩ := h
  rw [State.clearGen_of_not_present hnot]
  have hdue : FirstOf (s.DueForClear p) (s.slot p).noticed pre g post :=
    ⟨hlist, (State.dueForClear_iff_of_not_present hnot (by simp [hlist])).2 hg, fun y hy hdue =>
      hpre y hy ((State.dueForClear_iff_of_not_present hnot (by simp [hlist, hy])).1 hdue)⟩
  exact find?_of_firstOf (fun _ => State.clearTest_iff) hdue

theorem State.clearGen_of_none
    (h : ∀ k ∈ (s.slot p).noticed, s.StoreHeld p k → s.noticePending (writerId p k) = true) : s.clearGen p = none := by
  rw [State.clearGen_of_not_present hnot, List.find?_eq_none]
  intro k hk htest
  obtain ⟨hheld, hgone⟩ := (State.dueForClear_iff_of_not_present hnot hk).1 (State.clearTest_iff.1 htest)
  exact absurd (h k hk hheld) (by simp [hgone])

end Clear

/-- What CLEAR_NOTICE does for a generation of a slot: its mark and its id in the stop sets go. -/
def ClearsGen (s : State) (p : Place) (g : Nat) : Prop :=
  ∃ u, exec (.clearNotice p) s = .next u ∧ (∀ k, k ∈ (u.slot p).noticed ↔ k ∈ (s.slot p).noticed ∧ k ≠ g) ∧
    Slot.unnoticed (u.slot p) = Slot.unnoticed (s.slot p) ∧ (∀ d, writerId p g ∉ (u.die d).stopSet) ∧
    (∀ d w, w ≠ writerId p g → (w ∈ (u.die d).stopSet ↔ w ∈ (s.die d).stopSet)) ∧ (∀ r, r ≠ p → u.slot r = s.slot r) ∧
    { u with slots := s.slots, dies := s.dies } = s

/-- A die with an id out of its stop set. -/
def Die.idCleared (w : BitVec 24) (x : Die) : Die := { x with stopSet := x.stopSet.filter (· ≠ w) }

/-- The state in which an id is out of every stop set. -/
def State.idCleared (s : State) (w : BitVec 24) : State := { s with dies := s.dies.map fun d => (d.1, d.2.idCleared w) }

theorem State.die_idCleared (s : State) (w : BitVec 24) (d : Nat) : (s.idCleared w).die d = (s.die d).idCleared w :=
  lookupD_map_value (fun _ => Die.idCleared w) rfl s.dies

theorem State.mem_stopSet_idCleared (s : State) (w : BitVec 24) (d : Nat) (v : BitVec 24) :
    v ∈ ((s.idCleared w).die d).stopSet ↔ v ∈ (s.die d).stopSet ∧ v ≠ w := by
  rw [State.die_idCleared, Die.idCleared, List.mem_filter, decide_eq_true_iff]

theorem clearsGen_of_clearGen {s : State} {p : Place} {g : Nat} (h : s.clearGen p = some g) : ClearsGen s p g := by
  have hexec : exec (.clearNotice p) s = .next ((s.idCleared (writerId p g)).setSlot p
      { s.slot p with noticed := (s.slot p).noticed.filter (· ≠ g) }) := by
    change execClearNotice p s = _
    simp only [execClearNotice, h]
    rfl
  refine ⟨_, hexec, fun k => ?_, ?_, fun d hd => ?_, fun d w hw => ?_, fun r hr => State.slot_setSlot_other _ hr _, rfl⟩
  · rw [State.slot_setSlot_same, List.mem_filter, decide_eq_true_iff]
  · rw [State.slot_setSlot_same]
    rfl
  · exact ((s.mem_stopSet_idCleared _ d _).1 hd).2 rfl
  · exact (s.mem_stopSet_idCleared _ d w).trans (and_iff_left hw)

/-! ### When the homes defer a notice (R187) -/

theorem State.haltFlag_iff (s : State) (d : Nat) : s.haltFlag d = true ↔ DieHalted s d := by
  simp only [State.haltFlag, DieHalted, Bool.or_eq_true, List.any_eq_true, Bool.and_eq_true, decide_eq_true_eq,
    Option.any_eq_true]

theorem State.mem_noticeDies_iff (s : State) (x : StopNotice) (d : Nat) :
    d ∈ s.diesOf x.ctx ++ x.ids.map (fun w => (widPlace w).die) ↔ NoticeDie s x d := by
  have hcore (e : (Nat × Nat) × Core) :
      (if e.2.resident x.ctx = true then some e.1.1 else none) = some d ↔ e.1.1 = d ∧ e.2.resident x.ctx = true := by
    rw [Option.ite_none_right_eq_some, Option.some_inj, and_comm]
  simp only [State.diesOf, NoticeDie, List.mem_append, List.mem_filterMap, List.mem_map, hcore, or_assoc]

theorem State.defers_iff (s : State) (x : StopNotice) : s.defers x = true ↔ ∃ d, NoticeDie s x d ∧ DieHalted s d := by
  simp only [State.defers, List.any_eq_true, s.haltFlag_iff, s.mem_noticeDies_iff]

/-! ### A home acts on notices (R182) -/

/-- Whether the ids of a notice name the writer of a monitor entry's block. -/
def State.stopsEntry (s : State) (ids : List (BitVec 24)) (m : MonEntry) : Bool := ids.contains (s.writerOf m.paddr)

/-- The answers WRITER_STOPPED to monitor entries of the die `die`. -/
def State.stopAnswers (s : State) (die : Nat) (ms : List MonEntry) : List Resp :=
  ms.map fun m => m.answer die s.cycle (.trap 0 causeStopped m.vaddr)

/-- The die `d` with a notice's ids in its stop set, and its entries kept that pass a test. -/
def Die.stopped (d : Die) (ids : List (BitVec 24)) (kept : MonEntry → Bool) : Die :=
  { d with stopSet := d.stopSet ++ ids.filter fun w => !d.stopSet.contains w, monitor := d.monitor.filter kept }

theorem Die.monitor_stopped (d : Die) (ids : List (BitVec 24)) (kept : MonEntry → Bool) :
    (d.stopped ids kept).monitor = d.monitor.filter kept := rfl

theorem Die.mem_stopSet_stopped (d : Die) (ids : List (BitVec 24)) (kept : MonEntry → Bool) (w : BitVec 24) :
    w ∈ (d.stopped ids kept).stopSet ↔ w ∈ d.stopSet ∨ w ∈ ids := by
  by_cases hw : w ∈ d.stopSet <;> simp [Die.stopped, hw]

theorem State.applyNotice_eq (s : State) (die : Nat) (ids : List (BitVec 24)) : s.applyNotice die ids =
    { s.setDie die ((s.die die).stopped ids fun m => !s.stopsEntry ids m) with
      resps := s.resps ++ s.stopAnswers die ((s.die die).monitor.filter (s.stopsEntry ids)) } :=
  State.foldl_answerEntry die (fun m => .trap 0 causeStopped m.vaddr) _ _

theorem State.die_applyNotice_same (s : State) (die : Nat) (ids : List (BitVec 24)) :
    (s.applyNotice die ids).die die = (s.die die).stopped ids fun m => !s.stopsEntry ids m := by
  rw [State.applyNotice_eq]
  exact State.die_setDie_same s die _

theorem State.die_applyNotice_other (s : State) {die d : Nat} (h : d ≠ die) (ids : List (BitVec 24)) :
    (s.applyNotice die ids).die d = s.die d := by
  rw [State.applyNotice_eq]
  exact State.die_setDie_other s h _

/-- The entries that the notice numbered `k` frees, where a home acts on the notices `xs` in their order. -/
def State.freedBy (s : State) (die : Nat) (xs : List StopNotice) (k : Nat) : List MonEntry :=
  (s.die die).monitor.filter fun m => (xs[k]?.any fun x => s.stopsEntry x.ids m) && !((xs.take k).any fun x => s.stopsEntry x.ids m)

/-- The state `u` is `s` after the home `die` has acted on the notices `xs`, its deferred notices and those on their way apart. -/
structure State.ActedOn (s u : State) (die : Nat) (xs : List StopNotice) : Prop where
  resps : u.resps = s.resps ++ (List.range xs.length).flatMap fun k => s.stopAnswers die (s.freedBy die xs k)
  monitor : (u.die die).monitor = (s.die die).monitor.filter fun m => !(xs.any fun x => s.stopsEntry x.ids m)
  stopSet : ∀ w, w ∈ (u.die die).stopSet ↔ w ∈ (s.die die).stopSet ∨ ∃ x ∈ xs, w ∈ x.ids
  home : { u.die die with
    monitor := (s.die die).monitor, stopSet := (s.die die).stopSet, deferred := (s.die die).deferred } = s.die die
  others : ∀ d, d ≠ die → u.die d = s.die d
  rest : { u with dies := s.dies, resps := s.resps, notices := s.notices } = s

section Acts
variable {s u : State} {die : Nat} {xs : List StopNotice}

theorem State.ActedOn.actsOn (h : s.ActedOn u die xs) : ActsOn s u die xs := by
  have hits (x : StopNotice) (m : MonEntry) :
      x.ids.contains (BitVec.ofNat 24 ((s.sideband m.paddr).toNat / 2 ^ 32)) = s.stopsEntry x.ids m := by
    rw [State.stopsEntry, State.writerOf_eq_ofNat]
  unfold ActsOn
  simp only [hits]
  exact ⟨h.resps, h.monitor, h.stopSet, h.home, h.others, fun a => congrArg (·.readByte a) h.rest, h.rest⟩

theorem State.freedBy_append_lt {k : Nat} (hk : k < xs.length) (x : StopNotice) :
    s.freedBy die (xs ++ [x]) k = s.freedBy die xs k := by
  rw [State.freedBy, List.getElem?_append_left hk, List.take_append_of_le_length hk.le, State.freedBy]

theorem State.freedBy_append_length (x : StopNotice) : s.freedBy die (xs ++ [x]) xs.length =
    ((s.die die).monitor.filter fun m => !(xs.any fun y => s.stopsEntry y.ids m)).filter (s.stopsEntry x.ids) := by
  rw [State.freedBy, List.getElem?_concat_length, List.take_left, List.filter_filter]
  rfl

theorem State.flatMap_freedBy_append (x : StopNotice) :
    ((List.range (xs ++ [x]).length).flatMap fun k => s.stopAnswers die (s.freedBy die (xs ++ [x]) k)) =
      ((List.range xs.length).flatMap fun k => s.stopAnswers die (s.freedBy die xs k)) ++
        s.stopAnswers die
          (((s.die die).monitor.filter fun m => !(xs.any fun y => s.stopsEntry y.ids m)).filter (s.stopsEntry x.ids)) := by
  rw [List.length_append, List.length_singleton, List.range_succ, List.flatMap_append, List.flatMap_singleton,
    State.freedBy_append_length]
  congr 1
  exact List.flatMap_congr fun k hk => by rw [State.freedBy_append_lt (List.mem_range.1 hk)]

theorem State.ActedOn.applyNotice (h : s.ActedOn u die xs) (x : StopNotice) :
    s.ActedOn (u.applyNotice die x.ids) die (xs ++ [x]) := by
  have hside : u.side = s.side := congrArg (·.side) h.rest
  have hcycle : u.cycle = s.cycle := congrArg (·.cycle) h.rest
  have hstops : u.stopsEntry x.ids = s.stopsEntry x.ids := by
    funext m
    rw [State.stopsEntry, State.writerOf, State.sideband, hside]
    rfl
  have hdie : (u.applyNotice die x.ids).die die = (u.die die).stopped x.ids fun m => !s.stopsEntry x.ids m := by
    rw [State.die_applyNotice_same, hstops]
  refine ⟨?_, ?_, fun w => ?_, ?_, fun d hd => ?_, ?_⟩
  · rw [State.flatMap_freedBy_append, ← List.append_assoc, ← h.resps, ← h.monitor, State.applyNotice_eq, hstops]
    simp only [State.stopAnswers, hcycle]
  · rw [hdie, Die.monitor_stopped, h.monitor, List.filter_filter]
    refine List.filter_congr fun m _ => ?_
    rw [List.any_append, List.any_cons, List.any_nil, Bool.or_false, Bool.not_or, Bool.and_comm]
  · rw [hdie, Die.mem_stopSet_stopped, h.stopSet]
    simp [or_assoc, or_and_right, exists_or]
  · rw [hdie]
    exact h.home
  · exact (State.die_applyNotice_other u hd x.ids).trans (h.others d hd)
  · rw [State.applyNotice_eq]
    exact h.rest

theorem State.ActedOn.foldl_applyNotice (h : s.ActedOn u die xs) (ys : List StopNotice) :
    s.ActedOn (ys.foldl (fun (y : State) n => y.applyNotice die n.ids) u) die (xs ++ ys) := by
  induction ys generalizing u xs with
  | nil => rwa [List.append_nil]
  | cons x ys ih =>
    rw [List.append_cons]
    exact ih (h.applyNotice x)

/-- What becomes of the notices on their way is no part of what a home acts on. -/
theorem State.ActedOn.pruneNotices (h : s.ActedOn u die xs) : s.ActedOn u.pruneNotices die xs :=
  ⟨h.resps, h.monitor, h.stopSet, h.home, h.others, h.rest⟩

end Acts

/-! ### A home acts on the notices it has deferred (R187) -/

section Deferred
variable (s : State) (die : Nat) (ns : List StopNotice)

/-- The notices that a home has deferred, whose flag has cleared. -/
def State.dueNotices : List StopNotice := (s.die die).deferred.filter fun y => !s.defers y

theorem State.deferred_applyNotice (ids : List (BitVec 24)) :
    ((s.applyNotice die ids).die die).deferred = (s.die die).deferred := by
  rw [State.die_applyNotice_same]
  rfl

theorem State.notices_applyNotice (ids : List (BitVec 24)) : (s.applyNotice die ids).notices = s.notices := by
  rw [State.applyNotice_eq]
  rfl

theorem State.actedOn_nil (f : List StopNotice → List StopNotice) :
    s.ActedOn ({ s with notices := ns }.modDie die fun d => { d with deferred := f d.deferred }) die [] := by
  have hdie : ({ s with notices := ns }.modDie die fun d => { d with deferred := f d.deferred }).die die =
      { s.die die with deferred := f (s.die die).deferred } := State.die_setDie_same { s with notices := ns } die _
  refine ⟨(List.append_nil _).symm, ?_, fun w => ?_, ?_, fun d hd => State.die_setDie_other { s with notices := ns } hd _, rfl⟩
  · rw [hdie]
    exact (List.filter_true _).symm
  · simp [hdie]
  · rw [hdie]

theorem State.applyDeferred_actedOn : s.ActedOn ({ s with notices := ns }.applyDeferred die) die (s.dueNotices die) :=
  (s.actedOn_nil die ns (·.filter fun n => s.defers n)).foldl_applyNotice _

theorem State.deferred_applyDeferred : (({ s with notices := ns }.applyDeferred die).die die).deferred =
    (s.die die).deferred.filter fun y => s.defers y :=
  foldl_inv (P := fun y : State => (y.die die).deferred = (s.die die).deferred.filter fun y => s.defers y) _
    (fun y n h => (y.deferred_applyNotice die n.ids).trans h) _ _
    (congrArg Die.deferred (State.die_setDie_same { s with notices := ns } die _))

theorem State.notices_applyDeferred : ({ s with notices := ns }.applyDeferred die).notices = ns :=
  foldl_inv (P := fun y : State => y.notices = ns) _ (fun y n h => (y.notices_applyNotice die n.ids).trans h) _ _ rfl

end Deferred

/-! ### A home receives a notice (R182, R187) -/

section Receive
variable {s : State} {die n : Nat}

/-- The notices on their way once a die has received one of them. -/
def State.noticesAfter (s : State) (die n : Nat) (x : StopNotice) : List StopNotice :=
  s.notices.set n { x with applied := x.applied ++ [die] }

theorem execStopNoticeApply_of_none (h : ∀ x, s.notices[n]? = some x → isPlinth die = false ∨ die ∈ x.applied) :
    execStopNoticeApply die n s = .next (s.applyDeferred die) := by
  unfold execStopNoticeApply
  cases hx : s.notices[n]? with
  | none => rfl
  | some x => exact if_pos (by simpa using h x hx)

variable {x : StopNotice} (hx : s.notices[n]? = some x) (hdie : isPlinth die = true) (hnew : die ∉ x.applied)
include hx hdie hnew

theorem execStopNoticeApply_of_new : execStopNoticeApply die n s =
    if s.defers x = true then
      if 64 ≤ (s.die die).deferred.length then .next s
      else .next ({ s with notices := s.noticesAfter die n x }.modDie die fun d =>
        { d with deferred := d.deferred ++ [x] }).pruneNotices
    else .next (({ s with notices := s.noticesAfter die n x }.applyDeferred die).applyNotice die x.ids).pruneNotices := by
  simp only [execStopNoticeApply, hx]
  exact if_neg (by simp [hdie, hnew])

end Receive

end Sys2Proof.Machine

namespace Sys2Proof.Claims
open Sys2Proof.Machine

theorem stopNotices : StopNotices := by
  refine ⟨fun s uid pre post x h => ⟨fun hpending => ?waits, fun hnone => ?leaves⟩,
    fun s die n w x hx hnew hids hdie => ?held, State.noticePending_iff, fun s p => ⟨fun hgen hgone => ?present,
      fun hnot => ⟨fun pre g post h => ?earlier, fun h => ?none⟩⟩⟩
  case waits => exact (execStopNoticeSend_of_firstOf h).trans (if_pos hpending)
  case leaves =>
    have hmarks := (s.noticeLeft pre post x).foldl_markNoticed_marksMore x.ids
    have hexec : exec (.stopNoticeSend uid) s = .next (x.ids.foldl State.markNoticed (s.noticeLeft pre post x)) :=
      (execStopNoticeSend_of_firstOf h).trans (if_neg (by simp [hnone]))
    exact ⟨_, hexec, congrArg (·.stopped) hmarks.rest, congrArg (·.notices) hmarks.rest,
      fun w hw => (s.noticeLeft pre post x).mem_noticed_foldl_markNoticed hw, hmarks.slot,
      congrArg (fun y : State => { y with stopped := s.stopped, notices := s.notices }) hmarks.rest⟩
  case held =>
    refine ⟨_, execHeldAwayClear_of_one hx hnew hids hdie, fun g => ?_, fun p hp => ?_, rfl⟩
    · rw [State.slot_pruneNotices, State.slot_setSlot_same, Slot.clearMark_heldAway, List.mem_filter, decide_eq_true_iff]
    · rw [State.slot_pruneNotices, State.slot_setSlot_other _ hp]
      rfl
  case present => exact clearsGen_of_clearGen (State.clearGen_of_present hgen hgone)
  case earlier => exact clearsGen_of_clearGen (State.clearGen_of_earlier hnot h)
  case none =>
    change execClearNotice p s = _
    simp only [execClearNotice, State.clearGen_of_none hnot h]

theorem noticesApplied : NoticesApplied := by
  refine ⟨State.defers_iff, fun s die n => ⟨fun x hx hdie hnew => ?new, fun hnone => ?none⟩⟩
  case new =>
    have hexec := execStopNoticeApply_of_new hx hdie hnew
    refine ⟨fun hdefers hfull => ?_, fun hdefers hroom => ?_, fun hacts => ?_⟩
    · exact hexec.trans ((if_pos hdefers).trans (if_pos hfull))
    · have hsame := State.die_setDie_same { s with notices := s.noticesAfter die n x } die
        { s.die die with deferred := (s.die die).deferred ++ [x] }
      refine ⟨_, hexec.trans ((if_pos hdefers).trans (if_neg (not_le.2 hroom))), congrArg Die.deferred hsame,
        congrArg (fun y : Die => { y with deferred := (s.die die).deferred }) hsame, fun d hd => ?_, rfl⟩
      exact State.die_setDie_other { s with notices := s.noticesAfter die n x } hd _
    · refine ⟨_, hexec.trans (if_neg (by simp [hacts])), ?_, ?_⟩
      · exact ((s.applyDeferred_actedOn die (s.noticesAfter die n x)).applyNotice x).pruneNotices.actsOn
      · exact (State.deferred_applyNotice _ die x.ids).trans (s.deferred_applyDeferred die (s.noticesAfter die n x))
  case none =>
    exact ⟨_, execStopNoticeApply_of_none hnone, (s.applyDeferred_actedOn die s.notices).actsOn,
      s.deferred_applyDeferred die s.notices, s.notices_applyDeferred die s.notices⟩

end Sys2Proof.Claims

namespace Sys2Proof.Laws

/-- Settles O25: a clear is due for the present generation or the first earlier one whose store waits; and a home acts on
notices one after another, each finding the entries that those before it have left. -/
theorem stopNotices : Obligations.StopNotices := ⟨Claims.stopNotices, Claims.noticesApplied⟩

end Sys2Proof.Laws
end

section
/-! SUPPORT. The statements of 13_nets_and_rules.md. Port references and port words, and what a step or a plain write meets at an
address (R132, R154, R160, R206 to R208, R218, R320, R361). -/

set_option Elab.async false

namespace Sys2Proof.Machine
open Sys2Proof.Claims

/-! ### Port references and port words (R206 to R208) -/

theorem refPort_eq_mod (x : Word) : refPort x = x.toNat % 4 := by
  simp [refPort, bits]

theorem refAddr_eq_portAddr (x : Word) : refAddr x = portAddr x := by
  simp only [refAddr, portAddr, refPort_eq_mod, refNode, w64]

theorem refOk_iff_isRef (x : Word) : refOk x = true ↔ IsRef x := by
  have hlt : x.toNat < 2 ^ 64 := x.isLt
  simp only [refOk, IsRef, bits, Bool.and_eq_true, beq_iff_eq, bne_iff_ne, ne_eq, ← BitVec.toNat_inj, BitVec.extractLsb'_toNat,
    Nat.shiftRight_eq_div_pow]
  simp only [BitVec.ofNat_eq_ofNat, BitVec.toNat_ofNat]
  omega

theorem portMet_eq_bitOf (w : Word) : portMet w = bitOf w 61 := by
  simp only [portMet, bitOf, BitVec.getLsbD, Nat.testBit_eq_decide_div_mod_eq]

theorem isHold_of_holds {w : Word} (h : Holds w) : isHold w = true := by
  obtain ⟨-, hkind, hnamed⟩ := h
  simpa [isHold, hkind, portTarget, named] using hnamed

theorem not_isHold_of_redirects {w : Word} (h : Redirects w) : ¬ isHold w = true := by
  obtain ⟨-, hkind, hnamed⟩ := h
  simpa [isHold, hkind, portTarget, named] using hnamed

/-- The model's test of a word that a Take may not consume. -/
theorem not_takable_test_iff (w : Word) :
    (!portOk w || (decide (portKind w ≠ 1) && decide (portKind w ≠ 3))) = true ↔ ¬ Takable w := by
  cases h : portOk w <;> simp [Takable, h]

/-- The model's test of a word that is neither a hold nor another redirect. -/
theorem no_redirect_test_iff (w : Word) : (!portOk w || decide (portKind w ≠ 2)) = true ↔ ¬ Holds w ∧ ¬ Redirects w := by
  have hsplit : portOk w = true ∧ portKind w = 2 ↔ Holds w ∨ Redirects w := by
    simp only [Holds, Redirects]
    tauto
  rw [← not_or, ← hsplit]
  cases portOk w <;> simp

theorem redirect_test_of_holds {w : Word} (h : Holds w) : ¬ (!portOk w || decide (portKind w ≠ 2)) = true :=
  fun htest => ((no_redirect_test_iff w).1 htest).1 h

theorem redirect_test_of_redirects {w : Word} (h : Redirects w) : ¬ (!portOk w || decide (portKind w ≠ 2)) = true :=
  fun htest => ((no_redirect_test_iff w).1 htest).2 h

/-- The model's test of a word at which a Meet is answered fault. -/
theorem not_redirect_test_iff (w : Word) :
    (!portOk w || decide (portKind w ≠ 2)) = true ↔ ¬ (portOk w = true ∧ portKind w = 2) := by
  cases portOk w <;> simp

/-! ### The ends of a splice (R220) -/

theorem SpliceEnd.isRoot_iff (e : SpliceEnd) : e.isRoot = true ↔ portKind e.word = 3 := by
  simp [SpliceEnd.isRoot]

theorem SpliceEnd.value_eq_endValue (e : SpliceEnd) : e.value = endValue e := by
  simp only [SpliceEnd.value, endValue, e.isRoot_iff]

theorem SpliceEnd.needs_iff_stillDue (e o : SpliceEnd) : e.needs o = true ↔ StillDue e o := by
  simp [SpliceEnd.needs, StillDue, SpliceEnd.isRoot, o.value_eq_endValue]

theorem SpliceEnd.meetRef_eq_meetOf (e : SpliceEnd) : e.meetRef = meetOf e := by
  cases h : e.state <;> simp [SpliceEnd.meetRef, meetOf, h]

theorem SpliceTask.last_eq_lastWrites (t : SpliceTask) : t.last = lastWrites t.a t.b := by
  simp only [SpliceTask.last, lastWrites, Bool.and_eq_true, SpliceEnd.isRoot_iff, refAddr_eq_portAddr]
  cases ha : t.a.state <;> cases hb : t.b.state <;> simp [meetOf, ha, hb, named, portTarget]

/-! ### Where a step acts (R132, R154, R160, R218, R320, R361) -/

theorem State.drained_iff (s : State) (uid die : Nat) :
    s.drained uid die = true ↔ ∀ o ∈ s.outs, o.owner = uid → o.dest = die → o.accepted = true := by
  simp [State.drained, or_assoc, imp_iff_not_or]

theorem State.behind_eq_false_iff (s : State) (die pa : Nat) : s.behind die pa = false ↔
    (∀ r ∈ s.chans ++ s.arrivals, r.engine = false → r.src = die → r.dest ≠ paHome pa) ∧
      ∀ r ∈ s.sends, r.zeroes = true → r.src = die → r.node ≠ pa / 32 * 32 := by
  simp [State.behind, or_imp, forall_and]

theorem State.mayStep_iff_mayAct (s : State) (die ctx : Nat) (thread : Option Nat) (pa : Nat) :
    s.mayStep die ctx thread pa = true ↔ MayAct s die ctx thread pa := by
  unfold State.mayStep
  simp only [MayAct, Bool.and_eq_true, Bool.not_eq_true', State.behind_eq_false_iff, and_assoc, List.contains_eq_mem,
    decide_eq_false_iff_not, Machine.blockOf]
  cases thread <;> simp [State.drained_iff]

section StepAt
variable {s : State} {die ctx : Nat} {thread : Option Nat} {va : Word} {n pa : Nat} {leaf : Word}

theorem State.stepAt_of_fail {c : BitVec 8} (h : s.check die ctx .nodeStore va n = .fail c) :
    s.stepAt die ctx thread va n = .fault := by
  simp only [State.stepAt, h]

theorem State.stepAt_of_ok (h : s.check die ctx .nodeStore va n = .ok pa leaf) : s.stepAt die ctx thread va n =
    if (s.die (paHome pa)).outOfService then .lost else if s.mayStep die ctx thread pa then .at_ pa else .wait := by
  simp only [State.stepAt, h]

end StepAt

theorem State.stepOn_eq (s : State) (pa : Nat) : s.stepOn pa = { s with
    stepped := pa / 256 * 256 :: s.stepped
    mgmt := s.mgmt ++ if s.badRange pa 8 = true then [.homeReadError pa] else [] } := by
  change (if s.badRange pa 8 = true then _ else _) = _
  split <;> simp [State.tell, Machine.blockOf]

theorem State.stepOn_stepMade (s : State) (pa : Nat) : StepMade s (s.stepOn pa) pa := by
  rw [s.stepOn_eq]
  exact ⟨rfl, rfl⟩

theorem State.stepOn_frame (s : State) (pa : Nat) : { s.stepOn pa with stepped := s.stepped, mgmt := s.mgmt } = s := by
  rw [s.stepOn_eq]

theorem Party.follows_eq (p : Party) : p.follows = if p.thread.isSome = true then some p.uid else none := by
  cases h : p.thread <;> simp [Party.follows, h]

theorem State.portAt_of_isRef (s : State) (p : Party) {x : Word} (h : IsRef x) : s.portAt p x = s.wordAt p (portAddr x) := by
  rw [State.portAt, if_pos ((refOk_iff_isRef x).2 h), refAddr_eq_portAddr]

theorem State.portAt_of_not_isRef (s : State) (p : Party) {x : Word} (h : ¬ IsRef x) : s.portAt p x = .fault :=
  if_neg (mt (refOk_iff_isRef x).1 h)

end Sys2Proof.Machine

namespace Sys2Proof.Claims
open Sys2Proof.Machine

theorem stepsMeet : StepsMeet := by
  refine ⟨fun s die ctx thread va n => ⟨fun c hfail => State.stepAt_of_fail hfail, fun pa leaf hok => ?_⟩,
    fun s p x => ⟨s.portAt_of_isRef p, s.portAt_of_not_isRef p⟩, fun s p va => ?_,
    fun s pa x => ⟨s.stepOn_stepMade pa, s.stepOn_frame pa, rfl⟩⟩
  · simp only [State.stepAt_of_ok hok, ← State.mayStep_iff_mayAct]
    exact ⟨fun hout => if_pos hout, fun hin hmay => by rw [hin, if_neg Bool.false_ne_true, if_pos hmay],
      fun hin hmay => by rw [hin, if_neg Bool.false_ne_true, if_neg hmay]⟩
  · rw [State.wordAt, p.follows_eq]

end Sys2Proof.Claims
end

section
/-! SUPPORT. The statements of 13_nets_and_rules.md. What becomes of a party: a thread at its `link`, and a rewrite with a link in
progress (R212, R223, R227, R320, R321). -/

set_option Elab.async false

namespace Sys2Proof.Machine
open Sys2Proof.Claims

/-! ### Lists keyed by a name -/

section Keyed
variable {κ α : Type} [DecidableEq κ] {k : κ} {pre post : List (κ × α)}

theorem lookupD_append_cons (d : α) (hpre : ∀ e ∈ pre, e.1 ≠ k) (x : α) : lookupD d k (pre ++ (k, x) :: post) = x := by
  induction pre with
  | nil => simp [lookupD]
  | cons e pre ih => simp [lookupD, hpre e (by simp), ih fun y hy => hpre y (by simp [hy])]

theorem putKey_append_cons (hpre : ∀ e ∈ pre, e.1 ≠ k) (x y : α) :
    putKey k y (pre ++ (k, x) :: post) = pre ++ (k, y) :: post := by
  induction pre with
  | nil => simp [putKey]
  | cons e pre ih => simp [putKey, hpre e (by simp), ih fun y hy => hpre y (by simp [hy])]

theorem putKey_putKey (x y : α) (l : List (κ × α)) : putKey k y (putKey k x l) = putKey k y l := by
  induction l with
  | nil => simp [putKey]
  | cons e l ih => by_cases he : e.1 = k <;> simp [putKey, he, ih]

end Keyed

/-! ### A thread's link (R223, R227, R321) -/

theorem State.setThread_setThread (s : State) (p : Place) (t u : Thread) :
    (s.setThread p t).setThread p u = s.setThread p u := by
  simp [State.setThread, State.setSlot, putKey_putKey]
  simp [State.slot]

theorem loopCheck_figures (r : SysRegs) (pc : Word) :
    (loopCheck r pc).1.lat = r.lat ∧ (loopCheck r pc).1.hops = r.hops := by
  simp only [loopCheck]
  split_ifs <;> exact ⟨rfl, rfl⟩

/-- What a thread is once its link is complete, but for LAT and HOPS. -/
def Thread.pastLink (p : Place) (t : Thread) : Thread :=
  Thread.advance { t with link := none, hold := .none } { place := p, pc := t.pc, word := 0 }
    ((t.tags.filter fun g => !g.frozen).map (·.req))

theorem Thread.pastLink_flow (p : Place) (t : Thread) :
    ((t.pastLink p).sys, (t.pastLink p).pc) = loopCheck t.sys t.pc := by
  rw [← SysRegs.loopBack_eq_loopCheck]
  rfl

theorem Thread.pastLink_figures (p : Place) (t : Thread) :
    (t.pastLink p).sys.lat = t.sys.lat ∧ (t.pastLink p).sys.hops = t.sys.hops := by
  have hsys : (t.pastLink p).sys = (loopCheck t.sys t.pc).1 := congrArg Prod.fst (t.pastLink_flow p)
  rw [hsys]
  exact loopCheck_figures t.sys t.pc

theorem State.setFigures_setThread (s : State) (p : Place) (t : Thread) (lat hops : Nat) :
    (s.setThread p t).setFigures p lat hops = s.setThread p
      { t with sys := { t.sys with lat := w64 (min lat (2 ^ 32 - 1)), hops := w64 (hops % 2 ^ 16) } } :=
  (State.modThread_of_thread (State.thread_setThread_same ..) _).trans (State.setThread_setThread ..)

theorem State.endLink_local (s : State) (p : Place) (t : Thread) : s.endLink p t 0 = s.setThread p (t.pastLink p) := rfl

theorem State.endLink_remote (s : State) (p : Place) (t : Thread) {hops : Nat} (h : hops ≠ 0) :
    ∃ lat : Word, s.endLink p t hops = ({ s with freeCtr := s.freeCtr + 1 } : State).setThread p { t.pastLink p with
      sys := { (t.pastLink p).sys with lat := lat, hops := w64 (hops % 2 ^ 16) } } :=
  ⟨_, (if_neg h).trans (State.setFigures_setThread { s with freeCtr := s.freeCtr + 1 } p (t.pastLink p) _ hops)⟩

section ThreadParty
variable {s : State} {n : Nat} {at_ : Place} {t : Thread} {k : LinkTask}

/-- A thread with a link, as a party. -/
def Thread.asParty (n : Nat) (at_ : Place) (t : Thread) (k : LinkTask) : Party :=
  ⟨n, t.ctx, at_.die, at_.core, some at_, .link k⟩

theorem State.party_of_thread (hfind : s.findThread n = some (at_, t)) (hlink : t.link = some k) :
    s.party n = some (t.asParty n at_ k) := by
  simp [State.party, hfind, hlink, Thread.asParty]

variable (ht : s.thread? at_ = some t)
include ht

theorem State.setWork_of_thread (k' : LinkTask) :
    s.setWork (t.asParty n at_ k) (.link k') = s.setThread at_ { t with link := some k' } :=
  State.modThread_of_thread ht _

theorem State.linkFault_of_thread : s.linkFault (t.asParty n at_ k) =
    s.raise at_ { t with link := none, hold := .none } (zx causeLink) t.pc t.nodeA := by
  simp [State.linkFault, Thread.asParty, ht]

theorem State.linkLost_of_thread (va : Word) : s.linkLost (t.asParty n at_ k) va =
    s.raise at_ { t with link := none, hold := .none } (zx causeMcheck) t.pc va := by
  simp [State.linkLost, Thread.asParty, ht]

theorem State.linkDone_of_thread : s.linkDone (t.asParty n at_ k) = s.endLink at_ t k.hops := by
  simp [State.linkDone, Thread.asParty, ht]

theorem State.linkDone_setThread : ∃ lat, { s.linkDone (t.asParty n at_ k) with freeCtr := s.freeCtr } =
      s.setThread at_ { t.pastLink at_ with sys := { (t.pastLink at_).sys with
        lat := lat, hops := if k.hops = 0 then t.sys.hops else BitVec.ofNat 64 (k.hops % 2 ^ 16) } } ∧
    (k.hops = 0 → lat = t.sys.lat) := by
  obtain ⟨hlat, hhops⟩ := t.pastLink_figures at_
  rw [State.linkDone_of_thread ht]
  by_cases h : k.hops = 0
  · refine ⟨t.sys.lat, ?_, fun _ => rfl⟩
    rw [if_pos h, h, State.endLink_local, ← hlat, ← hhops]
    rfl
  · obtain ⟨lat, hdone⟩ := s.endLink_remote at_ t h
    refine ⟨lat, ?_, fun h0 => absurd h0 h⟩
    rw [if_neg h, hdone]
    rfl

end ThreadParty

/-! ### A rewrite's links (R212, R213, R223) -/

theorem State.jobOf_of_cores {s : State} {n : Nat} {pre post : List ((Nat × Nat) × Core)} {dc : Nat × Nat} {x : Core}
    {ra rb : List Rewrite} {r : Rewrite} (hcores : s.cores = pre ++ (dc, x) :: post)
    (hpre : ∀ e ∈ pre, ∀ y ∈ e.2.rewrites, y.uid ≠ n) (hr : FirstOf (fun y => y.uid = n) x.rewrites ra r rb) :
    s.jobOf n = some r := by
  have hnone : pre.findSome? (fun e => e.2.rewrites.find? fun y => y.uid = n) = none := by
    simpa using hpre
  have hfind : x.rewrites.find? (fun y => y.uid = n) = some r := find?_of_firstOf (by simp) hr
  simp [State.jobOf, hcores, hnone, hfind]

section JobParty
variable {s : State} {n : Nat} {pre post : List ((Nat × Nat) × Core)} {x : Core} {ra rb : List Rewrite} {r : Rewrite}

theorem State.modJob_of_cores (hcores : s.cores = pre ++ ((r.die, r.core), x) :: post)
    (hpre : ∀ e ∈ pre, e.1 ≠ (r.die, r.core)) (hr : FirstOf (fun y => y.uid = n) x.rewrites ra r rb)
    (f : Rewrite → Rewrite) :
    s.modJob r f = { s with cores := pre ++ ((r.die, r.core), { x with rewrites := ra ++ f r :: rb }) :: post } := by
  have hn : r.uid = n := hr.2.1
  have hmod : modFirst (fun y => decide (y.uid = r.uid)) f x.rewrites = ra ++ f r :: rb :=
    modFirst_of_firstOf (by simp [hn]) hr f
  simp only [State.modJob, State.modCore, State.setCore, State.core, hcores, lookupD_append_cons _ hpre, putKey_append_cons hpre,
    hmod]

variable {p : Party} (hthread : p.thread = none) (hjob : s.jobOf p.uid = some r)
include hthread

theorem State.linkLost_of_job (va : Word) : s.linkLost p va = s.linkFault p := by
  simp [State.linkLost, hthread]

include hjob

theorem State.setWork_of_job (w : LinkWork) : s.setWork p w = s.modJob r fun x => { x with cur := some w } := by
  simp [State.setWork, hthread, hjob]

theorem State.linkDone_of_job (h : p.work.partners = []) : s.linkDone p = s.modJob r Rewrite.nextLink := by
  simp [State.linkDone, hthread, h, State.goOn, hjob]

theorem State.linkFault_of_job (h : p.work.partners = []) : s.linkFault p =
    s.modJob r fun x => { x with faulted := true, writes := [], cur := none, todo := [], frees := [] } := by
  simp [State.linkFault, hthread, h, State.jobFault, hjob]

end JobParty

end Sys2Proof.Machine

namespace Sys2Proof.Claims
open Sys2Proof.Machine

theorem partiesGo : PartiesGo := by
  refine ⟨fun s n at_ t k hfind ht hlink => ?thread, fun s n d c pre post x ra rb r w hfind hcores hpre hr hd hc hcur => ?job⟩
  case thread =>
    obtain ⟨lat, hdone, hlat⟩ := State.linkDone_setThread (n := n) (k := k) ht
    have hflow := t.pastLink_flow at_
    refine ⟨State.party_of_thread hfind hlink, State.setWork_of_thread ht, State.linkFault_of_thread ht,
      State.linkLost_of_thread ht, { t.pastLink at_ with sys := { (t.pastLink at_).sys with
        lat := lat, hops := if k.hops = 0 then t.sys.hops else BitVec.ofNat 64 (k.hops % 2 ^ 16) } }, ?_, ?_,
      congrArg Prod.snd hflow, rfl, rfl, rfl, ?_, rfl, hlat⟩
    · exact hdone ▸ s.onlyThread_setThread at_ _
    · exact (congrArg (·.thread? at_) hdone).trans (State.thread_setThread_same ..)
    · obtain ⟨hsame, hhops⟩ := t.pastLink_figures at_
      exact Eq.trans (by rw [← hsame, ← hhops]) (congrArg Prod.fst hflow)
  case job =>
    subst hd hc
    have hn : r.uid = n := hr.2.1
    have hjob : s.jobOf n = some r := State.jobOf_of_cores hcores (fun e he => (hpre e he).2) hr
    have hmod := State.modJob_of_cores hcores (fun e he => (hpre e he).1) hr
    refine ⟨by simp [State.party, hfind, hjob, hcur], fun w' => (State.setWork_of_job rfl hjob w').trans (hmod _),
      fun h => (State.linkDone_of_job rfl hjob h).trans (hmod _), fun h => (State.linkFault_of_job rfl hjob h).trans (hmod _),
      State.linkLost_of_job rfl⟩

end Sys2Proof.Claims
end

section
/-! SUPPORT. The statements of 13_nets_and_rules.md. The issuer of TAKE, ATTACH and MEET, and its plain writes (R218 to R220). -/

set_option Elab.async false

namespace Sys2Proof.Machine
open Sys2Proof.Claims

/-! ### What a step or a plain write is answered (R218, R320) -/

section Answers
variable (s : State) (p : Party) (va : Word) (f : Nat → State)

@[simp] theorem State.step_fault : s.step_ p va .fault f = s.linkFault p := rfl
@[simp] theorem State.step_lost : s.step_ p va .lost f = s.linkLost p va := rfl
@[simp] theorem State.step_wait : s.step_ p va .wait f = s := rfl
@[simp] theorem State.step_at (pa : Nat) : s.step_ p va (.at_ pa) f = f pa := rfl

end Answers

/-! ### The issuer of an event (R218 to R220) -/

section Events
variable {s : State} {n : Nat} {p : Party} {f : Party → State}

theorem State.netEvent_of_none (h : s.party n = none) : s.netEvent n f = s := by
  simp only [State.netEvent, h]

theorem State.netEvent_of_write (h : s.party n = some p) {w : Word × Word} {ws : List (Word × Word)}
    (hw : p.work.writes = w :: ws) : s.netEvent n f = s.partyWrite p w := by
  simp only [State.netEvent, h, hw]

theorem State.netEvent_of_no_write (h : s.party n = some p) (hw : p.work.writes = []) : s.netEvent n f = f p := by
  simp only [State.netEvent, h, hw]

/-- TAKE, ATTACH and MEET act for the party of their issuer. -/
theorem exec_stepWord {ins : Instr} (h : StepWord n ins) : ∃ g, exec ins s = .next (s.netEvent n g) := by
  obtain rfl | rfl | rfl := h <;> exact ⟨_, rfl⟩

section Link
variable {k : LinkTask} (h : s.party n = some p) (hwork : p.work = .link k) (hwrites : p.work.writes = [])
include h hwork hwrites

theorem exec_take_check (hphase : k.phase = .check) : exec (.take n) s = .next (s.linkCheck p k) := by
  change Host.Outcome.next (s.netEvent n _) = _
  simp only [State.netEvent_of_no_write h hwrites, hwork, hphase, if_true]

theorem exec_take_link (hphase : k.phase = .take) : exec (.take n) s = .next (s.linkTake p k) := by
  change Host.Outcome.next (s.netEvent n _) = _
  simp [State.netEvent_of_no_write h hwrites, hwork, hphase]

theorem exec_attach_link (hphase : k.phase = .attach) : exec (.attach n) s = .next (s.linkAttach p k) := by
  change Host.Outcome.next (s.netEvent n _) = _
  simp only [State.netEvent_of_no_write h hwrites, hwork, hphase, if_true]

theorem exec_meet_link {r d : Word} (hphase : k.phase = .meet r d) :
    exec (.meet n) s = .next (s.meetAt p r (.link { k with phase := .waitFirst r d })) := by
  change Host.Outcome.next (s.netEvent n _) = _
  simp only [State.netEvent_of_no_write h hwrites, hwork, hphase]

end Link

section Splice
variable {t : SpliceTask} (h : s.party n = some p) (hwork : p.work = .splice t) (hwrites : p.work.writes = [])
include h hwork hwrites

theorem exec_take_splice (hphase : t.phase = .takeFirst ∨ t.phase = .takeSecond) :
    exec (.take n) s = .next (s.spliceTake p t) := by
  change Host.Outcome.next (s.netEvent n _) = _
  simp [State.netEvent_of_no_write h hwrites, hwork, hphase]

theorem exec_attach_splice (hphase : t.phase = .attach) :
    exec (.attach n) s = .next (s.spliceAttachAt p t (s.attachSide p t)) := by
  change Host.Outcome.next (s.netEvent n _) = _
  simp only [State.netEvent_of_no_write h hwrites, hwork, hphase, if_true, State.spliceAttach]

theorem exec_meet_splice {r : Word} (hphase : t.phase = .meets) (hmeets : t.meets.head? = some r) :
    exec (.meet n) s = .next (s.meetAt p r (.splice { t with phase := .waitFirst })) := by
  obtain ⟨rest, hrest⟩ := List.head?_eq_some_iff.1 hmeets
  change Host.Outcome.next (s.netEvent n _) = _
  simp only [State.netEvent_of_no_write h hwrites, hwork, hphase, hrest]

end Splice

/-- The next step of a party is sent to the port that `NextPort` names. -/
theorem exec_nextPort {ins : Instr} {r : Word} (h : s.party n = some p) (hwrites : p.work.writes = [])
    (hnext : NextPort n ins r p.work) : ∃ g, exec ins s = .next (s.step_ p (portAddr r) (s.portAt p r) g) := by
  rw [← refAddr_eq_portAddr]
  cases hwork : p.work with
  | link k =>
    rw [hwork] at hnext
    obtain ⟨hphase, rfl, rfl⟩ | ⟨hphase, rfl, rfl⟩ | ⟨hphase, rfl, rfl⟩ | ⟨⟨d, hphase⟩, rfl⟩ := hnext
    · exact ⟨_, exec_take_check h hwork hwrites hphase⟩
    · exact ⟨_, exec_take_link h hwork hwrites hphase⟩
    · exact ⟨_, exec_attach_link h hwork hwrites hphase⟩
    · exact ⟨_, exec_meet_link h hwork hwrites hphase⟩
  | splice t =>
    rw [hwork] at hnext
    obtain ⟨hphase, rfl, rfl⟩ | ⟨hphase, rfl, rfl⟩ | ⟨hphase, hmeets, rfl⟩ := hnext
    · have htake := exec_take_splice h hwork hwrites (.inl hphase)
      simp only [State.spliceTake, if_pos hphase] at htake
      exact ⟨_, htake⟩
    · have htake := exec_take_splice h hwork hwrites (.inr hphase)
      simp only [State.spliceTake, hphase, reduceCtorEq, if_false] at htake
      exact ⟨_, htake⟩
    · exact ⟨_, exec_meet_splice h hwork hwrites hphase hmeets⟩

end Events

/-! ### Plain writes (R218 to R220) -/

theorem State.spliceDone_eq_spliceOver (s : State) (p : Party) (t : SpliceTask) : s.spliceDone p t = spliceOver s p t := by
  simp [State.spliceDone, spliceOver, SpliceEnd.isRoot, refPort_eq_mod, and_assoc]

section Write
variable {s : State} {p : Party} {w : Word × Word} {ws : List (Word × Word)} {pa : Nat} (hat : s.wordAt p w.1 = .at_ pa)
include hat

theorem State.partyWrite_link {k : LinkTask} (hwork : p.work = .link k) (hw : k.writes = w :: ws) : s.partyWrite p w =
    if k.phase = .finish ∧ ws = [] then (s.stepWrite pa w.2).linkDone { p with work := .link { k with writes := ws } }
    else (s.stepWrite pa w.2).setWork p (.link { k with writes := ws }) := by
  by_cases hfin : k.phase = .finish ∧ ws = [] <;>
    simp [State.partyWrite, hat, hwork, LinkWork.wrote, LinkWork.finished, hw, hfin]

theorem State.partyWrite_splice {t : SpliceTask} (hwork : p.work = .splice t) (hw : t.writes = w :: ws) : s.partyWrite p w =
    if t.phase = .finish ∧ ws = [] then spliceOver (s.stepWrite pa w.2) p { t with writes := ws }
    else (s.stepWrite pa w.2).setWork p (.splice { t with writes := ws }) := by
  by_cases hfin : t.phase = .finish ∧ ws = [] <;>
    simp [State.partyWrite, hat, hwork, LinkWork.wrote, LinkWork.finished, hw, hfin, State.spliceDone_eq_spliceOver]

end Write

end Sys2Proof.Machine

namespace Sys2Proof.Claims
open Sys2Proof.Machine

theorem partyWrites : PartyWrites := by
  intro s n ins hins
  obtain ⟨g, hexec⟩ := exec_stepWord (s := s) hins
  refine ⟨fun hnone => ?none, fun p r h hwrites hnext => ?step, fun p w ws h hw => ?write⟩
  case none => rw [hexec, State.netEvent_of_none hnone]
  case step =>
    obtain ⟨f, hstep⟩ := exec_nextPort h hwrites hnext
    rw [hstep]
    exact ⟨fun hans => by rw [hans, State.step_fault], fun hans => by rw [hans, State.step_lost],
      fun hans => by rw [hans, State.step_wait]⟩
  case write =>
    rw [hexec, State.netEvent_of_write h hw]
    refine ⟨fun hans => ?_, fun hans => ?_, fun hans => ?_, fun pa hat => ⟨fun k hwork => ?_, fun t hwork => ?_⟩⟩
    · rw [State.partyWrite, hans, State.step_fault]
    · rw [State.partyWrite, hans, State.step_lost]
    · rw [State.partyWrite, hans, State.step_wait]
    · rw [hwork] at hw
      exact congrArg _ (State.partyWrite_link hat hwork hw)
    · rw [hwork] at hw
      exact congrArg _ (State.partyWrite_splice hat hwork hw)

end Sys2Proof.Claims
end

section
/-! SUPPORT. The statements of 13_nets_and_rules.md. The steps of a link (R218, R219, R221, R227). -/

set_option Elab.async false

namespace Sys2Proof.Machine
open Sys2Proof.Claims

/-! ### A port that a Take must wait for (R222; log 75) -/

theorem State.settling_iff_halfMade (s : State) (p : Party) (x : Word) : s.settling p x = true ↔ HalfMade s p x := by
  have hside (t : SpliceTask) : t.settling x = true ↔ t.phase ≠ .joined ∧ (t.a.state = .done ∨ t.b.state = .done) ∧
      ((t.a.far = x ∧ portKind t.a.word ≠ 3) ∨ (t.b.far = x ∧ portKind t.b.word ≠ 3)) := by
    simp only [SpliceTask.settling, SpliceEnd.isRoot, Bool.and_eq_true, Bool.or_eq_true, beq_iff_eq, bne_iff_ne,
      Bool.not_eq_true', beq_eq_false_iff_ne]
    tauto
  unfold State.settling
  simp only [List.any_eq_true, Bool.and_eq_true, decide_eq_true_eq, HalfMade, and_assoc, ← hside]
  refine exists_congr fun q => and_congr_right fun _ => and_congr_right fun _ => and_congr_right fun _ => ?_
  cases q.work <;> simp

/-! ### The steps of a link (R219) -/

section Link
variable {s : State} {p : Party} {k : LinkTask} {pa : Nat}

theorem State.linkCheck_at (hat : s.portAt p k.q = .at_ pa) : s.linkCheck p k =
    if s.read64 pa = 0 then (s.stepOn pa).setWork p (.link { k with phase := .take }) else (s.stepOn pa).linkFault p := by
  simp [State.linkCheck, hat, ite_not]

section Take
variable (hat : s.portAt p k.p = .at_ pa)
include hat

theorem State.linkTake_of_halfMade (hhalf : HalfMade s p k.p) : s.linkTake p k = s := by
  simp [State.linkTake, hat, (s.settling_iff_halfMade p k.p).2 hhalf]

variable (hhalf : ¬ HalfMade s p k.p)
include hhalf

theorem State.linkTake_of_not_takable (h : ¬ Takable (s.read64 pa)) : s.linkTake p k = (s.stepOn pa).linkFault p := by
  simp only [State.linkTake, hat, State.step_at, if_neg (mt (s.settling_iff_halfMade p k.p).1 hhalf)]
  exact if_pos ((not_takable_test_iff _).2 h)

theorem State.linkTake_of_takable (h : Takable (s.read64 pa)) : s.linkTake p k =
    let w := s.read64 pa
    let k1 := { k with x := named w, hops := max k.hops (s.stepHops p pa) }
    (s.stepWrite pa (redirectTo k.q)).setWork p (.link
      (if portKind w = 3 then { k1 with phase := .finish, writes := [(portAddr k.q, w), (named w, linkTo k.q)] }
       else { k1 with phase := .attach, writes := [(portAddr k.q, linkTo (named w))] })) := by
  simp only [State.linkTake, hat, State.step_at, if_neg (mt (s.settling_iff_halfMade p k.p).1 hhalf), ← refAddr_eq_portAddr]
  exact if_neg (not_not.2 h ∘ (not_takable_test_iff _).1)

end Take

section Attach
variable (hat : s.portAt p k.x = .at_ pa)
include hat

theorem State.linkAttach_of_own (h : s.read64 pa = linkTo k.p) : s.linkAttach p k =
    (if AtPort0 k.x ∧ AtPort0 k.q then (s.stepWrite pa (linkTo k.q)).pushPair p k.x k.q
      else s.stepWrite pa (linkTo k.q)).linkDone
        { p with work := .link { k with hops := max k.hops (s.stepHops p pa) } } := by
  simp [State.linkAttach, hat, h, refPort_eq_mod]

variable (hown : s.read64 pa ≠ linkTo k.p)
include hown

theorem State.linkAttach_of_neither (hhold : ¬ Holds (s.read64 pa)) (hredirect : ¬ Redirects (s.read64 pa)) :
    s.linkAttach p k = (s.stepOn pa).linkFault p := by
  simp only [State.linkAttach, hat, State.step_at, if_neg hown]
  exact if_pos ((no_redirect_test_iff _).2 ⟨hhold, hredirect⟩)

theorem State.linkAttach_of_holds (h : Holds (s.read64 pa)) : s.linkAttach p k = (s.stepOn pa).setWork p (.link
    { k with hops := max k.hops (s.stepHops p pa), phase := .hold (s.cycle + 16), held := k.held + 1 }) := by
  simp only [State.linkAttach, hat, State.step_at, if_neg hown]
  exact (if_neg (redirect_test_of_holds h)).trans (if_pos (isHold_of_holds h))

theorem State.linkAttach_of_redirects (h : Redirects (s.read64 pa)) : s.linkAttach p k = (s.stepOn pa).setWork p (.link
    { k with hops := max k.hops (s.stepHops p pa),
             phase := .meet (if k.p.toNat ≤ k.x.toNat then k.p else k.x) (named (s.read64 pa)),
             writes := [(portAddr k.q, linkTo (named (s.read64 pa)))] }) := by
  simp only [State.linkAttach, hat, State.step_at, if_neg hown, ← refAddr_eq_portAddr]
  exact (if_neg (redirect_test_of_redirects h)).trans (if_neg (not_isHold_of_redirects h))

end Attach

variable {n c : Nat} (h : s.party n = some p) (hwork : p.work = .link k)
include h hwork

theorem exec_linkHoldRetry_link (hphase : k.phase = .hold c) : exec (.linkHoldRetry n) s =
    .next (if c ≤ s.cycle then s.setWork p (.link { k with phase := .attach }) else s) := by
  change execLinkHoldRetry n s = _
  simp only [execLinkHoldRetry, h, hwork, hphase]

theorem exec_viciousCircle_link : exec (.viciousCircle n) s = .next s := by
  change execViciousCircle n s = _
  simp only [execViciousCircle, h, hwork]

end Link

end Sys2Proof.Machine

namespace Sys2Proof.Claims
open Sys2Proof.Machine

theorem linkSteps : LinkSteps := by
  intro s n p k h hwork hw
  have hwrites : p.work.writes = [] := by rw [hwork]; exact hw
  refine ⟨fun pq hphase hat => ?check, fun pp hphase hat => ?take, fun px hphase hat => ?attach,
    fun c hphase => ⟨exec_linkHoldRetry_link h hwork hphase, exec_viciousCircle_link h hwork⟩⟩
  case check => rw [exec_take_check h hwork hwrites hphase, State.linkCheck_at hat]
  case take =>
    rw [exec_take_link h hwork hwrites hphase]
    exact ⟨fun hhalf => congrArg _ (State.linkTake_of_halfMade hat hhalf),
      fun hhalf hbad => congrArg _ (State.linkTake_of_not_takable hat hhalf hbad),
      fun hhalf hgood => congrArg _ (State.linkTake_of_takable hat hhalf hgood)⟩
  case attach =>
    rw [exec_attach_link h hwork hwrites hphase]
    exact ⟨fun hown => congrArg _ (State.linkAttach_of_own hat hown),
      fun hown hhold => congrArg _ (State.linkAttach_of_holds hat hown hhold),
      fun hown hredirect => congrArg _ (State.linkAttach_of_redirects hat hown hredirect),
      fun hown hhold hredirect => congrArg _ (State.linkAttach_of_neither hat hown hhold hredirect)⟩

end Sys2Proof.Claims
end

section
/-! SUPPORT. The statements of 13_nets_and_rules.md. The steps of a splice (R220 to R222). -/

set_option Elab.async false

namespace Sys2Proof.Machine
open Sys2Proof.Claims

/-! ### The end of a splice (R220 steps 4 and 5) -/

theorem State.spliceFinish_eq_spliceLast (s : State) (p : Party) (t : SpliceTask) : s.spliceFinish p t = spliceLast s p t := by
  simp only [State.spliceFinish, spliceLast, t.last_eq_lastWrites, State.spliceDone_eq_spliceOver, List.isEmpty_iff]

/-- A splice whose ports become redirects, its Meets due. -/
def SpliceTask.released (t : SpliceTask) : SpliceTask :=
  { t with
    writes := [(portAddr t.a.port, redirectTo (if portKind t.b.word = 3 then t.a.far else t.b.far)),
      (portAddr t.b.port, redirectTo (if portKind t.a.word = 3 then t.b.far else t.a.far))]
    meets := meetOf t.a ++ meetOf t.b
    phase := .meets }

theorem State.spliceRelease_eq (s : State) (p : Party) (t : SpliceTask) : s.spliceRelease p t =
    if t.released.meets = [] then spliceLast s p t.released else s.setWork p (.splice t.released) := by
  by_cases h : meetOf t.a ++ meetOf t.b = [] <;>
    simp only [State.spliceRelease, SpliceTask.released, refAddr_eq_portAddr, SpliceEnd.isRoot_iff, SpliceEnd.meetRef_eq_meetOf,
      List.isEmpty_iff, State.spliceFinish_eq_spliceLast, h, if_true, if_false]

theorem needs_or_needs_iff (a b : SpliceEnd) : (a.needs b || b.needs a) = true ↔ StillDue a b ∨ StillDue b a := by
  rw [Bool.or_eq_true, a.needs_iff_stillDue, b.needs_iff_stillDue]

/-- A splice after an end is fixed: attached again, or released. -/
def State.spliceOn (s : State) (p : Party) (t : SpliceTask) : State :=
  if t.a.needs t.b || t.b.needs t.a then s.setWork p (.splice t) else s.spliceRelease p t

theorem State.spliceOn_spliceGoes (s : State) (p : Party) {t : SpliceTask} (hphase : t.phase = .attach) :
    SpliceGoes s p t (s.spliceOn p t) := by
  have hsame : { t with phase := .attach } = t := by rw [← hphase]
  refine ⟨fun hdue => ?_, fun hfixed => ?_⟩
  · rw [State.spliceOn, if_pos ((needs_or_needs_iff _ _).2 hdue), hsame]
  · rw [State.spliceOn, if_neg (mt (needs_or_needs_iff _ _).1 hfixed), State.spliceRelease_eq]
    rfl

/-! ### The Takes of a splice (R220 steps 1 and 2) -/

section Take
variable {s : State} {p : Party} {t : SpliceTask} {pa : Nat}

/-- The side of a splice whose port is to be taken next. -/
def SpliceTask.toTake (t : SpliceTask) : SpliceEnd := if t.phase = .takeFirst then t.a else t.b

/-- The side as its port is taken. -/
def SpliceTask.takenSide (t : SpliceTask) (w : Word) : SpliceEnd :=
  ⟨t.toTake.port, w, named w, linkTo t.toTake.port, .free, 0⟩

theorem State.spliceBegin_eq (s : State) (p : Party) (t : SpliceTask) : s.spliceBegin p t = s.setWork p (.splice
    (if portKind t.a.word = 3 ∧ portKind t.b.word = 3 then
      { t with phase := .finish, writes := [(named t.a.word, 0), (named t.b.word, 0)] }
    else { t with phase := .attach })) := by
  simp only [State.spliceBegin, Bool.and_eq_true, SpliceEnd.isRoot_iff]
  exact (apply_ite (fun x => s.setWork p (.splice x)) _ _ _).symm

variable (hat : s.portAt p t.toTake.port = .at_ pa)
include hat

theorem State.spliceTake_of_halfMade (hhalf : HalfMade s p t.toTake.port) : s.spliceTake p t = s := by
  change s.step_ p _ (s.portAt p t.toTake.port) _ = s
  rw [hat]
  exact if_pos ((s.settling_iff_halfMade p _).2 hhalf)

variable (hhalf : ¬ HalfMade s p t.toTake.port)
include hhalf

theorem State.spliceTake_of_not_takable (h : ¬ Takable (s.read64 pa)) : s.spliceTake p t = (s.stepOn pa).linkFault p := by
  change s.step_ p _ (s.portAt p t.toTake.port) _ = _
  rw [hat]
  exact (if_neg (mt (s.settling_iff_halfMade p _).1 hhalf)).trans (if_pos ((not_takable_test_iff _).2 h))

theorem State.spliceTake_of_takable (h : Takable (s.read64 pa)) : s.spliceTake p t =
    if t.phase = .takeFirst then
      (s.stepWrite pa (redirectTo 0)).setWork p (.splice { t with a := t.takenSide (s.read64 pa), phase := .takeSecond })
    else (s.stepWrite pa (redirectTo 0)).spliceBegin p { t with b := t.takenSide (s.read64 pa) } := by
  have hsteps : s.spliceTake p t =
      if t.phase = .takeFirst then
        (s.stepWrite pa (redirectTo 0)).setWork p (.splice { t with a := t.a.taken (s.read64 pa), phase := .takeSecond })
      else (s.stepWrite pa (redirectTo 0)).spliceBegin p { t with b := t.b.taken (s.read64 pa) } := by
    change s.step_ p _ (s.portAt p t.toTake.port) _ = _
    rw [hat]
    exact (if_neg (mt (s.settling_iff_halfMade p _).1 hhalf)).trans (if_neg (not_not.2 h ∘ (not_takable_test_iff _).1))
  rw [hsteps]
  unfold SpliceTask.takenSide SpliceTask.toTake
  split <;> rfl

end Take

/-! ### The Attaches of a splice (R220 step 3) -/

section Side
variable (s : State) (p : Party) (t : SpliceTask)

/-- The far end of a side names the side's port (log 75). -/
def PlainEnd (s : State) (p : Party) (e : SpliceEnd) : Prop :=
  ∃ pa leaf, s.check p.die p.ctx .nodeStore (portAddr e.far) 8 = .ok pa leaf ∧ s.read64 pa = e.names

theorem State.plainEnd_iff (e : SpliceEnd) : s.plainEnd p e = true ↔ PlainEnd s p e := by
  unfold State.plainEnd PlainEnd
  rw [refAddr_eq_portAddr]
  cases s.check p.die p.ctx .nodeStore (portAddr e.far) 8 <;> simp

theorem State.attachSide_of_not_due_b (hdue : StillDue t.a t.b) (h : ¬ StillDue t.b t.a) : s.attachSide p t = false := by
  simp [State.attachSide, (t.a.needs_iff_stillDue t.b).2 hdue, mt (t.b.needs_iff_stillDue t.a).1 h]

theorem State.attachSide_of_not_due_a (h : ¬ StillDue t.a t.b) : s.attachSide p t = true := by
  simp [State.attachSide, mt (t.a.needs_iff_stillDue t.b).1 h]

section Both
variable (ha : StillDue t.a t.b) (hb : StillDue t.b t.a)
include ha hb

theorem State.attachSide_of_both : s.attachSide p t =
    if s.plainEnd p t.a = s.plainEnd p t.b then t.turnB else s.plainEnd p t.a := by
  simp [State.attachSide, (t.a.needs_iff_stillDue t.b).2 ha, (t.b.needs_iff_stillDue t.a).2 hb]

theorem State.attachSide_of_plain_a (hplain : PlainEnd s p t.a) (hnot : ¬ PlainEnd s p t.b) : s.attachSide p t = true := by
  rw [← s.plainEnd_iff] at hplain hnot
  simp [s.attachSide_of_both p t ha hb, hplain, hnot]

theorem State.attachSide_of_plain_b (hplain : PlainEnd s p t.b) (hnot : ¬ PlainEnd s p t.a) : s.attachSide p t = false := by
  rw [← s.plainEnd_iff] at hplain hnot
  simp [s.attachSide_of_both p t ha hb, hplain, hnot]

theorem State.attachSide_of_same (hsame : PlainEnd s p t.a ↔ PlainEnd s p t.b) : s.attachSide p t = t.turnB := by
  rw [← s.plainEnd_iff, ← s.plainEnd_iff, ← Bool.eq_iff_iff] at hsame
  rw [s.attachSide_of_both p t ha hb, if_pos hsame]

end Both

end Side

section Attach
variable {s : State} {p : Party} (t : SpliceTask) (atB : Bool) {pa : Nat}

/-- The side of a splice that is attached. -/
def SpliceTask.side (t : SpliceTask) (atB : Bool) : SpliceEnd := if atB then t.b else t.a

/-- The side it is attached to. -/
def SpliceTask.other (t : SpliceTask) (atB : Bool) : SpliceEnd := if atB then t.a else t.b

/-- The splice after an Attach that leaves the side as given. -/
def SpliceTask.attached (t : SpliceTask) (atB : Bool) (e : SpliceEnd) : SpliceTask := { t.putSide atB e with phase := .attach }

theorem State.spliceAttachAt_eq (s : State) (p : Party) : ∃ f, s.spliceAttachAt p t atB =
    s.step_ p (portAddr (t.side atB).far) (s.portAt p (t.side atB).far) f := by
  rw [← refAddr_eq_portAddr]
  exact ⟨_, rfl⟩

variable (hat : s.portAt p (t.side atB).far = .at_ pa)
include hat

theorem State.spliceAttachAt_at : s.spliceAttachAt p t atB =
    let e := t.side atB
    let w := s.read64 pa
    if w = e.names then (s.stepWrite pa (t.other atB).value).spliceOn p
      (t.attached atB { e with state := .done, names := (t.other atB).value, held := 0 })
    else if !portOk w || portKind w ≠ 2 then (s.stepOn pa).linkFault p
    else if isHold w then
      (s.stepOn pa).setWork p (.splice { t.putSide atB { e with held := e.held + 1 } with phase := .hold (s.cycle + 16) })
    else (s.stepOn pa).spliceOn p (t.attached atB { e with state := .met e.far, far := portTarget w, held := 0 }) := by
  change s.step_ p _ (s.portAt p (t.side atB).far) _ = _
  rw [hat, State.step_at]
  cases atB <;> rfl

theorem State.spliceAttachAt_of_own (h : s.read64 pa = (t.side atB).names) :
    SpliceGoes (s.stepWrite pa (endValue (t.other atB))) p
      (t.attached atB { t.side atB with state := .done, names := endValue (t.other atB), held := 0 })
      (s.spliceAttachAt p t atB) := by
  rw [State.spliceAttachAt_at t atB hat, SpliceEnd.value_eq_endValue]
  dsimp only
  rw [if_pos h]
  exact State.spliceOn_spliceGoes _ _ rfl

variable (hown : s.read64 pa ≠ (t.side atB).names)
include hown

theorem State.spliceAttachAt_of_neither (hhold : ¬ Holds (s.read64 pa)) (hredirect : ¬ Redirects (s.read64 pa)) :
    s.spliceAttachAt p t atB = (s.stepOn pa).linkFault p := by
  rw [State.spliceAttachAt_at t atB hat]
  dsimp only
  rw [if_neg hown, if_pos ((no_redirect_test_iff _).2 ⟨hhold, hredirect⟩)]

theorem State.spliceAttachAt_of_holds (h : Holds (s.read64 pa)) : s.spliceAttachAt p t atB =
    (s.stepOn pa).setWork p (.splice
      { t.putSide atB { t.side atB with held := (t.side atB).held + 1 } with phase := .hold (s.cycle + 16) }) := by
  rw [State.spliceAttachAt_at t atB hat]
  dsimp only
  rw [if_neg hown, if_neg (redirect_test_of_holds h), if_pos (isHold_of_holds h)]

theorem State.spliceAttachAt_of_redirects (h : Redirects (s.read64 pa)) :
    SpliceGoes (s.stepOn pa) p (t.attached atB
      { t.side atB with state := .met (t.side atB).far, far := named (s.read64 pa), held := 0 }) (s.spliceAttachAt p t atB) := by
  rw [State.spliceAttachAt_at t atB hat]
  dsimp only
  rw [if_neg hown, if_neg (redirect_test_of_redirects h), if_neg (not_isHold_of_redirects h)]
  exact State.spliceOn_spliceGoes _ _ rfl

end Attach

theorem exec_linkHoldRetry_splice {s : State} {n c : Nat} {p : Party} {t : SpliceTask} (h : s.party n = some p)
    (hwork : p.work = .splice t) (hphase : t.phase = .hold c) : exec (.linkHoldRetry n) s =
    .next (if c ≤ s.cycle then s.setWork p (.splice { t with phase := .attach }) else s) := by
  change execLinkHoldRetry n s = _
  simp only [execLinkHoldRetry, h, hwork, hphase]

end Sys2Proof.Machine

namespace Sys2Proof.Claims
open Sys2Proof.Machine

theorem spliceSteps : SpliceSteps := by
  intro s n p t h hwork hw
  have hwrites : p.work.writes = [] := by rw [hwork]; exact hw
  refine ⟨fun pa hphase hat => ?take, fun hphase hdue => ?attach, fun c hphase => exec_linkHoldRetry_splice h hwork hphase⟩
  case take =>
    rw [exec_take_splice h hwork hwrites hphase]
    refine ⟨fun hhalf => congrArg _ (State.spliceTake_of_halfMade hat hhalf),
      fun hhalf hbad => congrArg _ (State.spliceTake_of_not_takable hat hhalf hbad),
      fun hhalf hgood => ⟨fun hfirst => congrArg _ ?_, fun hsecond => congrArg _ ?_⟩⟩
    · exact (State.spliceTake_of_takable hat hhalf hgood).trans (if_pos hfirst)
    · exact (State.spliceTake_of_takable hat hhalf hgood).trans
        ((if_neg (by simp [hsecond])).trans (State.spliceBegin_eq _ p _))
  case attach =>
    rw [exec_attach_splice h hwork hwrites hphase]
    generalize hside : s.attachSide p t = atB
    obtain ⟨f, hstep⟩ := State.spliceAttachAt_eq t atB s p
    refine ⟨atB, fun hb => ?_, fun ha => ?_, fun ha hb => ⟨?_, ?_, ?_⟩, fun hans => ?_, fun hans => ?_, fun hans => ?_,
      fun pa hat => ⟨fun hown => ?_, fun hown hhold => ?_, fun hown hredirect => ?_, fun hown hhold hredirect => ?_⟩⟩
    · exact hside ▸ s.attachSide_of_not_due_b p t (hdue.resolve_right hb) hb
    · exact hside ▸ s.attachSide_of_not_due_a p t ha
    · exact fun ⟨hplain, hnot⟩ => hside ▸ s.attachSide_of_plain_a p t ha hb hplain hnot
    · exact fun ⟨hplain, hnot⟩ => hside ▸ s.attachSide_of_plain_b p t ha hb hplain hnot
    · exact fun hsame => hside ▸ s.attachSide_of_same p t ha hb hsame
    · rw [hstep, show s.portAt p (t.side atB).far = .fault from hans, State.step_fault]
    · rw [hstep, show s.portAt p (t.side atB).far = .lost from hans, State.step_lost]
      rfl
    · rw [hstep, show s.portAt p (t.side atB).far = .wait from hans, State.step_wait]
    · exact ⟨_, rfl, State.spliceAttachAt_of_own t atB hat hown⟩
    · exact congrArg _ (State.spliceAttachAt_of_holds t atB hat hown hhold)
    · exact ⟨_, rfl, State.spliceAttachAt_of_redirects t atB hat hown hredirect⟩
    · exact congrArg _ (State.spliceAttachAt_of_neither t atB hat hown hhold hredirect)

end Sys2Proof.Claims
end

section
/-! SUPPORT. The statements of 13_nets_and_rules.md. Meets and vicious circles (R218 to R222; log 20). -/

set_option Elab.async false

namespace Sys2Proof.Machine
open Sys2Proof.Claims

/-! ### The party that waits at a reference (R218) -/

theorem Party.waits_iff (q : Party) (r : Word) : q.waits = some r ↔
    (∃ k d, q.work = .link k ∧ k.phase = .waitFirst r d) ∨
      ∃ t, q.work = .splice t ∧ t.phase = .waitFirst ∧ t.meets.head? = some r := by
  unfold Party.waits
  cases q.work with
  | link k => cases hphase : k.phase <;> simp [hphase]
  | splice t => by_cases hphase : t.phase = .waitFirst <;> simp [hphase]

/-- The other party that waits at a reference, if one does. -/
def State.waiterAt (s : State) (p : Party) (r : Word) : Option Party :=
  s.parties.find? fun q => q.uid ≠ p.uid && q.ctx = p.ctx && q.waits = some r

theorem State.waiterAt_of_waitsAt {s : State} {p q : Party} {r : Word} (h : WaitsAt s p r q) : s.waiterAt p r = some q := by
  obtain ⟨pre, post, hfirst⟩ := h
  refine find?_of_firstOf (fun y => ?_) hfirst
  simp only [Bool.and_eq_true, decide_eq_true_eq, y.waits_iff, and_assoc]

theorem State.waitsAt_of_waiterAt {s : State} {p q : Party} {r : Word} (h : s.waiterAt p r = some q) : WaitsAt s p r q := by
  obtain ⟨hq, pre, post, hparties, hpre⟩ := List.find?_eq_some_iff_append.1 h
  simp only [Bool.and_eq_true, decide_eq_true_eq, and_assoc] at hq
  simp only [WaitsAt, ← Party.waits_iff]
  exact ⟨pre, post, hparties, hq, fun y hy ⟨huid, hctx, hwaits⟩ => by simpa [huid, hctx, hwaits] using hpre y hy⟩

theorem State.waiterAt_of_noneWaits {s : State} {p : Party} {r : Word} (h : NoneWaits s p r) : s.waiterAt p r = none :=
  Option.eq_none_iff_forall_ne_some.2 fun q hq => h q (State.waitsAt_of_waiterAt hq)

/-! ### Meets answered (R218 to R220) -/

section Met
variable (s : State) {p : Party} {k : LinkTask} {t : SpliceTask} {r d : Word} (push : Bool)

theorem State.metOnce_meet (hwork : p.work = .link k) (hphase : k.phase = .meet r d) :
    s.metOnce p push = linkMet s p k d push := by
  simp [State.metOnce, linkMet, hwork, hphase, refPort_eq_mod, and_assoc]

theorem State.metOnce_waitFirst (hwork : p.work = .link k) (hphase : k.phase = .waitFirst r d) :
    s.metOnce p push = linkMet s p k d push := by
  simp [State.metOnce, linkMet, hwork, hphase, refPort_eq_mod, and_assoc]

theorem State.metOnce_splice (hwork : p.work = .splice t) : s.metOnce p push = spliceMet s p t push := by
  simp only [State.metOnce, spliceMet, hwork, List.isEmpty_iff, State.spliceFinish_eq_spliceLast]

end Met

/-! ### A Meet at its port (R218) -/

section Meet
variable {s : State} {p : Party} {r : Word} {pr : Nat} {wk : LinkWork}

/-- A party whose step has crossed a number of links: a link keeps its longest step (R227). -/
def Party.farther (p : Party) (hops : Nat) : Party :=
  match p.work with
  | .link k => { p with work := .link { k with hops := max k.hops hops } }
  | .splice _ => p

theorem Party.farther_link {k : LinkTask} (hwork : p.work = .link k) (hops : Nat) :
    p.farther hops = { p with work := .link { k with hops := max k.hops hops } } := by
  simp only [Party.farther, hwork]

theorem Party.farther_splice {t : SpliceTask} (hwork : p.work = .splice t) (hops : Nat) : p.farther hops = p := by
  simp only [Party.farther, hwork]

theorem Party.farther_same (p : Party) (hops : Nat) :
    (p.farther hops).uid = p.uid ∧ (p.farther hops).thread = p.thread ∧ (p.farther hops).work.partners = p.work.partners ∧
      (p.farther hops).ctx = p.ctx := by
  cases hwork : p.work with
  | link k => rw [p.farther_link hwork]; exact ⟨rfl, rfl, rfl, rfl⟩
  | splice t => rw [p.farther_splice hwork, hwork]; exact ⟨rfl, rfl, rfl, rfl⟩

/-- The work of a party that waits after a FIRST, its longest step kept. -/
def LinkWork.waiting (w now : LinkWork) : LinkWork :=
  match w, now with
  | .link k, .link j => .link { k with hops := j.hops }
  | x, _ => x

variable (hat : s.portAt p r = .at_ pr)
include hat

theorem State.meetAt_at : s.meetAt p r wk =
    let w := s.read64 pr
    let p := p.farther (s.stepHops p pr)
    if !portOk w || portKind w ≠ 2 then (s.stepOn pr).linkFault p
    else if !portMet w then (s.stepWrite pr (w ||| 0x2000000000000000)).setWork p (wk.waiting p.work)
    else match s.waiterAt p r with
      | none => (s.stepOn pr).metOnce p true
      | some q => ((s.stepOn pr).metOnce p (p.isSplice || !q.isSplice)).metOnce q (q.isSplice && !p.isSplice) := by
  rw [State.meetAt, hat]
  rfl

theorem State.meetAt_of_not_redirect (h : ¬ (portOk (s.read64 pr) = true ∧ portKind (s.read64 pr) = 2)) :
    s.meetAt p r wk = (s.stepOn pr).linkFault (p.farther (s.stepHops p pr)) :=
  (State.meetAt_at hat).trans (if_pos ((not_redirect_test_iff _).2 h))

variable (hredirect : portOk (s.read64 pr) = true ∧ portKind (s.read64 pr) = 2)
include hredirect

theorem State.meetAt_of_first (h : bitOf (s.read64 pr) 61 = false) : s.meetAt p r wk =
    (s.stepWrite pr (s.read64 pr ||| 0x2000000000000000)).setWork (p.farther (s.stepHops p pr))
      (wk.waiting (p.farther (s.stepHops p pr)).work) := by
  rw [State.meetAt_at hat]
  dsimp only
  rw [if_neg (not_not.2 hredirect ∘ (not_redirect_test_iff _).1), portMet_eq_bitOf, h]
  rfl

variable (hmet : bitOf (s.read64 pr) 61 = true)
include hmet

theorem State.meetAt_of_met : s.meetAt p r wk = match s.waiterAt p r with
      | none => (s.stepOn pr).metOnce (p.farther (s.stepHops p pr)) true
      | some q => ((s.stepOn pr).metOnce (p.farther (s.stepHops p pr)) (p.isSplice || !q.isSplice)).metOnce q
          (q.isSplice && !p.isSplice) := by
  have hsplice : (p.farther (s.stepHops p pr)).isSplice = p.isSplice := by
    cases hwork : p.work with
    | link k => simp only [p.farther_link hwork, Party.isSplice, hwork]
    | splice t => rw [p.farther_splice hwork]
  have hwaiter : s.waiterAt (p.farther (s.stepHops p pr)) r = s.waiterAt p r := by
    obtain ⟨huid, -, -, hctx⟩ := p.farther_same (s.stepHops p pr)
    rw [State.waiterAt, huid, hctx, State.waiterAt]
  rw [State.meetAt_at hat]
  dsimp only
  rw [if_neg (not_not.2 hredirect ∘ (not_redirect_test_iff _).1), portMet_eq_bitOf, hmet, hsplice, hwaiter]
  rfl

theorem State.meetAt_alone (hnone : NoneWaits s p r) :
    s.meetAt p r wk = (s.stepOn pr).metOnce (p.farther (s.stepHops p pr)) true := by
  rw [State.meetAt_of_met hat hredirect hmet, State.waiterAt_of_noneWaits hnone]

theorem State.meetAt_second {q : Party} (hq : WaitsAt s p r q) : s.meetAt p r wk =
    ((s.stepOn pr).metOnce (p.farther (s.stepHops p pr)) (p.isSplice || !q.isSplice)).metOnce q (q.isSplice && !p.isSplice) := by
  rw [State.meetAt_of_met hat hredirect hmet, State.waiterAt_of_waitsAt hq]

end Meet

end Sys2Proof.Machine

namespace Sys2Proof.Claims
open Sys2Proof.Machine

theorem meetSteps : MeetSteps := by
  intro s n p r pr h hwrites hat hcase w redirect s1
  have hexec : ∃ wk, exec (.meet n) s = .next (s.meetAt p r wk) := by
    obtain ⟨k, d, hwork, hphase⟩ | ⟨t, rest, hwork, hphase, hmeets⟩ := hcase
    · exact ⟨_, exec_meet_link h hwork hwrites hphase⟩
    · exact ⟨_, exec_meet_splice h hwork hwrites hphase (by simp [hmeets])⟩
  obtain ⟨wk, hexec⟩ := hexec
  refine ⟨fun hbad => ?bad, fun hred hfirst => ⟨fun k d hwork hphase => ?firstLink, fun t hwork => ?firstSplice⟩,
    fun hred hmet => ?met⟩
  case bad =>
    obtain ⟨huid, hthread, hpartners, -⟩ := p.farther_same (s.stepHops p pr)
    exact ⟨_, huid, hthread, hpartners, hexec.trans (congrArg _ (State.meetAt_of_not_redirect hat hbad))⟩
  case firstLink =>
    rw [exec_meet_link h hwork hwrites hphase, State.meetAt_of_first hat hred hfirst, p.farther_link hwork]
    rfl
  case firstSplice =>
    obtain ⟨k, d, hlink, -⟩ | ⟨t', rest, hsplice, hphase, hmeets⟩ := hcase
    · exact absurd (hwork.symm.trans hlink) (by simp)
    · obtain rfl : t = t' := by simpa using hwork.symm.trans hsplice
      rw [exec_meet_splice h hwork hwrites hphase (by simp [hmeets] : t.meets.head? = some r),
        State.meetAt_of_first hat hred hfirst, p.farther_splice hwork]
      rfl
  case met =>
    intro second link
    have hsecond (push : Bool) : s1.metOnce (p.farther (s.stepHops p pr)) push = second push := by
      obtain ⟨k, d, hwork, hphase⟩ | ⟨t, rest, hwork, -⟩ := hcase
      · rw [p.farther_link hwork, State.metOnce_meet s1 (k := { k with hops := max k.hops (s.stepHops p pr) }) push rfl hphase]
        simp only [second, hwork, hphase]
      · rw [p.farther_splice hwork, State.metOnce_splice s1 push hwork]
        simp only [second, hwork]
    refine ⟨fun hnone => ?_, fun q j d hq hwork hphase => ?_, fun q u hq hwork => ⟨fun hlink => ?_, fun hsplice => ?_⟩⟩
    · rw [hexec, State.meetAt_alone hat hred hmet hnone, hsecond]
    · have hq' : q.isSplice = false := by simp only [Party.isSplice, hwork]
      rw [hexec, State.meetAt_second hat hred hmet hq, hsecond, hq', Bool.not_false, Bool.or_true, Bool.false_and,
        State.metOnce_waitFirst _ _ hwork hphase]
    · have hq' : q.isSplice = true := by simp only [Party.isSplice, hwork]
      have hp : p.isSplice = false := by
        obtain ⟨k, hk⟩ := hlink
        simp only [Party.isSplice, hk]
      rw [hexec, State.meetAt_second hat hred hmet hq, hsecond, hq', hp, State.metOnce_splice _ _ hwork]
      rfl
    · have hq' : q.isSplice = true := by simp only [Party.isSplice, hwork]
      have hp : p.isSplice = true := by
        cases hpw : p.work with
        | link k => exact absurd ⟨k, hpw⟩ hsplice
        | splice t => simp only [Party.isSplice, hpw]
      rw [hexec, State.meetAt_second hat hred hmet hq, hsecond, hq', hp, State.metOnce_splice _ _ hwork]
      rfl

end Sys2Proof.Claims

namespace Sys2Proof.Machine
open Sys2Proof.Claims

/-! ### Vicious circles (R221, R222; log 20) -/

section Circle
variable {s : State} {n c : Nat} {p : Party} {t : SpliceTask} (h : s.party n = some p) (hwork : p.work = .splice t)
  (hphase : t.phase = .hold c)

/-- The side of a splice whose Attach was answered HOLD. -/
def SpliceTask.heldSide (t : SpliceTask) : SpliceEnd := if t.turnB then t.a else t.b

/-- The side across from it. -/
def SpliceTask.heldOther (t : SpliceTask) : SpliceEnd := if t.turnB then t.b else t.a

/-- The circle that a splice looks for from its hold. -/
def State.circleOf (s : State) (p : Party) (t : SpliceTask) : Option (List Nat) :=
  s.circle p.ctx p.uid t.heldOther.port (s.parties.length + 1) t.heldSide.far

/-- Two splices hold the two ports of one wire, and the one asked can be taken over (R221; log 20). -/
def Joins (p q : Party) (t u : SpliceTask) : Prop :=
  q.uid ≠ p.uid ∧ (if u.a.port = t.heldSide.far then u.a else u.b).far = t.heldSide.port ∧ u.phase ≠ .takeSecond

include h hwork hphase

theorem exec_viciousCircle_splice : exec (.viciousCircle n) s =
    if t.heldSide.held < 64 then .next s
    else match s.circleOf p t with
    | some us => .next (s.vanish us)
    | none => match s.holder p.ctx t.heldSide.far with
      | none => .next s
      | some (q, u) =>
        if q.uid ≠ p.uid && (if u.a.port = t.heldSide.far then u.a else u.b).far = t.heldSide.port &&
            u.phase ≠ .takeSecond then
          .next (s.joinSplices p q t u t.heldSide t.heldOther)
        else .next s := by
  change execViciousCircle n s = _
  simp only [execViciousCircle, h, hwork, hphase]
  rfl

theorem exec_viciousCircle_seldom (hheld : t.heldSide.held < 64) : exec (.viciousCircle n) s = .next s :=
  (exec_viciousCircle_splice h hwork hphase).trans (if_pos hheld)

variable (hheld : 64 ≤ t.heldSide.held)
include hheld

theorem exec_viciousCircle_closed {us : List Nat} (hround : s.circleOf p t = some us) :
    exec (.viciousCircle n) s = .next (s.vanish us) := by
  rw [exec_viciousCircle_splice h hwork hphase, if_neg (not_lt.2 hheld), hround]

variable (hround : s.circleOf p t = none)
include hround

theorem exec_viciousCircle_unheld (hholder : s.holder p.ctx t.heldSide.far = none) : exec (.viciousCircle n) s = .next s := by
  rw [exec_viciousCircle_splice h hwork hphase, if_neg (not_lt.2 hheld), hround, hholder]

variable {q : Party} {u : SpliceTask} (hholder : s.holder p.ctx t.heldSide.far = some (q, u))
include hholder

theorem exec_viciousCircle_open (hjoins : ¬ Joins p q t u) : exec (.viciousCircle n) s = .next s := by
  rw [exec_viciousCircle_splice h hwork hphase, if_neg (not_lt.2 hheld), hround, hholder]
  exact if_neg (by simpa [Joins, and_assoc] using hjoins)

theorem exec_viciousCircle_joins (hjoins : Joins p q t u) :
    exec (.viciousCircle n) s = .next (s.joinSplices p q t u t.heldSide t.heldOther) := by
  rw [exec_viciousCircle_splice h hwork hphase, if_neg (not_lt.2 hheld), hround, hholder]
  exact if_pos (by simpa [Joins, and_assoc] using hjoins)

end Circle

section Join
variable (s : State) (p q : Party) (t u : SpliceTask)

/-- The splice of two whose middle wire is gone (R221; log 20). -/
def SpliceTask.joined (t u : SpliceTask) (q : Party) : SpliceTask :=
  { a := if u.a.port = t.heldSide.far then u.b else u.a, b := t.heldOther, turnB := false, meets := [],
    pushes := t.pushes && u.pushes, phase := .attach, writes := [], partners := t.partners ++ q.uid :: u.partners }

theorem State.joinSplices_eq : s.joinSplices p q t u t.heldSide t.heldOther =
    let s1 := s.setWork q (.splice { u with phase := .joined, partners := [] })
    let t1 := t.joined u q
    if t1.a.isRoot && t1.b.isRoot then s1.spliceBegin p t1 else s1.spliceOn p t1 := rfl

theorem State.joinSplices_of_roots
    (hroots : portKind (t.joined u q).a.word = 3 ∧ portKind (t.joined u q).b.word = 3) :
    s.joinSplices p q t u t.heldSide t.heldOther =
      (s.setWork q (.splice { u with phase := .joined, partners := [] })).setWork p (.splice { t.joined u q with
        phase := .finish, writes := [(named (t.joined u q).a.word, 0), (named (t.joined u q).b.word, 0)] }) := by
  rw [State.joinSplices_eq]
  dsimp only
  rw [if_pos (by simpa only [Bool.and_eq_true, SpliceEnd.isRoot_iff] using hroots), State.spliceBegin_eq, if_pos hroots]

theorem State.joinSplices_of_end
    (hroots : ¬ (portKind (t.joined u q).a.word = 3 ∧ portKind (t.joined u q).b.word = 3)) :
    SpliceGoes (s.setWork q (.splice { u with phase := .joined, partners := [] })) p (t.joined u q)
      (s.joinSplices p q t u t.heldSide t.heldOther) := by
  rw [State.joinSplices_eq]
  dsimp only
  rw [if_neg (by simpa only [Bool.and_eq_true, SpliceEnd.isRoot_iff] using hroots)]
  exact State.spliceOn_spliceGoes _ _ rfl

end Join

theorem State.vanish_eq (s : State) (us : List Nat) : s.vanish us =
    (us ++ s.parties.flatMap fun q => if q.uid ∈ us then q.work.partners else []).foldl State.goOn s := by
  simp only [State.vanish, List.contains_iff_mem]

end Sys2Proof.Machine

namespace Sys2Proof.Claims
open Sys2Proof.Machine

theorem viciousCircles : ViciousCircles := by
  intro s n p t c h hwork hphase e o round joins
  refine ⟨exec_viciousCircle_seldom h hwork hphase, fun hheld => ⟨fun us hround => ?closed, fun hround q u hholder =>
    ⟨exec_viciousCircle_open h hwork hphase hheld hround hholder, fun hjoins => ?joins⟩,
    exec_viciousCircle_unheld h hwork hphase hheld⟩⟩
  case closed => rw [exec_viciousCircle_closed h hwork hphase hheld hround, State.vanish_eq]
  case joins =>
    exact ⟨_, exec_viciousCircle_joins h hwork hphase hheld hround hholder hjoins, State.joinSplices_of_roots s p q t u,
      State.joinSplices_of_end s p q t u⟩

end Sys2Proof.Claims

namespace Sys2Proof.Laws

/-- Settles O28: each step of a party is an equation for what it meets at its port, by the kind of the word found there; a splice
whose ends are fixed goes on in one way, whichever step fixed them. -/
theorem linkUnit : Obligations.LinkUnit :=
  ⟨Claims.stepsMeet, Claims.partiesGo, Claims.partyWrites, Claims.linkSteps, Claims.meetSteps, Claims.spliceSteps,
    Claims.viciousCircles⟩

end Sys2Proof.Laws
end

section
/-! SUPPORT. The statements of 13_nets_and_rules.md. A node freed by a rewrite, where an entry of the nodes popped holds none
(R213, R216; log 87). -/

set_option Elab.async false

namespace Sys2Proof.Machine
open Sys2Proof.Claims

/-! ### Nodes popped by one that waits no longer, when there are none (R216; log 87) -/

theorem State.regain_of_no_strays {s : State} {p : Place} {ctx : Nat} (h : strays s p ctx = []) :
    s.regain p.die p.core ctx = s :=
  if_pos (List.isEmpty_iff.2 h)

theorem State.popped_pushNode (s : State) (d c ctx : Nat) (n : Word) :
    ((s.pushNode d c ctx n).core d c).popped = (s.core d c).popped := by
  unfold State.pushNode State.setStack
  dsimp only
  split <;> simp

theorem State.popped_modJob (s : State) (r : Rewrite) (f : Rewrite → Rewrite) :
    ((s.modJob r f).core r.die r.core).popped = (s.core r.die r.core).popped := by
  simp [State.modJob]

/-- A node freed leaves what has been popped as it is, where no node is to go back on the stack. -/
theorem State.popped_unitFree {s : State} {r : Rewrite} {n : Word} {pa : Nat} (hat : s.stepAt r.die r.ctx none n 32 = .at_ pa)
    (h : strays ((s.stepOn pa).writeNat pa 32 0) ⟨r.die, r.core, 0⟩ r.ctx = []) :
    ((s.unitFree r n).core r.die r.core).popped = (((s.stepOn pa).writeNat pa 32 0).core r.die r.core).popped := by
  have hfree : s.unitFree r n = (((s.stepOn pa).writeNat pa 32 0).pushNode r.die r.core r.ctx n).modJob r fun x =>
      { x with frees := x.frees.drop 1 } := by
    rw [State.unitFree, State.unitStep, hat]
    dsimp only
    rw [State.regain_of_no_strays (p := ⟨r.die, r.core, 0⟩) h]
  rw [hfree, State.popped_modJob, State.popped_pushNode]

/-! ### An entry that holds no node -/

/-- What one that waits no longer has popped: no node. -/
def noNodes : Nat × Nat × List Word := (77, 0, [])

/-- A rewrite with one node to free. -/
def freeingJob : Rewrite :=
  { uid := 9, ctx := 0, die := 0, core := 0, action := 1, w0 := 0, w1 := 0, a := 0x200000, b := 0x200020, begun := true,
    faulted := false, writes := [], todo := [], cur := none, frees := [0x200000] }

/-- A machine with such a rewrite and such an entry on one core, its die with one page of nodes: a leaf that is valid, readable,
writable and NET. -/
def freeingState : State :=
  { dies := [(0, { tlb := [⟨0, 0x200000, 0x200000, 0xC980001000200000⟩] })]
    cores := [((0, 0), { rewrites := [freeingJob], popped := [noNodes] })] }

theorem freeingState_stepAt : freeingState.stepAt 0 0 none 0x200000 32 = .at_ 0x1000200000 := by
  have hcheck : freeingState.check 0 0 .nodeStore 0x200000 32 = .ok 0x1000200000 0xC980001000200000 := by decide +kernel
  have hin : (freeingState.die (paHome 0x1000200000)).outOfService = false := by decide +kernel
  have hmay : freeingState.mayStep 0 0 none 0x1000200000 = true := by decide +kernel
  rw [State.stepAt_of_ok hcheck, hin, hmay]
  rfl

/-- The machine once the node is zero. -/
def freeingZeroed : State := (freeingState.stepOn 0x1000200000).writeNat 0x1000200000 32 0

theorem exec_freeing : exec (.annihilate 9) freeingState = .next (freeingState.unitFree freeingJob 0x200000) := rfl

theorem freeingZeroed_popped : (freeingZeroed.core 0 0).popped = [noNodes] := by decide +kernel

theorem freeingZeroed_stray : Stray freeingZeroed ⟨0, 0, 0⟩ 0 noNodes := ⟨rfl, by decide +kernel⟩

theorem freeingZeroed_strays : strays freeingZeroed ⟨0, 0, 0⟩ 0 = [] := by decide +kernel

end Sys2Proof.Machine

namespace Sys2Proof.Laws
open Sys2Proof.Machine Sys2Proof.Claims

/-- Refutes O29, by the frees of a rewrite (in `RewriteSteps`): of what one that waits no longer has popped the statement leaves
nothing behind, but `State.regain` does nothing where that is no node at all, so an entry that holds none stays. No step of the
model puts such an entry there; the statement is about every state. -/
theorem not_rewrites : ¬ Obligations.Rewrites := by
  rintro ⟨-, hsteps, -⟩
  obtain ⟨-, -, hbegun⟩ := hsteps freeingState 9 (.annihilate 9) 1 _ freeingJob rfl rfl rfl
  obtain ⟨-, -, -, hfrees, -⟩ := hbegun rfl rfl
  obtain ⟨-, -, hfree⟩ := hfrees 0x200000 [] rfl rfl rfl rfl
  obtain ⟨v, hfreed, -, hexec⟩ := hfree 0x1000200000 freeingState_stepAt
  obtain ⟨-, -, -, hpopped, -⟩ := hfreed
  have hsame : (v.core 0 0).popped = [noNodes] :=
    calc (v.core 0 0).popped
      _ = ((v.modJob freeingJob fun x => { x with frees := x.frees.drop 1 }).core 0 0).popped :=
        (v.popped_modJob freeingJob _).symm
      _ = ((freeingState.unitFree freeingJob 0x200000).core 0 0).popped := by
        rw [Host.Outcome.next.inj (exec_freeing.symm.trans hexec)]
      _ = (freeingZeroed.core 0 0).popped := State.popped_unitFree freeingState_stepAt freeingZeroed_strays
      _ = [noNodes] := freeingZeroed_popped
  have hstays : noNodes ∈ (v.core 0 0).popped := by
    rw [hsame]
    exact .head _
  exact ((hpopped noNodes).1 hstays).2 freeingZeroed_stray

end Sys2Proof.Laws
end

section
/-! SUPPORT. The statements of 14_hods_and_dispatch.md. The host's intake window, the memory aperture and the stamp view (R173,
R246 to R249; logs 15, 16 and 34). -/

set_option Elab.async false

namespace Sys2Proof.Machine
open Sys2Proof.Claims

/-! ### Fields of a word, and bytes (R1) -/

theorem bits_toNat (x : Word) (lo n : Nat) : (bits x lo n).toNat = x.toNat / 2 ^ lo % 2 ^ n := by
  simp [bits, Nat.shiftRight_eq_div_pow]

theorem high16_ne_zero_iff (a : Word) : bits a 48 16 ≠ 0 ↔ 2 ^ 48 ≤ a.toNat := by
  rw [Ne, high16_eq_zero_iff, Nat.not_lt]

theorem bytesOf_zero (n : Nat) : bytesOf n 0 = List.replicate n 0 := by
  induction n with
  | zero => rfl
  | succ n ih => exact congrArg (_ :: ·) ih

theorem State.readBytes_getElem? (s : State) (a n : Nat) {k : Nat} (hk : k < n) :
    (s.readBytes a n)[k]? = some (s.readByte (a + k)) := by
  induction n generalizing a k with
  | zero => omega
  | succ n ih =>
    cases k with
    | zero => rfl
    | succ k => simpa [State.readBytes, Nat.add_assoc, Nat.add_comm 1 k] using ih (a + 1) (Nat.lt_of_succ_lt_succ hk)

/-! ### The intake log (R249) -/

theorem State.intakeLog_logged (s : State) (cause ctx info : Nat) : Logged s (s.intakeLog cause ctx (w64 info)) cause ctx info := by
  refine ⟨rfl, rfl, rfl, fun k => ?_⟩
  split
  · next hk =>
    subst hk
    exact lookupD_putKey_same ..
  · next hk => exact lookupD_putKey_other _ hk _ _

theorem State.intakeLog_logged_word (s : State) (cause ctx : Nat) (a : Word) :
    Logged s (s.intakeLog cause ctx a) cause ctx a.toNat := by
  simpa only [w64, BitVec.ofNat_toNat, BitVec.setWidth_eq] using s.intakeLog_logged cause ctx a.toNat

theorem State.not_loaded_iff (s : State) (ctx : Nat) : (s.ctxInfo? ctx).isNone = true ↔ ¬ Loaded s ctx := by
  simp [Loaded]

/-! ### The intake window (R247) -/

section Window
variable {s : State} {off len : Nat} {relaxed : Bool} {w0 w1 : Word}

theorem exec_intakeWrite (h : off < 2 ^ 18) : exec (.intakeWrite off len relaxed w0 w1) s =
    if relaxed = true then .next (s.intakeLog 1 (off / 2 ^ 12) (w64 off))
    else if len ≠ 16 ∨ off % 16 ≠ 0 then .next (s.intakeLog 2 (off / 2 ^ 12) (w64 off))
    else if 2 ^ 48 ≤ w0.toNat ∨ 2 ^ 48 ≤ w1.toNat then .next (s.intakeLog 3 (off / 2 ^ 12) (w64 off))
    else if (s.ctxInfo? (off / 2 ^ 12)).isNone = true then .next (s.intakeLog 5 (off / 2 ^ 12) (w64 off))
    else .next { s with intake := s.intake ++ [(off / 2 ^ 12, off, w0, w1)] } := by
  change execIntakeWrite off len relaxed w0 w1 s = _
  have hctx : off / 4096 % 64 = off / 2 ^ 12 := by omega
  simp only [execIntakeWrite, hctx, if_neg (Nat.not_le.2 h), Bool.or_eq_true, decide_eq_true_eq, high16_ne_zero_iff]

end Window

theorem exec_bar2Read {s : State} {off : Nat} (h : off < 2 ^ 18) : exec (.bar2Read off) s =
    .next { s.intakeLog 6 (off / 2 ^ 12) (w64 off) with hostRead := some (bytesOf 8 0) } := by
  change execBar2Read off s = _
  have hctx : off / 4096 % 64 = off / 2 ^ 12 := by omega
  rw [execBar2Read, if_neg (Nat.not_le.2 h), hctx]

section Forward
variable {s : State} {ctx off : Nat} {a b : Word} {rest : List (Nat × Nat × Word × Word)}

theorem State.intakeNode_iff (s : State) (ctx : Nat) (a : Word) : s.intakeNode ctx a = true ↔ NamesNode s ctx a := by
  unfold State.intakeNode NamesNode
  cases s.check 0 ctx .nodeName a 32 <;> simp

theorem exec_intakeForward (h : s.intake = (ctx, off, a, b) :: rest) : exec .intakeForward s =
    if 256 ≤ (s.fresh.filter fun f => decide (f.src = .intake)).length then .next s
    else if (s.ctxInfo? ctx).isNone = true then .next ({ s with intake := rest }.intakeLog 5 ctx (w64 off))
    else if s.intakeNode ctx a = false then .next ({ s with intake := rest }.intakeLog 4 ctx a)
    else if s.intakeNode ctx b = false then .next ({ s with intake := rest }.intakeLog 4 ctx b)
    else .next ({ s with intake := rest }.createRecord .intake 0 ctx 0 0 a b) := by
  change execIntakeForward s = _
  simp only [execIntakeForward, h, Bool.not_eq_true']
  rfl

end Forward

/-! ### Pages of leaves (R173, R361) -/

theorem State.readNat_congr {s x : State} (h : x.mem = s.mem) (a n : Nat) : x.readNat a n = s.readNat a n := by
  have hbytes : x.readBytes a n = s.readBytes a n := by
    induction n generalizing a with
    | zero => rfl
    | succ n ih => simp only [State.readBytes, State.readByte, h, ih]
  simp only [State.readNat, hbytes]

theorem State.read64_congr {s x : State} (h : x.mem = s.mem) (a : Nat) : x.read64 a = s.read64 a :=
  congrArg w64 (State.readNat_congr h a 8)

theorem State.record_congr {s x : State} (h : x.bar0.records = s.bar0.records) (ctx word : Nat) :
    x.record ctx word = s.record ctx word := by
  simp only [State.record, h]

/-- States with the same memory, context records and loaded contexts: their page tables map the same leaves. -/
structure State.SameLeaves (s x : State) : Prop where
  mem : x.mem = s.mem
  bar0 : x.bar0 = s.bar0
  ctxs : x.ctxs = s.ctxs

section Leaves
variable {s x : State} (h : s.SameLeaves x)
include h

theorem State.SameLeaves.record (ctx word : Nat) : x.record ctx word = s.record ctx word :=
  State.record_congr (congrArg (·.records) h.bar0) ctx word

theorem State.SameLeaves.leavesFrom (left table : Nat) : x.leavesFrom left table = s.leavesFrom left table := by
  induction left generalizing table with
  | zero => rfl
  | succ left ih => simp only [State.leavesFrom, State.read64_congr h.mem, ih]

theorem State.SameLeaves.stampedLeaves : x.stampedLeaves = s.stampedLeaves := by
  simp only [State.stampedLeaves, State.leaves, h.record, h.leavesFrom, h.ctxs]

theorem State.SameLeaves.leafHolds (ctx : Nat) (e : Word × Nat) (pa : Nat) : x.leafHolds ctx e pa = s.leafHolds ctx e pa := by
  simp only [State.leafHolds, State.interleave, h.record, State.readNat_congr h.mem]

end Leaves

theorem samePage_self (x : Nat × Word × Nat) : samePage x x = true := by simp [samePage]

/-! ### Sidebands after pages are mapped and unmapped (R173; log 34) -/

section Remapped
variable (new old : State)

theorem State.remapped_sameLeaves : new.SameLeaves (new.remapped old) := ⟨rfl, rfl, rfl⟩

theorem State.remapped_side_of_same (h : new.stampedLeaves = old.stampedLeaves) : (new.remapped old).side = new.side := by
  have hnone : (old.stampedLeaves.filter fun x => !old.stampedLeaves.any (samePage x)) = [] := by
    refine List.filter_eq_nil_iff.2 fun x hx => ?_
    simpa using ⟨_, _, _, hx, samePage_self x⟩
  simp [State.remapped, h, hnone]

theorem sparseRead_filter_of_dropped {α : Type} (z : α) (keep : Nat × α → Bool) {a : Nat} (h : ∀ b, keep (a, b) = false)
    (l : List (Nat × α)) : sparseRead z (l.filter keep) a = z := by
  induction l with
  | nil => rfl
  | cons e l ih =>
    obtain ⟨k, b⟩ := e
    by_cases hk : a = k
    · simp [← hk, h, ih]
    · by_cases hkeep : keep (k, b) = true <;> simp [hkeep, sparseRead, hk, ih]

/-- A page newly mapped STAMPED has stamp 0 and no writer. -/
theorem State.sideband_remapped_of_new {l : Nat × Word × Nat} (hl : l ∈ new.stampedLeaves)
    (hnew : ∀ k ∈ old.stampedLeaves, samePage l k = false) {a : Nat} (ha : new.leafHolds l.1 l.2 a = true) :
    (new.remapped old).sideband a = 0 := by
  refine sparseRead_filter_of_dropped _ _ (fun b => ?_) new.side
  have hadded : l ∈ new.stampedLeaves.filter fun x => !old.stampedLeaves.any (samePage x) :=
    List.mem_filter.2 ⟨hl, by simpa using fun n w k hk => hnew (n, w, k) hk⟩
  have hany : ((new.stampedLeaves.filter fun x => !old.stampedLeaves.any (samePage x)).any fun x => new.leafHolds x.1 x.2 a)
      = true := List.any_eq_true.2 ⟨l, hadded, ha⟩
  simp only [hany, Bool.not_true, Bool.false_and]

end Remapped

theorem State.writeBytes_frame (s : State) (a : Nat) (l : List Byte) :
    { s.writeBytes a l with mem := s.mem, errors := s.errors } = s := by
  induction l generalizing s a with
  | nil => rfl
  | cons b l ih => exact congrArg (fun z : State => { z with mem := s.mem, errors := s.errors }) (ih (s.writeByte a b) (a + 1))

/-! ### A write through the aperture (R173, R246, R248) -/

section HostWrite
variable {s : State} {off : Nat} {bs : List (BitVec 8)}

theorem exec_hostWrite_view (hlow : 2 ^ 46 ≤ off) (hhigh : off < 2 ^ 47) :
    exec (.hostWrite off bs) s = .next (s.intakeLog 8 0 (w64 off)) := by
  change execHostWrite off bs s = _
  rw [execHostWrite, if_neg (Nat.not_le.2 hhigh), if_pos hlow]

theorem exec_hostWrite_memory (hoff : off < 2 ^ 46) (hrange : plinthRange off bs.length = true) :
    exec (.hostWrite off bs) s = if s.stampedRange off bs.length = true then .next (s.intakeLog 7 0 (w64 off))
      else .next ((s.writeBytes off bs).remapped s) := by
  change execHostWrite off bs s = _
  rw [execHostWrite, if_neg (by omega), if_neg (by omega), hrange]
  rfl

end HostWrite

theorem exec_hostRead {s : State} {off len : Nat} (h : plinthRange off len = true) :
    exec (.hostRead off len) s = .next { s with hostRead := some (s.readBytes off len) } := by
  change execHostRead off len s = _
  rw [execHostRead, h]
  rfl

theorem exec_stampViewRead {s : State} {off len : Nat} (hlow : 2 ^ 46 ≤ off) (hhigh : off < 2 ^ 47) :
    exec (.stampViewRead off len) s =
      if len = 8 ∧ (off - 2 ^ 46) % 256 = 0 ∧ plinthRange (off - 2 ^ 46) 256 = true ∧ s.stampedAt (off - 2 ^ 46) = true
      then .next { s with hostRead := some (bytesOf 8 (s.sideband (off - 2 ^ 46)).toNat) }
      else .next { s.intakeLog 8 0 (w64 off) with hostRead := some (bytesOf len 0) } := by
  change execStampViewRead off len s = _
  have hview : ¬ (off < 2 ^ 46 || 2 ^ 47 ≤ off) = true := by simp; omega
  simp only [execStampViewRead, if_neg hview, Bool.and_eq_true, decide_eq_true_eq, and_assoc]

end Sys2Proof.Machine

namespace Sys2Proof.Claims
open Sys2Proof.Machine

theorem intakeWindow : IntakeWindow := by
  refine ⟨fun s off len relaxed w0 w1 hoff => ?_, fun s ctx off a b rest hin => ?_, fun s off hoff => ?_⟩
  · dsimp only
    rw [exec_intakeWrite hoff, ← State.not_loaded_iff]
    have hlogs (cause : Nat) : ∃ u, (.next (s.intakeLog cause (off / 2 ^ 12) (w64 off)) : Host.Outcome State Fault Refusal) =
        .next u ∧ Logged s u cause (off / 2 ^ 12) off := ⟨_, rfl, s.intakeLog_logged _ _ _⟩
    have hlow {x : Word} (h : x.toNat < 2 ^ 48) : ¬ 2 ^ 48 ≤ x.toNat := Nat.not_le.2 h
    refine ⟨fun hr => ?_, fun hr hsize => ?_, fun hr hlen halign hhigh => ?_, fun hr hlen halign h0 h1 hload => ?_,
      fun hr hlen halign h0 h1 hload => ?_⟩
    · rw [if_pos hr]; exact hlogs 1
    all_goals rw [hr, if_neg Bool.false_ne_true]
    · rw [if_pos hsize]; exact hlogs 2
    all_goals rw [if_neg (by simp [hlen, halign])]
    · rw [if_pos hhigh]; exact hlogs 3
    all_goals rw [if_neg (not_or.2 ⟨hlow h0, hlow h1⟩)]
    · rw [if_pos hload]; exact hlogs 5
    · rw [if_neg fun hnone => (State.not_loaded_iff s _).1 hnone hload]
  · dsimp only
    rw [exec_intakeForward hin]
    refine ⟨fun hfull => if_pos hfull, fun hroom hload => ?_, fun hroom hload ha => ?_, fun hroom hload ha hb => ?_,
      fun hroom hload ha hb => ?_⟩
    all_goals rw [if_neg hroom]
    · rw [if_pos ((State.not_loaded_iff s ctx).2 hload)]
      exact ⟨_, rfl, State.intakeLog_logged _ _ _ _⟩
    all_goals rw [if_neg fun hnone => (State.not_loaded_iff s ctx).1 hnone hload]
    · rw [← State.intakeNode_iff, Bool.not_eq_true] at ha
      rw [if_pos ha]
      exact ⟨_, rfl, State.intakeLog_logged_word _ _ _ _⟩
    all_goals rw [(State.intakeNode_iff s ctx a).2 ha, if_neg (Bool.false_ne_true ∘ Eq.symm)]
    · rw [← State.intakeNode_iff, Bool.not_eq_true] at hb
      rw [if_pos hb]
      exact ⟨_, rfl, State.intakeLog_logged_word _ _ _ _⟩
    · rw [(State.intakeNode_iff s ctx b).2 hb, if_neg (Bool.false_ne_true ∘ Eq.symm)]
      exact ⟨_, rfl, rfl, rfl, fun x => rfl, rfl, rfl⟩
  · exact ⟨_, exec_bar2Read hoff, rfl, State.intakeLog_logged { s with hostRead := some (bytesOf 8 0) } 6 (off / 2 ^ 12) off⟩

theorem hostAperture : HostAperture := by
  refine ⟨fun s off bs hstored => ⟨fun hlow hhigh => ?_, fun hoff hrange => ?_⟩, fun s off len hrange => ?_,
    fun s off len hlow hhigh => ?_⟩
  · exact ⟨_, exec_hostWrite_view hlow hhigh, s.intakeLog_logged 8 0 off⟩
  · rw [exec_hostWrite_memory hoff hrange]
    refine ⟨fun hmeets => ?_, fun hclear => ?_⟩
    · rw [if_pos hmeets]
      exact ⟨_, rfl, s.intakeLog_logged 7 0 off⟩
    · rw [hclear, if_neg Bool.false_ne_true]
      have hframe := s.writeBytes_frame off bs
      have hsame := (s.writeBytes off bs).remapped_sameLeaves s
      have hbytes := s.readBytes_writeBytes off bs hstored
      refine ⟨_, rfl, ?_, fun hleaves => ?_, fun l hl hnew a ha => ?_, fun k hk => ?_, fun a ha => ?_⟩
      · exact congrArg (fun z : State => { z with side := s.side }) hframe
      · rw [hsame.stampedLeaves] at hleaves
        rw [State.remapped_side_of_same _ _ hleaves]
        exact congrArg (·.side) hframe
      · rw [hsame.stampedLeaves] at hl
        rw [hsame.leafHolds] at ha
        exact State.sideband_remapped_of_new _ _ hl hnew ha
      · exact (State.readBytes_getElem? (s.writeBytes off bs) off _ hk).symm.trans (congrArg (·[k]?) hbytes)
      · exact State.readByte_writeBytes_outside bs s off a ha
  · exact ⟨s.readBytes off len, s.readBytes_length off len, fun k hk => s.readBytes_getElem? off len hk, exec_hostRead hrange⟩
  · dsimp only
    rw [exec_stampViewRead hlow hhigh]
    refine ⟨fun hok => ⟨_, if_pos hok, bytesOf_length _ _, ?_⟩, fun hbad => ⟨_, if_neg hbad, ?_, ?_⟩⟩
    · rw [ofBytes_bytesOf]
      exact Nat.mod_eq_of_lt (Nat.lt_of_lt_of_le (s.sideband _).isLt (Nat.pow_le_pow_right (by decide) (by decide)))
    · exact congrArg some (bytesOf_zero len)
    · exact State.intakeLog_logged { s with hostRead := some (bytesOf len 0) } 8 0 off

/-- Settles O48: the intake window, the aperture and the stamp view, each by its meaning with the rules in order. -/
theorem hostAccesses : Obligations.HostAccesses := ⟨intakeWindow, hostAperture⟩

end Sys2Proof.Claims
end

section
/-! SUPPORT. The statements of 14_hods_and_dispatch.md. What ages, what is stolen and what is balanced between hods (R238, R241,
R243, R244; log 52), and the waves that detect quiescence (R245; log 27). -/

set_option Elab.async false

namespace Sys2Proof.Machine
open Sys2Proof.Claims

/-! ### Fields of a record (R234) -/

theorem recCtx_eq (w : Word) : recCtx w = w.toNat / 2 ^ 58 := by
  rw [recCtx, bits_toNat, Nat.mod_eq_of_lt]
  omega

theorem recPrio_eq (w : Word) : recPrio w = w.toNat / 2 ^ 56 % 4 := bits_toNat w 56 2

theorem recEnergy_eq (w : Word) : recEnergy w = w.toNat / 2 ^ 54 % 4 := bits_toNat w 54 2

theorem recAffinity_eq (w : Word) : recAffinity w = w.toNat / 2 ^ 54 := by
  rw [recAffinity, bits_toNat, Nat.mod_eq_of_lt]
  omega

theorem recMoved_eq (w : Word) : (!recMoved w) = decide (w.toNat / 2 ^ 48 % 2 = 0) := by
  rw [recMoved, BitVec.getLsbD, Nat.testBit_eq_decide_div_mod_eq, ← decide_not]
  exact decide_eq_decide.2 (by omega)

/-! ### One core of a state changed (R236) -/

theorem State.core_modCore_other (s : State) {d c d' c' : Nat} (h : (d', c') ≠ (d, c)) (f : Core → Core) :
    (s.modCore d c f).core d' c' = s.core d' c' := State.core_setCore_other s h _

theorem State.core_congr {s x : State} (h : x.cores = s.cores) (d c : Nat) : x.core d c = s.core d c := by
  simp only [State.core, h]

@[simp] theorem State.die_modDie_same (s : State) (d : Nat) (f : Die → Die) : (s.modDie d f).die d = f (s.die d) :=
  State.die_setDie_same s d _

theorem State.die_modDie_other (s : State) {d e : Nat} (h : e ≠ d) (f : Die → Die) : (s.modDie d f).die e = s.die e :=
  State.die_setDie_other s h _

/-- The state `u` is `s` but for one core, which is `x`. -/
structure State.CoreIs (s u : State) (d c : Nat) (x : Core) : Prop where
  core : u.core d c = x
  others : ∀ d' c', (d', c') ≠ (d, c) → u.core d' c' = s.core d' c'
  frame : { u with cores := s.cores } = s

section CoreIs
variable {s u v : State} {d c : Nat} {x y : Core}

theorem State.coreIs_self (s : State) (d c : Nat) : s.CoreIs s d c (s.core d c) := ⟨rfl, fun _ _ _ => rfl, rfl⟩

theorem State.coreIs_modCore (s : State) (d c : Nat) (f : Core → Core) : s.CoreIs (s.modCore d c f) d c (f (s.core d c)) :=
  ⟨s.core_modCore_same d c f, fun _ _ h => s.core_modCore_other h f, rfl⟩

theorem State.CoreIs.trans (h : s.CoreIs u d c x) (h' : u.CoreIs v d c y) : s.CoreIs v d c y :=
  ⟨h'.core, fun d' c' hne => (h'.others d' c' hne).trans (h.others d' c' hne),
    (congrArg (fun z : State => { z with cores := s.cores }) h'.frame).trans h.frame⟩

theorem State.CoreIs.cycle (h : s.CoreIs u d c x) : u.cycle = s.cycle := congrArg (·.cycle) h.frame

/-- A core whose hod and held records alone differ (R236, R241). -/
theorem State.CoreIs.onlyHod {hod : List HodEntry} {held : List FreshRec}
    (h : s.CoreIs u d c { s.core d c with hod := hod, held := held }) : OnlyHod s u d c :=
  ⟨h.others, by rw [h.core]⟩

end CoreIs

/-- Records that enter a hod one after another stand there in that order, at its end (R236). -/
theorem State.foldl_hodEnter {α : Type} (d c : Nat) (w0 w1 : α → Word) (l : List α) (s : State) :
    s.CoreIs (l.foldl (fun (x : State) a => x.hodEnter d c (w0 a) (w1 a)) s) d c
      { s.core d c with hod := (s.core d c).hod ++ l.map fun a => ⟨w0 a, w1 a, s.cycle, s.cycle⟩ } := by
  induction l generalizing s with
  | nil => simpa using s.coreIs_self d c
  | cons a l ih =>
    have hfirst := s.coreIs_modCore d c fun x => { x with hod := x.hod ++ [⟨w0 a, w1 a, s.cycle, s.cycle⟩] }
    have hrest := hfirst.trans (ih (s.hodEnter d c (w0 a) (w1 a)))
    simpa [State.hodEnter] using hrest

/-! ### Aging (R238) -/

section Aging
variable {s : State} {d c n : Nat} {e : HodEntry} (h : (s.core d c).hod[n]? = some e)
include h

theorem exec_agingRise : exec (.agingRise d c n) s =
    if e.w0.toNat / 2 ^ 56 % 4 < 3 ∧ e.rose + 65536 ≤ s.cycle
    then .next (s.modCore d c fun x => { x with hod := x.hod.set n (e.rise s.cycle) }) else .next s := by
  change execAgingRise d c n s = _
  simp only [execAgingRise, h, Bool.and_eq_true, decide_eq_true_eq, recPrio_eq]

end Aging

theorem HodEntry.rise_w0 {e : HodEntry} (now : Nat) (h : e.w0.toNat / 2 ^ 56 % 4 < 3) :
    (e.rise now).w0.toNat = e.w0.toNat + 2 ^ 56 := by
  have hone : (0x0100000000000000 : Word).toNat = 2 ^ 56 := rfl
  rw [HodEntry.rise, BitVec.toNat_add, hone, Nat.mod_eq_of_lt]
  omega

theorem HodEntry.rise_rest (e : HodEntry) (now : Nat) :
    (e.rise now).w1 = e.w1 ∧ (e.rise now).entered = e.entered ∧ (e.rise now).rose = now := by
  obtain ⟨w0, w1, entered, rose⟩ := e
  exact ⟨rfl, rfl, rfl⟩

/-! ### Entries taken from a list (R243, R244) -/

section Erase
variable {α : Type} [DecidableEq α]

theorem dropFirst_beq_eq_erase (a : α) (l : List α) : dropFirst (fun b => b == a) l = l.erase a := by
  induction l with
  | nil => rfl
  | cons b l ih => by_cases h : b = a <;> simp [dropFirst, h, ih]

theorem foldl_dropFirst_eq_diff (es l : List α) : es.foldl (fun h e => dropFirst (fun b => b == e) h) l = l.diff es := by
  simp only [dropFirst_beq_eq_erase, List.diff_eq_foldl]

/-- Entries that stand in a list, taken from it, are lost from it and nothing else is. -/
theorem diff_append_perm {es l : List α} (h : es.Subperm l) : (l.diff es ++ es).Perm l :=
  List.perm_append_comm.trans (List.subperm_append_diff_self_of_count_le fun x _ => h.count_le x)

end Erase

/-! ### Stealing (R243) -/

theorem mostOf_eq_none {f : Nat → Nat} {l : List Nat} : mostOf f l = none ↔ l = [] := by
  cases l with
  | nil => simp [mostOf]
  | cons c l =>
    cases h : mostOf f l with
    | none => simp [mostOf, h]
    | some d => simp only [mostOf, h]; split <;> simp

theorem mostOf_eq_some {f : Nat → Nat} {l : List Nat} {x : Nat} (h : mostOf f l = some x) : x ∈ l ∧ ∀ y ∈ l, f y ≤ f x := by
  induction l generalizing x with
  | nil => cases h
  | cons c l ih =>
    cases hl : mostOf f l with
    | none =>
      obtain rfl : l = [] := mostOf_eq_none.1 hl
      obtain rfl : c = x := by simpa [mostOf] using h
      simp
    | some d =>
      obtain ⟨hd, hmost⟩ := ih hl
      simp only [mostOf, hl] at h
      split at h
      · next hlt =>
        obtain rfl : d = x := Option.some.inj h
        exact ⟨List.mem_cons_of_mem _ hd, List.forall_mem_cons.2 ⟨hlt.le, hmost⟩⟩
      · next hle =>
        obtain rfl : c = x := Option.some.inj h
        exact ⟨List.mem_cons_self, List.forall_mem_cons.2 ⟨le_rfl, fun y hy => (hmost y hy).trans (not_lt.1 hle)⟩⟩

/-- The core that has most of the eligible records of a context, among the others of a die. -/
def State.richest (s : State) (d c ctx : Nat) : Option Nat :=
  mostOf (fun k => (s.eligibleOf d k ctx).length) ((List.range 16).filter (· ≠ c))

theorem State.exists_richest (s : State) (d c ctx : Nat) : ∃ k, s.richest d c ctx = some k := by
  refine Option.ne_none_iff_exists'.1 fun hnone => ?_
  have hempty := mostOf_eq_none.1 hnone
  have hother : (if c = 0 then 1 else 0) ∈ (List.range 16).filter (· ≠ c) := by
    split <;> simp <;> omega
  rw [hempty] at hother
  cases hother

/-- The records that a core takes from another (R243). -/
def State.stolen (s : State) (d c k ctx : Nat) : List HodEntry :=
  (s.eligibleOf d k ctx).take (min (min 8 (((s.eligibleOf d k ctx).length + 1) / 2)) ((s.core d c).room ctx))

/-- The machine after a core has taken records from another (R243). -/
def State.afterTheft (s : State) (d c k ctx : Nat) : State :=
  (s.stolen d c k ctx).foldl (fun (x : State) e => x.hodEnter d c e.w0 e.w1)
    (s.modCore d k fun x => { x with hod := (s.stolen d c k ctx).foldl (fun h e => dropFirst (· == e) h) x.hod })

section Theft
variable {s : State} {d c k ctx : Nat}

theorem exec_hodSteal_rests (h : s.partHeld ctx d ≠ 0 ∨ s.wantsRecords d c ctx = false) : exec (.hodSteal d c ctx) s = .next s := by
  change execHodSteal d c ctx s = _
  rw [execHodSteal, if_pos]
  rcases h with h | h <;> simp [h]

theorem exec_hodSteal_takes (hwants : s.wantsRecords d c ctx = true) (hpart : s.partHeld ctx d = 0)
    (hk : s.richest d c ctx = some k) : exec (.hodSteal d c ctx) s = .next (s.afterTheft d c k ctx) := by
  change execHodSteal d c ctx s = _
  unfold State.richest at hk
  rw [execHodSteal, if_neg (by simp [hwants, hpart]), hk]
  rfl

theorem State.stolen_subperm : (s.stolen d c k ctx).Subperm (s.core d k).hod :=
  ((List.take_sublist ..).trans List.filter_sublist).subperm

theorem State.afterTheft_taker (h : k ≠ c) : ((s.afterTheft d c k ctx).core d c).hod = (s.core d c).hod ++
    (s.stolen d c k ctx).map fun e => ⟨e.w0, e.w1, s.cycle, s.cycle⟩ := by
  rw [State.afterTheft, (State.foldl_hodEnter d c _ _ _ _).core, State.core_modCore_other _ (by simp [h.symm])]
  rfl

theorem State.afterTheft_robbed (h : k ≠ c) :
    (((s.afterTheft d c k ctx).core d k).hod ++ s.stolen d c k ctx).Perm (s.core d k).hod := by
  rw [State.afterTheft, (State.foldl_hodEnter d c _ _ _ _).others d k (by simp [h]), State.core_modCore_same,
    foldl_dropFirst_eq_diff]
  exact diff_append_perm State.stolen_subperm

theorem State.afterTheft_frame : { s.afterTheft d c k ctx with cores := s.cores } = s :=
  congrArg (fun z : State => { z with cores := s.cores }) (State.foldl_hodEnter d c _ _ _ _).frame

end Theft

end Sys2Proof.Machine

namespace Sys2Proof.Claims
open Sys2Proof.Machine

theorem hodsChange : HodsChange := by
  refine ⟨fun s d c n e h => ⟨fun hnot => ?_, fun hdue => ?_⟩, fun s d c ctx => ⟨fun hpart => ?_, fun hwants => ?_,
    fun hwants hpart _ => ?_⟩⟩
  · rw [exec_agingRise h, if_neg hnot]
  · rw [exec_agingRise h, if_pos hdue]
    have hcore := s.coreIs_modCore d c fun x => { x with hod := x.hod.set n (e.rise s.cycle) }
    have hrise : (e.rise s.cycle).w0.toNat = e.w0.toNat + 2 ^ 56 := HodEntry.rise_w0 s.cycle hdue.1
    obtain ⟨hw1, hentered, hrose⟩ := e.rise_rest s.cycle
    exact ⟨_, e.rise s.cycle, rfl, by rw [hcore.core], hrise, hw1, hentered, hrose, hcore.onlyHod, rfl⟩
  · exact exec_hodSteal_rests (.inl hpart)
  · exact exec_hodSteal_rests (.inr hwants)
  · obtain ⟨k, hk⟩ := s.exists_richest d c ctx
    obtain ⟨hmem, hmost⟩ := mostOf_eq_some hk
    obtain ⟨h16, hne⟩ : k < 16 ∧ k ≠ c := by simpa using hmem
    exact ⟨_, k, exec_hodSteal_takes hwants hpart hk, h16, hne, fun j hj hjc => hmost j (by simp [hj, hjc]),
      ⟨State.afterTheft_taker hne, State.afterTheft_robbed hne⟩, State.afterTheft_frame⟩

end Sys2Proof.Claims
end

section
/-! SUPPORT. The statements of 14_hods_and_dispatch.md. The batches that balance two dies' hods, and their order (R241, R244;
log 52). -/

set_option Elab.async false

namespace Sys2Proof.Machine
open Sys2Proof.Claims

/-! ### Sorting that keeps the order of equals -/

section Sorting
variable {α : Type} (f : α → Nat)

/-- An element put after all those whose number is not greater. -/
def insertOn (a : α) (r : List α) : List α := r.takeWhile (fun b => f b ≤ f a) ++ a :: r.dropWhile fun b => f b ≤ f a

theorem sortOn_eq_foldl (l : List α) : sortOn f l = l.foldl (fun r a => insertOn f a r) [] := rfl

theorem insertOn_perm (a : α) (r : List α) : (insertOn f a r).Perm (a :: r) := by
  refine List.perm_middle.trans (List.Perm.cons a ?_)
  rw [List.takeWhile_append_dropWhile]

theorem foldl_insertOn_perm (l r : List α) : (l.foldl (fun r a => insertOn f a r) r).Perm (r ++ l) := by
  induction l generalizing r with
  | nil => simp
  | cons a l ih =>
    calc (l.foldl (fun r a => insertOn f a r) (insertOn f a r))
      _ |>.Perm (insertOn f a r ++ l) := ih _
      _ |>.Perm (a :: r ++ l) := (insertOn_perm f a r).append_right l
      _ |>.Perm (r ++ a :: l) := List.perm_middle.symm

theorem sortOn_perm (l : List α) : (sortOn f l).Perm l := by
  rw [sortOn_eq_foldl]
  exact foldl_insertOn_perm f l []

/-- One element stands before another when its number is less, or when the numbers are equal and it stood before it by `R`. -/
def Before (R : α → α → Prop) (a b : α) : Prop := f a < f b ∨ f a = f b ∧ R a b

variable {f} {R : α → α → Prop}

theorem Before.le {a b : α} (h : Before f R a b) : f a ≤ f b := by
  rcases h with h | h
  · exact h.le
  · exact h.1.le

theorem insertOn_sorted {a : α} {r : List α} (hr : r.Pairwise (Before f R)) (ha : ∀ b ∈ r, R b a) :
    (insertOn f a r).Pairwise (Before f R) := by
  have hsplit : (r.takeWhile (fun b => f b ≤ f a) ++ r.dropWhile fun b => f b ≤ f a).Pairwise (Before f R) := by
    rwa [List.takeWhile_append_dropWhile]
  obtain ⟨htake, hdrop, hcross⟩ := List.pairwise_append.1 hsplit
  have hbefore : ∀ b ∈ r.takeWhile fun b => f b ≤ f a, Before f R b a := fun b hb => by
    have hle : f b ≤ f a := by simpa using List.mem_takeWhile_imp hb
    exact (Nat.lt_or_eq_of_le hle).imp id fun heq => ⟨heq, ha b ((List.takeWhile_sublist _).subset hb)⟩
  have hafter : ∀ b ∈ r.dropWhile fun b => f b ≤ f a, f a < f b := by
    cases hd : r.dropWhile fun b => f b ≤ f a with
    | nil => simp
    | cons x xs =>
      have hx := List.head_dropWhile_not (fun b => decide (f b ≤ f a)) (l := r) (by simp [hd])
      simp only [hd, List.head_cons, decide_eq_false_iff_not, Nat.not_le] at hx
      rw [hd] at hdrop
      exact List.forall_mem_cons.2 ⟨hx, fun b hb => hx.trans_le ((List.pairwise_cons.1 hdrop).1 b hb).le⟩
  refine List.pairwise_append.2 ⟨htake, List.pairwise_cons.2 ⟨fun b hb => .inl (hafter b hb), hdrop⟩, fun b hb c hc => ?_⟩
  rcases List.mem_cons.1 hc with rfl | hc
  · exact hbefore b hb
  · exact hcross b hb c hc

theorem foldl_insertOn_sorted {l r : List α} (hr : r.Pairwise (Before f R)) (hl : l.Pairwise R) (hcross : ∀ b ∈ r, ∀ a ∈ l, R b a) :
    (l.foldl (fun r a => insertOn f a r) r).Pairwise (Before f R) := by
  induction l generalizing r with
  | nil => exact hr
  | cons a l ih =>
    obtain ⟨hal, hl⟩ := List.pairwise_cons.1 hl
    refine ih (insertOn_sorted hr fun b hb => hcross b hb a List.mem_cons_self) hl fun b hb c hc => ?_
    rcases List.mem_cons.1 ((insertOn_perm f a r).mem_iff.1 hb) with rfl | hb
    · exact hal c hc
    · exact hcross b hb c (List.mem_cons_of_mem a hc)

/-- A list sorted by a number keeps the order of those with equal numbers. -/
theorem sortOn_sorted {l : List α} (h : l.Pairwise R) : (sortOn f l).Pairwise (Before f R) :=
  foldl_insertOn_sorted List.Pairwise.nil h nofun

end Sorting

/-! ### What a die counts of a context (R239, R241, R244) -/

section Partition
variable {s x : State} (hmem : x.mem = s.mem) (hrec : x.bar0.records = s.bar0.records) (ctx d : Nat)
include hrec

theorem State.partSize_congr : x.partSize ctx = s.partSize ctx := by
  rw [State.partSize, State.record_congr hrec, State.partSize]

theorem State.partAddr_congr : x.partAddr ctx d = s.partAddr ctx d := by
  rw [State.partAddr, State.record_congr hrec, State.partSize_congr hrec, State.partAddr]

include hmem

theorem State.partHeld_congr : x.partHeld ctx d = s.partHeld ctx d := by
  simp only [State.partHeld, State.partAddr_congr hrec, State.read64_congr hmem]

end Partition

/-! ### The records that balancing may send (R244) -/

/-- Whether balancing may send a record: below priority 3, and not moved before. -/
def mayMove (ctx : Nat) (e : HodEntry) : Bool :=
  e.w0.toNat / 2 ^ 58 = ctx && e.w0.toNat / 2 ^ 56 % 4 < 3 && e.w1.toNat / 2 ^ 48 % 2 = 0

/-- A record's place in the order of what goes to a neighbour: the links from its affinity die. -/
def State.hopsFrom (s : State) (nb : Nat) (e : Nat × HodEntry) : Nat := s.hops nb (e.2.w1.toNat / 2 ^ 54)

theorem State.candidates_eq (s : State) (d ctx nb : Nat) : s.candidates d ctx nb =
    sortOn (s.hopsFrom nb) (sortOn (fun e => e.2.entered) (movable s d ctx)) := by
  simp only [State.candidates, recCtx_eq, recPrio_eq, recMoved_eq, recAffinity_eq]
  rfl

theorem State.candidates_perm (s : State) (d ctx nb : Nat) : (s.candidates d ctx nb).Perm (movable s d ctx) := by
  rw [s.candidates_eq]
  exact (sortOn_perm _ _).trans (sortOn_perm _ _)

/-- They stand nearest by affinity first, and then oldest first. -/
theorem State.candidates_sorted (s : State) (d ctx nb : Nat) : (s.candidates d ctx nb).Pairwise
    (Before (s.hopsFrom nb) fun a b => a.2.entered ≤ b.2.entered) := by
  rw [s.candidates_eq]
  refine sortOn_sorted ((sortOn_sorted (R := fun _ _ => True) (List.pairwise_of_forall fun _ _ => trivial)).imp ?_)
  exact fun h => h.le

theorem flatMap_of_single {α : Type} {l : List Nat} (hnodup : l.Nodup) {k : Nat} (hk : k ∈ l) (xs : Nat → List α) :
    (l.flatMap fun c => if c = k then xs c else []) = xs k := by
  induction l with
  | nil => cases hk
  | cons c l ih =>
    obtain ⟨hc, hl⟩ := List.nodup_cons.1 hnodup
    by_cases h : c = k
    · subst h
      have hrest : (l.flatMap fun e => if e = c then xs e else []) = [] :=
        List.flatMap_eq_nil_iff.2 fun e he => if_neg fun (heq : e = c) => hc (heq ▸ he)
      simp [hrest]
    · simp [h, ih hl (List.mem_of_ne_of_mem (Ne.symm h) hk)]

theorem movable_core (s : State) (d ctx : Nat) {k : Nat} (hk : k < 16) :
    ((movable s d ctx).filter fun e => e.1 = k).map (·.2) = (s.core d k).hod.filter (mayMove ctx) := by
  have hone (c : Nat) : ((((s.core d c).hod.filter (mayMove ctx)).map fun e => (c, e)).filter fun e => e.1 = k).map (·.2) =
      if c = k then (s.core d c).hod.filter (mayMove ctx) else [] := by
    by_cases h : c = k <;> simp [List.filter_map, Function.comp_def, h]
  have hmovable : movable s d ctx = (List.range 16).flatMap fun c => ((s.core d c).hod.filter (mayMove ctx)).map fun e => (c, e) :=
    rfl
  rw [hmovable, List.filter_flatMap, List.map_flatMap]
  simp only [hone]
  exact flatMap_of_single List.nodup_range (List.mem_range.2 hk) _

theorem subperm_map {α β : Type} (f : α → β) {l l' : List α} (h : l.Subperm l') : (l.map f).Subperm (l'.map f) := by
  obtain ⟨m, hperm, hsub⟩ := h
  exact ⟨m.map f, hperm.map f, hsub.map f⟩

/-! ### A batch that a die sends a neighbour (R244) -/

/-- The records, with their cores, that a die sends a neighbour that has told it its room. -/
def State.batchFor (s : State) (d ctx nb room : Nat) : List (Nat × HodEntry) := (s.candidates d ctx nb).take (min 16 room)

/-- The records of a batch as they travel: marked as moved. -/
def movedWords (xs : List (Nat × HodEntry)) : List (Word × Word) := xs.map fun e => (e.2.w0, e.2.w1 ||| BitVec.ofNat 64 (2 ^ 48))

/-- The state `u` is `s` after a die has sent a neighbour the records `xs` of its hods. -/
structure State.SendsBatch (s u : State) (d ctx nb : Nat) (xs : List (Nat × HodEntry)) : Prop where
  batches : u.batches = s.batches ++ if xs = [] then [] else [(nb, ctx, movedWords xs)]
  hod : ∀ k, (u.core d k).hod = (s.core d k).hod.diff ((xs.filter fun e => e.1 = k).map (·.2))
  others : ∀ e k, e ≠ d → u.core e k = s.core e k
  adverts : ∀ m c r, m ≠ nb → (m, ctx, c, r) ∈ (u.die d).adverts → (m, ctx, c, r) ∈ (s.die d).adverts
  frame : { u with dies := s.dies, cores := s.cores, batches := s.batches } = s

/-- The state with records taken from the hods of a die's cores. -/
def State.takeEntries (s : State) (d : Nat) (xs : List (Nat × HodEntry)) : State :=
  xs.foldl (fun (x : State) e => x.modCore d e.1 fun c => { c with hod := dropFirst (· == e.2) c.hod }) s

theorem State.takeEntries_hod (s : State) (d : Nat) (xs : List (Nat × HodEntry)) (k : Nat) :
    ((s.takeEntries d xs).core d k).hod = (s.core d k).hod.diff ((xs.filter fun e => e.1 = k).map (·.2)) := by
  induction xs generalizing s with
  | nil => rfl
  | cons e xs ih =>
    refine (ih _).trans ?_
    by_cases h : e.1 = k
    · subst h
      simp [dropFirst_beq_eq_erase, List.diff_cons]
    · rw [State.core_modCore_other s (by simp [Ne.symm h])]
      simp [h]

theorem State.takeEntries_others (s : State) (d : Nat) (xs : List (Nat × HodEntry)) {e : Nat} (he : e ≠ d) (k : Nat) :
    (s.takeEntries d xs).core e k = s.core e k := by
  induction xs generalizing s with
  | nil => rfl
  | cons x xs ih => exact (ih _).trans (s.core_modCore_other (by simp [he]) _)

theorem State.takeEntries_frame (s : State) (d : Nat) (xs : List (Nat × HodEntry)) :
    { s.takeEntries d xs with cores := s.cores } = s := by
  induction xs generalizing s with
  | nil => rfl
  | cons x xs ih => exact congrArg (fun z : State => { z with cores := s.cores }) (ih (s.modCore d x.1 _))

theorem Die.mem_putAdvert {x : Die} {d ctx count room m c r : Nat} (h : (m, ctx, c, r) ∈ (x.putAdvert d ctx count room).adverts)
    (hm : m ≠ d) : (m, ctx, c, r) ∈ x.adverts := by
  simpa [Die.putAdvert, hm] using h

section Sent
variable {s : State} {d ctx nb c r : Nat}

/-- A die that is due to send a neighbour a batch takes its records from its hods and counts them as the neighbour's. -/
theorem State.balanceWith_sends (hfind : (s.die d).adverts.find? (fun a => a.1 = nb ∧ a.2.1 = ctx) = some (nb, ctx, c, r))
    (hdue : 2 * c + 16 < s.recordCount d ctx) : s.SendsBatch (s.balanceWith d ctx nb) d ctx nb (s.batchFor d ctx nb r) := by
  have hcase : s.balanceWith d ctx nb = if (s.batchFor d ctx nb r).isEmpty then s else
      let x := (s.takeEntries d (s.batchFor d ctx nb r)).modDie d fun e =>
        e.putAdvert nb ctx (c + (s.batchFor d ctx nb r).length) (r - (s.batchFor d ctx nb r).length)
      { x with batches := x.batches ++ [(nb, ctx, movedWords (s.batchFor d ctx nb r))] } := by
    simp only [State.balanceWith, hfind, if_neg (Nat.not_le.2 hdue)]
    rfl
  rw [hcase]
  generalize s.batchFor d ctx nb r = xs
  cases xs with
  | nil => exact ⟨by simp, fun k => rfl, fun e k _ => rfl, fun m c r _ h => h, rfl⟩
  | cons x xs =>
    have hframe := s.takeEntries_frame d (x :: xs)
    refine ⟨?_, s.takeEntries_hod d (x :: xs), fun e k he => s.takeEntries_others d (x :: xs) he k, fun m c r hm h => ?_, ?_⟩
    · have hbatches : (s.takeEntries d (x :: xs)).batches = s.batches := congrArg (·.batches) hframe
      exact congrArg (· ++ [(nb, ctx, movedWords (x :: xs))]) hbatches
    · have hadverts : (m, ctx, c, r) ∈ ((s.takeEntries d (x :: xs)).die d).adverts :=
        Die.mem_putAdvert (by simpa [State.die, State.modDie, State.setDie] using h) hm
      have hdie : (s.takeEntries d (x :: xs)).die d = s.die d := congrArg (·.die d) hframe
      rwa [hdie] at hadverts
    · exact congrArg (fun z : State => { z with dies := s.dies, cores := s.cores, batches := s.batches }) hframe

theorem State.balanceWith_rests (h : ∀ c r, (nb, ctx, c, r) ∈ (s.die d).adverts → s.recordCount d ctx ≤ 2 * c + 16) :
    s.balanceWith d ctx nb = s := by
  unfold State.balanceWith
  split
  · rfl
  · next a1 a2 c r hfind =>
    obtain ⟨rfl, rfl⟩ : a1 = nb ∧ a2 = ctx := by simpa using List.find?_some hfind
    exact if_pos (h c r (List.mem_of_find?_eq_some hfind))

end Sent

/-! ### A die's round of its neighbours (R244) -/

/-- No advertisement that a die has of a context from one of some dies makes it send. -/
def State.Content (s : State) (d ctx : Nat) (nbs : List Nat) : Prop :=
  ∀ m ∈ nbs, ∀ c r, (m, ctx, c, r) ∈ (s.die d).adverts → s.recordCount d ctx ≤ 2 * c + 16

theorem State.foldl_balanceWith_of_content {s : State} {d ctx : Nat} {nbs : List Nat} (h : s.Content d ctx nbs) :
    nbs.foldl (fun (x : State) nb => x.balanceWith d ctx nb) s = s := by
  induction nbs with
  | nil => rfl
  | cons m nbs ih =>
    obtain ⟨hm, hrest⟩ := List.forall_mem_cons.1 h
    rw [List.foldl_cons, State.balanceWith_rests hm]
    exact ih hrest

section Round
variable {s u : State} {d ctx nb : Nat} {xs : List (Nat × HodEntry)} (h : s.SendsBatch u d ctx nb xs)
include h

theorem State.SendsBatch.partCount (hne : nb ≠ d) : u.partCount ctx d = s.partCount ctx d := by
  have hmem : u.mem = s.mem := congrArg (·.mem) h.frame
  have hrec : u.bar0.records = s.bar0.records := congrArg (·.bar0.records) h.frame
  have hspilling : u.spilling = s.spilling := congrArg (·.spilling) h.frame
  have hmine : (u.batches.filter fun b => b.1 = d && b.2.1 = ctx) = s.batches.filter fun b => b.1 = d && b.2.1 = ctx := by
    rw [h.batches, List.filter_append]
    split <;> simp [hne]
  simp only [State.partCount, State.partHeld_congr hmem hrec, hspilling, hmine]

/-- Sending a batch to another die leaves a die no more records than it had. -/
theorem State.SendsBatch.recordCount_le (hne : nb ≠ d) : u.recordCount d ctx ≤ s.recordCount d ctx := by
  rw [State.recordCount, State.recordCount, h.partCount hne]
  refine Nat.add_le_add_right (List.sum_le_sum fun k _ => ?_) _
  rw [Core.hodCount, Core.hodCount, h.hod k]
  exact ((List.diff_sublist ..).filter _).length_le

theorem State.SendsBatch.content (hne : nb ≠ d) {nbs : List Nat} (hnb : nb ∉ nbs) (hs : s.Content d ctx nbs) :
    u.Content d ctx nbs := fun m hm c r hin =>
  (h.recordCount_le hne).trans (hs m hm c r (h.adverts m c r (fun heq => hnb (heq ▸ hm)) hin))

/-- What stands in a hod and what left it are what stood there. -/
theorem State.SendsBatch.hod_perm (hxs : xs.Subperm (movable s d ctx)) {k : Nat} (hk : k < 16) :
    ((u.core d k).hod ++ (xs.filter fun e => e.1 = k).map (·.2)).Perm (s.core d k).hod := by
  rw [h.hod k]
  have hmine := subperm_map (·.2) (hxs.filter fun e => e.1 = k)
  rw [movable_core s d ctx hk] at hmine
  exact diff_append_perm (hmine.trans List.filter_sublist.subperm)

end Round

/-- The lamp dies in service two hops from a die (R244). -/
def State.balancePartners (s : State) (d : Nat) : List Nat := (twoHops d).filter fun e => !(s.die e).outOfService

theorem State.mem_balancePartners {s : State} {d nb : Nat} : nb ∈ s.balancePartners d ↔
    nb ∈ lampDies ∧ gridDist d nb = 2 ∧ (s.die nb).outOfService = false := by
  simp only [State.balancePartners, twoHops, List.mem_filter, decide_eq_true_eq, Bool.not_eq_true', and_assoc]

theorem State.balancePartners_nodup (s : State) (d : Nat) : (s.balancePartners d).Nodup :=
  ((List.nodup_range.filter _).filter _).filter _

/-- The state after a die has compared its count with its neighbours' (R244). -/
def State.balanced (s : State) (d ctx : Nat) : State := (s.balancePartners d).foldl (fun (x : State) nb => x.balanceWith d ctx nb) s

theorem State.balanced_of_content {s : State} {d ctx : Nat} (h : s.Content d ctx (s.balancePartners d)) : s.balanced d ctx = s :=
  State.foldl_balanceWith_of_content h

theorem gridDist_self (d : Nat) : gridDist d d = 0 := by simp [gridDist]

theorem State.balanced_sends {s : State} {d ctx nb c r : Nat} (hnb : nb ∈ s.balancePartners d)
    (hfind : (s.die d).adverts.find? (fun a => a.1 = nb ∧ a.2.1 = ctx) = some (nb, ctx, c, r))
    (hdue : 2 * c + 16 < s.recordCount d ctx) (hothers : ∀ nbs, nb ∉ nbs → s.Content d ctx nbs) :
    s.SendsBatch (s.balanced d ctx) d ctx nb (s.batchFor d ctx nb r) := by
  have hne : nb ≠ d := by
    rintro rfl
    have hdist := (State.mem_balancePartners.1 hnb).2.1
    rw [gridDist_self] at hdist
    omega
  obtain ⟨pre, post, hsplit⟩ := List.append_of_mem hnb
  have hnodup := s.balancePartners_nodup d
  rw [hsplit] at hnodup
  obtain ⟨-, hpost, hcross⟩ := List.nodup_append.1 hnodup
  have hsent := State.balanceWith_sends hfind hdue
  have hpre : s.Content d ctx pre := hothers pre fun hin => hcross nb hin nb List.mem_cons_self rfl
  have hnot : nb ∉ post := (List.nodup_cons.1 hpost).1
  rw [State.balanced, hsplit, List.foldl_append, State.foldl_balanceWith_of_content hpre, List.foldl_cons,
    State.foldl_balanceWith_of_content (hsent.content hne hnot (hothers post hnot))]
  exact hsent

/-! ### What a die advertises (R244) -/

section Dies
variable (g : Die → Die) {nbs : List Nat} {nb : Nat}

theorem State.foldl_modDie_other (s : State) (h : nb ∉ nbs) :
    (nbs.foldl (fun (x : State) e => x.modDie e g) s).die nb = s.die nb := by
  induction nbs generalizing s with
  | nil => rfl
  | cons e nbs ih =>
    obtain ⟨hne, hrest⟩ := not_or.1 (mt List.mem_cons.2 h)
    exact (ih _ hrest).trans (s.die_modDie_other hne g)

theorem State.foldl_modDie_mem {P : Die → Prop} (hg : ∀ x, P (g x)) (s : State) (h : nb ∈ nbs) :
    P ((nbs.foldl (fun (x : State) e => x.modDie e g) s).die nb) := by
  induction nbs generalizing s with
  | nil => cases h
  | cons e nbs ih =>
    by_cases hin : nb ∈ nbs
    · exact ih _ hin
    · obtain rfl : nb = e := (List.mem_cons.1 h).resolve_right hin
      rw [List.foldl_cons, State.foldl_modDie_other g _ hin, State.die_modDie_same]
      exact hg _

theorem State.foldl_modDie_eq (s : State) (nbs : List Nat) : ∃ ds, nbs.foldl (fun (x : State) e => x.modDie e g) s =
    { s with dies := ds } := by
  induction nbs generalizing s with
  | nil => exact ⟨s.dies, rfl⟩
  | cons e nbs ih =>
    obtain ⟨ds, hds⟩ := ih (s.modDie e g)
    exact ⟨ds, hds⟩

end Dies

/-- The state after a die has told its neighbours its count and room, on a cycle (R244). -/
def State.advertise (s : State) (d ctx cycle : Nat) (nbs : List Nat) : State :=
  (nbs.foldl (fun (x : State) nb => x.modDie nb fun e => e.putAdvert d ctx (s.recordCount d ctx) (s.partRoom ctx d)) s).modDie d
    fun e => { e with advertised := putKey ctx cycle e.advertised }

section Advertise
variable (s : State) (d ctx cycle : Nat) (nbs : List Nat)

theorem State.advertise_cycle : lookupD 1 ctx ((s.advertise d ctx cycle nbs).die d).advertised = cycle := by
  rw [State.advertise, State.die_modDie_same]
  exact lookupD_putKey_same ..

theorem State.advertise_told {nb : Nat} (h : nb ∈ nbs) (hne : nb ≠ d) :
    (d, ctx, s.recordCount d ctx, s.partRoom ctx d) ∈ ((s.advertise d ctx cycle nbs).die nb).adverts := by
  rw [State.advertise, State.die_modDie_other _ hne]
  exact State.foldl_modDie_mem (P := fun e => (d, ctx, s.recordCount d ctx, s.partRoom ctx d) ∈ e.adverts) _
    (fun _ => List.mem_cons_self) s h

/-- Only the dies' records differ. -/
theorem State.advertise_eq : ∃ ds, s.advertise d ctx cycle nbs = { s with dies := ds } := by
  obtain ⟨ds, hds⟩ := s.foldl_modDie_eq (fun e => e.putAdvert d ctx (s.recordCount d ctx) (s.partRoom ctx d)) nbs
  rw [State.advertise, hds]
  exact ⟨_, rfl⟩

end Advertise

/-! ### The steps (R244) -/

theorem exec_balanceBatch {s : State} {n d ctx : Nat} {rs : List (Word × Word)} (h : s.batches[n]? = some (d, ctx, rs)) :
    exec (.balanceBatch n) s = if s.partSize ctx < s.partHeld ctx d + rs.length then .next s
      else .next (rs.foldl (fun (x : State) r => x.partAppend ctx d r.1 r.2) { s with batches := s.batches.eraseIdx n }) := by
  change execBalanceBatch n s = _
  rw [execBalanceBatch, h]

theorem exec_balanceAdvertise_rests {s : State} {d ctx : Nat} (h : s.cycle % 4096 ≠ 0 ∨ (ctx, s.cycle) ∈ (s.die d).advertised) :
    exec (.balanceAdvertise d ctx) s = .next s := by
  change execBalanceAdvertise d ctx s = _
  rw [execBalanceAdvertise, if_pos]
  rcases h with h | h <;> simp [h]

theorem exec_balanceAdvertise_acts {s : State} {d ctx : Nat} (hcycle : s.cycle % 4096 = 0)
    (honce : (ctx, s.cycle) ∉ (s.die d).advertised) (hd : d ∈ s.inService) :
    exec (.balanceAdvertise d ctx) s = .next ((s.balanced d ctx).advertise d ctx s.cycle (s.balancePartners d)) := by
  change execBalanceAdvertise d ctx s = _
  rw [execBalanceAdvertise, if_neg (by simp [hcycle, honce, hd])]
  rfl

end Sys2Proof.Machine

namespace Sys2Proof.Claims
open Sys2Proof.Machine

theorem balancing : Balancing := by
  refine ⟨fun s n d ctx rs h => ⟨fun hfull => ?_, fun hroom => ?_⟩, fun s d ctx => ⟨exec_balanceAdvertise_rests,
    fun hcycle honce hd hcontent => ?_⟩, fun s d ctx nb c r pre post _ hcycle honce hd hlamp hdist hup hfirst hdue hothers => ?_⟩
  · rw [exec_balanceBatch h, if_pos hfull]
  · rw [exec_balanceBatch h, if_neg (Nat.not_lt.2 hroom)]
    rfl
  · have hrest : s.balanced d ctx = s := State.balanced_of_content fun m _ c r hin => hcontent m c r hin
    obtain ⟨ds, hds⟩ := s.advertise_eq d ctx s.cycle (s.balancePartners d)
    rw [exec_balanceAdvertise_acts hcycle honce hd, hrest]
    refine ⟨_, rfl, s.advertise_cycle d ctx _ _, fun nb hlamp hdist hup => ?_, by rw [hds]⟩
    have hne : nb ≠ d := by
      rintro rfl
      rw [gridDist_self] at hdist
      omega
    exact s.advertise_told d ctx _ _ (State.mem_balancePartners.2 ⟨hlamp, hdist, hup⟩) hne
  · have hfind := find?_of_firstOf (q := fun a => decide (a.1 = nb ∧ a.2.1 = ctx)) (fun _ => by simp) hfirst
    have hsent := State.balanced_sends (State.mem_balancePartners.2 ⟨hlamp, hdist, hup⟩) hfind hdue
      fun nbs hnb m hm c' r' hin => hothers m c' r' (fun heq => hnb (heq ▸ hm)) hin
    have hperm : (s.batchFor d ctx nb r ++ (s.candidates d ctx nb).drop (min 16 r)).Perm (movable s d ctx) := by
      rw [State.batchFor, List.take_append_drop]
      exact s.candidates_perm d ctx nb
    have hsub : (s.batchFor d ctx nb r).Subperm (movable s d ctx) :=
      (List.take_sublist ..).subperm.trans (s.candidates_perm d ctx nb).subperm
    obtain ⟨ds, hds⟩ := (s.balanced d ctx).advertise_eq d ctx s.cycle (s.balancePartners d)
    have hadvertised := (s.balanced d ctx).advertise_cycle d ctx s.cycle (s.balancePartners d)
    rw [exec_balanceAdvertise_acts hcycle honce hd, hds]
    rw [hds] at hadvertised
    generalize s.balanced d ctx = b at hsent hadvertised
    refine ⟨_, s.batchFor d ctx nb r, _, rfl, hperm, ?_, ?_, hsent.batches, fun k hk => hsent.hod_perm hsub hk, hsent.others,
      hadvertised, hsent.frame⟩
    · rw [State.batchFor, List.length_take, (s.candidates_perm d ctx nb).length_eq]
    · rw [State.batchFor, List.take_append_drop]
      exact s.candidates_sorted d ctx nb

end Sys2Proof.Claims
end

section
/-! SUPPORT. The statements of 14_hods_and_dispatch.md. The waves that detect quiescence (R245; log 27). -/

set_option Elab.async false

namespace Sys2Proof.Machine
open Sys2Proof.Claims

/-! ### What a wave leaves of each context -/

/-- A context's information after a wave: its combined status is kept. -/
def State.waveKept (s : State) (c : CtxInfo) : CtxInfo := { c with lastWave := some (s.statusWord c.n) }

/-- The vector raised for a context that is declared quiescent, if its record asks for one. -/
def State.waveVector (s : State) (c : CtxInfo) : List Nat :=
  if (s.record c.n 10).toNat % 2 = 1 then [(s.record c.n 10).toNat / 2 ^ 16 % 2 ^ 11] else []

/-- The bits of the contexts that are declared quiescent, set in a word. -/
def State.waveBits (s : State) (q : Word) (cs : List CtxInfo) : Word :=
  (cs.filter (declared s)).foldl (fun q c => q ||| w64 (2 ^ c.n)) q

/-- The machine once a wave has passed the contexts `past`, with `rest` still to pass. -/
def State.waved (s : State) (past rest : List CtxInfo) : State :=
  { s with
    lastWave := some s.cycle
    ctxs := past.map s.waveKept ++ rest
    bar0 := { s.bar0 with
      quiescent := s.waveBits s.bar0.quiescent past
      msix := s.bar0.msix ++ (past.filter (declared s)).flatMap s.waveVector } }

theorem getLsbD_or_bit (q : Word) {n k : Nat} (hk : k < 64) : (q ||| w64 (2 ^ n)).getLsbD k = (q.getLsbD k || decide (n = k)) := by
  rw [BitVec.getLsbD_or, w64, BitVec.getLsbD_ofNat, Nat.testBit_two_pow, decide_eq_true hk, Bool.true_and]

theorem getLsbD_foldl_bits (q : Word) (cs : List CtxInfo) {k : Nat} (hk : k < 64) :
    (cs.foldl (fun q c => q ||| w64 (2 ^ c.n)) q).getLsbD k = true ↔ q.getLsbD k = true ∨ ∃ c ∈ cs, c.n = k := by
  induction cs generalizing q with
  | nil => simp
  | cons c cs ih => simp [ih, getLsbD_or_bit _ hk, or_assoc]

theorem State.getLsbD_waveBits (s : State) (q : Word) (cs : List CtxInfo) {k : Nat} (hk : k < 64) :
    (s.waveBits q cs).getLsbD k = true ↔ q.getLsbD k = true ∨ ∃ c ∈ cs, c.n = k ∧ declared s c = true := by
  rw [State.waveBits, getLsbD_foldl_bits q _ hk]
  refine or_congr Iff.rfl (exists_congr fun c => ?_)
  rw [List.mem_filter, and_assoc, and_comm (a := declared s c = true)]

theorem State.waveVector_eq (s : State) (c : CtxInfo) (l : List Nat) :
    (if (s.record c.n 10).getLsbD 0 = true then l ++ [(bits (s.record c.n 10) 16 11).toNat] else l) = l ++ s.waveVector c := by
  have hbit : (s.record c.n 10).getLsbD 0 = decide ((s.record c.n 10).toNat % 2 = 1) := by
    rw [BitVec.getLsbD, Nat.testBit_zero]
  rw [hbit, State.waveVector, bits_toNat]
  by_cases h : (s.record c.n 10).toNat % 2 = 1 <;> simp [h]

section Wave
variable {s : State} {past rest : List CtxInfo} {c : CtxInfo}

theorem declared_eq (s : State) (c : CtxInfo) : declared s c = (decide (c.lastWave = some (s.statusWord c.n)) &&
    statusQuiet (s.statusWord c.n) && !s.bar0.quiescent.getLsbD c.n) := by
  simp [declared, statusQuiet, Bool.and_assoc]
  rfl

/-- A wave passes one context more; the contexts it has passed leave that one's bit alone. -/
theorem State.waveOf_waved (hc : c.n < 64) (hnew : ∀ b ∈ past, b.n ≠ c.n) :
    (s.waved past (c :: rest)).waveOf c = s.waved (past ++ [c]) rest := by
  have hctxs : modFirst (fun b => decide (b.n = c.n)) (fun b => { b with lastWave := some (s.statusWord c.n) })
      (past.map s.waveKept ++ c :: rest) = (past ++ [c]).map s.waveKept ++ rest := by
    have hfirst : FirstOf (fun b : CtxInfo => b.n = c.n) (past.map s.waveKept ++ c :: rest) (past.map s.waveKept) c rest :=
      ⟨rfl, rfl, by simpa [State.waveKept] using hnew⟩
    rw [modFirst_of_firstOf (by simp) hfirst]
    simp [State.waveKept]
  have hbit : (s.waved past (c :: rest)).bar0.quiescent.getLsbD c.n = s.bar0.quiescent.getLsbD c.n := by
    refine Bool.eq_iff_iff.2 ((s.getLsbD_waveBits _ past hc).trans ⟨fun h => h.resolve_right ?_, .inl⟩)
    rintro ⟨b, hb, hn, -⟩
    exact hnew b hb hn
  have hmod : (s.waved past (c :: rest)).modCtx c.n (fun b => { b with lastWave := some (s.statusWord c.n) }) =
      { s.waved (past ++ [c]) rest with bar0 := (s.waved past (c :: rest)).bar0 } := by
    rw [State.modCtx]
    exact congrArg (fun l => { s.waved (past ++ [c]) rest with ctxs := l, bar0 := (s.waved past (c :: rest)).bar0 }) hctxs
  have hstatus : (s.waved past (c :: rest)).statusWord c.n = s.statusWord c.n := rfl
  have hrecord : (s.waved past (c :: rest)).record c.n 10 = s.record c.n 10 := rfl
  rw [State.waveOf]
  dsimp only
  rw [hstatus, hrecord, hmod, hbit, ← declared_eq, State.waveVector_eq]
  cases hd : declared s c <;> simp [State.waved, State.waveBits, hd]

theorem State.foldl_waveOf (hn : ((past ++ rest).map (·.n)).Nodup) (h64 : ∀ b ∈ rest, b.n < 64) :
    rest.foldl (fun (x : State) c => x.waveOf c) (s.waved past rest) = s.waved (past ++ rest) [] := by
  induction rest generalizing past with
  | nil => simp
  | cons c rest ih =>
    have hnew : ∀ b ∈ past, b.n ≠ c.n := by
      rw [List.map_append, List.map_cons] at hn
      exact fun b hb => (List.nodup_append.1 hn).2.2 _ (List.mem_map_of_mem hb) _ List.mem_cons_self
    rw [List.foldl_cons, State.waveOf_waved (h64 c List.mem_cons_self) hnew, ih (by simpa using hn)
      fun b hb => h64 b (List.mem_cons_of_mem c hb)]
    simp

end Wave

theorem exec_quiescenceWave_rests {s : State} (h : s.cycle % 8192 ≠ 0 ∨ s.lastWave = some s.cycle) :
    exec .quiescenceWave s = .next s := by
  change execQuiescenceWave s = _
  rw [execQuiescenceWave, if_pos]
  rcases h with h | h <;> simp [h]

theorem exec_quiescenceWave_acts {s : State} (hcycle : s.cycle % 8192 = 0) (honce : s.lastWave ≠ some s.cycle)
    (hnodup : (s.ctxs.map (·.n)).Nodup) (h64 : ∀ c ∈ s.ctxs, c.n < 64) : exec .quiescenceWave s = .next (s.waved s.ctxs []) := by
  change execQuiescenceWave s = _
  have hstart : { s with lastWave := some s.cycle } = s.waved [] s.ctxs := by simp [State.waved, State.waveBits]
  rw [execQuiescenceWave, if_neg (by simp [hcycle, honce]), hstart, State.foldl_waveOf (past := []) hnodup h64]
  rfl

end Sys2Proof.Machine

namespace Sys2Proof.Claims
open Sys2Proof.Machine

theorem quiescenceWaves : QuiescenceWaves := by
  refine fun s => ⟨exec_quiescenceWave_rests, fun hcycle honce hnodup h64 => ?_⟩
  exact ⟨_, exec_quiescenceWave_acts hcycle honce hnodup h64, rfl, List.append_nil _,
    fun n hn => s.getLsbD_waveBits _ s.ctxs hn, rfl, rfl, rfl⟩

/-- Settles O41: aging and stealing, balancing, and the quiescence waves. -/
theorem hods : Obligations.Hods := ⟨hodsChange, balancing, quiescenceWaves⟩

end Sys2Proof.Claims
end

section
/-! SUPPORT. The statements of 14_hods_and_dispatch.md. What reading a rule leaves (R154, R210), and how new pair records are
classified (R230, R234, R235). -/

set_option Elab.async false

namespace Sys2Proof.Machine
open Sys2Proof.Claims

/-! ### Rules and the cores' caches of them (R210) -/

/-- Two states in which a core reads rules alike: the same memory, context records, and on that core cached rules and resident
contexts. -/
structure State.SameRules (s x : State) (d c : Nat) : Prop where
  mem : x.mem = s.mem
  records : x.bar0.records = s.bar0.records
  cache : (x.core d c).cache = (s.core d c).cache
  partitions : (x.core d c).partitions = (s.core d c).partitions

theorem ruleCached_iff_find? {s : State} {d c ctx idx : Nat} : RuleCached s d c ctx idx ↔
    ((s.core d c).cache.find? fun e => e.1 = ctx ∧ e.2.1 = idx) ≠ none := by
  simp [RuleCached]

theorem State.ruleBusy_iff {s : State} {d c ctx idx : Nat} : s.ruleBusy d c ctx idx = true ↔ RuleWaits s d c ctx idx := by
  have hcached : ((s.core d c).cache.any fun e => e.1 = ctx && e.2.1 = idx) = true ↔ RuleCached s d c ctx idx := by simp [RuleCached]
  rw [State.ruleBusy, Bool.and_eq_true, Bool.not_eq_true', ← Bool.not_eq_true, hcached, List.contains_iff_mem]
  rfl

theorem State.ruleRead_cached {s : State} {d c ctx idx : Nat} {e : Nat × Nat × Word}
    (h : ((s.core d c).cache.find? fun e => e.1 = ctx ∧ e.2.1 = idx) = some e) : s.ruleRead d c ctx idx = (s, e.2.2) := by
  simp only [State.ruleRead, h]

/-- What a cache becomes as it takes an entry in, if its core keeps it. -/
def Core.cacheWith (x : Core) (ctx idx : Nat) (e : Word) : List (Nat × Nat × Word) :=
  if x.resident ctx = true then (if x.cache.length < 1024 then x.cache else x.cache.drop 1) ++ [(ctx, idx, e)] else x.cache

theorem State.ruleRead_fetched {s : State} {d c ctx idx : Nat} (h : ¬ RuleCached s d c ctx idx) :
    (s.ruleRead d c ctx idx).2 = s.read64 (rulePlace s ctx idx) ∧
    (s.ruleRead d c ctx idx).1.stepped = rulePlace s ctx idx / 256 * 256 :: s.stepped ∧
    { s with stepped := (s.ruleRead d c ctx idx).1.stepped }.CoreIs (s.ruleRead d c ctx idx).1 d c
      { s.core d c with cache := (s.core d c).cacheWith ctx idx (s.read64 (rulePlace s ctx idx)) } := by
  have hfind := Classical.not_not.1 (mt ruleCached_iff_find?.2 h)
  simp only [State.ruleRead, hfind, Core.cacheWith]
  split
  · exact ⟨rfl, rfl, State.coreIs_modCore { s with stepped := rulePlace s ctx idx / 256 * 256 :: s.stepped } d c fun x =>
      { x with cache := (if x.cache.length < 1024 then x.cache else x.cache.drop 1) ++ [(ctx, idx, s.read64 (rulePlace s ctx idx))] }⟩
  · exact ⟨rfl, rfl, State.coreIs_self _ d c⟩

section RuleRead
variable (s : State) (d c ctx idx : Nat)

/-- Reading a rule changes only the steps made and the core's cache. -/
theorem State.ruleRead_coreIs : ∃ cache, { s with stepped := (s.ruleRead d c ctx idx).1.stepped }.CoreIs
    (s.ruleRead d c ctx idx).1 d c { s.core d c with cache := cache } := by
  by_cases h : RuleCached s d c ctx idx
  · obtain ⟨e, he⟩ := Option.ne_none_iff_exists'.1 (ruleCached_iff_find?.1 h)
    rw [State.ruleRead_cached he]
    exact ⟨_, State.coreIs_self s d c⟩
  · exact ⟨_, (State.ruleRead_fetched h).2.2⟩

theorem State.ruleRead_readOn : RuleReadOn s (s.ruleRead d c ctx idx).1 d c ctx idx (s.ruleRead d c ctx idx).2 := by
  refine ⟨fun h => ?_, fun h => ?_⟩
  · obtain ⟨e, he⟩ := Option.ne_none_iff_exists'.1 (ruleCached_iff_find?.1 h)
    obtain ⟨rfl, rfl⟩ : e.1 = ctx ∧ e.2.1 = idx := by simpa using List.find?_some he
    rw [State.ruleRead_cached he]
    exact ⟨rfl, List.mem_of_find?_eq_some he⟩
  · obtain ⟨hrule, -, hcore⟩ := State.ruleRead_fetched h
    exact ⟨hrule, by rw [hcore.core, hrule]; rfl⟩

theorem State.mem_ruleRead_stepped (b : Nat) : b ∈ (s.ruleRead d c ctx idx).1.stepped ↔
    b ∈ s.stepped ∨ ¬ RuleCached s d c ctx idx ∧ b = rulePlace s ctx idx / 256 * 256 := by
  by_cases h : RuleCached s d c ctx idx
  · obtain ⟨e, he⟩ := Option.ne_none_iff_exists'.1 (ruleCached_iff_find?.1 h)
    simp [State.ruleRead_cached he, h]
  · simp [(State.ruleRead_fetched h).2.1, h, or_comm]

end RuleRead

section SameRules
variable {s x u v : State} {d c : Nat} (h : s.SameRules x d c) (ctx idx : Nat)
include h

theorem State.SameRules.place : rulePlace x ctx idx = rulePlace s ctx idx := by
  rw [rulePlace, State.record_congr h.records, rulePlace]

theorem State.SameRules.cached : RuleCached x d c ctx idx ↔ RuleCached s d c ctx idx := by
  rw [RuleCached, h.cache, RuleCached]

theorem State.SameRules.rule : (x.ruleRead d c ctx idx).2 = (s.ruleRead d c ctx idx).2 := by
  by_cases hin : RuleCached s d c ctx idx
  · obtain ⟨e, he⟩ := Option.ne_none_iff_exists'.1 (ruleCached_iff_find?.1 hin)
    have he' := he
    rw [← h.cache] at he'
    rw [State.ruleRead_cached he, State.ruleRead_cached he']
  · rw [(State.ruleRead_fetched hin).1, (State.ruleRead_fetched (mt (h.cached ctx idx).1 hin)).1, h.place,
      State.read64_congr h.mem]

theorem State.SameRules.readOn {e : Word} (hcache : (v.core d c).cache = (u.core d c).cache) (hread : RuleReadOn x u d c ctx idx e) :
    RuleReadOn s v d c ctx idx e := by
  obtain ⟨hin, hout⟩ := hread
  have hresident : (x.core d c).resident ctx = (s.core d c).resident ctx := by rw [Core.resident, h.partitions, Core.resident]
  refine ⟨fun hc => ?_, fun hc => ?_⟩
  · rw [hcache, ← h.cache]
    exact hin ((h.cached ctx idx).2 hc)
  · rw [hcache, ← h.cache, ← h.place, ← State.read64_congr h.mem, ← hresident]
    exact hout (mt (h.cached ctx idx).1 hc)

end SameRules

/-! ### Which node is node A (R28), and reading two nodes (R154) -/

theorem firstIsA_iff {cx cy : Nat} {x y : Word} : firstIsA cx cy x y = true ↔ cx < cy ∨ (cx = cy ∧ x.toNat ≤ y.toNat) := by
  simp [firstIsA]

theorem State.readOn_eq (s : State) (d ctx : Nat) (ns : List Word) :
    s.readOn d ctx ns = { s with stepped := nodeBlocks s d ctx ns ++ s.stepped } := rfl

/-! ### The words of a record (R234) -/

/-- Fields above bit 54 and an address below it do not meet. -/
theorem w64_or_eq_add {n : Nat} {a : Word} (hn : n * 2 ^ 54 < 2 ^ 64) (ha : a.toNat < 2 ^ 48) :
    w64 (n * 2 ^ 54) ||| a = BitVec.ofNat 64 (n * 2 ^ 54 + a.toNat) := by
  have hlow : a.toNat < 2 ^ 54 := ha.trans_le (Nat.pow_le_pow_right (by decide) (by decide))
  have hor : n * 2 ^ 54 + a.toNat = n * 2 ^ 54 ||| a.toNat := by
    rw [Nat.mul_comm, Nat.two_pow_add_eq_or_of_lt hlow]
  have hsum : n * 2 ^ 54 + a.toNat < 2 ^ 64 := hor ▸ Nat.or_lt_two_pow hn a.isLt
  apply BitVec.eq_of_toNat_eq
  rw [BitVec.toNat_or, w64, BitVec.toNat_ofNat, BitVec.toNat_ofNat, Nat.mod_eq_of_lt hn, Nat.mod_eq_of_lt hsum, hor]

theorem recWord0_eq {ctx : Nat} {a : Word} (hctx : ctx < 64) (ha : a.toNat < 2 ^ 48) (prio energy : BitVec 2) :
    recWord0 ctx prio energy a = pairWord0 ctx prio.toNat energy.toNat a := by
  have hprio := prio.isLt
  have henergy := energy.isLt
  have hsum : ctx * 2 ^ 58 + prio.toNat * 2 ^ 56 + energy.toNat * 2 ^ 54 = (ctx * 16 + prio.toNat * 4 + energy.toNat) * 2 ^ 54 := by
    ring
  rw [recWord0, pairWord0, Nat.mod_eq_of_lt hctx, Nat.mod_eq_of_lt hprio, Nat.mod_eq_of_lt henergy, hsum,
    w64_or_eq_add (by omega) ha]

theorem recWord1_eq {home : Nat} {b : Word} (hhome : home < 1024) (hb : b.toNat < 2 ^ 48) : recWord1 home b = pairWord1 home b := by
  rw [recWord1, pairWord1, Nat.mod_eq_of_lt hhome, w64_or_eq_add (by omega) hb]

theorem nodeTag_eq (h : Word) : nodeTag h = h.toNat % 2 ^ 16 := by
  rw [nodeTag, bits_toNat, Nat.pow_zero, Nat.div_one]

/-! ### RECORD_CLASSIFY (R230, R235) -/

/-- The state after two nodes and the rule of their pair are read. -/
def State.pairRead (s : State) (d c ctx : Nat) (x y : Word) (idx : Nat) : State × Word :=
  (s.readOn d ctx [x, y]).ruleRead d c ctx idx

theorem State.classify_away {s : State} {d c ctx : Nat} {x y : Word}
    (h : s.readNode d ctx x = .away ∨ s.readNode d ctx y = .away) : s.classify d c ctx x y = none := by
  rcases h with h | h
  · simp only [State.classify, h]
  · cases hx : s.readNode d ctx x <;> simp only [State.classify, hx, h]

section Classify
variable {s : State} {d c ctx : Nat} {x y hx px qx rx hy py qy ry : Word} {mx my : Nat}

theorem State.classify_ok (hrx : s.readNode d ctx x = .ok hx px qx rx mx) (hry : s.readNode d ctx y = .ok hy py qy ry my)
    {first : Prop} [Decidable first] {idx : Nat}
    (hfirst : firstIsA (s.classOf ctx (nodeTag hx)) (s.classOf ctx (nodeTag hy)) x y = true ↔ first)
    (hidx : (if first then s.classOf ctx (nodeTag hx) * 256 + s.classOf ctx (nodeTag hy)
      else s.classOf ctx (nodeTag hy) * 256 + s.classOf ctx (nodeTag hx)) = idx) :
    s.classify d c ctx x y = if s.ruleBusy d c ctx idx = true then none else
      some ((s.pairRead d c ctx x y idx).1,
        recWord0 ctx (bits (s.pairRead d c ctx x y idx).2 6 2) (bits (s.pairRead d c ctx x y idx).2 4 2) (if first then x else y),
        recWord1 (if first then mx else my) (if first then y else x)) := by
  subst hidx
  simp only [State.classify, hrx, hry, hfirst]
  rfl

end Classify

section Classified
variable {s : State} {n : Nat} {pre post : List FreshRec} {r : FreshRec} (h : FirstOf (fun x => x.id = n) s.fresh pre r post)
include h

theorem State.fresh_find? : (s.fresh.find? fun x => x.id = n) = some r := find?_of_firstOf (fun _ => decide_eq_true_iff) h

theorem exec_recordClassify_waits (hwords : r.words = none) (hpush : r.src = .push) (hbusy : s.unperformed r.owner n = true) :
    exec (.recordClassify n) s = .next s := by
  change execRecordClassify n s = _
  simp [execRecordClassify, State.fresh_find? h, hwords, hpush, hbusy]

theorem exec_recordClassify (hwords : r.words = none) (hgo : r.src = .push → s.unperformed r.owner n = false) :
    exec (.recordClassify n) s = match s.classify r.die r.core r.ctx r.a r.b with
      | none => .next s
      | some (s1, w) => .next (s1.setWords n w) := by
  have hwait : ¬ (r.words.isSome || (r.src == .push && s.unperformed r.owner n)) = true := by
    by_cases hpush : r.src = .push <;> simp [hwords, hpush, hgo]
  change execRecordClassify n s = _
  simp only [execRecordClassify, State.fresh_find? h, if_neg hwait] <;> rfl

end Classified

/-! ### What reading a pair leaves -/

section PairRead
variable (s : State) (d c ctx idx : Nat) (x y : Word)

theorem State.pairRead_sameRules : s.SameRules (s.readOn d ctx [x, y]) d c := ⟨rfl, rfl, rfl, rfl⟩

theorem State.pairRead_rule : (s.pairRead d c ctx x y idx).2 = (s.ruleRead d c ctx idx).2 :=
  (s.pairRead_sameRules d c ctx x y).rule ctx idx

theorem State.pairRead_readOn : RuleReadOn s (s.pairRead d c ctx x y idx).1 d c ctx idx (s.ruleRead d c ctx idx).2 := by
  rw [← s.pairRead_rule d c ctx idx x y]
  exact (s.pairRead_sameRules d c ctx x y).readOn ctx idx rfl (State.ruleRead_readOn _ d c ctx idx)

theorem State.mem_pairRead_stepped (b : Nat) : b ∈ (s.pairRead d c ctx x y idx).1.stepped ↔
    b ∈ nodeBlocks s d ctx [x, y] ∨ b ∈ s.stepped ∨ ¬ RuleCached s d c ctx idx ∧ b = rulePlace s ctx idx / 256 * 256 := by
  rw [State.pairRead, State.mem_ruleRead_stepped, s.readOn_eq, List.mem_append, or_assoc]
  rfl

/-- Reading a pair changes only the steps made and the core's cache. -/
theorem State.pairRead_coreIs : ∃ cache, { s with stepped := (s.pairRead d c ctx x y idx).1.stepped }.CoreIs
    (s.pairRead d c ctx x y idx).1 d c { s.core d c with cache := cache } :=
  State.ruleRead_coreIs (s.readOn d ctx [x, y]) d c ctx idx

end PairRead

end Sys2Proof.Machine

namespace Sys2Proof.Claims
open Sys2Proof.Machine

theorem recordsClassify : RecordsClassify := by
  refine fun s n pre post r hx px qx rx hy py qy ry mx my hr hwords => ⟨exec_recordClassify_waits hr hwords,
    fun hgo hctx ha hb hmx hmy hrx hry => ?_, fun haway => ?_⟩
  · intro cx cy first rule w0 w1 idx
    have hclassify := State.classify_ok (c := r.core) (first := first) (idx := idx) hrx hry
      (by rw [firstIsA_iff, nodeTag_eq, nodeTag_eq]) (by rw [nodeTag_eq, nodeTag_eq])
    have hexec := exec_recordClassify hr hwords hgo
    refine ⟨fun hwait => ?_, fun hgo => ?_⟩
    · rw [hexec, hclassify, if_pos (State.ruleBusy_iff.2 hwait)]
    · have hrule := s.pairRead_rule r.die r.core r.ctx idx r.a r.b
      have hread := s.pairRead_readOn r.die r.core r.ctx idx r.a r.b
      have hstepped := s.mem_pairRead_stepped r.die r.core r.ctx idx r.a r.b
      obtain ⟨cache, hcore⟩ := s.pairRead_coreIs r.die r.core r.ctx idx r.a r.b
      rw [hrule, if_neg (mt State.ruleBusy_iff.1 hgo), recWord0_eq hctx (by split <;> assumption),
        recWord1_eq (by split <;> assumption) (by split <;> assumption), bits_toNat, bits_toNat] at hclassify
      rw [hexec, hclassify]
      generalize (s.pairRead r.die r.core r.ctx r.a r.b idx).1 = u at hread hstepped hcore
      have hfresh : u.fresh = s.fresh := congrArg (·.fresh) hcore.frame
      have hmem : u.mem = s.mem := congrArg (·.mem) hcore.frame
      refine ⟨_, rfl, ?_, hread, hstepped, fun a => ?_, congrArg (·.slots) hcore.frame⟩
      · exact modFirst_of_firstOf (fun _ => decide_eq_true_iff) (hfresh ▸ hr) _
      · exact congrArg (fun m => sparseRead 0 m a) hmem
  · by_cases hgo : r.src = .push → s.unperformed r.owner n = false
    · rw [exec_recordClassify hr hwords hgo, State.classify_away haway]
    · obtain ⟨hpush, hbusy⟩ := Classical.not_imp.1 hgo
      exact exec_recordClassify_waits hr hwords hpush (by simpa using hbusy)

end Sys2Proof.Claims
end

section
/-! SUPPORT. The statements of 14_hods_and_dispatch.md. Where a classified record goes (R236, R237, R241, R247, R300), and the spill
partitions (R239, R240). -/

set_option Elab.async false

namespace Sys2Proof.Machine
open Sys2Proof.Claims

/-! ### A drain whose record is written is complete (R300), and no core differs -/

theorem State.write64_cores (s : State) (a : Nat) (x : Word) : (s.write64 a x).cores = s.cores := by
  have hframe := s.writeBytes_frame a (bytesOf 8 x.toNat)
  exact congrArg (·.cores) hframe

theorem State.blockWrite_cores (s : State) (v : Saving) (off : Nat) (x : Word) : (s.blockWrite v off x).cores = s.cores := by
  unfold State.blockWrite
  split
  · exact s.write64_cores _ x
  · rfl

theorem State.opDone_cores (s : State) (o : TileOp) : (s.opDone o).cores = s.cores := by
  cases hb : (s.dropOp o).blockOf o.owner with
  | some v =>
    simp only [State.opDone, hb, State.blockWrite_cores]
    rfl
  | none =>
    cases hf : (s.dropOp o).findThread o.owner <;> simp only [State.opDone, hb, hf] <;> rfl

theorem State.wakeDone_cores (s : State) (op : Option Nat) : (s.wakeDone op).cores = s.cores := by
  unfold State.wakeDone
  split
  · exact s.opDone_cores _
  · rfl

theorem State.wakeDone_done (v : State) (op : Option Nat) : DrainDone v (v.wakeDone op) op := by
  refine ⟨fun h => by rw [h]; rfl, fun n h => ?_⟩
  subst h
  refine ⟨fun pre o post ho => ?_, fun hnone => ?_⟩
  · have hfind : (v.ops.find? fun x => x.uid = n) = some o := find?_of_firstOf (fun _ => decide_eq_true_iff) ho
    simp only [State.wakeDone, Option.bind_some, hfind]
  · have hfind : (v.ops.find? fun x => x.uid = n) = none := List.find?_eq_none.2 (by simpa using hnone)
    simp only [State.wakeDone, Option.bind_some, hfind]

theorem FreshRec.op_eq (r : FreshRec) : r.op = drainOf r := by simp [FreshRec.op, drainOf]

/-! ### A record is placed in a hod or in a partition (R236, R237, R240) -/

/-- The state after a record is on its way from a core to its die's partition. -/
def State.spilled (s : State) (d c ctx : Nat) (w : Word × Word) (op : Option Nat) : State :=
  { s.modDie d fun x => { x with lastSpill := putKey ctx c x.lastSpill } with
    spilling := s.spilling ++ [⟨d, ctx, w.1, w.2, op⟩] }

theorem State.hodEnter_enters (s : State) (d c : Nat) (w : Word × Word) : EntersHod s (s.hodEnter d c w.1 w.2) d c w := by
  have hcore := s.coreIs_modCore d c fun x => { x with hod := x.hod ++ [⟨w.1, w.2, s.cycle, s.cycle⟩] }
  exact ⟨congrArg (·.hod) hcore.core, hcore.onlyHod, congrArg (·.held) hcore.core, rfl⟩

theorem State.spilled_spills (s : State) (d c ctx : Nat) (w : Word × Word) (op : Option Nat) :
    Spills s (s.spilled d c ctx w op) d c ctx w op := by
  have hsame : (s.spilled d c ctx w op).die d = { s.die d with lastSpill := putKey ctx c (s.die d).lastSpill } :=
    s.die_modDie_same d fun x => { x with lastSpill := putKey ctx c x.lastSpill }
  refine ⟨rfl, ?_, ?_, fun e he => s.die_modDie_other he fun x => { x with lastSpill := putKey ctx c x.lastSpill }, rfl⟩
  · rw [hsame]
    exact lookupD_putKey_same ..
  · rw [hsame]

section Placing
variable {s : State} {d c ctx : Nat} {w : Word × Word} {op : Option Nat}

theorem State.placeRecord_enters (h : (s.core d c).hodRoom ctx = true) :
    s.placeRecord d c ctx w.1 w.2 op = some ((s.hodEnter d c w.1 w.2).wakeDone op) := if_pos h

theorem State.placeRecord_spills (h : (s.core d c).hodRoom ctx = false) (hroom : 0 < s.partRoom ctx d) :
    s.placeRecord d c ctx w.1 w.2 op = some (s.spilled d c ctx w op) := by
  rw [State.placeRecord, h, if_neg Bool.false_ne_true, if_neg hroom.ne']
  rfl

theorem State.placeRecord_full (h : (s.core d c).hodRoom ctx = false) (hroom : s.partRoom ctx d = 0) :
    s.placeRecord d c ctx w.1 w.2 op = none := by
  rw [State.placeRecord, h, if_neg Bool.false_ne_true, if_pos hroom]

theorem State.sendRecord_eq (h : (s.core d c).areaOf ctx = none) (source : BitVec 24) :
    s.sendRecord d c ctx source w op = s.placeRecord d c ctx w.1 w.2 op := by
  simp only [State.sendRecord, h]

end Placing

/-! ### PAIR_RECORD_SEND of a record of a core (R230, R237, R241) -/

section Sending
variable {s : State} {n : Nat} {pre post : List FreshRec} {r : FreshRec} {w : Word × Word}

theorem filter_of_firstOf (h : FirstOf (fun x => x.id = n) s.fresh pre r post) (hpost : ∀ x ∈ post, x.id ≠ n) :
    s.fresh.filter (fun q => q.id ≠ n) = pre ++ post := by
  obtain ⟨hsplit, hr, hpre⟩ := h
  have hkeep : ∀ l : List FreshRec, (∀ x ∈ l, x.id ≠ n) → l.filter (fun q => q.id ≠ n) = l := fun l hl =>
    List.filter_eq_self.2 fun x hx => decide_eq_true (hl x hx)
  rw [hsplit, List.filter_append, List.filter_cons_of_neg (by simpa using hr), hkeep pre hpre, hkeep post hpost]

variable (h : FirstOf (fun x => x.id = n) s.fresh pre r post) (hpost : ∀ x ∈ post, x.id ≠ n) (hwords : r.words = some w)
include h hpost hwords

theorem exec_pairRecordSend_core (hsrc : r.src ≠ .intake) (harea : (s.core r.die r.core).areaOf r.ctx = none) :
    exec (.pairRecordSend n) s = match { s with fresh := pre ++ post }.placeRecord r.die r.core r.ctx w.1 w.2 (drainOf r) with
      | some u => .next u
      | none => if 16 ≤ (s.core r.die r.core).heldCount r.ctx then .next s
        else .next ({ s with fresh := pre ++ post }.modCore r.die r.core fun x => { x with held := x.held ++ [r] }) := by
  change execPairRecordSend n s = _
  have hcore : ¬ (r.src == .intake) = true := by simpa using hsrc
  simp only [execPairRecordSend, State.fresh_find? h, hwords, if_neg hcore, filter_of_firstOf h hpost, FreshRec.op_eq]
  rw [State.sendRecord_eq (s := { s with fresh := pre ++ post }) harea] <;> rfl

theorem exec_pairRecordSend_intake (hsrc : r.src = .intake) :
    exec (.pairRecordSend n) s = .next (({ s with fresh := pre ++ post }.sendIntake r.ctx w).getD s) := by
  change execPairRecordSend n s = _
  simp only [execPairRecordSend, State.fresh_find? h, hwords, hsrc, filter_of_firstOf h hpost]
  rfl

end Sending

/-! ### HELD_RECORD_WRITE (R241) -/

section Held
variable {s : State} {d c ctx : Nat} {pre post : List FreshRec} {r : FreshRec} {w : Word × Word}

theorem exec_heldRecordWrite (h : FirstOf (fun x => x.ctx = ctx) (s.core d c).held pre r post) (hwords : r.words = some w)
    (harea : (s.core d c).areaOf ctx = none) :
    exec (.heldRecordWrite d c ctx) s = match s.placeRecord d c ctx w.1 w.2 (drainOf r) with
      | none => .next s
      | some u => .next (u.modCore d c fun x => { x with held := dropFirst (fun q => q.id = r.id) x.held }) := by
  change execHeldRecordWrite d c ctx s = _
  have hfind : ((s.core d c).held.find? fun x => x.ctx = ctx) = some r := find?_of_firstOf (fun _ => decide_eq_true_iff) h
  simp only [execHeldRecordWrite, hfind, hwords, Option.getD_some, FreshRec.op_eq, State.sendRecord_eq harea] <;> rfl

/-- Once its record is written, a core holds the others. -/
theorem State.modCore_held {u : State} (h : FirstOf (fun x => x.ctx = ctx) (s.core d c).held pre r post)
    (hpre : ∀ x ∈ pre, x.id ≠ r.id) (hheld : (u.core d c).held = (s.core d c).held) :
    (u.modCore d c fun x => { x with held := dropFirst (fun q => q.id = r.id) x.held }) =
      u.modCore d c fun x => { x with held := pre ++ post } := by
  have hdrop := dropFirst_of_firstOf (q := fun q : FreshRec => decide (q.id = r.id)) (fun _ => decide_eq_true_iff)
    (⟨h.1, rfl, hpre⟩ : FirstOf (fun x => x.id = r.id) _ pre r post)
  rw [State.modCore, State.modCore, hheld, hdrop]

end Held

/-! ### PAIR_RECORD_SEND of a record of the intake unit (R247) -/

theorem nearestDie_mem {aff d : Nat} {l : List Nat} (h : nearestDie aff l = some d) : d ∈ l := by
  induction l with
  | nil => cases h
  | cons e l ih =>
    cases hl : nearestDie aff l with
    | none =>
      obtain rfl : e = d := by simpa [nearestDie, hl] using h
      exact List.mem_cons_self
    | some f =>
      simp only [nearestDie, hl] at h
      split at h
      · exact List.mem_cons_of_mem _ (ih (hl.trans h))
      · obtain rfl : e = d := Option.some.inj h
        exact List.mem_cons_self

theorem nearestDie_of_split {aff d : Nat} {pre post : List Nat} (hpre : ∀ e ∈ pre, gridDist d aff < gridDist e aff)
    (hpost : ∀ e ∈ post, gridDist d aff ≤ gridDist e aff) : nearestDie aff (pre ++ d :: post) = some d := by
  induction pre with
  | nil =>
    rw [List.nil_append]
    cases hl : nearestDie aff post with
    | none => simp only [nearestDie, hl]
    | some e => simp only [nearestDie, hl, if_neg (Nat.not_lt.2 (hpost e (nearestDie_mem hl)))]
  | cons x pre ih =>
    obtain ⟨hx, hpre⟩ := List.forall_mem_cons.1 hpre
    simp only [List.cons_append, nearestDie, ih hpre, if_pos hx]

theorem State.nearestDie_of_intakeDie {s : State} {w1 : Word} {d : Nat} (h : IntakeDie s (w1.toNat / 2 ^ 54) d) :
    nearestDie (recAffinity w1) s.inService = some d := by
  obtain ⟨pre, post, hsplit, hpre, hpost⟩ := h
  rw [recAffinity_eq, hsplit, nearestDie_of_split hpre hpost]

section Intake
variable {s : State} {d c ctx : Nat} {w : Word × Word} {before after : List CtxInfo} {i : CtxInfo}

/-- The cores of a die in the order in which a context's pointer comes to them. -/
def CtxInfo.coreOrder (i : CtxInfo) : List Nat := (List.range 16).map fun k => (i.intakePtr + k) % 16

/-- Whether a context owns a slot on a core of a die. -/
def State.ownsSlot (s : State) (d ctx c : Nat) : Bool := (List.range 16).any fun k => (s.slot ⟨d, c, k⟩).owner == some ctx

theorem State.ownsSlot_iff (s : State) (d ctx c : Nat) : s.ownsSlot d ctx c = true ↔ OwnsSlot s d ctx c := by
  simp [State.ownsSlot, OwnsSlot]

variable (hi : FirstOf (fun x => x.n = ctx) s.ctxs before i after)
include hi

theorem State.intakeCore_eq : s.intakeCore d ctx =
    i.coreOrder.find? (s.ownsSlot d ctx) := by
  have hfind : s.ctxInfo? ctx = some i := find?_of_firstOf (fun _ => decide_eq_true_iff) hi
  rw [State.intakeCore, hfind]
  rfl

theorem State.sendIntake_core (hd : nearestDie (recAffinity w.2) s.inService = some d) {bs as : List Nat}
    (hc : FirstOf (OwnsSlot s d ctx) i.coreOrder bs c as) (harea : (s.core d c).areaOf ctx = none) :
    s.sendIntake ctx w = (s.placeRecord d c ctx w.1 w.2 none).map fun u =>
      u.modCtx ctx fun x => { x with intakePtr := (c + 1) % 16 } := by
  have hfind : i.coreOrder.find? (s.ownsSlot d ctx) = some c := find?_of_firstOf (q := s.ownsSlot d ctx) (s.ownsSlot_iff d ctx) hc
  unfold State.sendIntake
  simp only [hd, State.intakeCore_eq hi, hfind, State.sendRecord_eq harea]

theorem State.sendIntake_partition (hd : nearestDie (recAffinity w.2) s.inService = some d)
    (hnone : ∀ c ∈ i.coreOrder, ¬ OwnsSlot s d ctx c) :
    s.sendIntake ctx w = if s.partRoom ctx d = 0 then none
      else some { s with spilling := s.spilling ++ [⟨d, ctx, w.1, w.2, none⟩] } := by
  have hcore : s.intakeCore d ctx = none := by
    rw [State.intakeCore_eq hi]
    refine List.find?_eq_none.2 fun c hc howns => ?_
    rw [s.ownsSlot_iff] at howns
    exact hnone c hc howns
  unfold State.sendIntake
  simp only [hd, hcore]

/-- A context's pointer moves on past the core that a record entered. -/
theorem State.modCtx_pointer {u : State} (hctxs : u.ctxs = s.ctxs) (p : Nat) :
    (u.modCtx ctx fun x => { x with intakePtr := p }) = { u with ctxs := before ++ { i with intakePtr := p } :: after } := by
  rw [State.modCtx, hctxs, modFirst_of_firstOf (fun _ => decide_eq_true_iff) hi]

end Intake

/-! ### Spill partitions (R240) -/

theorem exec_spillWrite {s : State} {d ctx : Nat} {pre post : List SpillRec} {r : SpillRec}
    (h : FirstOf (fun x => x.die = d ∧ x.ctx = ctx) s.spilling pre r post) :
    exec (.spillWrite d ctx) s = if s.partSize ctx ≤ s.partHeld ctx d then .next s
      else .next (({ s with spilling := pre ++ post }.partAppend ctx d r.w0 r.w1).wakeDone r.op) := by
  change execSpillWrite d ctx s = _
  simp only [execSpillWrite, find?_of_firstOf (q := fun x : SpillRec => decide (x.die = d) && decide (x.ctx = ctx)) (fun _ => by simp) h,
    dropFirst_of_firstOf (q := fun x : SpillRec => decide (x.die = d) && decide (x.ctx = ctx)) (fun _ => by simp) h]

theorem State.writeBytes_mem_congr {s x : State} (h : x.mem = s.mem) (a : Nat) (l : List Byte) :
    (x.writeBytes a l).mem = (s.writeBytes a l).mem := by
  induction l generalizing s x a with
  | nil => exact h
  | cons b l ih => exact ih (s := s.writeByte a b) (x := x.writeByte a b) (congrArg (fun m => sparseWrite unlisted m a b) h) (a + 1)

section SpillRead
variable {s : State} {d c ctx : Nat}

/-- The place of the `k`th record from a partition's head (R239). -/
def State.partSlot (s : State) (ctx d k : Nat) : Nat :=
  s.partAddr ctx d + 64 + 16 * (((s.read64 (s.partAddr ctx d + 8)).toNat + k) % s.partSize ctx)

/-- The records that a core takes from its die's partition at once (R240). -/
def State.refill (s : State) (d c ctx : Nat) : Nat := min 8 (min (s.partHeld ctx d) ((s.core d c).room ctx))

/-- The state after a core has taken records from its die's partition, whose head is not yet moved on. -/
def State.refilled (s : State) (d c ctx : Nat) : State :=
  (List.range (s.refill d c ctx)).foldl (fun (x : State) k =>
    x.hodEnter d c (s.read64 (s.partSlot ctx d k)) (s.read64 (s.partSlot ctx d k + 8))) s

theorem exec_spillRead (h : (((List.range 16).map fun k => (lookupD 15 ctx (s.die d).lastSpill + 1 + k) % 16).find?
      fun c' => s.wantsRecords d c' ctx) = some c) :
    exec (.spillRead d c ctx) s = .next ((s.refilled d c ctx).write64 (s.partAddr ctx d + 8)
      (w64 ((s.read64 (s.partAddr ctx d + 8)).toNat + s.refill d c ctx))) := by
  change execSpillRead d c ctx s = _
  have hmine : ¬ (((List.range 16).map fun k => (lookupD 15 ctx (s.die d).lastSpill + 1 + k) % 16).find?
      fun c' => s.wantsRecords d c' ctx) ≠ some c := not_not_intro h
  rw [execSpillRead, if_neg hmine]
  rfl

end SpillRead

end Sys2Proof.Machine

namespace Sys2Proof.Claims
open Sys2Proof.Machine

theorem recordsPlaced : RecordsPlaced := by
  refine ⟨fun s n pre post r w hr hpost hwords hsrc harea => ?_, fun s d c ctx pre post r w hr hpre hwords harea => ?_,
    fun s n pre post r w before after i hr hpost hwords hsrc hi => ?_⟩
  · intro room rest
    have hexec := exec_pairRecordSend_core hr hpost hwords hsrc harea
    refine ⟨fun hroom => ?_, fun hfull hpart => ?_, fun hfull hpart => ?_⟩
    · rw [State.placeRecord_enters (s := rest) hroom] at hexec
      exact ⟨_, _, hexec, rest.hodEnter_enters r.die r.core w, State.wakeDone_done _ _⟩
    · rw [State.placeRecord_spills (s := rest) (Bool.not_eq_true _ ▸ hfull) hpart] at hexec
      exact ⟨_, hexec, rest.spilled_spills r.die r.core r.ctx w (drainOf r)⟩
    · rw [State.placeRecord_full (s := rest) (Bool.not_eq_true _ ▸ hfull) hpart] at hexec
      refine ⟨fun hfew => ?_, fun hmany => hexec.trans (if_pos hmany)⟩
      have hcore := rest.coreIs_modCore r.die r.core fun x => { x with held := x.held ++ [r] }
      exact ⟨_, hexec.trans (if_neg (Nat.not_le.2 hfew)), congrArg (·.held) hcore.core, congrArg (·.hod) hcore.core,
        hcore.onlyHod, rfl⟩
  · intro written
    have hexec := exec_heldRecordWrite hr hwords harea
    refine ⟨fun hroom => ?_, fun hfull hpart => ?_, fun hfull hpart => ?_⟩
    · have henters := s.hodEnter_enters d c w
      have hheld : (((s.hodEnter d c w.1 w.2).wakeDone (drainOf r)).core d c).held = (s.core d c).held := by
        rw [State.core_congr (State.wakeDone_cores _ _)]
        exact henters.2.2.1
      rw [State.placeRecord_enters hroom] at hexec
      exact ⟨_, _, hexec.trans (congrArg _ (State.modCore_held hr hpre hheld)), henters, State.wakeDone_done _ _⟩
    · rw [State.placeRecord_spills hfull hpart] at hexec
      exact ⟨_, hexec.trans (congrArg _ (State.modCore_held (u := s.spilled d c ctx w (drainOf r)) hr hpre rfl)),
        s.spilled_spills d c ctx w (drainOf r)⟩
    · rw [State.placeRecord_full hfull hpart] at hexec
      exact hexec
  · intro rest cores
    have hexec := exec_pairRecordSend_intake hr hpost hwords hsrc
    refine ⟨fun hnone => ?_, fun d hd => ⟨fun bs c as hc harea => ?_, fun hnone => ?_⟩⟩
    · have hsend : rest.sendIntake r.ctx w = none := by
        unfold State.sendIntake
        rw [show rest.inService = [] from hnone]
        rfl
      exact hexec.trans (by rw [hsend]; rfl)
    · intro next
      have hsend := State.sendIntake_core (s := rest) (w := w) hi (State.nearestDie_of_intakeDie hd) hc harea
      refine ⟨fun hroom => ?_, fun hfull hpart => ?_, fun hfull hpart => ?_⟩
      · rw [State.placeRecord_enters (s := rest) hroom] at hsend
        refine ⟨_, ?_, rest.hodEnter_enters d c w⟩
        rw [hexec, hsend]
        exact congrArg _ (State.modCtx_pointer (s := rest) (u := rest.hodEnter d c w.1 w.2) hi rfl _)
      · rw [State.placeRecord_spills (s := rest) hfull hpart] at hsend
        refine ⟨_, ?_, rest.spilled_spills d c r.ctx w none⟩
        rw [hexec, hsend]
        exact congrArg _ (State.modCtx_pointer (s := rest) (u := rest.spilled d c r.ctx w none) hi rfl _)
      · rw [State.placeRecord_full (s := rest) hfull hpart] at hsend
        rw [hexec, hsend]
        rfl
    · have hsend := State.sendIntake_partition (s := rest) (w := w) hi (State.nearestDie_of_intakeDie hd) hnone
      refine ⟨fun hpart => ?_, fun hpart => ?_⟩
      · rw [hexec, hsend, if_neg (show ¬ rest.partRoom r.ctx d = 0 from hpart.ne')]
        rfl
      · rw [hexec, hsend, if_pos (show rest.partRoom r.ctx d = 0 from hpart)]
        rfl

theorem spillPartitions : SpillPartitions := by
  refine ⟨fun s d ctx pre post r h => ⟨fun hfull => ?_, fun hroom => ?_⟩, fun s d c ctx => ?_⟩
  · rw [exec_spillWrite h, if_pos hfull]
  · rw [exec_spillWrite h, if_neg (Nat.not_le.2 hroom)]
    rfl
  · intro last h a head n
    have hcore : s.CoreIs (s.refilled d c ctx) d c _ := State.foldl_hodEnter d c _ _ _ s
    rw [exec_spillRead h]
    generalize s.refilled d c ctx = v at hcore
    have hcores := v.write64_cores (s.partAddr ctx d + 8) (w64 ((s.read64 (s.partAddr ctx d + 8)).toNat + s.refill d c ctx))
    have hmem : v.mem = s.mem := congrArg (·.mem) hcore.frame
    have hlast := State.core_congr hcores d c
    refine ⟨_, rfl, ⟨fun d' c' hne => ?_, ?_⟩, ?_, ?_, State.writeBytes_mem_congr hmem _ _⟩
    · rw [State.core_congr hcores, hcore.others d' c' hne]
    · rw [hlast, hcore.core]
    · rw [hlast, hcore.core]
    · rw [hlast, hcore.core]
      rfl

/-- Settles O40: classifying, placing and the spill partitions, each step by its cases. -/
theorem pairRecords : Obligations.PairRecords := ⟨recordsClassify, recordsPlaced, spillPartitions⟩

end Sys2Proof.Claims
end

section
/-! SUPPORT. The statements of 14_hods_and_dispatch.md. How rules are written and invalidated (R210, R211, R226, R233). -/

set_option Elab.async false

namespace Sys2Proof.Machine
open Sys2Proof.Claims

/-! ### Fields of a rule entry (R210, R211) -/

theorem bits_eq_zero_iff (x : Word) (lo n : Nat) : bits x lo n = 0 ↔ x.toNat / 2 ^ lo % 2 ^ n = 0 := by
  rw [← bits_toNat, ← BitVec.toNat_inj]
  rfl

theorem action_toNat (e : Word) : (bits e 0 4).toNat = e.toNat % 16 :=
  (bits_toNat e 0 4).trans (by omega)

theorem ruleOk_iff (e : Word) : ruleOk e = true ↔ RuleOk e := by
  have hcall : bits e 0 4 = 4 ↔ e.toNat % 16 = 4 := by
    rw [← action_toNat, ← BitVec.toNat_inj]
    rfl
  simp only [ruleOk, RuleOk, Bool.and_eq_true, beq_iff_eq, decide_eq_true_eq, high16_eq_zero_iff, Bool.not_eq_true',
    Bool.and_eq_false_imp, beq_eq_false_iff_ne, ne_eq, hcall, bits_eq_zero_iff e 8 40, action_toNat, and_assoc]

/-! ### `rulew` (R226, R233) -/

section Rulew
variable {s : State} {i : Issue} {t : Thread} (h : s.current = some (i, t)) (s1 s2 : BitVec 5)
include h

/-- The place of the entry that a `rulew` names (R210). -/
def ruleTarget (s : State) (t : Thread) (s1 : BitVec 5) : Nat := (s.record t.ctx 2).toNat + 8 * (t.readS s1).toNat

theorem exec_rulew_illegal (hbad : 0xFFFF < (t.readS s1).toNat ∨ ¬ RuleOk (t.readS s2)) :
    exec (.rulew s1 s2) s = .next (s.precise i t causeIllegal i.word) := by
  refine (State.word_of_current h _).trans (congrArg _ (if_pos ?_))
  rw [← ruleOk_iff] at hbad
  simpa using hbad

theorem exec_rulew (hidx : (t.readS s1).toNat ≤ 0xFFFF) (hok : RuleOk (t.readS s2)) : exec (.rulew s1 s2) s = .next (
    if s.mayStep i.place.die t.ctx (some t.uid) (ruleTarget s t s1) = true
    then (s.stepWrite (ruleTarget s t s1) (t.readS s2)).setThread i.place
      { t with hold := .rulew (t.readS s1).toNat s.inService }
    else s.wait i t (.drain (paHome (ruleTarget s t s1)))) := by
  have hgood : ¬ (decide (0xFFFF < (t.readS s1).toNat) || !ruleOk (t.readS s2)) = true := by
    rw [(ruleOk_iff _).2 hok]
    simpa using hidx
  refine (State.word_of_current h _).trans (congrArg _ ?_)
  rw [if_neg hgood]
  by_cases hmay : s.mayStep i.place.die t.ctx (some t.uid) (ruleTarget s t s1) = true
  · rw [if_pos hmay]
    exact if_neg (by simpa [ruleTarget] using hmay)
  · rw [if_neg hmay]
    exact if_pos (by simpa [ruleTarget] using hmay)

end Rulew

section StepWrite
variable (s : State) (pa : Nat) (x : Word)

theorem State.stepWrite_stepMade : StepMade s (s.stepWrite pa x) pa := by
  obtain ⟨hstepped, hmgmt⟩ := s.stepOn_stepMade pa
  have hframe := (s.stepOn pa).writeBytes_frame pa (bytesOf 8 x.toNat)
  have hkept : (s.stepWrite pa x).stepped = (s.stepOn pa).stepped := congrArg (·.stepped) hframe
  exact ⟨hkept.trans hstepped, ((s.stepOn pa).writeBytes_mgmt pa (bytesOf 8 x.toNat)).trans hmgmt⟩

theorem State.stepWrite_read64 (h : s.stored) : (s.stepWrite pa x).read64 pa = x := by
  have hstored : (s.stepOn pa).stored := by
    obtain ⟨hmem, hside⟩ := s.stepOn_keeps pa
    rw [State.stored, hmem, hside]
    exact h
  rw [State.read64, State.stepWrite, State.write64, State.readNat_writeNat _ _ _ _ hstored, Nat.mod_eq_of_lt x.isLt, w64,
    BitVec.ofNat_toNat, BitVec.setWidth_eq]

theorem State.stepWrite_readByte {a : Nat} (h : a < pa ∨ pa + 8 ≤ a) : (s.stepWrite pa x).readByte a = s.readByte a := by
  have hmem := (s.stepOn_keeps pa).1
  refine ((s.stepOn pa).readByte_writeNat_outside x.toNat h).trans ?_
  rw [State.readByte, hmem, State.readByte]

theorem State.stepWrite_frame : { s.stepWrite pa x with
    mem := s.mem, errors := s.errors, stepped := s.stepped, mgmt := s.mgmt } = s :=
  (congrArg (fun z : State => { z with mem := s.mem, errors := s.errors, stepped := s.stepped, mgmt := s.mgmt })
    ((s.stepOn pa).writeBytes_frame pa (bytesOf 8 x.toNat))).trans
    (congrArg (fun z : State => { z with mem := s.mem, errors := s.errors }) (s.stepOn_frame pa))

end StepWrite

/-! ### RULE_INVALIDATE (R233) -/

/-- The `rulew` of a slot's thread that waits for a die's answer, with its place, index and dies. -/
def waitsForRule (die : Nat) (x : Place × Slot) : Option (Place × Thread × Nat × List Nat) :=
  x.2.thread.bind fun t => match t.hold with
    | .rulew k ds => if ds.contains die then some (x.1, t, k, ds) else none
    | _ => none

theorem waitsForRule_eq_some {die : Nat} {x : Place × Slot} {r : Place × Thread × Nat × List Nat} :
    waitsForRule die x = some r ↔ ∃ t k ds, x.2.thread = some t ∧ t.hold = .rulew k ds ∧ die ∈ ds ∧ (x.1, t, k, ds) = r := by
  unfold waitsForRule
  constructor
  · intro hr
    obtain ⟨t, ht, hw⟩ := Option.bind_eq_some_iff.1 hr
    split at hw
    · next k ds hold =>
      obtain ⟨hmem, rfl⟩ : die ∈ ds ∧ (x.1, t, k, ds) = r := by simpa using hw
      exact ⟨t, k, ds, ht, hold, hmem, rfl⟩
    · cases hw
  · rintro ⟨t, k, ds, ht, hold, hmem, rfl⟩
    simp [ht, hold, hmem]

/-- A core whose cache has dropped a rule entry, where the core is of a die. -/
def Core.invalidated (die ctx k : Nat) (at_ : Nat × Nat) (x : Core) : Core :=
  if at_.1 = die then { x with cache := x.cache.filter fun c => !(c.1 = ctx && c.2.1 = k) } else x

/-- The state after a die's cores have dropped a rule entry. -/
def State.invalidated (s : State) (die ctx k : Nat) : State :=
  { s with cores := s.cores.map fun e => (e.1, e.2.invalidated die ctx k e.1) }

theorem State.core_invalidated (s : State) (die ctx k d c : Nat) :
    (s.invalidated die ctx k).core d c = (s.core d c).invalidated die ctx k (d, c) := by
  refine lookupD_map_value (fun e x => Core.invalidated die ctx k e x) ?_ s.cores
  unfold Core.invalidated
  split <;> rfl

theorem exec_ruleInvalidate {s : State} {die : Nat} {p : Place} {t : Thread} {k : Nat} {ds : List Nat}
    (h : s.slots.findSome? (waitsForRule die) = some (p, t, k, ds)) : exec (.ruleInvalidate die) s =
      .next ((s.setThread p { t with hold := .rulew k (ds.filter (· ≠ die)) }).invalidated die t.ctx k) := by
  have hexec : exec (.ruleInvalidate die) s = match s.slots.findSome? (waitsForRule die) with
      | none => .next s
      | some (p, t, k, ds) =>
        let s1 := s.setThread p { t with hold := .rulew k (ds.filter (· ≠ die)) }
        .next { s1 with cores := s1.cores.map fun e =>
          if e.1.1 = die then (e.1, { e.2 with cache := e.2.cache.filter fun c => !(c.1 = t.ctx && c.2.1 = k) }) else e } := rfl
  rw [hexec, h]
  refine congrArg (fun l => Host.Outcome.next { s.setThread p { t with hold := .rulew k (ds.filter (· ≠ die)) } with cores := l }) ?_
  refine List.map_congr_left fun e _ => ?_
  unfold Core.invalidated
  split <;> rfl

end Sys2Proof.Machine

namespace Sys2Proof.Claims
open Sys2Proof.Machine

theorem ruleWrites : RuleWrites := by
  refine ⟨fun s i t s1 s2 h hstored => ?_, fun s die pre post p x t k dies hslots ht hold hmem hpre => ?_⟩
  · intro k e pa
    refine ⟨exec_rulew_illegal h s1 s2, fun hidx hok hwait => ?_, fun hidx hok hmay => ?_⟩
    · have hexec := (exec_rulew h s1 s2 hidx hok).trans (congrArg _ (if_neg (mt (s.mayStep_iff_mayAct ..).1 hwait)))
      rw [hexec]
      exact landsStaying_setThread (State.current_eq_some.1 h).1 _
    · have hexec := (exec_rulew h s1 s2 hidx hok).trans (congrArg _ (if_pos ((s.mayStep_iff_mayAct ..).2 hmay)))
      rw [hexec]
      have hmade := s.stepWrite_stepMade pa e
      have hread := s.stepWrite_read64 pa e hstored
      have hbytes := fun a ha => s.stepWrite_readByte pa e (a := a) ha
      have hframe := s.stepWrite_frame pa e
      change ∃ u dies, Host.Outcome.next ((s.stepWrite pa e).setThread i.place { t with hold := .rulew k s.inService }) = .next u ∧ _
      generalize s.stepWrite pa e = v at hmade hread hbytes hframe
      have hslots : v.slots = s.slots := congrArg (·.slots) hframe
      refine ⟨_, s.inService, rfl, State.thread_setThread_same .., fun d => ?_, hread, hbytes, fun r hr => ?_, hmade, ?_⟩
      · simp [State.inService]
      · rw [State.slot_setThread_other v hr]
        exact congrArg (fun l => lookupD {} r l) hslots
      · exact congrArg (fun z : State => { z with slots := s.slots }) hframe
  · have hfind : s.slots.findSome? (waitsForRule die) = some (p, t, k, dies) := by
      refine List.findSome?_eq_some_iff.2 ⟨pre, (p, x), post, hslots, waitsForRule_eq_some.2 ⟨_, _, _, ht, hold, hmem, rfl⟩, ?_⟩
      refine fun y hy => Option.eq_none_iff_forall_ne_some.2 fun r hr => ?_
      obtain ⟨v, j, ds, hv, hj, hin, -⟩ := waitsForRule_eq_some.1 hr
      exact (hpre y hy).2 v j ds hv hj hin
    have hcores := fun d c => (s.setThread p { t with hold := .rulew k (dies.filter (· ≠ die)) }).core_invalidated die t.ctx k d c
    refine ⟨_, exec_ruleInvalidate hfind, State.thread_setThread_same .., fun c e => ?_, fun d c hd => ?_, fun r hr => ?_, rfl⟩
    · rw [hcores, Core.invalidated, if_pos rfl]
      simp [State.core, imp_iff_not_or]
    · rw [hcores, Core.invalidated, if_neg hd]
      rfl
    · exact State.slot_setThread_other s hr _

end Sys2Proof.Claims
end

section
/-! SUPPORT. The statements of 14_hods_and_dispatch.md. Which record is taken (R238), and what the units' reads of nodes depend on
(R154, R235). -/

set_option Elab.async false

namespace Sys2Proof.Machine
open Sys2Proof.Claims

/-! ### The record taken first (R238) -/

theorem bestRecord_eq_none {l : List HodEntry} : bestRecord l = none ↔ l = [] := by
  cases l with
  | nil => simp [bestRecord]
  | cons e l =>
    cases h : bestRecord l with
    | none => simp [bestRecord, h]
    | some x => simp only [bestRecord, h]; split <;> simp

/-- No record of a list has a higher class than the one taken, and of those of its class it is the last. -/
theorem bestRecord_split {l : List HodEntry} {e : HodEntry} (h : bestRecord l = some e) : ∃ pre post, l = pre ++ e :: post ∧
    (∀ x ∈ pre, recPrio x.w0 ≤ recPrio e.w0) ∧ ∀ x ∈ post, recPrio x.w0 < recPrio e.w0 := by
  induction l generalizing e with
  | nil => cases h
  | cons a l ih =>
    cases hl : bestRecord l with
    | none =>
      obtain rfl : l = [] := bestRecord_eq_none.1 hl
      obtain rfl : a = e := by simpa [bestRecord] using h
      exact ⟨[], [], rfl, nofun, nofun⟩
    | some b =>
      simp only [bestRecord, hl] at h
      split at h
      · next hlt =>
        obtain rfl : a = e := Option.some.inj h
        obtain ⟨pre, post, rfl, hpre, hpost⟩ := ih hl
        refine ⟨[], _, rfl, nofun, fun x hx => ?_⟩
        rcases List.mem_append.1 hx with hx | hx
        · exact (hpre x hx).trans_lt hlt
        · rcases List.mem_cons.1 hx with rfl | hx
          · exact hlt
          · exact (hpost x hx).trans hlt
      · next hle =>
        obtain ⟨pre, post, rfl, hpre, hpost⟩ := ih (hl.trans h)
        obtain rfl : b = e := Option.some.inj h
        exact ⟨a :: pre, post, rfl, List.forall_mem_cons.2 ⟨Nat.not_lt.1 hle, hpre⟩, hpost⟩

/-- What may be dispatched for a context on a die. -/
def mayTake (s : State) (d ctx : Nat) (e : HodEntry) : Bool := recCtx e.w0 = ctx && e.eligible (s.die d).headroom.toNat

theorem mayTake_iff {s : State} {d ctx : Nat} {e : HodEntry} : mayTake s d ctx e = true ↔ e.w0.toNat / 2 ^ 58 = ctx ∧
    (e.w0.toNat / 2 ^ 56 % 4 = 3 ∨ e.w0.toNat / 2 ^ 54 % 4 ≤ (s.die d).headroom.toNat) := by
  simp only [mayTake, HodEntry.eligible, recCtx_eq, recPrio_eq, recEnergy_eq, Bool.and_eq_true, Bool.or_eq_true, decide_eq_true_eq]

theorem State.nextRecord_split {s : State} {d c ctx : Nat} {e : HodEntry} (h : s.nextRecord d c ctx = some e) :
    mayTake s d ctx e = true ∧ ∃ pre post, (s.core d c).hod = pre ++ e :: post ∧
      (∀ x ∈ pre, mayTake s d ctx x = true → recPrio x.w0 ≤ recPrio e.w0) ∧
      ∀ x ∈ post, mayTake s d ctx x = true → recPrio x.w0 < recPrio e.w0 := by
  obtain ⟨pre, post, hsplit, hpre, hpost⟩ := bestRecord_split (l := (s.core d c).hod.filter (mayTake s d ctx)) h
  obtain ⟨l1, l2, hhod, rfl, h2⟩ := List.filter_eq_append_iff.1 hsplit
  obtain ⟨m, l3, rfl, hm, he, rfl⟩ := List.filter_eq_cons_iff.1 h2
  refine ⟨he, l1 ++ m, l3, by rw [hhod, List.append_assoc], fun x hx hmay => ?_, fun x hx hmay => ?_⟩
  · rcases List.mem_append.1 hx with hx | hx
    · exact hpre x (List.mem_filter.2 ⟨hx, hmay⟩)
    · exact absurd hmay (hm x hx)
  · exact hpost x (List.mem_filter.2 ⟨hx, hmay⟩)

/-! ### What reading a node depends on (R154, R235, R359 to R361) -/

/-- Two states in which the units read nodes alike. -/
structure State.SameNodes (s x : State) : Prop where
  mem : x.mem = s.mem
  errors : x.errors = s.errors
  records : x.bar0.records = s.bar0.records
  ctxs : x.ctxs = s.ctxs
  chans : x.chans = s.chans
  arrivals : x.arrivals = s.arrivals
  sends : x.sends = s.sends
  stepped : x.stepped = s.stepped
  tlb : ∀ d, (x.die d).tlb = (s.die d).tlb
  partitions : ∀ d c, (x.core d c).partitions = (s.core d c).partitions
  evicted : ∀ d c, (x.core d c).evicted = (s.core d c).evicted

section SameNodes
variable {s x : State} (h : s.SameNodes x)
include h

theorem State.SameNodes.badRange (a n : Nat) : x.badRange a n = s.badRange a n :=
  congrArg (fun l : List Nat => l.any fun e => a ≤ e && e < a + n) h.errors

theorem State.SameNodes.walkFrom (va left table : Nat) : x.walkFrom va left table = s.walkFrom va left table := by
  induction left generalizing table with
  | zero => rfl
  | succ left ih => simp only [State.walkFrom, h.badRange, State.read64_congr h.mem, ih]

theorem State.SameNodes.leafOf (die ctx va : Nat) : x.leafOf die ctx va = s.leafOf die ctx va := by
  simp only [State.leafOf, State.walk, h.tlb, State.record_congr h.records, h.walkFrom]

theorem State.SameNodes.interleave (ctx set unit : Nat) : x.interleave ctx set unit = s.interleave ctx set unit := by
  simp only [State.interleave, State.readNat_congr h.mem, State.record_congr h.records]

theorem State.SameNodes.leafAddr (ctx : Nat) (e : Word) (off : Nat) : x.leafAddr ctx e off = s.leafAddr ctx e off := by
  simp only [State.leafAddr, h.interleave]

theorem State.SameNodes.partitionOk (ctx pa : Nat) : x.partitionOk ctx pa = s.partitionOk ctx pa := by
  simp only [State.partitionOk, h.partitions, h.evicted]

theorem State.SameNodes.check (die ctx : Nat) (a : Access) (va : Word) (n : Nat) : x.check die ctx a va n = s.check die ctx a va n := by
  simp only [State.check, State.translate, h.leafOf, h.leafAddr, h.partitionOk]

theorem State.SameNodes.paAway (ctx pa : Nat) : x.paAway ctx pa = s.paAway ctx pa := by
  simp only [State.paAway, h.evicted]

theorem State.SameNodes.behind (die pa : Nat) : x.behind die pa = s.behind die pa := by
  simp only [State.behind, h.chans, h.arrivals, h.sends]

theorem State.SameNodes.readNode (die ctx : Nat) (n : Word) : x.readNode die ctx n = s.readNode die ctx n := by
  simp only [State.readNode, h.check, h.paAway, h.behind, h.stepped, h.badRange, State.read64_congr h.mem]

theorem State.SameNodes.classOf (ctx tag : Nat) : x.classOf ctx tag = s.classOf ctx tag := by
  simp only [State.classOf, State.ctxInfo?, h.ctxs]

theorem State.SameNodes.nodeBlocks (die ctx : Nat) (ns : List Word) : nodeBlocks x die ctx ns = nodeBlocks s die ctx ns := by
  simp only [Claims.nodeBlocks, h.check]

end SameNodes

end Sys2Proof.Machine

namespace Sys2Proof.Claims
open Sys2Proof.Machine

theorem recordChoice : RecordChoice := by
  intro s d c ctx e h may
  obtain ⟨he, pre, post, hhod, hpre, hpost⟩ := State.nextRecord_split h
  simp only [mayTake_iff, recPrio_eq] at he hpre hpost
  exact ⟨he, pre, post, hhod, hpre, hpost⟩

end Sys2Proof.Claims
end

section
/-! SUPPORT. The statements of 14_hods_and_dispatch.md. The dispatcher: what a take leaves, and what becomes of a pair by its rule
(R28, R210 to R213, R238, R245, R341; logs 83, 88, 89 and 90). -/

set_option Elab.async false

namespace Sys2Proof.Machine
open Sys2Proof.Claims

/-! ### What a rule says (R210, R211), and when the unit takes a pair (R213, R241) -/

theorem ruleAction_eq (e : Word) : ruleAction e = if ruleOk e = true then e.toNat % 16 else 0 := by
  have hbad : (bits e 48 16 ≠ 0 || 5 < (bits e 0 4).toNat || ((bits e 0 4).toNat = 4 && bits e 8 40 = 0)) = true ↔
      ¬ ruleOk e = true := by
    simp only [ruleOk_iff, RuleOk, bits_eq_zero_iff e 8 40, high16_ne_zero_iff, action_toNat, Bool.or_eq_true, Bool.and_eq_true,
      decide_eq_true_eq]
    omega
  refine (if_congr hbad rfl (action_toNat e)).trans ?_
  rw [ite_not]

theorem ruleAction_of_ok {e : Word} (h : RuleOk e) : ruleAction e = e.toNat % 16 := by
  rw [ruleAction_eq, if_pos ((ruleOk_iff e).2 h)]

theorem ruleAction_eq_zero_iff (e : Word) : ruleAction e = 0 ↔ ¬ RuleOk e ∨ e.toNat % 16 = 0 := by
  by_cases h : RuleOk e
  · simp [ruleAction_of_ok h, h]
  · simp [ruleAction_eq, ruleOk_iff, h]

theorem ruleHandler_eq (e : Word) : ruleHandler e = BitVec.ofNat 64 (e.toNat / 2 ^ 8 % 2 ^ 40 * 8) := by
  apply BitVec.eq_of_toNat_eq
  simp [ruleHandler, zx, bits_toNat, Nat.shiftLeft_eq]

theorem State.unitOpen_iff (s : State) (d c ctx : Nat) : s.unitOpen d c ctx = true ↔ UnitOpen s d c ctx := by
  have hheld : ((s.core d c).held.filter fun r => r.ctx = ctx).length = (s.core d c).heldCount ctx := rfl
  simp only [UnitOpen, hheld]
  simp [State.unitOpen, Core.unitFree, and_assoc, imp_iff_not_or]

/-! ### Threads that start in a slot (R27, R28, R212, R341) -/

theorem callRegs_getD (a b : Word) (k : BitVec 5) : [0, a, b].getD k.toNat 0 = if k = 1 then a else if k = 2 then b else 0 := by
  have hone : k = 1 ↔ k.toNat = 1 := by rw [← BitVec.toNat_inj]; rfl
  have htwo : k = 2 ↔ k.toNat = 2 := by rw [← BitVec.toNat_inj]; rfl
  simp only [hone, htwo]
  rcases k.toNat with _ | _ | _ | n <;> simp

section Starts
variable (s : State) (p : Place) (ctx : Nat) (a b : Word)

/-- The thread of a call: its nodes in s1 and s2 (R28). -/
def State.called (s : State) (ctx : Nat) (handler a b : Word) : Thread :=
  Thread.begin s.nextId ctx handler [0, a, b] (s.record ctx 3) a

theorem State.callThread_eq (handler : Word) : s.callThread p ctx handler a b =
    { s with nextId := s.nextId + 1 }.setThread p (s.called ctx handler a b) := rfl

theorem State.called_started (handler : Word) : Started (s.called ctx handler a b) ctx handler
    (fun k => if k = 1 then a else if k = 2 then b else 0) (s.record ctx 3) := by
  have hstarted := Thread.begin_started s.nextId ctx handler [0, a, b] (s.record ctx 3) a
  simp only [callRegs_getD] at hstarted
  exact hstarted

/-- The thread of a fault at a pair (R212, R341). -/
def State.faulted (s : State) (ctx : Nat) (a b : Word) : Thread :=
  let t := s.called ctx (s.record ctx 3) a b
  { t with sys := { t.sys with trapcause := zx causeLink, trappc := 0, trapinfo := a } }

theorem State.faultThread_handler (h : s.record ctx 3 ≠ 0) : s.faultThread p ctx a b =
    { s with nextId := s.nextId + 1 }.setThread p (s.faulted ctx a b) := by
  have hstart : s.startThread p ctx (s.record ctx 3) [0, a, b] (s.record ctx 3) a =
      { s with nextId := s.nextId + 1 }.setThread p (s.called ctx (s.record ctx 3) a b) := rfl
  rw [State.faultThread, if_neg h, hstart, State.modThread, State.thread_setThread_same]
  exact State.setThread_setThread ..

theorem State.faultThread_fatal (h : s.record ctx 3 = 0) (haway : (s.slot p).heldAway = []) : s.faultThread p ctx a b =
    ((s.faultRecord ctx 1 causeLink (s.widAt p) 0 a).setFaulted ctx).setSlot p
      { s.slot p with thread := none, gen := nextGen (s.slot p).gen } := by
  have hslot : ((s.faultRecord ctx 1 causeLink (s.widAt p) 0 a).setFaulted ctx).slot p = s.slot p := rfl
  rw [State.faultThread, if_pos h, State.freeSlot, hslot]
  simp [genAfter, haway]

end Starts

/-! ### A record that is taken (R28, R238, R245) -/

/-- The state after a core has taken a record out of its hod. -/
def State.took (s : State) (p : Place) (ctx : Nat) (e : HodEntry) : State :=
  (s.modCore p.die p.core fun c => { c with hod := dropFirst (fun h => h == e) c.hod, lastTake := some s.cycle }).modStatus p.die ctx
    fun c => { c with consumed := c.consumed + 1 }

/-- The state `x` is `s` but for the hod and the last take of the core of a place, and what the dies count: the units read nodes and
rules alike in both. -/
structure State.TookFrom (s x : State) (p : Place) (hod : List HodEntry) (last : Option Nat) : Prop where
  core : x.core p.die p.core = { s.core p.die p.core with hod := hod, lastTake := last }
  frame : { x with cores := s.cores, dies := s.dies } = s
  nodes : s.SameNodes x

theorem State.tookFrom_self (s : State) (p : Place) :
    s.TookFrom s p (s.core p.die p.core).hod (s.core p.die p.core).lastTake :=
  ⟨rfl, rfl, ⟨rfl, rfl, rfl, rfl, rfl, rfl, rfl, rfl, fun _ => rfl, fun _ _ => rfl, fun _ _ => rfl⟩⟩

section Took
variable (s : State) (p : Place) (ctx : Nat) (e : HodEntry)

theorem State.took_die_tlb (d : Nat) : ((s.took p ctx e).die d).tlb = (s.die d).tlb := by
  by_cases h : d = p.die
  · subst h
    exact congrArg (·.tlb) (State.die_modDie_same ..)
  · exact congrArg (·.tlb) (State.die_modDie_other _ h _)

theorem State.took_coreIs : s.CoreIs { s.took p ctx e with dies := s.dies } p.die p.core { s.core p.die p.core with
    hod := dropFirst (fun h => h == e) (s.core p.die p.core).hod, lastTake := some s.cycle } :=
  s.coreIs_modCore p.die p.core fun c => { c with hod := dropFirst (fun h => h == e) c.hod, lastTake := some s.cycle }

theorem State.took_tookFrom : s.TookFrom (s.took p ctx e) p ((s.core p.die p.core).hod.erase e) (some s.cycle) := by
  obtain ⟨hcore, hothers, -⟩ := s.took_coreIs p ctx e
  rw [dropFirst_beq_eq_erase] at hcore
  have hsame (d c : Nat) : ((s.took p ctx e).core d c).partitions = (s.core d c).partitions ∧
      ((s.took p ctx e).core d c).evicted = (s.core d c).evicted := by
    by_cases h : (d, c) = (p.die, p.core)
    · obtain ⟨rfl, rfl⟩ := Prod.mk.inj h
      exact ⟨congrArg (·.partitions) hcore, congrArg (·.evicted) hcore⟩
    · exact ⟨congrArg (·.partitions) (hothers d c h), congrArg (·.evicted) (hothers d c h)⟩
  exact ⟨hcore, rfl, ⟨rfl, rfl, rfl, rfl, rfl, rfl, rfl, rfl, s.took_die_tlb p ctx e, fun d c => (hsame d c).1, fun d c => (hsame d c).2⟩⟩

theorem State.took_consumed :
    (((s.took p ctx e).die p.die).statusOf ctx).consumed = ((s.die p.die).statusOf ctx).consumed + 1 := by
  have hdie := (s.modCore p.die p.core fun c => { c with hod := dropFirst (fun h => h == e) c.hod, lastTake := some s.cycle }).die_modDie_same
    p.die fun x => { x with status := putKey ctx { x.statusOf ctx with consumed := (x.statusOf ctx).consumed + 1 } x.status }
  have hstatus : ((s.took p ctx e).die p.die).statusOf ctx =
      { (s.die p.die).statusOf ctx with consumed := ((s.die p.die).statusOf ctx).consumed + 1 } := by
    refine (congrArg (fun x : Die => x.statusOf ctx) hdie).trans ?_
    exact lookupD_putKey_same ..
  rw [hstatus]

end Took

/-- A core may take a record for a slot on this cycle, and it is this one (R28, R238). -/
def TakesFresh (s : State) (p : Place) (ctx : Nat) (e : HodEntry) : Prop :=
  (s.core p.die p.core).takeBusy = none ∧ (s.slot p).owner = some ctx ∧ (s.core p.die p.core).lastTake ≠ some s.cycle ∧
    (s.core p.die p.core).weightOf ctx ≠ 0 ∧ (s.core p.die p.core).resident ctx = true ∧ s.slotFor p ctx = true ∧
    s.nextRecord p.die p.core ctx = some e

section Takes
variable {s : State} {p : Place} {ctx : Nat} {e : HodEntry} (hhalt : (s.die p.die).halt = false)
include hhalt

theorem exec_dispatchTake_fresh (h : TakesFresh s p ctx e) :
    exec (.dispatchTake p) s = .next (((s.took p ctx e).dispatch p e).getD s) := by
  obtain ⟨hbusy, howner, hlast, hweight, hresident, hslot, hnext⟩ := h
  have hgo : ¬ ((s.die p.die).halt || (s.core p.die p.core).lastTake = some s.cycle || (s.core p.die p.core).weightOf ctx = 0 ||
      !(s.core p.die p.core).resident ctx || !s.slotFor p ctx) = true := by
    simp [hhalt, hlast, hweight, hresident, hslot]
  change execDispatchTake p s = _
  simp only [execDispatchTake, hbusy, howner, if_neg hgo, hnext]
  rfl

theorem exec_dispatchTake_again (hctx : recCtx e.w0 = ctx) (h : (s.core p.die p.core).takeBusy = some (p.slot, e)) :
    exec (.dispatchTake p) s = if s.unitOpen p.die p.core ctx = true then .next ((s.dispatch p e).getD s) else .next s := by
  change execDispatchTake p s = _
  simp only [execDispatchTake, h, hhalt, hctx, decide_true, Bool.not_false, Bool.true_and]

end Takes

/-! ### Reading the pair and its rule (R28, R154) -/

/-- The state after the dispatcher has read a pair and its rule, and the rule. -/
def State.takeRead (x : State) (p : Place) (ctx : Nat) (a b : Word) (idx : Nat) : State × Word :=
  ((x.readOn p.die ctx [a, b]).modCore p.die p.core fun c => { c with takeBusy := none }).ruleRead p.die p.core ctx idx

/-- The state `v` is `s` once a record is taken, and its pair and rule are read: of the core of the place only the hod, the last take,
the take that waits and the cached rules differ. -/
structure State.ReadyFrom (s v : State) (p : Place) (hod : List HodEntry) (last : Option Nat) (dies : List (Nat × Die)) : Prop where
  core : ∃ cache, v.core p.die p.core = { s.core p.die p.core with hod := hod, lastTake := last, takeBusy := none, cache := cache }
  frame : { v with cores := s.cores, dies := s.dies, stepped := s.stepped } = s
  dies : v.dies = dies

section TakeRead
variable {s x : State} {p : Place} {hod : List HodEntry} {last : Option Nat} (h : s.TookFrom x p hod last) (ctx idx : Nat) (a b : Word)
include h

theorem State.TookFrom.sameRules :
    s.SameRules ((x.readOn p.die ctx [a, b]).modCore p.die p.core fun c => { c with takeBusy := none }) p.die p.core := by
  have hcore := (x.readOn p.die ctx [a, b]).core_modCore_same p.die p.core fun c => { c with takeBusy := none }
  have hx : (x.readOn p.die ctx [a, b]).core p.die p.core = { s.core p.die p.core with hod := hod, lastTake := last } := h.core
  rw [hx] at hcore
  exact ⟨h.nodes.mem, h.nodes.records, congrArg (·.cache) hcore, congrArg (·.partitions) hcore⟩

theorem State.TookFrom.takeRead_rule : (x.takeRead p ctx a b idx).2 = (s.ruleRead p.die p.core ctx idx).2 :=
  (h.sameRules ctx a b).rule ctx idx

theorem State.TookFrom.takeRead_readOn : RuleReadOn s (x.takeRead p ctx a b idx).1 p.die p.core ctx idx
    (s.ruleRead p.die p.core ctx idx).2 := by
  rw [← h.takeRead_rule ctx idx a b]
  exact (h.sameRules ctx a b).readOn ctx idx rfl (State.ruleRead_readOn ..)

theorem State.TookFrom.mem_takeRead_stepped (k : Nat) : k ∈ (x.takeRead p ctx a b idx).1.stepped ↔
    k ∈ nodeBlocks s p.die ctx [a, b] ∨ k ∈ s.stepped ∨
      ¬ RuleCached s p.die p.core ctx idx ∧ k = rulePlace s ctx idx / 256 * 256 := by
  have hrules := h.sameRules ctx a b
  have hstepped : ((x.readOn p.die ctx [a, b]).modCore p.die p.core fun c => { c with takeBusy := none }).stepped =
      nodeBlocks s p.die ctx [a, b] ++ s.stepped := by
    rw [← h.nodes.nodeBlocks, ← h.nodes.stepped]
    rfl
  rw [State.takeRead, State.mem_ruleRead_stepped, hrules.cached, hrules.place, hstepped, List.mem_append, or_assoc]

theorem State.TookFrom.readyFrom : s.ReadyFrom (x.takeRead p ctx a b idx).1 p hod last x.dies := by
  have hbusy := (x.readOn p.die ctx [a, b]).coreIs_modCore p.die p.core fun c => { c with takeBusy := none }
  have hx : (x.readOn p.die ctx [a, b]).core p.die p.core = { s.core p.die p.core with hod := hod, lastTake := last } := h.core
  obtain ⟨cache, hcache⟩ := State.ruleRead_coreIs ((x.readOn p.die ctx [a, b]).modCore p.die p.core fun c => { c with takeBusy := none })
    p.die p.core ctx idx
  have hcore := hcache.core
  have hframe := hcache.frame
  rw [hbusy.core, hx] at hcore
  refine ⟨⟨cache, hcore⟩, ?_, ?_⟩
  · exact (congrArg (fun z : State => { z with cores := s.cores, dies := s.dies, stepped := s.stepped }) hframe).trans
      (congrArg (fun z : State => { z with stepped := s.stepped }) h.frame)
  · have hdies := congrArg State.dies hframe
    exact hdies

end TakeRead

end Sys2Proof.Machine
end

section
/-! SUPPORT. The statements of 14_hods_and_dispatch.md. What DISPATCH_TAKE does with a pair (R28, R210 to R213, R238, R341; logs 83,
88, 89 and 90). -/

set_option Elab.async false

namespace Sys2Proof.Machine
open Sys2Proof.Claims

/-! ### What becomes of a pair by its rule (R211 to R213) -/

/-- The rewrite that the unit of a core begins (R213). -/
def newRewrite (n ctx : Nat) (p : Place) (act : Nat) (e : HodEntry) (a b : Word) : Rewrite :=
  { uid := n, ctx := ctx, die := p.die, core := p.core, action := BitVec.ofNat 4 act, w0 := e.w0, w1 := e.w1, a := a, b := b,
    begun := false, faulted := false, writes := [], todo := [], cur := none, frees := [] }

/-- What a take does once the pair and its rule are read: `bad` says that one of the nodes is. -/
def State.actOn (v : State) (rule : Word) (p : Place) (e : HodEntry) (a b : Word) (bad : Bool) : State :=
  if bad || ruleAction rule = 0 then v.faultThread p (recCtx e.w0) a b
  else if ruleAction rule = 4 then v.callThread p (recCtx e.w0) (ruleHandler rule) a b
  else if !v.unitOpen p.die p.core (recCtx e.w0) then v.modCore p.die p.core fun c => { c with takeBusy := some (p.slot, e) }
  else { v with nextId := v.nextId + 1 }.modCore p.die p.core fun c =>
    { c with rewrites := c.rewrites ++ [newRewrite v.nextId (recCtx e.w0) p (ruleAction rule) e a b] }

section Dispatch
variable {x : State} {p : Place} {ctx : Nat} {e : HodEntry} (hctx : recCtx e.w0 = ctx)
include hctx

theorem State.dispatch_away (h : x.readNode p.die ctx (recA e.w0) = .away ∨ x.readNode p.die ctx (recB e.w1) = .away) :
    x.dispatch p e = none := by
  subst hctx
  rcases h with h | h
  · simp only [State.dispatch, h]
  · cases hx : x.readNode p.die (recCtx e.w0) (recA e.w0) <;> simp only [State.dispatch, hx, h]

theorem State.dispatch_unreadable {d : NodeRead} (hd : d ≠ .away)
    (h : x.readNode p.die ctx (recA e.w0) = .bad ∧ x.readNode p.die ctx (recB e.w1) = d ∨
      x.readNode p.die ctx (recA e.w0) = d ∧ x.readNode p.die ctx (recB e.w1) = .bad) :
    x.dispatch p e = some (((x.readOn p.die ctx [recA e.w0, recB e.w1]).modCore p.die p.core fun c =>
      { c with takeBusy := none }).faultThread p ctx (recA e.w0) (recB e.w1)) := by
  subst hctx
  rcases h with ⟨hx, hy⟩ | ⟨hx, hy⟩
  all_goals
    cases d with
    | away => exact absurd rfl hd
    | bad => simp only [State.dispatch, hx, hy]
    | ok => simp only [State.dispatch, hx, hy]

variable {hx px qx qx' hy py qy qy' : Word} {x3 y3 : Nat}

theorem State.dispatch_ok (hrx : x.readNode p.die ctx (recA e.w0) = .ok hx px qx qx' x3)
    (hry : x.readNode p.die ctx (recB e.w1) = .ok hy py qy qy' y3) {first : Prop} [Decidable first] {idx : Nat}
    (hfirst : firstIsA (x.classOf ctx (nodeTag hx)) (x.classOf ctx (nodeTag hy)) (recA e.w0) (recB e.w1) = true ↔ first)
    (hidx : (if first then x.classOf ctx (nodeTag hx) * 256 + x.classOf ctx (nodeTag hy)
      else x.classOf ctx (nodeTag hy) * 256 + x.classOf ctx (nodeTag hx)) = idx) :
    x.dispatch p e = if x.ruleBusy p.die p.core ctx idx = true then none else
      some ((x.takeRead p ctx (recA e.w0) (recB e.w1) idx).1.actOn (x.takeRead p ctx (recA e.w0) (recB e.w1) idx).2 p e
        (if first then recA e.w0 else recB e.w1) (if first then recB e.w1 else recA e.w0)
        (nodeBad hx qx qx' || nodeBad hy qy qy')) := by
  subst hctx hidx
  have hclass (tag : Nat) : ((x.readOn p.die (recCtx e.w0) [recA e.w0, recB e.w1]).modCore p.die p.core fun c =>
      { c with takeBusy := none }).classOf (recCtx e.w0) tag = x.classOf (recCtx e.w0) tag := rfl
  simp only [State.dispatch, hrx, hry, hclass, hfirst]
  unfold State.actOn
  rw [apply_ite some, apply_ite some, apply_ite some]
  rfl

end Dispatch

section ActOn
variable {v : State} {rule : Word} {p : Place} {ctx : Nat} {e : HodEntry} {a b : Word} {bad : Bool} (hctx : recCtx e.w0 = ctx)
include hctx

theorem State.actOn_fault (h : bad = true ∨ ruleAction rule = 0) : v.actOn rule p e a b bad = v.faultThread p ctx a b := by
  subst hctx
  exact if_pos (by simpa using h)

theorem State.actOn_call (hbad : bad = false) (hact : ruleAction rule = 4) :
    v.actOn rule p e a b bad = v.callThread p ctx (ruleHandler rule) a b := by
  subst hctx
  rw [State.actOn, if_neg (by simp [hbad, hact]), if_pos hact]

variable (hbad : bad = false) (hzero : ruleAction rule ≠ 0) (hcall : ruleAction rule ≠ 4)
include hbad hzero hcall

theorem State.actOn_waits (hopen : v.unitOpen p.die p.core ctx = false) :
    v.actOn rule p e a b bad = v.modCore p.die p.core fun c => { c with takeBusy := some (p.slot, e) } := by
  subst hctx
  rw [State.actOn, if_neg (by simp [hbad, hzero]), if_neg hcall, if_pos (by simp [hopen])]

theorem State.actOn_begins (hopen : v.unitOpen p.die p.core ctx = true) : v.actOn rule p e a b bad =
    { v with nextId := v.nextId + 1 }.modCore p.die p.core fun c =>
      { c with rewrites := c.rewrites ++ [newRewrite v.nextId ctx p (ruleAction rule) e a b] } := by
  subst hctx
  rw [State.actOn, if_neg (by simp [hbad, hzero]), if_neg hcall, if_neg (by simp [hopen])]

end ActOn

/-! ### What acting on a pair leaves alone, and what a fault does (R212, R341) -/

/-- The state `u` is what acting on a pair makes of `v`: no byte, no die, no other slot, and of the core of the place neither the hod nor
the last take differs. -/
structure State.Acted (v u : State) (p : Place) : Prop where
  hod : (u.core p.die p.core).hod = (v.core p.die p.core).hod
  lastTake : (u.core p.die p.core).lastTake = (v.core p.die p.core).lastTake
  die : ∀ d, u.die d = v.die d
  slots : ∀ r, r ≠ p → u.slot r = v.slot r
  bytes : ∀ k, u.readByte k = v.readByte k

section Acts
variable {v : State} {p : Place}

theorem State.acted_setThread (t : Thread) : v.Acted ({ v with nextId := v.nextId + 1 }.setThread p t) p :=
  ⟨rfl, rfl, fun _ => rfl, fun _ hr => State.slot_setThread_other _ hr _, fun _ => rfl⟩

theorem State.faultThread_acted (ctx : Nat) (a b : Word) (haway : (v.slot p).heldAway = []) : v.Acted (v.faultThread p ctx a b) p := by
  by_cases h : v.record ctx 3 = 0
  · rw [State.faultThread_fatal v p ctx a b h haway]
    exact ⟨rfl, rfl, fun _ => rfl, fun _ hr => State.slot_setSlot_other _ hr _, fun _ => rfl⟩
  · rw [State.faultThread_handler v p ctx a b h]
    exact State.acted_setThread _

theorem State.actOn_acted {rule : Word} {e : HodEntry} {a b : Word} {bad : Bool} (haway : (v.slot p).heldAway = []) :
    v.Acted (v.actOn rule p e a b bad) p := by
  unfold State.actOn
  split
  · exact State.faultThread_acted _ a b haway
  · split
    · exact State.acted_setThread _
    · split
      · have hcore := v.core_modCore_same p.die p.core fun c => { c with takeBusy := some (p.slot, e) }
        exact ⟨congrArg (·.hod) hcore, congrArg (·.lastTake) hcore, fun _ => rfl, fun _ _ => rfl, fun _ => rfl⟩
      · have hcore := { v with nextId := v.nextId + 1 }.core_modCore_same p.die p.core fun c =>
          { c with rewrites := c.rewrites ++ [newRewrite v.nextId (recCtx e.w0) p (ruleAction rule) e a b] }
        exact ⟨congrArg (·.hod) hcore, congrArg (·.lastTake) hcore, fun _ => rfl, fun _ _ => rfl, fun _ => rfl⟩

theorem State.faultThread_cores (ctx : Nat) (a b : Word) (haway : (v.slot p).heldAway = []) :
    (v.faultThread p ctx a b).cores = v.cores := by
  by_cases h : v.record ctx 3 = 0
  · rw [State.faultThread_fatal v p ctx a b h haway]
    rfl
  · rw [State.faultThread_handler v p ctx a b h]
    rfl

/-- The thread of a fault starts at the context's handler with the pair in s1 and s2, and the fault in its trap registers. -/
theorem State.faultThread_starts (ctx : Nat) (a b : Word) {h : Word} (hrec : v.record ctx 3 = h) (hne : h ≠ 0) :
    ∃ t, (v.faultThread p ctx a b).thread? p = some t ∧ t.nodeA = a ∧ t.sys.trapcause = BitVec.ofNat 64 causeLink.toNat ∧
      t.sys.trappc = 0 ∧ t.sys.trapinfo = a ∧ Started { t with sys := { t.sys with trapcause := 0, trapinfo := 0 } } ctx h
        (fun k => if k = 1 then a else if k = 2 then b else 0) h := by
  subst hrec
  refine ⟨v.faulted ctx a b, ?_, rfl, rfl, rfl, rfl, v.called_started ctx a b _⟩
  rw [State.faultThread_handler v p ctx a b hne, State.thread_setThread_same]

/-- With no handler the fault is fatal: its slot stays empty, and the context's bit in FAULTED is set. -/
theorem State.faultThread_kills (ctx : Nat) (a b : Word) (hrec : v.record ctx 3 = 0) (haway : (v.slot p).heldAway = []) :
    (v.faultThread p ctx a b).thread? p = none ∧ (ctx < 64 → (v.faultThread p ctx a b).bar0.faulted.getLsbD ctx = true) := by
  rw [State.faultThread_fatal v p ctx a b hrec haway]
  refine ⟨?_, fun hlt => ?_⟩
  · simp [State.thread?]
  · have hbit : (w64 (2 ^ ctx)).getLsbD ctx = true := by
      simp only [w64, BitVec.getLsbD_ofNat, hlt, Nat.testBit_two_pow, decide_true, Bool.true_and]
    change (_ ||| w64 (2 ^ ctx)).getLsbD ctx = true
    rw [BitVec.getLsbD_or, hbit, Bool.or_true]

end Acts

/-! ### What a taken pair's state shares with the one before (R28, R238) -/

section Ready
variable {s v : State} {p : Place} {hod : List HodEntry} {last : Option Nat} {dies : List (Nat × Die)} (h : s.ReadyFrom v p hod last dies)
include h

theorem State.ReadyFrom.slots : v.slots = s.slots := congrArg (·.slots) h.frame
theorem State.ReadyFrom.mem : v.mem = s.mem := congrArg (·.mem) h.frame
theorem State.ReadyFrom.bar0 : v.bar0 = s.bar0 := congrArg (·.bar0) h.frame
theorem State.ReadyFrom.nextId : v.nextId = s.nextId := congrArg (·.nextId) h.frame
theorem State.ReadyFrom.fresh : v.fresh = s.fresh := congrArg (·.fresh) h.frame

theorem State.ReadyFrom.slot (r : Place) : v.slot r = s.slot r := congrArg (fun l => lookupD ({} : Slot) r l) h.slots
theorem State.ReadyFrom.readByte (a : Nat) : v.readByte a = s.readByte a := congrArg (fun m => sparseRead unlisted m a) h.mem
theorem State.ReadyFrom.record (ctx k : Nat) : v.record ctx k = s.record ctx k := State.record_congr (congrArg (·.records) h.bar0) ctx k

theorem State.ReadyFrom.unitOpen (ctx : Nat) : v.unitOpen p.die p.core ctx = true ↔ UnitOpen s p.die p.core ctx := by
  obtain ⟨cache, hcore⟩ := h.core
  have hheld : (v.core p.die p.core).held = (s.core p.die p.core).held := congrArg (·.held) hcore
  have hrewrites : (v.core p.die p.core).rewrites = (s.core p.die p.core).rewrites := congrArg (·.rewrites) hcore
  rw [State.unitOpen_iff, UnitOpen, UnitOpen, hheld, hrewrites, h.fresh]

end Ready

/-- Reading a pair leaves the dies as the take left them. -/
theorem State.TookFrom.die_ready {s x v : State} {p : Place} {hod : List HodEntry} {last : Option Nat} (h : s.TookFrom x p hod last)
    (hready : s.ReadyFrom v p hod last x.dies) (d : Nat) : v.die d = x.die d := by
  have hv : v.fuses = s.fuses := congrArg (·.fuses) hready.frame
  have hx : x.fuses = s.fuses := congrArg (·.fuses) h.frame
  rw [State.die, hv, hready.dies, State.die, hx]

/-! ### A take by its rule (R28, R154) -/

section ByRule
variable {s x : State} {p : Place} {hod : List HodEntry} {last : Option Nat} (h : s.TookFrom x p hod last)
include h

theorem State.TookFrom.ruleBusy_iff (ctx idx : Nat) : x.ruleBusy p.die p.core ctx idx = true ↔ RuleWaits s p.die p.core ctx idx := by
  have hcache : (x.core p.die p.core).cache = (s.core p.die p.core).cache := congrArg (·.cache) h.core
  have hplace : rulePlace x ctx idx = rulePlace s ctx idx := by rw [rulePlace, State.record_congr h.nodes.records, rulePlace]
  rw [State.ruleBusy_iff, RuleWaits, RuleCached, hcache, hplace, h.nodes.stepped, RuleWaits, RuleCached]

variable {ctx : Nat} {e : HodEntry} {hx px qx qx' hy py qy qy' : Word} {x3 y3 : Nat} (hctx : recCtx e.w0 = ctx)
  (hrx : s.readNode p.die ctx (recA e.w0) = .ok hx px qx qx' x3) (hry : s.readNode p.die ctx (recB e.w1) = .ok hy py qy qy' y3)
  {first : Prop} [Decidable first] {idx : Nat}
  (hfirst : firstIsA (s.classOf ctx (nodeTag hx)) (s.classOf ctx (nodeTag hy)) (recA e.w0) (recB e.w1) = true ↔ first)
  (hidx : (if first then s.classOf ctx (nodeTag hx) * 256 + s.classOf ctx (nodeTag hy)
    else s.classOf ctx (nodeTag hy) * 256 + s.classOf ctx (nodeTag hx)) = idx)
include hctx hrx hry hfirst hidx

theorem State.TookFrom.dispatch_waits (hwait : RuleWaits s p.die p.core ctx idx) : x.dispatch p e = none := by
  rw [← h.nodes.readNode] at hrx hry
  rw [← h.nodes.classOf, ← h.nodes.classOf] at hfirst hidx
  rw [State.dispatch_ok hctx hrx hry hfirst hidx, if_pos ((h.ruleBusy_iff ctx idx).2 hwait)]

/-- Once its pair and its rule can be read, a take acts by the rule. -/
theorem State.TookFrom.dispatch_acts (hgo : ¬ RuleWaits s p.die p.core ctx idx) : ∃ v,
    x.dispatch p e = some (v.actOn (s.ruleRead p.die p.core ctx idx).2 p e (if first then recA e.w0 else recB e.w1)
      (if first then recB e.w1 else recA e.w0) (nodeBad hx qx qx' || nodeBad hy qy qy')) ∧
    s.ReadyFrom v p hod last x.dies ∧ RuleReadOn s v p.die p.core ctx idx (s.ruleRead p.die p.core ctx idx).2 ∧
    ∀ k, k ∈ v.stepped ↔ k ∈ nodeBlocks s p.die ctx [recA e.w0, recB e.w1] ∨ k ∈ s.stepped ∨
      ¬ RuleCached s p.die p.core ctx idx ∧ k = rulePlace s ctx idx / 256 * 256 := by
  rw [← h.nodes.readNode] at hrx hry
  rw [← h.nodes.classOf, ← h.nodes.classOf] at hfirst hidx
  refine ⟨(x.takeRead p ctx (recA e.w0) (recB e.w1) idx).1, ?_, h.readyFrom ctx idx _ _, h.takeRead_readOn ctx idx _ _,
    h.mem_takeRead_stepped ctx idx _ _⟩
  rw [State.dispatch_ok hctx hrx hry hfirst hidx, if_neg (mt (h.ruleBusy_iff ctx idx).1 hgo), h.takeRead_rule]

end ByRule

end Sys2Proof.Machine

namespace Sys2Proof.Claims
open Sys2Proof.Machine

theorem dispatchCalls : DispatchCalls := by
  intro s p ctx e hx px qx x3 qx' hy py qy y3 qy' hbusy howner hhalt hlast hweight hresident hslot hnext x y hrx hry hbx hby
    cx cy first idx rule
  have hctx : recCtx e.w0 = ctx := by
    obtain ⟨hmay, -⟩ := State.nextRecord_split hnext
    exact (recCtx_eq e.w0).trans (mayTake_iff.1 hmay).1
  have hexec := exec_dispatchTake_fresh hhalt ⟨hbusy, howner, hlast, hweight, hresident, hslot, hnext⟩
  have htook := s.took_tookFrom p ctx e
  refine ⟨fun hwait => ?_, fun hgo hhigh hcall hhandler => ?_⟩
  · rw [hexec, htook.dispatch_waits hctx hrx hry firstIsA_iff rfl hwait]
    rfl
  · obtain ⟨v, hdispatch, hready, hread, hstepped⟩ := htook.dispatch_acts hctx hrx hry (first := first) (idx := idx) firstIsA_iff rfl hgo
    have hok : RuleOk rule := ⟨by omega, by omega, fun _ => hhandler⟩
    rw [State.actOn_call hctx (by rw [hbx, hby]; rfl) ((ruleAction_of_ok hok).trans hcall), State.callThread_eq,
      ruleHandler_eq] at hdispatch
    rw [hexec, hdispatch]
    have hstarted := v.called_started ctx (if first then x else y) (if first then y else x)
      (BitVec.ofNat 64 (rule.toNat / 2 ^ 8 % 2 ^ 40 * 8))
    rw [hready.record] at hstarted
    obtain ⟨cache, hcore⟩ := hready.core
    have hconsumed := s.took_consumed p ctx e
    refine ⟨_, _, rfl, State.thread_setThread_same .., hready.nextId, hstarted, rfl, congrArg (·.hod) hcore, ?_,
      congrArg (·.lastTake) hcore, hread, hstepped, fun r hr => ?_, hready.readByte⟩
    · exact (congrArg (fun x : Die => (x.statusOf ctx).consumed) (htook.die_ready hready p.die)).trans hconsumed
    · exact (State.slot_setThread_other _ hr _).trans (hready.slot r)

/-- How a take goes on, of a record taken now or of one that waited. -/
theorem exec_dispatchTake_goes {s : State} {p : Place} {ctx : Nat} {e : HodEntry} (hctx : recCtx e.w0 = ctx)
    (hhalt : (s.die p.die).halt = false)
    (hgo : TakesFresh s p ctx e ∨ (s.core p.die p.core).takeBusy = some (p.slot, e) ∧ UnitOpen s p.die p.core ctx) :
    ∃ x hod last, exec (.dispatchTake p) s = .next ((x.dispatch p e).getD s) ∧ s.TookFrom x p hod last ∧
      (TakesFresh s p ctx e → hod = (s.core p.die p.core).hod.erase e ∧ last = some s.cycle ∧
        ((x.die p.die).statusOf ctx).consumed = ((s.die p.die).statusOf ctx).consumed + 1) ∧
      ((s.core p.die p.core).takeBusy = some (p.slot, e) → hod = (s.core p.die p.core).hod) := by
  rcases hgo with hfresh | ⟨hagain, hopen⟩
  · refine ⟨s.took p ctx e, _, _, exec_dispatchTake_fresh hhalt hfresh, s.took_tookFrom p ctx e,
      fun _ => ⟨rfl, rfl, s.took_consumed p ctx e⟩, fun hagain => ?_⟩
    exact absurd (hfresh.1.symm.trans hagain) nofun
  · refine ⟨s, _, _, ?_, s.tookFrom_self p, fun hfresh => absurd (hfresh.1.symm.trans hagain) nofun, fun _ => rfl⟩
    rw [exec_dispatchTake_again hhalt hctx hagain, if_pos ((s.unitOpen_iff ..).2 hopen)]

theorem dispatchActions : DispatchActions := by
  intro s p ctx e hx px qx x3 qx' hy py qy y3 qy' hctx hslot haway hhalt c0 fresh again free x y
  refine ⟨fun hagain hclosed => ?_, fun hgo hrx hry => ?_,
    fun hgo hnode => ?_, fun hfresh d hnode hd hhandler => ?_⟩
  · rw [exec_dispatchTake_again hhalt hctx hagain, if_neg (mt (s.unitOpen_iff ..).1 hclosed)]
  · intro bad cx cy first a b idx rule act h
    obtain ⟨x0, hod, last, hexec, htook, hfresh, hagain⟩ := exec_dispatchTake_goes hctx hhalt hgo
    refine ⟨fun hwait => ?_, fun hread => ?_⟩
    · rw [hexec, htook.dispatch_waits hctx hrx hry firstIsA_iff rfl hwait]
      rfl
    obtain ⟨v, hdispatch, hready, -, -⟩ := htook.dispatch_acts hctx hrx hry (first := first) (idx := idx) firstIsA_iff rfl hread
    obtain ⟨cache, hcore⟩ := hready.core
    have hbusy : (v.core p.die p.core).takeBusy = none := congrArg (·.takeBusy) hcore
    have hrewrites : (v.core p.die p.core).rewrites = c0.rewrites := congrArg (·.rewrites) hcore
    have hhod : (v.core p.die p.core).hod = hod := congrArg (·.hod) hcore
    have hlast : (v.core p.die p.core).lastTake = last := congrArg (·.lastTake) hcore
    have hvaway : (v.slot p).heldAway = [] := by rw [hready.slot, haway]
    have hbad : (nodeBad hx qx qx' || nodeBad hy qy qy') = true ↔ bad := Bool.or_eq_true_iff
    have hacted := State.actOn_acted (rule := rule) (e := e) (a := a) (b := b) (bad := nodeBad hx qx qx' || nodeBad hy qy qy') hvaway
    have hnext : exec (.dispatchTake p) s = .next (v.actOn rule p e a b (nodeBad hx qx qx' || nodeBad hy qy qy')) := by
      rw [hexec, hdispatch]
      rfl
    refine ⟨_, hnext, fun hf => ?_, fun ha => hacted.hod.trans (hhod.trans (hagain ha)), fun r hr => (hacted.slots r hr).trans (hready.slot r),
      fun k => (hacted.bytes k).trans (hready.readByte k), fun hfault => ?_, fun hgood hok hzero hcall => ?_⟩
    · obtain ⟨hhod', hlast', hconsumed⟩ := hfresh hf
      refine ⟨hacted.hod.trans (hhod.trans hhod'), hacted.lastTake.trans (hlast.trans hlast'), ?_⟩
      rw [hacted.die, htook.die_ready hready, hconsumed]
    · rw [State.actOn_fault hctx (by rw [hbad, ruleAction_eq_zero_iff]; exact hfault)]
      have hcores := State.core_congr (State.faultThread_cores ctx a b hvaway) p.die p.core
      rw [hcores]
      exact ⟨hbusy, hrewrites, State.faultThread_starts ctx a b (hready.record ctx 3),
        fun hnone => State.faultThread_kills ctx a b ((hready.record ctx 3).trans hnone) hvaway⟩
    · have hgood' : (nodeBad hx qx qx' || nodeBad hy qy qy') = false := Bool.eq_false_iff.2 (mt hbad.1 hgood)
      have hact : ruleAction rule = act := ruleAction_of_ok hok
      have hzero' : ruleAction rule ≠ 0 := fun hz => hzero (hact.symm.trans hz)
      have hcall' : ruleAction rule ≠ 4 := fun hc => hcall (hact.symm.trans hc)
      by_cases hfree : free
      · rw [State.actOn_begins hctx hgood' hzero' hcall' ((hready.unitOpen ctx).2 hfree), hact]
        have hjob := { v with nextId := v.nextId + 1 }.core_modCore_same p.die p.core fun c =>
          { c with rewrites := c.rewrites ++ [newRewrite v.nextId ctx p act e a b] }
        refine ⟨hready.slot p, fun _ => ⟨?_, ?_, ?_⟩, fun hclosed => absurd hfree hclosed⟩
        · rw [hjob]
          exact hbusy
        · exact congrArg (· + 1) hready.nextId
        · rw [hjob, ← hrewrites, ← hready.nextId]
          rfl
      · rw [State.actOn_waits hctx hgood' hzero' hcall' (Bool.eq_false_iff.2 (mt (hready.unitOpen ctx).1 hfree))]
        have hwaits := v.core_modCore_same p.die p.core fun c => { c with takeBusy := some (p.slot, e) }
        refine ⟨hready.slot p, fun hopen => absurd hopen hfree, fun _ => ⟨?_, ?_⟩⟩
        · rw [hwaits]
        · rw [hwaits]
          exact hrewrites
  · rcases hgo with hf | ha
    · obtain ⟨x0, hod, last, hexec, htook, -, -⟩ := exec_dispatchTake_goes hctx hhalt (.inl hf)
      rw [← htook.nodes.readNode, ← htook.nodes.readNode] at hnode
      rw [hexec, State.dispatch_away hctx hnode]
      rfl
    · rw [exec_dispatchTake_again hhalt hctx ha, State.dispatch_away hctx hnode]
      exact ite_self _
  · have htook := s.took_tookFrom p ctx e
    rw [← htook.nodes.readNode, ← htook.nodes.readNode] at hnode
    have hexec := exec_dispatchTake_fresh hhalt hfresh
    rw [State.dispatch_unreadable hctx hd hnode] at hexec
    obtain ⟨t, ht, -, hcause, -, hinfo, hstarted⟩ := State.faultThread_starts
      (v := ((s.took p ctx e).readOn p.die ctx [x, y]).modCore p.die p.core fun c => { c with takeBusy := none }) (p := p) ctx x y
      (State.record_congr rfl ctx 3) hhandler
    obtain ⟨-, -, hregs, -⟩ := hstarted
    exact ⟨_, t, hexec, ht, hinfo, hregs 1, hregs 2, hcause⟩

/-- Settles O30: the rules' writes, the choice of record, and a take by what its rule says. -/
theorem dispatching : Obligations.Dispatching := ⟨ruleWrites, recordChoice, dispatchCalls, dispatchActions⟩

end Sys2Proof.Claims
end
